-- ==== Sys2Proof/Word.lean ====
section
/-! DEFINITION. The word and byte types of the block. -/

namespace Sys2Proof

/-- What a register holds: 64 bits; a 32-bit register uses the low 32 (R56). -/
abbrev Word := BitVec 64

/-- One byte of memory. -/
abbrev Byte := BitVec 8

end Sys2Proof
end

