-- ==== Sys2Proof/Syntax.lean ====
section
/-! DEFINITION. The commands of the block: one constructor per row of spec/opcode_table.json, in its order. The table gives no
operands; each constructor takes what the rule it names needs to know of the event (log 9). -/

namespace Sys2Proof

/-- One command: one event of the block (spec/opcode_table.json). -/
inductive Instr where
  /-- REGISTER_WRITE, R6: A write to a register with no row of its own stores its value under the field's change class, or is refused whole. -/
  | registerWrite (brand : Nat) (die : Nat) (off : Nat) (size : Nat) (data : Word) (t : Nat) (draw : Nat)
  /-- RC_READ, R10: A read covering every byte of an RC field returns it and clears it. -/
  | rcRead (brand : Nat) (die : Nat) (off : Nat) (len : Nat) (t : Nat)
  /-- BEL_START, R75: BEL_CTRL.start moves a Stopped timebase to Flywheel and takes the first tick. -/
  | belStart (t : Nat)
  /-- BELL_EDGE, R73: A rising Bell edge is placed and judged as good, glitch or reference edge. -/
  | bellEdge (t : Nat)
  /-- BELL_LOSS, R75: No good edge by P + tol after the last tick: Flywheel is entered and a flywheel tick taken. -/
  | bellLoss (t : Nat)
  /-- INTERNAL_TICK, R76: An internal tick falls due at the last tick instant plus BEL_MEAS.meas in Flywheel or Lone. -/
  | internalTick (t : Nat)
  /-- FLYWHEEL_EXHAUSTED, R75: The flywheel count of 64 ends without relock and the timebase enters Lone or Lone-PTP. -/
  | flywheelExhausted (t : Nat)
  /-- RELOCK_LAPSE, R76: No good edge by the accepted edge plus P + tol lapses qualification and takes a tick. -/
  | relockLapse (t : Nat)
  /-- PTP_TICK, R76: A PTP tick instant falls due in Lone-PTP, or at entry to it. -/
  | ptpTick (t : Nat)
  /-- TICK_MOMENT, R82: Phase 0 of a tick: counter increments, Bell-class writes apply, Ration boundary closes and phase-0 entries run. -/
  | tickMoment (mon : Nat)
  /-- TICK_PHASE1, R82: Phase 1 of a tick runs its calendar entries 16 µs after the tick moment. -/
  | tickPhase1 (draw : Nat)
  /-- TICK_PHASE2, R82: Phase 2 of a tick runs its calendar entries 32 µs after the tick moment. -/
  | tickPhase2 (ok : Bool) (status : Nat) (pin : Nat)
  /-- PDK_CREATE, R100: PDK_CMD op 1 checks and creates a paddock with fences and gate entries. -/
  | pdkCreate (n : Nat)
  /-- PDK_DELETE, R103: PDK_CMD op 2 deletes a paddock, regathering it first if it runs. -/
  | pdkDelete (n : Nat)
  /-- PDK_REGATHER, R111: PDK_CMD op 3 triggers a regather with cause 0x2. -/
  | pdkRegather (n : Nat)
  /-- REGATHER_DRAIN_END, R112: The drain of G3 ends and G4 writes the reset fence record and discards MSI-X. -/
  | regatherDrainEnd (n : Nat) (t : Nat)
  /-- REGATHER_CLEAR_DONE, R112: Step G5 completes: the paddock's state is cleared. -/
  | regatherClearDone (n : Nat)
  /-- PDK_VEC_WRITE, R109: A write of PDK_VEC sets routing and sends waiting events at once when coalesce is cleared. -/
  | pdkVecWrite (n : Nat) (k : Nat) (data : Word)
  /-- SRIOV_VF_ENABLE_CHANGE, R103: Clearing VF Enable or lowering NumVFs deletes the paddocks of removed VFs. -/
  | sriovVfEnableChange (enable : Bool) (num : Nat)
  /-- BUNDLE_ISSUE, R137: In a core cycle the chosen ready task issues one bundle whole or raises an exception. -/
  | bundleIssue (c : Nat)
  /-- TASK_START, R130: LEA_TCTL.start runs a halted task from its entry address. -/
  | taskStart (c : Nat) (task : Nat)
  /-- TASK_RESUME, R130: LEA_TCTL.resume runs a halted task from its pc. -/
  | taskResume (c : Nat) (task : Nat)
  /-- TASK_STOP, R157: LEA_TCTL.stop halts the task before its next issue. -/
  | taskStop (c : Nat) (task : Nat)
  /-- MAT_WLD, R173: Starts loading a weight block into the active plane. -/
  | matWld (c : Nat)
  /-- MAT_MMA, R173: Starts K-looped matrix multiply-accumulate into an accumulator. -/
  | matMma (c : Nat)
  /-- MAT_MMS, R173: Starts streaming activations against the stationary plane. -/
  | matMms (c : Nat)
  /-- MAT_MMT, R173: Starts streaming a tile register against the stationary plane. -/
  | matMmt (c : Nat)
  /-- M_OP_COMPLETE, R179: A matrix operation completes, freeing its queue entry and accumulator. -/
  | mOpComplete (c : Nat)
  /-- RESIDUE_CHECK, R183: The checker compares written elements with their residue shadows. -/
  | residueCheck (c : Nat)
  /-- VEC_UN, R210: Starts a unary vector operation. -/
  | vecUn (c : Nat)
  /-- VEC_BIN, R210: Starts a binary vector operation. -/
  | vecBin (c : Nat)
  /-- VEC_BINS, R210: Starts a vector operation with a scalar operand. -/
  | vecBins (c : Nat)
  /-- VEC_RED, R214: Starts a reduction along dimension 0. -/
  | vecRed (c : Nat)
  /-- VEC_FILL, R210: Starts filling a tensor with a scalar. -/
  | vecFill (c : Nat)
  /-- VEC_EPI, R216: Starts the fused epilogue from an accumulator. -/
  | vecEpi (c : Nat)
  /-- VEC_ACCLD, R217: Starts loading an accumulator. -/
  | vecAccld (c : Nat)
  /-- V_OP_COMPLETE, R225: A vector operation completes and its writes become visible. -/
  | vOpComplete (c : Nat)
  /-- VWDATA_WRITE, R227: A write through LEA_VWDATA sets a word of the selected slot, tile or accumulator. -/
  | vwdataWrite (brand : Nat) (c : Nat) (k : Nat) (data : Word)
  /-- SP_WORD_SERVE, R243: A W-phase port serves one waiting word chosen by age and class. -/
  | spWordServe (c : Nat) (wr : Bool) (bank : Nat) (region : Nat)
  /-- SP_ECC_WRITEBACK, R249: A corrected word is written back in a free write cycle. -/
  | spEccWriteback (c : Nat) (w : Nat)
  /-- SP_WINDOW_ACCESS, R236: A Pasture access through a scratchpad window is presented as class P requests. -/
  | spWindowAccess (brand : Nat) (c : Nat) (wr : Bool) (off : Nat) (len : Nat) (data : List Nat)
  /-- SPBSEL_WRITE, R258: A write of LEA_SPBSEL selects a port and clears LEA_SPBCNT. -/
  | spbselWrite (c : Nat) (data : Word)
  /-- ROUTE_SLOT, R265: Every router of a paddock executes one slot entry. -/
  | routeSlot (n : Nat)
  /-- HOLD_CONDITION_MET, R280: A core's hurdle condition becomes true and its hold bit clears. -/
  | holdConditionMet (c : Nat)
  /-- HURDLE_HELD, R281: At a hurdle with verdict 1 no router executes a slot. -/
  | hurdleHeld (n : Nat)
  /-- LONG_HOLD, R286: A hold standing 64 bt posts a long-hold record. -/
  | longHold (n : Nat)
  /-- MSH_PUT, R270: Starts moving flits from a tensor or tile into the injection FIFO. -/
  | mshPut (c : Nat)
  /-- MSH_GET, R270: Starts moving flits from the ejection FIFO. -/
  | mshGet (c : Nat)
  /-- MSH_DROP, R270: Starts popping and discarding flits. -/
  | mshDrop (c : Nat)
  /-- MSH_COMMIT, R272: A stream-bound mesh operation commits once its buffer is ready. -/
  | mshCommit (c : Nat) (eng : Nat)
  /-- X_OP_COMPLETE, R274: An X operation completes, freeing its queue entry. -/
  | xOpComplete (c : Nat) (eng : Nat)
  /-- MSH_RPDATA_ACCESS, R264: An MSH_RPDATA access reads or writes a slot entry and may advance the slot. -/
  | mshRpdataAccess (brand : Nat) (c : Nat) (wr : Bool) (data : Word)
  /-- STRM_ACQ, R315: Waits for the context's buffer to be ready. -/
  | strmAcq (c : Nat)
  /-- STRM_REL, R315: Releases the context's buffer. -/
  | strmRel (c : Nat)
  /-- STRM_RESUME, R315: Resumes a halted stream context. -/
  | strmResume (c : Nat)
  /-- STRM_REARM, R315: Requests a re-arm of a stream context. -/
  | strmRearm (c : Nat)
  /-- DRV_ARM, R305: DRV_CTL.arm checks and arms a context. -/
  | drvArm (u : Nat) (k : Nat) (t : Nat)
  /-- DRV_HALT, R323: DRV_CTL.halt halts an armed context at its position. -/
  | drvHalt (u : Nat) (k : Nat)
  /-- DRV_RESUME, R324: A resume command moves a halted context back to Armed. -/
  | drvResume (u : Nat) (k : Nat)
  /-- DRV_REARM, R331: A re-arm request or doorbell sets rearm_req. -/
  | drvRearm (u : Nat) (k : Nat)
  /-- REARM_TAKE_EFFECT, R331: A requested re-arm takes effect at end of stream. -/
  | rearmTakeEffect (u : Nat) (k : Nat) (t : Nat)
  /-- DRV_REQUEST_FORM, R321: The earliest-deadline context forms one request and stamps its deadline. -/
  | drvRequestForm (u : Nat) (t : Nat)
  /-- TRANSLATION_WALK, R376: A request is translated through the paddock's page tables. -/
  | translationWalk (i : Nat)
  /-- DRV_READ_RESPONSE, R311: A read response writes its bytes to a buffer or destination. -/
  | drvReadResponse (i : Nat)
  /-- DRV_WRITE_ACK, R311: A write acknowledgement may complete a chunk. -/
  | drvWriteAck (i : Nat)
  /-- SHARE_WINDOW_START, R361: A new admission window starts with used counts of 0. -/
  | shareWindowStart (cyc : Nat)
  /-- SHARE_GRANT, R361: A shared target grants one admission in a window slot. -/
  | shareGrant (t : Nat) (cyc : Nat)
  /-- MEMORY_READ, R370: A memory port serves a read with inline-ECC checking. -/
  | memoryRead (i : Nat)
  /-- MEMORY_WRITE, R354: A memory port stores a write and acknowledges it. -/
  | memoryWrite (i : Nat)
  /-- MEMORY_SCRUB, R372: A port reads a line for scrubbing in an idle cycle. -/
  | memoryScrub (p : Nat)
  /-- HOST_PATH_WRITE, R354: H0 takes a host-path write into its posted queue. -/
  | hostPathWrite (i : Nat)
  /-- HOST_PATH_READ, R353: H0 sends a host-path read request. -/
  | hostPathRead (i : Nat)
  /-- HOST_READ_COMPLETION, R359: A host completion returns data or status 3. -/
  | hostReadCompletion (i : Nat) (ok : Bool) (ep : Bool) (data : List Nat)
  /-- HOST_WRITE_DISCARD, R355: A write waiting 45 µs at H0 is discarded with status host-lost. -/
  | hostWriteDiscard (i : Nat)
  /-- COMPLETION_TIMEOUT, R682: A host read times out and is answered with status 3. -/
  | completionTimeout (i : Nat)
  /-- BAR0_ACCESS, R50: A TLP to PF or VF BAR0 is decoded and sent to its target. -/
  | bar0Access (t : Nat) (f : Nat) (tag : Nat) (wr : Bool) (off : Nat) (len : Nat) (data : Word) (draw : Nat)
  /-- BAR2_ACCESS, R52: A TLP to PF BAR2 reaches external memory. -/
  | bar2Access (tag : Nat) (wr : Bool) (off : Nat) (len : Nat) (data : List Nat)
  /-- TRANSLATION_COMPLETION, R382: An ATS Translation Completion grants or denies a host-backed access. -/
  | translationCompletion (i : Nat) (kind : Nat) (ta : Nat) (size : Nat) (r : Bool) (w : Bool)
  /-- PAGE_REQUEST, R383: H0 sends a waiting Page Request when capacity allows. -/
  | pageRequest
  /-- PRG_RESPONSE, R383: A PRG Response resumes or faults waiting contexts. -/
  | prgResponse (idx : Nat) (code : Nat)
  /-- INVALIDATE_REQUEST, R384: An ATS Invalidate Request discards cached host translations. -/
  | invalidateRequest (tag : Nat) (pasid : Nat) (base : Nat) (size : Nat)
  /-- INVALIDATION_START, R378: PST_INVCTL.go starts invalidation of a range of a root. -/
  | invalidationStart
  /-- INVALIDATION_DONE, R378: The invalidation completes and done_seq increments. -/
  | invalidationDone
  /-- WHS_SEND, R398: Sends a tagged Whistle message. -/
  | whsSend (c : Nat)
  /-- WHS_CSEND, R398: Sends a connected Whistle message. -/
  | whsCsend (c : Nat)
  /-- WHS_OPEN, R400: Opens a connection from a local entry. -/
  | whsOpen (c : Nat)
  /-- WHS_LISTEN, R400: Makes a local entry a listener. -/
  | whsListen (c : Nat)
  /-- WHS_CLOSE, R402: Closes a sender entry or cancels a listener. -/
  | whsClose (c : Nat)
  /-- WHS_RECV, R398: Moves the head entry of a receive queue to the scratchpad. -/
  | whsRecv (c : Nat)
  /-- WHISTLE_MESSAGE, R403: A message arrives and is landed, spilled, refused or unmatched. -/
  | whistleMessage (i : Nat)
  /-- SPILL_DRAIN, R407: The oldest spilled message lands once its key can take it. -/
  | spillDrain (c : Nat) (key : Nat)
  /-- OPEN_REQUEST, R400: An open request binds a listening entry, waits, or is refused. -/
  | openRequest (i : Nat)
  /-- OPEN_REPLY, R400: The reply makes the sender entry Open or Failed. -/
  | openReply (i : Nat)
  /-- CLOSE_MARKER, R402: The close marker closes the receiver entry and may post an end notice. -/
  | closeMarker (i : Nat)
  /-- WHISTLE_ACK, R398: An acknowledgement frees a send-table slot. -/
  | whistleAck (i : Nat)
  /-- BUSY_REFUSAL, R408: A busy refusal keeps the message for resend. -/
  | busyRefusal (i : Nat) (t : Nat)
  /-- WHISTLE_RESEND, R408: A refused message is resent 2 µs later. -/
  | whistleResend (c : Nat) (sid : Nat) (t : Nat)
  /-- WHISTLE_BRAND_FAULT, R412: A gate refusal drops the message and posts a fault record. -/
  | whistleBrandFault (i : Nat)
  /-- WHS_RQPOP, R416: A write of WHS_RQPOP discards head entries of queues. -/
  | whsRqpop (c : Nat) (data : Word)
  /-- TLY_SIG, R428: Sends a release add to a counter. -/
  | tlySig (c : Nat)
  /-- TLY_WAIT, R430: Sends a head-stall wait request for a counter condition. -/
  | tlyWait (c : Nat)
  /-- TLY_WATCH, R432: Registers a watch and writes the result word. -/
  | tlyWatch (c : Nat)
  /-- TLY_READ, R425: Writes a counter's value to the scratchpad. -/
  | tlyRead (c : Nat)
  /-- TLY_UNWATCH, R434: Cancels an unfired watch and writes the result word. -/
  | tlyUnwatch (c : Nat)
  /-- TALLY_ADD, R424: A Tally unit applies an add and evaluates waits and watches. -/
  | tallyAdd (i : Nat)
  /-- TALLY_WAIT_REQUEST, R430: A wait request reaches its counter's unit. -/
  | tallyWaitRequest (i : Nat)
  /-- TALLY_WAIT_ANSWER, R430: The unit's answer completes a TLY.WAIT at the core. -/
  | tallyWaitAnswer (i : Nat)
  /-- TALLY_REFUSAL, R438: A gate-refused Tally operation faults with subcode 0x04. -/
  | tallyRefusal (i : Nat)
  /-- TLY_CNT_WRITE, R442: A write sets a counter and re-evaluates its waits and watches. -/
  | tlyCntWrite (u : Nat) (i : Nat) (data : Word)
  /-- TLY_ADD_WRITE, R429: A write of TLY_ADD adds to a counter. -/
  | tlyAddWrite (u : Nat) (i : Nat) (data : Word)
  /-- TLY_WATCH_CANCEL, R443: Writing 1 to TLY_WATCH.valid cancels an unfired watch. -/
  | tlyWatchCancel (u : Nat) (k : Nat)
  /-- BYR_GET, R460: A task gets a buffer from an owned pool. -/
  | byrGet (c : Nat)
  /-- BYR_PUT, R461: A task puts a buffer back. -/
  | byrPut (c : Nat)
  /-- BYRE_GET, R456: Byre applies a get by the grant rule. -/
  | byreGet (i : Nat)
  /-- BYRE_PUT, R461: Byre applies a put and pushes the buffer on the free list. -/
  | byrePut (i : Nat)
  /-- BYR_HGET, R461: Host software gets a buffer through BYR_HGET. -/
  | byrHget (brand : Nat) (d : Nat) (data : Word)
  /-- BYR_HPUT, R461: Host software puts a buffer by physical address. -/
  | byrHput (d : Nat) (data : Word)
  /-- BYRE_CREATE, R450: BYR_PCMD op 1 checks and starts creating a pool. -/
  | byreCreate (d : Nat) (j : Nat)
  /-- BYRE_CREATE_DONE, R450: The pool's region and ledger are zeroed and its free list built. -/
  | byreCreateDone (d : Nat)
  /-- BYRE_DESTROY, R450: BYR_PCMD op 2 destroys a pool. -/
  | byreDestroy (d : Nat) (j : Nat)
  /-- BYRE_REBUILD, R465: BYR_PCMD op 3 starts rebuilding the free list from the ledger. -/
  | byreRebuild (d : Nat) (j : Nat)
  /-- BYRE_REBUILD_DONE, R465: The rebuilt free list takes effect. -/
  | byreRebuildDone (d : Nat) (j : Nat)
  /-- BYRE_AUDIT, R467: BYR_PCMD op 4 starts a leak audit. -/
  | byreAudit (d : Nat) (j : Nat)
  /-- BYRE_AUDIT_DONE, R467: The audit buckets are complete. -/
  | byreAuditDone (d : Nat)
  /-- FLD_LOAD, R490: FLD_CMD op 1 requests a load and schedules class 0x20. -/
  | fldLoad (n : Nat)
  /-- HST_FOLDDB, R490: The Fold doorbell requests a load as FLD_CMD op 1. -/
  | hstFolddb (n : Nat)
  /-- FLD_SWAP, R494: FLD_CMD op 2 requests a section swap. -/
  | fldSwap (n : Nat) (k : Nat)
  /-- FLD_VERIFY, R487: FLD_CMD op 3 verifies an image without loading it. -/
  | fldVerify (n : Nat)
  /-- FOLD_LOAD_DONE, R490: L2 ends and the load schedules its section start. -/
  | foldLoadDone (n : Nat)
  /-- GOLDEN_DONE, R490: The last background golden block is written. -/
  | goldenDone (n : Nat)
  /-- SWAP_PLAY_DONE, R495: The swap's play ends and its section start is scheduled. -/
  | swapPlayDone (n : Nat)
  /-- SWAP_DROPPED, R495: A swap not parked after 64 bt is dropped with err 11. -/
  | swapDropped (n : Nat)
  /-- FOLD_RELOAD_DONE, R497: The G6 reload completes, or strands the paddock. -/
  | foldReloadDone (n : Nat)
  /-- EPOCH_CLOSE, R507: An integrity paddock becomes quiet and its epoch closes. -/
  | epochClose (n : Nat)
  /-- EPOCH_DECIDE, R511: The controller decides the closed epoch and commits it. -/
  | epochDecide (n : Nat)
  /-- QUENCH, R516: An epoch failure starts a quench (Q1). -/
  | quench (n : Nat)
  /-- QUENCH_DRAIN_END, R516: The quench drain ends, state is cleared and replay is scheduled. -/
  | quenchDrainEnd (n : Nat)
  /-- DRAIN_SEND, R513: The committed drain sends the next held entry. -/
  | drainSend (n : Nat)
  /-- COPY_PREPARED, R520: The standby marks a bank prepared and replies (C2). -/
  | copyPrepared (n : Nat)
  /-- COPY_COMMIT, R520: The standby commits the copy (C3). -/
  | copyCommit (n : Nat)
  /-- FAILOVER, R522: A failover trigger discards uncommitted banks and exchanges roles. -/
  | failover (n : Nat)
  /-- FAILOVER_RESTORE_DONE, R522: The standby's state restore (F2) completes. -/
  | failoverRestoreDone (n : Nat)
  /-- FAIL_OVER_NOW, R521: PDK_WPCMD op 1 starts a failover of the standby. -/
  | failOverNow (n : Nat)
  /-- RE_PAIR, R525: PDK_WPCMD op 2 re-pairs and requests a full copy. -/
  | rePair (n : Nat)
  /-- UNPAIR, R519: PDK_WPCMD op 3 dissolves the watch pair. -/
  | unpair (n : Nat)
  /-- WALKER_FRAME_READ, R542: The Walker reads one static frame and cleans, corrects or reloads it. -/
  | walkerFrameRead (d : Nat)
  /-- WALKER_RELOAD, R545: A frame is rewritten from its golden record and read back. -/
  | walkerReload (d : Nat) (ok : Bool)
  /-- WALKER_SLICE_END, R541: A slice ends at 32 µs before the next tick moment. -/
  | walkerSliceEnd (d : Nat)
  /-- MUSTER_ROUND, R548: A round of core tests starts on a die. -/
  | musterRound (d : Nat)
  /-- MUSTER_CORE_TEST_END, R547: A core test ends with pass or fail. -/
  | musterCoreTestEnd (p : Nat) (ok : Bool) (unit : Nat)
  /-- MUSTER_SLICE_END, R552: A shared-block test slice ends. -/
  | musterSliceEnd (b : Nat) (ok : Bool)
  /-- MUSTER_SLICE_YIELD, R553: A slice yields to an urgent request. -/
  | musterSliceYield (b : Nat)
  /-- MUSTER_STARVED, R554: A block without a completed slice for 64 bt schedules a forced slice. -/
  | musterStarved (b : Nat)
  /-- COLUMN_PAUSE_END, R559: The moved cores' state is copied and the paused paddocks resume. -/
  | columnPauseEnd
  /-- ENERGY_SAMPLE, R578: Every 1 µs the controller samples energy and may set Ration holds. -/
  | energySample (t : Nat) (spent : Nat) (outside : Nat) (pads : List Nat) (peak : List Nat) (held : List Nat) (dyn : List Nat) (leak : List Nat) (run : List Nat) (hold : List Nat) (tj : List Nat) (tjs : List Nat) (tjm : List Nat)
  /-- GRANT_STALE, R573: No grant for stale_bt ticks replaces the grant by the floor. -/
  | grantStale
  /-- INLET_STALE, R587: No inlet value for 16 bt sets f_cool to the ceiling. -/
  | inletStale
  /-- TELEMETRY_COMPARE, R594: Each 64 bt PMBus power is compared with measured energy. -/
  | telemetryCompare
  /-- SMBALERT, R593: SMBALERT# makes K0 read every rail's STATUS_WORD. -/
  | smbalert (st : List Nat)
  /-- GRANT, R591: Ration bus GRANT writes the grant. -/
  | grant (v : Nat) (pec : Bool)
  /-- INLET, R591: Ration bus INLET writes the inlet temperature. -/
  | inlet (v : Nat) (pec : Bool)
  /-- SPENT, R591: Ration bus SPENT returns the last tick's figures. -/
  | spent
  /-- BELL, R591: Ration bus BELL returns BEL_STATUS. -/
  | bell
  /-- LIMITS, R591: Ration bus LIMITS returns envelope, floor and limits. -/
  | limits
  /-- RECORD_WRITE, R610: A record write phase 1 is started in the commit window. -/
  | recordWrite
  /-- RECORD_COMMIT, R610: The read-back passes and the commit mark is written. -/
  | recordCommit (ok : Bool)
  /-- COMMIT_WINDOW_END, R609: The window ends 40 µs before the next tick moment. -/
  | commitWindowEnd
  /-- FBK_RSEL_WRITE, R623: A write of FBK_RSEL latches a slot into FBK_RDATA. -/
  | fbkRselWrite (data : Word)
  /-- FBK_FIND, R623: A write of FBK_FIND latches the record with a seq. -/
  | fbkFind (data : Word)
  /-- FBK_CALSET, R619: A write sets the calendar and stages a time record. -/
  | fbkCalset (data : Word)
  /-- FBK_CAL_READ, R619: A read of FBK_CAL latches FBK_CALSUB. -/
  | fbkCalRead
  /-- FTF_MARK, R640: Generates a MARK trace record at retirement. -/
  | ftfMark (c : Nat)
  /-- TRACE_LINE_DELIVER, R643: The sink accepts a trace line and writes it into a buffer. -/
  | traceLineDeliver (c : Nat)
  /-- FLUSH, R641: FTF_PCTL.flush closes partial lines and the buffer. -/
  | flush (n : Nat)
  /-- RELEASE, R648: FTF_PCTL.release ends a crook stop. -/
  | release (n : Nat)
  /-- DUMP, R649: FTF_PCTL.dump starts a state dump of the stopped paddock. -/
  | dump (n : Nat) (sp : Bool)
  /-- DUMP_DONE, R649: The dump completes and dumped is set. -/
  | dumpDone (n : Nat)
  /-- SINK_RESUME, R644: FTF_PCTL.sink_resume restarts the sink. -/
  | sinkResume (n : Nat)
  /-- CROOK_STOP_DONE, R647: Step K3 completes and stopped reads 1. -/
  | crookStopDone (n : Nat)
  /-- RING_CONFIGURE, R665: A ring register write initialises or stops a ring. -/
  | ringConfigure (f : Nat) (kind : Nat) (k : Nat) (data : Word)
  /-- SUBMISSION_DOORBELL, R666: HST_SQDB makes submission entries available. -/
  | submissionDoorbell (f : Nat) (k : Nat) (t : Nat)
  /-- HEAD_DOORBELL, R666: A completion, fault or event doorbell frees entries. -/
  | headDoorbell (f : Nat) (kind : Nat) (k : Nat) (h : Nat)
  /-- SUBMISSION_FETCH, R667: H0 fetches an entry into a staging buffer. -/
  | submissionFetch (f : Nat) (k : Nat) (ws : List Nat)
  /-- STAGE_GET_RETRY, R667: A refused staging get is repeated every 1 µs. -/
  | stageGetRetry (f : Nat) (k : Nat) (ws : List Nat)
  /-- NOP, R669: Submission NOP completes at once. -/
  | nop (f : Nat) (k : Nat)
  /-- SQ_FENCE, R669: Submission FENCE waits for earlier completions. -/
  | sqFence (f : Nat) (k : Nat)
  /-- TADD, R669: Submission TADD adds to a counter. -/
  | tadd (f : Nat) (k : Nat)
  /-- TWAIT, R669: Submission TWAIT waits on a counter with a host wait. -/
  | twait (f : Nat) (k : Nat)
  /-- REARM, R669: Submission REARM writes a re-arm doorbell. -/
  | rearm (f : Nat) (k : Nat)
  /-- STREAM, R670: Submission STREAM arms a far context as a copy. -/
  | stream (f : Nat) (k : Nat)
  /-- FOLD, R669: Submission FOLD requests a load or swap. -/
  | fold (f : Nat) (k : Nat)
  /-- COMPLETION_POST, R672: A completion is written to its ring when an entry is free. -/
  | completionPost (f : Nat) (k : Nat) (t : Nat)
  /-- FAULT_RECORD_POST, R677: A staged fault record is written to a fault queue. -/
  | faultRecordPost (f : Nat)
  /-- EVENT_RECORD_POST, R677: A staged record is written to the PF event ring. -/
  | eventRecordPost
  /-- VF_FLR, R683: FLR of a VF starts a regather with cause 0x1. -/
  | vfFlr (n : Nat)
  /-- PF_FLR, R683: FLR of the PF disables VFs and deletes every paddock. -/
  | pfFlr
  /-- LINK_DOWN, R684: The link leaves L0 and every function is reset. -/
  | linkDown
  /-- LINK_UP, R684: The link returns to L0. -/
  | linkUp (t : Nat) (speed : Nat) (width : Nat) (flit : Bool)
  /-- PERST_ASSERT, R761: PERST_N asserts a link reset. -/
  | perstAssert
  /-- PERST_DEASSERT, R761: PERST_N deasserts and link training starts. -/
  | perstDeassert
  /-- D3HOT_ENTRY, R663: A function enters D3hot and holds its MSI-X. -/
  | d3hotEntry (f : Nat)
  /-- D0_RETURN, R663: A function returns to D0 and sends held MSI-X. -/
  | d0Return (f : Nat)
  /-- CONFIG_REQUEST, R766: A configuration request is answered or retried. -/
  | configRequest (t : Nat) (f : Nat) (tag : Nat) (wrt : Bool) (o : Nat) (be : Nat) (data : Word)
  /-- ETH_PORT_UP, R697: A port's PCS and FEC lock. -/
  | ethPortUp (q : Nat)
  /-- ETH_PORT_DOWN, R697: A port loses lock and its paths die. -/
  | ethPortDown (q : Nat)
  /-- KEEPALIVE_SEND, R702: H0 sends a KEEPALIVE on a path every 100 µs. -/
  | keepaliveSend (j : Nat) (t : Nat)
  /-- KEEPALIVE, R702: A received KEEPALIVE keeps or revives a path. -/
  | keepalive (q : Nat) (t : Nat) (hi : Word) (lo : Word) (pkg : Word)
  /-- PATH_DEAD_TIMEOUT, R702: 300 µs without a KEEPALIVE declares a path dead. -/
  | pathDeadTimeout (j : Nat) (t : Nat)
  /-- DATA, R704: A received DATA packet is applied, held, or treated as duplicate. -/
  | data (q : Nat) (hi : Word) (lo : Word) (pkg : Word) (r : Nat) (op : Nat) (sq : Nat) (ack : Nat) (body : List Nat) (data : List Nat)
  /-- ACK, R704: A received ACK frees outstanding packets. -/
  | ack (q : Nat) (t : Nat) (hi : Word) (lo : Word) (pkg : Word) (r : Nat) (ack : Nat) (hold : Bool)
  /-- REFUSE, R707: A received REFUSE fails its operation. -/
  | refuse (q : Nat) (t : Nat) (hi : Word) (lo : Word) (pkg : Word) (r : Nat) (sq : Nat) (status : Nat) (ack : Nat)
  /-- FRAME_DROP, R703: A frame that is not accepted is dropped and counted. -/
  | frameDrop (q : Nat)
  /-- RETRANSMIT, R704: An unacknowledged packet is resent every rto_us. -/
  | retransmit (i : Nat) (t : Nat)
  /-- ROUTE_TIMEOUT, R708: A packet outstanding for route_to_us kills the route. -/
  | routeTimeout (r : Nat) (t : Nat)
  /-- ROUTE_WORD0_WRITE, R709: A write of route word 0 resets the route. -/
  | routeWord0Write (r : Nat) (data : Word)
  /-- PFC_FRAME, R701: A received PFC frame pauses or resumes a priority. -/
  | pfcFrame (q : Nat) (t : Nat) (vec : Nat) (quanta : List Nat)
  /-- PTP_SYNC, R714: A Sync updates the PTP offset and lock. -/
  | ptpSync (t : Nat) (ofs : Word)
  /-- PTP_SYNC_LOSS, R714: No Sync for 8 intervals loses PTP lock. -/
  | ptpSyncLoss
  /-- SET_ENDPOINT_ID, R722: MCTP Set Endpoint ID. -/
  | setEndpointId (b : Nat) (op : Nat) (eid : Nat)
  /-- GET_ENDPOINT_ID, R722: MCTP Get Endpoint ID. -/
  | getEndpointId (b : Nat)
  /-- GET_ENDPOINT_UUID, R722: MCTP Get Endpoint UUID. -/
  | getEndpointUuid (b : Nat)
  /-- GET_MCTP_VERSION_SUPPORT, R722: MCTP Get MCTP Version Support. -/
  | getMctpVersionSupport (b : Nat) (typ : Nat)
  /-- GET_MESSAGE_TYPE_SUPPORT, R722: MCTP Get Message Type Support. -/
  | getMessageTypeSupport (b : Nat)
  /-- MCTP_RESPONSE_DROP, R723: A response not accepted in 100 ms is dropped. -/
  | mctpResponseDrop (b : Nat)
  /-- GETTID, R724: PLDM GetTID. -/
  | gettid (b : Nat)
  /-- SETTID, R724: PLDM SetTID. -/
  | settid (b : Nat) (v : Nat)
  /-- GETPLDMVERSION, R724: PLDM GetPLDMVersion. -/
  | getpldmversion (b : Nat) (ty : Nat)
  /-- GETPLDMTYPES, R724: PLDM GetPLDMTypes. -/
  | getpldmtypes (b : Nat)
  /-- GETPLDMCOMMANDS, R724: PLDM GetPLDMCommands. -/
  | getpldmcommands (b : Nat) (ty : Nat)
  /-- SETEVENTRECEIVER, R726: PLDM SetEventReceiver names the event receiver. -/
  | seteventreceiver (b : Nat) (mode : Nat) (eid : Nat)
  /-- GETEVENTRECEIVER, R724: PLDM GetEventReceiver. -/
  | geteventreceiver (b : Nat)
  /-- GETSENSORREADING, R725: PLDM GetSensorReading. -/
  | getsensorreading (b : Nat) (i : Nat)
  /-- GETSTATESENSORREADINGS, R725: PLDM GetStateSensorReadings. -/
  | getstatesensorreadings (b : Nat) (i : Nat)
  /-- SETSTATEEFFECTERSTATES, R725: PLDM SetStateEffecterStates: shut-down or snapshot. -/
  | setstateeffecterstates (b : Nat) (e : Nat) (v : Nat)
  /-- GETPDRREPOSITORYINFO, R724: PLDM GetPDRRepositoryInfo. -/
  | getpdrrepositoryinfo (b : Nat)
  /-- GETPDR, R724: PLDM GetPDR. -/
  | getpdr (b : Nat) (h : Nat)
  /-- GETDATETIME, R727: PLDM GetDateTime returns FBK_CAL. -/
  | getdatetime (b : Nat)
  /-- SETDATETIME, R727: PLDM SetDateTime writes FBK_CALSET. -/
  | setdatetime (b : Nat) (y : Nat) (m : Nat) (d : Nat) (h : Nat) (mi : Nat) (sec : Nat)
  /-- QUERYDEVICEIDENTIFIERS, R724: PLDM QueryDeviceIdentifiers. -/
  | querydeviceidentifiers (b : Nat)
  /-- GETFIRMWAREPARAMETERS, R724: PLDM GetFirmwareParameters. -/
  | getfirmwareparameters (b : Nat)
  /-- REQUESTUPDATE, R738: PLDM RequestUpdate enters update mode. -/
  | requestupdate (b : Nat)
  /-- PASSCOMPONENTTABLE, R738: PLDM PassComponentTable. -/
  | passcomponenttable (b : Nat) (id : Nat) (last : Bool)
  /-- UPDATECOMPONENT, R738: PLDM UpdateComponent starts writing the idle slot. -/
  | updatecomponent (b : Nat) (id : Nat) (ver : Nat) (svn : Nat) (size : Nat) (slot : Nat)
  /-- REQUESTFIRMWAREDATA, R738: A response to the device's RequestFirmwareData delivers a block. -/
  | requestfirmwaredata (b : Nat) (n : Nat) (pass : Bool)
  /-- APPLYCOMPLETE, R738: The component is written and ApplyComplete is sent. -/
  | applycomplete
  /-- ACTIVATEFIRMWARE, R740: PLDM ActivateFirmware starts live activation. -/
  | activatefirmware (b : Nat) (self : Bool)
  /-- GETSTATUS, R724: PLDM GetStatus. -/
  | getstatus (b : Nat)
  /-- CANCELUPDATECOMPONENT, R739: PLDM CancelUpdateComponent. -/
  | cancelupdatecomponent (b : Nat)
  /-- CANCELUPDATE, R739: PLDM CancelUpdate leaves the slot invalid. -/
  | cancelupdate (b : Nat)
  /-- PLATFORMEVENTMESSAGE, R726: The device sends a held event to the receiver. -/
  | platformeventmessage (t : Nat)
  /-- PLATFORM_EVENT_RETRY, R726: An event unanswered in 100 ms is resent. -/
  | platformEventRetry (t : Nat)
  /-- GET_VERSION, R728: SPDM GET_VERSION. -/
  | getVersion (b : Nat)
  /-- GET_CAPABILITIES, R728: SPDM GET_CAPABILITIES. -/
  | getCapabilities (b : Nat)
  /-- NEGOTIATE_ALGORITHMS, R728: SPDM NEGOTIATE_ALGORITHMS. -/
  | negotiateAlgorithms (b : Nat) (asym : Nat) (hash : Nat)
  /-- GET_DIGESTS, R728: SPDM GET_DIGESTS. -/
  | getDigests (b : Nat)
  /-- GET_CERTIFICATE, R729: SPDM GET_CERTIFICATE serves slot 0. -/
  | getCertificate (b : Nat) (slot : Nat) (off : Nat) (len : Nat)
  /-- CHALLENGE, R728: SPDM CHALLENGE. -/
  | challenge (b : Nat) (slot : Nat)
  /-- GET_MEASUREMENTS, R730: SPDM GET_MEASUREMENTS. -/
  | getMeasurements (b : Nat) (i : Nat) (sign : Bool)
  /-- SPDM_UNSUPPORTED_REQUEST, R728: A refused SPDM request returns UnsupportedRequest. -/
  | spdmUnsupportedRequest (b : Nat)
  /-- DOE_DISCOVERY, R728: DOE Discovery on the PF mailbox. -/
  | doeDiscovery (i : Nat)
  /-- SET_OWNER, R735: Mailbox SET_OWNER fuses the owner digest. -/
  | setOwner
  /-- INSTALL_KEY, R736: Mailbox INSTALL_KEY installs an owner key. -/
  | installKey
  /-- REVOKE_KEY, R736: Mailbox REVOKE_KEY revokes a key slot. -/
  | revokeKey
  /-- ADVANCE_SVN, R733: Mailbox ADVANCE_SVN raises the fused security version. -/
  | advanceSvn
  /-- ACTIVATE, R740: Mailbox ACTIVATE starts live activation. -/
  | activate
  /-- READ_BOARD, R745: Mailbox READ_BOARD returns the board record. -/
  | readBoard
  /-- LIVE_ACTIVATION_DONE, R740: The new firmware takes over at A4. -/
  | liveActivationDone (t : Nat) (st : List Nat)
  /-- ACTIVATION_WATCHDOG, R742: The watchdog reverts to the previous slot. -/
  | activationWatchdog (t : Nat)
  /-- VAUX_GOOD, R756: VAUX becomes good and a cold reset is held 10 ms. -/
  | vauxGood (t : Nat)
  /-- VAUX_BROWNOUT, R756: VAUX below 3.0 V drops the main domain and resets K0. -/
  | vauxBrownout (t : Nat)
  /-- KRST_N_ASSERT, R760: KRST_N low starts a cold reset of K0. -/
  | krstNAssert (t : Nat)
  /-- COLD_RESET_RELEASE, R762: Start-up steps S1 to S4 run after the cold reset is released. -/
  | coldResetRelease (t : Nat)
  /-- CLOCK_VALID, R757: A reference clock is judged valid. -/
  | clockValid (t : Nat) (i : Nat) (draw : Nat)
  /-- CLOCK_LOSS, R758: A reference clock is lost. -/
  | clockLoss (t : Nat) (i : Nat)
  /-- MEM_PG_RISE, R755: MEM_PG rises and start-up proceeds to S7. -/
  | memPgRise (t : Nat)
  /-- MEM_PG_FALL, R770: MEM_PG falls and a fast shut-down starts. -/
  | memPgFall (t : Nat)
  /-- RAIL_POWER_GOOD, R762: A supply group reports POWER_GOOD and the next turns on. -/
  | railPowerGood (t : Nat) (r : Nat) (w : Nat)
  /-- MEMORY_TRAINING_DONE, R366: All ports are trained and MEM_CFG written. -/
  | memoryTrainingDone (gib : Nat) (rates : List Nat) (lpcamm : Bool) (fails : List Nat)
  /-- STARTUP_MUSTER_DONE, R764: Start-up Muster completes; held draw is measured and the timebase starts. -/
  | startupMusterDone (t : Nat) (draw : Nat) (fails : List (Nat × Nat)) (blocks : List (Nat × Nat))
  /-- STARTUP_RETRY, R767: A failed start-up is retried 1 s later. -/
  | startupRetry (t : Nat)
  /-- SHUT_DOWN, R771: SHP_PWRCMD op 1 or a fault starts shut-down (D1 to D3). -/
  | shutDown (t : Nat) (cause : Nat) (rail : Nat) (fast : Bool)
  /-- SHUTDOWN_RECORDS_COMMITTED, R771: D4 ends and the supplies turn off in reverse order. -/
  | shutdownRecordsCommitted
  /-- SHUTDOWN_SUPPLIES_OFF, R771: D5 ends and the package returns to Keeper. -/
  | shutdownSuppliesOff
  /-- STANDBY, R768: SHP_PWRCMD op 2 schedules standby. -/
  | standby
  /-- WAKE, R769: SHP_PWRCMD op 3 wakes from standby. -/
  | wake (t : Nat) (draw : Nat)
  /-- THERMAL_TRIP, R773: A sensor at 120 °C trips the package in hardware. -/
  | thermalTrip (t : Nat)
  /-- K0_OVERTEMP, R776: K0 at 125 °C holds itself in cold reset. -/
  | k0Overtemp (t : Nat)
  /-- K0_OVERTEMP_RELEASE, R776: K0 below 110 °C releases itself. -/
  | k0OvertempRelease
  /-- BYPASS, R811: TAP BYPASS. -/
  | bypass
  /-- IDCODE, R811: TAP IDCODE. -/
  | idcode
  /-- SAMPLE_PRELOAD, R811: TAP SAMPLE/PRELOAD. -/
  | samplePreload (on : Nat) (main : Nat) (inOn : Nat) (inMain : Nat)
  /-- EXTEST, R812: TAP EXTEST, only in Keeper, Recovery or Standby. -/
  | extest (on : Nat) (main : Nat) (inOn : Nat) (inMain : Nat)
  /-- CLAMP, R812: TAP CLAMP. -/
  | clamp
  /-- HIGHZ, R812: TAP HIGHZ. -/
  | highz
  /-- EXTEST_PULSE, R812: TAP EXTEST_PULSE on PCIe and Ethernet lanes. -/
  | extestPulse (on : Nat) (main : Nat) (inOn : Nat) (inMain : Nat)
  /-- EXTEST_TRAIN, R812: TAP EXTEST_TRAIN on PCIe and Ethernet lanes. -/
  | extestTrain (on : Nat) (main : Nat) (inOn : Nat) (inMain : Nat)
  /-- PDK_COMMAND_DONE, R101: The Shepherd finishes a create or a delete from Ready or Stranded, changes the paddock state and clears cmd_busy. -/
  | pdkCommandDone (n : Nat)
  /-- POWER_GOOD_TIMEOUT, R767: MEM_PG is not high within 20 ms, or a rail is not POWER_GOOD within 5 ms, so start-up fails and the supplies turn off. -/
  | powerGoodTimeout (t : Nat)
  /-- BANK_CONTROLLER_FAULT, R621: An MRAM bank controller reports a device fault and the bank fails, or log-mute is entered if it is the second. -/
  | bankControllerFault (b : Nat)
  /-- PLATFORMEVENTMESSAGE_RESPONSE, R726: The event receiver's response acknowledges a held PLDM event and frees its place in the 32-event queue. -/
  | platformeventmessageResponse (k : Nat)
  /-- L0P_WIDTH_CHANGE, R660: The link partner changes the link width by L0p, H0 sets HST_EVT.width_change and a new host-path capacity applies. -/
  | l0pWidthChange (w : Nat)
  /-- BYRE_RECLAIM_DONE, R468: The last reclaimed buffer rejoins its free list, reclaiming clears, and at a delete the paddock's owned pools are destroyed. -/
  | byreReclaimDone (d : Nat) (j : Nat)
  /-- FOLD_VERIFY_DONE, R487: A verify-only command finishes its checks, sets err and FLD_GNEED, and the loader becomes idle. -/
  | foldVerifyDone (n : Nat)
  /-- SMBUS_SCL_LOW_TIMEOUT, R804: The device releases the Ration bus or sideband after SCL has been held low for 25 ms. -/
  | smbusSclLowTimeout (b : Nat)
  /-- PMBUS_RETRY, R804: A PMBus transaction that was not acknowledged or failed PEC is retried 1 ms later, and after three retries the rail is reported unavailable. -/
  | pmbusRetry (r : Nat) (ok : Bool) (status : Nat) (pin : Nat)
  /-- AFTER_TRIP_COOLED, R774: After a trip, start-up leaves step S5 once K0's own sensor reads below 100 °C. -/
  | afterTripCooled
deriving DecidableEq, Repr

end Sys2Proof
end

