-- ==== Sys2Proof/Config.lean ====
section
/-! DEFINITION. What one package fixes and the spec does not (fuses, measured leakage), and the free values: constants with
no body, so that no proof can see a value of one. -/

namespace Sys2Proof

/-- The n-th free value a run draws, where the spec leaves a value open and the machine goes on (log 4). -/
opaque Config.freeValue : Nat → BitVec 64

/-- The i-th word of a block of arbitrary values (R2), named by the number of free values drawn before it (log 4). -/
opaque Config.freeWord : Nat → Nat → BitVec 64

/-- What a byte of external memory reads as before anything has written it since its ports were last powered (R830): the
number of power-ups, the address (log 7). -/
opaque Config.freeMem : Nat → Nat → BitVec 8

/-- How such an unwritten line reads with inline ECC: 0 clean, 1 corrected, 2 uncorrectable, modulo 3 (R830, log 7). -/
opaque Config.freeLine : Nat → Nat → BitVec 2

/-- The package is of the bin GQ12-W, else GQ12-F (R1, R32); fused, so a constant of the package (log 2). -/
opaque Config.fusedW : Bool

/-- SHP_DEVID.bin (R32). -/
def Config.fusedBin : Nat := if Config.fusedW then 2 else 1

/-- SHP_RATING.inlet_max_c, the inlet limit of the bin (R24, R32). -/
def Config.fusedInletMaxC : Nat := if Config.fusedW then 50 else 45

/-- SHP_RATING.fmax_mhz, the clock ceiling of the bin (R24, R29, R32). -/
def Config.fusedFmaxMhz : Nat := if Config.fusedW then 800 else 1050

/-- V_fuse of Lea die d at 400 + 25 k MHz in mV (R583), fused (log 2). -/
opaque Config.fusedVmv : Nat → Nat → Nat

/-- A_d of Lea die d in 0.1 mV (R584), fused (log 2). -/
opaque Config.fusedAge : Nat → Nat

/-- The fused shift point of column c (R556), fused (log 2). -/
opaque Config.fusedShift : Nat → Nat

/-- What a tick of l us adds to a die's stress, in units of 2^-16 h, at a setpoint in mV and a mean temperature in 1/16 degree: the
spec gives the law (R584) and no rounding of it (log 4). -/
opaque Config.stressAdd : Nat → Nat → Nat → Nat

/-- The modelled ageing offset in 0.25 mV of A_d in 0.1 mV and stress in 2^-16 h, before the limit of R585, which states no rounding
(log 4). -/
opaque Config.ageModel : Nat → Nat → Nat

/-- Held draw per tick at a clock in MHz, of the held draw at 400 MHz: the spec names it and gives no law (R580, log 4). -/
opaque Config.heldDraw : Nat → Nat → Nat

/-- The public key the factory wrote in key slot 0 (R734), fused (log 2). -/
opaque Config.fusedKeyX : Nat
opaque Config.fusedKeyY : Nat

/-- What the factory wrote in both flash slots: versions and security versions of boot loader and firmware (R738, log 2). -/
opaque Config.fusedFw : Nat → Nat

/-- The fused security version of a new package (R733, log 2). -/
opaque Config.fusedSvn : Nat

/-- Byte i of the board record, by the number of times the board partition has been written (R744, log 2). -/
opaque Config.boardByte : Nat → Nat → BitVec 8

/-- The straps as sampled at the n-th release of a cold reset: RBUS_ADDR, MSB_ADDR, MSB_MODE in bits 2:0, 5:3, 6 (R806, log 2). -/
opaque Config.straps : Nat → BitVec 7

/-- The Device Serial Number (R659, R736), fused (log 2). -/
opaque Config.fusedSerial : BitVec 64

/-- Bytes a responder sends that no rule of the spec fixes: what is asked, the byte (log 4). -/
opaque Config.freeByte : Nat → Nat → BitVec 8

end Sys2Proof
end

