-- ==== Sys2Proof/Machine/RegTable.lean ====
section
/-! DEFINITION. The register tables of the spec: every register of every block with its fields, access codes, change
classes and reset values (the "Registers" sections of spec/01 to spec/25, placed as spec/26 places them). -/

namespace Sys2Proof.Machine

/-- A kind of block instance (R54, R55, R61). Instances of one kind are told apart by a number: the physical core for the
five blocks of a core window (R42), the die for die-level blocks, 12 d + p for memory port p of M die d (0 or 1), the
paddock for `pdk`, the port for `ltk`, and 0 where the package has one. -/
inductive Blk where
  | lea  -- core, unit registers
  | msh  -- mesh router
  | drvC  -- stream contexts of a core
  | pst  -- Pasture port of a Lea die or K0
  | whs  -- Whistle unit
  | tlyL  -- Tally unit of a Lea die
  | byr  -- Byre manager
  | fld  -- Fold loader
  | wlk  -- Walker
  | mst  -- Muster
  | cul  -- Cull map
  | gat  -- gate tables of a Lea die
  | pdk  -- paddock
  | bel  -- timebase
  | rtn  -- package Ration controller
  | fbk  -- Flockbook
  | ftf  -- trace unit of a core
  | shp  -- Shepherd
  | mem  -- memory port
  | hst  -- host interface
  | ltk  -- Ethernet port
  | sec  -- security root
  | drvF  -- far stream contexts of an M die
  | tlyK  -- Tally unit of K0
  | rtnA  -- die Ration agent
  | ftfK  -- Footfall sink of K0
  | gatM  -- gate tables of an M die
  | gatK  -- gate tables of K0
  | gatH  -- gate tables of H0
  | pstM  -- Pasture port of an M die
  | pstH  -- Pasture port of H0
deriving DecidableEq, Repr

/-- A number for each kind of block, the upper part of a register's key. -/
def blkCode (b : Blk) : Nat :=
  match b with
  | .lea => 0
  | .msh => 1
  | .drvC => 2
  | .pst => 3
  | .whs => 4
  | .tlyL => 5
  | .byr => 6
  | .fld => 7
  | .wlk => 8
  | .mst => 9
  | .cul => 10
  | .gat => 11
  | .pdk => 12
  | .bel => 13
  | .rtn => 14
  | .fbk => 15
  | .ftf => 16
  | .shp => 17
  | .mem => 18
  | .hst => 19
  | .ltk => 20
  | .sec => 21
  | .drvF => 22
  | .tlyK => 23
  | .rtnA => 24
  | .ftfK => 25
  | .gatM => 26
  | .gatK => 27
  | .gatH => 28
  | .pstM => 29
  | .pstH => 30

/-- The kind of block a number stands for. -/
def blkOfCode (n : Nat) : Blk :=
  match n with
  | 0 => .lea
  | 1 => .msh
  | 2 => .drvC
  | 3 => .pst
  | 4 => .whs
  | 5 => .tlyL
  | 6 => .byr
  | 7 => .fld
  | 8 => .wlk
  | 9 => .mst
  | 10 => .cul
  | 11 => .gat
  | 12 => .pdk
  | 13 => .bel
  | 14 => .rtn
  | 15 => .fbk
  | 16 => .ftf
  | 17 => .shp
  | 18 => .mem
  | 19 => .hst
  | 20 => .ltk
  | 21 => .sec
  | 22 => .drvF
  | 23 => .tlyK
  | 24 => .rtnA
  | 25 => .ftfK
  | 26 => .gatM
  | 27 => .gatK
  | 28 => .gatH
  | 29 => .pstM
  | _ => .pstH

/-- BLKINFO.type of a block (R61). -/
def blkType (b : Blk) : Nat :=
  match b with
  | .lea => 1
  | .msh => 2
  | .drvC => 3
  | .pst => 4
  | .whs => 5
  | .tlyL => 6
  | .byr => 7
  | .fld => 8
  | .wlk => 9
  | .mst => 10
  | .cul => 11
  | .gat => 12
  | .pdk => 13
  | .bel => 14
  | .rtn => 15
  | .fbk => 16
  | .ftf => 17
  | .shp => 18
  | .mem => 19
  | .hst => 20
  | .ltk => 21
  | .sec => 22
  | .drvF => 3
  | .tlyK => 6
  | .rtnA => 15
  | .ftfK => 17
  | .gatM => 12
  | .gatK => 12
  | .gatH => 12
  | .pstM => 4
  | .pstH => 4

/-- The size in bytes of an instance of a block (R54, R55, R822). -/
def blkSize (b : Blk) : Nat :=
  match b with
  | .lea => 4 * 1024
  | .msh => 4 * 1024
  | .drvC => 8 * 1024
  | .pst => 64 * 1024
  | .whs => 4 * 1024
  | .tlyL => 256 * 1024
  | .byr => 1024 * 1024
  | .fld => 64 * 1024
  | .wlk => 64 * 1024
  | .mst => 64 * 1024
  | .cul => 64 * 1024
  | .gat => 64 * 1024
  | .pdk => 16 * 1024
  | .bel => 64 * 1024
  | .rtn => 64 * 1024
  | .fbk => 64 * 1024
  | .ftf => 4 * 1024
  | .shp => 64 * 1024
  | .mem => 64 * 1024
  | .hst => 4096 * 1024
  | .ltk => 64 * 1024
  | .sec => 64 * 1024
  | .drvF => 4096 * 1024
  | .tlyK => 64 * 1024
  | .rtnA => 64 * 1024
  | .ftfK => 64 * 1024
  | .gatM => 64 * 1024
  | .gatK => 64 * 1024
  | .gatH => 64 * 1024
  | .pstM => 64 * 1024
  | .pstH => 64 * 1024

/-- Access codes of a field (R4). -/
inductive Acc where
  | ro | rw | wo | w1c | rc
deriving DecidableEq, Repr

/-- Change classes of a field (R5); `none` for a field software cannot write. -/
inductive Chg where
  | none | live | idle | bell | rearm | fixed
deriving DecidableEq, Repr

/-- One field of a register: bits hi down to lo, its access code, reset value and change class. -/
structure FieldD where
  hi : Nat
  lo : Nat
  acc : Acc
  reset : Nat
  chg : Chg
deriving DecidableEq, Repr

/-- One register, or an array of them: the offset of the first, two strides with their counts (1 where the register has
fewer indices), the width in bits and the fields that are not reserved. -/
structure RegD where
  off : Nat
  s1 : Nat
  c1 : Nat
  s2 : Nat
  c2 : Nat
  width : Nat
  fields : List FieldD
deriving DecidableEq, Repr

/-- The whole word of one field that covers a register. -/
def fullField (w : Nat) (acc : Acc) (chg : Chg) : List FieldD := [⟨w - 1, 0, acc, 0, chg⟩]

/-- A 32-bit count that a full read clears (access RC, R10). -/
def countReg (off : Nat) : RegD := ⟨off, 0, 1, 0, 1, 32, fullField 32 .rc .none⟩

/-- Registers of a `lea` instance. -/
def regs_lea : List RegD :=
  [⟨0x0, 0x0, 1, 0x0, 1, 32, [⟨3, 0, .rw, 0, .idle⟩]⟩,  -- LEA_CORECFG (R131)
   ⟨0x4, 0x0, 1, 0x0, 1, 32, [⟨21, 21, .ro, 0, .none⟩, ⟨20, 20, .ro, 0, .none⟩, ⟨19, 16, .ro, 0, .none⟩, ⟨15, 12, .ro, 0, .none⟩, ⟨11, 8, .ro, 0, .none⟩, ⟨7, 4, .ro, 0, .none⟩, ⟨3, 0, .ro, 0, .none⟩]⟩,  -- LEA_CORESTAT (R139)
   ⟨0x10, 0x4, 4, 0x0, 1, 32, [⟨10, 0, .rw, 0, .idle⟩]⟩,  -- LEA_TENTRY (R130)
   ⟨0x20, 0x4, 4, 0x0, 1, 32, [⟨27, 16, .rw, 0, .idle⟩, ⟨12, 0, .rw, 0, .idle⟩]⟩,  -- LEA_TBB (R130)
   ⟨0x30, 0x4, 4, 0x0, 1, 32, [⟨2, 2, .wo, 0, .live⟩, ⟨1, 1, .wo, 0, .live⟩, ⟨0, 0, .wo, 0, .live⟩]⟩,  -- LEA_TCTL (R130)
   ⟨0x40, 0x4, 4, 0x0, 1, 32, [⟨26, 16, .ro, 0, .none⟩, ⟨7, 4, .ro, 0, .none⟩, ⟨1, 0, .ro, 0, .none⟩]⟩,  -- LEA_TSTAT (R130)
   ⟨0x50, 0x4, 4, 0x0, 1, 32, [⟨31, 31, .ro, 0, .none⟩, ⟨30, 30, .ro, 0, .none⟩, ⟨29, 28, .ro, 0, .none⟩, ⟨27, 27, .ro, 0, .none⟩, ⟨26, 16, .ro, 0, .none⟩, ⟨15, 8, .ro, 0, .none⟩, ⟨7, 0, .ro, 0, .none⟩]⟩,  -- LEA_TEXC (R151)
   ⟨0x60, 0x8, 4, 0x0, 1, 64, [⟨63, 0, .ro, 0, .none⟩]⟩,  -- LEA_TRET (R149)
   countReg 0x80,  -- LEA_MSAT (R149)
   countReg 0x84,  -- LEA_VSAT (R149)
   countReg 0x88,  -- LEA_XSAT (R149)
   countReg 0x8c,  -- LEA_XHEAD (R149)
   ⟨0x100, 0x0, 1, 0x0, 1, 32, [⟨19, 16, .ro, 0, .none⟩, ⟨15, 12, .ro, 0, .none⟩, ⟨11, 11, .ro, 0, .none⟩, ⟨10, 8, .ro, 0, .none⟩, ⟨0, 0, .ro, 0, .none⟩]⟩,  -- LEA_MSTAT (R185)
   ⟨0x108, 0x0, 1, 0x0, 1, 64, [⟨63, 63, .w1c, 0, .live⟩, ⟨62, 62, .w1c, 0, .live⟩, ⟨61, 60, .ro, 0, .none⟩, ⟨59, 58, .ro, 0, .none⟩, ⟨57, 56, .ro, 0, .none⟩, ⟨55, 45, .ro, 0, .none⟩, ⟨44, 40, .ro, 0, .none⟩, ⟨39, 35, .ro, 0, .none⟩, ⟨34, 32, .ro, 0, .none⟩, ⟨31, 0, .ro, 0, .none⟩]⟩,  -- LEA_MRES (R185)
   countReg 0x110,  -- LEA_MRCNT (R185)
   countReg 0x114,  -- LEA_MBUSY (R185)
   countReg 0x118,  -- LEA_MWAIT (R185)
   ⟨0x120, 0x0, 1, 0x0, 1, 32, [⟨31, 31, .rw, 0, .live⟩, ⟨29, 28, .rw, 0, .live⟩, ⟨27, 23, .rw, 0, .live⟩, ⟨22, 18, .rw, 0, .live⟩, ⟨17, 13, .rw, 0, .live⟩]⟩,  -- LEA_MINJ (R188)
   ⟨0x180, 0x0, 1, 0x0, 1, 32, [⟨0, 0, .ro, 0, .none⟩]⟩,  -- LEA_VSTAT (R224)
   countReg 0x184,  -- LEA_VBEAT (R224)
   countReg 0x188,  -- LEA_VLINE (R224)
   countReg 0x18c,  -- LEA_VDEP (R224)
   countReg 0x190,  -- LEA_VCLIP (R224)
   countReg 0x194  -- LEA_VNAN (R224)
  ] ++
  [⟨0x1a0, 0x0, 1, 0x0, 1, 32, [⟨12, 12, .rw, 0, .live⟩, ⟨11, 7, .rw, 0, .live⟩, ⟨6, 2, .rw, 0, .live⟩, ⟨1, 0, .rw, 0, .live⟩]⟩,  -- LEA_VWSEL (R227)
   ⟨0x1c0, 0x8, 8, 0x0, 1, 64, [⟨63, 0, .rw, 0, .idle⟩]⟩,  -- LEA_VWDATA (R227)
   ⟨0x200, 0x0, 1, 0x0, 1, 32, [⟨1, 1, .rw, 0, .idle⟩, ⟨0, 0, .rw, 0, .idle⟩]⟩,  -- LEA_SPCFG (R238)
   ⟨0x210, 0x4, 7, 0x0, 1, 32, [⟨31, 0, .rc, 0, .none⟩]⟩,  -- LEA_SPCONF (R246)
   ⟨0x230, 0x0, 1, 0x0, 1, 32, [⟨7, 7, .rw, 0, .live⟩, ⟨6, 5, .rw, 0, .live⟩, ⟨4, 0, .rw, 0, .live⟩]⟩,  -- LEA_SPBSEL (R258)
   countReg 0x234,  -- LEA_SPBCNT (R258)
   countReg 0x240,  -- LEA_SPCE (R249)
   countReg 0x244,  -- LEA_SPUECNT (R250)
   ⟨0x248, 0x0, 1, 0x0, 1, 64, [⟨63, 63, .w1c, 0, .live⟩, ⟨62, 62, .w1c, 0, .live⟩, ⟨61, 59, .ro, 0, .none⟩, ⟨58, 58, .ro, 0, .none⟩, ⟨57, 56, .ro, 0, .none⟩, ⟨19, 0, .ro, 0, .none⟩]⟩,  -- LEA_SPUE (R250)
   ⟨0x800, 0x100, 4, 0x8, 32, 64, [⟨63, 0, .rw, 0, .idle⟩]⟩,  -- LEA_TG (R130)
   ⟨0xc00, 0x40, 4, 0x0, 1, 32, [⟨7, 0, .rw, 1, .idle⟩]⟩,  -- LEA_TPRED (R130)
   ⟨0xc10, 0x40, 4, 0x8, 4, 64, [⟨63, 63, .rw, 0, .idle⟩, ⟨58, 48, .rw, 0, .idle⟩, ⟨42, 32, .rw, 0, .idle⟩, ⟨31, 0, .rw, 0, .idle⟩]⟩  -- LEA_TLOOP (R130)
  ]

/-- Registers of a `msh` instance. -/
def regs_msh : List RegD :=
  [⟨0x0, 0x0, 1, 0x0, 1, 32, [⟨22, 16, .ro, 0, .none⟩, ⟨11, 0, .rw, 4095, .idle⟩]⟩,  -- MSH_CFG (R267)
   ⟨0x4, 0x0, 1, 0x0, 1, 32, [⟨3, 3, .rw, 1, .idle⟩, ⟨2, 2, .rw, 1, .idle⟩, ⟨1, 1, .rw, 1, .idle⟩, ⟨0, 0, .rw, 1, .idle⟩]⟩,  -- MSH_FENCE (R287)
   ⟨0x8, 0x0, 1, 0x0, 1, 32, [⟨21, 16, .ro, 0, .none⟩, ⟨15, 15, .ro, 0, .none⟩, ⟨14, 14, .ro, 0, .none⟩, ⟨13, 13, .ro, 0, .none⟩, ⟨12, 12, .ro, 0, .none⟩, ⟨11, 0, .ro, 0, .none⟩]⟩,  -- MSH_STAT (R267)
   ⟨0xc, 0x0, 1, 0x0, 1, 32, [⟨19, 19, .ro, 0, .none⟩, ⟨18, 18, .ro, 0, .none⟩, ⟨17, 17, .ro, 0, .none⟩, ⟨16, 16, .ro, 0, .none⟩, ⟨12, 8, .ro, 0, .none⟩, ⟨4, 0, .ro, 0, .none⟩]⟩,  -- MSH_FIFO (R265)
   ⟨0x10, 0x0, 1, 0x0, 1, 32, [⟨31, 31, .rw, 0, .live⟩, ⟨11, 0, .rw, 0, .live⟩]⟩,  -- MSH_RPSEL (R264)
   ⟨0x14, 0x0, 1, 0x0, 1, 32, [⟨15, 0, .rw, 0, .idle⟩]⟩,  -- MSH_RPDATA (R264)
   ⟨0x18, 0x0, 1, 0x0, 1, 32, [⟨5, 0, .rw, 0, .live⟩]⟩,  -- MSH_HTSEL (R278)
   ⟨0x20, 0x0, 1, 0x0, 1, 64, [⟨63, 63, .rw, 0, .idle⟩, ⟨49, 44, .rw, 0, .idle⟩, ⟨43, 38, .rw, 0, .idle⟩, ⟨37, 25, .rw, 0, .idle⟩, ⟨24, 12, .rw, 0, .idle⟩, ⟨11, 0, .rw, 0, .idle⟩]⟩,  -- MSH_HT (R278)
   countReg 0x40,  -- MSH_HELDCNT (R281)
   countReg 0x44,  -- MSH_HOLDCNT (R281)
   countReg 0x48,  -- MSH_DISCARD (R265)
   countReg 0x4c,  -- MSH_UNDER (R266)
   countReg 0x50,  -- MSH_OVER (R266)
   countReg 0x54,  -- MSH_FENCECNT (R287)
   countReg 0x58,  -- MSH_CE (R288)
   countReg 0x5c,  -- MSH_UECNT (R289)
   countReg 0x60,  -- MSH_POISON (R289)
   countReg 0x64,  -- MSH_XDEP (R275)
   ⟨0x70, 0x0, 1, 0x0, 1, 32, [⟨31, 16, .ro, 0, .none⟩, ⟨9, 9, .ro, 0, .none⟩, ⟨8, 8, .ro, 0, .none⟩, ⟨5, 0, .ro, 0, .none⟩]⟩,  -- MSH_HWHY (R283)
   ⟨0x78, 0x0, 1, 0x0, 1, 32, [⟨4, 4, .w1c, 0, .live⟩, ⟨3, 3, .w1c, 0, .live⟩, ⟨2, 2, .w1c, 0, .live⟩, ⟨1, 1, .w1c, 0, .live⟩, ⟨0, 0, .w1c, 0, .live⟩]⟩,  -- MSH_EVT (R286)
   ⟨0x80, 0x0, 1, 0x0, 1, 64, [⟨63, 63, .w1c, 0, .live⟩, ⟨62, 62, .w1c, 0, .live⟩, ⟨22, 20, .ro, 0, .none⟩, ⟨19, 12, .ro, 0, .none⟩, ⟨11, 0, .ro, 0, .none⟩]⟩  -- MSH_UE (R289)
  ]

/-- Registers of a `drvC` instance. -/
def regs_drvC : List RegD :=
  [⟨0x0, 0x80, 32, 0x0, 1, 64, [⟨47, 0, .rw, 0, .rearm⟩]⟩,  -- DRV_BASE (R303)
   ⟨0x8, 0x80, 32, 0x0, 1, 64, [⟨63, 48, .rw, 0, .idle⟩, ⟨47, 32, .rw, 0, .idle⟩, ⟨31, 16, .rw, 0, .idle⟩, ⟨15, 0, .rw, 0, .idle⟩]⟩,  -- DRV_SHAPE (R303)
   ⟨0x10, 0x80, 32, 0x8, 3, 64, [⟨47, 0, .rw, 0, .idle⟩]⟩,  -- DRV_STRIDE (R303)
   ⟨0x28, 0x80, 32, 0x0, 1, 64, [⟨59, 40, .rw, 0, .idle⟩, ⟨39, 20, .rw, 0, .idle⟩, ⟨19, 0, .rw, 0, .idle⟩]⟩,  -- DRV_BUF (R305)
   ⟨0x30, 0x80, 32, 0x0, 1, 64, [⟨47, 0, .rw, 0, .rearm⟩]⟩,  -- DRV_DBASE (R304)
   ⟨0x38, 0x80, 32, 0x0, 1, 32, [⟨31, 31, .rw, 0, .idle⟩, ⟨30, 30, .rw, 0, .idle⟩, ⟨26, 24, .rw, 0, .idle⟩, ⟨11, 0, .rw, 0, .idle⟩]⟩,  -- DRV_SIG (R312)
   ⟨0x40, 0x80, 32, 0x0, 1, 32, [⟨3, 3, .wo, 0, .live⟩, ⟨2, 2, .wo, 0, .live⟩, ⟨1, 1, .wo, 0, .live⟩, ⟨0, 0, .wo, 0, .live⟩]⟩,  -- DRV_CTL (R305)
   ⟨0x48, 0x80, 32, 0x0, 1, 32, [⟨19, 8, .rw, 0, .idle⟩, ⟨6, 6, .rw, 0, .idle⟩, ⟨5, 4, .rw, 0, .idle⟩, ⟨3, 3, .rw, 0, .idle⟩, ⟨2, 1, .rw, 0, .idle⟩, ⟨0, 0, .rw, 0, .idle⟩]⟩,  -- DRV_CTXCFG (R305)
   ⟨0x4c, 0x80, 32, 0x0, 1, 32, [⟨22, 20, .ro, 0, .none⟩, ⟨19, 18, .ro, 0, .none⟩, ⟨17, 17, .ro, 0, .none⟩, ⟨16, 16, .ro, 0, .none⟩, ⟨12, 8, .ro, 0, .none⟩, ⟨7, 6, .ro, 0, .none⟩, ⟨5, 4, .ro, 0, .none⟩, ⟨3, 3, .ro, 0, .none⟩, ⟨1, 0, .ro, 0, .none⟩]⟩,  -- DRV_CTXSTAT (R305)
   ⟨0x50, 0x80, 32, 0x0, 1, 64, [⟨63, 48, .ro, 0, .none⟩, ⟨47, 32, .ro, 0, .none⟩, ⟨31, 16, .ro, 0, .none⟩, ⟨15, 0, .ro, 0, .none⟩]⟩,  -- DRV_POS (R308)
   ⟨0x58, 0x80, 32, 0x0, 1, 32, [⟨31, 0, .ro, 0, .none⟩]⟩,  -- DRV_DONE (R312)
   ⟨0x5c, 0x80, 32, 0x0, 1, 32, [⟨23, 0, .ro, 0, .none⟩]⟩,  -- DRV_TTE (R320)
   ⟨0x60, 0x80, 32, 0x0, 1, 32, [⟨31, 0, .rc, 0, .none⟩]⟩,  -- DRV_SAT (R322)
   ⟨0x64, 0x80, 32, 0x0, 1, 32, [⟨31, 0, .rc, 0, .none⟩]⟩,  -- DRV_PWAIT (R322)
   ⟨0x68, 0x80, 32, 0x0, 1, 32, [⟨31, 0, .rc, 0, .none⟩]⟩,  -- DRV_SMALL (R307)
   ⟨0x6c, 0x80, 32, 0x0, 1, 32, [⟨31, 0, .rc, 0, .none⟩]⟩,  -- DRV_FCNT (R326)
   ⟨0x70, 0x80, 32, 0x0, 1, 32, [⟨31, 0, .rc, 0, .none⟩]⟩,  -- DRV_MERGE (R331)
   ⟨0x1000, 0x0, 1, 0x0, 1, 32, [⟨31, 0, .wo, 0, .live⟩]⟩,  -- DRV_REARM (R331)
   ⟨0x1004, 0x0, 1, 0x0, 1, 32, [⟨31, 0, .wo, 0, .live⟩]⟩,  -- DRV_RESUME (R324)
   countReg 0x1008,  -- DRV_ARBWAIT (R322)
   ⟨0x1010, 0x0, 1, 0x0, 1, 32, [⟨31, 0, .ro, 0, .none⟩]⟩  -- DRV_TIME (R302)
  ]

/-- Registers of a `pst` instance. -/
def regs_pst : List RegD :=
  [countReg 0x0,  -- PST_DISCARD (R124)
   countReg 0x4,  -- PST_WALKS (R376)
   countReg 0x8,  -- PST_TRFAULT (R376)
   ⟨0x100, 0x4, 64, 0x0, 1, 32, [⟨31, 0, .rc, 0, .none⟩]⟩  -- PST_ADMWAIT (R362)
  ]

/-- Registers of a `whs` instance. -/
def regs_whs : List RegD :=
  [⟨0x0, 0x0, 1, 0x0, 1, 32, [⟨8, 8, .rw, 0, .idle⟩, ⟨7, 0, .rw, 0, .idle⟩]⟩,  -- WHS_CFG (R406)
   ⟨0x8, 0x4, 4, 0x0, 1, 32, [⟨24, 12, .rw, 0, .idle⟩, ⟨11, 0, .rw, 0, .idle⟩]⟩,  -- WHS_WIN (R404)
   ⟨0x40, 0x8, 16, 0x0, 1, 64, [⟨63, 63, .rw, 0, .idle⟩, ⟨38, 38, .rw, 0, .idle⟩, ⟨37, 36, .rw, 0, .idle⟩, ⟨35, 33, .rw, 0, .idle⟩, ⟨32, 32, .rw, 0, .idle⟩, ⟨31, 16, .rw, 0, .idle⟩, ⟨15, 0, .rw, 0, .idle⟩]⟩,  -- WHS_TBIND (R404)
   ⟨0x100, 0x8, 64, 0x0, 1, 64, [⟨35, 20, .ro, 0, .none⟩, ⟨19, 14, .ro, 0, .none⟩, ⟨13, 3, .ro, 0, .none⟩, ⟨2, 0, .ro, 0, .none⟩]⟩,  -- WHS_CONN (R400)
   ⟨0x300, 0x4, 8, 0x0, 1, 32, [⟨23, 8, .ro, 0, .none⟩, ⟨5, 0, .ro, 0, .none⟩]⟩,  -- WHS_RQSTAT (R407)
   ⟨0x340, 0x0, 1, 0x0, 1, 32, [⟨7, 0, .wo, 0, .live⟩]⟩,  -- WHS_RQPOP (R416)
   ⟨0x400, 0x80, 8, 0x8, 9, 64, [⟨63, 0, .ro, 0, .none⟩]⟩,  -- WHS_RQHEAD (R416)
   countReg 0x800,  -- WHS_SENT (R398)
   countReg 0x804,  -- WHS_LANDED (R403)
   countReg 0x808,  -- WHS_SPILLCNT (R406)
   countReg 0x80c,  -- WHS_BUSY (R408)
   countReg 0x810,  -- WHS_RETRY (R408)
   countReg 0x814,  -- WHS_DUP (R409)
   countReg 0x818,  -- WHS_NOMATCH (R405)
   countReg 0x81c,  -- WHS_SSAT (R398)
   ⟨0x840, 0x0, 1, 0x0, 1, 32, [⟨4, 4, .w1c, 0, .live⟩, ⟨3, 3, .w1c, 0, .live⟩, ⟨2, 2, .w1c, 0, .live⟩, ⟨1, 1, .w1c, 0, .live⟩, ⟨0, 0, .w1c, 0, .live⟩]⟩  -- WHS_EVT (R405)
  ]

/-- Registers of a `tlyL` instance. -/
def regs_tlyL : List RegD :=
  [⟨0x0, 0x8, 4096, 0x0, 1, 64, [⟨63, 0, .rw, 0, .live⟩]⟩,  -- TLY_CNT (R424)
   ⟨0x10000, 0x8, 4096, 0x0, 1, 64, [⟨63, 0, .wo, 0, .live⟩]⟩,  -- TLY_ADD (R424)
   ⟨0x20000, 0x10, 1024, 0x0, 1, 64, [⟨63, 63, .w1c, 0, .live⟩, ⟨62, 62, .ro, 0, .none⟩, ⟨61, 60, .ro, 0, .none⟩, ⟨59, 57, .ro, 0, .none⟩, ⟨56, 46, .ro, 0, .none⟩, ⟨45, 30, .ro, 0, .none⟩, ⟨29, 18, .ro, 0, .none⟩]⟩,  -- TLY_WATCH (R432)
   ⟨0x20008, 0x10, 1024, 0x0, 1, 64, [⟨63, 0, .ro, 0, .none⟩]⟩,  -- TLY_WVAL (R432)
   countReg 0x30000,  -- TLY_OPS (R424)
   countReg 0x30004,  -- TLY_FIRE (R424)
   countReg 0x30008,  -- TLY_FULL (R424)
   countReg 0x3000c  -- TLY_QWAIT (R424)
  ]

/-- Registers of a `byr` instance. -/
def regs_byr : List RegD :=
  [⟨0x0, 0x40, 256, 0x0, 1, 64, [⟨51, 8, .rw, 0, .idle⟩]⟩,  -- BYR_PBASE (R450)
   ⟨0x8, 0x40, 256, 0x0, 1, 64, [⟨47, 8, .rw, 0, .idle⟩]⟩,  -- BYR_PVBASE (R450)
   ⟨0x10, 0x40, 256, 0x0, 1, 64, [⟨51, 12, .rw, 0, .idle⟩]⟩,  -- BYR_PLEDG (R450)
   ⟨0x18, 0x40, 256, 0x0, 1, 32, [⟨31, 12, .rw, 0, .idle⟩, ⟨3, 0, .rw, 0, .idle⟩]⟩,  -- BYR_PCFG (R450)
   ⟨0x20, 0x40, 256, 0x0, 1, 64, [⟨59, 40, .rw, 0, .live⟩, ⟨39, 20, .rw, 0, .live⟩, ⟨19, 0, .rw, 0, .live⟩]⟩,  -- BYR_PTHR (R462)
   ⟨0x28, 0x40, 256, 0x0, 1, 32, [⟨31, 31, .ro, 0, .none⟩, ⟨30, 30, .ro, 0, .none⟩, ⟨29, 29, .ro, 0, .none⟩, ⟨28, 28, .ro, 0, .none⟩, ⟨27, 27, .ro, 0, .none⟩, ⟨26, 26, .ro, 0, .none⟩, ⟨25, 25, .ro, 0, .none⟩, ⟨24, 24, .ro, 0, .none⟩, ⟨19, 0, .ro, 0, .none⟩]⟩,  -- BYR_PSTAT (R448)
   ⟨0x2c, 0x40, 256, 0x0, 1, 32, [⟨31, 0, .rc, 0, .none⟩]⟩,  -- BYR_PREF (R457)
   ⟨0x30, 0x40, 256, 0x0, 1, 32, [⟨31, 0, .rc, 0, .none⟩]⟩,  -- BYR_PGRANT (R456)
   ⟨0x10000, 0x10, 4096, 0x0, 1, 64, [⟨63, 63, .rw, 0, .live⟩, ⟨62, 61, .rw, 0, .live⟩, ⟨60, 53, .rw, 0, .live⟩, ⟨52, 45, .rw, 0, .live⟩, ⟨44, 25, .rw, 0, .live⟩]⟩,  -- BYR_QKEY (R454)
   ⟨0x10008, 0x10, 4096, 0x0, 1, 32, [⟨19, 0, .rw, 0, .live⟩]⟩,  -- BYR_QLIM (R454)
   ⟨0x1000c, 0x10, 4096, 0x0, 1, 32, [⟨19, 0, .ro, 0, .none⟩]⟩,  -- BYR_QHELD (R454)
   ⟨0x20000, 0x10, 4096, 0x4, 4, 32, [⟨31, 0, .ro, 0, .none⟩]⟩,  -- BYR_AUD (R467)
   ⟨0x30000, 0x0, 1, 0x0, 1, 32, [⟨15, 8, .wo, 0, .live⟩, ⟨2, 0, .wo, 0, .live⟩]⟩,  -- BYR_PCMD (R449)
   ⟨0x30004, 0x0, 1, 0x0, 1, 32, [⟨31, 31, .ro, 0, .none⟩, ⟨15, 8, .ro, 0, .none⟩, ⟨3, 0, .ro, 0, .none⟩]⟩,  -- BYR_CMDSTAT (R449)
   ⟨0x30008, 0x0, 1, 0x0, 1, 64, [⟨27, 8, .wo, 0, .live⟩, ⟨7, 0, .wo, 0, .live⟩]⟩,  -- BYR_HGET (R461)
   ⟨0x30010, 0x0, 1, 0x0, 1, 64, [⟨63, 56, .ro, 0, .none⟩, ⟨55, 55, .ro, 0, .none⟩, ⟨51, 8, .ro, 0, .none⟩, ⟨3, 0, .ro, 0, .none⟩]⟩,  -- BYR_HRES (R461)
   ⟨0x30018, 0x0, 1, 0x0, 1, 64, [⟨51, 8, .wo, 0, .live⟩, ⟨7, 0, .wo, 0, .live⟩]⟩,  -- BYR_HPUT (R461)
   ⟨0x30020, 0x0, 1, 0x0, 1, 64, [⟨63, 63, .w1c, 0, .live⟩, ⟨62, 62, .w1c, 0, .live⟩, ⟨59, 56, .ro, 0, .none⟩, ⟨55, 48, .ro, 0, .none⟩, ⟨19, 0, .ro, 0, .none⟩]⟩,  -- BYR_LERR (R464)
   ⟨0x30028, 0x0, 1, 0x0, 1, 32, [⟨3, 3, .w1c, 0, .live⟩, ⟨2, 2, .w1c, 0, .live⟩, ⟨1, 1, .w1c, 0, .live⟩, ⟨0, 0, .w1c, 0, .live⟩]⟩  -- BYR_EVT (R462)
  ]

/-- Registers of a `fld` instance. -/
def regs_fld : List RegD :=
  [⟨0x0, 0x40, 64, 0x0, 1, 64, [⟨51, 12, .rw, 0, .live⟩]⟩,  -- FLD_IMG (R490)
   ⟨0x8, 0x40, 64, 0x0, 1, 32, [⟨31, 0, .rw, 0, .live⟩]⟩,  -- FLD_IMGLEN (R490)
   ⟨0x10, 0x40, 64, 0x0, 1, 64, [⟨51, 16, .rw, 0, .live⟩]⟩,  -- FLD_GOLD (R492)
   ⟨0x18, 0x40, 64, 0x0, 1, 32, [⟨31, 0, .rw, 0, .live⟩]⟩,  -- FLD_GLEN (R492)
   ⟨0x1c, 0x40, 64, 0x0, 1, 32, [⟨31, 0, .ro, 0, .none⟩]⟩,  -- FLD_GNEED (R492)
   ⟨0x20, 0x40, 64, 0x0, 1, 32, [⟨11, 8, .wo, 0, .live⟩, ⟨3, 0, .wo, 0, .live⟩]⟩,  -- FLD_CMD (R490)
   ⟨0x24, 0x40, 64, 0x0, 1, 32, [⟨31, 31, .ro, 0, .none⟩, ⟨30, 30, .ro, 0, .none⟩, ⟨29, 29, .ro, 0, .none⟩, ⟨28, 28, .ro, 0, .none⟩, ⟨27, 22, .ro, 0, .none⟩, ⟨19, 16, .ro, 0, .none⟩, ⟨15, 12, .ro, 0, .none⟩, ⟨3, 0, .ro, 0, .none⟩]⟩,  -- FLD_PSTAT (R490)
   ⟨0x28, 0x40, 64, 0x0, 1, 32, [⟨31, 31, .rw, 0, .live⟩, ⟨5, 0, .rw, 0, .live⟩]⟩,  -- FLD_PVAR (R498)
   ⟨0x2c, 0x40, 64, 0x0, 1, 32, [⟨31, 0, .rc, 0, .none⟩]⟩,  -- FLD_SWAPS (R495)
   ⟨0x1000, 0x0, 1, 0x0, 1, 32, [⟨2, 2, .w1c, 0, .live⟩, ⟨1, 1, .w1c, 0, .live⟩, ⟨0, 0, .w1c, 0, .live⟩]⟩  -- FLD_EVT (R490)
  ]

/-- Registers of a `wlk` instance. -/
def regs_wlk : List RegD :=
  [⟨0x0, 0x0, 1, 0x0, 1, 32, [⟨31, 31, .rw, 1, .live⟩, ⟨19, 16, .rw, 3, .live⟩, ⟨13, 0, .rw, 4096, .bell⟩]⟩,  -- WLK_CFG (R541)
   ⟨0x4, 0x0, 1, 0x0, 1, 32, [⟨31, 16, .ro, 0, .none⟩, ⟨0, 0, .ro, 0, .none⟩]⟩,  -- WLK_STAT (R541)
   ⟨0x8, 0x0, 1, 0x0, 1, 64, [⟨63, 63, .w1c, 0, .live⟩, ⟨62, 62, .w1c, 0, .live⟩, ⟨61, 59, .ro, 0, .none⟩, ⟨58, 48, .ro, 0, .none⟩, ⟨43, 32, .ro, 0, .none⟩, ⟨18, 16, .ro, 0, .none⟩, ⟨12, 0, .ro, 0, .none⟩]⟩,  -- WLK_LAST (R543)
   ⟨0x100, 0x20, 8, 0x0, 1, 32, [⟨31, 0, .rc, 0, .none⟩]⟩,  -- WLK_CE (R542)
   ⟨0x104, 0x20, 8, 0x0, 1, 32, [⟨31, 0, .rc, 0, .none⟩]⟩,  -- WLK_CRCFIX (R542)
   ⟨0x108, 0x20, 8, 0x0, 1, 32, [⟨31, 0, .rc, 0, .none⟩]⟩,  -- WLK_RELOAD (R542)
   ⟨0x10c, 0x20, 8, 0x0, 1, 32, [⟨31, 0, .rc, 0, .none⟩]⟩,  -- WLK_HARD (R542)
   ⟨0x110, 0x20, 8, 0x0, 1, 32, [⟨31, 0, .rc, 0, .none⟩]⟩,  -- WLK_FETCHCE (R539)
   ⟨0x114, 0x20, 8, 0x0, 1, 32, [⟨31, 0, .rc, 0, .none⟩]⟩,  -- WLK_SLOTCE (R539)
   ⟨0x118, 0x20, 8, 0x0, 1, 32, [⟨31, 0, .rc, 0, .none⟩]⟩  -- WLK_INLINEUE (R539)
  ]

/-- Registers of a `mst` instance. -/
def regs_mst : List RegD :=
  [⟨0x0, 0x0, 1, 0x0, 1, 32, [⟨6, 0, .rw, 16, .bell⟩]⟩,  -- MST_CFG (R548)
   ⟨0x4, 0x0, 1, 0x0, 1, 32, [⟨31, 0, .rw, 3600000, .bell⟩]⟩,  -- MST_PERIOD (R549)
   ⟨0x8, 0x0, 1, 0x0, 1, 32, [⟨31, 0, .rw, 600000, .bell⟩]⟩,  -- MST_BPERIOD (R552)
   ⟨0x10, 0x0, 1, 0x0, 1, 64, [⟨63, 63, .w1c, 0, .live⟩, ⟨62, 62, .w1c, 0, .live⟩, ⟨59, 56, .ro, 0, .none⟩, ⟨55, 52, .ro, 0, .none⟩, ⟨43, 32, .ro, 0, .none⟩, ⟨31, 0, .ro, 0, .none⟩]⟩,  -- MST_LAST (R547)
   ⟨0x18, 0x0, 1, 0x0, 1, 32, [⟨31, 0, .ro, 0, .none⟩]⟩,  -- MST_OVERDUE (R549)
   ⟨0x100, 0x4, 64, 0x0, 1, 32, [⟨31, 31, .ro, 0, .none⟩, ⟨30, 30, .ro, 0, .none⟩, ⟨29, 29, .ro, 0, .none⟩, ⟨23, 16, .ro, 0, .none⟩, ⟨15, 8, .ro, 0, .none⟩, ⟨7, 0, .rc, 0, .none⟩]⟩,  -- MST_BLK (R552)
   ⟨0x200, 0x0, 1, 0x0, 1, 32, [⟨2, 2, .w1c, 0, .live⟩, ⟨1, 1, .w1c, 0, .live⟩, ⟨0, 0, .w1c, 0, .live⟩]⟩  -- MST_EVT (R555)
  ]

/-- Registers of a `cul` instance. -/
def regs_cul : List RegD :=
  [⟨0x0, 0x4, 128, 0x0, 1, 32, [⟨31, 31, .ro, 0, .none⟩, ⟨23, 16, .ro, 0, .none⟩, ⟨15, 12, .ro, 0, .none⟩, ⟨11, 11, .ro, 0, .none⟩, ⟨10, 10, .ro, 0, .none⟩, ⟨9, 9, .ro, 0, .none⟩, ⟨8, 8, .ro, 0, .none⟩, ⟨4, 0, .ro, 16, .none⟩]⟩,  -- CUL_COL (R556)
   ⟨0x200, 0x4, 4, 0x0, 1, 32, [⟨31, 0, .ro, 0, .none⟩]⟩,  -- CUL_CULLED (R556)
   ⟨0x210, 0x0, 1, 0x0, 1, 32, [⟨31, 31, .ro, 0, .none⟩]⟩,  -- CUL_STAT (R559)
   countReg 0x214  -- CUL_PAUSES (R559)
  ]

/-- Registers of a `gat` instance. -/
def regs_gat : List RegD :=
  [⟨0x0, 0x4, 256, 0x0, 1, 32, [⟨8, 8, .rw, 0, .idle⟩, ⟨7, 0, .rw, 255, .idle⟩]⟩,  -- GAT_CORE (R106)
   ⟨0x400, 0x4, 64, 0x0, 1, 32, [⟨7, 0, .rw, 255, .idle⟩]⟩,  -- GAT_TLY (R106)
   ⟨0xf000, 0x0, 1, 0x0, 1, 32, [⟨31, 31, .w1c, 0, .live⟩, ⟨30, 30, .w1c, 0, .live⟩, ⟨29, 28, .ro, 0, .none⟩, ⟨14, 12, .ro, 0, .none⟩, ⟨11, 8, .ro, 0, .none⟩, ⟨7, 0, .ro, 0, .none⟩]⟩,  -- GAT_BFINFO (R356)
   ⟨0xf008, 0x0, 1, 0x0, 1, 64, [⟨51, 0, .ro, 0, .none⟩]⟩,  -- GAT_BFADDR (R356)
   countReg 0xf010,  -- GAT_BFCNT (R356)
   countReg 0xf014  -- GAT_AFCNT (R356)
  ]

/-- Registers of a `pdk` instance. -/
def regs_pdk : List RegD :=
  [⟨0x0, 0x0, 1, 0x0, 1, 32, [⟨19, 16, .rw, 0, .idle⟩, ⟨12, 8, .rw, 0, .idle⟩, ⟨6, 4, .rw, 0, .idle⟩, ⟨3, 0, .rw, 0, .idle⟩]⟩,  -- PDK_GEOM (R96)
   ⟨0x4, 0x0, 1, 0x0, 1, 32, [⟨1, 1, .rw, 0, .idle⟩, ⟨0, 0, .rw, 0, .idle⟩]⟩,  -- PDK_MODE (R97)
   ⟨0x8, 0x0, 1, 0x0, 1, 32, [⟨2, 0, .wo, 0, .live⟩]⟩,  -- PDK_CMD (R100)
   ⟨0xc, 0x0, 1, 0x0, 1, 32, [⟨20, 20, .ro, 0, .none⟩, ⟨19, 16, .ro, 0, .none⟩, ⟨13, 13, .ro, 0, .none⟩, ⟨12, 12, .ro, 0, .none⟩, ⟨11, 8, .ro, 0, .none⟩, ⟨2, 0, .ro, 0, .none⟩]⟩,  -- PDK_STATUS (R100)
   ⟨0x10, 0x0, 1, 0x0, 1, 32, [⟨24, 16, .rw, 0, .bell⟩, ⟨8, 0, .rw, 0, .bell⟩]⟩,  -- PDK_PSHARE (R117)
   ⟨0x14, 0x0, 1, 0x0, 1, 32, [⟨31, 16, .rw, 0, .bell⟩, ⟨15, 0, .rw, 0, .bell⟩]⟩,  -- PDK_RSHARE (R117)
   ⟨0x18, 0x0, 1, 0x0, 1, 32, [⟨24, 16, .ro, 0, .none⟩, ⟨8, 0, .ro, 0, .none⟩]⟩,  -- PDK_PEFF (R117)
   countReg 0x1c,  -- PDK_REGCNT (R113)
   ⟨0x20, 0x0, 1, 0x0, 1, 64, [⟨63, 0, .ro, 0, .none⟩]⟩,  -- PDK_FTICK (R113)
   ⟨0x28, 0x0, 1, 0x0, 1, 32, [⟨31, 16, .ro, 0, .none⟩, ⟨15, 8, .ro, 0, .none⟩, ⟨5, 5, .ro, 0, .none⟩, ⟨4, 4, .ro, 0, .none⟩, ⟨3, 0, .ro, 0, .none⟩]⟩,  -- PDK_FINFO (R113)
   ⟨0x2c, 0x0, 1, 0x0, 1, 32, [⟨31, 0, .ro, 0, .none⟩]⟩,  -- PDK_FSEQ (R113)
   ⟨0x40, 0x4, 8, 0x0, 1, 32, [⟨31, 0, .ro, 4294967295, .none⟩]⟩,  -- PDK_FCQ (R113)
   ⟨0x60, 0x4, 8, 0x0, 1, 32, [⟨31, 31, .rw, 0, .idle⟩, ⟨30, 28, .rw, 0, .idle⟩, ⟨27, 24, .rw, 0, .idle⟩, ⟨15, 8, .rw, 0, .idle⟩, ⟨7, 0, .rw, 0, .idle⟩]⟩,  -- PDK_ASSIGN (R100)
   ⟨0x80, 0x0, 1, 0x0, 1, 32, [⟨2, 0, .rw, 0, .live⟩]⟩,  -- PDK_APER (R53)
   ⟨0x100, 0x4, 16, 0x0, 1, 32, [⟨12, 8, .rw, 0, .live⟩, ⟨1, 1, .rw, 0, .live⟩, ⟨0, 0, .rw, 0, .live⟩]⟩,  -- PDK_VEC (R109)
   ⟨0x200, 0x0, 1, 0x0, 1, 64, [⟨51, 16, .rw, 0, .idle⟩]⟩,  -- PDK_EPHOLD (R509)
   ⟨0x208, 0x0, 1, 0x0, 1, 32, [⟨15, 0, .rw, 0, .idle⟩]⟩,  -- PDK_EPHLEN (R509)
   ⟨0x210, 0x0, 1, 0x0, 1, 64, [⟨63, 0, .ro, 0, .none⟩]⟩,  -- PDK_EPOCH (R507)
   ⟨0x218, 0x0, 1, 0x0, 1, 64, [⟨63, 0, .ro, 0, .none⟩]⟩,  -- PDK_EPCOMMIT (R511)
   ⟨0x220, 0x0, 1, 0x0, 1, 32, [⟨31, 16, .ro, 0, .none⟩, ⟨7, 7, .ro, 0, .none⟩, ⟨6, 6, .ro, 0, .none⟩, ⟨5, 5, .w1c, 0, .live⟩, ⟨2, 0, .ro, 0, .none⟩]⟩,  -- PDK_EPSTAT (R511)
   ⟨0x224, 0x0, 1, 0x0, 1, 32, [⟨31, 31, .w1c, 0, .live⟩, ⟨26, 16, .ro, 0, .none⟩, ⟨3, 0, .ro, 0, .none⟩]⟩,  -- PDK_EPFAIL (R510)
   countReg 0x228,  -- PDK_EPREPLAY (R516)
   countReg 0x22c,  -- PDK_EPCOMMITS (R511)
   ⟨0x300, 0x0, 1, 0x0, 1, 32, [⟨31, 31, .rw, 0, .idle⟩, ⟨30, 30, .rw, 0, .idle⟩, ⟨29, 29, .rw, 0, .idle⟩, ⟨21, 16, .rw, 0, .idle⟩, ⟨14, 0, .rw, 0, .idle⟩]⟩  -- PDK_WPCFG (R519)
  ] ++
  [⟨0x308, 0x0, 1, 0x0, 1, 64, [⟨51, 16, .rw, 0, .idle⟩]⟩,  -- PDK_WPBANK (R519)
   ⟨0x310, 0x0, 1, 0x0, 1, 32, [⟨15, 0, .rw, 0, .idle⟩]⟩,  -- PDK_WPBLEN (R519)
   ⟨0x320, 0x4, 16, 0x0, 1, 32, [⟨31, 31, .rw, 0, .idle⟩, ⟨24, 12, .rw, 0, .idle⟩, ⟨11, 0, .rw, 0, .idle⟩]⟩,  -- PDK_WPSP (R519)
   ⟨0x360, 0x8, 16, 0x0, 1, 64, [⟨63, 63, .rw, 0, .idle⟩, ⟨62, 48, .rw, 0, .idle⟩, ⟨47, 16, .rw, 0, .idle⟩]⟩,  -- PDK_WPVA (R519)
   ⟨0x400, 0x0, 1, 0x0, 1, 32, [⟨31, 29, .ro, 0, .none⟩, ⟨28, 28, .ro, 0, .none⟩, ⟨27, 27, .ro, 0, .none⟩, ⟨26, 26, .ro, 0, .none⟩]⟩,  -- PDK_WPSTAT (R522)
   ⟨0x408, 0x0, 1, 0x0, 1, 64, [⟨63, 0, .ro, 0, .none⟩]⟩,  -- PDK_WPCEPOCH (R520)
   ⟨0x410, 0x0, 1, 0x0, 1, 32, [⟨1, 0, .wo, 0, .live⟩]⟩,  -- PDK_WPCMD (R521)
   countReg 0x414,  -- PDK_WPCOPIES (R520)
   ⟨0x500, 0x0, 1, 0x0, 1, 32, [⟨15, 0, .rw, 0, .live⟩]⟩  -- PDK_MWIN (R550)
  ]

/-- Registers of a `bel` instance. -/
def regs_bel : List RegD :=
  [⟨0x0, 0x0, 1, 0x0, 1, 32, [⟨4, 4, .rw, 0, .idle⟩, ⟨3, 1, .rw, 0, .idle⟩, ⟨0, 0, .rw, 0, .idle⟩]⟩,  -- BEL_CFG (R78)
   ⟨0x4, 0x0, 1, 0x0, 1, 32, [⟨13, 0, .rw, 1000, .bell⟩]⟩,  -- BEL_PERIOD (R72)
   ⟨0x8, 0x0, 1, 0x0, 1, 32, [⟨9, 0, .rw, 0, .bell⟩]⟩,  -- BEL_STAGGER (R81)
   ⟨0xc, 0x0, 1, 0x0, 1, 32, [⟨0, 0, .wo, 0, .live⟩]⟩,  -- BEL_CTRL (R75)
   ⟨0x10, 0x0, 1, 0x0, 1, 64, [⟨63, 0, .ro, 0, .none⟩]⟩,  -- BEL_TICK (R77)
   ⟨0x18, 0x0, 1, 0x0, 1, 32, [⟨19, 16, .ro, 0, .none⟩, ⟨15, 14, .ro, 0, .none⟩, ⟨13, 13, .ro, 0, .none⟩, ⟨12, 12, .ro, 0, .none⟩, ⟨11, 11, .ro, 0, .none⟩, ⟨10, 4, .ro, 0, .none⟩, ⟨3, 3, .ro, 0, .none⟩, ⟨2, 0, .ro, 0, .none⟩]⟩,  -- BEL_STATUS (R80)
   ⟨0x1c, 0x0, 1, 0x0, 1, 32, [⟨23, 0, .ro, 100000, .none⟩]⟩,  -- BEL_MEAS (R74)
   ⟨0x20, 0x0, 1, 0x0, 1, 32, [⟨5, 5, .w1c, 0, .live⟩, ⟨4, 4, .w1c, 0, .live⟩, ⟨3, 3, .w1c, 0, .live⟩, ⟨2, 2, .w1c, 0, .live⟩, ⟨1, 1, .w1c, 0, .live⟩, ⟨0, 0, .w1c, 0, .live⟩]⟩,  -- BEL_EVENT (R80)
   countReg 0x24,  -- BEL_GLITCH (R73)
   countReg 0x28,  -- BEL_MISS (R77)
   ⟨0x1000, 0x8, 256, 0x0, 1, 64, [⟨63, 63, .ro, 0, .none⟩, ⟨62, 56, .ro, 0, .none⟩, ⟨55, 48, .ro, 0, .none⟩, ⟨47, 0, .ro, 0, .none⟩]⟩  -- BEL_CAL (R83)
  ]

/-- Registers of a `rtn` instance. -/
def regs_rtn : List RegD :=
  [⟨0x0, 0x0, 1, 0x0, 1, 32, [⟨31, 31, .rw, 0, .idle⟩, ⟨30, 30, .rw, 0, .idle⟩, ⟨23, 16, .rw, 0, .bell⟩, ⟨11, 8, .rw, 4, .bell⟩, ⟨4, 0, .rw, 5, .bell⟩]⟩,  -- RTN_CFG (R573)
   ⟨0x4, 0x0, 1, 0x0, 1, 32, [⟨25, 16, .rw, 300, .bell⟩, ⟨9, 0, .rw, 600, .bell⟩]⟩,  -- RTN_ENV (R574)
   ⟨0x8, 0x0, 1, 0x0, 1, 32, [⟨15, 0, .rw, 0, .bell⟩]⟩,  -- RTN_GRANT (R573)
   ⟨0xc, 0x0, 1, 0x0, 1, 32, [⟨15, 0, .rw, 0, .live⟩]⟩,  -- RTN_INLET (R587)
   ⟨0x10, 0x0, 1, 0x0, 1, 64, [⟨63, 32, .ro, 0, .none⟩, ⟨31, 16, .ro, 0, .none⟩, ⟨15, 0, .ro, 0, .none⟩]⟩,  -- RTN_LAST (R591)
   ⟨0x18, 0x0, 1, 0x0, 1, 32, [⟨31, 28, .ro, 0, .none⟩, ⟨26, 16, .ro, 0, .none⟩, ⟨10, 0, .ro, 0, .none⟩]⟩,  -- RTN_FREQ (R581)
   ⟨0x1c, 0x0, 1, 0x0, 1, 32, [⟨26, 16, .ro, 0, .none⟩, ⟨10, 0, .ro, 0, .none⟩]⟩,  -- RTN_FLIM (R581)
   ⟨0x20, 0x0, 1, 0x0, 1, 32, [⟨10, 0, .ro, 0, .none⟩]⟩,  -- RTN_STAT (R581)
   ⟨0x24, 0x0, 1, 0x0, 1, 32, [⟨19, 16, .ro, 0, .none⟩, ⟨11, 0, .ro, 0, .none⟩]⟩,  -- RTN_TJ (R588)
   ⟨0x28, 0x0, 1, 0x0, 1, 32, [⟨15, 0, .ro, 0, .none⟩]⟩,  -- RTN_MINDRAW (R574)
   ⟨0x2c, 0x0, 1, 0x0, 1, 32, [⟨15, 0, .ro, 0, .none⟩]⟩,  -- RTN_BSYS (R577)
   countReg 0x30,  -- RTN_BUSERR (R591)
   ⟨0x100, 0x4, 64, 0x0, 1, 32, [⟨31, 16, .ro, 0, .none⟩, ⟨15, 0, .ro, 0, .none⟩]⟩,  -- RTN_PBUDGET (R577)
   ⟨0x200, 0x4, 64, 0x0, 1, 32, [⟨31, 0, .rc, 0, .none⟩]⟩,  -- RTN_PHOLD (R578)
   ⟨0x300, 0x4, 9, 0x0, 1, 32, [⟨31, 31, .rw, 0, .idle⟩, ⟨14, 8, .rw, 0, .idle⟩, ⟨7, 0, .rw, 255, .idle⟩]⟩,  -- RTN_PMRAIL (R592)
   ⟨0x340, 0x4, 9, 0x0, 1, 32, [⟨31, 16, .ro, 0, .none⟩, ⟨15, 0, .ro, 0, .none⟩]⟩,  -- RTN_PMSTAT (R592)
   ⟨0x380, 0x0, 1, 0x0, 1, 32, [⟨6, 6, .w1c, 0, .live⟩, ⟨5, 5, .w1c, 0, .live⟩, ⟨4, 4, .w1c, 0, .live⟩, ⟨3, 3, .w1c, 0, .live⟩, ⟨2, 2, .w1c, 0, .live⟩, ⟨1, 1, .w1c, 0, .live⟩, ⟨0, 0, .w1c, 0, .live⟩]⟩  -- RTN_EVT (R593)
  ]

/-- Registers of a `fbk` instance. -/
def regs_fbk : List RegD :=
  [⟨0x0, 0x0, 1, 0x0, 1, 32, [⟨31, 31, .ro, 0, .none⟩, ⟨30, 30, .ro, 0, .none⟩, ⟨29, 29, .ro, 0, .none⟩, ⟨28, 28, .ro, 0, .none⟩, ⟨27, 27, .ro, 0, .none⟩, ⟨26, 26, .ro, 0, .none⟩, ⟨25, 25, .w1c, 0, .live⟩, ⟨22, 16, .ro, 0, .none⟩]⟩,  -- FBK_STAT (R609)
   ⟨0x4, 0x0, 1, 0x0, 1, 32, [⟨31, 0, .rw, 3600000, .bell⟩]⟩,  -- FBK_SNAP (R617)
   ⟨0x8, 0x0, 1, 0x0, 1, 64, [⟨63, 0, .ro, 0, .none⟩]⟩,  -- FBK_SEQ (R607)
   ⟨0x10, 0x0, 1, 0x0, 1, 32, [⟨31, 0, .ro, 0, .none⟩]⟩,  -- FBK_EVNUM (R608)
   ⟨0x14, 0x0, 1, 0x0, 1, 32, [⟨31, 16, .ro, 0, .none⟩, ⟨15, 0, .ro, 0, .none⟩]⟩,  -- FBK_HEAD (R606)
   ⟨0x18, 0x0, 1, 0x0, 1, 32, [⟨31, 0, .ro, 0, .none⟩]⟩,  -- FBK_SNAPNUM (R617)
   ⟨0x20, 0x0, 1, 0x0, 1, 32, [⟨16, 16, .rw, 0, .live⟩, ⟨15, 0, .rw, 0, .live⟩]⟩,  -- FBK_RSEL (R623)
   ⟨0x28, 0x0, 1, 0x0, 1, 64, [⟨63, 0, .wo, 0, .live⟩]⟩,  -- FBK_FIND (R623)
   ⟨0x30, 0x0, 1, 0x0, 1, 32, [⟨2, 2, .ro, 0, .none⟩, ⟨1, 1, .ro, 0, .none⟩, ⟨0, 0, .ro, 0, .none⟩]⟩,  -- FBK_RSTAT (R623)
   ⟨0x40, 0x8, 8, 0x0, 1, 64, [⟨63, 0, .ro, 0, .none⟩]⟩,  -- FBK_RDATA (R623)
   ⟨0x80, 0x0, 1, 0x0, 1, 64, [⟨63, 0, .ro, 0, .none⟩]⟩,  -- FBK_CAL (R619)
   ⟨0x88, 0x0, 1, 0x0, 1, 32, [⟨14, 0, .ro, 0, .none⟩]⟩,  -- FBK_CALSUB (R619)
   ⟨0x90, 0x0, 1, 0x0, 1, 64, [⟨63, 0, .wo, 0, .live⟩]⟩,  -- FBK_CALSET (R619)
   countReg 0xa0,  -- FBK_WFAIL (R611)
   countReg 0xa4,  -- FBK_STORM (R613)
   countReg 0xa8,  -- FBK_MUTELOST (R622)
   ⟨0xac, 0x0, 1, 0x0, 1, 32, [⟨14, 8, .ro, 0, .none⟩, ⟨5, 0, .ro, 0, .none⟩]⟩,  -- FBK_MUTEHEAD (R622)
   ⟨0xb0, 0x0, 1, 0x0, 1, 32, [⟨3, 3, .w1c, 0, .live⟩, ⟨2, 2, .w1c, 0, .live⟩, ⟨1, 1, .w1c, 0, .live⟩, ⟨0, 0, .w1c, 0, .live⟩]⟩,  -- FBK_EVT (R621)
   ⟨0x400, 0x8, 64, 0x0, 1, 64, [⟨63, 0, .ro, 0, .none⟩]⟩,  -- FBK_CNT (R615)
   ⟨0x1000, 0x40, 64, 0x8, 8, 64, [⟨63, 0, .ro, 0, .none⟩]⟩  -- FBK_MUTE (R622)
  ]

/-- Registers of a `ftf` instance. -/
def regs_ftf : List RegD :=
  [⟨0x0, 0x4, 5, 0x0, 1, 32, [⟨31, 31, .rw, 0, .idle⟩, ⟨9, 8, .rw, 0, .idle⟩, ⟨4, 4, .rw, 0, .idle⟩, ⟨3, 0, .rw, 0, .idle⟩]⟩,  -- FTF_SRC (R638)
   ⟨0x20, 0x8, 4, 0x0, 1, 64, [⟨63, 63, .rw, 0, .idle⟩, ⟨49, 48, .rw, 0, .idle⟩, ⟨35, 32, .rw, 0, .idle⟩, ⟨26, 16, .rw, 0, .idle⟩, ⟨10, 0, .rw, 0, .idle⟩]⟩,  -- FTF_CMP (R638)
   ⟨0x40, 0x4, 5, 0x0, 1, 32, [⟨31, 0, .ro, 0, .none⟩]⟩,  -- FTF_SEQ (R636)
   ⟨0x54, 0x0, 1, 0x0, 1, 32, [⟨20, 16, .ro, 0, .none⟩, ⟨6, 0, .ro, 0, .none⟩]⟩,  -- FTF_STAT (R641)
   ⟨0x58, 0x4, 4, 0x0, 1, 32, [⟨31, 0, .rc, 0, .none⟩]⟩,  -- FTF_DROP (R642)
   ⟨0x70, 0x0, 1, 0x0, 1, 32, [⟨31, 31, .rw, 0, .live⟩, ⟨4, 4, .rw, 0, .live⟩, ⟨1, 0, .rw, 0, .live⟩]⟩,  -- FTF_CROOK (R646)
   ⟨0x78, 0x0, 1, 0x0, 1, 64, [⟨63, 0, .rw, 0, .live⟩]⟩,  -- FTF_CROOKN (R646)
   ⟨0x800, 0x0, 1, 0x0, 1, 64, [⟨59, 56, .rw, 0, .idle⟩, ⟨47, 12, .rw, 0, .idle⟩]⟩,  -- FTF_RING (R643)
   ⟨0x808, 0x0, 1, 0x0, 1, 32, [⟨31, 16, .rw, 0, .idle⟩, ⟨8, 8, .rw, 0, .idle⟩, ⟨7, 0, .rw, 0, .idle⟩]⟩,  -- FTF_RPOOL (R643)
   ⟨0x810, 0x0, 1, 0x0, 1, 32, [⟨31, 0, .ro, 0, .none⟩]⟩,  -- FTF_RPROD (R643)
   ⟨0x814, 0x0, 1, 0x0, 1, 32, [⟨31, 0, .rw, 0, .live⟩]⟩,  -- FTF_RCONS (R643)
   ⟨0x818, 0x0, 1, 0x0, 1, 32, [⟨4, 4, .wo, 0, .live⟩, ⟨3, 3, .wo, 0, .live⟩, ⟨2, 2, .wo, 0, .live⟩, ⟨1, 1, .wo, 0, .live⟩, ⟨0, 0, .wo, 0, .live⟩]⟩,  -- FTF_PCTL (R643)
   ⟨0x81c, 0x0, 1, 0x0, 1, 32, [⟨31, 31, .ro, 0, .none⟩, ⟨30, 30, .w1c, 0, .live⟩, ⟨29, 29, .w1c, 0, .live⟩, ⟨28, 28, .ro, 0, .none⟩, ⟨27, 27, .ro, 0, .none⟩, ⟨26, 16, .ro, 0, .none⟩]⟩,  -- FTF_PSTAT (R647)
   ⟨0x820, 0x0, 1, 0x0, 1, 64, [⟨47, 16, .rw, 0, .live⟩]⟩,  -- FTF_DUMP (R649)
   ⟨0x828, 0x0, 1, 0x0, 1, 64, [⟨31, 0, .rw, 0, .live⟩]⟩,  -- FTF_CROOKT (R646)
   ⟨0x830, 0x0, 1, 0x0, 1, 64, [⟨63, 0, .rw, 0, .live⟩]⟩,  -- FTF_CROOKV (R646)
   countReg 0x840  -- FTF_SINKWAIT (R644)
  ]

/-- Registers of a `shp` instance. -/
def regs_shp : List RegD :=
  [⟨0x0, 0x0, 1, 0x0, 1, 32, [⟨31, 16, .ro, 18194, .none⟩, ⟨15, 12, .ro, 2, .none⟩, ⟨11, 8, .ro, 1, .none⟩, ⟨7, 4, .ro, Config.fusedBin, .none⟩]⟩,  -- SHP_DEVID (R32)
   ⟨0x4, 0x0, 1, 0x0, 1, 32, [⟨23, 16, .ro, Config.fusedInletMaxC, .none⟩, ⟨10, 0, .ro, Config.fusedFmaxMhz, .none⟩]⟩,  -- SHP_RATING (R32)
   ⟨0x80, 0x0, 1, 0x0, 1, 32, [⟨31, 29, .ro, 0, .none⟩, ⟨28, 28, .ro, 0, .none⟩, ⟨27, 27, .ro, 0, .none⟩, ⟨26, 26, .ro, 0, .none⟩, ⟨7, 0, .ro, 0, .none⟩]⟩,  -- SHP_FWSTAT (R740)
   ⟨0x88, 0x0, 1, 0x0, 1, 64, [⟨63, 32, .ro, 0, .none⟩, ⟨31, 16, .ro, 0, .none⟩, ⟨15, 0, .ro, 0, .none⟩]⟩,  -- SHP_FWVER (R740)
   ⟨0x90, 0x0, 1, 0x0, 1, 32, [⟨7, 0, .wo, 0, .live⟩]⟩,  -- SHP_MBCMD (R745)
   ⟨0x94, 0x0, 1, 0x0, 1, 32, [⟨31, 31, .ro, 0, .none⟩, ⟨15, 8, .ro, 0, .none⟩, ⟨7, 0, .ro, 0, .none⟩]⟩,  -- SHP_MBSTAT (R745)
   ⟨0xa0, 0x0, 1, 0x0, 1, 32, [⟨11, 0, .rw, 2390, .live⟩]⟩,  -- SHP_PLDMEV (R726)
   ⟨0xa8, 0x0, 1, 0x0, 1, 32, [⟨23, 16, .ro, 0, .none⟩, ⟨15, 8, .ro, 0, .none⟩, ⟨7, 0, .ro, 0, .none⟩]⟩,  -- SHP_MCTPEID (R722)
   countReg 0xac,  -- SHP_MCTPERR (R722)
   ⟨0x100, 0x0, 1, 0x0, 1, 32, [⟨31, 28, .ro, 0, .none⟩, ⟨27, 24, .ro, 0, .none⟩, ⟨23, 20, .ro, 0, .none⟩, ⟨11, 11, .ro, 0, .none⟩, ⟨10, 10, .ro, 0, .none⟩, ⟨9, 9, .ro, 0, .none⟩, ⟨8, 0, .ro, 0, .none⟩]⟩,  -- SHP_PWRSTAT (R762)
   ⟨0x104, 0x0, 1, 0x0, 1, 32, [⟨3, 0, .wo, 0, .live⟩]⟩,  -- SHP_PWRCMD (R770)
   ⟨0x108, 0x0, 1, 0x0, 1, 32, [⟨15, 12, .ro, 0, .none⟩, ⟨11, 8, .ro, 0, .none⟩, ⟨6, 6, .ro, 0, .none⟩, ⟨5, 5, .ro, 0, .none⟩, ⟨4, 4, .ro, 0, .none⟩, ⟨3, 3, .ro, 0, .none⟩, ⟨2, 2, .ro, 0, .none⟩, ⟨1, 1, .ro, 0, .none⟩, ⟨0, 0, .ro, 0, .none⟩]⟩,  -- SHP_BOOTSTAT (R767)
   ⟨0x110, 0x0, 1, 0x0, 1, 64, [⟨63, 32, .ro, 0, .none⟩, ⟨31, 31, .ro, 0, .none⟩, ⟨10, 10, .ro, 0, .none⟩, ⟨9, 9, .ro, 0, .none⟩, ⟨8, 8, .ro, 0, .none⟩, ⟨7, 4, .ro, 0, .none⟩, ⟨3, 0, .ro, 0, .none⟩]⟩,  -- SHP_SDINFO (R770)
   ⟨0x118, 0x0, 1, 0x0, 1, 32, [⟨11, 8, .w1c, 0, .live⟩, ⟨3, 0, .ro, 0, .none⟩]⟩,  -- SHP_CLKSTAT (R757)
   ⟨0x140, 0x0, 1, 0x0, 1, 32, [⟨31, 31, .w1c, 0, .live⟩, ⟨30, 30, .ro, 0, .none⟩, ⟨22, 16, .ro, 0, .none⟩, ⟨14, 8, .ro, 0, .none⟩, ⟨6, 6, .ro, 0, .none⟩, ⟨5, 3, .ro, 0, .none⟩, ⟨2, 0, .ro, 0, .none⟩]⟩,  -- SHP_STRAP (R806)
   ⟨0x200, 0x8, 64, 0x0, 1, 64, [⟨63, 0, .rw, 0, .idle⟩]⟩,  -- SHP_MBDATA (R745)
   ⟨0x400, 0x4, 8, 0x0, 1, 32, [⟨31, 31, .ro, 0, .none⟩, ⟨30, 30, .ro, 0, .none⟩, ⟨23, 16, .ro, 0, .none⟩, ⟨15, 0, .ro, 0, .none⟩]⟩,  -- SHP_KEYSTAT (R734)
   ⟨0x1000, 0x4, 128, 0x0, 1, 32, [⟨31, 31, .ro, 0, .none⟩, ⟨23, 16, .ro, 0, .none⟩, ⟨15, 12, .ro, 0, .none⟩, ⟨11, 11, .ro, 0, .none⟩, ⟨10, 10, .ro, 0, .none⟩, ⟨9, 9, .ro, 0, .none⟩, ⟨8, 8, .ro, 0, .none⟩, ⟨4, 0, .ro, 16, .none⟩]⟩,  -- SHP_CULL (R557)
   ⟨0x1200, 0x4, 4, 0x0, 1, 32, [⟨31, 0, .ro, 0, .none⟩]⟩  -- SHP_CULLED (R557)
  ]

/-- Registers of a `mem` instance. -/
def regs_mem : List RegD :=
  [⟨0x0, 0x0, 1, 0x0, 1, 32, [⟨11, 11, .rw, 0, .fixed⟩, ⟨10, 4, .rw, 0, .fixed⟩, ⟨3, 3, .ro, 1, .none⟩, ⟨1, 0, .rw, 0, .fixed⟩]⟩,  -- MEM_CFG (R366)
   ⟨0x4, 0x0, 1, 0x0, 1, 32, [⟨26, 16, .ro, 0, .none⟩, ⟨11, 8, .ro, 0, .none⟩, ⟨2, 2, .ro, 0, .none⟩, ⟨1, 1, .ro, 0, .none⟩, ⟨0, 0, .ro, 0, .none⟩]⟩,  -- MEM_STAT (R366)
   ⟨0x8, 0x0, 1, 0x0, 1, 32, [⟨15, 0, .rw, 0, .live⟩]⟩,  -- MEM_SCRUB (R372)
   countReg 0x10,  -- MEM_CE (R370)
   countReg 0x14,  -- MEM_UECNT (R370)
   countReg 0x18,  -- MEM_POISON (R371)
   countReg 0x1c,  -- MEM_LINKCE (R370)
   countReg 0x20,  -- MEM_POISONLOST (R371)
   ⟨0x28, 0x0, 1, 0x0, 1, 64, [⟨63, 63, .w1c, 0, .live⟩, ⟨62, 62, .w1c, 0, .live⟩, ⟨61, 60, .ro, 0, .none⟩, ⟨59, 59, .ro, 0, .none⟩, ⟨47, 40, .ro, 0, .none⟩, ⟨32, 0, .ro, 0, .none⟩]⟩  -- MEM_UE (R370)
  ]

/-- Registers of a `hst` instance. -/
def regs_hst : List RegD :=
  [⟨0x0, 0x0, 1, 0x0, 1, 32, [⟨14, 12, .ro, 4, .none⟩, ⟨9, 9, .ro, 0, .none⟩, ⟨8, 4, .ro, 0, .none⟩, ⟨3, 0, .ro, 0, .none⟩]⟩,  -- HST_LINK (R660)
   ⟨0x8, 0x0, 1, 0x0, 1, 32, [⟨3, 3, .w1c, 0, .live⟩, ⟨2, 2, .w1c, 0, .live⟩, ⟨1, 1, .w1c, 0, .live⟩, ⟨0, 0, .w1c, 0, .live⟩]⟩,  -- HST_EVT (R661)
   countReg 0x10,  -- HST_LDCNT (R661)
   ⟨0x100, 0x0, 1, 0x0, 1, 32, [⟨3, 0, .rw, 0, .live⟩]⟩,  -- HST_APER (R51)
   ⟨0x100000, 0x8000, 65, 0x8, 8, 64, [⟨63, 12, .rw, 0, .live⟩, ⟨7, 4, .rw, 0, .live⟩, ⟨0, 0, .rw, 0, .live⟩]⟩,  -- HST_SQ (R665)
   ⟨0x100040, 0x8000, 65, 0x8, 8, 64, [⟨63, 12, .rw, 0, .live⟩, ⟨7, 4, .rw, 0, .live⟩, ⟨0, 0, .rw, 0, .live⟩]⟩,  -- HST_CQ (R665)
   ⟨0x100080, 0x8000, 65, 0x0, 1, 64, [⟨63, 12, .rw, 0, .live⟩, ⟨7, 4, .rw, 0, .live⟩, ⟨0, 0, .rw, 0, .live⟩]⟩,  -- HST_FQ (R665)
   ⟨0x100088, 0x8000, 65, 0x0, 1, 64, [⟨63, 12, .rw, 0, .live⟩, ⟨7, 4, .rw, 0, .live⟩, ⟨0, 0, .rw, 0, .live⟩]⟩,  -- HST_EQ (R665)
   ⟨0x100090, 0x8000, 65, 0x0, 1, 32, [⟨31, 31, .rw, 0, .live⟩, ⟨8, 8, .rw, 0, .live⟩, ⟨7, 0, .rw, 0, .live⟩]⟩,  -- HST_STAGE (R667)
   ⟨0x1000a0, 0x8000, 65, 0x8, 8, 64, [⟨43, 43, .ro, 0, .none⟩, ⟨42, 42, .ro, 0, .none⟩, ⟨41, 41, .ro, 0, .none⟩, ⟨40, 40, .ro, 1, .none⟩, ⟨39, 20, .ro, 0, .none⟩, ⟨19, 0, .ro, 0, .none⟩]⟩,  -- HST_RSTAT (R667)
   ⟨0x1000e0, 0x8000, 65, 0x4, 8, 32, [⟨31, 0, .ro, 0, .none⟩]⟩,  -- HST_CQIDX (R672)
   ⟨0x100100, 0x8000, 65, 0x0, 1, 64, [⟨56, 48, .ro, 0, .none⟩, ⟨41, 41, .ro, 1, .none⟩, ⟨40, 40, .ro, 1, .none⟩, ⟨39, 20, .ro, 0, .none⟩, ⟨19, 0, .ro, 0, .none⟩]⟩,  -- HST_QSTAT (R677)
   ⟨0x100108, 0x8000, 65, 0x0, 1, 32, [⟨2, 2, .w1c, 0, .live⟩, ⟨1, 1, .w1c, 0, .live⟩, ⟨0, 0, .w1c, 0, .live⟩]⟩,  -- HST_FEVT (R666)
   ⟨0x101000, 0x8000, 65, 0x4, 8, 32, [⟨19, 0, .wo, 0, .live⟩]⟩,  -- HST_SQDB (R666)
   ⟨0x101020, 0x8000, 65, 0x4, 8, 32, [⟨19, 0, .wo, 0, .live⟩]⟩,  -- HST_CQDB (R666)
   ⟨0x101040, 0x8000, 65, 0x0, 1, 32, [⟨19, 0, .wo, 0, .live⟩]⟩,  -- HST_FQDB (R666)
   ⟨0x101044, 0x8000, 65, 0x0, 1, 32, [⟨19, 0, .wo, 0, .live⟩]⟩,  -- HST_EQDB (R666)
   ⟨0x101048, 0x8000, 65, 0x0, 1, 32, [⟨5, 0, .wo, 0, .live⟩]⟩,  -- HST_FOLDDB (R671)
   ⟨0x102000, 0x8000, 65, 0x0, 1, 32, [⟨31, 0, .rc, 0, .none⟩]⟩,  -- HST_FQLOST (R677)
   ⟨0x102004, 0x8000, 65, 0x0, 1, 32, [⟨31, 0, .rc, 0, .none⟩]⟩,  -- HST_CQWAIT (R673)
   ⟨0x102008, 0x8000, 65, 0x0, 1, 32, [⟨31, 0, .rc, 0, .none⟩]⟩,  -- HST_STGWAIT (R667)
   ⟨0x104000, 0x8000, 65, 0x4, 1024, 32, [⟨31, 0, .rw, 0, .live⟩]⟩,  -- HST_MSIX (R663)
   ⟨0x106000, 0x8000, 65, 0x8, 4, 64, [⟨63, 0, .ro, 0, .none⟩]⟩  -- HST_PBA (R663)
  ]

/-- Registers of a `ltk` instance. -/
def regs_ltk : List RegD :=
  [⟨0x0, 0x0, 1, 0x0, 1, 32, [⟨31, 31, .rw, 0, .live⟩, ⟨16, 16, .rw, 0, .idle⟩, ⟨15, 12, .rw, 0, .idle⟩, ⟨11, 8, .rw, 0, .idle⟩, ⟨4, 4, .rw, 0, .idle⟩, ⟨3, 3, .rw, 1, .idle⟩, ⟨2, 2, .rw, 0, .idle⟩, ⟨1, 0, .rw, 0, .idle⟩]⟩,  -- LTK_PCFG (R697)
   ⟨0x4, 0x0, 1, 0x0, 1, 32, [⟨2, 2, .ro, 0, .none⟩, ⟨1, 1, .ro, 0, .none⟩, ⟨0, 0, .ro, 0, .none⟩]⟩,  -- LTK_PSTAT (R697)
   ⟨0x8, 0x0, 1, 0x0, 1, 64, [⟨47, 0, .rw, 0, .idle⟩]⟩,  -- LTK_MAC (R698)
   ⟨0x10, 0x8, 2, 0x0, 1, 64, [⟨63, 0, .rw, 0, .idle⟩]⟩,  -- LTK_IP6 (R698)
   ⟨0x20, 0x0, 1, 0x0, 1, 32, [⟨4, 4, .w1c, 0, .live⟩, ⟨3, 3, .w1c, 0, .live⟩, ⟨2, 2, .w1c, 0, .live⟩, ⟨1, 1, .w1c, 0, .live⟩, ⟨0, 0, .w1c, 0, .live⟩]⟩,  -- LTK_EVT (R702)
   countReg 0x100,  -- LTK_TXF (R703)
   countReg 0x104,  -- LTK_RXF (R703)
   countReg 0x108,  -- LTK_DROP (R703)
   countReg 0x10c,  -- LTK_FECCE (R697)
   countReg 0x110,  -- LTK_FECUE (R697)
   countReg 0x114,  -- LTK_RETX (R704)
   countReg 0x118,  -- LTK_PFCRX (R701)
   countReg 0x11c,  -- LTK_PFCTX (R701)
   ⟨0x400, 0x0, 1, 0x0, 1, 64, [⟨47, 32, .rw, 1000, .idle⟩, ⟨31, 24, .rw, 20, .idle⟩, ⟨22, 20, .rw, 7, .idle⟩, ⟨18, 16, .rw, 3, .idle⟩, ⟨15, 0, .rw, 47314, .idle⟩]⟩,  -- LTK_GCFG (R704)
   ⟨0x408, 0x0, 1, 0x0, 1, 64, [⟨63, 0, .rw, 0, .fixed⟩]⟩,  -- LTK_PKGID (R704)
   ⟨0x410, 0x0, 1, 0x0, 1, 64, [⟨51, 16, .rw, 0, .idle⟩]⟩,  -- LTK_RTX (R711)
   ⟨0x500, 0x0, 1, 0x0, 1, 32, [⟨15, 8, .rw, 0, .idle⟩, ⟨1, 1, .rw, 0, .idle⟩, ⟨0, 0, .rw, 0, .idle⟩]⟩,  -- LTK_PTPCFG (R714)
   ⟨0x508, 0x0, 1, 0x0, 1, 64, [⟨63, 0, .ro, 0, .none⟩]⟩,  -- LTK_PTPOFS (R714)
   ⟨0x510, 0x0, 1, 0x0, 1, 32, [⟨0, 0, .ro, 0, .none⟩]⟩,  -- LTK_PTPSTAT (R714)
   ⟨0x2000, 0x20, 32, 0x0, 1, 64, [⟨63, 63, .rw, 0, .live⟩, ⟨62, 62, .ro, 0, .none⟩, ⟨59, 48, .rw, 0, .live⟩, ⟨47, 0, .rw, 0, .live⟩]⟩,  -- LTK_PATH0 (R702)
   ⟨0x2008, 0x20, 32, 0x0, 1, 64, [⟨63, 0, .rw, 0, .live⟩]⟩,  -- LTK_PATH1 (R702)
   ⟨0x2010, 0x20, 32, 0x0, 1, 64, [⟨63, 0, .rw, 0, .live⟩]⟩,  -- LTK_PATH2 (R702)
   ⟨0x2018, 0x20, 32, 0x0, 1, 64, [⟨63, 0, .rw, 0, .live⟩]⟩,  -- LTK_PATH3 (R702)
   ⟨0x8000, 0x40, 256, 0x0, 1, 64, [⟨63, 63, .rw, 0, .live⟩, ⟨62, 62, .ro, 0, .none⟩, ⟨55, 50, .rw, 0, .live⟩, ⟨49, 48, .rw, 0, .live⟩, ⟨42, 32, .rw, 0, .live⟩, ⟨31, 0, .rw, 0, .live⟩]⟩  -- LTK_ROUTE0 (R709)
  ] ++
  [⟨0x8008, 0x40, 256, 0x0, 1, 64, [⟨63, 63, .rw, 0, .live⟩, ⟨62, 48, .rw, 0, .live⟩, ⟨47, 16, .rw, 0, .live⟩]⟩,  -- LTK_ROUTE1 (R706)
   ⟨0x8010, 0x40, 256, 0x0, 1, 64, [⟨47, 16, .rw, 0, .live⟩]⟩,  -- LTK_ROUTE2 (R706)
   ⟨0x8018, 0x40, 256, 0x0, 1, 64, [⟨63, 32, .ro, 0, .none⟩, ⟨31, 0, .ro, 0, .none⟩]⟩,  -- LTK_ROUTE3 (R704)
   ⟨0x8020, 0x40, 256, 0x0, 1, 64, [⟨6, 0, .ro, 0, .none⟩]⟩  -- LTK_ROUTE4 (R704)
  ]

/-- Registers of a `sec` instance. -/
def regs_sec : List RegD :=
  [⟨0x0, 0x80, 8, 0x8, 16, 64, [⟨63, 0, .ro, 0, .none⟩]⟩,  -- SEC_KEY (R734)
   ⟨0x400, 0x8, 6, 0x0, 1, 64, [⟨63, 0, .ro, 0, .none⟩]⟩,  -- SEC_OWNER (R735)
   ⟨0x440, 0x30, 7, 0x8, 6, 64, [⟨63, 0, .ro, 0, .none⟩]⟩,  -- SEC_MEAS (R730)
   ⟨0x800, 0x0, 1, 0x0, 1, 32, [⟨1, 1, .ro, 0, .none⟩, ⟨0, 0, .ro, 0, .none⟩]⟩  -- SEC_VERIFY (R737)
  ]

/-- Registers of a `drvF` instance. -/
def regs_drvF : List RegD :=
  [⟨0x0, 0x80, 16384, 0x0, 1, 64, [⟨47, 0, .rw, 0, .rearm⟩]⟩,  -- DRV_BASE (R303)
   ⟨0x8, 0x80, 16384, 0x0, 1, 64, [⟨63, 48, .rw, 0, .idle⟩, ⟨47, 32, .rw, 0, .idle⟩, ⟨31, 16, .rw, 0, .idle⟩, ⟨15, 0, .rw, 0, .idle⟩]⟩,  -- DRV_SHAPE (R303)
   ⟨0x10, 0x80, 16384, 0x8, 3, 64, [⟨47, 0, .rw, 0, .idle⟩]⟩,  -- DRV_STRIDE (R303)
   ⟨0x28, 0x80, 16384, 0x0, 1, 64, [⟨59, 40, .rw, 0, .idle⟩, ⟨39, 20, .rw, 0, .idle⟩, ⟨19, 0, .rw, 0, .idle⟩]⟩,  -- DRV_BUF (R305)
   ⟨0x30, 0x80, 16384, 0x0, 1, 64, [⟨47, 0, .rw, 0, .rearm⟩]⟩,  -- DRV_DBASE (R304)
   ⟨0x38, 0x80, 16384, 0x0, 1, 32, [⟨31, 31, .rw, 0, .idle⟩, ⟨30, 30, .rw, 0, .idle⟩, ⟨26, 24, .rw, 0, .idle⟩, ⟨11, 0, .rw, 0, .idle⟩]⟩,  -- DRV_SIG (R312)
   ⟨0x40, 0x80, 16384, 0x0, 1, 32, [⟨3, 3, .wo, 0, .live⟩, ⟨2, 2, .wo, 0, .live⟩, ⟨1, 1, .wo, 0, .live⟩, ⟨0, 0, .wo, 0, .live⟩]⟩,  -- DRV_CTL (R305)
   ⟨0x48, 0x80, 16384, 0x0, 1, 32, [⟨19, 8, .rw, 0, .idle⟩, ⟨6, 6, .rw, 0, .idle⟩, ⟨5, 4, .rw, 0, .idle⟩, ⟨3, 3, .rw, 0, .idle⟩, ⟨2, 1, .rw, 0, .idle⟩, ⟨0, 0, .rw, 0, .idle⟩]⟩,  -- DRV_CTXCFG (R305)
   ⟨0x4c, 0x80, 16384, 0x0, 1, 32, [⟨22, 20, .ro, 0, .none⟩, ⟨19, 18, .ro, 0, .none⟩, ⟨17, 17, .ro, 0, .none⟩, ⟨16, 16, .ro, 0, .none⟩, ⟨12, 8, .ro, 0, .none⟩, ⟨7, 6, .ro, 0, .none⟩, ⟨5, 4, .ro, 0, .none⟩, ⟨3, 3, .ro, 0, .none⟩, ⟨1, 0, .ro, 0, .none⟩]⟩,  -- DRV_CTXSTAT (R305)
   ⟨0x50, 0x80, 16384, 0x0, 1, 64, [⟨63, 48, .ro, 0, .none⟩, ⟨47, 32, .ro, 0, .none⟩, ⟨31, 16, .ro, 0, .none⟩, ⟨15, 0, .ro, 0, .none⟩]⟩,  -- DRV_POS (R308)
   ⟨0x58, 0x80, 16384, 0x0, 1, 32, [⟨31, 0, .ro, 0, .none⟩]⟩,  -- DRV_DONE (R312)
   ⟨0x5c, 0x80, 16384, 0x0, 1, 32, [⟨23, 0, .ro, 0, .none⟩]⟩,  -- DRV_TTE (R320)
   ⟨0x60, 0x80, 16384, 0x0, 1, 32, [⟨31, 0, .rc, 0, .none⟩]⟩,  -- DRV_SAT (R322)
   ⟨0x64, 0x80, 16384, 0x0, 1, 32, [⟨31, 0, .rc, 0, .none⟩]⟩,  -- DRV_PWAIT (R322)
   ⟨0x68, 0x80, 16384, 0x0, 1, 32, [⟨31, 0, .rc, 0, .none⟩]⟩,  -- DRV_SMALL (R307)
   ⟨0x6c, 0x80, 16384, 0x0, 1, 32, [⟨31, 0, .rc, 0, .none⟩]⟩,  -- DRV_FCNT (R326)
   ⟨0x70, 0x80, 16384, 0x0, 1, 32, [⟨31, 0, .rc, 0, .none⟩]⟩,  -- DRV_MERGE (R331)
   ⟨0x200000, 0x4, 512, 0x0, 1, 32, [⟨31, 0, .wo, 0, .live⟩]⟩,  -- DRV_FREARM (R331)
   ⟨0x201000, 0x4, 512, 0x0, 1, 32, [⟨31, 0, .wo, 0, .live⟩]⟩,  -- DRV_FRESUME (R324)
   countReg 0x202000,  -- DRV_FARBWAIT (R322)
   ⟨0x202010, 0x0, 1, 0x0, 1, 32, [⟨31, 0, .ro, 0, .none⟩]⟩  -- DRV_FTIME (R302)
  ]

/-- Registers of a `tlyK` instance. -/
def regs_tlyK : List RegD :=
  [⟨0x0, 0x8, 1024, 0x0, 1, 64, [⟨63, 0, .rw, 0, .live⟩]⟩,  -- KTLY_CNT (R424)
   ⟨0x2000, 0x8, 1024, 0x0, 1, 64, [⟨63, 0, .wo, 0, .live⟩]⟩,  -- KTLY_ADD (R424)
   ⟨0x4000, 0x10, 256, 0x0, 1, 64, [⟨63, 63, .w1c, 0, .live⟩, ⟨62, 62, .ro, 0, .none⟩, ⟨61, 60, .ro, 0, .none⟩, ⟨59, 57, .ro, 0, .none⟩, ⟨56, 46, .ro, 0, .none⟩, ⟨45, 30, .ro, 0, .none⟩, ⟨29, 18, .ro, 0, .none⟩]⟩,  -- KTLY_WATCH (R432)
   ⟨0x4008, 0x10, 256, 0x0, 1, 64, [⟨63, 0, .ro, 0, .none⟩]⟩,  -- KTLY_WVAL (R432)
   countReg 0x8000,  -- KTLY_OPS (R424)
   countReg 0x8004,  -- KTLY_FIRE (R424)
   countReg 0x8008,  -- KTLY_FULL (R424)
   countReg 0x800c  -- KTLY_QWAIT (R424)
  ]

/-- Registers of a `rtnA` instance. -/
def regs_rtnA : List RegD :=
  [⟨0x0, 0x0, 1, 0x0, 1, 32, [⟨25, 16, .ro, 0, .none⟩, ⟨9, 0, .ro, 0, .none⟩]⟩,  -- RTN_DV (R583)
   ⟨0x4, 0x0, 1, 0x0, 1, 32, [⟨31, 16, .ro, 0, .none⟩, ⟨15, 0, .ro, 0, .none⟩]⟩,  -- RTN_DAGE (R585)
   ⟨0x8, 0x0, 1, 0x0, 1, 64, [⟨63, 0, .ro, 0, .none⟩]⟩,  -- RTN_DSTRESS (R584)
   ⟨0x10, 0x0, 1, 0x0, 1, 32, [⟨27, 24, .ro, 0, .none⟩, ⟨11, 0, .ro, 0, .none⟩]⟩,  -- RTN_DTJ (R588)
   ⟨0x14, 0x0, 1, 0x0, 1, 32, [⟨31, 16, .ro, 0, .none⟩, ⟨15, 0, .ro, 0, .none⟩]⟩,  -- RTN_DE (R575)
   ⟨0x18, 0x0, 1, 0x0, 1, 32, [⟨7, 0, .ro, 0, .none⟩]⟩,  -- RTN_DAFUSE (R584)
   ⟨0x100, 0x4, 27, 0x0, 1, 32, [⟨9, 0, .ro, 0, .none⟩]⟩  -- RTN_VFUSE (R583)
  ]

/-- Registers of a `ftfK` instance. -/
def regs_ftfK : List RegD :=
  []

/-- Registers of a `gatM` instance. -/
def regs_gatM : List RegD :=
  [⟨0x0, 0x4, 256, 0x0, 1, 32, [⟨7, 0, .rw, 255, .idle⟩]⟩,  -- GAT_FAR (R106)
   ⟨0x400, 0x4, 256, 0x0, 1, 32, [⟨7, 0, .rw, 255, .idle⟩]⟩,  -- GAT_POOL (R106)
   ⟨0xf000, 0x0, 1, 0x0, 1, 32, [⟨31, 31, .w1c, 0, .live⟩, ⟨30, 30, .w1c, 0, .live⟩, ⟨29, 28, .ro, 0, .none⟩, ⟨14, 12, .ro, 0, .none⟩, ⟨11, 8, .ro, 0, .none⟩, ⟨7, 0, .ro, 0, .none⟩]⟩,  -- GAT_BFINFO (R356)
   ⟨0xf008, 0x0, 1, 0x0, 1, 64, [⟨51, 0, .ro, 0, .none⟩]⟩,  -- GAT_BFADDR (R356)
   countReg 0xf010,  -- GAT_BFCNT (R356)
   countReg 0xf014  -- GAT_AFCNT (R356)
  ]

/-- Registers of a `gatK` instance. -/
def regs_gatK : List RegD :=
  [⟨0x0, 0x4, 16, 0x0, 1, 32, [⟨7, 0, .rw, 255, .idle⟩]⟩,  -- GAT_KTLY (R106)
   ⟨0xf000, 0x0, 1, 0x0, 1, 32, [⟨31, 31, .w1c, 0, .live⟩, ⟨30, 30, .w1c, 0, .live⟩, ⟨29, 28, .ro, 0, .none⟩, ⟨14, 12, .ro, 0, .none⟩, ⟨11, 8, .ro, 0, .none⟩, ⟨7, 0, .ro, 0, .none⟩]⟩,  -- GAT_BFINFO (R356)
   ⟨0xf008, 0x0, 1, 0x0, 1, 64, [⟨51, 0, .ro, 0, .none⟩]⟩,  -- GAT_BFADDR (R356)
   countReg 0xf010,  -- GAT_BFCNT (R356)
   countReg 0xf014  -- GAT_AFCNT (R356)
  ]

/-- Registers of a `gatH` instance. -/
def regs_gatH : List RegD :=
  [⟨0xf000, 0x0, 1, 0x0, 1, 32, [⟨31, 31, .w1c, 0, .live⟩, ⟨30, 30, .w1c, 0, .live⟩, ⟨29, 28, .ro, 0, .none⟩, ⟨14, 12, .ro, 0, .none⟩, ⟨11, 8, .ro, 0, .none⟩, ⟨7, 0, .ro, 0, .none⟩]⟩,  -- GAT_BFINFO (R356)
   ⟨0xf008, 0x0, 1, 0x0, 1, 64, [⟨51, 0, .ro, 0, .none⟩]⟩,  -- GAT_BFADDR (R356)
   countReg 0xf010,  -- GAT_BFCNT (R356)
   countReg 0xf014  -- GAT_AFCNT (R356)
  ]

/-- Registers of a `pstM` instance. -/
def regs_pstM : List RegD :=
  [countReg 0x0,  -- PST_DISCARD (R124)
   countReg 0x4,  -- PST_WALKS (R376)
   countReg 0x8,  -- PST_TRFAULT (R376)
   ⟨0x100, 0x4, 64, 0x0, 1, 32, [⟨31, 0, .rc, 0, .none⟩]⟩,  -- PST_ADMWAIT (R362)
   ⟨0x400, 0x4, 12, 0x0, 1, 32, [⟨23, 16, .ro, 0, .none⟩, ⟨15, 8, .ro, 0, .none⟩, ⟨7, 0, .ro, 0, .none⟩]⟩,  -- PST_TCAP (R360)
   ⟨0x800, 0x4, 64, 0x0, 1, 32, [⟨31, 0, .rc, 0, .none⟩]⟩  -- PST_SRV (R360)
  ]

/-- Registers of a `pstH` instance. -/
def regs_pstH : List RegD :=
  [countReg 0x0,  -- PST_DISCARD (R124)
   countReg 0x4,  -- PST_WALKS (R376)
   countReg 0x8,  -- PST_TRFAULT (R376)
   ⟨0x100, 0x4, 64, 0x0, 1, 32, [⟨31, 0, .rc, 0, .none⟩]⟩,  -- PST_ADMWAIT (R362)
   ⟨0x400, 0x4, 12, 0x0, 1, 32, [⟨23, 16, .ro, 0, .none⟩, ⟨15, 8, .ro, 0, .none⟩, ⟨7, 0, .ro, 0, .none⟩]⟩,  -- PST_TCAP (R360)
   ⟨0x800, 0x4, 64, 0x0, 1, 32, [⟨31, 0, .rc, 0, .none⟩]⟩,  -- PST_SRV (R360)
   ⟨0x1000, 0x0, 1, 0x0, 1, 32, [⟨21, 12, .ro, 0, .none⟩, ⟨9, 9, .rw, 1, .fixed⟩, ⟨8, 0, .rw, 0, .fixed⟩]⟩,  -- PST_MEMMAP (R44)
   ⟨0x1100, 0x8, 65, 0x0, 1, 64, [⟨63, 63, .rw, 0, .live⟩, ⟨51, 12, .rw, 0, .live⟩]⟩,  -- PST_XROOT (R373)
   ⟨0x1400, 0x4, 65, 0x0, 1, 32, [⟨31, 31, .rw, 0, .live⟩, ⟨19, 0, .rw, 0, .live⟩]⟩,  -- PST_XPASID (R380)
   ⟨0x1600, 0x0, 1, 0x0, 1, 64, [⟨63, 63, .rw, 0, .live⟩, ⟨62, 56, .rw, 0, .live⟩, ⟨55, 50, .rw, 0, .live⟩, ⟨47, 16, .rw, 0, .live⟩]⟩,  -- PST_INV (R378)
   ⟨0x1608, 0x0, 1, 0x0, 1, 32, [⟨31, 16, .ro, 0, .none⟩, ⟨2, 2, .w1c, 0, .live⟩, ⟨1, 1, .ro, 0, .none⟩, ⟨0, 0, .wo, 0, .live⟩]⟩,  -- PST_INVCTL (R378)
   ⟨0x1610, 0x0, 1, 0x0, 1, 32, [⟨16, 16, .ro, 0, .none⟩, ⟨9, 0, .ro, 0, .none⟩]⟩,  -- PST_PRISTAT (R383)
   countReg 0x1614,  -- PST_HOSTLOST (R355)
   countReg 0x1618  -- PST_BARREF (R358)
  ]

/-- The registers of the common header, at H + off (R64). -/
def regs_hdr : List RegD :=
  [⟨0x0, 0x0, 1, 0x0, 1, 32, [⟨31, 24, .ro, 0, .none⟩, ⟨23, 20, .ro, 0, .none⟩, ⟨19, 16, .ro, 0, .none⟩, ⟨10, 0, .ro, 0, .none⟩]⟩,  -- HDR_BLKINFO (R64)
   ⟨0x4, 0x0, 1, 0x0, 1, 32, [⟨15, 8, .ro, 0, .none⟩, ⟨3, 2, .ro, 0, .none⟩, ⟨1, 1, .w1c, 0, .live⟩, ⟨0, 0, .w1c, 0, .live⟩]⟩,  -- HDR_REFUSE (R64)
   ⟨0x8, 0x0, 1, 0x0, 1, 32, [⟨31, 0, .ro, 0, .none⟩]⟩,  -- HDR_REFADDR (R64)
   countReg 0xc,  -- HDR_REFCNT (R64)
   ⟨0x10, 0x0, 1, 0x0, 1, 32, [⟨2, 2, .ro, 0, .none⟩, ⟨1, 1, .ro, 0, .none⟩, ⟨0, 0, .ro, 1, .none⟩]⟩  -- HDR_STATE (R64)
  ]

/-- The registers of a kind of block. -/
def blkRegs (b : Blk) : List RegD :=
  match b with
  | .lea => regs_lea
  | .msh => regs_msh
  | .drvC => regs_drvC
  | .pst => regs_pst
  | .whs => regs_whs
  | .tlyL => regs_tlyL
  | .byr => regs_byr
  | .fld => regs_fld
  | .wlk => regs_wlk
  | .mst => regs_mst
  | .cul => regs_cul
  | .gat => regs_gat
  | .pdk => regs_pdk
  | .bel => regs_bel
  | .rtn => regs_rtn
  | .fbk => regs_fbk
  | .ftf => regs_ftf
  | .shp => regs_shp
  | .mem => regs_mem
  | .hst => regs_hst
  | .ltk => regs_ltk
  | .sec => regs_sec
  | .drvF => regs_drvF
  | .tlyK => regs_tlyK
  | .rtnA => regs_rtnA
  | .ftfK => regs_ftfK
  | .gatM => regs_gatM
  | .gatK => regs_gatK
  | .gatH => regs_gatH
  | .pstM => regs_pstM
  | .pstH => regs_pstH

end Sys2Proof.Machine
end

