-- ==== Sys2Proof/Machine/Fields.lean ====
section
/-! DEFINITION. A name for every register field of the spec: REGISTER_field, where it lies. The place is the spec's; the
reset value and access code stand in the register tables. -/

namespace Sys2Proof.Machine

/-- Where a field lies: kind of block, offset of its register, the strides of the register's indices, bits hi down to lo. -/
structure Fld where
  blk : Blk
  off : Nat
  s1 : Nat
  s2 : Nat
  hi : Nat
  lo : Nat
deriving DecidableEq, Repr

/-- The field of the k-th register of an array. -/
def Fld.ix (f : Fld) (k : Nat) : Fld := { f with off := f.off + f.s1 * k }

/-- The field of the register with indices j and k. -/
def Fld.ix2 (f : Fld) (j k : Nat) : Fld := { f with off := f.off + f.s1 * j + f.s2 * k }

/-- The same field in another kind of block (core and far stream contexts share one layout). -/
def Fld.on (f : Fld) (b : Blk) : Fld := { f with blk := b }

-- SHP_DEVID, 01_device.md R32
def SHP_DEVID_device : Fld := ⟨.shp, 0x0, 0x0, 0x0, 31, 16⟩
def SHP_DEVID_step_letter : Fld := ⟨.shp, 0x0, 0x0, 0x0, 15, 12⟩
def SHP_DEVID_step_number : Fld := ⟨.shp, 0x0, 0x0, 0x0, 11, 8⟩
def SHP_DEVID_bin : Fld := ⟨.shp, 0x0, 0x0, 0x0, 7, 4⟩
-- SHP_RATING, 01_device.md R32
def SHP_RATING_inlet_max_c : Fld := ⟨.shp, 0x4, 0x0, 0x0, 23, 16⟩
def SHP_RATING_fmax_mhz : Fld := ⟨.shp, 0x4, 0x0, 0x0, 10, 0⟩
-- HST_APER, 02_package_grid.md R51
def HST_APER_die : Fld := ⟨.hst, 0x100, 0x0, 0x0, 3, 0⟩
-- PDK_APER, 02_package_grid.md R53
def PDK_APER_group : Fld := ⟨.pdk, 0x80, 0x0, 0x0, 2, 0⟩
-- BEL_CFG, 03_bell.md R78
def BEL_CFG_ptp_grant : Fld := ⟨.bel, 0x0, 0x0, 0x0, 4, 4⟩
def BEL_CFG_ptp_port : Fld := ⟨.bel, 0x0, 0x0, 0x0, 3, 1⟩
def BEL_CFG_fallback_ptp : Fld := ⟨.bel, 0x0, 0x0, 0x0, 0, 0⟩
-- BEL_PERIOD, 03_bell.md R72
def BEL_PERIOD_period_us : Fld := ⟨.bel, 0x4, 0x0, 0x0, 13, 0⟩
-- BEL_STAGGER, 03_bell.md R81
def BEL_STAGGER_offset_us : Fld := ⟨.bel, 0x8, 0x0, 0x0, 9, 0⟩
-- BEL_CTRL, 03_bell.md R75
def BEL_CTRL_start : Fld := ⟨.bel, 0xc, 0x0, 0x0, 0, 0⟩
-- BEL_TICK, 03_bell.md R77
def BEL_TICK_tick : Fld := ⟨.bel, 0x10, 0x0, 0x0, 63, 0⟩
-- BEL_STATUS, 03_bell.md R80
def BEL_STATUS_relock_count : Fld := ⟨.bel, 0x18, 0x0, 0x0, 19, 16⟩
def BEL_STATUS_alive : Fld := ⟨.bel, 0x18, 0x0, 0x0, 15, 14⟩
def BEL_STATUS_stagger_clamped : Fld := ⟨.bel, 0x18, 0x0, 0x0, 13, 13⟩
def BEL_STATUS_period_clamped : Fld := ⟨.bel, 0x18, 0x0, 0x0, 12, 12⟩
def BEL_STATUS_ptp_locked : Fld := ⟨.bel, 0x18, 0x0, 0x0, 11, 11⟩
def BEL_STATUS_flywheel_count : Fld := ⟨.bel, 0x18, 0x0, 0x0, 10, 4⟩
def BEL_STATUS_bell_lock : Fld := ⟨.bel, 0x18, 0x0, 0x0, 3, 3⟩
def BEL_STATUS_state : Fld := ⟨.bel, 0x18, 0x0, 0x0, 2, 0⟩
-- BEL_MEAS, 03_bell.md R74
def BEL_MEAS_meas : Fld := ⟨.bel, 0x1c, 0x0, 0x0, 23, 0⟩
-- BEL_EVENT, 03_bell.md R80
def BEL_EVENT_glitch : Fld := ⟨.bel, 0x20, 0x0, 0x0, 5, 5⟩
def BEL_EVENT_ptp_lost : Fld := ⟨.bel, 0x20, 0x0, 0x0, 4, 4⟩
def BEL_EVENT_ptp_entered : Fld := ⟨.bel, 0x20, 0x0, 0x0, 3, 3⟩
def BEL_EVENT_lone_entered : Fld := ⟨.bel, 0x20, 0x0, 0x0, 2, 2⟩
def BEL_EVENT_relocked : Fld := ⟨.bel, 0x20, 0x0, 0x0, 1, 1⟩
def BEL_EVENT_lock_lost : Fld := ⟨.bel, 0x20, 0x0, 0x0, 0, 0⟩
-- BEL_GLITCH, 03_bell.md R73
def BEL_GLITCH_count : Fld := ⟨.bel, 0x24, 0x0, 0x0, 31, 0⟩
-- BEL_MISS, 03_bell.md R77
def BEL_MISS_count : Fld := ⟨.bel, 0x28, 0x0, 0x0, 31, 0⟩
-- BEL_CAL, 03_bell.md R83
def BEL_CAL_valid : Fld := ⟨.bel, 0x1000, 0x8, 0x0, 63, 63⟩
def BEL_CAL_class : Fld := ⟨.bel, 0x1000, 0x8, 0x0, 62, 56⟩
def BEL_CAL_target : Fld := ⟨.bel, 0x1000, 0x8, 0x0, 55, 48⟩
def BEL_CAL_tick : Fld := ⟨.bel, 0x1000, 0x8, 0x0, 47, 0⟩
-- PDK_GEOM, 04_paddocks.md R96
def PDK_GEOM_ph : Fld := ⟨.pdk, 0x0, 0x0, 0x0, 19, 16⟩
def PDK_GEOM_pw : Fld := ⟨.pdk, 0x0, 0x0, 0x0, 12, 8⟩
def PDK_GEOM_py0 : Fld := ⟨.pdk, 0x0, 0x0, 0x0, 6, 4⟩
def PDK_GEOM_px0 : Fld := ⟨.pdk, 0x0, 0x0, 0x0, 3, 0⟩
-- PDK_MODE, 04_paddocks.md R97
def PDK_MODE_near : Fld := ⟨.pdk, 0x4, 0x0, 0x0, 1, 1⟩
def PDK_MODE_integrity : Fld := ⟨.pdk, 0x4, 0x0, 0x0, 0, 0⟩
-- PDK_CMD, 04_paddocks.md R100
def PDK_CMD_op : Fld := ⟨.pdk, 0x8, 0x0, 0x0, 2, 0⟩
-- PDK_STATUS, 04_paddocks.md R100
def PDK_STATUS_cmd_busy : Fld := ⟨.pdk, 0xc, 0x0, 0x0, 20, 20⟩
def PDK_STATUS_cmd_err : Fld := ⟨.pdk, 0xc, 0x0, 0x0, 19, 16⟩
def PDK_STATUS_share_clamped : Fld := ⟨.pdk, 0xc, 0x0, 0x0, 13, 13⟩
def PDK_STATUS_merged : Fld := ⟨.pdk, 0xc, 0x0, 0x0, 12, 12⟩
def PDK_STATUS_cause : Fld := ⟨.pdk, 0xc, 0x0, 0x0, 11, 8⟩
def PDK_STATUS_state : Fld := ⟨.pdk, 0xc, 0x0, 0x0, 2, 0⟩
-- PDK_PSHARE, 04_paddocks.md R117
def PDK_PSHARE_cap : Fld := ⟨.pdk, 0x10, 0x0, 0x0, 24, 16⟩
def PDK_PSHARE_min : Fld := ⟨.pdk, 0x10, 0x0, 0x0, 8, 0⟩
-- PDK_RSHARE, 04_paddocks.md R117
def PDK_RSHARE_cap : Fld := ⟨.pdk, 0x14, 0x0, 0x0, 31, 16⟩
def PDK_RSHARE_min : Fld := ⟨.pdk, 0x14, 0x0, 0x0, 15, 0⟩
-- PDK_PEFF, 04_paddocks.md R117
def PDK_PEFF_eff_cap : Fld := ⟨.pdk, 0x18, 0x0, 0x0, 24, 16⟩
def PDK_PEFF_eff_min : Fld := ⟨.pdk, 0x18, 0x0, 0x0, 8, 0⟩
-- PDK_REGCNT, 04_paddocks.md R113
def PDK_REGCNT_count : Fld := ⟨.pdk, 0x1c, 0x0, 0x0, 31, 0⟩
-- PDK_FTICK, 04_paddocks.md R113
def PDK_FTICK_tick : Fld := ⟨.pdk, 0x20, 0x0, 0x0, 63, 0⟩
-- PDK_FINFO, 04_paddocks.md R113
def PDK_FINFO_reads_discarded : Fld := ⟨.pdk, 0x28, 0x0, 0x0, 31, 16⟩
def PDK_FINFO_msix_discarded : Fld := ⟨.pdk, 0x28, 0x0, 0x0, 15, 8⟩
def PDK_FINFO_valid : Fld := ⟨.pdk, 0x28, 0x0, 0x0, 5, 5⟩
def PDK_FINFO_timed_out : Fld := ⟨.pdk, 0x28, 0x0, 0x0, 4, 4⟩
def PDK_FINFO_cause : Fld := ⟨.pdk, 0x28, 0x0, 0x0, 3, 0⟩
-- PDK_FSEQ, 04_paddocks.md R113
def PDK_FSEQ_seq : Fld := ⟨.pdk, 0x2c, 0x0, 0x0, 31, 0⟩
-- PDK_FCQ, 04_paddocks.md R113
def PDK_FCQ_last_final : Fld := ⟨.pdk, 0x40, 0x4, 0x0, 31, 0⟩
-- PDK_ASSIGN, 04_paddocks.md R100
def PDK_ASSIGN_valid : Fld := ⟨.pdk, 0x60, 0x4, 0x0, 31, 31⟩
def PDK_ASSIGN_kind : Fld := ⟨.pdk, 0x60, 0x4, 0x0, 30, 28⟩
def PDK_ASSIGN_die : Fld := ⟨.pdk, 0x60, 0x4, 0x0, 27, 24⟩
def PDK_ASSIGN_count_m1 : Fld := ⟨.pdk, 0x60, 0x4, 0x0, 15, 8⟩
def PDK_ASSIGN_first : Fld := ⟨.pdk, 0x60, 0x4, 0x0, 7, 0⟩
-- PDK_VEC, 04_paddocks.md R109
def PDK_VEC_vector : Fld := ⟨.pdk, 0x100, 0x4, 0x0, 12, 8⟩
def PDK_VEC_coalesce : Fld := ⟨.pdk, 0x100, 0x4, 0x0, 1, 1⟩
def PDK_VEC_enable : Fld := ⟨.pdk, 0x100, 0x4, 0x0, 0, 0⟩
-- GAT_CORE, 04_paddocks.md R106
def GAT_CORE_muster : Fld := ⟨.gat, 0x0, 0x4, 0x0, 8, 8⟩
def GAT_CORE_owner : Fld := ⟨.gat, 0x0, 0x4, 0x0, 7, 0⟩
-- GAT_TLY, 04_paddocks.md R106
def GAT_TLY_owner : Fld := ⟨.gat, 0x400, 0x4, 0x0, 7, 0⟩
-- GAT_FAR, 04_paddocks.md R106
def GAT_FAR_owner : Fld := ⟨.gatM, 0x0, 0x4, 0x0, 7, 0⟩
-- GAT_POOL, 04_paddocks.md R106
def GAT_POOL_owner : Fld := ⟨.gatM, 0x400, 0x4, 0x0, 7, 0⟩
-- GAT_KTLY, 04_paddocks.md R106
def GAT_KTLY_owner : Fld := ⟨.gatK, 0x0, 0x4, 0x0, 7, 0⟩
-- LEA_CORECFG, 05_core_bundle.md R131
def LEA_CORECFG_task_enable : Fld := ⟨.lea, 0x0, 0x0, 0x0, 3, 0⟩
-- LEA_CORESTAT, 05_core_bundle.md R139
def LEA_CORESTAT_div_busy : Fld := ⟨.lea, 0x4, 0x0, 0x0, 21, 21⟩
def LEA_CORESTAT_x_head_stall : Fld := ⟨.lea, 0x4, 0x0, 0x0, 20, 20⟩
def LEA_CORESTAT_x_occ : Fld := ⟨.lea, 0x4, 0x0, 0x0, 19, 16⟩
def LEA_CORESTAT_v_occ : Fld := ⟨.lea, 0x4, 0x0, 0x0, 15, 12⟩
def LEA_CORESTAT_m_occ : Fld := ⟨.lea, 0x4, 0x0, 0x0, 11, 8⟩
def LEA_CORESTAT_stalled : Fld := ⟨.lea, 0x4, 0x0, 0x0, 7, 4⟩
def LEA_CORESTAT_running : Fld := ⟨.lea, 0x4, 0x0, 0x0, 3, 0⟩
-- LEA_TENTRY, 05_core_bundle.md R130
def LEA_TENTRY_entry : Fld := ⟨.lea, 0x10, 0x4, 0x0, 10, 0⟩
-- LEA_TBB, 05_core_bundle.md R130
def LEA_TBB_base : Fld := ⟨.lea, 0x20, 0x4, 0x0, 27, 16⟩
def LEA_TBB_bound : Fld := ⟨.lea, 0x20, 0x4, 0x0, 12, 0⟩
-- LEA_TCTL, 05_core_bundle.md R130
def LEA_TCTL_stop : Fld := ⟨.lea, 0x30, 0x4, 0x0, 2, 2⟩
def LEA_TCTL_resume : Fld := ⟨.lea, 0x30, 0x4, 0x0, 1, 1⟩
def LEA_TCTL_start : Fld := ⟨.lea, 0x30, 0x4, 0x0, 0, 0⟩
-- LEA_TSTAT, 05_core_bundle.md R130
def LEA_TSTAT_pc : Fld := ⟨.lea, 0x40, 0x4, 0x0, 26, 16⟩
def LEA_TSTAT_reason : Fld := ⟨.lea, 0x40, 0x4, 0x0, 7, 4⟩
def LEA_TSTAT_state : Fld := ⟨.lea, 0x40, 0x4, 0x0, 1, 0⟩
-- LEA_TEXC, 05_core_bundle.md R151
def LEA_TEXC_valid : Fld := ⟨.lea, 0x50, 0x4, 0x0, 31, 31⟩
def LEA_TEXC_async : Fld := ⟨.lea, 0x50, 0x4, 0x0, 30, 30⟩
def LEA_TEXC_slot : Fld := ⟨.lea, 0x50, 0x4, 0x0, 29, 28⟩
def LEA_TEXC_lost : Fld := ⟨.lea, 0x50, 0x4, 0x0, 27, 27⟩
def LEA_TEXC_pc : Fld := ⟨.lea, 0x50, 0x4, 0x0, 26, 16⟩
def LEA_TEXC_subcode : Fld := ⟨.lea, 0x50, 0x4, 0x0, 15, 8⟩
def LEA_TEXC_code : Fld := ⟨.lea, 0x50, 0x4, 0x0, 7, 0⟩
-- LEA_TRET, 05_core_bundle.md R149
def LEA_TRET_retired : Fld := ⟨.lea, 0x60, 0x8, 0x0, 63, 0⟩
-- LEA_MSAT, 05_core_bundle.md R149
def LEA_MSAT_count : Fld := ⟨.lea, 0x80, 0x0, 0x0, 31, 0⟩
-- LEA_VSAT, 05_core_bundle.md R149
def LEA_VSAT_count : Fld := ⟨.lea, 0x84, 0x0, 0x0, 31, 0⟩
-- LEA_XSAT, 05_core_bundle.md R149
def LEA_XSAT_count : Fld := ⟨.lea, 0x88, 0x0, 0x0, 31, 0⟩
-- LEA_XHEAD, 05_core_bundle.md R149
def LEA_XHEAD_count : Fld := ⟨.lea, 0x8c, 0x0, 0x0, 31, 0⟩
-- LEA_TG, 05_core_bundle.md R130
def LEA_TG_value : Fld := ⟨.lea, 0x800, 0x100, 0x8, 63, 0⟩
-- LEA_TPRED, 05_core_bundle.md R130
def LEA_TPRED_pred : Fld := ⟨.lea, 0xc00, 0x40, 0x0, 7, 0⟩
-- LEA_TLOOP, 05_core_bundle.md R130
def LEA_TLOOP_active : Fld := ⟨.lea, 0xc10, 0x40, 0x8, 63, 63⟩
def LEA_TLOOP_start : Fld := ⟨.lea, 0xc10, 0x40, 0x8, 58, 48⟩
def LEA_TLOOP_end : Fld := ⟨.lea, 0xc10, 0x40, 0x8, 42, 32⟩
def LEA_TLOOP_count : Fld := ⟨.lea, 0xc10, 0x40, 0x8, 31, 0⟩
-- LEA_MSTAT, 06_matrix.md R185
def LEA_MSTAT_suspect : Fld := ⟨.lea, 0x100, 0x0, 0x0, 19, 16⟩
def LEA_MSTAT_acc_fp : Fld := ⟨.lea, 0x100, 0x0, 0x0, 15, 12⟩
def LEA_MSTAT_plane_valid : Fld := ⟨.lea, 0x100, 0x0, 0x0, 11, 11⟩
def LEA_MSTAT_plane_fmt : Fld := ⟨.lea, 0x100, 0x0, 0x0, 10, 8⟩
def LEA_MSTAT_busy : Fld := ⟨.lea, 0x100, 0x0, 0x0, 0, 0⟩
-- LEA_MRES, 06_matrix.md R185
def LEA_MRES_valid : Fld := ⟨.lea, 0x108, 0x0, 0x0, 63, 63⟩
def LEA_MRES_overflow : Fld := ⟨.lea, 0x108, 0x0, 0x0, 62, 62⟩
def LEA_MRES_kind : Fld := ⟨.lea, 0x108, 0x0, 0x0, 61, 60⟩
def LEA_MRES_acc : Fld := ⟨.lea, 0x108, 0x0, 0x0, 59, 58⟩
def LEA_MRES_task : Fld := ⟨.lea, 0x108, 0x0, 0x0, 57, 56⟩
def LEA_MRES_pc : Fld := ⟨.lea, 0x108, 0x0, 0x0, 55, 45⟩
def LEA_MRES_row : Fld := ⟨.lea, 0x108, 0x0, 0x0, 44, 40⟩
def LEA_MRES_col : Fld := ⟨.lea, 0x108, 0x0, 0x0, 39, 35⟩
def LEA_MRES_fmt : Fld := ⟨.lea, 0x108, 0x0, 0x0, 34, 32⟩
def LEA_MRES_dispatch : Fld := ⟨.lea, 0x108, 0x0, 0x0, 31, 0⟩
-- LEA_MRCNT, 06_matrix.md R185
def LEA_MRCNT_count : Fld := ⟨.lea, 0x110, 0x0, 0x0, 31, 0⟩
-- LEA_MBUSY, 06_matrix.md R185
def LEA_MBUSY_count : Fld := ⟨.lea, 0x114, 0x0, 0x0, 31, 0⟩
-- LEA_MWAIT, 06_matrix.md R185
def LEA_MWAIT_count : Fld := ⟨.lea, 0x118, 0x0, 0x0, 31, 0⟩
-- LEA_MINJ, 06_matrix.md R188
def LEA_MINJ_arm : Fld := ⟨.lea, 0x120, 0x0, 0x0, 31, 31⟩
def LEA_MINJ_acc : Fld := ⟨.lea, 0x120, 0x0, 0x0, 29, 28⟩
def LEA_MINJ_row : Fld := ⟨.lea, 0x120, 0x0, 0x0, 27, 23⟩
def LEA_MINJ_col : Fld := ⟨.lea, 0x120, 0x0, 0x0, 22, 18⟩
def LEA_MINJ_bit : Fld := ⟨.lea, 0x120, 0x0, 0x0, 17, 13⟩
-- LEA_VSTAT, 07_vector.md R224
def LEA_VSTAT_busy : Fld := ⟨.lea, 0x180, 0x0, 0x0, 0, 0⟩
-- LEA_VBEAT, 07_vector.md R224
def LEA_VBEAT_count : Fld := ⟨.lea, 0x184, 0x0, 0x0, 31, 0⟩
-- LEA_VLINE, 07_vector.md R224
def LEA_VLINE_count : Fld := ⟨.lea, 0x188, 0x0, 0x0, 31, 0⟩
-- LEA_VDEP, 07_vector.md R224
def LEA_VDEP_count : Fld := ⟨.lea, 0x18c, 0x0, 0x0, 31, 0⟩
-- LEA_VCLIP, 07_vector.md R224
def LEA_VCLIP_count : Fld := ⟨.lea, 0x190, 0x0, 0x0, 31, 0⟩
-- LEA_VNAN, 07_vector.md R224
def LEA_VNAN_count : Fld := ⟨.lea, 0x194, 0x0, 0x0, 31, 0⟩
-- LEA_VWSEL, 07_vector.md R227
def LEA_VWSEL_half : Fld := ⟨.lea, 0x1a0, 0x0, 0x0, 12, 12⟩
def LEA_VWSEL_row : Fld := ⟨.lea, 0x1a0, 0x0, 0x0, 11, 7⟩
def LEA_VWSEL_index : Fld := ⟨.lea, 0x1a0, 0x0, 0x0, 6, 2⟩
def LEA_VWSEL_kind : Fld := ⟨.lea, 0x1a0, 0x0, 0x0, 1, 0⟩
-- LEA_VWDATA, 07_vector.md R227
def LEA_VWDATA_value : Fld := ⟨.lea, 0x1c0, 0x8, 0x0, 63, 0⟩
-- LEA_SPCFG, 08_scratchpad.md R238
def LEA_SPCFG_hash : Fld := ⟨.lea, 0x200, 0x0, 0x0, 1, 1⟩
def LEA_SPCFG_split : Fld := ⟨.lea, 0x200, 0x0, 0x0, 0, 0⟩
-- LEA_SPCONF, 08_scratchpad.md R246
def LEA_SPCONF_count : Fld := ⟨.lea, 0x210, 0x4, 0x0, 31, 0⟩
-- LEA_SPBSEL, 08_scratchpad.md R258
def LEA_SPBSEL_dir : Fld := ⟨.lea, 0x230, 0x0, 0x0, 7, 7⟩
def LEA_SPBSEL_region : Fld := ⟨.lea, 0x230, 0x0, 0x0, 6, 5⟩
def LEA_SPBSEL_bank : Fld := ⟨.lea, 0x230, 0x0, 0x0, 4, 0⟩
-- LEA_SPBCNT, 08_scratchpad.md R258
def LEA_SPBCNT_count : Fld := ⟨.lea, 0x234, 0x0, 0x0, 31, 0⟩
-- LEA_SPCE, 08_scratchpad.md R249
def LEA_SPCE_count : Fld := ⟨.lea, 0x240, 0x0, 0x0, 31, 0⟩
-- LEA_SPUECNT, 08_scratchpad.md R250
def LEA_SPUECNT_count : Fld := ⟨.lea, 0x244, 0x0, 0x0, 31, 0⟩
-- LEA_SPUE, 08_scratchpad.md R250
def LEA_SPUE_valid : Fld := ⟨.lea, 0x248, 0x0, 0x0, 63, 63⟩
def LEA_SPUE_overflow : Fld := ⟨.lea, 0x248, 0x0, 0x0, 62, 62⟩
def LEA_SPUE_class : Fld := ⟨.lea, 0x248, 0x0, 0x0, 61, 59⟩
def LEA_SPUE_merge : Fld := ⟨.lea, 0x248, 0x0, 0x0, 58, 58⟩
def LEA_SPUE_task : Fld := ⟨.lea, 0x248, 0x0, 0x0, 57, 56⟩
def LEA_SPUE_offset : Fld := ⟨.lea, 0x248, 0x0, 0x0, 19, 0⟩
-- MSH_CFG, 09_lea_mesh.md R267
def MSH_CFG_hcount : Fld := ⟨.msh, 0x0, 0x0, 0x0, 22, 16⟩
def MSH_CFG_period_m1 : Fld := ⟨.msh, 0x0, 0x0, 0x0, 11, 0⟩
-- MSH_FENCE, 09_lea_mesh.md R287
def MSH_FENCE_fence_w : Fld := ⟨.msh, 0x4, 0x0, 0x0, 3, 3⟩
def MSH_FENCE_fence_s : Fld := ⟨.msh, 0x4, 0x0, 0x0, 2, 2⟩
def MSH_FENCE_fence_e : Fld := ⟨.msh, 0x4, 0x0, 0x0, 1, 1⟩
def MSH_FENCE_fence_n : Fld := ⟨.msh, 0x4, 0x0, 0x0, 0, 0⟩
-- MSH_STAT, 09_lea_mesh.md R267
def MSH_STAT_hidx : Fld := ⟨.msh, 0x8, 0x0, 0x0, 21, 16⟩
def MSH_STAT_sched_stop : Fld := ⟨.msh, 0x8, 0x0, 0x0, 15, 15⟩
def MSH_STAT_hold_bit : Fld := ⟨.msh, 0x8, 0x0, 0x0, 14, 14⟩
def MSH_STAT_held : Fld := ⟨.msh, 0x8, 0x0, 0x0, 13, 13⟩
def MSH_STAT_running : Fld := ⟨.msh, 0x8, 0x0, 0x0, 12, 12⟩
def MSH_STAT_sc : Fld := ⟨.msh, 0x8, 0x0, 0x0, 11, 0⟩
-- MSH_FIFO, 09_lea_mesh.md R265
def MSH_FIFO_ej_commit : Fld := ⟨.msh, 0xc, 0x0, 0x0, 19, 19⟩
def MSH_FIFO_inj_commit : Fld := ⟨.msh, 0xc, 0x0, 0x0, 18, 18⟩
def MSH_FIFO_ej_busy : Fld := ⟨.msh, 0xc, 0x0, 0x0, 17, 17⟩
def MSH_FIFO_inj_busy : Fld := ⟨.msh, 0xc, 0x0, 0x0, 16, 16⟩
def MSH_FIFO_ej_occ : Fld := ⟨.msh, 0xc, 0x0, 0x0, 12, 8⟩
def MSH_FIFO_inj_occ : Fld := ⟨.msh, 0xc, 0x0, 0x0, 4, 0⟩
-- MSH_RPSEL, 09_lea_mesh.md R264
def MSH_RPSEL_autoinc : Fld := ⟨.msh, 0x10, 0x0, 0x0, 31, 31⟩
def MSH_RPSEL_slot : Fld := ⟨.msh, 0x10, 0x0, 0x0, 11, 0⟩
-- MSH_RPDATA, 09_lea_mesh.md R264
def MSH_RPDATA_entry : Fld := ⟨.msh, 0x14, 0x0, 0x0, 15, 0⟩
-- MSH_HTSEL, 09_lea_mesh.md R278
def MSH_HTSEL_index : Fld := ⟨.msh, 0x18, 0x0, 0x0, 5, 0⟩
-- MSH_HT, 09_lea_mesh.md R278
def MSH_HT_valid : Fld := ⟨.msh, 0x20, 0x0, 0x0, 63, 63⟩
def MSH_HT_rem_ej : Fld := ⟨.msh, 0x20, 0x0, 0x0, 49, 44⟩
def MSH_HT_rem_inj : Fld := ⟨.msh, 0x20, 0x0, 0x0, 43, 38⟩
def MSH_HT_need_ej : Fld := ⟨.msh, 0x20, 0x0, 0x0, 37, 25⟩
def MSH_HT_need_inj : Fld := ⟨.msh, 0x20, 0x0, 0x0, 24, 12⟩
def MSH_HT_slot : Fld := ⟨.msh, 0x20, 0x0, 0x0, 11, 0⟩
-- MSH_HELDCNT, 09_lea_mesh.md R281
def MSH_HELDCNT_count : Fld := ⟨.msh, 0x40, 0x0, 0x0, 31, 0⟩
-- MSH_HOLDCNT, 09_lea_mesh.md R281
def MSH_HOLDCNT_count : Fld := ⟨.msh, 0x44, 0x0, 0x0, 31, 0⟩
-- MSH_DISCARD, 09_lea_mesh.md R265
def MSH_DISCARD_count : Fld := ⟨.msh, 0x48, 0x0, 0x0, 31, 0⟩
-- MSH_UNDER, 09_lea_mesh.md R266
def MSH_UNDER_count : Fld := ⟨.msh, 0x4c, 0x0, 0x0, 31, 0⟩
-- MSH_OVER, 09_lea_mesh.md R266
def MSH_OVER_count : Fld := ⟨.msh, 0x50, 0x0, 0x0, 31, 0⟩
-- MSH_FENCECNT, 09_lea_mesh.md R287
def MSH_FENCECNT_count : Fld := ⟨.msh, 0x54, 0x0, 0x0, 31, 0⟩
-- MSH_CE, 09_lea_mesh.md R288
def MSH_CE_count : Fld := ⟨.msh, 0x58, 0x0, 0x0, 31, 0⟩
-- MSH_UECNT, 09_lea_mesh.md R289
def MSH_UECNT_count : Fld := ⟨.msh, 0x5c, 0x0, 0x0, 31, 0⟩
-- MSH_POISON, 09_lea_mesh.md R289
def MSH_POISON_count : Fld := ⟨.msh, 0x60, 0x0, 0x0, 31, 0⟩
-- MSH_XDEP, 09_lea_mesh.md R275
def MSH_XDEP_count : Fld := ⟨.msh, 0x64, 0x0, 0x0, 31, 0⟩
-- MSH_HWHY, 09_lea_mesh.md R283
def MSH_HWHY_cycles : Fld := ⟨.msh, 0x70, 0x0, 0x0, 31, 16⟩
def MSH_HWHY_ej : Fld := ⟨.msh, 0x70, 0x0, 0x0, 9, 9⟩
def MSH_HWHY_inj : Fld := ⟨.msh, 0x70, 0x0, 0x0, 8, 8⟩
def MSH_HWHY_hidx : Fld := ⟨.msh, 0x70, 0x0, 0x0, 5, 0⟩
-- MSH_EVT, 09_lea_mesh.md R286
def MSH_EVT_long_hold : Fld := ⟨.msh, 0x78, 0x0, 0x0, 4, 4⟩
def MSH_EVT_ue : Fld := ⟨.msh, 0x78, 0x0, 0x0, 3, 3⟩
def MSH_EVT_fence : Fld := ⟨.msh, 0x78, 0x0, 0x0, 2, 2⟩
def MSH_EVT_over : Fld := ⟨.msh, 0x78, 0x0, 0x0, 1, 1⟩
def MSH_EVT_under : Fld := ⟨.msh, 0x78, 0x0, 0x0, 0, 0⟩
-- MSH_UE, 09_lea_mesh.md R289
def MSH_UE_valid : Fld := ⟨.msh, 0x80, 0x0, 0x0, 63, 63⟩
def MSH_UE_overflow : Fld := ⟨.msh, 0x80, 0x0, 0x0, 62, 62⟩
def MSH_UE_input : Fld := ⟨.msh, 0x80, 0x0, 0x0, 22, 20⟩
def MSH_UE_words : Fld := ⟨.msh, 0x80, 0x0, 0x0, 19, 12⟩
def MSH_UE_slot : Fld := ⟨.msh, 0x80, 0x0, 0x0, 11, 0⟩
-- DRV_BASE, 10_drover.md R303
def DRV_BASE_va : Fld := ⟨.drvC, 0x0, 0x80, 0x0, 47, 0⟩
-- DRV_SHAPE, 10_drover.md R303
def DRV_SHAPE_n3 : Fld := ⟨.drvC, 0x8, 0x80, 0x0, 63, 48⟩
def DRV_SHAPE_n2 : Fld := ⟨.drvC, 0x8, 0x80, 0x0, 47, 32⟩
def DRV_SHAPE_n1 : Fld := ⟨.drvC, 0x8, 0x80, 0x0, 31, 16⟩
def DRV_SHAPE_n0 : Fld := ⟨.drvC, 0x8, 0x80, 0x0, 15, 0⟩
-- DRV_STRIDE, 10_drover.md R303
def DRV_STRIDE_stride : Fld := ⟨.drvC, 0x10, 0x80, 0x8, 47, 0⟩
-- DRV_BUF, 10_drover.md R305
def DRV_BUF_bsize : Fld := ⟨.drvC, 0x28, 0x80, 0x0, 59, 40⟩
def DRV_BUF_pong : Fld := ⟨.drvC, 0x28, 0x80, 0x0, 39, 20⟩
def DRV_BUF_ping : Fld := ⟨.drvC, 0x28, 0x80, 0x0, 19, 0⟩
-- DRV_DBASE, 10_drover.md R304
def DRV_DBASE_va : Fld := ⟨.drvC, 0x30, 0x80, 0x0, 47, 0⟩
-- DRV_SIG, 10_drover.md R312
def DRV_SIG_en : Fld := ⟨.drvC, 0x38, 0x80, 0x0, 31, 31⟩
def DRV_SIG_k0 : Fld := ⟨.drvC, 0x38, 0x80, 0x0, 30, 30⟩
def DRV_SIG_die : Fld := ⟨.drvC, 0x38, 0x80, 0x0, 26, 24⟩
def DRV_SIG_index : Fld := ⟨.drvC, 0x38, 0x80, 0x0, 11, 0⟩
-- DRV_CTL, 10_drover.md R305
def DRV_CTL_rearm : Fld := ⟨.drvC, 0x40, 0x80, 0x0, 3, 3⟩
def DRV_CTL_resume : Fld := ⟨.drvC, 0x40, 0x80, 0x0, 2, 2⟩
def DRV_CTL_halt : Fld := ⟨.drvC, 0x40, 0x80, 0x0, 1, 1⟩
def DRV_CTL_arm : Fld := ⟨.drvC, 0x40, 0x80, 0x0, 0, 0⟩
-- DRV_CTXCFG, 10_drover.md R305
def DRV_CTXCFG_drain_rate : Fld := ⟨.drvC, 0x48, 0x80, 0x0, 19, 8⟩
def DRV_CTXCFG_autores : Fld := ⟨.drvC, 0x48, 0x80, 0x0, 6, 6⟩
def DRV_CTXCFG_task : Fld := ⟨.drvC, 0x48, 0x80, 0x0, 5, 4⟩
def DRV_CTXCFG_persistent : Fld := ⟨.drvC, 0x48, 0x80, 0x0, 3, 3⟩
def DRV_CTXCFG_esz : Fld := ⟨.drvC, 0x48, 0x80, 0x0, 2, 1⟩
def DRV_CTXCFG_dir : Fld := ⟨.drvC, 0x48, 0x80, 0x0, 0, 0⟩
-- DRV_CTXSTAT, 10_drover.md R305
def DRV_CTXSTAT_arm_err : Fld := ⟨.drvC, 0x4c, 0x80, 0x0, 22, 20⟩
def DRV_CTXSTAT_halt_cause : Fld := ⟨.drvC, 0x4c, 0x80, 0x0, 19, 18⟩
def DRV_CTXSTAT_ended : Fld := ⟨.drvC, 0x4c, 0x80, 0x0, 17, 17⟩
def DRV_CTXSTAT_rearm_req : Fld := ⟨.drvC, 0x4c, 0x80, 0x0, 16, 16⟩
def DRV_CTXSTAT_outst : Fld := ⟨.drvC, 0x4c, 0x80, 0x0, 12, 8⟩
def DRV_CTXSTAT_buf1 : Fld := ⟨.drvC, 0x4c, 0x80, 0x0, 7, 6⟩
def DRV_CTXSTAT_buf0 : Fld := ⟨.drvC, 0x4c, 0x80, 0x0, 5, 4⟩
def DRV_CTXSTAT_phase : Fld := ⟨.drvC, 0x4c, 0x80, 0x0, 3, 3⟩
def DRV_CTXSTAT_state : Fld := ⟨.drvC, 0x4c, 0x80, 0x0, 1, 0⟩
-- DRV_POS, 10_drover.md R308
def DRV_POS_i3 : Fld := ⟨.drvC, 0x50, 0x80, 0x0, 63, 48⟩
def DRV_POS_i2 : Fld := ⟨.drvC, 0x50, 0x80, 0x0, 47, 32⟩
def DRV_POS_i1 : Fld := ⟨.drvC, 0x50, 0x80, 0x0, 31, 16⟩
def DRV_POS_i0 : Fld := ⟨.drvC, 0x50, 0x80, 0x0, 15, 0⟩
-- DRV_DONE, 10_drover.md R312
def DRV_DONE_done : Fld := ⟨.drvC, 0x58, 0x80, 0x0, 31, 0⟩
-- DRV_TTE, 10_drover.md R320
def DRV_TTE_tte : Fld := ⟨.drvC, 0x5c, 0x80, 0x0, 23, 0⟩
-- DRV_SAT, 10_drover.md R322
def DRV_SAT_count : Fld := ⟨.drvC, 0x60, 0x80, 0x0, 31, 0⟩
-- DRV_PWAIT, 10_drover.md R322
def DRV_PWAIT_count : Fld := ⟨.drvC, 0x64, 0x80, 0x0, 31, 0⟩
-- DRV_SMALL, 10_drover.md R307
def DRV_SMALL_count : Fld := ⟨.drvC, 0x68, 0x80, 0x0, 31, 0⟩
-- DRV_FCNT, 10_drover.md R326
def DRV_FCNT_count : Fld := ⟨.drvC, 0x6c, 0x80, 0x0, 31, 0⟩
-- DRV_MERGE, 10_drover.md R331
def DRV_MERGE_count : Fld := ⟨.drvC, 0x70, 0x80, 0x0, 31, 0⟩
-- DRV_REARM, 10_drover.md R331
def DRV_REARM_bits : Fld := ⟨.drvC, 0x1000, 0x0, 0x0, 31, 0⟩
-- DRV_RESUME, 10_drover.md R324
def DRV_RESUME_bits : Fld := ⟨.drvC, 0x1004, 0x0, 0x0, 31, 0⟩
-- DRV_ARBWAIT, 10_drover.md R322
def DRV_ARBWAIT_count : Fld := ⟨.drvC, 0x1008, 0x0, 0x0, 31, 0⟩
-- DRV_TIME, 10_drover.md R302
def DRV_TIME_time : Fld := ⟨.drvC, 0x1010, 0x0, 0x0, 31, 0⟩
-- DRV_FREARM, 10_drover.md R331
def DRV_FREARM_bits : Fld := ⟨.drvF, 0x200000, 0x4, 0x0, 31, 0⟩
-- DRV_FRESUME, 10_drover.md R324
def DRV_FRESUME_bits : Fld := ⟨.drvF, 0x201000, 0x4, 0x0, 31, 0⟩
-- DRV_FARBWAIT, 10_drover.md R322
def DRV_FARBWAIT_count : Fld := ⟨.drvF, 0x202000, 0x0, 0x0, 31, 0⟩
-- DRV_FTIME, 10_drover.md R302
def DRV_FTIME_time : Fld := ⟨.drvF, 0x202010, 0x0, 0x0, 31, 0⟩
-- PST_DISCARD, 11_pasture_memory.md R124
def PST_DISCARD_count : Fld := ⟨.pst, 0x0, 0x0, 0x0, 31, 0⟩
-- PST_WALKS, 11_pasture_memory.md R376
def PST_WALKS_count : Fld := ⟨.pst, 0x4, 0x0, 0x0, 31, 0⟩
-- PST_TRFAULT, 11_pasture_memory.md R376
def PST_TRFAULT_count : Fld := ⟨.pst, 0x8, 0x0, 0x0, 31, 0⟩
-- PST_ADMWAIT, 11_pasture_memory.md R362
def PST_ADMWAIT_count : Fld := ⟨.pst, 0x100, 0x4, 0x0, 31, 0⟩
-- PST_TCAP, 11_pasture_memory.md R360
def PST_TCAP_sys : Fld := ⟨.pstM, 0x400, 0x4, 0x0, 23, 16⟩
def PST_TCAP_cpad : Fld := ⟨.pstM, 0x400, 0x4, 0x0, 15, 8⟩
def PST_TCAP_c : Fld := ⟨.pstM, 0x400, 0x4, 0x0, 7, 0⟩
-- PST_SRV, 11_pasture_memory.md R360
def PST_SRV_count : Fld := ⟨.pstM, 0x800, 0x4, 0x0, 31, 0⟩
-- PST_MEMMAP, 11_pasture_memory.md R44
def PST_MEMMAP_usable_gib : Fld := ⟨.pstH, 0x1000, 0x0, 0x0, 21, 12⟩
def PST_MEMMAP_iecc : Fld := ⟨.pstH, 0x1000, 0x0, 0x0, 9, 9⟩
def PST_MEMMAP_near_r : Fld := ⟨.pstH, 0x1000, 0x0, 0x0, 8, 0⟩
-- PST_XROOT, 11_pasture_memory.md R373
def PST_XROOT_en : Fld := ⟨.pstH, 0x1100, 0x8, 0x0, 63, 63⟩
def PST_XROOT_root : Fld := ⟨.pstH, 0x1100, 0x8, 0x0, 51, 12⟩
-- PST_XPASID, 11_pasture_memory.md R380
def PST_XPASID_pasid_en : Fld := ⟨.pstH, 0x1400, 0x4, 0x0, 31, 31⟩
def PST_XPASID_pasid : Fld := ⟨.pstH, 0x1400, 0x4, 0x0, 19, 0⟩
-- PST_INV, 11_pasture_memory.md R378
def PST_INV_all : Fld := ⟨.pstH, 0x1600, 0x0, 0x0, 63, 63⟩
def PST_INV_root : Fld := ⟨.pstH, 0x1600, 0x0, 0x0, 62, 56⟩
def PST_INV_size_log : Fld := ⟨.pstH, 0x1600, 0x0, 0x0, 55, 50⟩
def PST_INV_va : Fld := ⟨.pstH, 0x1600, 0x0, 0x0, 47, 16⟩
-- PST_INVCTL, 11_pasture_memory.md R378
def PST_INVCTL_done_seq : Fld := ⟨.pstH, 0x1608, 0x0, 0x0, 31, 16⟩
def PST_INVCTL_err : Fld := ⟨.pstH, 0x1608, 0x0, 0x0, 2, 2⟩
def PST_INVCTL_busy : Fld := ⟨.pstH, 0x1608, 0x0, 0x0, 1, 1⟩
def PST_INVCTL_go : Fld := ⟨.pstH, 0x1608, 0x0, 0x0, 0, 0⟩
-- PST_PRISTAT, 11_pasture_memory.md R383
def PST_PRISTAT_stopped : Fld := ⟨.pstH, 0x1610, 0x0, 0x0, 16, 16⟩
def PST_PRISTAT_outstanding : Fld := ⟨.pstH, 0x1610, 0x0, 0x0, 9, 0⟩
-- PST_HOSTLOST, 11_pasture_memory.md R355
def PST_HOSTLOST_count : Fld := ⟨.pstH, 0x1614, 0x0, 0x0, 31, 0⟩
-- PST_BARREF, 11_pasture_memory.md R358
def PST_BARREF_count : Fld := ⟨.pstH, 0x1618, 0x0, 0x0, 31, 0⟩
-- GAT_BFINFO, 11_pasture_memory.md R356
def GAT_BFINFO_valid : Fld := ⟨.gat, 0xf000, 0x0, 0x0, 31, 31⟩
def GAT_BFINFO_overflow : Fld := ⟨.gat, 0xf000, 0x0, 0x0, 30, 30⟩
def GAT_BFINFO_step : Fld := ⟨.gat, 0xf000, 0x0, 0x0, 29, 28⟩
def GAT_BFINFO_class : Fld := ⟨.gat, 0xf000, 0x0, 0x0, 14, 12⟩
def GAT_BFINFO_die : Fld := ⟨.gat, 0xf000, 0x0, 0x0, 11, 8⟩
def GAT_BFINFO_brand : Fld := ⟨.gat, 0xf000, 0x0, 0x0, 7, 0⟩
-- GAT_BFADDR, 11_pasture_memory.md R356
def GAT_BFADDR_addr : Fld := ⟨.gat, 0xf008, 0x0, 0x0, 51, 0⟩
-- GAT_BFCNT, 11_pasture_memory.md R356
def GAT_BFCNT_count : Fld := ⟨.gat, 0xf010, 0x0, 0x0, 31, 0⟩
-- GAT_AFCNT, 11_pasture_memory.md R356
def GAT_AFCNT_count : Fld := ⟨.gat, 0xf014, 0x0, 0x0, 31, 0⟩
-- MEM_CFG, 11_pasture_memory.md R366
def MEM_CFG_lpcamm : Fld := ⟨.mem, 0x0, 0x0, 0x0, 11, 11⟩
def MEM_CFG_port_gib : Fld := ⟨.mem, 0x0, 0x0, 0x0, 10, 4⟩
def MEM_CFG_iecc : Fld := ⟨.mem, 0x0, 0x0, 0x0, 3, 3⟩
def MEM_CFG_rate : Fld := ⟨.mem, 0x0, 0x0, 0x0, 1, 0⟩
-- MEM_STAT, 11_pasture_memory.md R366
def MEM_STAT_txn : Fld := ⟨.mem, 0x4, 0x0, 0x0, 26, 16⟩
def MEM_STAT_refresh_x : Fld := ⟨.mem, 0x4, 0x0, 0x0, 11, 8⟩
def MEM_STAT_self_refresh : Fld := ⟨.mem, 0x4, 0x0, 0x0, 2, 2⟩
def MEM_STAT_train_fail : Fld := ⟨.mem, 0x4, 0x0, 0x0, 1, 1⟩
def MEM_STAT_trained : Fld := ⟨.mem, 0x4, 0x0, 0x0, 0, 0⟩
-- MEM_SCRUB, 11_pasture_memory.md R372
def MEM_SCRUB_pass_h : Fld := ⟨.mem, 0x8, 0x0, 0x0, 15, 0⟩
-- MEM_CE, 11_pasture_memory.md R370
def MEM_CE_count : Fld := ⟨.mem, 0x10, 0x0, 0x0, 31, 0⟩
-- MEM_UECNT, 11_pasture_memory.md R370
def MEM_UECNT_count : Fld := ⟨.mem, 0x14, 0x0, 0x0, 31, 0⟩
-- MEM_POISON, 11_pasture_memory.md R371
def MEM_POISON_count : Fld := ⟨.mem, 0x18, 0x0, 0x0, 31, 0⟩
-- MEM_LINKCE, 11_pasture_memory.md R370
def MEM_LINKCE_count : Fld := ⟨.mem, 0x1c, 0x0, 0x0, 31, 0⟩
-- MEM_POISONLOST, 11_pasture_memory.md R371
def MEM_POISONLOST_count : Fld := ⟨.mem, 0x20, 0x0, 0x0, 31, 0⟩
-- MEM_UE, 11_pasture_memory.md R370
def MEM_UE_valid : Fld := ⟨.mem, 0x28, 0x0, 0x0, 63, 63⟩
def MEM_UE_overflow : Fld := ⟨.mem, 0x28, 0x0, 0x0, 62, 62⟩
def MEM_UE_channel : Fld := ⟨.mem, 0x28, 0x0, 0x0, 61, 60⟩
def MEM_UE_scrub : Fld := ⟨.mem, 0x28, 0x0, 0x0, 59, 59⟩
def MEM_UE_brand : Fld := ⟨.mem, 0x28, 0x0, 0x0, 47, 40⟩
def MEM_UE_addr : Fld := ⟨.mem, 0x28, 0x0, 0x0, 32, 0⟩
-- WHS_CFG, 12_whistle.md R406
def WHS_CFG_spill_die : Fld := ⟨.whs, 0x0, 0x0, 0x0, 8, 8⟩
def WHS_CFG_spill_pool : Fld := ⟨.whs, 0x0, 0x0, 0x0, 7, 0⟩
-- WHS_WIN, 12_whistle.md R404
def WHS_WIN_size : Fld := ⟨.whs, 0x8, 0x4, 0x0, 24, 12⟩
def WHS_WIN_base : Fld := ⟨.whs, 0x8, 0x4, 0x0, 11, 0⟩
-- WHS_TBIND, 12_whistle.md R404
def WHS_TBIND_valid : Fld := ⟨.whs, 0x40, 0x8, 0x0, 63, 63⟩
def WHS_TBIND_notify : Fld := ⟨.whs, 0x40, 0x8, 0x0, 38, 38⟩
def WHS_TBIND_window : Fld := ⟨.whs, 0x40, 0x8, 0x0, 37, 36⟩
def WHS_TBIND_queue : Fld := ⟨.whs, 0x40, 0x8, 0x0, 35, 33⟩
def WHS_TBIND_mode : Fld := ⟨.whs, 0x40, 0x8, 0x0, 32, 32⟩
def WHS_TBIND_mask : Fld := ⟨.whs, 0x40, 0x8, 0x0, 31, 16⟩
def WHS_TBIND_match : Fld := ⟨.whs, 0x40, 0x8, 0x0, 15, 0⟩
-- WHS_CONN, 12_whistle.md R400
def WHS_CONN_seq : Fld := ⟨.whs, 0x100, 0x8, 0x0, 35, 20⟩
def WHS_CONN_peer_entry : Fld := ⟨.whs, 0x100, 0x8, 0x0, 19, 14⟩
def WHS_CONN_peer : Fld := ⟨.whs, 0x100, 0x8, 0x0, 13, 3⟩
def WHS_CONN_state : Fld := ⟨.whs, 0x100, 0x8, 0x0, 2, 0⟩
-- WHS_RQSTAT, 12_whistle.md R407
def WHS_RQSTAT_spilled : Fld := ⟨.whs, 0x300, 0x4, 0x0, 23, 8⟩
def WHS_RQSTAT_occ : Fld := ⟨.whs, 0x300, 0x4, 0x0, 5, 0⟩
-- WHS_RQPOP, 12_whistle.md R416
def WHS_RQPOP_pop : Fld := ⟨.whs, 0x340, 0x0, 0x0, 7, 0⟩
-- WHS_RQHEAD, 12_whistle.md R416
def WHS_RQHEAD_value : Fld := ⟨.whs, 0x400, 0x80, 0x8, 63, 0⟩
-- WHS_SENT, 12_whistle.md R398
def WHS_SENT_count : Fld := ⟨.whs, 0x800, 0x0, 0x0, 31, 0⟩
-- WHS_LANDED, 12_whistle.md R403
def WHS_LANDED_count : Fld := ⟨.whs, 0x804, 0x0, 0x0, 31, 0⟩
-- WHS_SPILLCNT, 12_whistle.md R406
def WHS_SPILLCNT_count : Fld := ⟨.whs, 0x808, 0x0, 0x0, 31, 0⟩
-- WHS_BUSY, 12_whistle.md R408
def WHS_BUSY_count : Fld := ⟨.whs, 0x80c, 0x0, 0x0, 31, 0⟩
-- WHS_RETRY, 12_whistle.md R408
def WHS_RETRY_count : Fld := ⟨.whs, 0x810, 0x0, 0x0, 31, 0⟩
-- WHS_DUP, 12_whistle.md R409
def WHS_DUP_count : Fld := ⟨.whs, 0x814, 0x0, 0x0, 31, 0⟩
-- WHS_NOMATCH, 12_whistle.md R405
def WHS_NOMATCH_count : Fld := ⟨.whs, 0x818, 0x0, 0x0, 31, 0⟩
-- WHS_SSAT, 12_whistle.md R398
def WHS_SSAT_count : Fld := ⟨.whs, 0x81c, 0x0, 0x0, 31, 0⟩
-- WHS_EVT, 12_whistle.md R405
def WHS_EVT_gate : Fld := ⟨.whs, 0x840, 0x0, 0x0, 4, 4⟩
def WHS_EVT_busy : Fld := ⟨.whs, 0x840, 0x0, 0x0, 3, 3⟩
def WHS_EVT_open_refused : Fld := ⟨.whs, 0x840, 0x0, 0x0, 2, 2⟩
def WHS_EVT_outside : Fld := ⟨.whs, 0x840, 0x0, 0x0, 1, 1⟩
def WHS_EVT_nomatch : Fld := ⟨.whs, 0x840, 0x0, 0x0, 0, 0⟩
-- TLY_CNT, 13_tally.md R424
def TLY_CNT_value : Fld := ⟨.tlyL, 0x0, 0x8, 0x0, 63, 0⟩
-- TLY_ADD, 13_tally.md R424
def TLY_ADD_delta : Fld := ⟨.tlyL, 0x10000, 0x8, 0x0, 63, 0⟩
-- TLY_WATCH, 13_tally.md R432
def TLY_WATCH_valid : Fld := ⟨.tlyL, 0x20000, 0x10, 0x0, 63, 63⟩
def TLY_WATCH_pending : Fld := ⟨.tlyL, 0x20000, 0x10, 0x0, 62, 62⟩
def TLY_WATCH_cond : Fld := ⟨.tlyL, 0x20000, 0x10, 0x0, 61, 60⟩
def TLY_WATCH_q : Fld := ⟨.tlyL, 0x20000, 0x10, 0x0, 59, 57⟩
def TLY_WATCH_dst : Fld := ⟨.tlyL, 0x20000, 0x10, 0x0, 56, 46⟩
def TLY_WATCH_cookie : Fld := ⟨.tlyL, 0x20000, 0x10, 0x0, 45, 30⟩
def TLY_WATCH_index : Fld := ⟨.tlyL, 0x20000, 0x10, 0x0, 29, 18⟩
-- TLY_WVAL, 13_tally.md R432
def TLY_WVAL_value : Fld := ⟨.tlyL, 0x20008, 0x10, 0x0, 63, 0⟩
-- TLY_OPS, 13_tally.md R424
def TLY_OPS_count : Fld := ⟨.tlyL, 0x30000, 0x0, 0x0, 31, 0⟩
-- TLY_FIRE, 13_tally.md R424
def TLY_FIRE_count : Fld := ⟨.tlyL, 0x30004, 0x0, 0x0, 31, 0⟩
-- TLY_FULL, 13_tally.md R424
def TLY_FULL_count : Fld := ⟨.tlyL, 0x30008, 0x0, 0x0, 31, 0⟩
-- TLY_QWAIT, 13_tally.md R424
def TLY_QWAIT_count : Fld := ⟨.tlyL, 0x3000c, 0x0, 0x0, 31, 0⟩
-- KTLY_CNT, 13_tally.md R424
def KTLY_CNT_value : Fld := ⟨.tlyK, 0x0, 0x8, 0x0, 63, 0⟩
-- KTLY_ADD, 13_tally.md R424
def KTLY_ADD_delta : Fld := ⟨.tlyK, 0x2000, 0x8, 0x0, 63, 0⟩
-- KTLY_WATCH, 13_tally.md R432
def KTLY_WATCH_valid : Fld := ⟨.tlyK, 0x4000, 0x10, 0x0, 63, 63⟩
def KTLY_WATCH_pending : Fld := ⟨.tlyK, 0x4000, 0x10, 0x0, 62, 62⟩
def KTLY_WATCH_cond : Fld := ⟨.tlyK, 0x4000, 0x10, 0x0, 61, 60⟩
def KTLY_WATCH_q : Fld := ⟨.tlyK, 0x4000, 0x10, 0x0, 59, 57⟩
def KTLY_WATCH_dst : Fld := ⟨.tlyK, 0x4000, 0x10, 0x0, 56, 46⟩
def KTLY_WATCH_cookie : Fld := ⟨.tlyK, 0x4000, 0x10, 0x0, 45, 30⟩
def KTLY_WATCH_index : Fld := ⟨.tlyK, 0x4000, 0x10, 0x0, 29, 18⟩
-- KTLY_WVAL, 13_tally.md R432
def KTLY_WVAL_value : Fld := ⟨.tlyK, 0x4008, 0x10, 0x0, 63, 0⟩
-- KTLY_OPS, 13_tally.md R424
def KTLY_OPS_count : Fld := ⟨.tlyK, 0x8000, 0x0, 0x0, 31, 0⟩
-- KTLY_FIRE, 13_tally.md R424
def KTLY_FIRE_count : Fld := ⟨.tlyK, 0x8004, 0x0, 0x0, 31, 0⟩
-- KTLY_FULL, 13_tally.md R424
def KTLY_FULL_count : Fld := ⟨.tlyK, 0x8008, 0x0, 0x0, 31, 0⟩
-- KTLY_QWAIT, 13_tally.md R424
def KTLY_QWAIT_count : Fld := ⟨.tlyK, 0x800c, 0x0, 0x0, 31, 0⟩
-- BYR_PBASE, 14_byre.md R450
def BYR_PBASE_pbase : Fld := ⟨.byr, 0x0, 0x40, 0x0, 51, 8⟩
-- BYR_PVBASE, 14_byre.md R450
def BYR_PVBASE_vbase : Fld := ⟨.byr, 0x8, 0x40, 0x0, 47, 8⟩
-- BYR_PLEDG, 14_byre.md R450
def BYR_PLEDG_ledger : Fld := ⟨.byr, 0x10, 0x40, 0x0, 51, 12⟩
-- BYR_PCFG, 14_byre.md R450
def BYR_PCFG_count : Fld := ⟨.byr, 0x18, 0x40, 0x0, 31, 12⟩
def BYR_PCFG_size_log : Fld := ⟨.byr, 0x18, 0x40, 0x0, 3, 0⟩
-- BYR_PTHR, 14_byre.md R462
def BYR_PTHR_amber : Fld := ⟨.byr, 0x20, 0x40, 0x0, 59, 40⟩
def BYR_PTHR_red : Fld := ⟨.byr, 0x20, 0x40, 0x0, 39, 20⟩
def BYR_PTHR_floor : Fld := ⟨.byr, 0x20, 0x40, 0x0, 19, 0⟩
-- BYR_PSTAT, 14_byre.md R448
def BYR_PSTAT_created : Fld := ⟨.byr, 0x28, 0x40, 0x0, 31, 31⟩
def BYR_PSTAT_rebuild : Fld := ⟨.byr, 0x28, 0x40, 0x0, 30, 30⟩
def BYR_PSTAT_broken : Fld := ⟨.byr, 0x28, 0x40, 0x0, 29, 29⟩
def BYR_PSTAT_amber : Fld := ⟨.byr, 0x28, 0x40, 0x0, 28, 28⟩
def BYR_PSTAT_red : Fld := ⟨.byr, 0x28, 0x40, 0x0, 27, 27⟩
def BYR_PSTAT_low : Fld := ⟨.byr, 0x28, 0x40, 0x0, 26, 26⟩
def BYR_PSTAT_overcommit : Fld := ⟨.byr, 0x28, 0x40, 0x0, 25, 25⟩
def BYR_PSTAT_reclaiming : Fld := ⟨.byr, 0x28, 0x40, 0x0, 24, 24⟩
def BYR_PSTAT_free : Fld := ⟨.byr, 0x28, 0x40, 0x0, 19, 0⟩
-- BYR_PREF, 14_byre.md R457
def BYR_PREF_count : Fld := ⟨.byr, 0x2c, 0x40, 0x0, 31, 0⟩
-- BYR_PGRANT, 14_byre.md R456
def BYR_PGRANT_count : Fld := ⟨.byr, 0x30, 0x40, 0x0, 31, 0⟩
-- BYR_QKEY, 14_byre.md R454
def BYR_QKEY_valid : Fld := ⟨.byr, 0x10000, 0x10, 0x0, 63, 63⟩
def BYR_QKEY_cls : Fld := ⟨.byr, 0x10000, 0x10, 0x0, 62, 61⟩
def BYR_QKEY_pool : Fld := ⟨.byr, 0x10000, 0x10, 0x0, 60, 53⟩
def BYR_QKEY_brand : Fld := ⟨.byr, 0x10000, 0x10, 0x0, 52, 45⟩
def BYR_QKEY_requester : Fld := ⟨.byr, 0x10000, 0x10, 0x0, 44, 25⟩
-- BYR_QLIM, 14_byre.md R454
def BYR_QLIM_quota : Fld := ⟨.byr, 0x10008, 0x10, 0x0, 19, 0⟩
-- BYR_QHELD, 14_byre.md R454
def BYR_QHELD_held : Fld := ⟨.byr, 0x1000c, 0x10, 0x0, 19, 0⟩
-- BYR_AUD, 14_byre.md R467
def BYR_AUD_count : Fld := ⟨.byr, 0x20000, 0x10, 0x4, 31, 0⟩
-- BYR_PCMD, 14_byre.md R449
def BYR_PCMD_pool : Fld := ⟨.byr, 0x30000, 0x0, 0x0, 15, 8⟩
def BYR_PCMD_op : Fld := ⟨.byr, 0x30000, 0x0, 0x0, 2, 0⟩
-- BYR_CMDSTAT, 14_byre.md R449
def BYR_CMDSTAT_busy : Fld := ⟨.byr, 0x30004, 0x0, 0x0, 31, 31⟩
def BYR_CMDSTAT_pool : Fld := ⟨.byr, 0x30004, 0x0, 0x0, 15, 8⟩
def BYR_CMDSTAT_err : Fld := ⟨.byr, 0x30004, 0x0, 0x0, 3, 0⟩
-- BYR_HGET, 14_byre.md R461
def BYR_HGET_requester : Fld := ⟨.byr, 0x30008, 0x0, 0x0, 27, 8⟩
def BYR_HGET_pool : Fld := ⟨.byr, 0x30008, 0x0, 0x0, 7, 0⟩
-- BYR_HRES, 14_byre.md R461
def BYR_HRES_seq : Fld := ⟨.byr, 0x30010, 0x0, 0x0, 63, 56⟩
def BYR_HRES_put : Fld := ⟨.byr, 0x30010, 0x0, 0x0, 55, 55⟩
def BYR_HRES_pa : Fld := ⟨.byr, 0x30010, 0x0, 0x0, 51, 8⟩
def BYR_HRES_status : Fld := ⟨.byr, 0x30010, 0x0, 0x0, 3, 0⟩
-- BYR_HPUT, 14_byre.md R461
def BYR_HPUT_pa : Fld := ⟨.byr, 0x30018, 0x0, 0x0, 51, 8⟩
def BYR_HPUT_pool : Fld := ⟨.byr, 0x30018, 0x0, 0x0, 7, 0⟩
-- BYR_LERR, 14_byre.md R464
def BYR_LERR_valid : Fld := ⟨.byr, 0x30020, 0x0, 0x0, 63, 63⟩
def BYR_LERR_overflow : Fld := ⟨.byr, 0x30020, 0x0, 0x0, 62, 62⟩
def BYR_LERR_kind : Fld := ⟨.byr, 0x30020, 0x0, 0x0, 59, 56⟩
def BYR_LERR_pool : Fld := ⟨.byr, 0x30020, 0x0, 0x0, 55, 48⟩
def BYR_LERR_index : Fld := ⟨.byr, 0x30020, 0x0, 0x0, 19, 0⟩
-- BYR_EVT, 14_byre.md R462
def BYR_EVT_broken : Fld := ⟨.byr, 0x30028, 0x0, 0x0, 3, 3⟩
def BYR_EVT_check : Fld := ⟨.byr, 0x30028, 0x0, 0x0, 2, 2⟩
def BYR_EVT_red : Fld := ⟨.byr, 0x30028, 0x0, 0x0, 1, 1⟩
def BYR_EVT_amber : Fld := ⟨.byr, 0x30028, 0x0, 0x0, 0, 0⟩
-- FLD_IMG, 15_fold.md R490
def FLD_IMG_base : Fld := ⟨.fld, 0x0, 0x40, 0x0, 51, 12⟩
-- FLD_IMGLEN, 15_fold.md R490
def FLD_IMGLEN_length : Fld := ⟨.fld, 0x8, 0x40, 0x0, 31, 0⟩
-- FLD_GOLD, 15_fold.md R492
def FLD_GOLD_base : Fld := ⟨.fld, 0x10, 0x40, 0x0, 51, 16⟩
-- FLD_GLEN, 15_fold.md R492
def FLD_GLEN_units : Fld := ⟨.fld, 0x18, 0x40, 0x0, 31, 0⟩
-- FLD_GNEED, 15_fold.md R492
def FLD_GNEED_units : Fld := ⟨.fld, 0x1c, 0x40, 0x0, 31, 0⟩
-- FLD_CMD, 15_fold.md R490
def FLD_CMD_section : Fld := ⟨.fld, 0x20, 0x40, 0x0, 11, 8⟩
def FLD_CMD_op : Fld := ⟨.fld, 0x20, 0x40, 0x0, 3, 0⟩
-- FLD_PSTAT, 15_fold.md R490
def FLD_PSTAT_busy : Fld := ⟨.fld, 0x24, 0x40, 0x0, 31, 31⟩
def FLD_PSTAT_golden_done : Fld := ⟨.fld, 0x24, 0x40, 0x0, 30, 30⟩
def FLD_PSTAT_attested : Fld := ⟨.fld, 0x24, 0x40, 0x0, 29, 29⟩
def FLD_PSTAT_var_valid : Fld := ⟨.fld, 0x24, 0x40, 0x0, 28, 28⟩
def FLD_PSTAT_var_col : Fld := ⟨.fld, 0x24, 0x40, 0x0, 27, 22⟩
def FLD_PSTAT_section : Fld := ⟨.fld, 0x24, 0x40, 0x0, 19, 16⟩
def FLD_PSTAT_activity : Fld := ⟨.fld, 0x24, 0x40, 0x0, 15, 12⟩
def FLD_PSTAT_err : Fld := ⟨.fld, 0x24, 0x40, 0x0, 3, 0⟩
-- FLD_PVAR, 15_fold.md R498
def FLD_PVAR_valid : Fld := ⟨.fld, 0x28, 0x40, 0x0, 31, 31⟩
def FLD_PVAR_col : Fld := ⟨.fld, 0x28, 0x40, 0x0, 5, 0⟩
-- FLD_SWAPS, 15_fold.md R495
def FLD_SWAPS_count : Fld := ⟨.fld, 0x2c, 0x40, 0x0, 31, 0⟩
-- FLD_EVT, 15_fold.md R490
def FLD_EVT_swap_dropped : Fld := ⟨.fld, 0x1000, 0x0, 0x0, 2, 2⟩
def FLD_EVT_error : Fld := ⟨.fld, 0x1000, 0x0, 0x0, 1, 1⟩
def FLD_EVT_load_done : Fld := ⟨.fld, 0x1000, 0x0, 0x0, 0, 0⟩
-- PDK_EPHOLD, 16_integrity.md R509
def PDK_EPHOLD_base : Fld := ⟨.pdk, 0x200, 0x0, 0x0, 51, 16⟩
-- PDK_EPHLEN, 16_integrity.md R509
def PDK_EPHLEN_units : Fld := ⟨.pdk, 0x208, 0x0, 0x0, 15, 0⟩
-- PDK_EPOCH, 16_integrity.md R507
def PDK_EPOCH_epoch : Fld := ⟨.pdk, 0x210, 0x0, 0x0, 63, 0⟩
-- PDK_EPCOMMIT, 16_integrity.md R511
def PDK_EPCOMMIT_epoch : Fld := ⟨.pdk, 0x218, 0x0, 0x0, 63, 0⟩
-- PDK_EPSTAT, 16_integrity.md R511
def PDK_EPSTAT_hold_used : Fld := ⟨.pdk, 0x220, 0x0, 0x0, 31, 16⟩
def PDK_EPSTAT_drain : Fld := ⟨.pdk, 0x220, 0x0, 0x0, 7, 7⟩
def PDK_EPSTAT_replayed : Fld := ⟨.pdk, 0x220, 0x0, 0x0, 6, 6⟩
def PDK_EPSTAT_lt_lost : Fld := ⟨.pdk, 0x220, 0x0, 0x0, 5, 5⟩
def PDK_EPSTAT_phase : Fld := ⟨.pdk, 0x220, 0x0, 0x0, 2, 0⟩
-- PDK_EPFAIL, 16_integrity.md R510
def PDK_EPFAIL_valid : Fld := ⟨.pdk, 0x224, 0x0, 0x0, 31, 31⟩
def PDK_EPFAIL_core : Fld := ⟨.pdk, 0x224, 0x0, 0x0, 26, 16⟩
def PDK_EPFAIL_kind : Fld := ⟨.pdk, 0x224, 0x0, 0x0, 3, 0⟩
-- PDK_EPREPLAY, 16_integrity.md R516
def PDK_EPREPLAY_count : Fld := ⟨.pdk, 0x228, 0x0, 0x0, 31, 0⟩
-- PDK_EPCOMMITS, 16_integrity.md R511
def PDK_EPCOMMITS_count : Fld := ⟨.pdk, 0x22c, 0x0, 0x0, 31, 0⟩
-- PDK_WPCFG, 16_integrity.md R519
def PDK_WPCFG_en : Fld := ⟨.pdk, 0x300, 0x0, 0x0, 31, 31⟩
def PDK_WPCFG_role : Fld := ⟨.pdk, 0x300, 0x0, 0x0, 30, 30⟩
def PDK_WPCFG_remote : Fld := ⟨.pdk, 0x300, 0x0, 0x0, 29, 29⟩
def PDK_WPCFG_partner : Fld := ⟨.pdk, 0x300, 0x0, 0x0, 21, 16⟩
def PDK_WPCFG_route : Fld := ⟨.pdk, 0x300, 0x0, 0x0, 14, 0⟩
-- PDK_WPBANK, 16_integrity.md R519
def PDK_WPBANK_base : Fld := ⟨.pdk, 0x308, 0x0, 0x0, 51, 16⟩
-- PDK_WPBLEN, 16_integrity.md R519
def PDK_WPBLEN_units : Fld := ⟨.pdk, 0x310, 0x0, 0x0, 15, 0⟩
-- PDK_WPSP, 16_integrity.md R519
def PDK_WPSP_valid : Fld := ⟨.pdk, 0x320, 0x4, 0x0, 31, 31⟩
def PDK_WPSP_len : Fld := ⟨.pdk, 0x320, 0x4, 0x0, 24, 12⟩
def PDK_WPSP_off : Fld := ⟨.pdk, 0x320, 0x4, 0x0, 11, 0⟩
-- PDK_WPVA, 16_integrity.md R519
def PDK_WPVA_valid : Fld := ⟨.pdk, 0x360, 0x8, 0x0, 63, 63⟩
def PDK_WPVA_len : Fld := ⟨.pdk, 0x360, 0x8, 0x0, 62, 48⟩
def PDK_WPVA_va : Fld := ⟨.pdk, 0x360, 0x8, 0x0, 47, 16⟩
-- PDK_WPSTAT, 16_integrity.md R522
def PDK_WPSTAT_state : Fld := ⟨.pdk, 0x400, 0x0, 0x0, 31, 29⟩
def PDK_WPSTAT_bank : Fld := ⟨.pdk, 0x400, 0x0, 0x0, 28, 28⟩
def PDK_WPSTAT_partial : Fld := ⟨.pdk, 0x400, 0x0, 0x0, 27, 27⟩
def PDK_WPSTAT_mismatch : Fld := ⟨.pdk, 0x400, 0x0, 0x0, 26, 26⟩
-- PDK_WPCEPOCH, 16_integrity.md R520
def PDK_WPCEPOCH_epoch : Fld := ⟨.pdk, 0x408, 0x0, 0x0, 63, 0⟩
-- PDK_WPCMD, 16_integrity.md R521
def PDK_WPCMD_op : Fld := ⟨.pdk, 0x410, 0x0, 0x0, 1, 0⟩
-- PDK_WPCOPIES, 16_integrity.md R520
def PDK_WPCOPIES_count : Fld := ⟨.pdk, 0x414, 0x0, 0x0, 31, 0⟩
-- PDK_MWIN, 17_ageing.md R550
def PDK_MWIN_sections : Fld := ⟨.pdk, 0x500, 0x0, 0x0, 15, 0⟩
-- WLK_CFG, 17_ageing.md R541
def WLK_CFG_en : Fld := ⟨.wlk, 0x0, 0x0, 0x0, 31, 31⟩
def WLK_CFG_stuck : Fld := ⟨.wlk, 0x0, 0x0, 0x0, 19, 16⟩
def WLK_CFG_frames : Fld := ⟨.wlk, 0x0, 0x0, 0x0, 13, 0⟩
-- WLK_STAT, 17_ageing.md R541
def WLK_STAT_passes : Fld := ⟨.wlk, 0x4, 0x0, 0x0, 31, 16⟩
def WLK_STAT_busy : Fld := ⟨.wlk, 0x4, 0x0, 0x0, 0, 0⟩
-- WLK_LAST, 17_ageing.md R543
def WLK_LAST_valid : Fld := ⟨.wlk, 0x8, 0x0, 0x0, 63, 63⟩
def WLK_LAST_overflow : Fld := ⟨.wlk, 0x8, 0x0, 0x0, 62, 62⟩
def WLK_LAST_kind : Fld := ⟨.wlk, 0x8, 0x0, 0x0, 61, 59⟩
def WLK_LAST_pos : Fld := ⟨.wlk, 0x8, 0x0, 0x0, 58, 48⟩
def WLK_LAST_pcore_id : Fld := ⟨.wlk, 0x8, 0x0, 0x0, 43, 32⟩
def WLK_LAST_type : Fld := ⟨.wlk, 0x8, 0x0, 0x0, 18, 16⟩
def WLK_LAST_index : Fld := ⟨.wlk, 0x8, 0x0, 0x0, 12, 0⟩
-- WLK_CE, 17_ageing.md R542
def WLK_CE_count : Fld := ⟨.wlk, 0x100, 0x20, 0x0, 31, 0⟩
-- WLK_CRCFIX, 17_ageing.md R542
def WLK_CRCFIX_count : Fld := ⟨.wlk, 0x104, 0x20, 0x0, 31, 0⟩
-- WLK_RELOAD, 17_ageing.md R542
def WLK_RELOAD_count : Fld := ⟨.wlk, 0x108, 0x20, 0x0, 31, 0⟩
-- WLK_HARD, 17_ageing.md R542
def WLK_HARD_count : Fld := ⟨.wlk, 0x10c, 0x20, 0x0, 31, 0⟩
-- WLK_FETCHCE, 17_ageing.md R539
def WLK_FETCHCE_count : Fld := ⟨.wlk, 0x110, 0x20, 0x0, 31, 0⟩
-- WLK_SLOTCE, 17_ageing.md R539
def WLK_SLOTCE_count : Fld := ⟨.wlk, 0x114, 0x20, 0x0, 31, 0⟩
-- WLK_INLINEUE, 17_ageing.md R539
def WLK_INLINEUE_count : Fld := ⟨.wlk, 0x118, 0x20, 0x0, 31, 0⟩
-- MST_CFG, 17_ageing.md R548
def MST_CFG_par : Fld := ⟨.mst, 0x0, 0x0, 0x0, 6, 0⟩
-- MST_PERIOD, 17_ageing.md R549
def MST_PERIOD_bt : Fld := ⟨.mst, 0x4, 0x0, 0x0, 31, 0⟩
-- MST_BPERIOD, 17_ageing.md R552
def MST_BPERIOD_bt : Fld := ⟨.mst, 0x8, 0x0, 0x0, 31, 0⟩
-- MST_LAST, 17_ageing.md R547
def MST_LAST_valid : Fld := ⟨.mst, 0x10, 0x0, 0x0, 63, 63⟩
def MST_LAST_overflow : Fld := ⟨.mst, 0x10, 0x0, 0x0, 62, 62⟩
def MST_LAST_result : Fld := ⟨.mst, 0x10, 0x0, 0x0, 59, 56⟩
def MST_LAST_unit : Fld := ⟨.mst, 0x10, 0x0, 0x0, 55, 52⟩
def MST_LAST_pcore_id : Fld := ⟨.mst, 0x10, 0x0, 0x0, 43, 32⟩
def MST_LAST_tick : Fld := ⟨.mst, 0x10, 0x0, 0x0, 31, 0⟩
-- MST_OVERDUE, 17_ageing.md R549
def MST_OVERDUE_count : Fld := ⟨.mst, 0x18, 0x0, 0x0, 31, 0⟩
-- MST_BLK, 17_ageing.md R552
def MST_BLK_running : Fld := ⟨.mst, 0x100, 0x4, 0x0, 31, 31⟩
def MST_BLK_degraded : Fld := ⟨.mst, 0x100, 0x4, 0x0, 30, 30⟩
def MST_BLK_forced_next : Fld := ⟨.mst, 0x100, 0x4, 0x0, 29, 29⟩
def MST_BLK_starve : Fld := ⟨.mst, 0x100, 0x4, 0x0, 23, 16⟩
def MST_BLK_slice : Fld := ⟨.mst, 0x100, 0x4, 0x0, 15, 8⟩
def MST_BLK_yields : Fld := ⟨.mst, 0x100, 0x4, 0x0, 7, 0⟩
-- MST_EVT, 17_ageing.md R555
def MST_EVT_forced : Fld := ⟨.mst, 0x200, 0x0, 0x0, 2, 2⟩
def MST_EVT_degraded : Fld := ⟨.mst, 0x200, 0x0, 0x0, 1, 1⟩
def MST_EVT_core_fail : Fld := ⟨.mst, 0x200, 0x0, 0x0, 0, 0⟩
-- CUL_COL, 17_ageing.md R556
def CUL_COL_unsaved : Fld := ⟨.cul, 0x0, 0x4, 0x0, 31, 31⟩
def CUL_COL_field_fail : Fld := ⟨.cul, 0x0, 0x4, 0x0, 23, 16⟩
def CUL_COL_dead_row : Fld := ⟨.cul, 0x0, 0x4, 0x0, 15, 12⟩
def CUL_COL_dead : Fld := ⟨.cul, 0x0, 0x4, 0x0, 11, 11⟩
def CUL_COL_spare_bad : Fld := ⟨.cul, 0x0, 0x4, 0x0, 10, 10⟩
def CUL_COL_factory : Fld := ⟨.cul, 0x0, 0x4, 0x0, 9, 9⟩
def CUL_COL_spare_used : Fld := ⟨.cul, 0x0, 0x4, 0x0, 8, 8⟩
def CUL_COL_shift : Fld := ⟨.cul, 0x0, 0x4, 0x0, 4, 0⟩
-- CUL_CULLED, 17_ageing.md R556
def CUL_CULLED_plots : Fld := ⟨.cul, 0x200, 0x4, 0x0, 31, 0⟩
-- CUL_STAT, 17_ageing.md R559
def CUL_STAT_shift_busy : Fld := ⟨.cul, 0x210, 0x0, 0x0, 31, 31⟩
-- CUL_PAUSES, 17_ageing.md R559
def CUL_PAUSES_count : Fld := ⟨.cul, 0x214, 0x0, 0x0, 31, 0⟩
-- SHP_CULL, 17_ageing.md R557
def SHP_CULL_unsaved : Fld := ⟨.shp, 0x1000, 0x4, 0x0, 31, 31⟩
def SHP_CULL_field_fail : Fld := ⟨.shp, 0x1000, 0x4, 0x0, 23, 16⟩
def SHP_CULL_dead_row : Fld := ⟨.shp, 0x1000, 0x4, 0x0, 15, 12⟩
def SHP_CULL_dead : Fld := ⟨.shp, 0x1000, 0x4, 0x0, 11, 11⟩
def SHP_CULL_spare_bad : Fld := ⟨.shp, 0x1000, 0x4, 0x0, 10, 10⟩
def SHP_CULL_factory : Fld := ⟨.shp, 0x1000, 0x4, 0x0, 9, 9⟩
def SHP_CULL_spare_used : Fld := ⟨.shp, 0x1000, 0x4, 0x0, 8, 8⟩
def SHP_CULL_shift : Fld := ⟨.shp, 0x1000, 0x4, 0x0, 4, 0⟩
-- SHP_CULLED, 17_ageing.md R557
def SHP_CULLED_plots : Fld := ⟨.shp, 0x1200, 0x4, 0x0, 31, 0⟩
-- RTN_CFG, 18_ration.md R573
def RTN_CFG_src_grant : Fld := ⟨.rtn, 0x0, 0x0, 0x0, 31, 31⟩
def RTN_CFG_src_inlet : Fld := ⟨.rtn, 0x0, 0x0, 0x0, 30, 30⟩
def RTN_CFG_stale_bt : Fld := ⟨.rtn, 0x0, 0x0, 0x0, 23, 16⟩
def RTN_CFG_step_max : Fld := ⟨.rtn, 0x0, 0x0, 0x0, 11, 8⟩
def RTN_CFG_margin_pct : Fld := ⟨.rtn, 0x0, 0x0, 0x0, 4, 0⟩
-- RTN_ENV, 18_ration.md R574
def RTN_ENV_floor_w : Fld := ⟨.rtn, 0x4, 0x0, 0x0, 25, 16⟩
def RTN_ENV_envelope_w : Fld := ⟨.rtn, 0x4, 0x0, 0x0, 9, 0⟩
-- RTN_GRANT, 18_ration.md R573
def RTN_GRANT_grant : Fld := ⟨.rtn, 0x8, 0x0, 0x0, 15, 0⟩
-- RTN_INLET, 18_ration.md R587
def RTN_INLET_tin : Fld := ⟨.rtn, 0xc, 0x0, 0x0, 15, 0⟩
-- RTN_LAST, 18_ration.md R591
def RTN_LAST_tick : Fld := ⟨.rtn, 0x10, 0x0, 0x0, 63, 32⟩
def RTN_LAST_spent : Fld := ⟨.rtn, 0x10, 0x0, 0x0, 31, 16⟩
def RTN_LAST_g_eff : Fld := ⟨.rtn, 0x10, 0x0, 0x0, 15, 0⟩
-- RTN_FREQ, 18_ration.md R581
def RTN_FREQ_reason : Fld := ⟨.rtn, 0x18, 0x0, 0x0, 31, 28⟩
def RTN_FREQ_f_now : Fld := ⟨.rtn, 0x18, 0x0, 0x0, 26, 16⟩
def RTN_FREQ_f_cool : Fld := ⟨.rtn, 0x18, 0x0, 0x0, 10, 0⟩
-- RTN_FLIM, 18_ration.md R581
def RTN_FLIM_f_t : Fld := ⟨.rtn, 0x1c, 0x0, 0x0, 26, 16⟩
def RTN_FLIM_f_age : Fld := ⟨.rtn, 0x1c, 0x0, 0x0, 10, 0⟩
-- RTN_STAT, 18_ration.md R581
def RTN_STAT_flags : Fld := ⟨.rtn, 0x20, 0x0, 0x0, 10, 0⟩
-- RTN_TJ, 18_ration.md R588
def RTN_TJ_die : Fld := ⟨.rtn, 0x24, 0x0, 0x0, 19, 16⟩
def RTN_TJ_tj : Fld := ⟨.rtn, 0x24, 0x0, 0x0, 11, 0⟩
-- RTN_MINDRAW, 18_ration.md R574
def RTN_MINDRAW_units : Fld := ⟨.rtn, 0x28, 0x0, 0x0, 15, 0⟩
-- RTN_BSYS, 18_ration.md R577
def RTN_BSYS_units : Fld := ⟨.rtn, 0x2c, 0x0, 0x0, 15, 0⟩
-- RTN_BUSERR, 18_ration.md R591
def RTN_BUSERR_count : Fld := ⟨.rtn, 0x30, 0x0, 0x0, 31, 0⟩
-- RTN_PBUDGET, 18_ration.md R577
def RTN_PBUDGET_spent : Fld := ⟨.rtn, 0x100, 0x4, 0x0, 31, 16⟩
def RTN_PBUDGET_budget : Fld := ⟨.rtn, 0x100, 0x4, 0x0, 15, 0⟩
-- RTN_PHOLD, 18_ration.md R578
def RTN_PHOLD_count : Fld := ⟨.rtn, 0x200, 0x4, 0x0, 31, 0⟩
-- RTN_PMRAIL, 18_ration.md R592
def RTN_PMRAIL_valid : Fld := ⟨.rtn, 0x300, 0x4, 0x0, 31, 31⟩
def RTN_PMRAIL_addr : Fld := ⟨.rtn, 0x300, 0x4, 0x0, 14, 8⟩
def RTN_PMRAIL_page : Fld := ⟨.rtn, 0x300, 0x4, 0x0, 7, 0⟩
-- RTN_PMSTAT, 18_ration.md R592
def RTN_PMSTAT_pin : Fld := ⟨.rtn, 0x340, 0x4, 0x0, 31, 16⟩
def RTN_PMSTAT_status : Fld := ⟨.rtn, 0x340, 0x4, 0x0, 15, 0⟩
-- RTN_EVT, 18_ration.md R593
def RTN_EVT_floor_raised : Fld := ⟨.rtn, 0x380, 0x0, 0x0, 6, 6⟩
def RTN_EVT_inlet_stale : Fld := ⟨.rtn, 0x380, 0x0, 0x0, 5, 5⟩
def RTN_EVT_telemetry_mismatch : Fld := ⟨.rtn, 0x380, 0x0, 0x0, 4, 4⟩
def RTN_EVT_pm_warn : Fld := ⟨.rtn, 0x380, 0x0, 0x0, 3, 3⟩
def RTN_EVT_age_limited : Fld := ⟨.rtn, 0x380, 0x0, 0x0, 2, 2⟩
def RTN_EVT_t_emerg : Fld := ⟨.rtn, 0x380, 0x0, 0x0, 1, 1⟩
def RTN_EVT_t_soft : Fld := ⟨.rtn, 0x380, 0x0, 0x0, 0, 0⟩
-- RTN_DV, 18_ration.md R583
def RTN_DV_vset_mv : Fld := ⟨.rtnA, 0x0, 0x0, 0x0, 25, 16⟩
def RTN_DV_vfuse_mv : Fld := ⟨.rtnA, 0x0, 0x0, 0x0, 9, 0⟩
-- RTN_DAGE, 18_ration.md R585
def RTN_DAGE_dv_mon : Fld := ⟨.rtnA, 0x4, 0x0, 0x0, 31, 16⟩
def RTN_DAGE_dv_model : Fld := ⟨.rtnA, 0x4, 0x0, 0x0, 15, 0⟩
-- RTN_DSTRESS, 18_ration.md R584
def RTN_DSTRESS_s : Fld := ⟨.rtnA, 0x8, 0x0, 0x0, 63, 0⟩
-- RTN_DTJ, 18_ration.md R588
def RTN_DTJ_sensor : Fld := ⟨.rtnA, 0x10, 0x0, 0x0, 27, 24⟩
def RTN_DTJ_tj : Fld := ⟨.rtnA, 0x10, 0x0, 0x0, 11, 0⟩
-- RTN_DE, 18_ration.md R575
def RTN_DE_leak : Fld := ⟨.rtnA, 0x14, 0x0, 0x0, 31, 16⟩
def RTN_DE_dyn : Fld := ⟨.rtnA, 0x14, 0x0, 0x0, 15, 0⟩
-- RTN_DAFUSE, 18_ration.md R584
def RTN_DAFUSE_a : Fld := ⟨.rtnA, 0x18, 0x0, 0x0, 7, 0⟩
-- RTN_VFUSE, 18_ration.md R583
def RTN_VFUSE_mv : Fld := ⟨.rtnA, 0x100, 0x4, 0x0, 9, 0⟩
-- FBK_STAT, 19_flockbook.md R609
def FBK_STAT_log_mute : Fld := ⟨.fbk, 0x0, 0x0, 0x0, 31, 31⟩
def FBK_STAT_bank_a_failed : Fld := ⟨.fbk, 0x0, 0x0, 0x0, 30, 30⟩
def FBK_STAT_bank_b_failed : Fld := ⟨.fbk, 0x0, 0x0, 0x0, 29, 29⟩
def FBK_STAT_unclean : Fld := ⟨.fbk, 0x0, 0x0, 0x0, 28, 28⟩
def FBK_STAT_writing : Fld := ⟨.fbk, 0x0, 0x0, 0x0, 27, 27⟩
def FBK_STAT_coalescing : Fld := ⟨.fbk, 0x0, 0x0, 0x0, 26, 26⟩
def FBK_STAT_snap_skipped : Fld := ⟨.fbk, 0x0, 0x0, 0x0, 25, 25⟩
def FBK_STAT_staged : Fld := ⟨.fbk, 0x0, 0x0, 0x0, 22, 16⟩
-- FBK_SNAP, 19_flockbook.md R617
def FBK_SNAP_period_bt : Fld := ⟨.fbk, 0x4, 0x0, 0x0, 31, 0⟩
-- FBK_SEQ, 19_flockbook.md R607
def FBK_SEQ_next : Fld := ⟨.fbk, 0x8, 0x0, 0x0, 63, 0⟩
-- FBK_EVNUM, 19_flockbook.md R608
def FBK_EVNUM_next : Fld := ⟨.fbk, 0x10, 0x0, 0x0, 31, 0⟩
-- FBK_HEAD, 19_flockbook.md R606
def FBK_HEAD_b : Fld := ⟨.fbk, 0x14, 0x0, 0x0, 31, 16⟩
def FBK_HEAD_a : Fld := ⟨.fbk, 0x14, 0x0, 0x0, 15, 0⟩
-- FBK_SNAPNUM, 19_flockbook.md R617
def FBK_SNAPNUM_last : Fld := ⟨.fbk, 0x18, 0x0, 0x0, 31, 0⟩
-- FBK_RSEL, 19_flockbook.md R623
def FBK_RSEL_bank : Fld := ⟨.fbk, 0x20, 0x0, 0x0, 16, 16⟩
def FBK_RSEL_slot : Fld := ⟨.fbk, 0x20, 0x0, 0x0, 15, 0⟩
-- FBK_FIND, 19_flockbook.md R623
def FBK_FIND_seq : Fld := ⟨.fbk, 0x28, 0x0, 0x0, 63, 0⟩
-- FBK_RSTAT, 19_flockbook.md R623
def FBK_RSTAT_found : Fld := ⟨.fbk, 0x30, 0x0, 0x0, 2, 2⟩
def FBK_RSTAT_valid : Fld := ⟨.fbk, 0x30, 0x0, 0x0, 1, 1⟩
def FBK_RSTAT_busy : Fld := ⟨.fbk, 0x30, 0x0, 0x0, 0, 0⟩
-- FBK_RDATA, 19_flockbook.md R623
def FBK_RDATA_word : Fld := ⟨.fbk, 0x40, 0x8, 0x0, 63, 0⟩
-- FBK_CAL, 19_flockbook.md R619
def FBK_CAL_seconds : Fld := ⟨.fbk, 0x80, 0x0, 0x0, 63, 0⟩
-- FBK_CALSUB, 19_flockbook.md R619
def FBK_CALSUB_frac : Fld := ⟨.fbk, 0x88, 0x0, 0x0, 14, 0⟩
-- FBK_CALSET, 19_flockbook.md R619
def FBK_CALSET_seconds : Fld := ⟨.fbk, 0x90, 0x0, 0x0, 63, 0⟩
-- FBK_WFAIL, 19_flockbook.md R611
def FBK_WFAIL_count : Fld := ⟨.fbk, 0xa0, 0x0, 0x0, 31, 0⟩
-- FBK_STORM, 19_flockbook.md R613
def FBK_STORM_count : Fld := ⟨.fbk, 0xa4, 0x0, 0x0, 31, 0⟩
-- FBK_MUTELOST, 19_flockbook.md R622
def FBK_MUTELOST_count : Fld := ⟨.fbk, 0xa8, 0x0, 0x0, 31, 0⟩
-- FBK_MUTEHEAD, 19_flockbook.md R622
def FBK_MUTEHEAD_count : Fld := ⟨.fbk, 0xac, 0x0, 0x0, 14, 8⟩
def FBK_MUTEHEAD_newest : Fld := ⟨.fbk, 0xac, 0x0, 0x0, 5, 0⟩
-- FBK_EVT, 19_flockbook.md R621
def FBK_EVT_snapshot : Fld := ⟨.fbk, 0xb0, 0x0, 0x0, 3, 3⟩
def FBK_EVT_storm : Fld := ⟨.fbk, 0xb0, 0x0, 0x0, 2, 2⟩
def FBK_EVT_log_mute : Fld := ⟨.fbk, 0xb0, 0x0, 0x0, 1, 1⟩
def FBK_EVT_bank_failed : Fld := ⟨.fbk, 0xb0, 0x0, 0x0, 0, 0⟩
-- FBK_CNT, 19_flockbook.md R615
def FBK_CNT_value : Fld := ⟨.fbk, 0x400, 0x8, 0x0, 63, 0⟩
-- FBK_MUTE, 19_flockbook.md R622
def FBK_MUTE_word : Fld := ⟨.fbk, 0x1000, 0x40, 0x8, 63, 0⟩
-- FTF_SRC, 20_footfall.md R638
def FTF_SRC_en : Fld := ⟨.ftf, 0x0, 0x4, 0x0, 31, 31⟩
def FTF_SRC_prio : Fld := ⟨.ftf, 0x0, 0x4, 0x0, 9, 8⟩
def FTF_SRC_mode : Fld := ⟨.ftf, 0x0, 0x4, 0x0, 4, 4⟩
def FTF_SRC_every : Fld := ⟨.ftf, 0x0, 0x4, 0x0, 3, 0⟩
-- FTF_CMP, 20_footfall.md R638
def FTF_CMP_valid : Fld := ⟨.ftf, 0x20, 0x8, 0x0, 63, 63⟩
def FTF_CMP_action : Fld := ⟨.ftf, 0x20, 0x8, 0x0, 49, 48⟩
def FTF_CMP_tmask : Fld := ⟨.ftf, 0x20, 0x8, 0x0, 35, 32⟩
def FTF_CMP_hi : Fld := ⟨.ftf, 0x20, 0x8, 0x0, 26, 16⟩
def FTF_CMP_lo : Fld := ⟨.ftf, 0x20, 0x8, 0x0, 10, 0⟩
-- FTF_SEQ, 20_footfall.md R636
def FTF_SEQ_seq : Fld := ⟨.ftf, 0x40, 0x4, 0x0, 31, 0⟩
-- FTF_STAT, 20_footfall.md R641
def FTF_STAT_on : Fld := ⟨.ftf, 0x54, 0x0, 0x0, 20, 16⟩
def FTF_STAT_fifo : Fld := ⟨.ftf, 0x54, 0x0, 0x0, 6, 0⟩
-- FTF_DROP, 20_footfall.md R642
def FTF_DROP_count : Fld := ⟨.ftf, 0x58, 0x4, 0x0, 31, 0⟩
-- FTF_CROOK, 20_footfall.md R646
def FTF_CROOK_en : Fld := ⟨.ftf, 0x70, 0x0, 0x0, 31, 31⟩
def FTF_CROOK_mode : Fld := ⟨.ftf, 0x70, 0x0, 0x0, 4, 4⟩
def FTF_CROOK_task : Fld := ⟨.ftf, 0x70, 0x0, 0x0, 1, 0⟩
-- FTF_CROOKN, 20_footfall.md R646
def FTF_CROOKN_n : Fld := ⟨.ftf, 0x78, 0x0, 0x0, 63, 0⟩
-- FTF_RING, 20_footfall.md R643
def FTF_RING_size_log : Fld := ⟨.ftf, 0x800, 0x0, 0x0, 59, 56⟩
def FTF_RING_va : Fld := ⟨.ftf, 0x800, 0x0, 0x0, 47, 12⟩
-- FTF_RPOOL, 20_footfall.md R643
def FTF_RPOOL_thresh : Fld := ⟨.ftf, 0x808, 0x0, 0x0, 31, 16⟩
def FTF_RPOOL_die : Fld := ⟨.ftf, 0x808, 0x0, 0x0, 8, 8⟩
def FTF_RPOOL_pool : Fld := ⟨.ftf, 0x808, 0x0, 0x0, 7, 0⟩
-- FTF_RPROD, 20_footfall.md R643
def FTF_RPROD_index : Fld := ⟨.ftf, 0x810, 0x0, 0x0, 31, 0⟩
-- FTF_RCONS, 20_footfall.md R643
def FTF_RCONS_index : Fld := ⟨.ftf, 0x814, 0x0, 0x0, 31, 0⟩
-- FTF_PCTL, 20_footfall.md R643
def FTF_PCTL_dump_sp : Fld := ⟨.ftf, 0x818, 0x0, 0x0, 4, 4⟩
def FTF_PCTL_sink_resume : Fld := ⟨.ftf, 0x818, 0x0, 0x0, 3, 3⟩
def FTF_PCTL_dump : Fld := ⟨.ftf, 0x818, 0x0, 0x0, 2, 2⟩
def FTF_PCTL_release : Fld := ⟨.ftf, 0x818, 0x0, 0x0, 1, 1⟩
def FTF_PCTL_flush : Fld := ⟨.ftf, 0x818, 0x0, 0x0, 0, 0⟩
-- FTF_PSTAT, 20_footfall.md R647
def FTF_PSTAT_stopped : Fld := ⟨.ftf, 0x81c, 0x0, 0x0, 31, 31⟩
def FTF_PSTAT_dumped : Fld := ⟨.ftf, 0x81c, 0x0, 0x0, 30, 30⟩
def FTF_PSTAT_dump_err : Fld := ⟨.ftf, 0x81c, 0x0, 0x0, 29, 29⟩
def FTF_PSTAT_sink_fault : Fld := ⟨.ftf, 0x81c, 0x0, 0x0, 28, 28⟩
def FTF_PSTAT_trig_tally : Fld := ⟨.ftf, 0x81c, 0x0, 0x0, 27, 27⟩
def FTF_PSTAT_trig_core : Fld := ⟨.ftf, 0x81c, 0x0, 0x0, 26, 16⟩
-- FTF_DUMP, 20_footfall.md R649
def FTF_DUMP_va : Fld := ⟨.ftf, 0x820, 0x0, 0x0, 47, 16⟩
-- FTF_CROOKT, 20_footfall.md R646
def FTF_CROOKT_counter : Fld := ⟨.ftf, 0x828, 0x0, 0x0, 31, 0⟩
-- FTF_CROOKV, 20_footfall.md R646
def FTF_CROOKV_value : Fld := ⟨.ftf, 0x830, 0x0, 0x0, 63, 0⟩
-- FTF_SINKWAIT, 20_footfall.md R644
def FTF_SINKWAIT_count : Fld := ⟨.ftf, 0x840, 0x0, 0x0, 31, 0⟩
-- HST_LINK, 21_host.md R660
def HST_LINK_state : Fld := ⟨.hst, 0x0, 0x0, 0x0, 14, 12⟩
def HST_LINK_flit : Fld := ⟨.hst, 0x0, 0x0, 0x0, 9, 9⟩
def HST_LINK_width : Fld := ⟨.hst, 0x0, 0x0, 0x0, 8, 4⟩
def HST_LINK_speed : Fld := ⟨.hst, 0x0, 0x0, 0x0, 3, 0⟩
-- HST_EVT, 21_host.md R661
def HST_EVT_width_change : Fld := ⟨.hst, 0x8, 0x0, 0x0, 3, 3⟩
def HST_EVT_aer_uncorr : Fld := ⟨.hst, 0x8, 0x0, 0x0, 2, 2⟩
def HST_EVT_link_up : Fld := ⟨.hst, 0x8, 0x0, 0x0, 1, 1⟩
def HST_EVT_link_down : Fld := ⟨.hst, 0x8, 0x0, 0x0, 0, 0⟩
-- HST_LDCNT, 21_host.md R661
def HST_LDCNT_count : Fld := ⟨.hst, 0x10, 0x0, 0x0, 31, 0⟩
-- HST_SQ, 21_host.md R665
def HST_SQ_base : Fld := ⟨.hst, 0x100000, 0x8000, 0x8, 63, 12⟩
def HST_SQ_size_log : Fld := ⟨.hst, 0x100000, 0x8000, 0x8, 7, 4⟩
def HST_SQ_en : Fld := ⟨.hst, 0x100000, 0x8000, 0x8, 0, 0⟩
-- HST_CQ, 21_host.md R665
def HST_CQ_base : Fld := ⟨.hst, 0x100040, 0x8000, 0x8, 63, 12⟩
def HST_CQ_size_log : Fld := ⟨.hst, 0x100040, 0x8000, 0x8, 7, 4⟩
def HST_CQ_en : Fld := ⟨.hst, 0x100040, 0x8000, 0x8, 0, 0⟩
-- HST_FQ, 21_host.md R665
def HST_FQ_base : Fld := ⟨.hst, 0x100080, 0x8000, 0x0, 63, 12⟩
def HST_FQ_size_log : Fld := ⟨.hst, 0x100080, 0x8000, 0x0, 7, 4⟩
def HST_FQ_en : Fld := ⟨.hst, 0x100080, 0x8000, 0x0, 0, 0⟩
-- HST_EQ, 21_host.md R665
def HST_EQ_base : Fld := ⟨.hst, 0x100088, 0x8000, 0x0, 63, 12⟩
def HST_EQ_size_log : Fld := ⟨.hst, 0x100088, 0x8000, 0x0, 7, 4⟩
def HST_EQ_en : Fld := ⟨.hst, 0x100088, 0x8000, 0x0, 0, 0⟩
-- HST_STAGE, 21_host.md R667
def HST_STAGE_valid : Fld := ⟨.hst, 0x100090, 0x8000, 0x0, 31, 31⟩
def HST_STAGE_die : Fld := ⟨.hst, 0x100090, 0x8000, 0x0, 8, 8⟩
def HST_STAGE_pool : Fld := ⟨.hst, 0x100090, 0x8000, 0x0, 7, 0⟩
-- HST_RSTAT, 21_host.md R667
def HST_RSTAT_running : Fld := ⟨.hst, 0x1000a0, 0x8000, 0x8, 43, 43⟩
def HST_RSTAT_stage_wait : Fld := ⟨.hst, 0x1000a0, 0x8000, 0x8, 42, 42⟩
def HST_RSTAT_cq_wait : Fld := ⟨.hst, 0x1000a0, 0x8000, 0x8, 41, 41⟩
def HST_RSTAT_cq_phase : Fld := ⟨.hst, 0x1000a0, 0x8000, 0x8, 40, 40⟩
def HST_RSTAT_cq_tail : Fld := ⟨.hst, 0x1000a0, 0x8000, 0x8, 39, 20⟩
def HST_RSTAT_sq_head : Fld := ⟨.hst, 0x1000a0, 0x8000, 0x8, 19, 0⟩
-- HST_CQIDX, 21_host.md R672
def HST_CQIDX_next : Fld := ⟨.hst, 0x1000e0, 0x8000, 0x4, 31, 0⟩
-- HST_QSTAT, 21_host.md R677
def HST_QSTAT_held : Fld := ⟨.hst, 0x100100, 0x8000, 0x0, 56, 48⟩
def HST_QSTAT_fq_phase : Fld := ⟨.hst, 0x100100, 0x8000, 0x0, 41, 41⟩
def HST_QSTAT_eq_phase : Fld := ⟨.hst, 0x100100, 0x8000, 0x0, 40, 40⟩
def HST_QSTAT_eq_tail : Fld := ⟨.hst, 0x100100, 0x8000, 0x0, 39, 20⟩
def HST_QSTAT_fq_tail : Fld := ⟨.hst, 0x100100, 0x8000, 0x0, 19, 0⟩
-- HST_FEVT, 21_host.md R666
def HST_FEVT_overflow : Fld := ⟨.hst, 0x100108, 0x8000, 0x0, 2, 2⟩
def HST_FEVT_stage_err : Fld := ⟨.hst, 0x100108, 0x8000, 0x0, 1, 1⟩
def HST_FEVT_db_err : Fld := ⟨.hst, 0x100108, 0x8000, 0x0, 0, 0⟩
-- HST_SQDB, 21_host.md R666
def HST_SQDB_tail : Fld := ⟨.hst, 0x101000, 0x8000, 0x4, 19, 0⟩
-- HST_CQDB, 21_host.md R666
def HST_CQDB_head : Fld := ⟨.hst, 0x101020, 0x8000, 0x4, 19, 0⟩
-- HST_FQDB, 21_host.md R666
def HST_FQDB_head : Fld := ⟨.hst, 0x101040, 0x8000, 0x0, 19, 0⟩
-- HST_EQDB, 21_host.md R666
def HST_EQDB_head : Fld := ⟨.hst, 0x101044, 0x8000, 0x0, 19, 0⟩
-- HST_FOLDDB, 21_host.md R671
def HST_FOLDDB_paddock : Fld := ⟨.hst, 0x101048, 0x8000, 0x0, 5, 0⟩
-- HST_FQLOST, 21_host.md R677
def HST_FQLOST_count : Fld := ⟨.hst, 0x102000, 0x8000, 0x0, 31, 0⟩
-- HST_CQWAIT, 21_host.md R673
def HST_CQWAIT_count : Fld := ⟨.hst, 0x102004, 0x8000, 0x0, 31, 0⟩
-- HST_STGWAIT, 21_host.md R667
def HST_STGWAIT_count : Fld := ⟨.hst, 0x102008, 0x8000, 0x0, 31, 0⟩
-- HST_MSIX, 21_host.md R663
def HST_MSIX_word : Fld := ⟨.hst, 0x104000, 0x8000, 0x4, 31, 0⟩
-- HST_PBA, 21_host.md R663
def HST_PBA_pending : Fld := ⟨.hst, 0x106000, 0x8000, 0x8, 63, 0⟩
-- LTK_PCFG, 22_longtrack.md R697
def LTK_PCFG_admin_up : Fld := ⟨.ltk, 0x0, 0x0, 0x0, 31, 31⟩
def LTK_PCFG_pfc_en : Fld := ⟨.ltk, 0x0, 0x0, 0x0, 16, 16⟩
def LTK_PCFG_rx_pol : Fld := ⟨.ltk, 0x0, 0x0, 0x0, 15, 12⟩
def LTK_PCFG_tx_pol : Fld := ⟨.ltk, 0x0, 0x0, 0x0, 11, 8⟩
def LTK_PCFG_lane_rev : Fld := ⟨.ltk, 0x0, 0x0, 0x0, 4, 4⟩
def LTK_PCFG_an_en : Fld := ⟨.ltk, 0x0, 0x0, 0x0, 3, 3⟩
def LTK_PCFG_media : Fld := ⟨.ltk, 0x0, 0x0, 0x0, 2, 2⟩
def LTK_PCFG_speed : Fld := ⟨.ltk, 0x0, 0x0, 0x0, 1, 0⟩
-- LTK_PSTAT, 22_longtrack.md R697
def LTK_PSTAT_an_done : Fld := ⟨.ltk, 0x4, 0x0, 0x0, 2, 2⟩
def LTK_PSTAT_fec_lock : Fld := ⟨.ltk, 0x4, 0x0, 0x0, 1, 1⟩
def LTK_PSTAT_up : Fld := ⟨.ltk, 0x4, 0x0, 0x0, 0, 0⟩
-- LTK_MAC, 22_longtrack.md R698
def LTK_MAC_mac : Fld := ⟨.ltk, 0x8, 0x0, 0x0, 47, 0⟩
-- LTK_IP6, 22_longtrack.md R698
def LTK_IP6_addr : Fld := ⟨.ltk, 0x10, 0x8, 0x0, 63, 0⟩
-- LTK_EVT, 22_longtrack.md R702
def LTK_EVT_route_dead : Fld := ⟨.ltk, 0x20, 0x0, 0x0, 4, 4⟩
def LTK_EVT_path_alive : Fld := ⟨.ltk, 0x20, 0x0, 0x0, 3, 3⟩
def LTK_EVT_path_dead : Fld := ⟨.ltk, 0x20, 0x0, 0x0, 2, 2⟩
def LTK_EVT_link_up : Fld := ⟨.ltk, 0x20, 0x0, 0x0, 1, 1⟩
def LTK_EVT_link_down : Fld := ⟨.ltk, 0x20, 0x0, 0x0, 0, 0⟩
-- LTK_TXF, 22_longtrack.md R703
def LTK_TXF_count : Fld := ⟨.ltk, 0x100, 0x0, 0x0, 31, 0⟩
-- LTK_RXF, 22_longtrack.md R703
def LTK_RXF_count : Fld := ⟨.ltk, 0x104, 0x0, 0x0, 31, 0⟩
-- LTK_DROP, 22_longtrack.md R703
def LTK_DROP_count : Fld := ⟨.ltk, 0x108, 0x0, 0x0, 31, 0⟩
-- LTK_FECCE, 22_longtrack.md R697
def LTK_FECCE_count : Fld := ⟨.ltk, 0x10c, 0x0, 0x0, 31, 0⟩
-- LTK_FECUE, 22_longtrack.md R697
def LTK_FECUE_count : Fld := ⟨.ltk, 0x110, 0x0, 0x0, 31, 0⟩
-- LTK_RETX, 22_longtrack.md R704
def LTK_RETX_count : Fld := ⟨.ltk, 0x114, 0x0, 0x0, 31, 0⟩
-- LTK_PFCRX, 22_longtrack.md R701
def LTK_PFCRX_count : Fld := ⟨.ltk, 0x118, 0x0, 0x0, 31, 0⟩
-- LTK_PFCTX, 22_longtrack.md R701
def LTK_PFCTX_count : Fld := ⟨.ltk, 0x11c, 0x0, 0x0, 31, 0⟩
-- LTK_GCFG, 22_longtrack.md R704
def LTK_GCFG_route_to_us : Fld := ⟨.ltk, 0x400, 0x0, 0x0, 47, 32⟩
def LTK_GCFG_rto_us : Fld := ⟨.ltk, 0x400, 0x0, 0x0, 31, 24⟩
def LTK_GCFG_ctl_pcp : Fld := ⟨.ltk, 0x400, 0x0, 0x0, 22, 20⟩
def LTK_GCFG_data_pcp : Fld := ⟨.ltk, 0x400, 0x0, 0x0, 18, 16⟩
def LTK_GCFG_udp_port : Fld := ⟨.ltk, 0x400, 0x0, 0x0, 15, 0⟩
-- LTK_PKGID, 22_longtrack.md R704
def LTK_PKGID_id : Fld := ⟨.ltk, 0x408, 0x0, 0x0, 63, 0⟩
-- LTK_RTX, 22_longtrack.md R711
def LTK_RTX_base : Fld := ⟨.ltk, 0x410, 0x0, 0x0, 51, 16⟩
-- LTK_PTPCFG, 22_longtrack.md R714
def LTK_PTPCFG_domain : Fld := ⟨.ltk, 0x500, 0x0, 0x0, 15, 8⟩
def LTK_PTPCFG_udp : Fld := ⟨.ltk, 0x500, 0x0, 0x0, 1, 1⟩
def LTK_PTPCFG_en : Fld := ⟨.ltk, 0x500, 0x0, 0x0, 0, 0⟩
-- LTK_PTPOFS, 22_longtrack.md R714
def LTK_PTPOFS_ns : Fld := ⟨.ltk, 0x508, 0x0, 0x0, 63, 0⟩
-- LTK_PTPSTAT, 22_longtrack.md R714
def LTK_PTPSTAT_locked : Fld := ⟨.ltk, 0x510, 0x0, 0x0, 0, 0⟩
-- LTK_PATH0, 22_longtrack.md R702
def LTK_PATH0_valid : Fld := ⟨.ltk, 0x2000, 0x20, 0x0, 63, 63⟩
def LTK_PATH0_alive : Fld := ⟨.ltk, 0x2000, 0x20, 0x0, 62, 62⟩
def LTK_PATH0_vlan : Fld := ⟨.ltk, 0x2000, 0x20, 0x0, 59, 48⟩
def LTK_PATH0_mac : Fld := ⟨.ltk, 0x2000, 0x20, 0x0, 47, 0⟩
-- LTK_PATH1, 22_longtrack.md R702
def LTK_PATH1_peer_id : Fld := ⟨.ltk, 0x2008, 0x20, 0x0, 63, 0⟩
-- LTK_PATH2, 22_longtrack.md R702
def LTK_PATH2_peer_ip : Fld := ⟨.ltk, 0x2010, 0x20, 0x0, 63, 0⟩
-- LTK_PATH3, 22_longtrack.md R702
def LTK_PATH3_peer_ip : Fld := ⟨.ltk, 0x2018, 0x20, 0x0, 63, 0⟩
-- LTK_ROUTE0, 22_longtrack.md R709
def LTK_ROUTE0_valid : Fld := ⟨.ltk, 0x8000, 0x40, 0x0, 63, 63⟩
def LTK_ROUTE0_dead : Fld := ⟨.ltk, 0x8000, 0x40, 0x0, 62, 62⟩
def LTK_ROUTE0_paddock : Fld := ⟨.ltk, 0x8000, 0x40, 0x0, 55, 50⟩
def LTK_ROUTE0_npath : Fld := ⟨.ltk, 0x8000, 0x40, 0x0, 49, 48⟩
def LTK_ROUTE0_peer_route : Fld := ⟨.ltk, 0x8000, 0x40, 0x0, 42, 32⟩
def LTK_ROUTE0_paths : Fld := ⟨.ltk, 0x8000, 0x40, 0x0, 31, 0⟩
-- LTK_ROUTE1, 22_longtrack.md R706
def LTK_ROUTE1_win_en : Fld := ⟨.ltk, 0x8008, 0x40, 0x0, 63, 63⟩
def LTK_ROUTE1_win_len : Fld := ⟨.ltk, 0x8008, 0x40, 0x0, 62, 48⟩
def LTK_ROUTE1_win_va : Fld := ⟨.ltk, 0x8008, 0x40, 0x0, 47, 16⟩
-- LTK_ROUTE2, 22_longtrack.md R706
def LTK_ROUTE2_remote_va : Fld := ⟨.ltk, 0x8010, 0x40, 0x0, 47, 16⟩
-- LTK_ROUTE3, 22_longtrack.md R704
def LTK_ROUTE3_rx_expect : Fld := ⟨.ltk, 0x8018, 0x40, 0x0, 63, 32⟩
def LTK_ROUTE3_tx_seq : Fld := ⟨.ltk, 0x8018, 0x40, 0x0, 31, 0⟩
-- LTK_ROUTE4, 22_longtrack.md R704
def LTK_ROUTE4_outstanding : Fld := ⟨.ltk, 0x8020, 0x40, 0x0, 6, 0⟩
-- SHP_FWSTAT, 23_management.md R740
def SHP_FWSTAT_state : Fld := ⟨.shp, 0x80, 0x0, 0x0, 31, 29⟩
def SHP_FWSTAT_slot : Fld := ⟨.shp, 0x80, 0x0, 0x0, 28, 28⟩
def SHP_FWSTAT_boot_pending : Fld := ⟨.shp, 0x80, 0x0, 0x0, 27, 27⟩
def SHP_FWSTAT_owner_set : Fld := ⟨.shp, 0x80, 0x0, 0x0, 26, 26⟩
def SHP_FWSTAT_held : Fld := ⟨.shp, 0x80, 0x0, 0x0, 7, 0⟩
-- SHP_FWVER, 23_management.md R740
def SHP_FWVER_version : Fld := ⟨.shp, 0x88, 0x0, 0x0, 63, 32⟩
def SHP_FWVER_fw_svn : Fld := ⟨.shp, 0x88, 0x0, 0x0, 31, 16⟩
def SHP_FWVER_fused_svn : Fld := ⟨.shp, 0x88, 0x0, 0x0, 15, 0⟩
-- SHP_MBCMD, 23_management.md R745
def SHP_MBCMD_op : Fld := ⟨.shp, 0x90, 0x0, 0x0, 7, 0⟩
-- SHP_MBSTAT, 23_management.md R745
def SHP_MBSTAT_busy : Fld := ⟨.shp, 0x94, 0x0, 0x0, 31, 31⟩
def SHP_MBSTAT_op : Fld := ⟨.shp, 0x94, 0x0, 0x0, 15, 8⟩
def SHP_MBSTAT_result : Fld := ⟨.shp, 0x94, 0x0, 0x0, 7, 0⟩
-- SHP_PLDMEV, 23_management.md R726
def SHP_PLDMEV_groups : Fld := ⟨.shp, 0xa0, 0x0, 0x0, 11, 0⟩
-- SHP_MCTPEID, 23_management.md R722
def SHP_MCTPEID_pcie : Fld := ⟨.shp, 0xa8, 0x0, 0x0, 23, 16⟩
def SHP_MCTPEID_ration : Fld := ⟨.shp, 0xa8, 0x0, 0x0, 15, 8⟩
def SHP_MCTPEID_side : Fld := ⟨.shp, 0xa8, 0x0, 0x0, 7, 0⟩
-- SHP_MCTPERR, 23_management.md R722
def SHP_MCTPERR_count : Fld := ⟨.shp, 0xac, 0x0, 0x0, 31, 0⟩
-- SHP_MBDATA, 23_management.md R745
def SHP_MBDATA_word : Fld := ⟨.shp, 0x200, 0x8, 0x0, 63, 0⟩
-- SHP_KEYSTAT, 23_management.md R734
def SHP_KEYSTAT_valid : Fld := ⟨.shp, 0x400, 0x4, 0x0, 31, 31⟩
def SHP_KEYSTAT_revoked : Fld := ⟨.shp, 0x400, 0x4, 0x0, 30, 30⟩
def SHP_KEYSTAT_generation : Fld := ⟨.shp, 0x400, 0x4, 0x0, 23, 16⟩
def SHP_KEYSTAT_digest16 : Fld := ⟨.shp, 0x400, 0x4, 0x0, 15, 0⟩
-- SEC_KEY, 23_management.md R734
def SEC_KEY_word : Fld := ⟨.sec, 0x0, 0x80, 0x8, 63, 0⟩
-- SEC_OWNER, 23_management.md R735
def SEC_OWNER_word : Fld := ⟨.sec, 0x400, 0x8, 0x0, 63, 0⟩
-- SEC_MEAS, 23_management.md R730
def SEC_MEAS_word : Fld := ⟨.sec, 0x440, 0x30, 0x8, 63, 0⟩
-- SEC_VERIFY, 23_management.md R737
def SEC_VERIFY_pass : Fld := ⟨.sec, 0x800, 0x0, 0x0, 1, 1⟩
def SEC_VERIFY_busy : Fld := ⟨.sec, 0x800, 0x0, 0x0, 0, 0⟩
-- SHP_PWRSTAT, 24_startup.md R762
def SHP_PWRSTAT_state : Fld := ⟨.shp, 0x100, 0x0, 0x0, 31, 28⟩
def SHP_PWRSTAT_step : Fld := ⟨.shp, 0x100, 0x0, 0x0, 27, 24⟩
def SHP_PWRSTAT_cmd_result : Fld := ⟨.shp, 0x100, 0x0, 0x0, 23, 20⟩
def SHP_PWRSTAT_mem_pwren : Fld := ⟨.shp, 0x100, 0x0, 0x0, 11, 11⟩
def SHP_PWRSTAT_rails_en : Fld := ⟨.shp, 0x100, 0x0, 0x0, 10, 10⟩
def SHP_PWRSTAT_mem_pg : Fld := ⟨.shp, 0x100, 0x0, 0x0, 9, 9⟩
def SHP_PWRSTAT_rail_good : Fld := ⟨.shp, 0x100, 0x0, 0x0, 8, 0⟩
-- SHP_PWRCMD, 24_startup.md R770
def SHP_PWRCMD_op : Fld := ⟨.shp, 0x104, 0x0, 0x0, 3, 0⟩
-- SHP_BOOTSTAT, 24_startup.md R767
def SHP_BOOTSTAT_cold_cause : Fld := ⟨.shp, 0x108, 0x0, 0x0, 15, 12⟩
def SHP_BOOTSTAT_rail : Fld := ⟨.shp, 0x108, 0x0, 0x0, 11, 8⟩
def SHP_BOOTSTAT_cal_lost : Fld := ⟨.shp, 0x108, 0x0, 0x0, 6, 6⟩
def SHP_BOOTSTAT_after_trip : Fld := ⟨.shp, 0x108, 0x0, 0x0, 5, 5⟩
def SHP_BOOTSTAT_retried : Fld := ⟨.shp, 0x108, 0x0, 0x0, 4, 4⟩
def SHP_BOOTSTAT_rail_fail : Fld := ⟨.shp, 0x108, 0x0, 0x0, 3, 3⟩
def SHP_BOOTSTAT_mem_pg_fail : Fld := ⟨.shp, 0x108, 0x0, 0x0, 2, 2⟩
def SHP_BOOTSTAT_sysref_wait : Fld := ⟨.shp, 0x108, 0x0, 0x0, 1, 1⟩
def SHP_BOOTSTAT_no_rails : Fld := ⟨.shp, 0x108, 0x0, 0x0, 0, 0⟩
-- SHP_SDINFO, 24_startup.md R770
def SHP_SDINFO_tick : Fld := ⟨.shp, 0x110, 0x0, 0x0, 63, 32⟩
def SHP_SDINFO_valid : Fld := ⟨.shp, 0x110, 0x0, 0x0, 31, 31⟩
def SHP_SDINFO_trip : Fld := ⟨.shp, 0x110, 0x0, 0x0, 10, 10⟩
def SHP_SDINFO_second : Fld := ⟨.shp, 0x110, 0x0, 0x0, 9, 9⟩
def SHP_SDINFO_fast : Fld := ⟨.shp, 0x110, 0x0, 0x0, 8, 8⟩
def SHP_SDINFO_rail : Fld := ⟨.shp, 0x110, 0x0, 0x0, 7, 4⟩
def SHP_SDINFO_cause : Fld := ⟨.shp, 0x110, 0x0, 0x0, 3, 0⟩
-- SHP_CLKSTAT, 24_startup.md R757
def SHP_CLKSTAT_lost : Fld := ⟨.shp, 0x118, 0x0, 0x0, 11, 8⟩
def SHP_CLKSTAT_valid : Fld := ⟨.shp, 0x118, 0x0, 0x0, 3, 0⟩
-- SHP_STRAP, 25_pins.md R806
def SHP_STRAP_scan_refused : Fld := ⟨.shp, 0x140, 0x0, 0x0, 31, 31⟩
def SHP_STRAP_scan_used : Fld := ⟨.shp, 0x140, 0x0, 0x0, 30, 30⟩
def SHP_STRAP_msb_addr7 : Fld := ⟨.shp, 0x140, 0x0, 0x0, 22, 16⟩
def SHP_STRAP_rbus_addr7 : Fld := ⟨.shp, 0x140, 0x0, 0x0, 14, 8⟩
def SHP_STRAP_msb_mode : Fld := ⟨.shp, 0x140, 0x0, 0x0, 6, 6⟩
def SHP_STRAP_msb_addr : Fld := ⟨.shp, 0x140, 0x0, 0x0, 5, 3⟩
def SHP_STRAP_rbus_addr : Fld := ⟨.shp, 0x140, 0x0, 0x0, 2, 0⟩
-- HDR_BLKINFO, 02_package_grid.md R64
def HDR_BLKINFO_type : Fld := ⟨.lea, 0x0, 0x0, 0x0, 31, 24⟩
def HDR_BLKINFO_die : Fld := ⟨.lea, 0x0, 0x0, 0x0, 23, 20⟩
def HDR_BLKINFO_size_log : Fld := ⟨.lea, 0x0, 0x0, 0x0, 19, 16⟩
def HDR_BLKINFO_instance : Fld := ⟨.lea, 0x0, 0x0, 0x0, 10, 0⟩
-- HDR_REFUSE, 02_package_grid.md R64
def HDR_REFUSE_brand : Fld := ⟨.lea, 0x4, 0x0, 0x0, 15, 8⟩
def HDR_REFUSE_reason : Fld := ⟨.lea, 0x4, 0x0, 0x0, 3, 2⟩
def HDR_REFUSE_overflow : Fld := ⟨.lea, 0x4, 0x0, 0x0, 1, 1⟩
def HDR_REFUSE_refused : Fld := ⟨.lea, 0x4, 0x0, 0x0, 0, 0⟩
-- HDR_REFADDR, 02_package_grid.md R64
def HDR_REFADDR_offset : Fld := ⟨.lea, 0x8, 0x0, 0x0, 31, 0⟩
-- HDR_REFCNT, 02_package_grid.md R64
def HDR_REFCNT_count : Fld := ⟨.lea, 0xc, 0x0, 0x0, 31, 0⟩
-- HDR_STATE, 02_package_grid.md R64
def HDR_STATE_rearm_pending : Fld := ⟨.lea, 0x10, 0x0, 0x0, 2, 2⟩
def HDR_STATE_bell_pending : Fld := ⟨.lea, 0x10, 0x0, 0x0, 1, 1⟩
def HDR_STATE_idle : Fld := ⟨.lea, 0x10, 0x0, 0x0, 0, 0⟩

end Sys2Proof.Machine
end

