-- ==== Sys2Proof/Machine/Bits.lean ====
section
/-! DEFINITION. Bit fields, sign extension, byte order and rounding helpers, and sparse maps. -/

namespace Sys2Proof.Machine

/-- Bits hi down to lo of a word, as a number. -/
def fieldGet (w : Word) (hi lo : Nat) : Nat := w.toNat / 2 ^ lo % 2 ^ (hi + 1 - lo)

/-- A word with bits hi down to lo replaced by v (taken modulo the field's size). -/
def fieldPut (w : Word) (hi lo v : Nat) : Word :=
  BitVec.ofNat 64 (w.toNat % 2 ^ lo + v % 2 ^ (hi + 1 - lo) * 2 ^ lo + w.toNat / 2 ^ (hi + 1) * 2 ^ (hi + 1))

/-- Bits hi down to lo of a natural number. -/
def natBits (n hi lo : Nat) : Nat := n / 2 ^ lo % 2 ^ (hi + 1 - lo)

/-- Bit i of a natural number, as a Bool. -/
def natBit (n i : Nat) : Bool := n / 2 ^ i % 2 == 1

/-- A number with bit i set or cleared. -/
def natSetBit (n i : Nat) (b : Bool) : Nat :=
  if natBit n i then (if b then n else n - 2 ^ i) else (if b then n + 2 ^ i else n)

/-- The signed value of the low `bits` bits of a number. -/
def sext (bits n : Nat) : Int :=
  let m := n % 2 ^ bits
  if m < 2 ^ (bits - 1) then (m : Int) else (m : Int) - (2 ^ bits : Nat)

/-- An integer modulo 2^bits. -/
def wrapInt (bits : Nat) (z : Int) : Nat := (z % (2 ^ bits : Nat)).toNat

/-- An integer limited to lo..hi. -/
def clampInt (lo hi z : Int) : Int := if z < lo then lo else if hi < z then hi else z

/-- A number limited to lo..hi. -/
def clampNat (lo hi n : Nat) : Nat := if n < lo then lo else if hi < n then hi else n

/-- 1 for true, 0 for false. -/
def b2n (b : Bool) : Nat := if b then 1 else 0

/-- The least multiple of k at or above n, divided by k. -/
def ceilDiv (n k : Nat) : Nat := if k = 0 then 0 else (n + k - 1) / k

/-- Little-endian bytes of a number, n of them, lowest first. -/
def leBytes : Nat → Nat → List Nat
  | 0, _ => []
  | n + 1, v => v % 256 :: leBytes n (v / 256)

/-- The number of a list of little-endian bytes. -/
def leNat : List Nat → Nat
  | [] => 0
  | b :: bs => b % 256 + 256 * leNat bs

/-- Replace the n-th element of a list; a list too short is unchanged. -/
def listPut {α : Type} : List α → Nat → α → List α
  | [], _, _ => []
  | _ :: xs, 0, v => v :: xs
  | x :: xs, n + 1, v => x :: listPut xs n v

/-- Drop the n-th element of a list. -/
def listDrop {α : Type} : List α → Nat → List α
  | [], _ => []
  | _ :: xs, 0 => xs
  | x :: xs, n + 1 => x :: listDrop xs n

/-- Drop the first element that meets p. -/
def listDropFirst {α : Type} (p : α → Bool) : List α → List α
  | [] => []
  | x :: xs => if p x then xs else x :: listDropFirst p xs

/-- A fold over 0, 1, …, n - 1. -/
def iter {α : Type} (n : Nat) (f : Nat → α → α) (a : α) : α := (List.range n).foldl (fun a k => f k a) a

/-- A sparse map: key and value pairs, keys strictly rising, no value equal to what an unlisted key reads as. -/
abbrev SMap (α : Type) := List (Nat × α)

/-- The value at key k; d is what an unlisted key reads as. -/
def mapGet {α : Type} (d : α) : SMap α → Nat → α
  | [], _ => d
  | (i, v) :: m, k => if i = k then v else if k < i then d else mapGet d m k

/-- The entry of key k, if there is one. -/
def mapFind {α : Type} : SMap α → Nat → Option α
  | [], _ => none
  | (i, v) :: m, k => if i = k then some v else if k < i then none else mapFind m k

/-- Remove the entry of key k. -/
def mapErase {α : Type} : SMap α → Nat → SMap α
  | [], _ => []
  | (i, v) :: m, k => if i = k then mapErase m k else if k < i then (i, v) :: m else (i, v) :: mapErase m k

/-- Put an entry for key k in its place. -/
def mapInsert {α : Type} : SMap α → Nat → α → SMap α
  | [], k, v => [(k, v)]
  | (i, w) :: m, k, v =>
    if i = k then (k, v) :: m else if k < i then (k, v) :: (i, w) :: m else (i, w) :: mapInsert m k v

/-- Write v at key k; writing the value an unlisted key reads as removes the entry. -/
def mapSet {α : Type} [DecidableEq α] (d : α) (m : SMap α) (k : Nat) (v : α) : SMap α :=
  if v = d then mapErase m k else mapInsert m k v

/-- Every key of the map is above k. -/
def mapAbove {α : Type} (m : SMap α) (k : Nat) : Bool :=
  match m with
  | [] => true
  | (i, _) :: _ => k < i

/-- The canonical form of a sparse map; d gives what each unlisted key reads as. -/
def mapWf {α : Type} [DecidableEq α] (d : Nat → α) : SMap α → Bool
  | [] => true
  | (i, v) :: m => decide (v ≠ d i) && mapAbove m i && mapWf d m

/-- Remove every entry whose key is in lo..hi - 1. -/
def mapClear {α : Type} (m : SMap α) (lo hi : Nat) : SMap α := m.filter (fun e => e.1 < lo || hi ≤ e.1)

/-- The canonical form of a list of entries: each is written in turn. -/
def mapRebuild {α : Type} [DecidableEq α] (d : Nat → α) (m : SMap α) : SMap α := m.foldl (fun a e => mapSet (d e.1) a e.1 e.2) []

/-- One step of CRC-32C, reflected polynomial 0x82F63B78, for one bit. -/
def crc32cBit (c : Nat) : Nat := if c % 2 = 1 then Nat.xor (c / 2) 0x82F63B78 else c / 2

/-- CRC-32C state after one byte. -/
def crc32cByte (c b : Nat) : Nat := iter 8 (fun _ x => crc32cBit x) (Nat.xor c (b % 256))

/-- CRC-32C of a list of bytes (initial value and final inversion all ones). -/
def crc32c (bs : List Nat) : Nat := Nat.xor (bs.foldl crc32cByte 0xFFFFFFFF) 0xFFFFFFFF

end Sys2Proof.Machine
end

