-- ==== Sys2Proof/Machine/State.lean ====
section
/-! DEFINITION. The state of the block: plain data. Registers live in one sparse map keyed by block, instance and offset;
what the spec gives the machine beside registers (queues, FIFOs, arrays, engines) lives in the structures below. -/

namespace Sys2Proof.Machine

/-- What leaves the package; the outbox of State keeps them, newest first (log 6). -/
inductive OutKind where
  | msix          -- function, vector
  | hostWrite     -- function, bus address, bytes
  | hostRead      -- tag, function, bus address, length
  | cplData       -- a BAR or configuration answer: tag, status, data
  | regData       -- the data of a register read inside the package: brand, die, offset, bytes
  | ack           -- an access inside the package that brings no data: brand, die, offset, status (R357)
  | spData        -- the answer of a scratchpad-window access: brand, core, offset, status, bytes of a read (R242, R250)
  | pageRequest   -- PASID, page, PRG index, flags
  | atsRequest    -- PASID, page
  | invComplete   -- an ATS Invalidate Completion: tag
  | frame         -- a Longtrack frame: port or path, kind, words
  | rationReply   -- bytes of a Ration bus answer
  | mctp          -- binding, bytes
  | pldm          -- command, completion code, data
  | pldmEvent     -- an event message: bytes
  | spdm          -- response code, data
  | doe           -- DOE data object
  | tdo           -- the TAP's selected register and value
  | pmbus         -- rail, PMBus command
  | pin           -- pin number, level
deriving DecidableEq, Repr

/-- One message out of the package. -/
structure Out where
  kind : OutKind
  args : List Nat
deriving DecidableEq, Repr

/-- One event of the calendar (R83). -/
structure CalEv where
  tick : Nat
  cls : Nat
  tgt : Nat
deriving DecidableEq, Repr

/-- The timebase beside its registers (R73-R86). Instants are in units of 10 ns. -/
structure Bell where
  /-- tick instant of the last tick taken -/
  lastTick : Option Nat
  /-- the accepted edge; while Locked the last good edge (R73) -/
  accepted : Option Nat
  /-- the last intervals between good edges, newest first, at most 8 (R74) -/
  intervals : List Nat
  /-- relock is qualified (R76) -/
  qualified : Bool
  /-- the period before the last change, in us, and the ticks its window still holds (R89) -/
  oldPeriod : Nat
  oldTicks : Nat
  /-- ticks taken whose phase 0 has not run yet: tick instant, true for a PTP tick -/
  due : List Nat
  /-- phases of the current tick that have run: 1, 2 or 3 -/
  phasesRun : Nat
  /-- length of the last tick, 10 ns units (R77) -/
  tickLen : Nat
  /-- tick instant of the tick the counter stands at -/
  openAt : Nat
  /-- state changes to record at phase 2: new state, previous state (R80) -/
  toRecord : List (Nat × Nat)
  /-- the event calendar, in running order, and events held while it is full (R84) -/
  cal : List CalEv
  calHeld : List CalEv
deriving DecidableEq, Repr

/-- What one paddock holds beside its registers (R109-R116). -/
structure Pdk where
  /-- last step of the regather sequence completed: 0 none, 1-7 for G1-G7 -/
  step : Nat
  /-- t0 in 10 ns units and the tick of G0 -/
  t0 : Nat
  tick0 : Nat
  /-- the sequence ends in Free (delete, loss of VF) -/
  delete : Bool
  /-- an FLR is part of the sequence (R116, R121) -/
  flr : Bool
  /-- an image was held at G0 -/
  hadImage : Bool
  /-- the gate of brand 0x10 + n is open (R106, R112) -/
  gateOpen : Bool
  /-- bit s: an event of source s waits for the coalescing boundary (R109) -/
  waiting : Nat
  /-- read responses abandoned at the end of the drain (R113) -/
  readsAbandoned : Nat
  /-- the Pasture share is released to others (R112, R120) -/
  released : Bool
  /-- a create or delete command the Shepherd is working on: its op, 0 none (R101) -/
  cmd : Nat
  /-- kind of the first failure of the open epoch, 0 none (R510); an exception abandons it (R512) -/
  epFailed : Nat
  epAbandoned : Bool
  /-- a failover notice has reached this standby (R521) -/
  failDue : Bool
  /-- the epoch number last replayed (R517) -/
  epReplay : Nat
  /-- crook stop (R647): 0 none, 1 stopping (K2 done), 2 stopped; the Tally block it holds plus 1 -/
  crook : Nat
  crookBlock : Nat
  /-- section starts so far (R643) -/
  sections : Nat
  /-- its Muster window (R550): 0 none, 1 declared, 2 open, 3 closed; the tick on which it opened -/
  mwin : Nat
  mwinAt : Nat
deriving DecidableEq, Repr

/-- What one function of H0 holds for its records and messages (R663, R677, R680, R831). -/
structure HostFn where
  /-- under reset by an FLR (R831) -/
  underReset : Bool
  /-- in D3hot; MSI-X vectors held there (R663) -/
  d3 : Bool
  heldMsix : List Nat
  /-- MSI-X Enable and Function Mask of the MSI-X capability -/
  msixEn : Bool
  msixMask : Bool
  /-- Command register bits Memory Space Enable and Bus Master Enable -/
  memEn : Bool
  busMaster : Bool
  /-- fault records waiting for a staging buffer, oldest first (R677), and records lost since -/
  held : List (List Nat)
  lost : Nat
  /-- fault records staged: record, pool die, pool, buffer index -/
  staged : List (List Nat × Nat × Nat × Nat)
  /-- sequence numbers of the fault queue and event ring, and their freed heads -/
  fqSeq : Nat
  eqSeq : Nat
  fqHead : Nat
  eqHead : Nat
deriving DecidableEq, Repr

/-- An event on its way to the Flockbook's banks (R604, R608). -/
structure FbkRec where
  evnum : Nat
  typ : Nat
  flags : Nat
  src : Nat
  tick : Nat
  w0 : Nat
  w1 : Nat
  w2 : Nat
  w3 : Nat
deriving DecidableEq, Repr

/-- A record write in progress (R610): what is written, where, failed attempts so far. Kind: 0 the oldest staging entry, 1 a storm
summary, 2 the first copy of a dual record, 3 its second copy, 4 the urgent record of R625; `going`: phase 1 is done. -/
structure FbkWrite where
  r : FbkRec
  seq : Nat
  bank : Nat
  slot : Nat
  attempts : Nat
  kind : Nat
  going : Bool
deriving DecidableEq, Repr

/-- The Flockbook beside its registers (R604-R622). -/
structure Fbk where
  /-- bank slots that hold data: key 65,536 bank + slot, the eight words of the slot -/
  slots : SMap (List Nat)
  /-- staging ring, oldest first (R608), at most 64, and the reserved head entry of R625 -/
  staging : List FbkRec
  urgent : List FbkRec
  /-- coalescing entries: type, count; first and last event number, tick and source of the first (R612) -/
  coal : List (Nat × Nat)
  coalFirst : Nat
  coalLast : Nat
  coalTick : Nat
  coalSrc : Nat
  write : Option FbkWrite
  /-- the dual copies of the oldest staging entry are written; the slot a failed attempt of bank b used last, b the key -/
  dualDone : Bool
  failSlot : SMap Nat
  /-- counts of the summary being written, and its last event number -/
  summary : List (Nat × Nat)
  sumLast : Nat
  /-- the commit window is open (R609) -/
  winOpen : Bool
  /-- snapshot in progress: its values, the pages left (R617); one was asked for at the next tick (R725) -/
  snapVals : List Nat
  snapLeft : List Nat
  snapAsked : Bool
  /-- a slot read that waits for the write in it (R623), plus 1 -/
  latch : Nat
  /-- calendar: seconds and 1/32,768 s at time rtcAt; it runs (R619, R758); the time the µs of counter 0 are counted to -/
  rtcSec : Nat
  rtcFrac : Nat
  rtcAt : Nat
  rtcRun : Bool
  lifeAt : Nat
  boot : Nat
  /-- next number of a record in the mute ring (R622) -/
  muteSeq : Nat
  /-- what the tick now open adds to the lifetime counters (R615): by counter index -/
  acc : SMap Nat
deriving DecidableEq, Repr

/-- A flit: four words of 64 data bits and 8 check bits (R288); poisoned where every word carries the poison pattern. -/
structure Flit where
  ws : List Nat
  poisoned : Bool
deriving DecidableEq, Repr

/-- A queue entry of the M, V or X unit (R139). -/
structure QEnt where
  disp : Nat
  /-- the number of the bundle that dispatched it -/
  bun : Nat
  task : Nat
  pc : Nat
  /-- the slot's 64 bits and the register operands read at issue, in the order the slot's format names them (R140) -/
  slot : Nat
  vals : List Nat
  started : Bool
  passed : Bool
  startCyc : Nat
  /-- committed (R272); progress: requests made and requests finished, blocks or flits moved, by the unit's chapter -/
  committed : Bool
  prog : Nat
  prog2 : Nat
  /-- an answer has come back: its words -/
  answered : Bool
  ans : List Nat
  /-- abandoned by an execution fault (R151) -/
  abandoned : Bool
  /-- words a read has brought and nothing has used yet, with their data: rows of M, lines of a beat of V, flits of X (R245); words
  of the weight load of M, of the setup reads of V -/
  got : List (Nat × Nat)
  load : List (Nat × Nat)
  /-- M: weight blocks swapped into the active plane; V: beats made (R179, R201) -/
  turn : Nat
  /-- M: abandoned on a weight read, the active plane is still to be emptied (R174); V: the elements of the current beat are made -/
  mark : Bool
  /-- V: the running value of a reduction (R214) -/
  part : Nat
  /-- M: the first failing check of a block sum: kind, row, column (R182) -/
  fail : List Nat
deriving DecidableEq, Repr

/-- The mark of a scratchpad word a V or X operation wrote: the writer's task and unit (1 V, 2 X); for each task the bundle number
from which on its operations find the write ordered, 0 while none do: for the S slot, M and V, and for X (R147, R176, R220). -/
structure SpMark where
  task : Nat
  unit : Nat
  ord : List Nat
  ordX : List Nat
deriving DecidableEq, Repr

/-- One word of a W-phase request: word number in the scratchpad, byte enables, data of a write with its check bits forced
bad where `bad` (R359). -/
structure WWord where
  word : Nat
  be : Nat
  val : Nat
  bad : Bool
  /-- of a read: the cycle plus 1 in which a W-phase write of the word was served, and what the word held before it (R245) -/
  old : Nat × Nat := (0, 0)
deriving DecidableEq, Repr

/-- A W-phase request presented to the banks (R242): class (0 M, 1 X, 2 P, 3 V), direction, cycle of presentation, the
operation or access it belongs to, the words not yet served. -/
structure WReq where
  cls : Nat
  wr : Bool
  load : Bool
  at_ : Nat
  ent : Nat
  words : List WWord
deriving DecidableEq, Repr

/-- Where the answer of a Pasture access to a scratchpad goes. -/
inductive PRet where
  | none                                   -- nothing waits
  | stream (ctx off deadline : Nat)        -- a Drover request of a context, at a byte of its stream
  | whistle (id : Nat)                     -- a Whistle landing
  | window (brand core off : Nat)          -- a scratchpad-window access from the fabric
  | bar (f tag : Nat)                      -- a BAR2 access of function f
deriving DecidableEq, Repr

/-- A Pasture-side access to a scratchpad (class P, R242): its line requests not yet presented, its bytes read so far. -/
structure PAcc where
  id : Nat
  wr : Bool
  off : Nat
  len : Nat
  data : List Nat
  todo : List WReq
  left : Nat
  err : Bool
  ret : PRet
deriving DecidableEq, Repr

/-- A residue check still to be made (R183): the operation and the elements it wrote. -/
structure RChk where
  disp : Nat
  task : Nat
  pc : Nat
  acc : Nat
  fmt : Nat
  rows : Nat
  /-- what was found at completion: empty where all agree, else kind, row, column (R183) -/
  found : List Nat
deriving DecidableEq, Repr

/-- What a physical core holds beside its registers and arrays (R130-R164, R242, R265). -/
structure Core where
  /-- core cycles seen, and the task that last issued (R132) -/
  cyc : Nat
  last : Nat
  /-- macro-operations dispatched and bundles issued so far (R139) -/
  nextDisp : Nat
  bundles : Nat
  /-- the divider is busy until this cycle (R133) -/
  divFree : Nat
  /-- cycle from which task t may issue after a fetch bubble; cycle from which register 64 t + k may be read (R133, R152) -/
  bubble : SMap Nat
  ready : SMap Nat
  /-- bit t: the next address of task t is out of range (R143) -/
  past : Nat
  qm : List QEnt
  qv : List QEnt
  qx : List QEnt
  /-- the active weight plane and the shadow plane: their bytes (R174) -/
  plane : List Nat
  shadowPl : List Nat
  checks : List RChk
  reqs : List WReq
  /-- requests of class X that wait until the one before them is served (R242) -/
  xtodo : List WReq
  paccs : List PAcc
  nextAcc : Nat
  /-- the cycle plus 1 of the last write of LEA_SPBSEL (R258) -/
  selCyc : Nat
  /-- issued state of connection entries (R397): 0 Closed, 1 Listening, 2 Sending -/
  issued : SMap Nat
  /-- words with a corrected value waiting for write-back (R249) -/
  wb : List Nat
  /-- injection and ejection FIFOs, oldest first (R265) -/
  inj : List Flit
  ej : List Flit
  /-- flits read by the inject engine and not yet entered -/
  injRead : List Flit
  /-- trace FIFO: the record words of the open line, and of the closed lines, oldest first (R641) -/
  trOpen : List Nat
  trLines : List (List Nat)
  /-- records dropped since the last delivered line; bit u: source u drops until its next anchor (R641, R642) -/
  trDropped : Nat
  trMute : Nat
  /-- previous record's address and retired or period count of source u (R635): key 2 u, 2 u + 1 -/
  trPrev : SMap Nat
  /-- injection pops and Local selections still to come before the hurdle decided last (R279) -/
  rInj : Nat
  rEj : Nat
deriving DecidableEq, Repr

/-- The mesh of a paddock (R267, R281, R286). -/
structure MeshP where
  running : Bool
  sc : Nat
  /-- hold bits of every cycle, newest first, at most 58; external terms at the root, at most 29 -/
  holds : List Bool
  exts : List Bool
  /-- the counter stands held at a hurdle, and since which tick; a long-hold record was posted -/
  held : Bool
  heldTick : Nat
  longDone : Bool
  /-- external hold terms (R282): Ration, regather, schedule, crook and paddock stop -/
  hRation : Bool
  hRegather : Bool
  hSched : Bool
  hCrook : Bool
  /-- slots executed as slot 0 since the section start (R634) -/
  periods : Nat
  /-- the next slot is the slot 0 of a section start (R267) -/
  fresh : Bool
deriving DecidableEq, Repr

/-- What a stream context holds beside its registers (R303-R331): the stream byte of the next request, the relocated
buffers, T at arm, chunks released, an out-stream read of the scratchpad in progress (its length), the host page it waits
for (PASID code, page, write), and that its requests stand cancelled by a regather (R334). -/
structure Ctx where
  pos : Nat
  ping : Nat
  pong : Nat
  tArm : Nat
  rel : Nat
  reading : Nat
  waitPage : List Nat
  stopped : Bool
  /-- halted by a crook stop (R648) -/
  byCrook : Bool
  /-- fault code of its halt (R326, R670) -/
  code : Nat
  /-- it has been armed since its registers were last reset -/
  used : Bool
  /-- address and length of the request that met its last translation fault (R326) -/
  fva : Nat := 0
  flen : Nat := 0
deriving DecidableEq, Repr

/-- The trace sink of a paddock (R643-R649): the buffer it fills (die, pool, index), bytes written to it, the section of its
lines; what closes it: 0 nothing, 1 full or a section start, 2 a flush; a flush in progress; a dump in progress: 0 none, 1, 2
with scratchpads; when it stopped accepting, plus 1. -/
structure Sink where
  buf : List Nat
  used : Nat
  sect : Nat
  close : Nat
  flush : Bool
  dump : Nat
  since : Nat
deriving DecidableEq, Repr

/-- A slot of the key store (R734). -/
structure KeySlot where
  valid : Bool
  revoked : Bool
  gen : Nat
  x : Nat
  y : Nat
deriving DecidableEq, Repr

/-- The writable Fold registers of a paddock: image address and length, golden region address and 64 KiB units. -/
structure FoldReq where
  img : Nat
  len : Nat
  gold : Nat
  glen : Nat
deriving DecidableEq, Repr

/-- The Fold loader's work for a paddock (R487-R505): what it sampled from the registers, the image the golden region holds
(attested, sections, variants), the blocks written (section times (V + 1) plus placement); the job: 0 none, 1 load scheduled, 2
load, 3 verify, 4 swap waiting, 5 swap, 6 reload; its section, the tick a swap began to wait, and the section plus 1 of a swap that waits for
a replay (R531). -/
structure FoldJ where
  /-- the registers of the command in progress, as sampled at its acceptance; img to glen hold those of the image loaded -/
  req : FoldReq
  img : Nat
  len : Nat
  gold : Nat
  glen : Nat
  has : Bool
  att : Bool
  secs : Nat
  vars : Nat
  written : List Nat
  job : Nat
  sect : Nat
  since : Nat
  after : Nat
  /-- the image last verified at L1: its digest, its key slot (R730) -/
  dig : List Nat
  kslot : Nat
  /-- a column under the paddock was repaired while its image was not attested: no placement exists (R37, R498) -/
  noVar : Bool
  /-- the value of the swap counter at its last request (R501) -/
  told : Option Nat
deriving DecidableEq, Repr

/-- Who takes the answer of a Pasture data request. -/
inductive XRet where
  | none
  | drvRead (g off : Nat)          -- a context's read of stream bytes from off on
  | drvWrite (g off : Nat)         -- a context's write of stream bytes from off on
  | bar (f tag : Nat)              -- a BAR access of function f; tag of a read
  | sink (n kind : Nat)            -- a write of the trace sink of paddock n: 0 a line, 1 a ring entry, 2 a dump
  | ltk (r : List Nat)             -- a Longtrack packet: path, route, sequence number
  | held (n : Nat)                 -- a held output of paddock n
deriving DecidableEq, Repr

/-- An access that waits at a gate (R70, R429, R551): kind 0 a register access inside the package, 1 one through BAR0 of function f with a
tag, 2 one to the scratchpad window of the logical core `die`; the brand, the die, the offset, the length, the data, the draw a write
of a draw register would measure. -/
structure AccW where
  kind : Nat
  brand : Nat
  die : Nat
  off : Nat
  len : Nat
  wr : Bool
  data : List Nat := []
  f : Nat := 0
  tag : Nat := 0
  draw : Nat := 0
  /-- deadline (R349) -/
  dl : Nat := 0
deriving DecidableEq, Repr

/-- A Pasture data request (R349). Stage: 0 waits for translation, 1 for admission, 2 has left its entry, 3 waits for the
host, 4 is answered, 5 waits for an ATS completion, 6 is on its way elsewhere (a buffer, a peer), 8 stands at a fault of the
sink, 9 waits for the admission of the read of a table entry, 10 that read has left its entry. -/
structure Xact where
  wr : Bool
  brand : Nat
  die : Nat
  gidx : Nat
  root : Nat
  va : Nat
  pa : Nat
  len : Nat
  data : List Nat
  pf : List Bool
  deadline : Nat
  stage : Nat
  host : Bool
  status : Nat
  bad : List Bool
  /-- translated with an entry an invalidation has discarded (R378); tags of ATS invalidations it delays (R384) -/
  inv : Bool
  invTags : List Nat
  /-- a far context's read from beyond a halt: its data is not used (R323) -/
  stale : Bool
  ret : XRet
  /-- the levels of the table entries its translation used (R378), and the PASID code it walked with (R377) -/
  via : List Nat := []
  pasid : Nat := 0
  /-- its place in the order of admissions (R354, R389) -/
  seq : Nat := 0
  /-- its walk: the entries read so far from level 0 on, the address of the next and the deadline of its read (R376) -/
  walk : List Nat := []
  tab : Nat := 0
  tabDl : Nat := 0
deriving DecidableEq, Repr

/-- An entry of H0's address translation cache (R381): PASID code, first page, size, translated address, rights. -/
structure AtsEnt where
  pasid : Nat
  base : Nat
  size : Nat
  ta : Nat
  r : Bool
  w : Bool
deriving DecidableEq, Repr

/-- A Page Request (R383): PASID code, page, write access, PRG index, sent. -/
structure PageReq where
  pasid : Nat
  page : Nat
  wr : Bool
  idx : Nat
  sent : Bool
deriving DecidableEq, Repr

/-- A Tally packet (R429, R430, R432): op 0 add, 1 wait, 2 watch, 3 read, 4 unwatch; the unit's die, the counter, the value,
the condition, further fields; who takes the answer: kind 0 none, 1 core (core, dispatch), 2 context, 3 host (function,
ring), 4 Longtrack. -/
structure TPkt where
  op : Nat
  unit : Nat
  idx : Nat
  val : Nat
  cond : Nat
  extra : List Nat
  brand : Nat
  die : Nat
  ret : List Nat
  /-- deadline (R349); paddocks whose gate closed after the packet left its entry (R385) -/
  dl : Nat := 0
  g1 : List Nat := []
deriving DecidableEq, Repr

/-- A wait that stands at a Tally unit (R430): unit, counter, condition, value; who waits, as TPkt.ret. -/
structure TWait where
  unit : Nat
  idx : Nat
  cond : Nat
  val : Nat
  ret : List Nat
deriving DecidableEq, Repr

/-- A Whistle packet on its way (R393-R408). Kind: 0 message, 1 open request, 2 open bound, 3 open refused, 4 close marker,
5 delivered, 6 busy refusal, 7 gate refusal. Cores are logical; src is 4,096 + die for a Tally unit; `lt` holds the arriving
or leaving route, `sid` the sender's table entry. -/
structure WMsg where
  kind : Nat
  src : Nat
  srcIdx : Nat
  stask : Nat
  dst : Nat
  conn : Bool
  entry : Nat
  sentry : Nat
  tag : Nat
  e : Nat
  q : Nat
  len : Nat
  payload : List Nat
  brand : Nat
  sid : Nat
  lt : List Nat
  /-- deadline; paddocks whose gate closed since: as in TPkt -/
  dl : Nat := 0
  g1 : List Nat := []
deriving DecidableEq, Repr

/-- A message in a core's send table (R398): the packet, its state (0 on its way, 1 refused as busy, 2 on a Longtrack route, 3 held back by a dead
route, 4 a close marker that waits for the open, 5 waits for room in the hold region), when it may be resent. -/
structure WSend where
  sid : Nat
  msg : WMsg
  st : Nat
  at_ : Nat
deriving DecidableEq, Repr

/-- A spilled message (R406) with its Byre buffer: die, pool, index. -/
structure WSpill where
  msg : WMsg
  win : Nat
  notify : Bool
  q : Nat
  die : Nat
  pool : Nat
  buf : Nat
deriving DecidableEq, Repr

/-- A Whistle message whose payload is being written into its window (R404): its number, the receiving core, physical and logical;
whether and where its notice goes; the Byre buffer that held it (die, pool, index), if it was spilled; whether its sender is still to
be answered. -/
structure WLand where
  id : Nat
  p : Nat
  core : Nat
  msg : WMsg
  notify : Bool
  q : Nat
  buf : List Nat
  ack : Bool
deriving DecidableEq, Repr

/-- A Longtrack DATA packet outstanding on a route (R704): number, operation, body words, data, who takes the answer, path,
when first and last sent, time of the route's last answer. -/
structure LPkt where
  route : Nat
  seq : Nat
  op : Nat
  body : List Nat
  data : List Nat
  ret : List Nat
  path : Nat
  first : Nat
  last : Nat
deriving DecidableEq, Repr

/-- A Longtrack path: when its last KEEPALIVE came (plus 1), the KEEPALIVEs of its revival, when H0 last sent one (plus 1);
times in 10 ns (R702). -/
structure LPath where
  ka : Nat
  cnt : Nat
  sent : Nat
deriving DecidableEq, Repr

/-- A Longtrack route: it died by timeout; the time of its last answer (R708). -/
structure LRoute where
  timed : Bool
  ans : Nat
deriving DecidableEq, Repr

/-- A watch pair's work beside the registers (R519-R523). As the active paddock: the epoch being copied plus 1, that its bank
is prepared, the epoch that waits for its copy plus 1. As the standby: the epoch in the bank that does not hold PDK_WPCEPOCH
plus 1, prepared; start sections of banks 0 and 1; a failover's step: 1 restoring, 2 restored. -/
structure Watch where
  copy : Nat
  ready : Bool
  next : Nat
  bankEp : Nat
  bankOk : Bool
  sect0 : Nat
  sect1 : Nat
  fail : Nat
deriving DecidableEq, Repr

/-- A held output of an integrity paddock (R508): paddock, epoch, kind (1 host write, 2 completion, 3 Longtrack packet),
arguments, data, space in the log. -/
structure Hold where
  n : Nat
  epoch : Nat
  kind : Nat
  args : List Nat
  data : List Nat
  space : Nat
deriving DecidableEq, Repr

/-- A submission entry H0 has fetched (R667): function, ring, index, its eight words, state (0 fetched, 1 executing, 2
executed, 3 its completion is held, 4 to be fetched again), status and result, buffer (die, pool, index), fetch order. -/
structure HEnt where
  f : Nat
  k : Nat
  idx : Nat
  words : List Nat
  st : Nat
  status : Nat
  res : Nat
  buf : List Nat
  order : Nat
deriving DecidableEq, Repr

/-- A submission and completion ring pair of a function (R665, R666, R673): the tail of its doorbell, the freed head of the
completion ring, and since when (us, plus 1) a completion waits. -/
structure HRing where
  tail : Nat
  cqHead : Nat
  since : Nat
deriving DecidableEq, Repr

/-- What Byre holds of one pool beside its registers (R452-R468): the head of the free list (4,294,967,295: empty), buffers
being reclaimed, and that the pool is destroyed once they are back (R469). -/
structure PoolS where
  head : Nat
  reclaim : List Nat
  destroyAfter : Bool
deriving DecidableEq, Repr

/-- A get or put of a task on its way to Byre (R459, R461): the die, the pool, the put address, who asks. -/
structure ByrReq where
  put : Bool
  d : Nat
  pool : Nat
  va : Nat
  brand : Nat
  pcoreId : Nat
  core : Nat
  disp : Nat
  /-- when it set out (R458); deadline; paddocks whose gate closed since: as in TPkt -/
  at_ : Nat := 0
  dl : Nat := 0
  g1 : List Nat := []
deriving DecidableEq, Repr

/-- A PLDM event held for the event receiver: its words, attempts made, when last sent (R726). -/
structure PldmEv where
  words : List Nat
  attempts : Nat
  sentAt : Nat
  /-- the receiver has answered; the event waits for those before it -/
  acked : Bool
deriving DecidableEq, Repr

/-- An entry of a Walker's recurrence table (R544): core, frame, Z, the pass that saw it last, the count. -/
structure Recur where
  p : Nat
  f : Nat
  z : Nat
  pass : Nat
  count : Nat
deriving DecidableEq, Repr

/-- The Walker of a Lea die (R540-R544): cursor (576 times the core's number on the die, plus the frame), frames left of the
slice, a slice runs, the pass, the recurrence table, least recently seen first. -/
structure Walker where
  at_ : Nat
  left : Nat
  on : Bool
  pass : Nat
  tab : List Recur
deriving DecidableEq, Repr

/-- What Muster keeps of a physical core (R547-R549): the tick of its last completed test, the tick since which it is due by
name, plus 1, and the tick its running test began on, plus 1. -/
structure MCore where
  last : Nat
  due : Nat
  test : Nat
deriving DecidableEq, Repr

/-- A core failure being handled (R560-R563): the core, the kind, its paddock plus 1; 0 waits for phase 2, 1 waits for its column,
2 entered in the Cull map's record, 3 the column shifts; the record is in the Flockbook; the paddock is cleared (G5). -/
structure Repair where
  p : Nat
  kind : Nat
  pdk : Nat
  stage : Nat
  saved : Bool
  cleared : Bool
deriving DecidableEq, Repr

/-- A flash slot (R738): the boot loader verifies, its version and security version; the same of the Shepherd firmware. -/
structure FlashSlot where
  lok : Bool
  lver : Nat
  lsvn : Nat
  fok : Bool
  fver : Nat
  fsvn : Nat
deriving DecidableEq, Repr

/-- Management, security and firmware on K0 beside their registers (R721-R752). -/
structure Mgmt where
  /-- PLDM terminus ID, 0 unassigned; event receiver: 0 unset, else 1 + 256 binding + EID (R726) -/
  tid : Nat
  evRecv : Nat
  /-- commands held by live activation, in arrival order (R741): kind (1 PDK_CMD, 2 FLD_CMD, 3 mailbox), arguments -/
  held : List (List Nat)
  /-- live activation (R740): 0 none, 1 asked for, 2 A1 to A4, 3 a revert; t in 10 ns; tick of A4 plus 1 -/
  act : Nat
  actAt : Nat
  doneTick : Nat
  /-- the update in progress (R738, DSP0267): state, agent plus 1, component, its version, security version, bytes, bytes received,
  identifiers of the component table -/
  upd : Nat
  agent : Nat
  comp : Nat
  ver : Nat
  svn : Nat
  size : Nat
  off : Nat
  table : List Nat
  /-- staged Shepherd firmware: version, security version -/
  staged : List Nat
  /-- flash slots A and B, the active pointer, the security version of the running boot loader -/
  slotA : FlashSlot
  slotB : FlashSlot
  active : Nat
  lsvn : Nat
  /-- owner digest, six words, empty while unset; fused security version -/
  owner : List Nat
  fusedSvn : Nat
  /-- the generation of the board record in flash, and of the one loaded plus 1 (R744) -/
  board : Nat
  boardRun : Nat
  /-- SPDM: 0 nothing agreed, 1 version, 2 capabilities, 3 algorithms (R728) -/
  spdm : Nat
  /-- the slot a boot loader waits in for the next cold start, plus 1 (R738, R739) -/
  bootNext : Nat
  /-- sensor readings as of the last phase 2, by PLDM sensor number, and the threshold band each was in (R725) -/
  sensors : SMap Nat
  bands : SMap Nat
  /-- the firmware was reverted and none has replaced it by choice since (R742, R752) -/
  reverted : Bool
  /-- the slot an update in Recovery writes -/
  updSlot : Nat
deriving DecidableEq, Repr

/-- Supplies, clocks and reset beside their registers (R753-R786). -/
structure Pwr where
  /-- VAUX is good; K0 is in cold reset, and why (SHP_BOOTSTAT.cold_cause); K0 is too hot -/
  vaux : Bool
  cold : Bool
  cause : Nat
  hot : Bool
  /-- the level K0 drives on FL_RST_N: low through a cold reset, which resets the flash, high after it (R794, R807) -/
  flRstN : Bool
  /-- releases of the cold reset so far -/
  boots : Nat
  /-- THERMTRIP_N is asserted; the boot before this one ended in a trip -/
  trip : Bool
  tripBoot : Bool
  /-- start-up waits for K0 to cool after a trip (R774) -/
  hotWait : Bool
  /-- groups of supplies switched on (S7), start-ups that failed, when the last one did -/
  group : Nat
  fails : Nat
  failAt : Nat
  /-- PERST_N is low; the link is up, and since when; the configuration space has been ready since the last link-up (R766) -/
  perst : Bool
  linkAt : Nat
  /-- a standby was asked for (R768); the tick of a shut-down or trip -/
  standby : Bool
  sdTick : Nat
  /-- SMBALERT# is asserted and not yet read (R741) -/
  alert : Bool
deriving DecidableEq, Repr

/-- The test access port (R811). -/
structure Tap where
  /-- the instruction in effect: 0 BYPASS, 1 IDCODE, 2 SAMPLE/PRELOAD, 3 EXTEST, 4 CLAMP, 5 HIGHZ, 6 EXTEST_PULSE, 7 EXTEST_TRAIN -/
  ir : Nat
  /-- what the cells of always-on lands and of main-domain lands hold to drive -/
  cells : Nat
  cellsMain : Nat
deriving DecidableEq, Repr

/-- The Ration controller beside its registers (R573-R594). Energy in units of 1 uJ, so far in the tick: spent, outside the Lea
dies, by paddock; dynamic and leakage by Lea die; core cycles run and Ration-held by die; hottest reading of the twelve dies, its
sensor, mean of the Lea dies, in 1/16 degree. -/
structure Ration where
  spent : Nat
  outside : Nat
  pads : List Nat
  dyn : List Nat
  leak : List Nat
  run : List Nat
  hold : List Nat
  tj : List Nat
  tjs : List Nat
  tjm : List Nat
  /-- effective grant and length (10 ns) of the tick now open; ticks since a grant, an inlet value was written -/
  gEff : Nat
  len : Nat
  grantAge : Nat
  inletAge : Nat
  /-- a sensor has read 105 degrees and not every one is below 104; this came about in the open tick; the package hold is set -/
  emerg : Bool
  emergTick : Bool
  pkgHold : Bool
  /-- clock chosen for the open tick in MHz; ageing offset in effect by Lea die, in 0.25 mV -/
  fNext : Nat
  off : List Nat
  /-- flags of RTN_STAT that the open tick has set -/
  cur : Nat
  /-- readings of the rails in units of 2^-16 W and their number, ticks, length and spent units of the 64-tick window (R594) -/
  pinSum : List Nat
  pinCnt : List Nat
  winTicks : Nat
  winLen : Nat
  winSpent : Nat
  /-- the rail read last -/
  rail : Nat
  /-- when the clock or voltage step begun last is done (R582) -/
  stepEnd : Nat
deriving DecidableEq, Repr

/-- Why a step can stop. No command of this block stops with a fault: the block reports its errors in its own registers
and records, so the type has no constructor. -/
inductive Fault where
deriving DecidableEq, Repr

/-- Why a command can be refused. -/
inductive Refusal where
  /-- The command has no meaning in this model yet; raised by an arm of exec only; safe. -/
  | notModelled (mnemonic : String)
deriving DecidableEq, Repr

/-- The state of the block. -/
structure State where
  /-- the time of the last timed command, 10 ns units (log 5) -/
  now : Nat
  /-- free values drawn so far: the model's own field (log 4) -/
  freeCtr : Nat
  /-- every register, keyed by block, instance and offset; an unlisted one reads as its reset value -/
  regs : SMap Word
  /-- Bell-class and Rearm-class registers with a write pending: the value still in effect (R8) -/
  bellPend : SMap Word
  rearmPend : SMap Word
  /-- Fixed-class registers written since the reset of their block (R5, R62) -/
  fixedDone : SMap Bool
  /-- what has left the package, newest first (log 6) -/
  outbox : List Out
  /-- output pins driven high: BELL_LOCK, ALIVE_OUT (R85, R86), and the start-up outputs -/
  bellLock : Bool
  aliveOut : Bool
  bell : Bell
  pdks : SMap Pdk
  /-- SR-IOV VF Enable and NumVFs (R99) -/
  vfEnable : Bool
  numVfs : Nat
  fns : SMap HostFn
  /-- PF event records held on H0, oldest first (R677), and records lost since -/
  pfEvents : List (List Nat)
  pfLost : Nat
  fbk : Fbk
  /-- physical cores (pcore_id) and the meshes of paddocks -/
  cores : SMap Core
  meshes : SMap MeshP
  /-- flits in link stages: key 4 core_id + input (N, E, S, W): slots still to execute, flit (R262) -/
  links : SMap (List (Nat × Flit))
  /-- arrays of the physical cores, keyed by pcore_id: scratchpad words (131,072 p + word, 72 bits), bundles (2,048 p + a,
  266 bits), route slots (4,096 p + k, 22 bits), tile elements (16,384 p + 1,024 t + 32 row + col), accumulator elements
  (4,096 p + 1,024 a + 32 row + col) and their shadows (256 r127 + r255), descriptor words (256 p + 8 d + k), check fields of
  static frames (576 p + f, 48 bits) -/
  sp : SMap Nat
  spEpoch : SMap Nat
  imem : SMap Nat
  rslot : SMap Nat
  tile : SMap Nat
  acc : SMap Nat
  shadow : SMap Nat
  desc : SMap Nat
  frameChk : SMap Nat
  /-- hurdle table entries: 64 p + index (R278) -/
  ht : SMap Nat
  /-- static frames the Walker must reload at once: physical core, frame (R539) -/
  wlkDue : List (Nat × Nat)
  /-- Walkers by Lea die; bit d: die d has ended its part of the package pass; Muster by physical core; slices by shared block:
  0 none, 1 a slice, 2 a forced one; the tick a block's last test began on; failures being handled, oldest first -/
  walkers : SMap Walker
  wlkDone : Nat
  mcores : SMap MCore
  mslice : SMap Nat
  mblast : SMap Nat
  repairs : List Repair
  /-- stream contexts: 32 pcore_id + k, far 131,072 + 16,384 d + k; lea cycles so far: T modulo 2^32 (R302) -/
  ctxs : SMap Ctx
  leaCyc : Nat
  /-- Pasture data requests in flight; Tally packets on their way -/
  fab : List Xact
  tlyQ : List TPkt
  /-- waits at Tally units; Whistle packets on their way -/
  tlyWaits : List TWait
  whsQ : List WMsg
  /-- send tables by core; receive queues: 8 p + q; spilled messages: 16 p + landing key (queue, or 8 + window); held opens:
  64 p + entry: requesting core and entry; landing words of entries plus 1, and Longtrack
  routes of connections plus 1: 64 p + entry; next send-table number -/
  sends : SMap (List WSend)
  rqs : SMap (List (List Nat))
  spills : SMap (List WSpill)
  opens : SMap (List WMsg)
  landings : SMap Nat
  connLt : SMap Nat
  sidNext : Nat
  /-- Longtrack packets outstanding; held outputs; submission entries fetched -/
  ltkQ : List LPkt
  /-- paths and routes; until when priority e of port q is paused: 8 q + e (R701); Syncs in a row with a small offset (R714) -/
  ltkPaths : SMap LPath
  ltkRoutes : SMap LRoute
  ltkPause : SMap Nat
  ptpGood : Nat
  held : List Hold
  hostEnts : List HEnt
  /-- ring pairs of H0: 8 f + k; entries fetched so far; AER status of function f: 2 f uncorrectable, 2 f + 1 correctable -/
  hrings : SMap HRing
  hostNext : Nat
  aer : SMap Nat
  /-- cached page-table entries, keyed by die, root, level, prefix (R377); fabric cycles so far -/
  tcache : SMap Nat
  fabCyc : Nat
  /-- charges of this window: key 128 t + brand; next slot of target t (R361) -/
  used : SMap Nat
  slotAt : SMap Nat
  /-- capacities that apply from the next window, plus 1, by target (R660) -/
  capNext : SMap Nat
  /-- H0: address translation cache, page requests, PRG index, ATS invalidations not yet completed (R381-R384) -/
  ats : List AtsEnt
  pageReqs : List PageReq
  prgNext : Nat
  atsInv : List Nat
  /-- ATS and PRI Enable and the Outstanding Page Request Allocation of the PF (R379); shares of this window: 512 cap + min by
  paddock (R363); the next line of a port's scrub pass (R372) -/
  atsEn : Bool
  priEn : Bool
  priAlloc : Nat
  winShare : SMap Nat
  /-- trace sinks by paddock -/
  sinks : SMap Sink
  scrubAt : SMap Nat
  /-- external memory bytes by physical address; power-ups of the ports so far (R830) -/
  mem : SMap Byte
  memEpoch : Nat
  /-- lines of external memory: 0 not written since power-up, 1 written, 2 poisoned (R371, R830) -/
  lines : SMap Nat
  /-- Byre: pools keyed 256 d + j; gets and puts on their way; the command in progress of die d: op (R449) -/
  pools : SMap PoolS
  byrQ : List ByrReq
  byrCmd : SMap Nat
  /-- epoch shadows: Tally counters 4,096 u + i, sequence numbers of connections over Longtrack 64 p + entry (R516) -/
  tlyShadow : SMap Nat
  connShadow : SMap Nat
  watches : SMap Watch
  /-- the Fold loader by paddock; the key store -/
  folds : SMap FoldJ
  keys : List KeySlot
  /-- the Ration controller -/
  ration : Ration
  /-- PMBus steps in progress: rail, attempts made (R593, R804) -/
  pmTry : SMap Nat
  /-- PLDM events held unacknowledged, in queue order, at most 32 (R726) -/
  pldmQ : List PldmEv
  /-- management and firmware; supplies, clocks and reset; writable configuration registers: 1,024 f + dword (R659) -/
  mgmt : Mgmt
  pwr : Pwr
  cfg : SMap Nat
  tap : Tap
  /-- Bell-class registers written at or after the moment of a tick whose phase 0 has not run: the value that tick brings into effect (R11) -/
  bellLate : SMap Word
  /-- scratchpad words a V or X operation wrote, by 131,072 p + word: who wrote them and which tasks it is ordered for (R147, R176, R220) -/
  spMark : SMap SpMark
  /-- requests admitted at the shared targets so far (R354, R389) -/
  admSeq : Nat
  /-- the cycle, plus 1, in which a Drover unit last formed a request (R321) -/
  formAt : SMap Nat
  /-- accesses that wait at a gate, oldest first (R70, R429, R551) -/
  accWaits : List AccW
  /-- Whistle messages being written into their windows, oldest first (R404) -/
  whsLands : List WLand
  /-- the cycle of the receiving core, plus 1, in which an entry was bound: 64 p + entry (R418) -/
  openAt : SMap Nat
  /-- Muster windows (R548, R550): by die, the tick its window opened on plus 1; 0 where none is open -/
  mwins : SMap Nat
  /-- commands waiting, first in first out -/
  pending : List Instr
deriving DecidableEq, Repr

/-- The timebase after reset: Stopped, no tick taken. -/
def bellReset : Bell :=
  { lastTick := none, accepted := none, intervals := [], qualified := false, oldPeriod := 0, oldTicks := 0, due := [],
    phasesRun := 3, tickLen := 0, openAt := 0, toRecord := [], cal := [], calHeld := [] }

/-- A paddock that is Free (R96-R116). -/
def pdkReset : Pdk :=
  { step := 0, t0 := 0, tick0 := 0, delete := false, flr := false, hadImage := false, gateOpen := false, waiting := 0,
    readsAbandoned := 0, released := false, cmd := 0,
    epFailed := 0, epAbandoned := false, failDue := false, epReplay := 0, crook := 0, crookBlock := 0, sections := 0, mwin := 0, mwinAt := 0 }

/-- A function after a PCIe reset. -/
def hostFnReset : HostFn :=
  { underReset := false, d3 := false, heldMsix := [], msixEn := false, msixMask := false, memEn := false,
    busMaster := false, held := [], lost := 0, staged := [], fqSeq := 0, eqSeq := 0, fqHead := 0, eqHead := 0 }

/-- The Flockbook of a new package: empty banks (log 1). -/
def fbkReset : Fbk :=
  { slots := [], staging := [], urgent := [], coal := [], coalFirst := 0, coalLast := 0, coalTick := 0, coalSrc := 0,
    write := none, dualDone := false, failSlot := [], summary := [], sumLast := 0, winOpen := false, snapVals := [], snapLeft := [],
    snapAsked := false, latch := 0, rtcSec := 0, rtcFrac := 0, rtcAt := 0, rtcRun := true, lifeAt := 0, boot := 0, muteSeq := 0, acc := [] }

/-- A physical core after its reset (R131: T0 is examined first). -/
def coreReset : Core :=
  { cyc := 0, last := 3, nextDisp := 0, bundles := 0, divFree := 0, bubble := [], ready := [], past := 0, qm := [], qv := [], qx := [],
    plane := [], shadowPl := [], checks := [], reqs := [], xtodo := [], paccs := [], nextAcc := 0, selCyc := 0, issued := [], wb := [], inj := [], ej := [], injRead := [],
    trOpen := [], trLines := [], trDropped := 0, trMute := 0, trPrev := [], rInj := 0, rEj := 0 }

/-- No V or X operation wrote the word. -/
def spMarkReset : SpMark := { task := 4, unit := 0, ord := [], ordX := [] }

/-- The mesh of a paddock that does not run. -/
def meshReset : MeshP :=
  { running := false, sc := 0, holds := [], exts := [], held := false, heldTick := 0, longDone := false, hRation := false,
    hRegather := false, hSched := false, hCrook := false, periods := 0, fresh := false }

/-- A context that is Unarmed. -/
def ctxReset : Ctx := { pos := 0, ping := 0, pong := 0, tArm := 0, rel := 0, reading := 0, waitPage := [], stopped := false,
                         byCrook := false, code := 0, used := false }

/-- A sink that holds nothing. -/
def sinkReset : Sink := { buf := [], used := 0, sect := 0, close := 0, flush := false, dump := 0, since := 0 }

/-- The loader has no work for a paddock. -/
def foldReset : FoldJ := { req := { img := 0, len := 0, gold := 0, glen := 0 }, img := 0, len := 0, gold := 0, glen := 0, has := false, att := false, secs := 0, vars := 0,
                           written := [], job := 0, sect := 0, since := 0, after := 0,
                           dig := [], kslot := 0, noVar := false, told := none }

/-- The key store of a new device: slot 0 holds the factory's key, the others nothing (R734). -/
def keysReset : List KeySlot :=
  ⟨true, false, 0, Config.fusedKeyX, Config.fusedKeyY⟩ :: List.replicate 7 ⟨false, false, 0, 0, 0⟩

/-- A paddock in no watch pair. -/
def watchReset : Watch := { copy := 0, ready := false, next := 0, bankEp := 0, bankOk := false, sect0 := 0, sect1 := 0, fail := 0 }

/-- A path nothing has come over; a route without history. -/
def lpathReset : LPath := { ka := 0, cnt := 0, sent := 0 }
def lrouteReset : LRoute := { timed := false, ans := 0 }

/-- A ring pair that was never configured. -/
def hringReset : HRing := { tail := 0, cqHead := 0, since := 0 }

/-- A Walker that has not run; a core Muster has not tested. -/
def walkerReset : Walker := { at_ := 0, left := 0, on := false, pass := 0, tab := [] }
def mcoreReset : MCore := { last := 0, due := 0, test := 0 }

/-- The Ration controller before its first tick. -/
def rationReset : Ration :=
  { spent := 0, outside := 0, pads := [], dyn := [], leak := [], run := [], hold := [], tj := [], tjs := [], tjm := [], gEff := 0, len := 0,
    grantAge := 0, inletAge := 0, emerg := false, emergTick := false, pkgHold := false, fNext := 0, off := [], cur := 0, pinSum := [],
    pinCnt := [], winTicks := 0, winLen := 0, winSpent := 0, rail := 0, stepEnd := 0 }

/-- A flash slot as the factory wrote it (log 2). -/
def slotReset : FlashSlot :=
  { lok := true, lver := Config.fusedFw 0, lsvn := Config.fusedFw 1, fok := true, fver := Config.fusedFw 2, fsvn := Config.fusedFw 3 }

/-- The TAP after its reset: IDCODE is selected (IEEE 1149.1). -/
def tapReset : Tap := { ir := 1, cells := 0, cellsMain := 0 }

/-- Management at first power-up (log 1). -/
def mgmtReset : Mgmt :=
  { tid := 0, evRecv := 0, held := [], act := 0, actAt := 0, doneTick := 0, upd := 0, agent := 0, comp := 0, ver := 0, svn := 0,
    size := 0, off := 0, table := [], staged := [], slotA := slotReset, slotB := slotReset, active := 0, lsvn := 0, owner := [],
    fusedSvn := Config.fusedSvn, board := 0, boardRun := 0, spdm := 0, bootNext := 0, sensors := [], bands := [], reverted := false, updSlot := 0 }

/-- The package without VAUX, in cold reset (R756). -/
def pwrReset : Pwr :=
  { vaux := false, cold := true, cause := 0, hot := false, flRstN := false, boots := 0, trip := false, tripBoot := false, hotWait := false, group := 0, fails := 0, failAt := 0,
    perst := true, linkAt := 0, standby := false, sdTick := 0, alert := false }

/-- A pool that is not created. -/
def poolReset : PoolS := { head := 0xFFFFFFFF, reclaim := [], destroyAfter := false }

/-- The block right after reset. -/
def State.reset : State :=
  { now := 0, freeCtr := 0, regs := [], bellPend := [], rearmPend := [], fixedDone := [], outbox := [], bellLock := false,
    aliveOut := false, bell := bellReset, pdks := [], vfEnable := false, numVfs := 0, fns := [], pfEvents := [],
    pfLost := 0, fbk := fbkReset, cores := [], meshes := [], links := [], sp := [], spEpoch := [], imem := [], rslot := [],
    tile := [], acc := [], shadow := [], desc := [], frameChk := [], ht := [], wlkDue := [], walkers := [], wlkDone := 0, mcores := [], mslice := [], mblast := [],
    repairs := [], ctxs := [], leaCyc := 0,
    fab := [], tlyQ := [], tlyWaits := [], whsQ := [], sends := [], rqs := [], spills := [], opens := [], landings := [], connLt := [],
    sidNext := 0, ltkQ := [], ltkPaths := [], ltkRoutes := [], ltkPause := [], ptpGood := 0, held := [], hostEnts := [], hrings := [], hostNext := 0, aer := [],
    tcache := [], fabCyc := 0, used := [], slotAt := [], capNext := [], ats := [], pageReqs := [], prgNext := 0, atsInv := [],
    atsEn := false, priEn := false, priAlloc := 0, winShare := [], sinks := [], scrubAt := [],
    mem := [], memEpoch := 0, lines := [], pools := [], byrQ := [], byrCmd := [], tlyShadow := [], connShadow := [], watches := [], folds := [], keys := keysReset, ration := rationReset, pmTry := [], pldmQ := [],
    mgmt := mgmtReset, pwr := pwrReset, cfg := [], tap := tapReset, bellLate := [], spMark := [], admSeq := 0, formAt := [], accWaits := [], whsLands := [], openAt := [], mwins := [], pending := [] }

end Sys2Proof.Machine
end

