-- ==== Sys2Proof/Machine/Ops.lean ====
section
/-! DEFINITION. Operations every family shares: reading and writing registers and their fields, counters, names of cores,
time, free values, the event calendar. -/

namespace Sys2Proof.Machine

/-- Arms that have a meaning answer a next state. -/
abbrev Result := Host.Outcome State Fault Refusal

/-! ### Registers -/

/-- The register of a list that byte offset `off` falls in, and the offset of that register. -/
def findReg (off : Nat) : List RegD → Option (RegD × Nat)
  | [] => none
  | r :: rs =>
    if off < r.off then findReg off rs
    else
      let d := off - r.off
      let j := if r.s1 = 0 then 0 else d / r.s1
      let d1 := d - j * r.s1
      let k := if r.s2 = 0 then 0 else d1 / r.s2
      let d2 := d1 - k * r.s2
      if j < r.c1 ∧ k < r.c2 ∧ d2 < r.width / 8 then some (r, off - d2) else findReg off rs

/-- The offset of the common header of a kind of block: the last 64 bytes of an instance (R54, R64). -/
def hdrBase (b : Blk) : Nat := blkSize b - 0x40

/-- The register of block b at byte offset off, the common header included. -/
def regAt (b : Blk) (off : Nat) : Option (RegD × Nat) :=
  if off < hdrBase b then findReg off (blkRegs b)
  else (findReg (off - hdrBase b) regs_hdr).map (fun x => (x.1, x.2 + hdrBase b))

/-- The word of the reset values of a register's fields. -/
def resetWord (fs : List FieldD) : Nat := fs.foldl (fun a f => a + f.reset * 2 ^ f.lo) 0

/-- The die an instance of a block stands on; core-window instances name the physical core (R41). -/
def dieOf (b : Blk) (inst : Nat) : Nat :=
  match b with
  | .lea | .msh | .drvC | .whs | .ftf => inst / 0x200
  | .pst | .pstM | .pstH | .gat | .gatM | .gatK | .gatH | .rtnA | .tlyL => inst
  | .drvF | .byr => 8 + inst
  | .mem => 8 + inst / 12
  | .hst | .ltk => 10
  | _ => 11

/-- log2 of an instance size in units of 4 KiB. -/
def sizeLog (n : Nat) : Nat := Nat.log2 (n / 4096)

/-- BLKINFO: type, die, size_log; the instance number of a core window depends on the Cull map and is put in by the read
(R61, R64). -/
def blkInfo (b : Blk) (inst : Nat) : Nat :=
  blkType b * 2 ^ 24 + dieOf b inst * 2 ^ 20 + sizeLog (blkSize b) * 2 ^ 16 +
  (match b with
   | .mem => inst % 12
   | .pdk | .ltk => inst
   | _ => 0)

/-- What a register reads as when nothing has written it: its reset value, a fused value, or its instance's identity. -/
def regReset (b : Blk) (inst off : Nat) : Word :=
  if off = hdrBase b then BitVec.ofNat 64 (blkInfo b inst)
  else match b with
    | .rtnA =>
      if off = 0x18 then BitVec.ofNat 64 (Config.fusedAge inst % 256)
      else if 0x100 ≤ off ∧ off < 0x100 + 4 * 27 then BitVec.ofNat 64 (Config.fusedVmv inst ((off - 0x100) / 4) % 1024)
      else 0
    | .hst =>
      if 0x100000 ≤ off ∧ 0x4000 ≤ off % 0x8000 ∧ off % 0x8000 < 0x5000 then BitVec.ofNat 64 (b2n (off % 16 == 12))
      else match regAt b off with
        | some (r, _) => BitVec.ofNat 64 (resetWord r.fields)
        | none => 0
    | _ => match regAt b off with
        | some (r, _) => BitVec.ofNat 64 (resetWord r.fields)
        | none => 0

/-- The key of a register: block, instance, offset. -/
def regKey (b : Blk) (inst off : Nat) : Nat := (blkCode b * 65536 + inst) * 0x800000 + off

/-- What an unlisted key of the register map reads as. -/
def regDefault (key : Nat) : Word :=
  regReset (blkOfCode (key / 0x800000 / 65536)) (key / 0x800000 % 65536) (key % 0x800000)

/-- The word of a register. -/
def rdW (s : State) (b : Blk) (inst off : Nat) : Word := mapGet (regDefault (regKey b inst off)) s.regs (regKey b inst off)

/-- Write the word of a register. -/
def wrW (b : Blk) (inst off : Nat) (w : Word) (s : State) : State :=
  { s with regs := mapSet (regDefault (regKey b inst off)) s.regs (regKey b inst off) w }

/-- A field of instance i. -/
def rd (s : State) (f : Fld) (i : Nat) : Nat := fieldGet (rdW s f.blk i f.off) f.hi f.lo

/-- A one-bit field of instance i as a Bool. -/
def rdB (s : State) (f : Fld) (i : Nat) : Bool := rd s f i == 1

/-- Write a field of instance i (v modulo the field's size). -/
def wr (f : Fld) (i v : Nat) (s : State) : State :=
  wrW f.blk i f.off (fieldPut (rdW s f.blk i f.off) f.hi f.lo v) s

/-- The word still in effect: the value before a Bell-class or Rearm-class write that waits (R8). -/
def effW (s : State) (b : Blk) (inst off : Nat) : Word :=
  match mapFind s.bellPend (regKey b inst off) with
  | some w => w
  | none => match mapFind s.rearmPend (regKey b inst off) with
    | some w => w
    | none => rdW s b inst off

/-- A field's value in effect. -/
def eff (s : State) (f : Fld) (i : Nat) : Nat := fieldGet (effW s f.blk i f.off) f.hi f.lo

/-- The largest value of a field. -/
def fldMax (f : Fld) : Nat := 2 ^ (f.hi + 1 - f.lo) - 1

/-- Add n to a count that saturates. -/
def addSat (f : Fld) (i n : Nat) (s : State) : State := wr f i (Nat.min (rd s f i + n) (fldMax f)) s

/-- Add one to a count that saturates. -/
def bump (f : Fld) (i : Nat) (s : State) : State := addSat f i 1 s

/-- Put a register back to its reset value. -/
def clearReg (b : Blk) (inst off : Nat) (s : State) : State := wrW b inst off (regDefault (regKey b inst off)) s

/-- Put every register of an instance from offset lo up to hi - 1 back to its reset value. -/
def clearRegs (b : Blk) (inst lo hi : Nat) (s : State) : State :=
  { s with regs := mapClear s.regs (regKey b inst lo) (regKey b inst hi) }

/-- A field of the common header of block b. -/
def hdr (b : Blk) (f : Fld) : Fld := { f with blk := b, off := hdrBase b + f.off }

/-! ### Time, free values, output -/

/-- Time moves to t where t is later. -/
def atTime (t : Nat) (s : State) : State := { s with now := Nat.max s.now t }

/-- Draw the next free value (log 4). -/
def drawFree (s : State) : Nat × State := ((Config.freeValue s.freeCtr).toNat, { s with freeCtr := s.freeCtr + 1 })

/-- A block of arbitrary values (R2): its name, and the state with the name used up (log 4). -/
def freshBlock (s : State) : Nat × State := (s.freeCtr + 1, { s with freeCtr := s.freeCtr + 1 })

/-- Send a message out of the package. -/
def emit (k : OutKind) (args : List Nat) (s : State) : State := { s with outbox := ⟨k, args⟩ :: s.outbox }

/-! ### Names of cores (R39-R42, R96, R98) -/

/-- The Lea die of a logical core. -/
def coreDie (c : Nat) : Nat := c / 64 / 16 * 4 + c % 64 / 16

/-- Its local index on the die. -/
def coreLocal (c : Nat) : Nat := c / 64 % 16 * 16 + c % 64 % 16

/-- The logical core of a die and local index. -/
def coreOfLocal (die j : Nat) : Nat := (die / 4 * 16 + j / 16) * 64 + die % 4 * 16 + j % 16

/-- The Cull column number of a logical core: 16 die + lx (R556). -/
def coreColumn (c : Nat) : Nat := coreDie c * 16 + c % 64 % 16

/-- The physical core that serves a logical core (R41, R42). -/
def pcore (s : State) (c : Nat) : Nat :=
  let ly := c / 64 % 16
  let sh := rd s (CUL_COL_shift.ix (coreColumn c)) 0
  coreDie c * 0x200 + c % 64 % 16 * 0x20 + (if ly < sh then ly else ly + 1)

/-- The logical core a physical core serves, if any (R41). -/
def lcore (s : State) (p : Nat) : Option Nat :=
  let die := p / 0x200
  let lx := p / 0x20 % 16
  let prow := p % 0x20
  let sh := rd s (CUL_COL_shift.ix (die * 16 + lx)) 0
  if prow = sh then none
  else some (coreOfLocal die ((if prow < sh then prow else prow - 1) * 16 + lx))

/-- The rectangle of paddock n: x0, y0, width, height in cores (R96, R98). -/
def pdkX0 (s : State) (n : Nat) : Nat := 4 * rd s PDK_GEOM_px0 n
def pdkY0 (s : State) (n : Nat) : Nat := 4 * rd s PDK_GEOM_py0 n
def pdkW (s : State) (n : Nat) : Nat := 4 * rd s PDK_GEOM_pw n
def pdkH (s : State) (n : Nat) : Nat := 4 * rd s PDK_GEOM_ph n

/-- The number of cores of paddock n. -/
def pdkCount (s : State) (n : Nat) : Nat := pdkW s n * pdkH s n

/-- The logical core at paddock-relative index i (R40). -/
def pdkCore (s : State) (n i : Nat) : Nat := (pdkY0 s n + i / pdkW s n) * 64 + pdkX0 s n + i % pdkW s n

/-- The logical cores of paddock n's rectangle, by paddock-relative index. -/
def pdkCores (s : State) (n : Nat) : List Nat := (List.range (pdkCount s n)).map (pdkCore s n)

/-- The physical core whose FTF_ instance holds the paddock-wide fields of paddock n: paddock-relative index 0's
(spec/20_footfall.md, Registers). -/
def ftfI (s : State) (n : Nat) : Nat := pcore s (pdkCore s n 0)

/-- Core c lies in the rectangle of paddock n. -/
def inPdk (s : State) (n c : Nat) : Bool :=
  pdkX0 s n ≤ c % 64 && c % 64 < pdkX0 s n + pdkW s n && pdkY0 s n ≤ c / 64 && c / 64 < pdkY0 s n + pdkH s n

/-- The paddock-relative index of core c in paddock n. -/
def relIndex (s : State) (n c : Nat) : Nat := (c / 64 - pdkY0 s n) * pdkW s n + (c % 64 - pdkX0 s n)

/-- The owner brand in the gate entry of core c: 0x10 + n, or 0xFF (R106). -/
def coreOwner (s : State) (c : Nat) : Nat := rd s (GAT_CORE_owner.ix (coreLocal c)) (coreDie c)

/-- The paddock that owns core c, if any. -/
def corePdk (s : State) (c : Nat) : Option Nat :=
  if 0x10 ≤ coreOwner s c ∧ coreOwner s c ≤ 0x4F then some (coreOwner s c - 0x10) else none

/-- The paddock of physical core p, if it serves a core of one. -/
def pcorePdk (s : State) (p : Nat) : Option Nat := (lcore s p).bind (corePdk s)

/-- The state code of paddock n. -/
def pdkState (s : State) (n : Nat) : Nat := rd s PDK_STATUS_state n

/-- Paddock n exists: any state but Free (0). -/
def pdkCreated (s : State) (n : Nat) : Bool := pdkState s n != 0

/-- The paddocks that exist, ascending. -/
def pdksCreated (s : State) : List Nat := (List.range 64).filter (pdkCreated s)

/-- What paddock n holds beside its registers. -/
def pdkGet (s : State) (n : Nat) : Pdk := mapGet pdkReset s.pdks n

/-- Change what paddock n holds beside its registers. -/
def pdkMod (n : Nat) (g : Pdk → Pdk) (s : State) : State :=
  { s with pdks := mapSet pdkReset s.pdks n (g (pdkGet s n)) }

/-- What function f of H0 holds. -/
def fnGet (s : State) (f : Nat) : HostFn := mapGet hostFnReset s.fns f

/-- Change what function f of H0 holds. -/
def fnMod (f : Nat) (g : HostFn → HostFn) (s : State) : State :=
  { s with fns := mapSet hostFnReset s.fns f (g (fnGet s f)) }

/-! ### The event calendar (R83, R84) -/

/-- The phase of a calendar class (R83). -/
def clsPhase (cls : Nat) : Nat := if cls < 0x20 then 0 else if cls < 0x30 then 1 else 2

/-- The current tick number. -/
def curTick (s : State) : Nat := rd s BEL_TICK_tick 0

/-- The earliest tick from `tick` on whose phase for the class has not yet run (R84). -/
def calTick (s : State) (tick cls : Nat) : Nat :=
  let t := curTick s
  if t < tick then tick else if s.bell.phasesRun ≤ clsPhase cls then t else t + 1

/-- Order of two calendar events: tick, phase, class, target (R82). -/
def calBefore (a b : CalEv) : Bool :=
  if a.tick ≠ b.tick then a.tick < b.tick
  else if a.cls ≠ b.cls then a.cls < b.cls
  else a.tgt ≤ b.tgt

/-- Put an event in its place. -/
def calInsert (e : CalEv) : List CalEv → List CalEv
  | [] => [e]
  | x :: xs => if calBefore x e then x :: calInsert e xs else e :: x :: xs

/-- Schedule an event; while the calendar holds 256 events it is held (R84). -/
def schedule (tick cls tgt : Nat) (s : State) : State :=
  if s.bell.cal.length < 256 then
    { s with bell := { s.bell with cal := calInsert ⟨calTick s tick cls, cls, tgt⟩ s.bell.cal } }
  else { s with bell := { s.bell with calHeld := s.bell.calHeld ++ [⟨tick, cls, tgt⟩] } }

/-- Schedule an event on the next tick (R84). -/
def scheduleNext (cls tgt : Nat) (s : State) : State := schedule (curTick s + 1) cls tgt s

/-- Place held events while the calendar has room (R84). -/
def calRefill : Nat → State → State
  | 0, s => s
  | n + 1, s =>
    match s.bell.calHeld with
    | [] => s
    | e :: es =>
      if s.bell.cal.length < 256 then
        calRefill n { s with bell := { s.bell with calHeld := es,
                                                   cal := calInsert ⟨calTick s e.tick e.cls, e.cls, e.tgt⟩ s.bell.cal } }
      else s

/-- Take every event of a class and target out of the calendar. -/
def unschedule (cls tgt : Nat) (s : State) : State :=
  calRefill 256 { s with bell := { s.bell with
    cal := s.bell.cal.filter (fun e => !(e.cls == cls && e.tgt == tgt)),
    calHeld := s.bell.calHeld.filter (fun e => !(e.cls == cls && e.tgt == tgt)) } }

end Sys2Proof.Machine
end

