-- ==== Sys2Proof/Machine/Flags.lean ====
section
/-! DEFINITION. Flags the hardware sets: first-capture registers with valid and overflow, event bits that software clears by
writing 1, refusal records of block headers. -/

namespace Sys2Proof.Machine

/-- First capture (R250): where valid is 0 the record is written and valid set; otherwise overflow is set and the record
kept. `valid` and `overflow` name the two bits; the word carries the other fields. Software alone clears overflow (R7; log 107). -/
def capture (valid overflow : Fld) (i : Nat) (w : Nat) (s : State) : State :=
  if rdB s valid i then wr overflow i 1 s
  else wr valid i 1 (wr overflow i (rd s overflow i) (wrW valid.blk i valid.off (BitVec.ofNat 64 w) s))

/-- Set an event bit; answers whether it changed from 0 to 1. -/
def setEvent (f : Fld) (i : Nat) (s : State) : State := wr f i 1 s

/-- Reasons of a refusal (R64). -/
inductive RefuseReason where
  | idle | fixed | width
deriving DecidableEq, Repr

/-- The code of a refusal reason (R64). -/
def refuseCode (r : RefuseReason) : Nat :=
  match r with
  | .idle => 0
  | .fixed => 1
  | .width => 2

/-- Record a refused write in the instance's header (R64, R66): the first one keeps its reason, brand and offset, a later
one sets overflow, and every one counts. -/
def refuseWrite (b : Blk) (inst : Nat) (reason : RefuseReason) (brand off : Nat) (s : State) : State :=
  bump (hdr b HDR_REFCNT_count) inst
    (if rdB s (hdr b HDR_REFUSE_refused) inst then wr (hdr b HDR_REFUSE_overflow) inst 1 s
     else wr (hdr b HDR_REFADDR_offset) inst off
       (wr (hdr b HDR_REFUSE_brand) inst brand
         (wr (hdr b HDR_REFUSE_reason) inst (refuseCode reason) (wr (hdr b HDR_REFUSE_refused) inst 1 s))))

end Sys2Proof.Machine
end

