-- ==== Sys2Proof/Machine/Events.lean ====
section
/-! DEFINITION. Messages of MSI-X, records of the PF event ring, and events of the Flockbook's staging ring: how every unit
reports. -/

namespace Sys2Proof.Machine

/-! ### MSI-X (R108, R109, R663, R680, R831) -/

/-- VF n + 1 exists (R99). -/
def vfExists (s : State) (n : Nat) : Bool := s.vfEnable && n < s.numVfs

/-- Function f is under reset: by an FLR, or a VF that does not exist (R831). -/
def fnUnderReset (s : State) (f : Nat) : Bool := (fnGet s f).underReset || (f != 0 && !vfExists s (f - 1))

/-- The mask bit of vector v of function f (the vector control word of the MSI-X table). -/
def vectorMasked (s : State) (f v : Nat) : Bool := natBit (rd s (HST_MSIX_word.ix2 f (4 * v + 3)) 0) 0

/-- Set or clear the pending bit of vector v of function f. -/
def setPba (f v : Nat) (on : Bool) (s : State) : State :=
  wr (HST_PBA_pending.ix2 f (v / 64)) 0 (natSetBit (rd s (HST_PBA_pending.ix2 f (v / 64)) 0) (v % 64) on) s

/-- The pending bit of vector v of function f. -/
def pbaBit (s : State) (f v : Nat) : Bool := natBit (rd s (HST_PBA_pending.ix2 f (v / 64)) 0) (v % 64)

/-- Function f sends MSI-X vector v: discarded under reset (R831), held in D3hot (R663), pending while masked. With MSI-X
not enabled nothing is sent (PCIe; PRESUMED, log 10). -/
def sendMsix (f v : Nat) (s : State) : State :=
  if fnUnderReset s f then s
  else if !(fnGet s f).msixEn then s
  else if (fnGet s f).d3 then fnMod f (fun x => { x with heldMsix := x.heldMsix ++ [v] }) s
  else if (fnGet s f).msixMask || vectorMasked s f v then setPba f v true s
  else emit .msix [f, v] s

/-- An event of source src of paddock n occurs (R108, R109). -/
def raiseSource (n src : Nat) (s : State) : State :=
  if rd s (PDK_VEC_enable.ix src) n = 0 then s
  else if rd s (PDK_VEC_coalesce.ix src) n = 1 then pdkMod n (fun p => { p with waiting := natSetBit p.waiting src true }) s
  else sendMsix (n + 1) (rd s (PDK_VEC_vector.ix src) n) s

/-- The vectors that the waiting sources of paddock n would raise at a boundary, each once (R109). -/
def waitingVectors (s : State) (n : Nat) : List Nat :=
  (((List.range 16).filter (fun k => natBit (pdkGet s n).waiting k && rdB s (PDK_VEC_enable.ix k) n)).map
    (fun k => rd s (PDK_VEC_vector.ix k) n)).eraseDups

/-- An interrupt-coalescing boundary (R109): one message for each vector with a waiting event of every paddock. -/
def coalesceBoundary (s : State) : State :=
  (List.range 64).foldl (fun s n =>
    pdkMod n (fun p => { p with waiting := 0 }) ((waitingVectors s n).foldl (fun s v => sendMsix (n + 1) v s) s)) s

/-! ### The PF event ring (R677, R679) -/

/-- Keep HST_QSTAT.held of function f equal to the records held on H0 (R677). -/
def setHeldCount (f : Nat) (s : State) : State :=
  wr (HST_QSTAT_held.ix f) 0 (if f = 0 then s.pfEvents.length + (fnGet s 0).held.length else (fnGet s f).held.length) s

/-- A PF event record is produced: type, source die, words 1 to 7. It is kept in the 256-entry store of H0; a record that
finds the store full is counted (R677); under a reset of the PF it is discarded (R831). -/
def pfEvent (typ die : Nat) (ws : List Nat) (s : State) : State :=
  if fnUnderReset s 0 then s
  else if s.pfEvents.length < 256 ∧ s.pfLost = 0 then
    setHeldCount 0 { s with pfEvents := s.pfEvents ++ [typ :: die :: ws] }
  else wr (HST_FEVT_overflow.ix 0) 0 1 (bump (HST_FQLOST_count.ix 0) 0 { s with pfLost := s.pfLost + 1 })

/-- A register word as a number. -/
def regNat (s : State) (f : Fld) (i : Nat) : Nat := (rdW s f.blk i f.off).toNat

/-- A bit of HST_EVT is set and a record of type 0x97 posted (R679, HST_EVT). -/
def hostEvt (f : Fld) (s : State) : State :=
  let s1 := wr f 0 1 s
  pfEvent 0x97 10 [regNat s1 HST_EVT_link_down 0, regNat s1 HST_LINK_state 0] s1

/-- AER of function f: a bit of the uncorrectable error status is logged (R682). The places of the bits are PCIe's (PRESUMED,
log 45). -/
def aerUncorr (f bit : Nat) (s : State) : State :=
  hostEvt HST_EVT_aer_uncorr { s with aer := mapSet 0 s.aer (2 * f) (natSetBit (mapGet 0 s.aer (2 * f)) bit true) }

/-- An advisory error: logged there, and as Advisory Non-Fatal in the correctable error status. -/
def aerAdvisory (f bit : Nat) (s : State) : State :=
  let m := mapSet 0 s.aer (2 * f) (natSetBit (mapGet 0 s.aer (2 * f)) bit true)
  { s with aer := mapSet 0 m (2 * f + 1) (natSetBit (mapGet 0 m (2 * f + 1)) 13 true) }

/-- A paddock notice (R110, R679): stage 1 at G1, 7 at G7, 8 at Stranded. -/
def pdkNotice (n stage : Nat) (s : State) : State :=
  pfEvent 0x80 11 [n + stage * 2 ^ 8 + rd s PDK_STATUS_cause n * 2 ^ 12] s

/-! ### The Flockbook's staging ring (R608, R612, R622) -/

/-- The eight words of a record with sequence number seq, its crc and its commit mark (R604). -/
def recWords (r : FbkRec) (seq : Nat) : List Nat :=
  let ws := [seq % 2 ^ 64, r.evnum % 2 ^ 32 + r.typ % 2 ^ 16 * 2 ^ 32 + r.flags % 2 ^ 8 * 2 ^ 48 + r.src % 2 ^ 8 * 2 ^ 56,
             r.tick % 2 ^ 64, r.w0 % 2 ^ 64, r.w1 % 2 ^ 64, r.w2 % 2 ^ 64, r.w3 % 2 ^ 64]
  let crc := crc32c (ws.flatMap (leBytes 8))
  ws ++ [crc + Nat.xor (seq % 2 ^ 32) 0xA5A5A5A5 * 2 ^ 32]

/-- Count an event in the coalescing entries (R612). -/
def coalesceEvent (r : FbkRec) (s : State) : State :=
  let cs := s.fbk.coal
  let first := cs.isEmpty
  let inc (c : Nat) : Nat := Nat.min (c + 1) 0xFFFF
  let cs' :=
    if cs.any (fun e => e.1 == r.typ) then cs.map (fun e => if e.1 = r.typ then (e.1, inc e.2) else e)
    else if cs.length < 6 then cs ++ [(r.typ, 1)]
    else cs.take 5 ++ (cs.drop 5).map (fun e => (0xFFFF, inc e.2))
  wr FBK_STAT_coalescing 0 1
    { s with fbk := { s.fbk with
        coal := cs', coalLast := r.evnum,
        coalFirst := if first then r.evnum else s.fbk.coalFirst,
        coalTick := if first then r.tick else s.fbk.coalTick,
        coalSrc := if first then r.src else s.fbk.coalSrc } }

/-- Put one PLDM event message in the queue of at most 32 held (R726). -/
def pldmPush (ws : List Nat) (s : State) : State := { s with pldmQ := s.pldmQ ++ [⟨ws, 0, 0, false⟩] }

/-- A record enters the mute ring: newest entry, overwriting the oldest when 64 are held (R622). -/
def muteRing (r : FbkRec) (s : State) : State :=
  let ws := recWords r s.fbk.muteSeq
  let cnt := rd s FBK_MUTEHEAD_count 0
  let k := if cnt = 0 then 0 else (rd s FBK_MUTEHEAD_newest 0 + 1) % 64
  let s1 := (List.range 8).foldl (fun s m => wr (FBK_MUTE_word.ix2 k m) 0 (ws.getD m 0) s) s
  let s2 := if cnt = 64 then bump FBK_MUTELOST_count 0 s1 else wr FBK_MUTEHEAD_count 0 (cnt + 1) s1
  wr FBK_MUTEHEAD_newest 0 k { s2 with fbk := { s2.fbk with muteSeq := s2.fbk.muteSeq + 1 } }

/-- A record in log-mute: to the mute ring and out as a PLDM event; coalesced while the queue cannot accept (R622, R726). -/
def muteRecord (r : FbkRec) (s : State) : State :=
  let ws := recWords r s.fbk.muteSeq
  if s.pldmQ.length < 32 then pldmPush ws (muteRing r s) else coalesceEvent r s

/-- An event reaches the Flockbook: the next event number, then the staging ring, a coalescing entry, or in log-mute the
mute ring (R608, R612, R622). `src` is the source's die index. -/
def flockEvent (typ src w0 w1 w2 w3 : Nat) (s : State) : State :=
  let r : FbkRec := { evnum := rd s FBK_EVNUM_next 0, typ := typ, flags := 0, src := src, tick := curTick s,
                      w0 := w0, w1 := w1, w2 := w2, w3 := w3 }
  let s1 := wr FBK_EVNUM_next 0 (rd s FBK_EVNUM_next 0 + 1) s
  if rdB s1 FBK_STAT_log_mute 0 then muteRecord r s1
  else if s1.fbk.staging.length < 64 then
    wr FBK_STAT_staged 0 (s1.fbk.staging.length + 1) { s1 with fbk := { s1.fbk with staging := s1.fbk.staging ++ [r] } }
  else coalesceEvent r s1

/-- Lifetime counter i gains n at the close of the tick (R615). -/
def countLife (i n : Nat) (s : State) : State :=
  { s with fbk := { s.fbk with acc := mapSet 0 s.fbk.acc i (mapGet 0 s.fbk.acc i + n) } }

/-- A bit of FBK_EVT is set and a PF event record posted (R621, FBK_ registers). -/
def fbkEvent (f : Fld) (s : State) : State :=
  let s1 := wr f 0 1 s
  pfEvent 0x95 11 [regNat s1 FBK_EVT_bank_failed 0, regNat s1 FBK_STAT_staged 0] s1

end Sys2Proof.Machine
end

