-- ==== Sys2Proof/Machine/Bell.lean ====
section
/-! DEFINITION. The timebase (spec/03_bell.md): judging edges, the five states, ticks taken. Instants and lengths are in
units of 10 ns. What the phases of a tick do stands in TickPhases. -/

namespace Sys2Proof.Machine

/-- Codes of BEL_STATUS.state. -/
def belStopped : Nat := 0
def belLocked : Nat := 1
def belFlywheel : Nat := 2
def belLone : Nat := 3
def belLonePtp : Nat := 4

/-- The state of the timebase. -/
def belState (s : State) : Nat := rd s BEL_STATUS_state 0

/-- The nominal period in effect in us, limited to 250-10,000 (BEL_PERIOD). -/
def periodUs (s : State) : Nat := clampNat 250 10000 (eff s BEL_PERIOD_period_us 0)

/-- P in 10 ns units (R73). -/
def periodOf (us : Nat) : Nat := us * 100

/-- tol = max(2 us, P / 256), rounded down to 10 ns (R73). -/
def tolOf (us : Nat) : Nat := Nat.max 200 (periodOf us / 256)

/-- The windows of good intervals: the present period's, and for 16 ticks after a change the old one's too (R73, R89). -/
def goodWindows (s : State) : List (Nat × Nat) :=
  let w (us : Nat) : Nat × Nat := (periodOf us - tolOf us, periodOf us + tolOf us)
  if s.bell.oldTicks = 0 then [w (periodUs s)] else [w (periodUs s), w s.bell.oldPeriod]

/-- An interval is good when it fits a window. -/
def goodInterval (s : State) (d : Nat) : Bool := (goodWindows s).any (fun w => w.1 ≤ d && d ≤ w.2)

/-- The start and the end of the later window (R89). -/
def laterStart (s : State) : Nat := (goodWindows s).foldl (fun m w => Nat.max m w.1) 0
def laterEnd (s : State) : Nat := (goodWindows s).foldl (fun m w => Nat.max m w.2) 0

/-- Half the nominal period. -/
def halfPeriod (s : State) : Nat := periodOf (periodUs s) / 2

/-- PTP is available (R79): fallback enabled and the port's lock held. -/
def ptpAvailable (s : State) : Bool := rdB s BEL_CFG_fallback_ptp 0 && rdB s LTK_PTPSTAT_locked 0

/-- BEL_STATUS.ptp_locked follows R79. -/
def refreshPtp (s : State) : State := wr BEL_STATUS_ptp_locked 0 (b2n (ptpAvailable s)) s

/-- BEL_CFG has been written, and named port `old` before: the PTP engine of another port starts unlocked (R79, R714), and
BEL_STATUS.ptp_locked follows. -/
def ptpPortSet (old : Nat) (s : State) : State :=
  refreshPtp (if rd s BEL_CFG_ptp_port 0 = old then s else wr LTK_PTPSTAT_locked 0 0 { s with ptpGood := 0 })

/-- Post a timebase record to the PF event ring (R80, R679). -/
def postBell (s : State) : State := pfEvent 0x90 11 [regNat s BEL_EVENT_glitch 0, regNat s BEL_STATUS_state 0] s

/-- An event of the timebase (R80): it is noted for the Flockbook at phase 2, sets its event bit and posts its record, which shows
BEL_STATUS as the event leaves it. -/
def bellEvent (st prev : Nat) (bit : Fld) (s : State) : State :=
  postBell (wr bit 0 1 { s with bell := { s.bell with toRecord := s.bell.toRecord ++ [(st, prev)] } })

/-- Move to a state with a flywheel count; each of `bits` is an event of the move (R80). -/
def bellChange (st fly : Nat) (bits : List Fld) (s : State) : State :=
  let prev := belState s
  bits.foldl (fun s f => bellEvent st prev f s)
    (countLife 5 (b2n (st == belLone)) (wr BEL_STATUS_flywheel_count 0 fly (wr BEL_STATUS_state 0 st s)))

/-- Take a tick with tick instant t (R77, R81): its phase 0 is due. -/
def takeTick (t : Nat) (s : State) : State :=
  { s with bell := { s.bell with lastTick := some t, due := s.bell.due ++ [t] } }

/-- Take a tick in Flywheel: BEL_MISS counts it. -/
def takeMissTick (t : Nat) (s : State) : State := bump BEL_MISS_count 0 (takeTick t s)

/-- The instant of the next internal tick: the last tick instant plus BEL_MEAS.meas (R76). -/
def internalDue (s : State) : Nat := s.bell.lastTick.getD 0 + rd s BEL_MEAS_meas 0

/-- Note an interval between good edges; with 8 of them BEL_MEAS is their mean, rounded half up (R74). -/
def noteInterval (d : Nat) (s : State) : State :=
  let iv := (d :: s.bell.intervals).take 8
  let s1 := { s with bell := { s.bell with intervals := iv } }
  if iv.length = 8 then wr BEL_MEAS_meas 0 ((iv.foldl (· + ·) 0 + 4) / 8) s1 else s1

/-- An edge the timebase ignores as a glitch (R73, R80, R95). -/
def glitchEdge (s : State) : State :=
  let fresh := !rdB s BEL_EVENT_glitch 0
  let s1 := wr BEL_EVENT_glitch 0 1 (bump BEL_GLITCH_count 0 s)
  if fresh then postBell s1 else s1

/-- A reference edge: it becomes the accepted edge and the relock count restarts (R73). -/
def referenceEdge (t : Nat) (s : State) : State :=
  wr BEL_STATUS_relock_count 0 0 { s with bell := { s.bell with accepted := some t, qualified := false } }

/-- The transition edge: the timebase locks and this edge is the next tick (R75, R76, R90). -/
def lockAt (t : Nat) (s : State) : State :=
  bellChange belLocked 0 [BEL_EVENT_relocked] (takeTick t { s with bell := { s.bell with qualified := false } })

/-- An edge while Locked (R73, R75). -/
def edgeLocked (t : Nat) (s : State) : State :=
  let d := t - s.bell.accepted.getD 0
  if goodInterval s d then takeTick t (noteInterval d { s with bell := { s.bell with accepted := some t } })
  else if d < laterStart s then glitchEdge s
  else s

/-- A good edge outside Locked: it counts toward relock, qualifies it at 8, and is the transition edge where it comes at
least P / 2 after the last tick (R73, R75, R76). -/
def edgeGood (t d : Nat) (s : State) : State :=
  let n := Nat.min 8 (rd s BEL_STATUS_relock_count 0 + 1)
  let s1 := wr BEL_STATUS_relock_count 0 n (noteInterval d { s with bell := { s.bell with accepted := some t } })
  let s2 := if n = 8 then { s1 with bell := { s1.bell with qualified := true } } else s1
  if s2.bell.qualified ∧ s2.bell.lastTick.getD 0 + halfPeriod s2 ≤ t then lockAt t s2 else s2

/-- An edge in Flywheel, Lone or Lone-PTP (R73). -/
def edgeUnlocked (t : Nat) (s : State) : State :=
  match s.bell.accepted with
  | none => referenceEdge t s
  | some a =>
    let d := t - a
    if goodInterval s d then edgeGood t d s
    else if d < laterStart s then glitchEdge s
    else if s.bell.qualified then s
    else referenceEdge t s

/-- BELL_EDGE: a rising edge placed at instant t is judged (R73, R88, R95). While Stopped, edges are ignored. An edge past
the moment at which BELL_LOSS or RELOCK_LAPSE falls due waits for that event: it changes nothing here (log 5). -/
def execBellEdge (t : Nat) (s : State) : Result :=
  let s := atTime t s
  .next (if belState s = belStopped then s else if belState s = belLocked then edgeLocked t s else edgeUnlocked t s)

/-- BEL_START: Stopped to Flywheel with count 0; the first internal tick is taken at t (R75). It posts nothing (R80). -/
def startBell (t : Nat) (s : State) : State :=
  if belState s = belStopped then
    takeMissTick t (refreshPtp (wr BEL_STATUS_state 0 belFlywheel
      (wr BEL_STATUS_flywheel_count 0 0 (wr BEL_STATUS_relock_count 0 0
        (wr BEL_MEAS_meas 0 (periodOf (periodUs s))
          { s with bell := { s.bell with accepted := none, intervals := [], qualified := false, due := [], phasesRun := 3, tickLen := 0 } })))))
  else s

/-- BEL_START at instant t. -/
def execBelStart (t : Nat) (s : State) : Result := .next (startBell t (atTime t s))

/-- BELL_LOSS: no good edge by the end of the (later) window after the last tick: Flywheel, count 1, its tick is taken at
that moment and BELL_LOCK falls (R75, R85, R89, R815). -/
def execBellLoss (t : Nat) (s : State) : Result :=
  let s := atTime t s
  let due := s.bell.lastTick.getD 0 + laterEnd s
  .next (if belState s = belLocked ∧ due ≤ t then
      takeMissTick due (bellChange belFlywheel 1 [BEL_EVENT_lock_lost]
        (wr BEL_STATUS_bell_lock 0 0 { s with bellLock := false, bell := { s.bell with accepted := none, qualified := false } }))
    else s)

/-- INTERNAL_TICK: in Flywheel below count 64 and in Lone the tick is taken; in Lone-PTP only when PTP is still lost, which
enters Lone: the loss of PTP and the entry to Lone are two events (R75, R76, R80, log 87). Once relock is qualified none is taken. -/
def execInternalTick (t : Nat) (s : State) : Result :=
  let s := refreshPtp (atTime t s)
  let due := internalDue s
  .next (if s.bell.qualified ∨ t < due then s
    else if belState s = belFlywheel ∧ rd s BEL_STATUS_flywheel_count 0 < 64 then
      takeMissTick due (wr BEL_STATUS_flywheel_count 0 (rd s BEL_STATUS_flywheel_count 0 + 1) s)
    else if belState s = belLone then takeTick due s
    else if belState s = belLonePtp ∧ !ptpAvailable s then
      takeTick due (bellChange belLone 0 [BEL_EVENT_ptp_lost, BEL_EVENT_lone_entered] s)
    else s)

/-- Leave Flywheel with its count at 64 by a tick at instant `due`: Lone, or Lone-PTP where PTP is available (R75, R90, R93). -/
def exhaust (due : Nat) (s : State) : State :=
  takeTick due (if ptpAvailable s then bellChange belLonePtp 0 [BEL_EVENT_ptp_entered] s
    else bellChange belLone 0 [BEL_EVENT_lone_entered] s)

/-- The instant of the tick that follows flywheel count 64, when the time is t: into Lone-PTP it is a PTP instant at least P / 2 after
the last tick, which the command names (R76, R81, log 11), into Lone the internal instant. None while that has not come. -/
def exhaustAt (t : Nat) (s : State) : Option Nat :=
  if ptpAvailable s then (if s.bell.lastTick.getD 0 + halfPeriod s ≤ t then some t else none)
  else if internalDue s ≤ t then some (internalDue s) else none

/-- FLYWHEEL_EXHAUSTED: flywheel count 64 ended without relock and the next tick falls due (R75, R93). -/
def execFlywheelExhausted (t : Nat) (s : State) : Result :=
  let s := refreshPtp (atTime t s)
  .next (if belState s = belFlywheel ∧ rd s BEL_STATUS_flywheel_count 0 = 64 ∧ !s.bell.qualified then
      (match exhaustAt t s with
       | some due => exhaust due s
       | none => s)
    else s)

/-- RELOCK_LAPSE: no good edge by the accepted edge plus P + tol: the count restarts, one tick of the current state is taken
at that moment, and the next edge is a reference edge (R76). -/
def execRelockLapse (t : Nat) (s : State) : Result :=
  let s := refreshPtp (atTime t s)
  let due := s.bell.accepted.getD 0 + laterEnd s
  .next (if s.bell.qualified ∧ due ≤ t then
      let s1 := wr BEL_STATUS_relock_count 0 0 { s with bell := { s.bell with accepted := none, qualified := false } }
      if belState s1 = belFlywheel then
        (if rd s1 BEL_STATUS_flywheel_count 0 < 64 then
          takeMissTick due (wr BEL_STATUS_flywheel_count 0 (rd s1 BEL_STATUS_flywheel_count 0 + 1) s1)
         else exhaust due s1)
      else takeTick due s1
    else s)

/-- PTP_TICK: the PTP instant t is a tick in Lone-PTP, and with PTP available enters Lone-PTP from Lone, and from Flywheel once its
count stands at 64 (R93); at least P / 2 after the last tick (R75, R76, R78). That t is a PTP instant is the sender's word (log 5). -/
def execPtpTick (t : Nat) (s : State) : Result :=
  let s := refreshPtp (atTime t s)
  .next (if s.bell.qualified ∨ !ptpAvailable s ∨ t < s.bell.lastTick.getD 0 + halfPeriod s then s
    else if belState s = belLonePtp then takeTick t s
    else if belState s = belLone then takeTick t (bellChange belLonePtp 0 [BEL_EVENT_ptp_entered] s)
    else if belState s = belFlywheel ∧ rd s BEL_STATUS_flywheel_count 0 = 64 then exhaust t s
    else s)

/-- The bound of the stagger, P / 2 - 64 us, in 10 ns units; never below 0 (R81). -/
def staggerMax (s : State) : Nat := halfPeriod s - 6400

/-- The effective stagger in 10 ns units: the lesser of the offset and the bound (R81). -/
def stagger (s : State) : Nat := Nat.min (100 * eff s BEL_STAGGER_offset_us 0) (staggerMax s)

/-- The tick moment of a tick with instant t: the stagger after it, and outside Lone-PTP 0.1 us more, the least R81 allows (DESIGN
CHOICE, log 99). -/
def tickMoment (t : Nat) (s : State) : Nat := t + stagger s + (if belState s = belLonePtp then 0 else 10)

/-- The moment of a tick taken whose phase 0 has not run is past: a Bell-class write that comes now waits for the following tick
(R11). -/
def tickPast (s : State) : Bool :=
  match s.bell.due with
  | t :: _ => s.bell.phasesRun == 3 && tickMoment t s ≤ s.now
  | [] => false

/-- A Bell-class write of a register whose value was `old`: that stays in effect until the next tick, and one that comes at or after
the moment of a tick until the tick after it (R8, R11, R59). -/
def bellWaits (key : Nat) (old : Word) (s : State) : State :=
  let s1 := match mapFind s.bellPend key with
    | some _ => s
    | none => { s with bellPend := mapInsert s.bellPend key old }
  match tickPast s, mapFind s.bellLate key with
  | true, none => { s1 with bellLate := mapInsert s1.bellLate key old }
  | _, _ => s1

/-- The clamp flags of BEL_STATUS (R81, BEL_PERIOD). -/
def refreshClamps (s : State) : State :=
  let p := eff s BEL_PERIOD_period_us 0
  wr BEL_STATUS_period_clamped 0 (b2n (p < 250 || 10000 < p))
    (wr BEL_STATUS_stagger_clamped 0 (b2n (staggerMax s < 100 * eff s BEL_STAGGER_offset_us 0)) s)

/-- After Bell-class writes took effect: a new period opens the 16 ticks of both windows, and BEL_MEAS follows P until 8
intervals were seen (R74, R89); `old` is the period before. -/
def periodChanged (old : Nat) (s : State) : State :=
  let s1 :=
    if periodUs s = old then { s with bell := { s.bell with oldTicks := s.bell.oldTicks - 1 } }
    else { s with bell := { s.bell with oldPeriod := old, oldTicks := 16 } }
  let s2 := if s1.bell.intervals.length < 8 then wr BEL_MEAS_meas 0 (periodOf (periodUs s1)) s1 else s1
  refreshClamps s2

/-- ALIVE_OUT for tick t (R86, R92): normal or log-degraded pattern while the package serves. -/
def aliveFor (s : State) (t : Nat) : Bool :=
  if rdB s FBK_STAT_log_mute 0 then t % 4 != 0 else t % 2 == 1

end Sys2Proof.Machine
end

