-- ==== Sys2Proof/Machine/Memory.lean ====
section
/-! DEFINITION. The package address map, the refusals of gates, and external memory: interleave, inline ECC, poison
(spec/02_package_grid.md R43-R48, spec/11_pasture_memory.md R356-R372, R830). -/

namespace Sys2Proof.Machine

/-! ### The address map (R43) -/

/-- Where a package physical address lies. -/
inductive Place where
  | mem (a : Nat)                -- external memory window
  | spw (core off : Nat)         -- scratchpad window of a logical core
  | csr (die off : Nat)          -- CSR space
  | keeper (off : Nat)           -- keeper space
  | nowhere
deriving DecidableEq, Repr

/-- The range of R43 an address lies in. -/
def placeOf (a : Nat) : Place :=
  if a < 0xC000000000 then .mem a
  else if 0x1000000000000 ≤ a ∧ a < 0x1000080000000 then .spw ((a - 0x1000000000000) / 0x100000) (a % 0x100000)
  else if 0x2000000000000 ≤ a ∧ a < 0x200000C000000 then .csr ((a - 0x2000000000000) / 0x1000000) (a % 0x1000000)
  else if 0x3000000000000 ≤ a ∧ a < 0x3000100000000 then .keeper (a - 0x3000000000000)
  else .nowhere

/-- U, the usable capacity in bytes (R44). -/
def memU (s : State) : Nat := rd s PST_MEMMAP_usable_gib 10 * 2 ^ 30

/-- Inline ECC is on (R367). -/
def inlineEcc (s : State) : Bool := rdB s PST_MEMMAP_iecc 10

/-- A reserved brand (R46). -/
def brandReserved (b : Nat) : Bool := (7 ≤ b && b ≤ 0xF) || 0x50 ≤ b

/-- The brand of paddock n. -/
def pdkBrand (n : Nat) : Nat := 0x10 + n

/-- The paddock of a brand, if it is one of a paddock. -/
def brandPdk (b : Nat) : Option Nat := if 0x10 ≤ b ∧ b ≤ 0x4F then some (b - 0x10) else none

/-- The paddock's gates stand closed: between G1 and G7. -/
def pdkClosed (s : State) (n : Nat) : Bool := pdkCreated s n && !(pdkGet s n).gateOpen

/-- The gates of paddock n are closed to a packet that left its entry before those in `g1` closed (R112, R385). -/
def closedTo (s : State) (g1 : List Nat) (n : Nat) : Bool := pdkClosed s n && !g1.contains n

/-! ### Refusals (R356, R357) -/

/-- The kind of gate block on a die. -/
def gatBlk (die : Nat) : Blk := if die < 8 then .gat else if die < 10 then .gatM else if die = 10 then .gatH else .gatK

/-- The kind of Pasture port block on a die. -/
def pstBlk (die : Nat) : Blk := if die = 8 ∨ die = 9 then .pstM else if die = 10 then .pstH else .pst

/-- A gate of `die` refuses a packet at a step of R356: class 0 RDQ, 1 WRQ, 2 TLY, 3 MSG, 4 CSQ. The first refusal is
captured and every one counted; software alone clears overflow (R7; log 107). -/
def gateRefuse (die step cls src brand addr : Nat) (s : State) : State :=
  let g := gatBlk die
  let cnt := if step = 2 then GAT_AFCNT_count else GAT_BFCNT_count
  bump (cnt.on g) die
    (if rdB s (GAT_BFINFO_valid.on g) die then wr (GAT_BFINFO_overflow.on g) die 1 s
     else wr (GAT_BFADDR_addr.on g) die addr
       (wrW g die GAT_BFINFO_valid.off
         (BitVec.ofNat 64 (2 ^ 31 + rd s (GAT_BFINFO_overflow.on g) die * 2 ^ 30 + step * 2 ^ 28 + cls * 2 ^ 12 + src * 2 ^ 8 + brand)) s))

/-- The status a refusal at a step answers (R357). -/
def refuseStatus (step : Nat) : Nat := if step = 2 then 2 else 1

/-! ### Interleave and inline ECC (R366-R369) -/

/-- Q, the data capacity of a port. -/
def memQ (s : State) : Nat := memU s / 24

/-- R, the near capacity of a port: near_r units of 64 MiB, at most Q (PST_MEMMAP.near_r). -/
def memR (s : State) : Nat := Nat.min (rd s PST_MEMMAP_near_r 10 * 2 ^ 26) (memQ s)

/-- Wd, the size of the wide region. -/
def memWd (s : State) : Nat := 24 * (memQ s - memR s)

/-- The port and the port-data address of a usable address (R367). -/
def portOf (s : State) (a : Nat) : Nat × Nat :=
  if a < memWd s then
    let g := a / 4096
    (g % 24, g / 24 * 4096 + a % 4096)
  else
    let a1 := a - memWd s
    let h := a1 / (12 * memR s)
    let a2 := a1 % (12 * memR s)
    let g := a2 / 4096
    (12 * h + g % 12, memQ s - memR s + g / 12 * 4096 + a2 % 4096)

/-- The channel and the channel address of the line that holds a port-data address (R369). -/
def channelOf (s : State) (a : Nat) : Nat × Nat :=
  let l := a / 64
  if inlineEcc s then
    let g := l / 15
    (g % 4, g / 4 * 1024 + 64 * (l % 15))
  else (l % 4, l / 4 * 64)

/-- The usable address of port-data address a of port p: R367 the other way round. -/
def addrOfPort (s : State) (p a : Nat) : Nat :=
  let wide := memQ s - memR s
  if a < wide then (a / 4096 * 24 + p) * 4096 + a % 4096
  else
    let b := a - wide
    memWd s + p / 12 * (12 * memR s) + (b / 4096 * 12 + p % 12) * 4096 + b % 4096

/-- The port-data address of the data line at a channel address: R369 the other way round; none for a check line. -/
def lineOfChannel (s : State) (c a : Nat) : Option Nat :=
  if inlineEcc s then (if a / 64 % 16 = 15 then none else some (64 * (15 * (a / 1024 * 4 + c) + a / 64 % 16)))
  else some (64 * (a / 64 * 4 + c))

/-! ### Bytes and lines -/

/-- The die of a port (R364). -/
def portDie (p : Nat) : Nat := 8 + p / 12

/-- What an unlisted byte of external memory reads as (R830): a free value of this power-up. -/
def memDefault (s : State) (a : Nat) : Byte := Config.freeMem s.memEpoch a

/-- One byte of external memory. -/
def memByte (s : State) (a : Nat) : Nat := (mapGet (memDefault s a) s.mem a).toNat

/-- Put one byte into external memory. -/
def memPut (a b : Nat) (s : State) : State := { s with mem := mapSet (memDefault s a) s.mem a (BitVec.ofNat 8 b) }

/-- How a line stands: 0 not written since power-up, 1 written, 2 poisoned, 3 written and wrong in one symbol, 4 written and
wrong beyond correction, 5 written before inline ECC covered it, so that its check bytes are arbitrary (R370, R371, R830; log
112). -/
def lineState (s : State) (l : Nat) : Nat := mapGet 0 s.lines l

/-- Set how a line stands. -/
def setLine (l k : Nat) (s : State) : State := { s with lines := mapSet 0 s.lines l k }

/-- MEM_UE for the line of address a. -/
def ueWord (s : State) (brand scrub a : Nat) : Nat :=
  let c := channelOf s (portOf s a).2
  2 ^ 63 + c.1 * 2 ^ 60 + scrub * 2 ^ 59 + brand * 2 ^ 40 + c.2

/-- The read of a table entry at address a, of brand 0x01, met a poisoned line: it is captured (R376). -/
def tablePoison (a : Nat) (s : State) : State :=
  capture MEM_UE_valid MEM_UE_overflow (portOf s a).1 (ueWord s 1 0 a) s

/-- An uncorrectable line is counted and captured (R370, R250). -/
def memUncorrectable (brand scrub a : Nat) (s : State) : State :=
  let p := (portOf s a).1
  let w := ueWord s brand scrub a
  flockEvent 0x0300 (portDie p) p w 0 0
    (countLife 12 1 (bump MEM_UECNT_count p (capture MEM_UE_valid MEM_UE_overflow p w s)))

/-- What a port finds when it reads the line of address a: true where it returns data-error status (R370, R371, R830). -/
def readLine (brand scrub a : Nat) (s : State) : Bool × State :=
  let l := a / 64
  let p := (portOf s a).1
  if !inlineEcc s then (false, s)
  else if lineState s l = 2 then (true, bump MEM_POISON_count p s)
  else if lineState s l = 3 then (false, setLine l 1 (countLife 11 1 (bump MEM_CE_count p s)))
  else if lineState s l = 4 then (true, memUncorrectable brand scrub a s)
  else if lineState s l ≠ 1 then
    (match (Config.freeLine s.memEpoch l).toNat % 3 with
     | 0 => (false, s)
     | 1 => (false, setLine l 1 (countLife 11 1 (bump MEM_CE_count p s)))
     | _ => (true, memUncorrectable brand scrub a s))
  else (false, s)

/-- The lines of a range. -/
def linesOf (a len : Nat) : List Nat := (List.range ((a % 64 + len + 63) / 64)).map (fun k => (a / 64 + k) * 64)

/-- Read every line of a range; answers which are bad. -/
def readLines (brand : Nat) : List Nat → State → List Bool × State
  | [], s => ([], s)
  | a :: as, s =>
    let r := readLine brand 0 a s
    let rs := readLines brand as r.2
    (r.1 :: rs.1, rs.2)

/-- A read of external memory: the bytes, the bad lines, the state (R354, R370). -/
def memRead (brand a len : Nat) (s : State) : List Nat × List Bool × State :=
  let r := readLines brand (linesOf a len) s
  ((List.range len).map (fun k => memByte s (a + k)), r.1, r.2)

/-- Put bytes from address a on. -/
def memPutBytes (a : Nat) : List Nat → State → State
  | [], s => s
  | b :: bs, s => memPutBytes (a + 1) bs (memPut a b s)

/-- A line that a read would find uncorrectable, or poisoned. -/
def lineBad (s : State) (l : Nat) : Bool :=
  let k := lineState s l
  k == 2 || k == 4 || ((k == 0 || k == 5) && (Config.freeLine s.memEpoch l).toNat % 3 == 2)

/-- How the line at la stands after a write of the bytes from a to a + len - 1, poison flag pf (R370, R371, R830). -/
def noteLine (a len la : Nat) (pf : Bool) (s : State) : State :=
  let l := la / 64
  let whole := a ≤ la && la + 64 ≤ a + len
  if pf then
    (if inlineEcc s then setLine l 2 s else bump MEM_POISONLOST_count (portOf s la).1 (setLine l 1 s))
  else if whole then setLine l 1 s
  else if inlineEcc s ∧ lineBad s l then setLine l 2 s
  else setLine l 1 s

/-- Note every line of a written range; `pfs` gives the poison flag of each line, false where it ends. -/
def noteLines (a len : Nat) : List Nat → List Bool → State → State
  | [], _, s => s
  | la :: las, pfs, s => noteLines a len las (pfs.drop 1) (noteLine a len la (pfs.headD false) s)

/-- Where the data line of usable line l, placed as state o places it, lies in the mapping of state s: the lines of a port keep
their places in its channels (R367, R369). -/
def lineMoved (o s : State) (l : Nat) : Option Nat :=
  let p := portOf o (64 * l)
  let c := channelOf o p.2
  match lineOfChannel s c.1 c.2 with
  | some a => if a < memQ s then some (addrOfPort s p.1 a / 64) else none
  | none => none

/-- How a moved line stands: without inline ECC no poison and no error is kept; where inline ECC begins, the check bytes are
whatever lay there. -/
def lineStands (o s : State) (k : Nat) : Nat :=
  if inlineEcc o == inlineEcc s then k else if inlineEcc s then 5 else 1

/-- The mapping of usable addresses has changed from that of state o: every line written keeps its place in its port, and is
found at the address that now names that place (R367, R369). -/
def memMove (o s : State) : State :=
  if memQ o = memQ s ∧ memR o = memR s ∧ inlineEcc o = inlineEcc s then s
  else o.lines.foldl (fun t e => match lineMoved o s e.1 with
    | none => t
    | some l => setLine l (lineStands o s e.2) (memPutBytes (64 * l) ((List.range 64).map (fun i => memByte o (64 * e.1 + i))) t))
    { s with mem := [], lines := [] }

/-- A write of external memory with one poison flag per line (R354, R359). -/
def memWrite (a : Nat) (bs : List Nat) (pfs : List Bool) (s : State) : State :=
  noteLines a bs.length (linesOf a bs.length) pfs (memPutBytes a bs s)

end Sys2Proof.Machine
end

