-- ==== Sys2Proof/Machine/Ecc.lean ====
section
/-! DEFINITION. The extended Hamming codes of the spec (R249, R288, R538, R539): check bits at the power-of-two positions, data
bits in the other positions in ascending order, one further bit for even parity. A stored word is the data with the check
bits above it. -/

namespace Sys2Proof.Machine

/-- A position that holds a check bit. -/
def isPow2 (p : Nat) : Bool := p == 2 ^ Nat.log2 p

/-- The positions of the first n data bits, ascending. -/
def dataPos (n : Nat) : List Nat := (((List.range (2 * n + 16)).map (· + 1)).filter (fun p => !isPow2 p)).take n

/-- XOR of the positions of the set bits of d. -/
def xorPos : List Nat → Nat → Nat
  | [], _ => 0
  | p :: ps, d => Nat.xor (if d % 2 = 1 then p else 0) (xorPos ps (d / 2))

/-- Number of set bits among the low n. -/
def popcount : Nat → Nat → Nat
  | 0, _ => 0
  | n + 1, v => v % 2 + popcount n (v / 2)

/-- The stored word of n data bits with r Hamming bits and a parity bit. -/
def eccEncode (n r d : Nat) : Nat :=
  let d := d % 2 ^ n
  let h := xorPos (dataPos n) d
  d + h * 2 ^ n + ((popcount n d + popcount r h) % 2) * 2 ^ (n + r)

/-- What a read of a stored word finds. -/
inductive EccOut where
  | clean | corrected | uncorrectable
deriving DecidableEq, Repr

/-- The data of a stored word with one position inverted: a data position flips its data bit. -/
def flipPos (n z d : Nat) : Nat :=
  match (dataPos n).idxOf? z with
  | some k => natSetBit d k (!natBit d k)
  | none => d

/-- Read a stored word: outcome and corrected data (R249). -/
def eccDecode (n r w : Nat) : EccOut × Nat :=
  let d := w % 2 ^ n
  let h := w / 2 ^ n % 2 ^ r
  let z := Nat.xor (xorPos (dataPos n) d) h
  let odd := popcount (n + r + 1) w % 2 = 1
  if z = 0 then (if odd then .corrected else .clean, d)
  else if odd ∧ z ≤ n + r then (.corrected, flipPos n z d)
  else (.uncorrectable, d)

/-- A scratchpad or flit word with its check bits (R249, R288). -/
def word72 (d : Nat) : Nat := eccEncode 64 7 d

/-- A word every checker reports as uncorrectable: an even number of wrong bits (R289, R359). -/
def badWord (d : Nat) : Nat := Nat.xor (word72 d) (3 * 2 ^ 64)

/-- A bundle with its fetch check, a route slot with its slot check (R539). -/
def bundle266 (d : Nat) : Nat := eccEncode 256 9 d
def slot22 (d : Nat) : Nat := eccEncode 16 5 d

end Sys2Proof.Machine
end

