-- ==== Sys2Proof/Machine/Pools.lean ====
section
/-! DEFINITION. Byre pools (spec/14_byre.md): the free list threaded through the buffers, the ledger, quotas, thresholds, a get
and a put. The ledger's layout is the model's own (log 13): bytes 0-7 the tick of the get, byte 8 bit 0 allocated and bit 1
being reclaimed, bytes 10-11 the charged entry. -/

namespace Sys2Proof.Machine

/-- The end of a free list (R452). -/
def listEnd : Nat := 0xFFFFFFFF

/-- What Byre holds of pool j of M die 8 + d. -/
def poolGet (s : State) (d j : Nat) : PoolS := mapGet poolReset s.pools (256 * d + j)

/-- Change what Byre holds of a pool. -/
def poolMod (d j : Nat) (g : PoolS → PoolS) (s : State) : State :=
  { s with pools := mapSet poolReset s.pools (256 * d + j) (g (poolGet s d j)) }

/-- The buffer size, the buffer count, the region base, the ledger base and the virtual base of a pool (R448). -/
def poolSize (s : State) (d j : Nat) : Nat := 2 ^ (8 + rd s (BYR_PCFG_size_log.ix j) d)
def poolCount (s : State) (d j : Nat) : Nat := rd s (BYR_PCFG_count.ix j) d
def poolBase (s : State) (d j : Nat) : Nat := rd s (BYR_PBASE_pbase.ix j) d * 256
def poolLedger (s : State) (d j : Nat) : Nat := rd s (BYR_PLEDG_ledger.ix j) d * 4096
def poolVBase (s : State) (d j : Nat) : Nat := rd s (BYR_PVBASE_vbase.ix j) d * 256

/-- Free buffers. -/
def poolFree (s : State) (d j : Nat) : Nat := rd s (BYR_PSTAT_free.ix j) d

/-- The physical address of buffer k. -/
def bufAddr (s : State) (d j k : Nat) : Nat := poolBase s d j + k * poolSize s d j

/-- The effective thresholds (R462). -/
def floorE (s : State) (d j : Nat) : Nat := Nat.min (rd s (BYR_PTHR_floor.ix j) d) (poolCount s d j)
def redE (s : State) (d j : Nat) : Nat := Nat.max (rd s (BYR_PTHR_red.ix j) d) (floorE s d j)
def amberE (s : State) (d j : Nat) : Nat := Nat.max (rd s (BYR_PTHR_amber.ix j) d) (redE s d j)

/-- A pool's state bits. -/
def poolCreated (s : State) (d j : Nat) : Bool := rdB s (BYR_PSTAT_created.ix j) d
def poolBroken (s : State) (d j : Nat) : Bool := rdB s (BYR_PSTAT_broken.ix j) d
def poolRebuild (s : State) (d j : Nat) : Bool := rdB s (BYR_PSTAT_rebuild.ix j) d

/-- The valid quota entries that name a pool. -/
def poolEntries (s : State) (d j : Nat) : List Nat :=
  (List.range 4096).filter (fun e => rdB s (BYR_QKEY_valid.ix e) d && rd s (BYR_QKEY_pool.ix e) d == j)

/-- A Byre event record (R679, type 0x91). -/
def byreRecord (d j : Nat) (s : State) : State :=
  pfEvent 0x91 (8 + d) [j + d * 2 ^ 8 + rd s { BYR_EVT_broken with hi := 3, lo := 0 } d * 2 ^ 32,
    regNat s BYR_LERR_valid d] s

/-- Set the free count with what follows from it (R462, R463): amber is raised where free falls to amber_e. -/
def setFree (d j n : Nat) (s : State) : State :=
  let was := poolFree s d j
  let a := amberE s d j
  let s1 := wr (BYR_PSTAT_free.ix j) d n s
  let s2 := wr (BYR_PSTAT_low.ix j) d (b2n (n ≤ floorE s d j)) (wr (BYR_PSTAT_red.ix j) d (b2n (n ≤ redE s d j)) s1)
  if a < was ∧ n ≤ a then byreRecord d j (wr BYR_EVT_amber d 1 (wr (BYR_PSTAT_amber.ix j) d 1 s2))
  else if a < n then wr (BYR_PSTAT_amber.ix j) d 0 s2
  else s2

/-- The red and low bits under the thresholds in effect: they apply from the next operation (R462). -/
def refreshLevels (d j : Nat) (s : State) : State :=
  let n := poolFree s d j
  wr (BYR_PSTAT_low.ix j) d (b2n (n ≤ floorE s d j)) (wr (BYR_PSTAT_red.ix j) d (b2n (n ≤ redE s d j)) s)

/-- Overcommit of a pool (R463). -/
def refreshOvercommit (d j : Nat) (s : State) : State :=
  let q := (poolEntries s d j).foldl (fun a e => a + rd s (BYR_QLIM_quota.ix e) d) 0
  wr (BYR_PSTAT_overcommit.ix j) d (b2n (poolCount s d j - floorE s d j < q)) s

/-! ### The free header and the ledger (R452, R464) -/

/-- One step of CRC-8 with polynomial 0x07. -/
def crc8Byte (c b : Nat) : Nat :=
  iter 8 (fun _ x => if 128 ≤ x then Nat.xor (x * 2 % 256) 7 else x * 2 % 256) (Nat.xor c b)

/-- CRC-8 of a list of bytes from 0x00 (R452). -/
def crc8 (bs : List Nat) : Nat := bs.foldl crc8Byte 0

/-- The 64 bytes of a free buffer's first line (R452). -/
def freeHeader (d j k next : Nat) : List Nat :=
  let front := leBytes 4 next
  let back := [j % 256, 8 + d, 0] ++ leBytes 4 k ++ [0, 0, 0, 0]
  front ++ [crc8 (front ++ back)] ++ back ++ List.replicate 48 0

/-- Write the header of free buffer k. -/
def writeHeader (d j k next : Nat) (s : State) : State := memWrite (bufAddr s d j k) (freeHeader d j k next) [] s

/-- The address of a ledger entry. -/
def ledgerAddr (s : State) (d j k : Nat) : Nat := poolLedger s d j + 16 * k

/-- Write a ledger entry: state 0 free, 1 allocated, 2 being reclaimed. -/
def writeLedger (d j k st e tick : Nat) (s : State) : State :=
  memWrite (ledgerAddr s d j k) (leBytes 8 tick ++ [st, 0] ++ leBytes 2 e ++ [0, 0, 0, 0]) [] s

/-- A number of n bytes in memory. -/
def memNat (s : State) (a n : Nat) : Nat := leNat ((List.range n).map (fun k => memByte s (a + k)))

/-- State, entry and tick of a ledger entry. -/
def ledgerState (s : State) (d j k : Nat) : Nat := memByte s (ledgerAddr s d j k + 8) % 4
def ledgerEntry (s : State) (d j k : Nat) : Nat := memNat s (ledgerAddr s d j k + 10) 2
def ledgerTick (s : State) (d j k : Nat) : Nat := memNat s (ledgerAddr s d j k) 8

/-- The kind of failure of the head, 0 for none (R464); `bad` says that its first line returned data-error status. -/
def headKind (s : State) (d j k : Nat) (bad : Bool) : Nat :=
  let a := bufAddr s d j k
  let bs := (List.range 16).map (fun i => memByte s (a + i))
  let next := leNat (bs.take 4)
  if bad then 1
  else if crc8 (bs.take 4 ++ bs.drop 5) ≠ bs.getD 4 0 then 2
  else if bs.getD 5 0 ≠ j ∨ bs.getD 6 0 ≠ 8 + d ∨ leNat ((bs.drop 8).take 4) ≠ k then 3
  else if next ≠ listEnd ∧ poolCount s d j ≤ next then 4
  else if ledgerState s d j k ≠ 0 then 5
  else if next = listEnd ∧ 1 < poolFree s d j then 6
  else 0

/-- A failed head check: captured, an event, a record, and a rebuild starts (R464). -/
def headFails (d j k kind : Nat) (s : State) : State :=
  wr (BYR_PSTAT_rebuild.ix j) d 1
    (byreRecord d j (wr BYR_EVT_check d 1
      (capture BYR_LERR_valid BYR_LERR_overflow d (kind * 2 ^ 56 + j * 2 ^ 48 + k % 2 ^ 20) s)))

/-- A ledger data error makes the pool broken (R466). -/
def poolBreaks (d j : Nat) (s : State) : State :=
  byreRecord d j (wr BYR_EVT_broken d 1 (wr (BYR_PSTAT_broken.ix j) d 1 s))

/-! ### Gets and puts (R455-R458, R461) -/

/-- The entry a get charges (R455). -/
def chargeEntry (s : State) (d j brand req : Nat) : Option Nat :=
  let es := (poolEntries s d j).filter (fun e => rd s (BYR_QKEY_brand.ix e) d == brand)
  match es.find? (fun e => rd s (BYR_QKEY_requester.ix e) d == req) with
  | some e => some e
  | none => es.find? (fun e => rd s (BYR_QKEY_requester.ix e) d / 2 ^ 18 == 3)

/-- The grant rule for entry e (R456): status 0 grants. -/
def grantStatus (s : State) (d j e : Nat) : Nat :=
  let cls := rd s (BYR_QKEY_cls.ix e) d
  let free := poolFree s d j
  let limit := if cls = 1 then redE s d j else if cls = 2 then 0 else floorE s d j
  if rd s (BYR_QLIM_quota.ix e) d ≤ rd s (BYR_QHELD_held.ix e) d then 1
  else if limit < free then 0
  else if cls = 1 ∧ floorE s d j < free then 2
  else 3

/-- The answer of a get or put: status and buffer. -/
structure ByrAns where
  status : Nat
  buf : Nat
deriving DecidableEq, Repr

/-- An operation answered with a status other than 0 (BYR_PREF). -/
def byrRefused (d j st : Nat) (s : State) : ByrAns × State := (⟨st, 0⟩, bump (BYR_PREF_count.ix j) d s)

/-- Grant the head buffer k to entry e (R453): next becomes the head, the ledger shows it allocated. -/
def grantHead (d j k e : Nat) (s : State) : ByrAns × State :=
  let next := memNat s (bufAddr s d j k) 4
  (⟨0, k⟩,
   bump (BYR_PGRANT_count.ix j) d
     (setFree d j (poolFree s d j - 1)
       (wr (BYR_QHELD_held.ix e) d (rd s (BYR_QHELD_held.ix e) d + 1)
         (writeLedger d j k 1 e (curTick s) (poolMod d j (fun p => { p with head := next }) s)))))

/-- A get of a live pool by brand and requester id (R453-R457, R464, R466). -/
def byreTake (d j brand req : Nat) (s : State) : ByrAns × State :=
  if poolRebuild s d j then byrRefused d j 4 s
  else match chargeEntry s d j brand req with
    | none => byrRefused d j 1 s
    | some e =>
      let st := grantStatus s d j e
      if st ≠ 0 then byrRefused d j st s
      else
        let k := (poolGet s d j).head
        if k = listEnd then byrRefused d j 4 (headFails d j 0 6 s)
        else
          let r := readLine 0 0 (bufAddr s d j k) s
          let l := readLine 0 0 (ledgerAddr s d j k) r.2
          if l.1 then byrRefused d j 5 (poolBreaks d j l.2)
          else
            let kind := headKind l.2 d j k r.1
            if kind ≠ 0 then byrRefused d j 4 (headFails d j k kind l.2)
            else grantHead d j k e l.2

/-- Byre applies a get of pool j of M die 8 + d; its levels follow the thresholds as they stand (R462). -/
def byreGet (d j brand req : Nat) (s : State) : ByrAns × State :=
  if !poolCreated s d j || poolBroken s d j then byrRefused d j 5 s else byreTake d j brand req (refreshLevels d j s)

/-- A put to a live pool of the buffer at offset `off` from the region's base (R453, R457, R461, R473, R475). -/
def byreReturn (d j : Nat) (off : Option Nat) (s : State) : ByrAns × State :=
  match off with
  | none => byrRefused d j 6 s
  | some o =>
    let k := o / poolSize s d j
    if o % poolSize s d j ≠ 0 ∨ poolCount s d j ≤ k then byrRefused d j 6 s
    else
      let l := readLine 0 0 (ledgerAddr s d j k) s
      if l.1 then byrRefused d j 5 (poolBreaks d j l.2)
      else
        let s1 := l.2
        if ledgerState s1 d j k ≠ 1 then byrRefused d j 7 s1
        else
          let e := ledgerEntry s1 d j k
          let s2 := wr (BYR_QHELD_held.ix e) d (rd s1 (BYR_QHELD_held.ix e) d - 1) (writeLedger d j k 0 0 0 s1)
          if poolRebuild s2 d j then (⟨0, k⟩, setFree d j (poolFree s2 d j + 1) s2)
          else (⟨0, k⟩, setFree d j (poolFree s2 d j + 1)
                  (poolMod d j (fun p => { p with head := k }) (writeHeader d j k (poolGet s2 d j).head s2)))

/-- Byre applies a put to pool j; its levels follow the thresholds as they stand (R462). -/
def byrePut (d j : Nat) (off : Option Nat) (s : State) : ByrAns × State :=
  if !poolCreated s d j || poolBroken s d j then byrRefused d j 5 s else byreReturn d j off (refreshLevels d j s)

/-- A buffer that a device unit holds goes back to its pool: die, pool, index. -/
def bufferBack (buf : List Nat) (s : State) : State :=
  match buf with
  | [d, j, b] => (byrePut d j (some (b * poolSize s d j)) s).2
  | _ => s

/-- The gate of a pool admits a brand: a system brand; a paddock to a pool it owns, or to a shared one in which it has a quota, while its
gates are open (R46, R106, R107). A get of a device service of a paddock (its fault queue and trace ring) needs no open gate
(DEDUCED, log 118). -/
def poolAdmits (s : State) (d j brand : Nat) (g1 : List Nat) (service : Bool) : Bool :=
  let o := rd s (GAT_POOL_owner.ix j) (8 + d)
  match brandPdk brand with
  | none => brand < 7
  | some n =>
    (service || !closedTo s g1 n) &&
      (o == brand || (o == 0 && (poolEntries s d j).any (fun e =>
        rd s (BYR_QKEY_brand.ix e) d == brand && rd s (BYR_QLIM_quota.ix e) d != 0)))

/-- The gate of a pool refuses a packet from die src: what a device unit makes of it is a get not granted (R106, R356). -/
def poolRefuse (src d j brand : Nat) (s : State) : State :=
  gateRefuse (8 + d) (if brandReserved brand then 1 else 3) 0 src brand j s

/-- A get by a device unit on die src for a brand: at the pool's gate, then by Byre (R106, R107, R454). -/
def byreGetBy (src d j brand req : Nat) (s : State) : ByrAns × State :=
  if poolAdmits s d j brand [] (req / 2 ^ 18 == 2) then byreGet d j brand req s else (⟨8, 0⟩, poolRefuse src d j brand s)

/-- The buffers of 0..count - 1 the ledger shows free. -/
def freeBuffers (s : State) (d j : Nat) : List Nat := (List.range (poolCount s d j)).filter (fun k => ledgerState s d j k == 0)

/-- Link free buffers in ascending index (R450, R465). -/
def linkBuffers (d j : Nat) : List Nat → State → State
  | [], s => s
  | [k], s => writeHeader d j k listEnd s
  | k :: k2 :: ks, s => linkBuffers d j (k2 :: ks) (writeHeader d j k k2 s)

/-- The free list made anew from the ledger (R465). -/
def rebuildList (d j : Nat) (s : State) : State :=
  let fs := freeBuffers s d j
  setFree d j fs.length (poolMod d j (fun p => { p with head := fs.headD listEnd }) (linkBuffers d j fs s))

/-- The requester ids of R454. -/
def reqCore (core : Nat) : Nat := core % 2048
def reqContext (g : Nat) : Nat := 2 ^ 18 + g % 2 ^ 17
def reqService (v : Nat) : Nat := 2 * 2 ^ 18 + v % 256

end Sys2Proof.Machine
end

