-- ==== Sys2Proof/Machine/Faults.lean ====
section
/-! DEFINITION. Records of the fault queues (R677, R678, R831): produced, staged in Byre buffers, held on H0 while Byre
refuses, lost beyond 64. -/

namespace Sys2Proof.Machine

/-- The brand a function's staging buffers are charged to (R454). -/
def fnBrand (f : Nat) : Nat := if f = 0 then 1 else 0x0F + f

/-- Stage one record of function f in a buffer of its pool; answers false where Byre refuses (R677). A function with no
pool named stages nothing (DEDUCED, log 15). -/
def stageRecord (f : Nat) (rec_ : List Nat) (s : State) : Bool × State :=
  if !rdB s (HST_STAGE_valid.ix f) 0 then (false, s)
  else
    let d := rd s (HST_STAGE_die.ix f) 0
    let j := rd s (HST_STAGE_pool.ix f) 0
    let r := byreGetBy 10 d j (fnBrand f) (reqService 0) s
    if r.1.status = 0 then
      (true, fnMod f (fun x => { x with staged := x.staged ++ [(rec_, d, j, r.1.buf)] })
               (memWrite (bufAddr r.2 d j r.1.buf) (rec_.flatMap (leBytes 8)) [] r.2))
    else (false, r.2)

/-- Stage held records in order, then the overflow record, while Byre grants (R677). -/
def stageHeld (f : Nat) : Nat → State → State
  | 0, s => s
  | n + 1, s =>
    match (fnGet s f).held with
    | rec_ :: rest =>
      let r := stageRecord f rec_ s
      if r.1 then stageHeld f n (fnMod f (fun x => { x with held := rest }) r.2) else r.2
    | [] =>
      if (fnGet s f).lost = 0 then s
      else
        let r := stageRecord f [0x01, 10, (fnGet s f).lost] s
        if r.1 then fnMod f (fun x => { x with lost := 0 }) r.2 else r.2

/-- A fault record for function f: type, source die, words 1 on. Discarded while the function is under reset (R831). -/
def faultRecord (f typ die : Nat) (ws : List Nat) (s : State) : State :=
  if fnUnderReset s f then s
  else
    let rec_ := typ :: die :: ws
    let s1 := stageHeld f 65 s
    let x := fnGet s1 f
    if x.held.isEmpty ∧ x.lost = 0 then
      let r := stageRecord f rec_ s1
      setHeldCount f (if r.1 then r.2 else fnMod f (fun y => { y with held := [rec_] }) r.2)
    else if x.held.length < 64 ∧ x.lost = 0 then
      setHeldCount f (fnMod f (fun y => { y with held := y.held ++ [rec_] }) s1)
    else bump (HST_FQLOST_count.ix f) 0 (wr (HST_FEVT_overflow.ix f) 0 1 (fnMod f (fun y => { y with lost := y.lost + 1 }) s1))

/-- The function whose fault queue takes the records of a paddock, or of nothing that is in one: the PF (R678). -/
def fnOfPdk (n : Option Nat) : Nat :=
  match n with
  | some n => n + 1
  | none => 0

/-- The index a record names a physical core by: paddock-relative; core_id for the PF queue; 0x7FF for a core that serves no
logical position (R678). -/
def recIndex (s : State) (p : Nat) : Nat :=
  match lcore s p with
  | none => 0x7FF
  | some c => match corePdk s c with
    | some n => relIndex s n c
    | none => c

/-- A fault record of physical core p to the queue of its paddock, or of the PF. -/
def coreFault (p typ : Nat) (ws : List Nat) (s : State) : State := faultRecord (fnOfPdk (pcorePdk s p)) typ (p / 0x200) ws s

/-- Paddock n runs in integrity mode (R507). -/
def integrityOf (s : State) (n : Nat) : Bool := rdB s PDK_MODE_integrity n

/-- A failure of the open epoch of paddock n (R510): the first is captured with its core's index; it waits for the quench.
A later one joins it (R530). -/
def epochFailure (n kind core : Nat) (s : State) : State :=
  if !integrityOf s n || (pdkGet s n).epFailed != 0 || (pdkGet s n).epAbandoned then s
  else
    let s1 := pdkMod n (fun x => { x with epFailed := kind }) s
    if rdB s1 PDK_EPFAIL_valid n then s1
    else wrW .pdk n PDK_EPFAIL_valid.off (BitVec.ofNat 64 (2 ^ 31 + core % 2 ^ 11 * 2 ^ 16 + kind)) s1

/-- An exception on a core that abandons the open epoch of paddock n, where nothing has failed it (R512; kind 5). -/
def epochAbandon (n core : Nat) (s : State) : State :=
  if !integrityOf s n || (pdkGet s n).epFailed != 0 || (pdkGet s n).epAbandoned then s
  else
    let s1 := pdkMod n (fun x => { x with epAbandoned := true }) s
    if rdB s1 PDK_EPFAIL_valid n then s1
    else wrW .pdk n PDK_EPFAIL_valid.off (BitVec.ofNat 64 (2 ^ 31 + core % 2 ^ 11 * 2 ^ 16 + 5)) s1

/-- What an exception of a code on core p means for its paddock's epoch (R510, R512). -/
def epochException (p code : Nat) (s : State) : State :=
  match pcorePdk s p with
  | none => s
  | some n => if code = 0x08 ∨ code = 0x0A then epochFailure n 2 (recIndex s p) s else epochAbandon n (recIndex s p) s

end Sys2Proof.Machine
end

