-- ==== Sys2Proof/Machine/CoreBase.lean ====
section
/-! DEFINITION. A physical core: its registers, its arrays, scratchpad words and their ECC, task exceptions, W-phase requests
(spec/05_core_bundle.md, spec/08_scratchpad.md). `p` is a physical core, `t` a task. -/

namespace Sys2Proof.Machine

/-- What core p holds beside its registers. -/
def coreGet (s : State) (p : Nat) : Core := mapGet coreReset s.cores p

/-- Change what core p holds. -/
def coreMod (p : Nat) (g : Core → Core) (s : State) : State := { s with cores := mapSet coreReset s.cores p (g (coreGet s p)) }

/-! ### Task registers (R130, R136) -/

/-- General register k of task t; g0 reads 0. -/
def gGet (s : State) (p t k : Nat) : Nat := if k = 0 then 0 else rd s (LEA_TG_value.ix2 t k) p

/-- Write a general register; a write to g0 is discarded. -/
def gSet (p t k v : Nat) (s : State) : State := if k = 0 then s else wr (LEA_TG_value.ix2 t k) p v s

/-- Predicate k of task t; p0 reads 1. -/
def pGet (s : State) (p t k : Nat) : Bool := k == 0 || natBit (rd s (LEA_TPRED_pred.ix t) p) k

/-- Write a predicate; a write to p0 is discarded. -/
def pSet (p t k : Nat) (v : Bool) (s : State) : State :=
  if k = 0 then s else wr (LEA_TPRED_pred.ix t) p (natSetBit (rd s (LEA_TPRED_pred.ix t) p) k v) s

/-- The state of a task: 0 halted, 1 running, 2 stalled (R130). -/
def taskState (s : State) (p t : Nat) : Nat := rd s (LEA_TSTAT_state.ix t) p

/-- Stop reasons of LEA_TSTAT. -/
def haltTask (p t reason : Nat) (s : State) : State :=
  wr (LEA_TSTAT_state.ix t) p 0 (wr (LEA_TSTAT_reason.ix t) p reason s)

/-- Base and bound of a task in bytes (R236, R248). -/
def taskBase (s : State) (p t : Nat) : Nat := rd s (LEA_TBB_base.ix t) p * 256
def taskBound (s : State) (p t : Nat) : Nat := rd s (LEA_TBB_bound.ix t) p * 256

/-- Split mode (R238). -/
def splitMode (s : State) (p : Nat) : Bool := rdB s LEA_SPCFG_split p

/-! ### Exceptions (R150, R151) -/

/-- The words of a task-exception record (R678). -/
def excWords (s : State) (p t : Nat) : List Nat :=
  [regNat s (LEA_TEXC_code.ix t) p + t * 2 ^ 32 + recIndex s p * 2 ^ 34, regNat s (LEA_TRET_retired.ix t) p]

/-- Record an exception in LEA_TEXC and post its record; with one recorded already it is only counted as lost (R151). -/
def recordExc (p t : Nat) (async : Bool) (slot pc sub code : Nat) (s : State) : State :=
  let s := epochException p code s
  if rdB s (LEA_TEXC_valid.ix t) p then wr (LEA_TEXC_lost.ix t) p 1 s
  else
    let s1 := wrW .lea p (LEA_TEXC_valid.ix t).off
      (BitVec.ofNat 64 (2 ^ 31 + b2n async * 2 ^ 30 + slot * 2 ^ 28 + pc * 2 ^ 16 + sub * 2 ^ 8 + code)) s
    coreFault p 0x10 (excWords s1 p t) s1

/-- A precise exception: the task halts at the bundle, nothing takes effect (R150). -/
def preciseExc (p t slot sub code : Nat) (s : State) : State :=
  recordExc p t false slot (rd s (LEA_TSTAT_pc.ix t) p) sub code (haltTask p t 2 s)

/-- An asynchronous exception of an operation of task t dispatched at pc: the task halts before its next issue (R151). -/
def asyncExc (p t slot pc sub : Nat) (s : State) : State :=
  recordExc p t true slot pc sub 0x0A (if taskState s p t = 0 then s else haltTask p t 2 s)

/-! ### The scratchpad's words (R249-R252) -/

/-- What an unlisted scratchpad word holds: 0, or arbitrary data after a change of the mapping (R239, R252). -/
def spDefault (s : State) (p w : Nat) : Nat :=
  let e := mapGet 0 s.spEpoch p
  if e = 0 then 0 else word72 (Config.freeWord e w).toNat

/-- The 72 bits of word w. -/
def spRaw (s : State) (p w : Nat) : Nat := mapGet (spDefault s p w) s.sp (131072 * p + w)

/-- Put 72 bits into word w. -/
def spPutRaw (p w v : Nat) (s : State) : State := { s with sp := mapSet (spDefault s p w) s.sp (131072 * p + w) v }

/-- The data of a word as a read would deliver it. -/
def spData (s : State) (p w : Nat) : Nat := (eccDecode 64 7 (spRaw s p w)).2

/-- Classes of LEA_SPUE: 0 S phase, 1 M, 2 X, 3 P, 4 V. An uncorrectable word is counted and captured (R250, R251). -/
def spUncorrectable (p w cls merge task : Nat) (s : State) : State :=
  bump LEA_SPUECNT_count p
    (capture LEA_SPUE_valid LEA_SPUE_overflow p (cls * 2 ^ 59 + merge * 2 ^ 58 + task * 2 ^ 56 + 8 * w) s)

/-- Read a word: true where it is uncorrectable, the corrected data, the state (R249, R250). -/
def spReadWord (p w cls task : Nat) (s : State) : Bool × Nat × State :=
  match eccDecode 64 7 (spRaw s p w) with
  | (.clean, d) => (false, d, s)
  | (.corrected, d) => (false, d, coreMod p (fun c => { c with wb := if c.wb.contains w then c.wb else c.wb ++ [w] })
                                    (bump LEA_SPCE_count p s))
  | (.uncorrectable, d) => (true, d, spUncorrectable p w cls 0 task s)

/-! ### Order of macro-operations' writes (R147, R176, R220) -/

/-- The mark of word w. -/
def spMarkGet (s : State) (p w : Nat) : SpMark := mapGet spMarkReset s.spMark (131072 * p + w)
def spMarkSet (p w : Nat) (m : SpMark) (s : State) : State :=
  { s with spMark := mapSet spMarkReset s.spMark (131072 * p + w) m }

/-- A macro-operation of task t of a unit (1 V, 2 X) has written word w: the write is ordered for no task yet. -/
def spWrote (p w t unit : Nat) (s : State) : State := spMarkSet p w ⟨t % 4, unit, [0, 0, 0, 0], [0, 0, 0, 0]⟩ s

/-- Word w is written by something whose order the marks do not track. -/
def spPlain (p w : Nat) (s : State) : State := spMarkSet p w spMarkReset s

/-- A read of word w by task t, in bundle bun, finds a write that nothing orders before it. Reader: 0 the S slot, which finds every
unit's writes so, 1 M alike, 2 V those of X, 3 X those of V (R147, R176, R220). -/
def spUnordered (s : State) (p w reader t bun : Nat) : Bool :=
  let m := spMarkGet s p w
  let k := if reader = 3 then m.ordX.getD t 0 else m.ord.getD t 0
  m.task != 4 && (reader ≤ 1 || m.unit + reader == 4 ) && !(k != 0 && k ≤ bun)

/-- The data a read of word w delivers: arbitrary where the write it finds is not ordered before it (R2; log 104). -/
def spDeliver (p w d reader t bun : Nat) (s : State) : Nat × State :=
  if spUnordered s p w reader t bun then
    let r := freshBlock s
    ((Config.freeWord r.1 0).toNat, r.2)
  else (d, s)

/-- Order the writes of core p that `sel` names, for bundles of task t from n on, for its X slots from nx on. -/
def spOrder (p t n nx : Nat) (sel : SpMark → Bool) (s : State) : State :=
  let set (l : List Nat) (v : Nat) : List Nat := if l.getD t 0 = 0 then listPut l t v else l
  { s with spMark := s.spMark.map (fun e =>
      if e.1 / 131072 = p ∧ sel e.2 then (e.1, { e.2 with ord := set e.2.ord n, ordX := set e.2.ordX nx }) else e) }

/-- A FENCE of task t in bundle bun, with its selection, orders the task's own writes by the queues it selects. -/
def spFence (p t sel bun : Nat) (s : State) : State :=
  spOrder p t (bun + 1) (bun + 1) (fun m => m.task == t && natBit sel m.unit) s

/-- A TLY.WAIT of task t, dispatched in bundle bun, completes: the writes of other tasks stand before what the task does from here
on, and before X operations behind the wait (R148; log 104). -/
def spWaited (p t bun : Nat) (s : State) : State :=
  spOrder p t (Nat.max 1 (coreGet s p).bundles) (bun + 1) (fun m => m.task != t) s

/-! ### Writes of words -/

/-- The bits of the enabled bytes. -/
def beMask (be : Nat) : Nat := (List.range 8).foldl (fun a k => if natBit be k then a + 255 * 2 ^ (8 * k) else a) 0

/-- Merge enabled bytes of v into d. -/
def mergeBytes (be v d : Nat) : Nat := Nat.lor (Nat.land v (beMask be)) (d - Nat.land d (beMask be))

/-- Write the enabled bytes of a word, with merge and new check bits; a write-back that waits is dropped (R241, R249, R251). -/
def spWriteWord (p w be v cls task : Nat) (s : State) : State :=
  let s := coreMod p (fun c => { c with wb := c.wb.erase w }) s
  if be % 256 = 255 then spPlain p w (spPutRaw p w (word72 v) s)
  else match eccDecode 64 7 (spRaw s p w) with
    | (.clean, d) => spPutRaw p w (word72 (mergeBytes be v d)) s
    | (.corrected, d) => spPutRaw p w (word72 (mergeBytes be v d)) (bump LEA_SPCE_count p s)
    | (.uncorrectable, _) => spPutRaw p w (word72 (mergeBytes be v 0)) (spUncorrectable p w cls 1 task s)

/-- One byte of the scratchpad as a read would deliver it. -/
def spByte (s : State) (p off : Nat) : Nat := spData s p (off / 8) / 2 ^ (8 * (off % 8)) % 256

/-- Bytes of the scratchpad. -/
def spBytes (s : State) (p off len : Nat) : List Nat := (List.range len).map (fun k => spByte s p (off + k))

/-- The parts of a byte range that lie in one 256-byte line each: first byte and length (R242). -/
def lineParts (off len : Nat) : List (Nat × Nat) :=
  if len = 0 then []
  else (List.range ((off % 256 + len + 255) / 256)).map (fun k =>
    let lo := Nat.max off ((off / 256 + k) * 256)
    (lo, Nat.min (off + len) ((off / 256 + k + 1) * 256) - lo))

/-- The words of a byte range. -/
def wordsOf (off len : Nat) : List Nat := (List.range ((off % 8 + len + 7) / 8)).map (fun k => off / 8 + k)

/-- Byte enables of word w for the bytes off to off + len - 1. -/
def enables (off len w : Nat) : Nat :=
  (List.range 8).foldl (fun a k => if off ≤ 8 * w + k ∧ 8 * w + k < off + len then a + 2 ^ k else a) 0

/-- The data word of a byte list that starts at byte offset off, for word w. -/
def wordData (off : Nat) (bs : List Nat) (w : Nat) : Nat :=
  leNat ((List.range 8).map (fun k => if off ≤ 8 * w + k then bs.getD (8 * w + k - off) 0 else 0))

/-- Read words in turn; true where one of them is uncorrectable. -/
def spReadWords (p cls task : Nat) : List Nat → State → Bool × State
  | [], s => (false, s)
  | w :: ws, s =>
    let r := spReadWord p w cls task s
    let rs := spReadWords p cls task ws r.2.2
    (r.1 || rs.1, rs.2)

/-- Read len bytes from off on at once: error, bytes, state. -/
def spReadBytes (p off len cls task : Nat) (s : State) : Bool × List Nat × State :=
  let r := spReadWords p cls task (wordsOf off len) s
  (r.1, (List.range len).map (fun k => spByte s p (off + k)), r.2)

/-- Write bytes from off on at once, as the S slot or the fabric does. -/
def spWriteBytes (p off : Nat) (bs : List Nat) (cls task : Nat) (s : State) : State :=
  (wordsOf off bs.length).foldl (fun s w => spWriteWord p w (enables off bs.length w) (wordData off bs w) cls task s) s

/-- Write bytes from off on at once for an operation of task t of unit 1 (V) or 2 (X). -/
def spOpWrite (p off : Nat) (bs : List Nat) (cls t unit : Nat) (s : State) : State :=
  (wordsOf off bs.length).foldl (fun s w => spWrote p w t unit s) (spWriteBytes p off bs cls t s)

/-- The bytes of a range are arbitrary, with valid check bits: an operation that faulted was to write them (R2, R151). -/
def spScramble (p off len : Nat) (s : State) : State :=
  let b := freshBlock s
  spWriteBytes p off ((List.range len).map (fun k => (Config.freeWord b.1 k).toNat % 256)) 2 0 b.2

/-- Make words fail their check (R276, R359). -/
def spPoison (p off len : Nat) (s : State) : State :=
  (wordsOf off len).foldl (fun s w => spPutRaw p w (badWord (spData s p w)) s) s

/-! ### Tiles, accumulators, descriptors (R170, R181, R198, R199) -/

/-- Element of tile t. -/
def tileGet (s : State) (p t row col : Nat) : Nat := mapGet 0 s.tile (16384 * p + 1024 * t + 32 * row + col)
def tileSet (p t row col v : Nat) (s : State) : State :=
  { s with tile := mapSet 0 s.tile (16384 * p + 1024 * t + 32 * row + col) (v % 2 ^ 32) }

/-- Element of accumulator a. -/
def accGet (s : State) (p a row col : Nat) : Nat := mapGet 0 s.acc (4096 * p + 1024 * a + 32 * row + col)
def accSet (p a row col v : Nat) (s : State) : State :=
  { s with acc := mapSet 0 s.acc (4096 * p + 1024 * a + 32 * row + col) (v % 2 ^ 32) }

/-- The tag of accumulator a is FP32 (R170). -/
def accFp (s : State) (p a : Nat) : Bool := natBit (rd s LEA_MSTAT_acc_fp p) a

/-- The residue pair 256 r127 + r255 of a value (R181). -/
def residues (v : Int) : Nat := (v % 127).toNat * 256 + (v % 255).toNat

/-- What the shadow of an element of a value holds: its residues for INT32 (R181), for FP32 the result of the second adder, which
is the same bit pattern where nothing is wrong (R182). -/
def shadowWord (fp : Bool) (bits : Nat) : Nat := if fp then bits else residues (sext 32 bits)

/-- The shadow of an element: what is listed, else consistent with 0. -/
def shadowGet (s : State) (p a row col : Nat) : Nat := mapGet 0 s.shadow (4096 * p + 1024 * a + 32 * row + col)
def shadowSet (p a row col v : Nat) (s : State) : State :=
  { s with shadow := mapSet 0 s.shadow (4096 * p + 1024 * a + 32 * row + col) v }

/-- Write an element with its shadow consistent. -/
def accPut (p a row col v : Nat) (fp : Bool) (s : State) : State :=
  shadowSet p a row col (shadowWord fp (v % 2 ^ 32)) (accSet p a row col v s)

/-- Set the tag of an accumulator. -/
def setTag (p a : Nat) (fp : Bool) (s : State) : State :=
  wr LEA_MSTAT_acc_fp p (natSetBit (rd s LEA_MSTAT_acc_fp p) a fp) s

/-- Set or clear the suspect bit of an accumulator. -/
def setSuspect (p a : Nat) (on : Bool) (s : State) : State :=
  wr LEA_MSTAT_suspect p (natSetBit (rd s LEA_MSTAT_suspect p) a on) s

/-- Word k of descriptor slot d. -/
def descGet (s : State) (p d k : Nat) : Nat := mapGet 0 s.desc (256 * p + 8 * d + k)
def descSet (p d k v : Nat) (s : State) : State :=
  { s with desc := mapSet 0 s.desc (256 * p + 8 * d + k) (v % 2 ^ 64) }

/-! ### Queues (R139) -/

/-- The three units. -/
inductive QUnit where
  | m | v | x
deriving DecidableEq, Repr

/-- The queue of a unit. -/
def qGet (c : Core) (u : QUnit) : List QEnt :=
  match u with
  | .m => c.qm
  | .v => c.qv
  | .x => c.qx

/-- Put a queue back. -/
def qPut (u : QUnit) (q : List QEnt) (c : Core) : Core :=
  match u with
  | .m => { c with qm := q }
  | .v => { c with qv := q }
  | .x => { c with qx := q }

/-- Change the entry with dispatch number n. -/
def qMod (p : Nat) (u : QUnit) (n : Nat) (g : QEnt → QEnt) (s : State) : State :=
  coreMod p (fun c => qPut u ((qGet c u).map (fun e => if e.disp = n then g e else e)) c) s

/-- A word that a read of entry n brought; one of a weight load, or of the setup, where `load`. -/
def qGot (p : Nat) (u : QUnit) (n : Nat) (load : Bool) (w d : Nat) (s : State) : State :=
  qMod p u n (fun e => if load then { e with load := e.load ++ [(w, d)] } else { e with got := e.got ++ [(w, d)] }) s

/-- The byte at physical offset off in words that reads brought. -/
def gotByte (ws : List (Nat × Nat)) (off : Nat) : Nat :=
  match ws.find? (fun x => x.1 == off / 8) with
  | some x => x.2 / 2 ^ (8 * (off % 8)) % 256
  | none => 0

/-- Free the entry with dispatch number n: its operation completes (R139). -/
def qFree (p : Nat) (u : QUnit) (n : Nat) (s : State) : State :=
  coreMod p (fun c => qPut u ((qGet c u).filter (fun e => e.disp != n)) { c with
    reqs := c.reqs.filter (fun r => r.ent != n || r.cls == 2), xtodo := if u = .x then c.xtodo.filter (fun r => r.ent != n) else c.xtodo }) s

/-- The first entry not started. -/
def qNext (s : State) (p : Nat) (u : QUnit) : Option QEnt := (qGet (coreGet s p) u).find? (fun e => !e.started)

/-- The entry with a dispatch number. -/
def qFind (s : State) (p : Nat) (u : QUnit) (n : Nat) : Option QEnt := (qGet (coreGet s p) u).find? (fun e => e.disp == n)

/-- The opcode of an entry's slot. -/
def QEnt.op (e : QEnt) : Nat := natBits e.slot 63 56

/-- Nothing is queued in any unit of core p. -/
def queuesEmpty (s : State) (p : Nat) : Bool :=
  (coreGet s p).qm.isEmpty && (coreGet s p).qv.isEmpty && (coreGet s p).qx.isEmpty

/-- The core is idle (R61): all tasks halted, all queues empty. -/
def coreIdle (s : State) (p : Nat) : Bool :=
  (List.range 4).all (fun t => taskState s p t == 0) && queuesEmpty s p

end Sys2Proof.Machine
end

