-- ==== Sys2Proof/Machine/Stream.lean ====
section
/-! DEFINITION. Stream contexts (spec/10_drover.md): their registers, the walk, arming, halting, buffers, chunks, re-arm. A
context is named by g: 32 pcore_id + k for a core's, 131,072 + 16,384 d + k for M die 8 + d's. -/

namespace Sys2Proof.Machine

/-- g is a far context. -/
def ctxFar (g : Nat) : Bool := 131072 ≤ g

/-- The field of a context: the field and the instance it is in. -/
def ctxF (f : Fld) (g : Nat) : Fld := if ctxFar g then (f.on .drvF).ix ((g - 131072) % 16384) else f.ix (g % 32)
def ctxInst (g : Nat) : Nat := if ctxFar g then (g - 131072) / 16384 else g / 32

/-- Read and write a field of a context, and its value in effect. -/
def crd (s : State) (f : Fld) (g : Nat) : Nat := rd s (ctxF f g) (ctxInst g)
def cwr (f : Fld) (g v : Nat) (s : State) : State := wr (ctxF f g) (ctxInst g) v s
def ceff (s : State) (f : Fld) (g : Nat) : Nat := eff s (ctxF f g) (ctxInst g)
def cbump (f : Fld) (g : Nat) (s : State) : State := bump (ctxF f g) (ctxInst g) s

/-- What a context holds beside its registers. -/
def ctxGet (s : State) (g : Nat) : Ctx := mapGet ctxReset s.ctxs g
def ctxMod (g : Nat) (h : Ctx → Ctx) (s : State) : State := { s with ctxs := mapSet ctxReset s.ctxs g (h (ctxGet s g)) }

/-- The context k of unit u: logical core u, or from 2,048 on M die 8 + u - 2,048. -/
def ctxOf (s : State) (u k : Nat) : Nat :=
  if u < 2048 then 32 * pcore s u + k % 32 else 131072 + 16384 * ((u - 2048) % 2) + k % 16384

/-- Drover time T (R302). -/
def droverT (s : State) : Nat := s.leaCyc % 2 ^ 32

/-- The deadline of a packet that has none (R349). -/
def noDeadline (s : State) : Nat := (droverT s + 0xFFFFFF) % 2 ^ 32

/-- A Tally packet sets out. -/
def tlyPush (k : TPkt) (s : State) : State := { s with tlyQ := s.tlyQ ++ [{ k with dl := noDeadline s }] }

/-- Lea cycles go on to cycle t. -/
def atCycle (t : Nat) (s : State) : State := { s with leaCyc := Nat.max s.leaCyc t }

/-- The logical core of a core context. -/
def ctxCore (s : State) (g : Nat) : Option Nat := if ctxFar g then none else lcore s (g / 32)

/-- The paddock that owns a context. -/
def ctxPdk (s : State) (g : Nat) : Option Nat :=
  if ctxFar g then brandPdk (rd s (GAT_FAR_owner.ix ((g - 131072) % 16384 / 64)) (8 + (g - 131072) / 16384))
  else pcorePdk s (g / 32)

/-- The brand of a context's requests: its paddock's; the PF's where it is in none (DEDUCED, log 19). -/
def ctxBrand (s : State) (g : Nat) : Nat :=
  match ctxPdk s g with
  | some n => pdkBrand n
  | none => 1

/-- The root it translates through (R373). -/
def ctxRoot (s : State) (g : Nat) : Nat := (ctxPdk s g).getD 64

/-- The die a context stands on. -/
def ctxDie (g : Nat) : Nat := if ctxFar g then 8 + (g - 131072) / 16384 else g / 32 / 0x200

/-- The global index (R301). -/
def gidxOf (s : State) (g : Nat) : Nat :=
  if ctxFar g then 65536 + (g - 131072)
  else match ctxCore s g with
    | some c => c * 32 + g % 32
    | none => 0x1FFFF

/-! ### The walk (R303) -/

def ctxEs (s : State) (g : Nat) : Nat := 2 ^ crd s DRV_CTXCFG_esz g
def ctxN (s : State) (g k : Nat) : Nat :=
  if k = 0 then crd s DRV_SHAPE_n0 g else if k = 1 then crd s DRV_SHAPE_n1 g
  else if k = 2 then crd s DRV_SHAPE_n2 g else crd s DRV_SHAPE_n3 g

/-- Stride of dimension k = 1, 2, 3: a signed 48-bit value. -/
def ctxStride (s : State) (g k : Nat) : Int :=
  let f := if ctxFar g then { DRV_STRIDE_stride with blk := .drvF, off := DRV_STRIDE_stride.off + ((g - 131072) % 16384) * 0x80 + 8 * (k - 1) }
           else { DRV_STRIDE_stride with off := DRV_STRIDE_stride.off + g % 32 * 0x80 + 8 * (k - 1) }
  sext 48 (rd s f (ctxInst g))

/-- Elements and bytes of the stream, chunk size, chunk count. -/
def ctxElems (s : State) (g : Nat) : Nat := ctxN s g 0 * ctxN s g 1 * ctxN s g 2 * ctxN s g 3
def ctxS (s : State) (g : Nat) : Nat := ctxElems s g * ctxEs s g
def ctxBsize (s : State) (g : Nat) : Nat := crd s DRV_BUF_bsize g
def ctxC (s : State) (g : Nat) : Nat := ceilDiv (ctxS s g) (ctxBsize s g)

/-- The stream byte after chunk k. -/
def chunkEnd (s : State) (g k : Nat) : Nat := Nat.min ((k + 1) * ctxBsize s g) (ctxS s g)

/-- The element indices of stream byte b. -/
def ctxIdx (s : State) (g b : Nat) : Nat × Nat × Nat × Nat :=
  let e := b / ctxEs s g
  let a := if ctxN s g 0 = 0 then 0 else e / ctxN s g 0
  let c := if ctxN s g 1 = 0 then 0 else a / ctxN s g 1
  (e % ctxN s g 0, a % ctxN s g 1, c % ctxN s g 2, if ctxN s g 2 = 0 then 0 else c / ctxN s g 2)

/-- The address of stream byte b of the walk. -/
def ctxAddr (s : State) (g b : Nat) : Int :=
  let i := ctxIdx s g b
  (ceff s DRV_BASE_va g : Int) + (i.1 * ctxEs s g + b % ctxEs s g : Nat) + i.2.1 * ctxStride s g 1 +
    i.2.2.1 * ctxStride s g 2 + i.2.2.2 * ctxStride s g 3

/-- The lowest and the highest byte of the walk. -/
def walkLo (s : State) (g : Nat) : Int :=
  let term (k : Nat) : Int := if ctxStride s g k < 0 then ((ctxN s g k : Int) - 1) * ctxStride s g k else 0
  (ceff s DRV_BASE_va g : Int) + term 1 + term 2 + term 3
def walkHi (s : State) (g : Nat) : Int :=
  let term (k : Nat) : Int := if 0 < ctxStride s g k then ((ctxN s g k : Int) - 1) * ctxStride s g k else 0
  (ceff s DRV_BASE_va g : Int) + term 1 + term 2 + term 3 + (ctxN s g 0 * ctxEs s g : Nat) - 1

/-! ### Arming (R305) -/

/-- The states of a context. -/
def ctxState (s : State) (g : Nat) : Nat := crd s DRV_CTXSTAT_state g
def ctxUnarmed : Nat := 0
def ctxArmed : Nat := 1
def ctxHalted : Nat := 2

/-- arm_err 3: a base, stride, buffer or chunk size off its alignment. -/
def armMisaligned (s : State) (g : Nat) : Bool :=
  let es := ctxEs s g
  let b := ctxBsize s g
  let unit := if ctxFar g then 512 else 32
  ceff s DRV_BASE_va g % es != 0 || [1, 2, 3].any (fun k => ctxStride s g k % (es : Int) != 0) ||
    b % unit != 0 || b < unit || 524288 < b ||
    (if ctxFar g then ceff s DRV_DBASE_va g % es != 0
     else crd s DRV_BUF_ping g % 32 != 0 || crd s DRV_BUF_pong g % 32 != 0)

/-- arm_err 4: a buffer beyond the task's bound, or the two overlap. -/
def armBuffers (s : State) (g : Nat) : Bool :=
  let b := ctxBsize s g
  let ping := crd s DRV_BUF_ping g
  let pong := crd s DRV_BUF_pong g
  let bound := taskBound s (g / 32) (crd s DRV_CTXCFG_task g)
  !ctxFar g && (bound < ping + b || bound < pong + b || (ping < pong + b && pong < ping + b))

/-- arm_err 5: a byte of the walk or of the destination outside the address space. -/
def armOutside (s : State) (g : Nat) : Bool :=
  decide (walkLo s g < 0) || decide ((2 ^ 48 : Int) ≤ walkHi s g) ||
    (ctxFar g && 2 ^ 48 < ceff s DRV_DBASE_va g + ctxS s g)

/-- The arm check's result, 0 where every check passes (R305). Fields that a kind of context does not use count as reserved
(DEDUCED, log 19). -/
def armCheck (s : State) (g : Nat) : Nat :=
  if ctxState s g ≠ ctxUnarmed then 1
  else if [0, 1, 2, 3].any (fun k => ctxN s g k == 0) ||
      (if ctxFar g then crd s DRV_BUF_ping g != 0 || crd s DRV_BUF_pong g != 0 else ceff s DRV_DBASE_va g != 0) ||
      0xFFFFFFFF < ctxC s g then 2
  else if armMisaligned s g then 3
  else if armBuffers s g then 4
  else if armOutside s g then 5
  else if ctxFar g && (crd s DRV_CTXCFG_dir g != 0 || crd s DRV_CTXCFG_task g != 0) then 6
  else 0

/-- Position, chunk counters, buffers and T_arm start anew (R305, R331). -/
def ctxRestart (g : Nat) (s : State) : State :=
  cwr DRV_CTXSTAT_ended g 0 (cwr DRV_CTXSTAT_phase g 0 (cwr DRV_CTXSTAT_buf0 g 0 (cwr DRV_CTXSTAT_buf1 g 0
    (cwr DRV_DONE_done g 0 (cwr DRV_POS_i0 g 0 (cwr DRV_POS_i1 g 0 (cwr DRV_POS_i2 g 0 (cwr DRV_POS_i3 g 0
      (ctxMod g (fun c => { c with pos := 0, rel := 0, reading := 0, waitPage := [], tArm := droverT s }) s)))))))))

/-- DRV_CTL.arm (R305). -/
def armCtx (g : Nat) (s : State) : State :=
  let e := armCheck s g
  let s1 := cwr DRV_CTXSTAT_arm_err g e s
  if e ≠ 0 then s1
  else
    let base := if ctxFar g then 0 else taskBase s (g / 32) (crd s DRV_CTXCFG_task g)
    ctxMod g (fun c => { c with ping := base + crd s DRV_BUF_ping g, pong := base + crd s DRV_BUF_pong g, stopped := false, used := true })
      (cwr DRV_CTXSTAT_state g ctxArmed (ctxRestart g s1))

/-! ### Requests of a context in flight -/

/-- The context and the first stream byte of a request. -/
def xactCtx (x : Xact) : Option (Nat × Nat) :=
  match x.ret with
  | .drvRead g o => some (g, o)
  | .drvWrite g o => some (g, o)
  | _ => none

/-- x is a request of context g. -/
def xactOf (g : Nat) (x : Xact) : Bool :=
  match xactCtx x with
  | some (h, _) => h == g
  | none => false

/-- x has not left Pasture entry. -/
def atEntry (x : Xact) : Bool := [0, 1, 5, 9, 10].contains x.stage

/-- The read of a table entry that request x waits for: brand 0x01, with no deadline of its own (R349, R376). -/
def tabRead (x : Xact) : Xact :=
  { x with wr := false, brand := 1, gidx := 0x1FFFF, pa := x.tab, len := 8, data := [], pf := [], host := false, stale := false,
           deadline := x.tabDl, stage := x.stage - 8, inv := false, invTags := [], ret := .none }

/-- The packet of request x that competes for admission and service: the read of a table entry while it walks. -/
def pktOf (x : Xact) : Xact := if x.stage = 9 ∨ x.stage = 10 then tabRead x else x

/-- What is left of a request that is cancelled at its entry: the read of a table entry that has left, whose response finds no
tag (R124). -/
def cancelled (x : Xact) : List Xact := if x.stage = 10 then [tabRead x] else []

/-- ATS Invalidate Completions that no request delays any longer are sent (R384). -/
def atsInvSend (s : State) : State :=
  let done := s.atsInv.filter (fun t => !s.fab.any (fun x => x.invTags.contains t))
  done.foldl (fun s t => emit .invComplete [t] s) { s with atsInv := s.atsInv.filter (fun t => !done.contains t) }

/-- The requests that a test names are cancelled. -/
def fabCancel (p : Xact → Bool) (s : State) : State :=
  atsInvSend { s with fab := s.fab.flatMap (fun x => if p x then cancelled x else [x]) }

/-- Requests outstanding (R309). -/
def ctxOutst (s : State) (g : Nat) : Nat := (s.fab.filter (xactOf g)).length + b2n ((ctxGet s g).reading != 0)

/-- Show outst, the position and the phase. -/
def ctxShow (g : Nat) (s : State) : State :=
  let c := ctxGet s g
  let i := ctxIdx s g c.pos
  let b := ctxBsize s g
  cwr DRV_CTXSTAT_outst g (ctxOutst s g) (cwr DRV_CTXSTAT_phase g (if b = 0 then 0 else c.pos / b % 2)
    (cwr DRV_POS_i0 g i.1 (cwr DRV_POS_i1 g i.2.1 (cwr DRV_POS_i2 g i.2.2.1 (cwr DRV_POS_i3 g i.2.2.2 s)))))

/-! ### Halt and resume (R323, R324, R328) -/

/-- The first stream byte of the earliest request that has not left Pasture entry. -/
def haltPos (s : State) (g : Nat) : Nat :=
  let c := ctxGet s g
  let from_ := if c.reading = 0 then c.pos else c.pos - c.reading
  s.fab.foldl (fun m x => match xactCtx x with
    | some (h, o) => if h = g ∧ atEntry x then Nat.min m o else m
    | none => m) from_

/-- Requests of context g from position pos on do not go on: those at Pasture entry are cancelled, the data of a far context's
reads that have left is not used (R323, R335, R337). -/
def cancelFrom (g pos : Nat) (s : State) : State :=
  let s1 := fabCancel (fun x => match xactCtx x with
    | some (h, o) => h == g && atEntry x && pos ≤ o
    | none => false) s
  { s1 with fab := s1.fab.map (fun x => match x.ret with
      | .drvRead h o => if h = g ∧ ctxFar g ∧ pos ≤ o then { x with stale := true } else x
      | _ => x) }

/-- A context halts at a position. One that is Halted already, and whose earlier requests meet a fault or a refusal, moves its
position back to them and keeps the cause it halted for (R323, R328; log 113). -/
def haltCtx (g cause pos : Nat) (s : State) : State :=
  if ctxState s g = ctxArmed then
    ctxShow g (cwr DRV_CTXSTAT_state g ctxHalted (cwr DRV_CTXSTAT_halt_cause g cause
      (ctxMod g (fun c => { c with pos := pos, reading := 0 }) (cancelFrom g pos s))))
  else if ctxState s g = ctxHalted ∧ pos < (ctxGet s g).pos then
    ctxShow g (ctxMod g (fun c => { c with pos := pos, reading := 0 }) (cancelFrom g pos s))
  else s

/-- A command, or a crook stop, halts the context (R323, R647). -/
def haltByCommand (g : Nat) (s : State) : State := haltCtx g 1 (haltPos s g) s

/-- The state after the last chunk: a context that is not persistent, Armed or Halted, becomes Unarmed, a persistent one is at its
end (R329). -/
def endCheck (g : Nat) (s : State) : State :=
  let c := ctxC s g
  if ctxState s g ≠ ctxUnarmed ∧ crd s DRV_DONE_done g = c ∧
      (ctxFar g ∨ crd s DRV_CTXCFG_dir g = 1 ∨ (ctxGet s g).rel = c) then
    (if crd s DRV_CTXCFG_persistent g = 1 then cwr DRV_CTXSTAT_ended g 1 s else cwr DRV_CTXSTAT_state g ctxUnarmed s)
  else s

/-- A resume moves a Halted context to Armed (R324). -/
def resumeCtx (g : Nat) (s : State) : State :=
  if ctxState s g = ctxHalted then
    endCheck g (cwr DRV_CTXSTAT_state g ctxArmed (ctxMod g (fun c => { c with waitPage := [], byCrook := false }) s))
  else s

/-! ### Buffers and chunks (R311-R313) -/

/-- State of the buffer of parity b. -/
def bufState (s : State) (g b : Nat) : Nat := crd s (if b % 2 = 0 then DRV_CTXSTAT_buf0 else DRV_CTXSTAT_buf1) g
def setBuf (g b v : Nat) (s : State) : State := cwr (if b % 2 = 0 then DRV_CTXSTAT_buf0 else DRV_CTXSTAT_buf1) g v s

/-- Physical offset of the buffer of chunk k. -/
def bufOff (s : State) (g k : Nat) : Nat := if k % 2 = 0 then (ctxGet s g).ping else (ctxGet s g).pong

/-- The consumer or producer buffer is ready (R313). -/
def ctxReady (s : State) (g : Nat) : Bool :=
  let k := (ctxGet s g).rel
  k < ctxC s g && bufState s g k == (if crd s DRV_CTXCFG_dir g = 0 then 2 else 0)

/-- A release (R313). -/
def releaseCtx (g : Nat) (s : State) : State :=
  if ctxReady s g then
    let k := (ctxGet s g).rel
    endCheck g (setBuf g k (if crd s DRV_CTXCFG_dir g = 0 then 0 else 2) (ctxMod g (fun c => { c with rel := k + 1 }) s))
  else s

/-- The context signals its Tally counter (R312). -/
def ctxSignal (g : Nat) (s : State) : State :=
  if crd s DRV_SIG_en g = 1 then
    tlyPush { op := 0, unit := if crd s DRV_SIG_k0 g = 1 then 11 else crd s DRV_SIG_die g, idx := crd s DRV_SIG_index g, val := 1,
              cond := 0, extra := [], brand := ctxBrand s g, die := ctxDie g, ret := [2, g] } s
  else s

/-- Chunk k is complete: every byte was requested, and no request of one stands (R311). -/
def chunkDone (s : State) (g k : Nat) : Bool :=
  let e := chunkEnd s g k
  let c := ctxGet s g
  e ≤ c.pos && (c.reading == 0 || e ≤ c.pos - c.reading) &&
    !s.fab.any (fun x => match xactCtx x with
      | some (h, o) => h == g && o < e
      | none => false)

/-- Complete chunks in ascending order (R312). -/
def chunkAdvance (g : Nat) : Nat → State → State
  | 0, s => s
  | n + 1, s =>
    let k := crd s DRV_DONE_done g
    if k < ctxC s g ∧ chunkDone s g k then
      let s1 := cwr DRV_DONE_done g (k + 1) s
      let s2 := if ctxFar g then s1 else setBuf g k (if crd s DRV_CTXCFG_dir g = 0 then 2 else 0) s1
      chunkAdvance g n (endCheck g (ctxSignal g s2))
    else s

/-- After an answer: what completes, and what the status shows. -/
def ctxProgress (g : Nat) (s : State) : State :=
  ctxShow g (chunkAdvance g ((ctxGet s g).pos / ctxBsize s g + 1 - crd s DRV_DONE_done g) s)

/-! ### Re-arm (R331, R332) -/

/-- Forget the pending value of a Rearm-class register: the written one takes effect. -/
def rearmTake (f : Fld) (g : Nat) (s : State) : State :=
  { s with rearmPend := mapErase s.rearmPend (regKey (ctxF f g).blk (ctxInst g) (ctxF f g).off) }

/-- A re-arm request (R331, R332). -/
def rearmRequest (g : Nat) (s : State) : State :=
  if crd s DRV_CTXCFG_persistent g = 0 ∨ ctxState s g = ctxUnarmed then cwr DRV_CTXSTAT_arm_err g 7 s
  else if crd s DRV_CTXSTAT_rearm_req g = 1 then cbump DRV_MERGE_count g s
  else cwr DRV_CTXSTAT_rearm_req g 1 (cwr DRV_CTXSTAT_arm_err g 0 s)

/-- The re-arm takes effect (R331). -/
def rearmEffect (g : Nat) (s : State) : State :=
  if crd s DRV_CTXSTAT_rearm_req g = 1 ∧ crd s DRV_CTXSTAT_ended g = 1 ∧ ctxState s g = ctxArmed then
    cwr DRV_CTXSTAT_rearm_req g 0 (ctxRestart g (rearmTake DRV_BASE_va g (rearmTake DRV_DBASE_va g s)))
  else s

/-! ### Fault records (R326) -/

/-- A stream fault record: address, code, halted, status, chunk and length of the request (R326). -/
def streamFault (g va code status len : Nat) (halted : Bool) (s : State) : State :=
  let c := ctxGet s g
  let i := ctxIdx s g c.pos
  let b := ctxBsize s g
  let k := if b = 0 then 0 else c.pos / b
  let w1 := va % 2 ^ 48 + code * 2 ^ 48 + b2n halted * 2 ^ 56 + status % 8 * 2 ^ 57
  let w2 := gidxOf s g + k % 2 * 2 ^ 17 + crd s DRV_CTXCFG_dir g * 2 ^ 18 + b2n (ctxFar g) * 2 ^ 19 +
    crd s DRV_CTXCFG_task g * 2 ^ 20
  let w3 := i.1 + i.2.1 * 2 ^ 16 + i.2.2.1 * 2 ^ 32 + i.2.2.2 * 2 ^ 48
  let s1 := faultRecord (fnOfPdk (ctxPdk s g)) 0x20 (ctxDie g) [w1, w2, w3, k + len % 1024 * 2 ^ 32] (cbump DRV_FCNT_count g
    (if halted then ctxMod g (fun c => { c with code := code }) s else s))
  if code = 5 then
    match ctxPdk s g with
    | some n => epochFailure n 3 (match ctxCore s g with | some c => relIndex s n c | none => 0x7FF) s1
    | none => s1
  else s1

end Sys2Proof.Machine
end

