-- ==== Sys2Proof/Machine/Regather.lean ====
section
/-! DEFINITION. The start of a regather: steps G0 to G2 in one (spec/04_paddocks.md R111, R112, R114, R121), which every
trigger shares; what a stop of a paddock's work does (R112 G2, R516 Q1, R647 K2). -/

namespace Sys2Proof.Machine

/-- What the mesh of paddock n holds. -/
def meshGet (s : State) (n : Nat) : MeshP := mapGet meshReset s.meshes n

/-- Change what the mesh of paddock n holds. -/
def meshMod (n : Nat) (g : MeshP → MeshP) (s : State) : State :=
  { s with meshes := mapSet meshReset s.meshes n (g (meshGet s n)) }

/-- The physical cores of paddock n, by paddock-relative index. -/
def pdkPcores (s : State) (n : Nat) : List Nat := (pdkCores s n).map (pcore s)

/-- The column of a physical core. -/
def pcol (p : Nat) : Nat := p / 0x200 * 16 + p / 0x20 % 16

/-- What Muster keeps of core p; the core is under a test. -/
def mcoreGet (s : State) (p : Nat) : MCore := mapGet mcoreReset s.mcores p
def underTest (s : State) (p : Nat) : Bool := (mcoreGet s p).test != 0

/-- A column whose state moves to its new cores. -/
def colShifting (s : State) (c : Nat) : Bool := s.repairs.any (fun r => r.stage == 3 && pcol r.p == c)

/-- Every context of paddock n that something is known of: those of its cores, and far contexts it owns. -/
def pdkCtxs (s : State) (n : Nat) : List Nat := (s.ctxs.map (fun x => x.1)).filter (fun g => ctxPdk s g == some n)

/-- Halt every task of core p that is not halted (R130). -/
def haltTasks (p reason : Nat) (s : State) : State :=
  (List.range 4).foldl (fun s t => if taskState s p t = 0 then s else haltTask p t reason s) s

/-- Abandon the macro-operations of core p, queued and executing, and checks not reported (R112 G2, R161, R191, R233). Class P
requests of the fabric stay. -/
def dropOps (p : Nat) (s : State) : State :=
  wr LEA_MSTAT_busy p 0 (wr LEA_VSTAT_busy p 0
    (coreMod p (fun c =>
      { c with qm := [], qv := [], qx := [], checks := [], injRead := [], xtodo := [], reqs := c.reqs.filter (fun r => r.cls == 2) }) s))

/-- Contexts of paddock n stop forming requests; requests at Pasture entry are cancelled (R334). -/
def stopCtxs (n : Nat) (s : State) : State :=
  let gs := pdkCtxs s n
  gs.foldl (fun s g => ctxShow g (ctxMod g (fun c => { c with stopped := true, reading := 0 }) s))
    (fabCancel (fun x => match xactCtx x with
        | some (g, _) => atEntry x && gs.contains g
        | none => false) s)

/-- A class-P access that a stream's request made. -/
def streamAcc (a : PAcc) : Bool := match a.ret with
  | .stream _ _ _ => true
  | _ => false

/-- The class-P accesses of streams at core p are given up: they write nothing more and bring nothing (R113, R334). -/
def dropStreamAccs (p : Nat) (s : State) : State :=
  coreMod p (fun c =>
    let ids := (c.paccs.filter streamAcc).map (fun a => a.id)
    { c with paccs := c.paccs.filter (fun a => !streamAcc a), reqs := c.reqs.filter (fun r => !(r.cls == 2 && ids.contains r.ent)) }) s

/-- A read of a paddock that has not written its data. -/
def readOut (n : Nat) (x : Xact) : Bool := !x.wr && x.brand == pdkBrand n && x.ret != .none

/-- What is left of an abandoned read: one that has left its entry is answered to nobody (R113, R124). -/
def abandoned (x : Xact) : List Xact :=
  if x.stage = 2 ∨ x.stage = 3 then [{ x with ret := .none, invTags := [] }] else cancelled x

/-- Reads of the paddock that are outstanding are abandoned: their responses find no tag, and what has arrived is written nowhere
(R112, R113, R124, R516). -/
def dropReads (n : Nat) (s : State) : State :=
  (pdkPcores s n).foldl (fun s p => dropStreamAccs p s)
    (atsInvSend { s with fab := s.fab.flatMap (fun x => if readOut n x then abandoned x else [x]) })

/-- Standing waits of the paddock's cores are withdrawn (R440), and waits on their way. -/
def dropWaits (n : Nat) (s : State) : State :=
  let mine (r : List Nat) : Bool := match r with
    | [1, p, _] => pcorePdk s p == some n
    | _ => false
  { s with tlyWaits := s.tlyWaits.filter (fun w => !mine w.ret), tlyQ := s.tlyQ.filter (fun k => !(k.op == 1 && mine k.ret)) }

/-- Longtrack packets of the paddock's cores and contexts stay outstanding; the completions they would have raised are dropped
(R710). -/
def dropRets (n : Nat) (s : State) : State :=
  { s with ltkQ := s.ltkQ.map (fun k => match k.ret with
      | [1, p, _] => if pcorePdk s p = some n then { k with ret := [0] } else k
      | [2, g, _] => if ctxPdk s g = some n then { k with ret := [0] } else k
      | _ => k) }

/-- The work of paddock n stops (R112 G2, R516 Q1): tasks halt with `reason`, operations are abandoned, contexts stop. -/
def stopWork (n reason : Nat) (s : State) : State :=
  dropRets n (dropWaits n (stopCtxs n ((pdkPcores s n).foldl (fun s p => dropOps p (haltTasks p reason s)) s)))

/-- The partner paddock of a local watch pair. -/
def localPartner (s : State) (n : Nat) : Option Nat :=
  if rdB s PDK_WPCFG_en n && !rdB s PDK_WPCFG_remote n then some (rd s PDK_WPCFG_partner n) else none

/-- The failover notice of an active paddock (R521): to the standby on this package, or out on the route. -/
def failoverNotice (n : Nat) (s : State) : State :=
  if rdB s PDK_WPCFG_en n && rd s PDK_WPCFG_role n == 0 then
    (match localPartner s n with
     | some m => pdkMod m (fun x => { x with failDue := true }) s
     | none => emit .frame [rd s PDK_WPCFG_route n, 0x10] s)
  else s

/-- A standby of this package that regathers leaves its active paddock degraded: copies stop (R525). -/
def standbyFails (n : Nat) (s : State) : State :=
  if rdB s PDK_WPCFG_role n && rd s PDK_WPSTAT_state n != 0 then
    (match localPartner s n with
     | some m => wr PDK_WPSTAT_state m 3 s
     | none => s)
  else s

/-- Held outputs of paddock n are discarded (R518). -/
def dropHeld (n : Nat) (s : State) : State :=
  wr PDK_EPSTAT_hold_used n 0 { s with held := s.held.filter (fun h => h.n != n) }

/-- No entry of function f executes, and none waits for its completion ring or for a buffer. -/
def ringsIdle (f : Nat) (s : State) : State :=
  iter 8 (fun k s =>
    wr (HST_RSTAT_running.ix2 f k) 0 0 (wr (HST_RSTAT_cq_wait.ix2 f k) 0 0 (wr (HST_RSTAT_stage_wait.ix2 f k) 0 0
      { s with hrings := mapSet hringReset s.hrings (8 * f + k) { mapGet hringReset s.hrings (8 * f + k) with since := 0 } }))) s

/-- H0 abandons the executing entries of the VF and withdraws its host waits (R675). -/
def dropHostWork (f : Nat) (s : State) : State :=
  let mine (r : List Nat) : Bool := match r with
    | 3 :: g :: _ => g == f
    | _ => false
  ringsIdle f { s with hostEnts := s.hostEnts.filter (fun h => h.f != f), tlyWaits := s.tlyWaits.filter (fun w => !mine w.ret),
                       tlyQ := s.tlyQ.filter (fun k => !mine k.ret) }

/-- The Fold loader's work for paddock n. -/
def foldGet (s : State) (n : Nat) : FoldJ := mapGet foldReset s.folds n
def foldMod (n : Nat) (g : FoldJ → FoldJ) (s : State) : State := { s with folds := mapSet foldReset s.folds n (g (foldGet s n)) }

/-- FLD_PSTAT busy and activity follow the job; background golden writing is the activity when nothing else is (R490). -/
def foldShow (n : Nat) (s : State) : State :=
  let j := foldGet s n
  let bg := j.has && !rdB s (FLD_PSTAT_golden_done.ix n) 0
  let act := if j.job = 1 ∨ j.job = 2 then 2 else if j.job = 3 then 1 else if j.job = 4 then 3 else if j.job = 5 then 4
    else if j.job = 6 then 5 else if bg then 6 else 0
  wr (FLD_PSTAT_activity.ix n) 0 act (wr (FLD_PSTAT_busy.ix n) 0 (b2n (act != 0)) s)

/-- At G0 a load or a swap is abandoned, and so is a section start that was scheduled; a swap that a closed window had deferred goes with
them (R122, R500, R505, R550). -/
def foldAbandon (n : Nat) (s : State) : State :=
  foldShow n (foldMod n (fun j => if j.job = 3 then j else { j with job := 0, after := 0, has := j.has && !j.written.isEmpty })
    (pdkMod n (fun x => { x with mwin := if x.mwin = 3 then 0 else x.mwin })
      (unschedule 0x20 n (unschedule 0x21 n (unschedule 0x22 n (unschedule 0x23 n s))))))

/-- The share change that an entry of class 0x11 stood for is discarded with its write (R63, R118). -/
def shareDiscard (n : Nat) (s : State) : State :=
  match mapFind s.bellPend (regKey .pdk n PDK_RSHARE_min.off) with
  | some _ => unschedule 0x11 n s
  | none => s

/-- Discard pending Bell-class and Rearm-class writes of the registers a test names: they keep the value last in effect (R63). -/
def discardPending (own : Nat → Bool) (s : State) : State :=
  let back (s : State) (e : Nat × Word) : State := { s with regs := mapSet (regDefault e.1) s.regs e.1 e.2 }
  let mine (m : SMap Word) : SMap Word := m.filter (fun e => own e.1)
  let s1 := (mine s.bellPend ++ mine s.rearmPend).foldl back s
  { s1 with bellPend := s1.bellPend.filter (fun e => !own e.1), rearmPend := s1.rearmPend.filter (fun e => !own e.1),
            bellLate := s1.bellLate.filter (fun e => !own e.1) }

/-- A register key that belongs to paddock n: its PDK_ instance, its cores' instances, the far contexts it owns (R63). -/
def pdkKey (s : State) (n : Nat) (key : Nat) : Bool :=
  let i := key / 0x800000 % 65536
  match blkOfCode (key / 0x800000 / 65536) with
  | .pdk => i == n
  | .lea | .msh | .drvC | .whs | .ftf => pcorePdk s i == some n
  | .drvF => rd s (GAT_FAR_owner.ix (key % 0x800000 / 0x2000)) (8 + i) == pdkBrand n
  | _ => false

/-- The gates of paddock n close: packets on their way left their entry before (R112, R385). -/
def gatesClose (n : Nat) (s : State) : State :=
  { s with tlyQ := s.tlyQ.map (fun k => { k with g1 := n :: k.g1 }), whsQ := s.whsQ.map (fun k => { k with g1 := n :: k.g1 }),
           byrQ := s.byrQ.map (fun k => { k with g1 := n :: k.g1 }) }

/-- Nothing that left its entry before the gates of paddock n closed is still on its way. -/
def gatesDrained (n : Nat) (s : State) : State :=
  let cut (l : List Nat) : List Nat := l.filter (· != n)
  { s with tlyQ := s.tlyQ.map (fun k => { k with g1 := cut k.g1 }), whsQ := s.whsQ.map (fun k => { k with g1 := cut k.g1 }),
           byrQ := s.byrQ.map (fun k => { k with g1 := cut k.g1 }) }

/-- Steps G0 to G2 (R112); an image whose load had not been recorded in the golden copy is not held (R122): the state, the closed gate, the notice and the fault record, the stopped work. Cause 5 leads to
Free, cause 1 is an FLR. -/
def regatherBegin (n cause : Nat) (s : State) : State :=
  let img := (foldGet s n).has && !(foldGet s n).written.isEmpty
  let s0 := gatesClose n (discardPending (pdkKey s n) (shareDiscard n (foldAbandon n s)))
  let s1 := wr PDK_STATUS_state n 4 (wr PDK_STATUS_cause n cause (wr PDK_STATUS_merged n 0
    (bump PDK_REGCNT_count n (wr PDK_FSEQ_seq n (rd s0 PDK_FSEQ_seq n + 1) (wr PDK_FINFO_valid n 0 s0)))))
  let s2 := pdkMod n (fun x => { x with step := 2, t0 := s.now, tick0 := curTick s, delete := cause == 5, flr := cause == 1,
                                        hadImage := img, gateOpen := false, epFailed := 0, epAbandoned := false }) s1
  let s3 := faultRecord (n + 1) 0x18 11 [cause + rd s2 PDK_FSEQ_seq n * 2 ^ 32] (pdkNotice n 1 s2)
  let s4 := flockEvent 0x0220 11 n cause (rd s3 PDK_FSEQ_seq n) 0 (countLife 6 1 (dropHeld n (wr PDK_EPSTAT_drain n 0 (wr PDK_EPSTAT_phase n 0 (standbyFails n (failoverNotice n s3))))))
  meshMod n (fun m => { m with hRegather := true }) (dropHostWork (n + 1) (stopWork n 5 s4))

/-- A trigger of a regather of paddock n (R111, R121): a second one is merged. A Free paddock has none. -/
def regatherStart (n cause : Nat) (s : State) : State :=
  if pdkState s n = 0 then s
  else if pdkState s n = 4 then
    wr PDK_STATUS_merged n 1 (pdkMod n (fun x => { x with flr := x.flr || cause == 1, delete := x.delete || cause == 5 }) s)
  else regatherBegin n cause s

end Sys2Proof.Machine
end

