-- ==== Sys2Proof/Machine/Outputs.lean ====
section
/-! DEFINITION. Outputs of a paddock: the hold region of integrity mode (spec/16_integrity.md R508, R509) and Longtrack packets
on routes and paths (spec/22_longtrack.md R698-R704). Route r lies in instance r div 256, path j in instance j div 32. -/

namespace Sys2Proof.Machine

/-! ### The hold region -/

/-- Space in use by the held outputs of paddock n. -/
def holdUsed (s : State) (n : Nat) : Nat := (s.held.filter (fun h => h.n == n)).foldl (fun a h => a + h.space) 0

/-- PDK_EPSTAT.hold_used: 64 KiB units, rounded up. -/
def holdShow (n : Nat) (s : State) : State := wr PDK_EPSTAT_hold_used n (ceilDiv (holdUsed s n) 65536) s

/-- An output of space `space` finds room. -/
def holdFits (s : State) (n space : Nat) : Bool := holdUsed s n + space ≤ rd s PDK_EPHLEN_units n * 65536

/-- An output is appended to the hold region (R508, R509). -/
def holdOut (n kind : Nat) (args data : List Nat) (space : Nat) (s : State) : State :=
  let h : Hold := { n := n, epoch := rd s PDK_EPOCH_epoch n, kind := kind, args := args, data := data, space := space }
  holdShow n { s with held := s.held ++ [h] }

/-- A held output that finds no space while no committed drain runs regathers the paddock with cause 8 (R509). -/
def holdStuck (n : Nat) (s : State) : State := if rdB s PDK_EPSTAT_drain n then s else regatherStart n 8 s

/-- Space of a held write or packet of `len` bytes (R509). -/
def holdSpace (len : Nat) : Nat := 64 + (len + 63) / 64 * 64

/-! ### Routes and paths -/

def rt (f : Fld) (s : State) (r : Nat) : Nat := rd s (f.ix (r % 256)) (r / 256)
def rtSet (f : Fld) (r v : Nat) (s : State) : State := wr (f.ix (r % 256)) (r / 256) v s
def pt (f : Fld) (s : State) (j : Nat) : Nat := rd s (f.ix (j % 32)) (j / 32)
def ptSet (f : Fld) (j v : Nat) (s : State) : State := wr (f.ix (j % 32)) (j / 32) v s

/-- The paths of a route, in list order. -/
def routePaths (s : State) (r : Nat) : List Nat :=
  (List.range (rt LTK_ROUTE0_npath s r + 1)).map (fun i => rt LTK_ROUTE0_paths s r / 2 ^ (8 * i) % 256)

/-- A path is alive. -/
def pathAlive (s : State) (j : Nat) : Bool := pt LTK_PATH0_valid s j == 1 && pt LTK_PATH0_alive s j == 1

/-- The first alive path of a route (R704). -/
def routePath (s : State) (r : Nat) : Option Nat := (routePaths s r).find? (pathAlive s)

/-- A route that can send: below 2,048, valid and live. -/
def routeUp (s : State) (r : Nat) : Bool := r < 2048 && rt LTK_ROUTE0_valid s r == 1 && rt LTK_ROUTE0_dead s r == 0

/-- Packets of a route that have been sent and not acknowledged. -/
def routeOut (s : State) (r : Nat) : Nat := (s.ltkQ.filter (fun k => k.route == r && k.first != 0)).length

/-- LTK_ROUTE4.outstanding. -/
def routeShow (r : Nat) (s : State) : State := rtSet LTK_ROUTE4_outstanding r (routeOut s r) s

/-- A DATA frame leaves on a path (R699): port, type, op, routes, numbers, body, data. -/
def sendData (k : LPkt) (j : Nat) (s : State) : State :=
  bump LTK_TXF_count (j / 32) (emit .frame
    ([j / 32, j, 1, k.op, rt LTK_ROUTE0_peer_route s k.route, k.route, k.seq, rt LTK_ROUTE3_rx_expect s k.route] ++ k.body ++ k.data) s)

/-- Port q is paused for data_pcp (R701). -/
def portPaused (s : State) (q : Nat) : Bool := s.now < mapGet 0 s.ltkPause (8 * q + rd s LTK_GCFG_data_pcp 0)

/-- Send the packets of a route that wait, while fewer than 64 are outstanding and a path is alive (R704). Times are kept plus
1, so that 0 says not sent. -/
def routePump (r : Nat) : Nat → State → State
  | 0, s => s
  | n + 1, s =>
    match s.ltkQ.find? (fun k => k.route == r && k.first == 0), routePath s r with
    | some k, some j =>
      if routeOut s r < 64 ∧ routeUp s r ∧ !portPaused s (j / 32) then
        let k1 := { k with seq := rt LTK_ROUTE3_tx_seq s r, path := j, first := s.now + 1, last := s.now + 1 }
        let q := (s.ltkQ.takeWhile (fun x => !(x.route == r && x.first == 0))) ++
          (k1 :: ((s.ltkQ.dropWhile (fun x => !(x.route == r && x.first == 0))).drop 1))
        routePump r n (routeShow r (sendData k1 j (rtSet LTK_ROUTE3_tx_seq r (k1.seq + 1) { s with ltkQ := q })))
      else s
    | _, _ => s

/-- An operation goes onto a route: body words, data bytes, who takes the answer. -/
def ltkSend (r op : Nat) (body data ret : List Nat) (s : State) : State :=
  routePump r 64 { s with ltkQ := s.ltkQ ++ [{ route := r, seq := 0, op := op, body := body, data := data, ret := ret,
                                               path := 0, first := 0, last := 0 }] }

/-- An ACK or REFUSE frame leaves on a path of route r (R699, R704). -/
def ltkAnswer (r typ seq status hold : Nat) (s : State) : State :=
  match routePath s r with
  | none => s
  | some j => bump LTK_TXF_count (j / 32) (emit .frame
      [j / 32, j, typ, 0, rt LTK_ROUTE0_peer_route s r, r, seq, rt LTK_ROUTE3_rx_expect s r, status, hold] s)

end Sys2Proof.Machine
end

