-- ==== Sys2Proof/Machine/Fabric.lean ====
section
/-! DEFINITION. The Pasture fabric as its requests see it (spec/11_pasture_memory.md R352-R392): translation at Pasture entry,
admission at the shared targets, the gates of cores. Requests stand in State.fab, oldest first. -/

namespace Sys2Proof.Machine

/-! ### Requests -/

/-- Request i of the fabric. -/
def fabGet (s : State) (i : Nat) : Option Xact := s.fab[i]?

/-- Replace request i. -/
def fabSet (i : Nat) (x : Xact) (s : State) : State := { s with fab := listPut s.fab i x }

/-- The PASID that host-backed requests of a root carry, plus 2^20 where they carry one (R380). -/
def rootPasid (s : State) (root : Nat) : Nat :=
  if rdB s (PST_XPASID_pasid_en.ix root) 10 then 2 ^ 20 + rd s (PST_XPASID_pasid.ix root) 10 else 0

/-- Request i goes: it has been answered, or it is abandoned. -/
def fabDrop (i : Nat) (s : State) : State := atsInvSend { s with fab := listDrop s.fab i }

/-- Every earlier request of its context has translated (R310). -/
def fabTurn (s : State) (i : Nat) (x : Xact) : Bool :=
  match xactCtx x with
  | none => true
  | some (g, _) => !(s.fab.take i).any (fun y => xactOf g y && [0, 5, 9, 10].contains y.stage)

/-- Every earlier request of its context has left its entry: requests of one context never overtake one another (R321,
R352). -/
def fabHead (s : State) (i : Nat) (x : Xact) : Bool :=
  match xactCtx x with
  | none => true
  | some (g, _) => !(s.fab.take i).any (fun y => xactOf g y && atEntry y)

/-- A Drover deadline d1 lies before d2 (R302). -/
def before32 (d1 d2 : Nat) : Bool := sext 32 (d1 + 2 ^ 32 - d2 % 2 ^ 32) < 0

/-- x is served before y at an arbitration point (R321, R361): deadline, then global index. -/
def xactBefore (x y : Xact) : Bool := before32 x.deadline y.deadline || (x.deadline == y.deadline && x.gidx < y.gidx)

/-! ### Answers -/

/-- A REFUSE of a Longtrack packet, and the ACK that follows it; it advances the expected number (R704). -/
def ltkRefuse (r : Nat) (status : Nat) (s : State) : State :=
  let e := rt LTK_ROUTE3_rx_expect s r
  ltkAnswer r 2 0 0 0 (ltkAnswer r 4 e status 0 (rtSet LTK_ROUTE3_rx_expect r (e + 1) s))

/-- An ACK of a Longtrack packet that was applied (R704). -/
def ltkApplied (r : Nat) (s : State) : State :=
  ltkAnswer r 2 0 0 0 (rtSet LTK_ROUTE3_rx_expect r (rt LTK_ROUTE3_rx_expect s r + 1) s)

/-! ### The trace sink (R643, R644) -/

/-- The sink of paddock n. -/
def sinkGet (s : State) (n : Nat) : Sink := mapGet sinkReset s.sinks n
def sinkMod (n : Nat) (g : Sink → Sink) (s : State) : State := { s with sinks := mapSet sinkReset s.sinks n (g (sinkGet s n)) }

/-- Entries the trace ring holds, and its size. -/
def ringHeld (s : State) (n : Nat) : Nat :=
  (rd s FTF_RPROD_index (ftfI s n) + 2 ^ 32 - rd s FTF_RCONS_index (ftfI s n)) % 2 ^ 32
def ringSize (s : State) (n : Nat) : Nat := 2 ^ (rd s FTF_RING_size_log (ftfI s n) + 4)

/-- A sink write: brand 0x05, through the paddock's root, with no deadline of its own (R349, R643). -/
def sinkXact (s : State) (n kind va : Nat) (data : List Nat) : Xact :=
  { wr := true, brand := 5, die := 11, gidx := 0x1FFFF, root := n, va := va, pa := 0, len := data.length, data := data, pf := [],
    deadline := (droverT s + 0xFFFFFF) % 2 ^ 32, stage := 0, host := false, status := 0, bad := [], inv := false, invTags := [],
    stale := false, ret := .sink n kind }

/-- Writes of the sink that are not yet acknowledged. -/
def sinkOut (s : State) (n : Nat) : Bool := s.fab.any (fun x => match x.ret with
  | .sink m _ => m == n
  | _ => false)

/-- Lines of paddock n, closed or open, still in a FIFO. -/
def linesLeft (s : State) (n : Nat) : Bool :=
  (pdkPcores s n).any (fun p => !(coreGet s p).trOpen.isEmpty || !(coreGet s p).trLines.isEmpty)

/-- The paddock-virtual address of the sink's buffer. -/
def sinkVa (s : State) (k : Sink) : Nat :=
  poolVBase s (k.buf.headD 0) (k.buf.getD 1 0) + k.buf.getD 2 0 * poolSize s (k.buf.headD 0) (k.buf.getD 1 0)

/-- Once its writes are acknowledged, a sink that closes its buffer writes the ring entry; a flush closes the buffer when no
line is left, and ends at once where no buffer is held (R643). -/
def sinkPump (n : Nat) (s : State) : State :=
  let k := sinkGet s n
  if sinkOut s n then s
  else if k.buf.isEmpty then (if k.flush && !linesLeft s n then sinkMod n (fun k => { k with flush := false }) s else s)
  else
    let close := if k.flush && !linesLeft s n then 2 else k.close
    if close = 0 ∨ ringSize s n ≤ ringHeld s n then s
    else
      let va := rd s FTF_RING_va (ftfI s n) * 4096 + 16 * (rd s FTF_RPROD_index (ftfI s n) % ringSize s n)
      let data := leBytes 8 (sinkVa s k) ++ leBytes 8 (k.used + b2n (close == 2) * 2 ^ 24 + k.sect % 2 ^ 32 * 2 ^ 32)
      let s1 := sinkMod n (fun k => { k with buf := [], used := 0, close := 0, flush := k.flush && close != 2 }) s
      { s1 with fab := s1.fab ++ [sinkXact s1 n 1 va data] }

/-- A sink write is acknowledged; a ring entry advances FTF_RPROD and may raise source 9 (R643, R644). -/
def sinkDone (n kind : Nat) (s : State) : State :=
  if kind = 1 then
    let s1 := wr FTF_RPROD_index (ftfI s n) (rd s FTF_RPROD_index (ftfI s n) + 1) s
    sinkPump n (if ringHeld s1 n = rd s1 FTF_RPOOL_thresh (ftfI s1 n) then raiseSource n 9 s1 else s1)
  else sinkPump n s

/-- A line of a request at address a: how many of the `len` bytes from there on it holds. -/
def lineLen (a len : Nat) : Nat := Nat.min len (64 - a % 64)

/-- The completions of a BAR2 read: one that ends at the 64-byte boundary on either side of each bad line, so that no clean line goes
with EP (R358). Each: the address of its first byte, EP, its bytes. -/
def cplRuns : List Bool → Nat → List Nat → List (Nat × Bool × List Nat)
  | [], _, _ => []
  | b :: bs, a, data =>
    let n := lineLen a data.length
    match b, cplRuns bs (a + n) (data.drop n) with
    | false, (_, false, d) :: rest => (a, false, data.take n ++ d) :: rest
    | _, rest => (a, b, data.take n) :: rest

/-- H0 completes a BAR2 read with data (R358): function, tag, status 0, EP, address, bytes. -/
def barComplete (f tag a : Nat) (data : List Nat) (bad : List Bool) (s : State) : State :=
  (cplRuns bad a data).foldl (fun s r => emit .cplData ([f, tag, 0, b2n r.2.1, r.1] ++ r.2.2) s) s

/-- Request i waits for its context to take the answer; it delays no ATS invalidation any longer (R384). -/
def fabAnswered (i : Nat) (x : Xact) (s : State) : State := atsInvSend (fabSet i { x with stage := 4, invTags := [] } s)

/-- Request i is answered with a status, data and bad lines (R357). A BAR access completes (R358); a Longtrack write is
acknowledged or refused; a request that nobody waits for is discarded at its entry (R124); a sink write is done; a context's
answer waits to be taken. -/
def fabAnswer (i : Nat) (x : Xact) (status : Nat) (data : List Nat) (bad : List Bool) (s : State) : State :=
  match x.ret with
  | .drvRead _ _ => fabAnswered i { x with status := status, data := data, bad := bad } s
  | .drvWrite _ _ => fabAnswered i { x with status := status } s
  | .bar f tag =>
    let s1 := fabDrop i s
    let s2 := if status = 1 ∨ status = 2 then bump PST_BARREF_count 10 s1 else s1
    if x.wr then (if status = 1 ∨ status = 2 then aerAdvisory f 20 s2 else s2)
    else if status = 1 ∨ status = 2 then emit .cplData [f, tag, 1] (aerUncorr f 20 s2)
    else barComplete f tag x.va data bad s2
  | .ltk r => (if status = 0 then ltkApplied (r.headD 0) else ltkRefuse (r.headD 0) (if status = 2 then 2 else 1)) (fabDrop i s)
  | .sink n kind => sinkDone n kind (fabDrop i s)
  | .held _ => fabDrop i s
  | .none => bump (PST_DISCARD_count.on (pstBlk x.die)) x.die (fabDrop i s)

/-! ### Translation (R373-R378, R381-R383) -/

/-- Cached entries of a die are keyed by die, root, level and the address bits the level has used. -/
def levelShift (l : Nat) : Nat := if l = 0 then 39 else if l = 1 then 30 else if l = 2 then 21 else 16
def tcKey (die root l va : Nat) : Nat := ((die * 128 + root) * 4 + l) * 2 ^ 32 + va / 2 ^ levelShift l

/-- The cached entry, 0 where none is. -/
def tcGet (s : State) (die root l va : Nat) : Nat := mapGet 0 s.tcache (tcKey die root l va)

/-- Cache an entry; a die holds 4,096, and which one makes room is open (R377; log 4). -/
def tcPut (die root l va e : Nat) (s : State) : State :=
  let mine := s.tcache.filter (fun x => x.1 / 2 ^ 41 == die)
  let r := drawFree s
  let s1 := if mine.length < 4096 ∨ tcGet s die root l va ≠ 0 then s
    else { r.2 with tcache := mapErase r.2.tcache ((mine.getD (r.1 % mine.length) (0, 0)).1) }
  { s1 with tcache := mapSet 0 s1.tcache (tcKey die root l va) e }

/-- Fields of a table entry (R375). -/
def pteV (e : Nat) : Bool := natBit e 0
def pteLeaf (e : Nat) : Bool := natBit e 1
def pteHost (e : Nat) : Bool := natBit e 4
def pteTable (e : Nat) : Nat := natBits e 51 8 * 256
def ptePage (e : Nat) : Nat := if pteHost e then natBits e 63 16 * 65536 else natBits e 51 16 * 65536

/-- A valid entry of level l is malformed: fault 4 (R376). -/
def pteBad (s : State) (l e : Nat) : Bool :=
  natBits e 7 5 != 0 || (pteLeaf e && l == 0) || (!pteLeaf e && l == 3) ||
  (if pteLeaf e then natBits e 15 8 != 0 || (!pteHost e && natBits e 63 52 != 0) || ptePage e % 2 ^ levelShift l != 0
   else natBits e 63 52 != 0 || pteTable e % (if l = 2 then 256 else 4096) != 0 || memU s ≤ pteTable e)

/-- The address of the entry of level l in a table. -/
def pteAddr (table l va : Nat) : Nat :=
  table + 8 * (if l = 3 then natBits va 20 16 else va / 2 ^ levelShift l % 512)

/-- The walk from level l on, in a table: the fault code, 0 for none, the leaf's level and the leaf, the entries read
(R376). -/
def walkFrom (die root va : Nat) : Nat → Nat → Nat → List (Nat × Nat) → State → (Nat × Nat × Nat × List (Nat × Nat)) × State
  | 0, _, _, _, s => ((4, 0, 0, []), s)
  | n + 1, l, table, got, s =>
    let c := tcGet s die root l va
    let r := if c ≠ 0 then (false, s) else readLine 1 0 (pteAddr table l va) s
    let e := if c ≠ 0 then c else memNat s (pteAddr table l va) 8
    if r.1 then ((4, 0, 0, []), r.2)
    else if !pteV e then ((1, 0, 0, []), r.2)
    else if pteBad s l e then ((4, 0, 0, []), r.2)
    else if pteLeaf e then ((0, l, e, got ++ [(l, e)]), r.2)
    else walkFrom die root va n (l + 1) (pteTable e) (got ++ [(l, e)]) r.2

/-- A leaf the die has cached. -/
def tcLeaf (s : State) (die root va : Nat) : Option (Nat × Nat) :=
  ([3, 2, 1].map (fun l => (l, tcGet s die root l va))).find? (fun x => x.2 != 0 && pteLeaf x.2)

/-- The page lies outside the near half of paddock `root` (R368). -/
def outsideHalf (s : State) (root page size : Nat) : Bool :=
  root < 64 && rdB s PDK_MODE_near root &&
    (let lo := memWd s + (if rd s PDK_GEOM_py0 root < 4 then 0 else 12 * memR s)
     page < lo || lo + 12 * memR s < page + size)

/-- The leaf that translates va for a die and root: fault code, level, leaf; a table walk where no leaf is cached. -/
def walkLeaf (die root va : Nat) (s : State) : (Nat × Nat × Nat × List (Nat × Nat)) × State :=
  match tcLeaf s die root va with
  | some (l, e) => ((0, l, e, []), s)
  | none =>
    let s1 := bump (PST_WALKS_count.on (pstBlk die)) die s
    if !rdB s1 (PST_XROOT_en.ix root) 10 ∨ memU s1 ≤ rd s1 (PST_XROOT_root.ix root) 10 * 4096 then ((4, 0, 0, []), s1)
    else walkFrom die root va 4 0 (rd s1 (PST_XROOT_root.ix root) 10 * 4096) [] s1

/-- Translate va for a read or write (R376): fault code, host-backed, address. Entries of a walk without a fault are cached. -/
def translate (die root va : Nat) (write : Bool) (s : State) : (Nat × Bool × Nat) × State :=
  let r := walkLeaf die root va s
  let code := r.1.1
  let l := r.1.2.1
  let e := r.1.2.2.1
  if code ≠ 0 then ((code, false, 0), r.2)
  else if !natBit e (if write then 3 else 2) then ((3, false, 0), r.2)
  else if !pteHost e && (memU r.2 ≤ ptePage e || outsideHalf r.2 root (ptePage e) (2 ^ levelShift l)) then ((4, false, 0), r.2)
  else ((0, pteHost e, ptePage e + va % 2 ^ levelShift l), r.1.2.2.2.foldl (fun s x => tcPut die root x.1 va x.2 s) r.2)

/-- A request meets a translation fault: who asked learns of it (R323, R326, R644, R704). -/
def xlateFault (i : Nat) (x : Xact) (code : Nat) (waitPage : List Nat) (s : State) : State :=
  let s1 := bump (PST_TRFAULT_count.on (pstBlk x.die)) x.die s
  let halt (g o : Nat) : State := streamFault g x.va code 0 x.len true
    (ctxMod g (fun c => { c with waitPage := waitPage, fva := x.va, flen := x.len }) (haltCtx g 2 o (fabDrop i s1)))
  match x.ret with
  | .drvRead g o => halt g o
  | .drvWrite g o => halt g o
  | .sink n _ => faultRecord (n + 1) 0x50 11 [x.va] (wr FTF_PSTAT_sink_fault (ftfI s n) 1 (fabSet i { x with stage := 8 } s1))
  | .ltk r => ltkRefuse (r.headD 0) 3 (fabDrop i s1)
  | _ => fabDrop i s1

/-- The entries of H0's translation cache that cover a host address for a PASID code; one of them that grants the access (R381). -/
def atsFind (s : State) (pasid a : Nat) (w : Bool) : Option AtsEnt :=
  s.ats.find? (fun e => e.pasid == pasid && e.base ≤ a && a < e.base + e.size && (if w then e.w else e.r))

/-- A host-backed request with host address a: translated by the cache, or waiting for ATS; with ATS disabled it faults (R381,
R382). -/
def hostTranslate (i : Nat) (x : Xact) (a : Nat) (s : State) : State :=
  if !s.atsEn then xlateFault i x 4 [] s
  else match atsFind s x.pasid a x.wr with
    | some e => fabSet i { x with host := true, pa := e.ta + (a - e.base), stage := 1 } s
    | none => emit .atsRequest [x.pasid, a / 4096, b2n x.wr] (fabSet i { x with host := true, pa := a, stage := 5 } s)

/-- A Page Request for a host page, unless one for the same page and access is outstanding (R382, R383). -/
def pageAsk (pasid page : Nat) (w : Bool) (s : State) : State :=
  if s.pageReqs.any (fun q => q.pasid == pasid && q.page == page && q.wr == w) then s
  else { s with pageReqs := s.pageReqs ++ [{ pasid := pasid, page := page, wr := w, idx := 0, sent := false }] }

/-- The leaf e of level l has been found for request i: rights and place are checked, the entries of a walk are cached, and the request
is translated (R376, R377). -/
def leafUse (i : Nat) (x : Xact) (l e : Nat) (s : State) : State :=
  let a := ptePage e + x.va % 2 ^ levelShift l
  if !natBit e (if x.wr then 3 else 2) then xlateFault i x 3 [] s
  else if !pteHost e && (memU s ≤ ptePage e || outsideHalf s x.root (ptePage e) (2 ^ levelShift l)) then xlateFault i x 4 [] s
  else
    let s1 := x.walk.zipIdx.foldl (fun s k => tcPut x.die x.root k.2 x.va k.1 s) s
    if pteHost e then hostTranslate i { x with walk := [] } a s1
    else fabSet i { x with walk := [], host := false, pa := a, stage := 1 } s1

/-- The walk of request i goes on at level x.walk.length, in a table: as far as its die has the entries, then with a read of the next
one: an RDQ of brand 0x01 that waits for admission (R376, R377). -/
def walkGo (i : Nat) : Nat → Xact → Nat → State → State
  | 0, x, _, s => xlateFault i x 4 [] s
  | n + 1, x, table, s =>
    let l := x.walk.length
    let e := tcGet s x.die x.root l x.va
    if e = 0 then
      fabSet i { x with stage := 9, via := List.range (l + 1), tab := pteAddr table l x.va, tabDl := (droverT s + 0xFFFFFF) % 2 ^ 32 } s
    else if pteLeaf e then leafUse i { x with walk := x.walk ++ [e], via := List.range (l + 1) } l e s
    else walkGo i n { x with walk := x.walk ++ [e] } (pteTable e) s

/-- A port has answered the read of a table entry of request i: one that is bad is captured and faults; the entry is judged (R376). -/
def walkGot (i : Nat) (x : Xact) (bad : Bool) (e : Nat) (s : State) : State :=
  let l := x.walk.length
  let y := { x with stage := 0 }
  let s1 := fabSet i y s
  if bad then xlateFault i y 4 [] (if lineState s (x.tab / 64) = 2 then tablePoison x.tab s1 else s1)
  else if !pteV e then xlateFault i y 1 [] s1
  else if pteBad s l e then xlateFault i y 4 [] s1
  else if pteLeaf e then leafUse i { y with walk := y.walk ++ [e] } l e s1
  else walkGo i 3 { y with walk := y.walk ++ [e] } (pteTable e) s1

/-- The route of paddock n whose window holds a destination address (R706). -/
def windowRoute (s : State) (n va : Nat) : Option Nat :=
  (List.range 2048).find? (fun r => rt LTK_ROUTE0_valid s r == 1 && rt LTK_ROUTE0_paddock s r == n && rt LTK_ROUTE1_win_en s r == 1 &&
    rt LTK_ROUTE1_win_va s r * 65536 ≤ va && va < (rt LTK_ROUTE1_win_va s r + rt LTK_ROUTE1_win_len s r) * 65536)

/-- Bit i for each line i that is poisoned (R700). -/
def poisonMask (pf : List Bool) : Nat := (List.range pf.length).foldl (fun a i => a + b2n (pf.getD i false) * 2 ^ i) 0

/-- A far context's write, request i, whose destination lies in a Longtrack window leaves on its route as op 4, on its way to the peer;
in integrity mode it is held and acknowledged by its log entry, and waits at its entry where a drain runs and no space is left
(R706, R508, R509, R532). -/
def farWindow (i n r : Nat) (x : Xact) (s : State) : State :=
  let body := [(rt LTK_ROUTE2_remote_va s r + x.va / 65536 - rt LTK_ROUTE1_win_va s r) * 65536 + x.va % 65536 + x.len * 2 ^ 48,
               poisonMask x.pf]
  let data := x.data.take x.len
  let go : List Nat := match xactCtx x with
    | some (g, o) => [2, g, o]
    | none => [0]
  if integrityOf s n then
    (if holdFits s n (holdSpace x.len) then
       holdOut n 3 ([r, 4] ++ body) data (holdSpace x.len) (fabAnswered i { x with status := 0 } s)
     else holdStuck n s)
  else ltkSend r 4 body data go (fabSet i { x with stage := 6 } s)

/-- The paddock and the route of a far context's write that goes through a window. -/
def windowOf (s : State) (x : Xact) : Option (Nat × Nat) :=
  match x.ret with
  | .drvWrite g _ => if ctxFar g then (match ctxPdk s g with
      | some n => (windowRoute s n x.va).map (fun r => (n, r))
      | none => none) else none
  | _ => none

/-- Request i is translated with a leaf its die has cached, or by a walk that begins at the root as it now stands (R376, R377). -/
def walkBegin (i : Nat) (x : Xact) (s : State) : State :=
  match tcLeaf s x.die x.root x.va with
  | some (l, e) => leafUse i { x with via := [l] } l e s
  | none =>
    let s1 := bump (PST_WALKS_count.on (pstBlk x.die)) x.die s
    let root := rd s1 (PST_XROOT_root.ix x.root) 10 * 4096
    if !rdB s1 (PST_XROOT_en.ix x.root) 10 ∨ memU s1 ≤ root then xlateFault i x 4 [] s1
    else walkGo i 4 x root s1

/-- TRANSLATION_WALK: request i, the next of its context, passes translation at its Pasture entry; a far context's write through a
Longtrack window is not translated (R310, R706). -/
def execTranslationWalk (i : Nat) (s : State) : Result :=
  .next (match fabGet s i with
  | none => s
  | some x0 =>
    let x := { x0 with pasid := rootPasid s x0.root, walk := [] }
    if x.stage ≠ 0 ∨ !fabTurn s i x then s
    else match windowOf s x with
      | some (n, r) => farWindow i n r x s
      | none => walkBegin i x s)

/-- Cache a translation of ATS: it replaces those it covers; H0 holds 8,192, and which one makes room is open (R381; log 4). -/
def atsPut (e : AtsEnt) (s : State) : State :=
  let kept := s.ats.filter (fun o => !(o.pasid == e.pasid && e.base ≤ o.base && o.base + o.size ≤ e.base + e.size))
  if kept.length < 8192 then { s with ats := kept ++ [e] }
  else
    let r := drawFree s
    { r.2 with ats := listDrop kept (r.1 % 8192) ++ [e] }

/-- TRANSLATION_COMPLETION: the root complex answers the ATS request of request i (R382): kind 0 a completion with translated
address `ta`, range `size` and rights, kind 1 UR or CA, kind 2 a timeout. -/
def execTranslationCompletion (i kind ta size : Nat) (r w : Bool) (s : State) : Result :=
  .next (match fabGet s i with
  | none => s
  | some x =>
    if x.stage ≠ 5 then s
    else
      let size := Nat.max size 4096
      if kind ≠ 0 then xlateFault i x 4 [] (if kind = 2 then aerUncorr 0 14 s else s)
      else if (if x.wr then w else r) then
        fabSet i { x with pa := ta + x.pa % size, stage := 1 }
          (atsPut { pasid := x.pasid, base := x.pa - x.pa % size, size := size, ta := ta, r := r, w := w } s)
      else if s.priEn ∧ rd s PST_PRISTAT_stopped 10 = 0 then
        xlateFault i x 2 [x.pasid, x.pa / 4096, b2n x.wr] (pageAsk x.pasid (x.pa / 4096) x.wr s)
      else xlateFault i x 4 [] s)

/-- Page Requests sent and not answered. -/
def pagesOut (s : State) : Nat := (s.pageReqs.filter (fun q => q.sent)).length

/-- Show them. -/
def pagesShow (s : State) : State := wr PST_PRISTAT_outstanding 10 (pagesOut s) s

/-- PAGE_REQUEST: the oldest Page Request that waits is sent, while the allocation holds fewer (R383). -/
def execPageRequest (s : State) : Result :=
  .next (match s.pageReqs.find? (fun q => !q.sent) with
  | none => s
  | some q =>
    if !s.priEn ∨ rd s PST_PRISTAT_stopped 10 = 1 ∨ Nat.min 512 s.priAlloc ≤ pagesOut s then s
    else
      let q1 := { q with sent := true, idx := s.prgNext % 512 }
      pagesShow (emit .pageRequest [q.pasid, q.page, q1.idx, b2n q.wr]
        { s with prgNext := (s.prgNext + 1) % 512,
                 pageReqs := s.pageReqs.takeWhile (fun y => y.sent) ++ (q1 :: (s.pageReqs.dropWhile (fun y => y.sent)).drop 1) }))

/-- The contexts that wait for a page. -/
def pageWaiters (s : State) (q : PageReq) : List Nat :=
  (s.ctxs.filter (fun x => x.2.waitPage == [q.pasid, q.page, b2n q.wr])).map (fun x => x.1)

/-- A page response of Success resumes a context (R325); any other posts code 6. -/
def pageAnswer (ok : Bool) (g : Nat) (s : State) : State :=
  let s1 := ctxMod g (fun c => { c with waitPage := [] }) s
  if ctxState s g ≠ ctxHalted ∨ crd s DRV_CTXSTAT_halt_cause g ≠ 2 then s1
  else if ok then (if crd s DRV_CTXCFG_autores g = 1 then resumeCtx g s1 else s1)
  else streamFault g (ctxGet s1 g).fva 6 0 (ctxGet s1 g).flen true s1

/-- PRG_RESPONSE: the host answers Page Request `idx`: code 0 Success, 1 Invalid Request, 15 Response Failure (R383). -/
def execPrgResponse (idx code : Nat) (s : State) : Result :=
  .next (match s.pageReqs.find? (fun q => q.sent && q.idx == idx) with
  | none => s
  | some q =>
    let s1 := pagesShow { s with pageReqs := listDropFirst (fun y => y.sent && y.idx == idx) s.pageReqs }
    let s2 := (pageWaiters s q).foldl (fun s g => pageAnswer (code == 0) g s) s1
    if code = 15 then wr PST_PRISTAT_stopped 10 1 s2 else s2)

/-! ### Invalidation (R378, R384) -/

/-- The range of an invalidation of PST_INV (R378): root, every entry, base, size. -/
structure InvRange where
  root : Nat
  all : Bool
  base : Nat
  size : Nat
deriving DecidableEq, Repr

/-- The range PST_INV names. -/
def invRange (s : State) : InvRange :=
  let k := 2 ^ (16 + rd s PST_INV_size_log 10)
  let va := rd s PST_INV_va 10 * 65536
  { root := rd s PST_INV_root 10, all := rdB s PST_INV_all 10, base := va - va % k, size := k }

/-- Bytes a to a + n - 1 meet the range. -/
def inRange (q : InvRange) (a n : Nat) : Bool := q.all || (a < q.base + q.size && q.base < a + n)

/-- A cached entry of a key meets the range. -/
def tcHit (q : InvRange) (k : Nat) : Bool :=
  let l := k / 2 ^ 32 % 4
  k / 2 ^ 34 % 128 == q.root && inRange q (k % 2 ^ 32 * 2 ^ levelShift l) (2 ^ levelShift l)

/-- The translation of request x used an entry of the range, on its way or already, or an ATS translation of the range's root; one with
no table entry behind it used none (R378, R386). -/
def usesRange (q : InvRange) (x : Xact) : Bool :=
  x.root == q.root && !x.via.isEmpty &&
    (x.host || x.via.any (fun l => inRange q (x.va / 2 ^ levelShift l * 2 ^ levelShift l) (2 ^ levelShift l)))

/-- Discard what a range covers on every die and at H0; requests that wait or walk are translated again, those that left are awaited
(R378). -/
def invDiscard (q : InvRange) (mark : Bool) (s : State) : State :=
  let again (x : Xact) : Xact := { x with stage := 0, host := false, walk := [], via := [], invTags := [] }
  atsInvSend { s with
    tcache := s.tcache.filter (fun x => !tcHit q x.1),
    ats := s.ats.filter (fun e => e.pasid != rootPasid s q.root),
    fab := s.fab.flatMap (fun x => if !usesRange q x then [x]
      else if [1, 5, 9, 10].contains x.stage then again x :: cancelled x
      else if x.stage = 2 ∨ x.stage = 3 then [{ x with inv := x.inv || mark }] else [x]) }

/-- PST_INVCTL.go (R378). -/
def invStart (s : State) : State :=
  if rdB s PST_INVCTL_busy 10 then wr PST_INVCTL_err 10 1 s
  else wr PST_INVCTL_busy 10 1 (invDiscard (invRange s) true s)

/-- INVALIDATION_START: brand 0x00 or 0x01 writes go (R378). -/
def execInvalidationStart (s : State) : Result := .next (invStart s)

/-- INVALIDATION_DONE: every request that left its entry under a discarded entry has been answered (R378). -/
def execInvalidationDone (s : State) : Result :=
  .next (if rdB s PST_INVCTL_busy 10 ∧ !s.fab.any (fun x => x.inv && (x.stage == 2 || x.stage == 3)) then
    wr PST_INVCTL_busy 10 0 (wr PST_INVCTL_done_seq 10 (rd s PST_INVCTL_done_seq 10 + 1)
      { s with fab := s.fab.map (fun x => { x with inv := false }) })
  else s)

/-- INVALIDATE_REQUEST: an ATS Invalidate Request with a tag for a PASID code and a range of host addresses (R384). -/
def execInvalidateRequest (tag pasid base size : Nat) (s : State) : Result :=
  let meets (a n : Nat) : Bool := a < base + size && base < a + n
  let used (x : Xact) : Bool := x.host && 1 ≤ x.stage && x.stage ≤ 3 && x.pasid == pasid &&
    s.ats.any (fun e => e.pasid == pasid && meets e.base e.size && e.ta ≤ x.pa && x.pa < e.ta + e.size)
  .next (atsInvSend { s with ats := s.ats.filter (fun e => !(e.pasid == pasid && meets e.base e.size)),
                             atsInv := s.atsInv ++ [tag],
                             fab := s.fab.map (fun x => if used x then { x with invTags := x.invTags ++ [tag] } else x) })

/-! ### Shares (R360-R363) -/

/-- The die and the entry of PST_TCAP of target t: 0-23 ports, 24 host reads, 25 host writes. -/
def tgtDie (t : Nat) : Nat := if t < 24 then portDie t else 10
def tgtLocal (t : Nat) : Nat := if t < 24 then t % 12 else t - 24

/-- c_t, sys_t and c'_t. -/
def tgtC (s : State) (t : Nat) : Nat := rd s ((PST_TCAP_c.on (pstBlk (tgtDie t))).ix (tgtLocal t)) (tgtDie t)
def tgtCpad (s : State) (t : Nat) : Nat := rd s ((PST_TCAP_cpad.on (pstBlk (tgtDie t))).ix (tgtLocal t)) (tgtDie t)

/-- Set the capacity of a target with what follows from it (R360). -/
def setCap (t c : Nat) (s : State) : State :=
  let b := pstBlk (tgtDie t)
  let d := tgtDie t
  wr ((PST_TCAP_c.on b).ix (tgtLocal t)) d c (wr ((PST_TCAP_sys.on b).ix (tgtLocal t)) d (c / 16)
    (wr ((PST_TCAP_cpad.on b).ix (tgtLocal t)) d (c - c / 16) s))

/-- Guarantee and cap of paddock n at target t in this window. -/
def shareG (s : State) (n t : Nat) : Nat := tgtCpad s t * (mapGet 0 s.winShare n % 512) / 256
def shareK (s : State) (n t : Nat) : Nat := tgtCpad s t * (mapGet 0 s.winShare n / 512) / 256

/-- The shared target of a request that has translated. -/
def xactTgt (s : State) (x : Xact) : Nat := if x.host then (if x.wr then 25 else 24) else (portOf s x.pa).1

/-- Packet x of request i waits for a grant of target t: the read of a table entry, or a request that is translated, the first of its
context and not an output that is held (R352, R376, R508). -/
def waitsFor (s : State) (t i : Nat) (x : Xact) : Bool :=
  x.stage == 1 && fabHead s i x && xactTgt s x == t &&
    !(x.host && x.wr && (match brandPdk x.brand, x.ret with
      | _, .held _ => false
      | some n, _ => integrityOf s n
      | none, _ => false))

/-- The packets of the fabric, with the places of their requests. -/
def packets (s : State) : List (Nat × Xact) := (List.range s.fab.length).zip (s.fab.map pktOf)

/-- The packets that wait for target t, with their places. -/
def waiting (s : State) (t : Nat) : List (Nat × Xact) := (packets s).filter (fun y => waitsFor s t y.1 y.2)

/-- The first of two waiting requests in the order of R361: deadline, brand, index. -/
def grantFirst (a b : Nat × Xact) : Nat × Xact :=
  if before32 b.2.deadline a.2.deadline ||
      (b.2.deadline == a.2.deadline && (b.2.brand < a.2.brand || (b.2.brand == a.2.brand && b.2.gidx < a.2.gidx))) then b else a

/-- The first of a list. -/
def grantPick : List (Nat × Xact) → Option (Nat × Xact)
  | [] => none
  | y :: ys => some (ys.foldl grantFirst y)

/-- Charges of brand b at target t in this window. -/
def usedOf (s : State) (t b : Nat) : Nat := mapGet 0 s.used (128 * t + b)

/-- The request that slot k of target t grants (R361). -/
def grantSlot (s : State) (t k : Nat) : Option (Nat × Xact) :=
  let ws := waiting s t
  let sys := ws.filter (fun y => y.2.brand < 0x10)
  let pds := ws.filter (fun y => 0x10 ≤ y.2.brand)
  let under (f : Nat → Nat) := pds.filter (fun y => usedOf s t y.2.brand < f (y.2.brand - 0x10))
  if k % 16 = 15 ∧ !sys.isEmpty then grantPick sys
  else match grantPick (under (fun n => shareG s n t)) with
    | some y => some y
    | none => match grantPick (under (fun n => shareK s n t)) with
      | some y => some y
      | none => grantPick sys

/-- Transactions a port holds (R322). -/
def portFull (s : State) (t : Nat) : Bool := t < 24 && 1024 ≤ rd s MEM_STAT_txn t

/-- Fabric cycles go on to `cyc`: PST_ADMWAIT and DRV_PWAIT count what waits (R322, R362). -/
def atFab (cyc : Nat) (s : State) : State :=
  let d := cyc - s.fabCyc
  if d = 0 then s
  else
    let ws := (packets s).filter (fun y => y.2.stage == 1 && fabHead s y.1 y.2)
    let keys := ((ws.filter (fun y => 0x10 ≤ y.2.brand)).map (fun y => (y.2.die, y.2.brand - 0x10))).eraseDups
    let gs := ((ws.filter (fun y => portFull s (xactTgt s y.2))).filterMap (fun y => (xactCtx y.2).map (fun z => z.1))).eraseDups
    let s1 := keys.foldl (fun s k => addSat ((PST_ADMWAIT_count.on (pstBlk k.1)).ix k.2) k.1 d s) { s with fabCyc := cyc }
    gs.foldl (fun s g => addSat (ctxF DRV_PWAIT_count g) (ctxInst g) d s) s1

/-- New capacities apply from the first window that starts after their change (R660). -/
def capsApply (s : State) : State := { s.capNext.foldl (fun s e => setCap e.1 (e.2 - 1) s) s with capNext := [] }

/-- SHARE_WINDOW_START: a window starts at every shared target at fabric cycle cyc (R361, R363). -/
def execShareWindowStart (cyc : Nat) (s : State) : Result :=
  .next ((pdksCreated s).foldl (fun s n =>
    { s with winShare := mapSet 0 s.winShare n (rd s PDK_PEFF_eff_min n + 512 * rd s PDK_PEFF_eff_cap n) })
    (capsApply { atFab cyc s with used := [], slotAt := [], winShare := [] }))

/-- Admit the packet of request i to target t: one charge, and a transaction at a port (R307, R322, R352). What stands at an entry when
a gate closes was issued before and is admitted: at G2 the requests of the paddock's contexts are cancelled there (R112, R334, R385). -/
def admitSlot (t i : Nat) (x : Xact) (s : State) : State :=
  let s1 := match brandPdk x.brand with
    | some n => bump ((PST_SRV_count.on (pstBlk (tgtDie t))).ix n) (tgtDie t)
        { s with used := mapSet 0 s.used (128 * t + x.brand) (usedOf s t x.brand + 1) }
    | none => s
  let s2 := { s1 with admSeq := s1.admSeq + 1 }
  let s3 := match fabGet s2 i with
    | some y => fabSet i { y with stage := if y.stage = 9 then 10 else 2, seq := s1.admSeq } s2
    | none => s2
  if t < 24 then wr MEM_STAT_txn t (rd s3 MEM_STAT_txn t + 1) s3 else s3

/-- SHARE_GRANT: the next slot of target t in this window, at fabric cycle cyc (R361). -/
def execShareGrant (t cyc : Nat) (s : State) : Result :=
  let s1 := atFab cyc s
  let k := mapGet 0 s1.slotAt t
  .next (if 26 ≤ t ∨ tgtC s1 t ≤ k then s1
  else
    let s2 := { s1 with slotAt := mapSet 0 s1.slotAt t (k + 1) }
    if portFull s2 t then s2
    else match grantSlot s2 t k with
      | none => s2
      | some (i, x) => admitSlot t i x s2)

/-! ### Service at a target -/

/-- A test slice of shared block b runs: requests that reach it wait until it ends or yields (R553). -/
def blockTested (s : State) (b : Nat) : Bool := mapGet 0 s.mslice b != 0

/-- A transaction of port t ends. -/
def txnEnd (t : Nat) (s : State) : State := wr MEM_STAT_txn t (rd s MEM_STAT_txn t - 1) s

/-- The unit that sent packet x: a context, H0 for BAR accesses, a trace sink, a route, the committed drain of a paddock, or the walks of
a die (R348, R349). -/
def sourceOf (x : Xact) : Nat × Nat :=
  match x.ret with
  | .drvRead g _ => (1, g)
  | .drvWrite g _ => (1, g)
  | .bar _ _ => (2, 0)
  | .sink n _ => (3, n)
  | .ltk r => (4, r.headD 0)
  | .held n => (5, n)
  | .none => (6, x.die)

/-- Packets x and y touch one line of external memory. -/
def shareLine (x y : Xact) : Bool :=
  !x.host && !y.host && x.pa / 64 ≤ (y.pa + y.len - 1) / 64 && y.pa / 64 ≤ (x.pa + x.len - 1) / 64

/-- Packet z, admitted to the same target before y, must be served first: they come from one unit, or touch one line that one of them
writes (R321, R348, R354, R389). -/
def servedFirst (z y : Xact) : Bool := z.seq < y.seq && (sourceOf z == sourceOf y || ((z.wr || y.wr) && shareLine z y))

/-- The packets that stand at the target of packet y: every one that has been admitted there (log 111). -/
def atTarget (s : State) (y : Xact) : List Xact :=
  (s.fab.map pktOf).filter (fun z => z.stage == 2 && xactTgt s z == xactTgt s y)

/-- Nothing that must be served before packet y stands at its target. -/
def unblocked (s : State) (y : Xact) : Bool := !(atTarget s y).any (fun z => servedFirst z y)

/-- It is packet y's turn at its target: of those that nothing blocks, none has an earlier deadline (R321, R351). -/
def portTurn (s : State) (y : Xact) : Bool := unblocked s y && !(atTarget s y).any (fun z => xactBefore z y && unblocked s z)

/-- What a port learns with each transaction: whether link ECC corrected a bit, and the refresh rate of its devices' MR4: free values
(R365; log 114). -/
def portSeen (t : Nat) (s : State) : State :=
  let r := drawFree s
  wr MEM_STAT_refresh_x t (r.1 / 2 % 3) (if r.1 % 2 = 1 then bump MEM_LINKCE_count t r.2 else r.2)

/-- Packet y can be served by its memory port: a read or a write to device memory, in its turn. -/
def portServes (s : State) (y : Xact) (w : Bool) : Bool :=
  y.stage == 2 && y.wr == w && !y.host && !blockTested s (portOf s y.pa).1 && portTurn s y

/-- MEMORY_READ: the port serves the admitted read of request i, its own or that of a table entry (R354, R370, R376). -/
def execMemoryRead (i : Nat) (s : State) : Result :=
  .next (match fabGet s i with
  | none => s
  | some x =>
    let y := pktOf x
    let t := (portOf s y.pa).1
    if !portServes s y false then s
    else
      let r := memRead y.brand y.pa y.len s
      let s1 := txnEnd t (portSeen t r.2.2)
      if x.stage = 10 then walkGot i x (r.2.1.any id) (leNat r.1) s1
      else fabAnswer i x (if r.2.1.any id then 3 else 0) r.1 r.2.1 s1)

/-- The port stores admitted write i and acknowledges it (R354, R371). -/
def memoryWrite (i : Nat) (s : State) : State :=
  match fabGet s i with
  | none => s
  | some x =>
    let t := (portOf s x.pa).1
    if !portServes s x true then s
    else fabAnswer i x 0 [] [] (txnEnd t (portSeen t (memWrite x.pa (x.data.take x.len) x.pf s)))

/-- MEMORY_SCRUB: port p reads the next line of its pass, while no admitted request waits for that channel (R372). Its
capture carries brand 0x00 (DESIGN CHOICE, log 21). -/
def execMemoryScrub (p : Nat) (s : State) : Result :=
  let lines := memQ s / 64
  let k := mapGet 0 s.scrubAt p
  let busy := (s.fab.map pktOf).any (fun x => x.stage == 2 && !x.host && (portOf s x.pa).1 == p &&
    (channelOf s (portOf s x.pa).2).1 == (channelOf s (64 * k)).1)
  .next (if 24 ≤ p ∨ rd s MEM_SCRUB_pass_h p = 0 ∨ lines = 0 ∨ busy then s
  else
    let r := readLine 0 1 (addrOfPort s p (64 * (k % lines))) s
    { r.2 with scrubAt := mapSet 0 r.2.scrubAt p ((k + 1) % lines) })

/-- HOST_PATH_WRITE: write i enters H0's posted queue and is acknowledged (R354); in integrity mode it is held at its entry
and acknowledged by its log entry (R508, R509). -/
def execHostPathWrite (i : Nat) (s : State) : Result :=
  .next (match fabGet s i with
  | none => s
  | some x =>
    if !x.wr ∨ !x.host then s
    else if x.stage = 2 then
      if !portTurn s x then s
      else fabAnswer i x 0 [] [] (emit .hostWrite ([x.pasid, x.pa, x.len] ++ x.pf.map b2n ++ x.data.take x.len) s)
    else match brandPdk x.brand with
      | none => s
      | some n =>
        if x.stage = 1 ∧ integrityOf s n ∧ fabHead s i x ∧ (match x.ret with | .held _ => false | _ => true) = true then
          (if holdFits s n (holdSpace x.len) then
            fabAnswer i x 0 [] [] (holdOut n 1 ([x.root, x.va, x.pa, x.len, x.pasid] ++ x.pf.map b2n) (x.data.take x.len) (holdSpace x.len) s)
           else holdStuck n s)
        else s)

/-- HOST_PATH_READ: admitted read i goes out to the host. -/
def execHostPathRead (i : Nat) (s : State) : Result :=
  .next (match fabGet s i with
  | none => s
  | some x =>
    if x.stage = 2 ∧ x.host ∧ !x.wr ∧ portTurn s x then emit .hostRead [x.pasid, x.pa, x.len] (fabSet i { x with stage := 3 } s)
    else s)

/-- The lines of a request of len bytes at va: as many bad marks. -/
def allLines (x : Xact) (b : Bool) : List Bool := (linesOf x.va x.len).map (fun _ => b)

/-- HOST_READ_COMPLETION: the host's data for read i; `ep` marks it poisoned; an unsuccessful completion brings no data
(R359). -/
def execHostReadCompletion (i : Nat) (ok ep : Bool) (data : List Nat) (s : State) : Result :=
  .next (match fabGet s i with
  | none => s
  | some x =>
    if x.stage ≠ 3 then s
    else
      let bs := (data ++ List.replicate x.len 0).take x.len
      let f := match brandPdk x.brand with
        | some n => n + 1
        | none => 0
      fabAnswer i x (if ok && !ep then 0 else 3) (bs.map (· % 256)) (allLines x (!ok || ep)) (if ep then aerAdvisory f 12 s else s))

/-- COMPLETION_TIMEOUT: no completion of read i came: logged, answered with status 3 (R682). -/
def execCompletionTimeout (i : Nat) (s : State) : Result :=
  .next (match fabGet s i with
  | none => s
  | some x =>
    if x.stage ≠ 3 then s
    else
      let f := match brandPdk x.brand with
        | some n => n + 1
        | none => 0
      fabAnswer i x 3 (List.replicate x.len 0) (allLines x true) (aerUncorr f 14 s))

/-- HOST_WRITE_DISCARD: write i has waited 45 us at H0: discarded, answered host-lost (R355). -/
def execHostWriteDiscard (i : Nat) (s : State) : Result :=
  .next (match fabGet s i with
  | none => s
  | some x =>
    if x.stage = 2 ∧ x.host ∧ x.wr then fabAnswer i x 4 [] [] (bump PST_HOSTLOST_count 10 s) else s)

/-! ### The gate of a core (R48, R106, R112) -/

/-- A declared Muster window on core c. -/
def musterWindow (s : State) (c : Nat) : Bool := rdB s (GAT_CORE_muster.ix (coreLocal c)) (coreDie c)

/-- The gate of core c admits a brand to its core window (`win`) or its scratchpad window. -/
def admitCore (s : State) (brand c : Nat) (win : Bool) : Bool :=
  match corePdk s c with
  | none => brand == 0 || brand == 1 || brand == 2 || brand == 4
  | some n =>
    brand == 0 || brand == 2 || (!pdkClosed s n && ((win && brand == 1) || brand == pdkBrand n || (brand == 4 && musterWindow s c)))

end Sys2Proof.Machine
end

