-- ==== Sys2Proof/Machine/TraceGen.lean ====
section
/-! DEFINITION. The trace unit of a core (spec/20_footfall.md R633-R642): records made, anchors, lines, drops. Source u is 0-3
for the tasks and 4 for the router; an address is a bundle address, a count is RETIRED or the period count. -/

namespace Sys2Proof.Machine

/-- Source u is on (FTF_STAT.on). -/
def srcOn (s : State) (p u : Nat) : Bool := natBit (rd s FTF_STAT_on p) u

/-- Turn source u on or off. -/
def setSrc (p u : Nat) (on : Bool) (s : State) : State := wr FTF_STAT_on p (natSetBit (rd s FTF_STAT_on p) u on) s

/-- FIFO words in use (R641). -/
def trUse (c : Core) : Nat := c.trOpen.length + (c.trLines.map List.length).foldl (· + ·) 0

/-- FTF_STAT.fifo follows the FIFO. -/
def trShow (p : Nat) (s : State) : State := wr FTF_STAT_fifo p (trUse (coreGet s p)) s

/-- Close the open line, where it holds anything. -/
def closeLine (c : Core) : Core :=
  if c.trOpen.isEmpty then c else { c with trLines := c.trLines ++ [c.trOpen], trOpen := [] }

/-- Append a record's words; a record never spans two lines of 7 words (R641). -/
def appendRecord (ws : List Nat) (c : Core) : Core :=
  let c1 := if 7 < c.trOpen.length + ws.length then closeLine c else c
  let c2 := { c1 with trOpen := c1.trOpen ++ ws }
  if c2.trOpen.length = 7 then closeLine c2 else c2

/-- The FIFO words a source of a priority may use (R642). -/
def trLimit (prio : Nat) : Nat := if prio = 3 then 32 else if prio = 2 then 48 else if prio = 1 then 56 else 64

/-- Deliver a generated record to the FIFO, or drop it (R642). -/
def pushRecord (p u : Nat) (anchor : Bool) (ws : List Nat) (s : State) : State :=
  let c := coreGet s p
  let prio := rd s (FTF_SRC_prio.ix u) p
  if (natBit c.trMute u && !anchor) || trLimit prio < trUse c + ws.length then
    bump (FTF_DROP_count.ix prio) p
      (coreMod p (fun c => { c with trMute := natSetBit c.trMute u true, trDropped := Nat.min (c.trDropped + 1) 0xFFFFFFFF }) s)
  else trShow p (coreMod p (fun c => appendRecord ws { c with trMute := natSetBit c.trMute u false }) s)

/-- Word 0 of a task record: length code, source, kind, sequence, address difference, count difference (R633). -/
def recWord0 (len u kind seq a r : Nat) : Nat :=
  len + u * 2 ^ 2 + kind * 2 ^ 5 + seq % 2 ^ 16 * 2 ^ 10 + a % 2 ^ 12 * 2 ^ 26 + r % 2 ^ 26 * 2 ^ 38

/-- Word 0 of a router record; d is the difference of the period count. -/
def recWord0R (len kind seq d : Nat) : Nat := len + 4 * 2 ^ 2 + kind * 2 ^ 5 + seq % 2 ^ 16 * 2 ^ 10 + d % 2 ^ 38 * 2 ^ 26

/-- The next sequence number of a source is used up. -/
def stepSeq (p u : Nat) (s : State) : State := wr (FTF_SEQ_seq.ix u) p (rd s (FTF_SEQ_seq.ix u) p + 1) s

/-- Generate the anchor before a record at address `addr` and count `cnt` (R636). -/
def genAnchor (p u addr cnt : Nat) (s : State) : State :=
  let seq := rd s (FTF_SEQ_seq.ix u) p
  let ws := if u = 4 then [recWord0R 1 0xE seq 0, seq + cnt % 2 ^ 32 * 2 ^ 32]
            else [recWord0 1 u 0xE seq 0 (cnt % 2 ^ 26), seq + addr % 2 ^ 11 * 2 ^ 32 + cnt / 2 ^ 26 % 2 ^ 21 * 2 ^ 43]
  pushRecord p u true ws (stepSeq p u s)

/-- Generate one record of source u: kind, further words, address and count it names (R633-R636). -/
def genRecord (p u kind addr cnt : Nat) (more : List Nat) (s : State) : State :=
  let c := coreGet s p
  let seq := rd s (FTF_SEQ_seq.ix u) p
  let pa := mapGet 0 c.trPrev (2 * u)
  let pr := mapGet 0 c.trPrev (2 * u + 1)
  let dr := if u = 4 then cnt - pr else wrapInt 47 ((cnt : Int) - (pr : Int))
  let anchor := seq % 64 = 0 ∨ (if u = 4 then 2 ^ 38 else 2 ^ 26) ≤ dr
  let s1 := if anchor then genAnchor p u addr cnt s else s
  let a := if anchor then 0 else wrapInt 12 ((addr : Int) - (pa : Int))
  let r := if anchor then 0 else dr
  let seq1 := rd s1 (FTF_SEQ_seq.ix u) p
  let w0 := if u = 4 then recWord0R more.length kind seq1 r else recWord0 more.length u kind seq1 a r
  pushRecord p u false (w0 :: more) (stepSeq p u
    (coreMod p (fun c => { c with trPrev := mapSet 0 (mapSet 0 c.trPrev (2 * u) addr) (2 * u + 1) cnt }) s1))

/-- Sources at a section start (R635, R638, R639): sequence numbers and history from 0, and which sources are on. -/
def traceStart (p : Nat) (s : State) : State :=
  let startFor (s : State) (t : Nat) : Bool := (List.range 4).any (fun k =>
    rdB s (FTF_CMP_valid.ix k) p && rd s (FTF_CMP_action.ix k) p == 1 && natBit (rd s (FTF_CMP_tmask.ix k) p) t)
  (List.range 5).foldl (fun s u =>
    setSrc p u (rdB s (FTF_SRC_en.ix u) p && (u == 4 || !startFor s u)) (wr (FTF_SEQ_seq.ix u) p 0 s))
    (coreMod p (fun c => { c with trPrev := [], trMute := 0 }) s)

/-- Comparator k matches the bundle at address a of task t for an action (R638). -/
def cmpMatch (s : State) (p t a action : Nat) : Bool := (List.range 4).any (fun k =>
  rdB s (FTF_CMP_valid.ix k) p && rd s (FTF_CMP_action.ix k) p == action && natBit (rd s (FTF_CMP_tmask.ix k) p) t &&
    rd s (FTF_CMP_lo.ix k) p ≤ a && a ≤ rd s (FTF_CMP_hi.ix k) p)

/-- Some valid include comparator names task t. -/
def cmpIncludes (s : State) (p t : Nat) : Bool := (List.range 4).any (fun k =>
  rdB s (FTF_CMP_valid.ix k) p && rd s (FTF_CMP_action.ix k) p == 0 && natBit (rd s (FTF_CMP_tmask.ix k) p) t)

/-- An include comparator does not shut the bundle out (R638). -/
def cmpAdmits (s : State) (p t a : Nat) : Bool := !cmpIncludes s p t || cmpMatch s p t a 0

end Sys2Proof.Machine
end

