-- ==== Sys2Proof/Machine/Crook.lean ====
section
/-! DEFINITION. The crook trigger and the stop of a paddock (spec/20_footfall.md R646-R648): steps K1 and K2 in one, and the
release. -/

namespace Sys2Proof.Machine

/-- Halt the Armed contexts of paddock n with cause command; a release resumes them (R647, R648). -/
def crookContexts (n : Nat) (s : State) : State :=
  ((pdkCtxs s n).filter (fun g => ctxState s g == ctxArmed)).foldl
    (fun s g => ctxMod g (fun c => { c with byCrook := true }) (haltByCommand g s)) s

/-- A trigger fires in the FTF_ instance of the core at paddock-relative index `idx` (R646, R647): it is disarmed; the stop term
is set, every task of the paddock halts with reason 4 and its contexts halt. One stop runs at a time. `block` names the Tally
block held, plus 1; 0 for none. The flush of K3 begins (R647). -/
def crookFire (n idx : Nat) (tally : Bool) (block : Nat) (s : State) : State :=
  let s1 := wr FTF_CROOK_en (pcore s (pdkCore s n idx)) 0 s
  if (pdkGet s1 n).crook ≠ 0 then s1
  else
    let s2 := wr FTF_PSTAT_trig_tally (ftfI s n) (b2n tally) (wr FTF_PSTAT_trig_core (ftfI s n) idx s1)
    let s3 := pdkMod n (fun x => { x with crook := 1, crookBlock := block }) (meshMod n (fun m => { m with hCrook := true }) s2)
    sinkMod n (fun k => { k with flush := true }) (crookContexts n ((pdkPcores s n).foldl (fun s p => haltTasks p 4 s) s3))

/-- Resume every task of core p that halted with reason 4. -/
def crookTasks (p : Nat) (s : State) : State :=
  (List.range 4).foldl (fun s t =>
    if taskState s p t = 0 ∧ rd s (LEA_TSTAT_reason.ix t) p = 4 then wr (LEA_TSTAT_state.ix t) p 1 s else s) s

/-- The stop ends: the term, the tasks, the contexts, stopped (R648). -/
def crookRelease (n : Nat) (s : State) : State :=
  let gs := (pdkCtxs s n).filter (fun g => (ctxGet s g).byCrook)
  wr FTF_PSTAT_stopped (ftfI s n) 0
    (gs.foldl (fun s g => ctxMod g (fun c => { c with byCrook := false })
        (if crd s DRV_CTXSTAT_halt_cause g = 1 then resumeCtx g s else s))
      ((pdkPcores s n).foldl (fun s p => crookTasks p s)
        (pdkMod n (fun x => { x with crook := 0, crookBlock := 0 }) (meshMod n (fun m => { m with hCrook := false }) s))))

end Sys2Proof.Machine
end

