-- ==== Sys2Proof/Machine/Float.lean ====
section
/-! DEFINITION. Numbers of the matrix and vector engines (R166, R172, R204-R207, R212): exact values as sign, magnitude and
power of two, rounded once. -/

namespace Sys2Proof.Machine

/-- A value: not a number, an infinity, or (-1)^neg m 2^e; a zero keeps its sign. -/
inductive FV where
  | nan
  | inf (neg : Bool)
  | num (neg : Bool) (m : Nat) (e : Int)
deriving DecidableEq, Repr

/-- A binary format: fraction bits, bias, magnitude bits of the largest finite value, has infinities, magnitude bits of the
canonical NaN, sign position (R166, R204). -/
structure Fmt where
  frac : Nat
  bias : Nat
  maxFin : Nat
  hasInf : Bool
  cnan : Nat
  sign : Nat
deriving DecidableEq, Repr

/-- The formats of R166 and FP32. -/
def fmtE4M3 : Fmt := ⟨3, 7, 0x7E, false, 0x7F, 7⟩
def fmtE5M2 : Fmt := ⟨2, 15, 0x7B, true, 0x7F, 7⟩
def fmtBF16 : Fmt := ⟨7, 127, 0x7F7F, true, 0x7FC0, 15⟩
def fmtFP16 : Fmt := ⟨10, 15, 0x7BFF, true, 0x7E00, 15⟩
def fmtFP32 : Fmt := ⟨23, 127, 0x7F7FFFFF, true, 0x7FC00000, 31⟩

/-- The value of the bits of a format. -/
def fvDecode (f : Fmt) (bits : Nat) : FV :=
  let neg := natBit bits f.sign
  let mag := bits % 2 ^ f.sign
  if f.maxFin < mag then (if f.hasInf ∧ mag = f.maxFin + 1 then .inf neg else .nan)
  else
    let ex := mag / 2 ^ f.frac
    let fr := mag % 2 ^ f.frac
    if ex = 0 then .num neg fr (1 - (f.bias : Int) - f.frac)
    else .num neg (fr + 2 ^ f.frac) ((ex : Int) - f.bias - f.frac)

/-- Number of bits of a magnitude. -/
def bitLen (m : Nat) : Nat := if m = 0 then 0 else Nat.log2 m + 1

/-- m / 2^k rounded to an integer: to nearest even, or toward zero where rtz. -/
def roundShift (rtz : Bool) (m k : Nat) : Nat :=
  let q := m / 2 ^ k
  let r := m % 2 ^ k
  if rtz ∨ k = 0 then q
  else if 2 ^ (k - 1) < r ∨ (r = 2 ^ (k - 1) ∧ q % 2 = 1) then q + 1 else q

/-- The magnitude bits of m 2^e (m not 0) rounded once to a format with unbounded exponents above (R206). -/
def roundMag (f : Fmt) (rtz : Bool) (m : Nat) (e : Int) : Nat :=
  let emin : Int := 1 - (f.bias : Int)
  let top : Int := e + (bitLen m : Int) - 1
  let qe : Int := (if top < emin then emin else top) - f.frac
  let q := if qe ≤ e then m * 2 ^ (e - qe).toNat else roundShift rtz m (qe - e).toNat
  q + (qe - (emin - f.frac)).toNat * 2 ^ f.frac

/-- The bits of a value rounded to a format; true where a finite value or an infinity saturated (R206). -/
def fvEncode (f : Fmt) (rtz : Bool) (v : FV) : Nat × Bool :=
  match v with
  | .nan => (f.cnan, false)
  | .inf neg =>
    if f.sign = 7 ∧ !f.hasInf then (b2n neg * 2 ^ f.sign + f.maxFin, true)
    else (b2n neg * 2 ^ f.sign + f.maxFin + 1, false)
  | .num neg m e =>
    if m = 0 then (b2n neg * 2 ^ f.sign, false)
    else
      let mag := roundMag f rtz m e
      if mag ≤ f.maxFin then (b2n neg * 2 ^ f.sign + mag, false)
      else if f.sign = 7 then (b2n neg * 2 ^ f.sign + f.maxFin, true)
      else (b2n neg * 2 ^ f.sign + (if rtz then f.maxFin else f.maxFin + 1), false)

/-- The value of a signed integer. -/
def fvInt (z : Int) : FV := .num (z < 0) z.natAbs 0

/-- A value rounded to a signed integer of some bits, as bits; true where it saturated (R206). -/
def intEncode (bits : Nat) (rtz : Bool) (v : FV) : Nat × Bool :=
  let lo : Int := -(2 ^ (bits - 1) : Nat)
  let hi : Int := (2 ^ (bits - 1) : Nat) - 1
  match v with
  | .nan => (0, false)
  | .inf neg => (wrapInt bits (if neg then lo else hi), true)
  | .num neg m e =>
    let a := if 0 ≤ e then m * 2 ^ e.toNat else roundShift rtz m (-e).toNat
    let z : Int := if neg then -(a : Int) else a
    (wrapInt bits (clampInt lo hi z), decide (z < lo ∨ hi < z))

/-- The value of the bits of a storage type (R204). -/
def valOf (dt bits : Nat) : FV :=
  match dt with
  | 0 => fvInt (sext 8 bits)
  | 1 => fvDecode fmtE4M3 bits
  | 2 => fvDecode fmtE5M2 bits
  | 3 => fvInt (sext 16 bits)
  | 4 => fvDecode fmtBF16 bits
  | 5 => fvDecode fmtFP16 bits
  | 6 => fvInt (sext 32 bits)
  | _ => fvDecode fmtFP32 bits

/-- A value converted to a storage type (R206). -/
def convertTo (dt : Nat) (rtz : Bool) (v : FV) : Nat × Bool :=
  match dt with
  | 0 => intEncode 8 rtz v
  | 1 => fvEncode fmtE4M3 rtz v
  | 2 => fvEncode fmtE5M2 rtz v
  | 3 => intEncode 16 rtz v
  | 4 => fvEncode fmtBF16 rtz v
  | 5 => fvEncode fmtFP16 rtz v
  | 6 => intEncode 32 rtz v
  | _ => fvEncode fmtFP32 rtz v

/-! ### Exact arithmetic -/

/-- The signed integer of a finite value over a common exponent. -/
def scaled (neg : Bool) (m : Nat) (e base : Int) : Int :=
  let a : Int := (m * 2 ^ (e - base).toNat : Nat)
  if neg then -a else a

/-- The exact sum; infinities of opposite signs give not-a-number; an exact zero of terms with opposite signs is +0. -/
def fvAdd (a b : FV) : FV :=
  match a, b with
  | .nan, _ => .nan
  | _, .nan => .nan
  | .inf x, .inf y => if x = y then .inf x else .nan
  | .inf x, .num _ _ _ => .inf x
  | .num _ _ _, .inf y => .inf y
  | .num nx mx ex, .num ny my ey =>
    let base := if ex < ey then ex else ey
    let z := scaled nx mx ex base + scaled ny my ey base
    if z = 0 then .num (nx && ny) 0 0 else .num (z < 0) z.natAbs base

/-- The exact product; 0 times an infinity is not a number. -/
def fvMul (a b : FV) : FV :=
  match a, b with
  | .nan, _ => .nan
  | _, .nan => .nan
  | .inf x, .inf y => .inf (x != y)
  | .inf x, .num n m _ => if m = 0 then .nan else .inf (x != n)
  | .num n m _, .inf y => if m = 0 then .nan else .inf (n != y)
  | .num nx mx ex, .num ny my ey => .num (nx != ny) (mx * my) (ex + ey)

/-- The value with its sign inverted. -/
def fvNeg (a : FV) : FV :=
  match a with
  | .nan => .nan
  | .inf x => .inf (!x)
  | .num n m e => .num (!n) m e

/-- a < b as numbers (false with a NaN). -/
def fvLt (a b : FV) : Bool :=
  match a, b with
  | .nan, _ => false
  | _, .nan => false
  | .inf x, .inf y => x && !y
  | .inf x, .num _ _ _ => x
  | .num _ _ _, .inf y => !y
  | .num nx mx ex, .num ny my ey =>
    let base := if ex < ey then ex else ey
    decide (scaled nx mx ex base < scaled ny my ey base)

/-- a = b as numbers (false with a NaN; zeros are equal). -/
def fvEq (a b : FV) : Bool :=
  match a, b with
  | .nan, _ => false
  | _, .nan => false
  | .inf x, .inf y => x == y
  | .inf _, .num _ _ _ => false
  | .num _ _ _, .inf _ => false
  | .num nx mx ex, .num ny my ey =>
    let base := if ex < ey then ex else ey
    decide (scaled nx mx ex base = scaled ny my ey base)

/-- The value is not a number. -/
def FV.isNan (v : FV) : Bool :=
  match v with
  | .nan => true
  | _ => false

/-- The sign of a value. -/
def FV.neg (v : FV) : Bool :=
  match v with
  | .nan => false
  | .inf n => n
  | .num n _ _ => n

/-- Minimum and maximum, -0 below +0, not-a-number if either is (R207). -/
def fvMin (a b : FV) : FV :=
  if a.isNan || b.isNan then .nan
  else if fvLt a b || (fvEq a b && a.neg) then a else b
def fvMax (a b : FV) : FV :=
  if a.isNan || b.isNan then .nan
  else if fvLt b a || (fvEq a b && !a.neg) then a else b

/-- Integer square root by bits: the largest r with r r ≤ n. -/
def isqrt (n : Nat) : Nat :=
  (List.range (bitLen n / 2 + 1)).reverse.foldl (fun r k => if (r + 2 ^ k) * (r + 2 ^ k) ≤ n then r + 2 ^ k else r) 0

/-- A quotient kept exact enough to round once: an odd last bit stands for a remainder. -/
def sticky (q : Nat) (exact_ : Bool) : Nat := 2 * q + b2n (!exact_)

/-- 1 / a (R212). -/
def fvRecip (a : FV) : FV :=
  match a with
  | .nan => .nan
  | .inf n => .num n 0 0
  | .num n m e =>
    if m = 0 then .inf n
    else
      let k := bitLen m + 64
      .num n (sticky (2 ^ k / m) (2 ^ k % m == 0)) (-(k : Int) - e - 1)

/-- Magnitude and even exponent of m 2^e. -/
def evenExp (m : Nat) (e : Int) : Nat × Int := if e % 2 = 0 then (m, e) else (2 * m, e - 1)

/-- The square root (R212): not a number below -0. -/
def fvSqrt (a : FV) : FV :=
  match a with
  | .nan => .nan
  | .inf n => if n then .nan else .inf false
  | .num n m e =>
    if m = 0 then .num n 0 0
    else if n then .nan
    else
      let x := evenExp m e
      let big := x.1 * 2 ^ 128
      let r := isqrt big
      .num false (sticky r (r * r == big)) (x.2 / 2 - 64 - 1)

/-- 1 / square root (R212). -/
def fvRsqrt (a : FV) : FV :=
  match a with
  | .nan => .nan
  | .inf n => if n then .nan else .num false 0 0
  | .num n m e =>
    if m = 0 then .inf n
    else if n then .nan
    else
      let x := evenExp m e
      let k := bitLen x.1 + 64
      let r := isqrt (2 ^ (2 * k) / x.1)
      .num false (sticky r (r * r * x.1 == 2 ^ (2 * k))) (-(k : Int) - x.2 / 2 - 1)

/-- Round once to FP32 to nearest even, as the matrix engine adds (R172): an exact zero is +0. -/
def roundFp32 (v : FV) : Nat :=
  match v with
  | .num _ 0 _ => 0
  | _ => (fvEncode fmtFP32 false v).1

end Sys2Proof.Machine
end

