-- ==== Sys2Proof/Machine/Operands.lean ====
section
/-! DEFINITION. Operand forms of the four slots (R135-R138, R152, R169, R173, R199, R208-R215, R270, R315, R395, R425, R459,
R640): which bits a format may set, which registers it reads, matrix operand words, tensor descriptors, ranges, and the
resources the scoreboard tracks. -/

namespace Sys2Proof.Machine

/-- Bits hi to lo set. -/
def bitsMask (hi lo : Nat) : Nat := 2 ^ (hi + 1) - 2 ^ lo

/-- A set of bit ranges. -/
def fieldsMask (fs : List (Nat × Nat)) : Nat := fs.foldl (fun a f => a + bitsMask f.1 f.2) 0

/-- Opcode and guard of a slot word (R135). -/
def slotOp (w : Nat) : Nat := natBits w 63 56
def slotGuard (w : Nat) : Nat := natBits w 55 52

/-- The four slots of a bundle. -/
def slotS (b : Nat) : Nat := natBits b 63 0
def slotM (b : Nat) : Nat := natBits b 127 64
def slotV (b : Nat) : Nat := natBits b 191 128
def slotX (b : Nat) : Nat := natBits b 255 192

/-! ### Named bits of each format, fields that must be 0 left out (R138, R152) -/

/-- S slot: the fields an opcode may set; none where the opcode is not defined. -/
def sFields (op : Nat) : Option (List (Nat × Nat)) :=
  if 0x01 ≤ op ∧ op ≤ 0x11 then some [(51, 47), (46, 42), (41, 37)]
  else if (0x20 ≤ op ∧ op ≤ 0x23) ∨ op = 0x27 then some [(51, 47), (46, 42), (31, 0)]
  else if 0x24 ≤ op ∧ op ≤ 0x26 then some [(51, 47), (46, 42), (5, 0)]
  else if op = 0x28 ∨ op = 0x29 then some [(51, 47), (31, 0)]
  else if 0x30 ≤ op ∧ op ≤ 0x35 then some [(49, 47), (46, 42), (41, 37)]
  else if 0x38 ≤ op ∧ op ≤ 0x3D then some [(49, 47), (46, 42), (31, 0)]
  else if 0x40 ≤ op ∧ op ≤ 0x42 then some [(49, 47), (44, 42), (39, 37)]
  else if op = 0x43 then some [(49, 47), (44, 42)]
  else if (0x48 ≤ op ∧ op ≤ 0x4E) ∨ (0x50 ≤ op ∧ op ≤ 0x53) ∨ op = 0x58 then some [(51, 47), (46, 42), (31, 0)]
  else if op = 0x59 ∨ op = 0x5A then some [(51, 47), (46, 42), (34, 32)]
  else if op = 0x5C then some [(51, 47), (46, 42), (36, 33)]
  else if op = 0x5D then some [(46, 42), (41, 37), (36, 33)]
  else if op = 0x60 then some [(10, 0)]
  else if op = 0x61 then some [(51, 47), (10, 0)]
  else if op = 0x62 then some [(46, 42)]
  else if op = 0x63 then some [(51, 47), (46, 42)]
  else if op = 0x64 then some [(48, 47), (46, 42), (10, 0)]
  else if op = 0x65 then some [(48, 47), (42, 32), (31, 0)]
  else if op = 0x66 then some [(48, 47)]
  else if op = 0x67 then some []
  else if op = 0x68 then some [(2, 0)]
  else if op = 0x70 then some [(51, 47), (11, 0)]
  else if op = 0x71 then some [(46, 42), (11, 0)]
  else none

/-- M slot (R173). -/
def mFields (op : Nat) : Option (List (Nat × Nat)) :=
  if op = 0x01 then some [(49, 47), (41, 37)]
  else if op = 0x08 then some [(51, 50), (49, 47), (46, 42), (41, 37), (36, 32), (31, 24), (23, 23)]
  else if op = 0x09 then some [(51, 50), (49, 47), (46, 42), (36, 32), (23, 23)]
  else if op = 0x0A then some [(51, 50), (49, 47), (45, 42), (36, 32), (23, 23)]
  else none

/-- The bits a specifier at lo may set: a tile specifier keeps bit 4 at 0 (R208). -/
def specFields (w lo : Nat) : List (Nat × Nat) :=
  if natBit w (lo + 5) then [(lo + 5, lo + 5), (lo + 3, lo)] else [(lo + 5, lo)]

/-- V slot (R209, R210, R215). -/
def vFields (op w : Nat) : Option (List (Nat × Nat)) :=
  let va : List (Nat × Nat) := [(28, 27), (26, 22), (21, 17), (16, 12), (11, 8), (7, 7)] ++ specFields w 46
  if op = 0x01 then
    some ((33, 29) :: va ++ specFields w 40 ++ (if natBits w 33 29 = 4 then specFields w 34 else []))
  else if op = 0x02 then some ((33, 29) :: va ++ specFields w 40 ++ specFields w 34)
  else if op = 0x03 then some ((33, 29) :: va ++ specFields w 40)
  else if op = 0x04 then some ((33, 29) :: va ++ specFields w 40)
  else if op = 0x05 then some va
  else if op = 0x10 then
    some ([(45, 44), (43, 42), (36, 35), (24, 23), (17, 13), (12, 9), (8, 8)] ++ specFields w 46 ++
      (if natBits w 43 42 = 2 then [(41, 37)] else []) ++ (if natBits w 36 35 = 2 then [(34, 30)] else []) ++
      (if natBits w 43 42 = 1 ∨ natBits w 36 35 = 1 then [(29, 25)] else []) ++
      (if natBits w 24 23 = 2 then [(22, 18)] else []))
  else if op = 0x11 then some ([(45, 44), (17, 13), (12, 9)] ++ specFields w 46)
  else none

/-- X slot (R270, R315, R395, R425, R459, R640). -/
def xFields (op w : Nat) : Option (List (Nat × Nat)) :=
  if op = 0x01 ∨ op = 0x02 then
    some ((36, 36) :: specFields w 46 ++ (if natBit w 51 then [(45, 41), (40, 37)] else []) ++
      (if natBit w 36 then [(35, 31), (30, 30)] else []))
  else if op = 0x03 then some [(29, 14)]
  else if 0x10 ≤ op ∧ op ≤ 0x13 then some [(51, 47)]
  else if op = 0x20 then some [(51, 47), (46, 42), (41, 35)]
  else if op = 0x21 then some [(46, 42), (41, 35), (31, 26)]
  else if op = 0x22 ∨ op = 0x23 then some [(51, 47), (31, 26)]
  else if op = 0x24 then some [(31, 26)]
  else if op = 0x25 then some [(46, 42), (34, 32)]
  else if op = 0x30 then some [(51, 47), (46, 42)]
  else if op = 0x31 then some [(51, 47), (46, 42), (36, 35)]
  else if op = 0x32 then some [(51, 47), (46, 42), (41, 37), (36, 35), (34, 32), (31, 21), (20, 5)]
  else if op = 0x33 then some [(51, 47), (41, 37)]
  else if op = 0x34 then some [(51, 47), (41, 37), (20, 5)]
  else if op = 0x40 then some [(51, 47), (41, 37)]
  else if op = 0x41 then some [(51, 47), (46, 42), (41, 37)]
  else if op = 0x50 then some [(51, 47)]
  else none

/-- Opcode and reserved-bit checks of a slot, made whatever the guard (R137, R138): the exception code, if any. -/
def slotForm (fields : Option (List (Nat × Nat))) (w : Nat) : Option Nat :=
  if slotOp w = 0 then (if w = 0 then none else some 0x02)
  else match fields with
    | none => some 0x01
    | some fs => if Nat.land (w % 2 ^ 52) (2 ^ 52 - 1 - fieldsMask fs) = 0 then none else some 0x02

/-! ### Register operands (R137, R140) -/

/-- The general registers an S slot reads. -/
def sReads (w : Nat) : List Nat :=
  let op := slotOp w
  let rd := natBits w 51 47
  let ra := natBits w 46 42
  let rb := natBits w 41 37
  if 0x01 ≤ op ∧ op ≤ 0x11 then [ra, rb]
  else if 0x20 ≤ op ∧ op ≤ 0x27 then [ra]
  else if op = 0x29 then [rd]
  else if 0x30 ≤ op ∧ op ≤ 0x35 then [ra, rb]
  else if 0x38 ≤ op ∧ op ≤ 0x3D then [ra]
  else if 0x48 ≤ op ∧ op ≤ 0x4E then [ra]
  else if 0x50 ≤ op ∧ op ≤ 0x53 then [rd, ra]
  else if op = 0x58 ∨ op = 0x59 ∨ op = 0x5C then [ra]
  else if op = 0x5D then [ra, rb]
  else if op = 0x62 ∨ op = 0x63 ∨ op = 0x64 ∨ op = 0x71 then [ra]
  else []

/-- The general registers an M slot reads, in the order its values are kept. -/
def mReads (w : Nat) : List Nat :=
  let op := slotOp w
  if op = 0x01 then [natBits w 41 37]
  else if op = 0x08 then [natBits w 46 42, natBits w 41 37]
  else if op = 0x09 then [natBits w 46 42]
  else []

/-- The general registers a V slot reads. -/
def vReads (w : Nat) : List Nat :=
  let op := slotOp w
  if op = 0x03 ∨ op = 0x05 then [natBits w 26 22]
  else if op = 0x10 ∧ (natBits w 43 42 = 1 ∨ natBits w 36 35 = 1) then [natBits w 29 25]
  else []

/-- The general registers an X slot reads. -/
def xReads (w : Nat) : List Nat :=
  let op := slotOp w
  let r1 := natBits w 51 47
  let r2 := natBits w 46 42
  let r3 := natBits w 41 37
  if op = 0x20 then [r1, r2]
  else if op = 0x21 ∨ op = 0x25 then [r2]
  else if op = 0x22 ∨ op = 0x23 ∨ op = 0x50 then [r1]
  else if op = 0x30 ∨ op = 0x31 then [r1, r2]
  else if op = 0x32 ∨ op = 0x41 then [r1, r2, r3]
  else if op = 0x33 ∨ op = 0x34 ∨ op = 0x40 then [r1, r3]
  else []

/-! ### Tensor descriptors and tiles (R198-R202, R204) -/

/-- Bytes of an element of a storage type (R204); reserved codes count as 1. -/
def elemSize (dt : Nat) : Nat := if dt = 6 ∨ dt = 7 then 4 else if 3 ≤ dt ∧ dt ≤ 5 then 2 else 1

/-- A tensor descriptor taken apart (R199). -/
structure Tensor where
  base : Nat
  dtype : Nat
  n0 : Nat
  n1 : Nat
  n2 : Nat
  n3 : Nat
  s1 : Nat
  s2 : Nat
  s3 : Nat
  /-- a reserved bit is set -/
  resv : Bool
deriving DecidableEq, Repr

/-- The descriptor in slot d of core p (R199). -/
def tensorOf (s : State) (p d : Nat) : Tensor :=
  let w0 := descGet s p d 0
  let w1 := descGet s p d 1
  let w2 := descGet s p d 2
  { base := natBits w0 19 0, dtype := natBits w0 23 20,
    n0 := natBits w1 15 0, n1 := natBits w1 31 16, n2 := natBits w1 47 32, n3 := natBits w1 63 48,
    s1 := natBits w2 19 0, s2 := natBits w2 39 20, s3 := natBits w2 59 40,
    resv := natBits w0 63 24 != 0 || natBits w2 63 60 != 0 || (List.range 5).any (fun k => descGet s p d (3 + k) != 0) }

/-- A tensor's extents. -/
def Tensor.ext (x : Tensor) : List Nat := [x.n0, x.n1, x.n2, x.n3]

/-- A reserved bit, a reserved dtype or an extent of 0 (R222, R273). -/
def Tensor.malformed (x : Tensor) : Bool :=
  x.resv || 8 ≤ x.dtype || x.n0 == 0 || x.n1 == 0 || x.n2 == 0 || x.n3 == 0

/-- The end of the range of a tensor (R200). -/
def Tensor.hi (x : Tensor) : Nat :=
  x.base + (x.n0 - 1) * elemSize x.dtype + (x.n1 - 1) * x.s1 + (x.n2 - 1) * x.s2 + (x.n3 - 1) * x.s3 + elemSize x.dtype

/-- The relative address of an element (R200). -/
def Tensor.addr (x : Tensor) (i0 i1 i2 i3 : Nat) : Nat :=
  x.base + i0 * elemSize x.dtype + i1 * x.s1 + i2 * x.s2 + i3 * x.s3

/-- An operand of a V or X operation: a tile with its extents and type, or a tensor. -/
inductive Opnd where
  | tile (t rows cols dt : Nat)
  | ten (d : Nat) (x : Tensor)
deriving DecidableEq, Repr

/-- The extents of an operand (R198). -/
def Opnd.ext (o : Opnd) : List Nat :=
  match o with
  | .tile _ r c _ => [c, r, 1, 1]
  | .ten _ x => x.ext

/-- The storage type of an operand. -/
def Opnd.dtype (o : Opnd) : Nat :=
  match o with
  | .tile _ _ _ dt => dt
  | .ten _ x => x.dtype

/-- The operand of a 6-bit specifier (R208). -/
def opndOf (s : State) (p spec rows cols dt : Nat) : Opnd :=
  if 32 ≤ spec then .tile (spec % 16) rows cols dt else .ten spec (tensorOf s p spec)

/-! ### Matrix operand words (R165, R167-R169) -/

/-- Bytes of an activation row of a block, of a weight block, the weight load time, cycles per row, the depth K (R165). -/
def rowBytes (fmt : Nat) : Nat := if fmt = 1 ∨ fmt = 6 ∨ fmt = 7 then 64 else 32
def blockBytes (fmt : Nat) : Nat := if fmt = 6 ∨ fmt = 7 then 2048 else 1024
def loadCycles (fmt : Nat) : Nat := if fmt = 6 ∨ fmt = 7 then 8 else 4
def rowCycles (fmt : Nat) : Nat := if fmt = 6 ∨ fmt = 7 then 4 else 1
def blockDepth (fmt : Nat) : Nat := if fmt = 1 then 64 else 32

/-- The accumulator type of a format is FP32. -/
def fmtFp (fmt : Nat) : Bool := 2 ≤ fmt

/-- Fields of an M slot. -/
def mAcc (w : Nat) : Nat := natBits w 51 50
def mFmt (w : Nat) : Nat := natBits w 49 47
def mRows (w : Nat) : Nat := natBits w 36 32 + 1
def mKb (w : Nat) : Nat := if slotOp w = 0x08 then natBits w 31 24 + 1 else 1
def mZ (w : Nat) : Bool := natBit w 23

/-- Fields of an activation word and of a weight word (R169). -/
def actE (v : Nat) : Nat := natBits v 19 0
def actRs (v : Nat) : Nat := natBits v 35 20
def actKs (v : Nat) : Nat := natBits v 55 36
def wgtE (v : Nat) : Nat := natBits v 19 0
def wgtWs (v : Nat) : Nat := natBits v 39 20

/-- Does the operation stream activations from the scratchpad, and does it load weights. -/
def mStreams (op : Nat) : Bool := op == 0x08 || op == 0x09
def mLoads (op : Nat) : Bool := op == 0x08 || op == 0x01

/-- The weight word among the kept values. -/
def mWgt (op : Nat) (vals : List Nat) : Nat := if op = 0x01 then vals.headD 0 else vals.getD 1 0

/-- The ends of the activation and weight extents, relative (R177). -/
def actEnd (w v : Nat) : Nat := actE v + (mKb w - 1) * actKs v + (mRows w - 1) * actRs v + rowBytes (mFmt w)
def wgtEnd (w v : Nat) : Nat := wgtE v + (mKb w - 1) * wgtWs v + blockBytes (mFmt w)

/-! ### Regions (R238, R247) -/

/-- The region of a physical offset: 0 WM, 1 AM, 2 PM. -/
def regionOf (off : Nat) : Nat := if off < 0xA0000 then 0 else if off < 0xE0000 then 1 else 2

/-- A physical extent [lo, hi) lies wholly in one of the regions. -/
def inRegions (rs : List Nat) (lo hi : Nat) : Bool := regionOf lo == regionOf (hi - 1) && rs.contains (regionOf lo)

/-! ### Resources of the scoreboard (R140, R175, R218, R275): tile t is t, accumulator a is 16 + a, descriptor d is 32 + d -/

/-- The resource of a specifier. -/
def specRes (spec : Nat) : Nat := if 32 ≤ spec then spec % 16 else 32 + spec

/-- Descriptor slots a V slot names. -/
def vNames (w : Nat) : List Nat :=
  let op := slotOp w
  let sp (lo : Nat) : List Nat := if natBit w (lo + 5) then [] else [natBits w (lo + 5) lo]
  if op = 0x01 then sp 46 ++ sp 40 ++ (if natBits w 33 29 = 4 then sp 34 else [])
  else if op = 0x02 then sp 46 ++ sp 40 ++ sp 34
  else if op = 0x03 ∨ op = 0x04 then sp 46 ++ sp 40
  else if op = 0x05 ∨ op = 0x11 then sp 46
  else if op = 0x10 then
    sp 46 ++ (if natBits w 43 42 = 2 then [natBits w 41 37] else []) ++
      (if natBits w 36 35 = 2 then [natBits w 34 30] else []) ++ (if natBits w 24 23 = 2 then [natBits w 22 18] else [])
  else []

/-- Tiles a V slot reads. -/
def vTiles (w : Nat) : List Nat :=
  let op := slotOp w
  let sp (lo : Nat) : List Nat := if natBit w (lo + 5) then [natBits w (lo + 3) lo] else []
  if op = 0x02 then sp 40 ++ sp 34 ++ (if natBits w 33 29 = 5 then sp 46 else [])
  else if op = 0x03 then sp 40 ++ (if natBits w 33 29 = 5 then sp 46 else [])
  else if op = 0x01 ∨ op = 0x04 then sp 40
  else if op = 0x11 then sp 46
  else []

/-- Resources a macro-operation reads. -/
def resReads (u : QUnit) (w : Nat) : List Nat :=
  match u with
  | .m =>
    if slotOp w = 0x01 then []
    else (if mZ w then [] else [16 + mAcc w]) ++ (if slotOp w = 0x0A then [natBits w 45 42] else [])
  | .v => (vNames w).map (32 + ·) ++ vTiles w ++ (if slotOp w = 0x10 then [16 + natBits w 45 44] else [])
  | .x =>
    if slotOp w = 0x01 then [specRes (natBits w 51 46)]
    else if slotOp w = 0x02 ∧ !natBit w 51 then [specRes (natBits w 51 46)]
    else []

/-- Resources a macro-operation writes. -/
def resWrites (u : QUnit) (w : Nat) : List Nat :=
  match u with
  | .m => if slotOp w = 0x01 then [] else [16 + mAcc w]
  | .v =>
    if slotOp w = 0x11 then [16 + natBits w 45 44]
    else if natBit w 51 then [natBits w 49 46]
    else []
  | .x => if slotOp w = 0x02 ∧ natBit w 51 then [natBits w 49 46] else []

/-- Two lists share an element. -/
def meets (a b : List Nat) : Bool := a.any (fun x => b.contains x)

/-- Two operations conflict. -/
def conflict (u u2 : QUnit) (w x : Nat) : Bool :=
  meets (resWrites u w) (resReads u2 x) || meets (resWrites u w) (resWrites u2 x) || meets (resReads u w) (resWrites u2 x)

/-- Every incomplete macro-operation of core p with its unit. -/
def allOps (s : State) (p : Nat) : List (QUnit × QEnt) :=
  (coreGet s p).qm.map (fun e => (QUnit.m, e)) ++ (coreGet s p).qv.map (fun e => (QUnit.v, e)) ++
    (coreGet s p).qx.map (fun e => (QUnit.x, e))

/-- No earlier-dispatched incomplete operation conflicts (R140). -/
def scoreClear (s : State) (p : Nat) (u : QUnit) (e : QEnt) : Bool :=
  (allOps s p).all (fun o => !(o.2.disp < e.disp && conflict o.1 u o.2.slot e.slot))

/-- Every macro-operation task t dispatched in bundles before number n has completed (R315, R428). -/
def taskDrained (s : State) (p t n : Nat) : Bool := (allOps s p).all (fun o => !(o.2.task == t && o.2.bun < n))

end Sys2Proof.Machine
end

