-- ==== Sys2Proof/Machine/Matrix.lean ====
section
/-! DEFINITION. The matrix engine (spec/06_matrix.md): start, wide reads, the two weight planes, arithmetic, residue shadows,
completion, the check. An operation's wide reads are requests that SP_WORD_SERVE serves; a row is added when its last word has
been served, with the words as they were served (R245) and the weights of the active plane. -/

namespace Sys2Proof.Machine

/-! ### Which operation may start (R179) -/

/-- The stream of an operation has ended: every row read; of a MAT.WLD, the swap of its block (R179). -/
def mStreamed (e : QEnt) : Bool :=
  if e.abandoned then !e.mark else if e.op = 0x01 then 1 ≤ e.turn else mRows e.slot * mKb e.slot ≤ e.prog

/-- The shadow plane is free for the operation after e: free(n - 1) of R179: the last block of a MAT.MMA is in the active plane, the
stream of a MAT.WLD has ended, that of a MAT.MMS or MAT.MMT has begun. -/
def mFreed (before : List QEnt) (e : QEnt) : Bool :=
  if e.abandoned then !e.mark else if mLoads e.op then mKb e.slot ≤ e.turn else before.all mStreamed

/-- The started entries of the M queue. -/
def mStarted (s : State) (p : Nat) : List QEnt := (coreGet s p).qm.filter (fun e => e.started)

/-- The engine is free for the next start. -/
def mReady (s : State) (p : Nat) : Bool :=
  match (mStarted s p).reverse with
  | [] => true
  | e :: before => mFreed before e

/-- The next operation waits on the scoreboard alone (LEA_MWAIT). -/
def mWaits (s : State) (p : Nat) : Bool :=
  mReady s p && (match qNext s p .m with
    | some e => !scoreClear s p .m e
    | none => false)

/-! ### Wide reads (R165, R167, R168, R242) -/

/-- Physical offset of row i of block j, and of weight block j. -/
def rowOff (s : State) (p : Nat) (e : QEnt) (i j : Nat) : Nat :=
  let v := e.vals.headD 0
  taskBase s p e.task + actE v + j * actKs v + i * actRs v
def blockOff (s : State) (p : Nat) (e : QEnt) (j : Nat) : Nat :=
  let v := mWgt e.op e.vals
  taskBase s p e.task + wgtE v + (if e.op = 0x01 then 0 else j * wgtWs v)

/-- The words of a read. -/
def readWords (off len : Nat) : List WWord := (wordsOf off len).map (fun w => ⟨w, enables off len w, 0, false, (0, 0)⟩)

/-- A request of operation n of class M stands. -/
def mPending (s : State) (p n : Nat) (load : Bool) : Bool :=
  (coreGet s p).reqs.any (fun r => r.cls == 0 && r.ent == n && r.load == load)

/-- Present a W-phase request. -/
def present (p : Nat) (r : WReq) (s : State) : State := coreMod p (fun c => { c with reqs := c.reqs ++ [r] }) s

/-- The cycles in which a request of the matrix stream is served without delay: c for a row, Lw for a load (R165). -/
def streamPace (fmt : Nat) (load : Bool) : Nat := if load then blockBytes fmt / 256 else if fmt = 6 ∨ fmt = 7 then 4 else 1

/-- Put a weight block into the active plane (R173, R174). -/
def setPlane (p fmt : Nat) (bs : List Nat) (s : State) : State :=
  coreMod p (fun c => { c with plane := bs })
    (wr LEA_MSTAT_plane_valid p 1 (wr LEA_MSTAT_plane_fmt p fmt s))

/-- The active plane holds no weights (R174); LEA_MSTAT.plane_fmt stays (DESIGN CHOICE, log 105). -/
def emptyPlane (p : Nat) (s : State) : State := coreMod p (fun c => { c with plane := [] }) (wr LEA_MSTAT_plane_valid p 0 s)

/-- The block in the shadow plane swaps into the active plane where the block before it, and every earlier operation, has
streamed (R179, R193). -/
def mSwapNext (p : Nat) (earlier : Bool) (e : QEnt) (s : State) : State :=
  if mLoads e.op && !e.abandoned && e.turn < e.prog2 && earlier && e.turn * mRows e.slot ≤ e.prog then
    qMod p .m e.disp (fun x => { x with turn := x.turn + 1 }) (setPlane p (mFmt e.slot) (coreGet s p).shadowPl s)
  else s

/-- An operation abandoned on a weight read empties the active plane once every earlier operation has streamed (R174). -/
def mLoseNext (p : Nat) (earlier : Bool) (e : QEnt) (s : State) : State :=
  if e.abandoned && e.mark && earlier then qMod p .m e.disp (fun x => { x with mark := false }) (emptyPlane p s) else s

/-- The next weight load of an operation, where the shadow plane is free for it. -/
def mLoadNext (p : Nat) (e : QEnt) (s : State) : State :=
  if mLoads e.op && !e.abandoned && e.prog2 < mKb e.slot && !mPending s p e.disp true && e.prog2 == e.turn then
    present p ⟨0, false, true, (coreGet s p).cyc, e.disp, readWords (blockOff s p e e.prog2) (blockBytes (mFmt e.slot))⟩ s
  else s

/-- The next activation row of an operation, where its block is in the active plane and earlier operations have streamed. -/
def mRowNext (p : Nat) (earlier : Bool) (e : QEnt) (s : State) : State :=
  let rows := mRows e.slot
  if mStreams e.op && !e.abandoned && e.prog < rows * mKb e.slot && earlier && !(coreGet s p).reqs.any (fun r => r.cls == 0 && !r.load) &&
      (e.op == 0x09 || e.prog / rows < e.turn) then
    present p ⟨0, false, false, (coreGet s p).cyc, e.disp,
      readWords (rowOff s p e (e.prog % rows) (e.prog / rows)) (rowBytes (mFmt e.slot))⟩ s
  else s

/-! ### Arithmetic (R166-R172, R181, R182) -/

/-- Storage type of activations and of weights of a format (R165). -/
def actType (fmt : Nat) : Nat :=
  match fmt with
  | 2 | 4 => 1
  | 3 | 5 => 2
  | 6 => 4
  | 7 => 5
  | _ => 0
def wgtType (fmt : Nat) : Nat :=
  match fmt with
  | 2 | 5 => 1
  | 3 | 4 => 2
  | 6 => 4
  | 7 => 5
  | _ => 0

/-- Bits of W[k][n] in a weight block's bytes (R167): a nibble in format 1, two bytes in formats 6 and 7. -/
def wgtBits (fmt : Nat) (bs : List Nat) (k n : Nat) : Nat :=
  if fmt = 1 then bs.getD (16 * k + n / 2) 0 / 16 ^ (n % 2) % 16
  else if fmt = 6 ∨ fmt = 7 then bs.getD (64 * k + 2 * n) 0 + 256 * bs.getD (64 * k + 2 * n + 1) 0
  else bs.getD (32 * k + n) 0

/-- Bits of element k of an activation row's bytes (R168). -/
def actBits (fmt : Nat) (bs : List Nat) (k : Nat) : Nat :=
  if fmt = 6 ∨ fmt = 7 then bs.getD (2 * k) 0 + 256 * bs.getD (2 * k + 1) 0 else bs.getD k 0

/-- The exact integer block sum (R171). -/
def blockSumInt (fmt : Nat) (act : Nat → Nat) (wgt : Nat → Nat) : Int :=
  (List.range (blockDepth fmt)).foldl (fun a k => a + sext 8 (act k) * sext (if fmt = 1 then 4 else 8) (wgt k)) 0

/-- The exact products of a block, of an element (R172). -/
def blockTerms (fmt : Nat) (act : Nat → Nat) (wgt : Nat → Nat) : List FV :=
  (List.range (blockDepth fmt)).map (fun k => fvMul (valOf (actType fmt) (act k)) (valOf (wgtType fmt) (wgt k)))

/-- The least exponent of finite terms. -/
def leastExp : List FV → Option Int
  | [] => none
  | .num _ _ e :: ts => some (match leastExp ts with
      | some x => if x < e then x else e
      | none => e)
  | _ :: ts => leastExp ts

/-- The block sum as the array forms it: the aligned products added as integers. -/
def sumAligned (base : Int) (ts : List FV) : Int :=
  ts.foldl (fun a v => match v with
    | .num n m e => a + scaled n m e base
    | _ => a) 0

/-- The residue of the block sum modulo q as the predictor forms it, from the residues of the significand products and the powers of
two they are aligned by: 2^s is 2^(s mod o), with o = 7 for 127 and 8 for 255 (R182). -/
def sumResidue (q o : Nat) (base : Int) (ts : List FV) : Nat :=
  ts.foldl (fun a v => match v with
    | .num n m e =>
      let r := m % q * 2 ^ ((e - base).toNat % o) % q
      (a + (if n then q - r else r)) % q
    | _ => a) 0

/-- The check of a block sum whose terms are finite: 0 where both residues agree, else 1 + kind (R182, LEA_MRES.kind). -/
def sumCheck (ts : List FV) : Nat :=
  match leastExp ts with
  | none => 0
  | some base =>
    let z := sumAligned base ts
    let ok127 := (z % 127).toNat == sumResidue 127 7 base ts
    let ok255 := (z % 255).toNat == sumResidue 255 8 base ts
    if ok127 && ok255 then 0 else if ok255 then 2 else if ok127 then 3 else 4

/-- The exact block sum P: with a term that is no number or infinite, the sum of the terms decides (R172). -/
def blockSumFp (ts : List FV) : FV :=
  if ts.all (fun v => match v with
      | .num _ _ _ => true
      | _ => false) then
    match leastExp ts with
    | some base => .num (sumAligned base ts < 0) (sumAligned base ts).natAbs base
    | none => .num false 0 0
  else ts.foldl fvAdd (.num false 0 0)

/-- One adder of R182: acc + P rounded once to FP32 (R172). -/
def addFp32 (acc : Nat) (sum : FV) : Nat := roundFp32 (fvAdd (valOf 7 acc) sum)

/-- Add a floating-point block sum into an element: one adder's result is stored, the other's is the shadow (R172, R182). -/
def addFp (p a i n : Nat) (sum : FV) (s : State) : State :=
  shadowSet p a i n (addFp32 (accGet s p a i n) sum) (accSet p a i n (addFp32 (accGet s p a i n) sum) s)

/-- Add an integer block sum into an element; the shadow follows the exact sum less its wraps (R171, R181). -/
def addInt (p a i n : Nat) (v : Int) (s : State) : State :=
  let old := sext 32 (accGet s p a i n)
  let bits := wrapInt 32 (old + v)
  let wraps := (old + v - sext 32 bits) / (2 ^ 32 : Nat)
  let sh := shadowGet s p a i n
  let d := v - wraps * (2 ^ 32 : Nat)
  shadowSet p a i n (((((sh / 256 : Nat) : Int) + d) % 127).toNat * 256 + ((((sh % 256 : Nat) : Int) + d) % 255).toNat)
    (accSet p a i n bits s)

/-- A failing block sum of element (i, n) is kept where it stands before the one kept so far, in row, then column order (R183). -/
def noteFail (p d kind i n : Nat) (s : State) : State :=
  if kind = 0 then s
  else qMod p .m d (fun e =>
    if e.fail.isEmpty ∨ 32 * i + n < 32 * e.fail.getD 1 0 + e.fail.getD 2 0 then { e with fail := [kind - 1, i, n] } else e) s

/-- One element of one block (R171, R172). -/
def macElement (p : Nat) (e : QEnt) (i n : Nat) (act wgt : Nat → Nat) (s : State) : State :=
  let fmt := mFmt e.slot
  if fmtFp fmt then
    let ts := blockTerms fmt act wgt
    noteFail p e.disp (sumCheck ts) i n (addFp p (mAcc e.slot) i n (blockSumFp ts) s)
  else addInt p (mAcc e.slot) i n (blockSumInt fmt act wgt) s

/-- Row i of one block against the active plane. -/
def macRow (p : Nat) (e : QEnt) (i : Nat) (act : Nat → Nat) (s : State) : State :=
  let bs := (coreGet s p).plane
  iter 32 (fun n s => macElement p e i n act (fun k => wgtBits (mFmt e.slot) bs k n) s) s

/-- The zeroing of z = 1 with the tag of the format (R170); it clears the suspect bit (R187). -/
def zeroAcc (p : Nat) (e : QEnt) (s : State) : State :=
  if mZ e.slot then
    let a := mAcc e.slot
    let lo := 4096 * p + 1024 * a
    setSuspect p a false (setTag p a (fmtFp (mFmt e.slot))
      { s with acc := mapClear s.acc lo (lo + 1024), shadow := mapClear s.shadow lo (lo + 1024) })
  else s

/-- LEA_MINJ after the array's last write of row `row` (R188, R195): the armed bit of the target element is inverted. -/
def inject (p : Nat) (e : QEnt) (row : Nat) (s : State) : State :=
  let col := rd s LEA_MINJ_col p
  let a := mAcc e.slot
  if rdB s LEA_MINJ_arm p && rd s LEA_MINJ_acc p == a && rd s LEA_MINJ_row p == row then
    let b := rd s LEA_MINJ_bit p
    let v := accGet s p a row col
    wr LEA_MINJ_arm p 0 (accSet p a row col (natSetBit v b (!natBit v b)) s)
  else s

/-- The row entry e reads next, number e.prog, has come in: it is added, with the injection after the last block (R171, R172). -/
def mRow (p : Nat) (e : QEnt) (act : Nat → Nat) (s : State) : State :=
  let rows := mRows e.slot
  let i := e.prog % rows
  let s1 := addSat LEA_MBUSY_count p (streamPace (mFmt e.slot) false) (macRow p e i act s)
  let s2 := if e.prog / rows + 1 = mKb e.slot then inject p e i s1 else s1
  qMod p .m e.disp (fun x => { x with prog := x.prog + 1, got := [] }) s2

/-- A MAT.MMT streams its rows from the tile register once earlier operations have streamed (R173). -/
def mTileNext (p : Nat) (earlier : Bool) (e : QEnt) (s : State) : State :=
  if e.op = 0x0A ∧ !e.abandoned ∧ earlier ∧ e.prog = 0 then
    iter (mRows e.slot) (fun i s => mRow p { e with prog := i }
      (fun k => tileGet s p (natBits e.slot 45 42) i k % (if rowBytes (mFmt e.slot) = 64 then 65536 else 256)) s) s
  else s

/-- What entry n may do next: swap its block in, load the next, read its next row. -/
def mGo (p n : Nat) (earlier : Bool) (s : State) : State :=
  let step (f : QEnt → State → State) (s : State) : State := match qFind s p .m n with
    | some e => f e s
    | none => s
  step (mTileNext p earlier) (step (mRowNext p earlier) (step (mLoadNext p) (step (mSwapNext p earlier) (step (mLoseNext p earlier) s))))

/-- Let the started operations go on in turn. -/
def mAdvanceList (p : Nat) : List QEnt → Bool → State → State
  | [], _, s => s
  | e :: es, earlier, s =>
    let s1 := mGo p e.disp earlier s
    mAdvanceList p es (earlier && (match qFind s1 p .m e.disp with
      | some x => mStreamed x
      | none => true)) s1

/-- Let the matrix engine go on. -/
def mAdvance (p : Nat) (s : State) : State := mAdvanceList p (mStarted s p) true s

/-- The faults found at start (R178): 2 the type differs from the tag, 3 the active plane does not serve; 0 none. Where both hold the
first in the table's order is reported (DESIGN CHOICE, log 106). -/
def mStartFault (s : State) (p : Nat) (e : QEnt) : Nat :=
  if e.op = 0x01 then 0
  else if !mZ e.slot && fmtFp (mFmt e.slot) != accFp s p (mAcc e.slot) then 2
  else if e.op ≠ 0x08 ∧ (!rdB s LEA_MSTAT_plane_valid p || rd s LEA_MSTAT_plane_fmt p != mFmt e.slot) then 3
  else 0

/-- Start the first entry of the M queue that has not started, where its opcode is `op` and R139, R140 and R179 allow it. -/
def startMatrix (op c : Nat) (s : State) : State :=
  let p := pcore s c
  match qNext s p .m with
  | none => s
  | some e =>
    if e.op ≠ op ∨ !mReady s p ∨ !scoreClear s p .m e then s
    else
      let s1 := wr LEA_MSTAT_busy p 1
        (qMod p .m e.disp (fun x => { x with started := true, startCyc := (coreGet s p).cyc }) s)
      let f := mStartFault s1 p e
      if f ≠ 0 then asyncExc p e.task 1 e.pc f (qMod p .m e.disp (fun x => { x with abandoned := true }) s1)
      else mAdvance p (if e.op = 0x01 then s1 else zeroAcc p e s1)

/-- MAT_WLD: the weight block is loaded and swapped into the active plane (R173, R174, R193). -/
def execMatWld (c : Nat) (s : State) : Result := .next (startMatrix 0x01 c s)

/-- MAT_MMA: blocks 0 to kb - 1 are loaded and streamed into the accumulator (R170-R174). -/
def execMatMma (c : Nat) (s : State) : Result := .next (startMatrix 0x08 c s)

/-- MAT_MMS: rows are streamed against the active plane (R173, R192). -/
def execMatMms (c : Nat) (s : State) : Result := .next (startMatrix 0x09 c s)

/-- MAT_MMT: rows come from a tile register (R173). -/
def execMatMmt (c : Nat) (s : State) : Result := .next (startMatrix 0x0A c s)

/-! ### Completion and the check (R183-R185) -/

/-- The disagreement of one element: 0 none, else 1 + kind (R182, LEA_MRES.kind). -/
def disagree (s : State) (p a row col : Nat) : Nat :=
  let fp := accFp s p a
  let want := shadowGet s p a row col
  let have_ := shadowWord fp (accGet s p a row col)
  if want = have_ then 0
  else if fp then 1
  else if want % 256 = have_ % 256 then 2
  else if want / 256 = have_ / 256 then 3
  else 4

/-- The first failing element in ascending row, then column order: kind, row, column; `sum` is the first whose block sum failed. -/
def firstFail (s : State) (p a rows : Nat) (sum : List Nat) : List Nat :=
  match (List.range (32 * rows)).find? (fun k => disagree s p a (k / 32) (k % 32) != 0) with
  | none => sum
  | some k =>
    if sum.isEmpty ∨ k < 32 * sum.getD 1 0 + sum.getD 2 0 then [disagree s p a (k / 32) (k % 32) - 1, k / 32, k % 32] else sum

/-- Any operation of a queue is started and not complete. -/
def anyStarted (q : List QEnt) : Bool := q.any (fun e => e.started)

/-- M_OP_COMPLETE: the oldest operation, all its reads served, completes: its entry is freed and its check is due (R139,
R179, R183). -/
def execMOpComplete (c : Nat) (s : State) : Result :=
  let p := pcore s c
  .next (match (coreGet s p).qm with
  | [] => s
  | e :: _ =>
    if e.started ∧ mStreamed e then
      let s1 := qFree p .m e.disp s
      let s2 := if e.abandoned ∨ e.op = 0x01 then s1
        else
          let rows := if mZ e.slot then 32 else mRows e.slot
          coreMod p (fun x => { x with checks := x.checks ++
            [⟨e.disp, e.task, e.pc, mAcc e.slot, mFmt e.slot, rows, firstFail s p (mAcc e.slot) rows e.fail⟩] }) s1
      mAdvance p (wr LEA_MSTAT_busy p (b2n (anyStarted (coreGet s2 p).qm)) s2)
    else s)

/-- LEA_MRES of a mismatch (R185). -/
def mresWord (k : RChk) : Nat :=
  2 ^ 63 + k.found.getD 0 0 * 2 ^ 60 + k.acc * 2 ^ 58 + k.task * 2 ^ 56 + k.pc * 2 ^ 45 + k.found.getD 1 0 * 2 ^ 40 +
    k.found.getD 2 0 * 2 ^ 35 + k.fmt * 2 ^ 32 + k.disp % 2 ^ 32

/-- A mismatch is flagged (R185, R186): suspect, count, capture, record, and a failure of the epoch. A capture leaves an overflow that software
has not cleared standing: that bit is cleared by a write alone (DEDUCED, log 107). -/
def flagMismatch (p : Nat) (k : RChk) (s : State) : State :=
  let w := mresWord k
  let kept := rd s LEA_MRES_overflow p * 2 ^ 62
  let s1 := countLife 7 1 (bump LEA_MRCNT_count p (setSuspect p k.acc true s))
  let s2 := if rdB s1 LEA_MRES_valid p then wr LEA_MRES_overflow p 1 s1 else wrW .lea p LEA_MRES_valid.off (BitVec.ofNat 64 (w + kept)) s1
  match pcorePdk s2 p with
  | none => coreFault p 0x11 [w, recIndex s2 p] s2
  | some n => epochFailure n 1 (recIndex s2 p) (coreFault p 0x11 [w, recIndex s2 p + b2n (integrityOf s2 n) * 2 ^ 16] s2)

/-- RESIDUE_CHECK: the checker reports on the oldest completed operation not yet checked (R183, R189, R194). -/
def execResidueCheck (c : Nat) (s : State) : Result :=
  let p := pcore s c
  .next (match (coreGet s p).checks with
  | [] => s
  | k :: ks =>
    let s1 := coreMod p (fun x => { x with checks := ks }) s
    if k.found.isEmpty then s1 else flagMismatch p k s1)

/-! ### An uncorrectable wide read (R178, R174) -/

/-- Every element of rows 0 to rows - 1 becomes arbitrary with a consistent shadow. -/
def scrambleAcc (p a rows : Nat) (fp : Bool) (s : State) : State :=
  let b := freshBlock s
  iter (32 * rows) (fun k s => accPut p a (k / 32) (k % 32) (Config.freeWord b.1 k).toNat fp s) b.2

/-- Abandon a matrix operation on an uncorrectable read; `load` says that it was of a weight block (R178 subcode 1, R174). -/
def mAbandon (p : Nat) (e : QEnt) (load : Bool) (s : State) : State :=
  let a := mAcc e.slot
  let s1 := coreMod p (fun c => { c with reqs := c.reqs.filter (fun r => !(r.cls == 0 && r.ent == e.disp)) })
    (qMod p .m e.disp (fun x => { x with abandoned := true, mark := load, got := [], load := [] }) s)
  let s2 :=
    if e.op = 0x01 then s1
    else setSuspect p a true
      (scrambleAcc p a (if mZ e.slot then 32 else mRows e.slot) (if mZ e.slot then fmtFp (mFmt e.slot) else accFp s1 p a) s1)
  mAdvance p (asyncExc p e.task 1 e.pc 1 s2)

/-- The last word of a class M request was served: the block is in the shadow plane, or the row is added (R179). -/
def mServed (p n : Nat) (load : Bool) (s : State) : State :=
  match qFind s p .m n with
  | none => s
  | some e =>
    if load then
      let off := blockOff s p e e.prog2
      mAdvance p (qMod p .m n (fun x => { x with prog2 := x.prog2 + 1, load := [] })
        (coreMod p (fun c => { c with shadowPl := (List.range (blockBytes (mFmt e.slot))).map (fun k => gotByte e.load (off + k)) }) s))
    else
      let off := rowOff s p e (e.prog % mRows e.slot) (e.prog / mRows e.slot)
      mAdvance p (mRow p e (actBits (mFmt e.slot) ((List.range (rowBytes (mFmt e.slot))).map (fun k => gotByte e.got (off + k)))) s)

end Sys2Proof.Machine
end

