-- ==== Sys2Proof/Machine/Vector.lean ====
section
/-! DEFINITION. The vector engine (spec/07_vector.md): issue checks, elementwise and reduced results, the epilogue, accumulator
loads, completion. An operation goes beat by beat: its lines are requests SP_WORD_SERVE serves, the elements of a beat are made when
the last of its reads has been served, from the words as they were served (R221, R245), and its writes follow; a tile or accumulator
destination is written at completion. -/

namespace Sys2Proof.Machine

/-! ### Fields (R209, R215) -/

/-- Storage type of a compute type (R205). -/
def ctType (ct : Nat) : Nat :=
  match ct with
  | 0 => 7
  | 1 => 6
  | 2 => 4
  | _ => 3

/-- Lanes per beat (R205). -/
def ctLanes (ct : Nat) : Nat := if ct < 2 then 32 else 64

/-- The compute type is an integer. -/
def ctInt (ct : Nat) : Bool := ct % 2 == 1

/-- Bits of a compute type. -/
def ctBits (ct : Nat) : Nat := if ct < 2 then 32 else 16

def vFn (w : Nat) : Nat := natBits w 33 29
def vCt (w : Nat) : Nat := if slotOp w < 0x10 then natBits w 28 27 else 0
def vRtz (w : Nat) : Bool := if slotOp w < 0x10 then natBit w 7 else natBit w 8
def vRows (w : Nat) : Nat := if slotOp w < 0x10 then natBits w 21 17 + 1 else natBits w 17 13 + 1
def vCols (w : Nat) : Nat := if slotOp w < 0x10 then natBits w 16 12 + 1 else 32
def vTdt (w : Nat) : Nat := if slotOp w < 0x10 then natBits w 11 8 else natBits w 12 9
def vAcc (w : Nat) : Nat := natBits w 45 44
def epiSmode (w : Nat) : Nat := natBits w 43 42
def epiBmode (w : Nat) : Nat := natBits w 36 35
def epiAct (w : Nat) : Nat := natBits w 24 23

/-- The operand at bit lo of a V slot. -/
def vOpnd (s : State) (p w lo : Nat) : Opnd := opndOf s p (natBits w (lo + 5) lo) (vRows w) (vCols w) (vTdt w)

/-- The destination; for VEC.ACCLD the operand field names the source. -/
def vDst (s : State) (p w : Nat) : Opnd := vOpnd s p w 46

/-- Source operands read element by element. -/
def vSrcs (s : State) (p w : Nat) : List Opnd :=
  let op := slotOp w
  if op = 0x02 then [vOpnd s p w 40, vOpnd s p w 34]
  else if op = 0x01 ∨ op = 0x03 ∨ op = 0x04 then [vOpnd s p w 40]
  else if op = 0x11 then [vDst s p w]
  else []

/-- The operation reads its destination (fn MAC). -/
def vMac (w : Nat) : Bool := (slotOp w == 0x02 || slotOp w == 0x03) && vFn w == 5

/-- Descriptor slots read at setup with their lengths: column vectors of 128 bytes, PWL tables of 576 (R213, R215). -/
def vSetup (w : Nat) : List (Nat × Nat) :=
  if slotOp w = 0x01 ∧ vFn w = 4 then (if natBit w 39 then [] else [(natBits w 38 34, 576)])
  else if slotOp w = 0x10 then
    (if epiSmode w = 2 then [(natBits w 41 37, 128)] else []) ++ (if epiBmode w = 2 then [(natBits w 34 30, 128)] else []) ++
      (if epiAct w = 2 then [(natBits w 22 18, 576)] else [])
  else []

/-- The iteration shape (R201). -/
def vShape (s : State) (p w : Nat) : List Nat :=
  if slotOp w = 0x04 then (vOpnd s p w 40).ext
  else if 0x10 ≤ slotOp w then [32, vRows w, 1, 1]
  else (vDst s p w).ext

/-! ### Issue checks (R222) -/

/-- Tensors among operands. -/
def tensors (os : List Opnd) : List Tensor := os.filterMap (fun o =>
  match o with
  | .ten _ x => some x
  | .tile _ _ _ _ => none)

/-- Every named operand. -/
def vAll (s : State) (p w : Nat) : List Opnd :=
  if slotOp w = 0x11 then [vDst s p w] else vDst s p w :: vSrcs s p w

/-- An extent equals the iteration's or is 1 (R202). -/
def extFits (e n : List Nat) : Bool := (List.range 4).all (fun k => e.getD k 0 == n.getD k 0 || e.getD k 0 == 1)

/-- fn or act undefined, or not allowed for ct (subcode 1); smode or bmode 3, which R215 does not define, counts as such (DEDUCED,
log 85). -/
def vBadFn (w : Nat) : Bool :=
  let op := slotOp w
  if op = 0x01 then 7 < vFn w || (5 ≤ vFn w && ctInt (vCt w))
  else if op = 0x02 ∨ op = 0x03 then 13 < vFn w || (8 ≤ vFn w && !ctInt (vCt w))
  else if op = 0x04 then 2 < vFn w
  else if op = 0x10 then epiAct w == 3 || epiSmode w == 3 || epiBmode w == 3
  else false

/-- The type rule (subcode 3). A reserved tile type and a tile named as a table break it too (DEDUCED, log 18). -/
def vBadType (s : State) (p w : Nat) : Bool :=
  (vSetup w).any (fun d => (tensorOf s p d.1).dtype != 7) ||
  (slotOp w == 0x11 && (vDst s p w).dtype != 6 && (vDst s p w).dtype != 7) ||
  (slotOp w == 0x01 && vFn w == 4 && (vCt w != 0 || natBit w 39)) ||
  (vAll s p w).any (fun o => 8 ≤ o.dtype)

/-- The shape rule (subcode 4). -/
def vBadShape (s : State) (p w : Nat) : Bool :=
  let op := slotOp w
  let n := vShape s p w
  if op = 0x04 then !((vDst s p w).ext.getD 0 0 == 1 && (vDst s p w).ext.drop 1 == n.drop 1)
  else if 0x10 ≤ op then (vDst s p w).ext != n
  else (vSrcs s p w).any (fun o => !extFits o.ext n)

/-- A base or stride off its alignment (subcode 5). -/
def vBadAlign (s : State) (p w : Nat) : Bool :=
  (tensors (vAll s p w)).any (fun x =>
    let es := elemSize x.dtype
    x.base % es != 0 || x.s1 % es != 0 || x.s2 % es != 0 || x.s3 % es != 0) ||
  (vSetup w).any (fun d => (tensorOf s p d.1).base % (if d.2 = 576 then 64 else 4) != 0)

/-- A range beyond the bound (subcode 6). -/
def vBadRange (s : State) (p t w : Nat) : Bool :=
  (tensors (vAll s p w)).any (fun x => taskBound s p t < x.hi) ||
  (vSetup w).any (fun d => taskBound s p t < (tensorOf s p d.1).base + d.2)

/-- In split mode, a range outside the regions of R247 (subcode 7). -/
def vBadRegion (s : State) (p t w : Nat) : Bool :=
  let b := taskBase s p t
  splitMode s p &&
  ((tensors (vSrcs s p w)).any (fun x => !inRegions [0, 1, 2] (b + x.base) (b + x.hi)) ||
   (slotOp w != 0x11 && (tensors [vDst s p w]).any (fun x => !inRegions [1, 2] (b + x.base) (b + x.hi))) ||
   (vSetup w).any (fun d => !inRegions [0, 1, 2] (b + (tensorOf s p d.1).base) (b + (tensorOf s p d.1).base + d.2)))

/-- The subcode of the first failing check of a guard-true V slot of task t (R222). -/
def vCheck (s : State) (p t w : Nat) : Option Nat :=
  if vBadFn w then some 1
  else if (tensors (vAll s p w)).any Tensor.malformed || (vSetup w).any (fun d => (tensorOf s p d.1).malformed) then some 2
  else if vBadType s p w then some 3
  else if vBadShape s p w then some 4
  else if vBadAlign s p w then some 5
  else if vBadRange s p t w then some 6
  else if vBadRegion s p t w then some 7
  else none

/-- The subcode of the first failing check of a guard-true M slot of task t (R177). -/
def mCheck (s : State) (p t w : Nat) (vals : List Nat) : Option Nat :=
  let op := slotOp w
  let fmt := mFmt w
  let a := vals.headD 0
  let v := mWgt op vals
  let b := taskBase s p t
  let bound := taskBound s p t
  if op = 0x0A ∧ fmt = 1 then some 1
  else if (mStreams op && natBits a 63 56 != 0) || (mLoads op && natBits v 63 40 != 0) then some 2
  else if (mStreams op && (actE a % rowBytes fmt != 0 || actRs a % rowBytes fmt != 0 || actKs a % rowBytes fmt != 0)) ||
      (mLoads op && (wgtE v % 256 != 0 || (op != 0x01 && wgtWs v % 256 != 0))) then some 3
  else if (mStreams op && bound < actEnd w a) || (mLoads op && bound < wgtEnd w v) then some 4
  else if splitMode s p && ((mStreams op && !inRegions [1] (b + actE a) (b + actEnd w a)) ||
      (mLoads op && !inRegions [0] (b + wgtE v) (b + wgtEnd w v))) then some 5
  else none

/-! ### Elements -/

/-- A little-endian number of the bytes that reads brought. -/
def gotNum (rb : Nat → Nat) (off n : Nat) : Nat := leNat ((List.range n).map (fun k => rb (off + k)))

/-- The stored bits of element (i0, i1, i2, i3) of an operand; an extent of 1 is read at index 0 (R198, R200, R202). `rb` gives the
bytes read. -/
def readElem (s : State) (p : Nat) (rb : Nat → Nat) (base : Nat) (o : Opnd) (i0 i1 i2 i3 : Nat) : Nat :=
  let x (k i : Nat) : Nat := if o.ext.getD k 1 = 1 then 0 else i
  match o with
  | .tile t _ _ dt => tileGet s p t (x 1 i1) (x 0 i0) % 2 ^ (8 * elemSize dt)
  | .ten _ d => gotNum rb (base + d.addr (x 0 i0) (x 1 i1) (x 2 i2) (x 3 i3)) (elemSize d.dtype)

/-- Counts kept while an operation is computed: saturations and NaN results (R206, R207). -/
structure VCnt where
  clip : Nat
  nan : Nat
deriving DecidableEq, Repr

/-- A conversion with its saturation counted. -/
def convC (dt : Nat) (rtz : Bool) (v : FV) (k : VCnt) : Nat × VCnt :=
  let r := convertTo dt rtz v
  (r.1, { k with clip := k.clip + b2n r.2 })

/-- A result of floating-point arithmetic rounded to the compute type, a NaN counted (R207). -/
def arithC (ct : Nat) (rtz : Bool) (v : FV) (k : VCnt) : Nat × VCnt :=
  ((convertTo (ctType ct) rtz v).1, { k with nan := k.nan + b2n v.isNan })

/-- The number 1 or 0 in a compute type. -/
def ctBool (ct : Nat) (b : Bool) : Nat := (convertTo (ctType ct) false (fvInt (if b then 1 else 0))).1

/-- A shift of an integer compute type: 11 left, 12 right with zero fill, 13 right with sign fill (R211). -/
def shiftCt (fn bits a b : Nat) : Nat :=
  let k := b % bits
  if fn = 11 then a * 2 ^ k % 2 ^ bits
  else if fn = 12 then a / 2 ^ k
  else wrapInt bits (sext bits a / (2 ^ k : Nat))

/-- fn of two integers, and of the destination for MAC (R211). -/
def binInt (fn bits a b d : Nat) : Nat :=
  let x := sext bits a
  let y := sext bits b
  match fn with
  | 0 => wrapInt bits (x + y)
  | 1 => wrapInt bits (x - y)
  | 2 => wrapInt bits (x * y)
  | 3 => if x < y then a else b
  | 4 => if x < y then b else a
  | 5 => wrapInt bits (x * y + sext bits d)
  | 6 => b2n (x < y)
  | 7 => b2n (a == b)
  | 8 => Nat.land a b
  | 9 => Nat.lor a b
  | 10 => Nat.xor a b
  | _ => shiftCt fn bits a b

/-- fn of two floating-point values of a compute type (R211). -/
def binFp (fn ct : Nat) (rtz : Bool) (a b d : FV) (k : VCnt) : Nat × VCnt :=
  match fn with
  | 0 => arithC ct rtz (fvAdd a b) k
  | 1 => arithC ct rtz (fvAdd a (fvNeg b)) k
  | 2 => arithC ct rtz (fvMul a b) k
  | 3 => arithC ct rtz (fvMin a b) k
  | 4 => arithC ct rtz (fvMax a b) k
  | 5 => arithC ct rtz (fvAdd (fvMul a b) d) k
  | 6 => (ctBool ct (fvLt a b), k)
  | _ => (ctBool ct (fvEq a b), k)

/-- fn of two values of the compute type, as bits (R211). -/
def binCt (fn ct : Nat) (rtz : Bool) (a b d : Nat) (k : VCnt) : Nat × VCnt :=
  if ctInt ct then (binInt fn (ctBits ct) a b d, k)
  else binFp fn ct rtz (valOf (ctType ct) a) (valOf (ctType ct) b) (valOf (ctType ct) d) k

/-- RELU (R212). -/
def reluFp (v : FV) : FV := if v.isNan then .nan else if fvLt (.num false 0 0) v then v else .num false 0 0

/-- The piecewise-linear function of the table at physical address a (R213): the FP32 bits. A NaN it answers is counted, one of the
inner t is not (DESIGN CHOICE, log 108). -/
def pwl (rb : Nat → Nat) (a : Nat) (rtz : Bool) (x : FV) (k : VCnt) : Nat × VCnt :=
  match x with
  | .nan => (0x7FC00000, { k with nan := k.nan + 1 })
  | .inf neg => (gotNum rb (a + if neg then 8 else 12) 4, k)
  | .num _ _ _ =>
    let v (off : Nat) : FV := valOf 7 (gotNum rb (a + off) 4)
    let t := valOf 7 (convertTo 7 rtz (fvMul (fvAdd x (fvNeg (v 0))) (v 4))).1
    let n :=
      if t.isNan || fvLt t (fvInt 0) then 0
      else if !fvLt t (fvInt 63) then 63
      else (intEncode 32 true t).1
    arithC 0 rtz (fvAdd (v (64 + 8 * n)) (fvMul (v (68 + 8 * n)) x)) k

/-- fn of one integer (R212): MOV, NEG, ABS, RELU. -/
def unInt (fn bits a : Nat) : Nat :=
  let x := sext bits a
  match fn with
  | 1 => wrapInt bits (-x)
  | 2 => wrapInt bits (if x < 0 then -x else x)
  | 3 => if 0 < x then a else 0
  | _ => a

/-- fn of one floating-point value (R212); `tab` is the table's address. -/
def unFp (rb : Nat → Nat) (fn ct tab : Nat) (rtz : Bool) (a : Nat) (k : VCnt) : Nat × VCnt :=
  let v := valOf (ctType ct) a
  match fn with
  | 0 => (a, k)
  | 1 => arithC ct rtz (fvNeg v) k
  | 2 => arithC ct rtz (match v with
      | .num _ m e => .num false m e
      | .inf _ => .inf false
      | .nan => .nan) k
  | 3 => arithC ct rtz (reluFp v) k
  | 4 => pwl rb tab rtz v k
  | 5 => arithC ct rtz (fvRecip v) k
  | 6 => arithC ct rtz (fvSqrt v) k
  | _ => arithC ct rtz (fvRsqrt v) k

/-- Every index tuple of a shape, i0 fastest (R201). -/
def indices (n : List Nat) : List (Nat × Nat × Nat × Nat) :=
  (List.range (n.getD 0 0 * n.getD 1 0 * n.getD 2 0 * n.getD 3 0)).map (fun k =>
    let a := k / n.getD 0 1
    let b := a / n.getD 1 1
    (k % n.getD 0 1, a % n.getD 1 1, b % n.getD 2 1, b / n.getD 2 1))

/-- A source element converted to the compute type. -/
def srcCt (s : State) (p : Nat) (rb : Nat → Nat) (base ct : Nat) (rtz : Bool) (o : Opnd) (i : Nat × Nat × Nat × Nat) (k : VCnt) : Nat × VCnt :=
  convC (ctType ct) rtz (valOf o.dtype (readElem s p rb base o i.1 i.2.1 i.2.2.1 i.2.2.2)) k

/-- The scalar of VEC.BINS and VEC.FILL (R210). -/
def vScalar (e : QEnt) : Nat := e.vals.headD 0 % 2 ^ ctBits (vCt e.slot)

/-- One element of VEC.UN, VEC.BIN, VEC.BINS or VEC.FILL: bits of the destination's type (R206, R207, R210-R212). -/
def vElem (s : State) (p : Nat) (rb : Nat → Nat) (e : QEnt) (i : Nat × Nat × Nat × Nat) (k : VCnt) : Nat × VCnt :=
  let w := e.slot
  let ct := vCt w
  let rtz := vRtz w
  let base := taskBase s p e.task
  let dst := vDst s p w
  let d : Nat × VCnt := if vMac w then srcCt s p rb base ct rtz dst i k else (0, k)
  let r : Nat × VCnt :=
    match e.op with
    | 0x01 =>
      let a := srcCt s p rb base ct rtz (vOpnd s p w 40) i d.2
      if ctInt ct then (unInt (vFn w) (ctBits ct) a.1, a.2)
      else unFp rb (vFn w) ct (base + (tensorOf s p (natBits w 38 34)).base) rtz a.1 a.2
    | 0x02 =>
      let a := srcCt s p rb base ct rtz (vOpnd s p w 40) i d.2
      let b := srcCt s p rb base ct rtz (vOpnd s p w 34) i a.2
      binCt (vFn w) ct rtz a.1 b.1 d.1 b.2
    | 0x03 =>
      let a := srcCt s p rb base ct rtz (vOpnd s p w 40) i d.2
      binCt (vFn w) ct rtz a.1 (vScalar e) d.1 a.2
    | _ => (vScalar e, d.2)
  convC dst.dtype rtz (valOf (ctType ct) r.1) r.2

/-- A beat's share of a floating-point sum: the exact sum of its lanes, rounded (R214). The rounding inside a beat counts no NaN of its
own (DESIGN CHOICE, log 108). -/
def beatSum (ct : Nat) (xs : List Nat) : FV := xs.foldl (fun a y => fvAdd a (valOf (ctType ct) y)) (.num true 0 0)

/-- The running value of a reduction after a beat with the converted lanes xs; `first` is the first beat of the run, `last` its last
(R214). -/
def reduceBeat (fn ct : Nat) (rtz first last : Bool) (r : Nat) (xs : List Nat) (k : VCnt) : Nat × VCnt :=
  let v (x : Nat) : FV := valOf (ctType ct) x
  let all := if first then xs else r :: xs
  if ctInt ct then
    let z (x : Nat) : Int := sext (ctBits ct) x
    match all with
    | [] => (0, k)
    | x :: ys => (wrapInt (ctBits ct) (ys.foldl (fun a y =>
        if fn = 0 then a + z y else if fn = 1 then max a (z y) else min a (z y)) (z x)), k)
  else if fn = 0 then
    if first then arithC ct rtz (beatSum ct xs) k
    else arithC ct rtz (fvAdd (v r) (v (convertTo (ctType ct) rtz (beatSum ct xs)).1)) k
  else
    match all with
    | [] => (0, k)
    | x :: ys =>
      let m := ys.foldl (fun a y => if fn = 1 then fvMax a (v y) else fvMin a (v y)) (v x)
      if last then arithC ct rtz m k else ((convertTo (ctType ct) rtz m).1, k)

/-- One element of VEC.EPI: column n of row i of the accumulator (R216). Each of u and its activation counts a NaN it results in
(DESIGN CHOICE, log 108). -/
def epiElem (s : State) (p : Nat) (rb : Nat → Nat) (e : QEnt) (n i : Nat) (k : VCnt) : Nat × VCnt :=
  let w := e.slot
  let rtz := vRtz w
  let base := taskBase s p e.task
  let fp := accFp s p (vAcc w)
  let bits := accGet s p (vAcc w) i n
  let dt := (vDst s p w).dtype
  let g := e.vals.headD 0
  let vec (slot : Nat) : FV := valOf 7 (gotNum rb (base + (tensorOf s p slot).base + 4 * n) 4)
  if !fp && epiSmode w == 0 && epiBmode w == 0 && epiAct w == 0 then convC dt rtz (fvInt (sext 32 bits)) k
  else
    let v := if fp then valOf 7 bits else valOf 7 (convertTo 7 rtz (fvInt (sext 32 bits))).1
    let sc := if epiSmode w = 1 then valOf 7 (g % 2 ^ 32) else if epiSmode w = 2 then vec (natBits w 41 37) else fvInt 1
    let bi := if epiBmode w = 1 then valOf 7 (g / 2 ^ 32) else vec (natBits w 34 30)
    let u := arithC 0 rtz (if epiBmode w = 0 then fvMul v sc else fvAdd (fvMul v sc) bi) k
    let x := if epiAct w = 1 then arithC 0 rtz (reluFp (valOf 7 u.1)) u.2
      else if epiAct w = 2 then pwl rb (base + (tensorOf s p (natBits w 22 18)).base) rtz (valOf 7 u.1) u.2
      else u
    convC dt rtz (valOf 7 x.1) x.2

/-- Elements of a list of index tuples in turn. -/
def vElems (f : Nat × Nat × Nat × Nat → VCnt → Nat × VCnt) (is : List (Nat × Nat × Nat × Nat)) (k : VCnt) : List Nat × VCnt :=
  let r := is.foldl (fun (acc : List Nat × VCnt) i =>
    let x := f i acc.2
    (x.1 :: acc.1, x.2)) ([], k)
  (r.1.reverse, r.2)

/-- The index tuples of a beat: first index, length, i1, i2, i3. -/
def beatIdx (b : Nat × Nat × Nat × Nat × Nat) : List (Nat × Nat × Nat × Nat) := (List.range b.2.1).map (fun j => (b.1 + j, b.2.2))

/-- What a beat makes: the elements it adds to the result, in iteration order, and the running value of a reduction. -/
def vBeat (s : State) (p : Nat) (e : QEnt) (b : Nat × Nat × Nat × Nat × Nat) (k : VCnt) : (List Nat × Nat) × VCnt :=
  let w := e.slot
  let rb := gotByte (e.got ++ e.load)
  let base := taskBase s p e.task
  if e.op = 0x04 then
    let ct := vCt w
    let a := vOpnd s p w 40
    let last := a.ext.getD 0 0 ≤ b.1 + b.2.1
    let xs := vElems (srcCt s p rb base ct (vRtz w) a) (beatIdx b) k
    let y := reduceBeat (vFn w) ct (vRtz w) (b.1 == 0) last e.part xs.1 xs.2
    if last then
      let z := convC (vDst s p w).dtype (vRtz w) (valOf (ctType ct) y.1) y.2
      (([z.1], y.1), z.2)
    else (([], y.1), y.2)
  else
    let r := vElems (fun i k =>
      if e.op = 0x10 then epiElem s p rb e i.1 i.2.1 k
      else if e.op = 0x11 then (readElem s p rb base (vDst s p w) i.1 i.2.1 0 0, k)
      else vElem s p rb e i k) (beatIdx b) k
    ((r.1, 0), r.2)

/-! ### Lines (R201, R203, R224, R242) -/

/-- A piece of an operation's scratchpad traffic: a read, or a write of bytes, within one line. -/
structure VItem where
  wr : Bool
  off : Nat
  len : Nat
  bytes : List Nat
deriving DecidableEq, Repr

/-- A byte range cut at 256-byte lines. -/
def cutLines (off len : Nat) : List (Nat × Nat) :=
  (List.range ((off % 256 + len + 255) / 256)).map (fun k =>
    let lo := Nat.max off (256 * (off / 256 + k))
    let hi := Nat.min (off + len) (256 * (off / 256 + k + 1))
    (lo, hi - lo))

/-- The beats of a shape: first index, length, i1, i2, i3 (R201). -/
def beatsOf (n : List Nat) (l : Nat) : List (Nat × Nat × Nat × Nat × Nat) :=
  (indices (ceilDiv (n.getD 0 0) l :: n.drop 1)).map (fun i =>
    (l * i.1, Nat.min l (n.getD 0 0 - l * i.1), i.2.1, i.2.2.1, i.2.2.2))

/-- The bytes of an operand that a beat touches: offset and length; none for a tile. -/
def beatSpan (base : Nat) (o : Opnd) (b : Nat × Nat × Nat × Nat × Nat) : List (Nat × Nat) :=
  match o with
  | .tile _ _ _ _ => []
  | .ten _ x =>
    let at_ (ext i : Nat) : Nat := if ext = 1 then 0 else i
    let es := elemSize x.dtype
    [(base + x.addr (at_ x.n0 b.1) (at_ x.n1 b.2.2.1) (at_ x.n2 b.2.2.2.1) (at_ x.n3 b.2.2.2.2),
      if x.n0 = 1 then es else b.2.1 * es)]

/-- The index of a beat's first element in the result. -/
def beatFirst (op : Nat) (n : List Nat) (b : Nat × Nat × Nat × Nat × Nat) : Nat :=
  let run := (b.2.2.2.2 * n.getD 2 1 + b.2.2.2.1) * n.getD 1 1 + b.2.2.1
  if op = 0x04 then run else run * n.getD 0 1 + b.1

/-- The writes of a beat: destination bytes by line, from the result elements. -/
def beatWrites (s : State) (p : Nat) (e : QEnt) (out : List Nat) (b : Nat × Nat × Nat × Nat × Nat) : List VItem :=
  let n := vShape s p e.slot
  let last := n.getD 0 0 ≤ b.1 + b.2.1
  if e.op = 0x11 ∨ (e.op = 0x04 ∧ !last) then []
  else
    let o := vDst s p e.slot
    let cnt := if e.op = 0x04 then 1 else b.2.1
    let bytes := ((out.drop (beatFirst e.op n b)).take cnt).flatMap (fun v => leBytes (elemSize o.dtype) v)
    (beatSpan (taskBase s p e.task) o (if e.op = 0x04 then (0, 1, b.2.2) else b)).flatMap (fun sp =>
      (cutLines sp.1 sp.2).map (fun c => ⟨true, c.1, c.2, (bytes.drop (c.1 - sp.1)).take c.2⟩))

/-- The reads of a beat. -/
def beatReads (s : State) (p : Nat) (e : QEnt) (b : Nat × Nat × Nat × Nat × Nat) : List VItem :=
  ((vSrcs s p e.slot ++ (if vMac e.slot then [vDst s p e.slot] else [])).flatMap
    (fun o => beatSpan (taskBase s p e.task) o b)).flatMap (fun sp => (cutLines sp.1 sp.2).map (fun c => ⟨false, c.1, c.2, []⟩))

/-- The beats of an operation. -/
def vBeats (s : State) (p : Nat) (e : QEnt) : List (Nat × Nat × Nat × Nat × Nat) :=
  beatsOf (vShape s p e.slot) (ctLanes (vCt e.slot))

/-- The setup reads of an operation (R213, R215). -/
def vSetupReads (s : State) (p : Nat) (e : QEnt) : List VItem :=
  (vSetup e.slot).flatMap (fun d => (cutLines (taskBase s p e.task + (tensorOf s p d.1).base) d.2).map
      (fun c => ⟨false, c.1, c.2, []⟩))

/-- The operation has made all its beats. -/
def vEnded (s : State) (p : Nat) (e : QEnt) : Bool := e.abandoned || (vBeats s p e).length ≤ e.turn

/-- f of R212. -/
def vCycles (e : QEnt) : Nat := if e.op = 0x01 ∧ 5 ≤ vFn e.slot then 4 else 1

/-- A of a beat (R224): lines of every operand; in split mode the largest sum within one region. -/
def beatLines (s : State) (p : Nat) (e : QEnt) (b : Nat × Nat × Nat × Nat × Nat) : Nat :=
  let ls := (beatReads s p e b ++ beatWrites s p e e.ans b).map (fun i => i.off)
  if splitMode s p then
    (List.range 3).foldl (fun m r => Nat.max m (ls.filter (fun o => regionOf o == r)).length) 0
  else ls.length

/-! ### Start, beats and completion (R219, R221, R225) -/

/-- Physical ranges an operation reads in its beats and at setup, and the one it writes. -/
def vSrcRanges (s : State) (p : Nat) (e : QEnt) : List (Nat × Nat) :=
  let b := taskBase s p e.task
  (tensors (vSrcs s p e.slot ++ (if vMac e.slot then [vDst s p e.slot] else []))).map (fun x => (b + x.base, b + x.hi))
def vSetupRanges (s : State) (p : Nat) (e : QEnt) : List (Nat × Nat) :=
  let b := taskBase s p e.task
  (vSetup e.slot).map (fun d => (b + (tensorOf s p d.1).base, b + (tensorOf s p d.1).base + d.2))
def vWriteRanges (s : State) (p : Nat) (e : QEnt) : List (Nat × Nat) :=
  let b := taskBase s p e.task
  if e.op = 0x11 then [] else (tensors [vDst s p e.slot]).map (fun x => (b + x.base, b + x.hi))

/-- Two ranges overlap. -/
def overlap (a b : Nat × Nat) : Bool := a.1 < b.2 && b.1 < a.2

/-- An earlier incomplete V operation writes one of the ranges, which e reads (R219). -/
def vDepends (s : State) (p : Nat) (e : QEnt) (rs : List (Nat × Nat)) : Bool :=
  (coreGet s p).qv.any (fun m => m.disp < e.disp && m.started && !m.abandoned &&
    (vWriteRanges s p m).any (fun a => rs.any (overlap a)))

/-- The first beat of e waits for such an operation. -/
def vHeld (s : State) (p : Nat) (e : QEnt) : Bool := vDepends s p e (vSrcRanges s p e ++ vSetupRanges s p e)

/-- Setup of n in cycles (R225): 4 and the lines it reads. -/
def vSetupTime (s : State) (p : Nat) (e : QEnt) : Nat := 4 + (vSetupReads s p e).length

/-- The first beat of a started operation waits by R219 alone: its setup time is over and what stands before it has made its
beats (LEA_VDEP). -/
def vWaits (s : State) (p : Nat) : Bool :=
  match (coreGet s p).qv.find? (fun e => e.started && !vEnded s p e) with
  | some e => e.turn == 0 && e.prog2 == 0 && !e.mark && decide (e.startCyc + vSetupTime s p e < (coreGet s p).cyc) && vHeld s p e
  | none => false

/-- A V request stands. -/
def vPending (s : State) (p : Nat) : Bool := (coreGet s p).reqs.any (fun r => r.cls == 3)

/-- Words of a write with their data. -/
def writeWords (off : Nat) (bs : List Nat) : List WWord :=
  (wordsOf off bs.length).map (fun w => ⟨w, enables off bs.length w, wordData off bs w, false, (0, 0)⟩)

/-- Present a piece of the traffic of operation e (R242). -/
def vPresent (p : Nat) (e : QEnt) (i : VItem) (load : Bool) (s : State) : State :=
  present p ⟨3, i.wr, load, (coreGet s p).cyc, e.disp, if i.wr then writeWords i.off i.bytes else readWords i.off i.len⟩ s

/-- The destination and a tensor coincide element for element (R221). -/
def coincides (d x : Tensor) : Bool :=
  d.base == x.base && d.dtype == x.dtype && d.s1 == x.s1 && d.s2 == x.s2 && d.s3 == x.s3

/-- Element i of the destination lies in a source that the destination overlaps otherwise than in place (R221); a table may lie there
(R232). -/
def vClashes (s : State) (p : Nat) (e : QEnt) (i : Nat × Nat × Nat × Nat) : Bool :=
  match vDst s p e.slot with
  | .tile _ _ _ _ => false
  | .ten _ d =>
    let lo := d.addr i.1 i.2.1 i.2.2.1 i.2.2.2
    e.op != 0x11 &&
      (tensors (vSrcs s p e.slot)).any (fun x => !coincides d x && overlap (lo, lo + elemSize d.dtype) (x.base, x.hi))

/-- The elements a beat made, those that clash arbitrary (R221). -/
def vFreed (s : State) (p : Nat) (e : QEnt) (b : Nat × Nat × Nat × Nat × Nat) (out : List Nat) : List Nat × State :=
  let is := if e.op = 0x04 then [(0, b.2.2)] else beatIdx b
  if is.any (vClashes s p e) then
    let r := freshBlock s
    ((out.zip is).zipIdx.map (fun x => if vClashes s p e x.1.2 then (Config.freeWord r.1 x.2).toNat else x.1.1), r.2)
  else (out, s)

/-- Make the elements of the current beat b: its reads have been served. Saturations, NaN results, the beat and the cycles its lines
cost beyond f are counted with it (R206, R207, R224). -/
def vMake (p : Nat) (e : QEnt) (b : Nat × Nat × Nat × Nat × Nat) (s : State) : State :=
  let r := vBeat s p e b ⟨0, 0⟩
  let o := vFreed s p e b r.1.1
  let s1 := addSat LEA_VCLIP_count p r.2.clip (addSat LEA_VNAN_count p r.2.nan (bump LEA_VBEAT_count p
    (addSat LEA_VLINE_count p (beatLines s p e b - vCycles e) o.2)))
  qMod p .v e.disp (fun x => { x with ans := x.ans ++ o.1, part := r.1.2, mark := true, got := [] }) s1

/-- The next thing operation e does: a setup read, a read of its beat, the making of the beat's elements, a write, or the next
beat; false where it waits or has ended. -/
def vStep (p : Nat) (e : QEnt) (s : State) : Bool × State :=
  match (vSetupReads s p e)[e.prog]? with
  | some i => (false, if vDepends s p e (vSetupRanges s p e) then s else vPresent p e i true s)
  | none => match (vBeats s p e)[e.turn]? with
    | none => (false, s)
    | some b =>
      let rs := beatReads s p e b
      if e.turn = 0 ∧ e.prog2 = 0 ∧ !e.mark ∧ vHeld s p e then (false, s)
      else if !e.mark then
        match rs[e.prog2]? with
        | some i => (false, vPresent p e i false s)
        | none => (true, vMake p e b s)
      else match (beatWrites s p e e.ans b)[e.prog2 - rs.length]? with
        | some i => (false, vPresent p e i false s)
        | none => (true, qMod p .v e.disp (fun x => { x with turn := x.turn + 1, prog2 := 0, mark := false }) s)

/-- Let the engine go on until a request stands: the oldest operation that has beats left, `n` such steps at most. -/
def vRun (p : Nat) : Nat → State → State
  | 0, s => s
  | n + 1, s =>
    match (coreGet s p).qv.find? (fun e => e.started && !vEnded s p e) with
    | none => s
    | some e =>
      let r := vStep p e s
      if r.1 then vRun p n r.2 else r.2

/-- Let the vector engine go on: a beat without scratchpad operands takes two steps, and an operation has at most 32 of those. -/
def vAdvance (p : Nat) (s : State) : State := if vPending s p then s else vRun p 600 s

/-- The operation that started last has begun its beats (R225): nothing of it is left before the first. -/
def vBegun (s : State) (p : Nat) : Bool :=
  match ((coreGet s p).qv.filter (fun e => e.started)).reverse with
  | [] => true
  | e :: _ => e.abandoned || e.turn != 0 || e.mark || (coreGet s p).reqs.any (fun r => r.cls == 3 && r.ent == e.disp && !r.load) || e.prog2 != 0

/-- Start the first V entry that has not started, where its opcode is `op` and R140 and R225 allow it. -/
def startVector (op c : Nat) (s : State) : State :=
  let p := pcore s c
  match qNext s p .v with
  | none => s
  | some e =>
    if e.op ≠ op ∨ !scoreClear s p .v e ∨ !vBegun s p then s
    else vAdvance p (wr LEA_VSTAT_busy p 1 (qMod p .v e.disp (fun x => { x with started := true, startCyc := (coreGet s p).cyc }) s))

/-- VEC_UN: dst := fn(a) (R210, R212, R213). -/
def execVecUn (c : Nat) (s : State) : Result := .next (startVector 0x01 c s)

/-- VEC_BIN: dst := fn(a, b) (R210, R211). -/
def execVecBin (c : Nat) (s : State) : Result := .next (startVector 0x02 c s)

/-- VEC_BINS: dst := fn(a, scalar) (R210, R211). -/
def execVecBins (c : Nat) (s : State) : Result := .next (startVector 0x03 c s)

/-- VEC_RED: a reduced along dimension 0 (R214). -/
def execVecRed (c : Nat) (s : State) : Result := .next (startVector 0x04 c s)

/-- VEC_FILL: dst := scalar (R210). -/
def execVecFill (c : Nat) (s : State) : Result := .next (startVector 0x05 c s)

/-- VEC_EPI: the epilogue (R216). -/
def execVecEpi (c : Nat) (s : State) : Result := .next (startVector 0x10 c s)

/-- VEC_ACCLD: an accumulator is loaded (R217). -/
def execVecAccld (c : Nat) (s : State) : Result := .next (startVector 0x11 c s)

/-- Write the result into a tile (R198). -/
def vPutTile (p : Nat) (e : QEnt) (t : Nat) (n : List Nat) (s : State) : State :=
  let cols := if e.op = 0x04 then 1 else n.getD 0 1
  iter e.ans.length (fun k s => tileSet p t (k / cols) (k % cols) (e.ans.getD k 0) s) s

/-- Load the accumulator (R217): rows from the source, the rest 0, tag, shadows, suspect cleared. -/
def vPutAcc (p : Nat) (e : QEnt) (fp : Bool) (s : State) : State :=
  let a := vAcc e.slot
  setSuspect p a false (setTag p a fp
    (iter 1024 (fun k s => accPut p a (k / 32) (k % 32) (e.ans.getD k 0) fp s) s))

/-- What becomes visible at completion (R225). -/
def vCommit (p : Nat) (e : QEnt) (s : State) : State :=
  if e.op = 0x11 then vPutAcc p e ((vDst s p e.slot).dtype == 7) s
  else match vDst s p e.slot with
    | .tile t _ _ _ => vPutTile p e t (vShape s p e.slot) s
    | .ten _ _ => s

/-- V_OP_COMPLETE: the oldest V operation, its traffic served, completes (R139, R225). -/
def execVOpComplete (c : Nat) (s : State) : Result :=
  let p := pcore s c
  .next (match (coreGet s p).qv with
  | [] => s
  | e :: _ =>
    if e.started ∧ vEnded s p e then
      let s1 := if e.abandoned then s else vCommit p e s
      let s2 := qFree p .v e.disp s1
      vAdvance p (wr LEA_VSTAT_busy p (b2n (anyStarted (coreGet s2 p).qv)) s2)
    else s)

/-- The number of elements of an operation's result. -/
def vCount (s : State) (p : Nat) (e : QEnt) : Nat :=
  let n := vShape s p e.slot
  (if e.op = 0x04 then 1 else n.getD 0 0) * n.getD 1 0 * n.getD 2 0 * n.getD 3 0

/-- Make every element of a V operation's destination arbitrary (R223). An accumulator keeps its tag, and its shadows agree with the
values it then holds (DESIGN CHOICE, log 109). -/
def vScramble (p : Nat) (e : QEnt) (s : State) : State :=
  let b := freshBlock s
  let v (k : Nat) : Nat := (Config.freeWord b.1 k).toNat
  let out := (List.range (vCount s p e)).map v
  if e.op = 0x11 then
    setSuspect p (vAcc e.slot) true (iter 1024 (fun k s =>
      accPut p (vAcc e.slot) (k / 32) (k % 32) (v k) (accFp s p (vAcc e.slot)) s) b.2)
  else match vDst s p e.slot with
    | .tile _ _ _ _ => vCommit p { e with ans := out } b.2
    | .ten _ _ =>
      (vBeats s p e).foldl (fun s bt => (beatWrites s p e out bt).foldl
        (fun s i => spOpWrite p i.off i.bytes 4 e.task 1 s) s) b.2

/-- Abandon a V operation on an uncorrectable read (R223). -/
def vAbandon (p : Nat) (e : QEnt) (s : State) : State :=
  vAdvance p (asyncExc p e.task 2 e.pc 1
    (vScramble p e (coreMod p (fun c => { c with reqs := c.reqs.filter (fun r => !(r.cls == 3 && r.ent == e.disp)) })
      (qMod p .v e.disp (fun x => { x with abandoned := true, got := [], load := [] }) s))))

/-- The last word of a class V request was served; `setup` says that it was a setup read. -/
def vServed (p n : Nat) (setup : Bool) (s : State) : State :=
  vAdvance p (qMod p .v n (fun x => if setup then { x with prog := x.prog + 1 } else { x with prog2 := x.prog2 + 1 }) s)

end Sys2Proof.Machine
end

