-- ==== Sys2Proof/Machine/Mesh.lean ====
section
/-! DEFINITION. The X unit's order of starts, and its inject and eject engines (spec/09_lea_mesh.md R269-R276): MSH.PUT,
MSH.GET, MSH.DROP. A time is a core cycle (BUNDLE_ISSUE is one). -/

namespace Sys2Proof.Machine

/-! ### Engines and starts (R141, R269) -/

/-- The engine that runs an X opcode: 0 inject, 1 eject, 2 stream, 3 Whistle, 4 Tally, 5 Byre. -/
def xEngine (op : Nat) : Nat :=
  if op = 0x01 then 0 else if op = 0x02 ∨ op = 0x03 then 1 else if op / 16 = 1 then 2
  else if op / 16 = 2 ∨ op = 0x50 then 3 else if op / 16 = 3 then 4 else 5

/-- The operation an engine holds. -/
def xHeld (s : State) (p eng : Nat) : Option QEnt := (coreGet s p).qx.find? (fun e => e.started && xEngine e.op == eng)

/-- The head of the X queue: its oldest entry that has not passed (R141). -/
def xHead (s : State) (p : Nat) : Option QEnt := (coreGet s p).qx.find? (fun e => !e.passed)

/-- The next X entry may start: its turn, its engine and the scoreboard (R269). -/
def xMayStart (s : State) (p : Nat) (e : QEnt) : Bool :=
  (match xHead s p with
   | some h => h.disp == e.disp
   | none => false) && !e.started && (xHeld s p (xEngine e.op)).isNone && scoreClear s p .x e

/-- Start entry e: it passes the head, but a TLY.WAIT passes only when it completes. -/
def xMark (p : Nat) (e : QEnt) (s : State) : State :=
  qMod p .x e.disp (fun x => { x with started := true, passed := x.op != 0x31, startCyc := (coreGet s p).cyc }) s

/-- Start the head of the X queue where its opcode is `op`, it may start and `ok` holds of it; then go on with `run`. -/
def xStart (op c : Nat) (ok : State → Nat → QEnt → Bool) (run : Nat → QEnt → State → State) (s : State) : State :=
  let p := pcore s c
  match xHead s p with
  | none => s
  | some e => if e.op = op ∧ xMayStart s p e ∧ ok s p e then run p e (xMark p e s) else s

/-- An X operation of entry e raises an asynchronous exception (R151). -/
def xFault (p : Nat) (e : QEnt) (sub : Nat) (s : State) : State := asyncExc p e.task 3 e.pc sub s

/-! ### Requests of class X (R242) -/

/-- Present the next request of class X in a direction, where none of it stands: a unit that has had one served may present the next one
in the same cycle, to be served from the next cycle on (`wait` = 1). -/
def xPresent (p : Nat) (write : Bool) (wait : Nat) (s : State) : State :=
  let c := coreGet s p
  if c.reqs.any (fun r => r.cls == 1 && r.wr == write) then s
  else match c.xtodo.find? (fun r => r.wr == write) with
    | none => s
    | some r => coreMod p (fun c => { c with reqs := c.reqs ++ [{ r with at_ := c.cyc + wait }], xtodo := listDropFirst (fun q => q.wr == write) c.xtodo }) s

/-- Requests of class X come after those that wait. -/
def xPush (p : Nat) (rs : List WReq) (s : State) : State :=
  xPresent p true 0 (xPresent p false 0 (coreMod p (fun c => { c with xtodo := c.xtodo ++ rs }) s))

/-- A small access of X operation n reads or writes the bytes from off on: its requests, one for each line. -/
def xAccess (p n : Nat) (write : Bool) (off len : Nat) (data : List Nat) (s : State) : State :=
  xPush p ((lineParts off len).map (fun x =>
    { cls := 1, wr := write, load := false, at_ := 0, ent := n,
      words := (wordsOf x.1 x.2).map (fun w => { word := w, be := enables x.1 x.2 w, val := wordData off data w, bad := false }) })) s

/-! ### Fields of a mesh operation (R270, R271) -/

def xSpec (w : Nat) : Nat := natBits w 51 46
def xRows (w : Nat) : Nat := natBits w 45 41 + 1
def xTdt (w : Nat) : Nat := natBits w 40 37
def xSv (w : Nat) : Bool := natBit w 36
def xCtx (w : Nat) : Nat := natBits w 35 31
def xRel (w : Nat) : Bool := natBit w 30

/-- The context of a stream-bound mesh operation on core p. -/
def meshCtx (p w : Nat) : Nat := 32 * p + xCtx w

/-- The operand of a mesh operation. -/
def meshOpnd (s : State) (p w : Nat) : Opnd := opndOf s p (xSpec w) (xRows w) 32 (xTdt w)

/-- Flits of an operand (R271). -/
def flitCount (o : Opnd) : Nat :=
  match o with
  | .tile _ r _ dt => r * elemSize dt
  | .ten _ x => x.n0 * elemSize x.dtype / 32 * x.n1 * x.n2 * x.n3

/-- Flits an operation moves. -/
def xFlits (s : State) (p : Nat) (e : QEnt) : Nat :=
  if e.op = 0x03 then natBits e.slot 29 14 + 1 else flitCount (meshOpnd s p e.slot)

/-- The base of a tensor operand: the task's, or the ready buffer's at commitment (R317); before it, that of the buffer the
operation will take (R275). -/
def meshBase (s : State) (p : Nat) (e : QEnt) : Nat :=
  if !xSv e.slot then taskBase s p e.task
  else match e.ans with
    | b :: _ => b
    | [] => bufOff s (meshCtx p e.slot) (ctxGet s (meshCtx p e.slot)).rel

/-- Physical offset of flit k of a tensor operand (R271). -/
def flitOff (base : Nat) (x : Tensor) (k : Nat) : Nat :=
  let run := x.n0 * elemSize x.dtype / 32
  let i1 := k / run
  base + x.base + k % run * 32 + i1 % x.n1 * x.s1 + i1 / x.n1 % x.n2 * x.s2 + i1 / x.n1 / x.n2 * x.s3

/-- How many flits from k on lie in the line of flit k, at most `room` (R274). -/
def lineRun (base : Nat) (x : Tensor) (total k : Nat) : Nat → Nat
  | 0 => 0
  | room + 1 =>
    if total ≤ k then 0
    else 1 + (if k + 1 < total ∧ flitOff base x (k + 1) / 256 = flitOff base x k / 256 then lineRun base x total (k + 1) room else 0)

/-- Words of the flits k to k + n - 1. -/
def flitWords (base : Nat) (x : Tensor) (k n : Nat) : List Nat :=
  (List.range n).flatMap (fun j => wordsOf (flitOff base x (k + j)) 32)

/-- A flit of clean words. -/
def flitOf (ds : List Nat) : Flit := { ws := ds.map word72, poisoned := false }

/-- A poisoned flit (R289). -/
def poisonFlit : Flit := { ws := List.replicate 4 (badWord 0), poisoned := true }

/-- A flit's 32 data bytes. -/
def flitBytes (f : Flit) : List Nat := f.ws.flatMap (fun w => leBytes 8 (eccDecode 64 7 w).2)

/-- Some word of the flit fails its check. -/
def flitBad (f : Flit) : Bool := f.poisoned || f.ws.any (fun w => (eccDecode 64 7 w).1 == .uncorrectable)

/-- Flit k of a tile operand: elements of row k div es (R271). -/
def tileFlit (s : State) (p t es k : Nat) : Flit :=
  let bytes := (List.range (32 / es)).flatMap (fun j => leBytes es (tileGet s p t (k / es) (k % es * (32 / es) + j)))
  flitOf ((List.range 4).map (fun w => leNat ((bytes.drop (8 * w)).take 8)))

/-- Put flit k into a tile, zero-extended (R271, R198). -/
def putTileFlit (p t es k : Nat) (f : Flit) (s : State) : State :=
  let bytes := flitBytes f
  (List.range (32 / es)).foldl (fun s j =>
    tileSet p t (k / es) (k % es * (32 / es) + j) (leNat ((bytes.drop (es * j)).take es)) s) s

/-- Make the elements of flit k of a tile arbitrary (R276). -/
def scrambleTileFlit (p t es k : Nat) (s : State) : State :=
  let b := freshBlock s
  (List.range (32 / es)).foldl (fun s j =>
    tileSet p t (k / es) (k % es * (32 / es) + j) (Config.freeWord b.1 j).toNat s) b.2

/-! ### What the FIFOs show (MSH_FIFO) -/

/-- MSH_FIFO follows the FIFOs and the engines. -/
def fifoShow (p : Nat) (s : State) : State :=
  let c := coreGet s p
  let i := xHeld s p 0
  let j := xHeld s p 1
  wr MSH_FIFO_inj_occ p c.inj.length (wr MSH_FIFO_ej_occ p c.ej.length
    (wr MSH_FIFO_inj_busy p (b2n i.isSome) (wr MSH_FIFO_ej_busy p (b2n j.isSome)
      (wr MSH_FIFO_inj_commit p (b2n (i.any (fun e => e.committed))) (wr MSH_FIFO_ej_commit p (b2n (j.any (fun e => e.committed))) s)))))

/-- Append flits to the injection FIFO. -/
def injPush (p : Nat) (fs : List Flit) (s : State) : State := coreMod p (fun c => { c with inj := c.inj ++ fs }) s

/-- Entry e has moved n more flits. -/
def addProg (p : Nat) (e : QEnt) (n : Nat) (s : State) : State := qMod p .x e.disp (fun x => { x with prog := x.prog + n }) s

/-! ### One cycle of the inject engine (R274-R276) -/

/-- Ranges a tensor operand touches; none for a tile. -/
def meshRange (s : State) (p : Nat) (e : QEnt) : List (Nat × Nat) :=
  match meshOpnd s p e.slot with
  | .tile _ _ _ _ => []
  | .ten _ x => [(meshBase s p e + x.base, meshBase s p e + x.hi)]

/-- An earlier incomplete MSH.GET writes what MSH.PUT e reads (R275). -/
def putWaits (s : State) (p : Nat) (e : QEnt) : Bool :=
  (coreGet s p).qx.any (fun m => m.op == 0x02 && m.disp < e.disp && m.started &&
    (meshRange s p m).any (fun a => (meshRange s p e).any (overlap a)))

/-- A class X request of operation n stands or waits. -/
def xPending (s : State) (p n : Nat) : Bool :=
  (coreGet s p).reqs.any (fun r => r.cls == 1 && r.ent == n) || (coreGet s p).xtodo.any (fun r => r.ent == n)

/-- Flits read enter the FIFO. -/
def injEnter (p : Nat) (e : QEnt) (s : State) : State :=
  let fs := (coreGet s p).injRead
  if fs.isEmpty then s else addProg p e fs.length (injPush p fs (coreMod p (fun c => { c with injRead := [] }) s))

/-- Present the read of the next line of a tensor, where there is room (R274). -/
def putRead (p : Nat) (e : QEnt) (x : Tensor) (total : Nat) (s : State) : State :=
  if xPending s p e.disp || !(coreGet s p).injRead.isEmpty || total ≤ e.prog2 then s
  else if putWaits s p e then bump MSH_XDEP_count p s
  else
    let n := lineRun (meshBase s p e) x total e.prog2 8
    if (coreGet s p).inj.length + n ≤ 16 then
      xPush p [⟨1, false, false, 0, e.disp, (flitWords (meshBase s p e) x e.prog2 n).map (fun w => ⟨w, 255, 0, false, (0, 0)⟩)⟩]
        (qMod p .x e.disp (fun q => { q with prog2 := q.prog2 + n }) s)
    else s

/-- One cycle of MSH.PUT; after an uncorrectable read its flits enter poisoned, a line where the FIFO has room for the whole line
(R274, R276). -/
def putCycle (p : Nat) (e : QEnt) (s : State) : State :=
  let total := xFlits s p e
  let room := 16 - (coreGet s p).inj.length
  if e.abandoned then
    match meshOpnd s p e.slot with
    | .tile _ _ _ _ => s
    | .ten _ x =>
      let n := lineRun (meshBase s p e) x total e.prog 8
      if n ≤ room then addProg p e n (injPush p (List.replicate n poisonFlit) s) else s
  else match meshOpnd s p e.slot with
    | .tile t _ _ dt =>
      let n := Nat.min (total - e.prog) (Nat.min 4 room)
      addProg p e n (injPush p ((List.range n).map (fun k => tileFlit s p t (elemSize dt) (e.prog + k))) s)
    | .ten _ x => putRead p e x total s

/-! ### One cycle of the eject engine (R274, R276) -/

/-- Take n flits from the ejection FIFO. -/
def ejTake (p n : Nat) (s : State) : State := coreMod p (fun c => { c with ej := c.ej.drop n }) s

/-- Write the n oldest flits into a tile; a poisoned one leaves arbitrary elements and raises 0x0A, subcode 2. -/
def getTile (p : Nat) (e : QEnt) (t es : Nat) : List Flit → Nat → State → State
  | [], _, s => s
  | f :: fs, k, s =>
    getTile p e t es fs (k + 1) (if flitBad f then xFault p e 2 (scrambleTileFlit p t es k s) else putTileFlit p t es k f s)

/-- The write words of n flits from flit k on. -/
def getWords (base : Nat) (x : Tensor) : List Flit → Nat → List WWord
  | [], _ => []
  | f :: fs, k =>
    let off := flitOff base x k
    (List.range 4).map (fun w => ⟨off / 8 + w, 255, leNat (((flitBytes f).drop (8 * w)).take 8), flitBad f, (0, 0)⟩) ++
      getWords base x fs (k + 1)

/-- One cycle of MSH.GET or MSH.DROP. -/
def getCycle (p : Nat) (e : QEnt) (s : State) : State :=
  let total := xFlits s p e
  let ej := (coreGet s p).ej
  let n := Nat.min (total - e.prog) (Nat.min 4 ej.length)
  if e.op = 0x03 then addProg p e n (ejTake p n s)
  else match meshOpnd s p e.slot with
    | .tile t _ _ dt => addProg p e n (ejTake p n (getTile p e t (elemSize dt) (ej.take n) e.prog s))
    | .ten _ x =>
      if xPending s p e.disp then s
      else
        let m := Nat.min ej.length (lineRun (meshBase s p e) x total e.prog 8)
        if m = 0 then s
        else addProg p e m (ejTake p m
          (xPush p [⟨1, true, false, 0, e.disp, getWords (meshBase s p e) x (ej.take m) e.prog⟩] s))

/-! ### A core cycle of both engines -/

/-- An operation without a stream commits 2 cycles after its start, MSH.DROP at its start (R272). -/
def meshCommit (p : Nat) (e : QEnt) (s : State) : State :=
  if !e.committed ∧ (e.op = 0x03 ∨ (!xSv e.slot ∧ e.startCyc + 2 ≤ (coreGet s p).cyc)) then
    qMod p .x e.disp (fun x => { x with committed := true }) s
  else s

/-- One cycle of an engine. -/
def meshEngine (p eng : Nat) (s : State) : State :=
  match xHeld s p eng with
  | none => s
  | some e0 =>
    let s1 := meshCommit p e0 s
    match xHeld s1 p eng with
    | none => s1
    | some e1 =>
      let s2 := if eng = 0 then injEnter p e1 s1 else s1
      match xHeld s2 p eng with
      | none => s2
      | some e => if e.committed then (if eng = 0 then putCycle p e s2 else getCycle p e s2) else s2

/-- One cycle of the mesh engines of core p. -/
def meshCycle (p : Nat) (s : State) : State :=
  fifoShow p (meshEngine p 1 (meshEngine p 0 (xPresent p true 0 (xPresent p false 0 s))))

/-- The last word of a class X request of a mesh operation was served: flits of a read wait to enter. -/
def meshServed (p n : Nat) (wr_ : Bool) (s : State) : State :=
  match qFind s p .x n with
  | none => s
  | some e =>
    if wr_ then qMod p .x n (fun x => { x with prog2 := x.prog }) s
    else match meshOpnd s p e.slot with
      | .tile _ _ _ _ => s
      | .ten _ x =>
        let base := meshBase s p e
        let word (w : Nat) : Nat := ((e.got.find? (fun y => y.1 == w)).map (fun y => y.2)).getD 0
        let flits := (List.range (e.prog2 - e.prog)).map (fun k => flitOf ((wordsOf (flitOff base x (e.prog + k)) 32).map word))
        qMod p .x n (fun q => { q with got := [] }) (coreMod p (fun c => { c with injRead := flits }) s)

/-- The requests of X operation n are given up. -/
def xGiveUp (p n : Nat) (s : State) : State :=
  coreMod p (fun c => { c with reqs := c.reqs.filter (fun r => !(r.cls == 1 && r.ent == n)), xtodo := c.xtodo.filter (fun r => r.ent != n) }) s

/-- An uncorrectable read abandons an MSH.PUT: the rest enters as poisoned flits (R276, R296). -/
def meshAbandon (p : Nat) (e : QEnt) (s : State) : State :=
  xFault p e 1 (xGiveUp p e.disp
    (qMod p .x e.disp (fun x => { x with abandoned := true }) s))

/-! ### Starts and commitment (R269-R273) -/

/-- MSH_PUT: the inject engine takes the operation (R269, R270). -/
def execMshPut (c : Nat) (s : State) : Result :=
  .next (xStart 0x01 c (fun _ _ _ => true) (fun p _ s => fifoShow p s) s)

/-- MSH_GET: the eject engine takes the operation. -/
def execMshGet (c : Nat) (s : State) : Result :=
  .next (xStart 0x02 c (fun _ _ _ => true) (fun p _ s => fifoShow p s) s)

/-- MSH_DROP: the eject engine takes the operation, committed at its start (R272). -/
def execMshDrop (c : Nat) (s : State) : Result :=
  .next (xStart 0x03 c (fun _ _ _ => true) (fun p e s => fifoShow p (meshCommit p { e with started := true } s)) s)

/-- MSH_COMMIT: the stream-bound operation of engine `eng` commits: 2 cycles after its start, once the buffer is ready
(R272, R317). -/
def execMshCommit (c eng : Nat) (s : State) : Result :=
  let p := pcore s c
  .next (match xHeld s p (eng % 2) with
  | none => s
  | some e =>
    let g := meshCtx p e.slot
    if !e.committed ∧ e.op ≠ 0x03 ∧ xSv e.slot ∧ e.startCyc + 2 ≤ (coreGet s p).cyc ∧ ctxReady s g then
      fifoShow p (qMod p .x e.disp (fun x => { x with committed := true, ans := [bufOff s g (ctxGet s g).rel] }) s)
    else s)

/-- A mesh operation has done everything (R274). -/
def meshDone (s : State) (p : Nat) (e : QEnt) : Bool :=
  e.committed && xFlits s p e ≤ e.prog && !xPending s p e.disp && (e.op != 0x01 || (coreGet s p).injRead.isEmpty)

/-- A completed mesh operation: with rel = 1 the buffer is handed back (R317). -/
def meshFinish (p : Nat) (e : QEnt) (s : State) : State :=
  let s1 := qFree p .x e.disp s
  fifoShow p (if e.op ≠ 0x03 ∧ xSv e.slot ∧ xRel e.slot then releaseCtx (meshCtx p e.slot) s1 else s1)

/-- The subcode of the first failing issue check of a mesh operation of task t (R273, R317). -/
def mshCheck (s : State) (p t w : Nat) : Option Nat :=
  if slotOp w = 0x03 then none
  else
    let g := meshCtx p w
    match meshOpnd s p w with
    | .tile _ _ _ dt => if 8 ≤ dt ∨ xSv w then some 1 else none
    | .ten _ x =>
      if x.malformed then some 2
      else if x.n0 * elemSize x.dtype % 32 ≠ 0 ∨ x.base % 32 ≠ 0 ∨ x.s1 % 32 ≠ 0 ∨ x.s2 % 32 ≠ 0 ∨ x.s3 % 32 ≠ 0 then some 3
      else if (if xSv w then ctxBsize s g else taskBound s p t) < x.hi then some 4
      else if xSv w ∧ (ctxState s g = ctxUnarmed ∨ crd s DRV_CTXCFG_task g ≠ t ∨
          crd s DRV_CTXCFG_dir g ≠ (if slotOp w = 0x01 then 0 else 1)) then some 5
      else none

end Sys2Proof.Machine
end

