-- ==== Sys2Proof/Machine/Drover.lean ====
section
/-! DEFINITION. The Drover (spec/10_drover.md R306-R332): its commands, the forming of requests, what their answers do, and the
STRM operations of the X unit. A context is named by its unit u (logical core u, or from 2,048 on M die 8 + u - 2,048) and its
number k. -/

namespace Sys2Proof.Machine

/-! ### Commands (R305, R323, R324, R331) -/

/-- DRV_ARM: DRV_CTL.arm of context k of unit u, at lea cycle t (R305). -/
def execDrvArm (u k t : Nat) (s : State) : Result := .next (armCtx (ctxOf s u k) (atCycle t s))

/-- DRV_HALT: DRV_CTL.halt (R323). -/
def execDrvHalt (u k : Nat) (s : State) : Result := .next (haltByCommand (ctxOf s u k) s)

/-- DRV_RESUME: DRV_CTL.resume or a resume bit (R324). -/
def execDrvResume (u k : Nat) (s : State) : Result := .next (resumeCtx (ctxOf s u k) s)

/-- DRV_REARM: a re-arm request (R331, R332). -/
def execDrvRearm (u k : Nat) (s : State) : Result := .next (rearmRequest (ctxOf s u k) s)

/-- REARM_TAKE_EFFECT: the cycle after a requested re-arm of a context at its end of stream (R331). -/
def execRearmTakeEffect (u k t : Nat) (s : State) : Result := .next (rearmEffect (ctxOf s u k) (atCycle t s))

/-! ### Deadlines (R319, R320) -/

/-- Bytes of the stream before chunk k. -/
def chunkBytes (s : State) (g k : Nat) : Nat := Nat.min (k * ctxBsize s g) (ctxS s g)

/-- Bytes of requests outstanding. -/
def bytesOut (s : State) (g : Nat) : Nat := (s.fab.filter (xactOf g)).foldl (fun a x => a + x.len) 0

/-- The fill of a context (R319). -/
def ctxFill (s : State) (g : Nat) : Nat :=
  let c := ctxGet s g
  if ctxFar g then c.pos - crd s DRV_CTXCFG_drain_rate g * ((droverT s + 2 ^ 32 - c.tArm % 2 ^ 32) % 2 ^ 32) / 16
  else if crd s DRV_CTXCFG_dir g = 0 then c.pos - chunkBytes s g c.rel
  else 2 * ctxBsize s g + (c.pos - c.reading - bytesOut s g) - chunkBytes s g c.rel

/-- The time to empty that a request is stamped with (R320). -/
def ctxTte (s : State) (g : Nat) : Nat :=
  let r := crd s DRV_CTXCFG_drain_rate g
  if r = 0 then 0xFFFFFF else Nat.min (16 * ctxFill s g / r) 0xFFFFFF

/-- The deadline of a request formed now. -/
def ctxDeadline (s : State) (g : Nat) : Nat := (droverT s + ctxTte s g) % 2 ^ 32

/-! ### Forming requests (R306-R309, R321, R322) -/

/-- The contexts of unit u that something is known of. -/
def unitCtxs (s : State) (u : Nat) : List Nat :=
  let ks := s.ctxs.map (fun x => x.1)
  if u < 2048 then ks.filter (fun g => !ctxFar g && g / 32 == pcore s u)
  else ks.filter (fun g => ctxFar g && (g - 131072) / 16384 == (u - 2048) % 2)

/-- The length of the next request (R306). -/
def reqLen (s : State) (g : Nat) : Nat :=
  let pos := (ctxGet s g).pos
  let run := ctxN s g 0 * ctxEs s g
  let b := ctxBsize s g
  Nat.min (Nat.min (run - pos % run) (512 - wrapInt 9 (ctxAddr s g pos))) (chunkEnd s g (pos / b) - pos)

/-- The buffers let the context form its next request (R308). -/
def bufAdmits (s : State) (g : Nat) : Bool :=
  let c := ctxGet s g
  let k := c.pos / ctxBsize s g
  ctxFar g ||
    (if crd s DRV_CTXCFG_dir g = 0 then bufState s g k ≤ 1 && k ≤ c.rel + 1
     else (bufState s g k == 2 || bufState s g k == 3) && k ≤ crd s DRV_DONE_done g + 1 && c.reading == 0)

/-- A context with more of its stream to request. -/
def wantsRequest (s : State) (g : Nat) : Bool :=
  ctxState s g == ctxArmed && !(ctxGet s g).stopped && (ctxGet s g).pos < ctxS s g && 0 < ctxBsize s g && bufAdmits s g

/-- It can form a request: fewer than 16 stand (R309). -/
def canForm (s : State) (g : Nat) : Bool := wantsRequest s g && ctxOutst s g < 16

/-- The context of two that forms first (R321). -/
def formFirst (s : State) (a b : Nat) : Nat :=
  if before32 (ctxDeadline s b) (ctxDeadline s a) || (ctxDeadline s b == ctxDeadline s a && gidxOf s b < gidxOf s a) then b else a

/-- A Pasture request of context g. -/
def ctxXact (s : State) (g : Nat) (w : Bool) (va len deadline : Nat) (data : List Nat) (pf : List Bool) (ret : XRet) : Xact :=
  { wr := w, brand := ctxBrand s g, die := ctxDie g, gidx := gidxOf s g, root := ctxRoot s g, va := va, pa := 0, len := len,
    data := data, pf := pf, deadline := deadline, stage := 0, host := false, status := 0, bad := [], inv := false, invTags := [],
    stale := false, ret := ret }

/-- Class P presents its next request of a direction where none stands (R242). -/
def pPresent (p : Nat) (write : Bool) (s : State) : State :=
  let c := coreGet s p
  if c.reqs.any (fun r => r.cls == 2 && r.wr == write) then s
  else match c.paccs.find? (fun a => a.wr == write && !a.todo.isEmpty) with
    | none => s
    | some a => match a.todo with
      | [] => s
      | r :: rest =>
        let cut (b : PAcc) : PAcc := if b.id = a.id then { b with todo := rest } else b
        coreMod p (fun c => { c with reqs := c.reqs ++ [{ r with at_ := c.cyc }], paccs := c.paccs.map cut }) s

/-- A Pasture-side access joins class P of core p in arrival order, one request for each line (R242). `bad` tells the bytes of
poisoned lines: the words they fall in fail their check (R359). -/
def paccPush (p : Nat) (write : Bool) (off len : Nat) (data : List Nat) (bad : Nat → Bool) (ret : PRet) (s : State) : State :=
  let c := coreGet s p
  let parts := lineParts off len
  let req (x : Nat × Nat) : WReq :=
    let badIn (w : Nat) : Bool := (List.range 8).any (fun k => off ≤ 8 * w + k && 8 * w + k < off + len && bad (8 * w + k - off))
    let word (w : Nat) : WWord := { word := w, be := enables x.1 x.2 w, val := wordData off data w, bad := badIn w }
    { cls := 2, wr := write, load := false, at_ := 0, ent := c.nextAcc, words := (wordsOf x.1 x.2).map word }
  pPresent p write (coreMod p (fun c => { c with nextAcc := c.nextAcc + 1, paccs := c.paccs ++
    [{ id := c.nextAcc, wr := write, off := off, len := len, data := (if write then data else List.replicate len 0),
       todo := parts.map req, left := parts.length, err := false, ret := ret }] }) s)

/-- Context g forms its next request (R306, R308, R320): a read, or for an out stream the read of the scratchpad before its
write. -/
def formRequest (g : Nat) (s : State) : State :=
  let pos := (ctxGet s g).pos
  let len := reqLen s g
  let k := pos / ctxBsize s g
  let dl := ctxDeadline s g
  let s1 := if len < 512 then cbump DRV_SMALL_count g s else s
  let s2 := ctxMod g (fun c => { c with pos := pos + len }) s1
  if ctxFar g ∨ crd s DRV_CTXCFG_dir g = 0 then
    let s3 := if ctxFar g then s2 else setBuf g k 1 s2
    let x := ctxXact s g false (wrapInt 48 (ctxAddr s g pos)) len dl [] [] (.drvRead g pos)
    ctxShow g { s3 with fab := s3.fab ++ [x] }
  else
    ctxShow g (paccPush (g / 32) false (bufOff s g k + (pos - k * ctxBsize s g)) len [] (fun _ => false) (.stream g pos dl)
      (setBuf g k 3 (ctxMod g (fun c => { c with reading := len }) s2)))

/-- The count of cycles in which a context lost the arbitration, at unit u (R322). -/
def bumpArb (u : Nat) (s : State) : State :=
  if u < 2048 then bump DRV_ARBWAIT_count (pcore s u) s else bump DRV_FARBWAIT_count ((u - 2048) % 2) s

/-- DRV_REQUEST_FORM: the cycle t of unit u: of the contexts that can form a request, the one with the earliest deadline does
(R321); the bounds of the others are counted (R322). A unit forms one request in a cycle (log 116). -/
def execDrvRequestForm (u t : Nat) (s : State) : Result :=
  let s := atCycle t s
  let gs := unitCtxs s u
  .next (if mapGet 0 s.formAt u = s.leaCyc + 1 then s
  else
    let s0 := { s with formAt := mapSet 0 s.formAt u (s.leaCyc + 1) }
    let s1 := (gs.filter (fun g => wantsRequest s g && 16 ≤ ctxOutst s g)).foldl (fun s g => cbump DRV_SAT_count g s) s0
    match gs.filter (canForm s) with
    | [] => s1
    | g :: rest => formRequest (rest.foldl (formFirst s) g) (if rest.isEmpty then s1 else bumpArb u s1))

/-! ### Answers (R304, R311, R312, R327) -/

/-- Byte k of the data of an answered read came with a bad line (R327, R359). -/
def badByte (x : Xact) (k : Nat) : Bool := x.bad.getD ((x.va % 64 + k) / 64) false

/-- Bytes lo to lo + n - 1 hold a bad one. -/
def anyBad (bad : Nat → Bool) (lo n : Nat) : Bool := (List.range n).any (fun k => bad (lo + k))

/-- A far context's write is formed: the bytes to the next 512-byte boundary of the destination; what is left, with the lines of it that
are poisoned, follows (R306, R307, R327). A context that has been stopped forms none (R334). -/
def farWrite (g off deadline : Nat) (data : List Nat) (bad : Nat → Bool) (s : State) : State :=
  if (ctxGet s g).stopped then s
  else
    let va := (ceff s DRV_DBASE_va g + off) % 2 ^ 48
    let len := Nat.min data.length (512 - va % 512)
    let pf := (List.range (linesOf va len).length).map (fun i => anyBad (fun k => bad k && (va % 64 + k) / 64 == i) 0 len)
    let rest := (List.range ((data.length - len + 63) / 64)).map (fun i => anyBad bad (len + 64 * i) (Nat.min 64 (data.length - len - 64 * i)))
    let x := { ctxXact s g true va len deadline data pf (.drvWrite g off) with bad := rest }
    let s1 := if len < 512 then cbump DRV_SMALL_count g s else s
    { s1 with fab := s1.fab ++ [x] }

/-- A request of a context was refused by a gate: no code of R326 names it; code 4 (DEDUCED, log 19). -/
def ctxRefused (g off : Nat) (x : Xact) (s : State) : State := streamFault g x.va 4 0 x.len true (haltCtx g 2 off s)

/-- Data-error or host-lost status: code 5, and the stream goes on (R327, R390). -/
def ctxDataError (g : Nat) (x : Xact) (s : State) : State := streamFault g x.va 5 0 x.len false s

/-- DRV_READ_RESPONSE: the context takes the answer of read i: a core context's bytes go to its buffer as class P, a far
context's to its destination (R304, R311, R327). -/
def execDrvReadResponse (i : Nat) (s : State) : Result :=
  .next (match fabGet s i with
  | none => s
  | some x => match x.ret with
    | .drvRead g off =>
      if x.stage ≠ 4 then s
      else if x.stale then ctxProgress g (fabDrop i s)
      else if x.status = 1 ∨ x.status = 2 then ctxRefused g off x (fabDrop i s)
      else
        let s1 := if x.status ≠ 0 then ctxDataError g x s else s
        if ctxFar g then ctxShow g (farWrite g off x.deadline x.data (badByte x) (fabDrop i s1))
        else
          let k := off / ctxBsize s g
          paccPush (g / 32) true (bufOff s g k + (off - k * ctxBsize s g)) x.len x.data (badByte x) (.stream g off x.deadline)
            (fabSet i { x with stage := 6 } s1)
    | _ => s)

/-- DRV_WRITE_ACK: the context takes the acknowledgement of write i (R311, R312). -/
def execDrvWriteAck (i : Nat) (s : State) : Result :=
  .next (match fabGet s i with
  | none => s
  | some x => match x.ret with
    | .drvWrite g off =>
      if x.stage ≠ 4 then s
      else if x.status = 1 ∨ x.status = 2 then ctxRefused g off x (fabDrop i s)
      else
        let s1 := if x.status ≠ 0 then ctxDataError g x s else s
        if x.len < x.data.length ∧ ctxFar g then
          ctxShow g (farWrite g (off + x.len) x.deadline (x.data.drop x.len) (fun k => x.bad.getD (k / 64) false) (fabDrop i s1))
        else ctxProgress g (fabDrop i s1)
    | _ => s)

/-- The class-P write of a read's bytes is done: the request is outstanding no longer (R309, R311). -/
def streamFilled (g off : Nat) (s : State) : State :=
  ctxProgress g { s with fab := s.fab.filter (fun x => !(x.stage == 6 && x.ret == .drvRead g off)) }

/-- The class-P read of an out stream's request is done: its write is formed, or an uncorrectable word halts the context
(R308, R323, R326). -/
def streamRead (g off deadline len : Nat) (data : List Nat) (err : Bool) (s : State) : State :=
  if (ctxGet s g).reading ≠ len ∨ (ctxGet s g).pos ≠ off + len then s
  else
    let s1 := ctxMod g (fun c => { c with reading := 0 }) s
    let va := wrapInt 48 (ctxAddr s1 g off)
    if err then streamFault g va 5 0 len true (haltCtx g 3 off s1)
    else ctxShow g { s1 with fab := s1.fab ++ [ctxXact s1 g true va len deadline data ((linesOf va len).map (fun _ => false)) (.drvWrite g off)] }

/-! ### STRM operations (R315, R316) -/

/-- The context of a STRM operation. -/
def strmCtx (p w : Nat) : Nat := 32 * p + natBits w 51 47

/-- The subcode of the first failing issue check of a STRM operation of task t (R316). -/
def strmCheck (s : State) (p t w : Nat) : Option Nat :=
  let g := strmCtx p w
  if (slotOp w = 0x10 ∨ slotOp w = 0x11) ∧ ctxState s g = ctxUnarmed then some 1
  else if crd s DRV_CTXCFG_task g ≠ t then some 2
  else none

/-- STRM_ACQ: starts once the consumer or producer buffer is ready; no effect. -/
def execStrmAcq (c : Nat) (s : State) : Result :=
  .next (xStart 0x10 c (fun s p e => ctxReady s (strmCtx p e.slot)) (fun _ _ s => s) s)

/-- STRM_REL: starts once the buffer is ready and the task's earlier operations have completed; releases the buffer. -/
def execStrmRel (c : Nat) (s : State) : Result :=
  .next (xStart 0x11 c (fun s p e => ctxReady s (strmCtx p e.slot) && taskDrained s p e.task e.bun)
    (fun p e s => ctxShow (strmCtx p e.slot) (releaseCtx (strmCtx p e.slot) s)) s)

/-- STRM_RESUME: resumes a Halted context (R324). -/
def execStrmResume (c : Nat) (s : State) : Result :=
  .next (xStart 0x12 c (fun _ _ _ => true) (fun p e s => resumeCtx (strmCtx p e.slot) s) s)

/-- STRM_REARM: requests a re-arm (R331). -/
def execStrmRearm (c : Nat) (s : State) : Result :=
  .next (xStart 0x13 c (fun _ _ _ => true) (fun p e s => rearmRequest (strmCtx p e.slot) s) s)

end Sys2Proof.Machine
end

