-- ==== Sys2Proof/Machine/Scratch.lean ====
section
/-! DEFINITION. The scratchpad's W phase (spec/08_scratchpad.md R236-R246, R258): banks and ports, the word a port serves, wait counts;
LEA_SPCFG, LEA_SPBSEL and the vector window LEA_VWDATA (spec/07_vector.md R227). -/

namespace Sys2Proof.Machine

/-! ### Banks and ports (R237, R238) -/

/-- The bank of word w of core p. -/
def bankOf (s : State) (p w : Nat) : Nat :=
  let l := w / 32
  if rdB s LEA_SPCFG_hash p then Nat.xor (w % 32) (Nat.xor (Nat.xor (l % 32) (l / 32 % 32)) (l / 1024 % 4)) else w % 32

/-- The region of word w: 0 WM, 1 AM, 2 PM; in unified mode a bank has one port, numbered 0. -/
def portRegion (s : State) (p w : Nat) : Nat :=
  if !splitMode s p then 0 else if w / 32 < 2560 then 0 else if w / 32 < 3584 then 1 else 2

/-- A word waits for a port: direction, bank, region. -/
def atPort (s : State) (p : Nat) (write : Bool) (bank region : Nat) (r : WReq) (w : WWord) : Bool :=
  r.wr == write && bankOf s p w.word == bank && portRegion s p w.word == region

/-- A weight load is background: rows of the block before it are still to be read (R243). -/
def background (s : State) (p : Nat) (r : WReq) : Bool :=
  r.load && r.cls == 0 && (match qFind s p .m r.ent with
    | some e => e.prog2 != 0 && e.prog < e.prog2 * mRows e.slot
    | none => false)

/-- The rank of a request at a port: 0 due words, 1 due loads, 2 background loads; within a rank the age, then the class
(R243). -/
def portRank (s : State) (p : Nat) (r : WReq) : Nat × Nat × Nat :=
  (if background s p r then 2 else if r.load && r.cls == 0 then 1 else 0, r.at_, r.cls)

/-- One rank stands before another. -/
def rankBefore (a b : Nat × Nat × Nat) : Bool :=
  a.1 < b.1 || (a.1 == b.1 && (a.2.1 < b.2.1 || (a.2.1 == b.2.1 && a.2.2 < b.2.2)))

/-- The words that wait for a port, each with its request, in the order of the requests. -/
def portWords (s : State) (p : Nat) (write : Bool) (bank region : Nat) : List (WReq × WWord) :=
  (coreGet s p).reqs.flatMap (fun r => (r.words.filter (atPort s p write bank region r)).map (fun w => (r, w)))

/-- The word a port serves (R243). -/
def portPick (s : State) (p : Nat) : List (WReq × WWord) → Option (WReq × WWord)
  | [] => none
  | x :: xs => some (xs.foldl (fun a b => if rankBefore (portRank s p b.1) (portRank s p a.1) then b else a) x)

/-! ### Wait counts (R246) -/

/-- The entry of LEA_SPCONF of a class and direction. -/
def confIndex (cls : Nat) (write : Bool) : Nat := if write then cls + 3 else cls

/-- At the beginning of cycle x, a request of class M held the stream in the cycle before: it has waited past its pace, it
is no background load, and an initial load holds it only where the operations before have streamed (R246). -/
def streamHeld (s : State) (p x : Nat) (r : WReq) : Bool :=
  !background s p r && (match qFind s p .m r.ent with
    | some e => decide (r.at_ + streamPace (mFmt e.slot) r.load < x) &&
        (!r.load || e.prog2 != 0 || ((mStarted s p).takeWhile (fun f => f.disp != e.disp)).all mStreamed)
    | none => false)

/-- A request of class X, P or V held its unit in the cycle before cycle x: a request that X presents as a cycle begins may be served
in that cycle, one of P or V, presented as the one before was served, in the next. -/
def unitHeld (x : Nat) (r : WReq) : Bool := if r.cls = 1 then r.at_ < x else r.at_ + 1 < x

/-- A core cycle begins: the cycle before counts one wait for every class and direction whose unit was held in it (R246). -/
def confCycle (p : Nat) (s : State) : State :=
  let c := coreGet s p
  (((c.reqs.filter (fun r => if r.cls = 0 then streamHeld s p c.cyc r else unitHeld c.cyc r)).map
    (fun r => confIndex r.cls r.wr)).eraseDups).foldl (fun s k => bump (LEA_SPCONF_count.ix k) p s) s

/-- The die whose Pasture entry a system brand's packets enter: H0 for the host, K0 for the others (R46). -/
def brandDie (brand die : Nat) : Nat := if 0x10 ≤ brand then die else if brand = 1 ∨ brand = 6 then 10 else 11

/-! ### LEA_SPBSEL and LEA_VWDATA -/

/-- A write of LEA_SPBSEL of physical core p clears LEA_SPBCNT; nothing more is counted in its cycle (R258). -/
def spbselPut (p : Nat) (data : Word) (s : State) : State :=
  coreMod p (fun c => { c with selCyc := c.cyc + 1 })
    (wr LEA_SPBCNT_count p 0 (wrW .lea p LEA_SPBSEL_dir.off (BitVec.ofNat 64 (data.toNat % 256)) s))

/-- The mapping of core p has changed: every offset reads an arbitrary value, with valid check bits (R239). -/
def spRehash (p : Nat) (s : State) : State :=
  let r := freshBlock s
  coreMod p (fun c => { c with wb := [] })
    { r.2 with sp := mapClear r.2.sp (131072 * p) (131072 * (p + 1)), spEpoch := mapSet 0 r.2.spEpoch p r.1,
               spMark := mapClear r.2.spMark (131072 * p) (131072 * (p + 1)) }

/-- A write of LEA_SPCFG has taken effect; `before` is its hash field before it (R239). -/
def spcfgTaken (p before : Nat) (s : State) : State := if rd s LEA_SPCFG_hash p = before then s else spRehash p s

/-- SPBSEL_WRITE: a write of LEA_SPBSEL of core c (R258). -/
def execSpbselWrite (c : Nat) (data : Word) (s : State) : Result := .next (spbselPut (pcore s c) data s)

/-- The object LEA_VWSEL selects exists. -/
def vwValid (s : State) (p : Nat) : Bool :=
  let k := rd s LEA_VWSEL_kind p
  let i := rd s LEA_VWSEL_index p
  k == 0 || (k == 1 && i < 16) || (k == 2 && i < 4)

/-- The first of the two elements that LEA_VWDATA[k] names, and the row. -/
def vwCol (s : State) (p k : Nat) : Nat := 16 * rd s LEA_VWSEL_half p + 2 * (k % 8)

/-- A read of LEA_VWDATA[k] (R227). -/
def vwRead (s : State) (p k : Nat) : Nat :=
  let i := rd s LEA_VWSEL_index p
  let r := rd s LEA_VWSEL_row p
  let c := vwCol s p k
  if !vwValid s p then 0
  else if rd s LEA_VWSEL_kind p = 0 then descGet s p i (k % 8)
  else if rd s LEA_VWSEL_kind p = 1 then tileGet s p i r c + 2 ^ 32 * tileGet s p i r (c + 1)
  else accGet s p i r c + 2 ^ 32 * accGet s p i r (c + 1)

/-- The selected object takes a word. -/
def vwPut (p k v : Nat) (s : State) : State :=
  let i := rd s LEA_VWSEL_index p
  let r := rd s LEA_VWSEL_row p
  let c := vwCol s p k
  let lo := v % 2 ^ 32
  let hi := v / 2 ^ 32 % 2 ^ 32
  if rd s LEA_VWSEL_kind p = 0 then descSet p i (k % 8) v s
  else if rd s LEA_VWSEL_kind p = 1 then tileSet p i r (c + 1) hi (tileSet p i r c lo s)
  else accPut p i r (c + 1) hi (accFp s p i) (accPut p i r c lo (accFp s p i) s)

end Sys2Proof.Machine
end

