-- ==== Sys2Proof/Machine/Tally.lean ====
section
/-! DEFINITION. Tally (spec/13_tally.md): counters, adds, waits and watches at the units, and the TLY operations of the X unit. A
unit is named by its die: 0-7 a Lea die's, 11 the package's. Packets stand in State.tlyQ, oldest first; op 5 is an answer to a
wait and op 6 a refusal on its way back. -/

namespace Sys2Proof.Machine

/-! ### Units, counters, gates (R422, R423, R106) -/

/-- The instance of a unit, and a field of it. -/
def tlyInst (u : Nat) : Nat := if u < 8 then u else 0
def tlyCnt (s : State) (u i : Nat) : Nat := if u < 8 then rd s (TLY_CNT_value.ix i) u else rd s (KTLY_CNT_value.ix i) 0
def tlySet (u i v : Nat) (s : State) : State := if u < 8 then wr (TLY_CNT_value.ix i) u v s else wr (KTLY_CNT_value.ix i) 0 v s

/-- A field of watch entry k of unit u. -/
def watchF (f g : Fld) (u k : Nat) : Fld := if u < 8 then f.ix k else g.ix k
def watchRd (s : State) (f g : Fld) (u k : Nat) : Nat := rd s (watchF f g u k) (tlyInst u)
def watchWr (f g : Fld) (u k v : Nat) (s : State) : State := wr (watchF f g u k) (tlyInst u) v s

/-- Counts of a unit. -/
def bumpOps (u : Nat) (s : State) : State := if u < 8 then bump TLY_OPS_count u s else bump KTLY_OPS_count 0 s
def bumpFire (u : Nat) (s : State) : State := if u < 8 then bump TLY_FIRE_count u s else bump KTLY_FIRE_count 0 s
def bumpFull (u : Nat) (s : State) : State := if u < 8 then bump TLY_FULL_count u s else bump KTLY_FULL_count 0 s

/-- The brand that owns block b of a unit. -/
def tlyOwner (s : State) (u b : Nat) : Nat := if u < 8 then rd s (GAT_TLY_owner.ix b) u else rd s (GAT_KTLY_owner.ix b) 11

/-- The unit's gate admits a brand to the block of counter i; `g1`: paddocks whose gate closed after the packet left its entry
(R48, R106, R112, R385). -/
def tlyAdmits (s : State) (brand u i : Nat) (g1 : List Nat) : Bool :=
  let o := tlyOwner s u (i / 64)
  let closed := match brandPdk o with
    | some n => closedTo s g1 n
    | none => false
  if 0x10 ≤ brand then brand == o && !closed && !brandReserved brand
  else if brand = 0 ∨ (brand = 2 ∧ u < 8) then true
  else !closed && (brand == 1 || (u < 8 && (brand == 3 || brand == 5 || brand == 6)))

/-- A counter word names its unit, counter, and Longtrack route (R422). -/
def cwUnit (w : Nat) : Nat := if natBit w 15 then 11 else natBits w 14 12
def cwIndex (w : Nat) : Nat := natBits w 11 0
def cwLt (w : Nat) : Bool := natBit w 16
def cwRoute (w : Nat) : Nat := natBits w 31 17

/-- The counter word of a counter. -/
def cwOf (u i : Nat) : Nat := i + (if u < 8 then u * 2 ^ 12 else 2 ^ 15)

/-- c has reached v (R423). -/
def reached (c v : Nat) : Bool := 0 ≤ sext 64 (c + 2 ^ 64 - v % 2 ^ 64)

/-- A condition holds: 0 reach, 1 equal (R423). -/
def condHolds (cond c v : Nat) : Bool := if cond = 0 then reached c v else cond == 1 && c == v % 2 ^ 64

/-! ### Waits and watches (R424, R430, R433) -/

/-- The answer to a wait sets out. -/
def waitAnswer (w : TWait) (s : State) : State :=
  tlyPush { op := 5, unit := w.unit, idx := w.idx, val := tlyCnt s w.unit w.idx, cond := w.cond, extra := [], brand := 0, die := w.unit,
            ret := w.ret } s

/-- The standing waits of counter i of unit u that hold are answered. -/
def evalWaits (u i : Nat) (s : State) : State :=
  let hit (w : TWait) : Bool := w.unit == u && w.idx == i && condHolds w.cond (tlyCnt s u i) w.val
  (s.tlyWaits.filter hit).foldl (fun s w => waitAnswer w s) { s with tlyWaits := s.tlyWaits.filter (fun w => !hit w) }

/-- A Tally unit's sender key in the send tables, beside those of cores. -/
def unitKey (u : Nat) : Nat := 2 ^ 20 + u

/-- Watch k of unit u fires: once, with one message to its core (R433). -/
def watchFire (u k i : Nat) (s : State) : State :=
  let o := tlyOwner s u (i / 64)
  let n := (brandPdk o).getD 0
  let m : WMsg :=
    { kind := 0, src := 4096 + u, srcIdx := 0x7FF, stask := 0,
      dst := pdkCore s n (watchRd s TLY_WATCH_dst KTLY_WATCH_dst u k), conn := false, entry := 0, sentry := k,
      tag := watchRd s TLY_WATCH_cookie KTLY_WATCH_cookie u k, e := 0, q := watchRd s TLY_WATCH_q KTLY_WATCH_q u k, len := 16,
      payload := leBytes 8 (tlyCnt s u i) ++ leBytes 8 (cwOf u i), brand := o, sid := s.sidNext, lt := [], dl := noDeadline s }
  let s1 := bumpFire u (watchWr TLY_WATCH_pending KTLY_WATCH_pending u k 1 s)
  let mine := mapGet [] s1.sends (unitKey u) ++ [{ sid := m.sid, msg := m, st := 0, at_ := 0 }]
  { s1 with whsQ := s1.whsQ ++ [m], sidNext := s1.sidNext + 1, sends := mapSet [] s1.sends (unitKey u) mine }

/-- Watch k stands on counter i, unfired, and its condition holds. -/
def watchHolds (s : State) (u k i : Nat) : Bool :=
  watchRd s TLY_WATCH_valid KTLY_WATCH_valid u k == 1 && watchRd s TLY_WATCH_pending KTLY_WATCH_pending u k == 0 &&
    watchRd s TLY_WATCH_index KTLY_WATCH_index u k == i &&
    condHolds (watchRd s TLY_WATCH_cond KTLY_WATCH_cond u k) (tlyCnt s u i) (watchRd s TLY_WVAL_value KTLY_WVAL_value u k)

/-- The watch entries of the block of counter i. -/
def blockWatches (i : Nat) : List Nat := (List.range 16).map (fun k => 16 * (i / 64) + k)

/-- The watches of counter i that hold fire. -/
def evalWatches (u i : Nat) (s : State) : State :=
  ((blockWatches i).filter (fun k => watchHolds s u k i)).foldl (fun s k => watchFire u k i s) s

/-- The crook trigger of Tally mode (R646): an add makes counter i of unit u reach FTF_CROOKV; before it stood at `old`. -/
def crookTally (u i old : Nat) (s : State) : State :=
  match brandPdk (tlyOwner s u (i / 64)) with
  | none => s
  | some n =>
    let p := ftfI s n
    let v := rd s FTF_CROOKV_value p
    if pdkCreated s n ∧ rdB s FTF_CROOK_en p ∧ rd s FTF_CROOK_mode p = 1 ∧ rd s FTF_CROOKT_counter p = cwOf u i ∧
        !reached old v ∧ reached (tlyCnt s u i) v then
      crookFire n 0 true (u * 64 + i / 64 + 1) s
    else s

/-- An operation on the block of counter i waits: a crook stop holds the block (R646). -/
def blockHeld (s : State) (u i : Nat) : Bool :=
  match brandPdk (tlyOwner s u (i / 64)) with
  | none => false
  | some n => (pdkGet s n).crookBlock == u * 64 + i / 64 + 1

/-- The unit applies an add to a counter and evaluates what stands on it (R424). -/
def tallyAdd (u i delta : Nat) (s : State) : State :=
  let old := tlyCnt s u i
  let s1 := bumpOps u (tlySet u i ((old + delta) % 2 ^ 64) s)
  crookTally u i old (evalWatches u i (evalWaits u i s1))

/-- The unit applies a register write of a counter (R442). -/
def tallySet (u i v : Nat) (s : State) : State := evalWatches u i (evalWaits u i (bumpOps u (tlySet u i v s)))

/-! ### Who waits for an answer -/

/-- The X entry of a core's operation. -/
def tlyEntry (s : State) (r : List Nat) : Option (Nat × QEnt) :=
  match r with
  | [1, p, d] => (qFind s p .x d).map (fun e => (p, e))
  | _ => none

/-- A submission entry H0 executes takes its result (R669). -/
def hostDone (f k status res : Nat) (s : State) : State :=
  { s with hostEnts := s.hostEnts.map (fun h =>
      if h.f = f ∧ h.order = k ∧ h.st = 1 then { h with st := 2, status := status, res := res } else h) }

/-- An applied add is acknowledged (R428). -/
def addDone (r : List Nat) (cnt : Nat) (s : State) : State :=
  match r with
  | [1, p, d] => qMod p .x d (fun x => { x with answered := true }) s
  | [3, f, k] => hostDone f k 0 (cnt % 2 ^ 32) s
  | 4 :: rt_ :: _ => ltkApplied rt_ s
  | _ => s

/-- A refused operation: 0x0A with subcode 0x04 at a core, which completes a wait; code 7 of a stream; a status for the host;
REFUSE on a route (R312, R438, R704). -/
def tlyRefused (op : Nat) (r : List Nat) (s : State) : State :=
  match r with
  | [1, p, d] =>
    (match qFind s p .x d with
     | none => s
     | some e =>
       let s1 := xFault p e 4 s
       if op = 1 then qFree p .x d s1 else qMod p .x d (fun x => { x with answered := true }) s1)
  | [2, g] => streamFault g 0 7 0 0 false s
  | [3, f, k] => hostDone f k 2 0 s
  | 4 :: rt_ :: _ => ltkRefuse rt_ 1 s
  | _ => s

/-! ### Packets at a unit -/

/-- The shared block of Muster that a Tally unit is (R552). -/
def tlyBlock (u : Nat) : Nat := if u < 8 then 28 + u else 36

/-- A packet is on its way to a unit: an add, a wait, a register write. -/
def tlyToUnit (k : TPkt) : Bool := k.op ≤ 1 || k.op == 7

/-- The unit beyond the fabric that a packet comes from, or goes back to: a core's Tally engine, a core's or a die's Drover, H0's
queues, Longtrack. -/
def tlyPeer (k : TPkt) : Nat × Nat :=
  match k.ret with
  | 1 :: p :: _ => (1, p)
  | 2 :: g :: _ => (2, if ctxFar g then 2 ^ 20 + ctxDie g else g / 32)
  | 4 :: _ => (4, 0)
  | _ => (3, 0)

/-- A unit cannot apply what stands at a counter: a crook stop holds its block, or Muster tests the unit (R552, R646). -/
def tlyStuck (s : State) (u i : Nat) : Bool := blockHeld s u i || blockTested s (tlyBlock u)

/-- Packet x must arrive before packet k: of the same two units, in the same direction; one that waits at its unit for another counter
has arrived (R348, R424). -/
def tlyBefore (s : State) (x k : TPkt) : Bool :=
  tlyToUnit x == tlyToUnit k && x.unit == k.unit && tlyPeer x == tlyPeer k && !(tlyToUnit x && x.idx != k.idx && tlyStuck s x.unit x.idx)

/-- Packet i of the queue, where no other must come before it and its unit can take it. -/
def tlyPacket (s : State) (i : Nat) : Option TPkt :=
  match s.tlyQ[i]? with
  | none => none
  | some k =>
    if (s.tlyQ.take i).any (fun x => tlyBefore s x k) ∨ (tlyToUnit k ∧ tlyStuck s k.unit k.idx) then none else some k

/-- Packet i leaves the queue. -/
def tlyDrop (i : Nat) (s : State) : State := { s with tlyQ := listDrop s.tlyQ i }

/-- The gate refuses packet k; the refusal goes back (R438). -/
def tlyRefuse (k : TPkt) (s : State) : State :=
  let s1 := gateRefuse k.unit (if brandReserved k.brand then 1 else 3) 2 k.die k.brand (cwOf k.unit k.idx) s
  tlyPush { k with op := 6, cond := k.op } s1

/-- TALLY_ADD: packet i, an add, reaches its unit: applied and acknowledged, or refused by the gate (R424, R438). A register
write that found its block held (op 7) is applied here too. -/
def execTallyAdd (i : Nat) (s : State) : Result :=
  .next (match tlyPacket s i with
  | none => s
  | some k =>
    if k.op = 7 then tallySet k.unit k.idx k.val (tlyDrop i s)
    else if k.op ≠ 0 then s
    else if !tlyAdmits s k.brand k.unit k.idx k.g1 then tlyRefuse k (tlyDrop i s)
    else
      let s1 := tallyAdd k.unit k.idx k.val (tlyDrop i s)
      addDone k.ret ((tlyCnt s k.unit k.idx + k.val) % 2 ^ 64) s1)

/-- TALLY_WAIT_REQUEST: packet i, a wait, reaches its unit: answered where the condition holds, else it stands (R430). -/
def execTallyWaitRequest (i : Nat) (s : State) : Result :=
  .next (match tlyPacket s i with
  | none => s
  | some k =>
    if k.op ≠ 1 then s
    else if !tlyAdmits s k.brand k.unit k.idx k.g1 then tlyRefuse k (tlyDrop i s)
    else
      let s1 := bumpOps k.unit (tlyDrop i s)
      evalWaits k.unit k.idx { s1 with tlyWaits := s1.tlyWaits ++
        [{ unit := k.unit, idx := k.idx, cond := k.cond, val := k.val, ret := k.ret }] })

/-- The TLY.WAIT of core p with dispatch number d completes; the writes it acquires are ordered before what follows (R430, R431). -/
def waitDone (p d : Nat) (s : State) : State :=
  match qFind s p .x d with
  | none => s
  | some e => qFree p .x d (spWaited p e.task e.bun s)

/-- TALLY_WAIT_ANSWER: answer i reaches who waits: a TLY.WAIT completes, or a host wait (R430, R669). -/
def execTallyWaitAnswer (i : Nat) (s : State) : Result :=
  .next (match tlyPacket s i with
  | none => s
  | some k =>
    if k.op ≠ 5 then s
    else match k.ret with
      | [1, p, d] => waitDone p d (tlyDrop i s)
      | [3, f, e] => hostDone f e 0 (k.val % 2 ^ 32) (tlyDrop i s)
      | _ => tlyDrop i s)

/-- TALLY_REFUSAL: refusal i reaches who sent the operation (R438). -/
def execTallyRefusal (i : Nat) (s : State) : Result :=
  .next (match tlyPacket s i with
  | none => s
  | some k => if k.op = 6 then tlyRefused k.cond k.ret (tlyDrop i s) else s)

/-! ### Register writes (R442, R443) -/

/-- The counters and watch entries of a unit; a number beyond names none. -/
def tlyCounters (u : Nat) : Nat := if u < 8 then 4096 else if u = 11 then 1024 else 0

/-- A register write waits at its unit. -/
def tlyHold (op u i v : Nat) (s : State) : State :=
  tlyPush { op := op, unit := u, idx := i, val := v, cond := 0, extra := [], brand := 0, die := 10, ret := [0] } s

/-- A register write of counter i of unit u must wait: the unit is stuck, or an earlier operation of H0 on the counter stands before it
(R424). -/
def tlyWriteWaits (s : State) (u i : Nat) : Bool :=
  tlyStuck s u i || s.tlyQ.any (fun k => tlyToUnit k && k.unit == u && k.idx == i && tlyPeer k == (3, 0))

/-- TLY_CNT_WRITE: an admitted write of TLY_CNT[i] of unit u (R442). -/
def execTlyCntWrite (u i : Nat) (data : Word) (s : State) : Result :=
  .next (if tlyCounters u ≤ i then s else if tlyWriteWaits s u i then tlyHold 7 u i data.toNat s else tallySet u i data.toNat s)

/-- TLY_ADD_WRITE: an admitted write of TLY_ADD[i] of unit u (R424). -/
def execTlyAddWrite (u i : Nat) (data : Word) (s : State) : Result :=
  .next (if tlyCounters u ≤ i then s else if tlyWriteWaits s u i then tlyHold 0 u i data.toNat s else tallyAdd u i data.toNat s)

/-- Free a watch entry. -/
def watchFree (u k : Nat) (s : State) : State :=
  if u < 8 then wrW .tlyL u (TLY_WVAL_value.ix k).off 0 (wrW .tlyL u (TLY_WATCH_valid.ix k).off 0 s)
  else wrW .tlyK 0 (KTLY_WVAL_value.ix k).off 0 (wrW .tlyK 0 (KTLY_WATCH_valid.ix k).off 0 s)

/-- TLY_WATCH_CANCEL: a write of 1 to TLY_WATCH[k].valid frees a watch that has not fired (R443). -/
def execTlyWatchCancel (u k : Nat) (s : State) : Result :=
  .next (if 4 * k < tlyCounters u ∧ watchRd s TLY_WATCH_pending KTLY_WATCH_pending u k = 0 then watchFree u k s else s)

/-! ### The TLY operations (R425-R434) -/

/-- The register operands of a Tally operation: rc, rv, ra, as its opcode uses them. -/
def tlyRc (e : QEnt) : Nat := e.vals.headD 0
def tlyRv (e : QEnt) : Nat := if e.op ≤ 0x32 then e.vals.getD 1 0 else 0
def tlyRa (e : QEnt) : Nat := if e.op = 0x32 then e.vals.getD 2 0 else e.vals.getD 1 0

/-- The first failing issue check of a Tally operation w of task t with register operands (R426). -/
def tlyCheck (s : State) (p t w : Nat) (vals : List Nat) : Option Nat :=
  let op := slotOp w
  let cw := vals.headD 0
  let ra := if op = 0x32 then vals.getD 2 0 else vals.getD 1 0
  let uses := op == 0x32 || op == 0x33 || op == 0x34
  if cw / 2 ^ 32 ≠ 0 ∨ (natBit cw 15 ∧ (natBits cw 14 12 ≠ 0 ∨ 1023 < cwIndex cw)) ∨ (!cwLt cw ∧ cwRoute cw ≠ 0) then some 1
  else if (op = 0x31 ∨ op = 0x32) ∧ 2 ≤ natBits w 36 35 then some 2
  else if cwLt cw ∧ op ≠ 0x30 then some 3
  else if uses ∧ (ra % 8 ≠ 0 ∨ taskBound s p t < ra + 8) then some 4
  else if (match pcorePdk s p with
      | some n => op == 0x32 && decide (pdkCount s n ≤ natBits w 31 21)
      | none => true) then some 5
  else if cwLt cw ∧ 2048 ≤ cwRoute cw then some 6
  else none

/-- The brand of core p: its paddock's; the PF's where it is in none (log 19). -/
def coreBrand (s : State) (p : Nat) : Nat :=
  match pcorePdk s p with
  | some n => pdkBrand n
  | none => 1

/-- Write the 8-byte result word of a Tally or Byre operation, as class X; the operation is answered when it is written (R242, R427). -/
def xResult (p : Nat) (e : QEnt) (ra v : Nat) (s : State) : State :=
  xAccess p e.disp true (taskBase s p e.task + ra) 8 (leBytes 8 v) s

/-- The result word an operation was to write when its gate refused it: arbitrary bytes (R151). -/
def xSpoil (p : Nat) (e : QEnt) (ra : Nat) (s : State) : State := spScramble p (taskBase s p e.task + ra) 8 s

/-- The release condition of a TLY.SIG: the task's earlier operations have completed and its messages are acknowledged
(R428). -/
def released (s : State) (p : Nat) (e : QEnt) : Bool :=
  taskDrained s p e.task e.bun && !(mapGet [] s.sends p).any (fun w => w.msg.kind == 0 && w.msg.stask == e.task)

/-- A route that paddock n may send on: 0 yes, 4 refused, 5 dead (R438, R439; log 24). -/
def routeFor (s : State) (n r : Nat) : Nat :=
  if rt LTK_ROUTE0_valid s r = 0 ∨ rt LTK_ROUTE0_paddock s r ≠ n then 4 else if rt LTK_ROUTE0_dead s r = 1 then 5 else 0

/-- A TLY.SIG over Longtrack (R439); in integrity mode it is held and completes when logged (R508). -/
def sigRemote (p : Nat) (e : QEnt) (s : State) : State :=
  let r := cwRoute (tlyRc e)
  let body := [tlyRc e % 2 ^ 16, tlyRv e]
  let fail (sub : Nat) : State := xFault p e sub (qMod p .x e.disp (fun x => { x with answered := true }) s)
  match pcorePdk s p with
  | none => fail 4
  | some n =>
    if integrityOf s n then
      (if holdFits s n 64 then
        qMod p .x e.disp (fun x => { x with answered := true }) (holdOut n 3 ([r, 3] ++ body) [] 64 s)
       else holdStuck n s)
    else if routeFor s n r ≠ 0 then fail (routeFor s n r)
    else ltkSend r 3 body [] [1, p, e.disp] s

/-- A TLY.SIG of core p that found no room in the hold region tries again (R509, R532). -/
def sigRetry (p : Nat) (s : State) : State :=
  match (coreGet s p).qx.find? (fun e => e.op == 0x30 && e.started && !e.answered && cwLt (tlyRc e)) with
  | none => s
  | some e => sigRemote p e s

/-- A Tally packet of core p. -/
def tlySend (op p : Nat) (e : QEnt) (s : State) : State :=
  tlyPush { op := op, unit := cwUnit (tlyRc e), idx := cwIndex (tlyRc e), val := tlyRv e, cond := natBits e.slot 36 35, extra := [],
            brand := coreBrand s p, die := p / 0x200, ret := [1, p, e.disp] } s

/-- TLY_SIG: starts once the release condition holds; the add sets out (R428). -/
def execTlySig (c : Nat) (s : State) : Result :=
  .next (xStart 0x30 c (fun s p e => released s p e)
    (fun p e s => if cwLt (tlyRc e) then sigRemote p e s else tlySend 0 p e s) s)

/-- TLY_WAIT: the wait request sets out; the operation stays at the head of the queue (R430, R141). -/
def execTlyWait (c : Nat) (s : State) : Result :=
  .next (xStart 0x31 c (fun _ _ _ => true) (fun p e s => tlySend 1 p e s) s)

/-- The gate of a unit refuses an operation of core p: 0x0A with subcode 4, and its result word is arbitrary (R151, R438). -/
def unitRefuses (p : Nat) (e : QEnt) (s : State) : State :=
  let u := cwUnit (tlyRc e)
  xFault p e 4 (xSpoil p e (tlyRa e) <| qMod p .x e.disp (fun x => { x with answered := true })
    (gateRefuse u 3 2 (p / 0x200) (coreBrand s p) (cwOf u (cwIndex (tlyRc e))) s))

/-- Run an operation at its counter's unit where the gate admits it: the state and the result word (log 14). -/
def atUnit (p : Nat) (e : QEnt) (run : Nat → Nat → State → State × Nat) (s : State) : State :=
  let u := cwUnit (tlyRc e)
  let i := cwIndex (tlyRc e)
  if !tlyAdmits s (coreBrand s p) u i [] then unitRefuses p e s
  else
    let r := run u i (bumpOps u s)
    xResult p e (tlyRa e) r.2 r.1

/-- The unit an operation names can take it (R552, R646). -/
def unitFree (s : State) (_p : Nat) (e : QEnt) : Bool := !tlyStuck s (cwUnit (tlyRc e)) (cwIndex (tlyRc e))

/-- Register a watch of operation e on counter i (R432). -/
def watchAdd (e : QEnt) (u i : Nat) (s : State) : State × Nat :=
  match (blockWatches i).find? (fun k => watchRd s TLY_WATCH_valid KTLY_WATCH_valid u k == 0) with
  | none => (bumpFull u s, 2)
  | some k =>
    let set (f g : Fld) (v : Nat) (s : State) : State := watchWr f g u k v s
    let s1 := set TLY_WATCH_valid KTLY_WATCH_valid 1 (set TLY_WATCH_pending KTLY_WATCH_pending 0
      (set TLY_WATCH_cond KTLY_WATCH_cond (natBits e.slot 36 35) (set TLY_WATCH_q KTLY_WATCH_q (natBits e.slot 34 32)
        (set TLY_WATCH_dst KTLY_WATCH_dst (natBits e.slot 31 21) (set TLY_WATCH_cookie KTLY_WATCH_cookie (natBits e.slot 20 5)
          (set TLY_WATCH_index KTLY_WATCH_index i (set TLY_WVAL_value KTLY_WVAL_value (tlyRv e) s)))))))
    let fired := watchHolds s1 u k i
    (if fired then watchFire u k i s1 else s1, 1 + b2n fired * 4 + k * 2 ^ 16)

/-- Cancel the lowest unfired watch on counter i with the operation's cookie (R434). -/
def watchUndo (e : QEnt) (u i : Nat) (s : State) : State × Nat :=
  match (blockWatches i).find? (fun k => watchRd s TLY_WATCH_valid KTLY_WATCH_valid u k == 1 &&
      watchRd s TLY_WATCH_pending KTLY_WATCH_pending u k == 0 && watchRd s TLY_WATCH_index KTLY_WATCH_index u k == i &&
      watchRd s TLY_WATCH_cookie KTLY_WATCH_cookie u k == natBits e.slot 20 5) with
  | none => (s, 2)
  | some k => (watchFree u k s, 1)

/-- TLY_WATCH: registers a watch and writes the result word (R432). -/
def execTlyWatch (c : Nat) (s : State) : Result :=
  .next (xStart 0x32 c unitFree (fun p e s => atUnit p e (watchAdd e) s) s)

/-- TLY_READ: writes the counter's value (R425). -/
def execTlyRead (c : Nat) (s : State) : Result :=
  .next (xStart 0x33 c unitFree (fun p e s => atUnit p e (fun u i s => (s, tlyCnt s u i)) s) s)

/-- TLY_UNWATCH: cancels a watch and writes the result word (R434). -/
def execTlyUnwatch (c : Nat) (s : State) : Result :=
  .next (xStart 0x34 c unitFree (fun p e s => atUnit p e (watchUndo e) s) s)

end Sys2Proof.Machine
end

