-- ==== Sys2Proof/Machine/Whistle.lean ====
section
/-! DEFINITION. Whistle (spec/12_whistle.md): sending, connections, landing, spill and drain, acknowledgements, and the WHS
operations of the X unit. Packets stand in State.whsQ, oldest first; cores in them are logical. -/

namespace Sys2Proof.Machine

/-! ### Entries and queues of a core -/

/-- A field of connection entry k of core p. -/
def cn (f : Fld) (s : State) (p k : Nat) : Nat := rd s (f.ix (k % 64)) p
def cnSet (f : Fld) (p k v : Nat) (s : State) : State := wr (f.ix (k % 64)) p v s

/-- WHS_CONN.state codes. -/
def cnClosed : Nat := 0
def cnListening : Nat := 1
def cnOpening : Nat := 2
def cnSender : Nat := 3
def cnReceiver : Nat := 4
def cnFailed : Nat := 5

/-- Put an entry back to Closed. -/
def cnClear (p k : Nat) (s : State) : State :=
  { wrW .whs p (WHS_CONN_state.ix (k % 64)).off 0 s with
      landings := mapSet 0 s.landings (64 * p + k % 64) 0, connLt := mapSet 0 s.connLt (64 * p + k % 64) 0 }

/-- The send table of a key: a core, or a Tally unit. -/
def sendsOf (s : State) (p : Nat) : List WSend := mapGet [] s.sends p
def sendsPut (p : Nat) (l : List WSend) (s : State) : State := { s with sends := mapSet [] s.sends p l }

/-- Messages a core's send table holds (R398); a close marker takes no place. -/
def sendCount (s : State) (p : Nat) : Nat := ((sendsOf s p).filter (fun w => w.msg.kind == 0)).length

/-- The entries of receive queue q of core p, oldest first: the header and eight payload words. -/
def rqGet (s : State) (p q : Nat) : List (List Nat) := mapGet [] s.rqs (8 * p + q % 8)

/-- WHS_RQSTAT and WHS_RQHEAD follow the queue. -/
def rqPut (p q : Nat) (l : List (List Nat)) (s : State) : State :=
  let q := q % 8
  (List.range 9).foldl (fun s k => wr (WHS_RQHEAD_value.ix2 q k) p ((l.headD []).getD k 0) s)
    (wr (WHS_RQSTAT_occ.ix q) p l.length { s with rqs := mapSet [] s.rqs (8 * p + q) l })

/-- Spilled messages of a landing key: a queue, or 8 plus a window (R406). -/
def spillGet (s : State) (p key : Nat) : List WSpill := mapGet [] s.spills (16 * p + key % 16)
def spillPut (p key : Nat) (l : List WSpill) (s : State) : State :=
  let s1 := { s with spills := mapSet [] s.spills (16 * p + key % 16) l }
  if key < 8 then wr (WHS_RQSTAT_spilled.ix key) p (Nat.min l.length 0xFFFF) s1 else s1

/-! ### Fault records (R405, R412) -/

/-- A header (R393). -/
def whsHeader (m : WMsg) : Nat :=
  m.srcIdx % 2 ^ 11 + m.stask % 4 * 2 ^ 11 + b2n m.conn * 2 ^ 13 + (if m.conn then m.entry % 64 else 0) * 2 ^ 14 +
    m.tag % 2 ^ 16 * 2 ^ 20 + m.len % 2 ^ 7 * 2 ^ 36

/-- A Whistle fault record: reason 1 no binding, 2 outside the window, 3 open refused, 4 gate refusal, 5 route dead. -/
def whsRecord (n : Option Nat) (die core reason : Nat) (m : WMsg) (s : State) : State :=
  faultRecord (fnOfPdk n) 0x30 die [whsHeader m, core % 2 ^ 11 + reason * 2 ^ 16] s

/-! ### Landing (R403-R408) -/

/-- A landing: mode (address), queue, window, notify, offset. -/
structure Landing where
  addr : Bool
  q : Nat
  win : Nat
  notify : Bool
  e : Nat
deriving DecidableEq, Repr

/-- The lowest tag binding that matches (R403). -/
def tagBind (s : State) (p tag : Nat) : Option Nat :=
  (List.range 16).find? (fun j => rdB s (WHS_TBIND_valid.ix j) p &&
    Nat.land tag (rd s (WHS_TBIND_mask.ix j) p) == Nat.land (rd s (WHS_TBIND_match.ix j) p) (rd s (WHS_TBIND_mask.ix j) p))

/-- A message comes from a Tally unit (R394); source 4,106 is H0, for a message over Longtrack. -/
def fromTally (m : WMsg) : Bool := 4096 ≤ m.src && m.src != 4106

/-- The landing of a message at core p (R403); none where nothing matches. -/
def landingOf (s : State) (p : Nat) (m : WMsg) : Option Landing :=
  if fromTally m then some ⟨false, m.q % 8, 0, false, 0⟩
  else if m.conn then
    let w := mapGet 0 s.landings (64 * p + m.entry % 64) - 1
    some ⟨natBit w 0, natBits w 3 1, natBits w 5 4, natBit w 6, m.e⟩
  else (tagBind s p m.tag).map (fun j =>
    ⟨rdB s (WHS_TBIND_mode.ix j) p, rd s (WHS_TBIND_queue.ix j) p, rd s (WHS_TBIND_window.ix j) p,
     rdB s (WHS_TBIND_notify.ix j) p, m.e⟩)

/-- The landing key (R406). -/
def Landing.key (l : Landing) : Nat := if l.addr then 8 + l.win else l.q

/-- An address landing's payload lies in its window (R404). -/
def Landing.inside (s : State) (p len : Nat) (l : Landing) : Bool := !l.addr || l.e + len ≤ rd s (WHS_WIN_size.ix l.win) p * 256

/-- The queue entry of a message. -/
def rqEntry (m : WMsg) (payload : Bool) : List Nat :=
  whsHeader m :: (List.range 8).map (fun k => if payload then leNat ((m.payload.drop (8 * k)).take 8) else 0)

/-- Queue q of core p has room for one more entry, notices of payloads still being written counted (R404, R406). -/
def rqRoom (s : State) (p q : Nat) : Bool :=
  (rqGet s p q).length + (s.whsLands.filter (fun w => w.p == p && w.notify && w.q == q)).length < 32

/-- The landing can take a message now, messages spilled aside: no Muster window, and room in every queue it uses (R406). -/
def landingFree (s : State) (p c : Nat) (l : Landing) : Bool :=
  !musterWindow s c && ((l.addr && !l.notify) || rqRoom s p l.q)

/-- A packet sets out. -/
def whsPush (m : WMsg) (s : State) : State := { s with whsQ := s.whsQ ++ [{ m with dl := noDeadline s }] }

/-- Answer a packet: 5 delivered, 6 busy, 7 gate refusal. -/
def whsReply (m : WMsg) (kind : Nat) (s : State) : State := whsPush { m with kind := kind, q := m.kind } s

/-- A message is delivered: its sender learns of it, on the fabric or over its Longtrack route (R398, R705). -/
def whsDelivered (m : WMsg) (s : State) : State :=
  match m.lt with
  | [] => whsReply m 5 s
  | r :: _ => ltkApplied r s

/-- Land message m of core c at physical core p (R404): its payload is written as class P, or its queue takes it at once. `buf` is the Byre
buffer it comes from, if it was spilled; `ack` says that the sender waits for the answer, which comes when the landing is complete. -/
def whsLand (p c : Nat) (m : WMsg) (l : Landing) (buf : List Nat) (ack : Bool) (s : State) : State :=
  let done (s : State) : State :=
    let s1 := bufferBack buf (bump WHS_LANDED_count p s)
    if ack then whsDelivered m s1 else s1
  if l.addr ∧ m.len ≠ 0 then
    paccPush p true (rd s (WHS_WIN_base.ix l.win) p * 256 + l.e) m.len (m.payload.take m.len) (fun _ => false) (.whistle s.sidNext)
      { s with sidNext := s.sidNext + 1, whsLands := s.whsLands ++
                 [{ id := s.sidNext, p := p, core := c, msg := m, notify := l.notify, q := l.q, buf := buf, ack := ack }] }
  else if l.addr ∧ !l.notify then done s
  else done (rqPut p l.q (rqGet s p l.q ++ [rqEntry m (!l.addr)]) s)

/-- A message spills into a buffer (R406), or is refused as busy (R408): true where it was taken. -/
def whsSpill (p c n : Nat) (m : WMsg) (l : Landing) (s : State) : Bool × State :=
  let d := rd s WHS_CFG_spill_die p
  let j := rd s WHS_CFG_spill_pool p
  let r := byreGetBy (p / 0x200) d j (pdkBrand n) (reqCore c) s
  if r.1.status = 0 then
    (true, bump WHS_SPILLCNT_count p (spillPut p l.key (spillGet r.2 p l.key ++
      [{ msg := { m with e := l.e }, win := l.win, notify := l.notify, q := l.q, die := d, pool := j, buf := r.1.buf }]) r.2))
  else (false, bump WHS_BUSY_count p (wr WHS_EVT_busy p 1 r.2))

/-- A message that cannot be landed is counted, recorded and acknowledged as delivered (R405). -/
def whsNoMatch (p c n reason : Nat) (m : WMsg) (s : State) : State :=
  whsRecord (some n) (p / 0x200) c reason m
    (bump WHS_NOMATCH_count p (wr (if reason = 1 then WHS_EVT_nomatch else WHS_EVT_outside) p 1 s))

/-- Place a message of paddock n at core c (R403-R408): 0 delivered and answered, or to be so when its payload is written; 1 busy. -/
def whsPlace (p c n : Nat) (m : WMsg) (s : State) : Nat × State :=
  match landingOf s p m with
  | none => (0, whsDelivered m (whsNoMatch p c n 1 m s))
  | some l =>
    if !l.inside s p m.len then (0, whsDelivered m (whsNoMatch p c n 2 m s))
    else if (spillGet s p l.key).isEmpty && landingFree s p c l then (0, whsLand p c m l [] true s)
    else
      let r := whsSpill p c n m l s
      if r.1 then (0, whsDelivered m r.2) else (1, r.2)

/-- The gate of core c admits a message of a brand; `g1`: paddocks whose gate closed after it left its entry (R385, R412). -/
def whsAdmits (s : State) (brand c : Nat) (g1 : List Nat) : Bool :=
  match corePdk s c with
  | some n => brand == pdkBrand n && !closedTo s g1 n
  | none => false

/-- The gate of core m.dst refuses a packet: a reserved brand at step 1 of R356, any other at step 3. -/
def whsGateRefuses (m : WMsg) (s : State) : State :=
  gateRefuse (coreDie m.dst) (if brandReserved m.brand then 1 else 3) 3 (if 4096 ≤ m.src then m.src - 4096 else coreDie m.src) m.brand
    m.dst s

/-- The number is one of the 32,768 below the expected one (R409). -/
def seqBelow (seq expect : Nat) : Bool := 32768 ≤ (seq + 65536 - expect % 65536) % 65536

/-- A message reaches core m.dst: 0 delivered or being landed, which answers it; 1 busy, 2 refused by the gate, which are still to be
answered (R403-R409, R412). -/
def whsArrive (m : WMsg) (s : State) : Nat × State :=
  let c := m.dst
  let p := pcore s c
  match corePdk s c with
  | none => (2, whsGateRefuses m s)
  | some n =>
    if !whsAdmits s m.brand c m.g1 then (2, whsGateRefuses m s)
    else if m.conn then
      let expect := cn WHS_CONN_seq s p m.entry
      if cn WHS_CONN_state s p m.entry ≠ cnReceiver then (0, whsDelivered m (whsNoMatch p c n 1 m s))
      else if m.tag % 65536 ≠ expect then
        (if seqBelow m.tag expect then (0, whsDelivered m (bump WHS_DUP_count p s))
         else (1, bump WHS_BUSY_count p (wr WHS_EVT_busy p 1 s)))
      else
        let r := whsPlace p c n m s
        if r.1 = 0 then (0, cnSet WHS_CONN_seq p m.entry (expect + 1) r.2) else r
    else whsPlace p c n m s

/-! ### Packets on their way -/

/-- Where a packet comes from and where it goes: an open reply and an answer go back to the sender of what they answer. -/
def whsEnds (m : WMsg) : Nat × Nat := if m.kind = 0 ∨ m.kind = 1 ∨ m.kind = 4 then (m.src, m.dst) else (m.dst, m.src)

/-- Packet i of the queue, where no earlier packet has its source and destination (R348). -/
def whsPacket (s : State) (i : Nat) : Option WMsg :=
  match s.whsQ[i]? with
  | none => none
  | some m => if (s.whsQ.take i).any (fun x => whsEnds x == whsEnds m) then none else some m

/-- Packet i leaves the queue. -/
def whsDrop (i : Nat) (s : State) : State := { s with whsQ := listDrop s.whsQ i }

/-- The answer of an arrival code: none for a message that is answered when it is delivered. -/
def arriveReply (m : WMsg) (code : Nat) (s : State) : State := if code = 0 then s else whsReply m (5 + code) s

/-- WHISTLE_MESSAGE: message i reaches its receiver (R403). -/
def execWhistleMessage (i : Nat) (s : State) : Result :=
  .next (match whsPacket s i with
  | none => s
  | some m =>
    if m.kind ≠ 0 then s
    else
      let r := whsArrive m (whsDrop i s)
      arriveReply m r.1 r.2)

/-! ### Answers at the sender (R398, R402, R408, R412) -/

/-- The send-table key of a packet's sender. -/
def senderKey (s : State) (m : WMsg) : Nat := if 4096 ≤ m.src then unitKey (m.src - 4096) else pcore s m.src

/-- Message sid is acknowledged: its slot frees; a watch entry frees; an acknowledged close marker closes the entry (R398,
R402, R433). -/
def whsAcked (key sid : Nat) (s : State) : State :=
  match (sendsOf s key).find? (fun w => w.sid == sid) with
  | none => s
  | some w =>
    let s1 := sendsPut key ((sendsOf s key).filter (fun x => x.sid != sid)) s
    if 2 ^ 20 ≤ key then watchFree (key - 2 ^ 20) w.msg.sentry s1
    else if w.msg.kind = 4 then cnClear key w.msg.sentry s1
    else s1

/-- WHISTLE_ACK: acknowledgement i reaches the sender (R398). -/
def execWhistleAck (i : Nat) (s : State) : Result :=
  .next (match whsPacket s i with
  | none => s
  | some m => if m.kind = 5 then whsAcked (senderKey s m) m.sid (whsDrop i s) else s)

/-- A refused message waits 2 us; on a connection every later one goes back with it (R408). -/
def whsBusy (key : Nat) (m : WMsg) (t : Nat) (s : State) : State :=
  let back (w : WSend) : Bool := w.sid == m.sid || (m.conn && w.msg.conn && w.msg.sentry == m.sentry && m.sid < w.sid && w.st == 0)
  sendsPut key ((sendsOf s key).map (fun w => if back w && w.st == 0 then { w with st := 1, at_ := t + 200 } else w)) s

/-- BUSY_REFUSAL: refusal i reaches the sender at time t (R408). -/
def execBusyRefusal (i t : Nat) (s : State) : Result :=
  .next (match whsPacket s i with
  | none => s
  | some m => if m.kind = 6 then whsBusy (senderKey s m) m t (whsDrop i (atTime t s)) else s)

/-- WHISTLE_RESEND: 2 us have passed: message sid of core c (from 2,048 on: of Tally unit c - 2,048) is resent, after every
earlier one of its connection (R408). -/
def execWhistleResend (c sid t : Nat) (s : State) : Result :=
  let key := if c < 2048 then pcore s c else unitKey (c - 2048)
  let s := atTime t s
  .next (match (sendsOf s key).find? (fun w => w.sid == sid) with
  | none => s
  | some w =>
    if w.st ≠ 1 ∨ t < w.at_ ∨ (brandPdk w.msg.brand).any (pdkClosed s) ∨ (w.msg.conn ∧ (sendsOf s key).any (fun x => x.msg.conn && x.msg.sentry == w.msg.sentry && x.st == 1 && x.sid < sid)) then s
    else
      let s1 := sendsPut key ((sendsOf s key).map (fun x => if x.sid = sid then { x with st := 0 } else x)) s
      whsPush w.msg (if key < 2 ^ 20 then bump WHS_RETRY_count key s1 else s1))

/-! ### Connections (R400-R402) -/

/-- The sender of a message refused by the gate records it and drops the message (R412). -/
def whsRefused (key : Nat) (m : WMsg) (s : State) : State :=
  let n := brandPdk m.brand
  let s1 := if key < 2 ^ 20 then wr WHS_EVT_gate key 1 s else s
  let s2 := whsRecord n (if 4096 ≤ m.src then m.src - 4096 else coreDie m.src) m.dst 4 m s1
  let s3 := sendsPut key ((sendsOf s2 key).filter (fun x => x.sid != m.sid)) s2
  if 2 ^ 20 ≤ key then watchFree (key - 2 ^ 20) m.sentry s3 else s3

/-- Bind entry r of core p to the opener of m (R400). -/
def cnBind (p r : Nat) (m : WMsg) (s : State) : State :=
  cnSet WHS_CONN_state p r cnReceiver (cnSet WHS_CONN_peer p r m.srcIdx (cnSet WHS_CONN_peer_entry p r m.sentry
    (cnSet WHS_CONN_seq p r 0 { s with connLt := mapSet 0 s.connLt (64 * p + r % 64) ((m.lt.headD 0) + b2n (!m.lt.isEmpty)) })))

/-- A reply to an open request: 2 bound, 3 refused. A route carries the reply of a request that came over it (R700, op 2). -/
def openReply (m : WMsg) (kind : Nat) (s : State) : State :=
  match m.lt with
  | [] => whsPush { m with kind := kind } s
  | r :: _ =>
    let n := (brandPdk m.brand).getD 0
    ltkSend r 2 [kind + m.sentry % 64 * 2 ^ 8 + m.entry % 64 * 2 ^ 14 + m.srcIdx % 2 ^ 11 * 2 ^ 20 + relIndex s n m.dst % 2 ^ 11 * 2 ^ 31] [] [0] s

/-- An open request is refused (R401). -/
def openRefuse (p : Nat) (m : WMsg) (s : State) : State :=
  openReply m 3 (whsRecord (corePdk s m.dst) (p / 0x200) m.dst 3 m (wr WHS_EVT_open_refused p 1 s))

/-- What is held at an entry, at most one: an open request in its pending-open slot, or at a bound entry the close marker kept behind
messages that have not landed (R400, R419). -/
def opensOf (s : State) (p r : Nat) : List WMsg := mapGet [] s.opens (64 * p + r % 64)
def opensPut (p r : Nat) (l : List WMsg) (s : State) : State := { s with opens := mapSet [] s.opens (64 * p + r % 64) l }

/-- Open request m stands before open request x of the same cycle: the lower sender core_id, then the lower entry (R418). -/
def openFirst (m x : WMsg) : Bool := m.src < x.src || (m.src == x.src && m.sentry < x.sentry)

/-- The reply, not yet delivered, to the open request that bound entry m.entry in this cycle of its core, where m stands before that
request: its place in the queue and the request (R418). -/
def openRival (s : State) (m : WMsg) : Option (Nat × WMsg) :=
  let p := pcore s m.dst
  if mapGet 0 s.openAt (64 * p + m.entry % 64) ≠ (coreGet s p).cyc + 1 ∨ cn WHS_CONN_state s p m.entry ≠ cnReceiver then none
  else (s.whsQ.zipIdx.find? (fun x => x.1.kind == 2 && x.1.dst == m.dst && x.1.entry % 64 == m.entry % 64 && openFirst m x.1)).map
    (fun x => (x.2, x.1))

/-- Open request m binds its entry (R400). -/
def openBind (m : WMsg) (s : State) : State :=
  let p := pcore s m.dst
  openReply m 2 (cnBind p m.entry m { s with openAt := mapSet 0 s.openAt (64 * p + m.entry % 64) ((coreGet s p).cyc + 1) })

/-- An open request at its entry: it binds, takes the place of one of the same cycle, waits in the slot, or is refused (R400, R401,
R418). -/
def openArrive (m : WMsg) (s : State) : State :=
  let p := pcore s m.dst
  let st := cn WHS_CONN_state s p m.entry
  match openRival s m with
  | some x => openBind m (openRefuse p { x.2 with kind := 1 } (whsDrop x.1 s))
  | none =>
  if st = cnListening then openBind m s
  else if st = cnReceiver ∨ st = cnSender ∨ !(opensOf s p m.entry).isEmpty then openRefuse p m s
  else opensPut p m.entry [m] s

/-- OPEN_REQUEST: open request i reaches the receiver (R400). -/
def execOpenRequest (i : Nat) (s : State) : Result :=
  .next (match whsPacket s i with
  | none => s
  | some m =>
    if m.kind ≠ 1 then s
    else if !whsAdmits s m.brand m.dst m.g1 then whsReply m 7 (whsGateRefuses m (whsDrop i s))
    else openArrive m (whsDrop i s))

/-- A packet of task k of core p. -/
def whsFrom (s : State) (p k kind : Nat) : WMsg :=
  let n := (pcorePdk s p).getD 0
  let c := (lcore s p).getD 0
  { kind := kind, src := c, srcIdx := relIndex s n c, stask := k, dst := c, conn := false, entry := 0, sentry := 0, tag := 0, e := 0, q := 0,
    len := 0, payload := [], brand := coreBrand s p, sid := s.sidNext, lt := [] }

/-- The body of a Whistle message on a route (R700, op 1); of a control (op 2). -/
def ltBody (m : WMsg) (dst : Nat) : List Nat :=
  [dst % 2 ^ 11 + m.srcIdx % 2 ^ 11 * 2 ^ 11 + m.stask * 2 ^ 22 + b2n m.conn * 2 ^ 24 + m.entry % 64 * 2 ^ 25 + m.len * 2 ^ 31 +
     m.tag % 2 ^ 16 * 2 ^ 38, m.e]

/-- The words of a connection's open request, reply or close marker to core dst on a route (R400, R402, R705). -/
def ltControlBody (m : WMsg) (dst : Nat) : List Nat :=
  [m.kind + m.sentry % 64 * 2 ^ 8 + m.entry % 64 * 2 ^ 14 + m.srcIdx % 2 ^ 11 * 2 ^ 20 + dst % 2 ^ 11 * 2 ^ 31]

/-- The receiving core a packet on a route names: a connection's peer (log 24). -/
def ltDst (s : State) (p : Nat) (m : WMsg) : Nat := if m.conn then cn WHS_CONN_peer s p m.sentry else 0

/-- The op and the body of a packet on a route. -/
def ltWords (s : State) (p : Nat) (m : WMsg) : List Nat :=
  if m.kind = 0 then 1 :: ltBody m (ltDst s p m) else 2 :: ltControlBody m (ltDst s p m)

/-- A message in the send table of core p, of an integrity paddock, for a route: it is acknowledged once it is logged in the hold region,
and waits there for room (R508, R509, R532). -/
def whsHold (p r : Nat) (m : WMsg) (s : State) : State :=
  let n := (brandPdk m.brand).getD 0
  if holdFits s n (holdSpace m.len) then whsAcked p m.sid (holdOut n 3 (r :: ltWords s p m) m.payload (holdSpace m.len) s)
  else holdStuck n s

/-- Messages of core p that found no room in the hold region try again, in order (R532). -/
def holdRetry (p : Nat) (s : State) : State :=
  ((sendsOf s p).filter (fun w => w.st == 5)).foldl (fun s w => whsHold p (w.msg.lt.headD 0) w.msg s) s

/-- A message enters the send table and sets out: on the fabric, or on a Longtrack route, where an integrity paddock's is held; a route the
paddock may not use refuses it (R398, R402, R508, log 24). -/
def whsGo (p : Nat) (m0 : WMsg) (route : Option Nat) (s : State) : State :=
  let s0 := { s with sidNext := s.sidNext + 1 }
  let s1 := if m0.kind = 0 then bump WHS_SENT_count p s0 else s0
  let enter (m : WMsg) (st : Nat) : State := sendsPut p (sendsOf s1 p ++ [⟨m.sid, m, st, 0⟩]) s1
  match route with
  | none => whsPush m0 (enter m0 0)
  | some r =>
    let m := { m0 with lt := [r] }
    let n := (brandPdk m.brand).getD 0
    if integrityOf s n then whsHold p r m (enter m 5)
    else if routeFor s1 n r = 4 then whsRefused p m s1
    else ltkSend r ((ltWords s p m).headD 0) ((ltWords s p m).drop 1) m.payload [4, p, m.sid] (enter m 2)

/-- The route of a connection over Longtrack. -/
def cnRoute (s : State) (p k : Nat) : Option Nat :=
  if mapGet 0 s.connLt (64 * p + k % 64) = 0 then none else some (mapGet 0 s.connLt (64 * p + k % 64) - 1)

/-- A close marker that waited for its connection goes out, on the connection's path, or a failed connection closes (R402). It stays
while the paddock's gates are closed (R413). -/
def closeWaiting (p l : Nat) (opened : Bool) (s : State) : State :=
  match (sendsOf s p).find? (fun w => w.msg.kind == 4 && w.msg.sentry == l && w.st == 4) with
  | none => s
  | some w =>
    let s1 := sendsPut p ((sendsOf s p).filter (fun x => x.sid != w.sid)) s
    if !opened then cnClear p l s1
    else if (brandPdk w.msg.brand).any (pdkClosed s) then s
    else whsGo p w.msg (cnRoute s p l) s1

/-- The reply to an open reaches entry l of core p: Open as sender, or Failed (R400, R401). -/
def openAnswered (p l : Nat) (bound : Bool) (s : State) : State :=
  if cn WHS_CONN_state s p l ≠ cnOpening then s
  else closeWaiting p l bound (cnSet WHS_CONN_state p l (if bound then cnSender else cnFailed) s)

/-- WHISTLE_BRAND_FAULT: gate refusal i reaches the sender; a refused open fails its entry (R401, R412). -/
def execWhistleBrandFault (i : Nat) (s : State) : Result :=
  .next (match whsPacket s i with
  | none => s
  | some m =>
    if m.kind ≠ 7 then s
    else
      let s1 := whsRefused (senderKey s m) m (whsDrop i s)
      if m.q = 1 then openAnswered (pcore s m.src) m.sentry false s1 else s1)

/-- OPEN_REPLY: reply i reaches the opener. -/
def execOpenReply (i : Nat) (s : State) : Result :=
  .next (match whsPacket s i with
  | none => s
  | some m => if m.kind = 2 ∨ m.kind = 3 then openAnswered (pcore s m.src) m.sentry (m.kind == 2) (whsDrop i s) else s)

/-- A message of connection entry r of core p is spilled, or is being written. -/
def connBusy (s : State) (p r : Nat) : Bool :=
  (List.range 12).any (fun k => (spillGet s p k).any (fun w => w.msg.conn && w.msg.entry == r)) ||
    s.whsLands.any (fun w => w.p == p && w.msg.conn && w.msg.entry == r)

/-- A close marker can be taken: every earlier message has landed, and an end notice has room in its queue (R402, R419). -/
def closeReady (s : State) (p r : Nat) : Bool :=
  let w := mapGet 0 s.landings (64 * p + r) - 1
  let q := natBits w 3 1
  !connBusy s p r && (!natBit w 6 || (rqRoom s p q && (spillGet s p q).isEmpty))

/-- The receiver entry takes its close marker: it becomes Closed, with an end notice where its landing asks for one (R402). -/
def closeTake (p r : Nat) (m : WMsg) (s : State) : State :=
  let w := mapGet 0 s.landings (64 * p + r) - 1
  let q := natBits w 3 1
  cnClear p r (if natBit w 6 then rqPut p q (rqGet s p q ++ [rqEntry { m with len := 0, conn := true } false]) s else s)

/-- A close marker at the receiver: 0 taken or a duplicate, 1 busy while earlier messages are still on their way, 3 kept behind
earlier messages that have not landed (R402, R419). -/
def closeArrive (m : WMsg) (s : State) : Nat × State :=
  let p := pcore s m.dst
  let r := m.entry % 64
  if cn WHS_CONN_state s p r ≠ cnReceiver then (0, s)
  else if m.tag % 65536 ≠ cn WHS_CONN_seq s p r then
    (if seqBelow m.tag (cn WHS_CONN_seq s p r) then (0, bump WHS_DUP_count p s) else (1, s))
  else if closeReady s p r then (0, closeTake p r m s)
  else (3, s)

/-- A close marker kept at entry r of core p is taken once it can be (R419). -/
def closeRetry (p r : Nat) (s : State) : State :=
  match opensOf s p r with
  | m :: _ => if m.kind = 4 ∧ closeReady s p r then whsReply m 5 (closeTake p r m (opensPut p r [] s)) else s
  | [] => s

/-- Close markers kept at core p are tried again: a queue has room (R402, R419). -/
def closesRetry (p : Nat) (s : State) : State :=
  let rs := (s.opens.filter (fun e => e.1 / 64 == p)).map (fun e => e.1 % 64)
  rs.foldl (fun s r => closeRetry p r s) s

/-- CLOSE_MARKER: marker i reaches the receiver (R402). -/
def execCloseMarker (i : Nat) (s : State) : Result :=
  .next (match whsPacket s i with
  | none => s
  | some m =>
    if m.kind ≠ 4 then s
    else if !whsAdmits s m.brand m.dst m.g1 then whsReply m 7 (whsGateRefuses m (whsDrop i s))
    else
      let r := closeArrive m (whsDrop i s)
      if r.1 = 3 then opensPut (pcore s m.dst) m.entry [m] r.2 else whsReply m (5 + r.1) r.2)

/-- SPILL_DRAIN: the oldest spilled message of a landing key of core c lands once the key can take it (R407). -/
def execSpillDrain (c key : Nat) (s : State) : Result :=
  let p := pcore s c
  .next (match spillGet s p key with
  | [] => s
  | w :: rest =>
    let l : Landing := ⟨8 ≤ key % 16, w.q, w.win, w.notify, w.msg.e⟩
    if key < 16 ∧ landingFree s p c l then
      closeRetry p w.msg.entry (whsLand p c w.msg l [w.die, w.pool, w.buf] false (spillPut p key rest s))
    else s)

/-- The payload of landing message id is visible: its notice is posted, its buffer goes back, its sender learns of it, and a close
marker behind it may follow (R402, R404, R407). -/
def whsLandDone (id : Nat) (s : State) : State :=
  match s.whsLands.find? (fun w => w.id == id) with
  | none => s
  | some w =>
    let s1 := { s with whsLands := s.whsLands.filter (fun x => x.id != id) }
    let s2 := if w.notify then rqPut w.p w.q (rqGet s1 w.p w.q ++ [rqEntry w.msg false]) s1 else s1
    let s3 := bufferBack w.buf (bump WHS_LANDED_count w.p s2)
    closeRetry w.p w.msg.entry (if w.ack then whsDelivered w.msg s3 else s3)

/-! ### The WHS operations (R395-R399) -/

/-- Fields of a Whistle operation. -/
def whLen (w : Nat) : Nat := natBits w 41 35
def whQ (w : Nat) : Nat := natBits w 34 32
def whEntry (w : Nat) : Nat := natBits w 31 26

/-- The destination or landing word, and the relative address, as the opcode uses them. -/
def whD (op : Nat) (vals : List Nat) : Nat := if op = 0x20 ∨ op = 0x22 ∨ op = 0x23 then vals.headD 0 else 0
def whA (op : Nat) (vals : List Nat) : Nat := if op = 0x20 then vals.getD 1 0 else if op = 0x21 ∨ op = 0x25 then vals.headD 0 else 0

/-- A reserved field of the destination or landing word is not 0 (R396). -/
def whReserved (op d : Nat) : Bool :=
  if op = 0x20 then natBits d 14 11 != 0 || natBits d 63 52 != 0
  else if op = 0x22 then natBits d 14 11 != 0 || natBits d 31 22 != 0 || natBits d 51 32 != 0 || natBits d 63 52 != 0
  else op == 0x23 && natBits d 63 7 != 0

/-- The first failing issue check of a Whistle operation w of task t (R397). The landing offset e of a WHS.CSEND is that of its
landing-offset word as it stands at issue (DEDUCED, log 117). -/
def whsCheck (s : State) (p t w : Nat) (vals : List Nat) : Option Nat :=
  let op := slotOp w
  let d := whD op vals
  let a := whA op vals
  let bound := taskBound s p t
  let st := mapGet 0 (coreGet s p).issued (whEntry w)
  if whReserved op d then some 1
  else if (match pcorePdk s p with
      | some n => (op == 0x20 || op == 0x22) && !natBit d 15 && decide (pdkCount s n ≤ natBits d 10 0)
      | none => true) then some 2
  else if ((op = 0x20 ∨ op = 0x21) ∧ (64 < whLen w ∨ whLen w % 8 ≠ 0)) ∨ a % 8 ≠ 0 ∨ (op = 0x20 ∧ natBits d 51 32 % 8 ≠ 0) ∨
      (op = 0x21 ∧ 8 ≤ a ∧ a ≤ bound ∧ natBits (spData s p ((taskBase s p t + a - 8) / 8)) 51 32 % 8 ≠ 0) then some 3
  else if ((op = 0x20 ∨ op = 0x21) ∧ bound < a + whLen w) ∨ (op = 0x25 ∧ bound < a + 72) ∨ (op = 0x21 ∧ (a < 8 ∨ bound < a)) then some 4
  else if (op = 0x21 ∧ st ≠ 2) ∨ ((op = 0x22 ∨ op = 0x23) ∧ st ≠ 0) ∨ (op = 0x24 ∧ st = 0) then some 5
  else none

/-- The issued state of an entry changes at issue (R397). -/
def whsIssue (p w : Nat) (s : State) : State :=
  let op := slotOp w
  let set (v : Nat) : State := coreMod p (fun c => { c with issued := mapSet 0 c.issued (whEntry w) v }) s
  if op = 0x22 then set 2 else if op = 0x23 then set 1 else if op = 0x24 then set 0 else s

/-- A packet of operation e of core p. -/
def whsMsg (s : State) (p : Nat) (e : QEnt) (kind : Nat) : WMsg := whsFrom s p e.task kind

/-- The operation has done everything but complete. -/
def whsDone (p : Nat) (e : QEnt) (s : State) : State := qMod p .x e.disp (fun x => { x with answered := true }) s

/-- A send-table slot is free, and no message to the same destination is unacknowledged (R398). -/
def sendFree (s : State) (p : Nat) (e : QEnt) : Bool :=
  let d := whD e.op e.vals
  sendCount s p < 16 && !(sendsOf s p).any (fun w => w.msg.kind == 0 && !w.msg.conn &&
    (if natBit d 15 then w.msg.lt == [natBits d 10 0]
     else w.msg.lt.isEmpty && relIndex s ((pcorePdk s p).getD 0) w.msg.dst == natBits d 10 0))

/-- A connected packet of core p on entry l. -/
def cnMsg (s : State) (p : Nat) (e : QEnt) (kind l : Nat) : WMsg :=
  { whsMsg s p e kind with conn := true, entry := cn WHS_CONN_peer_entry s p l, sentry := l, tag := cn WHS_CONN_seq s p l,
                           dst := pdkCore s ((pcorePdk s p).getD 0) (cn WHS_CONN_peer s p l) }

/-- A WHS.CSEND may start: its entry is Failed, or Open with fewer than 16 messages unacknowledged and a slot free (R398,
R401). -/
def csendFree (s : State) (p : Nat) (e : QEnt) : Bool :=
  let l := whEntry e.slot
  cn WHS_CONN_state s p l == cnFailed || (cn WHS_CONN_state s p l == cnSender && sendCount s p < 16 &&
    ((sendsOf s p).filter (fun w => w.msg.kind == 0 && w.msg.conn && w.msg.sentry == l)).length < 16)

/-- The first byte that a send reads: the payload's, or that of the landing-offset word before it (R396). -/
def whsFirst (s : State) (p : Nat) (e : QEnt) : Nat := taskBase s p e.task + whA e.op e.vals - (if e.op = 0x21 then 8 else 0)

/-- The payload of a send has been read: its message enters the send table and sets out, and the operation is answered (R398). -/
def whsRun (p : Nat) (e : QEnt) (s : State) : State :=
  let len := whLen e.slot
  let byte (a : Nat) : Nat := gotByte e.got a
  let bs := (List.range len).map (fun k => byte (taskBase s p e.task + whA e.op e.vals + k))
  if e.op = 0x20 then
    let d := whD e.op e.vals
    let m0 := whsMsg s p e 0
    let m := { m0 with tag := natBits d 31 16, e := natBits d 51 32, len := len, payload := bs }
    if natBit d 15 then whsGo p m (some (natBits d 10 0)) (whsDone p e s)
    else whsGo p { m with dst := pdkCore s ((pcorePdk s p).getD 0) (natBits d 10 0) } none (whsDone p e s)
  else
    let l := whEntry e.slot
    let w := leNat ((List.range 8).map (fun k => byte (whsFirst s p e + k)))
    let m := { cnMsg s p e 0 l with e := natBits w 51 32, len := len, payload := bs }
    whsGo p m (cnRoute s p l) (cnSet WHS_CONN_seq p l (m.tag + 1) (whsDone p e s))

/-- A send reads its payload, and a connected one its landing-offset word, as class X from the moment it starts (R396, R399). -/
def whsRead (p : Nat) (e : QEnt) (s : State) : State :=
  let len := whLen e.slot + (if e.op = 0x21 then 8 else 0)
  if len = 0 then whsRun p e s else xAccess p e.disp false (whsFirst s p e) len [] s

/-- WHS_SEND: a tagged message (R398). -/
def execWhsSend (c : Nat) (s : State) : Result := .next (xStart 0x20 c sendFree whsRead s)

/-- WHS_CSEND: a connected message; on a Failed entry 0x0A with subcode 3 (R398, R401). -/
def execWhsCsend (c : Nat) (s : State) : Result :=
  .next (xStart 0x21 c csendFree (fun p e s =>
    if cn WHS_CONN_state s p (whEntry e.slot) = cnFailed then xFault p e 3 (whsDone p e s) else whsRead p e s) s)

/-- The accesses of X operation e are complete: a send's message sets out; another operation is answered (R398, R427, R460). -/
def xDone (p : Nat) (e : QEnt) (s : State) : State := if e.op = 0x20 ∨ e.op = 0x21 then whsRun p e s else whsDone p e s

/-- A read of X operation e found an uncorrectable word: 0x0A with subcode 1, and no message is sent (R399). -/
def xAbandon (p : Nat) (e : QEnt) (s : State) : State := xFault p e 1 (whsDone p e (xGiveUp p e.disp s))

/-- WHS_OPEN: the entry is Opening and an open request sets out (R400). -/
def execWhsOpen (c : Nat) (s : State) : Result :=
  .next (xStart 0x22 c (fun _ _ _ => true) (fun p e s =>
    let d := whD e.op e.vals
    let l := whEntry e.slot
    let dst := natBits d 10 0
    let s1 := cnSet WHS_CONN_state p l cnOpening (cnSet WHS_CONN_peer_entry p l (natBits d 21 16) (cnSet WHS_CONN_seq p l 0
      (cnSet WHS_CONN_peer p l (if natBit d 15 then 0 else dst) s)))
    let m := { whsMsg s p e 1 with entry := natBits d 21 16, sentry := l, dst := pdkCore s ((pcorePdk s p).getD 0) dst }
    if natBit d 15 then
      (if routeFor s ((pcorePdk s p).getD 0) dst = 4 then openAnswered p l false (whsRefused p m s1)
       else ltkSend dst 2 (ltControlBody m 0) [] [5, p, l, e.task]
         { s1 with connLt := mapSet 0 s1.connLt (64 * p + l) (dst + 1) })
    else whsPush m s1) s)

/-- WHS_LISTEN: the entry listens with the landing word; a held open request binds it (R400). -/
def execWhsListen (c : Nat) (s : State) : Result :=
  .next (xStart 0x23 c (fun _ _ _ => true) (fun p e s =>
    let r := whEntry e.slot
    let s1 := cnSet WHS_CONN_state p r cnListening { s with landings := mapSet 0 s.landings (64 * p + r) (whD e.op e.vals + 1) }
    match opensOf s1 p r with
    | [] => s1
    | m :: _ => openReply m 2 (cnBind p r m (opensPut p r [] s1))) s)

/-- WHS_CLOSE: a close marker follows every earlier message of a sender entry; a listener is cancelled; a Failed entry closes
(R401, R402). -/
def execWhsClose (c : Nat) (s : State) : Result :=
  .next (xStart 0x24 c (fun _ _ _ => true) (fun p e s =>
    let l := whEntry e.slot
    let st := cn WHS_CONN_state s p l
    let m := cnMsg s p e 4 l
    let s1 := { s with sidNext := s.sidNext + 1 }
    if st = cnListening then (opensOf s p l).foldl (fun s m => openRefuse p m s) (opensPut p l [] (cnClear p l s))
    else if st = cnFailed then cnClear p l s
    else if st = cnOpening then sendsPut p (sendsOf s1 p ++ [⟨m.sid, m, 4, 0⟩]) s1
    else if st = cnSender then whsGo p m (cnRoute s p l) s
    else s) s)

/-- WHS_RECV: the head entry of a queue goes to 72 bytes of scratchpad (R398, R399). -/
def execWhsRecv (c : Nat) (s : State) : Result :=
  .next (xStart 0x25 c (fun s p e => !(rqGet s p (whQ e.slot)).isEmpty) (fun p e s =>
    let q := whQ e.slot
    match rqGet s p q with
    | [] => s
    | h :: rest =>
      xAccess p e.disp true (taskBase s p e.task + whA e.op e.vals) 72 (h.flatMap (leBytes 8)) (closesRetry p (rqPut p q rest s))) s)

/-- A write of WHS_RQPOP of physical core p discards the head entries of the queues it names (R416). -/
def rqPop (p data : Nat) (s : State) : State :=
  closesRetry p
    ((List.range 8).foldl (fun s q => if natBit data q ∧ !(rqGet s p q).isEmpty then rqPut p q ((rqGet s p q).drop 1) s else s) s)

/-- WHS_RQPOP: an admitted write of WHS_RQPOP of core c. -/
def execWhsRqpop (c : Nat) (data : Word) (s : State) : Result := .next (rqPop (pcore s c) data.toNat s)

/-- A send waits for a slot of the send table (WHS_SSAT counts such cycles). -/
def sendWaits (s : State) (p : Nat) : Bool :=
  match xHead s p with
  | some e => !e.started && (e.op == 0x20 || e.op == 0x21) && 16 ≤ sendCount s p
  | none => false

end Sys2Proof.Machine
end

