-- ==== Sys2Proof/Machine/Byre.lean ====
section
/-! DEFINITION. Byre's commands (spec/14_byre.md R449-R476): gets and puts of tasks and of the host, create, destroy, rebuild,
audit, reclaim. d is 0 for M0 and 1 for M1. -/

namespace Sys2Proof.Machine

/-! ### Gets and puts of tasks (R459-R461) -/

/-- The first failing issue check of a Byre operation of task t (R460). -/
def byrCheck (s : State) (p t w : Nat) (vals : List Nat) : Option Nat :=
  let ra := if slotOp w = 0x41 then vals.getD 2 0 else vals.getD 1 0
  if vals.headD 0 / 2 ^ 9 ≠ 0 then some 1
  else if ra % 8 ≠ 0 ∨ taskBound s p t < ra + 8 then some 2
  else none

/-- The relative address of the result word. -/
def byrRa (e : QEnt) : Nat := if e.op = 0x41 then e.vals.getD 2 0 else e.vals.getD 1 0

/-- A get or put of core c sets out to its M die. -/
def byrSend (put : Bool) (p : Nat) (e : QEnt) (s : State) : State :=
  let w := e.vals.headD 0
  { s with byrQ := s.byrQ ++ [{ put := put, d := natBits w 8 8, pool := natBits w 7 0, va := if put then e.vals.getD 1 0 else 0,
                                brand := coreBrand s p, pcoreId := p, core := (lcore s p).getD 0, disp := e.disp, at_ := s.now,
                                dl := noDeadline s }] }

/-- BYR_GET: the operation starts at once (R460). -/
def execByrGet (c : Nat) (s : State) : Result :=
  .next (xStart 0x40 c (fun _ _ _ => true) (fun p e s => byrSend false p e s) s)

/-- BYR_PUT: the operation starts at once (R461). -/
def execByrPut (c : Nat) (s : State) : Result :=
  .next (xStart 0x41 c (fun _ _ _ => true) (fun p e s => byrSend true p e s) s)

/-- What becomes of operation r at its pool: 0 Byre applies it, 1 Byre answers status 5, since the pool is shared, 2 the gate refuses it
(R106, R107, R457). -/
def poolGate (s : State) (r : ByrReq) : Nat :=
  if !poolAdmits s r.d r.pool r.brand r.g1 false then 2 else if rd s (GAT_POOL_owner.ix r.pool) (8 + r.d) = 0 then 1 else 0

/-- The answer of Byre reaches the operation: its result word (R460). -/
def byrAnswer (r : ByrReq) (st va : Nat) (s : State) : State :=
  match qFind s r.pcoreId .x r.disp with
  | none => s
  | some e => xResult r.pcoreId e (byrRa e) (va / 256 % 2 ^ 40 * 256 + st) s

/-- The gate refuses the operation: 0x0A, subcode 4, and its result word is arbitrary (R151, R460). -/
def byrRefuse (r : ByrReq) (s : State) : State :=
  let s1 := poolRefuse (r.pcoreId / 0x200) r.d r.pool r.brand s
  match qFind s1 r.pcoreId .x r.disp with
  | none => s1
  | some e => xFault r.pcoreId e 4 (xSpoil r.pcoreId e (byrRa e) (whsDone r.pcoreId e s1))

/-- Operation x is applied before r of the same cycle: puts first, then by brand and requester id (R458). -/
def byrBefore (x r : ByrReq) : Bool :=
  (x.put && !r.put) || (x.put == r.put && (x.brand < r.brand || (x.brand == r.brand && reqCore x.core < reqCore r.core)))

/-- Operation i of the queue, where none of its core stands before it (R348), none that arrives in the same cycle goes first (R458) and
no test slice holds Byre (R553). Operations on one pool that set out at one time and have not been applied arrive in the same cycle
(DESIGN CHOICE, log 119). -/
def byrPacket (s : State) (i : Nat) (put : Bool) : Option ByrReq :=
  match s.byrQ[i]? with
  | none => none
  | some r =>
    if r.put ≠ put ∨ blockTested s (26 + r.d) ∨ (s.byrQ.take i).any (fun x => x.pcoreId == r.pcoreId && x.d == r.d) ∨
        s.byrQ.any (fun x => x.d == r.d && x.pool == r.pool && x.at_ == r.at_ && byrBefore x r) then none
    else some r

/-- BYRE_GET: get i reaches Byre (R453-R457). -/
def execByreGet (i : Nat) (s : State) : Result :=
  .next (match byrPacket s i false with
  | none => s
  | some r =>
    let s1 := { s with byrQ := listDrop s.byrQ i }
    let g := poolGate s r
    if g = 2 then byrRefuse r s1
    else if g = 1 then byrAnswer r 5 0 (bump (BYR_PREF_count.ix r.pool) r.d s1)
    else
      let a := byreGet r.d r.pool r.brand (reqCore r.core) s1
      byrAnswer r a.1.status (if a.1.status = 0 then poolVBase a.2 r.d r.pool + a.1.buf * poolSize a.2 r.d r.pool else 0) a.2)

/-- BYRE_PUT: put i reaches Byre (R457, R461). -/
def execByrePut (i : Nat) (s : State) : Result :=
  .next (match byrPacket s i true with
  | none => s
  | some r =>
    let s1 := { s with byrQ := listDrop s.byrQ i }
    let g := poolGate s r
    if g = 2 then byrRefuse r s1
    else if g = 1 then byrAnswer r 5 0 (bump (BYR_PREF_count.ix r.pool) r.d s1)
    else
      let v := poolVBase s r.d r.pool
      let a := byrePut r.d r.pool (if v ≤ r.va then some (r.va - v) else none) s1
      byrAnswer r a.1.status 0 a.2)

/-! ### Gets and puts of the host (R461) -/

/-- BYR_HRES takes a result. -/
def hostResult (d : Nat) (put : Bool) (pa st : Nat) (s : State) : State :=
  wr BYR_HRES_seq d (rd s BYR_HRES_seq d + 1) (wr BYR_HRES_put d (b2n put) (wr BYR_HRES_pa d (pa / 256) (wr BYR_HRES_status d st s)))

/-- An admitted write of BYR_HGET of M die 8 + d by a brand. -/
def byrHget (brand d : Nat) (data : Word) (s : State) : State :=
  let d := d % 2
  let j := fieldGet data 7 0
  let r := byreGet d j brand (fieldGet data 27 8) s
  (hostResult d false (if r.1.status = 0 then bufAddr r.2 d j r.1.buf else 0) r.1.status r.2)

/-- BYR_HPUT: a write of BYR_HPUT names the buffer by physical address. -/
def execByrHput (d : Nat) (data : Word) (s : State) : Result :=
  let d := d % 2
  let j := fieldGet data 7 0
  let pa := fieldGet data 51 8 * 256
  let r := byrePut d j (if poolBase s d j ≤ pa then some (pa - poolBase s d j) else none) s
  .next (hostResult d true 0 r.1.status r.2)

/-! ### Commands (R449, R450, R465-R467) -/

/-- The error of a create (R449). -/
def createErr (s : State) (d j : Nat) : Nat :=
  let size := poolSize s d j
  let n := poolCount s d j
  let lo := poolBase s d j
  let hi := lo + n * size
  let llo := poolLedger s d j
  let lhi := llo + 16 * n
  if rdB s BYR_CMDSTAT_busy d ∨ poolCreated s d j then 1
  else if 12 < rd s (BYR_PCFG_size_log.ix j) d ∨ n = 0 ∨ lo % size ≠ 0 ∨ poolVBase s d j % size ≠ 0 then 2
  else if memU s < hi ∨ memU s < lhi ∨ (lo < lhi ∧ llo < hi) then 3
  else 0

/-- A command is accepted or refused. -/
def cmdStat (d j err : Nat) (busy : Bool) (s : State) : State :=
  wr BYR_CMDSTAT_err d err (if err = 0 then wr BYR_CMDSTAT_pool d j (wr BYR_CMDSTAT_busy d (b2n busy) s) else s)

/-- The command in progress of M die 8 + d: op, pool, tick at its start. -/
def cmdPut (d op j : Nat) (s : State) : State := { s with byrCmd := mapSet 0 s.byrCmd d (op + 8 * j + 2 ^ 11 * curTick s) }
def cmdOp (s : State) (d : Nat) : Nat := mapGet 0 s.byrCmd d % 8
def cmdPool (s : State) (d : Nat) : Nat := mapGet 0 s.byrCmd d / 8 % 256
def cmdTick (s : State) (d : Nat) : Nat := mapGet 0 s.byrCmd d / 2 ^ 11

/-- The command in progress is over. -/
def cmdOver (d : Nat) (s : State) : State := wr BYR_CMDSTAT_busy d 0 { s with byrCmd := mapSet 0 s.byrCmd d 0 }

/-- BYRE_CREATE: BYR_PCMD op 1 (R449). -/
def execByreCreate (d j : Nat) (s : State) : Result :=
  let d := d % 2
  let j := j % 256
  let err := createErr s d j
  .next (cmdStat d j err true (if err = 0 then cmdPut d 1 j s else s))

/-- BYRE_CREATE_DONE: the region and the ledger are 0, the free list is built (R450). -/
def execByreCreateDone (d : Nat) (s : State) : Result :=
  let d := d % 2
  let j := cmdPool s d
  .next (if cmdOp s d ≠ 1 then s
  else
    let n := poolCount s d j
    let s1 := memWrite (poolLedger s d j) (List.replicate (16 * n) 0) []
      (memWrite (poolBase s d j) (List.replicate (n * poolSize s d j) 0) [] s)
    cmdOver d (refreshOvercommit d j (rebuildList d j (wr (BYR_PSTAT_created.ix j) d 1 s1))))

/-- A pool is not created any more (R450). -/
def poolDestroy (d j : Nat) (s : State) : State :=
  refreshOvercommit d j (wrW .byr d (BYR_PSTAT_created.ix j).off 0 (poolMod d j (fun _ => poolReset) s))

/-- BYRE_DESTROY: BYR_PCMD op 2 (R449, R450, R466). -/
def execByreDestroy (d j : Nat) (s : State) : Result :=
  let d := d % 2
  let j := j % 256
  let err := if rdB s BYR_CMDSTAT_busy d ∨ !poolCreated s d j then 1
    else if (!poolBroken s d j ∧ poolFree s d j < poolCount s d j) ∨ !(poolGet s d j).reclaim.isEmpty then 4 else 0
  .next (cmdStat d j err false (if err = 0 then poolDestroy d j s else s))

/-- BYRE_REBUILD: BYR_PCMD op 3 (R465). -/
def execByreRebuild (d j : Nat) (s : State) : Result :=
  let d := d % 2
  let j := j % 256
  let err := if rdB s BYR_CMDSTAT_busy d ∨ !poolCreated s d j then 1 else 0
  .next (cmdStat d j err true (if err = 0 then cmdPut d 3 j (wr (BYR_PSTAT_rebuild.ix j) d 1 s) else s))

/-- Some ledger entry of a pool returns data-error status. -/
def ledgerRead (d j : Nat) (s : State) : Bool × State :=
  let r := readLines 0 ((List.range ((16 * poolCount s d j + 63) / 64)).map (fun k => poolLedger s d j + 64 * k)) s
  (r.1.any id, r.2)

/-- BYRE_REBUILD_DONE: the rebuilt list of pool j takes effect (R465); a ledger error breaks the pool (R466). -/
def execByreRebuildDone (d j : Nat) (s : State) : Result :=
  let d := d % 2
  let j := j % 256
  .next (if !poolRebuild s d j then s
  else
    let r := ledgerRead d j s
    let s1 := wr (BYR_PSTAT_rebuild.ix j) d 0 r.2
    let s2 := if r.1 then poolBreaks d j s1 else rebuildList d j s1
    if cmdOp s2 d = 3 ∧ cmdPool s2 d = j then cmdOver d s2 else s2)

/-- BYRE_AUDIT: BYR_PCMD op 4 (R467). -/
def execByreAudit (d j : Nat) (s : State) : Result :=
  let d := d % 2
  let j := j % 256
  let err := if rdB s BYR_CMDSTAT_busy d ∨ !poolCreated s d j then 1 else 0
  let es := (List.range 4096).filter (fun e => rd s (BYR_QKEY_pool.ix e) d == j)
  .next (cmdStat d j err true (if err = 0 then
    cmdPut d 4 j (es.foldl (fun s e => (List.range 4).foldl (fun s b => wr (BYR_AUD_count.ix2 e b) d 0 s) s) s) else s))

/-- The bucket of an age (R467). -/
def ageBucket (start got : Nat) : Nat := if start ≤ got + 1 then 0 else if start - got ≤ 15 then 1 else if start - got ≤ 255 then 2 else 3

/-- BYRE_AUDIT_DONE: the ledger has been read, the buckets are complete (R467). -/
def execByreAuditDone (d : Nat) (s : State) : Result :=
  let d := d % 2
  let j := cmdPool s d
  let a := cmdTick s d
  .next (if cmdOp s d ≠ 4 then s
  else
    let r := ledgerRead d j s
    if r.1 then cmdOver d (poolBreaks d j r.2)
    else cmdOver d ((List.range (poolCount s d j)).foldl (fun s k =>
      if ledgerState s d j k = 1 then
        let e := ledgerEntry s d j k % 4096
        bump (BYR_AUD_count.ix2 e (ageBucket a (ledgerTick s d j k))) d s
      else s) r.2))

/-- A write of BYR_PCMD with any op (R449). -/
def byrCommand (d op j : Nat) (s : State) : Result :=
  if op = 1 then execByreCreate d j s else if op = 2 then execByreDestroy d j s
  else if op = 3 then execByreRebuild d j s else if op = 4 then execByreAudit d j s
  else .next (cmdStat (d % 2) j (if rdB s BYR_CMDSTAT_busy (d % 2) then 1 else 5) false s)

/-! ### Reclaim (R468, R469) -/

/-- When buffers are reclaimed: at step G5, at a delete, at step Q3 of a quench. -/
inductive Reclaim where
  | regather | delete | quench
deriving DecidableEq, Repr

/-- An entry's buffers are reclaimed for brand b: at G5 not those of services 0 and 1, at Q3 those of kinds 0 and 1 (R468,
R469, R516). -/
def reclaims (s : State) (d b : Nat) (why : Reclaim) (e : Nat) : Bool :=
  let r := rd s (BYR_QKEY_requester.ix e) d
  rd s (BYR_QKEY_brand.ix e) d == b && (match why with
    | .delete => true
    | .regather => !(r == reqService 0 || r == reqService 1)
    | .quench => r / 2 ^ 18 ≤ 1)

/-- Reclaim the buffers of a pool charged to brand b. -/
def reclaimPool (d j b : Nat) (why : Reclaim) (s : State) : State :=
  if !poolCreated s d j || poolBroken s d j then s
  else
    let ks := (List.range (poolCount s d j)).filter (fun k => ledgerState s d j k == 1 && reclaims s d b why (ledgerEntry s d j k % 4096))
    if ks.isEmpty then s
    else
      let es := (ks.map (fun k => ledgerEntry s d j k % 4096)).eraseDups
      let s1 := ks.foldl (fun s k => writeLedger d j k 2 (ledgerEntry s d j k) (ledgerTick s d j k) s) s
      wr (BYR_PSTAT_reclaiming.ix j) d 1 (poolMod d j (fun p => { p with reclaim := p.reclaim ++ ks })
        (es.foldl (fun s e => wr (BYR_QHELD_held.ix e) d 0 s) s1))

/-- Reclaim what paddock n's requesters hold, in every pool (R468); at its delete, the pools it owns are destroyed once their
reclaim is complete (R469). -/
def reclaimPaddock (n : Nat) (why : Reclaim) (s : State) : State :=
  (List.range 512).foldl (fun s i =>
    let d := i / 256
    let j := i % 256
    let s1 := reclaimPool d j (pdkBrand n) why s
    if why = .delete ∧ rd s (GAT_POOL_owner.ix j) (8 + d) = pdkBrand n then
      (if (poolGet s1 d j).reclaim.isEmpty then poolDestroy d j s1 else poolMod d j (fun p => { p with destroyAfter := true }) s1)
    else s1) s

/-- BYRE_RECLAIM_DONE: the last reclaimed buffer of pool j is back on its free list (R468, R469). -/
def execByreReclaimDone (d j : Nat) (s : State) : Result :=
  let d := d % 2
  let j := j % 256
  let ks := (poolGet s d j).reclaim
  .next (if ks.isEmpty then s
  else
    let back (s : State) (k : Nat) : State :=
      let s1 := writeLedger d j k 0 0 0 s
      let s2 := if poolRebuild s1 d j then s1
        else poolMod d j (fun p => { p with head := k }) (writeHeader d j k (poolGet s1 d j).head s1)
      setFree d j (poolFree s2 d j + 1) s2
    let s1 := wr (BYR_PSTAT_reclaiming.ix j) d 0 (poolMod d j (fun p => { p with reclaim := [] }) (ks.foldl back s))
    if (poolGet s1 d j).destroyAfter then poolDestroy d j s1 else s1)

end Sys2Proof.Machine
end

