-- ==== Sys2Proof/Machine/Frames.lean ====
section
/-! DEFINITION. Static frames (spec/15_fold.md R483, spec/17_ageing.md R538, R539): bundles and slot entries as stored with
their fetch and slot checks, and the stored check field and CRC of each frame. Frame f of a core is IM frame f below 512 and
RP frame f - 512 from there. -/

namespace Sys2Proof.Machine

/-- Bundle a of core p as stored: 256 bits and the fetch check. -/
def imemRaw (s : State) (p a : Nat) : Nat := mapGet 0 s.imem (2048 * p + a)

/-- Slot entry k of core p as stored: 16 bits and the slot check. -/
def rslotRaw (s : State) (p k : Nat) : Nat := mapGet 0 s.rslot (4096 * p + k)

/-- The data bits of a stored code word, as they stand. -/
def imemData (s : State) (p a : Nat) : Nat := imemRaw s p a % 2 ^ 256
def rslotData (s : State) (p k : Nat) : Nat := rslotRaw s p k % 2 ^ 16

/-- The 128 data bytes of frame f of core p (R483). -/
def frameBytes (s : State) (p f : Nat) : List Nat :=
  if f < 512 then (List.range 4).flatMap (fun k => leBytes 32 (imemData s p (4 * f + k)))
  else (List.range 64).flatMap (fun m => leBytes 2 (rslotData s p (64 * (f - 512) + m)))

/-- The 1,035 positions that hold data bits, in order: those that are not powers of two (R538). -/
def frameDataPos : List Nat := (List.range 1036).filter (fun n => 3 ≤ n && 2 ^ Nat.log2 n != n)

/-- XOR of the positions of the set data bits (R538). -/
def frameHamming (bs : List Nat) : Nat :=
  let bits := bs.flatMap (fun b => (List.range 8).map (natBit b))
  (bits.zip frameDataPos).foldl (fun a x => if x.1 then Nat.xor a x.2 else a) 0

/-- The frame address (R538): pcore_id, type, index. -/
def frameAddr (p f : Nat) : List Nat :=
  leBytes 2 p ++ [if f < 512 then 0 else 1] ++ leBytes 2 (f % 512) ++ [0, 0, 0]

/-- The check field and the CRC of a frame's data: 16 and 32 bits. -/
def frameCheck (p f : Nat) (bs : List Nat) : Nat := frameHamming bs + crc32c (frameAddr p f ++ bs) * 2 ^ 16

/-- The stored check of frame f; what is listed is its difference from the check of an all-zero frame. -/
def frameStored (s : State) (p f : Nat) : Nat :=
  Nat.xor (mapGet 0 s.frameChk (576 * p + f)) (frameCheck p f (List.replicate 128 0))

/-- Store the check of frame f anew from its data (R493, R543). -/
def frameFix (p f : Nat) (s : State) : State :=
  let d := Nat.xor (frameCheck p f (frameBytes s p f)) (frameCheck p f (List.replicate 128 0))
  { s with frameChk := mapSet 0 s.frameChk (576 * p + f) d }

/-- Put a bundle with a fresh fetch check; the frame's check is left to frameFix. -/
def imemPut (p a v : Nat) (s : State) : State := { s with imem := mapSet 0 s.imem (2048 * p + a) (bundle266 v) }

/-- Put a slot entry with a fresh slot check. -/
def rslotPut (p k v : Nat) (s : State) : State := { s with rslot := mapSet 0 s.rslot (4096 * p + k) (slot22 (v % 65536)) }

/-- Write a whole frame from 128 bytes, with its checks (R483, R493, R543). -/
def framePut (p f : Nat) (bs : List Nat) (s : State) : State :=
  frameFix p f
    (if f < 512 then iter 4 (fun k s => imemPut p (4 * f + k) (leNat ((bs.drop (32 * k)).take 32)) s) s
     else iter 64 (fun m s => rslotPut p (64 * (f - 512) + m) (leNat ((bs.drop (2 * m)).take 2)) s) s)

end Sys2Proof.Machine
end

