-- ==== Sys2Proof/Machine/MeshStep.lean ====
section
/-! DEFINITION. The mesh of a paddock, one lea cycle at a time (spec/09_lea_mesh.md R261-R267, R278-R289): ROUTE_SLOT is a
cycle in which a slot executes, HURDLE_HELD one in which the paddock stands held. Inputs and outputs are numbered as in R264:
1 N, 2 E, 3 S, 4 W, 5 Local. -/

namespace Sys2Proof.Machine

/-! ### Slots and hurdles -/

/-- The period of paddock n (R267): MSH_CFG of its first core; values below 63 take effect as 63. -/
def meshPeriod (s : State) (n : Nat) : Nat :=
  Nat.max 63 (rd s MSH_CFG_period_m1 (pcore s (pdkCore s n 0))) + 1

/-- Entry k of core p's hurdle table. -/
def htGet (s : State) (p k : Nat) : Nat := mapGet 0 s.ht (64 * p + k)
def htPut (p k v : Nat) (s : State) : State := { s with ht := mapSet 0 s.ht (64 * p + k) (v % 2 ^ 64) }

/-- Fields of a hurdle entry (MSH_HT). -/
def htValid (v : Nat) : Bool := natBit v 63
def htSlot (v : Nat) : Nat := natBits v 11 0
def htNeedInj (v : Nat) : Nat := natBits v 24 12
def htNeedEj (v : Nat) : Nat := natBits v 37 25
def htRemInj (v : Nat) : Nat := natBits v 43 38
def htRemEj (v : Nat) : Nat := natBits v 49 44

/-- The index of the hurdle entry for slot k, if it is a hurdle. -/
def htFind (s : State) (p k : Nat) : Option Nat :=
  (List.range 64).find? (fun j => htValid (htGet s p j) && htSlot (htGet s p j) == k)

/-- The index of the next hurdle from slot k on (MSH_STAT.hidx). -/
def htNext (s : State) (p k : Nat) : Nat :=
  ((List.range 64).find? (fun j => htValid (htGet s p j) && k ≤ htSlot (htGet s p j))).getD 0

/-- MSH_STAT of a router: its paddock's slot counter and this core's hold bit (R267, R282). -/
def mshStat (s : State) (p : Nat) : Nat :=
  let hold := rd s MSH_STAT_hold_bit p * 2 ^ 14
  match pcorePdk s p with
  | none => hold
  | some n =>
    let m := meshGet s n
    m.sc % 4096 + b2n m.running * 2 ^ 12 + b2n m.held * 2 ^ 13 + hold + b2n m.hSched * 2 ^ 15 + htNext s p m.sc * 2 ^ 16

/-- What a slot read finds (R539): the entry executed and how the check came out. -/
def slotRead (s : State) (p k : Nat) : EccOut × Nat :=
  match eccDecode 16 5 (rslotRaw s p k) with
  | (.uncorrectable, _) => (.uncorrectable, if (htFind s p k).isSome then 0x8000 else 0)
  | r => r

/-- The counter of paddock n stands at a hurdle; without any hurdle slot 0 counts as one for external terms alone (R282). -/
def atHurdle (s : State) (n : Nat) : Bool :=
  let p := pcore s (pdkCore s n 0)
  natBit (slotRead s p (meshGet s n).sc).2 15 || (rd s MSH_CFG_hcount p == 0 && (meshGet s n).sc == 0)

/-- The external hold terms in effect (R282). -/
def extTerm (m : MeshP) : Bool := m.hRation || m.hRegather || m.hSched || m.hCrook

/-- H(c) = hold(c - 58) OR ext(c - 29) (R281), the histories newest first. -/
def verdict (m : MeshP) : Bool := m.holds.getD 57 false || m.exts.getD 28 false

/-- The slot counter is held in this cycle; the slot 0 of a section start never is (R267). -/
def meshHeld (s : State) (n : Nat) : Bool := !(meshGet s n).fresh && atHurdle s n && verdict (meshGet s n)

/-! ### Hold bits (R279, R280) -/

/-- The hold bit of core p. -/
def holdBit (s : State) (p : Nat) : Bool := rdB s MSH_STAT_hold_bit p

/-- Flits the committed operation of an engine has still to move. -/
def engineLeft (s : State) (p eng : Nat) : Nat :=
  match xHeld s p eng with
  | some e => if e.committed then xFlits s p e - e.prog else 0
  | none => 0

/-- supply and space (R279). -/
def supplyOf (s : State) (p : Nat) : Int := ((coreGet s p).inj.length + engineLeft s p 0 : Nat) - ((coreGet s p).rInj : Int)
def spaceOf (s : State) (p : Nat) : Int := (16 - (coreGet s p).ej.length + engineLeft s p 1 : Nat) - ((coreGet s p).rEj : Int)

/-- The condition of core p for a hurdle entry holds. -/
def holdCond (s : State) (p v : Nat) : Bool := decide ((htNeedInj v : Int) ≤ supplyOf s p) && decide ((htNeedEj v : Int) ≤ spaceOf s p)

/-- The decision slot of hurdle entry j (R280): the counts start; the hold bit is set where the condition fails, with its
reason (MSH_HWHY). -/
def decideHold (p j : Nat) (s : State) : State :=
  let v := htGet s p j
  let s1 := coreMod p (fun c => { c with rInj := htRemInj v, rEj := htRemEj v }) s
  if holdCond s1 p v then wr MSH_STAT_hold_bit p 0 s1
  else
    wrW .msh p MSH_HWHY_hidx.off (BitVec.ofNat 64 (j + b2n (decide (supplyOf s1 p < htNeedInj v)) * 2 ^ 8 +
      b2n (decide (spaceOf s1 p < htNeedEj v)) * 2 ^ 9)) (wr MSH_STAT_hold_bit p 1 s1)

/-- A cycle in which core p's hold bit is 1 is counted. -/
def countHold (p : Nat) (s : State) : State :=
  if holdBit s p then addSat MSH_HWHY_cycles p 1 (bump MSH_HOLDCNT_count p s) else s

/-- The end of a lea cycle of paddock n: hold bits are counted and enter the network with the external terms. -/
def pushHolds (n : Nat) (s : State) : State :=
  let ps := pdkPcores s n
  let h := ps.any (holdBit s)
  meshMod n (fun m => { m with holds := (h :: m.holds).take 58, exts := (extTerm m :: m.exts).take 29 })
    (ps.foldl (fun s p => countHold p s) s)

/-! ### Links (R261-R263) -/

/-- The neighbour of logical core c beyond output o, and the input its flits arrive on. -/
def neighbour (c o : Nat) : Option (Nat × Nat) :=
  let x := c % 64
  let y := c / 64
  if o = 1 then (if y = 0 then none else some (c - 64, 3))
  else if o = 2 then (if x = 63 then none else some (c + 1, 4))
  else if o = 3 then (if y = 31 then none else some (c + 64, 1))
  else if x = 0 then none else some (c - 1, 2)

/-- Slots until a flit driven from core c to core d is present (R262). -/
def linkSlots (c d : Nat) : Nat := if coreDie c = coreDie d then 1 else 6

/-- The flit present at an input of core c in the slot that executes. -/
def arrival (s : State) (c i : Nat) : Option Flit :=
  ((mapGet [] s.links (4 * c + (i - 1))).find? (fun x => x.1 == 1)).map (fun x => x.2)

/-- The stages of core c's inputs advance by one slot; what was present is gone. -/
def advanceLinks (c : Nat) (s : State) : State :=
  iter 4 (fun i s =>
    let q := ((mapGet [] s.links (4 * c + i)).filter (fun x => x.1 != 1)).map (fun x => (x.1 - 1, x.2))
    { s with links := mapSet [] s.links (4 * c + i) q }) s

/-- Drive a flit onto a link. -/
def driveLink (c o : Nat) (f : Flit) (s : State) : State :=
  match neighbour c o with
  | none => s
  | some (d, i) =>
    let q := mapGet [] s.links (4 * d + (i - 1)) ++ [(linkSlots c d, f)]
    { s with links := mapSet [] s.links (4 * d + (i - 1)) q }

/-! ### A router (R265, R266, R287-R289) -/

/-- Bit w: word w of the flit is uncorrectable. -/
def badMask (f : Flit) : Nat :=
  ((List.range 4).filter (fun w => (eccDecode 64 7 (f.ws.getD w 0)).1 == .uncorrectable)).foldl (fun a w => a + 2 ^ w) 0

/-- The number of words a check corrects. -/
def fixCount (f : Flit) : Nat := (f.ws.filter (fun w => (eccDecode 64 7 w).1 == .corrected)).length

/-- The check of a flit at input i of router p in slot k (R288, R289). -/
def checkFlit (p k i : Nat) (f : Flit) (s : State) : Flit × State :=
  if f.poisoned then (f, bump MSH_POISON_count p s)
  else if badMask f ≠ 0 then
    (poisonFlit, wr MSH_EVT_ue p 1 (capture MSH_UE_valid MSH_UE_overflow p (i * 2 ^ 20 + badMask f * 2 ^ 12 + k)
      (bump MSH_UECNT_count p s)))
  else ({ f with ws := f.ws.map (fun w => word72 (eccDecode 64 7 w).2) }, addSat MSH_CE_count p (fixCount f) s)

/-- The input an output selects; reserved codes count as none (R264). -/
def selOf (ent o : Nat) : Nat :=
  let v := natBits ent (3 * o - 1) (3 * o - 3)
  if 6 ≤ v then 0 else v

/-- The fence bit of an output; Local has none. -/
def fenced (s : State) (p o : Nat) : Bool :=
  if o = 1 then rdB s MSH_FENCE_fence_n p else if o = 2 then rdB s MSH_FENCE_fence_e p
  else if o = 3 then rdB s MSH_FENCE_fence_s p else if o = 4 then rdB s MSH_FENCE_fence_w p else false

/-- An underrun or overrun (R266): counted, an event, a record, and a schedule stop. -/
def scheduleStop (n c k : Nat) (full : Bool) (s : State) : State :=
  let p := pcore s c
  let s1 := if full then wr MSH_EVT_over p 1 (bump MSH_OVER_count p s) else wr MSH_EVT_under p 1 (bump MSH_UNDER_count p s)
  meshMod n (fun m => { m with hSched := true })
    (coreFault p 0x12 [k + b2n full * 2 ^ 12 + relIndex s1 n c * 2 ^ 16] s1)

/-- A fence violation: nothing is driven; counted, an event, a regather with cause 6 (R105, R287). -/
def fenceFault (n p : Nat) (s : State) : State :=
  regatherStart n 6 (wr MSH_EVT_fence p 1 (bump MSH_FENCECNT_count p s))

/-- A flit for the Local output enters the ejection FIFO, or is an overrun (R266). -/
def ejectFlit (n c k : Nat) (f : Flit) (s : State) : State :=
  let p := pcore s c
  if 16 ≤ (coreGet s p).ej.length then scheduleStop n c k true s
  else coreMod p (fun x => { x with ej := x.ej ++ [f] }) s

/-- Drive one output of router c from the checked inputs (inputs 1 to 5 in order). -/
def driveOut (n c k ent : Nat) (ins : List (Option Flit)) (o : Nat) (s : State) : State :=
  let sel := selOf ent o
  if sel = 0 then s
  else if fenced s (pcore s c) o then fenceFault n (pcore s c) s
  else match ins.getD (sel - 1) none with
    | none => s
    | some f => if o = 5 then ejectFlit n c k f s else driveLink c o f s

/-- Check what arrives at the inputs of a router in turn. -/
def checkInputs (p k : Nat) : List (Nat × Option Flit) → State → List (Option Flit) × State
  | [], s => ([], s)
  | (i, f) :: xs, s =>
    let r : Option Flit × State := match f with
      | none => (none, s)
      | some f => let q := checkFlit p k i f s; (some q.1, q.2)
    let rs := checkInputs p k xs r.2
    (r.1 :: rs.1, rs.2)

/-- The slot read's own effects (R539): counted; an uncorrectable entry makes the Walker reload the frame and the Shepherd
regather the paddock with cause 2. -/
def slotCheck (n p k : Nat) (s : State) : State :=
  match (slotRead s p k).1 with
  | .clean => s
  | .corrected => bump (WLK_SLOTCE_count.ix (p / 0x200)) 0 s
  | .uncorrectable => regatherStart n 2 { bump (WLK_INLINEUE_count.ix (p / 0x200)) 0 s with wlkDue := s.wlkDue ++ [(p, 512 + k / 64)] }

/-- One router executes slot k; `s0` is the state before the slot, which fixes what stands at the inputs. -/
def routeCore (n k : Nat) (s0 : State) (c : Nat) (s : State) : State :=
  let p := pcore s c
  let ent := (slotRead s0 p k).2
  let outs := [1, 2, 3, 4, 5]
  let local_ := outs.any (fun o => selOf ent o == 5)
  let head := (coreGet s0 p).inj.head?
  let s1 := slotCheck n p k s
  let r := checkInputs p k [(1, arrival s0 c 1), (2, arrival s0 c 2), (3, arrival s0 c 3), (4, arrival s0 c 4),
    (5, if local_ then head else none)] s1
  let s2 := addSat MSH_DISCARD_count p
    ([1, 2, 3, 4].filter (fun i => (arrival s0 c i).isSome && outs.all (fun o => selOf ent o != i))).length r.2
  let s3 := if local_ && head.isNone then scheduleStop n c k false s2 else s2
  let s4 := coreMod p (fun x => { x with inj := if local_ then x.inj.drop 1 else x.inj,
                                         rInj := x.rInj - b2n local_, rEj := x.rEj - b2n (selOf ent 5 != 0) }) s3
  fifoShow p (outs.foldl (fun s o => driveOut n c k ent r.1 o s) s4)

/-- A section start finds every stage, input and FIFO empty; what stands there is discarded (R267). -/
def clearMesh (n : Nat) (s : State) : State :=
  (pdkCores s n).foldl (fun s c =>
    let p := pcore s c
    let k := ((List.range 4).map (fun i => (mapGet [] s.links (4 * c + i)).length)).foldl (· + ·) 0
    let x := coreGet s p
    fifoShow p (coreMod p (fun y => { y with inj := [], ej := [], injRead := [], rInj := 0, rEj := 0 })
      (wr MSH_STAT_hold_bit p 0 (addSat MSH_DISCARD_count p (k + x.inj.length + x.ej.length)
        (iter 4 (fun i s => { s with links := mapSet [] s.links (4 * c + i) [] }) s))))) s

/-- The router's record of slot 0 (R634). -/
def periodRecord (n p : Nat) (s : State) : State :=
  let d := (meshGet s n).periods
  if srcOn s p 4 ∧ d % 2 ^ rd s (FTF_SRC_every.ix 4) p = 0 then genRecord p 4 0x9 0 d [] s else s

/-- The slot counter's own step before the routers: period count and hold decisions. -/
def slotBegin (n : Nat) (s : State) : State :=
  let m := meshGet s n
  let s1 := if m.fresh then meshMod n (fun m => { m with periods := 0 }) (clearMesh n s)
            else if m.sc = 0 then meshMod n (fun m => { m with periods := m.periods + 1 }) s else s
  let s2 := if m.sc = 0 then (pdkPcores s1 n).foldl (fun s p => periodRecord n p s) s1 else s1
  (pdkPcores s2 n).foldl (fun s p => match htFind s p (m.sc + 58) with
    | some j => decideHold p j s
    | none => s) s2

/-- Every router of paddock n executes the slot at the counter (R265), and the counter advances. -/
def routeSlot (n : Nat) (s : State) : State :=
  let k := (meshGet s n).sc
  let s1 := slotBegin n s
  let s2 := (pdkCores s1 n).foldl (fun t c => advanceLinks c t) s1
  let s3 := (pdkCores s1 n).foldl (fun t c => routeCore n k s1 c t) s2
  pushHolds n (meshMod n (fun m => { m with sc := (k + 1) % meshPeriod s n, fresh := false, held := false, longDone := false }) s3)

/-- ROUTE_SLOT: a lea cycle of paddock n in which its slot executes (R265, R281). -/
def execRouteSlot (n : Nat) (s : State) : Result :=
  .next (if (meshGet s n).running ∧ !meshHeld s n then routeSlot n s else s)

/-- HURDLE_HELD: a lea cycle in which the counter stands held at a hurdle (R281). -/
def execHurdleHeld (n : Nat) (s : State) : Result :=
  .next (if (meshGet s n).running ∧ meshHeld s n then
      let s1 := (pdkPcores s n).foldl (fun s p => bump MSH_HELDCNT_count p s) s
      pushHolds n (meshMod n (fun m => { m with held := true, heldTick := if m.held then m.heldTick else curTick s }) s1)
    else s)

/-- HOLD_CONDITION_MET: core c's condition for the coming hurdle holds, and its hold bit clears (R280). -/
def execHoldConditionMet (c : Nat) (s : State) : Result :=
  let p := pcore s c
  .next (if holdBit s p ∧ holdCond s p (htGet s p (rd s MSH_HWHY_hidx p)) then wr MSH_STAT_hold_bit p 0 s else s)

/-- The long-hold record (R286): hurdle slot, the external terms, the first holding core. With no holding core that field is
not stated (log 20). -/
def longHold (n : Nat) (s : State) : State :=
  let m := meshGet s n
  let cs := (pdkCores s n).filter (fun c => holdBit s (pcore s c))
  let src := b2n m.hRation + 2 * b2n m.hRegather + 4 * b2n m.hSched + 8 * b2n m.hCrook
  let root := (pdkY0 s n + 4 * ((rd s PDK_GEOM_ph n - 1) / 2)) * 64 + pdkX0 s n + 4 * ((rd s PDK_GEOM_pw n - 1) / 2)
  let first : Nat × State := match cs with
    | c :: _ => (relIndex s n c, s)
    | [] => let r := drawFree s; (r.1 % 2048, r.2)
  cs.foldl (fun s c => wr MSH_EVT_long_hold (pcore s c) 1 s)
    (coreFault (pcore s root) 0x13 [m.sc + src * 2 ^ 16 + first.1 * 2 ^ 32] first.2)

/-- LONG_HOLD: the counter has stood at one hurdle for 64 bt (R286, R300). -/
def execLongHold (n : Nat) (s : State) : Result :=
  let m := meshGet s n
  .next (if m.held ∧ !m.longDone ∧ m.heldTick + 64 ≤ curTick s then
      let s1 := meshMod n (fun m => { m with longDone := true }) s
      if m.hRation || m.hSched || (pdkPcores s n).any (holdBit s) then longHold n s1 else s1
    else s)

end Sys2Proof.Machine
end

