-- ==== Sys2Proof/Machine/Scalar.lean ====
section
/-! DEFINITION. The S slot (spec/05_core_bundle.md R136, R143-R146, R152): the arithmetic, the checks of its own, its effect.
`a` is the address of the bundle. -/

namespace Sys2Proof.Machine

/-- A slot is guard-true (R136). -/
def guardTrue (s : State) (p t w : Nat) : Bool := pGet s p t (slotGuard w % 8) != natBit (slotGuard w) 3

/-- A slot that has an effect: not empty and guard-true. -/
def slotOn (s : State) (p t w : Nat) : Bool := slotOp w != 0 && guardTrue s p t w

/-- The 32-bit immediate extended to 64 bits by sign. -/
def sImm (w : Nat) : Nat := wrapInt 64 (sext 32 (natBits w 31 0))

/-- The registers of an S slot. -/
def sRd (w : Nat) : Nat := natBits w 51 47
def sRa (w : Nat) : Nat := natBits w 46 42
def sRb (w : Nat) : Nat := natBits w 41 37

/-- Results of the integer instructions, register form (R152): opcodes 0x01 to 0x11. -/
def aluOp (op x y : Nat) : Nat :=
  match op with
  | 0x01 => (x + y) % 2 ^ 64
  | 0x02 => (x + 2 ^ 64 - y) % 2 ^ 64
  | 0x03 => Nat.land x y
  | 0x04 => Nat.lor x y
  | 0x05 => Nat.xor x y
  | 0x06 => x * 2 ^ (y % 64) % 2 ^ 64
  | 0x07 => x / 2 ^ (y % 64)
  | 0x08 => wrapInt 64 (sext 64 x / (2 ^ (y % 64) : Nat))
  | 0x09 => x * y % 2 ^ 64
  | 0x0A => x * y / 2 ^ 64
  | 0x0B => wrapInt 64 (sext 64 x * sext 64 y / (2 ^ 64 : Nat))
  | 0x0C => if y = 0 then 0xFFFFFFFFFFFFFFFF else x / y
  | 0x0D => if y = 0 then x else x % y
  | 0x0E => if sext 64 x ≤ sext 64 y then x else y
  | 0x0F => if sext 64 x ≤ sext 64 y then y else x
  | 0x10 => Nat.min x y
  | 0x11 => Nat.max x y
  | _ => 0

/-- The register form an immediate form stands for: 0x20 to 0x27. -/
def immOp (op : Nat) : Nat :=
  match op with
  | 0x20 => 0x01
  | 0x21 => 0x03
  | 0x22 => 0x04
  | 0x23 => 0x05
  | 0x24 => 0x06
  | 0x25 => 0x07
  | 0x26 => 0x08
  | _ => 0x09

/-- The comparisons (R152): 0x30 to 0x35, and with an immediate 0x38 to 0x3D. -/
def cmpOp (op x y : Nat) : Bool :=
  match op % 8 with
  | 0 => x == y
  | 1 => x != y
  | 2 => sext 64 x < sext 64 y
  | 3 => x < y
  | 4 => sext 64 y ≤ sext 64 x
  | _ => y ≤ x

/-- The latency L of an S slot's result (R152). -/
def sLatency (op : Nat) : Nat :=
  if (0x09 ≤ op ∧ op ≤ 0x0B) ∨ op = 0x27 then 3 else if op = 0x0C ∨ op = 0x0D then 34
  else if 0x48 ≤ op ∧ op ≤ 0x4E then 4 else if op = 0x5A ∨ op = 0x70 then 2 else if op = 0x5C then 6 else 1

/-- Does the S slot read the scratchpad, does it write it, and its size in bytes. -/
def sLoads (op : Nat) : Bool := (0x48 ≤ op && op ≤ 0x4E) || op == 0x58
def sStores (op : Nat) : Bool := 0x50 ≤ op && op ≤ 0x53
def sSize (op : Nat) : Nat :=
  if op = 0x58 then 64 else if op = 0x48 ∨ op = 0x4C ∨ op = 0x50 then 1 else if op = 0x49 ∨ op = 0x4D ∨ op = 0x51 then 2
  else if op = 0x4A ∨ op = 0x4E ∨ op = 0x52 then 4 else 8

/-- The relative address of a narrow access or DLD, modulo 2^64 (R146). -/
def sAddr (s : State) (p t w : Nat) : Nat := (gGet s p t (sRa w) + sImm w) % 2 ^ 64

/-- The check of a narrow access (R146). -/
def narrowCheck (e z bound : Nat) : Option Nat :=
  if e % z ≠ 0 then some 0x04 else if bound < e + z then some 0x03 else none

/-- The CSRs a task sees (R152). -/
def csrKnown (csr : Nat) : Bool :=
  csr ≤ 3 || csr == 0x010 || csr == 0x011 || csr == 0x020 || (0x030 ≤ csr && csr ≤ 0x033) || csr == 0x040

/-- The target of JR and JRL, of the other branches. -/
def sTarget (s : State) (p t w : Nat) : Nat :=
  if slotOp w = 0x62 ∨ slotOp w = 0x63 then gGet s p t (sRa w) else natBits w 10 0

/-- The loop counter, the end and the count of LOOP and LOOPI. -/
def loopK (w : Nat) : Nat := natBits w 48 47
def loopEnd (w : Nat) : Nat := if slotOp w = 0x64 then natBits w 10 0 else natBits w 42 32
def loopCount (s : State) (p t w : Nat) : Nat := if slotOp w = 0x64 then gGet s p t (sRa w) else natBits w 31 0

/-- The S slot's own checks, made when it is guard-true: the exception code (R146, R151, R152, R163). -/
def sCheck (s : State) (p t a w : Nat) : Option Nat :=
  let op := slotOp w
  if sLoads op || sStores op then narrowCheck (sAddr s p t w) (sSize op) (taskBound s p t)
  else if (op = 0x62 ∨ op = 0x63) ∧ 2047 < sTarget s p t w then some 0x05
  else if (op = 0x64 ∨ op = 0x65) ∧ (0xFFFFFFFF < loopCount s p t w ∨ loopEnd w ≤ a) then some 0x05
  else if (op = 0x70 ∧ !csrKnown (natBits w 11 0)) ∨ (op = 0x71 ∧ natBits w 11 0 ≠ 0x020) then some 0x06
  else none

/-- The value of a CSR; PDIM of a core in no paddock is not stated (log 4). -/
def csrRead (s : State) (p t csr : Nat) : Nat × State :=
  if csr = 0x000 then (t, s)
  else if csr = 0x001 then ((lcore s p).getD 0x7FF, s)
  else if csr = 0x002 then
    (match lcore s p with
     | some c => match corePdk s c with
       | some n => relIndex s n c
       | none => 0xFFFF
     | none => 0xFFFF, s)
  else if csr = 0x003 then
    (match pcorePdk s p with
     | some n => (pdkH s n % 256 * 256 + pdkW s n % 256, s)
     | none => let r := drawFree s; (r.1 % 65536, r.2))
  else if csr = 0x010 then (taskBase s p t, s)
  else if csr = 0x011 then (taskBound s p t, s)
  else if csr = 0x020 then (Nat.lor (rd s (LEA_TPRED_pred.ix t) p) 1, s)
  else if csr = 0x040 then (rd s (LEA_TRET_retired.ix t) p, s)
  else (rd s (LEA_TLOOP_count.ix2 t (csr % 4)) p, s)

/-- What an S slot does beside registers and memory: where a taken branch goes, and that the task halts. -/
structure SOut where
  jump : Option Nat
  halt : Bool
  st : State

/-- A result in register k, readable after L cycles (R152). -/
def sResult (p t k op v : Nat) (s : State) : State :=
  if k = 0 then s
  else coreMod p (fun c => { c with ready := mapSet 0 c.ready (64 * t + k) (c.cyc + sLatency op) }) (gSet p t k (v % 2 ^ 64) s)

/-- The value of a load from the bytes read. -/
def loadValue (op : Nat) (bs : List Nat) : Nat :=
  let v := leNat bs
  if 0x4C ≤ op ∧ op ≤ 0x4E then wrapInt 64 (sext (8 * sSize op) v) else v

/-- Arm, or with a count of 0 clear, a loop counter. -/
def loopArm (p t k start end_ count : Nat) (s : State) : State :=
  wr (LEA_TLOOP_active.ix2 t k) p (b2n (count != 0)) (wr (LEA_TLOOP_start.ix2 t k) p start
    (wr (LEA_TLOOP_end.ix2 t k) p end_ (wr (LEA_TLOOP_count.ix2 t k) p count s)))

/-- The effect of a guard-true S slot; `bs` are the bytes its scratchpad read delivered (R152). -/
def sEffect (p t a w : Nat) (bs : List Nat) (s : State) : SOut :=
  let op := slotOp w
  let rdst := sRd w
  let x := gGet s p t (sRa w)
  let y := gGet s p t (sRb w)
  let pd := natBits w 49 47
  let tile := natBits w 36 33
  let res (v : Nat) : SOut := ⟨none, false, sResult p t rdst op v s⟩
  let go (s : State) : SOut := ⟨none, false, s⟩
  if 0x01 ≤ op ∧ op ≤ 0x11 then
    let s1 := if op = 0x0C ∨ op = 0x0D then coreMod p (fun c => { c with divFree := c.cyc + 34 }) s else s
    go (sResult p t rdst op (aluOp op x y) s1)
  else if 0x20 ≤ op ∧ op ≤ 0x27 then res (aluOp (immOp op) x (if 0x24 ≤ op ∧ op ≤ 0x26 then natBits w 5 0 else sImm w))
  else if op = 0x28 then res (sImm w)
  else if op = 0x29 then res (gGet s p t rdst % 2 ^ 32 + natBits w 31 0 * 2 ^ 32)
  else if 0x30 ≤ op ∧ op ≤ 0x35 then go (pSet p t pd (cmpOp op x y) s)
  else if 0x38 ≤ op ∧ op ≤ 0x3D then go (pSet p t pd (cmpOp op x (sImm w)) s)
  else if 0x40 ≤ op ∧ op ≤ 0x43 then
    let u := pGet s p t (natBits w 44 42)
    let v := pGet s p t (natBits w 39 37)
    go (pSet p t pd (if op = 0x40 then u && v else if op = 0x41 then u || v else if op = 0x42 then u != v else !u) s)
  else if 0x48 ≤ op ∧ op ≤ 0x4E then res (loadValue op bs)
  else if 0x50 ≤ op ∧ op ≤ 0x53 then
    go (spWriteBytes p (taskBase s p t + sAddr s p t w) (leBytes (sSize op) (gGet s p t rdst)) 0 t s)
  else if op = 0x58 then go (iter 8 (fun k s => descSet p rdst k (leNat ((bs.drop (8 * k)).take 8)) s) s)
  else if op = 0x59 then go (descSet p rdst (natBits w 34 32) x s)
  else if op = 0x5A then res (descGet s p (sRa w) (natBits w 34 32))
  else if op = 0x5C then res (tileGet s p tile (natBits x 9 5) (natBits x 4 0))
  else if op = 0x5D then go (tileSet p tile (natBits x 9 5) (natBits x 4 0) y s)
  else if op = 0x60 ∨ op = 0x62 then ⟨some (sTarget s p t w), false, s⟩
  else if op = 0x61 ∨ op = 0x63 then ⟨some (sTarget s p t w), false, sResult p t rdst op (a + 1) s⟩
  else if op = 0x64 ∨ op = 0x65 then
    let n := loopCount s p t w
    ⟨if n = 0 then some (loopEnd w + 1) else none, false, loopArm p t (loopK w) (a + 1) (loopEnd w) n s⟩
  else if op = 0x66 then go (wr (LEA_TLOOP_active.ix2 t (loopK w)) p 0 (wr (LEA_TLOOP_count.ix2 t (loopK w)) p 0 s))
  else if op = 0x67 then ⟨none, true, s⟩
  else if op = 0x68 then go (spFence p t (natBits w 2 0) (coreGet s p).bundles s)
  else if op = 0x70 then
    let r := csrRead s p t (natBits w 11 0)
    go (sResult p t rdst op r.1 r.2)
  else if op = 0x71 then go (wr (LEA_TPRED_pred.ix t) p (Nat.lor (x % 256) 1) s)
  else go s

/-- The loop rule from counter k - 1 down (R144): where a loop-back goes. -/
def loopRule (p t a : Nat) : Nat → State → Option Nat × State
  | 0, s => (none, s)
  | k + 1, s =>
    if !rdB s (LEA_TLOOP_active.ix2 t k) p || rd s (LEA_TLOOP_end.ix2 t k) p != a then loopRule p t a k s
    else
      let n := rd s (LEA_TLOOP_count.ix2 t k) p
      if 1 < n then (some (rd s (LEA_TLOOP_start.ix2 t k) p), wr (LEA_TLOOP_count.ix2 t k) p (n - 1) s)
      else loopRule p t a k (wr (LEA_TLOOP_active.ix2 t k) p 0 (wr (LEA_TLOOP_count.ix2 t k) p 0 s))

end Sys2Proof.Machine
end

