-- ==== Sys2Proof/Machine/Issue.lean ====
section
/-! DEFINITION. A core cycle (spec/05_core_bundle.md R130-R164): the choice of a task, the fetch, the checks of a bundle, its
issue, its trace records and the crook trigger; starts and stops of tasks; completions of X operations. `p` is a physical
core, `t` a task, `a` a bundle address, `b` a bundle. -/

namespace Sys2Proof.Machine

/-! ### Readiness (R133, R145) -/

/-- What stalls a task: something timed or external, and the queues that are full. -/
structure Stall where
  other : Bool
  m : Bool
  v : Bool
  x : Bool
deriving DecidableEq, Repr

/-- The task is ready. -/
def Stall.ready (k : Stall) : Bool := !k.other && !k.m && !k.v && !k.x

/-- A general register of the list awaits its result. -/
def awaits (s : State) (p t : Nat) (rs : List Nat) : Bool :=
  rs.any (fun k => (coreGet s p).cyc < mapGet 0 (coreGet s p).ready (64 * t + k))

/-- The scoreboard wait of TRD, TWR, DLD and DWR (R145). -/
def sConflict (s : State) (p w : Nat) : Bool :=
  let op := slotOp w
  let tile := natBits w 36 33
  let desc := 32 + natBits w 51 47
  if op = 0x5C then (allOps s p).any (fun o => (resWrites o.1 o.2.slot).contains tile)
  else if op = 0x5D then
    (allOps s p).any (fun o => (resWrites o.1 o.2.slot).contains tile || (resReads o.1 o.2.slot).contains tile)
  else if op = 0x58 ∨ op = 0x59 then (allOps s p).any (fun o => (resReads o.1 o.2.slot).contains desc)
  else false

/-- A FENCE waits for an operation of the task in a selected queue (R152). -/
def fenceWaits (s : State) (p t w : Nat) : Bool :=
  let c := coreGet s p
  let own (q : List QEnt) : Bool := q.any (fun e => e.task == t)
  (natBit w 0 && own c.qm) || (natBit w 1 && own c.qv) || (natBit w 2 && own c.qx)

/-- What stalls task t at bundle b (R133); predicates have a latency of 1 and stall nothing. -/
def stallOf (s : State) (p t b : Nat) : Stall :=
  let c := coreGet s p
  let on (w : Nat) : Bool := slotOn s p t w
  let w := slotS b
  { other :=
      (on w && (awaits s p t (sReads w) || sConflict s p w || ((slotOp w == 0x0C || slotOp w == 0x0D) && c.cyc < c.divFree) ||
        (slotOp w == 0x68 && fenceWaits s p t w))) ||
      (on (slotM b) && awaits s p t (mReads (slotM b))) || (on (slotV b) && awaits s p t (vReads (slotV b))) ||
      (on (slotX b) && awaits s p t (xReads (slotX b)))
    m := on (slotM b) && 8 ≤ c.qm.length
    v := on (slotV b) && 8 ≤ c.qv.length
    x := on (slotX b) && 8 ≤ c.qx.length }

/-- A task whose next address is out of range (R143), and one in its fetch bubble. -/
def taskPast (s : State) (p t : Nat) : Bool := natBit (coreGet s p).past t
def inBubble (s : State) (p t : Nat) : Bool := (coreGet s p).cyc < mapGet 0 (coreGet s p).bubble t

/-- The bundle a fetch of task t delivers: how its check came out, and its bits (R539). -/
def fetchOf (s : State) (p t : Nat) : EccOut × Nat := eccDecode 256 9 (imemRaw s p (rd s (LEA_TSTAT_pc.ix t) p))

/-- What stalls running task t. A bundle that does not fetch stalls nothing: it raises its exception. -/
def taskStall (s : State) (p t : Nat) : Stall :=
  let free : Stall := ⟨inBubble s p t, false, false, false⟩
  if taskPast s p t then free
  else match fetchOf s p t with
    | (.uncorrectable, _) => free
    | (_, b) => let k := stallOf s p t b; { k with other := k.other || inBubble s p t }

/-! ### Checks at issue (R137, R138) -/

/-- The exception of one M, V or X slot: code and subcode. -/
def macroCheck (s : State) (p t w : Nat) (form : Option Nat) (own : Option Nat) : Option (Nat × Nat) :=
  match form with
  | some code => some (code, 0)
  | none => if slotOn s p t w then own.map (fun sub => (0x09, sub)) else none

/-- The own check of an X slot, by its unit's chapter. -/
def xCheck (s : State) (p t w : Nat) : Option Nat :=
  let vals := (xReads w).map (gGet s p t)
  let op := slotOp w
  if op ≤ 0x03 then mshCheck s p t w else if op ≤ 0x13 then strmCheck s p t w else if op ≤ 0x25 then whsCheck s p t w vals
  else if op ≤ 0x34 then tlyCheck s p t w vals else if op ≤ 0x41 then byrCheck s p t w vals else none

/-- The first failing check of a bundle: slot, code, subcode (R137). -/
def bundleCheck (s : State) (p t a b : Nat) : Option (Nat × Nat × Nat) :=
  let ws := slotS b
  let sc : Option (Nat × Nat) := match slotForm (sFields (slotOp ws)) ws with
    | some code => some (code, 0)
    | none => if slotOn s p t ws then (sCheck s p t a ws).map (fun code => (code, 0)) else none
  let wm := slotM b
  let wv := slotV b
  let wx := slotX b
  match sc with
  | some e => some (0, e)
  | none => match macroCheck s p t wm (slotForm (mFields (slotOp wm)) wm) (mCheck s p t wm ((mReads wm).map (gGet s p t))) with
    | some e => some (1, e)
    | none => match macroCheck s p t wv (slotForm (vFields (slotOp wv) wv) wv) (vCheck s p t wv) with
      | some e => some (2, e)
      | none => (macroCheck s p t wx (slotForm (xFields (slotOp wx) wx) wx) (xCheck s p t wx)).map (fun e => (3, e))

/-! ### Trace records of a task (R634, R638) -/

/-- The X slot's MARK or SYNC record, from the operands kept at issue. -/
def traceX (p t a cnt w : Nat) (vals : List Nat) (s : State) : State :=
  let op := slotOp w
  if op = 0x50 then genRecord p t 0x4 a cnt [vals.headD 0] s
  else if 0x30 ≤ op ∧ op ≤ 0x32 then
    genRecord p t 0x5 a cnt [vals.headD 0 % 2 ^ 32 + (op - 0x30) * 2 ^ 32 + natBits w 36 35 * 2 ^ 34, vals.getD 1 0] s
  else s

/-- The records of a bundle of task t at address a that has retired as number `cnt`; `goes` is where it was taken to. -/
def traceRetire (p t a cnt : Nat) (goes : Option Nat) (wx : Nat) (vals : List Nat) (s : State) : State :=
  if srcOn s p t && cmpMatch s p t a 2 then setSrc p t false (genRecord p t 0x3 a cnt [] s)
  else if !srcOn s p t && rdB s (FTF_SRC_en.ix t) p && cmpMatch s p t a 1 then genRecord p t 0x2 a cnt [] (setSrc p t true s)
  else if srcOn s p t && cmpAdmits s p t a then
    let s1 := if rd s (FTF_SRC_mode.ix t) p = 1 then genRecord p t 0x1 a cnt [] s
      else match goes with
        | some d => genRecord p t 0x1 d cnt [] s
        | none => s
    traceX p t a cnt wx vals s1
  else s

/-- A precise exception with its EXC record. -/
def raiseExc (p t a slot code sub : Nat) (s : State) : State :=
  let s1 := preciseExc p t slot sub code s
  if srcOn s1 p t && cmpAdmits s1 p t a then
    genRecord p t 0x6 a (rd s1 (LEA_TRET_retired.ix t) p) [regNat s1 (LEA_TEXC_code.ix t) p] s1
  else s1

/-- The crook trigger of retired mode (R646). -/
def crookRetired (p t a cnt : Nat) (s : State) : State :=
  if rdB s FTF_CROOK_en p ∧ rd s FTF_CROOK_mode p = 0 ∧ rd s FTF_CROOK_task p = t ∧ rd s FTF_CROOKN_n p = cnt then
    match lcore s p, pcorePdk s p with
    | some c, some n => crookFire n (relIndex s n c) false 0 (if srcOn s p t then genRecord p t 0x7 a cnt [] s else s)
    | _, _ => s
  else s

/-! ### Issue -/

/-- An M, V or X slot enters its queue with the next dispatch number and its operands (R139, R140). -/
def dispatch (p : Nat) (u : QUnit) (t a bun w : Nat) (vals : List Nat) (s : State) : State :=
  coreMod p (fun c =>
    let e : QEnt := { disp := c.nextDisp, bun := bun, task := t, pc := a, slot := w, vals := vals, started := false,
                      passed := false, startCyc := 0, committed := false, prog := 0, prog2 := 0, answered := false, ans := [],
                      abandoned := false, got := [], load := [], turn := 0, mark := false, part := 0, fail := [] }
    qPut u (qGet c u ++ [e]) { c with nextDisp := c.nextDisp + 1 }) s

/-- Dispatch a slot that is on; a Whistle operation also changes the issued state of its entry (R397). -/
def dispatchSlot (p : Nat) (u : QUnit) (t a bun w : Nat) (on : Bool) (vals : List Nat) (s : State) : State :=
  if on then (if u = .x then whsIssue p w (dispatch p u t a bun w vals s) else dispatch p u t a bun w vals s) else s

/-- Task t goes on at address `next` (R143). Where that is 2,048 the pc shows 0x7FF, also after a LOOP with count 0 whose end is
0x7FF and which stands elsewhere (DEDUCED, log 102). -/
def setPc (p t next : Nat) (s : State) : State :=
  coreMod p (fun c => { c with past := natSetBit c.past t (decide (2048 ≤ next)) })
    (wr (LEA_TSTAT_pc.ix t) p (Nat.min next 2047) s)

/-- The bundle issues: operands and guards of the state before it, the S slot's effect, the dispatches, the next address, the
retirement with its records (R137, R143, R144). A HALT counts loop counters that end at it, and its next address is a + 1 all the
same, as its table row says (DEDUCED, log 82). -/
def issueBundle (p t a b : Nat) (bs : List Nat) (s : State) : State :=
  let regs (k : List Nat) : List Nat := k.map (gGet s p t)
  let onM := slotOn s p t (slotM b)
  let onV := slotOn s p t (slotV b)
  let onX := slotOn s p t (slotX b)
  let vm := regs (mReads (slotM b))
  let vv := regs (vReads (slotV b))
  let vx := regs (xReads (slotX b))
  let bun := (coreGet s p).bundles
  let so : SOut := if slotOn s p t (slotS b) then sEffect p t a (slotS b) bs s else ⟨none, false, s⟩
  let s1 := coreMod p (fun c => { c with bundles := c.bundles + 1 }) so.st
  let s2 := dispatchSlot p .x t a bun (slotX b) onX vx
    (dispatchSlot p .v t a bun (slotV b) onV vv (dispatchSlot p .m t a bun (slotM b) onM vm s1))
  let cnt := (rd s2 (LEA_TRET_retired.ix t) p + 1) % 2 ^ 64
  let s3 := wr (LEA_TRET_retired.ix t) p cnt s2
  let lp : Option Nat × State := if so.jump.isSome then (none, s3) else loopRule p t a 4 s3
  let goes := match so.jump with
    | some d => some d
    | none => if so.halt then none else lp.1
  let s4 := setPc p t (goes.getD (a + 1)) lp.2
  let s5 := if so.jump.isSome then coreMod p (fun c => { c with bubble := mapSet 0 c.bubble t (c.cyc + 2) }) s4 else s4
  let s6 := if so.halt then haltTask p t 1 s5 else s5
  crookRetired p t a cnt (traceRetire p t a cnt goes (if onX then slotX b else 0) vx s6)

/-- The bytes a narrow load or a DLD of task t delivers: those of a word a macro-operation wrote are arbitrary until a FENCE or a
Tally wait orders the write before the load (R147; log 104). -/
def sDeliver (p t off : Nat) (bs : List Nat) (s : State) : List Nat × State :=
  let bun := (coreGet s p).bundles
  if (wordsOf off bs.length).any (fun w => spUnordered s p w 0 t bun) then
    let r := freshBlock s
    (bs.zipIdx.map (fun x => if spUnordered s p ((off + x.2) / 8) 0 t bun
      then (Config.freeWord r.1 ((off + x.2) / 8)).toNat / 2 ^ (8 * ((off + x.2) % 8)) % 256 else x.1), r.2)
  else (bs, s)

/-- The chosen task issues or raises a precise exception (R137, R143, R150, R151). -/
def issueTask (p t : Nat) (s : State) : State :=
  let a := rd s (LEA_TSTAT_pc.ix t) p
  if taskPast s p t then raiseExc p t a 0 0x05 0 s
  else match fetchOf s p t with
    | (.uncorrectable, _) => raiseExc p t a 0 0x07 0 s
    | (o, b) =>
      let s1 := if o = .corrected then bump (WLK_FETCHCE_count.ix (p / 0x200)) 0 s else s
      match bundleCheck s1 p t a b with
      | some (slot, code, sub) => raiseExc p t a slot code sub s1
      | none =>
        let w := slotS b
        if slotOn s1 p t w && sLoads (slotOp w) then
          let r := spReadBytes p (taskBase s1 p t + sAddr s1 p t w) (sSize (slotOp w)) 0 t s1
          if r.1 then raiseExc p t a 0 0x08 0 r.2.2
          else
            let x := sDeliver p t (taskBase s1 p t + sAddr s1 p t w) r.2.1 r.2.2
            issueBundle p t a b x.1 x.2
        else issueBundle p t a b [] s1

/-! ### The cycle -/

/-- The condition a head-stall operation waits for holds (R141, R315, R398, R427). -/
def xCondition (s : State) (p : Nat) (e : QEnt) : Bool :=
  let op := e.op
  if op = 0x10 then ctxReady s (strmCtx p e.slot)
  else if op = 0x11 then ctxReady s (strmCtx p e.slot) && taskDrained s p e.task e.bun
  else if op = 0x20 then sendFree s p e
  else if op = 0x21 then csendFree s p e
  else if op = 0x25 then !(rqGet s p (whQ e.slot)).isEmpty
  else if op = 0x30 then released s p e
  else if op = 0x31 then e.answered
  else true

/-- The head of the X queue waits on its condition (R141). -/
def xHeadStalls (s : State) (p : Nat) : Bool :=
  match xHead s p with
  | some e => !xCondition s p e
  | none => false

/-- Bump a count where a condition holds. -/
def bumpIf (b : Bool) (f : Fld) (i : Nat) (s : State) : State := if b then bump f i s else s

/-- The tasks in the order a cycle examines them (R132). -/
def taskOrder (s : State) (p : Nat) : List Nat := (List.range 4).map (fun i => ((coreGet s p).last + 1 + i) % 4)

/-- Every running task shows as running, or as stalled while it is not ready (R130). -/
def showTasks (p : Nat) (ks : List (Nat × Stall)) (s : State) : State :=
  ks.foldl (fun s k => wr (LEA_TSTAT_state.ix k.1) p (if k.2.ready then 1 else 2) s) s

/-- The task chosen of those that could issue does so (R132). -/
def cycleIssue (p : Nat) (ks : List (Nat × Stall)) (s : State) : State :=
  match ks.find? (fun k => k.2.ready) with
  | none => s
  | some k => issueTask p k.1 (coreMod p (fun c => { c with last := k.1 }) s)

/-- One core cycle of core p: the counts of stalls, the mesh engines, the choice of a task and its issue (R132, R133). -/
def coreCycle (p : Nat) (s : State) : State :=
  let s1 := meshCycle p (confCycle p (coreMod p (fun c => { c with cyc := c.cyc + 1 }) s))
  let ks := ((taskOrder s1 p).filter (fun t => taskState s1 p t != 0)).map (fun t => (t, taskStall s1 p t))
  let s2 := bumpIf (ks.any (fun k => k.2.m)) LEA_MSAT_count p (bumpIf (ks.any (fun k => k.2.v)) LEA_VSAT_count p
    (bumpIf (ks.any (fun k => k.2.x)) LEA_XSAT_count p (bumpIf (xHeadStalls s1 p) LEA_XHEAD_count p
      (bumpIf (sendWaits s1 p) WHS_SSAT_count p (bumpIf (mWaits s1 p) LEA_MWAIT_count p (bumpIf (vWaits s1 p) LEA_VDEP_count p s1))))))
  cycleIssue p ks (showTasks p ks s2)

/-- BUNDLE_ISSUE: a core cycle of core c. -/
def execBundleIssue (c : Nat) (s : State) : Result := .next (coreCycle (pcore s c) s)

/-! ### Starts and stops (R130, R131, LEA_TCTL) -/

/-- Task t starts at its entry: loop counters inactive, retired count 0, no exception held. A section start clears
LEA_TEXC.valid as a start by LEA_TCTL does (DESIGN CHOICE, log 103). -/
def startTask (p t : Nat) (s : State) : State :=
  let s1 := iter 4 (fun k s => wr (LEA_TLOOP_active.ix2 t k) p 0 s) s
  wr (LEA_TSTAT_state.ix t) p 1 (wr (LEA_TEXC_valid.ix t) p 0 (wr (LEA_TRET_retired.ix t) p 0
    (setPc p t (rd s (LEA_TENTRY_entry.ix t) p) (coreMod p (fun c => { c with bubble := mapSet 0 c.bubble t 0 }) s1))))

/-- TASK_START: a halted task runs from its entry. -/
def execTaskStart (c task : Nat) (s : State) : Result :=
  let p := pcore s c
  let t := task % 4
  .next (if taskState s p t = 0 then startTask p t s else s)

/-- A halted task runs from its pc (R164). -/
def resumeTask (p t : Nat) (s : State) : State :=
  if taskState s p t = 0 then wr (LEA_TSTAT_state.ix t) p 1 (wr (LEA_TEXC_valid.ix t) p 0 s) else s

/-- TASK_RESUME. -/
def execTaskResume (c task : Nat) (s : State) : Result := .next (resumeTask (pcore s c) (task % 4) s)

/-- A task halts before its next issue with stop reason 3 (R157). -/
def stopTask (p t : Nat) (s : State) : State := if taskState s p t = 0 then s else haltTask p t 3 s

/-- TASK_STOP. -/
def execTaskStop (c task : Nat) (s : State) : Result := .next (stopTask (pcore s c) (task % 4) s)

/-! ### Completion of X operations (R139, R269, R274, R316, R398, R427, R460, R640) -/

/-- FTF_MARK: the mark starts on the Whistle engine at once (R640). -/
def execFtfMark (c : Nat) (s : State) : Result := .next (xStart 0x50 c (fun _ _ _ => true) (fun _ _ s => s) s)

/-- The operation an engine holds has completed: mesh operations when they are done, STRM operations 2 cycles after their
start, a mark 1 cycle after, connection operations 2 cycles after; the others when their answer has come. -/
def xComplete (s : State) (p : Nat) (e : QEnt) : Bool :=
  let op := e.op
  let cyc := (coreGet s p).cyc
  if op ≤ 0x03 then meshDone s p e
  else if op ≤ 0x13 then e.startCyc + 2 ≤ cyc
  else if op = 0x50 then e.startCyc + 1 ≤ cyc
  else if 0x22 ≤ op ∧ op ≤ 0x24 then e.startCyc + 2 ≤ cyc
  else e.answered && e.startCyc < cyc

/-- X_OP_COMPLETE: the operation engine `eng` holds completes and leaves the X queue. A TLY.WAIT completes by its answer. -/
def execXOpComplete (c eng : Nat) (s : State) : Result :=
  let p := pcore s c
  .next (match xHeld s p eng with
  | none => s
  | some e =>
    if e.op = 0x31 ∨ !xComplete s p e then s
    else if e.op ≤ 0x03 then meshFinish p e s
    else qFree p .x e.disp s)

end Sys2Proof.Machine
end

