-- ==== Sys2Proof/Machine/Sink.lean ====
section
/-! DEFINITION. The trace sink (spec/20_footfall.md R641-R649, R653-R657): lines delivered into buffers, flushes, the end of a
crook stop, dumps. `n` is a paddock. -/

namespace Sys2Proof.Machine

/-- The header of a trace line (R641). -/
def lineHeader (s : State) (p n : Nat) (words : List Nat) : Nat :=
  let idx := match lcore s p with
    | some c => relIndex s n c
    | none => 0
  p + idx % 2 ^ 11 * 2 ^ 12 + 8 * words.length * 2 ^ 24 + (coreGet s p).trDropped % 2 ^ 32 * 2 ^ 32

/-- The 64 bytes of a line, padded. -/
def lineBytes (s : State) (p n : Nat) (words : List Nat) : List Nat :=
  leBytes 8 (lineHeader s p n words) ++ (words ++ List.replicate (7 - words.length) 0).flatMap (leBytes 8)

/-- The sink accepts: no fault stands and the ring has room (R644). -/
def sinkAccepts (s : State) (n : Nat) : Bool := !rdB s FTF_PSTAT_sink_fault (ftfI s n) && ringHeld s n < ringSize s n

/-- A sink that begins to refuse notes the time; one that accepts again counts the microseconds it did not (FTF_SINKWAIT). -/
def sinkRefuses (n : Nat) (s : State) : State :=
  if (sinkGet s n).since = 0 then sinkMod n (fun k => { k with since := s.now + 1 }) s else s
def sinkServes (n : Nat) (s : State) : State :=
  let t := (sinkGet s n).since
  if t = 0 then s
  else addSat FTF_SINKWAIT_count (ftfI s n) ((s.now + 1 - t) / 100) (sinkMod n (fun k => { k with since := 0 }) s)

/-- The sink has a buffer to fill: it gets one from FTF_RPOOL's pool with service 1 and the paddock's brand (R643). -/
def sinkBuffer (n : Nat) (s : State) : Bool × State :=
  if !(sinkGet s n).buf.isEmpty then (true, s)
  else
    let d := rd s FTF_RPOOL_die (ftfI s n)
    let j := rd s FTF_RPOOL_pool (ftfI s n)
    let r := byreGetBy 11 d j (pdkBrand n) (reqService 1) s
    if r.1.status = 0 then
      (true, sinkMod n (fun k => { k with buf := [d, j, r.1.buf], used := 0, sect := (pdkGet s n).sections, close := 0 }) r.2)
    else (false, r.2)

/-- The oldest closed line of core p; in a flush the open one where no closed one is left. -/
def lineOf (s : State) (p n : Nat) : Option (List Nat) :=
  let c := coreGet s p
  match c.trLines with
  | ws :: _ => some ws
  | [] => if (sinkGet s n).flush && !c.trOpen.isEmpty then some c.trOpen else none

/-- A line leaves its FIFO. -/
def lineGone (p : Nat) (s : State) : State :=
  trShow p (coreMod p (fun c => if c.trLines.isEmpty then { c with trOpen := [], trDropped := 0 }
    else { c with trLines := c.trLines.drop 1, trDropped := 0 }) s)

/-- The sink writes a line; a buffer without room for another closes (R643). -/
def sinkLine (n p : Nat) (ws : List Nat) (s : State) : State :=
  let k := sinkGet s n
  let size := poolSize s (k.buf.headD 0) (k.buf.getD 1 0)
  let bs := lineBytes s p n ws
  let x := sinkXact s n 0 (sinkVa s k + k.used) bs
  sinkMod n (fun k => { k with used := k.used + 64, close := if size < k.used + 128 then 1 else k.close })
    (lineGone p { s with fab := s.fab ++ [x] })

/-- TRACE_LINE_DELIVER: the sink accepts the next line of core c (R641, R643, R644, R657). -/
def execTraceLineDeliver (c : Nat) (s : State) : Result :=
  let p := pcore s c
  .next (match corePdk s c with
  | none => s
  | some n => match lineOf s p n with
    | none => s
    | some ws =>
      if (sinkGet s n).close ≠ 0 then s
      else if !sinkAccepts s n then sinkRefuses n s
      else
        let r := sinkBuffer n s
        if r.1 then sinkLine n p ws (sinkServes n r.2) else sinkRefuses n r.2)

/-- FLUSH: FTF_PCTL.flush: partial lines and the buffer close (R643, R657). -/
def execFlush (n : Nat) (s : State) : Result :=
  .next (if pdkCreated s n then sinkPump n (sinkMod n (fun k => { k with flush := true }) s) else s)

/-- The buffer closes at a section start (R643). -/
def sinkSection (n : Nat) (s : State) : State :=
  sinkPump n (sinkMod n (fun k => if k.buf.isEmpty then k else { k with close := Nat.max k.close 1 }) s)

/-- SINK_RESUME: a sink that stopped on a fault goes on with the write that faulted (R644). -/
def execSinkResume (n : Nat) (s : State) : Result :=
  let again (x : Xact) : Xact := match x.ret with
    | .sink m _ => if m = n ∧ x.stage = 8 then { x with stage := 0 } else x
    | _ => x
  .next (if pdkCreated s n ∧ rdB s FTF_PSTAT_sink_fault (ftfI s n) then
      wr FTF_PSTAT_sink_fault (ftfI s n) 0 { s with fab := s.fab.map again }
    else s)

/-- CROOK_STOP_DONE: step K3 is complete: the slot counter stands, every line is written and the buffer is closed; stopped is
set and source 11 raised (R647). -/
def execCrookStopDone (n : Nat) (s : State) : Result :=
  .next (if (pdkGet s n).crook = 1 ∧ (!(meshGet s n).running || (meshGet s n).held) ∧ !linesLeft s n ∧ !sinkOut s n ∧
      (sinkGet s n).buf = [] then
      raiseSource n 11 (wr FTF_PSTAT_stopped (ftfI s n) 1
        (sinkMod n (fun k => { k with flush := false }) (pdkMod n (fun x => { x with crook := 2 }) s)))
    else s)

/-- RELEASE: the stopped paddock runs on (R648). -/
def execRelease (n : Nat) (s : State) : Result :=
  .next (if pdkCreated s n ∧ rdB s FTF_PSTAT_stopped (ftfI s n) then crookRelease n s else s)

/-! ### Dumps (R649) -/

/-- DUMP: a dump of a stopped paddock begins; of one that is not stopped it is an error. -/
def execDump (n : Nat) (sp : Bool) (s : State) : Result :=
  .next (if !pdkCreated s n then s
    else if rdB s FTF_PSTAT_stopped (ftfI s n) then sinkMod n (fun k => { k with dump := if sp then 2 else 1 }) s
    else wr FTF_PSTAT_dump_err (ftfI s n) 1 s)

/-- The four bytes of a 32-bit register. -/
def regBytes4 (s : State) (b : Blk) (inst off : Nat) : List Nat := leBytes 4 (rdW s b inst off).toNat
def regBytes8 (s : State) (b : Blk) (inst off : Nat) : List Nat := leBytes 8 (rdW s b inst off).toNat

/-- LEA_CORESTAT (R139, R141): the divider, the X head, the queues, the tasks. -/
def corestat (s : State) (p : Nat) : Nat :=
  let c := coreGet s p
  let bits (f : Nat → Bool) : Nat := (List.range 4).foldl (fun a t => a + b2n (f t) * 2 ^ t) 0
  bits (fun t => taskState s p t != 0) + bits (fun t => taskState s p t == 2) * 2 ^ 4 + c.qm.length % 16 * 2 ^ 8 +
    c.qv.length % 16 * 2 ^ 12 + c.qx.length % 16 * 2 ^ 16 + b2n (xHeadStalls s p) * 2 ^ 20 + b2n (decide (c.cyc < c.divFree)) * 2 ^ 21

/-- Pad a list of bytes to a length. -/
def padTo (n : Nat) (bs : List Nat) : List Nat := bs.take n ++ List.replicate (n - bs.length) 0

/-- The task block of a dump. -/
def dumpTask (s : State) (p t : Nat) : List Nat :=
  padTo 0x300 ((List.range 32).flatMap (fun k => leBytes 8 (gGet s p t k)) ++
    padTo 8 (regBytes4 s .lea p (LEA_TPRED_pred.ix t).off) ++
    (List.range 4).flatMap (fun k => regBytes8 s .lea p (LEA_TLOOP_count.ix2 t k).off) ++
    regBytes4 s .lea p (LEA_TSTAT_pc.ix t).off ++ regBytes4 s .lea p (LEA_TEXC_code.ix t).off ++
    regBytes8 s .lea p (LEA_TRET_retired.ix t).off ++ regBytes4 s .ftf p (FTF_SEQ_seq.ix t).off)

/-- The dump of a core without its scratchpad: 0x2_0000 bytes. -/
def dumpCore (s : State) (n i : Nat) : List Nat :=
  let c := pdkCore s n i
  let p := pcore s c
  let head := leBytes 2 p ++ leBytes 2 i ++ leBytes 4 c ++ leBytes 4 (mshStat s p) ++
    regBytes4 s .msh p MSH_FIFO_inj_occ.off ++ leBytes 4 (corestat s p) ++ [b2n (!queuesEmpty s p)]
  padTo 0x20000 (padTo 0x1000 (padTo 0x100 head ++ (List.range 4).flatMap (dumpTask s p)) ++
    padTo 0x1000 ((List.range 256).flatMap (fun k => leBytes 8 (descGet s p (k / 8) (k % 8)))) ++
    (List.range 4096).flatMap (fun k => leBytes 4 (accGet s p (k / 1024) (k / 32 % 32) (k % 32))) ++
    (List.range 16384).flatMap (fun k => leBytes 4 (tileGet s p (k / 1024) (k / 32 % 32) (k % 32))))

/-- Write bytes page by page through the paddock's root; the first page that does not translate is answered (R649). -/
def dumpWrite (n : Nat) : List (Nat × List Nat) → State → Option Nat × State
  | [], s => (none, s)
  | (va, bs) :: rest, s =>
    let r := translate 11 n va true s
    if r.1.1 ≠ 0 then (some va, r.2)
    else dumpWrite n rest (if r.1.2.1 then emit .hostWrite ([0, r.1.2.2, bs.length] ++ bs) r.2 else memWrite r.1.2.2 bs [] r.2)

/-- The pages of 64 KiB of a core's dump. -/
def dumpPages (s : State) (n i : Nat) (sp : Bool) : List (Nat × List Nat) :=
  let p := pcore s (pdkCore s n i)
  let base := rd s FTF_DUMP_va (ftfI s n) * 65536 + i * (if sp then 0x120000 else 0x20000)
  let bs := dumpCore s n i
  [(base, bs.take 65536), (base + 65536, bs.drop 65536)] ++
    (if sp then (List.range 16).map (fun k => (base + 0x20000 + 65536 * k, spBytes s p (65536 * k) 65536)) else [])

/-- DUMP_DONE: the state of every core has been written, and dumped is set (R649). A page that does not translate is a fault of
the sink; the dump stands until the sink is resumed (R644). -/
def execDumpDone (n : Nat) (s : State) : Result :=
  let k := (sinkGet s n).dump
  .next (if k = 0 ∨ !pdkCreated s n ∨ rdB s FTF_PSTAT_sink_fault (ftfI s n) then s
  else
    let r := dumpWrite n ((List.range (pdkCount s n)).flatMap (fun i => dumpPages s n i (k == 2))) s
    match r.1 with
    | some va => faultRecord (n + 1) 0x50 11 [va] (wr FTF_PSTAT_sink_fault (ftfI s n) 1 (bump PST_TRFAULT_count 11 r.2))
    | none => wr FTF_PSTAT_dumped (ftfI s n) 1 (sinkMod n (fun k => { k with dump := 0 }) r.2))

end Sys2Proof.Machine
end

