-- ==== Sys2Proof/Machine/Access.lean ====
section
/-! DEFINITION. A register write inside a block instance (spec/01_device.md R4-R11, spec/02_package_grid.md R56-R66, R823):
the idle units, what a block refuses, the change classes. `b`, `inst` and `off` name a register. -/

namespace Sys2Proof.Machine

/-! ### Idle units (R61) -/

/-- The route program of physical core p runs. -/
def routerRuns (s : State) (p : Nat) : Bool :=
  match pcorePdk s p with
  | some n => (meshGet s n).running
  | none => false

/-- The router is idle: no route program, FIFOs empty. -/
def routerIdle (s : State) (p : Nat) : Bool := !routerRuns s p && (coreGet s p).inj.isEmpty && (coreGet s p).ej.isEmpty

/-- A stream context is idle: unarmed or halted, nothing outstanding. -/
def ctxIdle (s : State) (g : Nat) : Bool := ctxState s g != ctxArmed && ctxOutst s g == 0

/-- A receive queue is idle: empty, and no connection that listens or receives lands in it (DEDUCED, log 26). -/
def queueIdle (s : State) (p q : Nat) : Bool :=
  (rqGet s p q).isEmpty && !(List.range 64).any (fun k =>
    let st := cn WHS_CONN_state s p k
    let w := mapGet 0 s.landings (64 * p + k)
    (st == cnListening || st == cnReceiver) && w != 0 && natBits (w - 1) 3 1 == q)

/-- The whole Whistle instance is idle. -/
def whsIdle (s : State) (p : Nat) : Bool :=
  (List.range 64).all (fun k => cn WHS_CONN_state s p k == cnClosed) && (List.range 8).all (queueIdle s p)

/-- The sink of a paddock is idle (spec/20_footfall.md, Registers). -/
def sinkIdle (s : State) (n : Nat) : Bool :=
  !linesLeft s n && (pdkPcores s n).all (fun p => rd s FTF_STAT_on p == 0)

/-- A paddock is not serving: Free or Ready, or regathered and not yet restarted: Stranded, or from G5 to G7 (R61). -/
def pdkIdle (s : State) (n : Nat) : Bool := pdkState s n ≤ 1 || pdkState s n == 5 || 5 ≤ (pdkGet s n).step

/-- A get of pool j of Byre d waits or is on its way. -/
def getPending (s : State) (d j : Nat) : Bool := s.byrQ.any (fun r => !r.put && r.d == d && r.pool == j)

/-- The die of an end of a Whistle packet: a logical core, or 4,096 + die for a Tally unit and for H0. -/
def endDie (c : Nat) : Nat := if 4096 ≤ c then c - 4096 else coreDie c

/-- The die whose target a request of the fabric has set out for; none while it stands at its entry. -/
def xactAt (s : State) (x : Xact) : Option Nat :=
  if x.stage = 10 then some (portDie (portOf s x.tab).1)
  else if x.stage ≠ 2 ∧ x.stage ≠ 3 then none
  else if x.host then some 10
  else some (portDie (portOf s x.pa).1)

/-- A packet of a brand is outstanding at a target of a die: a data request, a Tally or Whistle packet, a Byre operation, an access
that waits at a column gate. -/
def brandOut (s : State) (die brand : Nat) : Bool :=
  s.fab.any (fun x => x.brand == brand && xactAt s x == some die) ||
  s.tlyQ.any (fun k => k.brand == brand && k.unit == die) ||
  s.whsQ.any (fun m => m.brand == brand && endDie m.dst == die) ||
  s.byrQ.any (fun r => r.brand == brand && 8 + r.d == die) ||
  s.accWaits.any (fun a => a.brand == brand && a.die == die)

/-- A packet is in flight through the Pasture port of a die: it set out there, or it is on its way to a target there. -/
def portBusy (s : State) (die : Nat) : Bool :=
  s.fab.any (fun x => x.stage != 4 && (x.die == die || xactAt s x == some die)) ||
  s.tlyQ.any (fun k => k.die == die || k.unit == die) ||
  s.whsQ.any (fun m => endDie m.src == die || endDie m.dst == die) ||
  s.byrQ.any (fun r => r.pcoreId / 0x200 == die || 8 + r.d == die) ||
  s.accWaits.any (fun a => a.die == die)

/-- A PMBus or IVR step is in progress: a rail is being tried again, or a step of class 0x10 is under way, which is complete before
phase 1 (R582, R592). -/
def rationSteps (s : State) : Bool := !s.pmTry.isEmpty || (s.bell.phasesRun == 1 && decide (s.now < s.ration.stepEnd))

/-- The idle unit of a register is idle. -/
def unitIdle (s : State) (b : Blk) (inst off : Nat) : Bool :=
  match b with
  | .lea => coreIdle s inst
  | .msh => routerIdle s inst
  | .drvC => ctxIdle s (32 * inst + off / 0x80 % 32)
  | .drvF => ctxIdle s (131072 + 16384 * inst + off / 0x80 % 16384)
  | .whs =>
    if 0x40 ≤ off ∧ off < 0xC0 then queueIdle s inst (rd s (WHS_TBIND_queue.ix ((off - 0x40) / 8)) inst) else whsIdle s inst
  | .ftf =>
    if off < 0x14 then !srcOn s inst (off / 4)
    else if off < 0x40 then (List.range 4).all (fun u => !srcOn s inst u)
    else match pcorePdk s inst with
      | some n => sinkIdle s n
      | none => true
  | .byr => !poolCreated s inst (off / 0x40 % 256) && !getPending s inst (off / 0x40 % 256)
  | .fld => (List.range 64).all (fun n => rd s (FLD_PSTAT_busy.ix n) 0 == 0)
  | .wlk => !rdB s WLK_STAT_busy 0
  | .pdk => if off < 0x10 ∨ (0x60 ≤ off ∧ off < 0x80) then pdkState s inst == 0 else pdkIdle s inst
  | .bel => belIdle s
  | .rtn | .rtnA => !rationSteps s
  | .fbk => s.fbk.write.isNone
  | .shp => !rdB s SHP_MBSTAT_busy 0
  | .sec => !rdB s SEC_VERIFY_busy 0
  | .mem => !rdB s MEM_STAT_trained inst || rdB s MEM_STAT_self_refresh inst
  | .ltk =>
    if 0x400 ≤ off ∧ off < 0x2000 then (List.range 8).all (fun q => !rdB s LTK_PCFG_admin_up q) else !rdB s LTK_PCFG_admin_up inst
  | .hst =>
    if 0x108000 ≤ off then !vfExists s ((off - 0x108000) / 0x8000) else rd s HST_LINK_state 0 != 0
  | .gat | .gatM | .gatK | .gatH =>
    !brandOut s (dieOf b inst) (fieldGet (rdW s b inst off) 7 0)
  | .pst | .pstM | .pstH => !portBusy s (dieOf b inst)
  | _ => true
where
  /-- The timebase is Stopped. -/
  belIdle (s : State) : Bool := rd s BEL_STATUS_state 0 == 0

/-! ### A write -/

/-- Software can write the field. -/
def FieldD.writable (f : FieldD) : Bool := f.acc == .rw || f.acc == .w1c || f.acc == .wo

/-- A class among the writable fields. -/
def hasClass (r : RegD) (c : Chg) : Bool := r.fields.any (fun f => f.writable && f.chg == c)

/-- The word after a write of `data`: RW fields take it, W1C bits clear, the others keep their value (R4, R7). -/
def mergeWrite (fs : List FieldD) (old data : Word) : Word :=
  fs.foldl (fun w f =>
    match f.acc with
    | .rw => fieldPut w f.hi f.lo (fieldGet data f.hi f.lo)
    | .w1c => BitVec.ofNat 64 (Nat.land w.toNat (2 ^ 64 - 1 - Nat.land data.toNat (2 ^ (f.hi + 1) - 2 ^ f.lo)))
    | _ => w) old

/-- Some field of a class would change. -/
def changes (fs : List FieldD) (c : Chg) (old new : Word) : Bool :=
  fs.any (fun f => f.chg == c && fieldGet old f.hi f.lo != fieldGet new f.hi f.lo)

/-- Values a register does not take: the write is refused with reason Idle class. -/
def badValue (b : Blk) (off : Nat) (w : Word) : Bool :=
  match b with
  | .lea => 0x20 ≤ off && off < 0x30 && decide (4096 < fieldGet w 27 16 + fieldGet w 12 0)
  | .whs => 0x08 ≤ off && off < 0x18 && decide (4096 < fieldGet w 11 0 + fieldGet w 24 12)
  | .ltk => off == 0 && fieldGet w 1 0 == 3
  | _ => false

/-- Registers that take no write where they stand: entry 0 of LEA_TG, paddock-wide fields of an FTF_ instance that is not
the paddock's first, registers of LTK_ instance 0 in the others. -/
def deadRegister (s : State) (b : Blk) (inst off : Nat) : Bool :=
  match b with
  | .lea => 0x800 ≤ off && off < 0xC00 && off % 0x100 == 0
  | .ftf => 0x800 ≤ off && off < 0x900 && (match pcorePdk s inst with
      | some n => ftfI s n != inst
      | none => true)
  | .ltk => inst != 0 && 0x400 ≤ off && off < 0x2000
  | _ => false

/-- Bits a write always leaves set: p0 of LEA_TPRED. -/
def forcedBits (b : Blk) (off : Nat) (w : Word) : Word :=
  match b with
  | .lea => if 0xC00 ≤ off ∧ off < 0xD00 ∧ off % 0x40 = 0 then w ||| 1 else w
  | _ => w

/-- A write of the Fixed class comes too late (R5, R62; PST_MEMMAP also once a paddock exists). -/
def fixedGone (s : State) (b : Blk) (inst off : Nat) : Bool :=
  mapGet false s.fixedDone (regKey b inst off) || (blkType b == 4 && off == 0x1000 && !(pdksCreated s).isEmpty)

/-- The stream context a register of Rearm class configures, where it stands in a context's entry (R60). -/
def rearmCtx (b : Blk) (inst off : Nat) : Option Nat :=
  match b with
  | .drvC => some (32 * inst + off / 0x80 % 32)
  | .drvF => some (131072 + 16384 * inst + off / 0x80 % 16384)
  | _ => none

/-- A Rearm-class write waits: for the next re-arm of an armed or halted stream, or the section start of the owner (R60); one to an
Unarmed context takes effect at once (R330). -/
def rearmWaits (s : State) (b : Blk) (inst off : Nat) : Bool :=
  match rearmCtx b inst off with
  | some g => ctxState s g != ctxUnarmed
  | none => true

/-- Store a word of a register by its change class (R5, R8, R57). R57 gives a register one class, and the tables give WLK_CFG fields
of Live and of Bell class: there each field follows its own class (DESIGN CHOICE, log 101). -/
def storeClass (b : Blk) (inst off : Nat) (r : RegD) (w : Word) (s : State) : State :=
  let key := regKey b inst off
  let old := rdW s b inst off
  let s1 := wrW b inst off w s
  if hasClass r .fixed then { s1 with fixedDone := mapSet false s1.fixedDone key true }
  else if hasClass r .bell ∧ changes r.fields .bell old w then bellWaits key old s1
  else if hasClass r .rearm ∧ rearmWaits s b inst off then
    (match mapFind s.rearmPend key with
     | some _ => s1
     | none => { s1 with rearmPend := mapInsert s1.rearmPend key old })
  else s1

/-- Would the block refuse a write of a register, and why (R6, R61). A register whose fields are of several classes is
refused only where an Idle field would change (DEDUCED, log 25). -/
def writeRefusal (s : State) (b : Blk) (inst off : Nat) (r : RegD) (data : Word) : Option RefuseReason :=
  let new := mergeWrite r.fields (rdW s b inst off) data
  if deadRegister s b inst off then none
  else if hasClass r .fixed ∧ fixedGone s b inst off then some .fixed
  else if hasClass r .idle ∧ !unitIdle s b inst off ∧
      ((!hasClass r .live && !hasClass r .bell) || changes r.fields .idle (rdW s b inst off) new) then some .idle
  else if badValue b off new then some .idle
  else none

/-- An accepted write. -/
def writeTakes (b : Blk) (inst off : Nat) (r : RegD) (data : Word) (s : State) : State :=
  if deadRegister s b inst off then s
  else storeClass b inst off r (forcedBits b off (mergeWrite r.fields (rdW s b inst off) data)) s

/-- A write of the register at an offset, of the register's own width: taken or refused; a reserved offset is ignored
(R823). Answers whether it was refused. -/
def plainWrite (brand : Nat) (b : Blk) (inst off : Nat) (data : Word) (s : State) : Bool × State :=
  match regAt b off with
  | none => (false, s)
  | some (r, base) =>
    match writeRefusal s b inst base r data with
    | some why => (true, refuseWrite b inst why brand base s)
    | none => (false, writeTakes b inst base r data s)

/-! ### Commands of stream contexts and tasks by register (R305, R324, R331, LEA_TCTL) -/

/-- A write of DRV_CTL of context g: with more than one bit set halt alone acts. -/
def drvCtl (g data : Nat) (s : State) : State :=
  let bits := natBits data 3 0
  if bits = 1 then armCtx g s
  else if natBit bits 1 then haltByCommand g s
  else if bits = 4 then resumeCtx g s
  else if bits = 8 then rearmRequest g s
  else s

/-- A write of DRV_REARM, DRV_RESUME or a word of DRV_FREARM, DRV_FRESUME: one context for each set bit from context `lo`. -/
def drvBits (op : Nat → State → State) (lo data : Nat) (s : State) : State :=
  iter 32 (fun k s => if natBit data k then op (lo + k) s else s) s

/-- A write of LEA_TCTL of task t: with more than one bit set stop alone acts. -/
def tctlWrite (p t data : Nat) (s : State) : State :=
  let bits := natBits data 2 0
  if natBit bits 2 then stopTask p t s
  else if bits = 1 then (if taskState s p t = 0 then startTask p t s else s)
  else if bits = 2 then resumeTask p t s
  else s

/-- A write to a register of a core window or a far instance: the commands above, else a plain write. -/
def unitWrite (brand : Nat) (b : Blk) (inst off : Nat) (data : Word) (s : State) : Bool × State :=
  let d := data.toNat
  match b with
  | .lea =>
    if 0x30 ≤ off ∧ off < 0x40 then (false, tctlWrite inst ((off - 0x30) / 4) d s)
    else
      let r := plainWrite brand b inst off data s
      (r.1, if off = 0x200 then spcfgTaken inst (rd s LEA_SPCFG_hash inst) r.2 else r.2)
  | .drvC =>
    if off < 0x1000 ∧ off % 0x80 = 0x40 then (false, drvCtl (32 * inst + off / 0x80) d s)
    else if off = 0x1000 then (false, drvBits rearmRequest (32 * inst) d s)
    else if off = 0x1004 then (false, drvBits resumeCtx (32 * inst) d s)
    else plainWrite brand b inst off data s
  | .drvF =>
    if off < 0x200000 ∧ off % 0x80 = 0x40 then (false, drvCtl (131072 + 16384 * inst + off / 0x80) d s)
    else if 0x200000 ≤ off ∧ off < 0x200800 then (false, drvBits rearmRequest (131072 + 16384 * inst + 8 * (off - 0x200000)) d s)
    else if 0x201000 ≤ off ∧ off < 0x201800 then (false, drvBits resumeCtx (131072 + 16384 * inst + 8 * (off - 0x201000)) d s)
    else plainWrite brand b inst off data s
  | _ => plainWrite brand b inst off data s

/-- The block of a core window at an offset below 0x6000, and the offset in it (R55). -/
def windowBlock (o : Nat) : Blk × Nat :=
  if o < 0x1000 then (.lea, o) else if o < 0x2000 then (.msh, o - 0x1000) else if o < 0x4000 then (.drvC, o - 0x2000)
  else if o < 0x5000 then (.whs, o - 0x4000) else (.ftf, o - 0x5000)

end Sys2Proof.Machine
end

