-- ==== Sys2Proof/Machine/Crypto.lean ====
section
/-! DEFINITION. SHA-384 and the verification of an ECDSA signature over curve P-384 (R479; FIPS 180-4, FIPS 186-5 and SP
800-186, which the spec names). Numbers are read from bytes big-endian. -/

namespace Sys2Proof.Machine

/-- Big-endian bytes as a number, and a number as n bytes. -/
def beNat (bs : List Nat) : Nat := bs.foldl (fun a b => a * 256 + b % 256) 0
def beBytes (n v : Nat) : List Nat := (leBytes n v).reverse

/-! ### SHA-384 -/

/-- The largest r below 2^(bit + 1) times the given root part with r^k at most n. -/
def rootBits (k n : Nat) : Nat → Nat → Nat
  | 0, r => r
  | b + 1, r => rootBits k n b (if (r + 2 ^ b) ^ k ≤ n then r + 2 ^ b else r)

/-- The first n primes. -/
def primesUpTo (m : Nat) : List Nat :=
  (List.range (m + 1)).filter (fun p => 2 ≤ p && (List.range p).all (fun d => d < 2 || p % d != 0))
def shaPrimes : List Nat := (primesUpTo 409).take 80

/-- Round constants: the first 64 bits of the fractions of the cube roots of the first 80 primes. -/
def shaK : List Nat := shaPrimes.map (fun p => rootBits 3 (p * 2 ^ 192) 68 0 % 2 ^ 64)

/-- Initial state: the first 64 bits of the fractions of the square roots of the ninth to sixteenth primes. -/
def shaInit : List Nat := ((shaPrimes.drop 8).take 8).map (fun p => rootBits 2 (p * 2 ^ 128) 68 0 % 2 ^ 64)

/-- Rotation and shift to the right of a 64-bit word. -/
def rotr (w k : Nat) : Nat := w / 2 ^ k + w % 2 ^ k * 2 ^ (64 - k)

/-- The schedule of one block: 16 words extended to 80, newest first. -/
def shaExtend : Nat → List Nat → List Nat
  | 0, ws => ws
  | n + 1, ws =>
    let s0 := ws.getD 14 0
    let s1 := ws.getD 1 0
    let a := Nat.xor (Nat.xor (rotr s0 1) (rotr s0 8)) (s0 / 2 ^ 7)
    let b := Nat.xor (Nat.xor (rotr s1 19) (rotr s1 61)) (s1 / 2 ^ 6)
    shaExtend n ((ws.getD 15 0 + a + ws.getD 6 0 + b) % 2 ^ 64 :: ws)

/-- One round. -/
def shaRound (st : List Nat) (kw : Nat × Nat) : List Nat :=
  let a := st.getD 0 0
  let b := st.getD 1 0
  let c := st.getD 2 0
  let e := st.getD 4 0
  let f := st.getD 5 0
  let g := st.getD 6 0
  let s1 := Nat.xor (Nat.xor (rotr e 14) (rotr e 18)) (rotr e 41)
  let ch := Nat.xor (Nat.land e f) (Nat.land (2 ^ 64 - 1 - e) g)
  let t1 := st.getD 7 0 + s1 + ch + kw.1 + kw.2
  let s0 := Nat.xor (Nat.xor (rotr a 28) (rotr a 34)) (rotr a 39)
  let maj := Nat.xor (Nat.xor (Nat.land a b) (Nat.land a c)) (Nat.land b c)
  [(t1 + s0 + maj) % 2 ^ 64, a, b, c, (st.getD 3 0 + t1) % 2 ^ 64, e, f, g]

/-- One block of 128 bytes. -/
def shaBlock (ks st : List Nat) (bs : List Nat) : List Nat :=
  let ws := (List.range 16).map (fun k => beNat ((bs.drop (8 * k)).take 8))
  let st1 := (ks.zip (shaExtend 64 ws.reverse).reverse).foldl shaRound st
  (st.zip st1).map (fun x => (x.1 + x.2) % 2 ^ 64)

/-- All blocks. -/
def shaBlocks (ks : List Nat) : Nat → List Nat → List Nat → List Nat
  | 0, _, st => st
  | n + 1, bs, st => shaBlocks ks n (bs.drop 128) (shaBlock ks st (bs.take 128))

/-- The SHA-384 digest of bytes: 48 bytes. -/
def sha384 (bs : List Nat) : List Nat :=
  let pad := (128 - (bs.length + 17) % 128) % 128
  let m := bs ++ [0x80] ++ List.replicate pad 0 ++ beBytes 16 (8 * bs.length)
  ((shaBlocks shaK (m.length / 128) m shaInit).flatMap (beBytes 8)).take 48

/-! ### P-384 -/

def p384P : Nat := 2 ^ 384 - 2 ^ 128 - 2 ^ 96 + 2 ^ 32 - 1
def p384N : Nat := 2 ^ 384 - 0x389CB27E0BC8D220A7E5F24DB74F58851313E695333AD68D
def p384B : Nat := 0xB3312FA7E23EE7E4988E056BE3F82D19181D9C6EFE8141120314088F5013875AC656398D8A2ED19D2A85C8EDD3EC2AEF
def p384Gx : Nat := 0xAA87CA22BE8B05378EB1C71EF320AD746E1D3B628BA79B9859F741E082542A385502F25DBF55296C3A545E3872760AB7
def p384Gy : Nat := 0x3617DE4A96262C6F5D9E98BF9292DC29F8F41DBD289A147CE9DA3113B5F0B8C00A60B1CE1D7E819D7A431D7C90EA0E5F

/-- b^e modulo m by squaring; n bits of the exponent. -/
def powMod (m : Nat) : Nat → Nat → Nat → Nat
  | 0, _, _ => 1 % m
  | n + 1, b, e =>
    let r := powMod m n (b * b % m) (e / 2)
    if e % 2 = 1 then b * r % m else r

/-- The inverse modulo a prime of 384 bits. -/
def invMod (m a : Nat) : Nat := powMod m 384 (a % m) (m - 2)

/-- A point of the curve: none is the point at infinity. -/
abbrev CPoint := Option (Nat × Nat)

/-- a - b modulo p. -/
def subP (a b : Nat) : Nat := (a + p384P - b % p384P) % p384P

/-- The third point for a slope. -/
def slopePoint (l x1 y1 x2 : Nat) : CPoint :=
  let x3 := subP (subP (l * l) x1) x2
  some (x3, subP (l * subP x1 x3) y1)

/-- The sum of two points. -/
def curveAdd (a b : CPoint) : CPoint :=
  match a, b with
  | none, q => q
  | p, none => p
  | some (x1, y1), some (x2, y2) =>
    if x1 = x2 then
      if (y1 + y2) % p384P = 0 then none
      else slopePoint (subP (3 * x1 * x1) 3 * invMod p384P (2 * y1) % p384P) x1 y1 x2
    else slopePoint (subP y2 y1 * invMod p384P (subP x2 x1) % p384P) x1 y1 x2

/-- k times a point; n bits of k. -/
def curveMul : Nat → Nat → CPoint → CPoint
  | 0, _, _ => none
  | n + 1, k, q =>
    let r := curveMul n (k / 2) (curveAdd q q)
    if k % 2 = 1 then curveAdd q r else r

/-- A public key lies on the curve. -/
def onCurve (x y : Nat) : Bool :=
  x < p384P && y < p384P && (y * y) % p384P == (x * x * x + (p384P - 3) * x + p384B) % p384P

/-- The signature (r, s) over a 48-byte digest verifies with a public key (FIPS 186-5). -/
def ecdsaVerify (x y : Nat) (digest : List Nat) (r s : Nat) : Bool :=
  if r = 0 ∨ p384N ≤ r ∨ s = 0 ∨ p384N ≤ s ∨ !onCurve x y then false
  else
    let w := invMod p384N s
    let u := beNat digest * w % p384N
    let v := r * w % p384N
    match curveAdd (curveMul 384 u (some (p384Gx, p384Gy))) (curveMul 384 v (some (x, y))) with
    | none => false
    | some (px, _) => px % p384N == r

/-- The signature block of an image or a command: r then s, 48 bytes each. -/
def signatureOk (x y : Nat) (msg sig : List Nat) : Bool :=
  ecdsaVerify x y (sha384 msg) (beNat (sig.take 48)) (beNat ((sig.drop 48).take 48))

end Sys2Proof.Machine
end

