-- ==== Sys2Proof/Machine/Pairs.lean ====
section
/-! DEFINITION. Watch pairs (spec/16_integrity.md R519): the state set of a paddock, and the forming of a pair when its standby is
loaded. -/

namespace Sys2Proof.Machine

def watchGet (s : State) (n : Nat) : Watch := mapGet watchReset s.watches n
def watchMod (n : Nat) (g : Watch → Watch) (s : State) : State := { s with watches := mapSet watchReset s.watches n (g (watchGet s n)) }

/-- Paddock n is configured as the standby of a pair. -/
def isStandby (s : State) (n : Nat) : Bool := rdB s PDK_WPCFG_en n && rdB s PDK_WPCFG_role n

/-- The Tally blocks of paddock n in block-assignment order: unit and block (R107, R520). -/
def pdkBlocks (s : State) (n : Nat) : List (Nat × Nat) :=
  (List.range 8).flatMap (fun j =>
    if rdB s (PDK_ASSIGN_valid.ix j) n && rd s (PDK_ASSIGN_kind.ix j) n ≤ 1 then
      (List.range (rd s (PDK_ASSIGN_count_m1.ix j) n + 1)).map (fun i =>
        (if rd s (PDK_ASSIGN_kind.ix j) n = 0 then rd s (PDK_ASSIGN_die.ix j) n else 11, rd s (PDK_ASSIGN_first.ix j) n + i))
    else [])

/-- The counters of those blocks: unit and index. -/
def pdkCounters (s : State) (n : Nat) : List (Nat × Nat) :=
  (pdkBlocks s n).flatMap (fun b => (List.range 64).map (fun i => (b.1, 64 * b.2 + i)))

/-- The scratchpad extents: offset and length in bytes. -/
def spExtents (s : State) (n : Nat) : List (Nat × Nat) :=
  ((List.range 16).filter (fun k => rdB s (PDK_WPSP_valid.ix k) n)).map (fun k =>
    (256 * rd s (PDK_WPSP_off.ix k) n, 256 * rd s (PDK_WPSP_len.ix k) n))

/-- The pages of the memory extents: paddock-virtual addresses. -/
def vaPages (s : State) (n : Nat) : List Nat :=
  ((List.range 16).filter (fun k => rdB s (PDK_WPVA_valid.ix k) n)).flatMap (fun k =>
    (List.range (rd s (PDK_WPVA_len.ix k) n)).map (fun i => 65536 * (rd s (PDK_WPVA_va.ix k) n + i)))

/-- Bytes of the state set (R520). -/
def stateBytes (s : State) (n : Nat) : Nat :=
  pdkCount s n * (spExtents s n).foldl (fun a e => a + e.2) 0 + 65536 * (vaPages s n).length + 8 * (pdkCounters s n).length

/-- Blocks of one kind. -/
def blocksOf (s : State) (n : Nat) (k0 : Bool) : Nat := ((pdkBlocks s n).filter (fun b => (b.1 == 11) == k0)).length

/-- The bytes of the image copy in the golden region of a paddock. -/
def imageCopy (s : State) (n : Nat) : List Nat :=
  (List.range (foldGet s n).len).map (fun o => memByte s ((foldGet s n).gold + 16384 + o))

/-- The state extents of two paddocks are the same. -/
def sameExtents (s : State) (a b : Nat) : Bool :=
  (List.range 16).all (fun k => rdW s .pdk a (PDK_WPSP_off.ix k).off == rdW s .pdk b (PDK_WPSP_off.ix k).off &&
    rdW s .pdk a (PDK_WPVA_va.ix k).off == rdW s .pdk b (PDK_WPVA_va.ix k).off)

/-- What the pair asks of the standby m itself. -/
def standbyFit (s : State) (m : Nat) : Bool :=
  integrityOf s m && (foldGet s m).att && 1 + ceilDiv (stateBytes s m) 65536 ≤ rd s PDK_WPBLEN_units m

/-- What the pair asks of standby m and active a together. -/
def pairFit (s : State) (m a : Nat) : Bool :=
  standbyFit s m && integrityOf s a && (foldGet s a).has && imageCopy s a == imageCopy s m &&
    blocksOf s a true == blocksOf s m true && blocksOf s a false == blocksOf s m false && sameExtents s a m

/-- The Shepherd forms the pair of standby m, or refuses it with a record (R519). Of a partner on another package this package
sees nothing: whether it fits is a free value (log 32). -/
def pairForm (m : Nat) (s : State) : State :=
  let yes (s : State) : State := wr PDK_WPSTAT_state m 1 (wr PDK_WPSTAT_mismatch m 0 s)
  let no (s : State) : State :=
    let s1 := wr PDK_WPSTAT_mismatch m 1 s
    pfEvent 0x96 11 [m + regNat s1 PDK_WPSTAT_state m * 2 ^ 32] s1
  match localPartner s m with
  | some a => if pairFit s m a then wr PDK_WPSTAT_state a 1 (yes s) else no s
  | none =>
    let r := drawFree s
    if standbyFit s m && r.1 % 2 == 1 then yes r.2 else no r.2

end Sys2Proof.Machine
end

