-- ==== Sys2Proof/Machine/Fold.lean ====
section
/-! DEFINITION. Fold images and the Fold loader (spec/15_fold.md): command streams, verification, the golden region, loads,
swaps and reloads. `n` is a paddock; `rb` reads one byte at an offset. -/

namespace Sys2Proof.Machine

/-! ### Command streams (R481-R486) -/

/-- One write of a stream to one place. Kind: 0 frame of a core, 1 register of a core, 2 register of a far context. `i` is the
paddock-relative core or the far context number; for a frame `a` is its type and `b` its index, for a register `a` its width and
`b` its offset. -/
structure FWr where
  kind : Nat
  i : Nat
  a : Nat
  b : Nat
  val : Nat
  data : List Nat
deriving DecidableEq, Repr

/-- What a stream is read against: the paddock's columns and row groups, its far contexts, frame mode alone allowed. -/
structure FCtx where
  w : Nat
  ph : Nat
  far : Nat
  frameMode : Bool

/-- A little-endian number of n bytes. -/
def rbNat (rb : Nat → Nat) (o n : Nat) : Nat := leNat ((List.range n).map (fun k => rb (o + k)))

/-- Frame indices of a type (R483). -/
def typeLimit (ty : Nat) : Nat :=
  if ty = 0 then 512 else if ty = 1 then 64 else if ty = 2 then 8192 else if ty = 3 then 512 else if ty = 4 then 16
  else if ty = 5 then 8 else 0

/-- The width of a context register a REG record may name: DRV_BASE to DRV_CTXCFG (R485). -/
def ctxRegWidth (o : Nat) : Nat :=
  if o < 0x38 ∧ o % 8 = 0 then 64 else if o = 0x38 ∨ o = 0x40 ∨ o = 0x48 then 32 else 0

/-- The width of a core-window register a REG record may name, 0 for none (R485). -/
def coreRegWidth (o : Nat) : Nat :=
  if o = 0x0000 ∨ o = 0x0200 ∨ o = 0x1000 ∨ o = 0x3000 ∨ o = 0x4000 ∨ o = 0x5808 then 32
  else if (0x0010 ≤ o ∧ o < 0x0030) ∧ o % 4 = 0 then 32
  else if 0x0C00 ≤ o ∧ o < 0x0D00 then
    (if o % 0x40 = 0 then 32 else if 0x10 ≤ o % 0x40 ∧ o % 0x40 < 0x30 ∧ o % 8 = 0 then 64 else 0)
  else if 0x2000 ≤ o ∧ o < 0x3000 then ctxRegWidth (o % 0x80)
  else if 0x4008 ≤ o ∧ o < 0x4018 ∧ o % 4 = 0 then 32
  else if 0x4040 ≤ o ∧ o < 0x40C0 ∧ o % 8 = 0 then 64
  else if 0x5000 ≤ o ∧ o < 0x5014 ∧ o % 4 = 0 then 32
  else if (0x5020 ≤ o ∧ o < 0x5040 ∧ o % 8 = 0) ∨ o = 0x5800 then 64
  else 0

/-- A FRAME record at offset o, with the columns of a REPEAT (R482, R484). A trailer that does not match makes the record
malformed (DEDUCED, log 27). -/
def frameRec (c : FCtx) (rb : Nat → Nat) (o word : Nat) (cols : Option (List Nat)) : Option (List FWr) :=
  let gy := natBits word 49 47
  let rmask := natBits word 46 43
  let ty := natBits word 42 40
  let idx := natBits word 39 27
  let cs := cols.getD [natBits word 55 50]
  let bytes := (List.range 136).map (fun k => rb (o + k))
  if natBits word 26 0 ≠ 0 ∨ c.ph ≤ gy ∨ rmask = 0 ∨ typeLimit ty ≤ idx ∨ rbNat rb (o + 136) 4 ≠ crc32c bytes ∨
      rbNat rb (o + 140) 4 ≠ 0 ∨ cs.any (fun x => decide (c.w ≤ x)) ∨ (c.frameMode && popcount 4 rmask != 1) then none
  else some (cs.flatMap (fun cx => ((List.range 4).filter (natBit rmask)).map (fun r =>
    { kind := 0, i := (4 * gy + r) * c.w + cx, a := ty, b := idx, val := 0, data := bytes.drop 8 })))

/-- A REG record (R484, R485). -/
def regRec (c : FCtx) (word val : Nat) (cols : Option (List Nat)) : Option (List FWr) :=
  let wide := if natBit word 54 then 64 else 32
  let tgt := natBits word 53 43
  let off := natBits word 42 28
  let v := if wide = 64 then val else val % 2 ^ 32
  if natBits word 27 0 ≠ 0 then none
  else if natBit word 55 then
    if c.far ≤ tgt ∨ ctxRegWidth off ≠ wide then none
    else some ((cols.getD [0]).map (fun _ => { kind := 2, i := tgt, a := wide, b := off, val := v, data := [] }))
  else
    let ts := match cols with
      | none => [tgt]
      | some cs => cs.map (fun x => tgt / c.w * c.w + x)
    if coreRegWidth off ≠ wide ∨ ts.any (fun t => decide (c.w * (4 * c.ph) ≤ t)) then none
    else some (ts.map (fun t => { kind := 1, i := t, a := wide, b := off, val := v, data := [] }))

/-- The columns of a REPEAT record at offset o. -/
def repeatRec (c : FCtx) (rb : Nat → Nat) (o word : Nat) : Option (List Nat) :=
  let cnt := natBits word 55 50 + 1
  let cols := (List.range cnt).map (fun k => rb (o + 8 + k))
  let pad := (List.range (8 * ceilDiv cnt 8 - cnt)).map (fun k => rb (o + 8 + cnt + k))
  if c.frameMode || natBits word 49 0 != 0 || pad.any (· != 0) || cols.any (fun x => decide (c.w ≤ x)) then none else some cols

/-- The writes of the stream from offset o to `last`, in order; none where a record is malformed (R481, R484). -/
def streamRecs (c : FCtx) (rb : Nat → Nat) (last : Nat) : Nat → Nat → Option (List Nat) → Option (List FWr)
  | 0, _, _ => none
  | k + 1, o, rep =>
    if last < o + 8 then none
    else
      let word := rbNat rb o 8
      let op := natBits word 63 56
      if op = 0x0F then (if rep.isSome ∨ natBits word 55 0 ≠ 0 then none else some [])
      else if op = 0x01 then
        if last < o + 144 then none
        else match frameRec c rb o word rep, streamRecs c rb last k (o + 144) none with
          | some a, some b => some (a ++ b)
          | _, _ => none
      else if op = 0x03 then
        if last < o + 16 then none
        else match regRec c word (rbNat rb (o + 8) 8) rep, streamRecs c rb last k (o + 16) none with
          | some a, some b => some (a ++ b)
          | _, _ => none
      else if op = 0x02 then
        let size := 8 + 8 * ceilDiv (natBits word 55 50 + 1) 8
        if rep.isSome ∨ last < o + size then none
        else match repeatRec c rb o word with
          | some cols => streamRecs c rb last k (o + size) (some cols)
          | none => none
      else none

/-! ### Images (R478-R480) -/

/-- An entry of a section table. -/
structure SectE where
  off : Nat
  len : Nat
  next : Nat
  swapEn : Bool
  ctr : Nat
  val : Nat
deriving DecidableEq, Repr

/-- An entry at offset o. -/
def sectAt (rb : Nat → Nat) (o : Nat) : SectE :=
  { off := rbNat rb o 4, len := rbNat rb (o + 4) 4, next := rb (o + 8), swapEn := natBit (rb (o + 9)) 0, ctr := rbNat rb (o + 10) 2,
    val := rbNat rb (o + 16) 8 }

/-- An entry is well formed in an image of len bytes with k sections. -/
def sectOk (rb : Nat → Nat) (len k o : Nat) : Bool :=
  let e := sectAt rb o
  o + 32 ≤ len && rb (o + 9) ≤ 1 && rbNat rb (o + 12) 4 == 0 && rbNat rb (o + 24) 8 == 0 && e.ctr ≤ 1023 &&
    (e.next == 0xFF || e.next < k) && e.off % 8 == 0 && e.off + e.len ≤ len

/-- Header fields: sections, variants, the offsets of the primary section table, of the variant table, of placement p's section
table (0 the primary one). -/
def imgSecs (rb : Nat → Nat) : Nat := rb 0x0A
def imgVars (rb : Nat → Nat) : Nat := rb 0x0B
def imgVarAt (rb : Nat → Nat) (j : Nat) : Nat := rbNat rb 0x18 4 + 16 * j
def imgTable (rb : Nat → Nat) (p : Nat) : Nat := if p = 0 then rbNat rb 0x14 4 else rbNat rb (imgVarAt rb (p - 1) + 4) 4
def imgSect (rb : Nat → Nat) (sec p : Nat) : SectE := sectAt rb (imgTable rb p + 32 * sec)

/-- The header and the tables are well formed (R478, R480; err 3). -/
def imgForm (rb : Nat → Nat) (len : Nat) : Bool :=
  let k := imgSecs rb
  let v := imgVars rb
  let cols := (List.range v).map (fun j => rb (imgVarAt rb j))
  let zero (o m : Nat) : Bool := (List.range m).all (fun i => rb (o + i) == 0)
  let same (a b : SectE) : Bool := a.next == b.next && a.swapEn == b.swapEn && a.ctr == b.ctr && a.val == b.val
  rbNat rb 0 4 == 0x444C4F46 && rbNat rb 4 2 == 1 && rbNat rb 6 2 ≤ 1 && zero 0x0D 3 && zero 0x20 224 && rbNat rb 0x10 4 == len &&
    len % 8 == 0 && rbNat rb 0x1C 4 + 96 == len && 1 ≤ k && k ≤ 16 && v ≤ 64 && ((rbNat rb 0x18 4 == 0) == (v == 0)) &&
    rbNat rb 0x18 4 + 16 * v ≤ len &&
    (List.range v).all (fun j => zero (imgVarAt rb j + 1) 3 && zero (imgVarAt rb j + 8) 8 && rb (imgVarAt rb j) < 4 * rb 8) &&
    cols.eraseDups.length == v &&
    (List.range (v + 1)).all (fun p => (List.range k).all (fun i =>
      sectOk rb len k (imgTable rb p + 32 * i) && same (imgSect rb i p) (imgSect rb i 0)))

/-! ### The paddock the image is for -/

/-- The far contexts of paddock n: number t is context t mod 64 of its (t div 64)-th GAT_FAR entry (R485). -/
def farEntries (s : State) (n : Nat) : List (Nat × Nat) :=
  (List.range 2).flatMap (fun d => ((List.range 256).filter (fun j => rd s (GAT_FAR_owner.ix j) (8 + d) == pdkBrand n)).map (fun j => (d, j)))
def farCtx (s : State) (n t : Nat) : Nat × Nat :=
  match (farEntries s n)[t / 64]? with
  | some (d, j) => (d, 64 * j + t % 64)
  | none => (0, 0)

/-- What streams of paddock n are read against. -/
def foldCtx (s : State) (n : Nat) (fm : Bool) : FCtx := { w := pdkW s n, ph := rd s PDK_GEOM_ph n, far := 64 * (farEntries s n).length, frameMode := fm }

/-- Bytes of an image in memory. -/
def memAt (s : State) (a o : Nat) : Nat := memByte s (a + o)

/-- The writes of section sec in placement p of the image at address a; a stream with fuel for its bytes. -/
def imgStream (s : State) (n a sec p : Nat) : Option (List FWr) :=
  let e := imgSect (memAt s a) sec p
  streamRecs (foldCtx s n false) (memAt s a) (e.off + e.len) (e.len / 8 + 1) e.off none

/-! ### Route programs (R268, R278) -/

/-- The last data a list of writes gives frame (ty, idx) of core i; zeros where it gives none. -/
def frameData (ws : List FWr) (i ty idx : Nat) : List Nat :=
  match (ws.filter (fun x => x.kind == 0 && x.i == i && x.a == ty && x.b == idx)).getLast? with
  | some x => x.data
  | none => List.replicate 128 0

/-- Entry of a slot in such data, and whether it marks a hurdle. -/
def slotIn (ws : List FWr) (i k : Nat) : Nat := leNat (((frameData ws i 1 (k / 64)).drop (2 * (k % 64))).take 2)
def isHurdle (e : Nat) : Bool := natBit e 15
def selCode (e d : Nat) : Nat := e / 8 ^ d % 8
def selsLocal (e : Nat) : Bool := (List.range 5).any (fun d => selCode e d == 5)

/-- The period a section gives core i: its MSH_CFG write, else what its router holds. -/
def periodIn (s : State) (n : Nat) (ws : List FWr) (i : Nat) : Nat :=
  match (ws.filter (fun x => x.kind == 1 && x.i == i && x.b == 0x1000)).getLast? with
  | some x => x.val % 4096 + 1
  | none => Nat.max 64 (rd s MSH_CFG_period_m1 (pcore s (pdkCore s n i)) + 1)

/-- The hurdle slots of core i. -/
def hurdlesIn (ws : List FWr) (i per : Nat) : List Nat := (List.range per).filter (fun k => isHurdle (slotIn ws i k))

/-- Consecutive hurdles lie 64 slots apart, around the period too. -/
def spaced (per : Nat) (hs : List Nat) : Bool :=
  ((hs.zip (hs.drop 1 ++ [hs.headD 0 + per])).all (fun x => x.1 + 64 ≤ x.2))

/-- The route programs of a section meet R268 (err 7). -/
def routesOk (s : State) (n : Nat) (ws : List FWr) : Bool :=
  let per := periodIn s n ws 0
  let hs := hurdlesIn ws 0 per
  64 ≤ per && hs.length ≤ 64 && hs.all (fun h => 58 ≤ h) && spaced per hs &&
    (List.range (pdkCount s n)).all (fun i =>
      let fence := (rdW s .msh (pcore s (pdkCore s n i)) MSH_FENCE_fence_n.off).toNat
      periodIn s n ws i == per && hurdlesIn ws i per == hs &&
        (List.range 4096).all (fun k =>
          let e := slotIn ws i k
          (List.range 5).all (fun d => selCode e d ≤ 5 && (d == 4 || selCode e d == 0 || !natBit fence d))))

/-- The hurdle table value of hurdle h of a router with its entries (R278). -/
def hurdleWord (ent : Nat → Nat) (per : Nat) (hs : List Nat) (h : Nat) : Nat :=
  let nxt := match hs.find? (fun k => decide (h < k)) with
    | some k => k
    | none => hs.headD 0 + per
  let seg := (List.range (nxt - h)).map (fun k => ent ((h + k) % per))
  let rem := (List.range 58).map (fun k => ent (h - 58 + k))
  let cnt (f : Nat → Bool) (l : List Nat) : Nat := (l.filter f).length
  let ej (e : Nat) : Bool := selCode e 4 != 0
  h + cnt selsLocal seg * 2 ^ 12 + cnt ej seg * 2 ^ 25 + cnt selsLocal rem * 2 ^ 38 + cnt ej rem * 2 ^ 44 + 2 ^ 63

/-- MSH_CFG.hcount and MSH_HT of the router of core p, from its route program (R268, R490). -/
def writeHurdles (p : Nat) (s : State) : State :=
  let per := Nat.max 64 (rd s MSH_CFG_period_m1 p + 1)
  let ent := rslotData s p
  let hs := ((List.range per).filter (fun k => isHurdle (ent k))).take 64
  wr MSH_CFG_hcount p hs.length (iter 64 (fun j s => htPut p j (match hs[j]? with
    | some h => hurdleWord ent per hs h
    | none => 0) s) s)

/-! ### Writing cores (R483, R485, R496, R499) -/

/-- Write a frame of core p. -/
def playFrame (p ty idx : Nat) (bs : List Nat) (s : State) : State :=
  let num (o m : Nat) : Nat := leNat ((bs.drop o).take m)
  if ty = 0 then framePut p idx bs s
  else if ty = 1 then framePut p (512 + idx) bs s
  else if ty = 2 then iter 16 (fun k s => spPlain p (16 * idx + k) (spPutRaw p (16 * idx + k) (word72 (num (8 * k) 8)) s)) s
  else if ty = 3 then iter 32 (fun k s => tileSet p (idx / 32) (idx % 32) k (num (4 * k) 4) s) s
  else if ty = 4 then iter 16 (fun k s => descSet p (2 * idx + k / 8) (k % 8) (num (8 * k) 8) s) s
  else iter 16 (fun k s => gSet p (idx / 2) (16 * (idx % 2) + k) (num (8 * k) 8) s) s

/-- Write one record; true where a block refused it. -/
def playOne (n : Nat) (x : FWr) (s : State) : Bool × State :=
  if x.kind = 0 then (false, playFrame (pcore s (pdkCore s n x.i)) x.a x.b x.data s)
  else if x.kind = 1 then
    let b := windowBlock x.b
    unitWrite 2 b.1 (pcore s (pdkCore s n x.i)) b.2 (BitVec.ofNat 64 x.val) s
  else
    let g := farCtx s n x.i
    unitWrite 2 .drvF g.1 (0x80 * g.2 + x.b) (BitVec.ofNat 64 x.val) s

/-- Write records in order, up to the first that a block refuses (R496). -/
def playAll (n : Nat) : List FWr → State → Option FWr × State
  | [], s => (none, s)
  | x :: xs, s =>
    let r := playOne n x s
    if r.1 then (some x, r.2) else playAll n xs r.2

/-- g1 to g31 and p1 to p7 of every task of core p are 0. -/
def clearTaskRegs (p : Nat) (s : State) : State :=
  iter 4 (fun t s => wr (LEA_TPRED_pred.ix t) p 1 (iter 32 (fun k s => gSet p t k 0 s) s)) s

/-- Play records into the paddock, then the hurdle tables: task registers and predicates the records do not load are 0 (R131). -/
def playSection (n : Nat) (ws : List FWr) (s : State) : Option FWr × State :=
  let r := playAll n ws ((pdkPcores s n).foldl (fun s p => clearTaskRegs p s) s)
  match r.1 with
  | some x => (some x, r.2)
  | none => (none, (pdkPcores r.2 n).foldl (fun s p => writeHurdles p s) r.2)

/-! ### The golden region (R492, R493) -/

/-- Bytes rounded up to 4 KiB. -/
def pageUp (k : Nat) : Nat := (k + 4095) / 4096 * 4096

/-- The record of a frame of one core in frame mode. -/
def goldFrame (w i ty idx : Nat) (data : List Nat) : List Nat :=
  let word := 1 * 2 ^ 56 + i % w * 2 ^ 50 + i / w / 4 * 2 ^ 47 + 2 ^ (i / w % 4) * 2 ^ 43 + ty * 2 ^ 40 + idx * 2 ^ 27
  let head := leBytes 8 word ++ data
  head ++ leBytes 4 (crc32c head) ++ [0, 0, 0, 0]

/-- A REG record of one place. -/
def goldReg (x : FWr) : List Nat :=
  leBytes 8 (3 * 2 ^ 56 + b2n (x.kind == 2) * 2 ^ 55 + b2n (x.a == 64) * 2 ^ 54 + x.i * 2 ^ 43 + x.b * 2 ^ 28) ++ leBytes 8 x.val

/-- Block B: the static array, the dynamic records, END. -/
def goldBlock (w cores : Nat) (ws : List FWr) : List Nat :=
  let static := (List.range cores).flatMap (fun i => (List.range 576).flatMap (fun f =>
    if f < 512 then goldFrame w i 0 f (frameData ws i 0 f) else goldFrame w i 1 (f - 512) (frameData ws i 1 (f - 512))))
  let dyn := ws.filter (fun x => x.kind != 0 || 2 ≤ x.a)
  static ++ dyn.flatMap (fun x => if x.kind = 0 then goldFrame w x.i x.a x.b x.data else goldReg x) ++ leBytes 8 (0x0F * 2 ^ 56)

/-- Size in bytes of such a block. -/
def goldSize (cores : Nat) (ws : List FWr) : Nat :=
  let dyn := ws.filter (fun x => x.kind != 0 || 2 ≤ x.a)
  cores * 576 * 144 + (dyn.map (fun x => if x.kind = 0 then 144 else 16)).foldl (· + ·) 0 + 8

/-- Offsets of the blocks in the golden region in their order, with the region's end: header, image copy, blocks. -/
def goldOffsets (cores : Nat) : Nat → List (List FWr) → List Nat
  | o, [] => [o]
  | o, ws :: rest => o :: goldOffsets cores (o + pageUp (goldSize cores ws)) rest

/-- Every (section, placement) of an image, in block order. -/
def blockKeys (k v : Nat) : List (Nat × Nat) := (List.range k).flatMap (fun i => (List.range (v + 1)).map (fun p => (i, p)))

/-- The streams of an image, in block order; none where one is malformed. -/
def imgStreams (s : State) (n a : Nat) : List (Nat × Nat) → Option (List (List FWr))
  | [] => some []
  | (i, p) :: ks =>
    match imgStream s n a i p, imgStreams s n a ks with
    | some x, some xs => some (x :: xs)
    | _, _ => none

/-- Frame-mode writes to core i, and far-context writes, of a section (R488). -/
def coreWrites (ws : List FWr) (i : Nat) : Nat := 576 + (ws.filter (fun x => x.i == i && (x.kind == 1 || (x.kind == 0 && 2 ≤ x.a)))).length
def farWrites (ws : List FWr) : Nat := (ws.filter (fun x => x.kind == 2)).length

/-! ### Verification (R487) -/

/-- The signature of the image at a verifies with the key its header names (R479). -/
def imgSigned (s : State) (a len : Nat) : Bool :=
  let rb := memAt s a
  let bytes (o m : Nat) : List Nat := (List.range m).map (fun k => rb (o + k))
  match s.keys[rb 0x0C]? with
  | some k => k.valid && !k.revoked && signatureOk k.x k.y (bytes 0 (len - 96)) (bytes (len - 96) 96)
  | none => false

/-- Checks 6 to 9 of R487 on the streams of an image. -/
def imgLimits (s : State) (n : Nat) (j : FoldReq) (ss : List (List FWr)) : Nat × Nat :=
  let rb := memAt s j.img
  let cores := pdkCount s n
  let need := ceilDiv ((goldOffsets cores (16384 + pageUp j.len) ss).getLastD 0) 65536
  let owns (e : SectE) : Bool := !e.swapEn || rd s (GAT_KTLY_owner.ix (e.ctr / 64)) 11 == pdkBrand n
  if !ss.all (routesOk s n) || !(List.range (imgSecs rb)).all (fun i => owns (imgSect rb i 0)) then (7, 0)
  else if ss.any (fun ws => decide (4096 < farWrites ws) || (List.range cores).any (fun i => decide (640 < coreWrites ws i))) then (8, 0)
  else if j.glen < need ∨ memU s < j.gold + j.glen * 65536 ∨ (j.gold < j.img + j.len ∧ j.img < j.gold + j.glen * 65536) then (9, need)
  else (0, need)

/-- The first failing check of R487 after the state, and FLD_GNEED where it is known. A reserved field or an offset out of range in a
section or variant table is err 3, as in the header; ctr counts only where swap_en is 1 (DEDUCED, log 123). -/
def imgVerify (s : State) (n : Nat) (j : FoldReq) : Nat × Nat :=
  let rb := memAt s j.img
  if j.img % 4096 ≠ 0 ∨ memU s < j.img + j.len ∨ j.len < 256 then (2, 0)
  else if !imgForm rb j.len then (3, 0)
  else if !imgSigned s j.img j.len then (4, 0)
  else if rb 8 ≠ rd s PDK_GEOM_pw n ∨ rb 9 ≠ rd s PDK_GEOM_ph n then (5, 0)
  else match imgStreams s n j.img (blockKeys (imgSecs rb) (imgVars rb)) with
    | none => (6, 0)
    | some ss => imgLimits s n j ss

/-- FLD_PSTAT.err; a code other than 0 sets the error event. -/
def foldErr (n e : Nat) (s : State) : State :=
  let s1 := wr (FLD_PSTAT_err.ix n) 0 e s
  if e = 0 then s1 else wr FLD_EVT_error 0 1 s1

/-- A Fold event record (R679, type 0x92). -/
def foldRecord (n off : Nat) (s : State) : State := pfEvent 0x92 11 [n + (rdW s .fld 0 (FLD_PSTAT_err.ix n).off).toNat * 2 ^ 32, off] s

/-- The signature check of an image has ended with a code of R487: SEC_VERIFY, and the security record of a failure (R743). -/
def sigNote (n slot v : Nat) (s : State) : State :=
  if v = 2 ∨ v = 3 then s
  else
    let s1 := wr SEC_VERIFY_pass 0 (b2n (v != 4)) s
    if v = 4 then flockEvent 0x0400 11 8 n slot 0 s1 else s1

/-! ### Commands (R490, R494, R741) -/

/-- A live activation runs: commands to the firmware are held (R740, R741). -/
def activating (s : State) : Bool := 2 ≤ s.mgmt.act

/-- Hold a command until A4 (R741). -/
def holdCmd (c : List Nat) (s : State) : State :=
  wr SHP_FWSTAT_held 0 (s.mgmt.held.length + 1) { s with mgmt := { s.mgmt with held := s.mgmt.held ++ [c] } }

/-- Sample the writable fields at the acceptance of a command. -/
def foldSample (n job : Nat) (s : State) : State :=
  foldMod n (fun j => { j with req := { img := rd s (FLD_IMG_base.ix n) 0 * 4096, len := rd s (FLD_IMGLEN_length.ix n) 0,
                                        gold := rd s (FLD_GOLD_base.ix n) 0 * 65536, glen := rd s (FLD_GLEN_units.ix n) 0 }, job := job }) s

/-- The paddock has no command in progress; background golden writing is one too (FLD_PSTAT.busy). -/
def foldFree (s : State) (n : Nat) : Bool := !rdB s (FLD_PSTAT_busy.ix n) 0

/-- A load of paddock n is requested (R490). -/
def foldLoad (n : Nat) (s : State) : State :=
  if pdkState s n = 1 ∧ foldFree s n then foldShow n (foldErr n 0 (scheduleNext 0x20 n (foldSample n 1 s))) else foldErr n 1 s


/-- A swap of paddock n to section k is requested; the counter's request is refused alike (R494, R501). While golden blocks are
still written in the background a swap is accepted (R494). -/
def foldSwap (n k : Nat) (s : State) : State :=
  let j := foldGet s n
  if pdkState s n ≠ 3 ∨ j.job ≠ 0 ∨ !j.has then foldErr n 1 s
  else if j.secs ≤ k then foldErr n 10 s
  else foldShow n (foldErr n 0 (scheduleNext 0x22 n (foldMod n (fun j => { j with job := 4, sect := k, since := curTick s + 1 }) s)))


/-- FLD_CMD op 3: verify only. -/
def foldVerify (n : Nat) (s : State) : State :=
  if pdkCreated s n ∧ foldFree s n then foldShow n (foldErr n 0 (foldSample n 3 s)) else foldErr n 1 s

/-- A command of FLD_CMD[n] with any op. -/
def foldCommand (n op k : Nat) (s : State) : State :=
  if op = 1 then foldLoad n s else if op = 2 then foldSwap n k s else if op = 3 then foldVerify n s else foldErr n 1 s

/-- A write of FLD_CMD[n]: held while a live activation runs (R741). -/
def foldAsk (n op k : Nat) (s : State) : State := if activating s then holdCmd [2, n, op, k] s else foldCommand n op k s

/-- FLD_LOAD: FLD_CMD op 1. -/
def execFldLoad (n : Nat) (s : State) : Result := .next (if n < 64 then foldAsk n 1 0 s else s)

/-- HST_FOLDDB: the Fold doorbell of the paddock (R490). -/
def execHstFolddb (n : Nat) (s : State) : Result := .next (if n < 64 then foldAsk n 1 0 s else s)

/-- FLD_SWAP: FLD_CMD op 2 with a section. -/
def execFldSwap (n k : Nat) (s : State) : Result := .next (if n < 64 then foldAsk n 2 k s else s)

/-- FLD_VERIFY: FLD_CMD op 3 (R487, R492). -/
def execFldVerify (n : Nat) (s : State) : Result := .next (if n < 64 then foldAsk n 3 0 s else s)

/-- FOLD_VERIFY_DONE: the checks of a verification are made (R487). -/
def execFoldVerifyDone (n : Nat) (s : State) : Result :=
  let j := foldGet s n
  .next (if j.job ≠ 3 then s
  else
    let v := imgVerify s n j.req
    let s1 := sigNote n (memAt s j.req.img 0x0C) v.1 (if v.2 = 0 then s else wr (FLD_GNEED_units.ix n) 0 v.2 s)
    foldShow n (foldErr n v.1 (foldMod n (fun j => { j with job := 0 }) s1)))

/-! ### The load (R490) -/

/-- The image copy in the golden region. -/
def goldImage (j : FoldJ) : Nat := j.gold + 16384

/-- The image copy has room: the image lies in memory, and the copy in the golden region given, below U and clear of the image. -/
def copyRoom (s : State) (q : FoldReq) : Bool :=
  q.img + q.len ≤ memU s && 16384 + q.len ≤ q.glen * 65536 && q.gold + 16384 + q.len ≤ memU s &&
    (q.img + q.len ≤ q.gold + 16384 || q.gold + 16384 + q.len ≤ q.img)

/-- L1 copies the image into the golden region before it makes the checks, so an image that fails one is copied too; where the copy has
no room nothing is copied, and a check then fails (R490; DESIGN CHOICE, log 123). -/
def foldCopy (s0 : State) (q : FoldReq) (s : State) : State :=
  if copyRoom s0 q then memWrite (q.gold + 16384) ((List.range q.len).map (memAt s0 q.img)) [] s else s

/-- L1 at phase 1 of the load tick (class 0x20): Loading; the image is copied into the golden region and verified; what fails
leaves the paddock Ready (R487, R490). -/
def foldBegin (n : Nat) (s : State) : State :=
  let q := (foldGet s n).req
  let s1 := foldCopy s q (wr PDK_STATUS_state n 2 s)
  let v := imgVerify s n q
  let s2 := sigNote n (memAt s q.img 0x0C) v.1 (if v.2 = 0 then s1 else wr (FLD_GNEED_units.ix n) 0 v.2 s1)
  if v.1 ≠ 0 then foldShow n (foldErr n v.1 (wr PDK_STATUS_state n 1 (foldMod n (fun j => { j with job := 0 }) s2)))
  else
    let rb := memAt s q.img
    foldShow n (wr (FLD_PSTAT_attested.ix n) 0 (rb 6) (wr (FLD_PSTAT_golden_done.ix n) 0 0 (wr (FLD_PSTAT_section.ix n) 0 0
      (foldMod n (fun j => { j with img := q.img, len := q.len, gold := q.gold, glen := q.glen, told := none,
                                    has := true, att := natBit (rb 6) 0, secs := imgSecs rb, vars := imgVars rb, written := [],
                                    job := 2, sect := 0, kslot := rb 0x0C, noVar := false,
                                    dig := sha384 ((List.range (q.len - 96)).map rb) }) s2))))

/-- The placement in effect: 0 the primary one, else the variant that names FLD_PVAR's column; none where there is none or
the image is not attested (R37, R498). -/
def placement (s : State) (n : Nat) : Option Nat :=
  let j := foldGet s n
  if j.noVar then none
  else if !rdB s (FLD_PVAR_valid.ix n) 0 then some 0
  else
    let rb := memAt s (goldImage j)
    match (List.range j.vars).find? (fun k => rb (imgVarAt rb k) == rd s (FLD_PVAR_col.ix n) 0) with
    | some k => if j.att then some (k + 1) else none
    | none => none

/-- The streams of the image copy, in block order. -/
def goldStreams (s : State) (n : Nat) : List (List FWr) :=
  let j := foldGet s n
  (imgStreams s n (goldImage j) (blockKeys j.secs j.vars)).getD []

/-- The address of block (sec, p). -/
def goldAddr (s : State) (n sec p : Nat) : Nat :=
  let j := foldGet s n
  j.gold + (goldOffsets (pdkCount s n) (16384 + pageUp j.len) (goldStreams s n)).getD (sec * (j.vars + 1) + p) 0

/-- Write block (sec, p) of the golden region. -/
def goldWrite (n sec p : Nat) (s : State) : State :=
  let j := foldGet s n
  let k := sec * (j.vars + 1) + p
  let ws := (goldStreams s n).getD k []
  foldMod n (fun j => { j with written := j.written ++ [k] })
    (memWrite (goldAddr s n sec p) (goldBlock (pdkW s n) (pdkCount s n) ws) [] s)

/-- The 16 KiB golden header: its contents are the loader's own and not stated (log 4). -/
def goldHeader (n : Nat) (s : State) : State :=
  let r := freshBlock s
  memWrite (foldGet s n).gold ((List.range 2048).flatMap (fun k => leBytes 8 (Config.freeWord r.1 k).toNat)) [] r.2

/-- A REG write was refused: a record names the register, and the paddock regathers with cause 7 (R496). -/
def foldRefused (n : Nat) (x : FWr) (s : State) : State :=
  regatherStart n 7 (foldRecord n x.b (wr FLD_EVT_error 0 1 (foldShow n (foldMod n (fun j => { j with job := 0 }) s))))

/-- The paddock cannot be reloaded or has no placement: Stranded, with a notice (R110, R115, R521). -/
def strand (n : Nat) (s : State) : State :=
  failoverNotice n (pdkNotice n 8 (foldShow n (foldMod n (fun j => { j with job := 0 })
    (pdkMod n (fun x => { x with step := 0 }) (wr PDK_STATUS_state n 5 s)))))

/-- Stranded, with an error code of the loader. -/
def strandAs (n e : Nat) (s : State) : State := strand n (foldErr n e s)

/-- A column of paddock n is being shifted, or a core of it is under a test: the loader's writes wait at its gate (R70, R499, R551). -/
def foldShift (s : State) (n : Nat) : Bool := (pdkPcores s n).any (fun p => colShifting s (pcol p) || underTest s p)

/-- FLD_PSTAT shows the placement in effect, p (R498). -/
def showPlacement (n p : Nat) (s : State) : State :=
  wr (FLD_PSTAT_var_valid.ix n) 0 (b2n (p != 0)) (wr (FLD_PSTAT_var_col.ix n) 0 (if p = 0 then 0 else rd s (FLD_PVAR_col.ix n) 0) s)

/-- A reload is in progress: L1, L2 and L5 pause (R491). -/
def reloading (s : State) : Bool := s.folds.any (fun e => e.2.job == 6)

/-- FOLD_LOAD_DONE: L2 and L3: the entry section of the placement in effect is in the cores, its block is written, and the
section start is scheduled; a standby stands by instead, and its pair is formed (R490, R519). A write that a block refuses ends the load;
its block is in the golden copy, so G6 reloads it (R122, R496). -/
def execFoldLoadDone (n : Nat) (s : State) : Result :=
  let j := foldGet s n
  .next (if j.job ≠ 2 ∨ reloading s ∨ foldShift s n then s
  else match placement s n with
    | none => strandAs n 13 s
    | some p =>
      let r := playSection n ((goldStreams s n).getD p []) s
      match r.1 with
      | some x => foldRefused n x (goldWrite n 0 p (goldHeader n r.2))
      | none =>
        let s1 := wr FLD_EVT_load_done 0 1 (showPlacement n p (goldWrite n 0 p (goldHeader n (foldMod n (fun j => { j with job := 0 }) r.2))))
        foldShow n (if isStandby s1 n then pairForm n (wr PDK_STATUS_state n 6 s1) else scheduleNext 0x21 n s1))

/-- GOLDEN_DONE: L5: the remaining blocks have been written (R490, R492). -/
def execGoldenDone (n : Nat) (s : State) : Result :=
  let j := foldGet s n
  .next (if !j.has ∨ j.job = 2 ∨ reloading s ∨ rdB s (FLD_PSTAT_golden_done.ix n) 0 then s
  else
    let rest := (blockKeys j.secs j.vars).filter (fun k => !j.written.contains (k.1 * (j.vars + 1) + k.2))
    foldShow n (wr (FLD_PSTAT_golden_done.ix n) 0 1 (rest.foldl (fun s k => goldWrite n k.1 k.2 s) s)))

/-! ### Section swaps (R494, R495) -/

/-- The paddock is parked (R495). -/
def parked (s : State) (n : Nat) : Bool :=
  (pdkCores s n).all (fun c =>
    let p := pcore s c
    coreIdle s p && (coreGet s p).inj.isEmpty && (coreGet s p).ej.isEmpty &&
      (List.range 4).all (fun i => (mapGet [] s.links (4 * c + i)).isEmpty))

/-- Instruction memory and route program of core p are 0, with their checks. -/
def clearPrograms (p : Nat) (s : State) : State :=
  { s with imem := mapClear s.imem (2048 * p) (2048 * (p + 1)), rslot := mapClear s.rslot (4096 * p) (4096 * (p + 1)),
           frameChk := mapClear s.frameChk (576 * p) (576 * (p + 1)) }

/-- Step 2 of a swap for core p: programs, g1 to g31 and p1 to p7 of every task. -/
def swapClear (p : Nat) (s : State) : State := clearTaskRegs p (clearPrograms p s)

/-- The block a swap needs is written. -/
def swapBlock (s : State) (n : Nat) : Bool :=
  let j := foldGet s n
  match placement s n with
  | some p => j.written.contains (j.sect * (j.vars + 1) + p)
  | none => true

/-- Steps 1 and 2 of a swap once the paddock is parked: Loading, the routers stop, the cores are cleared, the section
becomes current (R495). -/
def swapBegin (n : Nat) (s : State) : State :=
  let s1 := meshMod n (fun m => { m with running := false, held := false }) (wr PDK_STATUS_state n 2 s)
  foldShow n (wr (FLD_PSTAT_section.ix n) 0 (foldGet s n).sect (foldMod n (fun j => { j with job := 5, told := none })
    ((pdkPcores s1 n).foldl (fun s p => swapClear p s) s1)))

/-- Class 0x22 at phase 1: the swap begins, or is tried again at the next tick, for 64 ticks after its first try; the wait for
its golden block does not count (R494, R495). -/
def swapTry (n : Nat) (s : State) : State :=
  let j := foldGet s n
  if j.job ≠ 4 then s
  else if !swapBlock s n then scheduleNext 0x22 n (foldMod n (fun j => { j with since := curTick s + 1 }) s)
  else if parked s n then swapBegin n s
  else if curTick s < j.since + 64 then scheduleNext 0x22 n s
  else s

/-- SWAP_DROPPED: the swap was not possible for 64 ticks: err 11, a record; the section stays (R495). -/
def execSwapDropped (n : Nat) (s : State) : Result :=
  let j := foldGet s n
  .next (if j.job = 4 ∧ swapBlock s n ∧ !parked s n ∧ j.since + 64 ≤ curTick s then
      foldRecord n 0 (wr FLD_EVT_swap_dropped 0 1 (foldShow n (foldErr n 11 (unschedule 0x22 n (foldMod n (fun j => { j with job := 0 }) s)))))
    else s)

/-- SWAP_PLAY_DONE: the new section is in the cores and starts at the next tick (R495). -/
def execSwapPlayDone (n : Nat) (s : State) : Result :=
  let j := foldGet s n
  .next (if j.job ≠ 5 ∨ foldShift s n then s
  else match placement s n with
    | none => strandAs n 13 s
    | some p =>
      let r := playSection n ((goldStreams s n).getD (j.sect * (j.vars + 1) + p) []) s
      match r.1 with
      | some x => foldRefused n x r.2
      | none => foldShow n (bump (FLD_SWAPS_count.ix n) 0 (scheduleNext 0x21 n (showPlacement n p (foldMod n (fun j => { j with job := 0 }) r.2)))))

/-- The current section's entry. -/
def currentSect (s : State) (n : Nat) : SectE :=
  imgSect (memAt s (goldImage (foldGet s n))) (rd s (FLD_PSTAT_section.ix n) 0) 0

/-- Phase 2 of each tick: a swap counter that has reached its value requests the swap to the next section, once for each value it
comes to: a request that is refused is not made again until the counter is signalled further (R494, R501). -/
def swapCounter (n : Nat) (s : State) : State :=
  let e := currentSect s n
  let v := tlyCnt s 11 e.ctr
  if !(pdkState s n == 3 && (foldGet s n).has && e.swapEn && e.next != 0xFF) then s
  else if !reached v e.val then (if (foldGet s n).told.isSome then foldMod n (fun j => { j with told := none }) s else s)
  else if (foldGet s n).told = some v then s
  else foldSwap n e.next (foldMod n (fun j => { j with told := some v }) s)

/-! ### Reloads (R497, R498) -/

/-- The records of block (sec, p) as they stand in memory; none where one fails its check or a read is bad. -/
def goldRead (s : State) (n sec p : Nat) : Option (List FWr) :=
  let a := goldAddr s n sec p
  let size := goldSize (pdkCount s n) ((goldStreams s n).getD (sec * ((foldGet s n).vars + 1) + p) [])
  let lines := readLines 2 (linesOf a size) s
  if lines.1.any id then none else streamRecs (foldCtx s n true) (memAt s a) size (size / 8 + 1) 0 none

/-- G6 at phase 1 (class 0x20): the reload begins; a paddock that held no image becomes Ready (R112). -/
def reloadBegin (n : Nat) (s : State) : State :=
  if (pdkGet s n).hadImage then
    foldShow n (foldMod n (fun j => { j with job := 6 }) (wr PDK_STATUS_state n 2 s))
  else wr PDK_STATUS_state n 1 s

/-- Block (sec, p) is written where the background writing has not come to it: a reload has it written first (R504). -/
def goldNeed (n sec p : Nat) (s : State) : State :=
  let j := foldGet s n
  if j.written.contains (sec * (j.vars + 1) + p) then s else goldWrite n sec p s

/-- FOLD_RELOAD_DONE: the golden block of the section current at G0 has been played, and the restart is scheduled; a block
that fails, or a placement that does not exist, strands the paddock (R112, R115, R497, R498, R504). -/
def execFoldReloadDone (n : Nat) (s : State) : Result :=
  .next (if (foldGet s n).job ≠ 6 ∨ s.repairs.any (fun r => r.pdk == n + 1) ∨ foldShift s n then s
  else match placement s n with
    | none => strand n (foldErr n 13 s)
    | some p =>
      let s0 := goldNeed n (rd s (FLD_PSTAT_section.ix n) 0) p s
      match goldRead s0 n (rd s0 (FLD_PSTAT_section.ix n) 0) p with
      | none => strand n (foldErr n 12 s0)
      | some ws =>
        let r := playSection n ws s0
        match r.1 with
        | some x => strand n (foldRecord n x.b r.2)
        | none => foldShow n (scheduleNext 0x23 n (showPlacement n p (foldMod n (fun j => { j with job := 0 }) r.2))))

/-- At the delete of paddock n every register of it but err is reset, and its work is dropped (spec/15_fold.md, Registers). -/
def foldDelete (n : Nat) (s : State) : State :=
  let e := rd s (FLD_PSTAT_err.ix n) 0
  let s1 := clearRegs .fld 0 (0x40 * n) (0x40 * (n + 1)) (foldAbandon n s)
  wr (FLD_PSTAT_err.ix n) 0 e { s1 with folds := mapSet foldReset s1.folds n foldReset }

end Sys2Proof.Machine
end

