-- ==== Sys2Proof/Machine/Reset.lean ====
section
/-! DEFINITION. The core reset (spec/24_startup.md R759) and the fence bits of a core (spec/04_paddocks.md R104). -/

namespace Sys2Proof.Machine

/-- The blocks that have one instance for each physical core. -/
def coreBlks : List Blk := [.lea, .msh, .drvC, .whs, .ftf]

/-- Drop what is pending for every register of instance i of block b (R62, R63). -/
def dropInstance (b : Blk) (i : Nat) (s : State) : State :=
  let lo := regKey b i 0
  let hi := regKey b (i + 1) 0
  { s with regs := mapClear s.regs lo hi, bellPend := mapClear s.bellPend lo hi, rearmPend := mapClear s.rearmPend lo hi,
           fixedDone := mapClear s.fixedDone lo hi }

/-- Everything core p holds beside registers is as after reset: arrays zeroed, queues empty, contexts unarmed. -/
def dropCore (p : Nat) (s : State) : State :=
  let cut {α : Type} (k : Nat) (m : SMap α) : SMap α := mapClear m (k * p) (k * (p + 1))
  { s with cores := cut 1 s.cores, sp := cut 131072 s.sp, spEpoch := cut 1 s.spEpoch, imem := cut 2048 s.imem,
           rslot := cut 4096 s.rslot, tile := cut 16384 s.tile, acc := cut 4096 s.acc, shadow := cut 4096 s.shadow,
           desc := cut 256 s.desc, spMark := cut 131072 s.spMark, frameChk := cut 576 s.frameChk, ht := cut 64 s.ht, ctxs := cut 32 s.ctxs,
           sends := cut 1 s.sends, rqs := cut 8 s.rqs, spills := cut 16 s.spills, opens := cut 64 s.opens,
           landings := cut 64 s.landings, connLt := cut 64 s.connLt, connShadow := cut 64 s.connShadow, openAt := cut 64 s.openAt,
           whsLands := s.whsLands.filter (fun w => w.p != p), tlyWaits := s.tlyWaits.filter (fun w => w.ret.take 2 != [1, p]),
           tlyQ := s.tlyQ.filter (fun k => k.ret.take 2 != [1, p]), byrQ := s.byrQ.filter (fun r => r.pcoreId != p),
           wlkDue := s.wlkDue.filter (fun x => x.1 != p) }

/-- The core reset of physical core p (R759): its instances to their reset values, which fence every side (R287), its arrays
zeroed, its tasks halted with reason 5. Its gate entry, the Cull map and Muster's history stay. -/
def coreResetOp (p : Nat) (s : State) : State :=
  iter 4 (fun t s => wr (LEA_TSTAT_reason.ix t) p 5 s) (dropCore p (coreBlks.foldl (fun s b => dropInstance b p s) s))

/-- The output d (0 N, 1 E, 2 S, 3 W) of core c is fenced: its neighbour lies in a different paddock, or either in none (R104). -/
def fenceBit (s : State) (c d : Nat) : Bool :=
  match corePdk s c, (neighbour c (d + 1)).bind (fun x => corePdk s x.1) with
  | some a, some b => a != b
  | _, _ => true

/-- Set the fence bits of core c from the gate entries (R104). -/
def setFences (c : Nat) (s : State) : State :=
  let p := pcore s c
  wr MSH_FENCE_fence_n p (b2n (fenceBit s c 0)) (wr MSH_FENCE_fence_e p (b2n (fenceBit s c 1))
    (wr MSH_FENCE_fence_s p (b2n (fenceBit s c 2)) (wr MSH_FENCE_fence_w p (b2n (fenceBit s c 3)) s)))

/-- Link stages into core c are empty. -/
def emptyLinks (c : Nat) (s : State) : State := { s with links := mapClear s.links (4 * c) (4 * c + 4) }

end Sys2Proof.Machine
end

