-- ==== Sys2Proof/Machine/Ageing.lean ====
section
/-! DEFINITION. Walker, Muster, the Cull map and in-field repair (spec/17_ageing.md R538-R572). `d` is a Lea die, `p` a physical
core, `b` a shared block, `c` a column. -/

namespace Sys2Proof.Machine

/-! ### Access -/

def walkerGet (s : State) (d : Nat) : Walker := mapGet walkerReset s.walkers d
def walkerMod (d : Nat) (g : Walker → Walker) (s : State) : State := { s with walkers := mapSet walkerReset s.walkers d (g (walkerGet s d)) }
def mcoreMod (p : Nat) (g : MCore → MCore) (s : State) : State := { s with mcores := mapSet mcoreReset s.mcores p (g (mcoreGet s p)) }

/-- The physical row of a core. -/
def prow (p : Nat) : Nat := p % 0x20

/-- The physical cores of a die, ascending. -/
def dieCores (d : Nat) : List Nat := ((List.range 512).filter (fun k => k % 32 ≤ 16)).map (fun k => 512 * d + k)

/-! ### Core failures (R560 P1) -/

/-- A core fails with a kind: 1 Muster, 4 a failed reload, 5 recurrence. It is recorded, counted in its column and posted, and
repair waits for phase 2; the spare's own failure only marks it (R560, R562). -/
def coreFails (p kind : Nat) (s : State) : State :=
  let c := pcol p
  let cap := if kind = 1 then regNat s MST_LAST_valid 0 else regNat s WLK_LAST_valid 0
  let s1 := pfEvent 0x93 11 [regNat s MST_EVT_core_fail 0, regNat s MST_LAST_valid 0]
    (flockEvent 0x0201 (p / 0x200) p kind cap 0 (countLife 10 1 (bump (CUL_COL_field_fail.ix c) 0 s)))
  match lcore s p with
  | some l => { s1 with repairs := s1.repairs ++
      [{ p := p, kind := kind, pdk := (match corePdk s l with | some n => n + 1 | none => 0), stage := 0, saved := false, cleared := false }] }
  | none =>
    if rd s (CUL_COL_shift.ix c) 0 < 16 then s1
    else
      let s2 := wr (CUL_COL_spare_bad.ix c) 0 1 s1
      let s3 := if rdB s2 FBK_STAT_log_mute 0 then wr (CUL_COL_unsaved.ix c) 0 1 s2 else s2
      countLife 50 1 (flockEvent 0x0030 (p / 0x200) c (regNat s3 (CUL_COL_shift.ix c) 0) p kind s3)

/-! ### The Walker (R540-R546) -/

/-- The Walker scrubs core p: it serves a position of a paddock that is Serving or Standing by, and none of the reasons to skip
it holds: a load or a swap leaves the core to the loader from its tick on (R540, R502). -/
def walks (s : State) (p : Nat) : Bool :=
  match pcorePdk s p with
  | none => false
  | some n => (pdkState s n == 3 || pdkState s n == 6) && !underTest s p && !colShifting s (pcol p) && (pdkGet s n).mwin == 0 &&
      !((foldGet s n).job == 4 && (foldGet s n).since ≤ curTick s)

/-- The next frame of die d from cursor position `at_` on, and that the cursor wraps to reach it. -/
def walkNext (s : State) (d at_ : Nat) : Option (Nat × Bool) :=
  let ps := (dieCores d).filter (walks s)
  match ps.find? (fun p => at_ < 576 * (p % 512) + 576) with
  | some p => some (Nat.max at_ (576 * (p % 512)), false)
  | none => match ps with
    | [] => none
    | p :: _ => some (576 * (p % 512), true)

/-- A pass of die d ends: the package pass ends with the last die's that has frames to scrub (DEDUCED, log 34). -/
def passEnd (d : Nat) (s : State) : State :=
  let s1 := walkerMod d (fun w => { w with pass := w.pass + 1 }) s
  let done := natSetBit s1.wlkDone d true
  if (List.range 8).all (fun e => natBit done e || !(dieCores e).any (walks s)) then wr WLK_STAT_passes 0 (rd s1 WLK_STAT_passes 0 + 1) { s1 with wlkDone := 0 } else { s1 with wlkDone := done }

/-- WLK_LAST captures a correction, rewrite, reload or failure (R546). -/
def wlkCapture (kind pos p f : Nat) (s : State) : State :=
  capture WLK_LAST_valid WLK_LAST_overflow 0
    (kind * 2 ^ 59 + pos * 2 ^ 48 + p * 2 ^ 32 + (if f < 512 then 0 else 1) * 2 ^ 16 + f % 512) s

/-- A correction is entered in the recurrence table; the count it reaches (R544). -/
def recurNote (d p f z : Nat) (s : State) : Nat × State :=
  let w := walkerGet s d
  let same (r : Recur) : Bool := r.p == p && r.f == f && r.z == z
  let cnt := match w.tab.find? same with
    | some r => if r.pass + 1 = w.pass then r.count + 1 else 1
    | none => 1
  let rest := w.tab.filter (fun r => !same r)
  let rest := if rest.length < 64 then rest else rest.drop 1
  (cnt, walkerMod d (fun w => { w with tab := rest ++ [{ p := p, f := f, z := z, pass := w.pass, count := cnt }] }) s)

/-- A corrected bit: counted, captured, and a failure of kind 5 where it has come back often enough (R542, R544). -/
def walkFixed (d p f z : Nat) (s : State) : State :=
  let r := recurNote d p f z (countLife 8 1 (bump (WLK_CE_count.ix d) 0 (wlkCapture 1 z p f s)))
  let stuck := rd s WLK_CFG_stuck 0
  if stuck ≠ 0 ∧ stuck ≤ r.1 then coreFails p 5 (wlkCapture 5 z p f r.2) else r.2

/-- The bytes of a frame with data bit k inverted. -/
def flipBit (bs : List Nat) (k : Nat) : List Nat := listPut bs (k / 8) (Nat.xor (bs.getD (k / 8) 0) (2 ^ (k % 8)))

/-- The frame with position z inverted: a check bit's position leaves the data alone (R538, R542). -/
def frameFlip (bs : List Nat) (z : Nat) : List Nat := if 2 ^ Nat.log2 z = z then bs else flipBit bs (frameDataPos.idxOf z)

/-- Judge frame f of core p as it is stored (R542). -/
def walkFrame (d p f : Nat) (s : State) : State :=
  let bs := frameBytes s p f
  let st := frameStored s p f
  let z := Nat.xor (frameHamming bs) (st % 2048)
  let crc (b : List Nat) : Nat := crc32c (frameAddr p f ++ b)
  let want := st / 2 ^ 16 % 2 ^ 32
  if z = 0 ∧ crc bs = want then s
  else if 1 ≤ z ∧ z ≤ 1035 ∧ crc (frameFlip bs z) = want then walkFixed d p f z (framePut p f (frameFlip bs z) s)
  else if z = 0 ∧ popcount 32 (Nat.xor (crc bs) want) = 1 then
    bump (WLK_CRCFIX_count.ix d) 0 (wlkCapture 2 0 p f (frameFix p f s))
  else { s with wlkDue := s.wlkDue ++ [(p, f)] }

/-- WALKER_FRAME_READ: the slice of die d reads its next frame (R541, R542). -/
def execWalkerFrameRead (d : Nat) (s : State) : Result :=
  let w := walkerGet s d
  .next (if 8 ≤ d ∨ !w.on ∨ w.left = 0 then s
  else match walkNext s d w.at_ with
    | none => s
    | some (a, wrap) =>
      let s1 := walkerMod d (fun w => { w with at_ := a + 1, left := w.left - 1 }) (if wrap then passEnd d s else s)
      walkFrame d (512 * d + a / 576) (a % 576) s1)

/-- The golden record of frame f of core p: its 128 data bytes; none where it fails its CRC or a read is bad (R545, R493). -/
def goldRecord (s : State) (n p f : Nat) : Option (List Nat) :=
  match placement s n, lcore s p with
  | some pl, some c =>
    let i := relIndex s n c
    let a := goldAddr s n (rd s (FLD_PSTAT_section.ix n) 0) pl + 144 * (576 * i + f)
    let rb := memAt s a
    if (readLines 3 (linesOf a 144) s).1.any id then none
    else match frameRec (foldCtx s n true) rb 0 (rbNat rb 0 8) none with
      | some [x] => some x.data
      | _ => none
  | _, _ => none

/-- A reload that read back clean, or did not (R545, R546). -/
def walkReload (d n p f : Nat) (ok : Bool) (bs : List Nat) (s : State) : State :=
  let ty := if f < 512 then 0 else 1
  let s1 := flockEvent 0x0200 d p ty (f % 512) 0 (framePut p f bs s)
  if ok then
    let s2 := countLife 9 1 (bump (WLK_RELOAD_count.ix d) 0 (wlkCapture 3 0 p f s1))
    epochFailure n 4 (recIndex s2 p) (raiseSource n 8
      (faultRecord (n + 1) 0x40 d [p + ty * 2 ^ 12 + f % 512 * 2 ^ 16] s2))
  else coreFails p 4 (bump (WLK_HARD_count.ix d) 0 (wlkCapture 4 0 p f s1))

/-- WALKER_RELOAD: the oldest reload due on die d is made; a test of its core comes first (R565). `ok`: the frame read back
clean. A record that fails its CRC strands the paddock (R545, R498). -/
def execWalkerReload (d : Nat) (ok : Bool) (s : State) : Result :=
  .next (match s.wlkDue.find? (fun x => x.1 / 512 == d && !underTest s x.1) with
  | none => s
  | some x =>
    let s1 := { s with wlkDue := listDropFirst (fun y => y == x) s.wlkDue }
    match pcorePdk s x.1 with
    | none => s1
    | some n =>
      if !(foldGet s n).has ∨ !(pdkState s n = 3 ∨ pdkState s n = 6) then s1
      else match goldRecord s n x.1 x.2 with
        | some bs => walkReload d n x.1 x.2 ok bs s1
        | none => strandAs n 12 (pdkMod n (fun y => { y with gateOpen := false })
            (meshMod n (fun m => { m with running := false, held := false }) (stopWork n 5 s1))))

/-- A slice of any die runs. -/
def walkBusy (s : State) : State := wr WLK_STAT_busy 0 (b2n ((List.range 8).any (fun d => (walkerGet s d).on))) s

/-- Class 0x33 at phase 2: a slice of die d starts with WLK_CFG.frames frames, taken between 256 and 8,192 (R541). -/
def walkSlice (d : Nat) (s : State) : State :=
  if !rdB s WLK_CFG_en 0 then s
  else walkBusy (walkerMod d (fun w => { w with on := true, left := clampNat 256 8192 (eff s WLK_CFG_frames 0) }) s)

/-- WALKER_SLICE_END: the slice of die d ends; frames it did not read pass to the next one, from the cursor on (R541). -/
def execWalkerSliceEnd (d : Nat) (s : State) : Result :=
  .next (if 8 ≤ d ∨ !(walkerGet s d).on then s else walkBusy (walkerMod d (fun w => { w with on := false }) s))

/-! ### Muster of cores (R547-R551) -/

/-- Core p is retired: its column's shift point names it (R41). -/
def retired (s : State) (p : Nat) : Bool :=
  let c := pcol p
  prow p == rd s (CUL_COL_shift.ix c) 0 && rd s (CUL_COL_shift.ix c) 0 < 16

/-- Core p may be tested now: it serves nothing, or a paddock that does not run, or its paddock's window is open (R548). -/
def testable (s : State) (p : Nat) : Bool :=
  if retired s p then false
  else match pcorePdk s p with
    | none => true
    | some n => pdkState s n == 1 || pdkState s n == 5 || pdkState s n == 6 || (pdkGet s n).mwin == 2

/-- The tick core p fell due on, and that it is due (R549). -/
def dueTick (s : State) (p : Nat) : Nat :=
  let m := mcoreGet s p
  let t := m.last + eff s MST_PERIOD_bt 0
  if m.due ≠ 0 then Nat.min (m.due - 1) t else t
def coreDue (s : State) (p : Nat) : Bool := dueTick s p ≤ curTick s

/-- Put a core in its place: most overdue first, ties to the lower number (R549). -/
def dueInsert (s : State) (p : Nat) : List Nat → List Nat
  | [] => [p]
  | q :: qs => if dueTick s p < dueTick s q then p :: q :: qs else q :: dueInsert s p qs

/-- GAT_CORE.muster of the logical core that p serves (R551). -/
def musterMark (p : Nat) (on : Bool) (s : State) : State :=
  match lcore s p with
  | some c => wr (GAT_CORE_muster.ix (coreLocal c)) (coreDie c) (b2n on) s
  | none => s

/-- When the window that is open on die d closes: at phase 2 of the tick after the one it opened on. -/
def windowCloses (s : State) (d : Nat) : Nat :=
  tickMoment s.bell.openAt s + 3200 + (if mapGet 0 s.mwins d = curTick s + 1 then 100 * periodUs s else 0)

/-- The length of a core test, 48,000 cycles of the lea clock, rounded up to 10 ns (R547). -/
def testLen (s : State) : Nat := (4800000 + Nat.max 1 (rd s RTN_FREQ_f_now 0) - 1) / Nat.max 1 (rd s RTN_FREQ_f_now 0)

/-- A round of tests may start on die d: the timebase runs, a window is open, and the tests end at least 5 us before it closes
(R15, R16, R548). -/
def roundFits (s : State) (d : Nat) : Bool :=
  belState s != belStopped && mapGet 0 s.mwins d != 0 && decide (s.now + testLen s + 500 ≤ windowCloses s d)

/-- MUSTER_ROUND: a round of tests starts on die d, in the window that is open there (R548). -/
def execMusterRound (d : Nat) (s : State) : Result :=
  let ps := dieCores d
  let due := ps.filter (fun p => testable s p && coreDue s p)
  let order := due.foldl (fun l p => dueInsert s p l) []
  .next (if 8 ≤ d ∨ !roundFits s d ∨ ps.any (underTest s) then s
  else (order.take (clampNat 1 64 (eff s MST_CFG_par 0))).foldl (fun s p =>
    musterMark p true (mcoreMod p (fun m => { m with test := curTick s + 1 }) s)) s)

/-- Failures and abandonments are captured in MST_LAST. -/
def mstCapture (result unit p : Nat) (s : State) : State :=
  capture MST_LAST_valid MST_LAST_overflow 0
    (result * 2 ^ 56 + unit * 2 ^ 52 + p * 2 ^ 32 + ((mcoreGet s p).test - 1) % 2 ^ 32) s

/-- The tests of paddock n's cores are abandoned, result 3; the cores stay due (R548, R566). -/
def abandonTests (n : Nat) (s : State) : State :=
  ((pdkPcores s n).filter (underTest s)).foldl (fun s p =>
    musterMark p false (mcoreMod p (fun m => { m with test := 0 }) (mstCapture 3 0 p s))) s

/-- A core test is complete. -/
def testDone (p : Nat) (s : State) : State :=
  musterMark p false (mcoreMod p (fun m => { m with last := curTick s, due := 0, test := 0 }) s)

/-- A core fails its test: the first failing unit is named (R547, R551). -/
def testFails (p unit : Nat) (s : State) : State := coreFails p 1 (testDone p (wr MST_EVT_core_fail 0 1 (mstCapture 2 unit p s)))

/-- MST_OVERDUE: due cores of serving paddocks for which no window has come (R549). -/
def mstOverdue (s : State) : Nat :=
  ((List.range 64).filter (fun n => pdkState s n == 3 && (pdkGet s n).mwin == 0)).foldl (fun a n =>
    a + ((pdkPcores s n).filter (coreDue s)).length) 0

/-! ### Paddock windows (R550) -/

/-- The dies a paddock covers. -/
def pdkDies (s : State) (n : Nat) : List Nat := (List.range 8).filter (fun d => (pdkCores s n).any (fun c => coreDie c == d))

/-- W1: the swap of paddock n that is about to take step 2 opens a window: bit s' is set and a core is due. -/
def windowWanted (s : State) (n : Nat) : Bool :=
  !activating s && (pdkGet s n).mwin == 0 && natBit (rd s PDK_MWIN_sections n) (foldGet s n).sect && (pdkPcores s n).any (coreDue s)

/-- A Muster window of die d is declared: its entries of classes 0x31 and 0x32, in this tick and the next, unless they stand (R550). -/
def dieWindow (d : Nat) (s : State) : State :=
  if s.bell.cal.any (fun e => e.cls == 0x31 && e.tgt == d) then s
  else schedule (curTick s + 1) 0x32 d (schedule (curTick s) 0x31 d s)

/-- W1 at phase 1 of tick t: the play is deferred to t + 2; the window begins and ends with the dies' entries. -/
def windowDeclare (n : Nat) (s : State) : State :=
  (pdkDies s n).foldl (fun s d => dieWindow d s)
    (schedule (curTick s + 2) 0x22 n (pdkMod n (fun x => { x with mwin := 1 }) s))

/-- Class 0x31: the window of die d begins, and with it those declared for paddocks on it. -/
def windowBegins (d : Nat) (s : State) : State :=
  ((List.range 64).filter (fun n => (pdkGet s n).mwin == 1 && (pdkDies s n).contains d)).foldl (fun s n =>
    pdkMod n (fun x => { x with mwin := 2, mwinAt := curTick s }) s) { s with mwins := mapSet 0 s.mwins d (curTick s + 1) }

/-- Class 0x32: the window of die d ends, unless the next one has begun in this phase (R82); so do those of paddocks. Where the swap that
waits for one has been dropped, nothing follows it. -/
def windowEnds (d : Nat) (s : State) : State :=
  ((List.range 64).filter (fun n => (pdkGet s n).mwin == 2 && (pdkGet s n).mwinAt != curTick s && (pdkDies s n).contains d)).foldl (fun s n =>
    pdkMod n (fun x => { x with mwin := if (foldGet s n).job = 4 then 3 else 0 }) s)
    (if mapGet 0 s.mwins d = curTick s + 1 then s else { s with mwins := mapSet 0 s.mwins d 0 })

/-! ### Muster of shared blocks (R552-R555) -/

/-- The die of a shared block, and the slices of its test. -/
def blockDie (b : Nat) : Nat :=
  if b < 24 then 8 + b / 12 else if b < 28 then 8 + b % 2 else if b < 36 then b - 28 else 11
def blockSlices (b : Nat) : Nat := if b < 24 then 48 else if b < 26 then 64 else if b < 28 then 16 else 8

/-- A slice of block b starts. -/
def sliceStart (kind b : Nat) (s : State) : State := { s with mslice := mapSet 0 s.mslice b kind }

/-- Phase 2 of every tick for block b: a test falls due and begins; a running one counts the tick and, in a window of the die,
starts its next slice; a block that waits for its forced slice starts none (R552, R554; windows: log 35). -/
def blockTick (b : Nat) (s : State) : State :=
  let t := curTick s
  let s1 := if !rdB s (MST_BLK_running.ix b) 0 ∧ mapGet 0 s.mblast b + eff s MST_BPERIOD_bt 0 ≤ t then
      wr (MST_BLK_running.ix b) 0 1 (wr (MST_BLK_slice.ix b) 0 0 (wr (MST_BLK_starve.ix b) 0 0 { s with mblast := mapSet 0 s.mblast b t }))
    else if rdB s (MST_BLK_running.ix b) 0 then bump (MST_BLK_starve.ix b) 0 s
    else s
  if rdB s1 (MST_BLK_running.ix b) 0 ∧ !blockTested s1 b ∧ !rdB s1 (MST_BLK_forced_next.ix b) 0 ∧ mapGet 0 s1.mwins (blockDie b) ≠ 0 then
    sliceStart 1 b s1
  else s1

/-- Block b fails slice k (R555). -/
def blockFails (b k : Nat) (s : State) : State :=
  let s1 := wr MST_EVT_degraded 0 1 (wr (MST_BLK_degraded.ix b) 0 1 (wr (MST_BLK_running.ix b) 0 0 s))
  pfEvent 0x93 11 [regNat s1 MST_EVT_core_fail 0, regNat s1 MST_LAST_valid 0] (flockEvent 0x0211 (blockDie b) b k 0 0 s1)

/-- MUSTER_SLICE_END: the slice of block b ends; the last one ends the test, a failed one marks the block and ends it
(R552, R555). -/
def execMusterSliceEnd (b : Nat) (ok : Bool) (s : State) : Result :=
  .next (if 37 ≤ b ∨ !blockTested s b then s
  else
    let k := rd s (MST_BLK_slice.ix b) 0
    let s1 := wr (MST_BLK_starve.ix b) 0 0 (wr (MST_BLK_forced_next.ix b) 0 0 (sliceStart 0 b s))
    if !ok then blockFails b k s1
    else if k + 1 < blockSlices b then wr (MST_BLK_slice.ix b) 0 (k + 1) s1
    else wr (MST_BLK_running.ix b) 0 0 (wr (MST_BLK_slice.ix b) 0 0 s1))

/-- MUSTER_SLICE_YIELD: a request that cannot wait has reached block b: its slice is abandoned and taken again on a later tick;
a forced one does not yield (R553, R554). -/
def execMusterSliceYield (b : Nat) (s : State) : Result :=
  .next (if 37 ≤ b ∨ mapGet 0 s.mslice b ≠ 1 then s else bump (MST_BLK_yields.ix b) 0 (sliceStart 0 b s))

/-- MUSTER_STARVED: block b has completed no slice for 64 ticks: a forced slice is scheduled, and announced now (R554). -/
def execMusterStarved (b : Nat) (s : State) : Result :=
  .next (if 37 ≤ b ∨ !rdB s (MST_BLK_running.ix b) 0 ∨ rd s (MST_BLK_starve.ix b) 0 < 64 ∨ rdB s (MST_BLK_forced_next.ix b) 0 then s
  else
    let s1 := wr MST_EVT_forced 0 1 (wr (MST_BLK_forced_next.ix b) 0 1 (scheduleNext 0x34 (blockDie b) s))
    pfEvent 0x93 11 [regNat s1 MST_EVT_core_fail 0, regNat s1 MST_LAST_valid 0] s1)

/-- Class 0x34 of a die: the forced slices of its blocks start. -/
def forcedSlices (d : Nat) (s : State) : State :=
  ((List.range 37).filter (fun b => blockDie b == d && rdB s (MST_BLK_forced_next.ix b) 0)).foldl (fun s b => sliceStart 2 b s) s

/-! ### The Cull map and the shift of a column (R556-R559, R561) -/

/-- The logical core of local row ly in column c. -/
def colCore (c ly : Nat) : Nat := coreOfLocal (c / 16) (ly * 16 + c % 16)

/-- Plot number py·16 + px of a logical core. -/
def plotOf (c : Nat) : Nat := c / 64 / 4 * 16 + c % 64 / 4

/-- Mark the plot of a dead position culled (R558). -/
def cullPlot (c : Nat) (s : State) : State :=
  let k := plotOf c
  wr (CUL_CULLED_plots.ix (k / 32)) 0 (natSetBit (rd s (CUL_CULLED_plots.ix (k / 32)) 0) (k % 32) true) s

/-- A plot of paddock n is culled (R561). -/
def pdkCulled (s : State) (n : Nat) : Bool :=
  (pdkCores s n).any (fun c => natBit (rd s (CUL_CULLED_plots.ix (plotOf c / 32)) 0) (plotOf c % 32))

/-- A Cull map record is staged; in log-mute the change is not saved (R557, R572). -/
def cullRecord (c v p kind : Nat) (s : State) : State :=
  let s1 := if rdB s FBK_STAT_log_mute 0 then wr (CUL_COL_unsaved.ix c) 0 1 s else s
  countLife 50 1 (flockEvent 0x0030 (c / 16) c v p kind s1)

/-- CUL_COL of column c once it is shifted to row f (R556). -/
def setShift (c f : Nat) (s : State) : State :=
  wr (CUL_COL_shift.ix c) 0 f (wr (CUL_COL_spare_used.ix c) 0 1 (wr (CUL_COL_factory.ix c) 0 0 s))

/-- The state of cores that moves from physical row k to k + 1, for every k at once; what does not move is dropped (R559). -/
def shiftMap {α : Type} (stride base f : Nat) (mv : Nat → Bool) (m : SMap α) : SMap α :=
  m.filterMap (fun e =>
    let p := e.1 / stride
    if p < base + f ∨ base + 16 < p then some e
    else if p < base + 16 ∧ mv (p - base) then some (e.1 + stride, e.2) else none)

/-- The same for a map keyed by registers. -/
def shiftRegs {α : Type} (base f : Nat) (mv : Nat → Bool) (m : SMap α) : SMap α :=
  m.filterMap (fun e =>
    let k := e.1 / 0x800000
    let p := k % 65536
    if !(coreBlks.any (fun b => blkCode b == k / 65536)) ∨ p < base + f ∨ base + 16 < p then some e
    else if p < base + 16 ∧ mv (p - base) then some (e.1 + 0x800000, e.2) else none)

/-- The physical core a name stands for after the copy. -/
def movedCore (base f : Nat) (mv : Nat → Bool) (p : Nat) : Nat :=
  if base + f ≤ p ∧ p < base + 16 ∧ mv (p - base) then p + 1 else p

/-- The context a name stands for after the copy. -/
def movedCtx (r : Nat → Nat) (g : Nat) : Nat := if ctxFar g then g else 32 * r (g / 32) + g % 32

/-- Who takes an answer, after the copy. -/
def movedRet (r : Nat → Nat) (x : List Nat) : List Nat :=
  match x with
  | 1 :: p :: rest => 1 :: r p :: rest
  | 2 :: g :: rest => 2 :: movedCtx r g :: rest
  | _ => x
def movedXRet (r : Nat → Nat) (x : XRet) : XRet :=
  match x with
  | .drvRead g o => .drvRead (movedCtx r g) o
  | .drvWrite g o => .drvWrite (movedCtx r g) o
  | _ => x
def movedLRet (r : Nat → Nat) (x : List Nat) : List Nat :=
  match x with
  | 4 :: p :: rest => 4 :: r p :: rest
  | 5 :: p :: rest => 5 :: r p :: rest
  | _ => movedRet r x
def movedPRet (r : Nat → Nat) (x : PRet) : PRet :=
  match x with
  | .stream g o d => .stream (movedCtx r g) o d
  | _ => x

/-- What refers to a core that moves refers to its new place. -/
def moveRefs (r : Nat → Nat) (s : State) : State :=
  { s with
    fab := s.fab.map (fun x => { x with ret := movedXRet r x.ret })
    tlyQ := s.tlyQ.map (fun k => { k with ret := movedRet r k.ret })
    tlyWaits := s.tlyWaits.map (fun k => { k with ret := movedRet r k.ret })
    ltkQ := s.ltkQ.map (fun k => { k with ret := movedLRet r k.ret })
    whsLands := s.whsLands.map (fun w => { w with p := r w.p })
    byrQ := s.byrQ.map (fun k => { k with pcoreId := r k.pcoreId })
    cores := s.cores.map (fun e => (e.1, { e.2 with paccs := e.2.paccs.map (fun a => { a with ret := movedPRet r a.ret }) }))
    wlkDue := s.wlkDue.map (fun x => (r x.1, x.2)) }

/-- The complete state of the cores of a column that move (R559). -/
def moveCores (base f : Nat) (mv : Nat → Bool) (s : State) : State :=
  let c {α : Type} (k : Nat) (m : SMap α) : SMap α := shiftMap k base f mv m
  moveRefs (movedCore base f mv)
    { s with
      regs := mapRebuild regDefault (shiftRegs base f mv s.regs)
      bellPend := shiftRegs base f mv s.bellPend
      rearmPend := shiftRegs base f mv s.rearmPend
      fixedDone := shiftRegs base f mv s.fixedDone
      cores := c 1 s.cores, sp := c 131072 s.sp, spEpoch := c 1 s.spEpoch, imem := c 2048 s.imem, rslot := c 4096 s.rslot
      tile := c 16384 s.tile, acc := c 4096 s.acc, shadow := c 4096 s.shadow, desc := c 256 s.desc, spMark := c 131072 s.spMark
      frameChk := c 576 s.frameChk, ht := c 64 s.ht, ctxs := c 32 s.ctxs, sends := c 1 s.sends, rqs := c 8 s.rqs
      spills := c 16 s.spills, opens := c 64 s.opens, landings := c 64 s.landings, connLt := c 64 s.connLt
      connShadow := c 64 s.connShadow, openAt := c 64 s.openAt }

/-- The paddock of local row ly of column c, where its cores' state moves with a shift that repairs paddock rep (plus 1). -/
def movingPdk (s : State) (c ly rep : Nat) : Option Nat :=
  match corePdk s (colCore c ly) with
  | some n => if n + 1 ≠ rep ∧ (pdkState s n = 3 ∨ pdkState s n = 2 ∨ pdkState s n = 6) then some n else none
  | none => none

/-- The shift of column c to row f: states move, the map changes, cores that take over a row without state are reset (DESIGN
CHOICE, log 36) and fenced as their place asks; the pause of every paddock whose state moved is counted (R559). -/
def shiftColumn (c f rep : Nat) (s : State) : State :=
  let base := c / 16 * 0x200 + c % 16 * 0x20
  let mv (ly : Nat) : Bool := f < ly && (movingPdk s c ly rep).isSome
  let rows := (List.range 16).filter (fun ly => f ≤ ly)
  let paused := ((rows.filter (fun ly => f < ly)).filterMap (fun ly => movingPdk s c ly rep)).eraseDups
  let s1 := setShift c f (moveCores base f mv s)
  let s2 := (rows.filter (fun ly => !mv ly)).foldl (fun s ly => setFences (colCore c ly) (coreResetOp (base + ly + 1) s)) s1
  addSat CUL_PAUSES_count 0 paused.length s2

/-! ### In-field repair (R560-R563, R571) -/

/-- Put a failure at place k of the list. -/
def repairPut (k : Nat) (r : Repair) (s : State) : State := { s with repairs := listPut s.repairs k r }

/-- Judge failure k whose column is free: its core serves nothing any more, its column cannot shift and the position is dead
(R561), or the shift is entered in the Flockbook first (R557). -/
def repairJudge (k : Nat) (r : Repair) (s : State) : State :=
  let c := pcol r.p
  match lcore s r.p with
  | none => { s with repairs := listDrop s.repairs k }
  | some l =>
    if rdB s (CUL_COL_spare_used.ix c) 0 ∨ rdB s (CUL_COL_spare_bad.ix c) 0 ∨ rd s (CUL_COL_shift.ix c) 0 < 16 then
      let s1 := cullPlot l (wr (CUL_COL_dead.ix c) 0 1 (wr (CUL_COL_dead_row.ix c) 0 (l / 64 % 16) s))
      cullRecord c (regNat s1 (CUL_COL_shift.ix c) 0) r.p r.kind { s1 with repairs := listDrop s1.repairs k }
    else
      repairPut k { r with stage := 2, saved := rdB s FBK_STAT_log_mute 0 }
        (cullRecord c (regNat (setShift c (prow r.p) s) (CUL_COL_shift.ix c) 0) r.p r.kind s)

/-- P3 of failure k: FLD_PVAR of a regathered paddock with an attested image names the relative column, and the shift begins;
with an image that is not attested no placement is left (R37, R560, R570). -/
def repairShift (k : Nat) (r : Repair) (s : State) : State :=
  let s1 := wr CUL_STAT_shift_busy 0 1 (repairPut k { r with stage := 3 } s)
  match lcore s r.p with
  | some l =>
    let n := r.pdk - 1
    if r.pdk = 0 ∨ !(foldGet s n).has then s1
    else if (foldGet s n).att then wr (FLD_PVAR_valid.ix n) 0 1 (wr (FLD_PVAR_col.ix n) 0 (l % 64 - pdkX0 s n) s1)
    else foldMod n (fun j => { j with noVar := true }) s1
  | none => s1

/-- What can go on now: the first failure that waits for its column alone, else the first whose shift may begin; one shift runs
at a time (R563). -/
def repairStep (s : State) : State :=
  let ready (k : Nat) (r : Repair) : Bool := r.stage == 1 && !(s.repairs.take k).any (fun x => pcol x.p == pcol r.p)
  let ks := (List.range s.repairs.length).zip s.repairs
  match ks.find? (fun x => ready x.1 x.2) with
  | some x => repairJudge x.1 x.2 s
  | none =>
    if s.repairs.any (fun r => r.stage == 3) then s
    else match ks.find? (fun x => x.2.stage == 2 && x.2.saved && x.2.cleared) with
      | some x => repairShift x.1 x.2 s
      | none => s
def repairAdvance (s : State) : State :=
  if activating s then s else iter (2 * s.repairs.length) (fun _ s => repairStep s) s

/-- P2 at the end of phase 2: the owning paddock regathers with cause 4 where it runs (R560). -/
def repairP2 (s : State) : State :=
  if activating s then s else
  let one (s : State) (k : Nat) : State :=
    match s.repairs[k]? with
    | none => s
    | some r =>
      if r.stage ≠ 0 then s
      else
        let n := r.pdk - 1
        let st := pdkState s n
        if r.pdk ≠ 0 ∧ (st = 2 ∨ st = 3 ∨ st = 4 ∨ st = 6) then
          let late := st == 4 && 5 ≤ (pdkGet s n).step
          repairPut k { r with stage := 1, cleared := late } (regatherStart n 4 s)
        else repairPut k { r with stage := 1, pdk := 0, cleared := true } s
  repairAdvance ((List.range s.repairs.length).foldl one s)

/-- The end of G5 of paddock n: P3 of its failures may come. -/
def repairCleared (n : Nat) (s : State) : State :=
  repairAdvance { s with repairs := s.repairs.map (fun r => if r.pdk = n + 1 then { r with cleared := true } else r) }

/-- The record of column c is written in both banks, or in the one that works (R557, R626). -/
def cullSaved (c : Nat) (s : State) : State :=
  repairAdvance { s with repairs := s.repairs.map (fun r => if pcol r.p = c ∧ r.stage = 2 then { r with saved := true } else r) }

/-- COLUMN_PAUSE_END: the copy is complete, the pauses end and the column is shifted (R559). -/
def columnPauseEnd (s : State) : State :=
  match ((List.range s.repairs.length).zip s.repairs).find? (fun x => x.2.stage == 3) with
  | none => s
  | some x => repairAdvance (wr CUL_STAT_shift_busy 0 0
      (shiftColumn (pcol x.2.p) (prow x.2.p) x.2.pdk { s with repairs := listDrop s.repairs x.1 }))

end Sys2Proof.Machine
end

