-- ==== Sys2Proof/Machine/HostRing.lean ====
section
/-! DEFINITION. Rings of H0's functions (spec/21_host.md R664-R679, R687-R691): configuration, doorbells, fetching and executing
submission entries, posting completions, fault records and event records. Function 0 is the PF, n + 1 the VF of paddock n. -/

namespace Sys2Proof.Machine

/-! ### Rings -/

/-- The ring register of a function: kind 0 submission, 1 completion, 2 fault queue, 3 event ring. -/
def ringFld (f kind k : Nat) : Fld :=
  if kind = 0 then HST_SQ_base.ix2 f k else if kind = 1 then HST_CQ_base.ix2 f k
  else if kind = 2 then HST_FQ_base.ix f else HST_EQ_base.ix f

def ringWord (s : State) (f kind k : Nat) : Word := rdW s .hst 0 (ringFld f kind k).off
def ringOn (s : State) (f kind k : Nat) : Bool := (ringWord s f kind k).toNat % 2 == 1
def ringEntries (s : State) (f kind k : Nat) : Nat := 2 ^ (fieldGet (ringWord s f kind k) 7 4 + 4)
def ringAddr (s : State) (f kind k : Nat) : Nat := (ringWord s f kind k).toNat / 4096 * 4096

def hringGet (s : State) (f k : Nat) : HRing := mapGet hringReset s.hrings (8 * f + k)
def hringMod (f k : Nat) (g : HRing → HRing) (s : State) : State :=
  { s with hrings := mapSet hringReset s.hrings (8 * f + k) (g (hringGet s f k)) }

/-- Entries from a to b around a ring of n. -/
def ringGap (n a b : Nat) : Nat := (b + n - a % n) % n

/-- A write of H0 toward host memory for function f, by its own requester id and no PASID (spec/21_host.md, Model); the code
2^21 + f names it beside PASID codes. -/
def hostWr (f addr : Nat) (bs : List Nat) (s : State) : State := emit .hostWrite ([2 ^ 21 + f, addr, bs.length, 0] ++ bs) s

/-- The submission entries of a ring H0 holds, in fetch order. -/
def ringEnts (s : State) (f k : Nat) : List HEnt := s.hostEnts.filter (fun h => h.f == f && h.k == k)

/-- An entry leaves H0, its buffer goes back (R667). -/
def entGone (h : HEnt) (s : State) : State :=
  bufferBack h.buf { s with hostEnts := s.hostEnts.filter (fun x => x.order != h.order) }

/-- HST_RSTAT.running. -/
def ringShow (f k : Nat) (s : State) : State :=
  wr (HST_RSTAT_running.ix2 f k) 0 (b2n ((ringEnts s f k).any (fun h => h.st == 1))) s

/-- Change entry h. -/
def entMod (h : HEnt) (g : HEnt → HEnt) (s : State) : State :=
  ringShow h.f h.k { s with hostEnts := s.hostEnts.map (fun x => if x.order = h.order then g x else x) }

/-- A write of a ring register with en = 1 initialises the ring, one with en = 0 stops it (R665). Entries fetched and not
begun belong to the ring as it was: their buffers go back (log 30). -/
def ringConfigure (f kind k data : Nat) (s : State) : State :=
  if kind = 3 ∧ f ≠ 0 then s
  else
    let w := data / 4096 * 4096 + natBits data 7 4 * 16 + data % 2
    let s1 := wrW .hst 0 (ringFld f kind k).off (BitVec.ofNat 64 w) s
    if data % 2 = 0 then s1
    else if kind = 0 then
      ((ringEnts s1 f k).filter (fun h => h.st == 0 || h.st == 4)).foldl (fun s h => entGone h s)
        (wr (HST_RSTAT_sq_head.ix2 f k) 0 0 (wr (HST_RSTAT_stage_wait.ix2 f k) 0 0 (hringMod f k (fun r => { r with tail := 0 }) s1)))
    else if kind = 1 then
      wr (HST_RSTAT_cq_tail.ix2 f k) 0 0 (wr (HST_RSTAT_cq_phase.ix2 f k) 0 1 (wr (HST_CQIDX_next.ix2 f k) 0 0
        (hringMod f k (fun r => { r with cqHead := 0 }) s1)))
    else if kind = 2 then
      wr (HST_QSTAT_fq_tail.ix f) 0 0 (wr (HST_QSTAT_fq_phase.ix f) 0 1 (fnMod f (fun x => { x with fqSeq := 0, fqHead := 0 }) s1))
    else
      wr (HST_QSTAT_eq_tail.ix 0) 0 0 (wr (HST_QSTAT_eq_phase.ix 0) 0 1 (fnMod 0 (fun x => { x with eqSeq := 0, eqHead := 0 }) s1))

/-- RING_CONFIGURE: a write of HST_SQ[k], HST_CQ[k], HST_FQ or HST_EQ of function f (R665). -/
def execRingConfigure (f kind k : Nat) (data : Word) (s : State) : Result :=
  .next (if 65 ≤ f ∨ 4 ≤ kind ∨ 8 ≤ k then s else ringConfigure f kind k data.toNat s)

/-- A doorbell that names no entry, or too many, sets db_err (R666). -/
def dbError (f : Nat) (s : State) : State := wr (HST_FEVT_db_err.ix f) 0 1 s

/-- A write of HST_SQDB[k] (R666). -/
def sqDoorbell (f k t : Nat) (s : State) : State :=
  if !ringOn s f 0 k then s
  else
    let n := ringEntries s f 0 k
    let tail := (hringGet s f k).tail
    let head := rd s (HST_RSTAT_sq_head.ix2 f k) 0
    if n ≤ t ∨ n - 1 < ringGap n head tail + ringGap n tail t then dbError f s
    else hringMod f k (fun r => { r with tail := t }) s

/-- SUBMISSION_DOORBELL: HST_SQDB[k] of function f takes t. -/
def execSubmissionDoorbell (f k t : Nat) (s : State) : Result := .next (if 65 ≤ f ∨ 8 ≤ k then s else sqDoorbell f k (t % 2 ^ 20) s)

/-- A write of HST_CQDB[k] (kind 1), HST_FQDB (2) or HST_EQDB (3): entries up to h are free (R666). More than the device has
written cannot be freed. -/
def headDoorbell (f kind k h : Nat) (s : State) : State :=
  if (kind = 3 ∧ f ≠ 0) ∨ !ringOn s f kind k then s
  else
    let n := ringEntries s f kind k
    let tail := if kind = 1 then rd s (HST_RSTAT_cq_tail.ix2 f k) 0 else if kind = 2 then rd s (HST_QSTAT_fq_tail.ix f) 0
      else rd s (HST_QSTAT_eq_tail.ix f) 0
    let head := if kind = 1 then (hringGet s f k).cqHead else if kind = 2 then (fnGet s f).fqHead else (fnGet s f).eqHead
    if n ≤ h ∨ ringGap n head tail < ringGap n head h then dbError f s
    else if kind = 1 then hringMod f k (fun r => { r with cqHead := h }) s
    else if kind = 2 then fnMod f (fun x => { x with fqHead := h }) s
    else fnMod f (fun x => { x with eqHead := h }) s

/-- HEAD_DOORBELL: HST_CQDB[k], HST_FQDB or HST_EQDB of function f takes h. -/
def execHeadDoorbell (f kind k h : Nat) (s : State) : Result :=
  .next (if 65 ≤ f ∨ kind = 0 ∨ 4 ≤ kind ∨ 8 ≤ k then s else headDoorbell f kind k (h % 2 ^ 20) s)

/-! ### Fetching (R667) -/

/-- The ring has an entry to fetch, fewer than four are fetched ahead, and a staging pool is named. -/
def canFetch (s : State) (f k : Nat) : Bool :=
  ringOn s f 0 k && rd s (HST_RSTAT_sq_head.ix2 f k) 0 != (hringGet s f k).tail &&
    ((ringEnts s f k).filter (fun h => h.st == 0)).length < 4 && rdB s (HST_STAGE_valid.ix f) 0 && !fnUnderReset s f

/-- The entry takes its words and waits for its turn. -/
def fetchInto (f k : Nat) (buf : List Nat) (ws : List Nat) (s : State) : State :=
  let n := ringEntries s f 0 k
  let head := rd s (HST_RSTAT_sq_head.ix2 f k) 0
  let h : HEnt := { f := f, k := k, idx := head, words := (ws ++ List.replicate 8 0).take 8, st := 0, status := 0, res := 0,
                    buf := buf, order := s.hostNext }
  let s1 := emit .hostRead [2 ^ 21 + f, ringAddr s f 0 k + 64 * head, 64] s
  let s2 := match buf with
    | [d, j, b] => memWrite (bufAddr s1 d j b) (h.words.flatMap (leBytes 8)) [] s1
    | _ => s1
  wr (HST_RSTAT_stage_wait.ix2 f k) 0 0 (wr (HST_RSTAT_sq_head.ix2 f k) 0 ((head + 1) % n)
    { s2 with hostEnts := s2.hostEnts ++ [h], hostNext := s2.hostNext + 1 })

/-- Fetch the next entry: into the buffer it kept (R674), else into one got from the staging pool. -/
def fetchEntry (f k : Nat) (ws : List Nat) (s : State) : State :=
  if !canFetch s f k then s
  else
    let head := rd s (HST_RSTAT_sq_head.ix2 f k) 0
    match (ringEnts s f k).find? (fun h => h.st == 4 && h.idx == head) with
    | some h => fetchInto f k h.buf ws { s with hostEnts := s.hostEnts.filter (fun x => x.order != h.order) }
    | none =>
      let d := rd s (HST_STAGE_die.ix f) 0
      let j := rd s (HST_STAGE_pool.ix f) 0
      let r := byreGetBy 10 d j (fnBrand f) (reqService (2 + k)) s
      if r.1.status = 0 then fetchInto f k [d, j, r.1.buf] ws r.2
      else
        let s1 := wr (HST_RSTAT_stage_wait.ix2 f k) 0 1 r.2
        if r.1.status = 5 then wr (HST_FEVT_stage_err.ix f) 0 1 s1 else s1

/-- SUBMISSION_FETCH: H0 fetches the next entry of ring k, whose eight words host memory answers. -/
def execSubmissionFetch (f k : Nat) (ws : List Nat) (s : State) : Result :=
  .next (if 65 ≤ f ∨ 8 ≤ k ∨ rdB s (HST_RSTAT_stage_wait.ix2 f k) 0 then s else fetchEntry f k ws s)

/-- STAGE_GET_RETRY: 1 us after a refused get it is made again; a ring that has stopped meanwhile waits no longer (R667). -/
def execStageGetRetry (f k : Nat) (ws : List Nat) (s : State) : Result :=
  .next (if 65 ≤ f ∨ 8 ≤ k ∨ !rdB s (HST_RSTAT_stage_wait.ix2 f k) 0 then s
    else if !canFetch s f k then wr (HST_RSTAT_stage_wait.ix2 f k) 0 0 s
    else fetchEntry f k ws (bump (HST_STGWAIT_count.ix f) 0 s))

/-! ### Executing (R668-R671) -/

/-- Byte b of an entry, and n bytes from b on as a number. -/
def entByte (h : HEnt) (b : Nat) : Nat := (h.words.getD (b / 8) 0) / 2 ^ (8 * (b % 8)) % 256
def entNat (h : HEnt) (b n : Nat) : Nat := leNat ((List.range n).map (fun i => entByte h (b + i)))
def entOp (h : HEnt) : Nat := entByte h 0
def entTag (h : HEnt) : Nat := entNat h 4 4

/-- The bytes an opcode names: first byte and length. -/
def opBytes (op : Nat) : List (Nat × Nat) :=
  [(0, 1), (4, 4)] ++ (if op = 2 then [(8, 16)] else if op = 3 then [(8, 17)] else if op = 4 then [(8, 2), (12, 4)]
    else if op = 5 then [(8, 4), (16, 6), (24, 38)] else if op = 6 then [(8, 3)] else [])

/-- A counter word the host may name: lt 0, no reserved bit set (R422, R669). -/
def cwPlain (w : Nat) : Bool := w < 2 ^ 16 && (!natBit w 15 || (natBits w 14 12 == 0 && cwIndex w < 1024))

/-- The context a STREAM or a far re-arm names: far context `x` of function f (R485, R669). -/
def hostFar (s : State) (f x : Nat) : Option Nat :=
  if f = 0 then (if x < 32768 then some (131072 + x) else none)
  else
    let t := farCtx s (f - 1) x
    if x < 64 * (farEntries s (f - 1)).length then some (131072 + 16384 * t.1 + t.2) else none

/-- A malformed entry (R672). -/
def malformed (s : State) (h : HEnt) : Bool :=
  let op := entOp h
  6 < op || (List.range 64).any (fun b => entByte h b != 0 && !(opBytes op).any (fun r => r.1 ≤ b && b < r.1 + r.2)) ||
  ((op == 2 || op == 3) && !cwPlain (entNat h 8 8)) || (op == 3 && 1 < entByte h 24) ||
  (op == 4 && natBit (entNat h 8 2) 15 && (hostFar s h.f (32 * (entNat h 8 2 % 2 ^ 15))).isNone) ||
  (op == 4 && !natBit (entNat h 8 2) 15 && 2047 < entNat h 8 2) ||
  (op == 5 && ((hostFar s h.f (entNat h 8 4)).isNone || 7 < entByte h 59 || 4095 < entNat h 60 2)) ||
  (op == 6 && (h.f != 0 || 63 < entByte h 8 || entByte h 9 == 0 || 2 < entByte h 9))

/-- The entry at the head of ring k: fetched, and every earlier one posted or held (R668, log 31). -/
def ringHead (s : State) (f k : Nat) : Option HEnt := (ringEnts s f k).find? (fun h => h.st != 3)

/-- An execution of opcode op at the head of ring k of function f, where it is well formed and may start. -/
def hostStart (op f k : Nat) (run : HEnt → State → State) (s : State) : Result :=
  .next (match ringHead s f k with
  | none => s
  | some h => if h.st = 0 ∧ entOp h = op ∧ !malformed s h ∧ !fnUnderReset s f then run h s else s)

/-- The entry is executed. -/
def entDone (h : HEnt) (status res : Nat) (s : State) : State := entMod h (fun x => { x with st := 2, status := status, res := res }) s

/-- Every BAR write of the function has been acknowledged (R671). -/
def barWritesDone (s : State) (f : Nat) : Bool :=
  !s.fab.any (fun x => match x.ret with
    | .bar g _ => g == f && x.wr
    | _ => false)

/-- NOP: completes at once. -/
def execNop (f k : Nat) (s : State) : Result := hostStart 0 f k (fun h s => entDone h 0 0 s) s

/-- FENCE: completes once every entry fetched earlier by any ring of the function has its completion posted (or held). -/
def execSqFence (f k : Nat) (s : State) : Result :=
  hostStart 1 f k (fun h s =>
    if s.hostEnts.any (fun x => x.f == f && x.order < h.order && x.st != 3) then s else entDone h 0 0 s) s

/-- A Tally packet of an entry sets out. -/
def hostTally (op : Nat) (h : HEnt) (v cond : Nat) (s : State) : State :=
  let w := entNat h 8 8
  entMod h (fun x => { x with st := 1 })
    (tlyPush { op := op, unit := cwUnit w, idx := cwIndex w, val := v, cond := cond, extra := [], brand := fnBrand h.f, die := 10,
               ret := [3, h.f, h.order] } s)

/-- TADD: an add, after every earlier BAR write of the function (R671). -/
def execTadd (f k : Nat) (s : State) : Result :=
  hostStart 2 f k (fun h s => if barWritesDone s f then hostTally 0 h (entNat h 16 8) 0 s else s) s

/-- TWAIT: one of the function's 64 host waits. -/
def execTwait (f k : Nat) (s : State) : Result :=
  hostStart 3 f k (fun h s =>
    if (s.hostEnts.filter (fun x => x.f == f && x.st == 1 && entOp x == 3)).length < 64 then hostTally 1 h (entNat h 16 8) (entByte h 24) s
    else s) s

/-- The core a REARM names. -/
def hostCore (s : State) (f x : Nat) : Option Nat :=
  if f = 0 then (if x < 2048 then some x else none) else if x < pdkCount s (f - 1) then some (pdkCore s (f - 1) x) else none

/-- REARM: a write of a re-arm doorbell, after every earlier BAR write of the function (R671). A gate that refuses it gives
status 2. -/
def execRearm (f k : Nat) (s : State) : Result :=
  hostStart 4 f k (fun h s =>
    if !barWritesDone s f then s
    else
      let x := entNat h 8 2
      let mask := entNat h 12 4
      if natBit x 15 then
        (match hostFar s f (32 * (x % 2 ^ 15)) with
         | some g => entDone h 0 0 (drvBits rearmRequest g mask s)
         | none => entDone h 2 0 s)
      else match hostCore s f (x % 2048) with
        | some c => if admitCore s (fnBrand f) c false then entDone h 0 0 (drvBits rearmRequest (32 * pcore s c) mask s) else entDone h 2 0 s
        | none => entDone h 2 0 s) s

/-- The registers of context g that STREAM writes (R670). -/
def streamSet (g : Nat) (h : HEnt) (s : State) : State :=
  let put (f : Fld) (v : Nat) (s : State) : State := cwr f g v s
  let b := entByte h 59
  put DRV_BASE_va (entNat h 16 6) (put DRV_SHAPE_n0 (entNat h 24 2) (put DRV_SHAPE_n1 (entNat h 26 2)
    (put DRV_SHAPE_n2 (entNat h 28 2) (put DRV_SHAPE_n3 (entNat h 30 2)
    (put (DRV_STRIDE_stride.ix 0) (entNat h 32 6) (put (DRV_STRIDE_stride.ix 1) (entNat h 38 6) (put (DRV_STRIDE_stride.ix 2) (entNat h 44 6)
    (put DRV_DBASE_va (entNat h 50 6) (put DRV_BUF_bsize (entNat h 56 3) (put DRV_CTXCFG_esz (b % 4) (put DRV_CTXCFG_autores (b / 4 % 2)
    (put DRV_CTXCFG_drain_rate (entNat h 60 2 % 4096) (put DRV_CTXCFG_dir 0 (put DRV_CTXCFG_task 0 (put DRV_CTXCFG_persistent 0
      (put DRV_SIG_en 0 s))))))))))))))))

/-- STREAM: arms a far context as a copy (R670). A context that is not Unarmed is refused and keeps its registers. -/
def execStream (f k : Nat) (s : State) : Result :=
  hostStart 5 f k (fun h s =>
    match hostFar s f (entNat h 8 4) with
    | none => s
    | some g =>
      if ctxState s g ≠ ctxUnarmed then
        let s1 := armCtx g s
        entDone h 2 (crd s1 DRV_CTXSTAT_arm_err g) s1
      else
        let s1 := armCtx g (streamSet g h s)
        if crd s1 DRV_CTXSTAT_arm_err g ≠ 0 then entDone h 2 (crd s1 DRV_CTXSTAT_arm_err g) s1
        else entMod h (fun x => { x with st := 1 }) s1) s

/-- FOLD: a load or a swap; refused where the loader sets err (R669, R672). -/
def execFold (f k : Nat) (s : State) : Result :=
  hostStart 6 f k (fun h s =>
    let n := entByte h 8
    let s1 := if entByte h 9 = 1 then foldAsk n 1 0 s else foldAsk n 2 (entByte h 10) s
    if activating s then entMod h (fun x => { x with st := 1 }) s1
    else if rd s1 (FLD_PSTAT_err.ix n) 0 ≠ 0 then entDone h 2 (rdW s1 .fld 0 (FLD_PSTAT_err.ix n).off).toNat s1
    else entMod h (fun x => { x with st := 1 }) s1) s

/-- What an entry that waits on a stream or a load has come to: its status and result (R669, R670, R672). -/
def hostPoll (s : State) (h : HEnt) : Option (Nat × Nat) :=
  if h.st = 2 then some (h.status, h.res)
  else if h.st = 0 then (if malformed s h then some (1, 0) else none)
  else if entOp h = 5 then
    (match hostFar s h.f (entNat h 8 4) with
     | none => none
     | some g =>
       if ctxState s g = ctxUnarmed then some (0, crd s DRV_DONE_done g)
       else if ctxState s g = ctxHalted ∧ !((ctxGet s g).code == 2 && crd s DRV_CTXSTAT_halt_cause g == 2 && crd s DRV_CTXCFG_autores g == 1) then
         some (3, (if crd s DRV_CTXSTAT_halt_cause g = 1 then 0 else (ctxGet s g).code) + crd s DRV_CTXSTAT_halt_cause g * 2 ^ 8)
       else none)
  else if entOp h = 6 then
    (let n := entByte h 8
     let w := (rdW s .fld 0 (FLD_PSTAT_err.ix n).off).toNat
     if s.mgmt.held.any (fun c => c.take 2 == [2, n]) then none
     else if rd s (FLD_PSTAT_err.ix n) 0 ≠ 0 then some (2, w)
     else if pdkState s n = 3 ∧ ((foldGet s n).job = 0 ∨ (foldGet s n).job = 3) then some (0, w) else none)
  else none

/-! ### Posting completions (R672, R673, R508) -/

/-- A completion ring can take one more entry. -/
def cqFree (s : State) (f k : Nat) : Bool :=
  ringOn s f 1 k && ringGap (ringEntries s f 1 k) (hringGet s f k).cqHead (rd s (HST_RSTAT_cq_tail.ix2 f k) 0) < ringEntries s f 1 k - 1

/-- Write a completion to its ring and raise what announces it (R672, R680, R108). -/
def postCompletion (f k tag status op res epoch eidx : Nat) (s : State) : State :=
  let n := ringEntries s f 1 k
  let t := rd s (HST_RSTAT_cq_tail.ix2 f k) 0
  let ph := rd s (HST_RSTAT_cq_phase.ix2 f k) 0
  let idx := rd s (HST_CQIDX_next.ix2 f k) 0
  let ws := [idx + tag * 2 ^ 32, status + op * 2 ^ 16 + ph * 2 ^ 24, epoch % 2 ^ 64, eidx % 2 ^ 32 + res % 2 ^ 32 * 2 ^ 32]
  let s1 := hostWr f (ringAddr s f 1 k + 32 * t) (ws.flatMap (leBytes 8)) s
  let s2 := wr (HST_RSTAT_cq_tail.ix2 f k) 0 ((t + 1) % n) (wr (HST_RSTAT_cq_phase.ix2 f k) 0 (if t + 1 = n then 1 - ph else ph)
    (wr (HST_CQIDX_next.ix2 f k) 0 (idx + 1) s1))
  let s3 := wr (HST_RSTAT_cq_wait.ix2 f k) 0 0 (hringMod f k (fun r => { r with since := 0 }) s2)
  if f = 0 then sendMsix 0 (2 + k) s3 else raiseSource (f - 1) k s3

/-- A completion waits for its ring; HST_CQWAIT counts the microseconds (R673). -/
def cqWaits (f k t : Nat) (s : State) : State :=
  let now := t / 100
  let since := (hringGet s f k).since
  let s1 := if since = 0 then s else addSat (HST_CQWAIT_count.ix f) 0 (now + 1 - since) s
  wr (HST_RSTAT_cq_wait.ix2 f k) 0 1 (hringMod f k (fun r => { r with since := now + 1 }) s1)

/-- The completions held for the epoch open in paddock n. -/
def heldCompletions (s : State) (n : Nat) : Nat :=
  (s.held.filter (fun h => h.n == n && h.kind == 2 && h.epoch == rd s PDK_EPOCH_epoch n)).length

/-- COMPLETION_POST: at time t the head entry of ring k of function f has been executed (or is malformed): its completion is
posted, held in integrity mode, discarded under reset, or waits for a free entry. -/
def execCompletionPost (f k t : Nat) (s : State) : Result :=
  .next (match ringHead s f k with
  | none => s
  | some h =>
    match hostPoll s h with
    | none => s
    | some (status, res) =>
      let s1 := atTime t s
      let s2 := entMod h (fun x => { x with st := 2, status := status, res := res }) s1
      if fnUnderReset s f then entGone h s2
      else if f ≠ 0 ∧ integrityOf s (f - 1) then
        (if holdFits s (f - 1) 64 then
           entMod h (fun x => { x with st := 3, status := status, res := res })
             (holdOut (f - 1) 2 [f, k, h.order, entTag h, status, entOp h, res, heldCompletions s (f - 1)] [] 64 s1)
         else holdStuck (f - 1) s2)
      else if cqFree s f k then ringShow f k (entGone h (postCompletion f k (entTag h) status (entOp h) res 0 0
        (if (hringGet s1 f k).since = 0 then s1 else cqWaits f k t s1)))
      else cqWaits f k t s2)

/-! ### Record queues (R676-R679) -/

/-- A queue can take one more record. -/
def rqFree (s : State) (f kind : Nat) : Bool :=
  let n := ringEntries s f kind 0
  let tail := if kind = 2 then rd s (HST_QSTAT_fq_tail.ix f) 0 else rd s (HST_QSTAT_eq_tail.ix f) 0
  let head := if kind = 2 then (fnGet s f).fqHead else (fnGet s f).eqHead
  ringOn s f kind 0 && ringGap n head tail < n - 1

/-- The eight words of a record with its common header (R676). -/
def recordWords (r : List Nat) (phase seq : Nat) : List Nat :=
  match r with
  | typ :: die :: ws => (typ % 256 + die % 16 * 2 ^ 8 + phase * 2 ^ 12 + seq % 2 ^ 32 * 2 ^ 32) :: (ws ++ List.replicate 7 0).take 7
  | _ => List.replicate 8 0

/-- Post a record to the fault queue of function f (R677, R108, R680). -/
def postFault (f : Nat) (r : List Nat) (s : State) : State :=
  let n := ringEntries s f 2 0
  let t := rd s (HST_QSTAT_fq_tail.ix f) 0
  let ph := rd s (HST_QSTAT_fq_phase.ix f) 0
  let s1 := hostWr f (ringAddr s f 2 0 + 64 * t) ((recordWords r ph (fnGet s f).fqSeq).flatMap (leBytes 8)) s
  let s2 := wr (HST_QSTAT_fq_tail.ix f) 0 ((t + 1) % n) (wr (HST_QSTAT_fq_phase.ix f) 0 (if t + 1 = n then 1 - ph else ph)
    (fnMod f (fun x => { x with fqSeq := (x.fqSeq + 1) % 2 ^ 32 }) s1))
  if f = 0 then sendMsix 0 1 s2 else raiseSource (f - 1) (if r.headD 0 = 0x11 then 10 else 8) s2

/-- FAULT_RECORD_POST: the oldest staged fault record of function f is written to its queue, where it has room; the gets of held ones are
repeated (R457, R677). -/
def execFaultRecordPost (f : Nat) (s : State) : Result :=
  .next (match (fnGet s f).staged with
  | [] => setHeldCount f (stageHeld f 65 s)
  | (r, d, j, b) :: rest =>
    if fnUnderReset s f then s
    else if !rqFree s f 2 then setHeldCount f (stageHeld f 65 s)
    else setHeldCount f (stageHeld f 65 (bufferBack [d, j, b] (postFault f r (fnMod f (fun x => { x with staged := rest }) s)))))

/-- Post a record to the event ring (R677, R679, R680): notices and fence records raise vector 64 + n alone. -/
def postEvent (r : List Nat) (s : State) : State :=
  let n := ringEntries s 0 3 0
  let t := rd s (HST_QSTAT_eq_tail.ix 0) 0
  let ph := rd s (HST_QSTAT_eq_phase.ix 0) 0
  let s1 := hostWr 0 (ringAddr s 0 3 0 + 64 * t) ((recordWords r ph (fnGet s 0).eqSeq).flatMap (leBytes 8)) s
  let s2 := wr (HST_QSTAT_eq_tail.ix 0) 0 ((t + 1) % n) (wr (HST_QSTAT_eq_phase.ix 0) 0 (if t + 1 = n then 1 - ph else ph)
    (fnMod 0 (fun x => { x with eqSeq := (x.eqSeq + 1) % 2 ^ 32 }) s1))
  sendMsix 0 (match r with
    | 0x80 :: _ :: w :: _ => 64 + w % 64
    | 0x81 :: _ :: w :: _ => 64 + w / 2 ^ 32 % 64
    | _ => 0) s2

/-- EVENT_RECORD_POST: the oldest event record of H0's store is written to the ring; after it has drained, the record that
counts what was lost. -/
def execEventRecordPost (s : State) : Result :=
  .next (if !rqFree s 0 3 ∨ fnUnderReset s 0 then s
  else match s.pfEvents with
    | r :: rest =>
      let s1 := postEvent r { s with pfEvents := rest }
      setHeldCount 0 (if s1.pfLost ≠ 0 then { s1 with pfEvents := s1.pfEvents ++ [[0x01, 10, s1.pfLost]], pfLost := 0 } else s1)
    | [] => s)

end Sys2Proof.Machine
end

