-- ==== Sys2Proof/Machine/Longtrack.lean ====
section
/-! DEFINITION. Ethernet ports and Longtrack (spec/22_longtrack.md R697-R720): ports, paths and keepalives, DATA packets
received, acknowledgements and refusals, resending, dead routes, PFC and PTP. Times in 10 ns. -/

namespace Sys2Proof.Machine

def lpathGet (s : State) (j : Nat) : LPath := mapGet lpathReset s.ltkPaths j
def lpathMod (j : Nat) (g : LPath → LPath) (s : State) : State :=
  { s with ltkPaths := mapSet lpathReset s.ltkPaths j (g (lpathGet s j)) }
def lrouteGet (s : State) (r : Nat) : LRoute := mapGet lrouteReset s.ltkRoutes r
def lrouteMod (r : Nat) (g : LRoute → LRoute) (s : State) : State :=
  { s with ltkRoutes := mapSet lrouteReset s.ltkRoutes r (g (lrouteGet s r)) }

/-- A port is up. -/
def portUp (s : State) (q : Nat) : Bool := rdB s LTK_PSTAT_up q

/-- The routes that name path j. -/
def routesOver (s : State) (j : Nat) : List Nat :=
  (List.range 2048).filter (fun r => rt LTK_ROUTE0_valid s r == 1 && (routePaths s r).contains j)

/-! ### What a packet's end means to who sent it (R704, R707, R708) -/

/-- Packet k has been acknowledged. -/
def pktAcked (k : LPkt) (s : State) : State :=
  match k.ret with
  | [1, p, d] => qMod p .x d (fun x => { x with answered := true }) s
  | [2, g, o] => { s with fab := s.fab.map (fun x => if x.stage = 6 ∧ xactCtx x = some (g, o) then { x with stage := 4, status := 0 } else x) }
  | [4, p, sid] => whsAcked p sid s
  | _ => s

/-- The first of a far context's writes that is not acknowledged, if it comes before x. -/
def firstUnacked (s : State) (g : Nat) (x : Xact) : Xact :=
  s.fab.foldl (fun y z => match y.ret, z.ret with
    | .drvWrite _ a, .drvWrite h b => if h = g ∧ z.stage ≠ 4 ∧ b < a then z else y
    | _, _ => y) x

/-- A far context's write was refused, or (status 0) its route died: its stream halts at the first request not acknowledged, with
code 8, whether or not a command has halted it before; what it has on its way to the peer is written again after a resume (R323,
R324, R707, R708). -/
def farFail (g o status : Nat) (s : State) : State :=
  match s.fab.find? (fun x => x.stage == 6 && xactCtx x == some (g, o)) with
  | none => s
  | some x =>
    let y := firstUnacked s g x
    let pos := match y.ret with
      | .drvWrite _ b => b
      | _ => o
    let z := if status = 0 then y else x
    let s1 := { s with fab := s.fab.filter (fun x => !(x.stage == 6 && xactOf g x)) }
    ctxShow g (streamFault g z.va 8 status z.len true (haltCtx g 3 pos s1))

/-- Packet k was refused with a status (R707). -/
def pktRefused (k : LPkt) (status : Nat) (s : State) : State :=
  match k.ret with
  | [1, p, d] =>
    (match qFind s p .x d with
     | some e => xFault p e 4 (qMod p .x d (fun x => { x with answered := true }) s)
     | none => s)
  | [2, g, o] => farFail g o status s
  | [4, p, sid] =>
    (match (sendsOf s p).find? (fun w => w.sid == sid) with
     | some w => whsRefused p w.msg s
     | none => s)
  | [5, p, l, t] => openAnswered p l false (whsRefused p { whsFrom s p t 1 with sentry := l } s)
  | _ => s

/-- Packet k stood outstanding when its route died (R708). -/
def pktDead (k : LPkt) (s : State) : State :=
  match k.ret with
  | [1, p, d] =>
    (match qFind s p .x d with
     | some e => xFault p e 5 (qMod p .x d (fun x => { x with answered := true }) s)
     | none => s)
  | [2, g, o] => farFail g o 0 s
  | [4, p, sid] =>
    (match (sendsOf s p).find? (fun w => w.sid == sid) with
     | some w =>
       whsRecord (pcorePdk s p) (p / 0x200) w.msg.dst 5 w.msg
         (sendsPut p ((sendsOf s p).map (fun x => if x.sid = sid then { x with st := 3 } else x)) s)
     | none => s)
  | _ => s

/-- A packet that the route's death leaves to be resent once the route is live: an unacknowledged Whistle message, an open request (R708). -/
def staysDead (k : LPkt) : Bool := match k.ret with
  | [4, _, _] => true
  | [5, _, _, _] => true
  | _ => false

/-- Its sender still waits to send it: the message stands in the send table, the entry is Opening. -/
def stillSends (s : State) (k : LPkt) : Bool := match k.ret with
  | [4, p, sid] => (sendsOf s p).any (fun w => w.sid == sid)
  | [5, p, l, _] => cn WHS_CONN_state s p l == cnOpening
  | _ => false

/-- The packets of a route fail as they do on its death; Whistle messages stay, to be resent (R708). Where the numbers start anew
(`keep` false) they too are discarded as packets, and stand as not sent (R709). -/
def routeFails (r : Nat) (keep : Bool) (s : State) : State :=
  let ks := s.ltkQ.filter (fun k => k.route == r)
  let left (k : LPkt) : List LPkt :=
    if k.route ≠ r then [k]
    else if keep then (if staysDead k then [k] else [])
    else if stillSends s k then [{ k with first := 0, seq := 0 }] else []
  routeShow r (ks.foldl (fun s k => pktDead k s) { s with ltkQ := s.ltkQ.flatMap left })

/-- Messages whose route is live again leave the send table's wait, and what waits is sent (R708). -/
def routeWake (r : Nat) (s : State) : State :=
  routePump r 64 { s with sends := s.sends.map (fun e => (e.1, e.2.map (fun w =>
    if w.st = 3 ∧ s.ltkQ.any (fun k => k.route == r && k.ret == [4, e.1, w.sid]) then { w with st := 2 } else w))) }

/-! ### Routes die and live (R708) -/

/-- A route changes between dead and live: its event bit and record. -/
def routeEvent (r dead : Nat) (s : State) : State :=
  let s1 := wr LTK_EVT_route_dead (r / 256) 1 (rtSet LTK_ROUTE0_dead r dead s)
  pfEvent 0x98 10 [r, regNat s1 LTK_EVT_route_dead (r / 256)] s1

/-- Standbys whose active paddock is reached over route r (R521). -/
def standbysOver (s : State) (r : Nat) : List Nat :=
  (List.range 64).filter (fun m => pdkCreated s m && rdB s PDK_WPCFG_en m && rdB s PDK_WPCFG_remote m &&
    rdB s PDK_WPCFG_role m && rd s PDK_WPCFG_route m == r)

/-- Route r dies. -/
def routeDies (r : Nat) (timed : Bool) (s : State) : State :=
  let s1 := routeFails r true (routeEvent r 1 (lrouteMod r (fun x => { x with timed := timed }) s))
  (standbysOver s r).foldl (fun s m => pdkMod m (fun x => { x with failDue := true }) s) s1

/-- Packet k is sent again on path j (R704). -/
def resendOn (k : LPkt) (j : Nat) (s : State) : State :=
  bump LTK_RETX_count (j / 32) (sendData k j
    { s with ltkQ := s.ltkQ.map (fun x => if x.route = k.route ∧ x.seq = k.seq ∧ x.first ≠ 0 then { x with path := j, last := s.now + 1 } else x) })

/-- Every packet sent and not acknowledged is resent on path j (R716). -/
def resendAll (r j : Nat) (s : State) : State :=
  (s.ltkQ.filter (fun k => k.route == r && k.first != 0 && k.path != j)).foldl (fun s k => resendOn k j s) s

/-- Route r follows its paths: it dies with the last one, lives again with the first, and packets of a dead path move on
(R708, R716). -/
def routeRefresh (r : Nat) (s : State) : State :=
  match routePath s r with
  | none => if rt LTK_ROUTE0_dead s r = 0 then routeDies r false s else s
  | some j =>
    if rt LTK_ROUTE0_dead s r = 0 then
      (s.ltkQ.filter (fun k => k.route == r && k.first != 0 && !pathAlive s k.path)).foldl (fun s k => resendOn k j s) s
    else if (lrouteGet s r).timed then s
    else
      let s1 := routeEvent r 0 s
      routeWake r (resendAll r j { s1 with
        ltkQ := s1.ltkQ.map (fun k => if k.route = r ∧ k.first ≠ 0 then { k with first := s.now + 1 } else k) })

/-- Path j dies (R702). -/
def pathDies (j : Nat) (s : State) : State :=
  if pt LTK_PATH0_alive s j = 0 then lpathMod j (fun x => { x with cnt := 0 }) s
  else
    let s1 := wr LTK_EVT_path_dead (j / 32) 1 (ptSet LTK_PATH0_alive j 0 (lpathMod j (fun x => { x with cnt := 0 }) s))
    (routesOver s1 j).foldl (fun s r => routeRefresh r s) s1

/-- Path j becomes alive. -/
def pathLives (j : Nat) (s : State) : State :=
  let s1 := wr LTK_EVT_path_alive (j / 32) 1 (ptSet LTK_PATH0_alive j 1 s)
  (routesOver s1 j).foldl (fun s r => routeRefresh r s) s1

/-- A write of a path entry with valid = 1 makes the path dead until it is revived; one with valid = 0 ends it (R702). -/
def pathWritten (j : Nat) (s : State) : State := pathDies j s

/-! ### Ports (R697) -/

/-- The port of PTP goes down or its lock is lost (R714, R718). -/
def ptpUnlock (s : State) : State := refreshPtp (wr LTK_PTPSTAT_locked 0 0 { s with ptpGood := 0 })

/-- A port goes down: its paths die. -/
def portDown (q : Nat) (s : State) : State :=
  if !portUp s q then s
  else
    let s1 := wr LTK_EVT_link_down q 1 (wr LTK_PSTAT_up q 0 (wr LTK_PSTAT_fec_lock q 0 (wr LTK_PSTAT_an_done q 0 s)))
    let s2 := iter 32 (fun k s => pathDies (32 * q + k) s) s1
    if rd s BEL_CFG_ptp_port 0 = q then ptpUnlock s2 else s2

/-- The main domain is on, out of reset and not shutting down: Starting from S8 on, Serving or Standby (R762). -/
def mainOn (s : State) : Bool :=
  let st := rd s SHP_PWRSTAT_state 0
  (st == 1 && 8 ≤ rd s SHP_PWRSTAT_step 0) || st == 2 || st == 3

/-- ETH_PORT_UP: PCS and FEC of port q have locked. -/
def execEthPortUp (q : Nat) (s : State) : Result :=
  .next (if 8 ≤ q ∨ portUp s q ∨ !rdB s LTK_PCFG_admin_up q ∨ !mainOn s ∨ !natBit (rd s SHP_CLKSTAT_valid 0) 2 then s
    else wr LTK_EVT_link_up q 1 (wr LTK_PSTAT_up q 1 (wr LTK_PSTAT_fec_lock q 1
      (wr LTK_PSTAT_an_done q (b2n (rd s LTK_PCFG_media q == 1 && rdB s LTK_PCFG_an_en q)) s))))

/-- ETH_PORT_DOWN: port q has lost its lock. -/
def execEthPortDown (q : Nat) (s : State) : Result := .next (if q < 8 then portDown q s else s)

/-! ### Keepalives (R702) -/

/-- KEEPALIVE_SEND: 100 us after the last, on a valid path whose port is up. -/
def execKeepaliveSend (j t : Nat) (s : State) : Result :=
  let s := atTime t s
  let x := lpathGet s j
  .next (if 256 ≤ j ∨ pt LTK_PATH0_valid s j = 0 ∨ !portUp s (j / 32) ∨ !mainOn s ∨ (x.sent ≠ 0 ∧ t + 1 < x.sent + 10000) then s
    else bump LTK_TXF_count (j / 32) (emit .frame [j / 32, j, 3, 0, 0, 0, 0, 0, j / 32] (lpathMod j (fun x => { x with sent := t + 1 }) s)))

/-- The valid paths of port q to a peer address and package. -/
def pathsFrom (s : State) (q hi lo pkg : Nat) : List Nat :=
  ((List.range 32).map (fun k => 32 * q + k)).filter (fun j => pt LTK_PATH0_valid s j == 1 && pt LTK_PATH1_peer_id s j == pkg &&
    pt LTK_PATH2_peer_ip s j == hi && pt LTK_PATH3_peer_ip s j == lo)

/-- A KEEPALIVE on path j at time t. -/
def keepaliveOn (t j : Nat) (s : State) : State :=
  let x := lpathGet s j
  let cnt := if x.cnt ≠ 0 ∧ t + 1 ≤ x.ka + 15000 then x.cnt + 1 else 1
  let s1 := lpathMod j (fun y => { y with ka := t + 1, cnt := if pt LTK_PATH0_alive s j = 1 then 0 else cnt }) s
  if pt LTK_PATH0_alive s j = 0 ∧ 3 ≤ cnt then pathLives j (lpathMod j (fun y => { y with cnt := 0 }) s1) else s1

/-- KEEPALIVE: an accepted KEEPALIVE on port q at time t, with the peer's address and package id (R703). -/
def execKeepalive (q t : Nat) (hi lo pkg : Word) (s : State) : Result :=
  let s := atTime t s
  .next (if 8 ≤ q ∨ !portUp s q then s
    else (pathsFrom s q hi.toNat lo.toNat pkg.toNat).foldl (fun s j => keepaliveOn t j s) (bump LTK_RXF_count q s))

/-- PATH_DEAD_TIMEOUT: no KEEPALIVE of path j for 300 us. -/
def execPathDeadTimeout (j t : Nat) (s : State) : Result :=
  let s := atTime t s
  .next (if j < 256 ∧ pt LTK_PATH0_alive s j = 1 ∧ (lpathGet s j).ka + 30000 ≤ t + 1 then pathDies j s else s)

/-! ### Frames of a route (R703, R704) -/

/-- A DATA, ACK or REFUSE frame is accepted: its route is valid and has a path, alive or in revival, on the port, with the
frame's source address and package. -/
def frameAccepted (s : State) (q r : Nat) (hi lo pkg : Word) : Bool :=
  q < 8 && portUp s q && r < 2048 && rt LTK_ROUTE0_valid s r == 1 &&
    (pathsFrom s q hi.toNat lo.toNat pkg.toNat).any (fun j => (routePaths s r).contains j &&
      (pt LTK_PATH0_alive s j == 1 || (lpathGet s j).cnt != 0))

/-- a lies in the 2^31 numbers below b. -/
def seq32Below (a b : Nat) : Bool := 2 ^ 31 ≤ (a + 2 ^ 32 - b % 2 ^ 32) % 2 ^ 32

/-- An ack value frees every packet numbered below it (R704). -/
def ackRoute (r ack : Nat) (s : State) : State :=
  let hit (k : LPkt) : Bool := k.route == r && k.first != 0 && seq32Below k.seq ack
  let s1 := { s with ltkQ := s.ltkQ.filter (fun k => !hit k) }
  routePump r 64 (routeShow r ((s.ltkQ.filter hit).foldl (fun s k => pktAcked k s) s1))

/-- The answer to an arrival code: 1 and 3 held, 2 refused by a gate; what is applied answers for itself. -/
def ltkOutcome (r code : Nat) (s : State) : State :=
  if code = 0 then s else if code = 2 then ltkRefuse r 1 s else ltkAnswer r 2 0 0 1 s

/-- The message of a DATA packet of op 1 (R700). Source 4,106 names H0. -/
def ltkMsg (n r : Nat) (s : State) (w0 w1 : Nat) (payload : List Nat) : WMsg :=
  { kind := 0, src := 4106, srcIdx := natBits w0 21 11, stask := natBits w0 23 22, dst := pdkCore s n (natBits w0 10 0),
    conn := natBit w0 24, entry := natBits w0 30 25, sentry := 0, tag := natBits w0 53 38, e := natBits w1 19 0, q := 0,
    len := natBits w0 37 31, payload := payload, brand := pdkBrand n, sid := 0, lt := [r] }

/-- A control of op 2 (R700): 1 open, 2 open bound, 3 open refused, 4 close marker. -/
def ltkControl (n r w0 : Nat) (s : State) : State :=
  let kind := natBits w0 7 0
  let snd := natBits w0 30 20
  let rcv := natBits w0 41 31
  let m : WMsg :=
    { kind := kind, src := 4106, srcIdx := snd, stask := 0, dst := pdkCore s n rcv, conn := true, entry := natBits w0 19 14,
      sentry := natBits w0 13 8, tag := 0, e := 0, q := 0, len := 0, payload := [], brand := pdkBrand n, sid := 0, lt := [r] }
  if kind = 2 ∨ kind = 3 then
    (if snd < pdkCount s n then ltkApplied r (openAnswered (pcore s (pdkCore s n snd)) (natBits w0 13 8) (kind == 2) s) else ltkRefuse r 4 s)
  else if pdkCount s n ≤ rcv then ltkRefuse r 4 s
  else if !whsAdmits s (pdkBrand n) m.dst [] then ltkRefuse r 1 (whsGateRefuses m s)
  else if kind = 1 then ltkApplied r (openArrive m s)
  else if kind = 4 then
    (let c := closeArrive { m with tag := cn WHS_CONN_seq s (pcore s m.dst) m.entry } s
     if c.1 = 0 then ltkApplied r c.2 else ltkOutcome r c.1 c.2)
  else ltkRefuse r 4 s

/-- A stream write of op 4 originates at H0 with the paddock's brand (R705). -/
def ltkStream (n r w0 w1 : Nat) (data : List Nat) (s : State) : State :=
  let len := natBits w0 57 48
  let x : Xact :=
    { wr := true, brand := pdkBrand n, die := 10, gidx := 0x1FFFF, root := n, va := w0 % 2 ^ 48, pa := 0, len := len,
      data := (data ++ List.replicate len 0).take len, pf := (linesOf (w0 % 2 ^ 48) len).zipIdx.map (fun l => natBit w1 l.2),
      deadline := (droverT s + 0xFFFFFF) % 2 ^ 32, stage := 0, host := false, status := 0, bad := [], inv := false, invTags := [],
      stale := false, ret := .ltk [r] }
  if len = 0 ∨ 512 < len ∨ 2 ^ 48 < w0 % 2 ^ 48 + len then ltkRefuse r 2 s else { s with fab := s.fab ++ [x] }

/-- A DATA packet in turn is applied (R705). -/
def ltkApply (n r op : Nat) (body data : List Nat) (s : State) : State :=
  let w0 := body.getD 0 0
  let w1 := body.getD 1 0
  if op = 1 then
    (if pdkCount s n ≤ natBits w0 10 0 then ltkRefuse r 4 s
     else
       let c := whsArrive (ltkMsg n r s w0 w1 data) s
       ltkOutcome r c.1 c.2)
  else if op = 2 then ltkControl n r w0 s
  else if op = 3 then
    (let u := cwUnit w0
     let i := cwIndex w0
     if !cwPlain w0 then ltkRefuse r 2 s
     else if !tlyAdmits s (pdkBrand n) u i [] then
       ltkRefuse r 1 (gateRefuse u (if pdkClosed s n then 1 else 3) 2 10 (pdkBrand n) (cwOf u i) s)
     else if tlyStuck s u i then ltkAnswer r 2 0 0 1 s
     else ltkApplied r (tallyAdd u i w1 s))
  else if op = 4 then ltkStream n r w0 w1 data s
  else s

/-- A packet of route r is still being applied: a stream write on its way through Pasture, a message being written into its window. -/
def ltkBusy (s : State) (r : Nat) : Bool :=
  s.fab.any (fun x => match x.ret with
    | .ltk (a :: _) => a == r
    | _ => false) || s.whsLands.any (fun w => w.ack && w.msg.lt == [r])

/-- DATA: a DATA packet for route r arrives on port q: applied, held, a duplicate, or discarded (R703-R705, R715, R719, R720).
A frame that is not accepted is dropped. -/
def execData (q : Nat) (hi lo pkg : Word) (r op sq ack : Nat) (body data : List Nat) (s : State) : Result :=
  .next (if 8 ≤ q ∨ !portUp s q then s
  else if !frameAccepted s q r hi lo pkg then bump LTK_DROP_count q s
  else
    let s1 := ackRoute r ack (bump LTK_RXF_count q s)
    let n := rt LTK_ROUTE0_paddock s r
    let expect := rt LTK_ROUTE3_rx_expect s r
    if sq % 2 ^ 32 = expect then
      (if ltkBusy s1 r then s1
       else if !(pdkGet s1 n).gateOpen ∧ pdkCreated s1 n ∧ 2 ≤ pdkState s1 n then ltkAnswer r 2 0 0 1 s1
       else ltkApply n r op body (data.map (· % 256)) s1)
    else if seq32Below (sq % 2 ^ 32) expect then ltkAnswer r 2 0 0 0 s1
    else s1)

/-- The route timer starts anew with an answer at t; it stands still while the current path is paused (R708). -/
def routeAnswered (r t : Nat) (s : State) : State :=
  let till := match routePath s r with
    | some j => mapGet 0 s.ltkPause (8 * (j / 32) + rd s LTK_GCFG_data_pcp 0)
    | none => 0
  lrouteMod r (fun x => { x with ans := Nat.max t till }) s

/-- ACK: an ACK of route r arrives on port q (R704); `_hold` says that the peer has not yet applied a packet: it restarts the
route timer as every answer does (R719). -/
def execAck (q t : Nat) (hi lo pkg : Word) (r ack : Nat) (_hold : Bool) (s : State) : Result :=
  let s := atTime t s
  .next (if 8 ≤ q ∨ !portUp s q then s
  else if !frameAccepted s q r hi lo pkg then bump LTK_DROP_count q s
  else
    ackRoute r ack (routeAnswered r t (bump LTK_RXF_count q s)))

/-- REFUSE: packet sq of route r was refused (R704, R707). -/
def execRefuse (q t : Nat) (hi lo pkg : Word) (r sq status ack : Nat) (s : State) : Result :=
  let s := atTime t s
  .next (if 8 ≤ q ∨ !portUp s q then s
  else if !frameAccepted s q r hi lo pkg then bump LTK_DROP_count q s
  else
    let s1 := routeAnswered r t (bump LTK_RXF_count q s)
    match s1.ltkQ.find? (fun k => k.route == r && k.first != 0 && k.seq == sq) with
    | none => ackRoute r ack s1
    | some k => ackRoute r ack (routeShow r (pktRefused k (status % 8)
        { s1 with ltkQ := s1.ltkQ.filter (fun x => !(x.route == r && x.first != 0 && x.seq == sq)) })))

/-- FRAME_DROP: a frame that is not accepted (R703). -/
def execFrameDrop (q : Nat) (s : State) : Result := .next (if q < 8 ∧ portUp s q then bump LTK_DROP_count q s else s)

/-- RETRANSMIT: packet i of the queue has waited rto_us: it is resent on its path (R704). A packet not yet sent is sent where
nothing hinders it any longer. -/
def execRetransmit (i t : Nat) (s : State) : Result :=
  let s := atTime t s
  .next (match s.ltkQ[i]? with
  | none => s
  | some k =>
    if k.first = 0 then routePump k.route 64 s
    else if t + 1 < k.last + rd s LTK_GCFG_rto_us 0 * 100 ∨ portPaused s (k.path / 32) ∨ !routeUp s k.route ∨ !mainOn s then s
    else if pathAlive s k.path then resendOn k k.path s
    else s)

/-- The oldest packet of a route that is outstanding. -/
def routeOldest (s : State) (r : Nat) : Option LPkt := s.ltkQ.find? (fun k => k.route == r && k.first != 0)

/-- ROUTE_TIMEOUT: a packet of route r has been outstanding for route_to_us without an answer: the route dies (R708). -/
def execRouteTimeout (r t : Nat) (s : State) : Result :=
  let s := atTime t s
  .next (if 2048 ≤ r ∨ rt LTK_ROUTE0_valid s r = 0 ∨ rt LTK_ROUTE0_dead s r = 1 then s
  else match routeOldest s r with
    | none => s
    | some k =>
      if Nat.max k.first ((lrouteGet s r).ans + 1) + rd s LTK_GCFG_route_to_us 0 * 100 ≤ t + 1 ∧ !portPaused s (k.path / 32) then routeDies r true s
      else s)

/-- Word 0 of route r is written: outstanding packets fail, both numbers are 0; paths of different peers leave it invalid; a
route that died by timeout lives again with a path (R708, R709). -/
def routeWord0 (r data : Nat) (s : State) : State :=
  let s1 := routeFails r false s
  let w := BitVec.ofNat 64 (data % 2 ^ 64)
  let s2 := rtSet LTK_ROUTE0_valid r (fieldGet w 63 63) (rtSet LTK_ROUTE0_paddock r (fieldGet w 55 50)
    (rtSet LTK_ROUTE0_npath r (fieldGet w 49 48) (rtSet LTK_ROUTE0_peer_route r (fieldGet w 42 32)
    (rtSet LTK_ROUTE0_paths r (fieldGet w 31 0) (rtSet LTK_ROUTE3_rx_expect r 0 (rtSet LTK_ROUTE3_tx_seq r 0
      (lrouteMod r (fun x => { x with timed := false }) s1)))))))
  let ids := (routePaths s2 r).map (fun j => pt LTK_PATH1_peer_id s2 j)
  let s3 := if ids.all (fun i => i == ids.headD 0) then s2 else rtSet LTK_ROUTE0_valid r 0 s2
  if rt LTK_ROUTE0_valid s3 r = 1 then
    (let s4 := routeRefresh r s3
     if routeUp s4 r then routeWake r s4 else s4)
  else rtSet LTK_ROUTE0_dead r 0 s3

/-- ROUTE_WORD0_WRITE: an admitted write of word 0 of route r. -/
def execRouteWord0Write (r : Nat) (data : Word) (s : State) : Result := .next (if r < 2048 then routeWord0 r data.toNat s else s)

/-- At the delete of paddock n word 0 of each of its routes is written with valid = 0 (R710); nothing of it waits for them. -/
def routesDelete (n : Nat) (s : State) : State :=
  ((List.range 2048).filter (fun r => rt LTK_ROUTE0_valid s r == 1 && rt LTK_ROUTE0_paddock s r == n)).foldl
    (fun s r =>
      let s1 := routeWord0 r ((rdW s .ltk (r / 256) (LTK_ROUTE0_valid.ix (r % 256)).off).toNat % 2 ^ 63) s
      { s1 with ltkQ := s1.ltkQ.filter (fun k => k.route != r) }) s

/-- The speed of a port in Gb/s. -/
def portGbps (s : State) (q : Nat) : Nat := if rd s LTK_PCFG_speed q = 0 then 400 else if rd s LTK_PCFG_speed q = 1 then 200 else 100

/-- The pause of data_pcp on port q, which ends at `old`, ends at `new` instead: the timers of routes with packets there stand still for
so long (R708). -/
def timersPause (q t old new : Nat) (s : State) : State :=
  let on (k : LPkt) : Bool := k.first != 0 && k.path / 32 == q
  let later (x : Nat) : Nat := x + new - Nat.max old t
  let rs := ((s.ltkQ.filter on).map (fun k => k.route)).eraseDups
  rs.foldl (fun s r => lrouteMod r (fun x => { x with ans := if x.ans = 0 then 0 else later x.ans }) s)
    { s with ltkQ := s.ltkQ.map (fun k => if on k then { k with first := later k.first } else k) }

/-- From t on priority e of port q pauses for len, 0 to resume (R701, R708). -/
def pfcPause (q t e len : Nat) (s : State) : State :=
  let s1 := { s with ltkPause := mapSet 0 s.ltkPause (8 * q + e) (if len = 0 then 0 else t + len) }
  if e = rd s LTK_GCFG_data_pcp 0 then timersPause q t (mapGet 0 s.ltkPause (8 * q + e)) (t + len) s1 else s1

/-- PFC_FRAME: port q receives a PFC frame at time t: `vec` enables priorities, `quanta` gives each one's pause in units of
512 bit times, 0 to resume (R701, IEEE 802.1Qbb). -/
def execPfcFrame (q t vec : Nat) (quanta : List Nat) (s : State) : Result :=
  let s := atTime t s
  .next (if 8 ≤ q ∨ !portUp s q ∨ !rdB s LTK_PCFG_pfc_en q then s
  else
    let s1 := bump LTK_PFCRX_count q s
    let s2 := iter 8 (fun e s => if natBit vec e then pfcPause q t e (ceilDiv (quanta.getD e 0 % 65536 * 512) (portGbps s q * 10)) s else s) s1
    if portPaused s2 q then s2
    else (((s2.ltkQ.filter (fun k => k.first == 0)).map (fun k => k.route)).eraseDups).foldl (fun s r => routePump r 64 s) s2)

/-! ### PTP (R714) -/

/-- PTP_SYNC: a Sync of the engine's domain gives the offset from the master, signed, in ns. -/
def execPtpSync (t : Nat) (ofs : Word) (s : State) : Result :=
  let s := atTime t s
  let o := sext 64 ofs.toNat
  let mag := o.natAbs
  .next (if !rdB s LTK_PTPCFG_en 0 ∨ !portUp s (rd s BEL_CFG_ptp_port 0) then s
  else
    let s1 := wr LTK_PTPOFS_ns 0 ofs.toNat s
    if 5000 < mag then ptpUnlock s1
    else
      let good := if mag < 1000 then s1.ptpGood + 1 else 0
      let s2 := { s1 with ptpGood := Nat.min good 16 }
      refreshPtp (if 16 ≤ good then wr LTK_PTPSTAT_locked 0 1 s2 else s2))

/-- PTP_SYNC_LOSS: no Sync for 8 intervals. -/
def execPtpSyncLoss (s : State) : Result := .next (if rdB s LTK_PTPCFG_en 0 then ptpUnlock s else s)

end Sys2Proof.Machine
end

