-- ==== Sys2Proof/Machine/Integrity.lean ====
section
/-! DEFINITION. Epochs of integrity paddocks, quench and replay, the committed drain, watch pairs and failover, and the section
start that begins an epoch (spec/16_integrity.md R506-R537, spec/04_paddocks.md R112, spec/05_core_bundle.md R131). -/

namespace Sys2Proof.Machine

def epPhase (s : State) (n : Nat) : Nat := rd s PDK_EPSTAT_phase n

/-! ### The start of a section and of an epoch (R131, R507) -/

/-- The shadows of an epoch: every counter of the paddock, and the numbers of its connections over Longtrack (R516). -/
def takeShadows (n : Nat) (s : State) : State :=
  let s1 := (pdkCounters s n).foldl (fun s c =>
    { s with tlyShadow := mapSet 0 s.tlyShadow (4096 * c.1 + c.2) (tlyCnt s c.1 c.2) }) s
  (pdkPcores s n).foldl (fun s p => iter 64 (fun k s =>
    { s with connShadow := mapSet 0 s.connShadow (64 * p + k) (if (cnRoute s p k).isSome then cn WHS_CONN_seq s p k else 0) }) s) s1

/-- An epoch begins (R507, R517). A swap that waited for the replay is tried again (R531). -/
def epochStart (n : Nat) (s : State) : State :=
  if !integrityOf s n then s
  else
    let e := rd s PDK_EPCOMMIT_epoch n + 1
    let replay := epPhase s n == 4
    let s1 := wr PDK_EPOCH_epoch n e (wr PDK_EPSTAT_phase n 1 (wr PDK_EPSTAT_replayed n (b2n replay)
      (pdkMod n (fun x => { x with epFailed := 0, epAbandoned := false, epReplay := if replay then e else x.epReplay }) s)))
    let s2 := takeShadows n (if replay then bump PDK_EPREPLAY_count n s1 else s1)
    let k := (foldGet s2 n).after
    if replay ∧ k ≠ 0 then
      foldShow n (scheduleNext 0x22 n (foldMod n (fun j => { j with job := 4, sect := k - 1, since := curTick s2 + 1, after := 0 }) s2))
    else s2

/-- A section starts at phase 1 of a tick (R31, R131, R267, R634, R643): every router stands before slot 0, the enabled tasks
start and each core examines T0 first (R132), trace generation starts, the sink closes its buffer. -/
def sectionStart (n : Nat) (s : State) : State :=
  let s1 := wr PDK_STATUS_state n 3 (meshMod n (fun m => { m with
    running := true, fresh := true, sc := 0, holds := [], exts := [], held := false, longDone := false, periods := 0 }) s)
  let s2 := (pdkPcores s1 n).foldl (fun s p =>
    traceStart p (iter 4 (fun t s => if natBit (rd s LEA_CORECFG_task_enable p) t then startTask p t s else s)
      (coreMod p (fun c => { c with last := 3 }) s))) s1
  epochStart n (sinkSection n (pdkMod n (fun x => { x with sections := x.sections + 1 }) s2))

/-! ### Closing and deciding (R507, R511) -/

/-- Every task of the paddock has halted by HALT, or never ran. -/
def haltedWell (s : State) (n : Nat) : Bool :=
  (pdkPcores s n).all (fun p => (List.range 4).all (fun t => taskState s p t == 0 && rd s (LEA_TSTAT_reason.ix t) p ≤ 1))

/-- No context of the paddock has a request outstanding or an out-stream buffer Full or Draining. -/
def streamsQuiet (s : State) (n : Nat) : Bool :=
  (pdkCtxs s n).all (fun g => ctxOutst s g == 0 && (crd s DRV_CTXCFG_dir g == 0 || (bufState s g 0 < 2 && bufState s g 1 < 2)))

/-- The paddock is quiet (R507). -/
def quiet (s : State) (n : Nat) : Bool := parked s n && haltedWell s n && streamsQuiet s n

/-- EPOCH_CLOSE: paddock n is quiet at the end of its epoch. -/
def execEpochClose (n : Nat) (s : State) : Result :=
  .next (if n < 64 ∧ integrityOf s n ∧ pdkState s n = 3 ∧ epPhase s n = 1 ∧ quiet s n then wr PDK_EPSTAT_phase n 2 s else s)

/-- An output of paddock n that is committed and not yet sent. -/
def committedHeld (s : State) (n : Nat) (h : Hold) : Bool := h.n == n && h.epoch ≤ rd s PDK_EPCOMMIT_epoch n

/-- The copy of epoch e of active paddock n begins: the standby's free bank is preparing e (R520 C1). -/
def copyBegin (n e : Nat) (s : State) : State :=
  let s1 := wr PDK_WPSTAT_state n 2 (watchMod n (fun w => { w with copy := e + 1, ready := false }) s)
  match localPartner s n with
  | some m => watchMod m (fun w => { w with bankEp := e + 1, bankOk := false }) s1
  | none => s1

/-- A committed epoch of an active paddock asks for a copy; one that finds another copy uncommitted waits (R520, R525). -/
def copyRequest (n e : Nat) (s : State) : State :=
  if !rdB s PDK_WPCFG_en n || rdB s PDK_WPCFG_role n then s
  else if rd s PDK_WPSTAT_state n = 1 then copyBegin n e s
  else if rd s PDK_WPSTAT_state n = 2 then watchMod n (fun w => { w with next := e + 1 }) s
  else s

/-- The epoch commits: its staged ring entries go, its drain begins (R511, R667). -/
def epochCommit (n : Nat) (s : State) : State :=
  let e := rd s PDK_EPOCH_epoch n
  let s1 := wr PDK_EPCOMMIT_epoch n e (bump PDK_EPCOMMITS_count n (wr PDK_EPSTAT_phase n 0 s))
  let s2 := (s1.hostEnts.filter (fun h => h.f == n + 1 && h.st == 3)).foldl (fun s h => entGone h s) s1
  copyRequest n e (wr PDK_EPSTAT_drain n (b2n (s2.held.any (committedHeld s2 n))) s2)

/-- EPOCH_DECIDE: the closed epoch of paddock n is decided; without a failure it commits. Every residue check has reported. -/
def execEpochDecide (n : Nat) (s : State) : Result :=
  .next (if n < 64 ∧ pdkState s n = 3 ∧ epPhase s n = 2 ∧ (pdkGet s n).epFailed = 0 ∧ !(pdkGet s n).epAbandoned ∧
      (pdkPcores s n).all (fun p => (coreGet s p).checks.isEmpty) then epochCommit n s else s)

/-! ### Quench and replay (R516, R517, R512) -/

/-- QUENCH: a failure or an abandoning exception has reached the controller: Q1, the work stops; the failure of an epoch number
already replayed regathers the paddock with cause 3 (R517), and Muster owes the core it names a test (R549). -/
def execQuench (n : Nat) (s : State) : Result :=
  let x := pdkGet s n
  .next (if 64 ≤ n ∨ pdkState s n ≠ 3 ∨ !(epPhase s n = 1 ∨ epPhase s n = 2) ∨ (x.epFailed = 0 ∧ !x.epAbandoned) then s
  else if x.epFailed ≠ 0 ∧ x.epReplay = rd s PDK_EPOCH_epoch n then
    let p := pcore s (pdkCore s n (rd s PDK_EPFAIL_core n))
    mcoreMod p (fun m => { m with due := curTick s + 1 }) (regatherStart n 3 s)
  else
    let s1 := wr PDK_EPSTAT_phase n 3 (meshMod n (fun m => { m with running := false, held := false }) (stopWork n 5 s))
    ringsIdle (n + 1)
      { s1 with hostEnts := s1.hostEnts.map (fun h => if h.f = n + 1 ∧ (h.st = 1 ∨ h.st = 2) then { h with st := 0 } else h),
                tlyWaits := s1.tlyWaits.filter (fun w => (w.ret.take 2) != [3, n + 1]),
                tlyQ := s1.tlyQ.filter (fun k => (k.ret.take 2) != [3, n + 1]) })

/-- FIFOs, link stages and slot counter of a paddock are emptied (R112 G5, R516 Q3). -/
def emptyMesh (n : Nat) (s : State) : State :=
  meshMod n (fun m => { m with sc := 0, holds := [], exts := [], held := false, running := false })
    ((pdkCores s n).foldl (fun s c =>
      let p := pcore s c
      fifoShow p (coreMod p (fun y => { y with inj := [], ej := [], injRead := [], rInj := 0, rEj := 0 })
        (wr MSH_STAT_hold_bit p 0 (iter 4 (fun i s => { s with links := mapSet [] s.links (4 * c + i) [] }) s)))) s)

/-- Landings at core p that are being written are given up. -/
def dropLands (p : Nat) (s : State) : State :=
  let landing (a : PAcc) : Bool := match a.ret with
    | .whistle _ => true
    | _ => false
  coreMod p (fun c =>
    let ids := (c.paccs.filter landing).map (fun a => a.id)
    { c with paccs := c.paccs.filter (fun a => !landing a), reqs := c.reqs.filter (fun r => !(r.cls == 2 && ids.contains r.ent)) }) s

/-- Whistle state of core p that ends: receive queues, spilled messages, send table, pending opens (R413, R516). -/
def emptyWhistle (p : Nat) (s : State) : State :=
  let s0 := { dropLands p s with whsLands := s.whsLands.filter (fun w => w.p != p), openAt := mapClear s.openAt (64 * p) (64 * (p + 1)) }
  let s1 := iter 8 (fun q s => rqPut p q [] s) (sendsPut p [] s0)
  { iter 16 (fun k s => spillPut p k [] s) s1 with opens := mapClear s1.opens (64 * p) (64 * (p + 1)) }

/-- Packets of the paddock on the Whistle end with its endpoints. -/
def dropWhistle (n : Nat) (s : State) : State :=
  { s with whsQ := s.whsQ.filter (fun m => m.brand != pdkBrand n), byrQ := s.byrQ.filter (fun r => r.brand != pdkBrand n) }

/-- Every context of the paddock is as at reset; its pending writes are discarded (R63, R516). -/
def resetCtxs (n : Nat) (s : State) : State :=
  let far := (farEntries s n).flatMap (fun e => (List.range 64).map (fun i => 131072 + 16384 * e.1 + 64 * e.2 + i))
  let gs := (pdkPcores s n).flatMap (fun p => (List.range 32).map (fun k => 32 * p + k)) ++
    far.filter (fun g => s.ctxs.any (fun x => x.1 == g) || s.regs.any (fun r => regKey .drvF (ctxInst g) (DRV_BASE_va.ix (g % 16384)).off ≤ r.1 &&
      r.1 < regKey .drvF (ctxInst g) ((DRV_BASE_va.ix (g % 16384)).off + 0x80)))
  gs.foldl (fun s g =>
    let f := ctxF DRV_BASE_va g
    let lo := regKey f.blk (ctxInst g) f.off
    { clearRegs f.blk (ctxInst g) f.off (f.off + 0x80) s with
        ctxs := mapSet ctxReset s.ctxs g ctxReset, rearmPend := mapClear s.rearmPend lo (lo + 0x80),
        bellPend := mapClear s.bellPend lo (lo + 0x80) }) s

/-- Counters of the paddock take a value; its watch entries are free, and what they still had to send is gone (R440, R516). -/
def resetTally (n : Nat) (val : State → Nat → Nat → Nat) (s : State) : State :=
  let s1 := (pdkCounters s n).foldl (fun s c => tlySet c.1 c.2 (val s c.1 c.2) s) s
  (pdkBlocks s1 n).foldl (fun s b => (blockWatches (64 * b.2)).foldl (fun s k => watchFree b.1 k s)
    (sendsPut (unitKey b.1) ((sendsOf s (unitKey b.1)).filter (fun w => !(blockWatches (64 * b.2)).contains w.msg.sentry)) s)) s1

/-- Connection entries at Q3: those within the package close; those over Longtrack keep their peer and take back the number of
the epoch's start (R516). -/
def quenchConns (p : Nat) (s : State) : State :=
  iter 64 (fun k s =>
    if (cnRoute s p k).isSome then cnSet WHS_CONN_seq p k (mapGet 0 s.connShadow (64 * p + k)) s else cnClear p k s) s

/-- Submission entries whose completion was discarded are fetched again, into the buffers they keep (R674). -/
def refetch (f : Nat) (s : State) : State :=
  let back (s : State) (k : Nat) : State :=
    match (ringEnts s f k).head? with
    | none => s
    | some h => wr (HST_RSTAT_sq_head.ix2 f k) 0 h.idx
        { s with hostEnts := s.hostEnts.map (fun x => if x.f = f ∧ x.k = k then { x with st := 4 } else x) }
  (List.range 8).foldl back s

/-- QUENCH_DRAIN_END: Q2 to Q4: what still reads is abandoned, the paddock's work is cleared, and the replay is scheduled, or
the epoch is abandoned. -/
def execQuenchDrainEnd (n : Nat) (s : State) : Result :=
  .next (if 64 ≤ n ∨ epPhase s n ≠ 3 then s
  else
    let s1 := dropWhistle n (emptyMesh n (dropReads n s))
    let s2 := (pdkPcores s1 n).foldl (fun s p => quenchConns p (emptyWhistle p s)) s1
    let s3 := reclaimPaddock n .quench (resetTally n (fun s u i => mapGet 0 s.tlyShadow (4096 * u + i)) (resetCtxs n s2))
    let s4 := holdShow n { s3 with held := s3.held.filter (fun h => h.n != n || committedHeld s3 n h) }
    let s5 := refetch (n + 1) s4
    if (pdkGet s n).epFailed ≠ 0 then scheduleNext 0x22 n (wr PDK_EPSTAT_phase n 4 s5) else wr PDK_EPSTAT_phase n 5 s5)

/-- The replay begins at phase 1: a swap to the current section; a pending swap waits for it (R517, R531). -/
def replayBegin (n : Nat) (s : State) : State :=
  let cur := rd s (FLD_PSTAT_section.ix n) 0
  let j := foldGet s n
  if j.job = 5 then s
  else swapBegin n (foldMod n (fun x => { x with sect := cur, after := if j.job = 4 then j.sect + 1 else x.after, job := 5 })
    (if j.job = 4 then unschedule 0x22 n s else s))

/-- A swap of an integrity paddock waits until its epoch is decided and, in a pair, the copy is prepared (R514). -/
def startWaits (s : State) (n : Nat) : Bool :=
  integrityOf s n && (!(epPhase s n == 0 || epPhase s n == 5) ||
    (rd s PDK_WPSTAT_state n == 2 && !rdB s PDK_WPCFG_role n && (!(watchGet s n).ready || (watchGet s n).next != 0)))

/-! ### The committed drain (R513) -/

/-- An entry of the log has been sent: its space is free, and outputs that wait for room try again (R509, R532). -/
def drainNext (n : Nat) (s : State) : State :=
  let s0 := holdShow n { s with held := listDropFirst (fun h => h.n == n) s.held }
  let s1 := (pdkPcores s0 n).foldl (fun s p => sigRetry p (holdRetry p s)) s0
  if s1.held.any (committedHeld s1 n) then s1 else wr PDK_EPSTAT_drain n 0 s1

/-- A held host write goes to the host path, charged to the paddock. -/
def drainWrite (n : Nat) (h : Hold) (s : State) : State :=
  match h.args with
  | root :: va :: pa :: len :: pasid :: pf =>
    let x : Xact :=
      { wr := true, brand := pdkBrand n, die := 10, gidx := 0x1FFFF, root := root, va := va, pa := pa, len := len,
        data := h.data, pf := pf.map (· == 1), deadline := (droverT s + 0xFFFFFF) % 2 ^ 32, stage := 1, host := true, status := 0,
        bad := [], inv := false, invTags := [], stale := false, ret := .held n, via := [3], pasid := pasid }
    { s with fab := s.fab ++ [x] }
  | _ => s

/-- DRAIN_SEND: the next entry of a committed epoch of paddock n is sent: a write; a completion, once H0 has taken every write
before it; a packet, which a dead route discards. -/
def execDrainSend (n : Nat) (s : State) : Result :=
  .next (match s.held.find? (fun h => h.n == n) with
  | none => s
  | some h =>
    if 64 ≤ n ∨ !rdB s PDK_EPSTAT_drain n ∨ !committedHeld s n h then s
    else if h.kind = 1 then drainNext n (drainWrite n h s)
    else if h.kind = 2 then
      (match h.args with
       | [f, k, _, tag, status, op, res, eidx] =>
         if s.fab.any (fun x => match x.ret with
             | .held m => m == n
             | _ => false) ∨ !cqFree s f k then s
         else drainNext n (postCompletion f k tag status op res h.epoch eidx s)
       | _ => s)
    else match h.args with
      | r :: op :: body =>
        if routeFor s n r ≠ 0 then wr PDK_EPSTAT_lt_lost n 1 (drainNext n s) else ltkSend r op body h.data [0] (drainNext n s)
      | _ => s)

/-! ### Copies (R520) -/

/-- Where a bank of standby m begins. The layout after its first 64 KiB is the device's own (log 33). -/
def bankAddr (s : State) (m bank : Nat) : Nat := rd s PDK_WPBANK_base m * 65536 + bank * rd s PDK_WPBLEN_units m * 65536 + 65536

/-- The bank that does not hold the last committed copy. -/
def freeBank (s : State) (m : Nat) : Nat := if rd s PDK_WPCEPOCH_epoch m = 0 then 0 else 1 - rd s PDK_WPSTAT_bank m

/-- Copy the scratchpad extents of the cores of paddock n to memory from address a on; answers the next address. -/
def copyOut (n : Nat) (a : Nat) (s : State) : Nat × State :=
  let exts := (pdkPcores s n).flatMap (fun p => (spExtents s n).map (fun e => (p, e.1, e.2)))
  exts.foldl (fun x e =>
    let r := spReadBytes e.1 e.2.1 e.2.2 2 0 x.2
    (x.1 + e.2.2, memWrite x.1 r.2.1 ((linesOf x.1 e.2.2).map (fun _ => r.1)) r.2.2)) (a, s)

/-- Copy the memory extents of paddock n to memory from address a on; a page that does not translate is left out. -/
def copyPages (n : Nat) (a : Nat) (s : State) : Nat × State :=
  (vaPages s n).foldl (fun x va =>
    let t := translate 11 n va false x.2
    if t.1.1 ≠ 0 ∨ t.1.2.1 then (x.1 + 65536, t.2)
    else
      let r := memRead 2 t.1.2.2 65536 t.2
      (x.1 + 65536, memWrite x.1 r.1 r.2.1 r.2.2)) (a, s)

/-- Write the state set of paddock n to memory at address a (C1). -/
def copyState (n a : Nat) (s : State) : State :=
  let x := copyOut n a s
  let y := copyPages n x.1 x.2
  memWrite y.1 ((pdkCounters y.2 n).flatMap (fun c => leBytes 8 (tlyCnt y.2 c.1 c.2))) [] y.2

/-- The section the next epoch starts with: the swap that waits, else the section that is current (R520). -/
def nextSection (s : State) (n : Nat) : Nat :=
  let j := foldGet s n
  if j.job = 4 then j.sect else rd s (FLD_PSTAT_section.ix n) 0

/-- COPY_PREPARED: every byte of the copy of active paddock n stands at its standby, with the start record (C2). Of a partner on
another package only the reply is seen. -/
def execCopyPrepared (n : Nat) (s : State) : Result :=
  .next (if 64 ≤ n ∨ rd s PDK_WPSTAT_state n ≠ 2 ∨ (watchGet s n).copy = 0 ∨ (watchGet s n).ready then s
  else
    let s1 := watchMod n (fun w => { w with ready := true }) s
    match localPartner s n with
    | none => s1
    | some m =>
      let b := freeBank s1 m
      let k := nextSection s1 n
      watchMod m (fun w => if b = 0 then { w with bankOk := true, sect0 := k } else { w with bankOk := true, sect1 := k })
        (copyState n (bankAddr s1 m b) s1))

/-- COPY_COMMIT: the commit of the prepared copy of active paddock n reaches the standby, which replies (C3). -/
def execCopyCommit (n : Nat) (s : State) : Result :=
  let w := watchGet s n
  .next (if 64 ≤ n ∨ rd s PDK_WPSTAT_state n ≠ 2 ∨ w.copy = 0 ∨ !w.ready then s
  else
    let s1 := match localPartner s n with
      | none => s
      | some m => wr PDK_WPSTAT_bank m (freeBank s m) (wr PDK_WPCEPOCH_epoch m (w.copy - 1)
          (watchMod m (fun v => { v with bankEp := 0, bankOk := false }) s))
    let s2 := bump PDK_WPCOPIES_count n (wr PDK_WPSTAT_state n 1 (watchMod n (fun v => { v with copy := 0, ready := false, next := 0 }) s1))
    if w.next = 0 then s2 else copyBegin n (w.next - 1) s2)

/-! ### Failover (R521-R525) -/

/-- Standby n may fail over: it stands by in a pair. -/
def canFailover (s : State) (n : Nat) : Bool := isStandby s n && rd s PDK_WPSTAT_state n != 0 && pdkState s n == 6

/-- FAILOVER: a trigger is at standby n (of a partner on another package the notice is this command): F1, the bank that is not
committed is discarded and the roles are exchanged. A standby that regathers waits (R534). -/
def execFailover (n : Nat) (s : State) : Result :=
  .next (if 64 ≤ n ∨ !canFailover s n ∨ (!(pdkGet s n).failDue ∧ !rdB s PDK_WPCFG_remote n) then s
  else
    let s0 := abandonTests n s
    let s1 := if (watchGet s n).bankEp ≠ 0 then wr PDK_WPSTAT_partial n 1 s0 else s0
    let s2 := wr PDK_WPSTAT_state n 4 (wr PDK_WPCFG_role n 0 (pdkMod n (fun x => { x with failDue := false })
      (watchMod n (fun w => { w with bankEp := 0, bankOk := false, fail := 1 }) s1)))
    match localPartner s n with
    | some m => wr PDK_WPCFG_role m 1 (watchMod m (fun w => { w with copy := 0, ready := false, next := 0 }) s2)
    | none => s2)

/-- Restore the scratchpad extents of paddock n from memory at address a. -/
def restoreSp (n a : Nat) (s : State) : Nat × State :=
  let exts := (pdkPcores s n).flatMap (fun p => (spExtents s n).map (fun e => (p, e.1, e.2)))
  exts.foldl (fun x e =>
    let r := memRead 2 x.1 e.2.2 x.2
    let s1 := spWriteBytes e.1 e.2.1 r.1 2 0 r.2.2
    (x.1 + e.2.2, if r.2.1.any id then spPoison e.1 e.2.1 e.2.2 s1 else s1)) (a, s)

/-- Restore the memory extents of paddock n, to its own pages. -/
def restorePages (n a : Nat) (s : State) : Nat × State :=
  (vaPages s n).foldl (fun x va =>
    let t := translate 11 n va true x.2
    if t.1.1 ≠ 0 ∨ t.1.2.1 then (x.1 + 65536, t.2)
    else
      let r := memRead 2 x.1 65536 t.2
      (x.1 + 65536, memWrite t.1.2.2 r.1 r.2.1 r.2.2)) (a, s)

/-- Restore a committed bank (F2). -/
def restoreState (n : Nat) (s : State) : State :=
  let x := restoreSp n (bankAddr s n (rd s PDK_WPSTAT_bank n)) s
  let y := restorePages n x.1 x.2
  (pdkCounters y.2 n).zipIdx.foldl (fun s c => tlySet c.1.1 c.1.2 (memNat s (y.1 + 8 * c.2) 8) s) y.2

/-- The section of the start record is played where it differs from the current one (F2). -/
def restoreSection (n : Nat) (s : State) : State :=
  let w := watchGet s n
  let k := if rd s PDK_WPSTAT_bank n = 0 then w.sect0 else w.sect1
  if k = rd s (FLD_PSTAT_section.ix n) 0 then s
  else
    let j := foldGet s n
    let p := (placement s n).getD 0
    let s1 := goldNeed n k p (wr (FLD_PSTAT_section.ix n) 0 k ((pdkPcores s n).foldl (fun s p => swapClear p s) s))
    (playSection n ((goldStreams s1 n).getD (k * (j.vars + 1) + p) []) s1).2

/-- FAILOVER_RESTORE_DONE: F2 ends; the section starts at phase 1 of the next tick (F3). -/
def execFailoverRestoreDone (n : Nat) (s : State) : Result :=
  .next (if 64 ≤ n ∨ (watchGet s n).fail ≠ 1 ∨ foldShift s n then s
  else
    let s1 := if rd s PDK_WPCEPOCH_epoch n = 0 then s else restoreSection n (restoreState n s)
    scheduleNext 0x21 n (watchMod n (fun w => { w with fail := 2 }) s1))

/-- F3: the standby's epoch numbers go on from the last committed copy. -/
def failoverStart (n : Nat) (s : State) : State :=
  if (watchGet s n).fail = 2 then
    wr PDK_EPCOMMIT_epoch n (rd s PDK_WPCEPOCH_epoch n) (watchMod n (fun w => { w with fail := 0 }) s)
  else s

/-- FAIL_OVER_NOW: PDK_WPCMD op 1, of a standby only. -/
def execFailOverNow (n : Nat) (s : State) : Result :=
  .next (if n < 64 ∧ isStandby s n ∧ rd s PDK_WPSTAT_state n ≠ 0 then pdkMod n (fun x => { x with failDue := true }) s else s)

/-- Paddock n, a standby again, takes part in its pair: the next commit makes a full copy (R522, R525). -/
def standbyBack (n : Nat) (s : State) : State :=
  match localPartner s n with
  | some m => if rd s PDK_WPSTAT_state m = 0 then s else wr PDK_WPSTAT_state n 1 (wr PDK_WPSTAT_state m 1 s)
  | none => s

/-- RE_PAIR: PDK_WPCMD op 2 (R525). -/
def execRePair (n : Nat) (s : State) : Result :=
  .next (if 64 ≤ n ∨ !rdB s PDK_WPCFG_en n ∨ !(rd s PDK_WPSTAT_state n = 3 ∨ rd s PDK_WPSTAT_state n = 4) then s
  else
    let s1 := wr PDK_WPSTAT_state n 1 (watchMod n (fun w => { w with copy := 0, ready := false, next := 0 }) s)
    match localPartner s n with
    | some m => wr PDK_WPSTAT_state m 1 s1
    | none => s1)

/-- UNPAIR: PDK_WPCMD op 3: the pair is dissolved. -/
def execUnpair (n : Nat) (s : State) : Result :=
  let apart (n : Nat) (s : State) : State := wr PDK_WPSTAT_state n 0 { s with watches := mapSet watchReset s.watches n watchReset }
  .next (if 64 ≤ n ∨ rd s PDK_WPSTAT_state n = 0 then s
  else match localPartner s n with
    | some m => apart m (apart n s)
    | none => apart n s)

end Sys2Proof.Machine
end

