-- ==== Sys2Proof/Machine/Flockbook.lean ====
section
/-! DEFINITION. The Flockbook (spec/19_flockbook.md R604-R632): record writes in the banks, storm summaries, bank failures and
log-mute, lifetime counters, snapshots, the calendar, reading, and the start-up scan. Bank 0 is A, 1 is B. -/

namespace Sys2Proof.Machine

def fbkMod (g : Fbk → Fbk) (s : State) : State := { s with fbk := g s.fbk }

/-! ### Banks (R604, R606, R607) -/

def slotKey (bank slot : Nat) : Nat := 65536 * bank + slot
def slotGet (s : State) (bank slot : Nat) : List Nat := mapGet [] s.fbk.slots (slotKey bank slot)
def slotPut (bank slot : Nat) (ws : List Nat) (s : State) : State :=
  fbkMod (fun b => { b with slots := mapSet [] b.slots (slotKey bank slot) ws }) s

/-- The words of a slot are a valid record (R604). -/
def slotValid (ws : List Nat) : Bool :=
  ws.length == 8 && ws.getD 7 0 % 2 ^ 32 == crc32c ((ws.take 7).flatMap (leBytes 8)) &&
    ws.getD 7 0 / 2 ^ 32 == Nat.xor (ws.headD 0 % 2 ^ 32) 0xA5A5A5A5

/-- The type of a record's words. -/
def wordsType (ws : List Nat) : Nat := natBits (ws.getD 1 0) 47 32

def bankFailed (s : State) (b : Nat) : Bool := if b = 0 then rdB s FBK_STAT_bank_a_failed 0 else rdB s FBK_STAT_bank_b_failed 0
def logMute (s : State) : Bool := rdB s FBK_STAT_log_mute 0

/-- The bank a record with a sequence number goes to: seq mod 2, or the one that works (R607). -/
def recBank (s : State) (seq : Nat) : Nat := if bankFailed s (seq % 2) then 1 - seq % 2 else seq % 2

/-- The next log-ring slot of a bank. -/
def headOf (s : State) (b : Nat) : Nat := Nat.max 1024 (if b = 0 then rd s FBK_HEAD_a 0 else rd s FBK_HEAD_b 0)
def headNext (b : Nat) (s : State) : State :=
  let v := if headOf s b = 65535 then 1024 else headOf s b + 1
  if b = 0 then wr FBK_HEAD_a 0 v s else wr FBK_HEAD_b 0 v s

/-- FBK_STAT.writing and .staged follow. -/
def fbkShow (s : State) : State :=
  wr FBK_STAT_staged 0 (Nat.min 64 (s.fbk.staging.length + s.fbk.urgent.length)) (wr FBK_STAT_coalescing 0 (b2n (!s.fbk.coal.isEmpty || !s.fbk.summary.isEmpty))
    (wr FBK_STAT_writing 0 (b2n (match s.fbk.write with | some w => w.going | none => false)) s))

/-! ### What is written next (R609, R613) -/

/-- Entries 0 to 5 of a storm summary as three words (R613). -/
def sumWords (es : List (Nat × Nat)) : List Nat :=
  let e (k : Nat) : Nat := match es[k]? with | some x => x.1 % 65536 + x.2 % 65536 * 65536 | none => 0
  [e 0 + e 1 * 2 ^ 32, e 2 + e 3 * 2 ^ 32, e 4 + e 5 * 2 ^ 32]

/-- The storm summary of counts. -/
def sumRecord (es : List (Nat × Nat)) (first last tick src : Nat) : FbkRec :=
  let ws := sumWords es
  { evnum := first, typ := 0x0005, flags := 0, src := src, tick := tick, w0 := last, w1 := ws.getD 0 0, w2 := ws.getD 1 0,
    w3 := ws.getD 2 0 }

/-- The summary of the counts held now; they move out of the coalescing entries, and older staged entries are marked (R613). -/
def sumStart (s : State) : FbkRec × State :=
  let b := s.fbk
  let mark (r : FbkRec) : FbkRec := if r.evnum < b.coalFirst ∧ r.flags / 2 % 2 = 0 then { r with flags := r.flags + 2 } else r
  (sumRecord b.coal b.coalFirst b.coalLast b.coalTick b.coalSrc,
   fbkMod (fun b => { b with summary := b.coal, sumLast := b.coalLast, coal := [], staging := b.staging.map mark,
                             urgent := b.urgent.map mark }) s)

/-- Page k of the snapshot in progress (R617). -/
def snapPage (s : State) (k : Nat) : FbkRec :=
  let v (j : Nat) : Nat := s.fbk.snapVals.getD (4 * k + j) 0
  { evnum := rd s FBK_SNAPNUM_last 0 + 1, typ := 0x0010, flags := 1, src := k, tick := curTick s, w0 := v 0, w1 := v 1, w2 := v 2, w3 := v 3 }

/-- The region slot of a dual record (R606). -/
def regionSlot (r : FbkRec) : Nat := if r.typ = 0x0030 then r.w0 % 128 else 128 + 16 * (r.evnum % 2) + r.src % 16

/-- What the Flockbook writes next: a summary, the urgent record, the oldest staging entry (a Cull record first to its region),
a page of the snapshot (R607, R609, R625). -/
def nextWrite (s : State) : Option (Nat × FbkRec) × State :=
  if !s.fbk.coal.isEmpty then
    let r := sumStart s
    (some (1, r.1), r.2)
  else match s.fbk.urgent, s.fbk.staging, s.fbk.snapLeft with
    | u :: _, _, _ => (some (4, u), s)
    | [], r :: _, _ => (some (if r.typ = 0x0030 ∧ !s.fbk.dualDone then 2 else 0, if r.typ = 0x0030 then { r with flags := r.flags / 2 * 2 + 1 } else r), s)
    | [], [], k :: _ => (some (2, snapPage s k), s)
    | [], [], [] => (none, s)

/-- Start a write: its slot takes the record with a mark of 0, so that it is empty (R610). -/
def writeStart (w : FbkWrite) (s : State) : State :=
  let ws := recWords w.r w.seq
  let s1 := slotPut w.bank w.slot (ws.take 7 ++ [ws.getD 7 0 % 2 ^ 32]) s
  fbkShow (countLife (48 + w.bank) 1 (fbkMod (fun b => { b with write := some { w with going := true } }) s1))

/-- Take the next slot of a bank's log ring. -/
def ringWrite (w : FbkWrite) (s : State) : State := writeStart { w with slot := headOf s w.bank } (headNext w.bank s)

/-- RECORD_WRITE: phase 1 of the next record, in the commit window or, while the timebase is Stopped, at once (R609-R611, R763). -/
def execRecordWrite (s : State) : Result :=
  .next (if logMute s ∨ !(s.fbk.winOpen ∨ belState s = belStopped) then s
  else match s.fbk.write with
    | some w =>
      if w.going then s
      else if w.kind = 2 ∨ w.kind = 3 then writeStart w s
      else ringWrite w s
    | none =>
      let n := nextWrite s
      match n.1 with
      | none => s
      | some (k, r) =>
        let seq := rd s FBK_SEQ_next 0
        let s1 := wr FBK_SEQ_next 0 (seq + 1) n.2
        let w : FbkWrite := { r := r, seq := seq, bank := recBank s1 seq, slot := regionSlot r, attempts := 0, kind := k, going := false }
        if k = 2 then writeStart w s1 else ringWrite w s1)

/-! ### Log-mute and bank failure (R621, R622) -/

/-- A record to the mute ring and out as a PLDM event, however many are held (R630). -/
def muteSend (r : FbkRec) (s : State) : State := pldmPush (recWords r s.fbk.muteSeq) (muteRing r s)

/-- Add a count to coalescing entries (R612). -/
def coalAdd (cs : List (Nat × Nat)) (e : Nat × Nat) : List (Nat × Nat) :=
  let inc (c : Nat) : Nat := Nat.min (c + e.2) 0xFFFF
  if cs.any (fun x => x.1 == e.1) then cs.map (fun x => if x.1 = e.1 then (x.1, inc x.2) else x)
  else if cs.length < 6 then cs ++ [e]
  else cs.take 5 ++ (cs.drop 5).map (fun x => (0xFFFF, inc x.2))

/-- The counts held, those of an unfinished summary first, as one summary (R622). -/
def muteSummary (s : State) : State :=
  let b := s.fbk
  let cs := b.coal.foldl coalAdd b.summary
  if cs.isEmpty then s
  else
    let w := match b.write with | some w => if w.kind = 1 then some w.r else none | none => none
    let r := match w with
      | some o => if b.summary.isEmpty then sumRecord cs b.coalFirst b.coalLast b.coalTick b.coalSrc
                  else sumRecord cs o.evnum (if b.coal.isEmpty then b.sumLast else b.coalLast) o.tick o.src
      | none => sumRecord cs b.coalFirst b.coalLast b.coalTick b.coalSrc
    fbkMod (fun b => { b with coal := [], summary := [] }) (bump FBK_STORM_count 0 (muteSend r s))

/-- Records in event-number order. -/
def recInsert (r : FbkRec) : List FbkRec → List FbkRec
  | [] => [r]
  | x :: xs => if r.evnum < x.evnum then r :: x :: xs else x :: recInsert r xs

/-- The record of bank b's failure (type 0x0004), with the next event number. -/
def failRecord (b : Nat) (s : State) : FbkRec × State :=
  let e := rd s FBK_EVNUM_next 0
  ({ evnum := e, typ := 0x0004, flags := 0, src := 11, tick := curTick s, w0 := b, w1 := mapGet 0 s.fbk.failSlot b, w2 := 0, w3 := 0 },
   wr FBK_EVNUM_next 0 (e + 1) s)

/-- The second bank failed: log-mute (R622, R630). -/
def muteEnter (b : Nat) (s : State) : State :=
  let f := failRecord b (fbkMod (fun x => { x with muteSeq := rd s FBK_SEQ_next 0 }) s)
  let s1 := muteSend f.1 (fbkEvent FBK_EVT_log_mute (wr FBK_STAT_log_mute 0 1 f.2))
  let recs := s1.fbk.urgent.foldl (fun l r => recInsert r l) s1.fbk.staging
  let s2 := muteSummary (recs.foldl (fun s r => muteSend r s) s1)
  fbkShow (fbkMod (fun x => { x with staging := [], urgent := [], write := none, snapLeft := [], dualDone := false, winOpen := false }) s2)

/-- A Cull record's two copies, or a page's, are written (R607, R626). -/
def dualEnd (r : FbkRec) (s : State) : State :=
  if r.typ = 0x0030 then cullSaved (r.w0 % 128) (fbkMod (fun b => { b with write := none, dualDone := true }) s)
  else
    let left := s.fbk.snapLeft.drop 1
    let s1 := fbkMod (fun b => { b with write := none, snapLeft := left }) s
    if left.isEmpty then fbkEvent FBK_EVT_snapshot (wr FBK_SNAPNUM_last 0 (rd s1 FBK_SNAPNUM_last 0 + 1) s1) else s1

/-- What bank b was writing goes to the other one: a summary keeps its place, a second copy is not needed, any other record is
taken again in its turn (R621, R626). -/
def writeRedirect (b : Nat) (s : State) : State :=
  match s.fbk.write with
  | none => s
  | some w =>
    if w.bank ≠ b then s
    else if w.kind = 1 then fbkMod (fun x => { x with write := some { w with bank := 1 - b, attempts := 0, going := false } }) s
    else if w.kind = 3 then dualEnd w.r s
    else fbkMod (fun x => { x with write := none }) s

/-- Bank b fails (R621). -/
def bankFails (b : Nat) (s : State) : State :=
  if bankFailed s b ∨ logMute s then s
  else
    let s1 := fbkEvent FBK_EVT_bank_failed (if b = 0 then wr FBK_STAT_bank_a_failed 0 1 s else wr FBK_STAT_bank_b_failed 0 1 s)
    if bankFailed s (1 - b) then muteEnter b s1
    else
      let f := failRecord b s1
      fbkShow (writeRedirect b (fbkMod (fun x => { x with urgent := [f.1] }) f.2))

/-- BANK_CONTROLLER_FAULT: bank b's controller reports a device fault. -/
def execBankControllerFault (b : Nat) (s : State) : Result := .next (bankFails (b % 2) s)

/-! ### Commit (R610, R611) -/

/-- The bit of SHP_PLDMEV that a record type belongs to. -/
def pldmGroup (typ : Nat) : Option Nat :=
  if typ = 1 ∨ typ = 2 then some 0 else if typ = 3 ∨ typ = 0x0120 then some 1 else if typ = 4 then some 2
  else if typ = 5 then some 3 else if typ = 0x0030 ∨ typ = 0x0201 then some 4 else if typ = 0x0100 then some 5
  else if typ = 0x0110 then some 6 else if typ = 0x0200 then some 7 else if typ = 0x0211 then some 8
  else if typ = 0x0220 then some 9 else if typ = 0x0300 then some 10 else if typ = 0x0400 then some 11 else none

/-- A committed record of an enabled group is sent as a PLDM event where the queue accepts one (R726). -/
def pldmRecord (w : FbkWrite) (s : State) : State :=
  match pldmGroup w.r.typ with
  | some g => if natBit (rd s SHP_PLDMEV_groups 0) g ∧ s.pldmQ.length < 32 then pldmPush (recWords w.r w.seq) s else s
  | none => s

/-- The slot a read waits for is latched (R623). -/
def latchSlot (bank slot : Nat) (s : State) : State :=
  let ws := if bankFailed s bank then [] else slotGet s bank slot
  let s1 := iter 8 (fun k s => wr (FBK_RDATA_word.ix k) 0 (ws.getD k 0) s) s
  wr FBK_RSTAT_valid 0 (b2n (slotValid ws)) (wr FBK_RSTAT_busy 0 0 (fbkMod (fun b => { b with latch := 0 }) s1))
def latchDue (s : State) : State :=
  if s.fbk.latch = 0 then s else latchSlot ((s.fbk.latch - 1) / 65536) ((s.fbk.latch - 1) % 65536) s

/-- The write in progress has been read back correct: its record is valid (R604, R610). -/
def writeDone (w : FbkWrite) (s : State) : State :=
  let s1 := slotPut w.bank w.slot (recWords w.r w.seq) s
  if w.kind = 2 then
    (if bankFailed s (1 - w.bank) then dualEnd w.r (countLife 13 1 s1)
     else fbkMod (fun b => { b with write := some { w with bank := 1 - w.bank, attempts := 0, kind := 3, going := false } }) s1)
  else if w.kind = 3 then dualEnd w.r (countLife 13 1 s1)
  else
    let s2 := pldmRecord w (countLife 13 1 (fbkMod (fun b => { b with write := none }) s1))
    if w.kind = 1 then
      fbkEvent FBK_EVT_storm (countLife 14 1 (bump FBK_STORM_count 0 (fbkMod (fun b => { b with summary := [] }) s2)))
    else if w.kind = 4 then fbkMod (fun b => { b with urgent := [] }) s2
    else fbkMod (fun b => { b with staging := b.staging.drop 1, dualDone := false }) s2

/-- RECORD_COMMIT: the read-back of the write in progress; `ok`: all eight words agree, and the record commits. A failed attempt
leaves its slot empty and is made again; the fourth in a row fails the bank (R610, R611). -/
def execRecordCommit (ok : Bool) (s : State) : Result :=
  .next (match s.fbk.write with
  | none => s
  | some w =>
    if !w.going then s
    else if ok then fbkShow (latchDue (writeDone w s))
    else
      let s1 := countLife 15 1 (bump FBK_WFAIL_count 0 (fbkMod (fun b => { b with failSlot := mapSet 0 b.failSlot w.bank w.slot }) s))
      let s2 := fbkMod (fun b => { b with write := some { w with attempts := w.attempts + 1, going := false } }) s1
      fbkShow (latchDue (if w.attempts + 1 < 4 then s2 else bankFails w.bank s2)))

/-- Class 0x36 at the end of phase 2: the window opens (R609). -/
def windowOpen (s : State) : State := if logMute s then s else fbkMod (fun b => { b with winOpen := true }) s

/-- COMMIT_WINDOW_END: nothing is left to write, or 40 us are left to the next tick; what is not written carries over (R609,
R627). A write in progress ends first. -/
def execCommitWindowEnd (s : State) : Result :=
  .next (match s.fbk.write with
  | some w => if w.going then s else fbkMod (fun b => { b with winOpen := false }) s
  | none => fbkMod (fun b => { b with winOpen := false }) s)

/-! ### The calendar (R619) -/

/-- The calendar in 1/32,768 s. -/
def calNow (s : State) : Nat :=
  s.fbk.rtcSec * 32768 + s.fbk.rtcFrac + (if s.fbk.rtcRun then (s.now - s.fbk.rtcAt) * 32768 / 100000000 else 0)

/-- The calendar stands at what it reads now, and goes on from there or stops. -/
def calHold (run : Bool) (s : State) : State :=
  let c := calNow s
  fbkMod (fun b => { b with rtcSec := c / 32768, rtcFrac := c % 32768, rtcAt := s.now, rtcRun := run }) s

/-- A time record: the calendar's seconds, those before a change, the reason (R605). -/
def timeRecord (prev reason : Nat) (s : State) : State := flockEvent 0x0002 11 (calNow s / 32768) prev reason 0 s

/-- The calendar is set (R619). -/
def calSet (sec : Nat) (s : State) : State :=
  let prev := calNow s / 32768
  timeRecord prev 1 (fbkMod (fun b => { b with rtcSec := sec, rtcFrac := 0, rtcAt := s.now }) s)

/-- FBK_CALSET: a write of FBK_CALSET. -/
def execFbkCalset (data : Word) (s : State) : Result := .next (calSet data.toNat s)

/-- FBK_CAL_READ: a read of FBK_CAL; it latches FBK_CALSUB. -/
def calRead (s : State) : State := wr FBK_CAL_seconds 0 (calNow s / 32768) (wr FBK_CALSUB_frac 0 (calNow s % 32768) s)
def execFbkCalRead (s : State) : Result := .next (calRead s)

/-- Phase 2 of a tick whose number is a multiple of 65,536 (R619). -/
def timeTick (s : State) : State := if curTick s % 65536 = 0 then timeRecord (calNow s / 32768) 0 s else s

/-! ### Reading (R623) -/

/-- FBK_RSEL_WRITE: the slot is latched, after a record write in it has ended. -/
def execFbkRselWrite (data : Word) (s : State) : Result :=
  let bank := fieldGet data 16 16
  let slot := fieldGet data 15 0
  let s1 := wr FBK_RSTAT_found 0 0 (wr FBK_RSEL_bank 0 bank (wr FBK_RSEL_slot 0 slot s))
  let held := match s.fbk.write with
    | some w => w.going && w.bank == bank && w.slot == slot
    | none => false
  .next (if held then wr FBK_RSTAT_busy 0 1 (fbkMod (fun b => { b with latch := 65536 * bank + slot + 1 }) s1) else latchSlot bank slot s1)

/-- The key of a slot of a working bank that holds the valid record with a sequence number. -/
def findSeq (s : State) (seq : Nat) : Option Nat :=
  (s.fbk.slots.find? (fun e => !bankFailed s (e.1 / 65536) && slotValid e.2 && e.2.headD 0 == seq)).map (fun e => e.1)

/-- FBK_FIND: the record with this sequence number is latched from either bank; where there is none FBK_RDATA keeps its words
(DESIGN CHOICE, log 37). -/
def execFbkFind (data : Word) (s : State) : Result :=
  .next (match findSeq s data.toNat with
  | some k => wr FBK_RSTAT_found 0 1 (latchSlot (k / 65536) (k % 65536) s)
  | none => wr FBK_RSTAT_found 0 0 (wr FBK_RSTAT_valid 0 0 s))

/-! ### Counters and snapshots (R615-R617) -/

/-- The band of a value: the number of limits it has reached. -/
def bandOf (limits : List Int) (v : Int) : Nat := (limits.filter (fun l => decide (l ≤ v))).length

/-- Tj_max and the inlet temperature in 1/16 degree, signed. -/
def tjMax (s : State) : Int := sext 12 (rd s RTN_TJ_tj 0)
def inletT (s : State) : Int := sext 16 (rd s RTN_INLET_tin 0)
def rtnFlag (s : State) (k : Nat) : Bool := natBit (rd s RTN_STAT_flags 0) k

/-- The package serves (R86). -/
def serves (s : State) : Bool := rd s SHP_PWRSTAT_state 0 == 2 && belState s != belStopped

/-- The wear index of Lea die d (R616): S_rated is 87,600 h, S in units of 2^-16 h. -/
def wearIndex (s : State) (d : Nat) : Nat := Nat.min 0xFFFF (1000 * rd s RTN_DSTRESS_s d / (87600 * 65536))

/-- Add to a lifetime counter. -/
def lifeAdd (i n : Nat) (s : State) : State := wr (FBK_CNT_value.ix i) 0 (rd s (FBK_CNT_value.ix i) 0 + n) s

/-- Phase 0: the counters take what the closed tick of l us has added (R615). -/
def counterUpdate (l : Nat) (s : State) : State :=
  let el := (s.now - s.fbk.lifeAt) / 100
  let s1 := s.fbk.acc.foldl (fun s e => lifeAdd e.1 e.2 s) s
  let s2 := fbkMod (fun b => { b with acc := [], lifeAt := b.lifeAt + 100 * el }) (lifeAdd 0 el s1)
  let s3 := lifeAdd 2 1 (if serves s2 then lifeAdd 1 l s2 else s2)
  let s4 := lifeAdd (16 + bandOf ([45, 65, 75, 85, 95, 103, 105].map (fun x => 16 * x)) (tjMax s3)) l s3
  let s5 := if rtnFlag s4 1 then s4 else lifeAdd (24 + bandOf ([30, 40, 45, 50, 55, 60, 65].map (fun x => 16 * x)) (inletT s4)) l s4
  iter 8 (fun d s => wr (FBK_CNT_value.ix (40 + d)) 0
    (wearIndex s d * 2 ^ 48 + rd s RTN_DAGE_dv_mon d * 2 ^ 16 + rd s RTN_DAGE_dv_model d)
      (wr (FBK_CNT_value.ix (32 + d)) 0 (rd s RTN_DSTRESS_s d) s)) s5

/-- A snapshot starts: all 64 counters at this moment; one that is due while another is unfinished is skipped (R617). -/
def snapStart (s : State) : State :=
  if logMute s then s
  else if !s.fbk.snapLeft.isEmpty then wr FBK_STAT_snap_skipped 0 1 s
  else fbkMod (fun b => { b with snapVals := (List.range 64).map (fun i => rd s (FBK_CNT_value.ix i) 0), snapLeft := List.range 16 }) s

/-- Phase 2: a snapshot is due at a multiple of the period, or was asked for through PLDM (R617, R725). -/
def snapTick (s : State) : State :=
  let p := eff s FBK_SNAP_period_bt 0
  if (p ≠ 0 ∧ curTick s % p = 0) ∨ s.fbk.snapAsked then snapStart (fbkMod (fun b => { b with snapAsked := false }) s) else s

/-! ### The start-up scan (R618) -/

/-- Every valid record of the working banks: key, words. -/
def validSlots (s : State) : List (Nat × List Nat) := s.fbk.slots.filter (fun e => !bankFailed s (e.1 / 65536) && slotValid e.2)

/-- The page k of snapshot number num, from either bank. -/
def scanPage (vs : List (Nat × List Nat)) (num k : Nat) : Option (List Nat) :=
  (vs.find? (fun e => e.1 % 65536 == 128 + 16 * (num % 2) + k && wordsType e.2 == 0x0010 && e.2.getD 1 0 % 2 ^ 32 == num)).map (fun e => e.2)

/-- The number of the complete snapshot with the highest number. -/
def scanSnap (vs : List (Nat × List Nat)) : Option Nat :=
  let nums := ((vs.filter (fun e => wordsType e.2 == 0x0010)).map (fun e => e.2.getD 1 0 % 2 ^ 32)).eraseDups
  let full := nums.filter (fun n => (List.range 16).all (fun k => (scanPage vs n k).isSome))
  full.foldl (fun m n => match m with | some x => some (Nat.max x n) | none => some n) none

/-- Restore the counter table from a snapshot. -/
def scanCounters (vs : List (Nat × List Nat)) (s : State) : State :=
  match scanSnap vs with
  | none => s
  | some n => wr FBK_SNAPNUM_last 0 n ((List.range 64).foldl (fun s i =>
      wr (FBK_CNT_value.ix i) 0 (((scanPage vs n (i / 4)).getD []).getD (3 + i % 4) 0) s) s)

/-- The fuses of the Cull map, then the field entries of the Cull region: for each column the copy with the higher seq (R556,
R618). -/
def scanCull (vs : List (Nat × List Nat)) (s : State) : State :=
  let s1 := iter 128 (fun c s => wr (CUL_COL_factory.ix c) 0 1 (wr (CUL_COL_shift.ix c) 0 (Nat.min 16 (Config.fusedShift c))
    (wr (CUL_COL_spare_used.ix c) 0 (b2n (Nat.min 16 (Config.fusedShift c) < 16)) s))) s
  iter 128 (fun c s =>
    let es := vs.filter (fun e => e.1 % 65536 == c && wordsType e.2 == 0x0030)
    match es.foldl (fun (m : Option (List Nat)) e => match m with
        | some x => if x.headD 0 < e.2.headD 0 then some e.2 else some x
        | none => some e.2) none with
    | none => s
    | some ws =>
      let v := ws.getD 4 0
      let s2 := wrW .cul 0 (CUL_COL_shift.ix c).off (BitVec.ofNat 64 (v % 2 ^ 31)) s
      if natBit v 11 then cullPlot (colCore c (natBits v 15 12)) s2 else s2) s1

/-- The valid log record of bank b with the highest seq: its seq and slot. -/
def scanLast (vs : List (Nat × List Nat)) (b : Nat) : Option (Nat × Nat × Nat) :=
  ((vs.filter (fun e => e.1 / 65536 == b && 1024 ≤ e.1 % 65536)).map (fun e => (e.2.headD 0, e.1 % 65536, wordsType e.2))).foldl
    (fun m x => match m with | some y => if y.1 < x.1 then some x else some y | none => some x) none

/-- The last boot ended cleanly: its last log record is a shut-down record, and a complete snapshot followed it (R620). -/
def scanClean (vs : List (Nat × List Nat)) : Bool :=
  let later (a b : Option (Nat × Nat × Nat)) : Option (Nat × Nat × Nat) := match a, b with
    | some x, some y => if x.1 < y.1 then b else a
    | none, _ => b
    | _, none => a
  match later (scanLast vs 0) (scanLast vs 1), scanSnap vs with
  | some x, some n => x.2.2 == 0x0003 && (List.range 16).all (fun k => decide (x.1 < ((scanPage vs n k).getD []).headD 0))
  | _, _ => false

/-- The scan: counters, Cull map, next seq, ring positions, boot number, and the start and time records (R618-R620). -/
def fbkScan (s : State) : State :=
  let vs := validSlots s
  let top := vs.foldl (fun m e => Nat.max m (e.2.headD 0 + 1)) 0
  let boot := (vs.filter (fun e => wordsType e.2 == 0x0001)).foldl (fun m e => Nat.max m (e.2.getD 3 0 + 1)) 0
  let head (b : Nat) : Nat := match scanLast vs b with | some x => if x.2.1 = 65535 then 1024 else x.2.1 + 1 | none => 1024
  let unclean := b2n (!scanClean vs)
  let s1 := wr FBK_SEQ_next 0 top (wr FBK_HEAD_a 0 (head 0) (wr FBK_HEAD_b 0 (head 1) (scanCull vs (scanCounters vs s))))
  let s2 := lifeAdd 3 1 (wr FBK_STAT_unclean 0 unclean (fbkMod (fun b => { b with boot := boot }) s1))
  timeRecord (calNow s2 / 32768) 2 (flockEvent 0x0001 11 boot unclean 0 0 s2)

end Sys2Proof.Machine
end

