-- ==== Sys2Proof/Machine/Ration.lean ====
section
/-! DEFINITION. The Ration controller (spec/18_ration.md R573-R603): budgets, holds, the choice of the lea clock and of the voltages,
heat, ageing, the Ration bus and the board's rails. Energy of the open tick is in units of 1 uJ, a Ration unit is 1 mJ. -/

namespace Sys2Proof.Machine

def ratMod (g : Ration → Ration) (s : State) : State := { s with ration := g s.ration }

/-! ### Flags, events, records -/

/-- A flag of RTN_STAT is set now, and stands for the tick that is open (log 39). -/
def rtnSet (k : Nat) (s : State) : State :=
  wr RTN_STAT_flags 0 (natSetBit (rd s RTN_STAT_flags 0) k true) (ratMod (fun r => { r with cur := natSetBit r.cur k true }) s)

/-- A Ration event record on the PF ring (R679). -/
def rtnRecord (s : State) : State := pfEvent 0x94 11 [regNat s RTN_EVT_t_soft 0, regNat s RTN_STAT_flags 0] s

/-- A Ration event of RTN_EVT bit k in the Flockbook (R605). -/
def rtnFlock (k : Nat) (s : State) : State := flockEvent 0x0110 11 k (regNat s RTN_STAT_flags 0) 0 0 s

/-! ### Grant and floor (R573, R574) -/

/-- floor_w and envelope_w, limited to their ranges. -/
def floorW (s : State) : Nat := clampNat 150 750 (eff s RTN_ENV_floor_w 0)

/-- floor_eff in watts (R574), rounded up (DESIGN CHOICE, log 40). -/
def floorEff (s : State) : Nat := Nat.max (floorW s) (ceilDiv (rd s RTN_MINDRAW_units 0 * 1050) (periodUs s))
def envelopeW (s : State) : Nat := Nat.max (floorEff s) (clampNat 300 750 (eff s RTN_ENV_envelope_w 0))

/-- The floor replaces the grant: in Lone, and in Lone-PTP unless BEL_CFG.ptp_grant is 1 (R78, R573). -/
def loneFloor (s : State) : Bool := belState s == belLone || (belState s == belLonePtp && rd s BEL_CFG_ptp_grant 0 == 0)

/-- No grant has been written for RTN_CFG.stale_bt ticks. -/
def grantOld (s : State) : Bool := eff s RTN_CFG_stale_bt 0 != 0 && eff s RTN_CFG_stale_bt 0 ≤ s.ration.grantAge

/-- No inlet value has been written for 16 ticks (R587). -/
def inletOld (s : State) : Bool := 16 ≤ s.ration.inletAge

/-- g_eff of a tick of length l, in 10 ns units (R573); in shut-down the grant is ignored (R771). -/
def gEffOf (s : State) (l : Nat) : Nat :=
  let g := if loneFloor s || grantOld s || rd s SHP_PWRSTAT_state 0 == 4 then floorEff s * periodUs s / 1000 else eff s RTN_GRANT_grant 0
  Nat.max (floorEff s * l / 100000) (Nat.min (g * l / periodOf (periodUs s)) (envelopeW s * l / 100000))

/-! ### Clock, voltage, ageing (R580-R588) -/

/-- The bin ceiling in MHz (R29). -/
def fMax : Nat := Config.fusedFmaxMhz

/-- Linear interpolation between two points of a curve, temperatures in 1/16 degree, rounded down to the grid. -/
def curveAt (t0 t1 f0 f1 tin : Int) : Nat := ((f0 * (t1 - t0) - (f0 - f1) * (tin - t0)) / (t1 - t0) / 25 * 25).toNat

/-- A curve of points (degrees, MHz), the first one's clock below it and the last one's above it. -/
def curve (tin : Int) : List (Int × Int) → Nat
  | [] => 400
  | [(_, f)] => f.toNat
  | (t0, f0) :: (t1, f1) :: rest =>
    if tin ≤ 16 * t0 then f0.toNat else if tin ≤ 16 * t1 then curveAt (16 * t0) (16 * t1) f0 f1 tin else curve tin ((t1, f1) :: rest)

/-- f_cool (R586, R587). -/
def fCool (s : State) : Nat :=
  if inletOld s then fMax
  else curve (inletT s) (if Config.fusedBin = 1 then [(45, 1050), (50, 900), (55, 750), (60, 600), (65, 400)]
    else [(50, 800), (55, 675), (60, 550), (65, 400)])

/-- The junction loop's limit; it starts at the bin ceiling. -/
def fT (s : State) : Nat := if rd s RTN_FLIM_f_t 0 = 0 then fMax else rd s RTN_FLIM_f_t 0

/-- f_T at an accounting boundary (R588, R589). -/
def fTNext (s : State) : Nat :=
  let t := tjMax s
  let a : Int := if 16 * 103 ≤ t then -25 else if t ≤ 16 * 98 then 25 else 0
  let e : Int := if s.ration.emergTick then -100 else 0
  (clampInt 400 fMax ((fT s : Int) + a + e)).toNat

/-- The ageing offset in effect of die d, in 0.25 mV. -/
def offOf (s : State) (d : Nat) : Nat := s.ration.off.getD d 0

/-- The setpoint of Lea die d at grid frequency f in 0.25 mV: rounded up to 2.5 mV, at most 0.900 V (R583). -/
def rawSet (s : State) (d f : Nat) : Nat := ceilDiv (4 * (rd s (RTN_VFUSE_mv.ix ((f - 400) / 25)) d) + offOf s d + 40) 10 * 10
def setPoint (s : State) (d f : Nat) : Nat := Nat.min 3600 (rawSet s d f)

/-- The grid. -/
def fGrid : List Nat := (List.range 27).map (fun k => 400 + 25 * k)

/-- The highest of a list of frequencies that meets p. -/
def highest (p : Nat → Bool) (l : List Nat) : Option Nat := (l.filter p).getLast?

/-- f_age (R583). -/
def fAge (s : State) : Nat := (highest (fun f => (List.range 8).all (fun d => decide (rawSet s d f ≤ 3600))) fGrid).getD 400

/-- Condition 1 of R580, and the code of the bound that gives it. -/
def fCap (s : State) : Nat × Nat :=
  let c := rd s RTN_FREQ_f_cool 0
  let t := rd s RTN_FLIM_f_t 0
  let a := rd s RTN_FLIM_f_age 0
  let m := Nat.max 400 (Nat.min (Nat.min fMax c) (Nat.min t a))
  (m, if m = fMax then 1 else if m = c then 2 else if m = a then 3 else 4)

/-- E_pred(f') in uJ (R581): r scales every term to the new tick. -/
def ePred (s : State) (f f' : Nat) (r : Rat) : Rat :=
  let q (d : Nat) : Rat := (setPoint s d f' : Rat) / (setPoint s d f : Rat)
  let busy (d : Nat) : Rat :=
    let n := s.ration.run.getD d 0
    if n = 0 then 1 else ((n + s.ration.hold.getD d 0 : Nat) : Rat) / (n : Rat)
  let term (d : Nat) : Rat :=
    (s.ration.dyn.getD d 0 : Rat) * busy d * ((f' : Rat) / (f : Rat)) * q d * q d + (s.ration.leak.getD d 0 : Rat) * q d * q d * q d
  ((s.ration.outside : Rat) + (List.range 8).foldl (fun a d => a + term d) 0) * r

/-- Held draw in units at a clock, for a tick of length l (R574, R580). -/
def heldAt (s : State) (f l : Nat) : Nat :=
  let m := rd s RTN_MINDRAW_units 0
  (if f = 400 then m else Config.heldDraw f m) * l / periodOf (periodUs s)

/-- f' and the reason code (R580, R596). -/
def chooseClock (s : State) (f gEff l : Nat) (r : Rat) : Nat × Nat :=
  let c := fCap s
  let step := 25 * clampNat 1 8 (eff s RTN_CFG_step_max 0)
  let limit : Rat := (gEff : Rat) * 1000 * ((100 - Nat.min 20 (eff s RTN_CFG_margin_pct 0) : Nat) : Rat) / 100
  let low := Nat.min c.1 (Nat.max 400 (f - step))
  let near := fGrid.filter (fun x => low ≤ x && x ≤ c.1 && x ≤ f + step)
  match highest (fun x => decide (ePred s f x r ≤ limit)) near with
  | some x => (x, if x = c.1 then c.2 else if x = f + step then 5 else 0)
  | none =>
    if heldAt s low l ≤ gEff then (low, 5)
    else ((highest (fun x => x ≤ c.1 && heldAt s x l ≤ gEff) fGrid).getD 400, 6)

/-- Ageing of Lea die d over the closed tick: stress, offsets, and the offset in effect, which moves by 2.5 mV at most
(R584, R585). `mon`: the die's least margin is below its threshold. -/
def ageDie (us d : Nat) (mon : Bool) (s : State) : State :=
  let st := rd s RTN_DSTRESS_s d + Config.stressAdd us (rd s RTN_DV_vset_mv d) (s.ration.tjm.getD d 0)
  let model := Nat.max (rd s RTN_DAGE_dv_model d) (Nat.min 192 (Config.ageModel (rd s RTN_DAFUSE_a d) st))
  let dm := rd s RTN_DAGE_dv_mon d + (if mon then 10 else 0)
  let want := Nat.max model dm
  let old := offOf s d
  let offs := listPut ((s.ration.off ++ List.replicate 8 0).take 8) d (if want ≤ old + 10 then Nat.max old want else old + 10)
  ratMod (fun r => { r with off := offs })
    (wr RTN_DSTRESS_s d st (wr RTN_DAGE_dv_model d model (wr RTN_DAGE_dv_mon d (Nat.min dm 0xFFFF) s)))

/-! ### The accounting boundary (R577, R82 step 3) -/

/-- Sum of a list. -/
def sumNat (l : List Nat) : Nat := l.foldl (· + ·) 0

/-- The closed tick's books: RTN_LAST, RTN_PBUDGET.spent, RTN_DE, temperatures (R575, R576, R588). -/
def closeBooks (s : State) : State :=
  let r := s.ration
  let unit (uj : Nat) : Nat := Nat.min 0xFFFF (ceilDiv uj 1000)
  let s1 := wr RTN_LAST_tick 0 (curTick s - 1) (wr RTN_LAST_spent 0 (unit r.spent) (wr RTN_LAST_g_eff 0 r.gEff s))
  let s2 := iter 64 (fun n s => wr (RTN_PBUDGET_spent.ix n) 0 (if pdkCreated s n then unit (r.pads.getD n 0) else 0) s) s1
  let s3 := iter 8 (fun d s => wr RTN_DE_dyn d (unit (r.dyn.getD d 0)) (wr RTN_DE_leak d (unit (r.leak.getD d 0)) s)) s2
  let s4 := iter 12 (fun d s => if d = 11 then s else wr RTN_DTJ_tj d (r.tj.getD d 0) (wr RTN_DTJ_sensor d (r.tjs.getD d 0) s)) s3
  let top := (List.range 12).foldl (fun m d => if sext 12 (r.tj.getD m 0) < sext 12 (r.tj.getD d 0) then d else m) 0
  ratMod (fun r => { r with winTicks := r.winTicks + 1, winLen := r.winLen + r.len, winSpent := r.winSpent + unit r.spent })
    (wr RTN_TJ_die 0 top (wr RTN_TJ_tj 0 (r.tj.getD top 0) s4))

/-- Minimums scaled to the tick and clamped in ascending paddock order; true where a clamp was made (R577). -/
def minimums (s : State) (l : Nat) : Nat → List Nat → List (Nat × Nat) × Bool
  | _, [] => ([], false)
  | rest, n :: ns =>
    let m := eff s PDK_RSHARE_min n * l / periodOf (periodUs s)
    let g := Nat.min m rest
    let t := minimums s l (rest - g) ns
    ((n, g) :: t.1, t.2 || g < m)

/-- The budgets of the new tick (R577). -/
def budgets (gEff l bsys : Nat) (s : State) : State :=
  let rest := gEff - bsys
  let ms := minimums s l rest (pdksCreated s)
  let spare := rest - sumNat (ms.1.map (fun x => x.2))
  let c (n : Nat) : Nat := Nat.max (eff s PDK_RSHARE_cap n) (eff s PDK_RSHARE_min n) * l / periodOf (periodUs s)
  let takes (n : Nat) : Bool := pdkState s n == 2 || pdkState s n == 3
  let tot := sumNat (ms.1.map (fun x => if takes x.1 then c x.1 - x.2 else 0))
  let s1 := iter 64 (fun n s => wr (RTN_PBUDGET_budget.ix n) 0 0 s) s
  let s2 := ms.1.foldl (fun s x =>
    wr (RTN_PBUDGET_budget.ix x.1) 0 (Nat.min 0xFFFF (x.2 + (if takes x.1 ∧ tot ≠ 0 then spare * (c x.1 - x.2) / tot else 0))) s) s1
  if ms.2 then rtnSet 5 s2 else s2

/-- Limits of the new tick: f_T, f_cool, f_age, with what they set (R583, R586-R588). -/
def limitsUpdate (us mon : Nat) (s : State) : State :=
  let hot := decide (16 * 103 ≤ tjMax s)
  let s1 := wr RTN_FLIM_f_t 0 (fTNext s) (iter 8 (fun d s => ageDie us d (natBit mon d) s) s)
  let s2 := if hot then wr RTN_EVT_t_soft 0 1 (rtnSet 3 s1) else s1
  let s3 := wr RTN_FREQ_f_cool 0 (fCool s2) s2
  let a := fAge s3
  let s4 := wr RTN_FLIM_f_age 0 a s3
  if a < fMax then
    (if rtnFlag s 2 then rtnSet 2 s4 else rtnRecord (rtnFlock 2 (wr RTN_EVT_age_limited 0 1 (rtnSet 2 s4))))
  else s4

/-- floor_raised (R574). -/
def floorCheck (s : State) : State :=
  if floorW s < floorEff s then
    (if rtnFlag s 0 then rtnSet 0 s else rtnRecord (rtnFlock 6 (wr RTN_EVT_floor_raised 0 1 (rtnSet 0 s))))
  else s

/-- The Shepherd has measured the held draw: units for the nominal period (R574). -/
def heldDrawSet (units : Nat) (s : State) : State := floorCheck (wr RTN_MINDRAW_units 0 units s)

/-- A clock step or a change of setpoints is due. -/
def stepDue (s : State) : Bool :=
  s.ration.fNext != rd s RTN_FREQ_f_now 0 || (List.range 8).any (fun d => setPoint s d s.ration.fNext / 4 != rd s RTN_DV_vset_mv d)

/-- Class 0x10: IVRs slew, the lea clock switches; done 15 us after the tick moment, or 10 us where only voltages change (R582). -/
def clockStep (s : State) : State :=
  let f := s.ration.fNext
  let done := s.now + (if f = rd s RTN_FREQ_f_now 0 then 1000 else 1500)
  iter 8 (fun d s => wr RTN_DV_vset_mv d (setPoint s d f / 4) (wr RTN_DV_vfuse_mv d (rd s (RTN_VFUSE_mv.ix ((f - 400) / 25)) d) s))
    (wr RTN_FREQ_f_now 0 f (ratMod (fun r => { r with stepEnd := done }) s))

/-- Ration holds are cleared before the new budgets apply, but for a junction emergency (R578, R589). -/
def clearHolds (s : State) : State :=
  if s.ration.emerg then s
  else ratMod (fun r => { r with pkgHold := false })
    ((pdksCreated s).foldl (fun s n => if (meshGet s n).hRation then meshMod n (fun m => { m with hRation := false }) s else s) s)

/-- The accounting boundary: the closed tick had length `prev`, the new one has length l (10 ns; log 38); `mon`: dies whose margin
is below the threshold. -/
def accounting (l mon : Nat) (s : State) : State :=
  let prev := s.ration.len
  let sys := s.ration.spent - sumNat s.ration.pads
  let f := Nat.max 400 (rd s RTN_FREQ_f_now 0)
  let r : Rat := if prev = 0 then 1 else (l : Rat) / (prev : Rat)
  let s0 := wr RTN_STAT_flags 0 s.ration.cur (closeBooks s)
  let stand := b2n (loneFloor s0) * 2 ^ 7 + b2n (grantOld s0) * 2 ^ 8 + b2n (inletOld s0) * 2 ^ 1 + b2n s0.ration.emerg * 2 ^ 4
  let s1 := ratMod (fun x => { x with cur := stand }) s0
  let s2 := if inletOld s1 && !rtnFlag s 1 then wr RTN_EVT_inlet_stale 0 1 s1 else s1
  let s3 := limitsUpdate (prev / 100) mon (floorCheck (clearHolds s2))
  let g := gEffOf s3 l
  let bsys := if prev = 0 then 0 else ceilDiv (sys * l) (prev * 1000)
  let ch := chooseClock s3 f g l r
  let s4 := budgets g l bsys (wr RTN_BSYS_units 0 (Nat.min bsys 0xFFFF) (wr RTN_FREQ_reason 0 ch.2 s3))
  let s5 := ratMod (fun x => { x with
    spent := 0, outside := 0, pads := [], dyn := [], leak := [], run := [], hold := [], gEff := g, len := l, grantAge := x.grantAge + 1,
    inletAge := x.inletAge + 1, emergTick := false, fNext := ch.1 }) s4
  if stepDue s5 then schedule (curTick s5) 0x10 0xFF s5 else s5

/-! ### Within the tick (R578, R579, R589) -/

/-- Set the Ration hold of paddock n. -/
def ratHold (n : Nat) (s : State) : State := meshMod n (fun m => { m with hRation := true }) s

/-- What a sample brings of energy and heat. -/
def takeSample (spent outside : Nat) (pads dyn leak run hold tj tjs tjm : List Nat) (s : State) : State :=
  ratMod (fun r => { r with
    spent := spent, outside := outside, pads := pads.take 64, dyn := dyn.take 8, leak := leak.take 8, run := run.take 8, hold := hold.take 8,
    tj := (tj.take 12).map (· % 4096), tjs := (tjs.take 12).map (· % 16), tjm := tjm.take 8 }) s

/-- A junction emergency begins at 105 degrees and ends when every sensor reads below 104 (R589). -/
def junction (s : State) : State :=
  let hot (lim : Int) : Bool := s.ration.tj.any (fun t => decide (16 * lim ≤ sext 12 t))
  if hot 105 then
    let s1 := ratMod (fun r => { r with emerg := true, emergTick := true }) s
    if s.ration.emerg then s1 else rtnRecord (wr RTN_EVT_t_emerg 0 1 (rtnSet 4 s1))
  else if hot 104 then s
  else ratMod (fun r => { r with emerg := false }) s

/-- ENERGY_SAMPLE: the end of a 1 us interval. Die agents and monitors report what they have measured so far in the tick (R575,
R576); `peak` is h(n) and `held` is lambda(n)·r, in uJ, entry 64 the package's own; budgets that would be passed set holds. -/
def execEnergySample (t spent outside : Nat) (pads peak held dyn leak run hold tj tjs tjm : List Nat) (s : State) : Result :=
  let ns := pdksCreated s
  let s1 := ns.foldl (fun s n => if (meshGet s n).hRation then bump (RTN_PHOLD_count.ix n) 0 s else s) (atTime t s)
  let wasHot := s1.ration.emerg
  let s2 := junction (takeSample spent outside pads dyn leak run hold tj tjs tjm s1)
  let s3 := ns.foldl (fun s n =>
    if 1000 * rd s (RTN_PBUDGET_budget.ix n) 0 ≤ pads.getD n 0 + peak.getD n 0 + held.getD n 0 then ratHold n s else s) s2
  let serving := sumNat ((ns.filter (fun n => pdkState s3 n == 3)).map (fun n => peak.getD n 0))
  let s4 := if 1000 * s3.ration.gEff ≤ spent + serving + peak.getD 64 0 + held.getD 64 0 then
      ns.foldl (fun s n => ratHold n s) (ratMod (fun r => { r with pkgHold := true }) (rtnSet 6 s3)) else s3
  let s5 := if wasHot && !s4.ration.emerg && !s4.ration.pkgHold then
      ns.foldl (fun s n =>
        if 1000 * rd s (RTN_PBUDGET_budget.ix n) 0 ≤ pads.getD n 0 + peak.getD n 0 + held.getD n 0 then s
        else meshMod n (fun m => { m with hRation := false }) s) s4
    else s4
  .next (if s5.ration.emerg then ns.foldl (fun s n => ratHold n s) s5 else s5)

/-- GRANT_STALE: no grant for RTN_CFG.stale_bt ticks (R573). -/
def execGrantStale (s : State) : Result := .next (if grantOld s && !rtnFlag s 8 then rtnSet 8 s else s)

/-- INLET_STALE: no inlet value for 16 ticks (R587). -/
def execInletStale (s : State) : Result :=
  .next (if inletOld s && !rtnFlag s 1 then wr RTN_EVT_inlet_stale 0 1 (rtnSet 1 s) else s)

/-! ### The Ration bus (R591) -/

/-- A Bell-class value is written: it takes effect at the next tick (R59). -/
def bellWrite (f : Fld) (i v : Nat) (s : State) : State :=
  bellWaits (regKey f.blk i f.off) (rdW s f.blk i f.off) (wr f i v s)

/-- RTN_GRANT takes a value from the source in effect; the grant is no longer old (R573). -/
def grantWrite (v : Nat) (s : State) : State := ratMod (fun r => { r with grantAge := 0 }) (bellWrite RTN_GRANT_grant 0 v s)

/-- RTN_INLET takes a value. -/
def inletWrite (v : Nat) (s : State) : State := ratMod (fun r => { r with inletAge := 0 }) (wr RTN_INLET_tin 0 v s)

/-- GRANT: Ration bus command 0x01; `pec`: its PEC is right. -/
def execGrant (v : Nat) (pec : Bool) (s : State) : Result :=
  .next (if !pec then bump RTN_BUSERR_count 0 s else if rd s RTN_CFG_src_grant 0 = 0 then grantWrite v s else s)

/-- INLET: Ration bus command 0x02. -/
def execInlet (v : Nat) (pec : Bool) (s : State) : Result :=
  .next (if !pec then bump RTN_BUSERR_count 0 s else if rd s RTN_CFG_src_inlet 0 = 0 then inletWrite v s else s)

/-- SPENT: Ration bus command 0x10. -/
def execSpent (s : State) : Result :=
  .next (emit .rationReply (leBytes 4 (rd s RTN_LAST_tick 0) ++ leBytes 2 (rd s RTN_LAST_spent 0) ++ leBytes 2 (rd s RTN_LAST_g_eff 0) ++
    leBytes 2 (rd s RTN_FREQ_f_now 0) ++ leBytes 2 (rd s RTN_STAT_flags 0)) s)

/-- BELL: Ration bus command 0x11. -/
def execBell (s : State) : Result := .next (emit .rationReply (leBytes 2 (regNat s BEL_STATUS_state 0)) s)

/-- LIMITS: Ration bus command 0x12. -/
def execLimits (s : State) : Result :=
  .next (emit .rationReply (leBytes 2 (envelopeW s) ++ leBytes 2 (floorEff s) ++ leBytes 2 (rd s RTN_FREQ_f_cool 0) ++
    leBytes 2 (rd s RTN_FLIM_f_t 0)) s)

/-! ### The board's rails (R592-R594) -/

/-- Fault bits of STATUS_WORD as PMBus 1.3 places them (PRESUMED, log 41): VOUT_OV 5, IOUT_OC 4, VIN_UV 3, temperature 2 for OT_FAULT, VOUT 15
for VOUT_UV_FAULT, POWER_GOOD# 11. -/
def pmFault (w : Nat) : Bool := [2, 3, 4, 5, 11, 15].any (natBit w)
/-- Those that shut down fast (R770). -/
def pmFast (w : Nat) : Bool := [2, 4, 5].any (natBit w)
/-- Every other bit warns. -/
def pmWarn (w : Nat) : Bool := [1, 8, 9, 10, 12, 13, 14].any (natBit w)

/-- READ_PIN in units of 2^-16 W: LINEAR11, never negative here. -/
def linear11 (v : Nat) : Nat :=
  let y := (sext 11 v).toNat
  let e := sext 5 (v / 2048)
  (y * 2 ^ ((16 + e).toNat))

/-- STATUS_WORD of rail r has been read (R593). -/
def railStatus (r w : Nat) (s : State) : State :=
  let s1 := wr (RTN_PMSTAT_status.ix r) 0 w s
  if pmWarn w then rtnRecord (wr RTN_EVT_pm_warn 0 1 (rtnSet 10 s1)) else s1

/-- READ_PIN of rail r has been read. -/
def railPin (r v : Nat) (s : State) : State :=
  let add (l : List Nat) (k : Nat) : List Nat := let l9 := (l ++ List.replicate 9 0).take 9; listPut l9 r (l9.getD r 0 + k)
  ratMod (fun x => { x with pinSum := add x.pinSum (linear11 v), pinCnt := add x.pinCnt 1, rail := r }) (wr (RTN_PMSTAT_pin.ix r) 0 v s)

/-- The valid rails, and the one whose turn is next. -/
def validRails (s : State) : List Nat := (List.range 9).filter (fun r => rdB s (RTN_PMRAIL_valid.ix r) 0)
def railNext (s : State) : Option Nat :=
  match (validRails s).find? (fun r => s.ration.rail < r) with
  | some r => some r
  | none => (validRails s).head?

/-- Energy of the window by READ_PIN, in units: for each rail its mean power times the window. -/
def pinEnergy (s : State) : Nat :=
  sumNat ((List.range 9).map (fun r =>
    let c := s.ration.pinCnt.getD r 0
    if c = 0 then 0 else s.ration.pinSum.getD r 0 * s.ration.winLen / (c * 65536 * 100000)))

/-- TELEMETRY_COMPARE: 64 ticks of READ_PIN against the measured energy (R594). -/
def execTelemetryCompare (s : State) : Result :=
  .next (if s.ration.winTicks < 64 then s
  else
    let a := pinEnergy s
    let b := s.ration.winSpent
    let off := decide (b < 10 * (a - b)) || decide (b < 10 * (b - a))
    let s1 := ratMod (fun r => { r with pinSum := [], pinCnt := [], winTicks := 0, winLen := 0, winSpent := 0 }) s
    if off then rtnRecord (wr RTN_EVT_telemetry_mismatch 0 1 (rtnSet 9 s1)) else s1)

end Sys2Proof.Machine
end

