-- ==== Sys2Proof/Machine/Paddocks.lean ====
section
/-! DEFINITION. Paddocks (spec/04_paddocks.md R96-R129): create, delete, the steps of a regather after its start, shares, the
reset of a function, and the entries of a tick's phases that belong to a paddock. `n` is a paddock. -/

namespace Sys2Proof.Machine

/-! ### What a create asks (R96, R97, R100, R107) -/

/-- The geometry is valid (R96). -/
def geomOk (s : State) (n : Nat) : Bool :=
  let pw := rd s PDK_GEOM_pw n
  let ph := rd s PDK_GEOM_ph n
  1 ≤ pw && 1 ≤ ph && rd s PDK_GEOM_px0 n + pw ≤ 16 && rd s PDK_GEOM_py0 n + ph ≤ 8

/-- The rectangles of two paddocks share a plot. -/
def overlaps (s : State) (a b : Nat) : Bool :=
  pdkX0 s a < pdkX0 s b + pdkW s b && pdkX0 s b < pdkX0 s a + pdkW s a &&
    pdkY0 s a < pdkY0 s b + pdkH s b && pdkY0 s b < pdkY0 s a + pdkH s a

/-- A plot of paddock n is taken: by another paddock, by one being created, or by a dead position (R97, R558). -/
def plotTaken (s : State) (n : Nat) : Bool :=
  pdkCulled s n || (List.range 64).any (fun m => m != n && (pdkCreated s m || (pdkGet s m).cmd == 1) && overlaps s n m)

/-- The owner field of entry j of the table an assignment of a kind names on a die; none outside the die's table (R106). -/
def ownerFld (kind die j : Nat) : Option Fld :=
  if kind = 0 then (if die < 8 ∧ j < 64 then some (GAT_TLY_owner.ix j) else none)
  else if kind = 1 then (if die = 11 ∧ j < 16 then some (GAT_KTLY_owner.ix j) else none)
  else if kind = 2 then (if (die = 8 ∨ die = 9) ∧ j < 256 then some (GAT_FAR_owner.ix j) else none)
  else if kind = 3 then (if (die = 8 ∨ die = 9) ∧ j < 256 then some (GAT_POOL_owner.ix j) else none)
  else none

/-- The valid assignments of paddock n: kind, die, first entry, number of entries. -/
def assigns (s : State) (n : Nat) : List (Nat × Nat × Nat × Nat) :=
  ((List.range 8).filter (fun j => rdB s (PDK_ASSIGN_valid.ix j) n)).map (fun j =>
    (rd s (PDK_ASSIGN_kind.ix j) n, rd s (PDK_ASSIGN_die.ix j) n, rd s (PDK_ASSIGN_first.ix j) n, rd s (PDK_ASSIGN_count_m1.ix j) n + 1))

/-- The entries they name, with the die. -/
def assignEntries (s : State) (n : Nat) : List (Nat × Option Fld) :=
  (assigns s n).flatMap (fun a => (List.range a.2.2.2).map (fun i => (a.2.1, ownerFld a.1 a.2.1 (a.2.2.1 + i))))

/-- A requested entry is outside its table, has an owner, or is requested by a create in progress too. -/
def assignTaken (s : State) (n : Nat) : Bool :=
  let busy := ((List.range 64).filter (fun m => m != n && (pdkGet s m).cmd == 1)).flatMap (assignEntries s)
  (assignEntries s n).any (fun e => match e.2 with
    | none => true
    | some f => rd s f e.1 != 0xFF || busy.contains e)

/-- What refuses a create of paddock n, 0 for nothing (R100). Where several checks fail the lowest code is reported, that of a
reserved kind last (DESIGN CHOICE, log 42). -/
def createCode (s : State) (n : Nat) : Nat :=
  if pdkState s n ≠ 0 then 1
  else if !geomOk s n then 2
  else if plotTaken s n ∨ ((assigns s n).all (fun a => a.1 ≤ 3) ∧ assignTaken s n) then 3
  else if !vfExists s n then 4
  else if rdB s PDK_MODE_near n ∧ rd s PDK_GEOM_py0 n < 4 ∧ 4 < rd s PDK_GEOM_py0 n + rd s PDK_GEOM_ph n then 5
  else if (pdkCores s n).any (fun c => musterWindow s c || underTest s (pcore s c)) then 6
  else if !(assigns s n).all (fun a => a.1 ≤ 3) then 7
  else 0

/-! ### Functions of H0 under reset (R116, R675, R683, R831) -/

/-- Function f's range and what H0 holds for it return to their reset values; staged records go back to their pools. -/
def fnReset (f : Nat) (s : State) : State :=
  let s1 := ((fnGet s f).staged.foldl (fun s r => bufferBack [r.2.1, r.2.2.1, r.2.2.2] s) s)
  let s2 := clearRegs .hst 0 (0x100000 + 0x8000 * f) (0x108000 + 0x8000 * f) s1
  let s3 := { s2 with fns := mapSet hostFnReset s2.fns f { hostFnReset with underReset := (fnGet s f).underReset }
                      hrings := mapClear s2.hrings (8 * f) (8 * f + 8)
                      aer := mapClear s2.aer (2 * f) (2 * f + 2)
                      cfg := mapClear s2.cfg (1024 * f) (1024 * f + 1024) }
  let s4 := ((s3.hostEnts.filter (fun h => h.f == f)).foldl (fun s h => entGone h s) s3)
  if f = 0 then { s4 with pfEvents := [], pfLost := 0 } else s4

/-- The part of an FLR of VF n + 1 that G5, or a Free paddock, carries (R116). -/
def flrReset (n : Nat) (s : State) : State :=
  fnMod (n + 1) (fun x => { x with underReset := false })
    (fnReset (n + 1) (clearRegs .pdk n 0x80 0x84 (clearRegs .pdk n 0x100 0x140 s)))

/-- The FLR of the PF completes once every sequence has reached G5 (R683). -/
def pfFlrDone (s : State) : State :=
  if (fnGet s 0).underReset ∧ (List.range 64).all (fun n => pdkState s n != 4 || 5 ≤ (pdkGet s n).step) then
    fnMod 0 (fun x => { x with underReset := false }) s
  else s

/-! ### The end of a paddock (R103, R469) -/

/-- Gate entries of brand 0x10 + n lose their owner. -/
def gatesFree (n : Nat) (s : State) : State :=
  let b := pdkBrand n
  let drop (f : Fld) (i : Nat) (s : State) : State := if rd s f i = b then wr f i 0xFF s else s
  let core (d j : Nat) (s : State) : State :=
    if rd s (GAT_CORE_owner.ix j) d = b then wr (GAT_CORE_muster.ix j) d 0 (wr (GAT_CORE_owner.ix j) d 0xFF s) else s
  let lea (d : Nat) (s : State) : State := iter 64 (fun j s => drop (GAT_TLY_owner.ix j) d s) (iter 256 (core d) s)
  let m (d : Nat) (s : State) : State :=
    iter 256 (fun j s => drop (GAT_POOL_owner.ix j) (8 + d) (drop (GAT_FAR_owner.ix j) (8 + d) s)) s
  iter 16 (fun j s => drop (GAT_KTLY_owner.ix j) 11 s) (iter 2 m (iter 8 lea s))

/-- Calendar entries of a paddock are taken out. -/
def pdkUnschedule (n : Nat) (s : State) : State :=
  [0x20, 0x21, 0x22, 0x23, 0x30].foldl (fun s c => unschedule c n s) s

/-- Translations cached for the paddock's root are invalid (R112 G5). -/
def dropRoot (n : Nat) (s : State) : State := { s with tcache := s.tcache.filter (fun e => e.1 / 2 ^ 34 % 128 != n) }

/-- What is left of a pair when paddock n is deleted: the failover notice and the end of its part (R521, R525). -/
def pairEnds (n : Nat) (s : State) : State :=
  let s1 := standbyFails n (if rd s PDK_WPSTAT_state n = 0 then s else failoverNotice n s)
  { wr PDK_WPSTAT_state n 0 s1 with watches := mapSet watchReset s1.watches n watchReset }

/-- Paddock n is deleted: its work for the loader and the host, its buffers and pools, its counters and routes, its gate
entries and assignments go, its cores are reset, the state is Free (R101, R103, R469, R710). -/
def pdkFree (n : Nat) (s : State) : State :=
  let ps := pdkPcores s n
  let cs := pdkCores s n
  let s1 := pairEnds n (foldDelete n (pdkUnschedule n s))
  let s2 := dropRoot n (dropWhistle n (dropReads n (resetCtxs n (resetTally n (fun _ _ _ => 0) (routesDelete n s1)))))
  let s3 := gatesFree n (reclaimPaddock n .delete (dropHostWork (n + 1) (dropHeld n s2)))
  let s4 := clearRegs .pdk n 0x60 0x80 (cs.foldl (fun s c => emptyLinks c s) (ps.foldl (fun s p => coreResetOp p s) s3))
  let s5 := { s4 with meshes := mapSet meshReset s4.meshes n meshReset, sinks := mapSet sinkReset s4.sinks n sinkReset
                      pdks := mapSet pdkReset s4.pdks n pdkReset }
  let s6 := wr PDK_STATUS_share_clamped n 0 (wr PDK_PEFF_eff_min n 0 (wr PDK_PEFF_eff_cap n 0
    (wr PDK_STATUS_cmd_busy n 0 (wr PDK_STATUS_state n 0 s5))))
  if vfExists s6 n then s6 else fnReset (n + 1) s6

/-- A trigger of a delete of paddock n that needs no command: loss of its VF (R103, R129). A create in progress is abandoned
when it would end. -/
def pdkLost (n : Nat) (s : State) : State :=
  let st := pdkState s n
  if st = 0 then fnReset (n + 1) s
  else if st = 1 ∨ st = 5 then pdkFree n s
  else
    let s1 := regatherStart n 5 s
    if st = 4 ∧ 5 ≤ (pdkGet s n).step then pdkFree n s1 else s1

/-! ### Commands (R100-R103, R111) -/

def cmdErr (n e : Nat) (s : State) : State := wr PDK_STATUS_cmd_err n e s

/-- A command is taken and the Shepherd works on it. -/
def cmdTaken (n op : Nat) (s : State) : State := cmdErr n 0 (wr PDK_STATUS_cmd_busy n 1 (pdkMod n (fun x => { x with cmd := op }) s))

/-- PDK_CMD.op := 1. -/
def pdkCreate (n : Nat) (s : State) : State :=
  if createCode s n ≠ 0 then cmdErr n (createCode s n) s else cmdTaken n 1 s

/-- PDK_CMD.op := 2: not legal of a Free paddock (R103). -/
def pdkDelete (n : Nat) (s : State) : State :=
  let st := pdkState s n
  if st = 0 then cmdErr n 1 s
  else if st = 1 ∨ st = 5 then cmdTaken n 2 s
  else cmdErr n 0 (pdkLost n s)

/-- PDK_CMD.op := 3 (R111). -/
def pdkRegather (n : Nat) (s : State) : State :=
  if pdkState s n = 0 then cmdErr n 1 s else cmdErr n 0 (regatherStart n 2 s)

/-- PDK_CMD of paddock n, as the firmware executes it. -/
def pdkRun (n op : Nat) (s : State) : State :=
  if op = 1 then pdkCreate n s else if op = 2 then pdkDelete n s else if op = 3 then pdkRegather n s else cmdErr n 7 s

/-- A write of PDK_CMD of paddock n: ignored with cmd_err 1 while a command is in progress and before S12; held while a live
activation runs (R101, R741, R762). Op 0 has no effect, also while a command is in progress: cmd_err stays (DEDUCED, log 100). -/
def pdkCommand (n op : Nat) (s : State) : State :=
  if op = 0 then s
  else if rdB s PDK_STATUS_cmd_busy n ∨ rd s SHP_PWRSTAT_state 0 ≠ 2 then cmdErr n 1 s
  else if activating s then wr PDK_STATUS_cmd_busy n 1 (holdCmd [1, n, op] s)
  else pdkRun n op s

/-- PDK_CREATE: PDK_CMD op 1 of paddock n. -/
def execPdkCreate (n : Nat) (s : State) : Result := .next (if n < 64 then pdkCommand n 1 s else s)

/-- PDK_DELETE: PDK_CMD op 2 of paddock n. -/
def execPdkDelete (n : Nat) (s : State) : Result := .next (if n < 64 then pdkCommand n 2 s else s)

/-- PDK_REGATHER: PDK_CMD op 3 of paddock n. -/
def execPdkRegather (n : Nat) (s : State) : Result := .next (if n < 64 then pdkCommand n 3 s else s)

/-- PST_MEMMAP takes no write once a paddock has been created (R107, PST_MEMMAP). -/
def memmapLock (s : State) : State :=
  { s with fixedDone := mapSet false s.fixedDone (regKey .pstH 10 PST_MEMMAP_iecc.off) true }

/-- The steps of an accepted create, in order (R101). -/
def createEnd (n : Nat) (s : State) : State :=
  let b := pdkBrand n
  let cs := pdkCores s n
  let s1 := (pdkPcores s n).foldl (fun s p => coreResetOp p s) s
  let s2 := cs.foldl (fun s c => wr (GAT_CORE_owner.ix (coreLocal c)) (coreDie c) b s) s1
  let s3 := (assignEntries s n).foldl (fun s e => match e.2 with
    | some f => wr f e.1 b s
    | none => s) s2
  let s4 := cs.foldl (fun s c => setFences c (emptyLinks c s)) s3
  let s5 := memmapLock { s4 with pdks := mapSet pdkReset s4.pdks n { pdkReset with gateOpen := true } }
  wr PDK_STATUS_cmd_busy n 0 (wr PDK_STATUS_state n 1 (wr PDK_FSEQ_seq n 0 (wr PDK_EPCOMMIT_epoch n 0 (wr PDK_EPOCH_epoch n 0
    (wr PDK_PEFF_eff_min n 0 (wr PDK_PEFF_eff_cap n 0 s5))))))

/-- PDK_COMMAND_DONE: the create or the delete the Shepherd works on is complete. A create whose conditions no longer hold is
abandoned with their code (DESIGN CHOICE, log 42). -/
def execPdkCommandDone (n : Nat) (s : State) : Result :=
  let idle (s : State) : State := wr PDK_STATUS_cmd_busy n 0 (pdkMod n (fun x => { x with cmd := 0 }) s)
  .next (if 64 ≤ n then s
  else if (pdkGet s n).cmd = 1 then
    let s1 := idle s
    if createCode s1 n ≠ 0 then cmdErr n (createCode s1 n) s1 else createEnd n s1
  else if (pdkGet s n).cmd = 2 then
    (if pdkState s n = 1 ∨ pdkState s n = 5 then pdkFree n s else pdkLost n (idle s))
  else s)

/-- SR-IOV VF Enable and NumVFs take a value; each paddock whose VF is lost is deleted (R99, R103, R129). -/
def sriovSet (enable : Bool) (num : Nat) (s : State) : State :=
  let s1 := { s with vfEnable := enable, numVfs := Nat.min num 64 }
  ((List.range 64).filter (fun n => vfExists s n && !vfExists s1 n)).foldl (fun s n => pdkLost n s) s1

/-- SRIOV_VF_ENABLE_CHANGE: the capability's VF Enable and NumVFs take these values. -/
def execSriovVfEnableChange (enable : Bool) (num : Nat) (s : State) : Result := .next (sriovSet enable num s)

/-! ### Steps G3 to G7 (R112-R116) -/

/-- Requests of the paddock's brand that are outstanding: reads until their data is written, writes until they are acknowledged (R112,
R309). -/
def pdkOutstanding (s : State) (n : Nat) : Bool :=
  s.tlyQ.any (fun k => tlyToUnit k && k.brand == pdkBrand n) || s.whsQ.any (fun m => m.kind ≤ 4 && m.brand == pdkBrand n) ||
  s.byrQ.any (fun r => r.brand == pdkBrand n) || s.fab.any (fun x => readOut n x || (x.wr && x.brand == pdkBrand n && x.stage != 4 && x.ret != .none))

/-- Responses of the paddock's reads that have arrived and are written nowhere: what reads_discarded counts (R113, R124; log 115). -/
def readsArrived (s : State) (n : Nat) : Nat := (s.fab.filter (fun x => readOut n x && (x.stage == 4 || x.stage == 6))).length

/-- The last final completion of ring k (R113). -/
def lastFinal (s : State) (f k : Nat) : Nat :=
  let i := rd s (HST_CQIDX_next.ix2 f k) 0
  if i = 0 then 0xFFFFFFFF else i - 1

/-- MSI-X messages the discards at G4 prevent (R113). -/
def msixDiscarded (s : State) (n : Nat) : Nat :=
  ((List.range 32).filter (pbaBit s (n + 1))).length + (fnGet s (n + 1)).heldMsix.length + (waitingVectors s n).length

/-- The rings of the VF stop (R675). -/
def ringsStop (f : Nat) (s : State) : State :=
  iter 8 (fun k s => wr (HST_SQ_en.ix2 f k) 0 0 (wr (HST_CQ_en.ix2 f k) 0 0 s)) s

/-- Step G4: the reset fence record, then the discard of pending messages and events, and the stop of the rings. -/
def fenceRecord (n reads : Nat) (timedOut : Bool) (s : State) : State :=
  let f := n + 1
  let info := Nat.min reads 0xFFFF * 2 ^ 16 + Nat.min (msixDiscarded s n) 0xFF * 2 ^ 8 + 2 ^ 5 + b2n timedOut * 2 ^ 4 + rd s PDK_STATUS_cause n
  let fcq := (List.range 8).map (lastFinal s f)
  let s1 := wrW .pdk n PDK_FINFO_valid.off (BitVec.ofNat 64 info) (wr PDK_FTICK_tick n (pdkGet s n).tick0 s)
  let s2 := iter 8 (fun k s => wr (PDK_FCQ_last_final.ix k) n (fcq.getD k 0) s) s1
  let pair (i : Nat) : Nat := fcq.getD (2 * i) 0 + fcq.getD (2 * i + 1) 0 * 2 ^ 32
  let s3 := pfEvent 0x81 11 ([info + n * 2 ^ 32, (pdkGet s n).tick0, rd s PDK_FSEQ_seq n] ++ (List.range 4).map pair) s2
  ringsStop f (iter 32 (fun v s => setPba f v false s) (fnMod f (fun x => { x with heldMsix := [] })
    (pdkMod n (fun x => { x with waiting := 0 }) s3)))

/-- REGATHER_DRAIN_END: at time t the drain of G3 ends: nothing of the brand is outstanding, or 51 us have passed since t0;
reads still outstanding are abandoned; the release of the share is scheduled; G4 follows. -/
def execRegatherDrainEnd (n t : Nat) (s : State) : Result :=
  let s := atTime t s
  let late := (pdkGet s n).t0 + 5100 ≤ t
  .next (if 64 ≤ n ∨ pdkState s n ≠ 4 ∨ (pdkGet s n).step ≠ 2 ∨ (pdkOutstanding s n ∧ !late) then s
  else
    pdkMod n (fun x => { x with step := 4 })
      (fenceRecord n (readsArrived s n) (pdkOutstanding s n) (scheduleNext 0x30 n (gatesDrained n (dropReads n s)))))

/-- The records of an open trace line: their first words, by the length code (R633, R641). -/
def lineRecords : Nat → List Nat → List Nat
  | 0, _ => []
  | _, [] => []
  | k + 1, w :: ws => w :: lineRecords k (ws.drop (w % 4))

/-- Sources of core p stop; counters and sequence numbers are cleared, then its partial line is dropped and its records are counted
(R645 and spec/20_footfall.md, Registers; DEDUCED, log 125). -/
def traceClear (p : Nat) (s : State) : State :=
  let recs := lineRecords 7 (coreGet s p).trOpen
  let s0 := clearRegs .ftf p 0x40 0x54 (clearRegs .ftf p 0x58 0x68 (clearReg .ftf p FTF_SINKWAIT_count.off s))
  let s1 := recs.foldl (fun s w => bump (FTF_DROP_count.ix (rd s (FTF_SRC_prio.ix (w / 4 % 8)) p)) p s) s0
  trShow p (coreMod p (fun c => { c with trOpen := [], trDropped := Nat.min (c.trDropped + recs.length) 0xFFFFFFFF }) (wr FTF_STAT_on p 0 s1))

/-- Step G5 for core p: arrays and task registers 0, tags INT32, an empty weight plane, no injection armed, the scratchpad's
counts and the crook counter cleared, accesses to the scratchpad and Whistle state gone (R112, R113, R170, R174, R188, R252, R413,
R648; spec/05_core_bundle.md, spec/07_vector.md and spec/08_scratchpad.md, Registers). -/
def coreClear (p : Nat) (s : State) : State :=
  let cut {α : Type} (k : Nat) (m : SMap α) : SMap α := mapClear m (k * p) (k * (p + 1))
  let s1 := clearPrograms p { s with sp := cut 131072 s.sp, spEpoch := cut 1 s.spEpoch, tile := cut 16384 s.tile, acc := cut 4096 s.acc,
                                     shadow := cut 4096 s.shadow, desc := cut 256 s.desc, spMark := cut 131072 s.spMark }
  let s2 := iter 4 (fun a s => setSuspect p a false (setTag p a false s)) (wr LEA_MINJ_arm p 0 (wr LEA_MSTAT_plane_valid p 0
    (clearRegs .lea p 0x210 0x230 (clearRegs .lea p 0x234 0x248 (clearTaskRegs p
      (coreMod p (fun c => { c with plane := [], shadowPl := [], reqs := [], xtodo := [], paccs := [], issued := [], wb := [] }) s1))))))
  let s3 := clearReg .ftf p FTF_CROOK_en.off (clearReg .ftf p FTF_CROOKN_n.off s2)
  emptyWhistle p (iter 64 (fun k s => cnClear p k s) (traceClear p s3))

/-- The crook stop, the flush and any dump of paddock n end (R648, R654). -/
def crookClear (n : Nat) (s : State) : State :=
  let i := ftfI s n
  wr FTF_PSTAT_stopped i 0 (wr FTF_PSTAT_dumped i 0 (sinkMod n (fun k => { k with flush := false, dump := 0 })
    (pdkMod n (fun x => { x with crook := 0, crookBlock := 0 }) s)))

/-- Fixed-class registers of the paddock's instances are writable again (R62). -/
def fixedAgain (n : Nat) (s : State) : State := { s with fixedDone := s.fixedDone.filter (fun e => !pdkKey s n e.1) }

/-- Step G5 (R112): the paddock's state is cleared. -/
def regatherClear (n : Nat) (s : State) : State :=
  let s1 := crookClear n ((pdkPcores s n).foldl (fun s p => coreClear p s) s)
  let s2 := meshMod n (fun m => { m with hRegather := false, hSched := false, hCrook := false, hRation := false }) (emptyMesh n s1)
  let s3 := dropWhistle n (resetCtxs n (resetTally n (fun _ _ _ => 0) s2))
  let s4 := { s3 with tlyShadow := (pdkCounters s3 n).foldl (fun m c => mapSet 0 m (4096 * c.1 + c.2) 0) s3.tlyShadow }
  let s5 := reclaimPaddock n .regather (dropRoot n (fixedAgain n s4))
  { s5 with hostEnts := s5.hostEnts.filter (fun h => h.f != n + 1) }

/-- REGATHER_CLEAR_DONE: step G5 is complete: an FLR completes; a delete ends; else the reload is scheduled; repairs of the
paddock go on to P3. -/
def execRegatherClearDone (n : Nat) (s : State) : Result :=
  .next (if 64 ≤ n ∨ pdkState s n ≠ 4 ∨ (pdkGet s n).step ≠ 4 then s
  else
    let x := pdkGet s n
    let s1 := pdkMod n (fun y => { y with step := 5 }) (regatherClear n s)
    let s2 := if x.flr then flrReset n s1 else s1
    pfFlrDone (repairCleared n (if x.delete then pdkFree n s2 else scheduleNext 0x20 n s2)))

/-- An FLR of VF n + 1 (R116, R121, R683). -/
def vfFlr (n : Nat) (s : State) : State :=
  if !vfExists s n then s
  else if pdkState s n = 0 then flrReset n s
  else if pdkState s n = 4 ∧ 5 ≤ (pdkGet s n).step then flrReset n (wr PDK_STATUS_merged n 1 s)
  else regatherStart n 1 (fnMod (n + 1) (fun x => { x with underReset := true }) s)

/-! ### Entries of the phases (R83, R109, R112, R117) -/

/-- Class 0x20 at phase 1: a load begins, or G6 (R112, R490). -/
def loadEntry (n : Nat) (s : State) : State :=
  if pdkState s n = 4 ∧ 5 ≤ (pdkGet s n).step then
    let s1 := pdkMod n (fun x => { x with step := 6 }) s
    if (pdkGet s n).hadImage ∧ pdkCulled s n then strandAs n 14 s1
    else if (pdkGet s n).hadImage then reloadBegin n s1
    else reloadBegin n (pdkMod n (fun x => { x with step := 0, gateOpen := true, released := false }) s1)
  else if (foldGet s n).job = 1 ∧ pdkState s n = 1 then foldBegin n s
  else s

/-- Class 0x21 at phase 1: a section start; that of a failover goes on with the copy's epoch (R131, R522). -/
def startEntry (n : Nat) (s : State) : State := sectionStart n (failoverStart n s)

/-- Class 0x22 at phase 1: a replay, or a swap: it waits for its epoch and its copy, opens a Muster window it owes, or begins
(R495, R514, R517, R550). -/
def swapEntry (n : Nat) (s : State) : State :=
  if epPhase s n = 4 then replayBegin n s
  else if (foldGet s n).job ≠ 4 then s
  else if startWaits s n then scheduleNext 0x22 n (foldMod n (fun j => { j with since := curTick s + 1 }) s)
  else if (pdkGet s n).mwin = 3 then
    swapTry n (foldMod n (fun j => { j with since := j.since + 2 }) (pdkMod n (fun x => { x with mwin := 0 }) s))
  else if swapBlock s n ∧ parked s n ∧ windowWanted s n then windowDeclare n s
  else swapTry n s

/-- Class 0x23 at phase 1: G7, the restart; a standby stands by again (R112, R522). `draw` is the held draw measured where the
paddock restarts (R574). -/
def restartEntry (n : Nat) (s : State) : State :=
  let s1 := pdkMod n (fun x => { x with step := 0, gateOpen := true, released := false }) s
  let s2 := if isStandby s1 n then standbyBack n (wr PDK_STATUS_state n 6 s1) else sectionStart n s1
  pdkNotice n 7 (raiseSource n 12 s2)

/-- Class 0x30 at phase 2: the share of a regathering paddock is lent (R112, R120). -/
def releaseEntry (n : Nat) (s : State) : State :=
  if 4 ≤ (pdkGet s n).step then pdkMod n (fun x => { x with released := true }) s else s

/-- Effective shares at a tick, of every paddock that exists, in ascending order (R117, R120, R126). -/
def sharesUpdate (s : State) : State :=
  let ns := pdksCreated s
  let one (s : State) (n : Nat) : State :=
    let others := (ns.filter (· != n)).foldl (fun a m => a + rd s PDK_PEFF_eff_min m) 0
    let mn := Nat.min (eff s PDK_PSHARE_min n) 256
    let e := Nat.min mn (256 - others)
    wr PDK_PEFF_eff_min n e (wr PDK_PEFF_eff_cap n (Nat.max (Nat.min (eff s PDK_PSHARE_cap n) 256) e)
      (wr PDK_STATUS_share_clamped n (b2n (e < mn)) s))
  ns.foldl one s

/-- The change of a paddock's Ration share takes an entry of class 0x11 on the tick that brings it into effect (R83, R118). -/
def shareChange (n : Nat) (s : State) : State :=
  let k := curTick s + (if tickPast s then 2 else 1)
  if s.bell.cal.any (fun e => e.cls == 0x11 && e.tgt == n && e.tick == k) then s else schedule k 0x11 n s

/-- A write of PDK_VEC[k] of paddock n: waiting events of k are sent at once where coalesce becomes 0 (R109); one that takes
enable away discards them (DEDUCED, log 43). -/
def vecWrite (n k data : Nat) (s : State) : State :=
  let s1 := wr (PDK_VEC_vector.ix k) n (data / 2 ^ 8) (wr (PDK_VEC_coalesce.ix k) n (data / 2) (wr (PDK_VEC_enable.ix k) n data s))
  if rdB s1 (PDK_VEC_coalesce.ix k) n ∨ !natBit (pdkGet s1 n).waiting k then s1
  else
    let s2 := pdkMod n (fun x => { x with waiting := natSetBit x.waiting k false }) s1
    if rdB s2 (PDK_VEC_enable.ix k) n then sendMsix (n + 1) (rd s2 (PDK_VEC_vector.ix k) n) s2 else s2

/-- PDK_VEC_WRITE: a write of PDK_VEC[k] of paddock n. -/
def execPdkVecWrite (n k : Nat) (data : Word) (s : State) : Result := .next (if n < 64 ∧ k < 16 then vecWrite n k data.toNat s else s)

end Sys2Proof.Machine
end

