-- ==== Sys2Proof/Machine/HostFns.lean ====
section
/-! DEFINITION. The functions of H0 as PCIe sees them (spec/21_host.md R659-R663, R680-R686, R831; spec/24_startup.md R761, R766):
configuration space, function resets, the link. Function 0 is the PF, n + 1 the VF of paddock n. The layout inside each capability is
that of the PCIe Base Specification (PRESUMED, log 45). -/

namespace Sys2Proof.Machine

/-! ### MSI-X of a function that changes state (R663, R680) -/

/-- Send what is pending and no longer masked. -/
def msixFlush (f : Nat) (s : State) : State :=
  let x := fnGet s f
  if !x.msixEn || x.msixMask || x.d3 then s
  else ((List.range (if f = 0 then 256 else 32)).filter (fun v => pbaBit s f v && !vectorMasked s f v)).foldl
    (fun s v => sendMsix f v (setPba f v false s)) s

/-- Function f enters D3hot. -/
def d3Enter (f : Nat) (s : State) : State := fnMod f (fun x => { x with d3 := true }) s

/-- Function f returns to D0: the messages held are sent. -/
def d0Return (f : Nat) (s : State) : State :=
  let vs := (fnGet s f).heldMsix
  vs.foldl (fun s v => sendMsix f v s) (fnMod f (fun x => { x with d3 := false, heldMsix := [] }) s)

/-- A function that exists. -/
def fnExists (s : State) (f : Nat) : Bool := f == 0 || (f ≤ 64 && vfExists s (f - 1))

/-- D3HOT_ENTRY: function f enters D3hot. -/
def execD3hotEntry (f : Nat) (s : State) : Result := .next (if fnExists s f then d3Enter f s else s)

/-- D0_RETURN: function f returns to D0. -/
def execD0Return (f : Nat) (s : State) : Result := .next (if fnExists s f ∧ (fnGet s f).d3 then d0Return f s else s)

/-! ### Resets of functions (R683, R684, R694) -/

/-- VF_FLR: an FLR of VF n + 1. -/
def execVfFlr (n : Nat) (s : State) : Result := .next (if n < 64 then vfFlr n s else s)

/-- What every reset of the PF does: SR-IOV is off, every paddock is deleted, the PF's range and its ATS, PRI and PASID state
return to reset. -/
def pfReset (s : State) : State :=
  let s1 := fnReset 0 (sriovSet false 0 s)
  pagesShow { s1 with atsEn := false, priEn := false, priAlloc := 0, ats := [], atsInv := [], pageReqs := [] }

/-- PF_FLR: an FLR of the PF; a second one is merged (R683). -/
def execPfFlr (s : State) : Result :=
  .next (if (fnGet s 0).underReset then s
    else pfFlrDone (pfReset (fnMod 0 (fun x => { x with underReset := true }) s)))

/-- The first request for a host page that has not been answered: from its translation on it is outstanding (R309). -/
def hostFirst (s : State) : Option (Nat × Xact) :=
  ((List.range s.fab.length).zip s.fab).find? (fun y => y.2.host && [1, 2, 3, 5].contains y.2.stage)

/-- One outstanding request on the host path is answered (R390). -/
def hostLost (s : State) : State :=
  match hostFirst s with
  | none => s
  | some (i, x) =>
    if x.stage = 5 then xlateFault i { x with stage := 0 } 4 [] (fabSet i { x with stage := 0, host := false } s)
    else if x.wr then fabAnswer i x 4 [] [] (bump PST_HOSTLOST_count 10 s)
    else fabAnswer i x 3 (List.replicate x.len 0) (allLines x true) (bump PST_HOSTLOST_count 10 s)

/-- Contexts halted on a code 2 fault learn that the page will not come (R390). -/
def pagesLost (s : State) : State :=
  let gs := (s.ctxs.filter (fun x => x.2.code == 2)).map (fun x => x.1)
  gs.foldl (fun s g => pageAnswer false g s) s

/-- A BAR access in flight finds no link: its answer is dropped. -/
def barDrop (s : State) : State := { s with fab := s.fab.map (fun x => match x.ret with
  | .bar _ _ => { x with ret := .none }
  | _ => x) }

/-- A link reset: R390, then every function is reset (R684, R759). -/
def linkReset (s : State) : State :=
  let s1 := iter s.fab.length (fun _ s => hostLost s) (barDrop s)
  pfReset (fnMod 0 (fun x => { x with underReset := false }) (pagesLost { s1 with ats := [] }))

/-- The link leaves L0 (R661). -/
def linkLeaves (s : State) : State :=
  if rd s HST_LINK_state 0 = 4 then s
  else hostEvt HST_EVT_link_down (bump HST_LDCNT_count 0 (linkReset (wr HST_LINK_state 0 4 (wr HST_LINK_width 0 0
    (wr HST_LINK_speed 0 0 (wr HST_LINK_flit 0 0 s))))))

/-- LINK_DOWN: the Data Link Layer reports DL_Down. -/
def execLinkDown (s : State) : Result := .next (linkLeaves s)

/-! ### The link (R659, R660, R766) -/

/-- The host-path capacity at a speed code and a width (R360, R660). -/
def hostCap (speed width : Nat) : Nat := [0, 6, 12, 24, 48, 96, 192].getD speed 0 * width / 16

/-- Both directions of the host path have a new capacity from the next window on. -/
def hostCapNext (c : Nat) (s : State) : State :=
  { s with capNext := mapSet 0 (mapSet 0 s.capNext 24 (c + 1)) 25 (c + 1) }

/-- LINK_UP: at time t the link trains at a speed code and a width; flit mode is always used at 64 GT/s. It comes while H0 is
powered and PERST_N is high. -/
def execLinkUp (t speed width : Nat) (flit : Bool) (s : State) : Result :=
  let s := atTime t s
  .next (if rd s HST_LINK_state 0 ≠ 4 ∨ !mainOn s ∨ s.pwr.perst ∨ !natBit (rd s SHP_CLKSTAT_valid 0) 1 ∨ speed = 0 ∨ 6 < speed ∨
      !([1, 2, 4, 8, 16].contains width) then s
  else
    let s1 := wr HST_LINK_state 0 0 (wr HST_LINK_width 0 width (wr HST_LINK_speed 0 speed
      (wr HST_LINK_flit 0 (b2n (speed == 6 || (flit && 4 ≤ speed))) { s with pwr := { s.pwr with linkAt := t } })))
    hostEvt HST_EVT_link_up (hostCapNext (hostCap speed width) s1))

/-- L0P_WIDTH_CHANGE: the partner changes the width in use to w lanes. HST_LINK.width stays the negotiated width (DEDUCED, log
46). -/
def execL0pWidthChange (w : Nat) (s : State) : Result :=
  let full := rd s HST_LINK_width 0
  .next (if 2 ≤ rd s HST_LINK_state 0 ∨ full < w ∨ !rdB s HST_LINK_flit 0 ∨ !([1, 2, 4, 8, 16].contains w) then s
  else hostEvt HST_EVT_width_change (hostCapNext (hostCap (rd s HST_LINK_speed 0) w) (wr HST_LINK_state 0 (b2n (w < full)) s)))

/-- PERST_ASSERT: PERST_N falls: a link reset while the main domain is on (R761, R784). -/
def execPerstAssert (s : State) : Result :=
  let s1 := { s with pwr := { s.pwr with perst := true } }
  .next (if !mainOn s then s1 else if rd s HST_LINK_state 0 = 4 then linkReset s1 else linkLeaves s1)

/-- PERST_DEASSERT: PERST_N rises: link training may start. -/
def execPerstDeassert (s : State) : Result := .next { s with pwr := { s.pwr with perst := false } }

/-! ### Configuration space (R659, R662) -/

/-- Byte i of the board record loaded at the last cold start, where it is good (R744). -/
def boardByte (s : State) (i : Nat) : Nat := (Config.boardByte (s.mgmt.boardRun - 1) i).toNat
def boardNat (s : State) (i n : Nat) : Nat := leNat ((List.range n).map (fun k => boardByte s (i + k)))

/-- The header of an extended capability: identifier, version, the next one's offset. -/
def extCap (id ver next : Nat) : Nat := id + ver * 2 ^ 16 + next * 2 ^ 20

/-- Extended capabilities of the PF and their offsets (R662). -/
def extCaps : List (Nat × Nat) :=
  [(0x100, extCap 0x01 2 0x180), (0x180, extCap 0x0E 1 0x190), (0x190, extCap 0x10 1 0x1E0), (0x1E0, extCap 0x0F 1 0x1F0),
   (0x1F0, extCap 0x13 1 0x200), (0x200, extCap 0x1B 1 0x210), (0x210, extCap 0x15 1 0x230), (0x230, extCap 0x03 1 0x240),
   (0x240, extCap 0x19 1 0x280), (0x280, extCap 0x26 1 0x2C0), (0x2C0, extCap 0x2A 1 0x300), (0x300, extCap 0x31 1 0x340),
   (0x340, extCap 0x32 1 0x360), (0x360, extCap 0x25 1 0x370), (0x370, extCap 0x27 1 0x3C0), (0x3C0, extCap 0x2E 2 0)]

/-- What host software has written at a register that keeps it. -/
def cfgGet (s : State) (f o : Nat) : Nat := mapGet 0 s.cfg (1024 * f + o / 4)

/-- log2 of the size of BAR2 (R52): 1 GiB at reset. -/
def bar2Log (s : State) : Nat := 20 + clampNat 10 20 (natBits (cfgGet s 0 0x218) 13 8)

/-- Bits of register `o` (a byte offset) of function f that host software writes and H0 keeps as written. -/
def cfgMask (s : State) (f o : Nat) : Nat :=
  if o = 0x3C then 0xFF
  else if o = 0x78 then 0x7FFF
  else if o = 0x80 then 0xFFF
  else if o = 0x98 then 0xFFFF
  else if o = 0x108 ∨ o = 0x10C ∨ o = 0x114 then 0xFFFFFFFF
  else if f ≠ 0 then 0
  else if o = 0x10 then 0xFC000000
  else if o = 0x14 ∨ o = 0x1B8 then 0xFFFFFFFF
  else if o = 0x18 then (2 ^ 64 - 2 ^ bar2Log s) % 2 ^ 32
  else if o = 0x1C then (2 ^ 64 - 2 ^ bar2Log s) / 2 ^ 32
  else if o = 0x198 then 0x1E
  else if o = 0x1B4 then 0xFF000000
  else if o = 0x1E4 then 0x1F0000
  else if o = 0x204 then 0x10000
  else if o = 0x218 then 0x3F00
  else 0

/-- Device and Vendor ID and the subsystem IDs (R662). -/
def cfgIds (f : Nat) : Nat := 0x1F3C + (if f = 0 then 0x4712 else 0x4713) * 2 ^ 16
def cfgSubsystem (s : State) : Nat := if s.mgmt.boardRun = 0 then 0x1F3C + 0x4712 * 2 ^ 16 else boardNat s 8 4

/-- The fixed part of the registers every function has. -/
def cfgCommon (s : State) (f o : Nat) : Nat :=
  let x := fnGet s f
  if o = 0 then cfgIds f
  else if o = 4 then b2n x.memEn * 2 + b2n x.busMaster * 4 + 0x100000
  else if o = 8 then 0x21 + 0x120000 * 2 ^ 8
  else if o = 0x2C then cfgSubsystem s
  else if o = 0x34 then 0x40
  else if o = 0x40 then 0x01 + 0x50 * 2 ^ 8 + 3 * 2 ^ 16
  else if o = 0x44 then (if x.d3 then 3 else 0) + 8
  else if o = 0x50 then 0x11 + 0x70 * 2 ^ 8 + (if f = 0 then 255 else 31) * 2 ^ 16 + b2n x.msixMask * 2 ^ 30 + b2n x.msixEn * 2 ^ 31
  else if o = 0x54 then (if f = 0 then 0x3004000 else 0x4000)
  else if o = 0x58 then (if f = 0 then 0x3006000 else 0x6000)
  else if o = 0x70 then 0x10 + 2 * 2 ^ 16
  else if o = 0x74 then 2 + 2 ^ 5 + 2 ^ 15 + 2 ^ 28
  else if o = 0x94 then 0xF + 2 ^ 4 + 2 ^ 16 + 2 ^ 17
  else if o = 0x104 then mapGet 0 s.aer (2 * f)
  else if o = 0x110 then mapGet 0 s.aer (2 * f + 1)
  else 0

/-- The fixed part of the registers of the PF alone. -/
def cfgPf (s : State) (o : Nat) : Nat :=
  if o = 0x10 then 4
  else if o = 0x18 then 0xC
  else if o = 0x7C then 6 + 16 * 2 ^ 4 + 2 * 2 ^ 10
  else if o = 0x80 then rd s HST_LINK_speed 0 * 2 ^ 16 + rd s HST_LINK_width 0 * 2 ^ 20
  else if o = 0x198 then b2n s.vfEnable
  else if o = 0x1A0 then s.numVfs
  else if o = 0x1B0 then 1
  else if o = 0x19C then 64 + 64 * 2 ^ 16
  else if o = 0x1A4 then 1 + 1 * 2 ^ 16
  else if o = 0x1A8 then 0x4713 * 2 ^ 16
  else if o = 0x1AC then 1
  else if o = 0x1B4 then 4
  else if o = 0x1E4 then 2 ^ 5 + b2n s.atsEn * 2 ^ 31
  else if o = 0x1FC then s.priAlloc
  else if o = 0x1F4 then b2n s.priEn + rd s PST_PRISTAT_stopped 10 * 2 ^ 24
  else if o = 0x1F8 then 512
  else if o = 0x204 then 20 * 2 ^ 8
  else if o = 0x214 then 2 ^ 25 - 2 ^ 14
  else if o = 0x218 then 2 + 1 * 2 ^ 5
  else if o = 0x234 then Config.fusedSerial.toNat % 2 ^ 32
  else if o = 0x238 then Config.fusedSerial.toNat / 2 ^ 32
  else 0

/-- The value of configuration register o of function f. -/
def cfgRead (s : State) (f o : Nat) : Nat :=
  let head := if f = 0 then (match extCaps.find? (fun e => e.1 == o) with
      | some e => e.2
      | none => 0)
    else if o = 0x100 then extCap 0x01 2 0x180 else if o = 0x180 then extCap 0x0E 1 0 else 0
  let size := if f = 0 ∧ o = 0x218 ∧ cfgGet s f o = 0 then 10 * 2 ^ 8 else 0
  head + cfgCommon s f o + (if f = 0 then cfgPf s o else 0) + cfgGet s f o + size

/-- A 32-bit value with the enabled bytes replaced. -/
def cfgMerge (be old new : Nat) : Nat := mergeBytes (be % 16) (new % 2 ^ 32) old

/-- What a write of a configuration register does beside keeping its bits. `v` is the register's new value as written. -/
def cfgEffect (f o v : Nat) (s : State) : State :=
  if o = 4 then fnMod f (fun x => { x with memEn := natBit v 1, busMaster := natBit v 2 }) s
  else if o = 0x44 then
    (if natBits v 1 0 = 3 then d3Enter f s else if natBits v 1 0 = 0 ∧ (fnGet s f).d3 then d0Return f s else s)
  else if o = 0x50 then msixFlush f (fnMod f (fun x => { x with msixEn := natBit v 31, msixMask := natBit v 30 }) s)
  else if o = 0x78 then (if !natBit v 15 then s else if f = 0 then
      (if (fnGet s 0).underReset then s else pfFlrDone (pfReset (fnMod 0 (fun x => { x with underReset := true }) s)))
    else vfFlr (f - 1) s)
  else if f ≠ 0 then s
  else if o = 0x198 then sriovSet (natBit v 0) s.numVfs s
  else if o = 0x1A0 then sriovSet s.vfEnable (v % 2 ^ 16) s
  else if o = 0x1E4 then { s with atsEn := natBit v 31 }
  else if o = 0x1F4 then
    (let s1 := { s with priEn := natBit v 0 }
     if natBit v 1 ∨ (natBit v 0 ∧ !s.priEn) then wr PST_PRISTAT_stopped 10 0 s1 else s1)
  else if o = 0x1FC then { s with priAlloc := v }
  else s

/-- A write of configuration register o of function f. Status bits of AER clear where 1 is written. -/
def cfgWrite (f o be data : Nat) (s : State) : State :=
  let v := cfgMerge be (cfgRead s f o) data
  let ones := cfgMerge be 0 data
  if o = 0x104 ∨ o = 0x110 then
    (let k := 2 * f + b2n (o == 0x110)
     { s with aer := mapSet 0 s.aer k (Nat.land (mapGet 0 s.aer k) (2 ^ 32 - 1 - ones)) })
  else
    let m := cfgMask s f o
    cfgEffect f o v { s with cfg := mapSet 0 s.cfg (1024 * f + o / 4) (Nat.land v m) }

/-- The configuration space is ready: 5 ms after link-up (R766). -/
def cfgReady (t : Nat) (s : State) : Bool := mainOn s && s.pwr.linkAt + 500000 ≤ t

/-- CONFIG_REQUEST: at time t a configuration request of function f comes over the link: register o, a write of enabled bytes, or a
read. The answer's status is 0 successful, 1 Unsupported Request, 2 Request Retry Status (R99, R766). -/
def execConfigRequest (t f tag : Nat) (wrt : Bool) (o be : Nat) (data : Word) (s : State) : Result :=
  let s := atTime t s
  let o := o / 4 * 4 % 4096
  .next (if rd s HST_LINK_state 0 = 4 then s
  else if !cfgReady t s then emit .cplData [f, tag, 2] s
  else if !fnExists s f then emit .cplData [f, tag, 1] s
  else if wrt then emit .cplData [f, tag, 0] (cfgWrite f o be (data.toNat % 2 ^ 32) s)
  else emit .cplData [f, tag, 0, cfgRead s f o % 2 ^ 32] s)

end Sys2Proof.Machine
end

