-- ==== Sys2Proof/Machine/Startup.lean ====
section
/-! DEFINITION. Supplies, clocks, reset, start-up, standby, shut-down and thermal trip (spec/24_startup.md R753-R786; spec/23_management.md
R731, R732, R743, R744 for the boot). The package states are those of SHP_PWRSTAT: 0 Keeper, 1 Starting, 2 Serving, 3 Standby,
4 Shutting down, 5 Thermal trip, 6 Recovery. -/

namespace Sys2Proof.Machine

def pwrMod (g : Pwr → Pwr) (s : State) : State := { s with pwr := g s.pwr }
def mgmtMod (g : Mgmt → Mgmt) (s : State) : State := { s with mgmt := g s.mgmt }

/-! ### States and levels -/

/-- The package state. -/
def pwrState (s : State) : Nat := rd s SHP_PWRSTAT_state 0

/-- The main domain has its supplies (R753): dies 0 to 10 are reset and powered. -/
def mainPowered (s : State) : Bool := mainOn s || (pwrState s == 4 && rdB s SHP_PWRSTAT_rails_en 0)

/-- A package state, or 0x10 plus a lost clock, is posted while H0 has a link, and recorded (SHP_ registers of spec/24_startup.md,
R605). -/
def pwrEvent (w0 : Nat) (s : State) : State :=
  let s1 := if rd s HST_LINK_state 0 = 4 then s
    else pfEvent 0x99 11 [regNat s SHP_PWRSTAT_state 0, regNat s SHP_CLKSTAT_valid 0] s
  flockEvent 0x0120 11 w0 (regNat s1 SHP_PWRSTAT_state 0) 0 0 s1

/-- The package state changes. -/
def setPwr (st : Nat) (s : State) : State := if pwrState s = st then s else pwrEvent st (wr SHP_PWRSTAT_state 0 st s)

/-- The last step completed. -/
def setStep (k : Nat) (s : State) : State := wr SHP_PWRSTAT_step 0 k s

/-- The two railEnables that K0 drives (R753, R754). -/
def railEnables (rails mem : Bool) (s : State) : State := wr SHP_PWRSTAT_rails_en 0 (b2n rails) (wr SHP_PWRSTAT_mem_pwren 0 (b2n mem) s)

/-- A clock is valid now: 0 SYSREF, 1 REFCLK, 2 ETHREF, 3 RTC. -/
def clkValid (s : State) (i : Nat) : Bool := natBit (rd s SHP_CLKSTAT_valid 0) i

/-- ALIVE_OUT goes static low (R94). -/
def aliveLow (s : State) : State := wr BEL_STATUS_alive 0 0 { s with aliveOut := false }

/-- The timebase becomes Stopped: no tick is taken, BELL_LOCK is low, the counter keeps its value. -/
def bellStop (s : State) : State :=
  aliveLow (wr BEL_STATUS_state 0 belStopped (wr BEL_STATUS_bell_lock 0 0
    { s with bellLock := false, bell := { s.bell with due := [], accepted := none, qualified := false } }))

/-! ### The groups of main supplies (S7) -/

/-- The rails in the order they turn on. -/
def railGroups : List (List Nat) := [[8], [4], [6], [7], [5], [0, 1, 2, 3]]

/-- The valid rails of group g. -/
def groupRails (s : State) (g : Nat) : List Nat := (railGroups.getD g []).filter (fun r => rdB s (RTN_PMRAIL_valid.ix r) 0)

/-- PMBus OPERATION (0x01) to a rail: 0x80 on, 0x00 off. -/
def operation (on : Bool) (r : Nat) (s : State) : State := emit .pmbus [r, 1, if on then 0x80 else 0] s

/-- A rail reports POWER_GOOD. -/
def railGood (s : State) (r : Nat) : Bool := natBit (rd s SHP_PWRSTAT_rail_good 0) r

/-- Every rail that was commanded on is commanded off, in reverse order, and the railEnables fall. -/
def suppliesOff (s : State) : State :=
  let rs := ((List.range 6).flatMap (groupRails s)).reverse
  wr SHP_PWRSTAT_rail_good 0 0 (railEnables false false (rs.foldl (fun s r => operation false r s) s))

/-- A start-up step from S6 on fails: the supplies turn off and the package returns to Keeper (R767). -/
def startFails (s : State) : State :=
  setPwr 0 (pwrMod (fun p => { p with fails := p.fails + 1, failAt := s.now, group := 0 }) (suppliesOff s))

/-- A rail fails in S7 (R767, R779). -/
def railFails (r : Nat) (s : State) : State := startFails (wr SHP_BOOTSTAT_rail_fail 0 1 (wr SHP_BOOTSTAT_rail 0 r s))

/-! ### Reset levels (R759) -/

/-- The instances a main-domain reset keeps. -/
def keeperBlks : List Blk := [.shp, .bel, .rtn, .fbk, .sec, .wlk, .mst, .cul]

/-- Every task of every physical core is halted with reason 5 (R759). -/
def allHalted (s : State) : State :=
  (List.range 8).foldl (fun s d => (dieCores d).foldl (fun s p => iter 4 (fun t s => wr (LEA_TSTAT_reason.ix t) p 5 s) s) s) s

/-- A core reset of every core. -/
def allCoresReset (s : State) : State :=
  let keep {α : Type} (m : SMap α) : SMap α := m.filter (fun e => !(coreBlks.any (fun b => blkCode b == e.1 / 0x800000 / 65536)))
  allHalted { s with
    regs := keep s.regs, bellPend := keep s.bellPend, rearmPend := keep s.rearmPend, fixedDone := keep s.fixedDone
    cores := [], sp := [], spEpoch := [], imem := [], rslot := [], tile := [], acc := [], shadow := [], desc := [], frameChk := [],
    ht := [], ctxs := s.ctxs.filter (fun e => ctxFar e.1), sends := [], rqs := [], spills := [], opens := [], landings := [],
    connLt := [], connShadow := [], wlkDue := [], links := [] }

/-- The main-domain reset: dies 0 to 10, and on K0 paddocks, loader, Tally, Footfall; K0's keeper instances, timebase, calendar
and Flockbook stay (R759). -/
def mainReset (s : State) : State :=
  let keep {α : Type} (m : SMap α) : SMap α := m.filter (fun e => keeperBlks.any (fun b => blkCode b == e.1 / 0x800000 / 65536))
  let s1 := (List.range 64).foldl (fun s n => pdkUnschedule n s) s
  allHalted { State.reset with
    now := s1.now, freeCtr := s1.freeCtr, regs := keep s1.regs, bellPend := keep s1.bellPend, rearmPend := keep s1.rearmPend
    fixedDone := keep s1.fixedDone, outbox := s1.outbox, bellLock := s1.bellLock, aliveOut := s1.aliveOut, bell := s1.bell
    fbk := s1.fbk, walkers := s1.walkers, mcores := s1.mcores, mwins := s1.mwins, mblast := s1.mblast, keys := s1.keys, ration := s1.ration
    pmTry := s1.pmTry, pldmQ := s1.pldmQ, mgmt := s1.mgmt, pwr := s1.pwr, memEpoch := s1.memEpoch, tap := s1.tap, pending := s1.pending }

/-- The cold reset of K0 begins: every register of every die; MRAM, key store, flash and fuses stay, the RTC where VAUX stayed
(R759); the test access port is reset too (R794). -/
def coldReset (cause : Nat) (s : State) : State :=
  { State.reset with
    now := s.now, freeCtr := s.freeCtr, outbox := s.outbox, memEpoch := s.memEpoch, keys := s.keys, pending := s.pending
    fbk := { fbkReset with slots := s.fbk.slots, rtcSec := s.fbk.rtcSec, rtcFrac := s.fbk.rtcFrac, rtcAt := s.fbk.rtcAt,
                           rtcRun := s.fbk.rtcRun, lifeAt := s.now }
    mgmt := { mgmtReset with slotA := s.mgmt.slotA, slotB := s.mgmt.slotB, active := s.mgmt.active, owner := s.mgmt.owner,
                             fusedSvn := s.mgmt.fusedSvn, board := s.mgmt.board, bootNext := s.mgmt.bootNext }
    pwr := { pwrReset with vaux := s.pwr.vaux, cause := cause, hot := s.pwr.hot, boots := s.pwr.boots, trip := s.pwr.trip,
                           tripBoot := s.pwr.tripBoot, perst := s.pwr.perst } }

/-- The RTC loses its count with VAUX: what it reads afterwards is free (log 4). -/
def rtcLost (s : State) : State :=
  let a := drawFree s
  let b := drawFree a.2
  fbkMod (fun x => { x with rtcSec := a.1, rtcFrac := b.1 % 32768, rtcAt := s.now, rtcRun := true, lifeAt := s.now }) b.2

/-- VAUX_GOOD: at time t VAUX has stayed good and the cold reset is held (R756). -/
def execVauxGood (t : Nat) (s : State) : Result :=
  let s := atTime t s
  .next (if s.pwr.vaux then s
    else pwrMod (fun p => { p with vaux := true, cold := true }) (fbkMod (fun x => { x with lifeAt := s.now, rtcAt := s.now }) s))

/-- VAUX_BROWNOUT: VAUX falls below 3.0 V: the main domain drops and K0 is in cold reset (R756). -/
def execVauxBrownout (t : Nat) (s : State) : Result :=
  let s := atTime t s
  .next (if !s.pwr.vaux then s else rtcLost (coldReset 3 (pwrMod (fun p => { p with vaux := false }) s)))

/-- KRST_N_ASSERT: KRST_N has been low for 10 us (R760). -/
def execKrstNAssert (t : Nat) (s : State) : Result :=
  let s := atTime t s
  .next (if !s.pwr.vaux then s else coldReset 1 s)

/-- K0_OVERTEMP: K0's own sensor reads 125 degrees or more: it holds itself in cold reset (R776). -/
def execK0Overtemp (t : Nat) (s : State) : Result :=
  let s := atTime t s
  .next (if !s.pwr.vaux then s else coldReset 2 (pwrMod (fun p => { p with hot := true }) s))

/-- K0_OVERTEMP_RELEASE: K0's own sensor reads below 110 degrees (R776). -/
def execK0OvertempRelease (s : State) : Result := .next (pwrMod (fun p => { p with hot := false }) s)

/-! ### The boot chain (R731, R732, R739, R743, R744) -/

def slotOf (s : State) (k : Nat) : FlashSlot := if k = 0 then s.mgmt.slotA else s.mgmt.slotB

/-- A stage of slot k passes: its signature holds and its security version is at least the fused one. -/
def loaderOk (s : State) (k : Nat) : Bool := (slotOf s k).lok && decide (s.mgmt.fusedSvn ≤ (slotOf s k).lsvn)
def firmwareOk (s : State) (k : Nat) : Bool := (slotOf s k).fok && decide (s.mgmt.fusedSvn ≤ (slotOf s k).fsvn)

/-- A security record (type 0x0400, R743). -/
def secRecord (sub w1 w2 : Nat) (s : State) : State := flockEvent 0x0400 11 sub w1 w2 0 s

/-- Measurement i takes six words. -/
def measSet (i : Nat) (ws : List Nat) (s : State) : State := iter 6 (fun k s => wr (SEC_MEAS_word.ix2 (i - 1) k) 0 (ws.getD k 0) s) s

/-- A digest over bytes the spec does not give: free (log 4). -/
def measFree (i : Nat) (s : State) : State :=
  let x := (List.range 6).foldl (fun (x : List Nat × State) _ => let d := drawFree x.2; (x.1 ++ [d.1], d.2)) ([], s)
  measSet i x.1 x.2

/-- A SHA-384 digest as six words. -/
def digestWords (bs : List Nat) : List Nat := (List.range 6).map (fun k => leNat ((bs.drop (8 * k)).take 8))

/-- The board record as it stands in flash, and whether it is good (R744). -/
def flashByte (s : State) (i : Nat) : Nat := (Config.boardByte s.mgmt.board i).toNat
def boardGood (s : State) : Bool :=
  let b (i n : Nat) : Nat := leNat ((List.range n).map (fun k => flashByte s (i + k)))
  b 0 4 == 0x44524F42 && b 4 2 == 1 && b 252 4 == crc32c ((List.range 252).map (flashByte s))

/-- Measurement 4 and 5 are raw: their first 48 bytes (DESIGN CHOICE, log 47). -/
def measRaw (s : State) : State :=
  let v4 := s.mgmt.fusedSvn % 65536 + s.mgmt.lsvn % 65536 * 2 ^ 16 + rd s SHP_FWVER_fw_svn 0 * 2 ^ 32
  let v5 := regNat s SHP_DEVID_device 0 % 2 ^ 32 + regNat s SHP_RATING_fmax_mhz 0 % 2 ^ 32 * 2 ^ 32
  measSet 4 [v4] (measSet 5 (v5 :: s.mgmt.owner.take 5) s)

/-- Firmware of slot k runs: SHP_FWSTAT and SHP_FWVER. -/
def firmwareRuns (k : Nat) (s : State) : State :=
  wr SHP_FWSTAT_slot 0 k (wr SHP_FWVER_version 0 (slotOf s k).fver (wr SHP_FWVER_fw_svn 0 (slotOf s k).fsvn
    (wr SHP_FWVER_fused_svn 0 s.mgmt.fusedSvn s)))

/-- The slots a boot tries, first to last: the one a new component waits in, else the active one (R731, R739). -/
def bootOrder (s : State) : Nat × Nat :=
  let a := if s.mgmt.bootNext = 0 then s.mgmt.active else s.mgmt.bootNext - 1
  (a, 1 - a)

/-- What the chain comes to: the slot of the boot loader and that of the firmware, plus 1; 0 where neither slot passes. -/
def bootChain (s : State) : Nat × Nat :=
  let o := bootOrder s
  let l := if loaderOk s o.1 then o.1 + 1 else if loaderOk s o.2 then o.2 + 1 else 0
  let f := if l = 0 then 0 else if firmwareOk s (l - 1) then l else if firmwareOk s (2 - l) then 3 - l else 0
  (l, f)

/-- The board record is loaded: RTN_PMRAIL, or every rail absent (R744). -/
def boardLoad (s : State) : State :=
  let good := boardGood s
  let v (r : Nat) : Nat := if good then leNat ((List.range 4).map (fun k => flashByte s (16 + 4 * r + k))) else 0
  iter 9 (fun r s => wr (RTN_PMRAIL_valid.ix r) 0 (v r / 2 ^ 31) (wr (RTN_PMRAIL_addr.ix r) 0 (v r / 2 ^ 8) (wr (RTN_PMRAIL_page.ix r) 0 (v r) s)))
    (mgmtMod (fun m => { m with boardRun := if good then s.mgmt.board + 1 else 0 }) s)

/-- SHP_STRAP at the n-th release (R806). -/
def strapsLoad (s : State) : State :=
  let v := (Config.straps s.pwr.boots).toNat
  wr SHP_STRAP_rbus_addr 0 v (wr SHP_STRAP_msb_addr 0 (v / 8) (wr SHP_STRAP_msb_mode 0 (v / 64)
    (wr SHP_STRAP_rbus_addr7 0 (0x58 + v % 8) (wr SHP_STRAP_msb_addr7 0 (0x38 + v / 8 % 8) s))))

/-! ### Start-up (R762, R767) -/

/-- S5 and on: SYSREF is valid; the memory supplies are asked for. -/
def startS5 (s : State) : State := railEnables false true (setStep 5 (setPwr 1 (wr SHP_BOOTSTAT_sysref_wait 0 0 s)))

/-- Start-up stands before S5. -/
def tryS5 (s : State) : State := if clkValid s 0 then startS5 s else wr SHP_BOOTSTAT_sysref_wait 0 1 s

/-- The chain of R731 and what follows it up to S4: the scan, the security records, the board record, and S5 where nothing holds it
up. Without firmware, Recovery. -/
def bootRun (s : State) : State :=
  let c := bootChain s
  let o := bootOrder s
  let failed := if c.1 ≠ o.1 + 1 then 2 else 3
  if c.2 = 0 then
    secRecord 10 (if c.1 = 0 then 2 else 3) 0 (fbkScan (wr SHP_FWSTAT_state 0 4 (setPwr 6 s)))
  else
    let f := c.2 - 1
    let s1 := mgmtMod (fun m => { m with lsvn := (slotOf s (c.1 - 1)).lsvn,
                                         active := if m.bootNext ≠ 0 ∧ c = (o.1 + 1, o.1 + 1) then f else m.active, bootNext := 0 }) s
    let s2 := measFree 6 (measRaw (measFree 3 (measFree 2 (measFree 1 (firmwareRuns f (wr SHP_FWSTAT_state 0 0
      (wr SHP_FWSTAT_owner_set 0 (b2n (s1.mgmt.owner != [])) (setPwr 0 s1))))))))
    let s3 := secRecord 1 f (slotOf s f).fver (fbkScan s2)
    let s4 := if c = (o.1 + 1, o.1 + 1) then s3 else secRecord 4 f failed s3
    let s5 := setStep 4 (boardLoad (measSet 7 (digestWords (sha384 ((List.range 256).map (flashByte s4)))) s4))
    if (validRails s5).isEmpty then wr SHP_BOOTSTAT_no_rails 0 1 s5 else if s5.pwr.hotWait then s5 else tryS5 s5

/-- COLD_RESET_RELEASE: at time t the cold reset is released: S1 to S4 (R762). KRST_N is high and VAUX has been good for 10 ms. -/
def execColdResetRelease (t : Nat) (s : State) : Result :=
  let s := atTime t s
  .next (if !s.pwr.vaux ∨ !s.pwr.cold ∨ s.pwr.hot then s
  else
    let s1 := wr SHP_BOOTSTAT_cold_cause 0 s.pwr.cause (wr SHP_BOOTSTAT_after_trip 0 (b2n s.pwr.tripBoot) (setStep 1 (strapsLoad s)))
    bootRun (pwrMod (fun p => { p with cold := false, flRstN := true, boots := p.boots + 1, trip := false, hotWait := p.tripBoot, tripBoot := false }) s1))

/-- AFTER_TRIP_COOLED: K0's own sensor reads below 100 degrees (R774). -/
def execAfterTripCooled (s : State) : Result :=
  .next (if !s.pwr.hotWait ∨ pwrState s ≠ 0 ∨ rdB s SHP_BOOTSTAT_no_rails 0 then s
    else tryS5 (pwrMod (fun p => { p with hotWait := false }) s))

/-- Group g of the supplies is switched on; a group without valid rails is passed over. -/
def groupOn : Nat → Nat → State → State
  | 0, g, s => pwrMod (fun p => { p with group := g }) s
  | k + 1, g, s =>
    if (groupRails s g).isEmpty then groupOn k (g + 1) s
    else (groupRails s g).foldl (fun s r => operation true r s) (pwrMod (fun p => { p with group := g }) s)

/-- External memory is powered again: nothing of it has been written (R830). -/
def memPowerUp (s : State) : State := { s with mem := [], lines := [], memEpoch := s.memEpoch + 1 }

/-- The main domain comes out of its reset (S8): clocks at 400 MHz, setpoints, the stress and offsets the Flockbook keeps, memory
without content. -/
def mainUp (s : State) : State :=
  let s1 := mainReset (setStep 7 s)
  let s2 := iter 8 (fun d s => wr RTN_DSTRESS_s d (rd s (FBK_CNT_value.ix (32 + d)) 0)
    (wr RTN_DAGE_dv_mon d (rd s (FBK_CNT_value.ix (40 + d)) 0 / 2 ^ 16) (wr RTN_DAGE_dv_model d (rd s (FBK_CNT_value.ix (40 + d)) 0) s))) s1
  let offs := (List.range 8).map (fun d => Nat.max (rd s2 RTN_DAGE_dv_mon d) (rd s2 RTN_DAGE_dv_model d))
  setStep 8 (clockStep (ratMod (fun r => { r with fNext := 400, off := offs }) (memPowerUp s2)))

/-- Groups go on until one waits for POWER_GOOD, or all are on and S7 is complete. -/
def groupsGo (g : Nat) (s : State) : State :=
  let s1 := groupOn (6 - g) g s
  if s1.pwr.group = 6 then mainUp s1 else s1

/-- MEM_PG_RISE: at time t MEM_PG rises; where start-up waits for it, S6 is complete and the supplies turn on (R755, R762). -/
def execMemPgRise (t : Nat) (s : State) : Result :=
  let s1 := wr SHP_PWRSTAT_mem_pg 0 1 (atTime t s)
  .next (if pwrState s1 = 1 ∧ rd s1 SHP_PWRSTAT_step 0 = 5 ∧ rdB s1 SHP_PWRSTAT_mem_pwren 0 then
      groupsGo 0 (railEnables true true (setStep 6 s1))
    else s1)

/-- S7 runs. -/
def inS7 (s : State) : Bool := pwrState s == 1 && rd s SHP_PWRSTAT_step 0 == 6

/-- STATUS_WORD of a rail of the group being switched on is read: a fault fails start-up (R779), POWER_GOOD lets it go on. -/
def railUp (r w : Nat) (s : State) : State :=
  let s1 := railStatus r w s
  if [2, 3, 4, 5, 15].any (natBit w) then railFails r s1
  else if natBit w 11 then s1
  else
    let s2 := wr SHP_PWRSTAT_rail_good 0 (natSetBit (rd s1 SHP_PWRSTAT_rail_good 0) r true) s1
    if (groupRails s2 s2.pwr.group).all (railGood s2) then groupsGo (s2.pwr.group + 1) s2 else s2

/-- RAIL_POWER_GOOD: at time t STATUS_WORD w of rail r is read in S7. -/
def execRailPowerGood (t r w : Nat) (s : State) : Result :=
  let s := atTime t s
  .next (if !inS7 s ∨ !(groupRails s s.pwr.group).contains r then s else railUp r w s)

/-- POWER_GOOD_TIMEOUT: at time t, MEM_PG has not risen within 20 ms, or a rail of the group is not good within 5 ms (R767). -/
def execPowerGoodTimeout (t : Nat) (s : State) : Result :=
  let s := atTime t s
  .next (if pwrState s ≠ 1 then s
  else if rd s SHP_PWRSTAT_step 0 = 5 then startFails (wr SHP_BOOTSTAT_mem_pg_fail 0 1 s)
  else if rd s SHP_PWRSTAT_step 0 = 6 then
    (match (groupRails s s.pwr.group).find? (fun r => !railGood s r) with
     | some r => railFails r s
     | none => s)
  else s)

/-- STARTUP_RETRY: at time t, 1 s after it failed, start-up is retried, once (R767). -/
def execStartupRetry (t : Nat) (s : State) : Result :=
  let s := atTime t s
  .next (if pwrState s ≠ 0 ∨ s.pwr.fails ≠ 1 ∨ rdB s SHP_BOOTSTAT_retried 0 ∨ t < s.pwr.failAt + 100000000 then s
    else tryS5 (setStep 4 (wr SHP_BOOTSTAT_retried 0 1 s)))

/-- MT/s of a rate code. -/
def memRate (code : Nat) : Nat := if code = 0 then 6400 else if code = 1 then 7500 else 8533

/-- U in GiB and the capacity of every port, by its own rate, follow MEM_CFG and PST_MEMMAP.iecc (R44, R360, R366). -/
def memShape (s : State) : State :=
  let ecc := rdB s PST_MEMMAP_iecc 10
  let bad := (List.range 24).any (fun p => rdB s MEM_STAT_train_fail p)
  let gib := 24 * rd s MEM_CFG_port_gib 0
  let s1 := wr PST_MEMMAP_usable_gib 10 (if bad then 0 else if ecc then gib - gib / 16 else gib) s
  (List.range 24).foldl (fun s p =>
    let f := memRate (rd s MEM_CFG_rate p)
    setCap p (if ecc then f * 15 / 1200 else f / 75) (wr MEM_CFG_iecc p (b2n ecc) s)) s1

/-- MEMORY_TRAINING_DONE: S9: capacity of each port in GiB, rate code of each port, modules, and the ports that fail training (R365, R366). -/
def execMemoryTrainingDone (gib : Nat) (rates : List Nat) (lpcamm : Bool) (fails : List Nat) (s : State) : Result :=
  .next (if pwrState s ≠ 1 ∨ rd s SHP_PWRSTAT_step 0 ≠ 8 ∨ rates.any (2 < ·) ∨ !([4, 8, 12, 16, 24, 32].contains gib) then s
  else
    setStep 9 (memShape ((List.range 24).foldl (fun s p =>
      wr MEM_STAT_train_fail p (b2n (fails.contains p)) (wr MEM_STAT_trained p (b2n (!fails.contains p))
        (wr MEM_CFG_port_gib p gib (wr MEM_CFG_rate p (rates.getD p 0) (wr MEM_CFG_lpcamm p (b2n lpcamm) s))))) s)))

/-- S12, and the last step of a wake: the held draw is known, the timebase starts at time t, the package serves. -/
def serve (t draw : Nat) (s : State) : State := setStep 12 (setPwr 2 (startBell t (heldDrawSet draw s)))

/-- STARTUP_MUSTER_DONE: start-up Muster has tested every core that is not retired and every shared block: `fails` pairs a failing
physical core with its first failing unit, `blocks` a failing block with its slice. Once every failure is repaired S10 to S12
follow, with the held draw measured (R764). -/
def execStartupMusterDone (t draw : Nat) (fails blocks : List (Nat × Nat)) (s : State) : Result :=
  let s := atTime t s
  .next (if pwrState s ≠ 1 ∨ rd s SHP_PWRSTAT_step 0 ≠ 9 then s
  else
    let s1 := (List.range 8).foldl (fun s d => ((dieCores d).filter (fun p => !retired s p)).foldl (fun s p =>
      mcoreMod p (fun m => { m with last := curTick s, due := 0 }) s) s) s
    let s2 := fails.foldl (fun s x => if retired s1 x.1 ∨ !(List.range 8).any (fun d => (dieCores d).contains x.1) then s else testFails x.1 x.2 s) s1
    let s3 := repairP2 ((blocks.filter (fun x => x.1 < 37)).foldl (fun s x => blockFails x.1 x.2 s) s2)
    if s3.repairs.isEmpty then serve t draw (setStep 11 s3) else s3)

/-! ### Standby (R768, R769) -/

/-- SHP_PWRCMD has been judged. -/
def cmdResult (r : Nat) (s : State) : State := wr SHP_PWRSTAT_cmd_result 0 r s

/-- SHP_PWRCMD op 2. -/
def standbyAsk (s : State) : State :=
  if pwrState s = 2 ∧ (pdksCreated s).isEmpty then cmdResult 0 (pwrMod (fun p => { p with standby := true }) s) else cmdResult 3 s

/-- STANDBY: SHP_PWRCMD op 2. -/
def execStandby (s : State) : Result := .next (standbyAsk s)

/-- Every memory port enters or leaves self-refresh. -/
def selfRefresh (on : Bool) (s : State) : State := iter 24 (fun p s => wr MEM_STAT_self_refresh p (b2n on) s) s

/-- The end of phase 2 of the tick after a standby was accepted: the timebase stops. A paddock created meanwhile voids the request
(DESIGN CHOICE, log 48). -/
def standbyStop (s : State) : State :=
  if !s.pwr.standby then s
  else
    let s1 := pwrMod (fun p => { p with standby := false }) s
    if pwrState s ≠ 2 ∨ !(pdksCreated s).isEmpty then s1 else selfRefresh true (setPwr 3 (bellStop s1))

/-- The package wakes: a core reset of every core, memory out of self-refresh, the held draw, the first tick. -/
def wakeRun (t draw : Nat) (s : State) : State :=
  serve t draw (clockStep (ratMod (fun r => { r with fNext := 400 }) (allCoresReset (selfRefresh false (wr SHP_BOOTSTAT_sysref_wait 0 0 s)))))

/-- SHP_PWRCMD op 3 at time t; `draw`: the held draw it then measures (R769, R819). -/
def wakeAsk (t draw : Nat) (s : State) : State :=
  if pwrState s ≠ 3 ∨ rdB s SHP_STRAP_scan_used 0 then cmdResult 3 s
  else if clkValid s 0 then wakeRun t draw (cmdResult 0 s)
  else wr SHP_BOOTSTAT_sysref_wait 0 1 (cmdResult 0 s)

/-- WAKE: SHP_PWRCMD op 3. -/
def execWake (t draw : Nat) (s : State) : Result := .next (wakeAsk t draw (atTime t s))

/-! ### Shut-down and thermal trip (R770-R775) -/

/-- A shut-down or trip is recorded. -/
def sdInfo (cause rail : Nat) (fast trip : Bool) (s : State) : State :=
  wrW .shp 0 SHP_SDINFO_cause.off (BitVec.ofNat 64
    (curTick s % 2 ^ 32 * 2 ^ 32 + 2 ^ 31 + b2n trip * 2 ^ 10 + b2n fast * 2 ^ 8 + rail % 16 * 2 ^ 4 + cause % 16)) s

/-- H0 leaves the link at a shut-down or trip: outstanding BAR reads get Completer Abort (status 4), what is outstanding on the host
path is lost (R390, R685). -/
def linkAbort (s : State) : State :=
  let bars := s.fab.filter (fun x => match x.ret with
    | .bar _ _ => true
    | _ => false)
  let s1 := bars.foldl (fun s x => match x.ret with
    | .bar f tag => if x.wr then s else emit .cplData [f, tag, 4] s
    | _ => s) s
  if rd s HST_LINK_state 0 = 4 then s1
  else
    let s2 := barDrop (bump HST_LDCNT_count 0 (wr HST_LINK_state 0 4 (wr HST_LINK_width 0 0 (wr HST_LINK_speed 0 0 (wr HST_LINK_flit 0 0 s1)))))
    iter s2.fab.length (fun _ s => hostLost s) s2

/-- The package stops serving: gates close, partners on other packages are told, the link goes, work stops, requests that are still
outstanding are abandoned (D1, D2 of R771). -/
def stopServing (s : State) : State :=
  let ns := pdksCreated s
  let s1 := linkAbort (aliveLow (pwrMod (fun p => { p with standby := false }) s))
  ns.foldl (fun s n =>
    let s2 := if rdB s PDK_WPCFG_remote n then failoverNotice n s else s
    pdkUnschedule n (dropReads n (stopWork n 5 (meshMod n (fun m => { m with hRegather := true })
      (pdkMod n (fun x => { x with gateOpen := false }) s2))))) s1

/-- The record of the end and the snapshot are staged (R617, R771, R773). -/
def endRecord (w0 : Nat) (s : State) : State := snapStart (flockEvent 0x0003 11 w0 0 0 0 s)

/-- A shut-down starts: D1 to D3, or D1 alone and the supplies off where it is fast. While one is in progress a second trigger is only
noted; in Keeper, Recovery and after a trip there is nothing to shut down. -/
def shutDown (cause rail : Nat) (fast : Bool) (s : State) : State :=
  if pwrState s = 4 then wr SHP_SDINFO_second 0 1 s
  else if pwrState s = 0 ∨ 5 ≤ pwrState s then s
  else
    let s1 := sdInfo cause rail fast false (setPwr 4 (pwrMod (fun p => { p with sdTick := curTick s }) s))
    let s2 := endRecord 0 (stopServing s1)
    setStep 3 (if fast then railEnables false false s2 else selfRefresh true s2)

/-- SHP_PWRCMD op 1 (R770). In a state with nothing to shut down it is not allowed (DEDUCED, log 49). -/
def shutDownAsk (s : State) : State :=
  if pwrState s = 0 ∨ 5 ≤ pwrState s then cmdResult 3 s else shutDown 2 0 false (cmdResult 0 s)

/-- SHUT_DOWN: a trigger of R770: a fault bit of rail r (cause 3; `fast` for those of R770), an error of H0 (4), or the others. -/
def execShutDown (t cause rail : Nat) (fast : Bool) (s : State) : Result :=
  let s := atTime t s
  .next (if cause = 0 ∨ 6 < cause then s
  else if cause = 2 then shutDownAsk s
  else shutDown cause (if cause = 3 then rail else 0) (cause == 5 || cause == 6 || (cause == 3 && fast)) s)

/-- Nothing is left to commit. -/
def allCommitted (s : State) : Bool :=
  s.fbk.staging.isEmpty && s.fbk.urgent.isEmpty && s.fbk.coal.isEmpty && s.fbk.snapLeft.isEmpty && s.fbk.write.isNone

/-- SHUTDOWN_RECORDS_COMMITTED: the record and the snapshot are committed, or the second tick has passed: D4 ends and the supplies
turn off in reverse; after a trip the timebase stops (R771, R773). -/
def execShutdownRecordsCommitted (s : State) : Result :=
  .next (if !(allCommitted s ∨ logMute s ∨ s.pwr.sdTick + 2 < curTick s) then s
  else if pwrState s = 4 ∧ rd s SHP_PWRSTAT_step 0 = 3 then
    (let rs := ((List.range 6).flatMap (groupRails s)).reverse
     setStep 4 (rs.foldl (fun s r => operation false r s) s))
  else if pwrState s = 5 ∧ belState s ≠ belStopped then bellStop (mainReset s)
  else s)

/-- SHUTDOWN_SUPPLIES_OFF: D5 ends: RAILS_EN falls, then MEM_PWREN; D6: the main-domain reset holds, the timebase is Stopped, the
package is in Keeper until the next cold reset (R771, R772). -/
def execShutdownSuppliesOff (s : State) : Result :=
  .next (if pwrState s ≠ 4 ∨ rd s SHP_PWRSTAT_step 0 ≠ 4 then s
  else
    let s1 := mainReset (wr SHP_PWRSTAT_rail_good 0 0 (railEnables false false s))
    setPwr 0 (setStep 6 (bellStop (pwrMod (fun p => { p with fails := 2 }) s1))))

/-- A trip is recorded: one that overrides a shut-down is noted in that shut-down's record, any other has a record of its own
(DEDUCED, log 49). -/
def tripInfo (s : State) : State := if pwrState s = 4 then wr SHP_SDINFO_trip 0 1 s else sdInfo 0 0 false true s

/-- A thermal trip, in any state with the main domain on or switching (R773, R775). -/
def thermalTrip (s : State) : State :=
  if pwrState s = 0 ∨ 5 ≤ pwrState s then s
  else
    let s1 := pwrMod (fun p => { p with trip := true, tripBoot := true, sdTick := curTick s }) s
    let s2 := countLife 4 1 (railEnables false false (tripInfo s1))
    wr SHP_PWRSTAT_rail_good 0 0 (endRecord 1 (stopServing (setPwr 5 s2)))

/-- THERMAL_TRIP: a sensor of dies 0 to 10 reads 120 degrees or more. -/
def execThermalTrip (t : Nat) (s : State) : Result := .next (thermalTrip (atTime t s))

/-- MEM_PG_FALL: MEM_PG falls; with the main domain on, a fast shut-down (R770, R786, R817). -/
def execMemPgFall (t : Nat) (s : State) : Result :=
  let s1 := wr SHP_PWRSTAT_mem_pg 0 0 (atTime t s)
  .next (if rdB s1 SHP_PWRSTAT_rails_en 0 then shutDown 6 0 true s1 else s1)

/-! ### Clocks (R757, R758) -/

/-- The calendar goes on while SYSREF or the RTC is valid; with neither it stops (R758). -/
def calClocks (s : State) : State :=
  if clkValid s 0 ∨ clkValid s 3 then (if s.fbk.rtcRun then s else calHold true s)
  else wr SHP_BOOTSTAT_cal_lost 0 1 (calHold false s)

/-- CLOCK_VALID: at time t clock i is judged valid: 0 SYSREF, 1 REFCLK, 2 ETHREF, 3 RTC. Start-up that waits at S5 goes on, and so
does a wake; `draw` is the held draw the wake then measures. -/
def execClockValid (t i draw : Nat) (s : State) : Result :=
  let s := atTime t s
  .next (if 4 ≤ i ∨ s.pwr.cold ∨ clkValid s i then s
  else
    let s1 := calClocks (wr SHP_CLKSTAT_valid 0 (natSetBit (rd s SHP_CLKSTAT_valid 0) i true) s)
    if i ≠ 0 ∨ !rdB s1 SHP_BOOTSTAT_sysref_wait 0 then s1
    else if pwrState s1 = 0 then startS5 s1
    else if pwrState s1 = 3 then wakeRun t draw s1
    else s1)

/-- CLOCK_LOSS: at time t clock i is found outside its window. -/
def execClockLoss (t i : Nat) (s : State) : Result :=
  let s := atTime t s
  .next (if 4 ≤ i ∨ !clkValid s i then s
  else
    let s1 := wr SHP_CLKSTAT_lost 0 (natSetBit (rd s SHP_CLKSTAT_lost 0) i true)
      (wr SHP_CLKSTAT_valid 0 (natSetBit (rd s SHP_CLKSTAT_valid 0) i false) s)
    let s2 := calClocks (pwrEvent (0x10 + i) s1)
    let st := pwrState s2
    if i = 0 then (if st = 1 ∨ st = 2 ∨ st = 3 then shutDown 5 0 true s2 else s2)
    else if i = 1 then (if mainOn s2 then linkLeaves s2 else s2)
    else if i = 2 then (if mainOn s2 then iter 8 (fun q s => portDown q s) s2 else s2)
    else s2)

/-! ### The board's rails (R593, R594, R779, R804, R818) -/

/-- STATUS_WORD of valid rail r has been read: in S7 as start-up asks, else a fault bit starts a shut-down. -/
def railRead (r w : Nat) (s : State) : State :=
  if inS7 s then (if (groupRails s s.pwr.group).contains r then railUp r w s else
    if railGood s r ∧ pmFault w then railFails r (railStatus r w s) else railStatus r w s)
  else
    let s1 := railStatus r w s
    if pmFault w ∧ mainOn s1 then shutDown 3 r (pmFast w) s1 else s1

/-- SMBALERT# is answered: STATUS_WORD of every valid rail is read; `st`: what rails 0 to 8 answer. -/
def alertRead (st : List Nat) (s : State) : State :=
  (validRails s).foldl (fun s r => railRead r (st.getD r 0) s) (pwrMod (fun p => { p with alert := false }) s)

/-- SMBALERT: SMBALERT# is asserted; during a live activation it stays latched (R593, R741). -/
def execSmbalert (st : List Nat) (s : State) : Result :=
  .next (if pwrState s = 6 ∨ s.pwr.cold then s
    else if activating s then pwrMod (fun p => { p with alert := true }) s
    else alertRead st s)

/-- A transaction with rail r has failed: it is retried up to three times; then the rail is unavailable: its READ_PIN readings of this
window are dropped, and a warning is posted; in S7 it is a rail failure (R804, R818). -/
def railRetry (r : Nat) (s : State) : State :=
  let k := mapGet 0 s.pmTry r + 1
  if k < 4 then { s with pmTry := mapSet 0 s.pmTry r k }
  else
    let s1 := { s with pmTry := mapSet 0 s.pmTry r 0 }
    if inS7 s1 then railFails r s1
    else
      let z (l : List Nat) : List Nat := listPut ((l ++ List.replicate 9 0).take 9) r 0
      rtnRecord (wr RTN_EVT_pm_warn 0 1 (rtnSet 10 (ratMod (fun x => { x with pinSum := z x.pinSum, pinCnt := z x.pinCnt, rail := r }) s1)))

/-- STATUS_WORD and READ_PIN of rail r have been asked for; `ok`: the transactions were acknowledged with a right PEC. -/
def railPoll (r : Nat) (ok : Bool) (status pin : Nat) (s : State) : State :=
  if !ok then railRetry r s else railRead r status (railPin r pin { s with pmTry := mapSet 0 s.pmTry r 0 })

/-- PMBUS_RETRY: 1 ms after a transaction with rail r failed it is made again. -/
def execPmbusRetry (r : Nat) (ok : Bool) (status pin : Nat) (s : State) : Result :=
  .next (if 9 ≤ r ∨ (mapGet 0 s.pmTry r = 0 ∧ !inS7 s) then s else railPoll r ok status pin s)

/-- SMBUS_SCL_LOW_TIMEOUT: SCL of bus b (0 Ration bus, 1 sideband) has been low for 25 ms: the device releases the bus; the transaction is
gone, and nothing else changes (R804). -/
def execSmbusSclLowTimeout (_b : Nat) (s : State) : Result := .next s

end Sys2Proof.Machine
end

