-- ==== Sys2Proof/Machine/Management.lean ====
section
/-! DEFINITION. Management (spec/23_management.md R721-R752): MCTP control, PLDM, SPDM, the mailbox, firmware update and live activation. `b` is
a binding: 0 management sideband, 1 Ration bus, 2 PCIe, and for SPDM 3 the DOE mailbox. What the DMTF specifications fix and the spec
only names (command codes, completion codes, layouts) is theirs (PRESUMED, log 50). -/

namespace Sys2Proof.Machine

/-! ### Who answers -/

/-- Something answers on binding b: the firmware, or the ROM in Recovery on the sideband alone (R732); nothing in a cold reset. -/
def answers (s : State) (b : Nat) : Bool := s.pwr.vaux && !s.pwr.cold && (pwrState s != 6 || b == 0)

/-! ### MCTP control (R721-R723) -/

/-- The EID of a binding. -/
def eidFld (b : Nat) : Fld := if b = 0 then SHP_MCTPEID_side else if b = 1 then SHP_MCTPEID_ration else SHP_MCTPEID_pcie

/-- An MCTP control response: command, completion code, data. -/
def mctpSay (b cmd cc : Nat) (data : List Nat) (s : State) : State := if b < 3 ∧ answers s b then emit .mctp ([b, cmd, cc] ++ data) s else s

/-- SET_ENDPOINT_ID: operation op (0 set, 1 force) with an EID; another operation, or an EID that is no endpoint's, is refused as
invalid data. -/
def execSetEndpointId (b op eid : Nat) (s : State) : Result :=
  .next (if 3 ≤ b ∨ !answers s b then s
  else if 1 < op ∨ eid < 8 ∨ 255 ≤ eid then mctpSay b 1 2 [] s
  else mctpSay b 1 0 [0, eid, 0] (wr (eidFld b) 0 eid s))

/-- GET_ENDPOINT_ID. -/
def execGetEndpointId (b : Nat) (s : State) : Result := .next (mctpSay b 2 0 [rd s (eidFld b) 0, 0, 0] s)

/-- GET_ENDPOINT_UUID: the spec does not give the UUID: free (log 4). -/
def execGetEndpointUuid (b : Nat) (s : State) : Result := .next (mctpSay b 3 0 ((List.range 16).map (fun i => (Config.freeByte 0 i).toNat)) s)

/-- GET_MCTP_VERSION_SUPPORT of a message type: MCTP 1.3 for the base and for control; the versions of PLDM and SPDM over MCTP are free
(log 4); any other type is not supported. -/
def execGetMctpVersionSupport (b typ : Nat) (s : State) : Result :=
  let free : List Nat := (List.range 4).map (fun i => (Config.freeByte (16 + typ) i).toNat)
  .next (if typ = 0xFF ∨ typ = 0 then mctpSay b 4 0 [1, 0xF1, 0xF3, 0xF0, 0x00] s
  else if typ = 1 ∨ typ = 5 then mctpSay b 4 0 (1 :: free) s
  else mctpSay b 4 0x80 [] s)

/-- GET_MESSAGE_TYPE_SUPPORT: PLDM and SPDM beside control. -/
def execGetMessageTypeSupport (b : Nat) (s : State) : Result := .next (mctpSay b 5 0 [2, 1, 5] s)

/-- The newest response on a binding that is still in the outbox. -/
def respOf (b : Nat) (o : Out) : Bool := (o.kind == .mctp || o.kind == .pldm || o.kind == .spdm) && o.args.head? == some b

/-- MCTP_RESPONSE_DROP: the newest response on binding b has waited more than 100 ms: it does not leave, and is counted (R723). -/
def execMctpResponseDrop (b : Nat) (s : State) : Result :=
  .next (if 3 ≤ b ∨ !s.outbox.any (respOf b) then s
    else bump SHP_MCTPERR_count 0 { s with outbox := listDropFirst (respOf b) s.outbox })

/-! ### PLDM: who answers how (R724, R732, R741) -/

/-- A PLDM response: type, command, completion code, data. -/
def pldmSay (b ty cmd cc : Nat) (data : List Nat) (s : State) : State := emit .pldm ([b, ty, cmd, cc] ++ data) s

/-- Serve a request of a type: unanswered where nothing listens; in Recovery types 0 and 5 alone; ERROR_NOT_READY while the firmware is being
replaced (R741). -/
def pldmServe (b ty cmd : Nat) (k : State → State) (s : State) : Result :=
  .next (if 3 ≤ b ∨ !answers s b ∨ (pwrState s = 6 ∧ ty ≠ 0 ∧ ty ≠ 5) then s
  else if activating s then pldmSay b ty cmd 4 [] s
  else k s)

/-- Answer with data and change nothing. -/
def pldmGive (b ty cmd : Nat) (data : List Nat) (s : State) : Result := pldmServe b ty cmd (pldmSay b ty cmd 0 data) s

/-! ### Type 0 -/

/-- GETTID. -/
def execGettid (b : Nat) (s : State) : Result := pldmGive b 0 2 [s.mgmt.tid] s

/-- SETTID: 0 and 0xFF are no terminus identifiers. -/
def execSettid (b v : Nat) (s : State) : Result :=
  pldmServe b 0 1 (fun s => if v = 0 ∨ 255 ≤ v then pldmSay b 0 1 2 [] s else pldmSay b 0 1 0 [] (mgmtMod (fun m => { m with tid := v }) s)) s

/-- The types and their commands (R724). -/
def pldmCommands (ty : Nat) : List Nat :=
  if ty = 0 then [1, 2, 3, 4, 5]
  else if ty = 2 then [0x04, 0x05, 0x11, 0x21, 0x39, 0x50, 0x51]
  else if ty = 3 then [0x0C, 0x0D]
  else if ty = 5 then [0x01, 0x02, 0x10, 0x13, 0x14, 0x1A, 0x1B, 0x1C, 0x1D]
  else []

/-- GETPLDMVERSION of a type: the version numbers are free (log 4); another type is invalid request data. -/
def execGetpldmversion (b ty : Nat) (s : State) : Result :=
  pldmServe b 0 3 (fun s => if (pldmCommands ty).isEmpty then pldmSay b 0 3 0x83 [] s
    else pldmSay b 0 3 0 ((List.range 4).map (fun i => (Config.freeByte (32 + ty) i).toNat)) s) s

/-- GETPLDMTYPES: types 0, 2, 3 and 5. -/
def execGetpldmtypes (b : Nat) (s : State) : Result := pldmGive b 0 4 (leBytes 8 0x2D) s

/-- GETPLDMCOMMANDS of a type: one bit for each command. -/
def execGetpldmcommands (b ty : Nat) (s : State) : Result :=
  pldmServe b 0 5 (fun s => if (pldmCommands ty).isEmpty then pldmSay b 0 5 0x83 [] s
    else pldmSay b 0 5 0 (leBytes 32 ((pldmCommands ty).foldl (fun a c => a + 2 ^ c) 0)) s) s

/-! ### Type 2: sensors and effecters (R725) -/

/-- The sensor numbers, numeric and state. -/
def numSensors : List Nat := (List.range 34).map (· + 1)
def stateSensors : List Nat := [40, 41, 42]

/-- Energy of a tick as watts (rounded down, log 40). -/
def tickWatts (s : State) (units : Nat) : Nat := if s.bell.tickLen = 0 then 0 else units * 100000 / s.bell.tickLen

/-- What sensor i reads now, plus 1; 0 for unavailable. -/
def sensorNow (s : State) (i : Nat) : Nat :=
  if i = 1 then rd s RTN_TJ_tj 0 + 1
  else if i ≤ 13 then rd s RTN_DTJ_tj (i - 2) + 1
  else if i = 14 then (if rtnFlag s 1 then 0 else rd s RTN_INLET_tin 0 + 1)
  else if i = 15 then tickWatts s (rd s RTN_LAST_spent 0) + 1
  else if i = 16 then tickWatts s (rd s RTN_LAST_g_eff 0) + 1
  else if i = 17 then rd s RTN_FREQ_f_now 0 + 1
  else if i ≤ 26 then (if rdB s (RTN_PMRAIL_valid.ix (i - 18)) 0 then linear11 (rd s (RTN_PMSTAT_pin.ix (i - 18)) 0) / 65536 + 1 else 0)
  else if i ≤ 34 then rd s (FBK_CNT_value.ix (40 + (i - 27))) 0 / 2 ^ 48 + 1
  else if i = 40 then belState s + 1
  else if i = 41 then (if logMute s then 3 else if bankFailed s 0 ∨ bankFailed s 1 then 2 else 1)
  else if i = 42 then rd s SHP_FWSTAT_state 0 + 1
  else 0

/-- The temperature thresholds a reading is at or above (R725). -/
def tempBand (s : State) (i : Nat) : Nat :=
  let v := sensorNow s i
  if v = 0 then mapGet 0 s.mgmt.bands i
  else bandOf ([103, 105, 120].map (fun x => 16 * x)) (if i = 14 then sext 16 (v - 1) else sext 12 (v - 1))

/-- One event for each threshold a temperature sensor has crossed: class 0x00, sensor, the band reached, the band left, the reading; with 32
events held none is kept (DESIGN CHOICE, log 52). -/
def crossings (i : Nat) : Nat → Nat → Nat → State → State
  | 0, _, _, s => s
  | k + 1, at_, to_, s =>
    if at_ = to_ then s
    else
      let nx := if at_ < to_ then at_ + 1 else at_ - 1
      crossings i k nx to_ (if s.pldmQ.length < 32 then pldmPush [0, i, nx, at_, sensorNow s i - 1] s else s)

/-- Phase 2: every sensor is read (R725, R726). -/
def sensorsRead (s : State) : State :=
  let s1 := (List.range 14).foldl (fun s k =>
    let n := tempBand s (k + 1)
    mgmtMod (fun m => { m with bands := mapSet 0 m.bands (k + 1) n }) (crossings (k + 1) 3 (mapGet 0 s.mgmt.bands (k + 1)) n s)) s
  (numSensors ++ stateSensors).foldl (fun s i => mgmtMod (fun m => { m with sensors := mapSet 0 m.sensors i (sensorNow s i) }) s) s1

/-- A latched reading: operational state (0 enabled, 2 unavailable) and value. -/
def sensorData (s : State) (i : Nat) : List Nat :=
  let v := mapGet 0 s.mgmt.sensors i
  if v = 0 then [2] else [0, v - 1]

/-- GETSENSORREADING of a numeric sensor. -/
def execGetsensorreading (b i : Nat) (s : State) : Result :=
  pldmServe b 2 0x11 (fun s => if numSensors.contains i then pldmSay b 2 0x11 0 (sensorData s i) s else pldmSay b 2 0x11 0x80 [] s) s

/-- GETSTATESENSORREADINGS of a state sensor. -/
def execGetstatesensorreadings (b i : Nat) (s : State) : Result :=
  pldmServe b 2 0x21 (fun s => if stateSensors.contains i then pldmSay b 2 0x21 0 (sensorData s i) s else pldmSay b 2 0x21 0x80 [] s) s

/-- SETSTATEEFFECTERSTATES: effecter 100 state 1 starts an orderly shut-down, effecter 101 state 1 asks for a snapshot at the next tick. -/
def execSetstateeffecterstates (b e v : Nat) (s : State) : Result :=
  pldmServe b 2 0x39 (fun s =>
    if e ≠ 100 ∧ e ≠ 101 then pldmSay b 2 0x39 0x80 [] s
    else if v ≠ 1 then pldmSay b 2 0x39 0x81 [] s
    else pldmSay b 2 0x39 0 [] (if e = 100 then shutDown 1 0 false s else fbkMod (fun x => { x with snapAsked := true }) s)) s

/-- SETEVENTRECEIVER: mode 0 disables events, 1 names the receiver; no other method is supported. -/
def execSeteventreceiver (b mode eid : Nat) (s : State) : Result :=
  pldmServe b 2 4 (fun s =>
    if 1 < mode then pldmSay b 2 4 0x81 [] s
    else pldmSay b 2 4 0 [] (mgmtMod (fun m => { m with evRecv := if mode = 0 then 0 else 1 + 256 * b + eid % 256 * 1024 }) s)) s

/-- GETEVENTRECEIVER: the protocol, MCTP, and the receiver's EID. -/
def execGeteventreceiver (b : Nat) (s : State) : Result := pldmGive b 2 5 [0, s.mgmt.evRecv / 1024] s

/-- GETPDRREPOSITORYINFO: available, one PDR for each sensor and effecter. -/
def execGetpdrrepositoryinfo (b : Nat) (s : State) : Result := pldmGive b 2 0x50 [0, numSensors.length + stateSensors.length + 2] s

/-- The PDRs by record handle: type (2 numeric sensor, 4 state sensor, 11 state effecter), identifier, thresholds of a temperature sensor. -/
def pdrs : List (List Nat) :=
  numSensors.map (fun i => [2, i] ++ (if i ≤ 14 then [16 * 103, 16 * 105, 16 * 120] else [])) ++
    stateSensors.map (fun i => [4, i]) ++ [[11, 100], [11, 101]]

/-- GETPDR of a record handle, 0 for the first: the next handle and the record. -/
def execGetpdr (b h : Nat) (s : State) : Result :=
  let k := Nat.max 1 h
  pldmServe b 2 0x51 (fun s => match pdrs[k - 1]? with
    | some r => pldmSay b 2 0x51 0 ((if k < pdrs.length then k + 1 else 0) :: r) s
    | none => pldmSay b 2 0x51 0x82 [] s) s

/-! ### Events (R726, R750) -/

/-- The first event that has not been sent; none while one waits for its response. -/
def eventNext (s : State) (t : Nat) : Option Nat :=
  if s.pldmQ.any (fun e => e.attempts != 0 && !e.acked && (e.attempts < 3 || decide (t < e.sentAt + 10000000))) then none
  else s.pldmQ.findIdx? (fun e => e.attempts == 0)

/-- Event k goes to the receiver. -/
def eventSend (t k : Nat) (s : State) : State :=
  match s.pldmQ[k]? with
  | some e => emit .pldmEvent (s.mgmt.evRecv :: e.words) { s with pldmQ := listPut s.pldmQ k { e with attempts := e.attempts + 1, sentAt := t } }
  | none => s

/-- Events can be sent: the firmware runs and there is a receiver. -/
def eventsGo (s : State) : Bool := s.mgmt.evRecv != 0 && answers s 1 && !activating s

/-- PLATFORMEVENTMESSAGE: at time t the next held event is sent. -/
def execPlatformeventmessage (t : Nat) (s : State) : Result :=
  let s := atTime t s
  .next (if !eventsGo s then s else match eventNext s t with
    | some k => eventSend t k s
    | none => s)

/-- PLATFORM_EVENT_RETRY: at time t an event has had no response for 100 ms: it is sent again, three times at most. -/
def execPlatformEventRetry (t : Nat) (s : State) : Result :=
  let s := atTime t s
  .next (if !eventsGo s then s
  else match s.pldmQ.findIdx? (fun e => e.attempts != 0 && e.attempts < 3 && !e.acked && decide (e.sentAt + 10000000 ≤ t)) with
    | some k => eventSend t k s
    | none => s)

/-- PLATFORMEVENTMESSAGE_RESPONSE: the receiver answers event k of the queue; events leave in the order they entered. -/
def execPlatformeventmessageResponse (k : Nat) (s : State) : Result :=
  .next (match s.pldmQ[k]? with
  | some e => if e.attempts = 0 then s
      else { s with pldmQ := (listPut s.pldmQ k { e with acked := true }).dropWhile (fun e => e.acked) }
  | none => s)

/-! ### Type 3: date and time (R727) -/

/-- Days since 1970-01-01 of a date of the Gregorian calendar, years counted from March. -/
def daysOf (y m d : Nat) : Nat :=
  let y1 := if m ≤ 2 then y - 1 else y
  let doy := (153 * (if m ≤ 2 then m + 9 else m - 3) + 2) / 5 + d - 1
  y1 / 400 * 146097 + (y1 % 400 * 365 + y1 % 400 / 4 - y1 % 400 / 100 + doy) - 719468

/-- Year, month and day of a number of days since 1970-01-01. -/
def dateOf (days : Nat) : List Nat :=
  let z := days + 719468
  let doe := z % 146097
  let yoe := (doe - doe / 1460 + doe / 36524 - doe / 146096) / 365
  let doy := doe - (365 * yoe + yoe / 4 - yoe / 100)
  let mp := (5 * doy + 2) / 153
  let m := if mp < 10 then mp + 3 else mp - 9
  [yoe + z / 146097 * 400 + (if m ≤ 2 then 1 else 0), m, doy - (153 * mp + 2) / 5 + 1]

/-- The days of a month. -/
def monthDays (y m : Nat) : Nat :=
  if m = 2 then (if y % 4 = 0 ∧ (y % 100 ≠ 0 ∨ y % 400 = 0) then 29 else 28) else if [4, 6, 9, 11].contains m then 30 else 31

/-- GETDATETIME: year, month, day, hours, minutes, seconds of FBK_CAL. -/
def execGetdatetime (b : Nat) (s : State) : Result :=
  pldmServe b 3 0x0C (fun s =>
    let c := calNow s / 32768
    pldmSay b 3 0x0C 0 (dateOf (c / 86400) ++ [c % 86400 / 3600, c % 3600 / 60, c % 60]) s) s

/-- SETDATETIME: a UTC date and time; one before 1970, or that is none, is invalid data. -/
def execSetdatetime (b y m d h mi sec : Nat) (s : State) : Result :=
  pldmServe b 3 0x0D (fun s =>
    if y < 1970 ∨ m = 0 ∨ 12 < m ∨ d = 0 ∨ monthDays y m < d ∨ 23 < h ∨ 59 < mi ∨ 59 < sec then pldmSay b 3 0x0D 2 [] s
    else pldmSay b 3 0x0D 0 [] (calSet (daysOf y m d * 86400 + h * 3600 + mi * 60 + sec) s)) s

/-! ### Type 5: firmware update (R738, R739) -/

/-- The running slot. -/
def runSlot (s : State) : Nat := rd s SHP_FWSTAT_slot 0

/-- Change a flash slot. -/
def slotMod (k : Nat) (g : FlashSlot → FlashSlot) (s : State) : State :=
  mgmtMod (fun m => if k = 0 then { m with slotA := g m.slotA } else { m with slotB := g m.slotB }) s

/-- The slot an update writes: the one that does not run; in Recovery the one the agent names. -/
def writeSlot (s : State) : Nat := if pwrState s = 6 then s.mgmt.updSlot else 1 - runSlot s

/-- SHP_FWSTAT.state outside an update and an activation. -/
def fwIdle (s : State) : State := wr SHP_FWSTAT_state 0 (if pwrState s = 6 then 4 else if s.mgmt.reverted then 3 else 0) s

/-- Update mode ends. -/
def updEnd (s : State) : State := fwIdle (mgmtMod (fun m => { m with upd := 0, agent := 0, comp := 0, table := [], off := 0 }) s)

/-- A request in update mode: 0x80 outside it, 0x81 from another requester, 0x84 in a wrong state. -/
def updServe (b cmd : Nat) (states : List Nat) (k : State → State) (s : State) : Result :=
  pldmServe b 5 cmd (fun s =>
    if s.mgmt.upd = 0 then pldmSay b 5 cmd 0x80 [] s
    else if s.mgmt.agent ≠ b + 1 then pldmSay b 5 cmd 0x81 [] s
    else if !states.contains s.mgmt.upd then pldmSay b 5 cmd 0x84 [] s
    else k s) s

/-- QUERYDEVICEIDENTIFIERS: PCI vendor and device (R662). -/
def execQuerydeviceidentifiers (b : Nat) (s : State) : Result := pldmGive b 5 1 [0x1F3C, 0x4712] s

/-- GETFIRMWAREPARAMETERS: the running boot loader, the running firmware, the staged firmware. -/
def execGetfirmwareparameters (b : Nat) (s : State) : Result :=
  pldmGive b 5 2 [(slotOf s (runSlot s)).lver, rd s SHP_FWVER_version 0, s.mgmt.staged.headD 0] s

/-- REQUESTUPDATE: update mode, for one agent at a time (R738). The answer to a success gives no metadata. -/
def execRequestupdate (b : Nat) (s : State) : Result :=
  pldmServe b 5 0x10 (fun s =>
    if s.mgmt.upd ≠ 0 then pldmSay b 5 0x10 0x81 [] s
    else
      let s1 := mgmtMod (fun m => { m with upd := 1, agent := b + 1, table := [], comp := 0, off := 0 }) s
      pldmSay b 5 0x10 0 [0, 0] (if pwrState s = 6 then s1 else wr SHP_FWSTAT_state 0 1 s1)) s

/-- PASSCOMPONENTTABLE: one entry; the last one makes the device ready for transfers. -/
def execPasscomponenttable (b id : Nat) (last : Bool) (s : State) : Result :=
  updServe b 0x13 [1] (fun s =>
    let known := 1 ≤ id && id ≤ 3
    let s1 := mgmtMod (fun m => { m with table := m.table ++ [id], upd := if last then 2 else 1 }) s
    pldmSay b 5 0x13 0 (if known then [0, 0] else [1, 6]) s1) s

/-- The device asks for the next block of at most 4,096 bytes. -/
def askBlock (s : State) : State :=
  pldmSay (s.mgmt.agent - 1) 5 0x15 0 [s.mgmt.off, Nat.min 4096 (s.mgmt.size - s.mgmt.off)] s

/-- UPDATECOMPONENT: a component of the table with its version, security version and size; the device begins to ask for it. `slot` is
used in Recovery alone. -/
def execUpdatecomponent (b id ver svn size slot : Nat) (s : State) : Result :=
  updServe b 0x14 [2] (fun s =>
    if id = 0 ∨ 3 < id ∨ !s.mgmt.table.contains id ∨ size = 0 then pldmSay b 5 0x14 0 [1, 6] s
    else askBlock (pldmSay b 5 0x14 0 [0, 0] (mgmtMod (fun m => { m with
      upd := 3, comp := id, ver := ver % 2 ^ 32, svn := svn % 65536, size := size, off := 0, updSlot := slot % 2 }) s))) s

/-- The image is complete: TransferComplete, then its signature and security version are verified, then VerifyComplete; where both hold
the flash write begins and what it writes is invalid until it ends (R738, R739). -/
def imageIn (pass : Bool) (s : State) : State :=
  let b := s.mgmt.agent - 1
  let ok := pass && (s.mgmt.comp == 3 || decide (s.mgmt.fusedSvn ≤ s.mgmt.svn))
  let s1 := pldmSay b 5 0x17 0 [b2n (!ok)] (pldmSay b 5 0x16 0 [0] s)
  if !ok then mgmtMod (fun m => { m with upd := 4 }) s1
  else
    let s2 := mgmtMod (fun m => { m with upd := 5 }) s1
    if s.mgmt.comp = 1 then slotMod (writeSlot s) (fun x => { x with lok := false }) (mgmtMod (fun m => { m with bootNext := 0 }) s2)
    else if s.mgmt.comp = 2 then slotMod (writeSlot s) (fun x => { x with fok := false }) (mgmtMod (fun m => { m with staged := [] }) s2)
    else mgmtMod (fun m => { m with board := m.board + 1 }) s2

/-- REQUESTFIRMWAREDATA: the agent answers the device's request with n bytes; anything but the block asked for is asked for again. `pass`:
the complete image's signature holds. -/
def execRequestfirmwaredata (b n : Nat) (pass : Bool) (s : State) : Result :=
  .next (if !answers s b ∨ activating s ∨ s.mgmt.upd ≠ 3 ∨ s.mgmt.agent ≠ b + 1 then s
  else if n ≠ Nat.min 4096 (s.mgmt.size - s.mgmt.off) then askBlock s
  else
    let s1 := mgmtMod (fun m => { m with off := m.off + n }) s
    if s1.mgmt.off < s1.mgmt.size then askBlock s1 else imageIn pass s1)

/-- APPLYCOMPLETE: the flash write ends and ApplyComplete is sent; the component waits for its moment (R738, R743). -/
def execApplycomplete (s : State) : Result :=
  .next (if s.mgmt.upd ≠ 5 then s
  else
    let m := s.mgmt
    let k := writeSlot s
    let s1 := if m.comp = 1 then
        mgmtMod (fun x => { x with bootNext := k + 1 }) (slotMod k (fun x => { x with lok := true, lver := m.ver, lsvn := m.svn }) s)
      else if m.comp = 2 then
        mgmtMod (fun x => { x with staged := [m.ver, m.svn] }) (slotMod k (fun x => { x with fok := true, fver := m.ver, fsvn := m.svn }) s)
      else mgmtMod (fun x => { x with board := x.board + 1 }) s
    let s2 := if m.comp = 2 then s1 else wr SHP_FWSTAT_boot_pending 0 1 s1
    secRecord 2 m.comp m.ver (pldmSay (m.agent - 1) 5 0x18 0 [0] (mgmtMod (fun x => { x with upd := 2, comp := 0 }) s2)))

/-- ACTIVATEFIRMWARE: update mode ends. A self-contained activation replaces the running firmware by the staged one, within 1 s; in Recovery the
boot chain starts again (R732, R740). -/
def execActivatefirmware (b : Nat) (self : Bool) (s : State) : Result :=
  updServe b 0x1A [2] (fun s =>
    let s1 := updEnd s
    if pwrState s = 6 then bootRun (pldmSay b 5 0x1A 0 [0] s1)
    else if !self then pldmSay b 5 0x1A 0 [0] s1
    else if s.mgmt.staged.isEmpty then pldmSay b 5 0x1A 0x8B [] s1
    else pldmSay b 5 0x1A 0 [1] (mgmtMod (fun m => { m with act := 1 }) s1)) s

/-- GETSTATUS: the state of the update. -/
def execGetstatus (b : Nat) (s : State) : Result := pldmGive b 5 0x1B [s.mgmt.upd, s.mgmt.comp, s.mgmt.off] s

/-- CANCELUPDATECOMPONENT: the transfer ends; a write in progress leaves its slot invalid (R739). -/
def execCancelupdatecomponent (b : Nat) (s : State) : Result :=
  updServe b 0x1C [3, 4, 5] (fun s => pldmSay b 5 0x1C 0 [] (mgmtMod (fun m => { m with upd := 2, comp := 0 }) s)) s

/-- CANCELUPDATE: update mode ends; a write in progress leaves its slot invalid (R739). -/
def execCancelupdate (b : Nat) (s : State) : Result :=
  updServe b 0x1D [1, 2, 3, 4, 5] (fun s => pldmSay b 5 0x1D 0 [] (updEnd s)) s

/-! ### SPDM and DOE (R728-R730) -/

/-- An SPDM response, and an error response. -/
def spdmSay (b code : Nat) (data : List Nat) (s : State) : State := emit .spdm ([b, code] ++ data) s
def spdmError (b e : Nat) (s : State) : State := spdmSay b 0x7F [e] s

/-- Serve an SPDM request that needs `need` steps of the negotiation: Busy while the firmware is being replaced (R741). -/
def spdmServe (b need : Nat) (k : State → State) (s : State) : Result :=
  .next (if 4 ≤ b ∨ !answers s 1 ∨ (b = 3 ∧ rd s HST_LINK_state 0 = 4) then s
  else if activating s then spdmError b 3 s
  else if s.mgmt.spdm < need then spdmError b 4 s
  else k s)

/-- GET_VERSION: SPDM 1.2; the negotiation starts again. -/
def execGetVersion (b : Nat) (s : State) : Result :=
  spdmServe b 0 (fun s => spdmSay b 4 [0x1200] (mgmtMod (fun m => { m with spdm := 1 }) s)) s

/-- GET_CAPABILITIES: CERT_CAP, CHAL_CAP and MEAS_CAP with signature. -/
def execGetCapabilities (b : Nat) (s : State) : Result :=
  spdmServe b 1 (fun s => spdmSay b 0x61 [0x16] (mgmtMod (fun m => { m with spdm := 2 }) s)) s

/-- NEGOTIATE_ALGORITHMS: ECDSA P-384 (bit 7 of the requester's masks) and SHA-384 (bit 1), or UnsupportedRequest. -/
def execNegotiateAlgorithms (b asym hash : Nat) (s : State) : Result :=
  spdmServe b 2 (fun s => if natBit asym 7 && natBit hash 1 then spdmSay b 0x63 [0x80, 2] (mgmtMod (fun m => { m with spdm := 3 }) s)
    else spdmError b 7 s) s

/-- GET_DIGESTS: slot 0; the chain's digest is free (log 4). -/
def execGetDigests (b : Nat) (s : State) : Result :=
  spdmServe b 3 (fun s => spdmSay b 1 (1 :: (List.range 48).map (fun i => (Config.freeByte 1 i).toNat)) s) s

/-- GET_CERTIFICATE of a slot: slot 0 alone; the bytes of the chain are free (log 4). -/
def execGetCertificate (b slot off len : Nat) (s : State) : Result :=
  spdmServe b 3 (fun s => if slot ≠ 0 then spdmError b 7 s
    else spdmSay b 2 (0 :: (List.range len).map (fun i => (Config.freeByte 2 (off + i)).toNat)) s) s

/-- A signature by the device identity key: free (log 4). -/
def spdmSign (s : State) : List Nat × State :=
  (List.range 12).foldl (fun (x : List Nat × State) _ => let d := drawFree x.2; (x.1 ++ [d.1], d.2)) ([], s)

/-- CHALLENGE of a slot. -/
def execChallenge (b slot : Nat) (s : State) : Result :=
  spdmServe b 3 (fun s => if slot ≠ 0 then spdmError b 7 s
    else
      let x := spdmSign s
      spdmSay b 3 (0 :: x.1) x.2) s

/-- The bytes of measurement i (R730): the digests of SEC_MEAS; raw security versions; the device and the owner; a paddock's image. -/
def measurement (s : State) (i : Nat) : Option (List Nat) :=
  let sec : List Nat := (List.range 6).flatMap (fun k => leBytes 8 (rd s (SEC_MEAS_word.ix2 (i - 1) k) 0))
  if i = 4 then some (leBytes 2 s.mgmt.fusedSvn ++ leBytes 2 s.mgmt.lsvn ++ leBytes 2 (rd s SHP_FWVER_fw_svn 0))
  else if i = 5 then
    some (leBytes 4 (regNat s SHP_DEVID_device 0) ++ leBytes 4 (regNat s SHP_RATING_fmax_mhz 0) ++
      (List.range 6).flatMap (fun k => leBytes 8 (s.mgmt.owner.getD k 0)))
  else if 1 ≤ i ∧ i ≤ 7 then some sec
  else if 16 ≤ i ∧ i < 80 then
    let n := i - 16
    let j := foldGet s n
    some ((if j.dig.isEmpty then List.replicate 48 0 else j.dig) ++ [j.kslot] ++ leBytes 4 (regNat s (FLD_PVAR_valid.ix n) 0) ++ [pdkState s n])
  else none

/-- GET_MEASUREMENTS: index 0 asks how many there are, 255 asks for all; `sign` asks for a signature. -/
def execGetMeasurements (b i : Nat) (sign : Bool) (s : State) : Result :=
  spdmServe b 3 (fun s =>
    let all := (List.range 80).filterMap (measurement s)
    let go (data : List Nat) : State := if sign then (let x := spdmSign s; spdmSay b 0x60 (data ++ x.1) x.2) else spdmSay b 0x60 data s
    if i = 0 then go [all.length]
    else if i = 255 then go (all.length :: all.flatten)
    else match measurement s i with
      | some d => go (1 :: d)
      | none => spdmError b 1 s) s

/-- SPDM_UNSUPPORTED_REQUEST: a request the device refuses, with UnsupportedRequest. -/
def execSpdmUnsupportedRequest (b : Nat) (s : State) : Result := spdmServe b 0 (fun s => spdmError b 7 s) s

/-- DOE_DISCOVERY of an index: type 0 discovery, type 1 CMA/SPDM, both of vendor 0x0001. -/
def execDoeDiscovery (i : Nat) (s : State) : Result :=
  .next (if rd s HST_LINK_state 0 = 4 ∨ !answers s 1 then s
    else if i = 0 then emit .doe [1, 0, 1] s
    else if i = 1 then emit .doe [1, 1, 0] s
    else emit .doe [0xFFFF, 0xFF, 0] s)

/-! ### The mailbox (R733-R736, R745, R752) -/

/-- Mailbox data: word k, and the bytes of n words from word k on. -/
def mbWord (s : State) (k : Nat) : Nat := rd s (SHP_MBDATA_word.ix k) 0
def mbBytes (s : State) (k n : Nat) : List Nat := (List.range n).flatMap (fun i => leBytes 8 (mbWord s (k + i)))

/-- SET_OWNER, answering the result. -/
def mbOwner (s : State) : Nat × State :=
  if s.mgmt.owner != [] then (3, s)
  else
    let ws := (List.range 6).map (mbWord s)
    (0, secRecord 9 (ws.headD 0) 0 (measRaw (wr SHP_FWSTAT_owner_set 0 1 (mgmtMod (fun m => { m with owner := ws }) s))))

/-- The checks of R736 on a command for slot k, generation g, that signs `key`: signature at word sg, public key at word pk. A command without an
owner, or with a generation that does not rise, is not allowed now (DESIGN CHOICE, log 51). -/
def mbCheck (s : State) (k g : Nat) (key : List Nat) (sg pk : Nat) : Nat :=
  let pub := mbBytes s pk 12
  let m := leBytes 8 Config.fusedSerial.toNat ++ [k, g] ++ key
  if s.mgmt.owner = [] then 3
  else if digestWords (sha384 pub) ≠ s.mgmt.owner ∨ !signatureOk (beNat (pub.take 48)) (beNat (pub.drop 48)) m (mbBytes s sg 12) then 4
  else match s.keys[k]? with
    | some x => if x.gen < g then 0 else 3
    | none => 2

/-- A change of the key store. -/
def keyPut (k : Nat) (x : KeySlot) (s : State) : State := measFree 6 { s with keys := listPut s.keys k x }

/-- INSTALL_KEY. -/
def mbInstall (s : State) : Nat × State :=
  let w := mbWord s 0
  let k := w % 256
  let g := w / 256 % 256
  let key := mbBytes s 1 12
  if k = 0 ∨ 7 < k ∨ w / 65536 ≠ 0 then (2, s)
  else
    let r := mbCheck s k g key 13 25
    if r ≠ 0 then (r, s)
    else (0, secRecord 6 k g (keyPut k ⟨true, false, g, beNat (key.take 48), beNat (key.drop 48)⟩ s))

/-- REVOKE_KEY: the key signed over is 96 zero bytes. -/
def mbRevoke (s : State) : Nat × State :=
  let w := mbWord s 0
  let k := w % 256
  let g := w / 256 % 256
  if 7 < k ∨ w / 65536 ≠ 0 then (2, s)
  else
    let r := mbCheck s k g (List.replicate 96 0) 1 13
    if r ≠ 0 then (r, s)
    else match s.keys[k]? with
      | some x => (0, secRecord 7 k g (keyPut k { x with revoked := true, gen := g } s))
      | none => (2, s)

/-- ADVANCE_SVN: the fused security version rises to a value no higher than the running firmware's; not from reverted firmware. -/
def mbAdvance (s : State) : Nat × State :=
  let v := mbWord s 0
  let old := s.mgmt.fusedSvn
  if 65536 ≤ v then (2, s)
  else if rd s SHP_FWSTAT_state 0 = 3 ∨ s.mgmt.reverted ∨ v ≤ old ∨ rd s SHP_FWVER_fw_svn 0 < v then (3, s)
  else (0, secRecord 5 v old (measRaw (wr SHP_FWVER_fused_svn 0 v (mgmtMod (fun m => { m with fusedSvn := v }) s))))

/-- ACTIVATE. -/
def mbActivate (s : State) : Nat × State :=
  if s.mgmt.upd ≠ 0 then (5, s)
  else if s.mgmt.staged.isEmpty ∨ s.mgmt.act ≠ 0 then (3, s)
  else (0, mgmtMod (fun m => { m with act := 1 }) s)

/-- READ_BOARD. -/
def mbBoard (s : State) : Nat × State :=
  (0, iter 32 (fun k s => wr (SHP_MBDATA_word.ix k) 0 (leNat ((List.range 8).map (fun i => flashByte s (8 * k + i)))) s) s)

/-- A mailbox command with any op: its effect and its result (R745). -/
def mailboxRun (op : Nat) (s : State) : State :=
  let r := if op = 1 then mbOwner s else if op = 2 then mbInstall s else if op = 3 then mbRevoke s else if op = 4 then mbAdvance s
    else if op = 5 then mbActivate s else if op = 6 then mbBoard s else (1, s)
  wr SHP_MBSTAT_result 0 r.1 (wr SHP_MBSTAT_busy 0 0 (wr SHP_MBSTAT_op 0 op r.2))

/-- A write of SHP_MBCMD: ignored while busy; held while the firmware is being replaced (R741). Without firmware nothing takes it. -/
def mailboxAsk (op : Nat) (s : State) : State :=
  if rdB s SHP_MBSTAT_busy 0 ∨ !answers s 1 then s
  else if activating s then holdCmd [3, op] (wr SHP_MBSTAT_busy 0 1 (wr SHP_MBSTAT_op 0 op s))
  else mailboxRun op s

/-- SET_OWNER: SHP_MBCMD op 1. -/
def execSetOwner (s : State) : Result := .next (mailboxAsk 1 s)
/-- INSTALL_KEY: SHP_MBCMD op 2. -/
def execInstallKey (s : State) : Result := .next (mailboxAsk 2 s)
/-- REVOKE_KEY: SHP_MBCMD op 3. -/
def execRevokeKey (s : State) : Result := .next (mailboxAsk 3 s)
/-- ADVANCE_SVN: SHP_MBCMD op 4. -/
def execAdvanceSvn (s : State) : Result := .next (mailboxAsk 4 s)
/-- ACTIVATE: SHP_MBCMD op 5. -/
def execActivate (s : State) : Result := .next (mailboxAsk 5 s)
/-- READ_BOARD: SHP_MBCMD op 6. -/
def execReadBoard (s : State) : Result := .next (mailboxAsk 6 s)

/-! ### Live activation (R740-R742, R749) -/

/-- A1, at phase 2 of the first tick after the request. -/
def activationStart (s : State) : State :=
  if s.mgmt.act ≠ 1 then s else wr SHP_FWSTAT_state 0 2 (mgmtMod (fun m => { m with act := 2, actAt := s.now }) s)

/-- One held command is taken up. -/
def heldRun (c : List Nat) (s : State) : State :=
  match c with
  | [1, n, op] => pdkRun n op (wr PDK_STATUS_cmd_busy n 0 s)
  | [2, n, op, k] => foldCommand n op k s
  | [3, op] => mailboxRun op s
  | _ => s

/-- The firmware takes up what waited: held commands in arrival order, SMBALERT#, repairs. `st`: what the rails answer. -/
def takeUp (st : List Nat) (s : State) : State :=
  let s1 := wr SHP_FWSTAT_held 0 0 (mgmtMod (fun m => { m with held := [] }) s)
  let s2 := s.mgmt.held.foldl (fun s c => heldRun c s) s1
  repairAdvance (if s2.pwr.alert then alertRead st s2 else s2)

/-- LIVE_ACTIVATION_DONE: at time t the firmware that was started reaches A4: the new one, from the other slot, or the previous one after a
revert. A component staged once is not staged again. -/
def execLiveActivationDone (t : Nat) (st : List Nat) (s : State) : Result :=
  let s := atTime t s
  .next (if s.mgmt.act = 2 ∧ t ≤ s.mgmt.actAt + 3000000 then
      let k := 1 - runSlot s
      let old := rd s SHP_FWVER_version 0
      let s1 := mgmtMod (fun m => { m with act := 0, active := k, staged := [], doneTick := curTick s + 1, reverted := false, upd := 0 }) s
      let s2 := measRaw (measFree 3 (firmwareRuns k (wr SHP_FWSTAT_state 0 0 s1)))
      secRecord 3 (rd s2 SHP_FWVER_version 0) old (takeUp st s2)
    else if s.mgmt.act = 3 then takeUp st (mgmtMod (fun m => { m with act := 0 }) s)
    else s)

/-- The watchdog acts: 30 ms have passed since A1 without A4, or a Shepherd core has faulted within 64 bt of A4. -/
def watchdogDue (t : Nat) (s : State) : Bool :=
  (s.mgmt.act == 2 && decide (s.mgmt.actAt + 3000000 < t)) ||
    (s.mgmt.act == 0 && s.mgmt.doneTick != 0 && decide (curTick s ≤ s.mgmt.doneTick - 1 + 64))

/-- ACTIVATION_WATCHDOG: at time t the Shepherd restarts into the previous slot, and the steps run again from A3 (R742). -/
def execActivationWatchdog (t : Nat) (s : State) : Result :=
  let s := atTime t s
  .next (if !watchdogDue t s then s
  else
    let k := if s.mgmt.act = 2 then runSlot s else 1 - runSlot s
    let s1 := mgmtMod (fun m => { m with act := 3, actAt := t, active := k, staged := [], doneTick := 0, reverted := true, upd := 0 }) s
    let s2 := measRaw (measFree 3 (firmwareRuns k s1))
    secRecord 4 k 3 (wr SHP_FWSTAT_state 0 3 s2))

end Sys2Proof.Machine
end

