-- ==== Sys2Proof/Machine/TickPhases.lean ====
section
/-! DEFINITION. The three phases of a tick (spec/03_bell.md R81-R86) and what every tick does in them. -/

namespace Sys2Proof.Machine

/-! ### Calendar entries (R82-R84) -/

/-- Run the entries of a phase that are due, in their order: class, then target. They leave the calendar first; an entry made while they
run finds the phase already run. -/
def runPhase (p : Nat) (f : CalEv → State → State) (s : State) : State :=
  let due (e : CalEv) : Bool := decide (e.tick ≤ curTick s) && clsPhase e.cls == p
  let s1 := calRefill 256 { s with bell := { s.bell with cal := s.bell.cal.filter (fun e => !due e), phasesRun := p + 1 } }
  (s.bell.cal.filter due).foldl (fun s e => f e s) s1

/-- The dies that hold what Muster tests. -/
def musterDies : List Nat := [0, 1, 2, 3, 4, 5, 6, 7, 8, 9, 11]

/-- The entries that recur at every tick: a Muster window of each die (DESIGN CHOICE, log 35), a Walker slice of each Lea die, the
coalescing boundary, the commit window. -/
def recurring (s : State) : State :=
  let t := curTick s
  schedule t 0x36 0xFF (schedule t 0x35 0xFF ((List.range 8).foldl (fun s d => schedule t 0x33 d s) (musterDies.foldl (fun s d => dieWindow d s) s)))

/-- An entry of phase 0; the share change that an entry of class 0x11 stands for has taken effect with the other Bell-class writes of its
tick (R59, R118, log 63). -/
def phase0Entry (e : CalEv) (s : State) : State := if e.cls = 0x10 then clockStep s else s

/-- An entry of phase 1. -/
def phase1Entry (e : CalEv) (s : State) : State :=
  if e.cls = 0x20 then loadEntry e.tgt s
  else if e.cls = 0x21 then startEntry e.tgt s
  else if e.cls = 0x22 then swapEntry e.tgt s
  else if e.cls = 0x23 then restartEntry e.tgt s
  else s

/-- An entry of phase 2. -/
def phase2Entry (e : CalEv) (s : State) : State :=
  if e.cls = 0x30 then releaseEntry e.tgt s
  else if e.cls = 0x31 then windowBegins e.tgt s
  else if e.cls = 0x32 then windowEnds e.tgt s
  else if e.cls = 0x33 then walkSlice e.tgt s
  else if e.cls = 0x34 then forcedSlices e.tgt s
  else if e.cls = 0x35 then coalesceBoundary s
  else if e.cls = 0x36 then windowOpen s
  else s

/-! ### Phase 0 -/

/-- Bell-class writes that came at or after the tick moment stay pending; what stood before them takes effect (R11). -/
def lateWrites (s : State) : SMap Word := s.bellPend.filterMap (fun e => (mapFind s.bellLate e.1).map (fun w => (e.1, w)))

/-- The tick with instant t opens: its length, the counter, Bell-class writes (R8, R59, R77). The first tick after a start counts as one of
the nominal length, with nothing spent before it. -/
def tickOpens (t : Nat) (s : State) : State :=
  let first := s.bell.tickLen == 0
  let old := periodUs s
  let len := if first then periodOf old else t - s.bell.openAt
  let s1 := if first then ratMod (fun r => { r with len := 0, spent := 0, outside := 0, pads := [], dyn := [], leak := [], run := [], hold := [] }) s
    else s
  let s2 := wr BEL_TICK_tick 0 (curTick s1 + 1)
    { s1 with bell := { s1.bell with due := s1.bell.due.drop 1, phasesRun := 0, openAt := t, tickLen := len } }
  periodChanged old { s2 with bellPend := lateWrites s2, bellLate := [] }

/-- BELL_LOCK rises in the first Locked tick (R85). -/
def bellLockRise (s : State) : State :=
  if belState s = belLocked then wr BEL_STATUS_bell_lock 0 1 { s with bellLock := true } else s

/-- ALIVE_OUT takes its value for the tick while the package serves (R86). -/
def aliveUpdate (s : State) : State :=
  if serves s then wr BEL_STATUS_alive 0 (if logMute s then 2 else 1) { s with aliveOut := aliveFor s (curTick s) }
  else wr BEL_STATUS_alive 0 0 (aliveLow s)

/-- TICK_MOMENT: phase 0 of the next tick taken. `mon`: the Lea dies whose least margin has fallen below its threshold (R585). -/
def execTickMoment (mon : Nat) (s : State) : Result :=
  .next (match s.bell.due with
  | [] => s
  | t :: _ =>
    if s.bell.phasesRun ≠ 3 then s
    else
      let closed := s.ration.len
      let s1 := tickOpens t (atTime (tickMoment t s) s)
      let s2 := if activating s1 then s1 else sharesUpdate s1
      let s3 := runPhase 0 phase0Entry (accounting s2.bell.tickLen mon s2)
      recurring (counterUpdate ((closed + 50) / 100) (aliveUpdate (bellLockRise s3))))

/-! ### Phase 1 -/

/-- TICK_PHASE1: `draw` is the held draw that the Shepherd measures where a regather has ended (R574). -/
def execTickPhase1 (draw : Nat) (s : State) : Result :=
  let back (s0 : State) (e : CalEv) : Bool := decide (e.tick ≤ curTick s0) && e.cls == 0x23
  .next (if s.bell.phasesRun ≠ 1 then s
  else
    let s1 := runPhase 1 phase1Entry s
    if s.bell.cal.any (back s) then heldDrawSet draw s1 else s1)

/-! ### Phase 2 -/

/-- State changes of the timebase are recorded (R80). -/
def timebaseRecords (s : State) : State :=
  s.bell.toRecord.foldl (fun s x => flockEvent 0x0100 11 x.1 x.2 0 0 s) { s with bell := { s.bell with toRecord := [] } }

/-- K0 reads one rail in turn; not while the firmware is being replaced (R593, R741). -/
def pollRail (ok : Bool) (status pin : Nat) (s : State) : State :=
  if activating s ∨ !mainOn s then s
  else match railNext s with
    | some r => railPoll r ok status pin s
    | none => s

/-- TICK_PHASE2: the entries, then what happens at phase 2 of every tick. `ok`, `status`, `pin`: the answer of the rail that is polled. -/
def execTickPhase2 (ok : Bool) (status pin : Nat) (s : State) : Result :=
  .next (if s.bell.phasesRun ≠ 2 then s
  else
    let s1 := timeTick (snapTick (timebaseRecords s))
    let s2 := sensorsRead (pollRail ok status pin (runPhase 2 phase2Entry s1))
    let s3 := (List.range 64).foldl (fun s n => swapCounter n s) ((List.range 37).foldl (fun s b => blockTick b s) s2)
    standbyStop (activationStart (repairP2 s3)))

end Sys2Proof.Machine
end

