-- ==== Sys2Proof/Machine/RegAccess.lean ====
section
/-! DEFINITION. Register accesses as packets (spec/02_package_grid.md R47-R71, R822-R827; spec/11_pasture_memory.md R356-R358): where an
offset of a die's CSR space lies, which brands its gate admits, what a write does beside storing its value, what a read shows. -/

namespace Sys2Proof.Machine

/-- What a command that completes leaves; a stop leaves the state as it was. -/
def Result.or (r : Result) (s : State) : State :=
  match r with
  | .next t => t
  | _ => s

/-! ### Block instances (R54, R55) -/

/-- The block instance of a core window at an offset in it. -/
def windowPlace (p o : Nat) : Option (Blk × Nat × Nat) :=
  if o < 0x6000 then some ((windowBlock o).1, p, (windowBlock o).2) else none

/-- The physical core of local column lx of a Lea die that serves no logical row (R41, R55). -/
def unmappedCore (s : State) (die lx : Nat) : Nat := die * 0x200 + lx * 0x20 + rd s (CUL_COL_shift.ix (die * 16 + lx)) 0

/-- The physical core whose window holds an offset of a Lea die. -/
def windowCore (s : State) (die off : Nat) : Nat :=
  if off < 0x800000 then pcore s (coreOfLocal die (off / 0x8000)) else unmappedCore s die ((off - 0x800000) / 0x8000)

/-- An instance of 64 KiB or more at `base`. -/
def placeAt (b : Blk) (inst base off : Nat) : Option (Blk × Nat × Nat) :=
  if base ≤ off ∧ off < base + blkSize b then some (b, inst, off - base) else none

/-- The K0 blocks with one instance, and where they stand. -/
def keeperBases : List (Blk × Nat) :=
  [(.shp, 0), (.fld, 0x100000), (.wlk, 0x200000), (.mst, 0x300000), (.cul, 0x400000), (.bel, 0x600000), (.rtn, 0x700000),
   (.fbk, 0x800000), (.sec, 0x900000), (.tlyK, 0xC00000), (.ftfK, 0xF00000)]

/-- The block, its instance and the offset in it of an offset of K0. -/
def keeperPlace (off : Nat) : Option (Blk × Nat × Nat) :=
  if 0x500000 ≤ off ∧ off < 0x600000 then some (.pdk, (off - 0x500000) / 0x4000, off % 0x4000)
  else (keeperBases.filterMap (fun x => placeAt x.1 0 x.2 off)).head?

/-- The block instance that holds an offset of a die's CSR space, if any (R54). -/
def csrPlace (s : State) (die off : Nat) : Option (Blk × Nat × Nat) :=
  if 12 ≤ die ∨ 0x1000000 ≤ off then none
  else if 0xD00000 ≤ off ∧ off < 0xD10000 then some (pstBlk die, die, off - 0xD00000)
  else if 0xD10000 ≤ off ∧ off < 0xD20000 then some (gatBlk die, die, off - 0xD10000)
  else if die < 11 ∧ 0xE00000 ≤ off ∧ off < 0xE10000 then some (.rtnA, die, off - 0xE00000)
  else if die < 8 then
    (if off < 0x880000 then windowPlace (windowCore s die off) (off % 0x8000) else placeAt .tlyL die 0xC00000 off)
  else if die < 10 then
    (if off < 0xC0000 then some (.mem, 12 * (die - 8) + off / 0x10000, off % 0x10000)
     else match placeAt .drvF (die - 8) 0x400000 off with
       | some x => some x
       | none => placeAt .byr (die - 8) 0x800000 off)
  else if die = 10 then
    (if off < 0x400000 then some (.hst, 0, off)
     else if off < 0x480000 then some (.ltk, (off - 0x400000) / 0x10000, off % 0x10000) else none)
  else keeperPlace off

/-! ### Gates (R47-R49, R106, R112, R356) -/

/-- The gate of the brand of paddock n is open (R101, R112). -/
def pdkOpen (s : State) (n : Nat) : Bool := pdkCreated s n && (pdkGet s n).gateOpen

/-- A paddock brand whose gate is open. -/
def brandOpen (s : State) (brand : Nat) : Bool :=
  match brandPdk brand with
  | some n => pdkOpen s n
  | none => false

/-- Brands of R48 for die-level blocks. -/
def dieBrand (brand : Nat) : Bool := brand ≤ 3 || brand == 5 || brand == 6

/-- Bytes off to off + len - 1 meet bytes lo to hi - 1. -/
def touches (off len lo hi : Nat) : Bool := lo < off + len && off < hi

/-- Far context k of M die 8 + d admits a brand (R106, spec/10_drover.md, Registers). -/
def farAdmits (s : State) (brand d k : Nat) : Bool :=
  let o := rd s (GAT_FAR_owner.ix (k / 64)) (8 + d)
  match brandPdk o with
  | none => brand ≤ 1
  | some n =>
    if pdkClosed s n then brand == 0 || brand == 2 else dieBrand brand || (brand == o && pdkOpen s n)

/-- The far contexts' instance admits a brand. -/
def farBlockAdmits (s : State) (brand d o : Nat) : Bool :=
  if o < 0x200000 then farAdmits s brand d (o / 0x80)
  else if o < 0x200800 ∨ (0x201000 ≤ o ∧ o < 0x201800) then dieBrand brand || brandOpen s brand
  else brand ≤ 1

/-- The block of 64 counters whose entry an offset of a Tally instance belongs to (R106, spec/13_tally.md, Registers). -/
def tlyBlockOf (b : Blk) (o : Nat) : Option Nat :=
  if b = .tlyL then
    (if o < 0x8000 then some (o / 8 / 64) else if 0x10000 ≤ o ∧ o < 0x18000 then some ((o - 0x10000) / 8 / 64)
     else if 0x20000 ≤ o ∧ o < 0x24000 then some ((o - 0x20000) / 16 / 16) else none)
  else
    (if o < 0x2000 then some (o / 8 / 64) else if o < 0x4000 then some ((o - 0x2000) / 8 / 64)
     else if o < 0x5000 then some ((o - 0x4000) / 16 / 16) else none)

/-- The function range an offset of HST_ lies in (R664). -/
def fnOfOff (o : Nat) : Option Nat := if 0x100000 ≤ o ∧ o < 0x100000 + 65 * 0x8000 then some ((o - 0x100000) / 0x8000) else none

/-- HST_ admits a brand; its common header, which belongs to no paddock, 0x00 and 0x01 alone (R49). -/
def hstAdmits (s : State) (brand o : Nat) : Bool :=
  match fnOfOff o with
  | some f => brand ≤ 1 || (f != 0 && brand == 0x0F + f && brandOpen s brand)
  | none => if hdrBase .hst ≤ o then brand ≤ 1 else dieBrand brand

/-- PDK_ instance n admits a brand: its paddock writes PDK_APER and PDK_VEC alone (spec/04_paddocks.md, Registers). -/
def pdkAdmits (s : State) (brand n o len : Nat) (write : Bool) : Bool :=
  brand ≤ 1 || (brand == pdkBrand n && pdkOpen s n && !(write && (touches o len 0 0x80 || touches o len 0x140 0x4000)))

/-- A brand that a gate narrows writes of some registers to (R104, R107 and the Registers sections of the chapters). -/
def writeNarrow (b : Blk) (brand o len : Nat) : Bool :=
  match b with
  | .msh => !((touches o len 0 4 || touches o len 0x14 0x18 || touches o len 0x20 0x28) && brand != 0 && brand != 2) &&
      !(touches o len 4 8 && brand != 0)
  | .mem => !((touches o len 0 4 || touches o len 8 0xC) && brand != 0)
  | .pstM => !(touches o len 0x400 0x430 && brand != 0)
  | .pstH => !(touches o len 0x400 0x408 && brand != 0)
  | .gat | .gatM | .gatH | .gatK => !(touches o len 0 0x1000 && brand != 0)
  | .fld => !(o < 0x1000 && touches (o % 0x40) len 0x28 0x2C && brand != 0)
  | .rtn => !(touches o len 0x300 0x324 && brand != 0)
  | _ => true

/-- The window that holds an offset of a Lea die admits a brand (R48, R112). -/
def windowAdmits (s : State) (brand die off : Nat) : Bool :=
  if off < 0x800000 then admitCore s brand (coreOfLocal die (off / 0x8000)) true else brand == 0 || brand == 4

/-- The gate of a block instance admits a brand (step 3 of R356). -/
def csrAdmits (s : State) (brand die off len : Nat) (write : Bool) (b : Blk) (inst o : Nat) : Bool :=
  (!write || writeNarrow b brand o len) &&
  (match b with
   | .lea | .msh | .drvC | .whs | .ftf => windowAdmits s brand die off
   | .drvF => farBlockAdmits s brand inst o
   | .tlyL | .tlyK =>
     (match tlyBlockOf b o with
      | some j => tlyAdmits s brand die (64 * j) []
      | none => if b = .tlyL ∧ o < hdrBase b then dieBrand brand else brand ≤ 1)
   | .hst => hstAdmits s brand o
   | .ltk => brand ≤ 1
   | .byr | .mem | .gat | .gatM | .gatH | .pstM | .pstH | .rtnA => dieBrand brand
   | .pst => if die < 8 then dieBrand brand else brand == 0
   | .shp => brand ≤ 1 || (o + len ≤ 8 && !brandReserved brand)
   | .pdk => pdkAdmits s brand inst o len write
   | .fld | .bel | .rtn | .fbk => brand ≤ 1
   | .wlk | .mst | .cul | .sec | .ftfK | .gatK => brand == 0)

/-- The step of R356 at which the gate refuses an access; 0 where it admits it. -/
def csrGate (s : State) (brand die off len : Nat) (write : Bool) : Nat :=
  if brandReserved brand then 1
  else match csrPlace s die off with
    | none => 2
    | some (b, inst, o) => if csrAdmits s brand die off len write b inst o then 0 else 3

/-- The package address of an offset of a die's CSR space (R822). -/
def csrAddr (die off : Nat) : Nat := 0x2000000000000 + die * 0x1000000 + off

/-- A refused access is captured: at the die of the address, or at its originating die where the address lies in no range (R356). Accesses of
paddock brands come through a VF, so from H0. -/
def csrRefuse (brand die off step : Nat) (s : State) : State :=
  let src := brandDie brand 10
  gateRefuse (if die < 12 then die else src) step 4 src brand (csrAddr die off) s

/-- An access waits at its column's gate: a shift runs, or the core is under test (R70, R551). -/
def csrWaits (s : State) (brand die off : Nat) : Bool :=
  die < 8 && off < 0x880000 &&
    (let p := windowCore s die off
     colShifting s (pcol p) || (underTest s p && brand != 4))

/-! ### Registers an access touches (R56, R823) -/

/-- The registers bytes off to off + len - 1 of a block fall in: register, its offset; ascending. -/
def touchedFrom (b : Blk) (stop : Nat) : Nat → Nat → List (RegD × Nat)
  | 0, _ => []
  | fuel + 1, o =>
    if stop ≤ o then []
    else match regAt b o with
      | none => touchedFrom b stop fuel (o + 1)
      | some (r, base) => (r, base) :: touchedFrom b stop fuel (base + r.width / 8)

def touched (b : Blk) (off len : Nat) : List (RegD × Nat) := touchedFrom b (off + len) len off

/-- Registers of a function range that a VF does not have: vectors from 32 on, their pending bits, the event ring (R659,
spec/21_host.md, Registers). -/
def vfLacks (b : Blk) (base : Nat) : Bool :=
  let o := base % 0x8000
  b == .hst && 0x108000 ≤ base && base < 0x100000 + 65 * 0x8000 &&
    ((0x4200 ≤ o && o < 0x5000) || (0x6008 ≤ o && o < 0x6020) || (0x88 ≤ o && o < 0x90))

/-! ### What a register shows -/

/-- An event of the calendar as BEL_CAL shows it (R83). -/
def calWord (s : State) (k : Nat) : Nat :=
  match s.bell.cal[k]? with
  | some e => e.tick % 2 ^ 48 + e.tgt % 2 ^ 8 * 2 ^ 48 + e.cls % 2 ^ 7 * 2 ^ 56 + 2 ^ 63
  | none => 0

/-- SHP_KEYSTAT (R734): digest16 as the registers hold a digest (log 51). -/
def keyStat (s : State) (k : Nat) : Nat :=
  match s.keys[k]? with
  | some x =>
    if !x.valid then b2n x.revoked * 2 ^ 30 + x.gen % 2 ^ 8 * 2 ^ 16
    else (digestWords (sha384 (beBytes 48 x.x ++ beBytes 48 x.y))).headD 0 % 2 ^ 16 + x.gen % 2 ^ 8 * 2 ^ 16 + b2n x.revoked * 2 ^ 30 + 2 ^ 31
  | none => 0

/-- Word j of SEC_KEY[k]: the spec names the fields and not their places (DESIGN CHOICE, log 29). -/
def keyWord (s : State) (k j : Nat) : Nat :=
  match s.keys[k]? with
  | some x =>
    if j = 0 then b2n x.valid + b2n x.revoked * 2 + x.gen % 2 ^ 8 * 2 ^ 8
    else leNat ((((beBytes 48 x.x ++ beBytes 48 x.y)).drop (8 * (j - 1))).take 8)
  | none => 0

/-- Every idle unit of an instance is idle (STATE.idle). -/
def instIdle (s : State) (b : Blk) (inst : Nat) : Bool :=
  match b with
  | .drvC => (List.range 32).all (fun k => ctxIdle s (32 * inst + k))
  | .drvF => (List.range 16384).all (fun k => ctxIdle s (131072 + 16384 * inst + k))
  | .tlyL => (List.range 1024).all (fun k => !rdB s (TLY_WATCH_valid.ix k) inst)
  | .tlyK => (List.range 256).all (fun k => !rdB s (KTLY_WATCH_valid.ix k) 0)
  | .byr => (List.range 256).all (fun j => !getPending s inst j && (!poolCreated s inst j || poolFree s inst j == poolCount s inst j))
  | .mst => !s.mcores.any (fun x => x.2.test != 0) && (List.range 64).all (fun k => !rdB s (MST_BLK_running.ix k) 0)
  | .cul => (List.range 64).all (fun n => pdkState s n != 2 && pdkState s n != 4) && !rdB s CUL_STAT_shift_busy 0
  | .pdk => pdkIdle s inst
  | .ftf => (List.range 5).all (fun u => !srcOn s inst u) && (match pcorePdk s inst with
      | some n => sinkIdle s n
      | none => true)
  | .ftfK => (pdksCreated s).all (sinkIdle s)
  | .gat | .gatM | .gatK | .gatH => (List.range 256).all (fun brand => !brandOut s (dieOf b inst) brand)
  | .hst => !s.vfEnable && rd s HST_LINK_state 0 != 0
  | .whs => whsIdle s inst
  | .ltk => !rdB s LTK_PCFG_admin_up inst
  | _ => unitIdle s b inst 0

/-- A write of an instance waits, in a list of pending writes. -/
def instPending (m : SMap Word) (b : Blk) (inst : Nat) : Bool := m.any (fun x => x.1 / 0x800000 == blkCode b * 65536 + inst)

/-- A register of the common header as read (R64). -/
def headerWord (s : State) (b : Blk) (inst base : Nat) : Nat :=
  let w := (rdW s b inst base).toNat
  let o := base - hdrBase b
  if o = 0 then
    (match b with
     | .lea | .msh | .drvC | .whs | .ftf => w - w % 2 ^ 11 + (lcore s inst).getD 0x7FF
     | _ => w)
  else if o = 0x10 then
    b2n (instIdle s b inst) + b2n (instPending s.bellPend b inst) * 2 + b2n (instPending s.rearmPend b inst) * 4
  else w

/-- Registers whose value stands elsewhere in the state. -/
def shownElse (s : State) (b : Blk) (inst base : Nat) : Option Nat :=
  match b with
  | .lea =>
    if base = 4 then some (corestat s inst)
    else if 0x1C0 ≤ base ∧ base < 0x200 then some (vwRead s inst ((base - 0x1C0) / 8))
    else if 0xC00 ≤ base ∧ base % 0x40 = 0 then some (Nat.lor (rdW s b inst base).toNat 1)
    else none
  | .msh =>
    if base = 8 then some (mshStat s inst)
    else if base = 0x14 then some (rslotData s inst (rd s MSH_RPSEL_slot inst))
    else if base = 0x20 then some (htGet s inst (rd s MSH_HTSEL_index inst))
    else none
  | .drvC =>
    if base < 0x1000 ∧ base % 0x80 = 0x5C then some (ctxTte s (32 * inst + base / 0x80))
    else if base = 0x1010 then some (droverT s) else none
  | .drvF =>
    if base < 0x200000 ∧ base % 0x80 = 0x5C then some (ctxTte s (131072 + 16384 * inst + base / 0x80))
    else if base = 0x202010 then some (droverT s) else none
  | .bel => if 0x1000 ≤ base then some (calWord s ((base - 0x1000) / 8)) else none
  | .mst => if base = 0x18 then some (mstOverdue s) else none
  | .shp =>
    if 0x1000 ≤ base ∧ base < 0x1200 then some (rdW s .cul 0 (base - 0x1000)).toNat
    else if 0x1200 ≤ base ∧ base < 0x1210 then some (rdW s .cul 0 (base - 0x1000)).toNat
    else if 0x400 ≤ base ∧ base < 0x420 then some (keyStat s ((base - 0x400) / 4))
    else none
  | .sec =>
    if base < 0x400 then some (keyWord s (base / 0x80) (base % 0x80 / 8))
    else if base < 0x430 then some (s.mgmt.owner.getD ((base - 0x400) / 8) 0)
    else none
  | _ => none

/-- The value of a register as a read sees it: WO fields and registers that stand dead read 0. -/
def shownWord (s : State) (b : Blk) (inst base : Nat) (r : RegD) : Word :=
  if hdrBase b ≤ base then BitVec.ofNat 64 (headerWord s b inst base)
  else if deadRegister s b inst base || vfLacks b base then 0
  else
    let w := match shownElse s b inst base with
      | some v => BitVec.ofNat 64 v
      | none => rdW s b inst base
    r.fields.foldl (fun w f => if f.acc == .wo then fieldPut w f.hi f.lo 0 else w) w

/-! ### Reads (R10, R56) -/

/-- RC fields that bytes lo to hi - 1 of a register cover whole are cleared (R4, R56). -/
def clearRead (fs : List FieldD) (lo hi : Nat) (w : Word) : Word :=
  fs.foldl (fun w f => if f.acc == .rc && lo ≤ f.lo / 8 && f.hi / 8 < hi then fieldPut w f.hi f.lo 0 else w) w

/-- MSH_RPSEL advances after an access to MSH_RPDATA where autoinc is 1. -/
def rpAdvance (p : Nat) (s : State) : State :=
  if rdB s MSH_RPSEL_autoinc p then wr MSH_RPSEL_slot p (rd s MSH_RPSEL_slot p + 1) s else s

/-- What a read of bytes lo to hi - 1 of a register changes. -/
def readEffect (b : Blk) (inst base : Nat) (r : RegD) (lo hi : Nat) (s : State) : State :=
  if b = .msh ∧ base = 0x14 then rpAdvance inst s
  else if r.fields.any (fun f => f.acc == .rc) ∧ !vfLacks b base then
    wrW b inst base (clearRead r.fields lo hi (rdW s b inst base)) s
  else s

/-- A read that latches before it shows: FBK_CAL (R619). -/
def readLatch (b : Blk) (base : Nat) (s : State) : State := if b = .fbk ∧ base = 0x80 then calRead s else s

/-- Bytes lo to hi - 1 of a word. -/
def wordBytes (w : Word) (lo hi : Nat) : List Nat := ((leBytes 8 w.toNat).drop lo).take (hi - lo)

/-- The bytes a read takes from the register at offset o, the offset after them, and what the read changes; a byte that names no
register reads 0 (R823). -/
def readOne (b : Blk) (inst stop o : Nat) (s : State) : List Nat × Nat × State :=
  match regAt b o with
  | none => ([0], o + 1, s)
  | some (r, base) =>
    let s1 := readLatch b base s
    let hi := Nat.min (r.width / 8) (stop - base)
    (wordBytes (shownWord s1 b inst base r) (o - base) hi, base + hi, readEffect b inst base r (o - base) hi s1)

/-- A read of bytes off to stop - 1 of a block instance. -/
def readFrom (b : Blk) (inst stop : Nat) : Nat → Nat → State → List Nat × State
  | 0, _, s => ([], s)
  | fuel + 1, o, s =>
    if stop ≤ o then ([], s)
    else
      let x := readOne b inst stop o s
      let rest := readFrom b inst stop fuel x.2.1 x.2.2
      (x.1 ++ rest.1, rest.2)

/-- A read of `len` bytes at an offset of a block instance. -/
def regRead (b : Blk) (inst off len : Nat) (s : State) : List Nat × State := readFrom b inst (off + len) len off s

/-! ### Writes: why a block refuses one (R6, R56, R61) -/

/-- Would the block refuse a write of a whole register, and why. -/
def regJudge (s : State) (b : Blk) (inst base : Nat) (r : RegD) (data : Word) : Option RefuseReason :=
  if vfLacks b base then none
  else if b = .lea ∧ 0x1C0 ≤ base ∧ base < 0x200 then (if !coreIdle s inst || !vwValid s inst then some .idle else none)
  else if b = .msh ∧ (base = 0x14 ∨ base = 0x20) then (if routerIdle s inst then none else some .idle)
  else writeRefusal s b inst base r data

/-! ### Writes: what an accepted one does -/

/-- MSH_CFG.hcount: the valid entries of MSH_HT. -/
def hcountShow (p : Nat) (s : State) : State :=
  wr MSH_CFG_hcount p ((List.range 64).filter (fun j => htValid (htGet s p j))).length s

/-- Registers of a router that stand in its memories. -/
def mshTakes (brand p base : Nat) (data : Word) (s : State) : State :=
  if base = 0x14 then rpAdvance p (rslotPut p (rd s MSH_RPSEL_slot p) (data.toNat % 65536) s)
  else if base = 0x20 then
    hcountShow p (htPut p (rd s MSH_HTSEL_index p)
      (Nat.land data.toNat (2 ^ 64 - 1 - (2 ^ 63 - 2 ^ 50))) s)
  else (unitWrite brand .msh p base data s).2

/-- Registers of a core. -/
def leaTakes (brand p base : Nat) (data : Word) (s : State) : State :=
  if 0x1C0 ≤ base ∧ base < 0x200 then vwPut p ((base - 0x1C0) / 8) data.toNat s
  else if base = 0x230 then spbselPut p data s
  else (unitWrite brand .lea p base data s).2

/-- Registers of a far instance: a doorbell bit of a context that does not admit the brand has no effect. -/
def farTakes (brand d base : Nat) (data : Word) (s : State) : State :=
  if 0x200000 ≤ base ∧ base < 0x202000 ∧ !farAdmits s brand d (8 * (base % 0x1000)) then s
  else (unitWrite brand .drvF d base data s).2

/-- FTF_PCTL of paddock n: every bit written as 1 acts, in the order flush, dump, sink_resume, release (DEDUCED, log 54). -/
def pctlTakes (n data : Nat) (s : State) : State :=
  let s1 := if natBit data 0 then (execFlush n s).or s else s
  let s2 := if natBit data 2 then (execDump n (natBit data 4) s1).or s1 else s1
  let s3 := if natBit data 3 then (execSinkResume n s2).or s2 else s2
  if natBit data 1 then (execRelease n s3).or s3 else s3

/-- Registers of a trace unit. -/
def ftfTakes (brand p base : Nat) (data : Word) (s : State) : State :=
  match pcorePdk s p with
  | none => (plainWrite brand .ftf p base data s).2
  | some n =>
    if base = 0x818 then pctlTakes n data.toNat s
    else if base = 0x814 then sinkPump n (plainWrite brand .ftf p base data s).2
    else (plainWrite brand .ftf p base data s).2

/-- Registers of a paddock (R100, R109, R521). -/
def pdkTakes (brand n base : Nat) (data : Word) (s : State) : State :=
  let d := data.toNat
  if base = 8 then pdkCommand n (d % 8) s
  else if 0x100 ≤ base ∧ base < 0x140 then vecWrite n ((base - 0x100) / 4) d s
  else if base = 0x410 then
    (if d % 4 = 1 then (execFailOverNow n s).or s else if d % 4 = 2 then (execRePair n s).or s
     else if d % 4 = 3 then (execUnpair n s).or s else s)
  else if base = 0x14 then shareChange n (plainWrite brand .pdk n base data s).2
  else (plainWrite brand .pdk n base data s).2

/-- Registers of a Tally unit (R424, R443). -/
def tlyTakes (brand : Nat) (b : Blk) (u base : Nat) (data : Word) (s : State) : State :=
  let inst := tlyInst u
  let addAt := if b = .tlyL then 0x10000 else 0x2000
  let watchAt := if b = .tlyL then 0x20000 else 0x4000
  let watchEnd := if b = .tlyL then 0x24000 else 0x5000
  let cntEnd := if b = .tlyL then 0x8000 else 0x2000
  if base < cntEnd then (execTlyCntWrite u (base / 8) data s).or s
  else if addAt ≤ base ∧ base < addAt + cntEnd then (execTlyAddWrite u ((base - addAt) / 8) data s).or s
  else if watchAt ≤ base ∧ base < watchEnd ∧ base % 16 = 0 then
    (if data.toNat / 2 ^ 63 % 2 = 1 then (execTlyWatchCancel u ((base - watchAt) / 16) s).or s else s)
  else (plainWrite brand b inst base data s).2

/-- BYR_PCMD (R449). -/
def pcmdTakes (d data : Nat) (s : State) : State :=
  let op := data % 8
  let j := data / 256 % 256
  if op = 1 then (execByreCreate d j s).or s
  else if op = 2 then (execByreDestroy d j s).or s
  else if op = 3 then (execByreRebuild d j s).or s
  else if op = 4 then (execByreAudit d j s).or s
  else cmdStat d j (if rdB s BYR_CMDSTAT_busy d then 1 else 5) false s

/-- Registers of Byre (R449, R461, R463). -/
def byrTakes (brand d base : Nat) (data : Word) (s : State) : State :=
  if base = 0x30000 then pcmdTakes d data.toNat s
  else if base = 0x30008 then byrHget brand d data s
  else if base = 0x30018 then (execByrHput d data s).or s
  else
    let t := (plainWrite brand .byr d base data s).2
    if 0x10000 ≤ base ∧ base < 0x20000 then
      let f := BYR_QKEY_pool.ix ((base - 0x10000) / 16)
      refreshOvercommit d (rd t f d) (refreshOvercommit d (rd s f d) t)
    else if base < 0x4000 ∧ (base % 0x40 = 0x20 ∨ base % 0x40 = 0x18) then refreshOvercommit d (base / 0x40) t
    else t

/-- Registers of a function range (R663, R665, R666); HST_FOLDDB has no effect in a VF. -/
def fnTakes (brand f base : Nat) (data : Word) (s : State) : State :=
  let o := base % 0x8000
  let d := data.toNat
  if o < 0x40 then (execRingConfigure f 0 (o / 8) data s).or s
  else if o < 0x80 then (execRingConfigure f 1 ((o - 0x40) / 8) data s).or s
  else if o = 0x80 then (execRingConfigure f 2 0 data s).or s
  else if o = 0x88 then (execRingConfigure f 3 0 data s).or s
  else if 0x1000 ≤ o ∧ o < 0x1020 then (execSubmissionDoorbell f ((o - 0x1000) / 4) (d % 2 ^ 20) s).or s
  else if 0x1020 ≤ o ∧ o < 0x1040 then (execHeadDoorbell f 1 ((o - 0x1020) / 4) (d % 2 ^ 20) s).or s
  else if o = 0x1040 then (execHeadDoorbell f 2 0 (d % 2 ^ 20) s).or s
  else if o = 0x1044 then (execHeadDoorbell f 3 0 (d % 2 ^ 20) s).or s
  else if o = 0x1048 then (if f = 0 then foldAsk (d % 64) 1 0 s else s)
  else if 0x4000 ≤ o ∧ o < 0x5000 then msixFlush f (plainWrite brand .hst 0 base data s).2
  else (plainWrite brand .hst 0 base data s).2

/-- Registers of an Ethernet port: a port that is not enabled goes down; a path entry written valid is dead until KEEPALIVEs come; word 0 of a route (R702, R709). -/
def ltkTakes (brand q base : Nat) (data : Word) (s : State) : State :=
  if 0x2000 ≤ base ∧ base < 0x2400 then
    let j := 32 * q + (base - 0x2000) / 32
    let t := (plainWrite brand .ltk q base data s).2
    if pt LTK_PATH0_valid t j = 1 then pathWritten j t else t
  else if base = 0 then
    (let t := (plainWrite brand .ltk q base data s).2
     if rdB t LTK_PCFG_admin_up q then t else portDown q t)
  else if 0x8000 ≤ base ∧ base < 0xC000 ∧ base % 64 = 0 then routeWord0 (256 * q + (base - 0x8000) / 64) data.toNat s
  else (plainWrite brand .ltk q base data s).2

/-- SHP_PWRCMD (R768-R770): `t` is the time, `draw` the held draw a wake measures. -/
def pwrCmd (op t draw : Nat) (s : State) : State :=
  if op = 1 then shutDownAsk s else if op = 2 then standbyAsk s else if op = 3 then wakeAsk t draw s else cmdResult 1 s

/-- Registers of the Shepherd. -/
def shpTakes (brand base : Nat) (data : Word) (t draw : Nat) (s : State) : State :=
  if base = 0x90 then mailboxAsk (data.toNat % 256) s
  else if base = 0x104 then pwrCmd (data.toNat % 16) t draw s
  else (plainWrite brand .shp 0 base data s).2

/-- Registers of the Ration controller: RTN_GRANT and RTN_INLET take register writes where RTN_CFG selects them (R573, R587). -/
def rtnTakes (brand base : Nat) (data : Word) (s : State) : State :=
  if base = 8 then (if rdB s RTN_CFG_src_grant 0 then grantWrite (data.toNat % 65536) s else s)
  else if base = 0xC then (if rdB s RTN_CFG_src_inlet 0 then inletWrite (data.toNat % 65536) s else s)
  else (plainWrite brand .rtn 0 base data s).2

/-- Registers of the Flockbook. -/
def fbkTakes (brand base : Nat) (data : Word) (s : State) : State :=
  if base = 0x20 then (execFbkRselWrite data s).or s
  else if base = 0x28 then (execFbkFind data s).or s
  else if base = 0x90 then calSet data.toNat s
  else (plainWrite brand .fbk 0 base data s).2

/-- Registers of the Pasture port of H0 (R44, R378). -/
def pstTakes (brand : Nat) (b : Blk) (die base : Nat) (data : Word) (s : State) : State :=
  let t := (plainWrite brand b die base data s).2
  if b ≠ .pstH then t
  else if base = 0x1000 then memMove s (memShape t)
  else if base = 0x1608 ∧ data.toNat % 2 = 1 then invStart t
  else t

/-- Registers of the timebase (R75, R79). -/
def belTakes (brand base : Nat) (data : Word) (t : Nat) (s : State) : State :=
  if base = 0xC then (if data.toNat % 2 = 1 then startBell t s else s)
  else
    let s1 := (plainWrite brand .bel 0 base data s).2
    if base = 0 then ptpPortSet (rd s BEL_CFG_ptp_port 0) s1 else s1

/-- An accepted write of a whole register. -/
def regTakes (brand : Nat) (b : Blk) (inst base : Nat) (data : Word) (t draw : Nat) (s : State) : State :=
  if hdrBase b ≤ base then (plainWrite brand b inst base data s).2
  else if deadRegister s b inst base || vfLacks b base then s
  else match b with
  | .lea => leaTakes brand inst base data s
  | .msh => mshTakes brand inst base data s
  | .drvC => (unitWrite brand b inst base data s).2
  | .drvF => farTakes brand inst base data s
  | .whs => if base = 0x340 then rqPop inst data.toNat s else (plainWrite brand b inst base data s).2
  | .ftf => ftfTakes brand inst base data s
  | .pdk => pdkTakes brand inst base data s
  | .tlyL => tlyTakes brand b inst base data s
  | .tlyK => tlyTakes brand b 11 base data s
  | .byr => byrTakes brand inst base data s
  | .fld =>
    if base < 0x1000 ∧ base % 0x40 = 0x20 then foldAsk (base / 0x40) (data.toNat % 16) (data.toNat / 256 % 16) s
    else (plainWrite brand b inst base data s).2
  | .hst =>
    (match fnOfOff base with
     | some f => fnTakes brand f base data s
     | none => (plainWrite brand b inst base data s).2)
  | .ltk => ltkTakes brand inst base data s
  | .shp => shpTakes brand base data t draw s
  | .rtn => rtnTakes brand base data s
  | .fbk => fbkTakes brand base data s
  | .bel => belTakes brand base data t s
  | .pst | .pstM | .pstH => pstTakes brand b inst base data s
  | .mem =>
    let t := (plainWrite brand b inst base data s).2
    if base = 0 then memMove s (memShape t) else t
  | _ => (plainWrite brand b inst base data s).2

/-! ### A write as it arrives (R6, R32, R56) -/

/-- The part of a write's data a register takes. -/
def partData (off base : Nat) (r : RegD) (data : Word) : Word := BitVec.ofNat 64 (data.toNat / 2 ^ (8 * (base - off)) % 2 ^ r.width)

/-- A refused access to MSH_RPDATA advances its slot like any other. -/
def refusedSide (b : Blk) (inst : Nat) (parts : List (RegD × Nat)) (s : State) : State :=
  if b = .msh ∧ parts.any (fun x => x.2 == 0x14) then rpAdvance inst s else s

/-- A write is of a width and alignment its registers take: 8, 16, 32 or 64 bits, aligned, each register whole. -/
def widthOk (off size : Nat) (parts : List (RegD × Nat)) : Bool :=
  [1, 2, 4, 8].contains size && off % size == 0 && parts.all (fun x => off ≤ x.2 && x.2 + x.1.width / 8 ≤ off + size)

/-- The registers of one write in the order they are taken: those with bits that a write of 1 clears come first, so that an event which
another part of the same write raises in that cycle is not lost (R9). -/
def clearsFirst (parts : List (RegD × Nat)) : List (RegD × Nat) :=
  let w1c (x : RegD × Nat) : Bool := x.1.fields.any (fun f => f.acc == .w1c)
  parts.filter w1c ++ parts.filter (fun x => !w1c x)

/-- A write of `size` bytes reaches a block instance. Bytes that name no register are ignored; if one of its registers refuses its
part none takes effect, and every refused part counts (R56, R64). SHP_DEVID and SHP_RATING take any write without a trace (R32). -/
def regWrite (brand : Nat) (b : Blk) (inst off size : Nat) (data : Word) (t draw : Nat) (s : State) : State :=
  let parts := touched b off size
  if parts.isEmpty ∨ (b = .shp ∧ parts.all (fun x => x.2 < 8)) then s
  else if !widthOk off size parts then refusedSide b inst parts (refuseWrite b inst .width brand off s)
  else
    let bad := parts.filterMap (fun x => (regJudge s b inst x.2 x.1 (partData off x.2 x.1 data)).map (fun why => (why, x.2)))
    match bad with
    | [] => (clearsFirst parts).foldl (fun s x => regTakes brand b inst x.2 (partData off x.2 x.1 data) t draw s) s
    | (why, base) :: more =>
      refusedSide b inst parts (more.foldl (fun s _ => bump (hdr b HDR_REFCNT_count) inst s) (refuseWrite b inst why brand base s))

/-! ### An access to CSR space -/

/-- What became of an access: it waits at a gate, it was refused with a status (R357), or it was served. -/
inductive CsrOut where
  | waits
  | refused (status : Nat)
  | served (data : List Nat)
deriving DecidableEq, Repr

/-- An access of `len` bytes at an offset of a die's CSR space. While the main domain is off K0's switch answers for dies 0 to 10
(R826). -/
def csrAccess (brand die off len : Nat) (write : Bool) (data : Word) (t draw : Nat) (s : State) : CsrOut × State :=
  if die < 11 ∧ !mainPowered s then (.refused 2, s)
  else
    let step := csrGate s brand die off len write
    if step ≠ 0 then (.refused (refuseStatus step), csrRefuse brand die off step s)
    else if csrWaits s brand die off then (.waits, s)
    else match csrPlace s die off with
      | none => (.waits, s)
      | some (b, inst, o) =>
        if write then (.served [], regWrite brand b inst o len data t draw s)
        else
          let r := regRead b inst o len s
          (.served r.1, r.2)

/-! ### The host's windows (R50-R53, R69, R358, R429, R827) -/

/-- What an offset of a function's BAR0 names. -/
inductive BarPlace where
  | reserved
  | csr (die off : Nat)
deriving DecidableEq, Repr

/-- PF BAR0 (R50, R51, R664). -/
def pfPlace (s : State) (off : Nat) : BarPlace :=
  if off < 0x1000000 then .csr 11 off
  else if off < 0x2000000 then .csr 10 (off - 0x1000000)
  else if off < 0x3000000 then .csr (rd s HST_APER_die 0) (off - 0x2000000)
  else if off < 0x3008000 then .csr 10 (0x100000 + (off - 0x3000000))
  else .reserved

/-- VF BAR0 of paddock n (R53, R664). -/
def vfPlace (s : State) (n off : Nat) : BarPlace :=
  if off < 0x8000 then .csr 10 (0x100000 + (n + 1) * 0x8000 + off)
  else if 0x100000 ≤ off ∧ off < 0x104000 then .csr 11 (0x500000 + n * 0x4000 + (off - 0x100000))
  else if 0x800000 ≤ off then
    let i := 256 * rd s PDK_APER_group n + (off - 0x800000) / 0x8000
    if pdkCreated s n ∧ i < pdkCount s n then
      .csr (coreDie (pdkCore s n i)) (coreLocal (pdkCore s n i) * 0x8000 + off % 0x8000)
    else .reserved
  else .reserved

end Sys2Proof.Machine
end

