-- ==== Sys2Proof/Machine/ColumnGate.lean ====
section
/-! DEFINITION. Accesses to registers and scratchpad windows from inside the package and from the host (spec/02_package_grid.md R43-R70, spec/08_scratchpad.md
R236, R242, spec/11_pasture_memory.md R356-R359): what their gates do with them, those that wait at a gate, and what ends the wait. -/

namespace Sys2Proof.Machine

/-! ### The host's side (R358, R429) -/

/-- Unsupported Request: a read completes with it, a write is dropped (R358, R682). -/
def barUr (f tag : Nat) (write : Bool) (s : State) : State :=
  if write then aerAdvisory f 20 s else emit .cplData [f, tag, 1] (aerUncorr f 20 s)

/-- A BAR write of function f that has not been acknowledged. -/
def barWriteOut (s : State) (f : Nat) : Bool := s.fab.any (fun x => x.wr && (match x.ret with
  | .bar g _ => g == f
  | _ => false))

/-- A PF write of TLY_CNT or TLY_ADD waits for the earlier writes of the function (R429). -/
def tallyWaits (s : State) (f die off : Nat) (write : Bool) : Bool :=
  f == 0 && write && barWriteOut s 0 &&
    (match csrPlace s die off with
     | some (.tlyL, _, o) => o < 0x18000
     | some (.tlyK, _, o) => o < 0x4000
     | _ => false)

/-! ### Accesses that may wait at a gate (R70, R429, R551) -/

/-- The access waits. -/
def accHold (a : AccW) (s : State) : State := { s with accWaits := s.accWaits ++ [a] }

/-- A register access inside the package is answered: the bytes of a read, or a status (R357). -/
def csrAnswer (a : AccW) (r : CsrOut) (s : State) : State :=
  match r with
  | .waits => accHold a s
  | .refused st => emit .ack [a.brand, a.die, a.off, st] s
  | .served bs => if a.wr then emit .ack [a.brand, a.die, a.off, 0] s else emit .regData ([a.brand, a.die, a.off] ++ bs) s

/-- A register access through BAR0 is answered to the host (R358). -/
def barAnswer (a : AccW) (r : CsrOut) (s : State) : State :=
  match r with
  | .waits => accHold a s
  | .refused _ => barUr a.f a.tag a.wr (bump PST_BARREF_count 10 s)
  | .served bs => if a.wr then s else emit .cplData ([a.f, a.tag, 0] ++ bs) s

/-- Byte k of an access at offset off stands in a 64-byte line that carries poison; a value of 256 or more marks a byte of one (R359; log
110). -/
def poisonedAt (off : Nat) (data : List Nat) (k : Nat) : Bool :=
  (List.range data.length).any (fun j => (off + j) / 64 == (off + k) / 64 && 256 ≤ data.getD j 0)

/-- The step of R356 at which the scratchpad window of core c refuses an access; 0 where it admits it. -/
def windowGate (s : State) (brand c off len : Nat) : Nat :=
  if brandReserved brand then 1 else if 0x100000 < off + len then 2 else if !admitCore s brand c false then 3 else 0

/-- Accesses to core c wait: its column shifts, or it is under test (R70, R551). -/
def coreWaits (s : State) (brand c : Nat) : Bool :=
  colShifting s (pcol (pcore s c)) || (underTest s (pcore s c) && brand != 4)

/-- An access reaches the scratchpad window of core a.die: refused and answered so, waiting, or presented as class P (R236, R242, R356,
R357). -/
def windowGo (a : AccW) (s : State) : State :=
  let step := windowGate s a.brand a.die a.off a.len
  let d := coreDie a.die
  if step ≠ 0 then emit .spData [a.brand, a.die, a.off, refuseStatus step]
    (gateRefuse d step (b2n a.wr) (brandDie a.brand d) a.brand (0x1000000000000 + a.die % 2048 * 0x100000 + a.off) s)
  else if coreWaits s a.brand a.die then accHold a s
  else paccPush (pcore s a.die) a.wr a.off a.len ((a.data.map (· % 256)).take a.len) (poisonedAt a.off a.data)
    (.window a.brand a.die a.off) s

/-- An access goes on as far as it can. -/
def accGo (a : AccW) (s : State) : State :=
  if a.kind = 2 then windowGo a s
  else if a.kind = 1 ∧ tallyWaits s a.f a.die a.off a.wr then accHold a s
  else
    let r := csrAccess a.brand a.die a.off a.len a.wr (BitVec.ofNat 64 (a.data.getD 0 0)) s.now a.draw s
    if a.kind = 1 then barAnswer a r.1 r.2 else csrAnswer a r.1 r.2

/-- Accesses that waited go on, in the order in which they came; those that must wait longer do. -/
def accFlush (s : State) : State := s.accWaits.foldl (fun s a => accGo a s) { s with accWaits := [] }

/-- A new access comes after those that wait. -/
def accNew (a : AccW) (s : State) : State := accGo { a with dl := noDeadline s } (accFlush s)

/-! ### Accesses inside the package -/

/-- REGISTER_WRITE: a packet of a brand writes `size` bytes at an offset of a die's CSR space, at time t; it is acknowledged with its
status, once it has waited where it must (R56, R70, R357). -/
def execRegisterWrite (brand die off size : Nat) (data : Word) (t draw : Nat) (s : State) : Result :=
  .next (accNew { kind := 0, brand := brand, die := die, off := off, len := size, wr := true, data := [data.toNat], draw := draw } (atTime t s))

/-- RC_READ: a packet of a brand reads `len` bytes; RC fields read whole are cleared (R10, R56). -/
def execRcRead (brand die off len t : Nat) (s : State) : Result :=
  .next (accNew { kind := 0, brand := brand, die := die, off := off, len := len, wr := false } (atTime t s))

/-- An access to the register at offset off of the window of core c. -/
def coreReg (brand c off len : Nat) (write : Bool) (data : Word) : AccW :=
  { kind := 0, brand := brand, die := coreDie (c % 2048), off := coreLocal (c % 2048) * 0x8000 + off, len := len, wr := write, data := [data.toNat] }

/-- MSH_RPDATA_ACCESS: a packet of a brand reads or writes MSH_RPDATA of core c (R264). -/
def execMshRpdataAccess (brand c : Nat) (write : Bool) (data : Word) (s : State) : Result :=
  .next (accNew (coreReg brand c 0x1014 4 write data) s)

/-- VWDATA_WRITE: a write of LEA_VWDATA[k] of core c by a brand: its window's gate, the Idle class, and refused where nothing is selected
(R48, R227). -/
def execVwdataWrite (brand c k : Nat) (data : Word) (s : State) : Result :=
  .next (accNew (coreReg brand c (LEA_VWDATA_value.off + 8 * (k % 8)) 8 true data) s)

/-- BYR_HGET: a brand writes BYR_HGET of M die 8 + d: the gate of the die's registers, then the get (R47, R48, R461). -/
def execByrHget (brand d : Nat) (data : Word) (s : State) : Result :=
  .next (accNew { kind := 0, brand := brand, die := 8 + d % 2, off := 0x830008, len := 8, wr := true, data := [data.toNat] } s)

/-- SP_WINDOW_ACCESS: a packet of a brand reaches the scratchpad window of core c at offset off (R236, R242). -/
def execSpWindowAccess (brand c : Nat) (write : Bool) (off len : Nat) (data : List Nat) (s : State) : Result :=
  .next (accNew { kind := 2, brand := brand, die := c, off := off, len := len, wr := write, data := data } s)

/-! ### The host's windows (R50-R53, R69, R358, R429, R827) -/

/-- The host reaches function f: it exists, the link is up, the device is powered. -/
def fnReached (s : State) (f : Nat) : Bool := fnExists s f && rd s HST_LINK_state 0 != 4 && mainPowered s

/-- BAR0_ACCESS: an access of `len` bytes through BAR0 of function f at time t. With Memory Space Enable clear or in D3hot, and through
a VF whose paddock's gate is closed, it gets Unsupported Request (PCIe; R112). -/
def execBar0Access (t f tag : Nat) (write : Bool) (off len : Nat) (data : Word) (draw : Nat) (s : State) : Result :=
  let s := atTime t s
  .next (if !fnReached s f ∨ len = 0 ∨ (if f = 0 then 0x4000000 else 0x1000000) < off + len then s
  else if !(fnGet s f).memEn ∨ (fnGet s f).d3 ∨ (f ≠ 0 ∧ pdkClosed s (f - 1)) then barUr f tag write s
  else match if f = 0 then pfPlace s off else vfPlace s (f - 1) off with
    | .reserved => if write then s else emit .cplData ([f, tag, 0] ++ List.replicate len 0) s
    | .csr die o => accNew { kind := 1, brand := fnBrand f, die := die, off := o, len := len, wr := write, data := [data.toNat],
                             f := f, tag := tag, draw := draw } s)

/-- The request H0 makes for a part of a BAR2 access. -/
def bar2Xact (s : State) (tag : Nat) (write : Bool) (a len : Nat) (data : List Nat) : Xact :=
  { wr := write, brand := 1, die := 10, gidx := 0x1FFFF, root := 64, va := a, pa := a, len := len,
    data := data.map (· % 256), pf := (List.range (linesOf a len).length).map (fun i => poisonedAt a data (64 * i - a % 64)),
    deadline := (droverT s + 0xFFFFFF) % 2 ^ 32, stage := 1, host := false, status := 0, bad := [], inv := false, invTags := [],
    stale := false, ret := .bar 0 tag }

/-- An access is made of one request for each 512-byte block it meets (DESIGN CHOICE, log 55). -/
def bar2Parts (tag : Nat) (write : Bool) : Nat → Nat → List Nat → Nat → State → State
  | 0, _, _, _, s => s
  | fuel + 1, a, data, left, s =>
    if left = 0 then s
    else
      let n := Nat.min left (512 - a % 512)
      bar2Parts tag write fuel (a + n) (data.drop n) (left - n) { s with fab := s.fab ++ [bar2Xact s tag write a n (data.take n)] }

/-- BAR2_ACCESS: an access of the PF through BAR2 to external memory (R52); at or above U the Pasture entry of H0 refuses it (R356). -/
def execBar2Access (tag : Nat) (write : Bool) (off len : Nat) (data : List Nat) (s : State) : Result :=
  let bs := (data ++ List.replicate len 0).take len
  .next (if !fnReached s 0 ∨ len = 0 ∨ 2 ^ bar2Log s < off + len then s
  else if !(fnGet s 0).memEn ∨ (fnGet s 0).d3 then barUr 0 tag write s
  else if memU s < off + len then barUr 0 tag write (bump PST_BARREF_count 10 (gateRefuse 10 2 (b2n write) 10 1 off s))
  else bar2Parts tag write (len + 1) off (if write then bs else []) len s)

/-- MEMORY_WRITE: as the port serves it; a BAR write that is acknowledged lets go the accesses that waited for it (R354, R371, R429). -/
def execMemoryWrite (i : Nat) (s : State) : Result := .next (accFlush (memoryWrite i s))

/-! ### The waits end -/

/-- COLUMN_PAUSE_END: the shift completes; accesses that waited reach the newly mapped cores (R42, R70). -/
def execColumnPauseEnd (s : State) : Result := .next (accFlush (columnPauseEnd s))

/-- MUSTER_CORE_TEST_END: the test of physical core p ends with a pass, or a failure of a unit; accesses to the core's windows go on (R551). -/
def execMusterCoreTestEnd (p : Nat) (ok : Bool) (unit : Nat) (s : State) : Result :=
  .next (if !underTest s p then s else accFlush (if ok then testDone p s else testFails p unit s))

end Sys2Proof.Machine
end

