-- ==== Sys2Proof/Machine/Pins.lean ====
section
/-! DEFINITION. The output lands of K0 and the test access port (spec/25_pins.md R794, R795, R811, R812, R819). The order of the boundary cells is the device's own; a command gives
the levels its cells capture and the values shifted in, those of always-on lands and those of main-domain lands apart (log 9). -/

namespace Sys2Proof.Machine

/-- THERMTRIP_N is asserted: latched from a trip to the release of the next cold reset (R773, R795). -/
def thermtripOut (s : State) : Bool := s.pwr.trip

/-- MSB_INT_N is asserted while a PLDM event is held undelivered, and released in a cold reset (R726, R794). -/
def msbIntOut (s : State) : Bool := s.pwr.vaux && !s.pwr.cold && !s.pldmQ.isEmpty

/-- The test access port runs from VAUX, and is held in reset, TDO at high impedance, through a cold reset of K0 (R794, R811). -/
def tapOn (s : State) : Bool := s.pwr.vaux && !s.pwr.cold

/-- Boundary cells as captured: those of main-domain lands capture 0 while that domain is off (R811). -/
def captured (s : State) (main : Nat) : Nat := if mainPowered s then main else 0

/-- An instruction that selects the bypass register: TDO captures 0. -/
def tapBypass (ir : Nat) (s : State) : State := emit .tdo [0, 0] { s with tap := { s.tap with ir := ir } }

/-- The boundary register is shifted: what it captured leaves, what came in stands in the cells. -/
def tapShift (ir on main inOn inMain : Nat) (s : State) : State :=
  emit .tdo [1, on, captured s main] { s with tap := { ir := ir, cells := inOn, cellsMain := inMain } }

/-- An instruction that drives lands takes effect in Keeper, Recovery and Standby alone; elsewhere it is BYPASS, and noted (R812). -/
def tapTest (k : State → State) (s : State) : State :=
  if !tapOn s then s
  else if pwrState s = 0 ∨ pwrState s = 6 ∨ pwrState s = 3 then k (wr SHP_STRAP_scan_used 0 1 s)
  else tapBypass 0 (wr SHP_STRAP_scan_refused 0 1 s)

/-- BYPASS. -/
def execBypass (s : State) : Result := .next (if tapOn s then tapBypass 0 s else s)

/-- IDCODE: TDO gives 0x247129A7. -/
def execIdcode (s : State) : Result :=
  .next (if tapOn s then emit .tdo [2, 0x247129A7] { s with tap := { s.tap with ir := 1 } } else s)

/-- SAMPLE_PRELOAD: the lands are sampled, the cells loaded. -/
def execSamplePreload (on main inOn inMain : Nat) (s : State) : Result :=
  .next (if tapOn s then tapShift 2 on main inOn inMain s else s)

/-- EXTEST. -/
def execExtest (on main inOn inMain : Nat) (s : State) : Result := .next (tapTest (tapShift 3 on main inOn inMain) s)

/-- CLAMP: the cells drive the lands, the bypass register is selected. -/
def execClamp (s : State) : Result := .next (tapTest (tapBypass 4) s)

/-- HIGHZ: no land is driven, the bypass register is selected. -/
def execHighz (s : State) : Result := .next (tapTest (tapBypass 5) s)

/-- EXTEST_PULSE (IEEE 1149.6). -/
def execExtestPulse (on main inOn inMain : Nat) (s : State) : Result := .next (tapTest (tapShift 6 on main inOn inMain) s)

/-- EXTEST_TRAIN (IEEE 1149.6). -/
def execExtestTrain (on main inOn inMain : Nat) (s : State) : Result := .next (tapTest (tapShift 7 on main inOn inMain) s)

end Sys2Proof.Machine
end

