-- ==== Sys2Proof/Machine/Ports.lean ====
section
/-! DEFINITION. Ports of the scratchpad (spec/08_scratchpad.md R242-R251): serving a word, who goes on when the last word of a request is
served, write-backs. -/

namespace Sys2Proof.Machine

/-! ### Class P (R242) -/

/-- A class-P access is complete: who waits for it goes on; a window access is answered, a read that found an uncorrectable word
with data-error status (R242, R250, R357). -/
def pDone (p : Nat) (a : PAcc) (s : State) : State :=
  let s1 := coreMod p (fun c => { c with paccs := c.paccs.filter (fun b => b.id != a.id) }) s
  match a.ret with
  | .stream g off dl => if a.wr then streamFilled g off s1 else streamRead g off dl a.len a.data a.err s1
  | .whistle id => whsLandDone id s1
  | .window b c off => emit .spData ([b, c, off, if a.err then 3 else 0] ++ if a.wr then [] else a.data) s1
  | _ => s1

/-- A request of class P is complete. -/
def pServed (p n : Nat) (write : Bool) (s : State) : State :=
  let s1 := coreMod p (fun c => { c with paccs := c.paccs.map (fun b => if b.id = n then { b with left := b.left - 1 } else b) }) s
  let s2 := match (coreGet s1 p).paccs.find? (fun b => b.id == n) with
    | some a => if a.left = 0 then pDone p a s1 else s1
    | none => s1
  pPresent p write s2

/-- A read word of access n brings its bytes, or an error (R250). -/
def pGot (p n : Nat) (w : WWord) (d : Nat) (bad : Bool) (s : State) : State :=
  let put (a : PAcc) : PAcc :=
    { a with err := a.err || bad,
             data := (List.range a.len).map (fun i =>
               if (a.off + i) / 8 = w.word then d / 2 ^ (8 * ((a.off + i) % 8)) % 256 else a.data.getD i 0) }
  coreMod p (fun c => { c with paccs := c.paccs.map (fun b => if b.id = n then put b else b) }) s

/-! ### Serving a word (R243, R249-R251) -/

/-- The unit of a class of M or V. -/
def classUnit (cls : Nat) : QUnit := if cls = 0 then .m else if cls = 1 then .x else .v

/-- The task that LEA_SPUE shows for an access: of classes M and V. -/
def classTask (s : State) (p : Nat) (r : WReq) : Nat :=
  if r.cls = 0 ∨ r.cls = 3 then (match qFind s p (classUnit r.cls) r.ent with
    | some e => e.task
    | none => 0)
  else 0

/-- An uncorrectable word reaches its requester (R250). -/
def portError (p : Nat) (r : WReq) (s : State) : State :=
  match r.cls with
  | 2 => s
  | cls => match qFind s p (classUnit cls) r.ent with
    | none => s
    | some e =>
      if cls = 0 then mAbandon p e r.load s
      else if cls = 1 then (if e.op ≤ 0x03 then meshAbandon p e s else xAbandon p e s)
      else vAbandon p e s

/-- The last word of a class X request of operation n was served; the next one may be presented. -/
def xServed (p n : Nat) (write : Bool) (s : State) : State :=
  let s1 := match qFind s p .x n with
    | none => s
    | some e => if e.op ≤ 0x03 then meshServed p n write s else if xPending s p n then s else xDone p e s
  xPresent p write 1 s1

/-- The last word of a request was served. -/
def portServed (p : Nat) (r : WReq) (s : State) : State :=
  match r.cls with
  | 0 => mServed p r.ent r.load s
  | 1 => xServed p r.ent r.wr s
  | 2 => pServed p r.ent r.wr s
  | _ => vServed p r.ent r.load s

/-- r is the request that stands where q stands. -/
def sameReq (q r : WReq) : Bool := q.cls == r.cls && q.wr == r.wr && q.ent == r.ent && q.load == r.load && q.at_ == r.at_

/-- Take a served word out of its request; the request goes with its last word. -/
def takeWord (p : Nat) (r : WReq) (w : WWord) (s : State) : State :=
  let left := r.words.filter (fun x => x != w)
  let cut (q : WReq) : WReq := if sameReq r q then { q with words := left } else q
  let s1 := coreMod p (fun c => { c with reqs := if left.isEmpty then listDropFirst (sameReq r) c.reqs else c.reqs.map cut }) s
  if left.isEmpty then portServed p r s1 else s1

/-- Reads that stand for a word about to be written keep what it holds: one served in the same cycle returns it (R245). -/
def keepOld (p w : Nat) (s : State) : State :=
  let raw := spRaw s p w
  coreMod p (fun c => { c with reqs := c.reqs.map (fun q => if q.wr then q
    else { q with words := q.words.map (fun x => if x.word = w ∧ x.old.1 ≠ c.cyc + 1 then { x with old := (c.cyc + 1, raw) } else x) }) }) s

/-- A write of class V or X marks its word: what orders it for a reader comes later (R147, R176, R220). -/
def markWrite (p : Nat) (r : WReq) (w : Nat) (s : State) : State :=
  if r.cls = 1 ∨ r.cls = 3 then (match qFind s p (classUnit r.cls) r.ent with
    | some e => spWrote p w e.task (if r.cls = 3 then 1 else 2) s
    | none => s)
  else s

/-- Write a word; one that carries poison fails its check from then on (R359). -/
def portWrite (p : Nat) (r : WReq) (w : WWord) (s : State) : State :=
  let s1 := markWrite p r w.word (spWriteWord p w.word w.be w.val (r.cls + 1) (classTask s p r) (keepOld p w.word s))
  if w.bad then spPutRaw p w.word (badWord (spData s1 p w.word)) s1 else s1

/-- Read a word for request r: as it stood before a W-phase write of the same cycle (R245). -/
def portRead (p : Nat) (r : WReq) (w : WWord) (s : State) : Bool × Nat × State :=
  let get := spReadWord p w.word (r.cls + 1) (classTask s p r)
  if w.old.1 = (coreGet s p).cyc + 1 then
    let now := spRaw s p w.word
    let x := get (spPutRaw p w.word w.old.2 s)
    (x.1, x.2.1, coreMod p (fun c => { c with wb := c.wb.erase w.word }) (spPutRaw p w.word now x.2.2))
  else get s

/-- The reader code of a class (R147, R176, R220). -/
def classReader (cls : Nat) : Nat := if cls = 0 then 1 else if cls = 1 then 3 else 2

/-- A word read reaches its operation. -/
def wordGot (p : Nat) (r : WReq) (w d : Nat) (s : State) : State :=
  match qFind s p (classUnit r.cls) r.ent with
  | none => s
  | some e =>
    let x := spDeliver p w d (classReader r.cls) e.task e.bun s
    qGot p (classUnit r.cls) r.ent r.load w x.1 x.2

/-- Serve a word of request r. -/
def serveWord (p : Nat) (r : WReq) (w : WWord) (s : State) : State :=
  if r.wr then takeWord p r w (portWrite p r w s)
  else
    let x := portRead p r w s
    if r.cls = 2 then takeWord p r w (pGot p r.ent w x.2.1 x.1 x.2.2)
    else if x.1 then portError p r x.2.2
    else takeWord p r w (wordGot p r w.word x.2.1 x.2.2)

/-- LEA_SPBCNT counts where the watched port serves a word while another due word waits, but not in the cycle of a write of
LEA_SPBSEL (R258). -/
def countPort (p : Nat) (write : Bool) (bank region due : Nat) (s : State) : State :=
  let sel := rd s LEA_SPBSEL_region p
  if rdB s LEA_SPBSEL_dir p = write ∧ rd s LEA_SPBSEL_bank p = bank ∧ sel < 3 ∧ (!splitMode s p ∨ sel = region) ∧ 2 ≤ due ∧
      (coreGet s p).selCyc ≠ (coreGet s p).cyc + 1 then
    bump LEA_SPBCNT_count p s
  else s

/-- SP_WORD_SERVE: in a cycle of core c, the read or write port of a bank (and region) serves one word (R243). -/
def execSpWordServe (c : Nat) (write : Bool) (bank region : Nat) (s : State) : Result :=
  let p := pcore s c
  let ws := portWords s p write bank region
  .next (match portPick s p ws with
  | none => s
  | some x =>
    serveWord p x.1 x.2 (countPort p write bank region (ws.filter (fun y => !background s p y.1)).length s))

/-- SP_ECC_WRITEBACK: a word w of core c that was corrected is written back in a cycle in which its write port serves no other
word (R249). -/
def execSpEccWriteback (c w : Nat) (s : State) : Result :=
  let p := pcore s c
  .next (if (coreGet s p).wb.contains w ∧ (portWords s p true (bankOf s p w) (portRegion s p w)).isEmpty then
    coreMod p (fun c => { c with wb := c.wb.erase w }) (spPutRaw p w (word72 (spData s p w)) s)
  else s)

end Sys2Proof.Machine
end

