-- ==== Sys2Proof/Machine/Dispatch.lean ====
section
/-! DEFINITION. exec: one arm per command. -/

namespace Sys2Proof.Machine


/-- The effect of one command on everything but the queue. -/
def exec (i : Instr) (s : State) : Host.Outcome State Fault Refusal :=
  match i with
  | .registerWrite brand die off size data t draw => Sys2Proof.Machine.execRegisterWrite brand die off size data t draw s
  | .rcRead brand die off len t => Sys2Proof.Machine.execRcRead brand die off len t s
  | .belStart t => Sys2Proof.Machine.execBelStart t s
  | .bellEdge t => Sys2Proof.Machine.execBellEdge t s
  | .bellLoss t => Sys2Proof.Machine.execBellLoss t s
  | .internalTick t => Sys2Proof.Machine.execInternalTick t s
  | .flywheelExhausted t => Sys2Proof.Machine.execFlywheelExhausted t s
  | .relockLapse t => Sys2Proof.Machine.execRelockLapse t s
  | .ptpTick t => Sys2Proof.Machine.execPtpTick t s
  | .tickMoment mon => Sys2Proof.Machine.execTickMoment mon s
  | .tickPhase1 draw => Sys2Proof.Machine.execTickPhase1 draw s
  | .tickPhase2 ok status pin => Sys2Proof.Machine.execTickPhase2 ok status pin s
  | .pdkCreate n => Sys2Proof.Machine.execPdkCreate n s
  | .pdkDelete n => Sys2Proof.Machine.execPdkDelete n s
  | .pdkRegather n => Sys2Proof.Machine.execPdkRegather n s
  | .regatherDrainEnd n t => Sys2Proof.Machine.execRegatherDrainEnd n t s
  | .regatherClearDone n => Sys2Proof.Machine.execRegatherClearDone n s
  | .pdkVecWrite n k data => Sys2Proof.Machine.execPdkVecWrite n k data s
  | .sriovVfEnableChange enable num => Sys2Proof.Machine.execSriovVfEnableChange enable num s
  | .bundleIssue c => Sys2Proof.Machine.execBundleIssue c s
  | .taskStart c task => Sys2Proof.Machine.execTaskStart c task s
  | .taskResume c task => Sys2Proof.Machine.execTaskResume c task s
  | .taskStop c task => Sys2Proof.Machine.execTaskStop c task s
  | .matWld c => Sys2Proof.Machine.execMatWld c s
  | .matMma c => Sys2Proof.Machine.execMatMma c s
  | .matMms c => Sys2Proof.Machine.execMatMms c s
  | .matMmt c => Sys2Proof.Machine.execMatMmt c s
  | .mOpComplete c => Sys2Proof.Machine.execMOpComplete c s
  | .residueCheck c => Sys2Proof.Machine.execResidueCheck c s
  | .vecUn c => Sys2Proof.Machine.execVecUn c s
  | .vecBin c => Sys2Proof.Machine.execVecBin c s
  | .vecBins c => Sys2Proof.Machine.execVecBins c s
  | .vecRed c => Sys2Proof.Machine.execVecRed c s
  | .vecFill c => Sys2Proof.Machine.execVecFill c s
  | .vecEpi c => Sys2Proof.Machine.execVecEpi c s
  | .vecAccld c => Sys2Proof.Machine.execVecAccld c s
  | .vOpComplete c => Sys2Proof.Machine.execVOpComplete c s
  | .vwdataWrite brand c k data => Sys2Proof.Machine.execVwdataWrite brand c k data s
  | .spWordServe c wr bank region => Sys2Proof.Machine.execSpWordServe c wr bank region s
  | .spEccWriteback c w => Sys2Proof.Machine.execSpEccWriteback c w s
  | .spWindowAccess brand c wr off len data => Sys2Proof.Machine.execSpWindowAccess brand c wr off len data s
  | .spbselWrite c data => Sys2Proof.Machine.execSpbselWrite c data s
  | .routeSlot n => Sys2Proof.Machine.execRouteSlot n s
  | .holdConditionMet c => Sys2Proof.Machine.execHoldConditionMet c s
  | .hurdleHeld n => Sys2Proof.Machine.execHurdleHeld n s
  | .longHold n => Sys2Proof.Machine.execLongHold n s
  | .mshPut c => Sys2Proof.Machine.execMshPut c s
  | .mshGet c => Sys2Proof.Machine.execMshGet c s
  | .mshDrop c => Sys2Proof.Machine.execMshDrop c s
  | .mshCommit c eng => Sys2Proof.Machine.execMshCommit c eng s
  | .xOpComplete c eng => Sys2Proof.Machine.execXOpComplete c eng s
  | .mshRpdataAccess brand c wr data => Sys2Proof.Machine.execMshRpdataAccess brand c wr data s
  | .strmAcq c => Sys2Proof.Machine.execStrmAcq c s
  | .strmRel c => Sys2Proof.Machine.execStrmRel c s
  | .strmResume c => Sys2Proof.Machine.execStrmResume c s
  | .strmRearm c => Sys2Proof.Machine.execStrmRearm c s
  | .drvArm u k t => Sys2Proof.Machine.execDrvArm u k t s
  | .drvHalt u k => Sys2Proof.Machine.execDrvHalt u k s
  | .drvResume u k => Sys2Proof.Machine.execDrvResume u k s
  | .drvRearm u k => Sys2Proof.Machine.execDrvRearm u k s
  | .rearmTakeEffect u k t => Sys2Proof.Machine.execRearmTakeEffect u k t s
  | .drvRequestForm u t => Sys2Proof.Machine.execDrvRequestForm u t s
  | .translationWalk i0 => Sys2Proof.Machine.execTranslationWalk i0 s
  | .drvReadResponse i0 => Sys2Proof.Machine.execDrvReadResponse i0 s
  | .drvWriteAck i0 => Sys2Proof.Machine.execDrvWriteAck i0 s
  | .shareWindowStart cyc => Sys2Proof.Machine.execShareWindowStart cyc s
  | .shareGrant t cyc => Sys2Proof.Machine.execShareGrant t cyc s
  | .memoryRead i0 => Sys2Proof.Machine.execMemoryRead i0 s
  | .memoryWrite i0 => Sys2Proof.Machine.execMemoryWrite i0 s
  | .memoryScrub p => Sys2Proof.Machine.execMemoryScrub p s
  | .hostPathWrite i0 => Sys2Proof.Machine.execHostPathWrite i0 s
  | .hostPathRead i0 => Sys2Proof.Machine.execHostPathRead i0 s
  | .hostReadCompletion i0 ok ep data => Sys2Proof.Machine.execHostReadCompletion i0 ok ep data s
  | .hostWriteDiscard i0 => Sys2Proof.Machine.execHostWriteDiscard i0 s
  | .completionTimeout i0 => Sys2Proof.Machine.execCompletionTimeout i0 s
  | .bar0Access t f tag wr off len data draw => Sys2Proof.Machine.execBar0Access t f tag wr off len data draw s
  | .bar2Access tag wr off len data => Sys2Proof.Machine.execBar2Access tag wr off len data s
  | .translationCompletion i0 kind ta size r w => Sys2Proof.Machine.execTranslationCompletion i0 kind ta size r w s
  | .pageRequest => Sys2Proof.Machine.execPageRequest s
  | .prgResponse idx code => Sys2Proof.Machine.execPrgResponse idx code s
  | .invalidateRequest tag pasid base size => Sys2Proof.Machine.execInvalidateRequest tag pasid base size s
  | .invalidationStart => Sys2Proof.Machine.execInvalidationStart s
  | .invalidationDone => Sys2Proof.Machine.execInvalidationDone s
  | .whsSend c => Sys2Proof.Machine.execWhsSend c s
  | .whsCsend c => Sys2Proof.Machine.execWhsCsend c s
  | .whsOpen c => Sys2Proof.Machine.execWhsOpen c s
  | .whsListen c => Sys2Proof.Machine.execWhsListen c s
  | .whsClose c => Sys2Proof.Machine.execWhsClose c s
  | .whsRecv c => Sys2Proof.Machine.execWhsRecv c s
  | .whistleMessage i0 => Sys2Proof.Machine.execWhistleMessage i0 s
  | .spillDrain c key => Sys2Proof.Machine.execSpillDrain c key s
  | .openRequest i0 => Sys2Proof.Machine.execOpenRequest i0 s
  | .openReply i0 => Sys2Proof.Machine.execOpenReply i0 s
  | .closeMarker i0 => Sys2Proof.Machine.execCloseMarker i0 s
  | .whistleAck i0 => Sys2Proof.Machine.execWhistleAck i0 s
  | .busyRefusal i0 t => Sys2Proof.Machine.execBusyRefusal i0 t s
  | .whistleResend c sid t => Sys2Proof.Machine.execWhistleResend c sid t s
  | .whistleBrandFault i0 => Sys2Proof.Machine.execWhistleBrandFault i0 s
  | .whsRqpop c data => Sys2Proof.Machine.execWhsRqpop c data s
  | .tlySig c => Sys2Proof.Machine.execTlySig c s
  | .tlyWait c => Sys2Proof.Machine.execTlyWait c s
  | .tlyWatch c => Sys2Proof.Machine.execTlyWatch c s
  | .tlyRead c => Sys2Proof.Machine.execTlyRead c s
  | .tlyUnwatch c => Sys2Proof.Machine.execTlyUnwatch c s
  | .tallyAdd i0 => Sys2Proof.Machine.execTallyAdd i0 s
  | .tallyWaitRequest i0 => Sys2Proof.Machine.execTallyWaitRequest i0 s
  | .tallyWaitAnswer i0 => Sys2Proof.Machine.execTallyWaitAnswer i0 s
  | .tallyRefusal i0 => Sys2Proof.Machine.execTallyRefusal i0 s
  | .tlyCntWrite u i0 data => Sys2Proof.Machine.execTlyCntWrite u i0 data s
  | .tlyAddWrite u i0 data => Sys2Proof.Machine.execTlyAddWrite u i0 data s
  | .tlyWatchCancel u k => Sys2Proof.Machine.execTlyWatchCancel u k s
  | .byrGet c => Sys2Proof.Machine.execByrGet c s
  | .byrPut c => Sys2Proof.Machine.execByrPut c s
  | .byreGet i0 => Sys2Proof.Machine.execByreGet i0 s
  | .byrePut i0 => Sys2Proof.Machine.execByrePut i0 s
  | .byrHget brand d data => Sys2Proof.Machine.execByrHget brand d data s
  | .byrHput d data => Sys2Proof.Machine.execByrHput d data s
  | .byreCreate d j => Sys2Proof.Machine.execByreCreate d j s
  | .byreCreateDone d => Sys2Proof.Machine.execByreCreateDone d s
  | .byreDestroy d j => Sys2Proof.Machine.execByreDestroy d j s
  | .byreRebuild d j => Sys2Proof.Machine.execByreRebuild d j s
  | .byreRebuildDone d j => Sys2Proof.Machine.execByreRebuildDone d j s
  | .byreAudit d j => Sys2Proof.Machine.execByreAudit d j s
  | .byreAuditDone d => Sys2Proof.Machine.execByreAuditDone d s
  | .fldLoad n => Sys2Proof.Machine.execFldLoad n s
  | .hstFolddb n => Sys2Proof.Machine.execHstFolddb n s
  | .fldSwap n k => Sys2Proof.Machine.execFldSwap n k s
  | .fldVerify n => Sys2Proof.Machine.execFldVerify n s
  | .foldLoadDone n => Sys2Proof.Machine.execFoldLoadDone n s
  | .goldenDone n => Sys2Proof.Machine.execGoldenDone n s
  | .swapPlayDone n => Sys2Proof.Machine.execSwapPlayDone n s
  | .swapDropped n => Sys2Proof.Machine.execSwapDropped n s
  | .foldReloadDone n => Sys2Proof.Machine.execFoldReloadDone n s
  | .epochClose n => Sys2Proof.Machine.execEpochClose n s
  | .epochDecide n => Sys2Proof.Machine.execEpochDecide n s
  | .quench n => Sys2Proof.Machine.execQuench n s
  | .quenchDrainEnd n => Sys2Proof.Machine.execQuenchDrainEnd n s
  | .drainSend n => Sys2Proof.Machine.execDrainSend n s
  | .copyPrepared n => Sys2Proof.Machine.execCopyPrepared n s
  | .copyCommit n => Sys2Proof.Machine.execCopyCommit n s
  | .failover n => Sys2Proof.Machine.execFailover n s
  | .failoverRestoreDone n => Sys2Proof.Machine.execFailoverRestoreDone n s
  | .failOverNow n => Sys2Proof.Machine.execFailOverNow n s
  | .rePair n => Sys2Proof.Machine.execRePair n s
  | .unpair n => Sys2Proof.Machine.execUnpair n s
  | .walkerFrameRead d => Sys2Proof.Machine.execWalkerFrameRead d s
  | .walkerReload d ok => Sys2Proof.Machine.execWalkerReload d ok s
  | .walkerSliceEnd d => Sys2Proof.Machine.execWalkerSliceEnd d s
  | .musterRound d => Sys2Proof.Machine.execMusterRound d s
  | .musterCoreTestEnd p ok unit => Sys2Proof.Machine.execMusterCoreTestEnd p ok unit s
  | .musterSliceEnd b ok => Sys2Proof.Machine.execMusterSliceEnd b ok s
  | .musterSliceYield b => Sys2Proof.Machine.execMusterSliceYield b s
  | .musterStarved b => Sys2Proof.Machine.execMusterStarved b s
  | .columnPauseEnd => Sys2Proof.Machine.execColumnPauseEnd s
  | .energySample t spent outside pads peak held dyn leak run hold tj tjs tjm => Sys2Proof.Machine.execEnergySample t spent outside pads peak held dyn leak run hold tj tjs tjm s
  | .grantStale => Sys2Proof.Machine.execGrantStale s
  | .inletStale => Sys2Proof.Machine.execInletStale s
  | .telemetryCompare => Sys2Proof.Machine.execTelemetryCompare s
  | .smbalert st => Sys2Proof.Machine.execSmbalert st s
  | .grant v pec => Sys2Proof.Machine.execGrant v pec s
  | .inlet v pec => Sys2Proof.Machine.execInlet v pec s
  | .spent => Sys2Proof.Machine.execSpent s
  | .bell => Sys2Proof.Machine.execBell s
  | .limits => Sys2Proof.Machine.execLimits s
  | .recordWrite => Sys2Proof.Machine.execRecordWrite s
  | .recordCommit ok => Sys2Proof.Machine.execRecordCommit ok s
  | .commitWindowEnd => Sys2Proof.Machine.execCommitWindowEnd s
  | .fbkRselWrite data => Sys2Proof.Machine.execFbkRselWrite data s
  | .fbkFind data => Sys2Proof.Machine.execFbkFind data s
  | .fbkCalset data => Sys2Proof.Machine.execFbkCalset data s
  | .fbkCalRead => Sys2Proof.Machine.execFbkCalRead s
  | .ftfMark c => Sys2Proof.Machine.execFtfMark c s
  | .traceLineDeliver c => Sys2Proof.Machine.execTraceLineDeliver c s
  | .flush n => Sys2Proof.Machine.execFlush n s
  | .release n => Sys2Proof.Machine.execRelease n s
  | .dump n sp => Sys2Proof.Machine.execDump n sp s
  | .dumpDone n => Sys2Proof.Machine.execDumpDone n s
  | .sinkResume n => Sys2Proof.Machine.execSinkResume n s
  | .crookStopDone n => Sys2Proof.Machine.execCrookStopDone n s
  | .ringConfigure f kind k data => Sys2Proof.Machine.execRingConfigure f kind k data s
  | .submissionDoorbell f k t => Sys2Proof.Machine.execSubmissionDoorbell f k t s
  | .headDoorbell f kind k h => Sys2Proof.Machine.execHeadDoorbell f kind k h s
  | .submissionFetch f k ws => Sys2Proof.Machine.execSubmissionFetch f k ws s
  | .stageGetRetry f k ws => Sys2Proof.Machine.execStageGetRetry f k ws s
  | .nop f k => Sys2Proof.Machine.execNop f k s
  | .sqFence f k => Sys2Proof.Machine.execSqFence f k s
  | .tadd f k => Sys2Proof.Machine.execTadd f k s
  | .twait f k => Sys2Proof.Machine.execTwait f k s
  | .rearm f k => Sys2Proof.Machine.execRearm f k s
  | .stream f k => Sys2Proof.Machine.execStream f k s
  | .fold f k => Sys2Proof.Machine.execFold f k s
  | .completionPost f k t => Sys2Proof.Machine.execCompletionPost f k t s
  | .faultRecordPost f => Sys2Proof.Machine.execFaultRecordPost f s
  | .eventRecordPost => Sys2Proof.Machine.execEventRecordPost s
  | .vfFlr n => Sys2Proof.Machine.execVfFlr n s
  | .pfFlr => Sys2Proof.Machine.execPfFlr s
  | .linkDown => Sys2Proof.Machine.execLinkDown s
  | .linkUp t speed width flit => Sys2Proof.Machine.execLinkUp t speed width flit s
  | .perstAssert => Sys2Proof.Machine.execPerstAssert s
  | .perstDeassert => Sys2Proof.Machine.execPerstDeassert s
  | .d3hotEntry f => Sys2Proof.Machine.execD3hotEntry f s
  | .d0Return f => Sys2Proof.Machine.execD0Return f s
  | .configRequest t f tag wrt o be data => Sys2Proof.Machine.execConfigRequest t f tag wrt o be data s
  | .ethPortUp q => Sys2Proof.Machine.execEthPortUp q s
  | .ethPortDown q => Sys2Proof.Machine.execEthPortDown q s
  | .keepaliveSend j t => Sys2Proof.Machine.execKeepaliveSend j t s
  | .keepalive q t hi lo pkg => Sys2Proof.Machine.execKeepalive q t hi lo pkg s
  | .pathDeadTimeout j t => Sys2Proof.Machine.execPathDeadTimeout j t s
  | .data q hi lo pkg r op sq ack body data => Sys2Proof.Machine.execData q hi lo pkg r op sq ack body data s
  | .ack q t hi lo pkg r ack hold => Sys2Proof.Machine.execAck q t hi lo pkg r ack hold s
  | .refuse q t hi lo pkg r sq status ack => Sys2Proof.Machine.execRefuse q t hi lo pkg r sq status ack s
  | .frameDrop q => Sys2Proof.Machine.execFrameDrop q s
  | .retransmit i0 t => Sys2Proof.Machine.execRetransmit i0 t s
  | .routeTimeout r t => Sys2Proof.Machine.execRouteTimeout r t s
  | .routeWord0Write r data => Sys2Proof.Machine.execRouteWord0Write r data s
  | .pfcFrame q t vec quanta => Sys2Proof.Machine.execPfcFrame q t vec quanta s
  | .ptpSync t ofs => Sys2Proof.Machine.execPtpSync t ofs s
  | .ptpSyncLoss => Sys2Proof.Machine.execPtpSyncLoss s
  | .setEndpointId b op eid => Sys2Proof.Machine.execSetEndpointId b op eid s
  | .getEndpointId b => Sys2Proof.Machine.execGetEndpointId b s
  | .getEndpointUuid b => Sys2Proof.Machine.execGetEndpointUuid b s
  | .getMctpVersionSupport b typ => Sys2Proof.Machine.execGetMctpVersionSupport b typ s
  | .getMessageTypeSupport b => Sys2Proof.Machine.execGetMessageTypeSupport b s
  | .mctpResponseDrop b => Sys2Proof.Machine.execMctpResponseDrop b s
  | .gettid b => Sys2Proof.Machine.execGettid b s
  | .settid b v => Sys2Proof.Machine.execSettid b v s
  | .getpldmversion b ty => Sys2Proof.Machine.execGetpldmversion b ty s
  | .getpldmtypes b => Sys2Proof.Machine.execGetpldmtypes b s
  | .getpldmcommands b ty => Sys2Proof.Machine.execGetpldmcommands b ty s
  | .seteventreceiver b mode eid => Sys2Proof.Machine.execSeteventreceiver b mode eid s
  | .geteventreceiver b => Sys2Proof.Machine.execGeteventreceiver b s
  | .getsensorreading b i0 => Sys2Proof.Machine.execGetsensorreading b i0 s
  | .getstatesensorreadings b i0 => Sys2Proof.Machine.execGetstatesensorreadings b i0 s
  | .setstateeffecterstates b e v => Sys2Proof.Machine.execSetstateeffecterstates b e v s
  | .getpdrrepositoryinfo b => Sys2Proof.Machine.execGetpdrrepositoryinfo b s
  | .getpdr b h => Sys2Proof.Machine.execGetpdr b h s
  | .getdatetime b => Sys2Proof.Machine.execGetdatetime b s
  | .setdatetime b y m d h mi sec => Sys2Proof.Machine.execSetdatetime b y m d h mi sec s
  | .querydeviceidentifiers b => Sys2Proof.Machine.execQuerydeviceidentifiers b s
  | .getfirmwareparameters b => Sys2Proof.Machine.execGetfirmwareparameters b s
  | .requestupdate b => Sys2Proof.Machine.execRequestupdate b s
  | .passcomponenttable b id last => Sys2Proof.Machine.execPasscomponenttable b id last s
  | .updatecomponent b id ver svn size slot => Sys2Proof.Machine.execUpdatecomponent b id ver svn size slot s
  | .requestfirmwaredata b n pass => Sys2Proof.Machine.execRequestfirmwaredata b n pass s
  | .applycomplete => Sys2Proof.Machine.execApplycomplete s
  | .activatefirmware b self => Sys2Proof.Machine.execActivatefirmware b self s
  | .getstatus b => Sys2Proof.Machine.execGetstatus b s
  | .cancelupdatecomponent b => Sys2Proof.Machine.execCancelupdatecomponent b s
  | .cancelupdate b => Sys2Proof.Machine.execCancelupdate b s
  | .platformeventmessage t => Sys2Proof.Machine.execPlatformeventmessage t s
  | .platformEventRetry t => Sys2Proof.Machine.execPlatformEventRetry t s
  | .getVersion b => Sys2Proof.Machine.execGetVersion b s
  | .getCapabilities b => Sys2Proof.Machine.execGetCapabilities b s
  | .negotiateAlgorithms b asym hash => Sys2Proof.Machine.execNegotiateAlgorithms b asym hash s
  | .getDigests b => Sys2Proof.Machine.execGetDigests b s
  | .getCertificate b slot off len => Sys2Proof.Machine.execGetCertificate b slot off len s
  | .challenge b slot => Sys2Proof.Machine.execChallenge b slot s
  | .getMeasurements b i0 sign => Sys2Proof.Machine.execGetMeasurements b i0 sign s
  | .spdmUnsupportedRequest b => Sys2Proof.Machine.execSpdmUnsupportedRequest b s
  | .doeDiscovery i0 => Sys2Proof.Machine.execDoeDiscovery i0 s
  | .setOwner => Sys2Proof.Machine.execSetOwner s
  | .installKey => Sys2Proof.Machine.execInstallKey s
  | .revokeKey => Sys2Proof.Machine.execRevokeKey s
  | .advanceSvn => Sys2Proof.Machine.execAdvanceSvn s
  | .activate => Sys2Proof.Machine.execActivate s
  | .readBoard => Sys2Proof.Machine.execReadBoard s
  | .liveActivationDone t st => Sys2Proof.Machine.execLiveActivationDone t st s
  | .activationWatchdog t => Sys2Proof.Machine.execActivationWatchdog t s
  | .vauxGood t => Sys2Proof.Machine.execVauxGood t s
  | .vauxBrownout t => Sys2Proof.Machine.execVauxBrownout t s
  | .krstNAssert t => Sys2Proof.Machine.execKrstNAssert t s
  | .coldResetRelease t => Sys2Proof.Machine.execColdResetRelease t s
  | .clockValid t i0 draw => Sys2Proof.Machine.execClockValid t i0 draw s
  | .clockLoss t i0 => Sys2Proof.Machine.execClockLoss t i0 s
  | .memPgRise t => Sys2Proof.Machine.execMemPgRise t s
  | .memPgFall t => Sys2Proof.Machine.execMemPgFall t s
  | .railPowerGood t r w => Sys2Proof.Machine.execRailPowerGood t r w s
  | .memoryTrainingDone gib rates lpcamm fails => Sys2Proof.Machine.execMemoryTrainingDone gib rates lpcamm fails s
  | .startupMusterDone t draw fails blocks => Sys2Proof.Machine.execStartupMusterDone t draw fails blocks s
  | .startupRetry t => Sys2Proof.Machine.execStartupRetry t s
  | .shutDown t cause rail fast => Sys2Proof.Machine.execShutDown t cause rail fast s
  | .shutdownRecordsCommitted => Sys2Proof.Machine.execShutdownRecordsCommitted s
  | .shutdownSuppliesOff => Sys2Proof.Machine.execShutdownSuppliesOff s
  | .standby => Sys2Proof.Machine.execStandby s
  | .wake t draw => Sys2Proof.Machine.execWake t draw s
  | .thermalTrip t => Sys2Proof.Machine.execThermalTrip t s
  | .k0Overtemp t => Sys2Proof.Machine.execK0Overtemp t s
  | .k0OvertempRelease => Sys2Proof.Machine.execK0OvertempRelease s
  | .bypass => Sys2Proof.Machine.execBypass s
  | .idcode => Sys2Proof.Machine.execIdcode s
  | .samplePreload on main inOn inMain => Sys2Proof.Machine.execSamplePreload on main inOn inMain s
  | .extest on main inOn inMain => Sys2Proof.Machine.execExtest on main inOn inMain s
  | .clamp => Sys2Proof.Machine.execClamp s
  | .highz => Sys2Proof.Machine.execHighz s
  | .extestPulse on main inOn inMain => Sys2Proof.Machine.execExtestPulse on main inOn inMain s
  | .extestTrain on main inOn inMain => Sys2Proof.Machine.execExtestTrain on main inOn inMain s
  | .pdkCommandDone n => Sys2Proof.Machine.execPdkCommandDone n s
  | .powerGoodTimeout t => Sys2Proof.Machine.execPowerGoodTimeout t s
  | .bankControllerFault b => Sys2Proof.Machine.execBankControllerFault b s
  | .platformeventmessageResponse k => Sys2Proof.Machine.execPlatformeventmessageResponse k s
  | .l0pWidthChange w => Sys2Proof.Machine.execL0pWidthChange w s
  | .byreReclaimDone d j => Sys2Proof.Machine.execByreReclaimDone d j s
  | .foldVerifyDone n => Sys2Proof.Machine.execFoldVerifyDone n s
  | .smbusSclLowTimeout b => Sys2Proof.Machine.execSmbusSclLowTimeout b s
  | .pmbusRetry r ok status pin => Sys2Proof.Machine.execPmbusRetry r ok status pin s
  | .afterTripCooled => Sys2Proof.Machine.execAfterTripCooled s

end Sys2Proof.Machine
end

