-- ==== Sys2Proof/Safety.lean ====
section
/-! DEFINITION. What holds in every state of a safe run: the canonical form of the register map and of external memory, and the
bounds the spec sets for the event calendar (R84) and the Flockbook's staging ring (R608). -/

namespace Sys2Proof.Machine

/-- The register map is in its canonical form: keys rising, no entry equal to its reset value. -/
def Registers.wf (s : State) : Bool := mapWf regDefault s.regs

/-- External memory is in its canonical form: addresses rising, no entry equal to what an unlisted byte reads as (R830, log 7). -/
def Memory.wf (s : State) : Bool := mapWf (memDefault s) s.mem

/-- The invariant of the machine. -/
structure Inv (s : State) : Prop where
  regs : Registers.wf s = true
  mem : Memory.wf s = true
  calendar : s.bell.cal.length ≤ 256
  staging : s.fbk.staging.length ≤ 64

/-- A state no command can turn into a stop: every outcome of a command is a next state. -/
def NeverStops (s : State) : Prop := ∀ c : Instr, ∃ t, exec c s = .next t

end Sys2Proof.Machine
end

