-- ==== Sys2Proof/WellFormed.lean ====
section
/-! DEFINITION. Well-formed commands: operands within the ranges the spec gives what they name (log 9). Every meaning is defined on the
others too. -/

namespace Sys2Proof

/-- A stream context: unit u below 2,048 is a core with 32 contexts, 2,048 and 2,049 are the M dies with 16,384. -/
def ctxWf (u k : Nat) : Bool := (u < 2048 && k < 32) || ((u == 2048 || u == 2049) && k < 16384)

/-- A Tally unit and a counter of it: a Lea die's, or the package's (R422). -/
def tlyWf (u i : Nat) : Bool := (u < 8 && i < 4096) || (u == 11 && i < 1024)

/-- A physical core (R41). -/
def pcoreWf (p : Nat) : Bool := p < 4096 && p % 32 ≤ 16

/-- The command is well formed. -/
def Instr.wf (i : Instr) : Bool :=
  match i with
  | .registerWrite brand die off size _ _ _ => decide (brand < 256) && decide (die < 16) && decide (off < 0x1000000) && [1, 2, 4, 8].contains size
  | .rcRead brand die off len _ => decide (brand < 256) && decide (die < 16) && decide (off < 0x1000000) && decide (0 < len)
  | .belStart _ => true
  | .bellEdge _ => true
  | .bellLoss _ => true
  | .internalTick _ => true
  | .flywheelExhausted _ => true
  | .relockLapse _ => true
  | .ptpTick _ => true
  | .tickMoment _ => true
  | .tickPhase1 _ => true
  | .tickPhase2 _ _ _ => true
  | .pdkCreate n => decide (n < 64)
  | .pdkDelete n => decide (n < 64)
  | .pdkRegather n => decide (n < 64)
  | .regatherDrainEnd n _ => decide (n < 64)
  | .regatherClearDone n => decide (n < 64)
  | .pdkVecWrite n k _ => decide (n < 64) && decide (k < 16)
  | .sriovVfEnableChange _ num => decide (num ≤ 64)
  | .bundleIssue c => decide (c < 2048)
  | .taskStart c task => decide (c < 2048) && decide (task < 4)
  | .taskResume c task => decide (c < 2048) && decide (task < 4)
  | .taskStop c task => decide (c < 2048) && decide (task < 4)
  | .matWld c => decide (c < 2048)
  | .matMma c => decide (c < 2048)
  | .matMms c => decide (c < 2048)
  | .matMmt c => decide (c < 2048)
  | .mOpComplete c => decide (c < 2048)
  | .residueCheck c => decide (c < 2048)
  | .vecUn c => decide (c < 2048)
  | .vecBin c => decide (c < 2048)
  | .vecBins c => decide (c < 2048)
  | .vecRed c => decide (c < 2048)
  | .vecFill c => decide (c < 2048)
  | .vecEpi c => decide (c < 2048)
  | .vecAccld c => decide (c < 2048)
  | .vOpComplete c => decide (c < 2048)
  | .vwdataWrite brand c k _ => decide (brand < 256) && decide (c < 2048) && decide (k < 8)
  | .spWordServe c _ bank region => decide (c < 2048) && decide (bank < 32) && decide (region < 3)
  | .spEccWriteback c w => decide (c < 2048) && decide (w < 131072)
  | .spWindowAccess brand c _ off len _ => decide (brand < 256) && decide (c < 2048) && decide (off < 0x100000) && decide (0 < len) && decide (len ≤ 512)
  | .spbselWrite c _ => decide (c < 2048)
  | .routeSlot n => decide (n < 64)
  | .holdConditionMet c => decide (c < 2048)
  | .hurdleHeld n => decide (n < 64)
  | .longHold n => decide (n < 64)
  | .mshPut c => decide (c < 2048)
  | .mshGet c => decide (c < 2048)
  | .mshDrop c => decide (c < 2048)
  | .mshCommit c eng => decide (c < 2048) && decide (eng < 2)
  | .xOpComplete c eng => decide (c < 2048) && decide (eng < 5)
  | .mshRpdataAccess brand c _ _ => decide (brand < 256) && decide (c < 2048)
  | .strmAcq c => decide (c < 2048)
  | .strmRel c => decide (c < 2048)
  | .strmResume c => decide (c < 2048)
  | .strmRearm c => decide (c < 2048)
  | .drvArm u k _ => ctxWf u k
  | .drvHalt u k => ctxWf u k
  | .drvResume u k => ctxWf u k
  | .drvRearm u k => ctxWf u k
  | .rearmTakeEffect u k _ => ctxWf u k
  | .drvRequestForm u _ => decide (u < 2050)
  | .translationWalk _ => true
  | .drvReadResponse _ => true
  | .drvWriteAck _ => true
  | .shareWindowStart _ => true
  | .shareGrant t _ => decide (t < 26)
  | .memoryRead _ => true
  | .memoryWrite _ => true
  | .memoryScrub p => decide (p < 24)
  | .hostPathWrite _ => true
  | .hostPathRead _ => true
  | .hostReadCompletion _ _ _ _ => true
  | .hostWriteDiscard _ => true
  | .completionTimeout _ => true
  | .bar0Access _ f _ _ off len _ _ => decide (f < 65) && decide (0 < len) && decide (off + len ≤ (if f = 0 then 0x4000000 else 0x1000000))
  | .bar2Access _ _ off len _ => decide (0 < len) && decide (off + len ≤ 2 ^ 40)
  | .translationCompletion _ kind _ _ _ _ => decide (kind < 3)
  | .pageRequest => true
  | .prgResponse idx _ => decide (idx < 512)
  | .invalidateRequest _ pasid _ _ => decide (pasid < 2 ^ 21)
  | .invalidationStart => true
  | .invalidationDone => true
  | .whsSend c => decide (c < 2048)
  | .whsCsend c => decide (c < 2048)
  | .whsOpen c => decide (c < 2048)
  | .whsListen c => decide (c < 2048)
  | .whsClose c => decide (c < 2048)
  | .whsRecv c => decide (c < 2048)
  | .whistleMessage _ => true
  | .spillDrain c key => decide (c < 2048) && decide (key < 16)
  | .openRequest _ => true
  | .openReply _ => true
  | .closeMarker _ => true
  | .whistleAck _ => true
  | .busyRefusal _ _ => true
  | .whistleResend c _ _ => decide (c < 2048)
  | .whistleBrandFault _ => true
  | .whsRqpop c _ => decide (c < 2048)
  | .tlySig c => decide (c < 2048)
  | .tlyWait c => decide (c < 2048)
  | .tlyWatch c => decide (c < 2048)
  | .tlyRead c => decide (c < 2048)
  | .tlyUnwatch c => decide (c < 2048)
  | .tallyAdd _ => true
  | .tallyWaitRequest _ => true
  | .tallyWaitAnswer _ => true
  | .tallyRefusal _ => true
  | .tlyCntWrite u i _ => tlyWf u i
  | .tlyAddWrite u i _ => tlyWf u i
  | .tlyWatchCancel u k => tlyWf u (4 * k)
  | .byrGet c => decide (c < 2048)
  | .byrPut c => decide (c < 2048)
  | .byreGet _ => true
  | .byrePut _ => true
  | .byrHget brand d _ => decide (brand < 256) && decide (d < 2)
  | .byrHput d _ => decide (d < 2)
  | .byreCreate d j => decide (d < 2) && decide (j < 256)
  | .byreCreateDone d => decide (d < 2)
  | .byreDestroy d j => decide (d < 2) && decide (j < 256)
  | .byreRebuild d j => decide (d < 2) && decide (j < 256)
  | .byreRebuildDone d j => decide (d < 2) && decide (j < 256)
  | .byreAudit d j => decide (d < 2) && decide (j < 256)
  | .byreAuditDone d => decide (d < 2)
  | .fldLoad n => decide (n < 64)
  | .hstFolddb n => decide (n < 64)
  | .fldSwap n k => decide (n < 64) && decide (k < 16)
  | .fldVerify n => decide (n < 64)
  | .foldLoadDone n => decide (n < 64)
  | .goldenDone n => decide (n < 64)
  | .swapPlayDone n => decide (n < 64)
  | .swapDropped n => decide (n < 64)
  | .foldReloadDone n => decide (n < 64)
  | .epochClose n => decide (n < 64)
  | .epochDecide n => decide (n < 64)
  | .quench n => decide (n < 64)
  | .quenchDrainEnd n => decide (n < 64)
  | .drainSend n => decide (n < 64)
  | .copyPrepared n => decide (n < 64)
  | .copyCommit n => decide (n < 64)
  | .failover n => decide (n < 64)
  | .failoverRestoreDone n => decide (n < 64)
  | .failOverNow n => decide (n < 64)
  | .rePair n => decide (n < 64)
  | .unpair n => decide (n < 64)
  | .walkerFrameRead d => decide (d < 8)
  | .walkerReload d _ => decide (d < 8)
  | .walkerSliceEnd d => decide (d < 8)
  | .musterRound d => decide (d < 8)
  | .musterCoreTestEnd p _ unit => pcoreWf p && decide (unit < 16)
  | .musterSliceEnd b _ => decide (b < 37)
  | .musterSliceYield b => decide (b < 37)
  | .musterStarved b => decide (b < 37)
  | .columnPauseEnd => true
  | .energySample _ _ _ _ _ _ _ _ _ _ _ _ _ => true
  | .grantStale => true
  | .inletStale => true
  | .telemetryCompare => true
  | .smbalert _ => true
  | .grant v _ => decide (v < 65536)
  | .inlet v _ => decide (v < 65536)
  | .spent => true
  | .bell => true
  | .limits => true
  | .recordWrite => true
  | .recordCommit _ => true
  | .commitWindowEnd => true
  | .fbkRselWrite _ => true
  | .fbkFind _ => true
  | .fbkCalset _ => true
  | .fbkCalRead => true
  | .ftfMark c => decide (c < 2048)
  | .traceLineDeliver c => decide (c < 2048)
  | .flush n => decide (n < 64)
  | .release n => decide (n < 64)
  | .dump n _ => decide (n < 64)
  | .dumpDone n => decide (n < 64)
  | .sinkResume n => decide (n < 64)
  | .crookStopDone n => decide (n < 64)
  | .ringConfigure f kind k _ => decide (f < 65) && decide (kind < 4) && decide (k < 8)
  | .submissionDoorbell f k t => decide (f < 65) && decide (k < 8) && decide (t < 2 ^ 20)
  | .headDoorbell f kind k h => decide (f < 65) && decide (0 < kind) && decide (kind < 4) && decide (k < 8) && decide (h < 2 ^ 20)
  | .submissionFetch f k _ => decide (f < 65) && decide (k < 8)
  | .stageGetRetry f k _ => decide (f < 65) && decide (k < 8)
  | .nop f k => decide (f < 65) && decide (k < 8)
  | .sqFence f k => decide (f < 65) && decide (k < 8)
  | .tadd f k => decide (f < 65) && decide (k < 8)
  | .twait f k => decide (f < 65) && decide (k < 8)
  | .rearm f k => decide (f < 65) && decide (k < 8)
  | .stream f k => decide (f < 65) && decide (k < 8)
  | .fold f k => decide (f < 65) && decide (k < 8)
  | .completionPost f k _ => decide (f < 65) && decide (k < 8)
  | .faultRecordPost f => decide (f < 65)
  | .eventRecordPost => true
  | .vfFlr n => decide (n < 64)
  | .pfFlr => true
  | .linkDown => true
  | .linkUp _ speed width _ => decide (0 < speed) && decide (speed ≤ 6) && [1, 2, 4, 8, 16].contains width
  | .perstAssert => true
  | .perstDeassert => true
  | .d3hotEntry f => decide (f < 65)
  | .d0Return f => decide (f < 65)
  | .configRequest _ f _ _ o be _ => decide (f < 65) && decide (o < 4096) && decide (o % 4 = 0) && decide (be < 16)
  | .ethPortUp q => decide (q < 8)
  | .ethPortDown q => decide (q < 8)
  | .keepaliveSend j _ => decide (j < 256)
  | .keepalive q _ _ _ _ => decide (q < 8)
  | .pathDeadTimeout j _ => decide (j < 256)
  | .data q _ _ _ r op _ _ _ _ => decide (q < 8) && decide (r < 2048) && decide (op < 256)
  | .ack q _ _ _ _ r _ _ => decide (q < 8) && decide (r < 2048)
  | .refuse q _ _ _ _ r _ _ _ => decide (q < 8) && decide (r < 2048)
  | .frameDrop q => decide (q < 8)
  | .retransmit _ _ => true
  | .routeTimeout r _ => decide (r < 2048)
  | .routeWord0Write r _ => decide (r < 2048)
  | .pfcFrame q _ vec _ => decide (q < 8) && decide (vec < 256)
  | .ptpSync _ _ => true
  | .ptpSyncLoss => true
  | .setEndpointId b _ _ => decide (b < 3)
  | .getEndpointId b => decide (b < 3)
  | .getEndpointUuid b => decide (b < 3)
  | .getMctpVersionSupport b _ => decide (b < 3)
  | .getMessageTypeSupport b => decide (b < 3)
  | .mctpResponseDrop b => decide (b < 3)
  | .gettid b => decide (b < 3)
  | .settid b _ => decide (b < 3)
  | .getpldmversion b _ => decide (b < 3)
  | .getpldmtypes b => decide (b < 3)
  | .getpldmcommands b _ => decide (b < 3)
  | .seteventreceiver b _ _ => decide (b < 3)
  | .geteventreceiver b => decide (b < 3)
  | .getsensorreading b i => decide (b < 3) && decide (i < 65536)
  | .getstatesensorreadings b i => decide (b < 3) && decide (i < 65536)
  | .setstateeffecterstates b _ _ => decide (b < 3)
  | .getpdrrepositoryinfo b => decide (b < 3)
  | .getpdr b _ => decide (b < 3)
  | .getdatetime b => decide (b < 3)
  | .setdatetime b _ _ _ _ _ _ => decide (b < 3)
  | .querydeviceidentifiers b => decide (b < 3)
  | .getfirmwareparameters b => decide (b < 3)
  | .requestupdate b => decide (b < 3)
  | .passcomponenttable b _ _ => decide (b < 3)
  | .updatecomponent b _ _ _ _ _ => decide (b < 3)
  | .requestfirmwaredata b _ _ => decide (b < 3)
  | .applycomplete => true
  | .activatefirmware b _ => decide (b < 3)
  | .getstatus b => decide (b < 3)
  | .cancelupdatecomponent b => decide (b < 3)
  | .cancelupdate b => decide (b < 3)
  | .platformeventmessage _ => true
  | .platformEventRetry _ => true
  | .getVersion b => decide (b < 3)
  | .getCapabilities b => decide (b < 3)
  | .negotiateAlgorithms b _ _ => decide (b < 3)
  | .getDigests b => decide (b < 3)
  | .getCertificate b _ _ _ => decide (b < 3)
  | .challenge b _ => decide (b < 3)
  | .getMeasurements b _ _ => decide (b < 3)
  | .spdmUnsupportedRequest b => decide (b < 3)
  | .doeDiscovery _ => true
  | .setOwner => true
  | .installKey => true
  | .revokeKey => true
  | .advanceSvn => true
  | .activate => true
  | .readBoard => true
  | .liveActivationDone _ _ => true
  | .activationWatchdog _ => true
  | .vauxGood _ => true
  | .vauxBrownout _ => true
  | .krstNAssert _ => true
  | .coldResetRelease _ => true
  | .clockValid _ i _ => decide (i < 4)
  | .clockLoss _ i => decide (i < 4)
  | .memPgRise _ => true
  | .memPgFall _ => true
  | .railPowerGood _ r w => decide (r < 9) && decide (w < 65536)
  | .memoryTrainingDone gib rates _ _ => [4, 8, 12, 16, 24, 32].contains gib && decide (rates.length = 24) && !rates.any (2 < ·)
  | .startupMusterDone _ _ _ _ => true
  | .startupRetry _ => true
  | .shutDown _ cause rail _ => decide (0 < cause) && decide (cause ≤ 6) && decide (rail < 9)
  | .shutdownRecordsCommitted => true
  | .shutdownSuppliesOff => true
  | .standby => true
  | .wake _ _ => true
  | .thermalTrip _ => true
  | .k0Overtemp _ => true
  | .k0OvertempRelease => true
  | .bypass => true
  | .idcode => true
  | .samplePreload _ _ _ _ => true
  | .extest _ _ _ _ => true
  | .clamp => true
  | .highz => true
  | .extestPulse _ _ _ _ => true
  | .extestTrain _ _ _ _ => true
  | .pdkCommandDone n => decide (n < 64)
  | .powerGoodTimeout _ => true
  | .bankControllerFault b => decide (b < 2)
  | .platformeventmessageResponse _ => true
  | .l0pWidthChange _ => true
  | .byreReclaimDone d j => decide (d < 2) && decide (j < 256)
  | .foldVerifyDone n => decide (n < 64)
  | .smbusSclLowTimeout b => decide (b < 2)
  | .pmbusRetry r _ status pin => decide (r < 9) && decide (status < 65536) && decide (pin < 65536)
  | .afterTripCooled => true

end Sys2Proof
end

