-- ==== Sys2Proof/Certificates/Slice0/Obligations.lean ====
section
/-! DEFINITION. Statements for the provers: the machine as a whole, rules and frames, then the completion of every command, family by family
in the order of the spec's chapters. -/

open Sys2Proof Sys2Proof.Machine

/-- A step takes the command at the front of the queue and runs it on the state with the queue's rest (the form the host gives a block). -/
def Obligations.StepRunsFront : Prop :=
  ∀ (s : State) (c : Instr) (cs : List Instr), step { s with pending := c :: cs } = exec c { s with pending := cs }

/-- A step from any state in which the register map and external memory are canonical and the calendar and the staging ring are within their bounds leads to such a state. -/
def Obligations.StepKeepsInv : Prop :=
  ∀ s t : State, Inv s → step s = .next t → Inv t

/-- The reset state meets the invariant. -/
def Obligations.ResetInv : Prop :=
  Inv State.reset

/-- No command touches the queue of waiting commands. -/
def Obligations.QueueIsTheSenders : Prop :=
  ∀ (c : Instr) (s t : State), exec c s = .next t → t.pending = s.pending

/-- Time only goes forward (log 5). -/
def Obligations.TimeNeverRunsBack : Prop :=
  ∀ (c : Instr) (s t : State), exec c s = .next t → s.now ≤ t.now

/-- No command stops the block: the spec gives every row an effect. -/
def Obligations.EveryCommandAnswers : Prop :=
  ∀ s : State, NeverStops s

/-- SET_OWNER of a mailbox that may take it writes the owner digest from SHP_MBDATA where none is set, and is refused with result 3 where one is; whatever the command, an owner digest that is set stays as it is (R735). -/
def Obligations.OwnerIsSetOnce : Prop :=
  (∀ s : State, rdB s SHP_MBSTAT_busy 0 = false → answers s 1 = true → activating s = false → s.mgmt.owner = [] →
    ∃ t, exec .setOwner s = .next t ∧ t.mgmt.owner = (List.range 6).map (mbWord s) ∧ rd t SHP_MBSTAT_result 0 = 0) ∧
  (∀ s : State, rdB s SHP_MBSTAT_busy 0 = false → answers s 1 = true → activating s = false → s.mgmt.owner ≠ [] →
    ∃ t, exec .setOwner s = .next t ∧ t.mgmt.owner = s.mgmt.owner ∧ rd t SHP_MBSTAT_result 0 = 3) ∧
  (∀ (c : Instr) (s t : State), exec c s = .next t → s.mgmt.owner ≠ [] → t.mgmt.owner = s.mgmt.owner)

/-- No command lowers the fused security version; ADVANCE_SVN leaves it at no more than the running firmware's version or where it was; an image below it passes no check of the boot ROM (R731, R733). -/
def Obligations.FusedVersionOnlyRises : Prop :=
  (∀ (c : Instr) (s t : State), exec c s = .next t → s.mgmt.fusedSvn ≤ t.mgmt.fusedSvn) ∧
  (∀ s : State, (mbAdvance s).2.mgmt.fusedSvn = s.mgmt.fusedSvn ∨ (mbAdvance s).2.mgmt.fusedSvn ≤ rd s SHP_FWVER_fw_svn 0) ∧
  (∀ (s : State) (k : Nat), (slotOf s k).fsvn < s.mgmt.fusedSvn → firmwareOk s k = false) ∧
  (∀ (s : State) (k : Nat), (slotOf s k).lsvn < s.mgmt.fusedSvn → loaderOk s k = false)

/-- EXTEST, CLAMP, HIGHZ, EXTEST_PULSE and EXTEST_TRAIN select their instruction while the package is in Keeper (0), Recovery (6) or Standby (3); in any other state each does what BYPASS does, and SHP_STRAP.scan_refused is set (R812). The TAP works where VAUX is good and no cold reset is in progress. -/
def Obligations.LandDriversOnlyWhereAllowed : Prop :=
  (∀ (s : State) (on main a b : Nat), tapOn s = true → (pwrState s = 0 ∨ pwrState s = 6 ∨ pwrState s = 3) →
    ((∃ t, exec (.extest on main a b) s = .next t ∧ t.tap.ir = 3) ∧
     (∃ t, exec (.clamp) s = .next t ∧ t.tap.ir = 4) ∧
     (∃ t, exec (.highz) s = .next t ∧ t.tap.ir = 5) ∧
     (∃ t, exec (.extestPulse on main a b) s = .next t ∧ t.tap.ir = 6) ∧
     (∃ t, exec (.extestTrain on main a b) s = .next t ∧ t.tap.ir = 7)))
  ∧ (∀ (s : State) (on main a b : Nat), tapOn s = true → ¬ (pwrState s = 0 ∨ pwrState s = 6 ∨ pwrState s = 3) →
    (∀ c ∈ [.extest on main a b, .clamp, .highz, .extestPulse on main a b, .extestTrain on main a b],
      exec c s = exec .bypass (wr SHP_STRAP_scan_refused 0 1 s)) ∧
    rd (wr SHP_STRAP_scan_refused 0 1 s) SHP_STRAP_scan_refused 0 = 1 ∧
    ∃ t, exec .bypass (wr SHP_STRAP_scan_refused 0 1 s) = .next t ∧ t.tap.ir = 0 ∧ t.regs = (wr SHP_STRAP_scan_refused 0 1 s).regs)

/-- What a write and a read do to each bit of a register of any block (R4, R7, R10, R56): a write sets the bits of an RW field, clears those of a W1C field where it is 1, and leaves every other field and every reserved bit; a read clears an RC field it covers whole and nothing else. -/
def Obligations.AccessCodes : Prop :=
  ∀ (b : Blk) (off : Nat) (r : RegD) (base : Nat), regAt b off = some (r, base) →
    (∀ (old data : Word) (k : Nat), (mergeWrite r.fields old data).getLsbD k =
      match r.fields.find? (fun f => decide (f.lo ≤ k) && decide (k ≤ f.hi)) with
      | none => old.getLsbD k
      | some f => if f.acc = .rw then data.getLsbD k else if f.acc = .w1c then old.getLsbD k && !data.getLsbD k else old.getLsbD k) ∧
    (∀ (w : Word) (lo hi k : Nat), (clearRead r.fields lo hi w).getLsbD k =
      match r.fields.find? (fun f => decide (f.lo ≤ k) && decide (k ≤ f.hi)) with
      | none => w.getLsbD k
      | some f => if f.acc = .rc ∧ lo ≤ f.lo / 8 ∧ f.hi / 8 < hi then false else w.getLsbD k)

/-- A read of bytes of a block that name no register gives 0 for each and changes nothing; a write that meets no register changes nothing (R823). -/
def Obligations.ReservedOffsetsReadZero : Prop :=
  (∀ (s : State) (b : Blk) (inst off len : Nat), (∀ k, k < len → regAt b (off + k) = none) →
    regRead b inst off len s = (List.replicate len 0, s)) ∧
  (∀ (s : State) (brand : Nat) (b : Blk) (inst off size t draw : Nat) (data : Word), (∀ k, k < size → regAt b (off + k) = none) →
    regWrite brand b inst off size data t draw s = s)

/-- A write of a brand that a gate refuses changes nothing but the capture registers of the refusing die, whose counter rises by one up to its
limit, and is acknowledged with the refusal's status (R356, R357); accesses that waited go first. The register map is in its canonical form. -/
def Obligations.GateRefusalOnlyCaptures : Prop :=
  ∀ (s : State) (brand die off size t draw : Nat) (data : Word),
    let v := accFlush (atTime t s)
    let d := if die < 12 then die else brandDie brand 10
    let step := csrGate v brand die off size true
    let cnt := (if step = 2 then GAT_AFCNT_count else GAT_BFCNT_count).on (gatBlk d)
    Registers.wf v = true → (die < 11 → mainPowered v = true) → step ≠ 0 →
    ∃ u, exec (.registerWrite brand die off size data t draw) s = .next (emit .ack [brand, die, off, refuseStatus step] u) ∧ (∃ m, u = { v with regs := m }) ∧
      rd u cnt d = Nat.min (rd v cnt d + 1) (fldMax cnt) ∧
      (∀ (b : Blk) (i o : Nat), (∀ f ∈ [GAT_BFINFO_valid, GAT_BFADDR_addr, GAT_BFCNT_count, GAT_AFCNT_count], regKey b i o ≠ regKey (gatBlk d) d f.off) →
        rdW u b i o = rdW v b i o)

/-- A write that reaches a register whose block refuses it leaves every register of the instance but its header's refusal registers, and everything else, as it was; it sets the refusal flag and counts (R6, R64, R66). SHP_DEVID and SHP_RATING take any write without a trace; the slot of MSH_RPDATA advances on every access. -/
def Obligations.RefusedWriteChangesNothing : Prop :=
  ∀ (s : State) (brand : Nat) (b : Blk) (inst off size o t draw : Nat) (data : Word) (r : RegD) (why : RefuseReason), Registers.wf s = true →
    ¬ (b = .shp ∧ o < 8) → ¬ (b = .msh ∧ o = 0x14) → touched b off size = [(r, o)] → widthOk off size [(r, o)] = true →
    regJudge s b inst o r (partData off o r data) = some why →
    let u := regWrite brand b inst off size data t draw s
    (∃ m, u = { s with regs := m }) ∧ rdB u (hdr b HDR_REFUSE_refused) inst = true ∧
    (∀ (c : Blk) (i k : Nat), (∀ f ∈ [HDR_REFUSE_refused, HDR_REFADDR_offset, HDR_REFCNT_count], regKey c i k ≠ regKey b inst (hdr b f).off) →
      rdW u c i k = rdW s c i k)

/-- After a write of external memory each byte it covers reads as written, and every other byte as before (R354). Memory is in its canonical form. -/
def Obligations.MemoryReadsWhatWasWritten : Prop :=
  ∀ (s : State) (a x : Nat) (bs : List Nat) (pfs : List Bool), Memory.wf s = true →
    memByte (memWrite a bs pfs s) x = if a ≤ x ∧ x < a + bs.length then bs.getD (x - a) 0 % 256 else memByte s x

/-- The requests that only ask (MCTP control, PLDM and SPDM queries, DOE discovery) change nothing but what leaves the package: every register, every byte of memory and all other state stay (R721, R724, R728). -/
def Obligations.AnswersChangeNothing : Prop :=
  ∀ (s t : State) (c : Instr) (b k m n : Nat), c ∈ ([
      .getEndpointId b, .getEndpointUuid b, .getMctpVersionSupport b k, .getMessageTypeSupport b, .gettid b,
      .getpldmversion b k, .getpldmtypes b, .getpldmcommands b k, .geteventreceiver b, .getsensorreading b k,
      .getstatesensorreadings b k, .getpdrrepositoryinfo b, .getpdr b k, .getdatetime b, .querydeviceidentifiers b,
      .getfirmwareparameters b, .getstatus b, .getDigests b, .getCertificate b k m n, .spdmUnsupportedRequest b,
      .doeDiscovery k] : List Instr) →
    exec c s = .next t → (∃ o, t = { s with outbox := o }) ∧ ∀ a, memByte t a = memByte s a

/-- Starting, resuming and stopping a task, and starting a vector, mesh, re-arm or mark operation touch the cores and the registers alone: scratchpads, tiles, streams, the fabric, every byte of external memory and all other state stay (R130, R131, R210, R269, R331, R640). -/
def Obligations.CoreOperationsFrame : Prop :=
  ∀ (s t : State) (c : Instr) (k m : Nat), c ∈ ([
      .taskStart k m, .taskResume k m, .taskStop k m, .vecUn k, .vecBin k, .vecBins k, .vecRed k, .vecFill k,
      .vecEpi k, .vecAccld k, .mshPut k, .mshGet k, .mshDrop k, .strmRearm k, .ftfMark k] : List Instr) →
    exec c s = .next t → (∃ k m, t = { s with cores := k, regs := m }) ∧ ∀ a, memByte t a = memByte s a

/-- A TAP instruction changes the test access port, what leaves by TDO, and SHP_STRAP alone (R811, R812). The register map is in its canonical form. -/
def Obligations.TestAccessFrame : Prop :=
  ∀ (s t : State) (c : Instr) (on main a b : Nat), Registers.wf s = true → c ∈ ([
      .bypass, .idcode, .samplePreload on main a b, .extest on main a b, .clamp, .highz, .extestPulse on main a b, .extestTrain on main a b] : List Instr) →
    exec c s = .next t → (∃ o p m, t = { s with outbox := o, tap := p, regs := m }) ∧
      ∀ (x : Blk) (i o : Nat), regKey x i o ≠ regKey .shp 0 SHP_STRAP_scan_used.off → rdW t x i o = rdW s x i o

/-- At reset the package is in Keeper with its rails off and VAUX not yet good, the timebase is Stopped, no paddock exists, no event is on the calendar, nothing waits in the fabric or in a queue, and every register reads its reset value (R72, R84, R753, R759, R762). That the state before VAUX is good holds these values is the model's choice (log 1). -/
def Obligations.ResetIsQuiet : Prop :=
  pwrState State.reset = 0 ∧ rd State.reset SHP_PWRSTAT_rails_en 0 = 0 ∧ State.reset.pwr.vaux = false ∧
  belState State.reset = belStopped ∧ rd State.reset BEL_TICK_tick 0 = 0 ∧ pdksCreated State.reset = [] ∧
  State.reset.bell.cal = [] ∧ State.reset.fab = [] ∧ State.reset.pending = [] ∧
  (∀ (b : Blk) (inst off : Nat), rdW State.reset b inst off = regDefault (regKey b inst off))

/-- The table gives no row bits, so no word spells a command, and placing a word changes nothing (the form the host gives a block). -/
def Obligations.NoWordSpellsACommand : Prop :=
  (∀ nbits w : Nat, decodeTableWord nbits w = none) ∧ (∀ (s : State) (nbits w : Nat), s.withFetchWord nbits w = s)

/-- STANDBY while a paddock is Stranded sets cmd_result to 3 and does nothing else (R783). -/
def Obligations.StandbyNeedsEveryPaddockFree : Prop :=
  ∀ (s : State) (n : Nat), n < 64 → pdkState s n = 5 →
    ∃ t, exec .standby s = .next t ∧ t = wr SHP_PWRSTAT_cmd_result 0 3 s ∧ rd t SHP_PWRSTAT_cmd_result 0 = 3

/-- A write of fewer than 8 bytes that reaches a 64-bit register is refused with reason width, whatever the block is doing; the first refusal shows its reason, and the register keeps its whole value (R71). SHP_DEVID and SHP_RATING take any write without a trace; MSH_RPDATA is not 64 bits wide. The register map is in its canonical form. -/
def Obligations.NarrowWriteToAWideRegister : Prop :=
  ∀ (s : State) (brand : Nat) (b : Blk) (inst off size o t draw : Nat) (data : Word) (r : RegD), Registers.wf s = true →
    r.width = 64 → size < 8 → touched b off size = [(r, o)] → ¬ (b = .shp ∧ o < 8) → ¬ (b = .msh ∧ o = 0x14) → o < hdrBase b →
    let u := regWrite brand b inst off size data t draw s
    rdB u (hdr b HDR_REFUSE_refused) inst = true ∧
    (rdB s (hdr b HDR_REFUSE_refused) inst = false → rd u (hdr b HDR_REFUSE_reason) inst = refuseCode .width) ∧
    rdW u b inst o = rdW s b inst o

/-- A register access that no gate refuses and that need not wait is served by the register it names and answered (R47, R56, R70, R356, R357);
accesses that waited go first. A part of a register the block refuses is another statement's matter. -/
def Obligations.RegisterAccessesComplete : Prop :=
  (∀ (s : State) (brand die off size : Nat) (data : Word) (t draw : Nat) (b : Blk) (inst o : Nat) (r : RegD),
    let v := accFlush (atTime t s)
    (die < 11 → mainPowered v = true) → csrGate v brand die off size true = 0 → csrWaits v brand die off = false → csrPlace v die off = some (b, inst, o) →
      b ≠ .shp → touched b o size = [(r, o)] → widthOk o size [(r, o)] = true → regJudge v b inst o r (partData o o r data) = none →
      exec (.registerWrite brand die off size data t draw) s = .next (emit .ack [brand, die, off, 0] (regTakes brand b inst o (partData o o r data) v.now draw v))) ∧
  (∀ (s : State) (brand die off len t : Nat) (b : Blk) (inst o : Nat),
    let v := accFlush (atTime t s)
    (die < 11 → mainPowered v = true) → csrGate v brand die off len false = 0 → csrWaits v brand die off = false → csrPlace v die off = some (b, inst, o) →
      exec (.rcRead brand die off len t) s = .next (emit .regData ([brand, die, off] ++ (regRead b inst o len v).1) (regRead b inst o len v).2)) ∧
  (∀ (s : State) (brand c p : Nat) (write : Bool) (data : Word),
    let v := accFlush s
    let d := coreDie (c % 2048)
    let o := coreLocal (c % 2048) * 0x8000 + 0x1014
    mainPowered v = true → csrGate v brand d o 4 write = 0 → csrWaits v brand d o = false → csrPlace v d o = some (.msh, p, 0x14) →
      exec (.mshRpdataAccess brand c write data) s = .next (if write then emit .ack [brand, d, o, 0] (regWrite brand .msh p 0x14 4 data v.now 0 v)
      else emit .regData ([brand, d, o] ++ (regRead .msh p 0x14 4 v).1) (regRead .msh p 0x14 4 v).2)) ∧
  (∀ (s : State) (t f tag : Nat) (write : Bool) (off len : Nat) (data : Word) (draw die o : Nat) (bs : List Nat),
    let u := atTime t s
    let v := accFlush u
    fnReached u f = true → len ≠ 0 → off + len ≤ (if f = 0 then 0x4000000 else 0x1000000) → (fnGet u f).memEn = true → (fnGet u f).d3 = false →
      (f ≠ 0 → pdkClosed u (f - 1) = false) → (if f = 0 then pfPlace u off else vfPlace u (f - 1) off) = .csr die o → tallyWaits v f die o write = false →
      (csrAccess (fnBrand f) die o len write data v.now draw v).1 = .served bs →
      exec (.bar0Access t f tag write off len data draw) s = .next (if write then (csrAccess (fnBrand f) die o len write data v.now draw v).2
      else emit .cplData ([f, tag, 0] ++ bs) (csrAccess (fnBrand f) die o len write data v.now draw v).2)) ∧
  (∀ (s : State) (tag : Nat) (write : Bool) (off len : Nat) (data : List Nat),
    fnReached s 0 = true → len ≠ 0 → off + len ≤ 2 ^ bar2Log s → (fnGet s 0).memEn = true → (fnGet s 0).d3 = false → off + len ≤ memU s →
      exec (.bar2Access tag write off len data) s = .next (bar2Parts tag write (len + 1) off (if write then (data ++ List.replicate len 0).take len else []) len s))

/-- What each command of the timebase leaves where its moment has come (R73, R75, R76, R85): the state it enters, its counts, the tick it takes. That the tick which ends Flywheel into Lone-PTP comes at a PTP instant the command names is log 11, an edge's order against the other moments log 5. -/
def Obligations.TimebaseCommandsComplete : Prop :=
  (∀ (s : State) (t : Nat),
    belState s = belStopped → exec (.belStart t) s = .next (takeMissTick t (refreshPtp (wr BEL_STATUS_state 0 belFlywheel (wr BEL_STATUS_flywheel_count 0 0 (wr BEL_STATUS_relock_count 0 0
      (wr BEL_MEAS_meas 0 (periodOf (periodUs s)) { atTime t s with
        bell := { s.bell with accepted := none, intervals := [], qualified := false, due := [], phasesRun := 3, tickLen := 0 } }))))))) ∧
  (∀ (s : State) (t : Nat),
    belState s = belLocked → goodInterval s (t - s.bell.accepted.getD 0) = true → exec (.bellEdge t) s = .next (takeTick t (noteInterval (t - s.bell.accepted.getD 0) { atTime t s with bell := { s.bell with accepted := some t } }))) ∧
  (∀ (s : State) (t : Nat),
    belState s = belLocked → s.bell.lastTick.getD 0 + laterEnd s ≤ t → exec (.bellLoss t) s = .next (takeMissTick (s.bell.lastTick.getD 0 + laterEnd s) (bellChange belFlywheel 1 [BEL_EVENT_lock_lost]
      (wr BEL_STATUS_bell_lock 0 0 { atTime t s with bellLock := false, bell := { s.bell with accepted := none, qualified := false } })))) ∧
  (∀ (s : State) (t : Nat),
    (refreshPtp (atTime t s)).bell.qualified = false → internalDue (refreshPtp (atTime t s)) ≤ t → belState (refreshPtp (atTime t s)) = belLone → exec (.internalTick t) s = .next (takeTick (internalDue (refreshPtp (atTime t s))) (refreshPtp (atTime t s)))) ∧
  (∀ (s : State) (t : Nat),
    (refreshPtp (atTime t s)).bell.qualified = false → internalDue (refreshPtp (atTime t s)) ≤ t → belState (refreshPtp (atTime t s)) = belFlywheel → rd (refreshPtp (atTime t s)) BEL_STATUS_flywheel_count 0 < 64 → exec (.internalTick t) s = .next (takeMissTick (internalDue (refreshPtp (atTime t s))) (wr BEL_STATUS_flywheel_count 0 (rd (refreshPtp (atTime t s)) BEL_STATUS_flywheel_count 0 + 1) (refreshPtp (atTime t s))))) ∧
  (∀ (s : State) (t : Nat),
    belState (refreshPtp (atTime t s)) = belFlywheel → rd (refreshPtp (atTime t s)) BEL_STATUS_flywheel_count 0 = 64 → (refreshPtp (atTime t s)).bell.qualified = false → ptpAvailable (refreshPtp (atTime t s)) = false → internalDue (refreshPtp (atTime t s)) ≤ t →
      exec (.flywheelExhausted t) s = .next (takeTick (internalDue (refreshPtp (atTime t s))) (bellChange belLone 0 [BEL_EVENT_lone_entered] (refreshPtp (atTime t s))))) ∧
  (∀ (s : State) (t : Nat),
    belState (refreshPtp (atTime t s)) = belFlywheel → rd (refreshPtp (atTime t s)) BEL_STATUS_flywheel_count 0 = 64 → (refreshPtp (atTime t s)).bell.qualified = false → ptpAvailable (refreshPtp (atTime t s)) = true →
      (refreshPtp (atTime t s)).bell.lastTick.getD 0 + halfPeriod (refreshPtp (atTime t s)) ≤ t →
      exec (.flywheelExhausted t) s = .next (takeTick t (bellChange belLonePtp 0 [BEL_EVENT_ptp_entered] (refreshPtp (atTime t s))))) ∧
  (∀ (s : State) (t : Nat),
    (refreshPtp (atTime t s)).bell.qualified = true → (refreshPtp (atTime t s)).bell.accepted.getD 0 + laterEnd (refreshPtp (atTime t s)) ≤ t →
      belState (refreshPtp (atTime t s)) = belLone → exec (.relockLapse t) s = .next (takeTick ((refreshPtp (atTime t s)).bell.accepted.getD 0 + laterEnd (refreshPtp (atTime t s))) (wr BEL_STATUS_relock_count 0 0 { refreshPtp (atTime t s) with
      bell := { (refreshPtp (atTime t s)).bell with accepted := none, qualified := false } }))) ∧
  (∀ (s : State) (t : Nat),
    (refreshPtp (atTime t s)).bell.qualified = false → ptpAvailable (refreshPtp (atTime t s)) = true → (refreshPtp (atTime t s)).bell.lastTick.getD 0 + halfPeriod (refreshPtp (atTime t s)) ≤ t →
      belState (refreshPtp (atTime t s)) = belLonePtp → exec (.ptpTick t) s = .next (takeTick t (refreshPtp (atTime t s))))

/-- The three phases of a tick, each in its turn (R81-R86, R118): phase 0 opens the tick, phases 1 and 2 run the calendar entries of their classes and what happens at every tick. -/
def Obligations.TickPhasesComplete : Prop :=
  (∀ (s : State) (mon t : Nat) (rest : List Nat),
    s.bell.due = t :: rest → s.bell.phasesRun = 3 → activating (tickOpens t (atTime (Sys2Proof.Machine.tickMoment t s) s)) = false → exec (.tickMoment mon) s = .next (recurring (counterUpdate ((s.ration.len + 50) / 100) (aliveUpdate (bellLockRise (runPhase 0 phase0Entry
      (accounting (sharesUpdate (tickOpens t (atTime (Sys2Proof.Machine.tickMoment t s) s))).bell.tickLen mon (sharesUpdate (tickOpens t (atTime (Sys2Proof.Machine.tickMoment t s) s)))))))))) ∧
  (∀ (s : State) (draw : Nat),
    s.bell.phasesRun = 1 → exec (.tickPhase1 draw) s = .next (if s.bell.cal.any (fun e => decide (e.tick ≤ curTick s) && e.cls == 0x23) then heldDrawSet draw (runPhase 1 phase1Entry s)
      else runPhase 1 phase1Entry s)) ∧
  (∀ (s : State) (ok : Bool) (status pin : Nat),
    s.bell.phasesRun = 2 → exec (.tickPhase2 ok status pin) s = .next (standbyStop (activationStart (repairP2 ((List.range 64).foldl (fun s n => swapCounter n s)
      ((List.range 37).foldl (fun s b => blockTick b s)
        (sensorsRead (pollRail ok status pin (runPhase 2 phase2Entry (timeTick (snapTick (timebaseRecords s))))))))))))

/-- PDK_CMD and PDK_VEC of a paddock and the VF Enable of the PF, where they are accepted (R99-R103, R109-R111). What a create refuses, and with which code, is R101. -/
def Obligations.PaddockCommandsComplete : Prop :=
  (∀ (s : State) (n : Nat),
    n < 64 → rdB s PDK_STATUS_cmd_busy n = false → rd s SHP_PWRSTAT_state 0 = 2 → activating s = false → exec (.pdkCreate n) s = .next (pdkRun n 1 s)) ∧
  (∀ (s : State) (n : Nat),
    n < 64 → rdB s PDK_STATUS_cmd_busy n = false → rd s SHP_PWRSTAT_state 0 = 2 → activating s = false → exec (.pdkDelete n) s = .next (pdkRun n 2 s)) ∧
  (∀ (s : State) (n : Nat),
    n < 64 → rdB s PDK_STATUS_cmd_busy n = false → rd s SHP_PWRSTAT_state 0 = 2 → activating s = false → exec (.pdkRegather n) s = .next (pdkRun n 3 s)) ∧
  (∀ (s : State) (n : Nat),
    n < 64 → (pdkGet s n).cmd = 1 → createCode (wr PDK_STATUS_cmd_busy n 0 (pdkMod n (fun x => { x with cmd := 0 }) s)) n = 0 →
      exec (.pdkCommandDone n) s = .next (createEnd n (wr PDK_STATUS_cmd_busy n 0 (pdkMod n (fun x => { x with cmd := 0 }) s)))) ∧
  (∀ (s : State) (n : Nat),
    n < 64 → (pdkGet s n).cmd = 2 → (pdkState s n = 1 ∨ pdkState s n = 5) → exec (.pdkCommandDone n) s = .next (pdkFree n s)) ∧
  (∀ (s : State) (n k : Nat) (data : Word),
    n < 64 → k < 16 → (rdB (wr (PDK_VEC_coalesce.ix k) n (data.toNat / 2) (wr (PDK_VEC_enable.ix k) n data.toNat s)) (PDK_VEC_coalesce.ix k) n = true) →
      exec (.pdkVecWrite n k data) s = .next (wr (PDK_VEC_vector.ix k) n (data.toNat / 256) (wr (PDK_VEC_coalesce.ix k) n (data.toNat / 2) (wr (PDK_VEC_enable.ix k) n data.toNat s)))) ∧
  (∀ (s : State) (enable : Bool) (num : Nat),
    exec (.sriovVfEnableChange enable num) s = .next (((List.range 64).filter (fun n => vfExists s n && !vfExists { s with vfEnable := enable, numVfs := Nat.min num 64 } n)).foldl
      (fun s n => pdkLost n s) { s with vfEnable := enable, numVfs := Nat.min num 64 }))

/-- The steps of a regather that wait for something (R113-R116): the drain of G3 ends when nothing of the brand is outstanding or 51 us have passed; G5 ends by the repair or reload that follows it. What a fence record counts is log 115. -/
def Obligations.RegatherStepsComplete : Prop :=
  (∀ (s : State) (n t : Nat),
    let v := atTime t s
    n < 64 → pdkState s n = 4 → (pdkGet s n).step = 2 → (pdkOutstanding v n = false ∨ (pdkGet s n).t0 + 5100 ≤ t) → exec (.regatherDrainEnd n t) s = .next (pdkMod n (fun x => { x with step := 4 }) (fenceRecord n
      (v.fab.filter (fun x => readOut n x && (x.stage == 4 || x.stage == 6))).length (pdkOutstanding v n)
      (scheduleNext 0x30 n (gatesDrained n (dropReads n v)))))) ∧
  (∀ (s : State) (n : Nat),
    n < 64 → pdkState s n = 4 → (pdkGet s n).step = 4 → (pdkGet s n).flr = false → (pdkGet s n).delete = false → exec (.regatherClearDone n) s = .next (pfFlrDone (repairCleared n (scheduleNext 0x20 n (pdkMod n (fun y => { y with step := 5 }) (regatherClear n s))))))

/-- A halted task starts at its entry or resumes at its pc, a running one stops with reason 3, and a core cycle examines the tasks and issues at most one bundle (R130-R132, R157, R164). -/
def Obligations.TasksComplete : Prop :=
  (∀ (s : State) (c task : Nat),
    taskState s (pcore s c) (task % 4) = 0 → exec (.taskStart c task) s = .next (startTask (pcore s c) (task % 4) s)) ∧
  (∀ (s : State) (c task : Nat),
    taskState s (pcore s c) (task % 4) = 0 → exec (.taskResume c task) s = .next (wr (LEA_TSTAT_state.ix (task % 4)) (pcore s c) 1 (wr (LEA_TEXC_valid.ix (task % 4)) (pcore s c) 0 s))) ∧
  (∀ (s : State) (c task : Nat),
    taskState s (pcore s c) (task % 4) ≠ 0 → exec (.taskStop c task) s = .next (wr (LEA_TSTAT_state.ix (task % 4)) (pcore s c) 0 (wr (LEA_TSTAT_reason.ix (task % 4)) (pcore s c) 3 s))) ∧
  (∀ (s : State) (c : Nat) (k : Nat × Stall),
    let p := pcore s c
    let v := meshCycle p (confCycle p (coreMod p (fun x => { x with cyc := x.cyc + 1 }) s))
    let ks := ((taskOrder v p).filter (fun t => taskState v p t != 0)).map (fun t => (t, taskStall v p t))
    ks.find? (fun y => y.2.ready) = some k → exec (.bundleIssue c) s = .next (issueTask p k.1 (coreMod p (fun x => { x with last := k.1 }) (showTasks p ks
      (bumpIf (ks.any (fun y => y.2.m)) LEA_MSAT_count p (bumpIf (ks.any (fun y => y.2.v)) LEA_VSAT_count p
        (bumpIf (ks.any (fun y => y.2.x)) LEA_XSAT_count p (bumpIf (xHeadStalls v p) LEA_XHEAD_count p
          (bumpIf (sendWaits v p) WHS_SSAT_count p
            (bumpIf (mWaits v p) LEA_MWAIT_count p (bumpIf (vWaits v p) LEA_VDEP_count p v)))))))))))

/-- The next matrix operation starts once the engine and the scoreboard allow it and no fault is found at its start (R173-R179), a multiplication with z clearing its rows first; the array's work follows as its reads are served; the oldest one completes when all are (R139), and its check reports (R183). -/
def Obligations.MatrixOperationsComplete : Prop :=
  (∀ (s : State) (c : Nat) (e : QEnt),
    let p := pcore s c
    let v := wr LEA_MSTAT_busy p 1 (qMod p .m e.disp (fun x => { x with started := true, startCyc := (coreGet s p).cyc }) s)
    qNext s p .m = some e → e.op = 0x01 → mReady s p = true → scoreClear s p .m e = true → mStartFault v p e = 0 → exec (.matWld c) s = .next (mAdvance p v)) ∧
  (∀ (s : State) (c : Nat) (e : QEnt),
    let p := pcore s c
    let v := wr LEA_MSTAT_busy p 1 (qMod p .m e.disp (fun x => { x with started := true, startCyc := (coreGet s p).cyc }) s)
    qNext s p .m = some e → e.op = 0x08 → mReady s p = true → scoreClear s p .m e = true → mStartFault v p e = 0 → exec (.matMma c) s = .next (mAdvance p (zeroAcc p e v))) ∧
  (∀ (s : State) (c : Nat) (e : QEnt),
    let p := pcore s c
    let v := wr LEA_MSTAT_busy p 1 (qMod p .m e.disp (fun x => { x with started := true, startCyc := (coreGet s p).cyc }) s)
    qNext s p .m = some e → e.op = 0x09 → mReady s p = true → scoreClear s p .m e = true → mStartFault v p e = 0 → exec (.matMms c) s = .next (mAdvance p (zeroAcc p e v))) ∧
  (∀ (s : State) (c : Nat) (e : QEnt),
    let p := pcore s c
    let v := wr LEA_MSTAT_busy p 1 (qMod p .m e.disp (fun x => { x with started := true, startCyc := (coreGet s p).cyc }) s)
    qNext s p .m = some e → e.op = 0x0A → mReady s p = true → scoreClear s p .m e = true → mStartFault v p e = 0 → exec (.matMmt c) s = .next (mAdvance p (zeroAcc p e v))) ∧
  (∀ (s : State) (c : Nat) (e : QEnt) (es : List QEnt),
    let p := pcore s c
    let rows := if mZ e.slot then 32 else mRows e.slot
    let v := coreMod p (fun x => { x with checks := x.checks ++
      [⟨e.disp, e.task, e.pc, mAcc e.slot, mFmt e.slot, rows, firstFail s p (mAcc e.slot) rows e.fail⟩] }) (qFree p .m e.disp s)
    (coreGet s p).qm = e :: es → e.started = true → e.abandoned = false → mStreamed e = true → e.op ≠ 0x01 → exec (.mOpComplete c) s = .next (mAdvance p (wr LEA_MSTAT_busy p (b2n (anyStarted (coreGet v p).qm)) v))) ∧
  (∀ (s : State) (c : Nat) (k : RChk) (ks : List RChk),
    let p := pcore s c
    (coreGet s p).checks = k :: ks → k.found.isEmpty = true → exec (.residueCheck c) s = .next (coreMod p (fun x => { x with checks := ks }) s)) ∧
  (∀ (s : State) (c : Nat) (k : RChk) (ks : List RChk),
    let p := pcore s c
    (coreGet s p).checks = k :: ks → k.found.isEmpty = false → exec (.residueCheck c) s = .next (flagMismatch p k (coreMod p (fun x => { x with checks := ks }) s)))

/-- The next vector operation starts once the scoreboard allows it and the one before it has begun its beats (R140, R225), and its beats follow as what they read and write is served (R219); the oldest one completes when it has made all its beats (R139). -/
def Obligations.VectorOperationsComplete : Prop :=
  (∀ (s : State) (c : Nat) (e : QEnt),
    let p := pcore s c
    qNext s p .v = some e → e.op = 0x01 → scoreClear s p .v e = true → vBegun s p = true → exec (.vecUn c) s = .next (vAdvance p (wr LEA_VSTAT_busy p 1 (qMod p .v e.disp (fun x => { x with started := true, startCyc := (coreGet s p).cyc }) s)))) ∧
  (∀ (s : State) (c : Nat) (e : QEnt),
    let p := pcore s c
    qNext s p .v = some e → e.op = 0x02 → scoreClear s p .v e = true → vBegun s p = true → exec (.vecBin c) s = .next (vAdvance p (wr LEA_VSTAT_busy p 1 (qMod p .v e.disp (fun x => { x with started := true, startCyc := (coreGet s p).cyc }) s)))) ∧
  (∀ (s : State) (c : Nat) (e : QEnt),
    let p := pcore s c
    qNext s p .v = some e → e.op = 0x03 → scoreClear s p .v e = true → vBegun s p = true → exec (.vecBins c) s = .next (vAdvance p (wr LEA_VSTAT_busy p 1 (qMod p .v e.disp (fun x => { x with started := true, startCyc := (coreGet s p).cyc }) s)))) ∧
  (∀ (s : State) (c : Nat) (e : QEnt),
    let p := pcore s c
    qNext s p .v = some e → e.op = 0x04 → scoreClear s p .v e = true → vBegun s p = true → exec (.vecRed c) s = .next (vAdvance p (wr LEA_VSTAT_busy p 1 (qMod p .v e.disp (fun x => { x with started := true, startCyc := (coreGet s p).cyc }) s)))) ∧
  (∀ (s : State) (c : Nat) (e : QEnt),
    let p := pcore s c
    qNext s p .v = some e → e.op = 0x05 → scoreClear s p .v e = true → vBegun s p = true → exec (.vecFill c) s = .next (vAdvance p (wr LEA_VSTAT_busy p 1 (qMod p .v e.disp (fun x => { x with started := true, startCyc := (coreGet s p).cyc }) s)))) ∧
  (∀ (s : State) (c : Nat) (e : QEnt),
    let p := pcore s c
    qNext s p .v = some e → e.op = 0x10 → scoreClear s p .v e = true → vBegun s p = true → exec (.vecEpi c) s = .next (vAdvance p (wr LEA_VSTAT_busy p 1 (qMod p .v e.disp (fun x => { x with started := true, startCyc := (coreGet s p).cyc }) s)))) ∧
  (∀ (s : State) (c : Nat) (e : QEnt),
    let p := pcore s c
    qNext s p .v = some e → e.op = 0x11 → scoreClear s p .v e = true → vBegun s p = true → exec (.vecAccld c) s = .next (vAdvance p (wr LEA_VSTAT_busy p 1 (qMod p .v e.disp (fun x => { x with started := true, startCyc := (coreGet s p).cyc }) s)))) ∧
  (∀ (s : State) (c : Nat) (e : QEnt) (es : List QEnt),
    let p := pcore s c
    let v := qFree p .v e.disp (vCommit p e s)
    (coreGet s p).qv = e :: es → e.started = true → e.abandoned = false → (vBeats s p e).length ≤ e.turn → exec (.vOpComplete c) s = .next (vAdvance p (wr LEA_VSTAT_busy p (b2n (anyStarted (coreGet v p).qv)) v)))

/-- The scratchpad's ports serve the word R242-R246 choose, a corrected word is written back (R249), a window access enters as class P (R236), and LEA_VWDATA and LEA_SPBSEL take their writes (R227, R258). -/
def Obligations.ScratchpadCommandsComplete : Prop :=
  (∀ (s : State) (c : Nat) (write : Bool) (bank region : Nat) (x : WReq × WWord),
    let p := pcore s c
    portPick s p (portWords s p write bank region) = some x → exec (.spWordServe c write bank region) s = .next (serveWord p x.1 x.2 (countPort p write bank region ((portWords s p write bank region).filter (fun y => !background s p y.1)).length s))) ∧
  (∀ (s : State) (c w : Nat),
    let p := pcore s c
    (coreGet s p).wb.contains w = true → (portWords s p true (bankOf s p w) (portRegion s p w)).isEmpty = true → exec (.spEccWriteback c w) s = .next (coreMod p (fun c => { c with wb := c.wb.erase w }) (spPutRaw p w (word72 (spData s p w)) s))) ∧
  (∀ (s : State) (brand c : Nat) (write : Bool) (off len : Nat) (data : List Nat),
    let v := accFlush s
    brandReserved brand = false → off + len ≤ 0x100000 → admitCore v brand c false = true → coreWaits v brand c = false → exec (.spWindowAccess brand c write off len data) s = .next (paccPush (pcore v c) write off len ((data.map (· % 256)).take len) (poisonedAt off data) (.window brand c off) v)) ∧
  (∀ (s : State) (c : Nat) (data : Word),
    exec (.spbselWrite c data) s = .next (coreMod (pcore s c) (fun x => { x with selCyc := x.cyc + 1 })
      (wr LEA_SPBCNT_count (pcore s c) 0 (wrW .lea (pcore s c) LEA_SPBSEL_dir.off (BitVec.ofNat 64 (data.toNat % 256)) s)))) ∧
  (∀ (s : State) (brand c k p : Nat) (data : Word),
    let v := accFlush s
    let d := coreDie (c % 2048)
    let o := coreLocal (c % 2048) * 0x8000 + (LEA_VWDATA_value.off + 8 * (k % 8))
    mainPowered v = true → csrGate v brand d o 8 true = 0 → csrWaits v brand d o = false → csrPlace v d o = some (.lea, p, LEA_VWDATA_value.off + 8 * (k % 8)) →
      coreIdle v p = true → vwValid v p = true → exec (.vwdataWrite brand c k data) s = .next (emit .ack [brand, d, o, 0] (vwPut p (k % 8) data.toNat v)))

/-- MSH.PUT, MSH.GET and MSH.DROP start at the head of the X queue where their engine is free (R269); MSH.DROP commits at its start, a stream-bound one two cycles after, once its buffer is ready (R272); an X operation that is complete leaves its queue (R139). A lea cycle of a running route program executes its slot or holds it at a hurdle (R265, R281, R286); a hold bit clears when its condition holds (R280), and a hold of 64 bt is a long hold (R286). -/
def Obligations.MeshOperationsAndStepsComplete : Prop :=
  (∀ (s : State) (c : Nat) (e : QEnt),
    let p := pcore s c
    let v := xMark p e s
    xHead s p = some e → e.op = 0x01 → xMayStart s p e = true → exec (.mshPut c) s = .next (fifoShow p v)) ∧
  (∀ (s : State) (c : Nat) (e : QEnt),
    let p := pcore s c
    let v := xMark p e s
    xHead s p = some e → e.op = 0x02 → xMayStart s p e = true → exec (.mshGet c) s = .next (fifoShow p v)) ∧
  (∀ (s : State) (c : Nat) (e : QEnt),
    let p := pcore s c
    let v := xMark p e s
    xHead s p = some e → e.op = 0x03 → xMayStart s p e = true → exec (.mshDrop c) s = .next (fifoShow p (meshCommit p { e with started := true } v))) ∧
  (∀ (s : State) (c eng : Nat) (e : QEnt),
    let p := pcore s c
    xHeld s p (eng % 2) = some e → e.committed = false → e.op ≠ 0x03 → xSv e.slot = true → e.startCyc + 2 ≤ (coreGet s p).cyc → ctxReady s (meshCtx p e.slot) = true → exec (.mshCommit c eng) s = .next (fifoShow p (qMod p .x e.disp (fun x => { x with committed := true, ans := [bufOff s (meshCtx p e.slot) (ctxGet s (meshCtx p e.slot)).rel] }) s))) ∧
  (∀ (s : State) (c eng : Nat) (e : QEnt),
    let p := pcore s c
    xHeld s p eng = some e → e.op ≠ 0x31 → xComplete s p e = true → e.op ≤ 0x03 → exec (.xOpComplete c eng) s = .next (meshFinish p e s)) ∧
  (∀ (s : State) (c eng : Nat) (e : QEnt),
    let p := pcore s c
    xHeld s p eng = some e → e.op ≠ 0x31 → xComplete s p e = true → 0x03 < e.op → exec (.xOpComplete c eng) s = .next (qFree p .x e.disp s)) ∧
  (∀ (s : State) (n : Nat),
    (meshGet s n).running = true → meshHeld s n = false → exec (.routeSlot n) s = .next (routeSlot n s)) ∧
  (∀ (s : State) (n : Nat),
    let v := (pdkPcores s n).foldl (fun s p => bump MSH_HELDCNT_count p s) s
    (meshGet s n).running = true → meshHeld s n = true → exec (.hurdleHeld n) s = .next (pushHolds n (meshMod n (fun m => { m with held := true, heldTick := if m.held then m.heldTick else curTick s }) v))) ∧
  (∀ (s : State) (c : Nat),
    let p := pcore s c
    holdBit s p = true → holdCond s p (htGet s p (rd s MSH_HWHY_hidx p)) = true → exec (.holdConditionMet c) s = .next (wr MSH_STAT_hold_bit p 0 s)) ∧
  (∀ (s : State) (n : Nat),
    let v := meshMod n (fun m => { m with longDone := true }) s
    (meshGet s n).held = true → (meshGet s n).longDone = false → (meshGet s n).heldTick + 64 ≤ curTick s → (meshGet v n).hSched = true → exec (.longHold n) s = .next (longHold n v))

/-- STRM.ACQ and STRM.REL start once their buffer is ready, STRM.REL after the task's earlier operations, and hand the buffer over; STRM.RESUME and STRM.REARM act on their context (R315-R324, R331). -/
def Obligations.StreamOperationsComplete : Prop :=
  (∀ (s : State) (c : Nat) (e : QEnt),
    let p := pcore s c
    let v := xMark p e s
    xHead s p = some e → e.op = 0x10 → xMayStart s p e = true → ctxReady s (strmCtx p e.slot) = true → exec (.strmAcq c) s = .next (v)) ∧
  (∀ (s : State) (c : Nat) (e : QEnt),
    let p := pcore s c
    let v := xMark p e s
    xHead s p = some e → e.op = 0x11 → xMayStart s p e = true → ctxReady s (strmCtx p e.slot) = true → taskDrained s p e.task e.bun = true → exec (.strmRel c) s = .next (ctxShow (strmCtx p e.slot) (releaseCtx (strmCtx p e.slot) v))) ∧
  (∀ (s : State) (c : Nat) (e : QEnt),
    let p := pcore s c
    let v := xMark p e s
    xHead s p = some e → e.op = 0x12 → xMayStart s p e = true → exec (.strmResume c) s = .next (resumeCtx (strmCtx p e.slot) v)) ∧
  (∀ (s : State) (c : Nat) (e : QEnt),
    let p := pcore s c
    let v := xMark p e s
    xHead s p = some e → e.op = 0x13 → xMayStart s p e = true → exec (.strmRearm c) s = .next (rearmRequest (strmCtx p e.slot) v)) ∧
  (∀ (s : State) (c : Nat) (e : QEnt),
    let p := pcore s c
    let v := xMark p e s
    xHead s p = some e → e.op = 0x50 → xMayStart s p e = true → exec (.ftfMark c) s = .next (v))

/-- DRV_CTL and DRV_REARM of a context, the effect of a requested re-arm, and the request a Drover unit forms in a cycle (R305, R321-R324, R331). The answers of a context's reads and writes (R304, R311, R327): data without error goes to the buffer as class P, or to a far context's destination; an acknowledged write moves the stream on. -/
def Obligations.DroverContextsComplete : Prop :=
  (∀ (s : State) (u0 k t : Nat),
    exec (.drvArm u0 k t) s = .next (armCtx (ctxOf s u0 k) (atCycle t s))) ∧
  (∀ (s : State) (u0 k : Nat),
    exec (.drvHalt u0 k) s = .next (haltByCommand (ctxOf s u0 k) s)) ∧
  (∀ (s : State) (u0 k : Nat),
    exec (.drvResume u0 k) s = .next (resumeCtx (ctxOf s u0 k) s)) ∧
  (∀ (s : State) (u0 k : Nat),
    exec (.drvRearm u0 k) s = .next (rearmRequest (ctxOf s u0 k) s)) ∧
  (∀ (s : State) (u0 k t : Nat),
    exec (.rearmTakeEffect u0 k t) s = .next (rearmEffect (ctxOf s u0 k) (atCycle t s))) ∧
  (∀ (s : State) (u0 t g : Nat),
    let v := atCycle t s
    mapGet 0 v.formAt u0 ≠ v.leaCyc + 1 → (unitCtxs v u0).filter (canForm v) = [g] → (unitCtxs v u0).filter (fun y => wantsRequest v y && 16 ≤ ctxOutst v y) = [] →
      exec (.drvRequestForm u0 t) s = .next (formRequest g { v with formAt := mapSet 0 v.formAt u0 (v.leaCyc + 1) })) ∧
  (∀ (s : State) (i : Nat) (x : Xact) (g off : Nat),
    fabGet s i = some x → x.ret = .drvRead g off → x.stage = 4 → x.stale = false → x.status = 0 → ctxFar g = false → exec (.drvReadResponse i) s = .next (paccPush (g / 32) true (bufOff s g (off / ctxBsize s g) + (off - off / ctxBsize s g * ctxBsize s g)) x.len x.data (badByte x) (.stream g off x.deadline)
      (fabSet i { x with stage := 6 } s))) ∧
  (∀ (s : State) (i : Nat) (x : Xact) (g off : Nat),
    fabGet s i = some x → x.ret = .drvRead g off → x.stage = 4 → x.stale = false → x.status = 0 → ctxFar g = true → exec (.drvReadResponse i) s = .next (ctxShow g (farWrite g off x.deadline x.data (badByte x) (fabDrop i s)))) ∧
  (∀ (s : State) (i : Nat) (x : Xact) (g off : Nat),
    fabGet s i = some x → x.ret = .drvWrite g off → x.stage = 4 → x.status = 0 → (ctxFar g = false ∨ x.data.length ≤ x.len) → exec (.drvWriteAck i) s = .next (ctxProgress g (fabDrop i s))) ∧
  (∀ (s : State) (i l e : Nat) (x : Xact),
    let y := { x with pasid := rootPasid s x.root, walk := [] }
    fabGet s i = some x → x.stage = 0 → fabTurn s i y = true → windowOf s y = none → tcLeaf s x.die x.root x.va = some (l, e) → natBit e (if x.wr then 3 else 2) = true →
      pteHost e = false → ptePage e < memU s → outsideHalf s x.root (ptePage e) (2 ^ levelShift l) = false →
      exec (.translationWalk i) s = .next (fabSet i { y with via := [l], host := false, pa := ptePage e + x.va % 2 ^ levelShift l, stage := 1 } s)) ∧
  (∀ (s : State) (i : Nat) (x : Xact),
    let y := { x with pasid := rootPasid s x.root, walk := [] }
    let v := bump (PST_WALKS_count.on (pstBlk x.die)) x.die s
    let root := rd v (PST_XROOT_root.ix x.root) 10 * 4096
    fabGet s i = some x → x.stage = 0 → fabTurn s i y = true → windowOf s y = none → tcLeaf s x.die x.root x.va = none → rdB v (PST_XROOT_en.ix x.root) 10 = true → root < memU v →
      tcGet v x.die x.root 0 x.va = 0 →
      exec (.translationWalk i) s = .next (fabSet i { y with stage := 9, via := List.range 1, tab := pteAddr root 0 x.va, tabDl := (droverT v + 0xFFFFFF) % 2 ^ 32 } v))

/-- A window of the shared targets starts with every slot unused and every paddock's share of its width known; a slot of a target is granted to the request R361 chooses (R361-R363). An admitted request is served by its port: a read answers the bytes of its lines, a write stores exactly its bytes (R354, R370, R371); the scrub reads a line of its pass (R372). -/
def Obligations.FabricAndMemoryPortsComplete : Prop :=
  (∀ (s : State) (cyc : Nat),
    exec (.shareWindowStart cyc) s = .next ((pdksCreated s).foldl (fun s n => { s with winShare := mapSet 0 s.winShare n (rd s PDK_PEFF_eff_min n + 512 * rd s PDK_PEFF_eff_cap n) })
      (capsApply { atFab cyc s with used := [], slotAt := [], winShare := [] }))) ∧
  (∀ (s : State) (t cyc i : Nat) (x : Xact),
    let k := mapGet 0 (atFab cyc s).slotAt t
    let v := { atFab cyc s with slotAt := mapSet 0 (atFab cyc s).slotAt t (k + 1) }
    t < 26 → k < tgtC (atFab cyc s) t → portFull v t = false → grantSlot v t k = some (i, x) → exec (.shareGrant t cyc) s = .next (admitSlot t i x v)) ∧
  (∀ (s : State) (i : Nat) (x : Xact),
    let r := memRead x.brand x.pa x.len s
    let q := (portOf s x.pa).1
    fabGet s i = some x → x.stage = 2 → x.wr = false → x.host = false → blockTested s q = false → portTurn s x = true →
      exec (.memoryRead i) s = .next (fabAnswer i x (if r.2.1.any id then 3 else 0) r.1 r.2.1 (txnEnd q (portSeen q r.2.2)))) ∧
  (∀ (s : State) (i : Nat) (x : Xact),
    let y := tabRead x
    let r := memRead y.brand y.pa y.len s
    let q := (portOf s y.pa).1
    fabGet s i = some x → x.stage = 10 → portServes s y false = true →
      exec (.memoryRead i) s = .next (walkGot i x (r.2.1.any id) (leNat r.1) (txnEnd q (portSeen q r.2.2)))) ∧
  (∀ (s : State) (i : Nat) (x : Xact),
    let q := (portOf s x.pa).1
    fabGet s i = some x → x.stage = 2 → x.wr = true → x.host = false → blockTested s q = false → portTurn s x = true →
      exec (.memoryWrite i) s = .next (accFlush (fabAnswer i x 0 [] [] (txnEnd q (portSeen q (memWrite x.pa (x.data.take x.len) x.pf s)))))) ∧
  (∀ (s : State) (p0 : Nat),
    let v := (readLine 0 1 (addrOfPort s p0 (64 * (mapGet 0 s.scrubAt p0 % (memQ s / 64)))) s).2
    p0 < 24 → rd s MEM_SCRUB_pass_h p0 ≠ 0 → memQ s / 64 ≠ 0 → (s.fab.map pktOf).any (fun x => x.stage == 2 && !x.host && (portOf s x.pa).1 == p0 &&
      (channelOf s (portOf s x.pa).2).1 == (channelOf s (64 * mapGet 0 s.scrubAt p0)).1) = false →
      exec (.memoryScrub p0) s = .next ({ v with scrubAt := mapSet 0 v.scrubAt p0 ((mapGet 0 s.scrubAt p0 + 1) % (memQ s / 64)) }))

/-- Requests to host memory (R354, R355, R359, R682): an admitted write leaves to the host and is acknowledged, one that waited 45 us is discarded; a read goes out and is answered by its completion, or by the timeout. -/
def Obligations.HostPathComplete : Prop :=
  (∀ (s : State) (i : Nat) (x : Xact),
    fabGet s i = some x → x.wr = true → x.host = true → x.stage = 2 → portTurn s x = true → exec (.hostPathWrite i) s = .next (fabAnswer i x 0 [] [] (emit .hostWrite ([x.pasid, x.pa, x.len] ++ x.pf.map b2n ++ x.data.take x.len) s))) ∧
  (∀ (s : State) (i : Nat) (x : Xact),
    fabGet s i = some x → x.stage = 2 → x.host = true → x.wr = false → portTurn s x = true → exec (.hostPathRead i) s = .next (emit .hostRead [x.pasid, x.pa, x.len] (fabSet i { x with stage := 3 } s))) ∧
  (∀ (s : State) (i : Nat) (x : Xact) (data : List Nat),
    fabGet s i = some x → x.stage = 3 → exec (.hostReadCompletion i true false data) s = .next (fabAnswer i x 0 (((data ++ List.replicate x.len 0).take x.len).map (· % 256)) (allLines x false) s)) ∧
  (∀ (s : State) (i : Nat) (x : Xact),
    fabGet s i = some x → x.stage = 3 → brandPdk x.brand = none → exec (.completionTimeout i) s = .next (fabAnswer i x 3 (List.replicate x.len 0) (allLines x true) (aerUncorr 0 14 s))) ∧
  (∀ (s : State) (i : Nat) (x : Xact) (n : Nat),
    fabGet s i = some x → x.stage = 3 → brandPdk x.brand = some n → exec (.completionTimeout i) s = .next (fabAnswer i x 3 (List.replicate x.len 0) (allLines x true) (aerUncorr (n + 1) 14 s))) ∧
  (∀ (s : State) (i : Nat) (x : Xact),
    fabGet s i = some x → x.stage = 2 → x.host = true → x.wr = true → exec (.hostWriteDiscard i) s = .next (fabAnswer i x 4 [] [] (bump PST_HOSTLOST_count 10 s)))

/-- Translation by the host and its upkeep (R378-R384): a completion with the rights the request needs is cached and used; the oldest Page Request is sent under the allocation; a response answers its waiters; an invalidation ends when what used the discarded entries is answered. -/
def Obligations.TranslationComplete : Prop :=
  (∀ (s : State) (i ta size : Nat) (r0 w0 : Bool) (x : Xact),
    fabGet s i = some x → x.stage = 5 → (if x.wr then w0 else r0) = true → exec (.translationCompletion i 0 ta size r0 w0) s = .next (fabSet i { x with pa := ta + x.pa % Nat.max size 4096, stage := 1 } 
      (atsPut { pasid := x.pasid, base := x.pa - x.pa % Nat.max size 4096, size := Nat.max size 4096, ta := ta, r := r0, w := w0 } s))) ∧
  (∀ (s : State) (q : PageReq),
    s.pageReqs.find? (fun y => !y.sent) = some q → s.priEn = true → rd s PST_PRISTAT_stopped 10 ≠ 1 → pagesOut s < Nat.min 512 s.priAlloc → exec (.pageRequest) s = .next (pagesShow (emit .pageRequest [q.pasid, q.page, s.prgNext % 512, b2n q.wr] 
      { s with prgNext := (s.prgNext + 1) % 512, pageReqs := s.pageReqs.takeWhile (fun y => y.sent) ++ ({ q with sent := true, idx := s.prgNext % 512 } :: (s.pageReqs.dropWhile (fun y => y.sent)).drop 1) }))) ∧
  (∀ (s : State) (idx : Nat) (q : PageReq),
    s.pageReqs.find? (fun y => y.sent && y.idx == idx) = some q → exec (.prgResponse idx 0) s = .next ((pageWaiters s q).foldl (fun s g => pageAnswer true g s) (pagesShow { s with pageReqs := listDropFirst (fun y => y.sent && y.idx == idx) s.pageReqs }))) ∧
  (∀ (s : State),
    exec (.invalidationStart) s = .next (invStart s)) ∧
  (∀ (s : State),
    rdB s PST_INVCTL_busy 10 = true → s.fab.any (fun x => x.inv && (x.stage == 2 || x.stage == 3)) = false → exec (.invalidationDone) s = .next (wr PST_INVCTL_busy 10 0 (wr PST_INVCTL_done_seq 10 (rd s PST_INVCTL_done_seq 10 + 1) { s with fab := s.fab.map (fun x => { x with inv := false }) }))) ∧
  (∀ (s : State) (tag pasid base size : Nat),
    s.fab = [] → exec (.invalidateRequest tag pasid base size) s = .next (atsInvSend { s with ats := s.ats.filter (fun e => !(e.pasid == pasid && (e.base < base + size && base < e.base + e.size))), atsInv := s.atsInv ++ [tag], fab := [] }))

/-- The WHS operations of the X unit (R396-R402): a send or a connected send reads its payload as class X, and one without a payload sets out at once, on the fabric or a route; an open request sets out or goes on a route; a listen, a close and a receive act on their entry and queue; a WHS_RQPOP write discards heads (R416). -/
def Obligations.WhistleOperationsComplete : Prop :=
  (∀ (s : State) (c : Nat) (e : QEnt),
    let p := pcore s c
    let v := xMark p e s
    xHead s p = some e → e.op = 0x20 → xMayStart s p e = true → sendFree s p e = true → whLen e.slot ≠ 0 →
      exec (.whsSend c) s = .next (xAccess p e.disp false (taskBase v p e.task + whA e.op e.vals) (whLen e.slot) [] v)) ∧
  (∀ (s : State) (c : Nat) (e : QEnt),
    let p := pcore s c
    let v := xMark p e s
    let d := whD e.op e.vals
    let m := { whsMsg v p e 0 with tag := natBits d 31 16, e := natBits d 51 32, len := 0, payload := [] }
    xHead s p = some e → e.op = 0x20 → xMayStart s p e = true → sendFree s p e = true → whLen e.slot = 0 →
      exec (.whsSend c) s = .next (if natBit d 15 then whsGo p m (some (natBits d 10 0)) (whsDone p e v)
        else whsGo p { m with dst := pdkCore v ((pcorePdk v p).getD 0) (natBits d 10 0) } none (whsDone p e v))) ∧
  (∀ (s : State) (c : Nat) (e : QEnt),
    let p := pcore s c
    let v := xMark p e s
    xHead s p = some e → e.op = 0x21 → xMayStart s p e = true → csendFree s p e = true → cn WHS_CONN_state v p (whEntry e.slot) = cnFailed → exec (.whsCsend c) s = .next (xFault p e 3 (whsDone p e v))) ∧
  (∀ (s : State) (c : Nat) (e : QEnt),
    let p := pcore s c
    let v := xMark p e s
    xHead s p = some e → e.op = 0x21 → xMayStart s p e = true → csendFree s p e = true → cn WHS_CONN_state v p (whEntry e.slot) ≠ cnFailed →
      exec (.whsCsend c) s = .next (xAccess p e.disp false (taskBase v p e.task + whA e.op e.vals - 8) (whLen e.slot + 8) [] v)) ∧
  (∀ (s : State) (c : Nat) (e : QEnt),
    let p := pcore s c
    let v := xMark p e s
    let d := whD e.op e.vals
    let l := whEntry e.slot
    let dst := natBits d 10 0
    let u := cnSet WHS_CONN_state p l cnOpening (cnSet WHS_CONN_peer_entry p l (natBits d 21 16) (cnSet WHS_CONN_seq p l 0
      (cnSet WHS_CONN_peer p l (if natBit d 15 then 0 else dst) v)))
    let m := { whsMsg v p e 1 with entry := natBits d 21 16, sentry := l, dst := pdkCore v ((pcorePdk v p).getD 0) dst }
    xHead s p = some e → e.op = 0x22 → xMayStart s p e = true → exec (.whsOpen c) s = .next (if natBit d 15 then
        (if routeFor v ((pcorePdk v p).getD 0) dst = 4 then openAnswered p l false (whsRefused p m u)
         else ltkSend dst 2 [1 + l % 64 * 2 ^ 8 + m.entry % 64 * 2 ^ 14 + m.srcIdx % 2 ^ 11 * 2 ^ 20] [] [5, p, l, e.task]
           { u with connLt := mapSet 0 u.connLt (64 * p + l) (dst + 1) })
      else whsPush m u)) ∧
  (∀ (s : State) (c : Nat) (e : QEnt),
    let p := pcore s c
    let v := xMark p e s
    let u := cnSet WHS_CONN_state p (whEntry e.slot) cnListening { v with landings := mapSet 0 v.landings (64 * p + whEntry e.slot) (whD e.op e.vals + 1) }
    xHead s p = some e → e.op = 0x23 → xMayStart s p e = true → opensOf u p (whEntry e.slot) = [] → exec (.whsListen c) s = .next (u)) ∧
  (∀ (s : State) (c : Nat) (e : QEnt) (m : WMsg),
    let p := pcore s c
    let v := xMark p e s
    let u := cnSet WHS_CONN_state p (whEntry e.slot) cnListening { v with landings := mapSet 0 v.landings (64 * p + whEntry e.slot) (whD e.op e.vals + 1) }
    xHead s p = some e → e.op = 0x23 → xMayStart s p e = true → opensOf u p (whEntry e.slot) = [m] → exec (.whsListen c) s = .next (openReply m 2 (cnBind p (whEntry e.slot) m (opensPut p (whEntry e.slot) [] u)))) ∧
  (∀ (s : State) (c : Nat) (e : QEnt),
    let p := pcore s c
    let v := xMark p e s
    let l := whEntry e.slot
    xHead s p = some e → e.op = 0x24 → xMayStart s p e = true → cn WHS_CONN_state v p l = cnListening → exec (.whsClose c) s = .next ((opensOf v p l).foldl (fun y g => openRefuse p g y) (opensPut p l [] (cnClear p l v)))) ∧
  (∀ (s : State) (c : Nat) (e : QEnt),
    let p := pcore s c
    let v := xMark p e s
    let l := whEntry e.slot
    xHead s p = some e → e.op = 0x24 → xMayStart s p e = true → cn WHS_CONN_state v p l = cnFailed → exec (.whsClose c) s = .next (cnClear p l v)) ∧
  (∀ (s : State) (c : Nat) (e : QEnt),
    let p := pcore s c
    let v := xMark p e s
    let l := whEntry e.slot
    let m := cnMsg v p e 4 l
    let u := { v with sidNext := v.sidNext + 1 }
    xHead s p = some e → e.op = 0x24 → xMayStart s p e = true → cn WHS_CONN_state v p l = cnOpening → exec (.whsClose c) s = .next (sendsPut p (sendsOf u p ++ [⟨m.sid, m, 4, 0⟩]) u)) ∧
  (∀ (s : State) (c : Nat) (e : QEnt),
    let p := pcore s c
    let v := xMark p e s
    let l := whEntry e.slot
    xHead s p = some e → e.op = 0x24 → xMayStart s p e = true → cn WHS_CONN_state v p l = cnSender → exec (.whsClose c) s = .next (whsGo p (cnMsg v p e 4 l) (cnRoute v p l) v)) ∧
  (∀ (s : State) (c : Nat) (e : QEnt) (h : List Nat) (rest : List (List Nat)),
    let p := pcore s c
    let v := xMark p e s
    xHead s p = some e → e.op = 0x25 → xMayStart s p e = true → rqGet s p (whQ e.slot) ≠ [] → rqGet v p (whQ e.slot) = h :: rest → exec (.whsRecv c) s = .next (xAccess p e.disp true (taskBase v p e.task + whA e.op e.vals) 72 (h.flatMap (leBytes 8)) (closesRetry p (rqPut p (whQ e.slot) rest v)))) ∧
  (∀ (s : State) (c : Nat) (data : Word),
    let p := pcore s c
    exec (.whsRqpop c data) s = .next (closesRetry p ((List.range 8).foldl (fun s q => if natBit data.toNat q ∧ !(rqGet s p q).isEmpty then rqPut p q ((rqGet s p q).drop 1) s else s) s)))

/-- Whistle packets in flight (R398-R412): a message is placed and answered, an acknowledgement frees its slot, a busy refusal puts its message back for 2 us, a resent message sets out again, a gate refusal is recorded, open requests and replies bind connections, a close marker closes, or is kept behind the messages of its connection (R419); a spilled message lands once its queue has room (R407). -/
def Obligations.WhistlePacketsComplete : Prop :=
  (∀ (s : State) (i : Nat) (m : WMsg),
    whsPacket s i = some m → m.kind = 0 → exec (.whistleMessage i) s = .next (arriveReply m (whsArrive m (whsDrop i s)).1 (whsArrive m (whsDrop i s)).2)) ∧
  (∀ (s : State) (c key : Nat) (x : WSpill) (rest : List WSpill),
    let p := pcore s c
    spillGet s p key = x :: rest → key < 16 → landingFree s p c ⟨8 ≤ key % 16, x.q, x.win, x.notify, x.msg.e⟩ = true → exec (.spillDrain c key) s = .next (closeRetry p x.msg.entry (whsLand p c x.msg ⟨8 ≤ key % 16, x.q, x.win, x.notify, x.msg.e⟩ [x.die, x.pool, x.buf] false (spillPut p key rest s)))) ∧
  (∀ (s : State) (i : Nat) (m : WMsg),
    whsPacket s i = some m → m.kind = 5 → exec (.whistleAck i) s = .next (whsAcked (senderKey s m) m.sid (whsDrop i s))) ∧
  (∀ (s : State) (i t : Nat) (m : WMsg),
    let v := s
    whsPacket s i = some m → m.kind = 6 → exec (.busyRefusal i t) s = .next (whsBusy (senderKey v m) m t (whsDrop i (atTime t s)))) ∧
  (∀ (s : State) (c sid t : Nat) (x : WSend),
    let v := atTime t s
    let key := if c < 2048 then pcore s c else unitKey (c - 2048)
    let u := sendsPut key ((sendsOf v key).map (fun y => if y.sid = sid then { y with st := 0 } else y)) v
    (sendsOf v key).find? (fun w => w.sid == sid) = some x → x.st = 1 → x.at_ ≤ t → (∀ n, brandPdk x.msg.brand = some n → pdkClosed v n = false) →
      (x.msg.conn = true → (sendsOf v key).any (fun y => y.msg.conn && y.msg.sentry == x.msg.sentry && y.st == 1 && y.sid < sid) = false) →
      exec (.whistleResend c sid t) s = .next (whsPush x.msg (if key < 2 ^ 20 then bump WHS_RETRY_count key u else u))) ∧
  (∀ (s : State) (i : Nat) (m : WMsg),
    whsPacket s i = some m → m.kind = 7 → m.q ≠ 1 → exec (.whistleBrandFault i) s = .next (whsRefused (senderKey s m) m (whsDrop i s))) ∧
  (∀ (s : State) (i : Nat) (m : WMsg),
    whsPacket s i = some m → m.kind = 7 → m.q = 1 → exec (.whistleBrandFault i) s = .next (openAnswered (pcore s m.src) m.sentry false (whsRefused (senderKey s m) m (whsDrop i s)))) ∧
  (∀ (s : State) (i : Nat) (m : WMsg),
    whsPacket s i = some m → m.kind = 1 → whsAdmits s m.brand m.dst m.g1 = true → exec (.openRequest i) s = .next (openArrive m (whsDrop i s))) ∧
  (∀ (s : State) (i : Nat) (m : WMsg),
    whsPacket s i = some m → m.kind = 1 → whsAdmits s m.brand m.dst m.g1 = false → exec (.openRequest i) s = .next (whsReply m 7 (whsGateRefuses m (whsDrop i s)))) ∧
  (∀ (s : State) (i : Nat) (m : WMsg),
    whsPacket s i = some m → m.kind = 2 → exec (.openReply i) s = .next (openAnswered (pcore s m.src) m.sentry true (whsDrop i s))) ∧
  (∀ (s : State) (i : Nat) (m : WMsg),
    whsPacket s i = some m → m.kind = 3 → exec (.openReply i) s = .next (openAnswered (pcore s m.src) m.sentry false (whsDrop i s))) ∧
  (∀ (s : State) (i : Nat) (m : WMsg),
    let r := closeArrive m (whsDrop i s)
    whsPacket s i = some m → m.kind = 4 → whsAdmits s m.brand m.dst m.g1 = true → r.1 = 3 → exec (.closeMarker i) s = .next (opensPut (pcore s m.dst) m.entry [m] r.2)) ∧
  (∀ (s : State) (i : Nat) (m : WMsg),
    let r := closeArrive m (whsDrop i s)
    whsPacket s i = some m → m.kind = 4 → whsAdmits s m.brand m.dst m.g1 = true → r.1 ≠ 3 → exec (.closeMarker i) s = .next (whsReply m (5 + r.1) r.2)) ∧
  (∀ (s : State) (i : Nat) (m : WMsg),
    whsPacket s i = some m → m.kind = 4 → whsAdmits s m.brand m.dst m.g1 = false → exec (.closeMarker i) s = .next (whsReply m 7 (whsGateRefuses m (whsDrop i s))))

/-- The TLY operations of the X unit (R425-R434): TLY.SIG starts when the earlier operations of its task are released and its add sets out, or goes on a route; TLY.WAIT sends its request; TLY.WATCH, TLY.READ and TLY.UNWATCH run at their counter's unit and their result word is written. Packets at a Tally unit (R424-R430, R438): an admitted add is applied modulo 2^64 and acknowledged, an admitted wait stands or is answered, what the gate refuses goes back; answers and refusals reach who sent the operation; register writes set, add and cancel (R424, R442, R443), and wait where a crook stop or a test holds the unit (R552, R646) or an earlier operation of H0 stands before them. -/
def Obligations.TallyCommandsComplete : Prop :=
  (∀ (s : State) (c : Nat) (e : QEnt),
    let p := pcore s c
    let v := xMark p e s
    xHead s p = some e → e.op = 0x30 → xMayStart s p e = true → released s p e = true → exec (.tlySig c) s = .next (if cwLt (tlyRc e) then sigRemote p e v else tlySend 0 p e v)) ∧
  (∀ (s : State) (c : Nat) (e : QEnt),
    let p := pcore s c
    let v := xMark p e s
    xHead s p = some e → e.op = 0x31 → xMayStart s p e = true → exec (.tlyWait c) s = .next (tlySend 1 p e v)) ∧
  (∀ (s : State) (c : Nat) (e : QEnt),
    let p := pcore s c
    let v := xMark p e s
    let u := cwUnit (tlyRc e)
    let i := cwIndex (tlyRc e)
    xHead s p = some e → e.op = 0x32 → xMayStart s p e = true → tlyStuck s u i = false → tlyAdmits v (coreBrand v p) u i [] = true → exec (.tlyWatch c) s = .next (xResult p e (tlyRa e) (watchAdd e u i (bumpOps u v)).2 (watchAdd e u i (bumpOps u v)).1)) ∧
  (∀ (s : State) (c : Nat) (e : QEnt),
    let p := pcore s c
    let v := xMark p e s
    let u := cwUnit (tlyRc e)
    let i := cwIndex (tlyRc e)
    xHead s p = some e → e.op = 0x32 → xMayStart s p e = true → tlyStuck s u i = false → tlyAdmits v (coreBrand v p) u i [] = false → exec (.tlyWatch c) s = .next (unitRefuses p e v)) ∧
  (∀ (s : State) (c : Nat) (e : QEnt),
    let p := pcore s c
    let v := xMark p e s
    let u := cwUnit (tlyRc e)
    let i := cwIndex (tlyRc e)
    xHead s p = some e → e.op = 0x33 → xMayStart s p e = true → tlyStuck s u i = false → tlyAdmits v (coreBrand v p) u i [] = true → exec (.tlyRead c) s = .next (xResult p e (tlyRa e) ((bumpOps u v, tlyCnt (bumpOps u v) u i)).2 ((bumpOps u v, tlyCnt (bumpOps u v) u i)).1)) ∧
  (∀ (s : State) (c : Nat) (e : QEnt),
    let p := pcore s c
    let v := xMark p e s
    let u := cwUnit (tlyRc e)
    let i := cwIndex (tlyRc e)
    xHead s p = some e → e.op = 0x33 → xMayStart s p e = true → tlyStuck s u i = false → tlyAdmits v (coreBrand v p) u i [] = false → exec (.tlyRead c) s = .next (unitRefuses p e v)) ∧
  (∀ (s : State) (c : Nat) (e : QEnt),
    let p := pcore s c
    let v := xMark p e s
    let u := cwUnit (tlyRc e)
    let i := cwIndex (tlyRc e)
    xHead s p = some e → e.op = 0x34 → xMayStart s p e = true → tlyStuck s u i = false → tlyAdmits v (coreBrand v p) u i [] = true → exec (.tlyUnwatch c) s = .next (xResult p e (tlyRa e) (watchUndo e u i (bumpOps u v)).2 (watchUndo e u i (bumpOps u v)).1)) ∧
  (∀ (s : State) (c : Nat) (e : QEnt),
    let p := pcore s c
    let v := xMark p e s
    let u := cwUnit (tlyRc e)
    let i := cwIndex (tlyRc e)
    xHead s p = some e → e.op = 0x34 → xMayStart s p e = true → tlyStuck s u i = false → tlyAdmits v (coreBrand v p) u i [] = false → exec (.tlyUnwatch c) s = .next (unitRefuses p e v)) ∧
  (∀ (s : State) (i : Nat) (k : TPkt),
    tlyPacket s i = some k → k.op = 0 → tlyAdmits s k.brand k.unit k.idx k.g1 = true → exec (.tallyAdd i) s = .next (addDone k.ret ((tlyCnt s k.unit k.idx + k.val) % 2 ^ 64) (tallyAdd k.unit k.idx k.val (tlyDrop i s)))) ∧
  (∀ (s : State) (i : Nat) (k : TPkt),
    tlyPacket s i = some k → k.op = 0 → tlyAdmits s k.brand k.unit k.idx k.g1 = false → exec (.tallyAdd i) s = .next (tlyRefuse k (tlyDrop i s))) ∧
  (∀ (s : State) (i : Nat) (k : TPkt),
    tlyPacket s i = some k → k.op = 7 → exec (.tallyAdd i) s = .next (tallySet k.unit k.idx k.val (tlyDrop i s))) ∧
  (∀ (s : State) (i : Nat) (k : TPkt),
    tlyPacket s i = some k → k.op = 1 → tlyAdmits s k.brand k.unit k.idx k.g1 = true → exec (.tallyWaitRequest i) s = .next (evalWaits k.unit k.idx { bumpOps k.unit (tlyDrop i s) with tlyWaits := (bumpOps k.unit (tlyDrop i s)).tlyWaits ++
        [{ unit := k.unit, idx := k.idx, cond := k.cond, val := k.val, ret := k.ret }] })) ∧
  (∀ (s : State) (i : Nat) (k : TPkt),
    tlyPacket s i = some k → k.op = 1 → tlyAdmits s k.brand k.unit k.idx k.g1 = false → exec (.tallyWaitRequest i) s = .next (tlyRefuse k (tlyDrop i s))) ∧
  (∀ (s : State) (i a b0 : Nat) (k : TPkt) (e : QEnt),
    tlyPacket s i = some k → k.op = 5 → k.ret = [1, a, b0] → qFind s a .x b0 = some e → exec (.tallyWaitAnswer i) s = .next (qFree a .x b0 (spWaited a e.task e.bun (tlyDrop i s)))) ∧
  (∀ (s : State) (i a b0 : Nat) (k : TPkt),
    tlyPacket s i = some k → k.op = 5 → k.ret = [3, a, b0] → exec (.tallyWaitAnswer i) s = .next (hostDone a b0 0 (k.val % 2 ^ 32) (tlyDrop i s))) ∧
  (∀ (s : State) (i : Nat) (k : TPkt),
    tlyPacket s i = some k → k.op = 6 → exec (.tallyRefusal i) s = .next (tlyRefused k.cond k.ret (tlyDrop i s))) ∧
  (∀ (s : State) (u0 i : Nat) (data : Word),
    i < tlyCounters u0 → exec (.tlyCntWrite u0 i data) s = .next (if tlyWriteWaits s u0 i then tlyHold 7 u0 i data.toNat s else tallySet u0 i data.toNat s)) ∧
  (∀ (s : State) (u0 i : Nat) (data : Word),
    i < tlyCounters u0 → exec (.tlyAddWrite u0 i data) s = .next (if tlyWriteWaits s u0 i then tlyHold 0 u0 i data.toNat s else tallyAdd u0 i data.toNat s)) ∧
  (∀ (s : State) (u0 k : Nat),
    4 * k < tlyCounters u0 → watchRd s TLY_WATCH_pending KTLY_WATCH_pending u0 k = 0 → exec (.tlyWatchCancel u0 k) s = .next (watchFree u0 k s))

/-- Gets and puts (R453-R461): a BYR operation sets out; at the M die the gate of the pool admits it, answers status 5 for a shared pool, or refuses it; what it admits is served and its answer goes back; the host's own gets and puts show in BYR_HRES. BYR_PCMD (R449, R450, R465-R469): a create, rebuild or audit that nothing forbids is accepted and runs to its end; a destroy takes effect at once; what is forbidden shows its error; a reclaim ends with its buffers back on the free list. -/
def Obligations.ByrePoolsComplete : Prop :=
  (∀ (s : State) (c : Nat) (e : QEnt),
    let p := pcore s c
    let v := xMark p e s
    xHead s p = some e → e.op = 0x40 → xMayStart s p e = true → exec (.byrGet c) s = .next (byrSend false p e v)) ∧
  (∀ (s : State) (c : Nat) (e : QEnt),
    let p := pcore s c
    let v := xMark p e s
    xHead s p = some e → e.op = 0x41 → xMayStart s p e = true → exec (.byrPut c) s = .next (byrSend true p e v)) ∧
  (∀ (s : State) (i : Nat) (r : ByrReq),
    let v := { s with byrQ := listDrop s.byrQ i }
    byrPacket s i false = some r → poolGate s r = 2 → exec (.byreGet i) s = .next (byrRefuse r v)) ∧
  (∀ (s : State) (i : Nat) (r : ByrReq),
    let v := { s with byrQ := listDrop s.byrQ i }
    byrPacket s i false = some r → poolGate s r = 1 → exec (.byreGet i) s = .next (byrAnswer r 5 0 (bump (BYR_PREF_count.ix r.pool) r.d v))) ∧
  (∀ (s : State) (i : Nat) (r : ByrReq),
    let v := { s with byrQ := listDrop s.byrQ i }
    byrPacket s i false = some r → poolGate s r = 0 → exec (.byreGet i) s = .next (byrAnswer r (byreGet r.d r.pool r.brand (reqCore r.core) v).1.status
        (if (byreGet r.d r.pool r.brand (reqCore r.core) v).1.status = 0 then
          poolVBase (byreGet r.d r.pool r.brand (reqCore r.core) v).2 r.d r.pool +
            (byreGet r.d r.pool r.brand (reqCore r.core) v).1.buf * poolSize (byreGet r.d r.pool r.brand (reqCore r.core) v).2 r.d r.pool
         else 0) (byreGet r.d r.pool r.brand (reqCore r.core) v).2)) ∧
  (∀ (s : State) (i : Nat) (r : ByrReq),
    let v := { s with byrQ := listDrop s.byrQ i }
    byrPacket s i true = some r → poolGate s r = 2 → exec (.byrePut i) s = .next (byrRefuse r v)) ∧
  (∀ (s : State) (i : Nat) (r : ByrReq),
    let v := { s with byrQ := listDrop s.byrQ i }
    byrPacket s i true = some r → poolGate s r = 1 → exec (.byrePut i) s = .next (byrAnswer r 5 0 (bump (BYR_PREF_count.ix r.pool) r.d v))) ∧
  (∀ (s : State) (i : Nat) (r : ByrReq),
    let v := { s with byrQ := listDrop s.byrQ i }
    byrPacket s i true = some r → poolGate s r = 0 → exec (.byrePut i) s = .next (byrAnswer r (byrePut r.d r.pool (if poolVBase s r.d r.pool ≤ r.va then some (r.va - poolVBase s r.d r.pool) else none) v).1.status 0
        (byrePut r.d r.pool (if poolVBase s r.d r.pool ≤ r.va then some (r.va - poolVBase s r.d r.pool) else none) v).2)) ∧
  (∀ (s : State) (brand d0 : Nat) (data : Word),
    let d2 := d0 % 2
    let v := accFlush s
    let r := byreGet d2 (fieldGet data 7 0) brand (fieldGet data 27 8) v
    mainPowered v = true → csrGate v brand (8 + d2) 0x830008 8 true = 0 →
      exec (.byrHget brand d0 data) s = .next (emit .ack [brand, 8 + d2, 0x830008, 0]
        (hostResult d2 false (if r.1.status = 0 then bufAddr r.2 d2 (fieldGet data 7 0) r.1.buf else 0) r.1.status r.2))) ∧
  (∀ (s : State) (d0 : Nat) (data : Word),
    let d2 := d0 % 2
    let pa := fieldGet data 51 8 * 256
    let r := byrePut d2 (fieldGet data 7 0) (if poolBase s d2 (fieldGet data 7 0) ≤ pa then some (pa - poolBase s d2 (fieldGet data 7 0)) else none) s
    exec (.byrHput d0 data) s = .next (hostResult d2 true 0 r.1.status r.2)) ∧
  (∀ (s : State) (d0 j : Nat),
    let d2 := d0 % 2
    let j2 := j % 256
    createErr s d2 j2 = 0 → exec (.byreCreate d0 j) s = .next (cmdStat d2 j2 0 true (cmdPut d2 1 j2 s))) ∧
  (∀ (s : State) (d0 j c : Nat),
    let d2 := d0 % 2
    let j2 := j % 256
    createErr s d2 j2 = c → c ≠ 0 → exec (.byreCreate d0 j) s = .next (cmdStat d2 j2 c true s)) ∧
  (∀ (s : State) (d0 : Nat),
    let d2 := d0 % 2
    cmdOp s d2 = 1 → exec (.byreCreateDone d0) s = .next (cmdOver d2 (refreshOvercommit d2 (cmdPool s d2) (rebuildList d2 (cmdPool s d2) (wr (BYR_PSTAT_created.ix (cmdPool s d2)) d2 1
        (memWrite (poolLedger s d2 (cmdPool s d2)) (List.replicate (16 * poolCount s d2 (cmdPool s d2)) 0) []
          (memWrite (poolBase s d2 (cmdPool s d2)) (List.replicate (poolCount s d2 (cmdPool s d2) * poolSize s d2 (cmdPool s d2)) 0) [] s))))))) ∧
  (∀ (s : State) (d0 j : Nat),
    let d2 := d0 % 2
    let j2 := j % 256
    let err := if rdB s BYR_CMDSTAT_busy d2 ∨ !poolCreated s d2 j2 then 1
      else if (!poolBroken s d2 j2 ∧ poolFree s d2 j2 < poolCount s d2 j2) ∨ !(poolGet s d2 j2).reclaim.isEmpty then 4 else 0
    err = 0 → exec (.byreDestroy d0 j) s = .next (cmdStat d2 j2 0 false (poolDestroy d2 j2 s))) ∧
  (∀ (s : State) (d0 j c : Nat),
    let d2 := d0 % 2
    let j2 := j % 256
    let err := if rdB s BYR_CMDSTAT_busy d2 ∨ !poolCreated s d2 j2 then 1
      else if (!poolBroken s d2 j2 ∧ poolFree s d2 j2 < poolCount s d2 j2) ∨ !(poolGet s d2 j2).reclaim.isEmpty then 4 else 0
    err = c → c ≠ 0 → exec (.byreDestroy d0 j) s = .next (cmdStat d2 j2 c false s)) ∧
  (∀ (s : State) (d0 j : Nat),
    let d2 := d0 % 2
    let j2 := j % 256
    let err := if rdB s BYR_CMDSTAT_busy d2 ∨ !poolCreated s d2 j2 then 1 else 0
    err = 0 → exec (.byreRebuild d0 j) s = .next (cmdStat d2 j2 0 true (cmdPut d2 3 j2 (wr (BYR_PSTAT_rebuild.ix j2) d2 1 s)))) ∧
  (∀ (s : State) (d0 j c : Nat),
    let d2 := d0 % 2
    let j2 := j % 256
    let err := if rdB s BYR_CMDSTAT_busy d2 ∨ !poolCreated s d2 j2 then 1 else 0
    err = c → c ≠ 0 → exec (.byreRebuild d0 j) s = .next (cmdStat d2 j2 c true s)) ∧
  (∀ (s : State) (d0 j : Nat),
    let d2 := d0 % 2
    let j2 := j % 256
    let v1 := wr (BYR_PSTAT_rebuild.ix j2) d2 0 (ledgerRead d2 j2 s).2
    let v := if (ledgerRead d2 j2 s).1 then poolBreaks d2 j2 v1 else rebuildList d2 j2 v1
    poolRebuild s d2 j2 = true → exec (.byreRebuildDone d0 j) s = .next (if cmdOp v d2 = 3 ∧ cmdPool v d2 = j2 then cmdOver d2 v else v)) ∧
  (∀ (s : State) (d0 j : Nat),
    let d2 := d0 % 2
    let j2 := j % 256
    let err := if rdB s BYR_CMDSTAT_busy d2 ∨ !poolCreated s d2 j2 then 1 else 0
    err = 0 → exec (.byreAudit d0 j) s = .next (cmdStat d2 j2 0 true (cmdPut d2 4 j2 (((List.range 4096).filter (fun e => rd s (BYR_QKEY_pool.ix e) d2 == j2)).foldl
        (fun s e => (List.range 4).foldl (fun s b => wr (BYR_AUD_count.ix2 e b) d2 0 s) s) s)))) ∧
  (∀ (s : State) (d0 j c : Nat),
    let d2 := d0 % 2
    let j2 := j % 256
    let err := if rdB s BYR_CMDSTAT_busy d2 ∨ !poolCreated s d2 j2 then 1 else 0
    err = c → c ≠ 0 → exec (.byreAudit d0 j) s = .next (cmdStat d2 j2 c true s)) ∧
  (∀ (s : State) (d0 : Nat),
    let d2 := d0 % 2
    cmdOp s d2 = 4 → (ledgerRead d2 (cmdPool s d2) s).1 = false → exec (.byreAuditDone d0) s = .next (cmdOver d2 ((List.range (poolCount s d2 (cmdPool s d2))).foldl (fun y k =>
        if ledgerState y d2 (cmdPool s d2) k = 1 then
          bump (BYR_AUD_count.ix2 (ledgerEntry y d2 (cmdPool s d2) k % 4096) (ageBucket (cmdTick s d2) (ledgerTick y d2 (cmdPool s d2) k))) d2 y
        else y) (ledgerRead d2 (cmdPool s d2) s).2))) ∧
  (∀ (s : State) (d0 j : Nat),
    let d2 := d0 % 2
    let j2 := j % 256
    let back := fun (y : State) (k : Nat) =>
      let y1 := writeLedger d2 j2 k 0 0 0 y
      let y2 := if poolRebuild y1 d2 j2 then y1 else poolMod d2 j2 (fun z => { z with head := k }) (writeHeader d2 j2 k (poolGet y1 d2 j2).head y1)
      setFree d2 j2 (poolFree y2 d2 j2 + 1) y2
    let v := wr (BYR_PSTAT_reclaiming.ix j2) d2 0 (poolMod d2 j2 (fun z => { z with reclaim := [] }) ((poolGet s d2 j2).reclaim.foldl back s))
    (poolGet s d2 j2).reclaim ≠ [] → exec (.byreReclaimDone d0 j) s = .next (if (poolGet v d2 j2).destroyAfter then poolDestroy d2 j2 v else v))

/-- The Fold commands (R487, R490, R494): FLD_CMD and the Fold doorbell ask for a load, a swap or a verification of paddock n, or are held while a live activation runs (R741); a verification ends with its code; a loaded section, a swap's section and the golden blocks take effect when played; a swap that was not possible for 64 ticks is dropped (R495); while a reload runs the background work pauses (R491), and a reload has its block written first where it is not yet (R504), plays it and restarts the paddock (R497). -/
def Obligations.FoldCommandsComplete : Prop :=
  (∀ (s : State) (n : Nat),
    n < 64 → exec (.fldLoad n) s = .next (if activating s then holdCmd [2, n, 1, 0] s else foldLoad n s)) ∧
  (∀ (s : State) (n : Nat),
    n < 64 → exec (.hstFolddb n) s = .next (if activating s then holdCmd [2, n, 1, 0] s else foldLoad n s)) ∧
  (∀ (s : State) (n k : Nat),
    n < 64 → exec (.fldSwap n k) s = .next (if activating s then holdCmd [2, n, 2, k] s else foldSwap n k s)) ∧
  (∀ (s : State) (n : Nat),
    n < 64 → exec (.fldVerify n) s = .next (if activating s then holdCmd [2, n, 3, 0] s else foldVerify n s)) ∧
  (∀ (s : State) (n : Nat),
    let x := imgVerify s n (foldGet s n).req
    (foldGet s n).job = 3 → exec (.foldVerifyDone n) s = .next (foldShow n (foldErr n x.1 (foldMod n (fun y => { y with job := 0 })
      (sigNote n (memAt s (foldGet s n).req.img 0x0C) x.1 (if x.2 = 0 then s else wr (FLD_GNEED_units.ix n) 0 x.2 s)))))) ∧
  (∀ (s : State) (n : Nat),
    (foldGet s n).job = 2 → reloading s = false → foldShift s n = false → placement s n = none → exec (.foldLoadDone n) s = .next (strandAs n 13 s)) ∧
  (∀ (s : State) (n p : Nat),
    let r := playSection n ((goldStreams s n).getD p []) s
    let s1 := wr FLD_EVT_load_done 0 1 (showPlacement n p (goldWrite n 0 p (goldHeader n (foldMod n (fun j => { j with job := 0 }) r.2))))
    (foldGet s n).job = 2 → reloading s = false → foldShift s n = false → placement s n = some p → r.1 = none → exec (.foldLoadDone n) s = .next (foldShow n (if isStandby s1 n then pairForm n (wr PDK_STATUS_state n 6 s1) else scheduleNext 0x21 n s1))) ∧
  (∀ (s : State) (n : Nat),
    (foldGet s n).has = true → (foldGet s n).job ≠ 2 → reloading s = false → rdB s (FLD_PSTAT_golden_done.ix n) 0 = false → exec (.goldenDone n) s = .next (foldShow n (wr (FLD_PSTAT_golden_done.ix n) 0 1 (((blockKeys (foldGet s n).secs (foldGet s n).vars).filter
        (fun k => !(foldGet s n).written.contains (k.1 * ((foldGet s n).vars + 1) + k.2))).foldl (fun y k => goldWrite n k.1 k.2 y) s)))) ∧
  (∀ (s : State) (n p : Nat),
    let r := playSection n ((goldStreams s n).getD ((foldGet s n).sect * ((foldGet s n).vars + 1) + p) []) s
    (foldGet s n).job = 5 → foldShift s n = false → placement s n = some p → r.1 = none → exec (.swapPlayDone n) s = .next (foldShow n (bump (FLD_SWAPS_count.ix n) 0 (scheduleNext 0x21 n (showPlacement n p (foldMod n (fun y => { y with job := 0 }) r.2)))))) ∧
  (∀ (s : State) (n : Nat),
    (foldGet s n).job = 4 → swapBlock s n = true → parked s n = false → (foldGet s n).since + 64 ≤ curTick s → exec (.swapDropped n) s = .next (foldRecord n 0 (wr FLD_EVT_swap_dropped 0 1 (foldShow n (foldErr n 11 (unschedule 0x22 n (foldMod n (fun j => { j with job := 0 }) s))))))) ∧
  (∀ (s : State) (n p : Nat) (ws : List FWr),
    let k := (foldGet s n).vars
    let sec := rd s (FLD_PSTAT_section.ix n) 0
    let v := if (foldGet s n).written.contains (sec * (k + 1) + p) then s else goldWrite n sec p s
    (foldGet s n).job = 6 → s.repairs.any (fun r => r.pdk == n + 1) = false → foldShift s n = false → placement s n = some p → goldRead v n (rd v (FLD_PSTAT_section.ix n) 0) p = some ws → (playSection n ws v).1 = none → exec (.foldReloadDone n) s = .next (foldShow n (scheduleNext 0x23 n (showPlacement n p (foldMod n (fun j => { j with job := 0 }) (playSection n ws v).2)))))

/-- Epochs of an integrity paddock (R507-R517): a quiet paddock closes its epoch; a closed epoch without a failure commits; a failure quenches the paddock, or regathers it where its epoch had been replayed; at the end of the drain the replay is scheduled or the epoch is abandoned; committed entries are sent in order (R513). Watch pairs (R519-R525): a prepared copy is marked and, at a local standby, written with its start record; its commit reaches the standby and counts; a trigger starts the failover, whose restore ends with the section start; PDK_WPCMD asks for a failover, re-pairs, or dissolves the pair. -/
def Obligations.EpochsAndWatchPairsComplete : Prop :=
  (∀ (s : State) (n : Nat),
    n < 64 → integrityOf s n = true → pdkState s n = 3 → epPhase s n = 1 → quiet s n = true → exec (.epochClose n) s = .next (wr PDK_EPSTAT_phase n 2 s)) ∧
  (∀ (s : State) (n : Nat),
    n < 64 → pdkState s n = 3 → epPhase s n = 2 → (pdkGet s n).epFailed = 0 → (pdkGet s n).epAbandoned = false → (pdkPcores s n).all (fun p => (coreGet s p).checks.isEmpty) = true → exec (.epochDecide n) s = .next (epochCommit n s)) ∧
  (∀ (s : State) (n : Nat),
    let v := wr PDK_EPSTAT_phase n 3 (meshMod n (fun m => { m with running := false, held := false }) (stopWork n 5 s))
    n < 64 → pdkState s n = 3 → (epPhase s n = 1 ∨ epPhase s n = 2) → ((pdkGet s n).epFailed ≠ 0 ∨ (pdkGet s n).epAbandoned = true) → ((pdkGet s n).epFailed ≠ 0 → (pdkGet s n).epReplay ≠ rd s PDK_EPOCH_epoch n) →
      exec (.quench n) s = .next (ringsIdle (n + 1) { v with
          hostEnts := v.hostEnts.map (fun h => if h.f = n + 1 ∧ (h.st = 1 ∨ h.st = 2) then { h with st := 0 } else h),
          tlyWaits := v.tlyWaits.filter (fun w => (w.ret.take 2) != [3, n + 1]),
          tlyQ := v.tlyQ.filter (fun k => (k.ret.take 2) != [3, n + 1]) })) ∧
  (∀ (s : State) (n : Nat),
    n < 64 → pdkState s n = 3 → (epPhase s n = 1 ∨ epPhase s n = 2) → (pdkGet s n).epFailed ≠ 0 → (pdkGet s n).epReplay = rd s PDK_EPOCH_epoch n → exec (.quench n) s = .next (mcoreMod (pcore s (pdkCore s n (rd s PDK_EPFAIL_core n))) (fun m => { m with due := curTick s + 1 }) (regatherStart n 3 s))) ∧
  (∀ (s : State) (n : Nat),
    let s1 := dropWhistle n (emptyMesh n (dropReads n s))
    let s2 := (pdkPcores s1 n).foldl (fun y q => quenchConns q (emptyWhistle q y)) s1
    let s3 := reclaimPaddock n .quench (resetTally n (fun y a b0 => mapGet 0 y.tlyShadow (4096 * a + b0)) (resetCtxs n s2))
    let s4 := holdShow n { s3 with held := s3.held.filter (fun h => h.n != n || committedHeld s3 n h) }
    let s5 := refetch (n + 1) s4
    n < 64 → epPhase s n = 3 → exec (.quenchDrainEnd n) s = .next (if (pdkGet s n).epFailed ≠ 0 then scheduleNext 0x22 n (wr PDK_EPSTAT_phase n 4 s5) else wr PDK_EPSTAT_phase n 5 s5)) ∧
  (∀ (s : State) (n : Nat) (h : Hold),
    s.held.find? (fun y => y.n == n) = some h → n < 64 → rdB s PDK_EPSTAT_drain n = true → committedHeld s n h = true → h.kind = 1 → exec (.drainSend n) s = .next (drainNext n (drainWrite n h s))) ∧
  (∀ (s : State) (n m : Nat),
    let v := watchMod n (fun y => { y with ready := true }) s
    n < 64 → rd s PDK_WPSTAT_state n = 2 → (watchGet s n).copy ≠ 0 → (watchGet s n).ready = false → localPartner s n = some m → exec (.copyPrepared n) s = .next (watchMod m (fun y => if freeBank v m = 0 then { y with bankOk := true, sect0 := nextSection v n } else { y with bankOk := true, sect1 := nextSection v n })
        (copyState n (bankAddr v m (freeBank v m)) v))) ∧
  (∀ (s : State) (n : Nat),
    n < 64 → rd s PDK_WPSTAT_state n = 2 → (watchGet s n).copy ≠ 0 → (watchGet s n).ready = false → localPartner s n = none → exec (.copyPrepared n) s = .next (watchMod n (fun y => { y with ready := true }) s)) ∧
  (∀ (s : State) (n : Nat),
    let s1 := match localPartner s n with
      | none => s
      | some m => wr PDK_WPSTAT_bank m (freeBank s m) (wr PDK_WPCEPOCH_epoch m ((watchGet s n).copy - 1)
          (watchMod m (fun v => { v with bankEp := 0, bankOk := false }) s))
    let s2 := bump PDK_WPCOPIES_count n (wr PDK_WPSTAT_state n 1 (watchMod n (fun v => { v with copy := 0, ready := false, next := 0 }) s1))
    n < 64 → rd s PDK_WPSTAT_state n = 2 → (watchGet s n).copy ≠ 0 → (watchGet s n).ready = true → exec (.copyCommit n) s = .next (if (watchGet s n).next = 0 then s2 else copyBegin n ((watchGet s n).next - 1) s2)) ∧
  (∀ (s : State) (n : Nat),
    let s0 := abandonTests n s
    let s1 := if (watchGet s n).bankEp ≠ 0 then wr PDK_WPSTAT_partial n 1 s0 else s0
    let s2 := wr PDK_WPSTAT_state n 4 (wr PDK_WPCFG_role n 0 (pdkMod n (fun x => { x with failDue := false })
      (watchMod n (fun w => { w with bankEp := 0, bankOk := false, fail := 1 }) s1)))
    n < 64 → canFailover s n = true → ((pdkGet s n).failDue = true ∨ rdB s PDK_WPCFG_remote n = true) → exec (.failover n) s = .next (match localPartner s n with
        | some m => wr PDK_WPCFG_role m 1 (watchMod m (fun w => { w with copy := 0, ready := false, next := 0 }) s2)
        | none => s2)) ∧
  (∀ (s : State) (n : Nat),
    n < 64 → (watchGet s n).fail = 1 → foldShift s n = false → exec (.failoverRestoreDone n) s = .next (scheduleNext 0x21 n (watchMod n (fun w => { w with fail := 2 }) (if rd s PDK_WPCEPOCH_epoch n = 0 then s else restoreSection n (restoreState n s))))) ∧
  (∀ (s : State) (n : Nat),
    n < 64 → isStandby s n = true → rd s PDK_WPSTAT_state n ≠ 0 → exec (.failOverNow n) s = .next (pdkMod n (fun x => { x with failDue := true }) s)) ∧
  (∀ (s : State) (n : Nat),
    let s1 := wr PDK_WPSTAT_state n 1 (watchMod n (fun w => { w with copy := 0, ready := false, next := 0 }) s)
    n < 64 → rdB s PDK_WPCFG_en n = true → (rd s PDK_WPSTAT_state n = 3 ∨ rd s PDK_WPSTAT_state n = 4) → exec (.rePair n) s = .next (match localPartner s n with
        | some m => wr PDK_WPSTAT_state m 1 s1
        | none => s1)) ∧
  (∀ (s : State) (n : Nat),
    let apart := fun (a : Nat) (y : State) => wr PDK_WPSTAT_state a 0 { y with watches := mapSet watchReset y.watches a watchReset }
    n < 64 → rd s PDK_WPSTAT_state n ≠ 0 → exec (.unpair n) s = .next (match localPartner s n with
        | some m => apart m (apart n s)
        | none => apart n s))

/-- The Walker, Muster and in-field repair (R541-R559): a slice reads its next frame and ends; a due reload is made; a round starts tests in a window with room for them, which pass or fail; a slice of a shared block ends, yields or is forced; a column whose pauses end is shifted; accesses that waited go on (R70, R551). -/
def Obligations.AgeingCommandsComplete : Prop :=
  (∀ (s : State) (d0 a : Nat) (wrap : Bool),
    d0 < 8 → (walkerGet s d0).on = true → (walkerGet s d0).left ≠ 0 → walkNext s d0 (walkerGet s d0).at_ = some (a, wrap) → exec (.walkerFrameRead d0) s = .next (walkFrame d0 (512 * d0 + a / 576) (a % 576) (walkerMod d0 (fun w => { w with at_ := a + 1, left := w.left - 1 })
        (if wrap then passEnd d0 s else s)))) ∧
  (∀ (s : State) (d0 : Nat) (ok : Bool) (n : Nat) (y : Nat × Nat) (bs : List Nat),
    s.wlkDue.find? (fun x => x.1 / 512 == d0 && !underTest s x.1) = some y → pcorePdk s y.1 = some n → (foldGet s n).has = true → (pdkState s n = 3 ∨ pdkState s n = 6) → goldRecord s n y.1 y.2 = some bs → exec (.walkerReload d0 ok) s = .next (walkReload d0 n y.1 y.2 ok bs { s with wlkDue := listDropFirst (fun z => z == y) s.wlkDue })) ∧
  (∀ (s : State) (d0 : Nat),
    d0 < 8 → (walkerGet s d0).on = true → exec (.walkerSliceEnd d0) s = .next (walkBusy (walkerMod d0 (fun w => { w with on := false }) s))) ∧
  (∀ (s : State) (d0 : Nat),
    d0 < 8 → roundFits s d0 = true → (dieCores d0).any (underTest s) = false → exec (.musterRound d0) s = .next (((((dieCores d0).filter (fun p => testable s p && coreDue s p)).foldl (fun l p => dueInsert s p l) []).take
        (clampNat 1 64 (eff s MST_CFG_par 0))).foldl (fun y p => musterMark p true (mcoreMod p (fun m => { m with test := curTick y + 1 }) y)) s)) ∧
  (∀ (s : State) (p unit : Nat),
    underTest s p = true → exec (.musterCoreTestEnd p true unit) s = .next (accFlush (testDone p s))) ∧
  (∀ (s : State) (p unit : Nat),
    underTest s p = true → exec (.musterCoreTestEnd p false unit) s = .next (accFlush (testFails p unit s))) ∧
  (∀ (s : State) (b0 : Nat) (ok : Bool),
    let v := wr (MST_BLK_starve.ix b0) 0 0 (wr (MST_BLK_forced_next.ix b0) 0 0 (sliceStart 0 b0 s))
    b0 < 37 → blockTested s b0 = true → exec (.musterSliceEnd b0 ok) s = .next (if !ok then blockFails b0 (rd s (MST_BLK_slice.ix b0) 0) v
        else if rd s (MST_BLK_slice.ix b0) 0 + 1 < blockSlices b0 then wr (MST_BLK_slice.ix b0) 0 (rd s (MST_BLK_slice.ix b0) 0 + 1) v
        else wr (MST_BLK_running.ix b0) 0 0 (wr (MST_BLK_slice.ix b0) 0 0 v))) ∧
  (∀ (s : State) (b0 : Nat),
    b0 < 37 → mapGet 0 s.mslice b0 = 1 → exec (.musterSliceYield b0) s = .next (bump (MST_BLK_yields.ix b0) 0 (sliceStart 0 b0 s))) ∧
  (∀ (s : State) (b0 : Nat),
    let v := wr MST_EVT_forced 0 1 (wr (MST_BLK_forced_next.ix b0) 0 1 (scheduleNext 0x34 (blockDie b0) s))
    b0 < 37 → rdB s (MST_BLK_running.ix b0) 0 = true → 64 ≤ rd s (MST_BLK_starve.ix b0) 0 → rdB s (MST_BLK_forced_next.ix b0) 0 = false → exec (.musterStarved b0) s = .next (pfEvent 0x93 11 [regNat v MST_EVT_core_fail 0, regNat v MST_LAST_valid 0] v)) ∧
  (∀ (s : State) (y : Nat × Repair),
    ((List.range s.repairs.length).zip s.repairs).find? (fun x => x.2.stage == 3) = some y →
      exec (.columnPauseEnd) s = .next (accFlush (repairAdvance (wr CUL_STAT_shift_busy 0 0 (shiftColumn (pcol y.2.p) (prow y.2.p) y.2.pdk { s with repairs := listDrop s.repairs y.1 })))))

/-- Ration (R578-R594). ENERGY_SAMPLE, in every state: the sample is taken, paddocks that have spent their budget hold, and with the package's budget spent all do. GRANT_STALE and INLET_STALE raise their flags where the value is old. GRANT and INLET take effect where the PEC is right and the bus is their source, and are counted in RTN_BUSERR where it is wrong; SPENT, BELL and LIMITS are answered in every state (R591). TELEMETRY_COMPARE judges the 64 ticks' energy (R594). -/
def Obligations.RationCommandsComplete : Prop :=
  (∀ (s : State) (t spent outside : Nat) (pads peak held dyn leak run hold tj tjs tjm : List Nat),
    let ns := pdksCreated s
    let s1 := ns.foldl (fun y n => if (meshGet y n).hRation then bump (RTN_PHOLD_count.ix n) 0 y else y) (atTime t s)
    let s2 := junction (takeSample spent outside pads dyn leak run hold tj tjs tjm s1)
    let s3 := ns.foldl (fun y n =>
      if 1000 * rd y (RTN_PBUDGET_budget.ix n) 0 ≤ pads.getD n 0 + peak.getD n 0 + held.getD n 0 then ratHold n y else y) s2
    let serving := sumNat ((ns.filter (fun n => pdkState s3 n == 3)).map (fun n => peak.getD n 0))
    let s4 := if 1000 * s3.ration.gEff ≤ spent + serving + peak.getD 64 0 + held.getD 64 0 then
        ns.foldl (fun y n => ratHold n y) (ratMod (fun r => { r with pkgHold := true }) (rtnSet 6 s3)) else s3
    let s5 := if s1.ration.emerg && !s4.ration.emerg && !s4.ration.pkgHold then
        ns.foldl (fun y n =>
          if 1000 * rd y (RTN_PBUDGET_budget.ix n) 0 ≤ pads.getD n 0 + peak.getD n 0 + held.getD n 0 then y
          else meshMod n (fun m => { m with hRation := false }) y) s4
      else s4
    exec (.energySample t spent outside pads peak held dyn leak run hold tj tjs tjm) s = .next (if s5.ration.emerg then ns.foldl (fun y n => ratHold n y) s5 else s5)) ∧
  (∀ (s : State),
    grantOld s = true → rtnFlag s 8 = false → exec (.grantStale) s = .next (rtnSet 8 s)) ∧
  (∀ (s : State),
    inletOld s = true → rtnFlag s 1 = false → exec (.inletStale) s = .next (wr RTN_EVT_inlet_stale 0 1 (rtnSet 1 s))) ∧
  (∀ (s : State) (v0 : Nat),
    rd s RTN_CFG_src_grant 0 = 0 → exec (.grant v0 true) s = .next (grantWrite v0 s)) ∧
  (∀ (s : State) (v0 : Nat),
    exec (.grant v0 false) s = .next (bump RTN_BUSERR_count 0 s)) ∧
  (∀ (s : State) (v0 : Nat),
    rd s RTN_CFG_src_inlet 0 = 0 → exec (.inlet v0 true) s = .next (inletWrite v0 s)) ∧
  (∀ (s : State) (v0 : Nat),
    exec (.inlet v0 false) s = .next (bump RTN_BUSERR_count 0 s)) ∧
  (∀ (s : State),
    exec (.spent) s = .next (emit .rationReply (leBytes 4 (rd s RTN_LAST_tick 0) ++ leBytes 2 (rd s RTN_LAST_spent 0) ++ leBytes 2 (rd s RTN_LAST_g_eff 0) ++
        leBytes 2 (rd s RTN_FREQ_f_now 0) ++ leBytes 2 (rd s RTN_STAT_flags 0)) s)) ∧
  (∀ (s : State),
    exec (.bell) s = .next (emit .rationReply (leBytes 2 (regNat s BEL_STATUS_state 0)) s)) ∧
  (∀ (s : State),
    exec (.limits) s = .next (emit .rationReply (leBytes 2 (envelopeW s) ++ leBytes 2 (floorEff s) ++ leBytes 2 (rd s RTN_FREQ_f_cool 0) ++
        leBytes 2 (rd s RTN_FLIM_f_t 0)) s)) ∧
  (∀ (s : State),
    let a := pinEnergy s
    let v := ratMod (fun r => { r with pinSum := [], pinCnt := [], winTicks := 0, winLen := 0, winSpent := 0 }) s
    64 ≤ s.ration.winTicks → exec (.telemetryCompare) s = .next (if decide (s.ration.winSpent < 10 * (a - s.ration.winSpent)) || decide (s.ration.winSpent < 10 * (s.ration.winSpent - a)) then
        rtnRecord (wr RTN_EVT_telemetry_mismatch 0 1 (rtnSet 9 v)) else v))

/-- The Flockbook (R605-R622). RECORD_WRITE starts the write that is due, in an open commit window or with the timebase Stopped; RECORD_COMMIT of a write under way frees its place, or counts the failure and tries again, the fourth failing the bank; COMMIT_WINDOW_END closes the window between writes; FBK_RSEL_WRITE latches a slot, FBK_FIND the record asked for, or shows that it is not there; FBK_CALSET sets the calendar and FBK_CAL_READ reads it; BANK_CONTROLLER_FAULT fails its bank. -/
def Obligations.FlockbookCommandsComplete : Prop :=
  (∀ (s : State) (y : FbkWrite),
    logMute s = false → (s.fbk.winOpen = true ∨ belState s = belStopped) → s.fbk.write = some y → y.going = false → exec (.recordWrite) s = .next (if y.kind = 2 ∨ y.kind = 3 then writeStart y s else ringWrite y s)) ∧
  (∀ (s : State) (y : FbkWrite),
    s.fbk.write = some y → y.going = true → exec (.recordCommit true) s = .next (fbkShow (latchDue (writeDone y s)))) ∧
  (∀ (s : State) (y : FbkWrite),
    let s1 := countLife 15 1 (bump FBK_WFAIL_count 0 (fbkMod (fun b => { b with failSlot := mapSet 0 b.failSlot y.bank y.slot }) s))
    let s2 := fbkMod (fun b => { b with write := some { y with attempts := y.attempts + 1, going := false } }) s1
    s.fbk.write = some y → y.going = true → exec (.recordCommit false) s = .next (fbkShow (latchDue (if y.attempts + 1 < 4 then s2 else bankFails y.bank s2)))) ∧
  (∀ (s : State),
    s.fbk.write = none → exec (.commitWindowEnd) s = .next (fbkMod (fun b => { b with winOpen := false }) s)) ∧
  (∀ (s : State) (data : Word),
    let v := wr FBK_RSTAT_found 0 0 (wr FBK_RSEL_bank 0 (fieldGet data 16 16) (wr FBK_RSEL_slot 0 (fieldGet data 15 0) s))
    s.fbk.write = none → exec (.fbkRselWrite data) s = .next (latchSlot (fieldGet data 16 16) (fieldGet data 15 0) v)) ∧
  (∀ (s : State) (data : Word) (k : Nat),
    findSeq s data.toNat = some k → exec (.fbkFind data) s = .next (wr FBK_RSTAT_found 0 1 (latchSlot (k / 65536) (k % 65536) s))) ∧
  (∀ (s : State) (data : Word),
    findSeq s data.toNat = none → exec (.fbkFind data) s = .next (wr FBK_RSTAT_found 0 0 (wr FBK_RSTAT_valid 0 0 s))) ∧
  (∀ (s : State) (data : Word),
    exec (.fbkCalset data) s = .next (calSet data.toNat s)) ∧
  (∀ (s : State),
    exec (.fbkCalRead) s = .next (calRead s)) ∧
  (∀ (s : State) (b0 : Nat),
    exec (.bankControllerFault b0) s = .next (bankFails (b0 % 2) s))

/-- The trace sink (R636-R649): a line of an open trace reaches the sink's buffer, or is refused; FTF_SNKCMD flushes, resumes after a fault and dumps; a crook stop ends when the paddock stands and its lines are out, and is released by command. -/
def Obligations.TraceSinkCommandsComplete : Prop :=
  (∀ (s : State) (c n : Nat) (ws : List Nat),
    corePdk s c = some n → lineOf s (pcore s c) n = some ws → (sinkGet s n).close = 0 → exec (.traceLineDeliver c) s = .next (if !sinkAccepts s n then sinkRefuses n s
      else if (sinkBuffer n s).1 then sinkLine n (pcore s c) ws (sinkServes n (sinkBuffer n s).2) else sinkRefuses n (sinkBuffer n s).2)) ∧
  (∀ (s : State) (n : Nat),
    pdkCreated s n = true → exec (.flush n) s = .next (sinkPump n (sinkMod n (fun k => { k with flush := true }) s))) ∧
  (∀ (s : State) (n : Nat),
    pdkCreated s n = true → rdB s FTF_PSTAT_sink_fault (ftfI s n) = true → exec (.sinkResume n) s = .next (wr FTF_PSTAT_sink_fault (ftfI s n) 0 { s with fab := s.fab.map (fun x => match x.ret with
          | .sink m _ => if m = n ∧ x.stage = 8 then { x with stage := 0 } else x
          | _ => x) })) ∧
  (∀ (s : State) (n : Nat),
    (pdkGet s n).crook = 1 → ((meshGet s n).running = false ∨ (meshGet s n).held = true) → linesLeft s n = false → sinkOut s n = false → (sinkGet s n).buf = [] → exec (.crookStopDone n) s = .next (raiseSource n 11 (wr FTF_PSTAT_stopped (ftfI s n) 1 (sinkMod n (fun k => { k with flush := false }) (pdkMod n (fun x => { x with crook := 2 }) s))))) ∧
  (∀ (s : State) (n : Nat),
    pdkCreated s n = true → rdB s FTF_PSTAT_stopped (ftfI s n) = true → exec (.release n) s = .next (crookRelease n s)) ∧
  (∀ (s : State) (n : Nat) (sp : Bool),
    pdkCreated s n = true → rdB s FTF_PSTAT_stopped (ftfI s n) = true → exec (.dump n sp) s = .next (sinkMod n (fun k => { k with dump := if sp then 2 else 1 }) s)) ∧
  (∀ (s : State) (n : Nat) (sp : Bool),
    pdkCreated s n = true → rdB s FTF_PSTAT_stopped (ftfI s n) = false → exec (.dump n sp) s = .next (wr FTF_PSTAT_dump_err (ftfI s n) 1 s)) ∧
  (∀ (s : State) (n : Nat),
    let r := dumpWrite n ((List.range (pdkCount s n)).flatMap (fun i => dumpPages s n i ((sinkGet s n).dump == 2))) s
    (sinkGet s n).dump ≠ 0 → pdkCreated s n = true → rdB s FTF_PSTAT_sink_fault (ftfI s n) = false → r.1 = none → exec (.dumpDone n) s = .next (wr FTF_PSTAT_dumped (ftfI s n) 1 (sinkMod n (fun k => { k with dump := 0 }) r.2)))

/-- The entry at the head of a submission ring that is well formed is executed (R668-R671): NOP and a passed SQ_FENCE are done; TADD and TWAIT send their Tally packet; REARM asks the contexts it names; STREAM arms a far context; FOLD asks the loader. -/
def Obligations.SubmissionEntriesComplete : Prop :=
  (∀ (s : State) (f k : Nat) (h : HEnt),
    ringHead s f k = some h → h.st = 0 → entOp h = 0 → malformed s h = false → fnUnderReset s f = false → exec (.nop f k) s = .next (entDone h 0 0 s)) ∧
  (∀ (s : State) (f k : Nat) (h : HEnt),
    ringHead s f k = some h → h.st = 0 → entOp h = 1 → malformed s h = false → fnUnderReset s f = false → s.hostEnts.any (fun x => x.f == f && x.order < h.order && x.st != 3) = false →
      exec (.sqFence f k) s = .next (entDone h 0 0 s)) ∧
  (∀ (s : State) (f k : Nat) (h : HEnt),
    ringHead s f k = some h → h.st = 0 → entOp h = 2 → malformed s h = false → fnUnderReset s f = false → barWritesDone s f = true → exec (.tadd f k) s = .next (hostTally 0 h (entNat h 16 8) 0 s)) ∧
  (∀ (s : State) (f k : Nat) (h : HEnt),
    ringHead s f k = some h → h.st = 0 → entOp h = 3 → malformed s h = false → fnUnderReset s f = false → (s.hostEnts.filter (fun x => x.f == f && x.st == 1 && entOp x == 3)).length < 64 →
      exec (.twait f k) s = .next (hostTally 1 h (entNat h 16 8) (entByte h 24) s)) ∧
  (∀ (s : State) (f k : Nat) (h : HEnt),
    ringHead s f k = some h → h.st = 0 → entOp h = 4 → malformed s h = false → fnUnderReset s f = false → barWritesDone s f = true → exec (.rearm f k) s = .next (if natBit (entNat h 8 2) 15 then
        (match hostFar s f (32 * (entNat h 8 2 % 2 ^ 15)) with
         | some g => entDone h 0 0 (drvBits rearmRequest g (entNat h 12 4) s)
         | none => entDone h 2 0 s)
      else match hostCore s f (entNat h 8 2 % 2048) with
        | some c => if admitCore s (fnBrand f) c false then entDone h 0 0 (drvBits rearmRequest (32 * pcore s c) (entNat h 12 4) s) else entDone h 2 0 s
        | none => entDone h 2 0 s)) ∧
  (∀ (s : State) (f k : Nat) (h : HEnt) (g : Nat),
    let v := armCtx g (streamSet g h s)
    ringHead s f k = some h → h.st = 0 → entOp h = 5 → malformed s h = false → fnUnderReset s f = false → hostFar s f (entNat h 8 4) = some g → ctxState s g = ctxUnarmed → crd v DRV_CTXSTAT_arm_err g = 0 → exec (.stream f k) s = .next (entMod h (fun x => { x with st := 1 }) v)) ∧
  (∀ (s : State) (f k : Nat) (h : HEnt),
    let v := if entByte h 9 = 1 then foldAsk (entByte h 8) 1 0 s else foldAsk (entByte h 8) 2 (entByte h 10) s
    ringHead s f k = some h → h.st = 0 → entOp h = 6 → malformed s h = false → fnUnderReset s f = false → activating s = false → exec (.fold f k) s = .next (if rd v (FLD_PSTAT_err.ix (entByte h 8)) 0 ≠ 0 then entDone h 2 (rdW v .fld 0 (FLD_PSTAT_err.ix (entByte h 8)).off).toNat v
      else entMod h (fun x => { x with st := 1 }) v)) ∧
  (∀ (s : State) (f k : Nat) (h : HEnt),
    let v := if entByte h 9 = 1 then foldAsk (entByte h 8) 1 0 s else foldAsk (entByte h 8) 2 (entByte h 10) s
    ringHead s f k = some h → h.st = 0 → entOp h = 6 → malformed s h = false → fnUnderReset s f = false → activating s = true → exec (.fold f k) s = .next (entMod h (fun x => { x with st := 1 }) v))

/-- Rings and record queues (R663-R679): a ring is configured, a doorbell moves its pointer, an entry is fetched or fetched again once a stage buffer may be had, a ring that may not fetch waits no longer, a completed head is posted where the completion ring has a place, a staged fault record and an event record are posted. -/
def Obligations.HostRingsComplete : Prop :=
  (∀ (s : State) (f kind k : Nat) (data : Word),
    f < 65 → kind < 4 → k < 8 → exec (.ringConfigure f kind k data) s = .next (ringConfigure f kind k data.toNat s)) ∧
  (∀ (s : State) (f k t : Nat),
    f < 65 → k < 8 → exec (.submissionDoorbell f k t) s = .next (sqDoorbell f k (t % 2 ^ 20) s)) ∧
  (∀ (s : State) (f kind k h : Nat),
    f < 65 → 0 < kind → kind < 4 → k < 8 → exec (.headDoorbell f kind k h) s = .next (headDoorbell f kind k (h % 2 ^ 20) s)) ∧
  (∀ (s : State) (f k : Nat) (ws : List Nat),
    f < 65 → k < 8 → rdB s (HST_RSTAT_stage_wait.ix2 f k) 0 = false → exec (.submissionFetch f k ws) s = .next (fetchEntry f k ws s)) ∧
  (∀ (s : State) (f k : Nat) (ws : List Nat),
    f < 65 → k < 8 → rdB s (HST_RSTAT_stage_wait.ix2 f k) 0 = true → canFetch s f k = true → exec (.stageGetRetry f k ws) s = .next (fetchEntry f k ws (bump (HST_STGWAIT_count.ix f) 0 s))) ∧
  (∀ (s : State) (f k : Nat) (ws : List Nat),
    f < 65 → k < 8 → rdB s (HST_RSTAT_stage_wait.ix2 f k) 0 = true → canFetch s f k = false → exec (.stageGetRetry f k ws) s = .next (wr (HST_RSTAT_stage_wait.ix2 f k) 0 0 s)) ∧
  (∀ (s : State) (f k t : Nat) (h : HEnt) (status res : Nat),
    let v := atTime t s
    ringHead s f k = some h → hostPoll s h = some (status, res) → fnUnderReset s f = false → (f = 0 ∨ integrityOf s (f - 1) = false) → cqFree s f k = true → (hringGet v f k).since = 0 → exec (.completionPost f k t) s = .next (ringShow f k (entGone h (postCompletion f k (entTag h) status (entOp h) res 0 0 v)))) ∧
  (∀ (s : State) (f : Nat) (r : List Nat) (d0 j b0 : Nat) (rest : List (List Nat × Nat × Nat × Nat)),
    (fnGet s f).staged = (r, d0, j, b0) :: rest → rqFree s f 2 = true → fnUnderReset s f = false → exec (.faultRecordPost f) s = .next (setHeldCount f (stageHeld f 65 (bufferBack [d0, j, b0] (postFault f r (fnMod f (fun x => { x with staged := rest }) s)))))) ∧
  (∀ (s : State) (r : List Nat) (rest : List (List Nat)),
    let v := postEvent r { s with pfEvents := rest }
    s.pfEvents = r :: rest → rqFree s 0 3 = true → fnUnderReset s 0 = false → exec (.eventRecordPost) s = .next (setHeldCount 0 (if v.pfLost ≠ 0 then { v with pfEvents := v.pfEvents ++ [[0x01, 10, v.pfLost]], pfLost := 0 } else v)))

/-- Functions and the link (R659-R663, R683, R684, R694, R766): a function enters D3hot and returns to D0; a VF or the PF is reset; the link comes up at a speed and width, changes its width, goes down; PERST# acts; a configuration request is answered. -/
def Obligations.FunctionsAndLinkComplete : Prop :=
  (∀ (s : State) (f : Nat),
    fnExists s f = true → exec (.d3hotEntry f) s = .next (d3Enter f s)) ∧
  (∀ (s : State) (f : Nat),
    fnExists s f = true → (fnGet s f).d3 = true → exec (.d0Return f) s = .next (d0Return f s)) ∧
  (∀ (s : State) (n : Nat),
    n < 64 → exec (.vfFlr n) s = .next (vfFlr n s)) ∧
  (∀ (s : State),
    (fnGet s 0).underReset = false → exec (.pfFlr) s = .next (pfFlrDone (pfReset (fnMod 0 (fun x => { x with underReset := true }) s)))) ∧
  (∀ (s : State),
    exec (.linkDown) s = .next (linkLeaves s)) ∧
  (∀ (s : State) (t speed width : Nat) (flit : Bool),
    let v := atTime t s
    rd v HST_LINK_state 0 = 4 → mainOn v = true → v.pwr.perst = false → natBit (rd v SHP_CLKSTAT_valid 0) 1 = true → speed ≠ 0 → speed ≤ 6 → [1, 2, 4, 8, 16].contains width = true → exec (.linkUp t speed width flit) s = .next (hostEvt HST_EVT_link_up (hostCapNext (hostCap speed width)
        (wr HST_LINK_state 0 0 (wr HST_LINK_width 0 width (wr HST_LINK_speed 0 speed
          (wr HST_LINK_flit 0 (b2n (speed == 6 || (flit && 4 ≤ speed))) { v with pwr := { v.pwr with linkAt := t } }))))))) ∧
  (∀ (s : State) (w : Nat),
    rd s HST_LINK_state 0 < 2 → w ≤ rd s HST_LINK_width 0 → rdB s HST_LINK_flit 0 = true → [1, 2, 4, 8, 16].contains w = true → exec (.l0pWidthChange w) s = .next (hostEvt HST_EVT_width_change (hostCapNext (hostCap (rd s HST_LINK_speed 0) w) (wr HST_LINK_state 0 (b2n (w < rd s HST_LINK_width 0)) s)))) ∧
  (∀ (s : State),
    let v := { s with pwr := { s.pwr with perst := true } }
    exec (.perstAssert) s = .next (if !mainOn v then v else if rd s HST_LINK_state 0 = 4 then linkReset v else linkLeaves v)) ∧
  (∀ (s : State),
    exec (.perstDeassert) s = .next ({ s with pwr := { s.pwr with perst := false } })) ∧
  (∀ (s : State) (t f tag : Nat) (wrt : Bool) (o0 be : Nat) (data : Word),
    let v := atTime t s
    rd v HST_LINK_state 0 ≠ 4 → cfgReady t v = true → fnExists v f = true → exec (.configRequest t f tag wrt o0 be data) s = .next (if wrt then emit .cplData [f, tag, 0] (cfgWrite f (o0 / 4 * 4 % 4096) be (data.toNat % 2 ^ 32) v)
        else emit .cplData [f, tag, 0, cfgRead v f (o0 / 4 * 4 % 4096) % 2 ^ 32] v))

/-- Ports and paths (R697, R701-R703, R714, R718): a port whose administration, reference clock and domain allow it comes up; a port goes down; a KEEPALIVE is sent on a valid path 100 us after the last, is taken by every path of its port to its source, and a path without one for 300 us dies; a frame that is not accepted is counted; a PFC frame pauses the priorities it names; a Sync gives the offset of the master and 8 lost ones unlock. -/
def Obligations.LongtrackPortsAndPathsComplete : Prop :=
  (∀ (s : State) (q : Nat),
    q < 8 → portUp s q = false → rdB s LTK_PCFG_admin_up q = true → mainOn s = true → natBit (rd s SHP_CLKSTAT_valid 0) 2 = true → exec (.ethPortUp q) s = .next (wr LTK_EVT_link_up q 1 (wr LTK_PSTAT_up q 1 (wr LTK_PSTAT_fec_lock q 1
        (wr LTK_PSTAT_an_done q (b2n (rd s LTK_PCFG_media q == 1 && rdB s LTK_PCFG_an_en q)) s))))) ∧
  (∀ (s : State) (q : Nat),
    q < 8 → exec (.ethPortDown q) s = .next (portDown q s)) ∧
  (∀ (s : State) (j t : Nat),
    let v := atTime t s
    j < 256 → pt LTK_PATH0_valid v j ≠ 0 → portUp v (j / 32) = true → mainOn v = true → ((lpathGet v j).sent = 0 ∨ (lpathGet v j).sent + 10000 ≤ t + 1) → exec (.keepaliveSend j t) s = .next (bump LTK_TXF_count (j / 32) (emit .frame [j / 32, j, 3, 0, 0, 0, 0, 0, j / 32] (lpathMod j (fun x => { x with sent := t + 1 }) v)))) ∧
  (∀ (s : State) (q t : Nat) (hi lo pkg : Word),
    let v := atTime t s
    q < 8 → portUp v q = true → exec (.keepalive q t hi lo pkg) s = .next ((pathsFrom v q hi.toNat lo.toNat pkg.toNat).foldl (fun y j => keepaliveOn t j y) (bump LTK_RXF_count q v))) ∧
  (∀ (s : State) (j t : Nat),
    let v := atTime t s
    j < 256 → pt LTK_PATH0_alive v j = 1 → (lpathGet v j).ka + 30000 ≤ t + 1 → exec (.pathDeadTimeout j t) s = .next (pathDies j v)) ∧
  (∀ (s : State) (q : Nat),
    q < 8 → portUp s q = true → exec (.frameDrop q) s = .next (bump LTK_DROP_count q s)) ∧
  (∀ (s : State) (q t vec : Nat) (quanta : List Nat),
    let v := atTime t s
    let u := iter 8 (fun e y => if natBit vec e then pfcPause q t e (ceilDiv (quanta.getD e 0 % 65536 * 512) (portGbps y q * 10)) y else y) (bump LTK_PFCRX_count q v)
    q < 8 → portUp v q = true → rdB v LTK_PCFG_pfc_en q = true → exec (.pfcFrame q t vec quanta) s = .next (if portPaused u q then u
      else (((u.ltkQ.filter (fun k => k.first == 0)).map (fun k => k.route)).eraseDups).foldl (fun y r => routePump r 64 y) u)) ∧
  (∀ (s : State) (t : Nat) (ofs : Word),
    let v := atTime t s
    rdB v LTK_PTPCFG_en 0 = true → portUp v (rd v BEL_CFG_ptp_port 0) = true → 5000 < (sext 64 ofs.toNat).natAbs → exec (.ptpSync t ofs) s = .next (ptpUnlock (wr LTK_PTPOFS_ns 0 ofs.toNat v))) ∧
  (∀ (s : State) (t : Nat) (ofs : Word),
    let v := atTime t s
    let good := if (sext 64 ofs.toNat).natAbs < 1000 then (wr LTK_PTPOFS_ns 0 ofs.toNat v).ptpGood + 1 else 0
    rdB v LTK_PTPCFG_en 0 = true → portUp v (rd v BEL_CFG_ptp_port 0) = true → ¬ 5000 < (sext 64 ofs.toNat).natAbs → exec (.ptpSync t ofs) s = .next (let u : State := { wr LTK_PTPOFS_ns 0 ofs.toNat v with ptpGood := Nat.min good 16 }
      refreshPtp (if 16 ≤ good then wr LTK_PTPSTAT_locked 0 1 u else u))) ∧
  (∀ (s : State),
    rdB s LTK_PTPCFG_en 0 = true → exec (.ptpSyncLoss) s = .next (ptpUnlock s))

/-- Routes (R703-R709, R715, R719, R720): an accepted DATA frame in sequence is applied, is held while the stream before it is on its way or its paddock's gate is shut, is answered again where it is a duplicate and is discarded ahead of sequence; ACK and REFUSE retire packets; a packet whose wait is over is resent on its path; a route whose oldest packet is unanswered for route_to_us dies; a write of word 0 takes effect. -/
def Obligations.LongtrackRoutesComplete : Prop :=
  (∀ (s : State) (q : Nat) (hi lo pkg : Word) (r op sq ack : Nat) (body data : List Nat),
    let v := ackRoute r ack (bump LTK_RXF_count q s)
    q < 8 → portUp s q = true → frameAccepted s q r hi lo pkg = true → sq % 2 ^ 32 = rt LTK_ROUTE3_rx_expect s r → ltkBusy v r = false → ((pdkGet v (rt LTK_ROUTE0_paddock s r)).gateOpen = true ∨ pdkCreated v (rt LTK_ROUTE0_paddock s r) = false ∨ pdkState v (rt LTK_ROUTE0_paddock s r) < 2) →
      exec (.data q hi lo pkg r op sq ack body data) s = .next (ltkApply (rt LTK_ROUTE0_paddock s r) r op body (data.map (· % 256)) v)) ∧
  (∀ (s : State) (q : Nat) (hi lo pkg : Word) (r op sq ack : Nat) (body data : List Nat),
    let v := ackRoute r ack (bump LTK_RXF_count q s)
    q < 8 → portUp s q = true → frameAccepted s q r hi lo pkg = true → sq % 2 ^ 32 = rt LTK_ROUTE3_rx_expect s r → ltkBusy v r = true → exec (.data q hi lo pkg r op sq ack body data) s = .next (v)) ∧
  (∀ (s : State) (q : Nat) (hi lo pkg : Word) (r op sq ack : Nat) (body data : List Nat),
    let v := ackRoute r ack (bump LTK_RXF_count q s)
    q < 8 → portUp s q = true → frameAccepted s q r hi lo pkg = true → sq % 2 ^ 32 = rt LTK_ROUTE3_rx_expect s r → ltkBusy v r = false → (pdkGet v (rt LTK_ROUTE0_paddock s r)).gateOpen = false → pdkCreated v (rt LTK_ROUTE0_paddock s r) = true → 2 ≤ pdkState v (rt LTK_ROUTE0_paddock s r) → exec (.data q hi lo pkg r op sq ack body data) s = .next (ltkAnswer r 2 0 0 1 v)) ∧
  (∀ (s : State) (q : Nat) (hi lo pkg : Word) (r op sq ack : Nat) (body data : List Nat),
    let v := ackRoute r ack (bump LTK_RXF_count q s)
    q < 8 → portUp s q = true → frameAccepted s q r hi lo pkg = true → sq % 2 ^ 32 ≠ rt LTK_ROUTE3_rx_expect s r → seq32Below (sq % 2 ^ 32) (rt LTK_ROUTE3_rx_expect s r) = true → exec (.data q hi lo pkg r op sq ack body data) s = .next (ltkAnswer r 2 0 0 0 v)) ∧
  (∀ (s : State) (q : Nat) (hi lo pkg : Word) (r op sq ack : Nat) (body data : List Nat),
    let v := ackRoute r ack (bump LTK_RXF_count q s)
    q < 8 → portUp s q = true → frameAccepted s q r hi lo pkg = true → sq % 2 ^ 32 ≠ rt LTK_ROUTE3_rx_expect s r → seq32Below (sq % 2 ^ 32) (rt LTK_ROUTE3_rx_expect s r) = false → exec (.data q hi lo pkg r op sq ack body data) s = .next (v)) ∧
  (∀ (s : State) (q t : Nat) (hi lo pkg : Word) (r ack : Nat) (hold : Bool),
    let v := atTime t s
    q < 8 → portUp v q = true → frameAccepted v q r hi lo pkg = true → exec (.ack q t hi lo pkg r ack hold) s = .next (ackRoute r ack (routeAnswered r t (bump LTK_RXF_count q v)))) ∧
  (∀ (s : State) (q t : Nat) (hi lo pkg : Word) (r sq status ack : Nat) (k : LPkt),
    let v := atTime t s
    let u := routeAnswered r t (bump LTK_RXF_count q v)
    q < 8 → portUp v q = true → frameAccepted v q r hi lo pkg = true → u.ltkQ.find? (fun k => k.route == r && k.first != 0 && k.seq == sq) = some k →
      exec (.refuse q t hi lo pkg r sq status ack) s = .next (ackRoute r ack (routeShow r (pktRefused k (status % 8)
        { u with ltkQ := u.ltkQ.filter (fun x => !(x.route == r && x.first != 0 && x.seq == sq)) })))) ∧
  (∀ (s : State) (i t : Nat) (k : LPkt),
    let v := atTime t s
    v.ltkQ[i]? = some k → k.first = 0 → exec (.retransmit i t) s = .next (routePump k.route 64 v)) ∧
  (∀ (s : State) (i t : Nat) (k : LPkt),
    let v := atTime t s
    v.ltkQ[i]? = some k → k.first ≠ 0 → k.last + rd v LTK_GCFG_rto_us 0 * 100 ≤ t + 1 → portPaused v (k.path / 32) = false → routeUp v k.route = true → mainOn v = true → pathAlive v k.path = true → exec (.retransmit i t) s = .next (resendOn k k.path v)) ∧
  (∀ (s : State) (r t : Nat) (k : LPkt),
    let v := atTime t s
    r < 2048 → rt LTK_ROUTE0_valid v r ≠ 0 → rt LTK_ROUTE0_dead v r ≠ 1 → routeOldest v r = some k → Nat.max k.first ((lrouteGet v r).ans + 1) + rd v LTK_GCFG_route_to_us 0 * 100 ≤ t + 1 →
      portPaused v (k.path / 32) = false → exec (.routeTimeout r t) s = .next (routeDies r true v)) ∧
  (∀ (s : State) (r : Nat) (data : Word),
    r < 2048 → exec (.routeWord0Write r data) s = .next (routeWord0 r data.toNat s))

/-- MCTP control on the bindings (R721-R723): Set Endpoint ID sets the EID of its binding for operations 0 and 1 and a lawful EID, and refuses another as invalid data; Get Endpoint ID, UUID, version support and message types answer; a response that has waited is dropped and counted. The UUID and the versions of PLDM and SPDM are free (log 4). PLDM types 0 and 3 (R724, R727): the terminus identifier is given and set (0 and 255 refused), versions, types and commands are given for the types 0, 2, 3 and 5; the clock is read and set by UTC. -/
def Obligations.MctpAndPldmBaseComplete : Prop :=
  (∀ (s : State) (b op eid : Nat),
    b < 3 → answers s b = true → op < 2 → 8 ≤ eid → eid < 255 → exec (.setEndpointId b op eid) s = .next (mctpSay b 1 0 [0, eid, 0] (wr (eidFld b) 0 eid s))) ∧
  (∀ (s : State) (b op eid : Nat),
    b < 3 → answers s b = true → (1 < op ∨ eid < 8 ∨ 255 ≤ eid) → exec (.setEndpointId b op eid) s = .next (mctpSay b 1 2 [] s)) ∧
  (∀ (s : State) (b : Nat),
    exec (.getEndpointId b) s = .next (mctpSay b 2 0 [rd s (eidFld b) 0, 0, 0] s)) ∧
  (∀ (s : State) (b : Nat),
    exec (.getEndpointUuid b) s = .next (mctpSay b 3 0 ((List.range 16).map (fun i => (Config.freeByte 0 i).toNat)) s)) ∧
  (∀ (s : State) (b typ : Nat),
    (typ = 255 ∨ typ = 0) → exec (.getMctpVersionSupport b typ) s = .next (mctpSay b 4 0 [1, 0xF1, 0xF3, 0xF0, 0x00] s)) ∧
  (∀ (s : State) (b typ : Nat),
    (typ = 1 ∨ typ = 5) → exec (.getMctpVersionSupport b typ) s = .next (mctpSay b 4 0 (1 :: (List.range 4).map (fun i => (Config.freeByte (16 + typ) i).toNat)) s)) ∧
  (∀ (s : State) (b typ : Nat),
    typ ≠ 255 → typ ≠ 0 → typ ≠ 1 → typ ≠ 5 → exec (.getMctpVersionSupport b typ) s = .next (mctpSay b 4 0x80 [] s)) ∧
  (∀ (s : State) (b : Nat),
    exec (.getMessageTypeSupport b) s = .next (mctpSay b 5 0 [2, 1, 5] s)) ∧
  (∀ (s : State) (b : Nat),
    b < 3 → s.outbox.any (respOf b) = true → exec (.mctpResponseDrop b) s = .next (bump SHP_MCTPERR_count 0 { s with outbox := listDropFirst (respOf b) s.outbox })) ∧
  (∀ (s : State) (b : Nat),
    b < 3 → answers s b = true → activating s = false → exec (.gettid b) s = .next (pldmSay b 0 2 0 [s.mgmt.tid] s)) ∧
  (∀ (s : State) (b v : Nat),
    b < 3 → answers s b = true → activating s = false → exec (.settid b v) s = .next (if v = 0 ∨ 255 ≤ v then pldmSay b 0 1 2 [] s else pldmSay b 0 1 0 [] (mgmtMod (fun m => { m with tid := v }) s))) ∧
  (∀ (s : State) (b ty : Nat),
    b < 3 → answers s b = true → activating s = false → exec (.getpldmversion b ty) s = .next (if (pldmCommands ty).isEmpty then pldmSay b 0 3 0x83 [] s
      else pldmSay b 0 3 0 ((List.range 4).map (fun i => (Config.freeByte (32 + ty) i).toNat)) s)) ∧
  (∀ (s : State) (b : Nat),
    b < 3 → answers s b = true → activating s = false → exec (.getpldmtypes b) s = .next (pldmSay b 0 4 0 (leBytes 8 0x2D) s)) ∧
  (∀ (s : State) (b ty : Nat),
    b < 3 → answers s b = true → activating s = false → exec (.getpldmcommands b ty) s = .next (if (pldmCommands ty).isEmpty then pldmSay b 0 5 0x83 [] s
      else pldmSay b 0 5 0 (leBytes 32 ((pldmCommands ty).foldl (fun a c => a + 2 ^ c) 0)) s)) ∧
  (∀ (s : State) (b : Nat),
    b < 3 → answers s b = true → pwrState s ≠ 6 → activating s = false → exec (.getdatetime b) s = .next (pldmSay b 3 0x0C 0 (dateOf (calNow s / 32768 / 86400) ++ [calNow s / 32768 % 86400 / 3600, calNow s / 32768 % 3600 / 60, calNow s / 32768 % 60]) s)) ∧
  (∀ (s : State) (b y m d hr mi sec : Nat),
    b < 3 → answers s b = true → pwrState s ≠ 6 → activating s = false → exec (.setdatetime b y m d hr mi sec) s = .next (if y < 1970 ∨ m = 0 ∨ 12 < m ∨ d = 0 ∨ monthDays y m < d ∨ 23 < hr ∨ 59 < mi ∨ 59 < sec then pldmSay b 3 0x0D 2 [] s
      else pldmSay b 3 0x0D 0 [] (calSet (daysOf y m d * 86400 + hr * 3600 + mi * 60 + sec) s)))

/-- PLDM type 2 (R724-R726): sensors are read, the two effecters act, the records are given, the event receiver is set and given; events are sent in order to the receiver, retried, and leave when they are answered (R726). -/
def Obligations.PldmPlatformComplete : Prop :=
  (∀ (s : State) (b mode eid : Nat),
    b < 3 → answers s b = true → pwrState s ≠ 6 → activating s = false → exec (.seteventreceiver b mode eid) s = .next (if 1 < mode then pldmSay b 2 4 0x81 [] s
      else pldmSay b 2 4 0 [] (mgmtMod (fun m => { m with evRecv := if mode = 0 then 0 else 1 + 256 * b + eid % 256 * 1024 }) s))) ∧
  (∀ (s : State) (b : Nat),
    b < 3 → answers s b = true → pwrState s ≠ 6 → activating s = false → exec (.geteventreceiver b) s = .next (pldmSay b 2 5 0 [0, s.mgmt.evRecv / 1024] s)) ∧
  (∀ (s : State) (b i : Nat),
    b < 3 → answers s b = true → pwrState s ≠ 6 → activating s = false → exec (.getsensorreading b i) s = .next (if numSensors.contains i then pldmSay b 2 0x11 0 (sensorData s i) s else pldmSay b 2 0x11 0x80 [] s)) ∧
  (∀ (s : State) (b i : Nat),
    b < 3 → answers s b = true → pwrState s ≠ 6 → activating s = false → exec (.getstatesensorreadings b i) s = .next (if stateSensors.contains i then pldmSay b 2 0x21 0 (sensorData s i) s else pldmSay b 2 0x21 0x80 [] s)) ∧
  (∀ (s : State) (b e v : Nat),
    b < 3 → answers s b = true → pwrState s ≠ 6 → activating s = false → exec (.setstateeffecterstates b e v) s = .next (if e ≠ 100 ∧ e ≠ 101 then pldmSay b 2 0x39 0x80 [] s
      else if v ≠ 1 then pldmSay b 2 0x39 0x81 [] s
      else pldmSay b 2 0x39 0 [] (if e = 100 then shutDown 1 0 false s else fbkMod (fun x => { x with snapAsked := true }) s))) ∧
  (∀ (s : State) (b : Nat),
    b < 3 → answers s b = true → pwrState s ≠ 6 → activating s = false → exec (.getpdrrepositoryinfo b) s = .next (pldmSay b 2 0x50 0 [0, numSensors.length + stateSensors.length + 2] s)) ∧
  (∀ (s : State) (b hd : Nat) (rec : List Nat),
    b < 3 → answers s b = true → pwrState s ≠ 6 → activating s = false → pdrs[Nat.max 1 hd - 1]? = some rec → exec (.getpdr b hd) s = .next (pldmSay b 2 0x51 0 ((if Nat.max 1 hd < pdrs.length then Nat.max 1 hd + 1 else 0) :: rec) s)) ∧
  (∀ (s : State) (b hd : Nat),
    b < 3 → answers s b = true → pwrState s ≠ 6 → activating s = false → pdrs[Nat.max 1 hd - 1]? = none → exec (.getpdr b hd) s = .next (pldmSay b 2 0x51 0x82 [] s)) ∧
  (∀ (s : State) (t k : Nat),
    let v := atTime t s
    eventsGo v = true → eventNext v t = some k → exec (.platformeventmessage t) s = .next (eventSend t k v)) ∧
  (∀ (s : State) (t k : Nat),
    let v := atTime t s
    eventsGo v = true → v.pldmQ.findIdx? (fun e => e.attempts != 0 && e.attempts < 3 && !e.acked && decide (e.sentAt + 10000000 ≤ t)) = some k →
      exec (.platformEventRetry t) s = .next (eventSend t k v)) ∧
  (∀ (s : State) (k : Nat) (ev : PldmEv),
    s.pldmQ[k]? = some ev → ev.attempts ≠ 0 → exec (.platformeventmessageResponse k) s = .next ({ s with pldmQ := (listPut s.pldmQ k { ev with acked := true }).dropWhile (fun x => x.acked) }))

/-- PLDM type 5 (R662, R724, R738-R740): identifiers, parameters and status are given; an update is requested, its table passed, a component taken, its data taken block by block, applied and activated by the agent that asked for it, in the order of its steps; a cancel ends a transfer or the update. -/
def Obligations.PldmUpdateComplete : Prop :=
  (∀ (s : State) (b : Nat),
    b < 3 → answers s b = true → activating s = false → exec (.querydeviceidentifiers b) s = .next (pldmSay b 5 1 0 [0x1F3C, 0x4712] s)) ∧
  (∀ (s : State) (b : Nat),
    b < 3 → answers s b = true → activating s = false → exec (.getfirmwareparameters b) s = .next (pldmSay b 5 2 0 [(slotOf s (runSlot s)).lver, rd s SHP_FWVER_version 0, s.mgmt.staged.headD 0] s)) ∧
  (∀ (s : State) (b : Nat),
    b < 3 → answers s b = true → activating s = false → exec (.getstatus b) s = .next (pldmSay b 5 0x1B 0 [s.mgmt.upd, s.mgmt.comp, s.mgmt.off] s)) ∧
  (∀ (s : State) (b : Nat),
    b < 3 → answers s b = true → activating s = false → s.mgmt.upd = 0 → exec (.requestupdate b) s = .next (let u := mgmtMod (fun m => { m with upd := 1, agent := b + 1, table := [], comp := 0, off := 0 }) s
      pldmSay b 5 0x10 0 [0, 0] (if pwrState s = 6 then u else wr SHP_FWSTAT_state 0 1 u))) ∧
  (∀ (s : State) (b id : Nat) (last : Bool),
    b < 3 → answers s b = true → activating s = false → s.mgmt.upd ≠ 0 → s.mgmt.agent = b + 1 → s.mgmt.upd ∈ [1] → exec (.passcomponenttable b id last) s = .next (pldmSay b 5 0x13 0 (if 1 ≤ id && id ≤ 3 then [0, 0] else [1, 6])
        (mgmtMod (fun m => { m with table := m.table ++ [id], upd := if last then 2 else 1 }) s))) ∧
  (∀ (s : State) (b id ver svn size slot : Nat),
    b < 3 → answers s b = true → activating s = false → s.mgmt.upd ≠ 0 → s.mgmt.agent = b + 1 → s.mgmt.upd ∈ [2] → exec (.updatecomponent b id ver svn size slot) s = .next (if id = 0 ∨ 3 < id ∨ !s.mgmt.table.contains id ∨ size = 0 then pldmSay b 5 0x14 0 [1, 6] s
      else askBlock (pldmSay b 5 0x14 0 [0, 0] (mgmtMod (fun m => { m with
        upd := 3, comp := id, ver := ver % 2 ^ 32, svn := svn % 65536, size := size, off := 0, updSlot := slot % 2 }) s)))) ∧
  (∀ (s : State) (b n : Nat) (pass : Bool),
    let u := mgmtMod (fun m => { m with off := m.off + n }) s
    answers s b = true → activating s = false → s.mgmt.upd = 3 → s.mgmt.agent = b + 1 → n = Nat.min 4096 (s.mgmt.size - s.mgmt.off) → exec (.requestfirmwaredata b n pass) s = .next (if u.mgmt.off < u.mgmt.size then askBlock u else imageIn pass u)) ∧
  (∀ (s : State) (b n : Nat) (pass : Bool),
    answers s b = true → activating s = false → s.mgmt.upd = 3 → s.mgmt.agent = b + 1 → n ≠ Nat.min 4096 (s.mgmt.size - s.mgmt.off) → exec (.requestfirmwaredata b n pass) s = .next (askBlock s)) ∧
  (∀ (s : State),
    let u := if s.mgmt.comp = 1 then mgmtMod (fun x => { x with bootNext := writeSlot s + 1 })
          (slotMod (writeSlot s) (fun x => { x with lok := true, lver := s.mgmt.ver, lsvn := s.mgmt.svn }) s)
      else if s.mgmt.comp = 2 then mgmtMod (fun x => { x with staged := [s.mgmt.ver, s.mgmt.svn] })
          (slotMod (writeSlot s) (fun x => { x with fok := true, fver := s.mgmt.ver, fsvn := s.mgmt.svn }) s)
      else mgmtMod (fun x => { x with board := x.board + 1 }) s
    s.mgmt.upd = 5 → exec (.applycomplete) s = .next (secRecord 2 s.mgmt.comp s.mgmt.ver (pldmSay (s.mgmt.agent - 1) 5 0x18 0 [0] (mgmtMod (fun x => { x with upd := 2, comp := 0 })
        (if s.mgmt.comp = 2 then u else wr SHP_FWSTAT_boot_pending 0 1 u))))) ∧
  (∀ (s : State) (b : Nat) (self : Bool),
    b < 3 → answers s b = true → activating s = false → s.mgmt.upd ≠ 0 → s.mgmt.agent = b + 1 → s.mgmt.upd ∈ [2] → exec (.activatefirmware b self) s = .next (if pwrState s = 6 then bootRun (pldmSay b 5 0x1A 0 [0] (updEnd s))
      else if !self then pldmSay b 5 0x1A 0 [0] (updEnd s)
      else if s.mgmt.staged.isEmpty then pldmSay b 5 0x1A 0x8B [] (updEnd s)
      else pldmSay b 5 0x1A 0 [1] (mgmtMod (fun m => { m with act := 1 }) (updEnd s)))) ∧
  (∀ (s : State) (b : Nat),
    b < 3 → answers s b = true → activating s = false → s.mgmt.upd ≠ 0 → s.mgmt.agent = b + 1 → s.mgmt.upd ∈ [3, 4, 5] → exec (.cancelupdatecomponent b) s = .next (pldmSay b 5 0x1C 0 [] (mgmtMod (fun m => { m with upd := 2, comp := 0 }) s))) ∧
  (∀ (s : State) (b : Nat),
    b < 3 → answers s b = true → activating s = false → s.mgmt.upd ≠ 0 → s.mgmt.agent = b + 1 → s.mgmt.upd ∈ [1, 2, 3, 4, 5] → exec (.cancelupdate b) s = .next (pldmSay b 5 0x1D 0 [] (updEnd s)))

/-- SPDM 1.2 (R728, R730): the negotiation goes through its three steps; digests, the certificate chain of slot 0, a challenge and measurements are given after it; a request out of turn or one that is not supported is an ERROR; DOE discovery names its two types. The chain, its digest and signatures are free values (log 4). -/
def Obligations.SpdmComplete : Prop :=
  (∀ (s : State) (b : Nat),
    b < 4 → answers s 1 = true → (b ≠ 3 ∨ rd s HST_LINK_state 0 ≠ 4) → activating s = false → exec (.getVersion b) s = .next (spdmSay b 4 [0x1200] (mgmtMod (fun m => { m with spdm := 1 }) s))) ∧
  (∀ (s : State) (b : Nat),
    b < 4 → answers s 1 = true → (b ≠ 3 ∨ rd s HST_LINK_state 0 ≠ 4) → activating s = false → 1 ≤ s.mgmt.spdm → exec (.getCapabilities b) s = .next (spdmSay b 0x61 [0x16] (mgmtMod (fun m => { m with spdm := 2 }) s))) ∧
  (∀ (s : State) (b asym hash : Nat),
    b < 4 → answers s 1 = true → (b ≠ 3 ∨ rd s HST_LINK_state 0 ≠ 4) → activating s = false → 2 ≤ s.mgmt.spdm → exec (.negotiateAlgorithms b asym hash) s = .next (if natBit asym 7 && natBit hash 1 then spdmSay b 0x63 [0x80, 2] (mgmtMod (fun m => { m with spdm := 3 }) s)
      else spdmError b 7 s)) ∧
  (∀ (s : State) (b : Nat),
    b < 4 → answers s 1 = true → (b ≠ 3 ∨ rd s HST_LINK_state 0 ≠ 4) → activating s = false → 3 ≤ s.mgmt.spdm → exec (.getDigests b) s = .next (spdmSay b 1 (1 :: (List.range 48).map (fun i => (Config.freeByte 1 i).toNat)) s)) ∧
  (∀ (s : State) (b slot off len : Nat),
    b < 4 → answers s 1 = true → (b ≠ 3 ∨ rd s HST_LINK_state 0 ≠ 4) → activating s = false → 3 ≤ s.mgmt.spdm → exec (.getCertificate b slot off len) s = .next (if slot ≠ 0 then spdmError b 7 s
      else spdmSay b 2 (0 :: (List.range len).map (fun i => (Config.freeByte 2 (off + i)).toNat)) s)) ∧
  (∀ (s : State) (b slot : Nat),
    b < 4 → answers s 1 = true → (b ≠ 3 ∨ rd s HST_LINK_state 0 ≠ 4) → activating s = false → 3 ≤ s.mgmt.spdm → exec (.challenge b slot) s = .next (if slot ≠ 0 then spdmError b 7 s else spdmSay b 3 (0 :: (spdmSign s).1) (spdmSign s).2)) ∧
  (∀ (s : State) (b i : Nat) (sign : Bool),
    b < 4 → answers s 1 = true → (b ≠ 3 ∨ rd s HST_LINK_state 0 ≠ 4) → activating s = false → 3 ≤ s.mgmt.spdm → exec (.getMeasurements b i sign) s = .next (let all := (List.range 80).filterMap (measurement s)
      let go : List Nat → State := fun data => if sign then spdmSay b 0x60 (data ++ (spdmSign s).1) (spdmSign s).2 else spdmSay b 0x60 data s
      if i = 0 then go [all.length]
      else if i = 255 then go (all.length :: all.flatten)
      else match measurement s i with
        | some d => go (1 :: d)
        | none => spdmError b 1 s)) ∧
  (∀ (s : State) (b : Nat),
    b < 4 → answers s 1 = true → (b ≠ 3 ∨ rd s HST_LINK_state 0 ≠ 4) → activating s = false → exec (.spdmUnsupportedRequest b) s = .next (spdmError b 7 s)) ∧
  (∀ (s : State) (i : Nat),
    rd s HST_LINK_state 0 ≠ 4 → answers s 1 = true → exec (.doeDiscovery i) s = .next (if i = 0 then emit .doe [1, 0, 1] s else if i = 1 then emit .doe [1, 1, 0] s else emit .doe [0xFFFF, 0xFF, 0] s))

/-- The Shepherd's mailbox takes each of its six commands when it is not busy (R733-R736, R745); a live activation ends at A4, with the new firmware or the previous one, and its watchdog restarts into the previous slot (R740-R743). -/
def Obligations.MailboxAndActivationComplete : Prop :=
  (∀ (s : State),
    rdB s SHP_MBSTAT_busy 0 = false → answers s 1 = true → activating s = false → exec (.setOwner) s = .next (mailboxRun 1 s)) ∧
  (∀ (s : State),
    rdB s SHP_MBSTAT_busy 0 = false → answers s 1 = true → activating s = false → exec (.installKey) s = .next (mailboxRun 2 s)) ∧
  (∀ (s : State),
    rdB s SHP_MBSTAT_busy 0 = false → answers s 1 = true → activating s = false → exec (.revokeKey) s = .next (mailboxRun 3 s)) ∧
  (∀ (s : State),
    rdB s SHP_MBSTAT_busy 0 = false → answers s 1 = true → activating s = false → exec (.advanceSvn) s = .next (mailboxRun 4 s)) ∧
  (∀ (s : State),
    rdB s SHP_MBSTAT_busy 0 = false → answers s 1 = true → activating s = false → exec (.activate) s = .next (mailboxRun 5 s)) ∧
  (∀ (s : State),
    rdB s SHP_MBSTAT_busy 0 = false → answers s 1 = true → activating s = false → exec (.readBoard) s = .next (mailboxRun 6 s)) ∧
  (∀ (s : State) (t : Nat) (fl : List Nat),
    let v := atTime t s
    let u := measRaw (measFree 3 (firmwareRuns (1 - runSlot v) (wr SHP_FWSTAT_state 0 0 (mgmtMod (fun m => { m with
        act := 0, active := 1 - runSlot v, staged := [], doneTick := curTick v + 1, reverted := false, upd := 0 }) v))))
    v.mgmt.act = 2 → t ≤ v.mgmt.actAt + 3000000 → exec (.liveActivationDone t fl) s = .next (secRecord 3 (rd u SHP_FWVER_version 0) (rd v SHP_FWVER_version 0) (takeUp fl u))) ∧
  (∀ (s : State) (t : Nat) (fl : List Nat),
    let v := atTime t s
    v.mgmt.act = 3 → exec (.liveActivationDone t fl) s = .next (takeUp fl (mgmtMod (fun m => { m with act := 0 }) v))) ∧
  (∀ (s : State) (t : Nat),
    let v := atTime t s
    let k := if v.mgmt.act = 2 then runSlot v else 1 - runSlot v
    let u := measRaw (measFree 3 (firmwareRuns k (mgmtMod (fun m => { m with
        act := 3, actAt := t, active := k, staged := [], doneTick := 0, reverted := true, upd := 0 }) v)))
    watchdogDue t v = true → exec (.activationWatchdog t) s = .next (secRecord 4 k 3 (wr SHP_FWSTAT_state 0 3 u)))

/-- The always-on domain (R731, R756-R760, R762, R774, R776): VAUX becomes good and falls, KRST_N and K0's own sensor start a cold reset, whose release raises FL_RST_N, samples the straps and runs the boot ROM; clocks become valid and are lost; start-up held by a trip goes on once cooled. -/
def Obligations.ColdResetComplete : Prop :=
  (∀ (s : State) (t : Nat),
    let v := atTime t s
    v.pwr.vaux = false → exec (.vauxGood t) s = .next (pwrMod (fun p => { p with vaux := true, cold := true }) (fbkMod (fun x => { x with lifeAt := v.now, rtcAt := v.now }) v))) ∧
  (∀ (s : State) (t : Nat),
    let v := atTime t s
    v.pwr.vaux = true → exec (.vauxBrownout t) s = .next (rtcLost { coldReset 3 (pwrMod (fun p => { p with vaux := false }) v) with tap := tapReset })) ∧
  (∀ (s : State) (t : Nat),
    let v := atTime t s
    v.pwr.vaux = true → exec (.krstNAssert t) s = .next (coldReset 1 v)) ∧
  (∀ (s : State) (t : Nat),
    let v := atTime t s
    v.pwr.vaux = true → v.pwr.cold = true → v.pwr.hot = false → exec (.coldResetRelease t) s = .next (bootRun (pwrMod (fun p => { p with cold := false, flRstN := true, boots := p.boots + 1, trip := false, hotWait := p.tripBoot, tripBoot := false })
        (wr SHP_BOOTSTAT_cold_cause 0 v.pwr.cause (wr SHP_BOOTSTAT_after_trip 0 (b2n v.pwr.tripBoot) (setStep 1 (strapsLoad v))))))) ∧
  (∀ (s : State) (t : Nat),
    let v := atTime t s
    v.pwr.vaux = true → exec (.k0Overtemp t) s = .next (coldReset 2 (pwrMod (fun p => { p with hot := true }) v))) ∧
  (∀ (s : State),
    exec (.k0OvertempRelease) s = .next (pwrMod (fun p => { p with hot := false }) s)) ∧
  (∀ (s : State),
    s.pwr.hotWait = true → pwrState s = 0 → rdB s SHP_BOOTSTAT_no_rails 0 = false → exec (.afterTripCooled) s = .next (tryS5 (pwrMod (fun p => { p with hotWait := false }) s))) ∧
  (∀ (s : State) (t i draw : Nat),
    let v := atTime t s
    let u := calClocks (wr SHP_CLKSTAT_valid 0 (natSetBit (rd v SHP_CLKSTAT_valid 0) i true) v)
    i < 4 → v.pwr.cold = false → clkValid v i = false → exec (.clockValid t i draw) s = .next (if i ≠ 0 ∨ !rdB u SHP_BOOTSTAT_sysref_wait 0 then u
      else if pwrState u = 0 then startS5 u
      else if pwrState u = 3 then wakeRun t draw u
      else u)) ∧
  (∀ (s : State) (t i : Nat),
    let v := atTime t s
    let u := calClocks (pwrEvent (0x10 + i) (wr SHP_CLKSTAT_lost 0 (natSetBit (rd v SHP_CLKSTAT_lost 0) i true)
      (wr SHP_CLKSTAT_valid 0 (natSetBit (rd v SHP_CLKSTAT_valid 0) i false) v)))
    i < 4 → clkValid v i = true → exec (.clockLoss t i) s = .next (if i = 0 then (if pwrState u = 1 ∨ pwrState u = 2 ∨ pwrState u = 3 then shutDown 5 0 true u else u)
      else if i = 1 then (if mainOn u then linkLeaves u else u)
      else if i = 2 then (if mainOn u then iter 8 (fun q y => portDown q y) u else u)
      else u))

/-- Start-up from S5 on (R366, R754, R755, R762, R764, R767): MEM_PG rises, the rails of the groups become good or fail, memory is trained, the start-up Muster ends and the package serves or repairs; a failed start-up is retried once; the rails answer SMBALERT# and their polls (R593). -/
def Obligations.StartUpComplete : Prop :=
  (∀ (s : State) (t : Nat),
    let v := wr SHP_PWRSTAT_mem_pg 0 1 (atTime t s)
    pwrState v = 1 → rd v SHP_PWRSTAT_step 0 = 5 → rdB v SHP_PWRSTAT_mem_pwren 0 = true → exec (.memPgRise t) s = .next (groupsGo 0 (railEnables true true (setStep 6 v)))) ∧
  (∀ (s : State) (t : Nat),
    let v := wr SHP_PWRSTAT_mem_pg 0 0 (atTime t s)
    rdB v SHP_PWRSTAT_rails_en 0 = true → exec (.memPgFall t) s = .next (shutDown 6 0 true v)) ∧
  (∀ (s : State) (t r w : Nat),
    let v := atTime t s
    inS7 v = true → (groupRails v v.pwr.group).contains r = true → exec (.railPowerGood t r w) s = .next (railUp r w v)) ∧
  (∀ (s : State) (gib : Nat) (rates : List Nat) (lpcamm : Bool) (fails : List Nat),
    pwrState s = 1 → rd s SHP_PWRSTAT_step 0 = 8 → rates.any (2 < ·) = false → gib ∈ [4, 8, 12, 16, 24, 32] → exec (.memoryTrainingDone gib rates lpcamm fails) s = .next (setStep 9 (memShape ((List.range 24).foldl (fun y p =>
      wr MEM_STAT_train_fail p (b2n (fails.contains p)) (wr MEM_STAT_trained p (b2n (!fails.contains p))
        (wr MEM_CFG_port_gib p gib (wr MEM_CFG_rate p (rates.getD p 0) (wr MEM_CFG_lpcamm p (b2n lpcamm) y))))) s)))) ∧
  (∀ (s : State) (t draw : Nat) (fails blocks : List (Nat × Nat)),
    let v := atTime t s
    let w1 := (List.range 8).foldl (fun y d => ((dieCores d).filter (fun p => !retired y p)).foldl (fun z p =>
      mcoreMod p (fun m => { m with last := curTick z, due := 0 }) z) y) v
    let w2 := fails.foldl (fun y x => if retired w1 x.1 ∨ !(List.range 8).any (fun d => (dieCores d).contains x.1) then y else testFails x.1 x.2 y) w1
    let w3 := repairP2 ((blocks.filter (fun x => x.1 < 37)).foldl (fun y x => blockFails x.1 x.2 y) w2)
    pwrState v = 1 → rd v SHP_PWRSTAT_step 0 = 9 → exec (.startupMusterDone t draw fails blocks) s = .next (if w3.repairs.isEmpty then serve t draw (setStep 11 w3) else w3)) ∧
  (∀ (s : State) (t : Nat),
    let v := atTime t s
    pwrState v = 0 → v.pwr.fails = 1 → rdB v SHP_BOOTSTAT_retried 0 = false → v.pwr.failAt + 100000000 ≤ t → exec (.startupRetry t) s = .next (tryS5 (setStep 4 (wr SHP_BOOTSTAT_retried 0 1 v)))) ∧
  (∀ (s : State) (t : Nat),
    let v := atTime t s
    pwrState v = 1 → rd v SHP_PWRSTAT_step 0 = 5 → exec (.powerGoodTimeout t) s = .next (startFails (wr SHP_BOOTSTAT_mem_pg_fail 0 1 v))) ∧
  (∀ (s : State) (t r : Nat),
    let v := atTime t s
    pwrState v = 1 → rd v SHP_PWRSTAT_step 0 = 6 → (groupRails v v.pwr.group).find? (fun k => !railGood v k) = some r → exec (.powerGoodTimeout t) s = .next (railFails r v)) ∧
  (∀ (s : State) (b : Nat),
    exec (.smbusSclLowTimeout b) s = .next (s)) ∧
  (∀ (s : State) (r : Nat) (ok : Bool) (status pin : Nat),
    r < 9 → (mapGet 0 s.pmTry r ≠ 0 ∨ inS7 s = true) → exec (.pmbusRetry r ok status pin) s = .next (railPoll r ok status pin s)) ∧
  (∀ (s : State) (fl : List Nat),
    pwrState s ≠ 6 → s.pwr.cold = false → activating s = false → exec (.smbalert fl) s = .next (alertRead fl s)) ∧
  (∀ (s : State) (fl : List Nat),
    pwrState s ≠ 6 → s.pwr.cold = false → activating s = true → exec (.smbalert fl) s = .next (pwrMod (fun p => { p with alert := true }) s))

/-- Shut-down, standby and trip (R768-R773, R775): each cause starts a shut-down; once its records are committed the supplies go off in reverse, or the timebase stops after a trip; D5 and D6 end in Keeper; standby and wake are asked for; a thermal trip acts in every powered state. -/
def Obligations.ShutDownComplete : Prop :=
  (∀ (s : State) (t cause rail : Nat) (fast : Bool),
    cause ≠ 0 → cause ≤ 6 → cause ≠ 2 → exec (.shutDown t cause rail fast) s = .next (shutDown cause (if cause = 3 then rail else 0) (cause == 5 || cause == 6 || (cause == 3 && fast)) (atTime t s))) ∧
  (∀ (s : State) (t cause rail : Nat) (fast : Bool),
    cause = 2 → exec (.shutDown t cause rail fast) s = .next (shutDownAsk (atTime t s))) ∧
  (∀ (s : State),
    (allCommitted s = true ∨ logMute s = true ∨ s.pwr.sdTick + 2 < curTick s) →
      pwrState s = 4 → rd s SHP_PWRSTAT_step 0 = 3 → exec (.shutdownRecordsCommitted) s = .next (setStep 4 ((((List.range 6).flatMap (groupRails s)).reverse).foldl (fun y r => operation false r y) s))) ∧
  (∀ (s : State),
    (allCommitted s = true ∨ logMute s = true ∨ s.pwr.sdTick + 2 < curTick s) →
      pwrState s = 5 → belState s ≠ belStopped → exec (.shutdownRecordsCommitted) s = .next (bellStop (mainReset s))) ∧
  (∀ (s : State),
    pwrState s = 4 → rd s SHP_PWRSTAT_step 0 = 4 → exec (.shutdownSuppliesOff) s = .next (setPwr 0 (setStep 6 (bellStop (pwrMod (fun p => { p with fails := 2 }) (mainReset (wr SHP_PWRSTAT_rail_good 0 0 (railEnables false false s)))))))) ∧
  (∀ (s : State),
    pwrState s = 2 → (pdksCreated s).isEmpty = true → exec (.standby) s = .next (cmdResult 0 (pwrMod (fun p => { p with standby := true }) s))) ∧
  (∀ (s : State) (t draw : Nat),
    let v := atTime t s
    pwrState v = 3 → rdB v SHP_STRAP_scan_used 0 = false → exec (.wake t draw) s = .next (if clkValid v 0 then wakeRun t draw (cmdResult 0 v) else wr SHP_BOOTSTAT_sysref_wait 0 1 (cmdResult 0 v))) ∧
  (∀ (s : State) (t : Nat),
    let v := atTime t s
    let u := pwrMod (fun p => { p with trip := true, tripBoot := true, sdTick := curTick v }) v
    pwrState v ≠ 0 → pwrState v < 5 → exec (.thermalTrip t) s = .next (wr SHP_PWRSTAT_rail_good 0 0 (endRecord 1 (stopServing (setPwr 5 (countLife 4 1 (railEnables false false
        (if pwrState v = 4 then wr SHP_SDINFO_trip 0 1 u else sdInfo 0 0 false true u))))))))

/-- The test access port (R794, R811, R812): BYPASS, IDCODE and SAMPLE/PRELOAD act in every state with VAUX; EXTEST, CLAMP, HIGHZ, EXTEST_PULSE and EXTEST_TRAIN in Keeper, Recovery and Standby, elsewhere each is BYPASS and is noted in SHP_STRAP; without VAUX and through a cold reset nothing of them acts. -/
def Obligations.TestAccessComplete : Prop :=
  (∀ (s : State),
    tapOn s = true → exec (.bypass) s = .next (emit .tdo [0, 0] { s with tap := { s.tap with ir := 0 } })) ∧
  (∀ (s : State),
    tapOn s = true → exec (.idcode) s = .next (emit .tdo [2, 0x247129A7] { s with tap := { s.tap with ir := 1 } })) ∧
  (∀ (s : State) (on main inOn inMain : Nat),
    tapOn s = true → exec (.samplePreload on main inOn inMain) s = .next (emit .tdo [1, on, captured s main] { s with tap := { ir := 2, cells := inOn, cellsMain := inMain } })) ∧
  (∀ (s : State) (on main inOn inMain : Nat),
    let v := wr SHP_STRAP_scan_used 0 1 s
    tapOn s = true → (pwrState s = 0 ∨ pwrState s = 6 ∨ pwrState s = 3) → exec (.extest on main inOn inMain) s = .next (emit .tdo [1, on, captured v main] { v with tap := { ir := 3, cells := inOn, cellsMain := inMain } })) ∧
  (∀ (s : State) (on main inOn inMain : Nat),
    tapOn s = true → pwrState s ≠ 0 → pwrState s ≠ 6 → pwrState s ≠ 3 → exec (.extest on main inOn inMain) s = .next (tapBypass 0 (wr SHP_STRAP_scan_refused 0 1 s))) ∧
  (∀ (s : State),
    let v := wr SHP_STRAP_scan_used 0 1 s
    tapOn s = true → (pwrState s = 0 ∨ pwrState s = 6 ∨ pwrState s = 3) → exec (.clamp) s = .next (emit .tdo [0, 0] { v with tap := { v.tap with ir := 4 } })) ∧
  (∀ (s : State),
    tapOn s = true → pwrState s ≠ 0 → pwrState s ≠ 6 → pwrState s ≠ 3 → exec (.clamp) s = .next (tapBypass 0 (wr SHP_STRAP_scan_refused 0 1 s))) ∧
  (∀ (s : State),
    let v := wr SHP_STRAP_scan_used 0 1 s
    tapOn s = true → (pwrState s = 0 ∨ pwrState s = 6 ∨ pwrState s = 3) → exec (.highz) s = .next (emit .tdo [0, 0] { v with tap := { v.tap with ir := 5 } })) ∧
  (∀ (s : State),
    tapOn s = true → pwrState s ≠ 0 → pwrState s ≠ 6 → pwrState s ≠ 3 → exec (.highz) s = .next (tapBypass 0 (wr SHP_STRAP_scan_refused 0 1 s))) ∧
  (∀ (s : State) (on main inOn inMain : Nat),
    let v := wr SHP_STRAP_scan_used 0 1 s
    tapOn s = true → (pwrState s = 0 ∨ pwrState s = 6 ∨ pwrState s = 3) → exec (.extestPulse on main inOn inMain) s = .next (emit .tdo [1, on, captured v main] { v with tap := { ir := 6, cells := inOn, cellsMain := inMain } })) ∧
  (∀ (s : State) (on main inOn inMain : Nat),
    tapOn s = true → pwrState s ≠ 0 → pwrState s ≠ 6 → pwrState s ≠ 3 → exec (.extestPulse on main inOn inMain) s = .next (tapBypass 0 (wr SHP_STRAP_scan_refused 0 1 s))) ∧
  (∀ (s : State) (on main inOn inMain : Nat),
    let v := wr SHP_STRAP_scan_used 0 1 s
    tapOn s = true → (pwrState s = 0 ∨ pwrState s = 6 ∨ pwrState s = 3) → exec (.extestTrain on main inOn inMain) s = .next (emit .tdo [1, on, captured v main] { v with tap := { ir := 7, cells := inOn, cellsMain := inMain } })) ∧
  (∀ (s : State) (on main inOn inMain : Nat),
    tapOn s = true → pwrState s ≠ 0 → pwrState s ≠ 6 → pwrState s ≠ 3 → exec (.extestTrain on main inOn inMain) s = .next (tapBypass 0 (wr SHP_STRAP_scan_refused 0 1 s))) ∧
  (∀ (s : State) (on main inOn inMain : Nat), tapOn s = false →
    ∀ c ∈ ([.bypass, .idcode, .samplePreload on main inOn inMain, .extest on main inOn inMain, .clamp, .highz, .extestPulse on main inOn inMain,
      .extestTrain on main inOn inMain] : List Instr), exec c s = .next s)
end

