-- ==== Sys2Proof/Laws/Exec.lean ====
section
/-! SUPPORT. The arm of each command. -/

namespace Sys2Proof.Machine

@[simp] theorem exec_registerWrite a0 a1 a2 a3 a4 a5 a6 (s : State) : exec (.registerWrite a0 a1 a2 a3 a4 a5 a6) s = execRegisterWrite a0 a1 a2 a3 a4 a5 a6 s := rfl
@[simp] theorem exec_rcRead a0 a1 a2 a3 a4 (s : State) : exec (.rcRead a0 a1 a2 a3 a4) s = execRcRead a0 a1 a2 a3 a4 s := rfl
@[simp] theorem exec_belStart a0 (s : State) : exec (.belStart a0) s = execBelStart a0 s := rfl
@[simp] theorem exec_bellEdge a0 (s : State) : exec (.bellEdge a0) s = execBellEdge a0 s := rfl
@[simp] theorem exec_bellLoss a0 (s : State) : exec (.bellLoss a0) s = execBellLoss a0 s := rfl
@[simp] theorem exec_internalTick a0 (s : State) : exec (.internalTick a0) s = execInternalTick a0 s := rfl
@[simp] theorem exec_flywheelExhausted a0 (s : State) : exec (.flywheelExhausted a0) s = execFlywheelExhausted a0 s := rfl
@[simp] theorem exec_relockLapse a0 (s : State) : exec (.relockLapse a0) s = execRelockLapse a0 s := rfl
@[simp] theorem exec_ptpTick a0 (s : State) : exec (.ptpTick a0) s = execPtpTick a0 s := rfl
@[simp] theorem exec_tickMoment a0 (s : State) : exec (.tickMoment a0) s = execTickMoment a0 s := rfl
@[simp] theorem exec_tickPhase1 a0 (s : State) : exec (.tickPhase1 a0) s = execTickPhase1 a0 s := rfl
@[simp] theorem exec_tickPhase2 a0 a1 a2 (s : State) : exec (.tickPhase2 a0 a1 a2) s = execTickPhase2 a0 a1 a2 s := rfl
@[simp] theorem exec_pdkCreate a0 (s : State) : exec (.pdkCreate a0) s = execPdkCreate a0 s := rfl
@[simp] theorem exec_pdkDelete a0 (s : State) : exec (.pdkDelete a0) s = execPdkDelete a0 s := rfl
@[simp] theorem exec_pdkRegather a0 (s : State) : exec (.pdkRegather a0) s = execPdkRegather a0 s := rfl
@[simp] theorem exec_regatherDrainEnd a0 a1 (s : State) : exec (.regatherDrainEnd a0 a1) s = execRegatherDrainEnd a0 a1 s := rfl
@[simp] theorem exec_regatherClearDone a0 (s : State) : exec (.regatherClearDone a0) s = execRegatherClearDone a0 s := rfl
@[simp] theorem exec_pdkVecWrite a0 a1 a2 (s : State) : exec (.pdkVecWrite a0 a1 a2) s = execPdkVecWrite a0 a1 a2 s := rfl
@[simp] theorem exec_sriovVfEnableChange a0 a1 (s : State) : exec (.sriovVfEnableChange a0 a1) s = execSriovVfEnableChange a0 a1 s := rfl
@[simp] theorem exec_bundleIssue a0 (s : State) : exec (.bundleIssue a0) s = execBundleIssue a0 s := rfl
@[simp] theorem exec_taskStart a0 a1 (s : State) : exec (.taskStart a0 a1) s = execTaskStart a0 a1 s := rfl
@[simp] theorem exec_taskResume a0 a1 (s : State) : exec (.taskResume a0 a1) s = execTaskResume a0 a1 s := rfl
@[simp] theorem exec_taskStop a0 a1 (s : State) : exec (.taskStop a0 a1) s = execTaskStop a0 a1 s := rfl
@[simp] theorem exec_matWld a0 (s : State) : exec (.matWld a0) s = execMatWld a0 s := rfl
@[simp] theorem exec_matMma a0 (s : State) : exec (.matMma a0) s = execMatMma a0 s := rfl
@[simp] theorem exec_matMms a0 (s : State) : exec (.matMms a0) s = execMatMms a0 s := rfl
@[simp] theorem exec_matMmt a0 (s : State) : exec (.matMmt a0) s = execMatMmt a0 s := rfl
@[simp] theorem exec_mOpComplete a0 (s : State) : exec (.mOpComplete a0) s = execMOpComplete a0 s := rfl
@[simp] theorem exec_residueCheck a0 (s : State) : exec (.residueCheck a0) s = execResidueCheck a0 s := rfl
@[simp] theorem exec_vecUn a0 (s : State) : exec (.vecUn a0) s = execVecUn a0 s := rfl
@[simp] theorem exec_vecBin a0 (s : State) : exec (.vecBin a0) s = execVecBin a0 s := rfl
@[simp] theorem exec_vecBins a0 (s : State) : exec (.vecBins a0) s = execVecBins a0 s := rfl
@[simp] theorem exec_vecRed a0 (s : State) : exec (.vecRed a0) s = execVecRed a0 s := rfl
@[simp] theorem exec_vecFill a0 (s : State) : exec (.vecFill a0) s = execVecFill a0 s := rfl
@[simp] theorem exec_vecEpi a0 (s : State) : exec (.vecEpi a0) s = execVecEpi a0 s := rfl
@[simp] theorem exec_vecAccld a0 (s : State) : exec (.vecAccld a0) s = execVecAccld a0 s := rfl
@[simp] theorem exec_vOpComplete a0 (s : State) : exec (.vOpComplete a0) s = execVOpComplete a0 s := rfl
@[simp] theorem exec_vwdataWrite a0 a1 a2 a3 (s : State) : exec (.vwdataWrite a0 a1 a2 a3) s = execVwdataWrite a0 a1 a2 a3 s := rfl
@[simp] theorem exec_spWordServe a0 a1 a2 a3 (s : State) : exec (.spWordServe a0 a1 a2 a3) s = execSpWordServe a0 a1 a2 a3 s := rfl
@[simp] theorem exec_spEccWriteback a0 a1 (s : State) : exec (.spEccWriteback a0 a1) s = execSpEccWriteback a0 a1 s := rfl
@[simp] theorem exec_spWindowAccess a0 a1 a2 a3 a4 a5 (s : State) : exec (.spWindowAccess a0 a1 a2 a3 a4 a5) s = execSpWindowAccess a0 a1 a2 a3 a4 a5 s := rfl
@[simp] theorem exec_spbselWrite a0 a1 (s : State) : exec (.spbselWrite a0 a1) s = execSpbselWrite a0 a1 s := rfl
@[simp] theorem exec_routeSlot a0 (s : State) : exec (.routeSlot a0) s = execRouteSlot a0 s := rfl
@[simp] theorem exec_holdConditionMet a0 (s : State) : exec (.holdConditionMet a0) s = execHoldConditionMet a0 s := rfl
@[simp] theorem exec_hurdleHeld a0 (s : State) : exec (.hurdleHeld a0) s = execHurdleHeld a0 s := rfl
@[simp] theorem exec_longHold a0 (s : State) : exec (.longHold a0) s = execLongHold a0 s := rfl
@[simp] theorem exec_mshPut a0 (s : State) : exec (.mshPut a0) s = execMshPut a0 s := rfl
@[simp] theorem exec_mshGet a0 (s : State) : exec (.mshGet a0) s = execMshGet a0 s := rfl
@[simp] theorem exec_mshDrop a0 (s : State) : exec (.mshDrop a0) s = execMshDrop a0 s := rfl
@[simp] theorem exec_mshCommit a0 a1 (s : State) : exec (.mshCommit a0 a1) s = execMshCommit a0 a1 s := rfl
@[simp] theorem exec_xOpComplete a0 a1 (s : State) : exec (.xOpComplete a0 a1) s = execXOpComplete a0 a1 s := rfl
@[simp] theorem exec_mshRpdataAccess a0 a1 a2 a3 (s : State) : exec (.mshRpdataAccess a0 a1 a2 a3) s = execMshRpdataAccess a0 a1 a2 a3 s := rfl
@[simp] theorem exec_strmAcq a0 (s : State) : exec (.strmAcq a0) s = execStrmAcq a0 s := rfl
@[simp] theorem exec_strmRel a0 (s : State) : exec (.strmRel a0) s = execStrmRel a0 s := rfl
@[simp] theorem exec_strmResume a0 (s : State) : exec (.strmResume a0) s = execStrmResume a0 s := rfl
@[simp] theorem exec_strmRearm a0 (s : State) : exec (.strmRearm a0) s = execStrmRearm a0 s := rfl
@[simp] theorem exec_drvArm a0 a1 a2 (s : State) : exec (.drvArm a0 a1 a2) s = execDrvArm a0 a1 a2 s := rfl
@[simp] theorem exec_drvHalt a0 a1 (s : State) : exec (.drvHalt a0 a1) s = execDrvHalt a0 a1 s := rfl
@[simp] theorem exec_drvResume a0 a1 (s : State) : exec (.drvResume a0 a1) s = execDrvResume a0 a1 s := rfl
@[simp] theorem exec_drvRearm a0 a1 (s : State) : exec (.drvRearm a0 a1) s = execDrvRearm a0 a1 s := rfl
@[simp] theorem exec_rearmTakeEffect a0 a1 a2 (s : State) : exec (.rearmTakeEffect a0 a1 a2) s = execRearmTakeEffect a0 a1 a2 s := rfl
@[simp] theorem exec_drvRequestForm a0 a1 (s : State) : exec (.drvRequestForm a0 a1) s = execDrvRequestForm a0 a1 s := rfl
@[simp] theorem exec_translationWalk a0 (s : State) : exec (.translationWalk a0) s = execTranslationWalk a0 s := rfl
@[simp] theorem exec_drvReadResponse a0 (s : State) : exec (.drvReadResponse a0) s = execDrvReadResponse a0 s := rfl
@[simp] theorem exec_drvWriteAck a0 (s : State) : exec (.drvWriteAck a0) s = execDrvWriteAck a0 s := rfl
@[simp] theorem exec_shareWindowStart a0 (s : State) : exec (.shareWindowStart a0) s = execShareWindowStart a0 s := rfl
@[simp] theorem exec_shareGrant a0 a1 (s : State) : exec (.shareGrant a0 a1) s = execShareGrant a0 a1 s := rfl
@[simp] theorem exec_memoryRead a0 (s : State) : exec (.memoryRead a0) s = execMemoryRead a0 s := rfl
@[simp] theorem exec_memoryWrite a0 (s : State) : exec (.memoryWrite a0) s = execMemoryWrite a0 s := rfl
@[simp] theorem exec_memoryScrub a0 (s : State) : exec (.memoryScrub a0) s = execMemoryScrub a0 s := rfl
@[simp] theorem exec_hostPathWrite a0 (s : State) : exec (.hostPathWrite a0) s = execHostPathWrite a0 s := rfl
@[simp] theorem exec_hostPathRead a0 (s : State) : exec (.hostPathRead a0) s = execHostPathRead a0 s := rfl
@[simp] theorem exec_hostReadCompletion a0 a1 a2 a3 (s : State) : exec (.hostReadCompletion a0 a1 a2 a3) s = execHostReadCompletion a0 a1 a2 a3 s := rfl
@[simp] theorem exec_hostWriteDiscard a0 (s : State) : exec (.hostWriteDiscard a0) s = execHostWriteDiscard a0 s := rfl
@[simp] theorem exec_completionTimeout a0 (s : State) : exec (.completionTimeout a0) s = execCompletionTimeout a0 s := rfl
@[simp] theorem exec_bar0Access a0 a1 a2 a3 a4 a5 a6 a7 (s : State) : exec (.bar0Access a0 a1 a2 a3 a4 a5 a6 a7) s = execBar0Access a0 a1 a2 a3 a4 a5 a6 a7 s := rfl
@[simp] theorem exec_bar2Access a0 a1 a2 a3 a4 (s : State) : exec (.bar2Access a0 a1 a2 a3 a4) s = execBar2Access a0 a1 a2 a3 a4 s := rfl
@[simp] theorem exec_translationCompletion a0 a1 a2 a3 a4 a5 (s : State) : exec (.translationCompletion a0 a1 a2 a3 a4 a5) s = execTranslationCompletion a0 a1 a2 a3 a4 a5 s := rfl
@[simp] theorem exec_pageRequest (s : State) : exec (.pageRequest) s = execPageRequest s := rfl
@[simp] theorem exec_prgResponse a0 a1 (s : State) : exec (.prgResponse a0 a1) s = execPrgResponse a0 a1 s := rfl
@[simp] theorem exec_invalidateRequest a0 a1 a2 a3 (s : State) : exec (.invalidateRequest a0 a1 a2 a3) s = execInvalidateRequest a0 a1 a2 a3 s := rfl
@[simp] theorem exec_invalidationStart (s : State) : exec (.invalidationStart) s = execInvalidationStart s := rfl
@[simp] theorem exec_invalidationDone (s : State) : exec (.invalidationDone) s = execInvalidationDone s := rfl
@[simp] theorem exec_whsSend a0 (s : State) : exec (.whsSend a0) s = execWhsSend a0 s := rfl
@[simp] theorem exec_whsCsend a0 (s : State) : exec (.whsCsend a0) s = execWhsCsend a0 s := rfl
@[simp] theorem exec_whsOpen a0 (s : State) : exec (.whsOpen a0) s = execWhsOpen a0 s := rfl
@[simp] theorem exec_whsListen a0 (s : State) : exec (.whsListen a0) s = execWhsListen a0 s := rfl
@[simp] theorem exec_whsClose a0 (s : State) : exec (.whsClose a0) s = execWhsClose a0 s := rfl
@[simp] theorem exec_whsRecv a0 (s : State) : exec (.whsRecv a0) s = execWhsRecv a0 s := rfl
@[simp] theorem exec_whistleMessage a0 (s : State) : exec (.whistleMessage a0) s = execWhistleMessage a0 s := rfl
@[simp] theorem exec_spillDrain a0 a1 (s : State) : exec (.spillDrain a0 a1) s = execSpillDrain a0 a1 s := rfl
@[simp] theorem exec_openRequest a0 (s : State) : exec (.openRequest a0) s = execOpenRequest a0 s := rfl
@[simp] theorem exec_openReply a0 (s : State) : exec (.openReply a0) s = execOpenReply a0 s := rfl
@[simp] theorem exec_closeMarker a0 (s : State) : exec (.closeMarker a0) s = execCloseMarker a0 s := rfl
@[simp] theorem exec_whistleAck a0 (s : State) : exec (.whistleAck a0) s = execWhistleAck a0 s := rfl
@[simp] theorem exec_busyRefusal a0 a1 (s : State) : exec (.busyRefusal a0 a1) s = execBusyRefusal a0 a1 s := rfl
@[simp] theorem exec_whistleResend a0 a1 a2 (s : State) : exec (.whistleResend a0 a1 a2) s = execWhistleResend a0 a1 a2 s := rfl
@[simp] theorem exec_whistleBrandFault a0 (s : State) : exec (.whistleBrandFault a0) s = execWhistleBrandFault a0 s := rfl
@[simp] theorem exec_whsRqpop a0 a1 (s : State) : exec (.whsRqpop a0 a1) s = execWhsRqpop a0 a1 s := rfl
@[simp] theorem exec_tlySig a0 (s : State) : exec (.tlySig a0) s = execTlySig a0 s := rfl
@[simp] theorem exec_tlyWait a0 (s : State) : exec (.tlyWait a0) s = execTlyWait a0 s := rfl
@[simp] theorem exec_tlyWatch a0 (s : State) : exec (.tlyWatch a0) s = execTlyWatch a0 s := rfl
@[simp] theorem exec_tlyRead a0 (s : State) : exec (.tlyRead a0) s = execTlyRead a0 s := rfl
@[simp] theorem exec_tlyUnwatch a0 (s : State) : exec (.tlyUnwatch a0) s = execTlyUnwatch a0 s := rfl
@[simp] theorem exec_tallyAdd a0 (s : State) : exec (.tallyAdd a0) s = execTallyAdd a0 s := rfl
@[simp] theorem exec_tallyWaitRequest a0 (s : State) : exec (.tallyWaitRequest a0) s = execTallyWaitRequest a0 s := rfl
@[simp] theorem exec_tallyWaitAnswer a0 (s : State) : exec (.tallyWaitAnswer a0) s = execTallyWaitAnswer a0 s := rfl
@[simp] theorem exec_tallyRefusal a0 (s : State) : exec (.tallyRefusal a0) s = execTallyRefusal a0 s := rfl
@[simp] theorem exec_tlyCntWrite a0 a1 a2 (s : State) : exec (.tlyCntWrite a0 a1 a2) s = execTlyCntWrite a0 a1 a2 s := rfl
@[simp] theorem exec_tlyAddWrite a0 a1 a2 (s : State) : exec (.tlyAddWrite a0 a1 a2) s = execTlyAddWrite a0 a1 a2 s := rfl
@[simp] theorem exec_tlyWatchCancel a0 a1 (s : State) : exec (.tlyWatchCancel a0 a1) s = execTlyWatchCancel a0 a1 s := rfl
@[simp] theorem exec_byrGet a0 (s : State) : exec (.byrGet a0) s = execByrGet a0 s := rfl
@[simp] theorem exec_byrPut a0 (s : State) : exec (.byrPut a0) s = execByrPut a0 s := rfl
@[simp] theorem exec_byreGet a0 (s : State) : exec (.byreGet a0) s = execByreGet a0 s := rfl
@[simp] theorem exec_byrePut a0 (s : State) : exec (.byrePut a0) s = execByrePut a0 s := rfl
@[simp] theorem exec_byrHget a0 a1 a2 (s : State) : exec (.byrHget a0 a1 a2) s = execByrHget a0 a1 a2 s := rfl
@[simp] theorem exec_byrHput a0 a1 (s : State) : exec (.byrHput a0 a1) s = execByrHput a0 a1 s := rfl
@[simp] theorem exec_byreCreate a0 a1 (s : State) : exec (.byreCreate a0 a1) s = execByreCreate a0 a1 s := rfl
@[simp] theorem exec_byreCreateDone a0 (s : State) : exec (.byreCreateDone a0) s = execByreCreateDone a0 s := rfl
@[simp] theorem exec_byreDestroy a0 a1 (s : State) : exec (.byreDestroy a0 a1) s = execByreDestroy a0 a1 s := rfl
@[simp] theorem exec_byreRebuild a0 a1 (s : State) : exec (.byreRebuild a0 a1) s = execByreRebuild a0 a1 s := rfl
@[simp] theorem exec_byreRebuildDone a0 a1 (s : State) : exec (.byreRebuildDone a0 a1) s = execByreRebuildDone a0 a1 s := rfl
@[simp] theorem exec_byreAudit a0 a1 (s : State) : exec (.byreAudit a0 a1) s = execByreAudit a0 a1 s := rfl
@[simp] theorem exec_byreAuditDone a0 (s : State) : exec (.byreAuditDone a0) s = execByreAuditDone a0 s := rfl
@[simp] theorem exec_fldLoad a0 (s : State) : exec (.fldLoad a0) s = execFldLoad a0 s := rfl
@[simp] theorem exec_hstFolddb a0 (s : State) : exec (.hstFolddb a0) s = execHstFolddb a0 s := rfl
@[simp] theorem exec_fldSwap a0 a1 (s : State) : exec (.fldSwap a0 a1) s = execFldSwap a0 a1 s := rfl
@[simp] theorem exec_fldVerify a0 (s : State) : exec (.fldVerify a0) s = execFldVerify a0 s := rfl
@[simp] theorem exec_foldLoadDone a0 (s : State) : exec (.foldLoadDone a0) s = execFoldLoadDone a0 s := rfl
@[simp] theorem exec_goldenDone a0 (s : State) : exec (.goldenDone a0) s = execGoldenDone a0 s := rfl
@[simp] theorem exec_swapPlayDone a0 (s : State) : exec (.swapPlayDone a0) s = execSwapPlayDone a0 s := rfl
@[simp] theorem exec_swapDropped a0 (s : State) : exec (.swapDropped a0) s = execSwapDropped a0 s := rfl
@[simp] theorem exec_foldReloadDone a0 (s : State) : exec (.foldReloadDone a0) s = execFoldReloadDone a0 s := rfl
@[simp] theorem exec_epochClose a0 (s : State) : exec (.epochClose a0) s = execEpochClose a0 s := rfl
@[simp] theorem exec_epochDecide a0 (s : State) : exec (.epochDecide a0) s = execEpochDecide a0 s := rfl
@[simp] theorem exec_quench a0 (s : State) : exec (.quench a0) s = execQuench a0 s := rfl
@[simp] theorem exec_quenchDrainEnd a0 (s : State) : exec (.quenchDrainEnd a0) s = execQuenchDrainEnd a0 s := rfl
@[simp] theorem exec_drainSend a0 (s : State) : exec (.drainSend a0) s = execDrainSend a0 s := rfl
@[simp] theorem exec_copyPrepared a0 (s : State) : exec (.copyPrepared a0) s = execCopyPrepared a0 s := rfl
@[simp] theorem exec_copyCommit a0 (s : State) : exec (.copyCommit a0) s = execCopyCommit a0 s := rfl
@[simp] theorem exec_failover a0 (s : State) : exec (.failover a0) s = execFailover a0 s := rfl
@[simp] theorem exec_failoverRestoreDone a0 (s : State) : exec (.failoverRestoreDone a0) s = execFailoverRestoreDone a0 s := rfl
@[simp] theorem exec_failOverNow a0 (s : State) : exec (.failOverNow a0) s = execFailOverNow a0 s := rfl
@[simp] theorem exec_rePair a0 (s : State) : exec (.rePair a0) s = execRePair a0 s := rfl
@[simp] theorem exec_unpair a0 (s : State) : exec (.unpair a0) s = execUnpair a0 s := rfl
@[simp] theorem exec_walkerFrameRead a0 (s : State) : exec (.walkerFrameRead a0) s = execWalkerFrameRead a0 s := rfl
@[simp] theorem exec_walkerReload a0 a1 (s : State) : exec (.walkerReload a0 a1) s = execWalkerReload a0 a1 s := rfl
@[simp] theorem exec_walkerSliceEnd a0 (s : State) : exec (.walkerSliceEnd a0) s = execWalkerSliceEnd a0 s := rfl
@[simp] theorem exec_musterRound a0 (s : State) : exec (.musterRound a0) s = execMusterRound a0 s := rfl
@[simp] theorem exec_musterCoreTestEnd a0 a1 a2 (s : State) : exec (.musterCoreTestEnd a0 a1 a2) s = execMusterCoreTestEnd a0 a1 a2 s := rfl
@[simp] theorem exec_musterSliceEnd a0 a1 (s : State) : exec (.musterSliceEnd a0 a1) s = execMusterSliceEnd a0 a1 s := rfl
@[simp] theorem exec_musterSliceYield a0 (s : State) : exec (.musterSliceYield a0) s = execMusterSliceYield a0 s := rfl
@[simp] theorem exec_musterStarved a0 (s : State) : exec (.musterStarved a0) s = execMusterStarved a0 s := rfl
@[simp] theorem exec_columnPauseEnd (s : State) : exec (.columnPauseEnd) s = execColumnPauseEnd s := rfl
@[simp] theorem exec_energySample a0 a1 a2 a3 a4 a5 a6 a7 a8 a9 a10 a11 a12 (s : State) : exec (.energySample a0 a1 a2 a3 a4 a5 a6 a7 a8 a9 a10 a11 a12) s = execEnergySample a0 a1 a2 a3 a4 a5 a6 a7 a8 a9 a10 a11 a12 s := rfl
@[simp] theorem exec_grantStale (s : State) : exec (.grantStale) s = execGrantStale s := rfl
@[simp] theorem exec_inletStale (s : State) : exec (.inletStale) s = execInletStale s := rfl
@[simp] theorem exec_telemetryCompare (s : State) : exec (.telemetryCompare) s = execTelemetryCompare s := rfl
@[simp] theorem exec_smbalert a0 (s : State) : exec (.smbalert a0) s = execSmbalert a0 s := rfl
@[simp] theorem exec_grant a0 a1 (s : State) : exec (.grant a0 a1) s = execGrant a0 a1 s := rfl
@[simp] theorem exec_inlet a0 a1 (s : State) : exec (.inlet a0 a1) s = execInlet a0 a1 s := rfl
@[simp] theorem exec_spent (s : State) : exec (.spent) s = execSpent s := rfl
@[simp] theorem exec_bell (s : State) : exec (.bell) s = execBell s := rfl
@[simp] theorem exec_limits (s : State) : exec (.limits) s = execLimits s := rfl
@[simp] theorem exec_recordWrite (s : State) : exec (.recordWrite) s = execRecordWrite s := rfl
@[simp] theorem exec_recordCommit a0 (s : State) : exec (.recordCommit a0) s = execRecordCommit a0 s := rfl
@[simp] theorem exec_commitWindowEnd (s : State) : exec (.commitWindowEnd) s = execCommitWindowEnd s := rfl
@[simp] theorem exec_fbkRselWrite a0 (s : State) : exec (.fbkRselWrite a0) s = execFbkRselWrite a0 s := rfl
@[simp] theorem exec_fbkFind a0 (s : State) : exec (.fbkFind a0) s = execFbkFind a0 s := rfl
@[simp] theorem exec_fbkCalset a0 (s : State) : exec (.fbkCalset a0) s = execFbkCalset a0 s := rfl
@[simp] theorem exec_fbkCalRead (s : State) : exec (.fbkCalRead) s = execFbkCalRead s := rfl
@[simp] theorem exec_ftfMark a0 (s : State) : exec (.ftfMark a0) s = execFtfMark a0 s := rfl
@[simp] theorem exec_traceLineDeliver a0 (s : State) : exec (.traceLineDeliver a0) s = execTraceLineDeliver a0 s := rfl
@[simp] theorem exec_flush a0 (s : State) : exec (.flush a0) s = execFlush a0 s := rfl
@[simp] theorem exec_release a0 (s : State) : exec (.release a0) s = execRelease a0 s := rfl
@[simp] theorem exec_dump a0 a1 (s : State) : exec (.dump a0 a1) s = execDump a0 a1 s := rfl
@[simp] theorem exec_dumpDone a0 (s : State) : exec (.dumpDone a0) s = execDumpDone a0 s := rfl
@[simp] theorem exec_sinkResume a0 (s : State) : exec (.sinkResume a0) s = execSinkResume a0 s := rfl
@[simp] theorem exec_crookStopDone a0 (s : State) : exec (.crookStopDone a0) s = execCrookStopDone a0 s := rfl
@[simp] theorem exec_ringConfigure a0 a1 a2 a3 (s : State) : exec (.ringConfigure a0 a1 a2 a3) s = execRingConfigure a0 a1 a2 a3 s := rfl
@[simp] theorem exec_submissionDoorbell a0 a1 a2 (s : State) : exec (.submissionDoorbell a0 a1 a2) s = execSubmissionDoorbell a0 a1 a2 s := rfl
@[simp] theorem exec_headDoorbell a0 a1 a2 a3 (s : State) : exec (.headDoorbell a0 a1 a2 a3) s = execHeadDoorbell a0 a1 a2 a3 s := rfl
@[simp] theorem exec_submissionFetch a0 a1 a2 (s : State) : exec (.submissionFetch a0 a1 a2) s = execSubmissionFetch a0 a1 a2 s := rfl
@[simp] theorem exec_stageGetRetry a0 a1 a2 (s : State) : exec (.stageGetRetry a0 a1 a2) s = execStageGetRetry a0 a1 a2 s := rfl
@[simp] theorem exec_nop a0 a1 (s : State) : exec (.nop a0 a1) s = execNop a0 a1 s := rfl
@[simp] theorem exec_sqFence a0 a1 (s : State) : exec (.sqFence a0 a1) s = execSqFence a0 a1 s := rfl
@[simp] theorem exec_tadd a0 a1 (s : State) : exec (.tadd a0 a1) s = execTadd a0 a1 s := rfl
@[simp] theorem exec_twait a0 a1 (s : State) : exec (.twait a0 a1) s = execTwait a0 a1 s := rfl
@[simp] theorem exec_rearm a0 a1 (s : State) : exec (.rearm a0 a1) s = execRearm a0 a1 s := rfl
@[simp] theorem exec_stream a0 a1 (s : State) : exec (.stream a0 a1) s = execStream a0 a1 s := rfl
@[simp] theorem exec_fold a0 a1 (s : State) : exec (.fold a0 a1) s = execFold a0 a1 s := rfl
@[simp] theorem exec_completionPost a0 a1 a2 (s : State) : exec (.completionPost a0 a1 a2) s = execCompletionPost a0 a1 a2 s := rfl
@[simp] theorem exec_faultRecordPost a0 (s : State) : exec (.faultRecordPost a0) s = execFaultRecordPost a0 s := rfl
@[simp] theorem exec_eventRecordPost (s : State) : exec (.eventRecordPost) s = execEventRecordPost s := rfl
@[simp] theorem exec_vfFlr a0 (s : State) : exec (.vfFlr a0) s = execVfFlr a0 s := rfl
@[simp] theorem exec_pfFlr (s : State) : exec (.pfFlr) s = execPfFlr s := rfl
@[simp] theorem exec_linkDown (s : State) : exec (.linkDown) s = execLinkDown s := rfl
@[simp] theorem exec_linkUp a0 a1 a2 a3 (s : State) : exec (.linkUp a0 a1 a2 a3) s = execLinkUp a0 a1 a2 a3 s := rfl
@[simp] theorem exec_perstAssert (s : State) : exec (.perstAssert) s = execPerstAssert s := rfl
@[simp] theorem exec_perstDeassert (s : State) : exec (.perstDeassert) s = execPerstDeassert s := rfl
@[simp] theorem exec_d3hotEntry a0 (s : State) : exec (.d3hotEntry a0) s = execD3hotEntry a0 s := rfl
@[simp] theorem exec_d0Return a0 (s : State) : exec (.d0Return a0) s = execD0Return a0 s := rfl
@[simp] theorem exec_configRequest a0 a1 a2 a3 a4 a5 a6 (s : State) : exec (.configRequest a0 a1 a2 a3 a4 a5 a6) s = execConfigRequest a0 a1 a2 a3 a4 a5 a6 s := rfl
@[simp] theorem exec_ethPortUp a0 (s : State) : exec (.ethPortUp a0) s = execEthPortUp a0 s := rfl
@[simp] theorem exec_ethPortDown a0 (s : State) : exec (.ethPortDown a0) s = execEthPortDown a0 s := rfl
@[simp] theorem exec_keepaliveSend a0 a1 (s : State) : exec (.keepaliveSend a0 a1) s = execKeepaliveSend a0 a1 s := rfl
@[simp] theorem exec_keepalive a0 a1 a2 a3 a4 (s : State) : exec (.keepalive a0 a1 a2 a3 a4) s = execKeepalive a0 a1 a2 a3 a4 s := rfl
@[simp] theorem exec_pathDeadTimeout a0 a1 (s : State) : exec (.pathDeadTimeout a0 a1) s = execPathDeadTimeout a0 a1 s := rfl
@[simp] theorem exec_data a0 a1 a2 a3 a4 a5 a6 a7 a8 a9 (s : State) : exec (.data a0 a1 a2 a3 a4 a5 a6 a7 a8 a9) s = execData a0 a1 a2 a3 a4 a5 a6 a7 a8 a9 s := rfl
@[simp] theorem exec_ack a0 a1 a2 a3 a4 a5 a6 a7 (s : State) : exec (.ack a0 a1 a2 a3 a4 a5 a6 a7) s = execAck a0 a1 a2 a3 a4 a5 a6 a7 s := rfl
@[simp] theorem exec_refuse a0 a1 a2 a3 a4 a5 a6 a7 a8 (s : State) : exec (.refuse a0 a1 a2 a3 a4 a5 a6 a7 a8) s = execRefuse a0 a1 a2 a3 a4 a5 a6 a7 a8 s := rfl
@[simp] theorem exec_frameDrop a0 (s : State) : exec (.frameDrop a0) s = execFrameDrop a0 s := rfl
@[simp] theorem exec_retransmit a0 a1 (s : State) : exec (.retransmit a0 a1) s = execRetransmit a0 a1 s := rfl
@[simp] theorem exec_routeTimeout a0 a1 (s : State) : exec (.routeTimeout a0 a1) s = execRouteTimeout a0 a1 s := rfl
@[simp] theorem exec_routeWord0Write a0 a1 (s : State) : exec (.routeWord0Write a0 a1) s = execRouteWord0Write a0 a1 s := rfl
@[simp] theorem exec_pfcFrame a0 a1 a2 a3 (s : State) : exec (.pfcFrame a0 a1 a2 a3) s = execPfcFrame a0 a1 a2 a3 s := rfl
@[simp] theorem exec_ptpSync a0 a1 (s : State) : exec (.ptpSync a0 a1) s = execPtpSync a0 a1 s := rfl
@[simp] theorem exec_ptpSyncLoss (s : State) : exec (.ptpSyncLoss) s = execPtpSyncLoss s := rfl
@[simp] theorem exec_setEndpointId a0 a1 a2 (s : State) : exec (.setEndpointId a0 a1 a2) s = execSetEndpointId a0 a1 a2 s := rfl
@[simp] theorem exec_getEndpointId a0 (s : State) : exec (.getEndpointId a0) s = execGetEndpointId a0 s := rfl
@[simp] theorem exec_getEndpointUuid a0 (s : State) : exec (.getEndpointUuid a0) s = execGetEndpointUuid a0 s := rfl
@[simp] theorem exec_getMctpVersionSupport a0 a1 (s : State) : exec (.getMctpVersionSupport a0 a1) s = execGetMctpVersionSupport a0 a1 s := rfl
@[simp] theorem exec_getMessageTypeSupport a0 (s : State) : exec (.getMessageTypeSupport a0) s = execGetMessageTypeSupport a0 s := rfl
@[simp] theorem exec_mctpResponseDrop a0 (s : State) : exec (.mctpResponseDrop a0) s = execMctpResponseDrop a0 s := rfl
@[simp] theorem exec_gettid a0 (s : State) : exec (.gettid a0) s = execGettid a0 s := rfl
@[simp] theorem exec_settid a0 a1 (s : State) : exec (.settid a0 a1) s = execSettid a0 a1 s := rfl
@[simp] theorem exec_getpldmversion a0 a1 (s : State) : exec (.getpldmversion a0 a1) s = execGetpldmversion a0 a1 s := rfl
@[simp] theorem exec_getpldmtypes a0 (s : State) : exec (.getpldmtypes a0) s = execGetpldmtypes a0 s := rfl
@[simp] theorem exec_getpldmcommands a0 a1 (s : State) : exec (.getpldmcommands a0 a1) s = execGetpldmcommands a0 a1 s := rfl
@[simp] theorem exec_seteventreceiver a0 a1 a2 (s : State) : exec (.seteventreceiver a0 a1 a2) s = execSeteventreceiver a0 a1 a2 s := rfl
@[simp] theorem exec_geteventreceiver a0 (s : State) : exec (.geteventreceiver a0) s = execGeteventreceiver a0 s := rfl
@[simp] theorem exec_getsensorreading a0 a1 (s : State) : exec (.getsensorreading a0 a1) s = execGetsensorreading a0 a1 s := rfl
@[simp] theorem exec_getstatesensorreadings a0 a1 (s : State) : exec (.getstatesensorreadings a0 a1) s = execGetstatesensorreadings a0 a1 s := rfl
@[simp] theorem exec_setstateeffecterstates a0 a1 a2 (s : State) : exec (.setstateeffecterstates a0 a1 a2) s = execSetstateeffecterstates a0 a1 a2 s := rfl
@[simp] theorem exec_getpdrrepositoryinfo a0 (s : State) : exec (.getpdrrepositoryinfo a0) s = execGetpdrrepositoryinfo a0 s := rfl
@[simp] theorem exec_getpdr a0 a1 (s : State) : exec (.getpdr a0 a1) s = execGetpdr a0 a1 s := rfl
@[simp] theorem exec_getdatetime a0 (s : State) : exec (.getdatetime a0) s = execGetdatetime a0 s := rfl
@[simp] theorem exec_setdatetime a0 a1 a2 a3 a4 a5 a6 (s : State) : exec (.setdatetime a0 a1 a2 a3 a4 a5 a6) s = execSetdatetime a0 a1 a2 a3 a4 a5 a6 s := rfl
@[simp] theorem exec_querydeviceidentifiers a0 (s : State) : exec (.querydeviceidentifiers a0) s = execQuerydeviceidentifiers a0 s := rfl
@[simp] theorem exec_getfirmwareparameters a0 (s : State) : exec (.getfirmwareparameters a0) s = execGetfirmwareparameters a0 s := rfl
@[simp] theorem exec_requestupdate a0 (s : State) : exec (.requestupdate a0) s = execRequestupdate a0 s := rfl
@[simp] theorem exec_passcomponenttable a0 a1 a2 (s : State) : exec (.passcomponenttable a0 a1 a2) s = execPasscomponenttable a0 a1 a2 s := rfl
@[simp] theorem exec_updatecomponent a0 a1 a2 a3 a4 a5 (s : State) : exec (.updatecomponent a0 a1 a2 a3 a4 a5) s = execUpdatecomponent a0 a1 a2 a3 a4 a5 s := rfl
@[simp] theorem exec_requestfirmwaredata a0 a1 a2 (s : State) : exec (.requestfirmwaredata a0 a1 a2) s = execRequestfirmwaredata a0 a1 a2 s := rfl
@[simp] theorem exec_applycomplete (s : State) : exec (.applycomplete) s = execApplycomplete s := rfl
@[simp] theorem exec_activatefirmware a0 a1 (s : State) : exec (.activatefirmware a0 a1) s = execActivatefirmware a0 a1 s := rfl
@[simp] theorem exec_getstatus a0 (s : State) : exec (.getstatus a0) s = execGetstatus a0 s := rfl
@[simp] theorem exec_cancelupdatecomponent a0 (s : State) : exec (.cancelupdatecomponent a0) s = execCancelupdatecomponent a0 s := rfl
@[simp] theorem exec_cancelupdate a0 (s : State) : exec (.cancelupdate a0) s = execCancelupdate a0 s := rfl
@[simp] theorem exec_platformeventmessage a0 (s : State) : exec (.platformeventmessage a0) s = execPlatformeventmessage a0 s := rfl
@[simp] theorem exec_platformEventRetry a0 (s : State) : exec (.platformEventRetry a0) s = execPlatformEventRetry a0 s := rfl
@[simp] theorem exec_getVersion a0 (s : State) : exec (.getVersion a0) s = execGetVersion a0 s := rfl
@[simp] theorem exec_getCapabilities a0 (s : State) : exec (.getCapabilities a0) s = execGetCapabilities a0 s := rfl
@[simp] theorem exec_negotiateAlgorithms a0 a1 a2 (s : State) : exec (.negotiateAlgorithms a0 a1 a2) s = execNegotiateAlgorithms a0 a1 a2 s := rfl
@[simp] theorem exec_getDigests a0 (s : State) : exec (.getDigests a0) s = execGetDigests a0 s := rfl
@[simp] theorem exec_getCertificate a0 a1 a2 a3 (s : State) : exec (.getCertificate a0 a1 a2 a3) s = execGetCertificate a0 a1 a2 a3 s := rfl
@[simp] theorem exec_challenge a0 a1 (s : State) : exec (.challenge a0 a1) s = execChallenge a0 a1 s := rfl
@[simp] theorem exec_getMeasurements a0 a1 a2 (s : State) : exec (.getMeasurements a0 a1 a2) s = execGetMeasurements a0 a1 a2 s := rfl
@[simp] theorem exec_spdmUnsupportedRequest a0 (s : State) : exec (.spdmUnsupportedRequest a0) s = execSpdmUnsupportedRequest a0 s := rfl
@[simp] theorem exec_doeDiscovery a0 (s : State) : exec (.doeDiscovery a0) s = execDoeDiscovery a0 s := rfl
@[simp] theorem exec_setOwner (s : State) : exec (.setOwner) s = execSetOwner s := rfl
@[simp] theorem exec_installKey (s : State) : exec (.installKey) s = execInstallKey s := rfl
@[simp] theorem exec_revokeKey (s : State) : exec (.revokeKey) s = execRevokeKey s := rfl
@[simp] theorem exec_advanceSvn (s : State) : exec (.advanceSvn) s = execAdvanceSvn s := rfl
@[simp] theorem exec_activate (s : State) : exec (.activate) s = execActivate s := rfl
@[simp] theorem exec_readBoard (s : State) : exec (.readBoard) s = execReadBoard s := rfl
@[simp] theorem exec_liveActivationDone a0 a1 (s : State) : exec (.liveActivationDone a0 a1) s = execLiveActivationDone a0 a1 s := rfl
@[simp] theorem exec_activationWatchdog a0 (s : State) : exec (.activationWatchdog a0) s = execActivationWatchdog a0 s := rfl
@[simp] theorem exec_vauxGood a0 (s : State) : exec (.vauxGood a0) s = execVauxGood a0 s := rfl
@[simp] theorem exec_vauxBrownout a0 (s : State) : exec (.vauxBrownout a0) s = execVauxBrownout a0 s := rfl
@[simp] theorem exec_krstNAssert a0 (s : State) : exec (.krstNAssert a0) s = execKrstNAssert a0 s := rfl
@[simp] theorem exec_coldResetRelease a0 (s : State) : exec (.coldResetRelease a0) s = execColdResetRelease a0 s := rfl
@[simp] theorem exec_clockValid a0 a1 a2 (s : State) : exec (.clockValid a0 a1 a2) s = execClockValid a0 a1 a2 s := rfl
@[simp] theorem exec_clockLoss a0 a1 (s : State) : exec (.clockLoss a0 a1) s = execClockLoss a0 a1 s := rfl
@[simp] theorem exec_memPgRise a0 (s : State) : exec (.memPgRise a0) s = execMemPgRise a0 s := rfl
@[simp] theorem exec_memPgFall a0 (s : State) : exec (.memPgFall a0) s = execMemPgFall a0 s := rfl
@[simp] theorem exec_railPowerGood a0 a1 a2 (s : State) : exec (.railPowerGood a0 a1 a2) s = execRailPowerGood a0 a1 a2 s := rfl
@[simp] theorem exec_memoryTrainingDone a0 a1 a2 a3 (s : State) : exec (.memoryTrainingDone a0 a1 a2 a3) s = execMemoryTrainingDone a0 a1 a2 a3 s := rfl
@[simp] theorem exec_startupMusterDone a0 a1 a2 a3 (s : State) : exec (.startupMusterDone a0 a1 a2 a3) s = execStartupMusterDone a0 a1 a2 a3 s := rfl
@[simp] theorem exec_startupRetry a0 (s : State) : exec (.startupRetry a0) s = execStartupRetry a0 s := rfl
@[simp] theorem exec_shutDown a0 a1 a2 a3 (s : State) : exec (.shutDown a0 a1 a2 a3) s = execShutDown a0 a1 a2 a3 s := rfl
@[simp] theorem exec_shutdownRecordsCommitted (s : State) : exec (.shutdownRecordsCommitted) s = execShutdownRecordsCommitted s := rfl
@[simp] theorem exec_shutdownSuppliesOff (s : State) : exec (.shutdownSuppliesOff) s = execShutdownSuppliesOff s := rfl
@[simp] theorem exec_standby (s : State) : exec (.standby) s = execStandby s := rfl
@[simp] theorem exec_wake a0 a1 (s : State) : exec (.wake a0 a1) s = execWake a0 a1 s := rfl
@[simp] theorem exec_thermalTrip a0 (s : State) : exec (.thermalTrip a0) s = execThermalTrip a0 s := rfl
@[simp] theorem exec_k0Overtemp a0 (s : State) : exec (.k0Overtemp a0) s = execK0Overtemp a0 s := rfl
@[simp] theorem exec_k0OvertempRelease (s : State) : exec (.k0OvertempRelease) s = execK0OvertempRelease s := rfl
@[simp] theorem exec_bypass (s : State) : exec (.bypass) s = execBypass s := rfl
@[simp] theorem exec_idcode (s : State) : exec (.idcode) s = execIdcode s := rfl
@[simp] theorem exec_samplePreload a0 a1 a2 a3 (s : State) : exec (.samplePreload a0 a1 a2 a3) s = execSamplePreload a0 a1 a2 a3 s := rfl
@[simp] theorem exec_extest a0 a1 a2 a3 (s : State) : exec (.extest a0 a1 a2 a3) s = execExtest a0 a1 a2 a3 s := rfl
@[simp] theorem exec_clamp (s : State) : exec (.clamp) s = execClamp s := rfl
@[simp] theorem exec_highz (s : State) : exec (.highz) s = execHighz s := rfl
@[simp] theorem exec_extestPulse a0 a1 a2 a3 (s : State) : exec (.extestPulse a0 a1 a2 a3) s = execExtestPulse a0 a1 a2 a3 s := rfl
@[simp] theorem exec_extestTrain a0 a1 a2 a3 (s : State) : exec (.extestTrain a0 a1 a2 a3) s = execExtestTrain a0 a1 a2 a3 s := rfl
@[simp] theorem exec_pdkCommandDone a0 (s : State) : exec (.pdkCommandDone a0) s = execPdkCommandDone a0 s := rfl
@[simp] theorem exec_powerGoodTimeout a0 (s : State) : exec (.powerGoodTimeout a0) s = execPowerGoodTimeout a0 s := rfl
@[simp] theorem exec_bankControllerFault a0 (s : State) : exec (.bankControllerFault a0) s = execBankControllerFault a0 s := rfl
@[simp] theorem exec_platformeventmessageResponse a0 (s : State) : exec (.platformeventmessageResponse a0) s = execPlatformeventmessageResponse a0 s := rfl
@[simp] theorem exec_l0pWidthChange a0 (s : State) : exec (.l0pWidthChange a0) s = execL0pWidthChange a0 s := rfl
@[simp] theorem exec_byreReclaimDone a0 a1 (s : State) : exec (.byreReclaimDone a0 a1) s = execByreReclaimDone a0 a1 s := rfl
@[simp] theorem exec_foldVerifyDone a0 (s : State) : exec (.foldVerifyDone a0) s = execFoldVerifyDone a0 s := rfl
@[simp] theorem exec_smbusSclLowTimeout a0 (s : State) : exec (.smbusSclLowTimeout a0) s = execSmbusSclLowTimeout a0 s := rfl
@[simp] theorem exec_pmbusRetry a0 a1 a2 a3 (s : State) : exec (.pmbusRetry a0 a1 a2 a3) s = execPmbusRetry a0 a1 a2 a3 s := rfl
@[simp] theorem exec_afterTripCooled (s : State) : exec (.afterTripCooled) s = execAfterTripCooled s := rfl

end Sys2Proof.Machine
end

