-- ==== Sys2Proof/Laws/Maps.lean ====
section
/-! SUPPORT. Sparse maps: the canonical form is kept by every operation, and a read after a write. -/

namespace Sys2Proof.Machine

variable {α : Type}

theorem mapAbove_mono {m : SMap α} {i j : Nat} (h : mapAbove m j = true) (hij : i ≤ j) : mapAbove m i = true := by
  cases m with
  | nil => rfl
  | cons e m => simp only [mapAbove, decide_eq_true_eq] at *; omega

theorem mapErase_above {m : SMap α} {k : Nat} (h : mapAbove m k = true) : mapErase m k = m := by
  cases m with
  | nil => rfl
  | cons e m =>
    obtain ⟨i, v⟩ := e
    simp only [mapAbove, decide_eq_true_eq] at h
    simp [mapErase, show i ≠ k by omega, h]

theorem mapAbove_insert {m : SMap α} {i k : Nat} (v : α) (h : mapAbove m i = true) (hk : i < k) :
    mapAbove (mapInsert m k v) i = true := by
  cases m with
  | nil => simpa [mapInsert, mapAbove] using hk
  | cons e m =>
    obtain ⟨j, w⟩ := e
    simp only [mapAbove, decide_eq_true_eq] at h
    unfold mapInsert
    split
    · simpa [mapAbove] using hk
    · split <;> simp [mapAbove, h, hk]

theorem mapGet_above {m : SMap α} {k : Nat} (c : α) (h : mapAbove m k = true) : mapGet c m k = c := by
  cases m with
  | nil => rfl
  | cons e m =>
    obtain ⟨i, v⟩ := e
    simp only [mapAbove, decide_eq_true_eq] at h
    simp [mapGet, show i ≠ k by omega, h]

theorem mapGet_insert_same (m : SMap α) (c : α) (k : Nat) (v : α) : mapGet c (mapInsert m k v) k = v := by
  induction m with
  | nil => simp [mapInsert, mapGet]
  | cons e m ih =>
    obtain ⟨i, w⟩ := e
    unfold mapInsert
    split
    · simp [mapGet]
    · split
      · simp [mapGet]
      · simp [mapGet, *]

theorem mapGet_insert_ne (m : SMap α) (c : α) {k l : Nat} (v : α) (h : k ≠ l) : mapGet c (mapInsert m k v) l = mapGet c m l := by
  induction m with
  | nil => simp [mapInsert, mapGet, h]
  | cons e m ih =>
    obtain ⟨i, w⟩ := e
    unfold mapInsert
    split
    · rename_i hik; subst hik; simp [mapGet, h]
    · split
      · simp only [mapGet, h, if_false]
        split
        · rename_i h1; rw [if_neg (by omega), if_pos (by omega)]
        · rfl
      · simp [mapGet, ih]

theorem mapGet_erase_same (m : SMap α) (c : α) (k : Nat) : mapGet c (mapErase m k) k = c := by
  induction m with
  | nil => rfl
  | cons e m ih =>
    obtain ⟨i, w⟩ := e
    unfold mapErase
    split
    · exact ih
    · split
      · simp [mapGet, *]
      · simp [mapGet, *]

/-- A read of the key written, in any list of entries. -/
@[simp] theorem mapGet_set_same [DecidableEq α] (c : α) (m : SMap α) (k : Nat) (v : α) : mapGet c (mapSet c m k v) k = v := by
  unfold mapSet
  split
  · rename_i hv; rw [mapGet_erase_same, hv]
  · exact mapGet_insert_same m _ k v

section
variable [DecidableEq α] {d : Nat → α}

theorem mapWf_cons {i : Nat} {v : α} {m : SMap α} :
    mapWf d ((i, v) :: m) = true ↔ v ≠ d i ∧ mapAbove m i = true ∧ mapWf d m = true := by
  simp [mapWf, and_assoc]

theorem mapAbove_erase {m : SMap α} {i : Nat} (k : Nat) (hw : mapWf d m = true) (h : mapAbove m i = true) :
    mapAbove (mapErase m k) i = true := by
  cases m with
  | nil => rfl
  | cons e m =>
    obtain ⟨j, v⟩ := e
    obtain ⟨-, h2, -⟩ := mapWf_cons.mp hw
    have hij := h
    simp only [mapAbove, decide_eq_true_eq] at hij
    unfold mapErase
    split
    · rename_i hjk
      rw [mapErase_above (hjk ▸ h2)]
      exact mapAbove_mono h2 (Nat.le_of_lt hij)
    · split <;> simp [mapAbove, hij]

theorem mapWf_erase {m : SMap α} (k : Nat) (h : mapWf d m = true) : mapWf d (mapErase m k) = true := by
  induction m with
  | nil => rfl
  | cons e m ih =>
    obtain ⟨i, v⟩ := e
    obtain ⟨h1, h2, h3⟩ := mapWf_cons.mp h
    unfold mapErase
    split
    · exact ih h3
    · split
      · exact h
      · exact mapWf_cons.mpr ⟨h1, mapAbove_erase k h3 h2, ih h3⟩

theorem mapWf_insert {m : SMap α} (k : Nat) (v : α) (hv : v ≠ d k) (h : mapWf d m = true) :
    mapWf d (mapInsert m k v) = true := by
  induction m with
  | nil => simpa [mapInsert, mapWf, mapAbove] using hv
  | cons e m ih =>
    obtain ⟨i, w⟩ := e
    obtain ⟨h1, h2, h3⟩ := mapWf_cons.mp h
    unfold mapInsert
    split
    · rename_i hik
      exact mapWf_cons.mpr ⟨hv, hik ▸ h2, h3⟩
    · rename_i hik
      split
      · rename_i hlt
        exact mapWf_cons.mpr ⟨hv, by simpa [mapAbove] using hlt, h⟩
      · exact mapWf_cons.mpr ⟨h1, mapAbove_insert v h2 (by omega), ih h3⟩

/-- A write keeps the canonical form. -/
theorem mapWf_set {m : SMap α} (k : Nat) (v : α) (h : mapWf d m = true) : mapWf d (mapSet (d k) m k v) = true := by
  unfold mapSet
  split
  · exact mapWf_erase k h
  · rename_i hv
    exact mapWf_insert k v hv h

theorem mapWf_const_set {c : α} {m : SMap α} (k : Nat) (v : α) (h : mapWf (fun _ => c) m = true) :
    mapWf (fun _ => c) (mapSet c m k v) = true := mapWf_set (d := fun _ => c) k v h

theorem mapAbove_filter {m : SMap α} {i : Nat} (p : Nat × α → Bool) (hw : mapWf d m = true) (h : mapAbove m i = true) :
    mapAbove (m.filter p) i = true := by
  induction m generalizing i with
  | nil => rfl
  | cons e m ih =>
    obtain ⟨j, v⟩ := e
    obtain ⟨-, h2, h3⟩ := mapWf_cons.mp hw
    simp only [mapAbove, decide_eq_true_eq] at h
    rw [List.filter_cons]
    split
    · simpa [mapAbove] using h
    · exact ih h3 (mapAbove_mono h2 (Nat.le_of_lt h))

/-- Dropping entries keeps the canonical form. -/
theorem mapWf_filter {m : SMap α} (p : Nat × α → Bool) (h : mapWf d m = true) : mapWf d (m.filter p) = true := by
  induction m with
  | nil => rfl
  | cons e m ih =>
    obtain ⟨i, v⟩ := e
    obtain ⟨h1, h2, h3⟩ := mapWf_cons.mp h
    rw [List.filter_cons]
    split
    · exact mapWf_cons.mpr ⟨h1, mapAbove_filter p h3 h2, ih h3⟩
    · exact ih h3

/-- Writing entries one by one into a canonical map gives a canonical map. -/
theorem mapWf_foldl_set {m a : SMap α} (h : mapWf d a = true) : mapWf d (m.foldl (fun a e => mapSet (d e.1) a e.1 e.2) a) = true := by
  induction m generalizing a with
  | nil => exact h
  | cons e m ih => exact ih (mapWf_set _ _ h)

theorem mapWf_rebuild (m : SMap α) : mapWf d (mapRebuild d m) = true := mapWf_foldl_set rfl

theorem mapWf_clear {m : SMap α} (lo hi : Nat) (h : mapWf d m = true) : mapWf d (mapClear m lo hi) = true := mapWf_filter _ h

theorem mapGet_erase_ne {m : SMap α} (c : α) {k l : Nat} (h : mapWf d m = true) (hkl : k ≠ l) :
    mapGet c (mapErase m k) l = mapGet c m l := by
  induction m with
  | nil => rfl
  | cons e m ih =>
    obtain ⟨i, w⟩ := e
    obtain ⟨-, h2, h3⟩ := mapWf_cons.mp h
    unfold mapErase
    split
    · rename_i hik
      subst hik
      rw [mapErase_above h2]
      simp only [mapGet, hkl, if_false]
      split
      · exact mapGet_above c (mapAbove_mono h2 (by omega))
      · rfl
    · split
      · rfl
      · simp [mapGet, ih h3]

/-- A read of another key. -/
theorem mapGet_set_ne {m : SMap α} (c : α) {k l : Nat} (b v : α) (h : mapWf d m = true) (hkl : k ≠ l) :
    mapGet c (mapSet b m k v) l = mapGet c m l := by
  unfold mapSet
  split
  · exact mapGet_erase_ne c h hkl
  · exact mapGet_insert_ne m c v hkl

/-- Writing the value an unlisted key reads as unlists the key. -/
theorem mapSet_default {m : SMap α} (k : Nat) : mapSet (d k) m k (d k) = mapErase m k := by simp [mapSet]
end

end Sys2Proof.Machine
end

