-- ==== Sys2Proof/Laws/Registers.lean ====
section
/-! SUPPORT. Registers and their fields: reads after writes, and the canonical form of the register map. -/

namespace Sys2Proof.Machine

/-- The register map is in its canonical form. -/
abbrev RegsWf (s : State) : Prop := Registers.wf s = true

theorem regsWf_out {s : State} (h : RegsWf s) : mapWf regDefault s.regs = true := h

theorem regsWf_wrW {s : State} (b : Blk) (i o : Nat) (w : Word) (h : RegsWf s) : RegsWf (wrW b i o w s) :=
  mapWf_set (d := regDefault) _ _ h

theorem regsWf_wr {s : State} (f : Fld) (i v : Nat) (h : RegsWf s) : RegsWf (wr f i v s) := regsWf_wrW _ _ _ _ h

/-- The word written reads back. -/
@[simp] theorem rdW_wrW_same (s : State) (b : Blk) (i o : Nat) (w : Word) : rdW (wrW b i o w s) b i o = w := mapGet_set_same _ _ _ _

/-- A register under another key keeps its word. -/
theorem rdW_wrW_ne {s : State} {b b' : Blk} {i i' o o' : Nat} (w : Word) (h : RegsWf s) (hk : regKey b i o ≠ regKey b' i' o') :
    rdW (wrW b i o w s) b' i' o' = rdW s b' i' o' :=
  mapGet_set_ne (d := regDefault) _ _ _ h hk

/-- A field reads as what was written to it. -/
theorem rd_wr_same {s : State} (f : Fld) (i v : Nat) (h1 : f.lo ≤ f.hi) (h2 : f.hi < 64) :
    rd (wr f i v s) f i = v % 2 ^ (f.hi + 1 - f.lo) := by
  unfold rd wr
  rw [rdW_wrW_same, fieldGet_put_same _ _ _ _ h1 h2]

/-- A field of a register under another key keeps its value. -/
theorem rd_wr_ne {s : State} {f g : Fld} {i j : Nat} (v : Nat) (h : RegsWf s)
    (hk : regKey f.blk i f.off ≠ regKey g.blk j g.off) : rd (wr f i v s) g j = rd s g j := by
  unfold rd wr
  rw [rdW_wrW_ne _ h hk]

/-- Another field of the register written keeps its value. -/
theorem rd_wr_apart {s : State} {f g : Fld} {i : Nat} (v : Nat) (hb : g.blk = f.blk) (ho : g.off = f.off)
    (h1 : f.lo ≤ f.hi) (h2 : f.hi < 64) (ha : f.hi < g.lo ∨ g.hi < f.lo) : rd (wr f i v s) g i = rd s g i := by
  unfold rd wr
  rw [hb, ho, rdW_wrW_same]
  rcases ha with ha | ha
  · exact fieldGet_put_above _ _ _ _ _ _ h1 h2 ha
  · exact fieldGet_put_below _ _ _ _ _ _ h1 h2 ha

theorem rd_lt (s : State) (f : Fld) (i : Nat) : rd s f i < 2 ^ (f.hi + 1 - f.lo) := fieldGet_lt _ _ _

/-- A count that has room grows by one. -/
theorem rd_bump {s : State} (f : Fld) (i : Nat) (h1 : f.lo ≤ f.hi) (h2 : f.hi < 64) :
    rd (bump f i s) f i = Nat.min (rd s f i + 1) (fldMax f) := by
  unfold bump addSat
  rw [rd_wr_same f i _ h1 h2, Nat.mod_eq_of_lt]
  have : fldMax f < 2 ^ (f.hi + 1 - f.lo) := by unfold fldMax; have := Nat.one_le_two_pow (n := f.hi + 1 - f.lo); omega
  exact lt_of_le_of_lt (Nat.min_le_right _ _) this

end Sys2Proof.Machine
end

