-- ==== Sys2Proof/Laws/Keeps.lean ====
section
/-! SUPPORT. What every operation of the machine keeps: the queue, the course of time, the canonical form of the register map
and of external memory, and the bounds of the calendar and of the Flockbook's staging ring. -/

namespace Sys2Proof.Machine

/-- External memory is in its canonical form. -/
abbrev MemWf (s : State) : Prop := Memory.wf s = true

/-- The owner digest, once set, stays; the fused security version never falls (R733, R735). -/
structure FusesKept (m n : Mgmt) : Prop where
  owner : m.owner ≠ [] → n.owner = m.owner
  svn : m.fusedSvn ≤ n.fusedSvn

theorem FusesKept.refl (m : Mgmt) : FusesKept m m := ⟨fun _ => rfl, le_rfl⟩

theorem FusesKept.trans {a b c : Mgmt} (h : FusesKept a b) (k : FusesKept b c) : FusesKept a c :=
  ⟨fun x => (k.owner (by rw [h.owner x]; exact x)).trans (h.owner x), h.svn.trans k.svn⟩

/-- What holds from state s to a later state t, whatever the command. -/
structure Keeps (s t : State) : Prop where
  queue : t.pending = s.pending
  time : s.now ≤ t.now
  draws : s.freeCtr ≤ t.freeCtr
  regs : RegsWf s → RegsWf t
  mem : MemWf s → MemWf t
  cal : s.bell.cal.length ≤ 256 → t.bell.cal.length ≤ 256
  staging : s.fbk.staging.length ≤ 64 → t.fbk.staging.length ≤ 64
  fuses : FusesKept s.mgmt t.mgmt

theorem Keeps.refl (s : State) : Keeps s s := ⟨rfl, le_rfl, le_rfl, id, id, id, id, .refl _⟩

theorem Keeps.trans {r s t : State} (h : Keeps r s) (k : Keeps s t) : Keeps r t :=
  ⟨k.queue.trans h.queue, h.time.trans k.time, h.draws.trans k.draws, fun x => k.regs (h.regs x), fun x => k.mem (h.mem x),
   fun x => k.cal (h.cal x), fun x => k.staging (h.staging x),
   h.fuses.trans k.fuses⟩

/-- An update of other fields. -/
theorem keeps_mk {s t : State} {abellPend : SMap Word} {arearmPend : SMap Word} {afixedDone : SMap Bool} {aoutbox : List Out} {abellLock :
    Bool} {aaliveOut : Bool} {apdks : SMap Pdk} {avfEnable : Bool} {anumVfs : Nat} {afns : SMap HostFn} {apfEvents : List (List Nat)}
    {apfLost : Nat} {acores : SMap Core} {ameshes : SMap MeshP} {alinks : SMap (List (Nat × Flit))} {asp : SMap Nat} {aspEpoch : SMap Nat}
    {aimem : SMap Nat} {arslot : SMap Nat} {atile : SMap Nat} {aacc : SMap Nat} {ashadow : SMap Nat} {adesc : SMap Nat} {aframeChk : SMap
    Nat} {aht : SMap Nat} {awlkDue : List (Nat × Nat)} {awalkers : SMap Walker} {awlkDone : Nat} {amcores : SMap MCore} {amslice : SMap
    Nat} {amblast : SMap Nat} {arepairs : List Repair} {actxs : SMap Ctx} {aleaCyc : Nat} {afab : List Xact} {atlyQ : List TPkt}
    {atlyWaits : List TWait} {awhsQ : List WMsg} {asends : SMap (List WSend)} {arqs : SMap (List (List Nat))} {aspills : SMap (List
    WSpill)} {aopens : SMap (List WMsg)} {alandings : SMap Nat} {aconnLt : SMap Nat} {asidNext : Nat} {altkQ : List LPkt} {altkPaths :
    SMap LPath} {altkRoutes : SMap LRoute} {altkPause : SMap Nat} {aptpGood : Nat} {aheld : List Hold} {ahostEnts : List HEnt} {ahrings :
    SMap HRing} {ahostNext : Nat} {aaer : SMap Nat} {atcache : SMap Nat} {afabCyc : Nat} {aused : SMap Nat} {aslotAt : SMap Nat} {acapNext
    : SMap Nat} {aats : List AtsEnt} {apageReqs : List PageReq} {aprgNext : Nat} {aatsInv : List Nat} {aatsEn : Bool} {apriEn : Bool}
    {apriAlloc : Nat} {awinShare : SMap Nat} {asinks : SMap Sink} {ascrubAt : SMap Nat} {alines : SMap Nat} {apools : SMap PoolS} {abyrQ :
    List ByrReq} {abyrCmd : SMap Nat} {atlyShadow : SMap Nat} {aconnShadow : SMap Nat} {awatches : SMap Watch} {afolds : SMap FoldJ}
    {akeys : List KeySlot} {aration : Ration} {apmTry : SMap Nat} {apwr : Pwr} {acfg : SMap Nat} {atap : Tap} {abellLate : SMap Word} {aspMark : SMap SpMark} {aadmSeq : Nat} {aformAt : SMap Nat} {aaccWaits : List AccW} {awhsLands : List WLand} {aopenAt : SMap Nat} {amwins : SMap Nat} (h : Keeps s
    t) : Keeps s (State.mk t.now t.freeCtr t.regs abellPend arearmPend afixedDone aoutbox abellLock aaliveOut t.bell apdks avfEnable
    anumVfs afns apfEvents apfLost t.fbk acores ameshes alinks asp aspEpoch aimem arslot atile aacc ashadow adesc aframeChk aht awlkDue
    awalkers awlkDone amcores amslice amblast arepairs actxs aleaCyc afab atlyQ atlyWaits awhsQ asends arqs aspills aopens alandings
    aconnLt asidNext altkQ altkPaths altkRoutes altkPause aptpGood aheld ahostEnts ahrings ahostNext aaer atcache afabCyc aused aslotAt
    acapNext aats apageReqs aprgNext aatsInv aatsEn apriEn apriAlloc awinShare asinks ascrubAt t.mem t.memEpoch alines apools abyrQ
    abyrCmd atlyShadow aconnShadow awatches afolds akeys aration apmTry t.pldmQ t.mgmt apwr acfg atap abellLate aspMark aadmSeq aformAt aaccWaits awhsLands aopenAt amwins t.pending) :=
  ⟨h.queue, h.time, h.draws, h.regs, h.mem, h.cal, h.staging, h.fuses⟩

/-- An update of the timebase that lets the calendar grow no longer than its bound. -/
theorem keeps_mk_bell {s t : State} {abellPend : SMap Word} {arearmPend : SMap Word} {afixedDone : SMap Bool} {aoutbox : List Out}
    {abellLock : Bool} {aaliveOut     : Bool} {abell : Bell} {apdks : SMap Pdk} {avfEnable : Bool} {anumVfs : Nat} {afns : SMap HostFn}
    {apfEvents : List (List Nat)}     {apfLost : Nat} {acores : SMap Core} {ameshes : SMap MeshP} {alinks : SMap (List (Nat × Flit))} {asp
    : SMap Nat} {aspEpoch : SMap Nat}     {aimem : SMap Nat} {arslot : SMap Nat} {atile : SMap Nat} {aacc : SMap Nat} {ashadow : SMap Nat}
    {adesc : SMap Nat} {aframeChk : SMap     Nat} {aht : SMap Nat} {awlkDue : List (Nat × Nat)} {awalkers : SMap Walker} {awlkDone : Nat}
    {amcores : SMap MCore} {amslice : SMap     Nat} {amblast : SMap Nat} {arepairs : List Repair} {actxs : SMap Ctx} {aleaCyc : Nat} {afab
    : List Xact} {atlyQ : List TPkt}     {atlyWaits : List TWait} {awhsQ : List WMsg} {asends : SMap (List WSend)} {arqs : SMap (List
    (List Nat))} {aspills : SMap (List     WSpill)} {aopens : SMap (List WMsg)} {alandings : SMap Nat} {aconnLt : SMap Nat} {asidNext :
    Nat} {altkQ : List LPkt} {altkPaths :     SMap LPath} {altkRoutes : SMap LRoute} {altkPause : SMap Nat} {aptpGood : Nat} {aheld : List
    Hold} {ahostEnts : List HEnt} {ahrings :     SMap HRing} {ahostNext : Nat} {aaer : SMap Nat} {atcache : SMap Nat} {afabCyc : Nat}
    {aused : SMap Nat} {aslotAt : SMap Nat} {acapNext     : SMap Nat} {aats : List AtsEnt} {apageReqs : List PageReq} {aprgNext : Nat}
    {aatsInv : List Nat} {aatsEn : Bool} {apriEn : Bool}     {apriAlloc : Nat} {awinShare : SMap Nat} {asinks : SMap Sink} {ascrubAt :
    SMap Nat} {alines : SMap Nat} {apools : SMap PoolS} {abyrQ :     List ByrReq} {abyrCmd : SMap Nat} {atlyShadow : SMap Nat}
    {aconnShadow : SMap Nat} {awatches : SMap Watch} {afolds : SMap FoldJ}     {akeys : List KeySlot} {aration : Ration} {apmTry : SMap
    Nat} {apwr : Pwr} {acfg : SMap Nat} {atap : Tap} {abellLate : SMap Word} {aspMark : SMap SpMark} {aadmSeq : Nat} {aformAt : SMap Nat} {aaccWaits : List AccW} {awhsLands : List WLand} {aopenAt : SMap Nat} {amwins : SMap Nat} (hb :     t.bell.cal.length ≤ 256 → abell.cal.length ≤ 256) (h : Keeps
    s t) : Keeps s (State.mk t.now t.freeCtr t.regs abellPend arearmPend     afixedDone aoutbox abellLock aaliveOut abell apdks avfEnable
    anumVfs afns apfEvents apfLost t.fbk acores ameshes alinks asp aspEpoch     aimem arslot atile aacc ashadow adesc aframeChk aht
    awlkDue awalkers awlkDone amcores amslice amblast arepairs actxs aleaCyc afab     atlyQ atlyWaits awhsQ asends arqs aspills aopens
    alandings aconnLt asidNext altkQ altkPaths altkRoutes altkPause aptpGood aheld     ahostEnts ahrings ahostNext aaer atcache afabCyc
    aused aslotAt acapNext aats apageReqs aprgNext aatsInv aatsEn apriEn apriAlloc     awinShare asinks ascrubAt t.mem t.memEpoch alines
    apools abyrQ abyrCmd atlyShadow aconnShadow awatches afolds akeys aration apmTry     t.pldmQ t.mgmt apwr acfg atap abellLate aspMark aadmSeq aformAt aaccWaits awhsLands aopenAt amwins t.pending) :=
  ⟨h.queue, h.time, h.draws, h.regs, h.mem, fun x => hb (h.cal x), h.staging, h.fuses⟩

/-- An update of the Flockbook that keeps the bound of the staging ring. -/
theorem keeps_mk_fbk {s t : State} {abellPend : SMap Word} {arearmPend : SMap Word} {afixedDone : SMap Bool} {aoutbox : List Out}
    {abellLock : Bool} {aaliveOut     : Bool} {apdks : SMap Pdk} {avfEnable : Bool} {anumVfs : Nat} {afns : SMap HostFn} {apfEvents : List
    (List Nat)} {apfLost : Nat} {afbk     : Fbk} {acores : SMap Core} {ameshes : SMap MeshP} {alinks : SMap (List (Nat × Flit))} {asp :
    SMap Nat} {aspEpoch : SMap Nat} {aimem :     SMap Nat} {arslot : SMap Nat} {atile : SMap Nat} {aacc : SMap Nat} {ashadow : SMap Nat}
    {adesc : SMap Nat} {aframeChk : SMap Nat} {aht     : SMap Nat} {awlkDue : List (Nat × Nat)} {awalkers : SMap Walker} {awlkDone : Nat}
    {amcores : SMap MCore} {amslice : SMap Nat}     {amblast : SMap Nat} {arepairs : List Repair} {actxs : SMap Ctx} {aleaCyc : Nat} {afab
    : List Xact} {atlyQ : List TPkt} {atlyWaits :     List TWait} {awhsQ : List WMsg} {asends : SMap (List WSend)} {arqs : SMap (List
    (List Nat))} {aspills : SMap (List WSpill)} {aopens :     SMap (List WMsg)} {alandings : SMap Nat} {aconnLt : SMap Nat} {asidNext :
    Nat} {altkQ : List LPkt} {altkPaths : SMap LPath}     {altkRoutes : SMap LRoute} {altkPause : SMap Nat} {aptpGood : Nat} {aheld : List
    Hold} {ahostEnts : List HEnt} {ahrings : SMap HRing}     {ahostNext : Nat} {aaer : SMap Nat} {atcache : SMap Nat} {afabCyc : Nat}
    {aused : SMap Nat} {aslotAt : SMap Nat} {acapNext : SMap Nat}     {aats : List AtsEnt} {apageReqs : List PageReq} {aprgNext : Nat}
    {aatsInv : List Nat} {aatsEn : Bool} {apriEn : Bool} {apriAlloc :     Nat} {awinShare : SMap Nat} {asinks : SMap Sink} {ascrubAt :
    SMap Nat} {alines : SMap Nat} {apools : SMap PoolS} {abyrQ : List ByrReq}     {abyrCmd : SMap Nat} {atlyShadow : SMap Nat}
    {aconnShadow : SMap Nat} {awatches : SMap Watch} {afolds : SMap FoldJ} {akeys : List     KeySlot} {aration : Ration} {apmTry : SMap
    Nat} {apwr : Pwr} {acfg : SMap Nat} {atap : Tap} {abellLate : SMap Word} {aspMark : SMap SpMark} {aadmSeq : Nat} {aformAt : SMap Nat} {aaccWaits : List AccW} {awhsLands : List WLand} {aopenAt : SMap Nat} {amwins : SMap Nat} (hb : t.fbk.staging.length     ≤ 64 → afbk.staging.length ≤ 64) (h :
    Keeps s t) : Keeps s (State.mk t.now t.freeCtr t.regs abellPend arearmPend afixedDone aoutbox     abellLock aaliveOut t.bell apdks
    avfEnable anumVfs afns apfEvents apfLost afbk acores ameshes alinks asp aspEpoch aimem arslot atile     aacc ashadow adesc aframeChk
    aht awlkDue awalkers awlkDone amcores amslice amblast arepairs actxs aleaCyc afab atlyQ atlyWaits awhsQ     asends arqs aspills aopens
    alandings aconnLt asidNext altkQ altkPaths altkRoutes altkPause aptpGood aheld ahostEnts ahrings ahostNext     aaer atcache afabCyc
    aused aslotAt acapNext aats apageReqs aprgNext aatsInv aatsEn apriEn apriAlloc awinShare asinks ascrubAt t.mem     t.memEpoch alines
    apools abyrQ abyrCmd atlyShadow aconnShadow awatches afolds akeys aration apmTry t.pldmQ t.mgmt apwr acfg atap abellLate aspMark aadmSeq aformAt aaccWaits awhsLands aopenAt amwins     t.pending) :=
  ⟨h.queue, h.time, h.draws, h.regs, h.mem, h.cal, fun x => hb (h.staging x), h.fuses⟩

/-- An update of the held PLDM events. -/
theorem keeps_mk_pldm {s t : State} {abellPend : SMap Word} {arearmPend : SMap Word} {afixedDone : SMap Bool} {aoutbox : List Out}
    {abellLock : Bool} {aaliveOut     : Bool} {apdks : SMap Pdk} {avfEnable : Bool} {anumVfs : Nat} {afns : SMap HostFn} {apfEvents : List
    (List Nat)} {apfLost : Nat}     {acores : SMap Core} {ameshes : SMap MeshP} {alinks : SMap (List (Nat × Flit))} {asp : SMap Nat}
    {aspEpoch : SMap Nat} {aimem : SMap     Nat} {arslot : SMap Nat} {atile : SMap Nat} {aacc : SMap Nat} {ashadow : SMap Nat} {adesc :
    SMap Nat} {aframeChk : SMap Nat} {aht :     SMap Nat} {awlkDue : List (Nat × Nat)} {awalkers : SMap Walker} {awlkDone : Nat} {amcores
    : SMap MCore} {amslice : SMap Nat} {amblast     : SMap Nat} {arepairs : List Repair} {actxs : SMap Ctx} {aleaCyc : Nat} {afab : List
    Xact} {atlyQ : List TPkt} {atlyWaits : List     TWait} {awhsQ : List WMsg} {asends : SMap (List WSend)} {arqs : SMap (List (List
    Nat))} {aspills : SMap (List WSpill)} {aopens : SMap     (List WMsg)} {alandings : SMap Nat} {aconnLt : SMap Nat} {asidNext : Nat}
    {altkQ : List LPkt} {altkPaths : SMap LPath} {altkRoutes :     SMap LRoute} {altkPause : SMap Nat} {aptpGood : Nat} {aheld : List
    Hold} {ahostEnts : List HEnt} {ahrings : SMap HRing} {ahostNext :     Nat} {aaer : SMap Nat} {atcache : SMap Nat} {afabCyc : Nat}
    {aused : SMap Nat} {aslotAt : SMap Nat} {acapNext : SMap Nat} {aats : List     AtsEnt} {apageReqs : List PageReq} {aprgNext : Nat}
    {aatsInv : List Nat} {aatsEn : Bool} {apriEn : Bool} {apriAlloc : Nat} {awinShare     : SMap Nat} {asinks : SMap Sink} {ascrubAt :
    SMap Nat} {alines : SMap Nat} {apools : SMap PoolS} {abyrQ : List ByrReq} {abyrCmd : SMap     Nat} {atlyShadow : SMap Nat}
    {aconnShadow : SMap Nat} {awatches : SMap Watch} {afolds : SMap FoldJ} {akeys : List KeySlot} {aration :     Ration} {apmTry : SMap
    Nat} {apldmQ : List PldmEv} {apwr : Pwr} {acfg : SMap Nat} {atap : Tap} {abellLate : SMap Word} {aspMark : SMap SpMark} {aadmSeq : Nat} {aformAt : SMap Nat} {aaccWaits : List AccW} {awhsLands : List WLand} {aopenAt : SMap Nat} {amwins : SMap Nat}  (h : Keeps s t) : Keeps     s (State.mk t.now
    t.freeCtr t.regs abellPend arearmPend afixedDone aoutbox abellLock aaliveOut t.bell apdks avfEnable anumVfs afns     apfEvents apfLost
    t.fbk acores ameshes alinks asp aspEpoch aimem arslot atile aacc ashadow adesc aframeChk aht awlkDue awalkers     awlkDone amcores
    amslice amblast arepairs actxs aleaCyc afab atlyQ atlyWaits awhsQ asends arqs aspills aopens alandings aconnLt     asidNext altkQ
    altkPaths altkRoutes altkPause aptpGood aheld ahostEnts ahrings ahostNext aaer atcache afabCyc aused aslotAt acapNext     aats
    apageReqs aprgNext aatsInv aatsEn apriEn apriAlloc awinShare asinks ascrubAt t.mem t.memEpoch alines apools abyrQ abyrCmd
    atlyShadow aconnShadow awatches afolds akeys aration apmTry apldmQ t.mgmt apwr acfg atap abellLate aspMark aadmSeq aformAt aaccWaits awhsLands aopenAt amwins t.pending) :=
  ⟨h.queue, h.time, h.draws, h.regs, h.mem, h.cal, h.staging, h.fuses⟩

/-- An update of the management's own state that keeps what is fused. -/
theorem keeps_mgmt {s t : State} {m : Mgmt} (hm : FusesKept t.mgmt m) (h : Keeps s t) : Keeps s { t with mgmt := m } :=
  ⟨h.queue, h.time, h.draws, h.regs, h.mem, h.cal, h.staging, h.fuses.trans hm⟩

/-- An update of the register map that keeps its canonical form. -/
theorem keeps_mk_regs {s t : State} {aregs : SMap Word} {abellPend : SMap Word} {arearmPend : SMap Word} {afixedDone : SMap Bool} {aoutbox
    : List Out}     {abellLock : Bool} {aaliveOut : Bool} {apdks : SMap Pdk} {avfEnable : Bool} {anumVfs : Nat} {afns : SMap HostFn}
    {apfEvents : List     (List Nat)} {apfLost : Nat} {acores : SMap Core} {ameshes : SMap MeshP} {alinks : SMap (List (Nat × Flit))} {asp
    : SMap Nat} {aspEpoch     : SMap Nat} {aimem : SMap Nat} {arslot : SMap Nat} {atile : SMap Nat} {aacc : SMap Nat} {ashadow : SMap Nat}
    {adesc : SMap Nat}     {aframeChk : SMap Nat} {aht : SMap Nat} {awlkDue : List (Nat × Nat)} {awalkers : SMap Walker} {awlkDone : Nat}
    {amcores : SMap MCore}     {amslice : SMap Nat} {amblast : SMap Nat} {arepairs : List Repair} {actxs : SMap Ctx} {aleaCyc : Nat} {afab
    : List Xact} {atlyQ : List     TPkt} {atlyWaits : List TWait} {awhsQ : List WMsg} {asends : SMap (List WSend)} {arqs : SMap (List
    (List Nat))} {aspills : SMap (List     WSpill)} {aopens : SMap (List WMsg)} {alandings : SMap Nat} {aconnLt : SMap Nat} {asidNext :
    Nat} {altkQ : List LPkt} {altkPaths :     SMap LPath} {altkRoutes : SMap LRoute} {altkPause : SMap Nat} {aptpGood : Nat} {aheld : List
    Hold} {ahostEnts : List HEnt} {ahrings :     SMap HRing} {ahostNext : Nat} {aaer : SMap Nat} {atcache : SMap Nat} {afabCyc : Nat}
    {aused : SMap Nat} {aslotAt : SMap Nat} {acapNext     : SMap Nat} {aats : List AtsEnt} {apageReqs : List PageReq} {aprgNext : Nat}
    {aatsInv : List Nat} {aatsEn : Bool} {apriEn : Bool}     {apriAlloc : Nat} {awinShare : SMap Nat} {asinks : SMap Sink} {ascrubAt :
    SMap Nat} {alines : SMap Nat} {apools : SMap PoolS} {abyrQ :     List ByrReq} {abyrCmd : SMap Nat} {atlyShadow : SMap Nat}
    {aconnShadow : SMap Nat} {awatches : SMap Watch} {afolds : SMap FoldJ}     {akeys : List KeySlot} {aration : Ration} {apmTry : SMap
    Nat} {apwr : Pwr} {acfg : SMap Nat} {atap : Tap} {abellLate : SMap Word} {aspMark : SMap SpMark} {aadmSeq : Nat} {aformAt : SMap Nat} {aaccWaits : List AccW} {awhsLands : List WLand} {aopenAt : SMap Nat} {amwins : SMap Nat} (hb : RegsWf     t → mapWf regDefault aregs = true) (h : Keeps s t) :
    Keeps s (State.mk t.now t.freeCtr aregs abellPend arearmPend afixedDone aoutbox     abellLock aaliveOut t.bell apdks avfEnable anumVfs
    afns apfEvents apfLost t.fbk acores ameshes alinks asp aspEpoch aimem arslot atile     aacc ashadow adesc aframeChk aht awlkDue
    awalkers awlkDone amcores amslice amblast arepairs actxs aleaCyc afab atlyQ atlyWaits awhsQ     asends arqs aspills aopens alandings
    aconnLt asidNext altkQ altkPaths altkRoutes altkPause aptpGood aheld ahostEnts ahrings ahostNext     aaer atcache afabCyc aused
    aslotAt acapNext aats apageReqs aprgNext aatsInv aatsEn apriEn apriAlloc awinShare asinks ascrubAt t.mem     t.memEpoch alines apools
    abyrQ abyrCmd atlyShadow aconnShadow awatches afolds akeys aration apmTry t.pldmQ t.mgmt apwr acfg atap abellLate aspMark aadmSeq aformAt aaccWaits awhsLands aopenAt amwins     t.pending) :=
  ⟨h.queue, h.time, h.draws, fun x => hb (h.regs x), h.mem, h.cal, h.staging, h.fuses⟩

/-- An update of other fields changes nothing that is kept. -/
theorem keeps_mk_iff {s t : State} {abellPend : SMap Word} {arearmPend : SMap Word} {afixedDone : SMap Bool} {aoutbox : List Out}
    {abellLock : Bool} {aaliveOut : Bool} {apdks : SMap Pdk} {avfEnable : Bool} {anumVfs : Nat} {afns : SMap HostFn} {apfEvents : List
    (List Nat)} {apfLost : Nat} {acores : SMap Core} {ameshes : SMap MeshP} {alinks : SMap (List (Nat × Flit))} {asp : SMap Nat} {aspEpoch
    : SMap Nat} {aimem : SMap Nat} {arslot : SMap Nat} {atile : SMap Nat} {aacc : SMap Nat} {ashadow : SMap Nat} {adesc : SMap Nat}
    {aframeChk : SMap Nat} {aht : SMap Nat} {awlkDue : List (Nat × Nat)} {awalkers : SMap Walker} {awlkDone : Nat} {amcores : SMap MCore}
    {amslice : SMap Nat} {amblast : SMap Nat} {arepairs : List Repair} {actxs : SMap Ctx} {aleaCyc : Nat} {afab : List Xact} {atlyQ : List
    TPkt} {atlyWaits : List TWait} {awhsQ : List WMsg} {asends : SMap (List WSend)} {arqs : SMap (List (List Nat))} {aspills : SMap (List
    WSpill)} {aopens : SMap (List WMsg)} {alandings : SMap Nat} {aconnLt : SMap Nat} {asidNext : Nat} {altkQ : List LPkt} {altkPaths :
    SMap LPath} {altkRoutes : SMap LRoute} {altkPause : SMap Nat} {aptpGood : Nat} {aheld : List Hold} {ahostEnts : List HEnt} {ahrings :
    SMap HRing} {ahostNext : Nat} {aaer : SMap Nat} {atcache : SMap Nat} {afabCyc : Nat} {aused : SMap Nat} {aslotAt : SMap Nat} {acapNext
    : SMap Nat} {aats : List AtsEnt} {apageReqs : List PageReq} {aprgNext : Nat} {aatsInv : List Nat} {aatsEn : Bool} {apriEn : Bool}
    {apriAlloc : Nat} {awinShare : SMap Nat} {asinks : SMap Sink} {ascrubAt : SMap Nat} {alines : SMap Nat} {apools : SMap PoolS} {abyrQ :
    List ByrReq} {abyrCmd : SMap Nat} {atlyShadow : SMap Nat} {aconnShadow : SMap Nat} {awatches : SMap Watch} {afolds : SMap FoldJ}
    {akeys : List KeySlot} {aration : Ration} {apmTry : SMap Nat} {apwr : Pwr} {acfg : SMap Nat} {atap : Tap} {abellLate : SMap Word} {aspMark : SMap SpMark} {aadmSeq : Nat} {aformAt : SMap Nat} {aaccWaits : List AccW} {awhsLands : List WLand} {aopenAt : SMap Nat} {amwins : SMap Nat}  : Keeps s
    (State.mk t.now t.freeCtr t.regs abellPend arearmPend afixedDone aoutbox abellLock aaliveOut t.bell apdks avfEnable anumVfs afns
    apfEvents apfLost t.fbk acores ameshes alinks asp aspEpoch aimem arslot atile aacc ashadow adesc aframeChk aht awlkDue awalkers
    awlkDone amcores amslice amblast arepairs actxs aleaCyc afab atlyQ atlyWaits awhsQ asends arqs aspills aopens alandings aconnLt
    asidNext altkQ altkPaths altkRoutes altkPause aptpGood aheld ahostEnts ahrings ahostNext aaer atcache afabCyc aused aslotAt acapNext
    aats apageReqs aprgNext aatsInv aatsEn apriEn apriAlloc awinShare asinks ascrubAt t.mem t.memEpoch alines apools abyrQ abyrCmd
    atlyShadow aconnShadow awatches afolds akeys aration apmTry t.pldmQ t.mgmt apwr acfg atap abellLate aspMark aadmSeq aformAt aaccWaits awhsLands aopenAt amwins t.pending) ↔ Keeps s t :=
  ⟨fun h => ⟨h.queue, h.time, h.draws, h.regs, h.mem, h.cal, h.staging, h.fuses⟩, fun h => ⟨h.queue, h.time, h.draws, h.regs, h.mem, h.cal, h.staging, h.fuses⟩⟩

/-- An update of the timebase that leaves the calendar alone. -/
theorem keeps_mk_bell_iff {s t : State} {abellPend : SMap Word} {arearmPend : SMap Word} {afixedDone : SMap Bool} {aoutbox : List Out}
    {abellLock : Bool} {aaliveOut : Bool} {apdks : SMap Pdk} {avfEnable : Bool} {anumVfs : Nat} {afns : SMap HostFn} {apfEvents : List
    (List Nat)} {apfLost : Nat} {acores : SMap Core} {ameshes : SMap MeshP} {alinks : SMap (List (Nat × Flit))} {asp : SMap Nat} {aspEpoch
    : SMap Nat} {aimem : SMap Nat} {arslot : SMap Nat} {atile : SMap Nat} {aacc : SMap Nat} {ashadow : SMap Nat} {adesc : SMap Nat}
    {aframeChk : SMap Nat} {aht : SMap Nat} {awlkDue : List (Nat × Nat)} {awalkers : SMap Walker} {awlkDone : Nat} {amcores : SMap MCore}
    {amslice : SMap Nat} {amblast : SMap Nat} {arepairs : List Repair} {actxs : SMap Ctx} {aleaCyc : Nat} {afab : List Xact} {atlyQ : List
    TPkt} {atlyWaits : List TWait} {awhsQ : List WMsg} {asends : SMap (List WSend)} {arqs : SMap (List (List Nat))} {aspills : SMap (List
    WSpill)} {aopens : SMap (List WMsg)} {alandings : SMap Nat} {aconnLt : SMap Nat} {asidNext : Nat} {altkQ : List LPkt} {altkPaths :
    SMap LPath} {altkRoutes : SMap LRoute} {altkPause : SMap Nat} {aptpGood : Nat} {aheld : List Hold} {ahostEnts : List HEnt} {ahrings :
    SMap HRing} {ahostNext : Nat} {aaer : SMap Nat} {atcache : SMap Nat} {afabCyc : Nat} {aused : SMap Nat} {aslotAt : SMap Nat} {acapNext
    : SMap Nat} {aats : List AtsEnt} {apageReqs : List PageReq} {aprgNext : Nat} {aatsInv : List Nat} {aatsEn : Bool} {apriEn : Bool}
    {apriAlloc : Nat} {awinShare : SMap Nat} {asinks : SMap Sink} {ascrubAt : SMap Nat} {alines : SMap Nat} {apools : SMap PoolS} {abyrQ :
    List ByrReq} {abyrCmd : SMap Nat} {atlyShadow : SMap Nat} {aconnShadow : SMap Nat} {awatches : SMap Watch} {afolds : SMap FoldJ}
    {akeys : List KeySlot} {aration : Ration} {apmTry : SMap Nat} {apwr : Pwr} {acfg : SMap Nat} {atap : Tap} {abellLate : SMap Word} {aspMark : SMap SpMark} {aadmSeq : Nat} {aformAt : SMap Nat} {aaccWaits : List AccW} {awhsLands : List WLand} {aopenAt : SMap Nat} {amwins : SMap Nat} {blastTick :
    Option Nat} {baccepted : Option Nat} {bintervals : List Nat} {bqualified : Bool} {boldPeriod : Nat} {boldTicks : Nat} {bdue : List
    Nat} {bphasesRun : Nat} {btickLen : Nat} {bopenAt : Nat} {btoRecord : List (Nat × Nat)} {bcalHeld : List CalEv} : Keeps s (State.mk
    t.now t.freeCtr t.regs abellPend arearmPend afixedDone aoutbox abellLock aaliveOut (Bell.mk blastTick baccepted bintervals bqualified
    boldPeriod boldTicks bdue bphasesRun btickLen bopenAt btoRecord t.bell.cal bcalHeld) apdks avfEnable anumVfs afns apfEvents apfLost
    t.fbk acores ameshes alinks asp aspEpoch aimem arslot atile aacc ashadow adesc aframeChk aht awlkDue awalkers awlkDone amcores amslice
    amblast arepairs actxs aleaCyc afab atlyQ atlyWaits awhsQ asends arqs aspills aopens alandings aconnLt asidNext altkQ altkPaths
    altkRoutes altkPause aptpGood aheld ahostEnts ahrings ahostNext aaer atcache afabCyc aused aslotAt acapNext aats apageReqs aprgNext
    aatsInv aatsEn apriEn apriAlloc awinShare asinks ascrubAt t.mem t.memEpoch alines apools abyrQ abyrCmd atlyShadow aconnShadow awatches
    afolds akeys aration apmTry t.pldmQ t.mgmt apwr acfg atap abellLate aspMark aadmSeq aformAt aaccWaits awhsLands aopenAt amwins t.pending) ↔ Keeps s t :=
  ⟨fun h => ⟨h.queue, h.time, h.draws, h.regs, h.mem, h.cal, h.staging, h.fuses⟩, fun h => ⟨h.queue, h.time, h.draws, h.regs, h.mem, h.cal, h.staging, h.fuses⟩⟩

/-- An update of the Flockbook that leaves the staging ring alone. -/
theorem keeps_mk_fbk_iff {s t : State} {abellPend : SMap Word} {arearmPend : SMap Word} {afixedDone : SMap Bool} {aoutbox : List Out}
    {abellLock : Bool} {aaliveOut : Bool} {apdks : SMap Pdk} {avfEnable : Bool} {anumVfs : Nat} {afns : SMap HostFn} {apfEvents : List
    (List Nat)} {apfLost : Nat} {acores : SMap Core} {ameshes : SMap MeshP} {alinks : SMap (List (Nat × Flit))} {asp : SMap Nat} {aspEpoch
    : SMap Nat} {aimem : SMap Nat} {arslot : SMap Nat} {atile : SMap Nat} {aacc : SMap Nat} {ashadow : SMap Nat} {adesc : SMap Nat}
    {aframeChk : SMap Nat} {aht : SMap Nat} {awlkDue : List (Nat × Nat)} {awalkers : SMap Walker} {awlkDone : Nat} {amcores : SMap MCore}
    {amslice : SMap Nat} {amblast : SMap Nat} {arepairs : List Repair} {actxs : SMap Ctx} {aleaCyc : Nat} {afab : List Xact} {atlyQ : List
    TPkt} {atlyWaits : List TWait} {awhsQ : List WMsg} {asends : SMap (List WSend)} {arqs : SMap (List (List Nat))} {aspills : SMap (List
    WSpill)} {aopens : SMap (List WMsg)} {alandings : SMap Nat} {aconnLt : SMap Nat} {asidNext : Nat} {altkQ : List LPkt} {altkPaths :
    SMap LPath} {altkRoutes : SMap LRoute} {altkPause : SMap Nat} {aptpGood : Nat} {aheld : List Hold} {ahostEnts : List HEnt} {ahrings :
    SMap HRing} {ahostNext : Nat} {aaer : SMap Nat} {atcache : SMap Nat} {afabCyc : Nat} {aused : SMap Nat} {aslotAt : SMap Nat} {acapNext
    : SMap Nat} {aats : List AtsEnt} {apageReqs : List PageReq} {aprgNext : Nat} {aatsInv : List Nat} {aatsEn : Bool} {apriEn : Bool}
    {apriAlloc : Nat} {awinShare : SMap Nat} {asinks : SMap Sink} {ascrubAt : SMap Nat} {alines : SMap Nat} {apools : SMap PoolS} {abyrQ :
    List ByrReq} {abyrCmd : SMap Nat} {atlyShadow : SMap Nat} {aconnShadow : SMap Nat} {awatches : SMap Watch} {afolds : SMap FoldJ}
    {akeys : List KeySlot} {aration : Ration} {apmTry : SMap Nat} {apwr : Pwr} {acfg : SMap Nat} {atap : Tap} {abellLate : SMap Word} {aspMark : SMap SpMark} {aadmSeq : Nat} {aformAt : SMap Nat} {aaccWaits : List AccW} {awhsLands : List WLand} {aopenAt : SMap Nat} {amwins : SMap Nat} {bslots :
    SMap (List Nat)} {burgent : List FbkRec} {bcoal : List (Nat × Nat)} {bcoalFirst : Nat} {bcoalLast : Nat} {bcoalTick : Nat} {bcoalSrc :
    Nat} {bwrite : Option FbkWrite} {bdualDone : Bool} {bfailSlot : SMap Nat} {bsummary : List (Nat × Nat)} {bsumLast : Nat} {bwinOpen :
    Bool} {bsnapVals : List Nat} {bsnapLeft : List Nat} {bsnapAsked : Bool} {blatch : Nat} {brtcSec : Nat} {brtcFrac : Nat} {brtcAt : Nat}
    {brtcRun : Bool} {blifeAt : Nat} {bboot : Nat} {bmuteSeq : Nat} {bacc : SMap Nat} : Keeps s (State.mk t.now t.freeCtr t.regs abellPend
    arearmPend afixedDone aoutbox abellLock aaliveOut t.bell apdks avfEnable anumVfs afns apfEvents apfLost (Fbk.mk bslots t.fbk.staging
    burgent bcoal bcoalFirst bcoalLast bcoalTick bcoalSrc bwrite bdualDone bfailSlot bsummary bsumLast bwinOpen bsnapVals bsnapLeft
    bsnapAsked blatch brtcSec brtcFrac brtcAt brtcRun blifeAt bboot bmuteSeq bacc) acores ameshes alinks asp aspEpoch aimem arslot atile
    aacc ashadow adesc aframeChk aht awlkDue awalkers awlkDone amcores amslice amblast arepairs actxs aleaCyc afab atlyQ atlyWaits awhsQ
    asends arqs aspills aopens alandings aconnLt asidNext altkQ altkPaths altkRoutes altkPause aptpGood aheld ahostEnts ahrings ahostNext
    aaer atcache afabCyc aused aslotAt acapNext aats apageReqs aprgNext aatsInv aatsEn apriEn apriAlloc awinShare asinks ascrubAt t.mem
    t.memEpoch alines apools abyrQ abyrCmd atlyShadow aconnShadow awatches afolds akeys aration apmTry t.pldmQ t.mgmt apwr acfg atap abellLate aspMark aadmSeq aformAt aaccWaits awhsLands aopenAt amwins
    t.pending) ↔ Keeps s t :=
  ⟨fun h => ⟨h.queue, h.time, h.draws, h.regs, h.mem, h.cal, h.staging, h.fuses⟩, fun h => ⟨h.queue, h.time, h.draws, h.regs, h.mem, h.cal, h.staging, h.fuses⟩⟩

/-- An update of the held PLDM events. -/
theorem keeps_mk_pldm_iff {s t : State} {abellPend : SMap Word} {arearmPend : SMap Word} {afixedDone : SMap Bool} {aoutbox : List Out}
    {abellLock : Bool} {aaliveOut : Bool} {apdks : SMap Pdk} {avfEnable : Bool} {anumVfs : Nat} {afns : SMap HostFn} {apfEvents : List
    (List Nat)} {apfLost : Nat} {acores : SMap Core} {ameshes : SMap MeshP} {alinks : SMap (List (Nat × Flit))} {asp : SMap Nat} {aspEpoch
    : SMap Nat} {aimem : SMap Nat} {arslot : SMap Nat} {atile : SMap Nat} {aacc : SMap Nat} {ashadow : SMap Nat} {adesc : SMap Nat}
    {aframeChk : SMap Nat} {aht : SMap Nat} {awlkDue : List (Nat × Nat)} {awalkers : SMap Walker} {awlkDone : Nat} {amcores : SMap MCore}
    {amslice : SMap Nat} {amblast : SMap Nat} {arepairs : List Repair} {actxs : SMap Ctx} {aleaCyc : Nat} {afab : List Xact} {atlyQ : List
    TPkt} {atlyWaits : List TWait} {awhsQ : List WMsg} {asends : SMap (List WSend)} {arqs : SMap (List (List Nat))} {aspills : SMap (List
    WSpill)} {aopens : SMap (List WMsg)} {alandings : SMap Nat} {aconnLt : SMap Nat} {asidNext : Nat} {altkQ : List LPkt} {altkPaths :
    SMap LPath} {altkRoutes : SMap LRoute} {altkPause : SMap Nat} {aptpGood : Nat} {aheld : List Hold} {ahostEnts : List HEnt} {ahrings :
    SMap HRing} {ahostNext : Nat} {aaer : SMap Nat} {atcache : SMap Nat} {afabCyc : Nat} {aused : SMap Nat} {aslotAt : SMap Nat} {acapNext
    : SMap Nat} {aats : List AtsEnt} {apageReqs : List PageReq} {aprgNext : Nat} {aatsInv : List Nat} {aatsEn : Bool} {apriEn : Bool}
    {apriAlloc : Nat} {awinShare : SMap Nat} {asinks : SMap Sink} {ascrubAt : SMap Nat} {alines : SMap Nat} {apools : SMap PoolS} {abyrQ :
    List ByrReq} {abyrCmd : SMap Nat} {atlyShadow : SMap Nat} {aconnShadow : SMap Nat} {awatches : SMap Watch} {afolds : SMap FoldJ}
    {akeys : List KeySlot} {aration : Ration} {apmTry : SMap Nat} {apwr : Pwr} {acfg : SMap Nat} {atap : Tap} {abellLate : SMap Word} {aspMark : SMap SpMark} {aadmSeq : Nat} {aformAt : SMap Nat} {aaccWaits : List AccW} {awhsLands : List WLand} {aopenAt : SMap Nat} {amwins : SMap Nat} {bq : List
    PldmEv} : Keeps s (State.mk t.now t.freeCtr t.regs abellPend arearmPend afixedDone aoutbox abellLock aaliveOut t.bell apdks avfEnable
    anumVfs afns apfEvents apfLost t.fbk acores ameshes alinks asp aspEpoch aimem arslot atile aacc ashadow adesc aframeChk aht awlkDue
    awalkers awlkDone amcores amslice amblast arepairs actxs aleaCyc afab atlyQ atlyWaits awhsQ asends arqs aspills aopens alandings
    aconnLt asidNext altkQ altkPaths altkRoutes altkPause aptpGood aheld ahostEnts ahrings ahostNext aaer atcache afabCyc aused aslotAt
    acapNext aats apageReqs aprgNext aatsInv aatsEn apriEn apriAlloc awinShare asinks ascrubAt t.mem t.memEpoch alines apools abyrQ
    abyrCmd atlyShadow aconnShadow awatches afolds akeys aration apmTry bq t.mgmt apwr acfg atap abellLate aspMark aadmSeq aformAt aaccWaits awhsLands aopenAt amwins t.pending) ↔ Keeps s t :=
  ⟨fun h => ⟨h.queue, h.time, h.draws, h.regs, h.mem, h.cal, h.staging, h.fuses⟩, fun h => ⟨h.queue, h.time, h.draws, h.regs, h.mem, h.cal, h.staging, h.fuses⟩⟩

theorem keeps_ite {s a b : State} {c : Prop} [Decidable c] (ha : c → Keeps s a) (hb : ¬c → Keeps s b) :
    Keeps s (if c then a else b) := by
  split <;> simp_all

theorem keeps_ite_snd {α : Type} {s : State} {a b : α × State} {c : Prop} [Decidable c] (ha : c → Keeps s a.2)
    (hb : ¬c → Keeps s b.2) : Keeps s (if c then a else b).2 := by
  split <;> simp_all

theorem keeps_ite_st {s : State} {a b : SOut} {c : Prop} [Decidable c] (ha : c → Keeps s a.st) (hb : ¬c → Keeps s b.st) :
    Keeps s (if c then a else b).st := by
  split <;> simp_all

theorem keeps_foldl {α : Type} {s t : State} {l : List α} {f : State → α → State} (hf : ∀ u a, Keeps s u → Keeps s (f u a))
    (h : Keeps s t) : Keeps s (l.foldl f t) := by
  induction l generalizing t with
  | nil => exact h
  | cons a l ih => exact ih (hf t a h)

theorem keeps_foldl_snd {α β : Type} {s : State} {p : β × State} {l : List α} {f : β × State → α → β × State}
    (hf : ∀ x a, Keeps s x.2 → Keeps s (f x a).2) (h : Keeps s p.2) : Keeps s (l.foldl f p).2 := by
  induction l generalizing p with
  | nil => exact h
  | cons a l ih => exact ih (hf p a h)

theorem keeps_foldl_fst {α β : Type} {s : State} {p : State × β} {l : List α} {f : State × β → α → State × β}
    (hf : ∀ x a, Keeps s x.1 → Keeps s (f x a).1) (h : Keeps s p.1) : Keeps s (l.foldl f p).1 := by
  induction l generalizing p with
  | nil => exact h
  | cons a l ih => exact ih (hf p a h)

theorem keeps_iter {s t : State} {n : Nat} {f : Nat → State → State} (hf : ∀ k u, Keeps s u → Keeps s (f k u))
    (h : Keeps s t) : Keeps s (iter n f t) := keeps_foldl (fun u k => hf k u) h

/-- What a composition of operations keeps. -/
theorem keeps_comp {s t : State} {f : State → State} (hf : ∀ u, Keeps u (f u)) (h : Keeps s t) : Keeps s (f t) := h.trans (hf t)

/-- Whatever state a meaning answers, it keeps what is kept. -/
def KeepsR (s : State) (r : Result) : Prop := ∀ t, r = .next t → Keeps s t

theorem keepsR_next {s t : State} (h : Keeps s t) : KeepsR s (.next t) := by
  rintro u ⟨rfl⟩
  exact h

theorem keepsR_ite {s : State} {a b : Result} {c : Prop} [Decidable c] (ha : c → KeepsR s a) (hb : ¬c → KeepsR s b) :
    KeepsR s (if c then a else b) := by
  split <;> simp_all

/-! ### The operations that touch what is kept -/

theorem wrW_keeps {s0 s : State} (b : Blk) (inst off : Nat) (w : Word) (h : Keeps s0 s) : Keeps s0 (wrW b inst off w s) :=
  keeps_mk_regs (fun x => regsWf_wrW b inst off w x) h

theorem clearRegs_keeps {s0 s : State} (b : Blk) (inst lo hi : Nat) (h : Keeps s0 s) : Keeps s0 (clearRegs b inst lo hi s) :=
  keeps_mk_regs (fun x => mapWf_clear _ _ x) h

theorem atTime_keeps {s0 s : State} (t : Nat) (h : Keeps s0 s) : Keeps s0 (atTime t s) :=
  ⟨h.queue, le_trans h.time (Nat.le_max_left _ _), h.draws, h.regs, h.mem, h.cal, h.staging, h.fuses⟩

theorem drawFree_keeps {s0 s : State} (h : Keeps s0 s) : Keeps s0 (drawFree s).2 :=
  ⟨h.queue, h.time, Nat.le_succ_of_le h.draws, h.regs, h.mem, h.cal, h.staging, h.fuses⟩

theorem freshBlock_keeps {s0 s : State} (h : Keeps s0 s) : Keeps s0 (freshBlock s).2 :=
  ⟨h.queue, h.time, Nat.le_succ_of_le h.draws, h.regs, h.mem, h.cal, h.staging, h.fuses⟩

theorem memPut_keeps {s0 s : State} (a b : Nat) (h : Keeps s0 s) : Keeps s0 (memPut a b s) :=
  ⟨h.queue, h.time, h.draws, h.regs, fun x => mapWf_set (d := memDefault s) a _ (h.mem x), h.cal, h.staging, h.fuses⟩

theorem calInsert_length (e : CalEv) (l : List CalEv) : (calInsert e l).length = l.length + 1 := by
  induction l with
  | nil => rfl
  | cons x xs ih => unfold calInsert; split <;> simp [ih]

theorem schedule_keeps {s0 s : State} (tick cls tgt : Nat) (h : Keeps s0 s) : Keeps s0 (schedule tick cls tgt s) := by
  unfold schedule
  split
  · exact keeps_mk_bell (fun _ => by simpa [calInsert_length] using Nat.succ_le_of_lt ‹_›) h
  · exact keeps_mk_bell id h

theorem calRefill_keeps {s0 s : State} (n : Nat) (h : Keeps s0 s) : Keeps s0 (calRefill n s) := by
  induction n generalizing s with
  | zero => exact h
  | succ n ih =>
    unfold calRefill
    split
    · exact h
    · split
      · exact ih (keeps_mk_bell (fun _ => by simpa [calInsert_length] using Nat.succ_le_of_lt ‹_›) h)
      · exact h

theorem unschedule_keeps {s0 s : State} (cls tgt : Nat) (h : Keeps s0 s) : Keeps s0 (unschedule cls tgt s) :=
  calRefill_keeps _ (keeps_mk_bell (fun x => le_trans (List.length_filter_le _ _) x) h)

theorem fbkMod_keeps {s0 s : State} {g : Fbk → Fbk} (hg : ∀ b, b.staging.length ≤ 64 → (g b).staging.length ≤ 64) (h : Keeps s0 s) :
    Keeps s0 (fbkMod g s) := keeps_mk_fbk (hg _) h

end Sys2Proof.Machine
end

