-- ==== Sys2Proof/Laws/KeepsOps.lean ====
section
/-! SUPPORT. What the operations of Machine/Ops.lean keep (Laws/Keeps.lean). -/

namespace Sys2Proof.Machine

set_option linter.unusedTactic false
set_option linter.unreachableTactic false
set_option linter.unusedSimpArgs false

theorem wr_keeps {s0 s : State} (f : Fld) (i : Nat) (v : Nat) (h : Keeps s0 s) : Keeps s0 (wr f i v s) := by
  unfold wr
  repeat' (first | with_reducible assumption | with_reducible exact Keeps.refl _ | with_reducible apply wrW_keeps | with_reducible apply keeps_ite | intro _ | dsimp only | split)

theorem addSat_keeps {s0 s : State} (f : Fld) (i : Nat) (n : Nat) (h : Keeps s0 s) : Keeps s0 (addSat f i n s) := by
  unfold addSat
  repeat' (first | with_reducible assumption | with_reducible exact Keeps.refl _ | with_reducible apply wr_keeps | with_reducible apply keeps_ite | intro _ | dsimp only | split)

theorem bump_keeps {s0 s : State} (f : Fld) (i : Nat) (h : Keeps s0 s) : Keeps s0 (bump f i s) := by
  unfold bump
  repeat' (first | with_reducible assumption | with_reducible exact Keeps.refl _ | with_reducible apply addSat_keeps | with_reducible apply keeps_ite | intro _ | dsimp only | split)

theorem clearReg_keeps {s0 s : State} (b : Blk) (inst : Nat) (off : Nat) (h : Keeps s0 s) : Keeps s0 (clearReg b inst off s) := by
  unfold clearReg
  repeat' (first | with_reducible assumption | with_reducible exact Keeps.refl _ | with_reducible apply wrW_keeps | with_reducible apply keeps_ite | intro _ | dsimp only | split)

theorem emit_keeps {s0 s : State} (k : OutKind) (args : List Nat) (h : Keeps s0 s) : Keeps s0 (emit k args s) := by
  unfold emit
  repeat' (first | with_reducible assumption | with_reducible exact Keeps.refl _ | with_reducible apply keeps_ite | simp only [keeps_mk_iff] | intro _ | dsimp only | split)

theorem pdkMod_keeps {s0 s : State} (n : Nat) (g : Pdk → Pdk) (h : Keeps s0 s) : Keeps s0 (pdkMod n g s) := by
  unfold pdkMod
  repeat' (first | with_reducible assumption | with_reducible exact Keeps.refl _ | with_reducible apply keeps_ite | simp only [keeps_mk_iff] | intro _ | dsimp only | split)

theorem fnMod_keeps {s0 s : State} (f : Nat) (g : HostFn → HostFn) (h : Keeps s0 s) : Keeps s0 (fnMod f g s) := by
  unfold fnMod
  repeat' (first | with_reducible assumption | with_reducible exact Keeps.refl _ | with_reducible apply keeps_ite | simp only [keeps_mk_iff] | intro _ | dsimp only | split)

theorem scheduleNext_keeps {s0 s : State} (cls : Nat) (tgt : Nat) (h : Keeps s0 s) : Keeps s0 (scheduleNext cls tgt s) := by
  unfold scheduleNext
  repeat' (first | with_reducible assumption | with_reducible exact Keeps.refl _ | with_reducible apply schedule_keeps | with_reducible apply keeps_ite | intro _ | dsimp only | split)

end Sys2Proof.Machine
end

