-- ==== Sys2Proof/Laws/KeepsFlags.lean ====
section
/-! SUPPORT. What the operations of Machine/Flags.lean keep (Laws/Keeps.lean). -/

namespace Sys2Proof.Machine

set_option linter.unusedTactic false
set_option linter.unreachableTactic false
set_option linter.unusedSimpArgs false

theorem capture_keeps {s0 s : State} (valid : Fld) (overflow : Fld) (i : Nat) (w : Nat) (h : Keeps s0 s) : Keeps s0 (capture valid overflow i w s) := by
  unfold capture
  repeat' (first | with_reducible assumption | with_reducible exact Keeps.refl _ | with_reducible apply wr_keeps | with_reducible apply wrW_keeps | with_reducible apply keeps_ite | intro _ | dsimp only | split)

theorem setEvent_keeps {s0 s : State} (f : Fld) (i : Nat) (h : Keeps s0 s) : Keeps s0 (setEvent f i s) := by
  unfold setEvent
  repeat' (first | with_reducible assumption | with_reducible exact Keeps.refl _ | with_reducible apply wr_keeps | with_reducible apply keeps_ite | intro _ | dsimp only | split)

theorem refuseWrite_keeps {s0 s : State} (b : Blk) (inst : Nat) (reason : RefuseReason) (brand : Nat) (off : Nat) (h : Keeps s0 s) : Keeps s0 (refuseWrite b inst reason brand off s) := by
  unfold refuseWrite
  repeat' (first | with_reducible assumption | with_reducible exact Keeps.refl _ | with_reducible apply wr_keeps | with_reducible apply bump_keeps | with_reducible apply keeps_ite | intro _ | dsimp only | split)

end Sys2Proof.Machine
end

