-- ==== Sys2Proof/Laws/KeepsEvents.lean ====
section
/-! SUPPORT. What the operations of Machine/Events.lean keep (Laws/Keeps.lean). -/

namespace Sys2Proof.Machine

set_option linter.unusedTactic false
set_option linter.unreachableTactic false
set_option linter.unusedSimpArgs false

theorem setPba_keeps {s0 s : State} (f : Nat) (v : Nat) (on0 : Bool) (h : Keeps s0 s) : Keeps s0 (setPba f v on0 s) := by
  unfold setPba
  repeat' (first | with_reducible assumption | with_reducible exact Keeps.refl _ | with_reducible apply wr_keeps | with_reducible apply keeps_ite | intro _ | dsimp only | split)

theorem sendMsix_keeps {s0 s : State} (f : Nat) (v : Nat) (h : Keeps s0 s) : Keeps s0 (sendMsix f v s) := by
  unfold sendMsix
  repeat' (first | with_reducible assumption | with_reducible exact Keeps.refl _ | with_reducible apply fnMod_keeps | with_reducible apply emit_keeps | with_reducible apply setPba_keeps | with_reducible apply keeps_ite | simp only [keeps_mk_iff] | intro _ | dsimp only | split)

theorem raiseSource_keeps {s0 s : State} (n : Nat) (src : Nat) (h : Keeps s0 s) : Keeps s0 (raiseSource n src s) := by
  unfold raiseSource
  repeat' (first | with_reducible assumption | with_reducible exact Keeps.refl _ | with_reducible apply pdkMod_keeps | with_reducible apply sendMsix_keeps | with_reducible apply keeps_ite | simp only [keeps_mk_iff] | intro _ | dsimp only | split)

theorem coalesceBoundary_keeps {s0 s : State}  (h : Keeps s0 s) : Keeps s0 (coalesceBoundary s) := by
  unfold coalesceBoundary
  repeat' (first | with_reducible assumption | with_reducible exact Keeps.refl _ | with_reducible apply pdkMod_keeps | with_reducible apply sendMsix_keeps | with_reducible apply keeps_foldl | with_reducible apply keeps_foldl_snd | with_reducible apply keeps_foldl_fst | with_reducible apply keeps_ite_snd | with_reducible apply keeps_ite | simp only [keeps_mk_iff] | intro _ | dsimp only | split)

theorem setHeldCount_keeps {s0 s : State} (f : Nat) (h : Keeps s0 s) : Keeps s0 (setHeldCount f s) := by
  unfold setHeldCount
  repeat' (first | with_reducible assumption | with_reducible exact Keeps.refl _ | with_reducible apply wr_keeps | with_reducible apply keeps_ite | intro _ | dsimp only | split)

theorem pfEvent_keeps {s0 s : State} (typ : Nat) (die : Nat) (ws : List Nat) (h : Keeps s0 s) : Keeps s0 (pfEvent typ die ws s) := by
  unfold pfEvent
  repeat' (first | with_reducible assumption | with_reducible exact Keeps.refl _ | with_reducible apply wr_keeps | with_reducible apply bump_keeps | with_reducible apply setHeldCount_keeps | with_reducible apply keeps_ite | simp only [keeps_mk_iff] | intro _ | dsimp only | split)

theorem hostEvt_keeps {s0 s : State} (f : Fld) (h : Keeps s0 s) : Keeps s0 (hostEvt f s) := by
  unfold hostEvt
  repeat' (first | with_reducible assumption | with_reducible exact Keeps.refl _ | with_reducible apply wr_keeps | with_reducible apply pfEvent_keeps | with_reducible apply keeps_ite | intro _ | dsimp only | split)

theorem aerUncorr_keeps {s0 s : State} (f : Nat) (bit : Nat) (h : Keeps s0 s) : Keeps s0 (aerUncorr f bit s) := by
  unfold aerUncorr
  repeat' (first | with_reducible assumption | with_reducible exact Keeps.refl _ | with_reducible apply hostEvt_keeps | with_reducible apply keeps_ite | simp only [keeps_mk_iff] | intro _ | dsimp only | split)

theorem aerAdvisory_keeps {s0 s : State} (f : Nat) (bit : Nat) (h : Keeps s0 s) : Keeps s0 (aerAdvisory f bit s) := by
  unfold aerAdvisory
  repeat' (first | with_reducible assumption | with_reducible exact Keeps.refl _ | with_reducible apply keeps_ite | simp only [keeps_mk_iff] | intro _ | dsimp only | split)

theorem pdkNotice_keeps {s0 s : State} (n : Nat) (stage : Nat) (h : Keeps s0 s) : Keeps s0 (pdkNotice n stage s) := by
  unfold pdkNotice
  repeat' (first | with_reducible assumption | with_reducible exact Keeps.refl _ | with_reducible apply pfEvent_keeps | with_reducible apply keeps_ite | intro _ | dsimp only | split)

theorem coalesceEvent_keeps {s0 s : State} (r : FbkRec) (h : Keeps s0 s) : Keeps s0 (coalesceEvent r s) := by
  unfold coalesceEvent
  repeat' (first | with_reducible assumption | with_reducible exact Keeps.refl _ | with_reducible apply wr_keeps | with_reducible apply keeps_ite | simp only [keeps_mk_iff, keeps_mk_fbk_iff] | intro _ | dsimp only | split)

theorem pldmPush_keeps {s0 s : State} (ws : List Nat) (h : Keeps s0 s) : Keeps s0 (pldmPush ws s) := by
  unfold pldmPush
  repeat' (first | with_reducible assumption | with_reducible exact Keeps.refl _ | with_reducible apply keeps_ite | simp only [keeps_mk_iff, keeps_mk_pldm_iff] | intro _ | dsimp only | split)

theorem muteRing_keeps {s0 s : State} (r : FbkRec) (h : Keeps s0 s) : Keeps s0 (muteRing r s) := by
  unfold muteRing
  repeat' (first | with_reducible assumption | with_reducible exact Keeps.refl _ | with_reducible apply wr_keeps | with_reducible apply bump_keeps | with_reducible apply keeps_foldl | with_reducible apply keeps_foldl_snd | with_reducible apply keeps_foldl_fst | with_reducible apply keeps_ite_snd | with_reducible apply keeps_ite | simp only [keeps_mk_iff, keeps_mk_fbk_iff] | intro _ | dsimp only | split)

theorem muteRecord_keeps {s0 s : State} (r : FbkRec) (h : Keeps s0 s) : Keeps s0 (muteRecord r s) := by
  unfold muteRecord
  repeat' (first | with_reducible assumption | with_reducible exact Keeps.refl _ | with_reducible apply coalesceEvent_keeps | with_reducible apply muteRing_keeps | with_reducible apply pldmPush_keeps | with_reducible apply keeps_ite | intro _ | dsimp only | split)

theorem flockEvent_keeps {s0 s : State} (typ src w0 w1 w2 w3 : Nat) (h : Keeps s0 s) :
    Keeps s0 (flockEvent typ src w0 w1 w2 w3 s) := by
  unfold flockEvent
  dsimp only
  split
  · exact muteRecord_keeps _ (wr_keeps _ _ _ h)
  · split
    · refine wr_keeps _ _ _ (keeps_mk_fbk (fun _ => ?_) (wr_keeps FBK_EVNUM_next 0 (rd s FBK_EVNUM_next 0 + 1) h))
      simpa using Nat.succ_le_of_lt ‹_›
    · exact coalesceEvent_keeps _ (wr_keeps _ _ _ h)

theorem countLife_keeps {s0 s : State} (i : Nat) (n : Nat) (h : Keeps s0 s) : Keeps s0 (countLife i n s) := by
  unfold countLife
  repeat' (first | with_reducible assumption | with_reducible exact Keeps.refl _ | with_reducible apply keeps_ite | simp only [keeps_mk_iff, keeps_mk_fbk_iff] | intro _ | dsimp only | split)

theorem fbkEvent_keeps {s0 s : State} (f : Fld) (h : Keeps s0 s) : Keeps s0 (fbkEvent f s) := by
  unfold fbkEvent
  repeat' (first | with_reducible assumption | with_reducible exact Keeps.refl _ | with_reducible apply wr_keeps | with_reducible apply pfEvent_keeps | with_reducible apply keeps_ite | intro _ | dsimp only | split)

end Sys2Proof.Machine
end

