-- ==== Sys2Proof/Laws/KeepsBell.lean ====
section
/-! SUPPORT. What the operations of Machine/Bell.lean keep (Laws/Keeps.lean). -/

namespace Sys2Proof.Machine

set_option linter.unusedTactic false
set_option linter.unreachableTactic false
set_option linter.unusedSimpArgs false

theorem refreshPtp_keeps {s0 s : State}  (h : Keeps s0 s) : Keeps s0 (refreshPtp s) := by
  unfold refreshPtp
  repeat' (first | with_reducible assumption | with_reducible exact Keeps.refl _ | with_reducible apply wr_keeps | with_reducible apply keeps_ite | intro _ | dsimp only | split)

theorem ptpPortSet_keeps {s0 s : State} (old : Nat) (h : Keeps s0 s) : Keeps s0 (ptpPortSet old s) := by
  unfold ptpPortSet
  repeat' (first | with_reducible assumption | with_reducible exact Keeps.refl _ | with_reducible apply refreshPtp_keeps | with_reducible apply wr_keeps | with_reducible apply keeps_ite | simp only [keeps_mk_iff] | intro _ | dsimp only | split)

theorem postBell_keeps {s0 s : State}  (h : Keeps s0 s) : Keeps s0 (postBell s) := by
  unfold postBell
  repeat' (first | with_reducible assumption | with_reducible exact Keeps.refl _ | with_reducible apply pfEvent_keeps | with_reducible apply keeps_ite | intro _ | dsimp only | split)

theorem bellEvent_keeps {s0 s : State} (st : Nat) (prev : Nat) (bit : Fld) (h : Keeps s0 s) : Keeps s0 (bellEvent st prev bit s) := by
  unfold bellEvent
  repeat' (first | with_reducible assumption | with_reducible exact Keeps.refl _ | with_reducible apply postBell_keeps | with_reducible apply wr_keeps | with_reducible apply keeps_ite | simp only [keeps_mk_iff] | simp only [keeps_mk_bell_iff] | intro _ | dsimp only | split)

theorem bellChange_keeps {s0 s : State} (st : Nat) (fly : Nat) (bits : List Fld) (h : Keeps s0 s) : Keeps s0 (bellChange st fly bits s) := by
  unfold bellChange
  repeat' (first | with_reducible assumption | with_reducible exact Keeps.refl _ | with_reducible apply bellEvent_keeps | with_reducible apply countLife_keeps | with_reducible apply wr_keeps | with_reducible apply keeps_foldl | with_reducible apply keeps_foldl_snd | with_reducible apply keeps_foldl_fst | with_reducible apply keeps_ite | with_reducible apply postBell_keeps | with_reducible apply keeps_ite_snd | simp only [keeps_mk_iff, keeps_mk_bell_iff] | intro _ | dsimp only | split)

theorem takeTick_keeps {s0 s : State} (t : Nat) (h : Keeps s0 s) : Keeps s0 (takeTick t s) := by
  unfold takeTick
  repeat' (first | with_reducible assumption | with_reducible exact Keeps.refl _ | with_reducible apply keeps_ite | simp only [keeps_mk_iff, keeps_mk_bell_iff] | intro _ | dsimp only | split)

theorem takeMissTick_keeps {s0 s : State} (t : Nat) (h : Keeps s0 s) : Keeps s0 (takeMissTick t s) := by
  unfold takeMissTick
  repeat' (first | with_reducible assumption | with_reducible exact Keeps.refl _ | with_reducible apply bump_keeps | with_reducible apply takeTick_keeps | with_reducible apply keeps_ite | intro _ | dsimp only | split)

theorem noteInterval_keeps {s0 s : State} (d : Nat) (h : Keeps s0 s) : Keeps s0 (noteInterval d s) := by
  unfold noteInterval
  repeat' (first | with_reducible assumption | with_reducible exact Keeps.refl _ | with_reducible apply wr_keeps | with_reducible apply keeps_foldl | with_reducible apply keeps_foldl_snd | with_reducible apply keeps_foldl_fst | with_reducible apply keeps_ite_snd | with_reducible apply keeps_ite | simp only [keeps_mk_iff, keeps_mk_bell_iff] | intro _ | dsimp only | split)

theorem glitchEdge_keeps {s0 s : State}  (h : Keeps s0 s) : Keeps s0 (glitchEdge s) := by
  unfold glitchEdge
  repeat' (first | with_reducible assumption | with_reducible exact Keeps.refl _ | with_reducible apply wr_keeps | with_reducible apply bump_keeps | with_reducible apply postBell_keeps | with_reducible apply keeps_ite | intro _ | dsimp only | split)

theorem referenceEdge_keeps {s0 s : State} (t : Nat) (h : Keeps s0 s) : Keeps s0 (referenceEdge t s) := by
  unfold referenceEdge
  repeat' (first | with_reducible assumption | with_reducible exact Keeps.refl _ | with_reducible apply wr_keeps | with_reducible apply keeps_ite | simp only [keeps_mk_iff, keeps_mk_bell_iff] | intro _ | dsimp only | split)

theorem lockAt_keeps {s0 s : State} (t : Nat) (h : Keeps s0 s) : Keeps s0 (lockAt t s) := by
  unfold lockAt
  repeat' (first | with_reducible assumption | with_reducible exact Keeps.refl _ | with_reducible apply bellChange_keeps | with_reducible apply takeTick_keeps | with_reducible apply keeps_ite | simp only [keeps_mk_iff] | simp only [keeps_mk_bell_iff] | with_reducible apply wr_keeps | simp only [keeps_mk_iff, keeps_mk_bell_iff] | intro _ | dsimp only | split)

theorem edgeLocked_keeps {s0 s : State} (t : Nat) (h : Keeps s0 s) : Keeps s0 (edgeLocked t s) := by
  unfold edgeLocked
  repeat' (first | with_reducible assumption | with_reducible exact Keeps.refl _ | with_reducible apply takeTick_keeps | with_reducible apply glitchEdge_keeps | with_reducible apply noteInterval_keeps | with_reducible apply keeps_ite | simp only [keeps_mk_iff, keeps_mk_bell_iff] | intro _ | dsimp only | split)

theorem edgeGood_keeps {s0 s : State} (t : Nat) (d : Nat) (h : Keeps s0 s) : Keeps s0 (edgeGood t d s) := by
  unfold edgeGood
  repeat' (first | with_reducible assumption | with_reducible exact Keeps.refl _ | with_reducible apply wr_keeps | with_reducible apply lockAt_keeps | with_reducible apply noteInterval_keeps | with_reducible apply keeps_ite | simp only [keeps_mk_iff, keeps_mk_bell_iff] | intro _ | dsimp only | split)

theorem edgeUnlocked_keeps {s0 s : State} (t : Nat) (h : Keeps s0 s) : Keeps s0 (edgeUnlocked t s) := by
  unfold edgeUnlocked
  repeat' (first | with_reducible assumption | with_reducible exact Keeps.refl _ | with_reducible apply referenceEdge_keeps | with_reducible apply glitchEdge_keeps | with_reducible apply edgeGood_keeps | with_reducible apply keeps_ite | intro _ | dsimp only | split)

theorem execBellEdge_keeps {s0 s : State} (t : Nat) (h : Keeps s0 s) : KeepsR s0 (execBellEdge t s) := by
  unfold execBellEdge
  repeat' (first | with_reducible assumption | with_reducible exact Keeps.refl _ | with_reducible apply atTime_keeps | with_reducible apply edgeUnlocked_keeps | with_reducible apply edgeLocked_keeps | with_reducible apply keepsR_next | with_reducible apply keeps_ite | with_reducible apply keepsR_ite | intro _ | dsimp only | split)

theorem startBell_keeps {s0 s : State} (t : Nat) (h : Keeps s0 s) : Keeps s0 (startBell t s) := by
  unfold startBell
  repeat' (first | with_reducible assumption | with_reducible exact Keeps.refl _ | with_reducible apply wr_keeps | with_reducible apply refreshPtp_keeps | with_reducible apply takeMissTick_keeps | with_reducible apply keeps_ite | simp only [keeps_mk_iff, keeps_mk_bell_iff] | intro _ | dsimp only | split)

theorem execBelStart_keeps {s0 s : State} (t : Nat) (h : Keeps s0 s) : KeepsR s0 (execBelStart t s) := by
  unfold execBelStart
  repeat' (first | with_reducible assumption | with_reducible exact Keeps.refl _ | with_reducible apply atTime_keeps | with_reducible apply startBell_keeps | with_reducible apply keepsR_next | with_reducible apply keeps_ite | with_reducible apply keepsR_ite | intro _ | dsimp only | split)

theorem execBellLoss_keeps {s0 s : State} (t : Nat) (h : Keeps s0 s) : KeepsR s0 (execBellLoss t s) := by
  unfold execBellLoss
  repeat' (first | with_reducible assumption | with_reducible exact Keeps.refl _ | with_reducible apply atTime_keeps | with_reducible apply takeMissTick_keeps | with_reducible apply bellChange_keeps | with_reducible apply wr_keeps | with_reducible apply keepsR_next | with_reducible apply keeps_ite | with_reducible apply keepsR_ite | simp only [keeps_mk_iff] | simp only [keeps_mk_bell_iff] | simp only [keeps_mk_iff, keeps_mk_bell_iff] | intro _ | dsimp only | split)

theorem execInternalTick_keeps {s0 s : State} (t : Nat) (h : Keeps s0 s) : KeepsR s0 (execInternalTick t s) := by
  unfold execInternalTick
  repeat' (first | with_reducible assumption | with_reducible exact Keeps.refl _ | with_reducible apply refreshPtp_keeps | with_reducible apply atTime_keeps | with_reducible apply takeMissTick_keeps | with_reducible apply wr_keeps | with_reducible apply takeTick_keeps | with_reducible apply bellChange_keeps | with_reducible apply keepsR_next | with_reducible apply keeps_ite | with_reducible apply keepsR_ite | intro _ | dsimp only | split)

theorem exhaust_keeps {s0 s : State} (due : Nat) (h : Keeps s0 s) : Keeps s0 (exhaust due s) := by
  unfold exhaust
  repeat' (first | with_reducible assumption | with_reducible exact Keeps.refl _ | with_reducible apply takeTick_keeps | with_reducible apply bellChange_keeps | with_reducible apply keeps_ite | with_reducible apply wr_keeps | intro _ | dsimp only | split)

theorem execFlywheelExhausted_keeps {s0 s : State} (t : Nat) (h : Keeps s0 s) : KeepsR s0 (execFlywheelExhausted t s) := by
  unfold execFlywheelExhausted
  repeat' (first | with_reducible assumption | with_reducible exact Keeps.refl _ | with_reducible apply refreshPtp_keeps | with_reducible apply atTime_keeps | with_reducible apply exhaust_keeps | with_reducible apply keepsR_next | with_reducible apply keeps_ite | with_reducible apply keepsR_ite | intro _ | dsimp only | split)

theorem execRelockLapse_keeps {s0 s : State} (t : Nat) (h : Keeps s0 s) : KeepsR s0 (execRelockLapse t s) := by
  unfold execRelockLapse
  repeat' (first | with_reducible assumption | with_reducible exact Keeps.refl _ | with_reducible apply wr_keeps | with_reducible apply atTime_keeps | with_reducible apply refreshPtp_keeps | with_reducible apply takeTick_keeps | with_reducible apply takeMissTick_keeps | with_reducible apply exhaust_keeps | with_reducible apply keepsR_next | with_reducible apply keeps_ite | with_reducible apply keepsR_ite | simp only [keeps_mk_iff, keeps_mk_bell_iff] | intro _ | dsimp only | split)

theorem execPtpTick_keeps {s0 s : State} (t : Nat) (h : Keeps s0 s) : KeepsR s0 (execPtpTick t s) := by
  unfold execPtpTick
  repeat' (first | with_reducible assumption | with_reducible exact Keeps.refl _ | with_reducible apply refreshPtp_keeps | with_reducible apply atTime_keeps | with_reducible apply takeTick_keeps | with_reducible apply bellChange_keeps | with_reducible apply exhaust_keeps | with_reducible apply keepsR_next | with_reducible apply keeps_ite | with_reducible apply keepsR_ite | intro _ | dsimp only | split)

theorem bellWaits_keeps {s0 s : State} (key : Nat) (old : Word) (h : Keeps s0 s) : Keeps s0 (bellWaits key old s) := by
  unfold bellWaits
  repeat' (first | with_reducible assumption | with_reducible exact Keeps.refl _ | with_reducible apply keeps_ite | simp only [keeps_mk_iff] | intro _ | dsimp only | split)

theorem refreshClamps_keeps {s0 s : State} (h : Keeps s0 s) : Keeps s0 (refreshClamps s) := by
  unfold refreshClamps
  repeat' (first | with_reducible assumption | with_reducible exact Keeps.refl _ | with_reducible apply wr_keeps | with_reducible apply keeps_ite | intro _ | dsimp only | split)

theorem periodChanged_keeps {s0 s : State} (old : Nat) (h : Keeps s0 s) : Keeps s0 (periodChanged old s) := by
  unfold periodChanged
  repeat' (first | with_reducible assumption | with_reducible exact Keeps.refl _ | with_reducible apply wr_keeps | with_reducible apply refreshClamps_keeps | with_reducible apply keeps_ite | simp only [keeps_mk_iff, keeps_mk_bell_iff] | intro _ | dsimp only | split)

end Sys2Proof.Machine
end

