-- ==== Sys2Proof/Laws/KeepsMemory.lean ====
section
/-! SUPPORT. What the operations of Machine/Memory.lean keep (Laws/Keeps.lean). -/

namespace Sys2Proof.Machine

set_option linter.unusedTactic false
set_option linter.unreachableTactic false
set_option linter.unusedSimpArgs false

theorem gateRefuse_keeps {s0 s : State} (die : Nat) (step : Nat) (cls : Nat) (src : Nat) (brand : Nat) (addr : Nat) (h : Keeps s0 s) : Keeps s0 (gateRefuse die step cls src brand addr s) := by
  unfold gateRefuse
  repeat' (first | with_reducible assumption | with_reducible exact Keeps.refl _ | with_reducible apply bump_keeps | with_reducible apply wr_keeps | with_reducible apply wrW_keeps | with_reducible apply keeps_ite | intro _ | dsimp only | split)

theorem setLine_keeps {s0 s : State} (l : Nat) (k : Nat) (h : Keeps s0 s) : Keeps s0 (setLine l k s) := by
  unfold setLine
  repeat' (first | with_reducible assumption | with_reducible exact Keeps.refl _ | with_reducible apply keeps_ite | simp only [keeps_mk_iff] | intro _ | dsimp only | split)

theorem tablePoison_keeps {s0 s : State} (a : Nat) (h : Keeps s0 s) : Keeps s0 (tablePoison a s) := by
  unfold tablePoison
  repeat' (first | with_reducible assumption | with_reducible exact Keeps.refl _ | with_reducible apply capture_keeps | with_reducible apply keeps_ite | intro _ | dsimp only | split)

theorem memUncorrectable_keeps {s0 s : State} (brand : Nat) (scrub : Nat) (a : Nat) (h : Keeps s0 s) : Keeps s0 (memUncorrectable brand scrub a s) := by
  unfold memUncorrectable
  repeat' (first | with_reducible assumption | with_reducible exact Keeps.refl _ | with_reducible apply flockEvent_keeps | with_reducible apply countLife_keeps | with_reducible apply bump_keeps | with_reducible apply capture_keeps | with_reducible apply keeps_ite | intro _ | dsimp only | split)

theorem readLine_keeps {s0 s : State} (brand : Nat) (scrub : Nat) (a : Nat) (h : Keeps s0 s) : Keeps s0 (readLine brand scrub a s).2 := by
  unfold readLine
  repeat' (first | with_reducible assumption | with_reducible exact Keeps.refl _ | with_reducible apply bump_keeps | with_reducible apply setLine_keeps | with_reducible apply countLife_keeps | with_reducible apply memUncorrectable_keeps | with_reducible apply keeps_ite_snd | with_reducible apply keeps_ite | intro _ | dsimp only | split)

theorem readLines_keeps {s0 x2 : State} (brand : Nat) (x1 : List Nat) (h : Keeps s0 x2) : Keeps s0 (readLines brand x1 x2).2 := by
  induction x1 generalizing brand x2 with
  | nil =>
    unfold readLines
    repeat' (first | with_reducible assumption | with_reducible exact Keeps.refl _ | apply ih | with_reducible apply readLine_keeps | with_reducible apply keeps_ite | with_reducible apply keeps_ite_snd | intro _ | dsimp only | split)
  | cons hd tl ih =>
    unfold readLines
    repeat' (first | with_reducible assumption | with_reducible exact Keeps.refl _ | apply ih | with_reducible apply readLine_keeps | with_reducible apply keeps_ite | with_reducible apply keeps_ite_snd | intro _ | dsimp only | split)

theorem memRead_keeps {s0 s : State} (brand : Nat) (a : Nat) (len : Nat) (h : Keeps s0 s) : Keeps s0 (memRead brand a len s).2.2 := by
  unfold memRead
  repeat' (first | with_reducible assumption | with_reducible exact Keeps.refl _ | with_reducible apply readLines_keeps | with_reducible apply keeps_ite | with_reducible apply keeps_ite_snd | intro _ | dsimp only | split)

theorem memPutBytes_keeps {s0 x2 : State} (a : Nat) (x1 : List Nat) (h : Keeps s0 x2) : Keeps s0 (memPutBytes a x1 x2) := by
  induction x1 generalizing a x2 with
  | nil =>
    unfold memPutBytes
    repeat' (first | with_reducible assumption | with_reducible exact Keeps.refl _ | apply ih | with_reducible apply memPut_keeps | with_reducible apply keeps_ite | intro _ | dsimp only | split)
  | cons hd tl ih =>
    unfold memPutBytes
    repeat' (first | with_reducible assumption | with_reducible exact Keeps.refl _ | apply ih | with_reducible apply memPut_keeps | with_reducible apply keeps_ite | intro _ | dsimp only | split)

theorem noteLine_keeps {s0 s : State} (a : Nat) (len : Nat) (la : Nat) (pf : Bool) (h : Keeps s0 s) : Keeps s0 (noteLine a len la pf s) := by
  unfold noteLine
  repeat' (first | with_reducible assumption | with_reducible exact Keeps.refl _ | with_reducible apply setLine_keeps | with_reducible apply bump_keeps | with_reducible apply keeps_ite | intro _ | dsimp only | split)

theorem noteLines_keeps {s0 x4 : State} (a : Nat) (len : Nat) (x2 : List Nat) (x3 : List Bool) (h : Keeps s0 x4) : Keeps s0 (noteLines a len x2 x3 x4) := by
  induction x2 generalizing a len x3 x4 with
  | nil =>
    unfold noteLines
    repeat' (first | with_reducible assumption | with_reducible exact Keeps.refl _ | apply ih | with_reducible apply noteLine_keeps | with_reducible apply keeps_ite | intro _ | dsimp only | split)
  | cons hd tl ih =>
    unfold noteLines
    repeat' (first | with_reducible assumption | with_reducible exact Keeps.refl _ | apply ih | with_reducible apply noteLine_keeps | with_reducible apply keeps_ite | intro _ | dsimp only | split)

theorem memMove_keeps {s0 s : State} (o : State) (h : Keeps s0 s) : Keeps s0 (memMove o s) := by
  have hc : Keeps s0 { s with mem := [], lines := [] } :=
    ⟨h.queue, h.time, h.draws, h.regs, fun _ => rfl, h.cal, h.staging, h.fuses⟩
  unfold memMove
  refine keeps_ite (fun _ => h) (fun _ => keeps_foldl (fun t e ht => ?_) hc)
  split
  · exact ht
  · exact setLine_keeps _ _ (memPutBytes_keeps _ _ ht)

theorem memWrite_keeps {s0 s : State} (a : Nat) (bs : List Nat) (pfs : List Bool) (h : Keeps s0 s) : Keeps s0 (memWrite a bs pfs s) := by
  unfold memWrite
  repeat' (first | with_reducible assumption | with_reducible exact Keeps.refl _ | with_reducible apply memPutBytes_keeps | with_reducible apply noteLines_keeps | with_reducible apply keeps_ite | intro _ | dsimp only | split)

end Sys2Proof.Machine
end

