-- ==== Sys2Proof/Laws/KeepsPools.lean ====
section
/-! SUPPORT. What the operations of Machine/Pools.lean keep (Laws/Keeps.lean). -/

namespace Sys2Proof.Machine

set_option linter.unusedTactic false
set_option linter.unreachableTactic false
set_option linter.unusedSimpArgs false

theorem poolMod_keeps {s0 s : State} (d : Nat) (j : Nat) (g : PoolS → PoolS) (h : Keeps s0 s) : Keeps s0 (poolMod d j g s) := by
  unfold poolMod
  repeat' (first | with_reducible assumption | with_reducible exact Keeps.refl _ | with_reducible apply keeps_ite | simp only [keeps_mk_iff] | intro _ | dsimp only | split)

theorem byreRecord_keeps {s0 s : State} (d : Nat) (j : Nat) (h : Keeps s0 s) : Keeps s0 (byreRecord d j s) := by
  unfold byreRecord
  repeat' (first | with_reducible assumption | with_reducible exact Keeps.refl _ | with_reducible apply pfEvent_keeps | with_reducible apply keeps_ite | simp only [keeps_mk_iff] | intro _ | dsimp only | split)

theorem setFree_keeps {s0 s : State} (d : Nat) (j : Nat) (n : Nat) (h : Keeps s0 s) : Keeps s0 (setFree d j n s) := by
  unfold setFree
  repeat' (first | with_reducible assumption | with_reducible exact Keeps.refl _ | with_reducible apply wr_keeps | with_reducible apply byreRecord_keeps | with_reducible apply keeps_ite | intro _ | dsimp only | split)

theorem refreshLevels_keeps {s0 s : State} (d : Nat) (j : Nat) (h : Keeps s0 s) : Keeps s0 (refreshLevels d j s) := by
  unfold refreshLevels
  repeat' (first | with_reducible assumption | with_reducible exact Keeps.refl _ | with_reducible apply wr_keeps | with_reducible apply keeps_ite | intro _ | dsimp only | split)

theorem refreshOvercommit_keeps {s0 s : State} (d : Nat) (j : Nat) (h : Keeps s0 s) : Keeps s0 (refreshOvercommit d j s) := by
  unfold refreshOvercommit
  repeat' (first | with_reducible assumption | with_reducible exact Keeps.refl _ | with_reducible apply wr_keeps | with_reducible apply keeps_foldl | with_reducible apply keeps_foldl_snd | with_reducible apply keeps_foldl_fst | with_reducible apply keeps_ite_snd | with_reducible apply keeps_ite | intro _ | dsimp only | split)

theorem writeHeader_keeps {s0 s : State} (d : Nat) (j : Nat) (k : Nat) (next : Nat) (h : Keeps s0 s) : Keeps s0 (writeHeader d j k next s) := by
  unfold writeHeader
  repeat' (first | with_reducible assumption | with_reducible exact Keeps.refl _ | with_reducible apply memWrite_keeps | with_reducible apply keeps_ite | intro _ | dsimp only | split)

theorem writeLedger_keeps {s0 s : State} (d : Nat) (j : Nat) (k : Nat) (st : Nat) (e : Nat) (tick : Nat) (h : Keeps s0 s) : Keeps s0 (writeLedger d j k st e tick s) := by
  unfold writeLedger
  repeat' (first | with_reducible assumption | with_reducible exact Keeps.refl _ | with_reducible apply memWrite_keeps | with_reducible apply keeps_ite | intro _ | dsimp only | split)

theorem headFails_keeps {s0 s : State} (d : Nat) (j : Nat) (k : Nat) (kind : Nat) (h : Keeps s0 s) : Keeps s0 (headFails d j k kind s) := by
  unfold headFails
  repeat' (first | with_reducible assumption | with_reducible exact Keeps.refl _ | with_reducible apply wr_keeps | with_reducible apply capture_keeps | with_reducible apply byreRecord_keeps | with_reducible apply keeps_ite | intro _ | dsimp only | split)

theorem poolBreaks_keeps {s0 s : State} (d : Nat) (j : Nat) (h : Keeps s0 s) : Keeps s0 (poolBreaks d j s) := by
  unfold poolBreaks
  repeat' (first | with_reducible assumption | with_reducible exact Keeps.refl _ | with_reducible apply wr_keeps | with_reducible apply byreRecord_keeps | with_reducible apply keeps_ite | intro _ | dsimp only | split)

theorem byrRefused_keeps {s0 s : State} (d : Nat) (j : Nat) (st : Nat) (h : Keeps s0 s) : Keeps s0 (byrRefused d j st s).2 := by
  unfold byrRefused
  repeat' (first | with_reducible assumption | with_reducible exact Keeps.refl _ | with_reducible apply bump_keeps | with_reducible apply keeps_ite | with_reducible apply keeps_ite_snd | intro _ | dsimp only | split)

theorem grantHead_keeps {s0 s : State} (d : Nat) (j : Nat) (k : Nat) (e : Nat) (h : Keeps s0 s) : Keeps s0 (grantHead d j k e s).2 := by
  unfold grantHead
  repeat' (first | with_reducible assumption | with_reducible exact Keeps.refl _ | with_reducible apply wr_keeps | with_reducible apply bump_keeps | with_reducible apply setFree_keeps | with_reducible apply poolMod_keeps | with_reducible apply writeLedger_keeps | with_reducible apply keeps_ite | with_reducible apply keeps_ite_snd | simp only [keeps_mk_iff] | intro _ | dsimp only | split)

theorem byreTake_keeps {s0 s : State} (d : Nat) (j : Nat) (brand : Nat) (req : Nat) (h : Keeps s0 s) : Keeps s0 (byreTake d j brand req s).2 := by
  unfold byreTake
  repeat' (first | with_reducible assumption | with_reducible exact Keeps.refl _ | with_reducible apply byrRefused_keeps | with_reducible apply headFails_keeps | with_reducible apply readLine_keeps | with_reducible apply poolBreaks_keeps | with_reducible apply grantHead_keeps | with_reducible apply keeps_ite_snd | with_reducible apply keeps_ite | intro _ | dsimp only | split)

theorem byreGet_keeps {s0 s : State} (d : Nat) (j : Nat) (brand : Nat) (req : Nat) (h : Keeps s0 s) : Keeps s0 (byreGet d j brand req s).2 := by
  unfold byreGet
  repeat' (first | with_reducible assumption | with_reducible exact Keeps.refl _ | with_reducible apply byrRefused_keeps | with_reducible apply byreTake_keeps | with_reducible apply refreshLevels_keeps | with_reducible apply keeps_ite_snd | with_reducible apply keeps_ite | with_reducible apply readLine_keeps | with_reducible apply headFails_keeps | with_reducible apply poolBreaks_keeps | with_reducible apply grantHead_keeps | intro _ | dsimp only | split)

theorem byreReturn_keeps {s0 s : State} (d : Nat) (j : Nat) (off : Option Nat) (h : Keeps s0 s) : Keeps s0 (byreReturn d j off s).2 := by
  unfold byreReturn
  repeat' (first | with_reducible assumption | with_reducible exact Keeps.refl _ | with_reducible apply byrRefused_keeps | with_reducible apply readLine_keeps | with_reducible apply poolBreaks_keeps | with_reducible apply wr_keeps | with_reducible apply writeLedger_keeps | with_reducible apply setFree_keeps | with_reducible apply poolMod_keeps | with_reducible apply writeHeader_keeps | with_reducible apply keeps_ite_snd | with_reducible apply keeps_ite | simp only [keeps_mk_iff] | intro _ | dsimp only | split)

theorem byrePut_keeps {s0 s : State} (d : Nat) (j : Nat) (off : Option Nat) (h : Keeps s0 s) : Keeps s0 (byrePut d j off s).2 := by
  unfold byrePut
  repeat' (first | with_reducible assumption | with_reducible exact Keeps.refl _ | with_reducible apply byrRefused_keeps | with_reducible apply byreReturn_keeps | with_reducible apply refreshLevels_keeps | with_reducible apply keeps_ite_snd | with_reducible apply keeps_ite | with_reducible apply wr_keeps | with_reducible apply readLine_keeps | with_reducible apply setFree_keeps | with_reducible apply poolBreaks_keeps | with_reducible apply writeHeader_keeps | with_reducible apply poolMod_keeps | with_reducible apply writeLedger_keeps | simp only [keeps_mk_iff] | intro _ | dsimp only | split)

theorem bufferBack_keeps {s0 s : State} (buf : List Nat) (h : Keeps s0 s) : Keeps s0 (bufferBack buf s) := by
  unfold bufferBack
  repeat' (first | with_reducible assumption | with_reducible exact Keeps.refl _ | with_reducible apply byrePut_keeps | with_reducible apply keeps_ite | intro _ | dsimp only | split)

theorem poolRefuse_keeps {s0 s : State} (src : Nat) (d : Nat) (j : Nat) (brand : Nat) (h : Keeps s0 s) : Keeps s0 (poolRefuse src d j brand s) := by
  unfold poolRefuse
  repeat' (first | with_reducible assumption | with_reducible exact Keeps.refl _ | with_reducible apply gateRefuse_keeps | with_reducible apply keeps_ite | intro _ | dsimp only | split)

theorem byreGetBy_keeps {s0 s : State} (src : Nat) (d : Nat) (j : Nat) (brand : Nat) (req : Nat) (h : Keeps s0 s) : Keeps s0 (byreGetBy src d j brand req s).2 := by
  unfold byreGetBy
  repeat' (first | with_reducible assumption | with_reducible exact Keeps.refl _ | with_reducible apply byreGet_keeps | with_reducible apply poolRefuse_keeps | with_reducible apply keeps_ite_snd | with_reducible apply keeps_ite | intro _ | dsimp only | split)

theorem linkBuffers_keeps {s0 s : State} (d j : Nat) (l : List Nat) (h : Keeps s0 s) : Keeps s0 (linkBuffers d j l s) := by
  induction l generalizing s with
  | nil => exact h
  | cons k l ih =>
    cases l with
    | nil => exact writeHeader_keeps _ _ _ _ h
    | cons k2 ks => exact ih (writeHeader_keeps _ _ _ _ h)

theorem rebuildList_keeps {s0 s : State} (d : Nat) (j : Nat) (h : Keeps s0 s) : Keeps s0 (rebuildList d j s) := by
  unfold rebuildList
  repeat' (first | with_reducible assumption | with_reducible exact Keeps.refl _ | with_reducible apply setFree_keeps | with_reducible apply linkBuffers_keeps | with_reducible apply poolMod_keeps | with_reducible apply keeps_ite | simp only [keeps_mk_iff] | intro _ | dsimp only | split)

end Sys2Proof.Machine
end

