-- ==== Sys2Proof/Laws/KeepsFaults.lean ====
section
/-! SUPPORT. What the operations of Machine/Faults.lean keep (Laws/Keeps.lean). -/

namespace Sys2Proof.Machine

set_option linter.unusedTactic false
set_option linter.unreachableTactic false
set_option linter.unusedSimpArgs false

theorem stageRecord_keeps {s0 s : State} (f : Nat) (rec_ : List Nat) (h : Keeps s0 s) : Keeps s0 (stageRecord f rec_ s).2 := by
  unfold stageRecord
  repeat' (first | with_reducible assumption | with_reducible exact Keeps.refl _ | with_reducible apply byreGetBy_keeps | with_reducible apply fnMod_keeps | with_reducible apply memWrite_keeps | with_reducible apply keeps_ite_snd | with_reducible apply keeps_ite | with_reducible apply keeps_ite_st | simp only [keeps_mk_iff] | with_reducible apply byreGet_keeps | intro _ | dsimp only | split)

theorem stageHeld_keeps {s0 x2 : State} (f : Nat) (x1 : Nat) (h : Keeps s0 x2) : Keeps s0 (stageHeld f x1 x2) := by
  induction x1 generalizing f x2 with
  | zero =>
    unfold stageHeld
    repeat' (first | with_reducible assumption | with_reducible exact Keeps.refl _ | apply ih | with_reducible apply fnMod_keeps | with_reducible apply stageRecord_keeps | with_reducible apply keeps_ite | simp only [keeps_mk_iff] | intro _ | dsimp only | split)
  | succ k ih =>
    unfold stageHeld
    repeat' (first | with_reducible assumption | with_reducible exact Keeps.refl _ | apply ih | with_reducible apply fnMod_keeps | with_reducible apply stageRecord_keeps | with_reducible apply keeps_ite | simp only [keeps_mk_iff] | intro _ | dsimp only | split)

theorem faultRecord_keeps {s0 s : State} (f : Nat) (typ : Nat) (die : Nat) (ws : List Nat) (h : Keeps s0 s) : Keeps s0 (faultRecord f typ die ws s) := by
  unfold faultRecord
  repeat' (first | with_reducible assumption | with_reducible exact Keeps.refl _ | with_reducible apply fnMod_keeps | with_reducible apply wr_keeps | with_reducible apply bump_keeps | with_reducible apply setHeldCount_keeps | with_reducible apply stageHeld_keeps | with_reducible apply stageRecord_keeps | with_reducible apply keeps_ite | simp only [keeps_mk_iff] | intro _ | dsimp only | split)

theorem coreFault_keeps {s0 s : State} (p : Nat) (typ : Nat) (ws : List Nat) (h : Keeps s0 s) : Keeps s0 (coreFault p typ ws s) := by
  unfold coreFault
  repeat' (first | with_reducible assumption | with_reducible exact Keeps.refl _ | with_reducible apply faultRecord_keeps | with_reducible apply keeps_ite | intro _ | dsimp only | split)

theorem epochFailure_keeps {s0 s : State} (n : Nat) (kind : Nat) (core : Nat) (h : Keeps s0 s) : Keeps s0 (epochFailure n kind core s) := by
  unfold epochFailure
  repeat' (first | with_reducible assumption | with_reducible exact Keeps.refl _ | with_reducible apply pdkMod_keeps | with_reducible apply wrW_keeps | with_reducible apply keeps_ite | simp only [keeps_mk_iff] | intro _ | dsimp only | split)

theorem epochAbandon_keeps {s0 s : State} (n : Nat) (core : Nat) (h : Keeps s0 s) : Keeps s0 (epochAbandon n core s) := by
  unfold epochAbandon
  repeat' (first | with_reducible assumption | with_reducible exact Keeps.refl _ | with_reducible apply pdkMod_keeps | with_reducible apply wrW_keeps | with_reducible apply keeps_ite | simp only [keeps_mk_iff] | intro _ | dsimp only | split)

theorem epochException_keeps {s0 s : State} (p : Nat) (code : Nat) (h : Keeps s0 s) : Keeps s0 (epochException p code s) := by
  unfold epochException
  repeat' (first | with_reducible assumption | with_reducible exact Keeps.refl _ | with_reducible apply epochAbandon_keeps | with_reducible apply epochFailure_keeps | with_reducible apply keeps_ite | intro _ | dsimp only | split)

end Sys2Proof.Machine
end

