-- ==== Sys2Proof/Laws/KeepsCoreBase.lean ====
section
/-! SUPPORT. What the operations of Machine/CoreBase.lean keep (Laws/Keeps.lean). -/

namespace Sys2Proof.Machine

set_option linter.unusedTactic false
set_option linter.unreachableTactic false
set_option linter.unusedSimpArgs false

theorem coreMod_keeps {s0 s : State} (p : Nat) (g : Core → Core) (h : Keeps s0 s) : Keeps s0 (coreMod p g s) := by
  unfold coreMod
  repeat' (first | with_reducible assumption | with_reducible exact Keeps.refl _ | with_reducible apply keeps_ite | simp only [keeps_mk_iff] | intro _ | dsimp only | split)

theorem gSet_keeps {s0 s : State} (p : Nat) (t : Nat) (k : Nat) (v : Nat) (h : Keeps s0 s) : Keeps s0 (gSet p t k v s) := by
  unfold gSet
  repeat' (first | with_reducible assumption | with_reducible exact Keeps.refl _ | with_reducible apply wr_keeps | with_reducible apply keeps_ite | intro _ | dsimp only | split)

theorem pSet_keeps {s0 s : State} (p : Nat) (t : Nat) (k : Nat) (v : Bool) (h : Keeps s0 s) : Keeps s0 (pSet p t k v s) := by
  unfold pSet
  repeat' (first | with_reducible assumption | with_reducible exact Keeps.refl _ | with_reducible apply wr_keeps | with_reducible apply keeps_ite | intro _ | dsimp only | split)

theorem haltTask_keeps {s0 s : State} (p : Nat) (t : Nat) (reason : Nat) (h : Keeps s0 s) : Keeps s0 (haltTask p t reason s) := by
  unfold haltTask
  repeat' (first | with_reducible assumption | with_reducible exact Keeps.refl _ | with_reducible apply wr_keeps | with_reducible apply keeps_ite | intro _ | dsimp only | split)

theorem recordExc_keeps {s0 s : State} (p : Nat) (t : Nat) (async : Bool) (slot : Nat) (pc : Nat) (sub : Nat) (code : Nat) (h : Keeps s0 s) : Keeps s0 (recordExc p t async slot pc sub code s) := by
  unfold recordExc
  repeat' (first | with_reducible assumption | with_reducible exact Keeps.refl _ | with_reducible apply wr_keeps | with_reducible apply wrW_keeps | with_reducible apply epochException_keeps | with_reducible apply coreFault_keeps | with_reducible apply keeps_ite | intro _ | dsimp only | split)

theorem preciseExc_keeps {s0 s : State} (p : Nat) (t : Nat) (slot : Nat) (sub : Nat) (code : Nat) (h : Keeps s0 s) : Keeps s0 (preciseExc p t slot sub code s) := by
  unfold preciseExc
  repeat' (first | with_reducible assumption | with_reducible exact Keeps.refl _ | with_reducible apply haltTask_keeps | with_reducible apply recordExc_keeps | with_reducible apply keeps_ite | intro _ | dsimp only | split)

theorem asyncExc_keeps {s0 s : State} (p : Nat) (t : Nat) (slot : Nat) (pc : Nat) (sub : Nat) (h : Keeps s0 s) : Keeps s0 (asyncExc p t slot pc sub s) := by
  unfold asyncExc
  repeat' (first | with_reducible assumption | with_reducible exact Keeps.refl _ | with_reducible apply haltTask_keeps | with_reducible apply recordExc_keeps | with_reducible apply keeps_ite | intro _ | dsimp only | split)

theorem spPutRaw_keeps {s0 s : State} (p : Nat) (w : Nat) (v : Nat) (h : Keeps s0 s) : Keeps s0 (spPutRaw p w v s) := by
  unfold spPutRaw
  repeat' (first | with_reducible assumption | with_reducible exact Keeps.refl _ | with_reducible apply keeps_ite | simp only [keeps_mk_iff] | intro _ | dsimp only | split)

theorem spUncorrectable_keeps {s0 s : State} (p : Nat) (w : Nat) (cls : Nat) (merge : Nat) (task : Nat) (h : Keeps s0 s) : Keeps s0 (spUncorrectable p w cls merge task s) := by
  unfold spUncorrectable
  repeat' (first | with_reducible assumption | with_reducible exact Keeps.refl _ | with_reducible apply bump_keeps | with_reducible apply capture_keeps | with_reducible apply keeps_ite | intro _ | dsimp only | split)

theorem spReadWord_keeps {s0 s : State} (p : Nat) (w : Nat) (cls : Nat) (task : Nat) (h : Keeps s0 s) : Keeps s0 (spReadWord p w cls task s).2.2 := by
  unfold spReadWord
  repeat' (first | with_reducible assumption | with_reducible exact Keeps.refl _ | with_reducible apply bump_keeps | with_reducible apply coreMod_keeps | with_reducible apply spUncorrectable_keeps | with_reducible apply keeps_ite | with_reducible apply keeps_ite_snd | simp only [keeps_mk_iff] | intro _ | dsimp only | split)

theorem spMarkSet_keeps {s0 s : State} (p : Nat) (w : Nat) (m : SpMark) (h : Keeps s0 s) : Keeps s0 (spMarkSet p w m s) := by
  unfold spMarkSet
  repeat' (first | with_reducible assumption | with_reducible exact Keeps.refl _ | with_reducible apply keeps_ite | simp only [keeps_mk_iff] | intro _ | dsimp only | split)

theorem spWrote_keeps {s0 s : State} (p : Nat) (w : Nat) (t : Nat) (unit : Nat) (h : Keeps s0 s) : Keeps s0 (spWrote p w t unit s) := by
  unfold spWrote
  repeat' (first | with_reducible assumption | with_reducible exact Keeps.refl _ | with_reducible apply spMarkSet_keeps | with_reducible apply keeps_ite | intro _ | dsimp only | split)

theorem spPlain_keeps {s0 s : State} (p : Nat) (w : Nat) (h : Keeps s0 s) : Keeps s0 (spPlain p w s) := by
  unfold spPlain
  repeat' (first | with_reducible assumption | with_reducible exact Keeps.refl _ | with_reducible apply spMarkSet_keeps | with_reducible apply keeps_ite | intro _ | dsimp only | split)

theorem spDeliver_keeps {s0 s : State} (p : Nat) (w : Nat) (d : Nat) (reader : Nat) (t : Nat) (bun : Nat) (h : Keeps s0 s) : Keeps s0 (spDeliver p w d reader t bun s).2 := by
  unfold spDeliver
  repeat' (first | with_reducible assumption | with_reducible exact Keeps.refl _ | with_reducible apply freshBlock_keeps | with_reducible apply keeps_ite_snd | with_reducible apply keeps_ite | intro _ | dsimp only | split)

theorem spOrder_keeps {s0 s : State} (p : Nat) (t : Nat) (n : Nat) (nx : Nat) (sel : SpMark → Bool) (h : Keeps s0 s) : Keeps s0 (spOrder p t n nx sel s) := by
  unfold spOrder
  repeat' (first | with_reducible assumption | with_reducible exact Keeps.refl _ | with_reducible apply keeps_ite_snd | with_reducible apply keeps_ite | simp only [keeps_mk_iff] | intro _ | dsimp only | split)

theorem spFence_keeps {s0 s : State} (p : Nat) (t : Nat) (sel : Nat) (bun : Nat) (h : Keeps s0 s) : Keeps s0 (spFence p t sel bun s) := by
  unfold spFence
  repeat' (first | with_reducible assumption | with_reducible exact Keeps.refl _ | with_reducible apply spOrder_keeps | with_reducible apply keeps_ite | intro _ | dsimp only | split)

theorem spWaited_keeps {s0 s : State} (p : Nat) (t : Nat) (bun : Nat) (h : Keeps s0 s) : Keeps s0 (spWaited p t bun s) := by
  unfold spWaited
  repeat' (first | with_reducible assumption | with_reducible exact Keeps.refl _ | with_reducible apply spOrder_keeps | with_reducible apply keeps_ite | intro _ | dsimp only | split)

theorem spWriteWord_keeps {s0 s : State} (p : Nat) (w : Nat) (be : Nat) (v : Nat) (cls : Nat) (task : Nat) (h : Keeps s0 s) : Keeps s0 (spWriteWord p w be v cls task s) := by
  unfold spWriteWord
  repeat' (first | with_reducible assumption | with_reducible exact Keeps.refl _ | with_reducible apply coreMod_keeps | with_reducible apply spPlain_keeps | with_reducible apply spPutRaw_keeps | with_reducible apply bump_keeps | with_reducible apply spUncorrectable_keeps | with_reducible apply keeps_ite | simp only [keeps_mk_iff] | intro _ | dsimp only | split)

theorem spReadWords_keeps {s0 x4 : State} (p : Nat) (cls : Nat) (task : Nat) (x3 : List Nat) (h : Keeps s0 x4) : Keeps s0 (spReadWords p cls task x3 x4).2 := by
  induction x3 generalizing p cls task x4 with
  | nil =>
    unfold spReadWords
    repeat' (first | with_reducible assumption | with_reducible exact Keeps.refl _ | apply ih | with_reducible apply spReadWord_keeps | with_reducible apply keeps_ite | with_reducible apply keeps_ite_snd | intro _ | dsimp only | split)
  | cons hd tl ih =>
    unfold spReadWords
    repeat' (first | with_reducible assumption | with_reducible exact Keeps.refl _ | apply ih | with_reducible apply spReadWord_keeps | with_reducible apply keeps_ite | with_reducible apply keeps_ite_snd | intro _ | dsimp only | split)

theorem spReadBytes_keeps {s0 s : State} (p : Nat) (off : Nat) (len : Nat) (cls : Nat) (task : Nat) (h : Keeps s0 s) : Keeps s0 (spReadBytes p off len cls task s).2.2 := by
  unfold spReadBytes
  repeat' (first | with_reducible assumption | with_reducible exact Keeps.refl _ | with_reducible apply spReadWords_keeps | with_reducible apply keeps_ite | with_reducible apply keeps_ite_snd | intro _ | dsimp only | split)

theorem spWriteBytes_keeps {s0 s : State} (p : Nat) (off : Nat) (bs : List Nat) (cls : Nat) (task : Nat) (h : Keeps s0 s) : Keeps s0 (spWriteBytes p off bs cls task s) := by
  unfold spWriteBytes
  repeat' (first | with_reducible assumption | with_reducible exact Keeps.refl _ | with_reducible apply spWriteWord_keeps | with_reducible apply keeps_foldl | with_reducible apply keeps_foldl_snd | with_reducible apply keeps_foldl_fst | with_reducible apply keeps_ite_snd | with_reducible apply keeps_ite | intro _ | dsimp only | split)

theorem spOpWrite_keeps {s0 s : State} (p : Nat) (off : Nat) (bs : List Nat) (cls : Nat) (t : Nat) (unit : Nat) (h : Keeps s0 s) : Keeps s0 (spOpWrite p off bs cls t unit s) := by
  unfold spOpWrite
  repeat' (first | with_reducible assumption | with_reducible exact Keeps.refl _ | with_reducible apply spWrote_keeps | with_reducible apply spWriteBytes_keeps | with_reducible apply keeps_foldl | with_reducible apply keeps_foldl_snd | with_reducible apply keeps_foldl_fst | with_reducible apply keeps_ite | intro _ | dsimp only | split)

theorem spScramble_keeps {s0 s : State} (p : Nat) (off : Nat) (len : Nat) (h : Keeps s0 s) : Keeps s0 (spScramble p off len s) := by
  unfold spScramble
  repeat' (first | with_reducible assumption | with_reducible exact Keeps.refl _ | with_reducible apply freshBlock_keeps | with_reducible apply spWriteBytes_keeps | with_reducible apply keeps_ite_snd | with_reducible apply keeps_ite | intro _ | dsimp only | split)

theorem spPoison_keeps {s0 s : State} (p : Nat) (off : Nat) (len : Nat) (h : Keeps s0 s) : Keeps s0 (spPoison p off len s) := by
  unfold spPoison
  repeat' (first | with_reducible assumption | with_reducible exact Keeps.refl _ | with_reducible apply spPutRaw_keeps | with_reducible apply keeps_foldl | with_reducible apply keeps_foldl_snd | with_reducible apply keeps_foldl_fst | with_reducible apply keeps_ite_snd | with_reducible apply keeps_ite | intro _ | dsimp only | split)

theorem tileSet_keeps {s0 s : State} (p : Nat) (t : Nat) (row : Nat) (col : Nat) (v : Nat) (h : Keeps s0 s) : Keeps s0 (tileSet p t row col v s) := by
  unfold tileSet
  repeat' (first | with_reducible assumption | with_reducible exact Keeps.refl _ | with_reducible apply keeps_ite | simp only [keeps_mk_iff] | intro _ | dsimp only | split)

theorem accSet_keeps {s0 s : State} (p : Nat) (a : Nat) (row : Nat) (col : Nat) (v : Nat) (h : Keeps s0 s) : Keeps s0 (accSet p a row col v s) := by
  unfold accSet
  repeat' (first | with_reducible assumption | with_reducible exact Keeps.refl _ | with_reducible apply keeps_ite | simp only [keeps_mk_iff] | intro _ | dsimp only | split)

theorem shadowSet_keeps {s0 s : State} (p : Nat) (a : Nat) (row : Nat) (col : Nat) (v : Nat) (h : Keeps s0 s) : Keeps s0 (shadowSet p a row col v s) := by
  unfold shadowSet
  repeat' (first | with_reducible assumption | with_reducible exact Keeps.refl _ | with_reducible apply keeps_ite | simp only [keeps_mk_iff] | intro _ | dsimp only | split)

theorem accPut_keeps {s0 s : State} (p : Nat) (a : Nat) (row : Nat) (col : Nat) (v : Nat) (fp : Bool) (h : Keeps s0 s) : Keeps s0 (accPut p a row col v fp s) := by
  unfold accPut
  repeat' (first | with_reducible assumption | with_reducible exact Keeps.refl _ | with_reducible apply shadowSet_keeps | with_reducible apply accSet_keeps | with_reducible apply keeps_ite | intro _ | dsimp only | split)

theorem setTag_keeps {s0 s : State} (p : Nat) (a : Nat) (fp : Bool) (h : Keeps s0 s) : Keeps s0 (setTag p a fp s) := by
  unfold setTag
  repeat' (first | with_reducible assumption | with_reducible exact Keeps.refl _ | with_reducible apply wr_keeps | with_reducible apply keeps_ite | intro _ | dsimp only | split)

theorem setSuspect_keeps {s0 s : State} (p : Nat) (a : Nat) (on0 : Bool) (h : Keeps s0 s) : Keeps s0 (setSuspect p a on0 s) := by
  unfold setSuspect
  repeat' (first | with_reducible assumption | with_reducible exact Keeps.refl _ | with_reducible apply wr_keeps | with_reducible apply keeps_ite | intro _ | dsimp only | split)

theorem descSet_keeps {s0 s : State} (p : Nat) (d : Nat) (k : Nat) (v : Nat) (h : Keeps s0 s) : Keeps s0 (descSet p d k v s) := by
  unfold descSet
  repeat' (first | with_reducible assumption | with_reducible exact Keeps.refl _ | with_reducible apply keeps_ite | simp only [keeps_mk_iff] | intro _ | dsimp only | split)

theorem qMod_keeps {s0 s : State} (p : Nat) (u : QUnit) (n : Nat) (g : QEnt → QEnt) (h : Keeps s0 s) : Keeps s0 (qMod p u n g s) := by
  unfold qMod
  repeat' (first | with_reducible assumption | with_reducible exact Keeps.refl _ | with_reducible apply coreMod_keeps | with_reducible apply keeps_ite | intro _ | dsimp only | split)

theorem qGot_keeps {s0 s : State} (p : Nat) (u : QUnit) (n : Nat) (load : Bool) (w : Nat) (d : Nat) (h : Keeps s0 s) : Keeps s0 (qGot p u n load w d s) := by
  unfold qGot
  repeat' (first | with_reducible assumption | with_reducible exact Keeps.refl _ | with_reducible apply qMod_keeps | with_reducible apply keeps_ite | simp only [keeps_mk_iff] | intro _ | dsimp only | split)

theorem qFree_keeps {s0 s : State} (p : Nat) (u : QUnit) (n : Nat) (h : Keeps s0 s) : Keeps s0 (qFree p u n s) := by
  unfold qFree
  repeat' (first | with_reducible assumption | with_reducible exact Keeps.refl _ | with_reducible apply coreMod_keeps | with_reducible apply keeps_ite | simp only [keeps_mk_iff] | intro _ | dsimp only | split)

end Sys2Proof.Machine
end

