-- ==== Sys2Proof/Laws/KeepsStream.lean ====
section
/-! SUPPORT. What the operations of Machine/Stream.lean keep (Laws/Keeps.lean). -/

namespace Sys2Proof.Machine

set_option linter.unusedTactic false
set_option linter.unreachableTactic false
set_option linter.unusedSimpArgs false

theorem cwr_keeps {s0 s : State} (f : Fld) (g : Nat) (v : Nat) (h : Keeps s0 s) : Keeps s0 (cwr f g v s) := by
  unfold cwr
  repeat' (first | with_reducible assumption | with_reducible exact Keeps.refl _ | with_reducible apply wr_keeps | with_reducible apply keeps_ite | intro _ | dsimp only | split)

theorem cbump_keeps {s0 s : State} (f : Fld) (g : Nat) (h : Keeps s0 s) : Keeps s0 (cbump f g s) := by
  unfold cbump
  repeat' (first | with_reducible assumption | with_reducible exact Keeps.refl _ | with_reducible apply bump_keeps | with_reducible apply keeps_ite | intro _ | dsimp only | split)

theorem ctxMod_keeps {s0 s : State} (g : Nat) (h' : Ctx → Ctx) (h : Keeps s0 s) : Keeps s0 (ctxMod g h' s) := by
  unfold ctxMod
  repeat' (first | with_reducible assumption | with_reducible exact Keeps.refl _ | with_reducible apply keeps_ite | simp only [keeps_mk_iff] | intro _ | dsimp only | split)

theorem tlyPush_keeps {s0 s : State} (k : TPkt) (h : Keeps s0 s) : Keeps s0 (tlyPush k s) := by
  unfold tlyPush
  repeat' (first | with_reducible assumption | with_reducible exact Keeps.refl _ | with_reducible apply keeps_ite | simp only [keeps_mk_iff] | intro _ | dsimp only | split)

theorem atCycle_keeps {s0 s : State} (t : Nat) (h : Keeps s0 s) : Keeps s0 (atCycle t s) := by
  unfold atCycle
  repeat' (first | with_reducible assumption | with_reducible exact Keeps.refl _ | with_reducible apply keeps_ite | simp only [keeps_mk_iff] | intro _ | dsimp only | split)

theorem ctxRestart_keeps {s0 s : State} (g : Nat) (h : Keeps s0 s) : Keeps s0 (ctxRestart g s) := by
  unfold ctxRestart
  repeat' (first | with_reducible assumption | with_reducible exact Keeps.refl _ | with_reducible apply ctxMod_keeps | with_reducible apply cwr_keeps | with_reducible apply keeps_ite | simp only [keeps_mk_iff] | intro _ | dsimp only | split)

theorem armCtx_keeps {s0 s : State} (g : Nat) (h : Keeps s0 s) : Keeps s0 (armCtx g s) := by
  unfold armCtx
  repeat' (first | with_reducible assumption | with_reducible exact Keeps.refl _ | with_reducible apply ctxMod_keeps | with_reducible apply ctxRestart_keeps | with_reducible apply cwr_keeps | with_reducible apply keeps_ite | simp only [keeps_mk_iff] | intro _ | dsimp only | split)

theorem atsInvSend_keeps {s0 s : State}  (h : Keeps s0 s) : Keeps s0 (atsInvSend s) := by
  unfold atsInvSend
  repeat' (first | with_reducible assumption | with_reducible exact Keeps.refl _ | with_reducible apply emit_keeps | with_reducible apply keeps_foldl | with_reducible apply keeps_foldl_snd | with_reducible apply keeps_foldl_fst | with_reducible apply keeps_ite_snd | with_reducible apply keeps_ite | simp only [keeps_mk_iff] | intro _ | dsimp only | split)

theorem fabCancel_keeps {s0 s : State} (p : Xact → Bool) (h : Keeps s0 s) : Keeps s0 (fabCancel p s) := by
  unfold fabCancel
  repeat' (first | with_reducible assumption | with_reducible exact Keeps.refl _ | with_reducible apply atsInvSend_keeps | with_reducible apply keeps_ite | simp only [keeps_mk_iff] | intro _ | dsimp only | split)

theorem ctxShow_keeps {s0 s : State} (g : Nat) (h : Keeps s0 s) : Keeps s0 (ctxShow g s) := by
  unfold ctxShow
  repeat' (first | with_reducible assumption | with_reducible exact Keeps.refl _ | with_reducible apply cwr_keeps | with_reducible apply keeps_ite | intro _ | dsimp only | split)

theorem cancelFrom_keeps {s0 s : State} (g : Nat) (pos : Nat) (h : Keeps s0 s) : Keeps s0 (cancelFrom g pos s) := by
  unfold cancelFrom
  repeat' (first | with_reducible assumption | with_reducible exact Keeps.refl _ | with_reducible apply fabCancel_keeps | with_reducible apply keeps_ite | simp only [keeps_mk_iff] | intro _ | dsimp only | split)

theorem haltCtx_keeps {s0 s : State} (g : Nat) (cause : Nat) (pos : Nat) (h : Keeps s0 s) : Keeps s0 (haltCtx g cause pos s) := by
  unfold haltCtx
  repeat' (first | with_reducible assumption | with_reducible exact Keeps.refl _ | with_reducible apply ctxShow_keeps | with_reducible apply cwr_keeps | with_reducible apply ctxMod_keeps | with_reducible apply cancelFrom_keeps | with_reducible apply keeps_ite | simp only [keeps_mk_iff] | intro _ | dsimp only | split)

theorem haltByCommand_keeps {s0 s : State} (g : Nat) (h : Keeps s0 s) : Keeps s0 (haltByCommand g s) := by
  unfold haltByCommand
  repeat' (first | with_reducible assumption | with_reducible exact Keeps.refl _ | with_reducible apply haltCtx_keeps | with_reducible apply keeps_ite | intro _ | dsimp only | split)

theorem endCheck_keeps {s0 s : State} (g : Nat) (h : Keeps s0 s) : Keeps s0 (endCheck g s) := by
  unfold endCheck
  repeat' (first | with_reducible assumption | with_reducible exact Keeps.refl _ | with_reducible apply cwr_keeps | with_reducible apply keeps_ite | intro _ | dsimp only | split)

theorem resumeCtx_keeps {s0 s : State} (g : Nat) (h : Keeps s0 s) : Keeps s0 (resumeCtx g s) := by
  unfold resumeCtx
  repeat' (first | with_reducible assumption | with_reducible exact Keeps.refl _ | with_reducible apply ctxMod_keeps | with_reducible apply endCheck_keeps | with_reducible apply cwr_keeps | with_reducible apply keeps_ite | simp only [keeps_mk_iff] | intro _ | dsimp only | split)

theorem setBuf_keeps {s0 s : State} (g : Nat) (b : Nat) (v : Nat) (h : Keeps s0 s) : Keeps s0 (setBuf g b v s) := by
  unfold setBuf
  repeat' (first | with_reducible assumption | with_reducible exact Keeps.refl _ | with_reducible apply cwr_keeps | with_reducible apply keeps_ite | intro _ | dsimp only | split)

theorem releaseCtx_keeps {s0 s : State} (g : Nat) (h : Keeps s0 s) : Keeps s0 (releaseCtx g s) := by
  unfold releaseCtx
  repeat' (first | with_reducible assumption | with_reducible exact Keeps.refl _ | with_reducible apply ctxMod_keeps | with_reducible apply setBuf_keeps | with_reducible apply endCheck_keeps | with_reducible apply keeps_ite | simp only [keeps_mk_iff] | intro _ | dsimp only | split)

theorem ctxSignal_keeps {s0 s : State} (g : Nat) (h : Keeps s0 s) : Keeps s0 (ctxSignal g s) := by
  unfold ctxSignal
  repeat' (first | with_reducible assumption | with_reducible exact Keeps.refl _ | with_reducible apply tlyPush_keeps | with_reducible apply keeps_ite | simp only [keeps_mk_iff] | intro _ | dsimp only | split)

theorem chunkAdvance_keeps {s0 x2 : State} (g : Nat) (x1 : Nat) (h : Keeps s0 x2) : Keeps s0 (chunkAdvance g x1 x2) := by
  induction x1 generalizing g x2 with
  | zero =>
    unfold chunkAdvance
    repeat' (first | with_reducible assumption | with_reducible exact Keeps.refl _ | apply ih | with_reducible apply setBuf_keeps | with_reducible apply endCheck_keeps | with_reducible apply ctxSignal_keeps | with_reducible apply cwr_keeps | with_reducible apply keeps_ite | intro _ | dsimp only | split)
  | succ k ih =>
    unfold chunkAdvance
    repeat' (first | with_reducible assumption | with_reducible exact Keeps.refl _ | apply ih | with_reducible apply setBuf_keeps | with_reducible apply endCheck_keeps | with_reducible apply ctxSignal_keeps | with_reducible apply cwr_keeps | with_reducible apply keeps_ite | intro _ | dsimp only | split)

theorem ctxProgress_keeps {s0 s : State} (g : Nat) (h : Keeps s0 s) : Keeps s0 (ctxProgress g s) := by
  unfold ctxProgress
  repeat' (first | with_reducible assumption | with_reducible exact Keeps.refl _ | with_reducible apply ctxShow_keeps | with_reducible apply chunkAdvance_keeps | with_reducible apply keeps_ite | intro _ | dsimp only | split)

theorem rearmTake_keeps {s0 s : State} (f : Fld) (g : Nat) (h : Keeps s0 s) : Keeps s0 (rearmTake f g s) := by
  unfold rearmTake
  repeat' (first | with_reducible assumption | with_reducible exact Keeps.refl _ | with_reducible apply keeps_ite | simp only [keeps_mk_iff] | intro _ | dsimp only | split)

theorem rearmRequest_keeps {s0 s : State} (g : Nat) (h : Keeps s0 s) : Keeps s0 (rearmRequest g s) := by
  unfold rearmRequest
  repeat' (first | with_reducible assumption | with_reducible exact Keeps.refl _ | with_reducible apply cwr_keeps | with_reducible apply cbump_keeps | with_reducible apply keeps_ite | intro _ | dsimp only | split)

theorem rearmEffect_keeps {s0 s : State} (g : Nat) (h : Keeps s0 s) : Keeps s0 (rearmEffect g s) := by
  unfold rearmEffect
  repeat' (first | with_reducible assumption | with_reducible exact Keeps.refl _ | with_reducible apply rearmTake_keeps | with_reducible apply ctxRestart_keeps | with_reducible apply cwr_keeps | with_reducible apply keeps_ite | intro _ | dsimp only | split)

theorem streamFault_keeps {s0 s : State} (g : Nat) (va : Nat) (code : Nat) (status : Nat) (len : Nat) (halted : Bool) (h : Keeps s0 s) : Keeps s0 (streamFault g va code status len halted s) := by
  unfold streamFault
  repeat' (first | with_reducible assumption | with_reducible exact Keeps.refl _ | with_reducible apply epochFailure_keeps | with_reducible apply faultRecord_keeps | with_reducible apply ctxMod_keeps | with_reducible apply cbump_keeps | with_reducible apply keeps_ite | simp only [keeps_mk_iff] | intro _ | dsimp only | split)

end Sys2Proof.Machine
end

