-- ==== Sys2Proof/Laws/KeepsRegather.lean ====
section
/-! SUPPORT. What the operations of Machine/Regather.lean keep (Laws/Keeps.lean). -/

namespace Sys2Proof.Machine

set_option linter.unusedTactic false
set_option linter.unreachableTactic false
set_option linter.unusedSimpArgs false

theorem meshMod_keeps {s0 s : State} (n : Nat) (g : MeshP → MeshP) (h : Keeps s0 s) : Keeps s0 (meshMod n g s) := by
  unfold meshMod
  repeat' (first | with_reducible assumption | with_reducible exact Keeps.refl _ | with_reducible apply keeps_ite | simp only [keeps_mk_iff] | intro _ | dsimp only | split)

theorem haltTasks_keeps {s0 s : State} (p : Nat) (reason : Nat) (h : Keeps s0 s) : Keeps s0 (haltTasks p reason s) := by
  unfold haltTasks
  repeat' (first | with_reducible assumption | with_reducible exact Keeps.refl _ | with_reducible apply haltTask_keeps | with_reducible apply keeps_foldl | with_reducible apply keeps_foldl_snd | with_reducible apply keeps_foldl_fst | with_reducible apply keeps_ite_snd | with_reducible apply keeps_ite | intro _ | dsimp only | split)

theorem dropOps_keeps {s0 s : State} (p : Nat) (h : Keeps s0 s) : Keeps s0 (dropOps p s) := by
  unfold dropOps
  repeat' (first | with_reducible assumption | with_reducible exact Keeps.refl _ | with_reducible apply wr_keeps | with_reducible apply coreMod_keeps | with_reducible apply keeps_ite | simp only [keeps_mk_iff] | intro _ | dsimp only | split)

theorem stopCtxs_keeps {s0 s : State} (n : Nat) (h : Keeps s0 s) : Keeps s0 (stopCtxs n s) := by
  unfold stopCtxs
  repeat' (first | with_reducible assumption | with_reducible exact Keeps.refl _ | with_reducible apply ctxShow_keeps | with_reducible apply ctxMod_keeps | with_reducible apply fabCancel_keeps | with_reducible apply keeps_foldl | with_reducible apply keeps_foldl_snd | with_reducible apply keeps_foldl_fst | with_reducible apply keeps_ite | simp only [keeps_mk_iff] | with_reducible apply keeps_ite_snd | intro _ | dsimp only | split)

theorem dropStreamAccs_keeps {s0 s : State} (p : Nat) (h : Keeps s0 s) : Keeps s0 (dropStreamAccs p s) := by
  unfold dropStreamAccs
  repeat' (first | with_reducible assumption | with_reducible exact Keeps.refl _ | with_reducible apply coreMod_keeps | with_reducible apply keeps_ite | simp only [keeps_mk_iff] | intro _ | dsimp only | split)

theorem dropReads_keeps {s0 s : State} (n : Nat) (h : Keeps s0 s) : Keeps s0 (dropReads n s) := by
  unfold dropReads
  repeat' (first | with_reducible assumption | with_reducible exact Keeps.refl _ | with_reducible apply dropStreamAccs_keeps | with_reducible apply atsInvSend_keeps | with_reducible apply keeps_foldl | with_reducible apply keeps_foldl_snd | with_reducible apply keeps_foldl_fst | with_reducible apply keeps_ite | simp only [keeps_mk_iff] | with_reducible apply wr_keeps | intro _ | dsimp only | split)

theorem dropWaits_keeps {s0 s : State} (n : Nat) (h : Keeps s0 s) : Keeps s0 (dropWaits n s) := by
  unfold dropWaits
  repeat' (first | with_reducible assumption | with_reducible exact Keeps.refl _ | with_reducible apply keeps_ite | simp only [keeps_mk_iff] | intro _ | dsimp only | split)

theorem dropRets_keeps {s0 s : State} (n : Nat) (h : Keeps s0 s) : Keeps s0 (dropRets n s) := by
  unfold dropRets
  repeat' (first | with_reducible assumption | with_reducible exact Keeps.refl _ | with_reducible apply keeps_ite | simp only [keeps_mk_iff] | intro _ | dsimp only | split)

theorem stopWork_keeps {s0 s : State} (n : Nat) (reason : Nat) (h : Keeps s0 s) : Keeps s0 (stopWork n reason s) := by
  unfold stopWork
  repeat' (first | with_reducible assumption | with_reducible exact Keeps.refl _ | with_reducible apply stopCtxs_keeps | with_reducible apply dropWaits_keeps | with_reducible apply dropOps_keeps | with_reducible apply haltTasks_keeps | with_reducible apply dropRets_keeps | with_reducible apply keeps_foldl | with_reducible apply keeps_foldl_snd | with_reducible apply keeps_foldl_fst | with_reducible apply keeps_ite_snd | with_reducible apply keeps_ite | intro _ | dsimp only | split)

theorem failoverNotice_keeps {s0 s : State} (n : Nat) (h : Keeps s0 s) : Keeps s0 (failoverNotice n s) := by
  unfold failoverNotice
  repeat' (first | with_reducible assumption | with_reducible exact Keeps.refl _ | with_reducible apply pdkMod_keeps | with_reducible apply emit_keeps | with_reducible apply keeps_ite | simp only [keeps_mk_iff] | intro _ | dsimp only | split)

theorem standbyFails_keeps {s0 s : State} (n : Nat) (h : Keeps s0 s) : Keeps s0 (standbyFails n s) := by
  unfold standbyFails
  repeat' (first | with_reducible assumption | with_reducible exact Keeps.refl _ | with_reducible apply wr_keeps | with_reducible apply keeps_ite | intro _ | dsimp only | split)

theorem dropHeld_keeps {s0 s : State} (n : Nat) (h : Keeps s0 s) : Keeps s0 (dropHeld n s) := by
  unfold dropHeld
  repeat' (first | with_reducible assumption | with_reducible exact Keeps.refl _ | with_reducible apply wr_keeps | with_reducible apply keeps_ite | simp only [keeps_mk_iff] | intro _ | dsimp only | split)

theorem ringsIdle_keeps {s0 s : State} (f : Nat) (h : Keeps s0 s) : Keeps s0 (ringsIdle f s) := by
  unfold ringsIdle
  repeat' (first | with_reducible assumption | with_reducible exact Keeps.refl _ | with_reducible apply wr_keeps | with_reducible apply keeps_iter | with_reducible apply keeps_ite | simp only [keeps_mk_iff] | intro _ | dsimp only | split)

theorem dropHostWork_keeps {s0 s : State} (f : Nat) (h : Keeps s0 s) : Keeps s0 (dropHostWork f s) := by
  unfold dropHostWork
  repeat' (first | with_reducible assumption | with_reducible exact Keeps.refl _ | with_reducible apply ringsIdle_keeps | with_reducible apply keeps_ite | simp only [keeps_mk_iff] | intro _ | dsimp only | split)

theorem foldMod_keeps {s0 s : State} (n : Nat) (g : FoldJ → FoldJ) (h : Keeps s0 s) : Keeps s0 (foldMod n g s) := by
  unfold foldMod
  repeat' (first | with_reducible assumption | with_reducible exact Keeps.refl _ | with_reducible apply keeps_ite | simp only [keeps_mk_iff] | intro _ | dsimp only | split)

theorem foldShow_keeps {s0 s : State} (n : Nat) (h : Keeps s0 s) : Keeps s0 (foldShow n s) := by
  unfold foldShow
  repeat' (first | with_reducible assumption | with_reducible exact Keeps.refl _ | with_reducible apply wr_keeps | with_reducible apply keeps_ite | intro _ | dsimp only | split)

theorem foldAbandon_keeps {s0 s : State} (n : Nat) (h : Keeps s0 s) : Keeps s0 (foldAbandon n s) := by
  unfold foldAbandon
  repeat' (first | with_reducible assumption | with_reducible exact Keeps.refl _ | with_reducible apply foldShow_keeps | with_reducible apply foldMod_keeps | with_reducible apply pdkMod_keeps | with_reducible apply unschedule_keeps | with_reducible apply keeps_ite | simp only [keeps_mk_iff] | intro _ | dsimp only | split)

theorem shareDiscard_keeps {s0 s : State} (n : Nat) (h : Keeps s0 s) : Keeps s0 (shareDiscard n s) := by
  unfold shareDiscard
  repeat' (first | with_reducible assumption | with_reducible exact Keeps.refl _ | with_reducible apply unschedule_keeps | with_reducible apply keeps_ite | intro _ | dsimp only | split)

theorem discardPending_keeps {s0 s : State} (own : Nat → Bool) (h : Keeps s0 s) : Keeps s0 (discardPending own s) := by
  unfold discardPending
  repeat' (first | with_reducible assumption | with_reducible exact Keeps.refl _ | with_reducible apply keeps_foldl | with_reducible apply keeps_foldl_snd | with_reducible apply keeps_foldl_fst | with_reducible apply keeps_ite_snd | with_reducible apply keeps_ite | simp only [keeps_mk_iff] | with_reducible apply keeps_mk_regs | with_reducible apply mapWf_set | with_reducible apply mapWf_filter | with_reducible apply mapWf_rebuild | with_reducible apply mapWf_clear | with_reducible apply regsWf_out | intro _ | dsimp only | split)

theorem gatesClose_keeps {s0 s : State} (n : Nat) (h : Keeps s0 s) : Keeps s0 (gatesClose n s) := by
  unfold gatesClose
  repeat' (first | with_reducible assumption | with_reducible exact Keeps.refl _ | with_reducible apply keeps_ite | simp only [keeps_mk_iff] | intro _ | dsimp only | split)

theorem gatesDrained_keeps {s0 s : State} (n : Nat) (h : Keeps s0 s) : Keeps s0 (gatesDrained n s) := by
  unfold gatesDrained
  repeat' (first | with_reducible assumption | with_reducible exact Keeps.refl _ | with_reducible apply keeps_ite | simp only [keeps_mk_iff] | intro _ | dsimp only | split)

theorem regatherBegin_keeps {s0 s : State} (n : Nat) (cause : Nat) (h : Keeps s0 s) : Keeps s0 (regatherBegin n cause s) := by
  unfold regatherBegin
  repeat' (first | with_reducible assumption | with_reducible exact Keeps.refl _ | with_reducible apply gatesClose_keeps | with_reducible apply discardPending_keeps | with_reducible apply shareDiscard_keeps | with_reducible apply foldAbandon_keeps | with_reducible apply wr_keeps | with_reducible apply bump_keeps | with_reducible apply pdkMod_keeps | with_reducible apply faultRecord_keeps | with_reducible apply pdkNotice_keeps | with_reducible apply flockEvent_keeps | with_reducible apply countLife_keeps | with_reducible apply dropHeld_keeps | with_reducible apply standbyFails_keeps | with_reducible apply failoverNotice_keeps | with_reducible apply meshMod_keeps | with_reducible apply dropHostWork_keeps | with_reducible apply stopWork_keeps | with_reducible apply keeps_ite | simp only [keeps_mk_iff] | intro _ | dsimp only | split)

theorem regatherStart_keeps {s0 s : State} (n : Nat) (cause : Nat) (h : Keeps s0 s) : Keeps s0 (regatherStart n cause s) := by
  unfold regatherStart
  repeat' (first | with_reducible assumption | with_reducible exact Keeps.refl _ | with_reducible apply wr_keeps | with_reducible apply pdkMod_keeps | with_reducible apply regatherBegin_keeps | with_reducible apply keeps_ite | simp only [keeps_mk_iff] | intro _ | dsimp only | split)

end Sys2Proof.Machine
end

