-- ==== Sys2Proof/Laws/KeepsOutputs.lean ====
section
/-! SUPPORT. What the operations of Machine/Outputs.lean keep (Laws/Keeps.lean). -/

namespace Sys2Proof.Machine

set_option linter.unusedTactic false
set_option linter.unreachableTactic false
set_option linter.unusedSimpArgs false

theorem holdShow_keeps {s0 s : State} (n : Nat) (h : Keeps s0 s) : Keeps s0 (holdShow n s) := by
  unfold holdShow
  repeat' (first | with_reducible assumption | with_reducible exact Keeps.refl _ | with_reducible apply wr_keeps | with_reducible apply keeps_ite | intro _ | dsimp only | split)

theorem holdOut_keeps {s0 s : State} (n : Nat) (kind : Nat) (args : List Nat) (data : List Nat) (space : Nat) (h : Keeps s0 s) : Keeps s0 (holdOut n kind args data space s) := by
  unfold holdOut
  repeat' (first | with_reducible assumption | with_reducible exact Keeps.refl _ | with_reducible apply holdShow_keeps | with_reducible apply keeps_ite | simp only [keeps_mk_iff] | intro _ | dsimp only | split)

theorem holdStuck_keeps {s0 s : State} (n : Nat) (h : Keeps s0 s) : Keeps s0 (holdStuck n s) := by
  unfold holdStuck
  repeat' (first | with_reducible assumption | with_reducible exact Keeps.refl _ | with_reducible apply regatherStart_keeps | with_reducible apply keeps_ite | intro _ | dsimp only | split)

theorem rtSet_keeps {s0 s : State} (f : Fld) (r : Nat) (v : Nat) (h : Keeps s0 s) : Keeps s0 (rtSet f r v s) := by
  unfold rtSet
  repeat' (first | with_reducible assumption | with_reducible exact Keeps.refl _ | with_reducible apply wr_keeps | with_reducible apply keeps_ite | intro _ | dsimp only | split)

theorem ptSet_keeps {s0 s : State} (f : Fld) (j : Nat) (v : Nat) (h : Keeps s0 s) : Keeps s0 (ptSet f j v s) := by
  unfold ptSet
  repeat' (first | with_reducible assumption | with_reducible exact Keeps.refl _ | with_reducible apply wr_keeps | with_reducible apply keeps_ite | intro _ | dsimp only | split)

theorem routeShow_keeps {s0 s : State} (r : Nat) (h : Keeps s0 s) : Keeps s0 (routeShow r s) := by
  unfold routeShow
  repeat' (first | with_reducible assumption | with_reducible exact Keeps.refl _ | with_reducible apply rtSet_keeps | with_reducible apply keeps_ite | intro _ | dsimp only | split)

theorem sendData_keeps {s0 s : State} (k : LPkt) (j : Nat) (h : Keeps s0 s) : Keeps s0 (sendData k j s) := by
  unfold sendData
  repeat' (first | with_reducible assumption | with_reducible exact Keeps.refl _ | with_reducible apply bump_keeps | with_reducible apply emit_keeps | with_reducible apply keeps_ite | intro _ | dsimp only | split)

theorem routePump_keeps {s0 x2 : State} (r : Nat) (x1 : Nat) (h : Keeps s0 x2) : Keeps s0 (routePump r x1 x2) := by
  induction x1 generalizing r x2 with
  | zero =>
    unfold routePump
    repeat' (first | with_reducible assumption | with_reducible exact Keeps.refl _ | apply ih | with_reducible apply sendData_keeps | with_reducible apply routeShow_keeps | with_reducible apply rtSet_keeps | with_reducible apply keeps_ite | simp only [keeps_mk_iff] | intro _ | dsimp only | split)
  | succ k ih =>
    unfold routePump
    repeat' (first | with_reducible assumption | with_reducible exact Keeps.refl _ | apply ih | with_reducible apply sendData_keeps | with_reducible apply routeShow_keeps | with_reducible apply rtSet_keeps | with_reducible apply keeps_ite | simp only [keeps_mk_iff] | intro _ | dsimp only | split)

theorem ltkSend_keeps {s0 s : State} (r : Nat) (op : Nat) (body : List Nat) (data : List Nat) (ret : List Nat) (h : Keeps s0 s) : Keeps s0 (ltkSend r op body data ret s) := by
  unfold ltkSend
  repeat' (first | with_reducible assumption | with_reducible exact Keeps.refl _ | with_reducible apply routePump_keeps | with_reducible apply keeps_ite | simp only [keeps_mk_iff] | intro _ | dsimp only | split)

theorem ltkAnswer_keeps {s0 s : State} (r : Nat) (typ : Nat) (seq : Nat) (status : Nat) (hold : Nat) (h : Keeps s0 s) : Keeps s0 (ltkAnswer r typ seq status hold s) := by
  unfold ltkAnswer
  repeat' (first | with_reducible assumption | with_reducible exact Keeps.refl _ | with_reducible apply bump_keeps | with_reducible apply emit_keeps | with_reducible apply keeps_ite | intro _ | dsimp only | split)

end Sys2Proof.Machine
end

