-- ==== Sys2Proof/Laws/KeepsFabric.lean ====
section
/-! SUPPORT. What the operations of Machine/Fabric.lean keep (Laws/Keeps.lean). -/

namespace Sys2Proof.Machine

set_option linter.unusedTactic false
set_option linter.unreachableTactic false
set_option linter.unusedSimpArgs false

theorem fabSet_keeps {s0 s : State} (i : Nat) (x : Xact) (h : Keeps s0 s) : Keeps s0 (fabSet i x s) := by
  unfold fabSet
  repeat' (first | with_reducible assumption | with_reducible exact Keeps.refl _ | with_reducible apply keeps_ite | simp only [keeps_mk_iff] | intro _ | dsimp only | split)

theorem fabDrop_keeps {s0 s : State} (i : Nat) (h : Keeps s0 s) : Keeps s0 (fabDrop i s) := by
  unfold fabDrop
  repeat' (first | with_reducible assumption | with_reducible exact Keeps.refl _ | with_reducible apply atsInvSend_keeps | with_reducible apply keeps_ite | simp only [keeps_mk_iff] | intro _ | dsimp only | split)

theorem ltkRefuse_keeps {s0 s : State} (r : Nat) (status : Nat) (h : Keeps s0 s) : Keeps s0 (ltkRefuse r status s) := by
  unfold ltkRefuse
  repeat' (first | with_reducible assumption | with_reducible exact Keeps.refl _ | with_reducible apply ltkAnswer_keeps | with_reducible apply rtSet_keeps | with_reducible apply keeps_ite | intro _ | dsimp only | split)

theorem ltkApplied_keeps {s0 s : State} (r : Nat) (h : Keeps s0 s) : Keeps s0 (ltkApplied r s) := by
  unfold ltkApplied
  repeat' (first | with_reducible assumption | with_reducible exact Keeps.refl _ | with_reducible apply ltkAnswer_keeps | with_reducible apply rtSet_keeps | with_reducible apply keeps_ite | intro _ | dsimp only | split)

theorem sinkMod_keeps {s0 s : State} (n : Nat) (g : Sink → Sink) (h : Keeps s0 s) : Keeps s0 (sinkMod n g s) := by
  unfold sinkMod
  repeat' (first | with_reducible assumption | with_reducible exact Keeps.refl _ | with_reducible apply keeps_ite | simp only [keeps_mk_iff] | intro _ | dsimp only | split)

theorem sinkPump_keeps {s0 s : State} (n : Nat) (h : Keeps s0 s) : Keeps s0 (sinkPump n s) := by
  unfold sinkPump
  repeat' (first | with_reducible assumption | with_reducible exact Keeps.refl _ | with_reducible apply sinkMod_keeps | with_reducible apply keeps_ite | simp only [keeps_mk_iff] | intro _ | dsimp only | split)

theorem sinkDone_keeps {s0 s : State} (n : Nat) (kind : Nat) (h : Keeps s0 s) : Keeps s0 (sinkDone n kind s) := by
  unfold sinkDone
  repeat' (first | with_reducible assumption | with_reducible exact Keeps.refl _ | with_reducible apply wr_keeps | with_reducible apply raiseSource_keeps | with_reducible apply sinkPump_keeps | with_reducible apply keeps_ite | intro _ | dsimp only | split)

theorem barComplete_keeps {s0 s : State} (f : Nat) (tag : Nat) (a : Nat) (data : List Nat) (bad : List Bool) (h : Keeps s0 s) : Keeps s0 (barComplete f tag a data bad s) := by
  unfold barComplete
  repeat' (first | with_reducible assumption | with_reducible exact Keeps.refl _ | with_reducible apply emit_keeps | with_reducible apply keeps_foldl | with_reducible apply keeps_foldl_snd | with_reducible apply keeps_foldl_fst | with_reducible apply keeps_ite_snd | with_reducible apply keeps_ite | intro _ | dsimp only | split)

theorem fabAnswered_keeps {s0 s : State} (i : Nat) (x : Xact) (h : Keeps s0 s) : Keeps s0 (fabAnswered i x s) := by
  unfold fabAnswered
  repeat' (first | with_reducible assumption | with_reducible exact Keeps.refl _ | with_reducible apply atsInvSend_keeps | with_reducible apply fabSet_keeps | with_reducible apply keeps_ite | simp only [keeps_mk_iff] | intro _ | dsimp only | split)

theorem fabAnswer_keeps {s0 s : State} (i : Nat) (x : Xact) (status : Nat) (data : List Nat) (bad : List Bool) (h : Keeps s0 s) : Keeps s0 (fabAnswer i x status data bad s) := by
  unfold fabAnswer
  repeat' (first | with_reducible assumption | with_reducible exact Keeps.refl _ | with_reducible apply fabAnswered_keeps | with_reducible apply fabDrop_keeps | with_reducible apply bump_keeps | with_reducible apply aerAdvisory_keeps | with_reducible apply emit_keeps | with_reducible apply aerUncorr_keeps | with_reducible apply barComplete_keeps | with_reducible apply ltkApplied_keeps | with_reducible apply ltkRefuse_keeps | with_reducible apply sinkDone_keeps | with_reducible apply keeps_ite | simp only [keeps_mk_iff] | with_reducible apply wr_keeps | with_reducible apply fabSet_keeps | intro _ | dsimp only | split)

theorem tcPut_keeps {s0 s : State} (die : Nat) (root : Nat) (l : Nat) (va : Nat) (e : Nat) (h : Keeps s0 s) : Keeps s0 (tcPut die root l va e s) := by
  unfold tcPut
  repeat' (first | with_reducible assumption | with_reducible exact Keeps.refl _ | with_reducible apply drawFree_keeps | with_reducible apply keeps_ite | simp only [keeps_mk_iff] | intro _ | dsimp only | split)

theorem walkFrom_keeps {s0 x7 : State} (die : Nat) (root : Nat) (va : Nat) (x3 : Nat) (x4 : Nat) (x5 : Nat) (x6 : List (Nat × Nat)) (h : Keeps s0 x7) : Keeps s0 (walkFrom die root va x3 x4 x5 x6 x7).2 := by
  induction x3 generalizing die root va x4 x5 x6 x7 with
  | zero =>
    unfold walkFrom
    repeat' (first | with_reducible assumption | with_reducible exact Keeps.refl _ | apply ih | with_reducible apply readLine_keeps | with_reducible apply keeps_ite | with_reducible apply keeps_ite_snd | intro _ | dsimp only | split)
  | succ k ih =>
    unfold walkFrom
    repeat' (first | with_reducible assumption | with_reducible exact Keeps.refl _ | apply ih | with_reducible apply readLine_keeps | with_reducible apply keeps_ite | with_reducible apply keeps_ite_snd | intro _ | dsimp only | split)

theorem walkLeaf_keeps {s0 s : State} (die : Nat) (root : Nat) (va : Nat) (h : Keeps s0 s) : Keeps s0 (walkLeaf die root va s).2 := by
  unfold walkLeaf
  repeat' (first | with_reducible assumption | with_reducible exact Keeps.refl _ | with_reducible apply bump_keeps | with_reducible apply walkFrom_keeps | with_reducible apply keeps_ite | with_reducible apply keeps_ite_snd | intro _ | dsimp only | split)

theorem translate_keeps {s0 s : State} (die : Nat) (root : Nat) (va : Nat) (write : Bool) (h : Keeps s0 s) : Keeps s0 (translate die root va write s).2 := by
  unfold translate
  repeat' (first | with_reducible assumption | with_reducible exact Keeps.refl _ | with_reducible apply tcPut_keeps | with_reducible apply walkLeaf_keeps | with_reducible apply keeps_foldl | with_reducible apply keeps_foldl_snd | with_reducible apply keeps_foldl_fst | with_reducible apply keeps_ite_snd | with_reducible apply keeps_ite | with_reducible apply keeps_ite_snd | intro _ | dsimp only | split)

theorem xlateFault_keeps {s0 s : State} (i : Nat) (x : Xact) (code : Nat) (waitPage : List Nat) (h : Keeps s0 s) : Keeps s0 (xlateFault i x code waitPage s) := by
  unfold xlateFault
  repeat' (first | with_reducible assumption | with_reducible exact Keeps.refl _ | with_reducible apply bump_keeps | with_reducible apply streamFault_keeps | with_reducible apply ctxMod_keeps | with_reducible apply haltCtx_keeps | with_reducible apply fabDrop_keeps | with_reducible apply faultRecord_keeps | with_reducible apply wr_keeps | with_reducible apply fabSet_keeps | with_reducible apply ltkRefuse_keeps | with_reducible apply keeps_ite | simp only [keeps_mk_iff] | intro _ | dsimp only | split)

theorem hostTranslate_keeps {s0 s : State} (i : Nat) (x : Xact) (a : Nat) (h : Keeps s0 s) : Keeps s0 (hostTranslate i x a s) := by
  unfold hostTranslate
  repeat' (first | with_reducible assumption | with_reducible exact Keeps.refl _ | with_reducible apply xlateFault_keeps | with_reducible apply fabSet_keeps | with_reducible apply emit_keeps | with_reducible apply keeps_ite | simp only [keeps_mk_iff] | with_reducible apply wr_keeps | intro _ | dsimp only | split)

theorem pageAsk_keeps {s0 s : State} (pasid : Nat) (page : Nat) (w : Bool) (h : Keeps s0 s) : Keeps s0 (pageAsk pasid page w s) := by
  unfold pageAsk
  repeat' (first | with_reducible assumption | with_reducible exact Keeps.refl _ | with_reducible apply wr_keeps | with_reducible apply keeps_ite | simp only [keeps_mk_iff] | intro _ | dsimp only | split)

theorem leafUse_keeps {s0 s : State} (i : Nat) (x : Xact) (l : Nat) (e : Nat) (h : Keeps s0 s) : Keeps s0 (leafUse i x l e s) := by
  unfold leafUse
  repeat' (first | with_reducible assumption | with_reducible exact Keeps.refl _ | with_reducible apply xlateFault_keeps | with_reducible apply tcPut_keeps | with_reducible apply hostTranslate_keeps | with_reducible apply fabSet_keeps | with_reducible apply keeps_foldl | with_reducible apply keeps_foldl_snd | with_reducible apply keeps_foldl_fst | with_reducible apply keeps_ite_snd | with_reducible apply keeps_ite | simp only [keeps_mk_iff] | intro _ | dsimp only | split)

theorem walkGo_keeps {s0 x4 : State} (i : Nat) (x1 : Nat) (x2 : Xact) (x3 : Nat) (h : Keeps s0 x4) : Keeps s0 (walkGo i x1 x2 x3 x4) := by
  induction x1 generalizing i x2 x3 x4 with
  | zero =>
    unfold walkGo
    repeat' (first | with_reducible assumption | with_reducible exact Keeps.refl _ | with_reducible apply xlateFault_keeps | with_reducible apply fabSet_keeps | with_reducible apply leafUse_keeps | with_reducible apply keeps_ite | simp only [keeps_mk_iff] | intro _ | dsimp only | split)
  | succ n ih =>
    unfold walkGo
    repeat' (first | with_reducible assumption | with_reducible exact Keeps.refl _ | apply ih | with_reducible apply xlateFault_keeps | with_reducible apply fabSet_keeps | with_reducible apply leafUse_keeps | with_reducible apply keeps_ite | simp only [keeps_mk_iff] | intro _ | dsimp only | split)

theorem walkGot_keeps {s0 s : State} (i : Nat) (x : Xact) (bad : Bool) (e : Nat) (h : Keeps s0 s) : Keeps s0 (walkGot i x bad e s) := by
  unfold walkGot
  repeat' (first | with_reducible assumption | with_reducible exact Keeps.refl _ | with_reducible apply fabSet_keeps | with_reducible apply xlateFault_keeps | with_reducible apply tablePoison_keeps | with_reducible apply leafUse_keeps | with_reducible apply walkGo_keeps | with_reducible apply keeps_ite | simp only [keeps_mk_iff] | intro _ | dsimp only | split)

theorem farWindow_keeps {s0 s : State} (i : Nat) (n : Nat) (r : Nat) (x : Xact) (h : Keeps s0 s) : Keeps s0 (farWindow i n r x s) := by
  unfold farWindow
  repeat' (first | with_reducible assumption | with_reducible exact Keeps.refl _ | with_reducible apply holdOut_keeps | with_reducible apply fabAnswered_keeps | with_reducible apply holdStuck_keeps | with_reducible apply ltkSend_keeps | with_reducible apply fabSet_keeps | with_reducible apply keeps_ite | simp only [keeps_mk_iff] | intro _ | dsimp only | split)

theorem walkBegin_keeps {s0 s : State} (i : Nat) (x : Xact) (h : Keeps s0 s) : Keeps s0 (walkBegin i x s) := by
  unfold walkBegin
  repeat' (first | with_reducible assumption | with_reducible exact Keeps.refl _ | with_reducible apply leafUse_keeps | with_reducible apply bump_keeps | with_reducible apply xlateFault_keeps | with_reducible apply walkGo_keeps | with_reducible apply keeps_ite | simp only [keeps_mk_iff] | intro _ | dsimp only | split)

theorem execTranslationWalk_keeps {s0 s : State} (i : Nat) (h : Keeps s0 s) : KeepsR s0 (execTranslationWalk i s) := by
  unfold execTranslationWalk
  repeat' (first | with_reducible assumption | with_reducible exact Keeps.refl _ | with_reducible apply farWindow_keeps | with_reducible apply walkBegin_keeps | with_reducible apply keepsR_next | with_reducible apply keeps_ite | with_reducible apply keepsR_ite | with_reducible apply keeps_ite_st | simp only [keeps_mk_iff] | with_reducible apply wr_keeps | with_reducible apply xlateFault_keeps | with_reducible apply translate_keeps | with_reducible apply fabSet_keeps | with_reducible apply hostTranslate_keeps | intro _ | dsimp only | split)

theorem atsPut_keeps {s0 s : State} (e : AtsEnt) (h : Keeps s0 s) : Keeps s0 (atsPut e s) := by
  unfold atsPut
  repeat' (first | with_reducible assumption | with_reducible exact Keeps.refl _ | with_reducible apply drawFree_keeps | with_reducible apply keeps_ite_snd | with_reducible apply keeps_ite | simp only [keeps_mk_iff] | intro _ | dsimp only | split)

theorem execTranslationCompletion_keeps {s0 s : State} (i : Nat) (kind : Nat) (ta : Nat) (size : Nat) (r : Bool) (w : Bool) (h : Keeps s0 s) : KeepsR s0 (execTranslationCompletion i kind ta size r w s) := by
  unfold execTranslationCompletion
  repeat' (first | with_reducible assumption | with_reducible exact Keeps.refl _ | with_reducible apply xlateFault_keeps | with_reducible apply aerUncorr_keeps | with_reducible apply fabSet_keeps | with_reducible apply atsPut_keeps | with_reducible apply pageAsk_keeps | with_reducible apply keepsR_next | with_reducible apply keeps_ite | with_reducible apply keepsR_ite | with_reducible apply keeps_ite_st | simp only [keeps_mk_iff] | with_reducible apply wr_keeps | intro _ | dsimp only | split)

theorem pagesShow_keeps {s0 s : State}  (h : Keeps s0 s) : Keeps s0 (pagesShow s) := by
  unfold pagesShow
  repeat' (first | with_reducible assumption | with_reducible exact Keeps.refl _ | with_reducible apply wr_keeps | with_reducible apply keeps_ite | intro _ | dsimp only | split)

theorem execPageRequest_keeps {s0 s : State}  (h : Keeps s0 s) : KeepsR s0 (execPageRequest s) := by
  unfold execPageRequest
  repeat' (first | with_reducible assumption | with_reducible exact Keeps.refl _ | with_reducible apply wr_keeps | with_reducible apply emit_keeps | with_reducible apply pagesShow_keeps | with_reducible apply keepsR_next | with_reducible apply keeps_ite | with_reducible apply keepsR_ite | simp only [keeps_mk_iff] | intro _ | dsimp only | split)

theorem pageAnswer_keeps {s0 s : State} (ok : Bool) (g : Nat) (h : Keeps s0 s) : Keeps s0 (pageAnswer ok g s) := by
  unfold pageAnswer
  repeat' (first | with_reducible assumption | with_reducible exact Keeps.refl _ | with_reducible apply ctxMod_keeps | with_reducible apply resumeCtx_keeps | with_reducible apply streamFault_keeps | with_reducible apply keeps_ite | simp only [keeps_mk_iff] | intro _ | dsimp only | split)

theorem execPrgResponse_keeps {s0 s : State} (idx : Nat) (code : Nat) (h : Keeps s0 s) : KeepsR s0 (execPrgResponse idx code s) := by
  unfold execPrgResponse
  repeat' (first | with_reducible assumption | with_reducible exact Keeps.refl _ | with_reducible apply wr_keeps | with_reducible apply pagesShow_keeps | with_reducible apply pageAnswer_keeps | with_reducible apply keeps_foldl | with_reducible apply keeps_foldl_snd | with_reducible apply keeps_foldl_fst | with_reducible apply keeps_ite_snd | with_reducible apply keepsR_next | with_reducible apply keeps_ite | with_reducible apply keepsR_ite | simp only [keeps_mk_iff] | intro _ | dsimp only | split)

theorem invDiscard_keeps {s0 s : State} (q : InvRange) (mark : Bool) (h : Keeps s0 s) : Keeps s0 (invDiscard q mark s) := by
  unfold invDiscard
  repeat' (first | with_reducible assumption | with_reducible exact Keeps.refl _ | with_reducible apply atsInvSend_keeps | with_reducible apply keeps_ite | with_reducible apply keeps_ite_st | simp only [keeps_mk_iff] | intro _ | dsimp only | split)

theorem invStart_keeps {s0 s : State}  (h : Keeps s0 s) : Keeps s0 (invStart s) := by
  unfold invStart
  repeat' (first | with_reducible assumption | with_reducible exact Keeps.refl _ | with_reducible apply wr_keeps | with_reducible apply invDiscard_keeps | with_reducible apply keeps_ite | intro _ | dsimp only | split)

theorem execInvalidationStart_keeps {s0 s : State}  (h : Keeps s0 s) : KeepsR s0 (execInvalidationStart s) := by
  unfold execInvalidationStart
  repeat' (first | with_reducible assumption | with_reducible exact Keeps.refl _ | with_reducible apply invStart_keeps | with_reducible apply keepsR_next | with_reducible apply keeps_ite | with_reducible apply keepsR_ite | intro _ | dsimp only | split)

theorem execInvalidationDone_keeps {s0 s : State}  (h : Keeps s0 s) : KeepsR s0 (execInvalidationDone s) := by
  unfold execInvalidationDone
  repeat' (first | with_reducible assumption | with_reducible exact Keeps.refl _ | with_reducible apply wr_keeps | with_reducible apply keepsR_next | with_reducible apply keeps_ite | with_reducible apply keepsR_ite | simp only [keeps_mk_iff] | intro _ | dsimp only | split)

theorem execInvalidateRequest_keeps {s0 s : State} (tag : Nat) (pasid : Nat) (base : Nat) (size : Nat) (h : Keeps s0 s) : KeepsR s0 (execInvalidateRequest tag pasid base size s) := by
  unfold execInvalidateRequest
  repeat' (first | with_reducible assumption | with_reducible exact Keeps.refl _ | with_reducible apply atsInvSend_keeps | with_reducible apply keepsR_next | with_reducible apply keeps_ite | with_reducible apply keepsR_ite | with_reducible apply keeps_ite_st | simp only [keeps_mk_iff] | intro _ | dsimp only | split)

theorem setCap_keeps {s0 s : State} (t : Nat) (c : Nat) (h : Keeps s0 s) : Keeps s0 (setCap t c s) := by
  unfold setCap
  repeat' (first | with_reducible assumption | with_reducible exact Keeps.refl _ | with_reducible apply wr_keeps | with_reducible apply keeps_ite | intro _ | dsimp only | split)

theorem atFab_keeps {s0 s : State} (cyc : Nat) (h : Keeps s0 s) : Keeps s0 (atFab cyc s) := by
  unfold atFab
  repeat' (first | with_reducible assumption | with_reducible exact Keeps.refl _ | with_reducible apply addSat_keeps | with_reducible apply keeps_foldl | with_reducible apply keeps_foldl_snd | with_reducible apply keeps_foldl_fst | with_reducible apply keeps_ite_snd | with_reducible apply keeps_ite | with_reducible apply keeps_ite_st | simp only [keeps_mk_iff] | intro _ | dsimp only | split)

theorem capsApply_keeps {s0 s : State}  (h : Keeps s0 s) : Keeps s0 (capsApply s) := by
  unfold capsApply
  repeat' (first | with_reducible assumption | with_reducible exact Keeps.refl _ | with_reducible apply setCap_keeps | with_reducible apply keeps_foldl | with_reducible apply keeps_foldl_snd | with_reducible apply keeps_foldl_fst | with_reducible apply keeps_ite_snd | with_reducible apply keeps_ite | simp only [keeps_mk_iff] | intro _ | dsimp only | split)

theorem execShareWindowStart_keeps {s0 s : State} (cyc : Nat) (h : Keeps s0 s) : KeepsR s0 (execShareWindowStart cyc s) := by
  unfold execShareWindowStart
  repeat' (first | with_reducible assumption | with_reducible exact Keeps.refl _ | with_reducible apply atFab_keeps | with_reducible apply capsApply_keeps | with_reducible apply keeps_foldl | with_reducible apply keeps_foldl_snd | with_reducible apply keeps_foldl_fst | with_reducible apply keeps_ite_snd | with_reducible apply keepsR_next | with_reducible apply keeps_ite | with_reducible apply keepsR_ite | simp only [keeps_mk_iff] | intro _ | dsimp only | split)

theorem admitSlot_keeps {s0 s : State} (t : Nat) (i : Nat) (x : Xact) (h : Keeps s0 s) : Keeps s0 (admitSlot t i x s) := by
  unfold admitSlot
  repeat' (first | with_reducible assumption | with_reducible exact Keeps.refl _ | with_reducible apply bump_keeps | with_reducible apply fabSet_keeps | with_reducible apply wr_keeps | with_reducible apply keeps_ite | with_reducible apply keeps_ite_st | simp only [keeps_mk_iff] | with_reducible apply gateRefuse_keeps | with_reducible apply fabAnswer_keeps | intro _ | dsimp only | split)

theorem execShareGrant_keeps {s0 s : State} (t : Nat) (cyc : Nat) (h : Keeps s0 s) : KeepsR s0 (execShareGrant t cyc s) := by
  unfold execShareGrant
  repeat' (first | with_reducible assumption | with_reducible exact Keeps.refl _ | with_reducible apply atFab_keeps | with_reducible apply admitSlot_keeps | with_reducible apply keepsR_next | with_reducible apply keeps_ite | with_reducible apply keepsR_ite | simp only [keeps_mk_iff] | intro _ | dsimp only | split)

theorem txnEnd_keeps {s0 s : State} (t : Nat) (h : Keeps s0 s) : Keeps s0 (txnEnd t s) := by
  unfold txnEnd
  repeat' (first | with_reducible assumption | with_reducible exact Keeps.refl _ | with_reducible apply wr_keeps | with_reducible apply keeps_ite | intro _ | dsimp only | split)

theorem portSeen_keeps {s0 s : State} (t : Nat) (h : Keeps s0 s) : Keeps s0 (portSeen t s) := by
  unfold portSeen
  repeat' (first | with_reducible assumption | with_reducible exact Keeps.refl _ | with_reducible apply drawFree_keeps | with_reducible apply wr_keeps | with_reducible apply bump_keeps | with_reducible apply keeps_ite_snd | with_reducible apply keeps_ite | intro _ | dsimp only | split)

theorem execMemoryRead_keeps {s0 s : State} (i : Nat) (h : Keeps s0 s) : KeepsR s0 (execMemoryRead i s) := by
  unfold execMemoryRead
  repeat' (first | with_reducible assumption | with_reducible exact Keeps.refl _ | with_reducible apply memRead_keeps | with_reducible apply txnEnd_keeps | with_reducible apply portSeen_keeps | with_reducible apply walkGot_keeps | with_reducible apply fabAnswer_keeps | with_reducible apply keeps_ite_snd | with_reducible apply keepsR_next | with_reducible apply keeps_ite | with_reducible apply keepsR_ite | with_reducible apply keeps_ite_st | with_reducible apply wr_keeps | intro _ | dsimp only | split)

theorem memoryWrite_keeps {s0 s : State} (i : Nat) (h : Keeps s0 s) : Keeps s0 (memoryWrite i s) := by
  unfold memoryWrite
  repeat' (first | with_reducible assumption | with_reducible exact Keeps.refl _ | with_reducible apply fabAnswer_keeps | with_reducible apply txnEnd_keeps | with_reducible apply portSeen_keeps | with_reducible apply memWrite_keeps | with_reducible apply keeps_ite | intro _ | dsimp only | split)

theorem execMemoryScrub_keeps {s0 s : State} (p : Nat) (h : Keeps s0 s) : KeepsR s0 (execMemoryScrub p s) := by
  unfold execMemoryScrub
  repeat' (first | with_reducible assumption | with_reducible exact Keeps.refl _ | with_reducible apply readLine_keeps | with_reducible apply keeps_ite_snd | with_reducible apply keepsR_next | with_reducible apply keeps_ite | with_reducible apply keepsR_ite | with_reducible apply keeps_ite_st | simp only [keeps_mk_iff] | intro _ | dsimp only | split)

theorem execHostPathWrite_keeps {s0 s : State} (i : Nat) (h : Keeps s0 s) : KeepsR s0 (execHostPathWrite i s) := by
  unfold execHostPathWrite
  repeat' (first | with_reducible assumption | with_reducible exact Keeps.refl _ | with_reducible apply fabAnswer_keeps | with_reducible apply emit_keeps | with_reducible apply holdOut_keeps | with_reducible apply holdStuck_keeps | with_reducible apply keepsR_next | with_reducible apply keeps_ite | with_reducible apply keepsR_ite | with_reducible apply keeps_ite_st | with_reducible apply wr_keeps | intro _ | dsimp only | split)

theorem execHostPathRead_keeps {s0 s : State} (i : Nat) (h : Keeps s0 s) : KeepsR s0 (execHostPathRead i s) := by
  unfold execHostPathRead
  repeat' (first | with_reducible assumption | with_reducible exact Keeps.refl _ | with_reducible apply emit_keeps | with_reducible apply fabSet_keeps | with_reducible apply keepsR_next | with_reducible apply keeps_ite | with_reducible apply keepsR_ite | with_reducible apply keeps_ite_st | simp only [keeps_mk_iff] | with_reducible apply wr_keeps | intro _ | dsimp only | split)

theorem execHostReadCompletion_keeps {s0 s : State} (i : Nat) (ok : Bool) (ep : Bool) (data : List Nat) (h : Keeps s0 s) : KeepsR s0 (execHostReadCompletion i ok ep data s) := by
  unfold execHostReadCompletion
  repeat' (first | with_reducible assumption | with_reducible exact Keeps.refl _ | with_reducible apply aerAdvisory_keeps | with_reducible apply fabAnswer_keeps | with_reducible apply keepsR_next | with_reducible apply keeps_ite | with_reducible apply keepsR_ite | intro _ | dsimp only | split)

theorem execCompletionTimeout_keeps {s0 s : State} (i : Nat) (h : Keeps s0 s) : KeepsR s0 (execCompletionTimeout i s) := by
  unfold execCompletionTimeout
  repeat' (first | with_reducible assumption | with_reducible exact Keeps.refl _ | with_reducible apply aerUncorr_keeps | with_reducible apply fabAnswer_keeps | with_reducible apply keepsR_next | with_reducible apply keeps_ite | with_reducible apply keepsR_ite | intro _ | dsimp only | split)

theorem execHostWriteDiscard_keeps {s0 s : State} (i : Nat) (h : Keeps s0 s) : KeepsR s0 (execHostWriteDiscard i s) := by
  unfold execHostWriteDiscard
  repeat' (first | with_reducible assumption | with_reducible exact Keeps.refl _ | with_reducible apply wr_keeps | with_reducible apply bump_keeps | with_reducible apply fabAnswer_keeps | with_reducible apply keepsR_next | with_reducible apply keeps_ite | with_reducible apply keepsR_ite | intro _ | dsimp only | split)

end Sys2Proof.Machine
end

