-- ==== Sys2Proof/Laws/KeepsTraceGen.lean ====
section
/-! SUPPORT. What the operations of Machine/TraceGen.lean keep (Laws/Keeps.lean). -/

namespace Sys2Proof.Machine

set_option linter.unusedTactic false
set_option linter.unreachableTactic false
set_option linter.unusedSimpArgs false

theorem setSrc_keeps {s0 s : State} (p : Nat) (u : Nat) (on0 : Bool) (h : Keeps s0 s) : Keeps s0 (setSrc p u on0 s) := by
  unfold setSrc
  repeat' (first | with_reducible assumption | with_reducible exact Keeps.refl _ | with_reducible apply wr_keeps | with_reducible apply keeps_ite | intro _ | dsimp only | split)

theorem trShow_keeps {s0 s : State} (p : Nat) (h : Keeps s0 s) : Keeps s0 (trShow p s) := by
  unfold trShow
  repeat' (first | with_reducible assumption | with_reducible exact Keeps.refl _ | with_reducible apply wr_keeps | with_reducible apply keeps_ite | intro _ | dsimp only | split)

theorem pushRecord_keeps {s0 s : State} (p : Nat) (u : Nat) (anchor : Bool) (ws : List Nat) (h : Keeps s0 s) : Keeps s0 (pushRecord p u anchor ws s) := by
  unfold pushRecord
  repeat' (first | with_reducible assumption | with_reducible exact Keeps.refl _ | with_reducible apply bump_keeps | with_reducible apply coreMod_keeps | with_reducible apply trShow_keeps | with_reducible apply keeps_ite | simp only [keeps_mk_iff] | intro _ | dsimp only | split)

theorem stepSeq_keeps {s0 s : State} (p : Nat) (u : Nat) (h : Keeps s0 s) : Keeps s0 (stepSeq p u s) := by
  unfold stepSeq
  repeat' (first | with_reducible assumption | with_reducible exact Keeps.refl _ | with_reducible apply wr_keeps | with_reducible apply keeps_ite | intro _ | dsimp only | split)

theorem genAnchor_keeps {s0 s : State} (p : Nat) (u : Nat) (addr : Nat) (cnt : Nat) (h : Keeps s0 s) : Keeps s0 (genAnchor p u addr cnt s) := by
  unfold genAnchor
  repeat' (first | with_reducible assumption | with_reducible exact Keeps.refl _ | with_reducible apply pushRecord_keeps | with_reducible apply stepSeq_keeps | with_reducible apply keeps_ite | intro _ | dsimp only | split)

theorem genRecord_keeps {s0 s : State} (p : Nat) (u : Nat) (kind : Nat) (addr : Nat) (cnt : Nat) (more : List Nat) (h : Keeps s0 s) : Keeps s0 (genRecord p u kind addr cnt more s) := by
  unfold genRecord
  repeat' (first | with_reducible assumption | with_reducible exact Keeps.refl _ | with_reducible apply coreMod_keeps | with_reducible apply pushRecord_keeps | with_reducible apply genAnchor_keeps | with_reducible apply stepSeq_keeps | with_reducible apply keeps_ite | simp only [keeps_mk_iff] | intro _ | dsimp only | split)

theorem traceStart_keeps {s0 s : State} (p : Nat) (h : Keeps s0 s) : Keeps s0 (traceStart p s) := by
  unfold traceStart
  repeat' (first | with_reducible assumption | with_reducible exact Keeps.refl _ | with_reducible apply wr_keeps | with_reducible apply coreMod_keeps | with_reducible apply setSrc_keeps | with_reducible apply keeps_foldl | with_reducible apply keeps_foldl_snd | with_reducible apply keeps_foldl_fst | with_reducible apply keeps_ite_snd | with_reducible apply keeps_ite | simp only [keeps_mk_iff] | intro _ | dsimp only | split)

end Sys2Proof.Machine
end

