-- ==== Sys2Proof/Laws/KeepsCrook.lean ====
section
/-! SUPPORT. What the operations of Machine/Crook.lean keep (Laws/Keeps.lean). -/

namespace Sys2Proof.Machine

set_option linter.unusedTactic false
set_option linter.unreachableTactic false
set_option linter.unusedSimpArgs false

theorem crookContexts_keeps {s0 s : State} (n : Nat) (h : Keeps s0 s) : Keeps s0 (crookContexts n s) := by
  unfold crookContexts
  repeat' (first | with_reducible assumption | with_reducible exact Keeps.refl _ | with_reducible apply ctxMod_keeps | with_reducible apply haltByCommand_keeps | with_reducible apply keeps_foldl | with_reducible apply keeps_foldl_snd | with_reducible apply keeps_foldl_fst | with_reducible apply keeps_ite_snd | with_reducible apply keeps_ite | simp only [keeps_mk_iff] | intro _ | dsimp only | split)

theorem crookFire_keeps {s0 s : State} (n : Nat) (idx : Nat) (tally : Bool) (block : Nat) (h : Keeps s0 s) : Keeps s0 (crookFire n idx tally block s) := by
  unfold crookFire
  repeat' (first | with_reducible assumption | with_reducible exact Keeps.refl _ | with_reducible apply wr_keeps | with_reducible apply pdkMod_keeps | with_reducible apply haltTasks_keeps | with_reducible apply meshMod_keeps | with_reducible apply sinkMod_keeps | with_reducible apply crookContexts_keeps | with_reducible apply keeps_foldl | with_reducible apply keeps_foldl_snd | with_reducible apply keeps_foldl_fst | with_reducible apply keeps_ite_snd | with_reducible apply keeps_ite | simp only [keeps_mk_iff] | intro _ | dsimp only | split)

theorem crookTasks_keeps {s0 s : State} (p : Nat) (h : Keeps s0 s) : Keeps s0 (crookTasks p s) := by
  unfold crookTasks
  repeat' (first | with_reducible assumption | with_reducible exact Keeps.refl _ | with_reducible apply wr_keeps | with_reducible apply keeps_foldl | with_reducible apply keeps_foldl_snd | with_reducible apply keeps_foldl_fst | with_reducible apply keeps_ite_snd | with_reducible apply keeps_ite | intro _ | dsimp only | split)

theorem crookRelease_keeps {s0 s : State} (n : Nat) (h : Keeps s0 s) : Keeps s0 (crookRelease n s) := by
  unfold crookRelease
  repeat' (first | with_reducible assumption | with_reducible exact Keeps.refl _ | with_reducible apply wr_keeps | with_reducible apply pdkMod_keeps | with_reducible apply ctxMod_keeps | with_reducible apply resumeCtx_keeps | with_reducible apply meshMod_keeps | with_reducible apply crookTasks_keeps | with_reducible apply keeps_foldl | with_reducible apply keeps_foldl_snd | with_reducible apply keeps_foldl_fst | with_reducible apply keeps_ite_snd | with_reducible apply keeps_ite | simp only [keeps_mk_iff] | intro _ | dsimp only | split)

end Sys2Proof.Machine
end

