-- ==== Sys2Proof/Laws/KeepsMatrix.lean ====
section
/-! SUPPORT. What the operations of Machine/Matrix.lean keep (Laws/Keeps.lean). -/

namespace Sys2Proof.Machine

set_option linter.unusedTactic false
set_option linter.unreachableTactic false
set_option linter.unusedSimpArgs false

theorem present_keeps {s0 s : State} (p : Nat) (r : WReq) (h : Keeps s0 s) : Keeps s0 (present p r s) := by
  unfold present
  repeat' (first | with_reducible assumption | with_reducible exact Keeps.refl _ | with_reducible apply coreMod_keeps | with_reducible apply keeps_ite | simp only [keeps_mk_iff] | intro _ | dsimp only | split)

theorem setPlane_keeps {s0 s : State} (p : Nat) (fmt : Nat) (bs : List Nat) (h : Keeps s0 s) : Keeps s0 (setPlane p fmt bs s) := by
  unfold setPlane
  repeat' (first | with_reducible assumption | with_reducible exact Keeps.refl _ | with_reducible apply wr_keeps | with_reducible apply coreMod_keeps | with_reducible apply keeps_ite | simp only [keeps_mk_iff] | intro _ | dsimp only | split)

theorem emptyPlane_keeps {s0 s : State} (p : Nat) (h : Keeps s0 s) : Keeps s0 (emptyPlane p s) := by
  unfold emptyPlane
  repeat' (first | with_reducible assumption | with_reducible exact Keeps.refl _ | with_reducible apply coreMod_keeps | with_reducible apply wr_keeps | with_reducible apply keeps_ite | simp only [keeps_mk_iff] | intro _ | dsimp only | split)

theorem mSwapNext_keeps {s0 s : State} (p : Nat) (earlier : Bool) (e : QEnt) (h : Keeps s0 s) : Keeps s0 (mSwapNext p earlier e s) := by
  unfold mSwapNext
  repeat' (first | with_reducible assumption | with_reducible exact Keeps.refl _ | with_reducible apply qMod_keeps | with_reducible apply setPlane_keeps | with_reducible apply keeps_ite | simp only [keeps_mk_iff] | intro _ | dsimp only | split)

theorem mLoseNext_keeps {s0 s : State} (p : Nat) (earlier : Bool) (e : QEnt) (h : Keeps s0 s) : Keeps s0 (mLoseNext p earlier e s) := by
  unfold mLoseNext
  repeat' (first | with_reducible assumption | with_reducible exact Keeps.refl _ | with_reducible apply qMod_keeps | with_reducible apply emptyPlane_keeps | with_reducible apply keeps_ite | simp only [keeps_mk_iff] | intro _ | dsimp only | split)

theorem mLoadNext_keeps {s0 s : State} (p : Nat) (e : QEnt) (h : Keeps s0 s) : Keeps s0 (mLoadNext p e s) := by
  unfold mLoadNext
  repeat' (first | with_reducible assumption | with_reducible exact Keeps.refl _ | with_reducible apply present_keeps | with_reducible apply keeps_ite | intro _ | dsimp only | split)

theorem mRowNext_keeps {s0 s : State} (p : Nat) (earlier : Bool) (e : QEnt) (h : Keeps s0 s) : Keeps s0 (mRowNext p earlier e s) := by
  unfold mRowNext
  repeat' (first | with_reducible assumption | with_reducible exact Keeps.refl _ | with_reducible apply present_keeps | with_reducible apply keeps_ite | intro _ | dsimp only | split)

theorem addFp_keeps {s0 s : State} (p : Nat) (a : Nat) (i : Nat) (n : Nat) (sum : FV) (h : Keeps s0 s) : Keeps s0 (addFp p a i n sum s) := by
  unfold addFp
  repeat' (first | with_reducible assumption | with_reducible exact Keeps.refl _ | with_reducible apply shadowSet_keeps | with_reducible apply accSet_keeps | with_reducible apply keeps_ite | intro _ | dsimp only | split)

theorem addInt_keeps {s0 s : State} (p : Nat) (a : Nat) (i : Nat) (n : Nat) (v : Int) (h : Keeps s0 s) : Keeps s0 (addInt p a i n v s) := by
  unfold addInt
  repeat' (first | with_reducible assumption | with_reducible exact Keeps.refl _ | with_reducible apply shadowSet_keeps | with_reducible apply accSet_keeps | with_reducible apply keeps_ite | intro _ | dsimp only | split)

theorem noteFail_keeps {s0 s : State} (p : Nat) (d : Nat) (kind : Nat) (i : Nat) (n : Nat) (h : Keeps s0 s) : Keeps s0 (noteFail p d kind i n s) := by
  unfold noteFail
  repeat' (first | with_reducible assumption | with_reducible exact Keeps.refl _ | with_reducible apply qMod_keeps | with_reducible apply keeps_ite | simp only [keeps_mk_iff] | intro _ | dsimp only | split)

theorem macElement_keeps {s0 s : State} (p : Nat) (e : QEnt) (i : Nat) (n : Nat) (act : Nat → Nat) (wgt : Nat → Nat) (h : Keeps s0 s) : Keeps s0 (macElement p e i n act wgt s) := by
  unfold macElement
  repeat' (first | with_reducible assumption | with_reducible exact Keeps.refl _ | with_reducible apply noteFail_keeps | with_reducible apply addFp_keeps | with_reducible apply addInt_keeps | with_reducible apply keeps_ite | with_reducible apply accPut_keeps | intro _ | dsimp only | split)

theorem macRow_keeps {s0 s : State} (p : Nat) (e : QEnt) (i : Nat) (act : Nat → Nat) (h : Keeps s0 s) : Keeps s0 (macRow p e i act s) := by
  unfold macRow
  repeat' (first | with_reducible assumption | with_reducible exact Keeps.refl _ | with_reducible apply macElement_keeps | with_reducible apply keeps_iter | with_reducible apply keeps_ite | intro _ | dsimp only | split)

theorem zeroAcc_keeps {s0 s : State} (p : Nat) (e : QEnt) (h : Keeps s0 s) : Keeps s0 (zeroAcc p e s) := by
  unfold zeroAcc
  repeat' (first | with_reducible assumption | with_reducible exact Keeps.refl _ | with_reducible apply setTag_keeps | with_reducible apply setSuspect_keeps | with_reducible apply keeps_ite | simp only [keeps_mk_iff] | intro _ | dsimp only | split)

theorem inject_keeps {s0 s : State} (p : Nat) (e : QEnt) (row : Nat) (h : Keeps s0 s) : Keeps s0 (inject p e row s) := by
  unfold inject
  repeat' (first | with_reducible assumption | with_reducible exact Keeps.refl _ | with_reducible apply wr_keeps | with_reducible apply accSet_keeps | with_reducible apply keeps_ite | intro _ | dsimp only | split)

theorem mRow_keeps {s0 s : State} (p : Nat) (e : QEnt) (act : Nat → Nat) (h : Keeps s0 s) : Keeps s0 (mRow p e act s) := by
  unfold mRow
  repeat' (first | with_reducible assumption | with_reducible exact Keeps.refl _ | with_reducible apply addSat_keeps | with_reducible apply macRow_keeps | with_reducible apply inject_keeps | with_reducible apply qMod_keeps | with_reducible apply keeps_ite | simp only [keeps_mk_iff] | intro _ | dsimp only | split)

theorem mTileNext_keeps {s0 s : State} (p : Nat) (earlier : Bool) (e : QEnt) (h : Keeps s0 s) : Keeps s0 (mTileNext p earlier e s) := by
  unfold mTileNext
  repeat' (first | with_reducible assumption | with_reducible exact Keeps.refl _ | with_reducible apply mRow_keeps | with_reducible apply keeps_iter | with_reducible apply keeps_ite | simp only [keeps_mk_iff] | intro _ | dsimp only | split)

theorem mGo_keeps {s0 s : State} (p : Nat) (n : Nat) (earlier : Bool) (h : Keeps s0 s) : Keeps s0 (mGo p n earlier s) := by
  unfold mGo
  repeat' (first | with_reducible assumption | with_reducible exact Keeps.refl _ | with_reducible apply mTileNext_keeps | with_reducible apply mRowNext_keeps | with_reducible apply mLoadNext_keeps | with_reducible apply mSwapNext_keeps | with_reducible apply mLoseNext_keeps | with_reducible apply keeps_ite | intro _ | dsimp only | split)

theorem mAdvanceList_keeps {s0 x3 : State} (p : Nat) (x1 : List QEnt) (x2 : Bool) (h : Keeps s0 x3) : Keeps s0 (mAdvanceList p x1 x2 x3) := by
  induction x1 generalizing p x2 x3 with
  | nil =>
    unfold mAdvanceList
    repeat' (first | with_reducible assumption | with_reducible exact Keeps.refl _ | with_reducible apply mGo_keeps | with_reducible apply keeps_ite | with_reducible apply addSat_keeps | with_reducible apply qMod_keeps | with_reducible apply mRowNext_keeps | with_reducible apply mLoadNext_keeps | simp only [keeps_mk_iff] | intro _ | dsimp only | split)
  | cons a l ih =>
    unfold mAdvanceList
    repeat' (first | with_reducible assumption | with_reducible exact Keeps.refl _ | apply ih | with_reducible apply mGo_keeps | with_reducible apply keeps_ite | with_reducible apply addSat_keeps | with_reducible apply qMod_keeps | with_reducible apply mRowNext_keeps | with_reducible apply mLoadNext_keeps | simp only [keeps_mk_iff] | intro _ | dsimp only | split)

theorem mAdvance_keeps {s0 s : State} (p : Nat) (h : Keeps s0 s) : Keeps s0 (mAdvance p s) := by
  unfold mAdvance
  repeat' (first | with_reducible assumption | with_reducible exact Keeps.refl _ | with_reducible apply mAdvanceList_keeps | with_reducible apply keeps_ite | intro _ | dsimp only | split)

theorem startMatrix_keeps {s0 s : State} (op : Nat) (c : Nat) (h : Keeps s0 s) : Keeps s0 (startMatrix op c s) := by
  unfold startMatrix
  repeat' (first | with_reducible assumption | with_reducible exact Keeps.refl _ | with_reducible apply wr_keeps | with_reducible apply qMod_keeps | with_reducible apply asyncExc_keeps | with_reducible apply mAdvance_keeps | with_reducible apply zeroAcc_keeps | with_reducible apply keeps_ite | simp only [keeps_mk_iff] | intro _ | dsimp only | split)

theorem execMatWld_keeps {s0 s : State} (c : Nat) (h : Keeps s0 s) : KeepsR s0 (execMatWld c s) := by
  unfold execMatWld
  repeat' (first | with_reducible assumption | with_reducible exact Keeps.refl _ | with_reducible apply startMatrix_keeps | with_reducible apply keepsR_next | with_reducible apply keeps_ite | with_reducible apply keepsR_ite | intro _ | dsimp only | split)

theorem execMatMma_keeps {s0 s : State} (c : Nat) (h : Keeps s0 s) : KeepsR s0 (execMatMma c s) := by
  unfold execMatMma
  repeat' (first | with_reducible assumption | with_reducible exact Keeps.refl _ | with_reducible apply startMatrix_keeps | with_reducible apply keepsR_next | with_reducible apply keeps_ite | with_reducible apply keepsR_ite | intro _ | dsimp only | split)

theorem execMatMms_keeps {s0 s : State} (c : Nat) (h : Keeps s0 s) : KeepsR s0 (execMatMms c s) := by
  unfold execMatMms
  repeat' (first | with_reducible assumption | with_reducible exact Keeps.refl _ | with_reducible apply startMatrix_keeps | with_reducible apply keepsR_next | with_reducible apply keeps_ite | with_reducible apply keepsR_ite | intro _ | dsimp only | split)

theorem execMatMmt_keeps {s0 s : State} (c : Nat) (h : Keeps s0 s) : KeepsR s0 (execMatMmt c s) := by
  unfold execMatMmt
  repeat' (first | with_reducible assumption | with_reducible exact Keeps.refl _ | with_reducible apply startMatrix_keeps | with_reducible apply keepsR_next | with_reducible apply keeps_ite | with_reducible apply keepsR_ite | intro _ | dsimp only | split)

theorem execMOpComplete_keeps {s0 s : State} (c : Nat) (h : Keeps s0 s) : KeepsR s0 (execMOpComplete c s) := by
  unfold execMOpComplete
  repeat' (first | with_reducible assumption | with_reducible exact Keeps.refl _ | with_reducible apply qFree_keeps | with_reducible apply coreMod_keeps | with_reducible apply mAdvance_keeps | with_reducible apply wr_keeps | with_reducible apply keepsR_next | with_reducible apply keeps_ite | with_reducible apply keepsR_ite | with_reducible apply keeps_ite_st | simp only [keeps_mk_iff] | intro _ | dsimp only | split)

theorem flagMismatch_keeps {s0 s : State} (p : Nat) (k : RChk) (h : Keeps s0 s) : Keeps s0 (flagMismatch p k s) := by
  unfold flagMismatch
  repeat' (first | with_reducible assumption | with_reducible exact Keeps.refl _ | with_reducible apply countLife_keeps | with_reducible apply bump_keeps | with_reducible apply setSuspect_keeps | with_reducible apply wr_keeps | with_reducible apply wrW_keeps | with_reducible apply coreFault_keeps | with_reducible apply epochFailure_keeps | with_reducible apply keeps_ite | intro _ | dsimp only | split)

theorem execResidueCheck_keeps {s0 s : State} (c : Nat) (h : Keeps s0 s) : KeepsR s0 (execResidueCheck c s) := by
  unfold execResidueCheck
  repeat' (first | with_reducible assumption | with_reducible exact Keeps.refl _ | with_reducible apply coreMod_keeps | with_reducible apply flagMismatch_keeps | with_reducible apply keepsR_next | with_reducible apply keeps_ite | with_reducible apply keepsR_ite | simp only [keeps_mk_iff] | intro _ | dsimp only | split)

theorem scrambleAcc_keeps {s0 s : State} (p : Nat) (a : Nat) (rows : Nat) (fp : Bool) (h : Keeps s0 s) : Keeps s0 (scrambleAcc p a rows fp s) := by
  unfold scrambleAcc
  repeat' (first | with_reducible assumption | with_reducible exact Keeps.refl _ | with_reducible apply accPut_keeps | with_reducible apply freshBlock_keeps | with_reducible apply keeps_iter | with_reducible apply keeps_ite | intro _ | dsimp only | split)

theorem mAbandon_keeps {s0 s : State} (p : Nat) (e : QEnt) (load : Bool) (h : Keeps s0 s) : Keeps s0 (mAbandon p e load s) := by
  unfold mAbandon
  repeat' (first | with_reducible assumption | with_reducible exact Keeps.refl _ | with_reducible apply coreMod_keeps | with_reducible apply qMod_keeps | with_reducible apply setSuspect_keeps | with_reducible apply scrambleAcc_keeps | with_reducible apply mAdvance_keeps | with_reducible apply asyncExc_keeps | with_reducible apply keeps_ite | simp only [keeps_mk_iff] | with_reducible apply wr_keeps | with_reducible apply setPlane_keeps | intro _ | dsimp only | split)

theorem mServed_keeps {s0 s : State} (p : Nat) (n : Nat) (load : Bool) (h : Keeps s0 s) : Keeps s0 (mServed p n load s) := by
  unfold mServed
  repeat' (first | with_reducible assumption | with_reducible exact Keeps.refl _ | with_reducible apply mAdvance_keeps | with_reducible apply qMod_keeps | with_reducible apply coreMod_keeps | with_reducible apply mRow_keeps | with_reducible apply keeps_ite | simp only [keeps_mk_iff] | with_reducible apply addSat_keeps | intro _ | dsimp only | split)

end Sys2Proof.Machine
end

