-- ==== Sys2Proof/Laws/KeepsVector.lean ====
section
/-! SUPPORT. What the operations of Machine/Vector.lean keep (Laws/Keeps.lean). -/

namespace Sys2Proof.Machine

set_option linter.unusedTactic false
set_option linter.unreachableTactic false
set_option linter.unusedSimpArgs false

theorem vPresent_keeps {s0 s : State} (p : Nat) (e : QEnt) (i : VItem) (load : Bool) (h : Keeps s0 s) : Keeps s0 (vPresent p e i load s) := by
  unfold vPresent
  repeat' (first | with_reducible assumption | with_reducible exact Keeps.refl _ | with_reducible apply present_keeps | with_reducible apply keeps_ite | intro _ | dsimp only | split)

theorem vFreed_keeps {s0 s : State} (p : Nat) (e : QEnt) (b : Nat × Nat × Nat × Nat × Nat) (out : List Nat) (h : Keeps s0 s) : Keeps s0 (vFreed s p e b out).2 := by
  unfold vFreed
  repeat' (first | with_reducible assumption | with_reducible exact Keeps.refl _ | with_reducible apply freshBlock_keeps | with_reducible apply keeps_ite_snd | with_reducible apply keeps_ite | intro _ | dsimp only | split)

theorem vMake_keeps {s0 s : State} (p : Nat) (e : QEnt) (b : Nat × Nat × Nat × Nat × Nat) (h : Keeps s0 s) : Keeps s0 (vMake p e b s) := by
  unfold vMake
  repeat' (first | with_reducible assumption | with_reducible exact Keeps.refl _ | with_reducible apply vFreed_keeps | with_reducible apply addSat_keeps | with_reducible apply bump_keeps | with_reducible apply qMod_keeps | with_reducible apply keeps_ite_snd | with_reducible apply keeps_ite | simp only [keeps_mk_iff] | intro _ | dsimp only | split)

theorem vStep_keeps {s0 s : State} (p : Nat) (e : QEnt) (h : Keeps s0 s) : Keeps s0 (vStep p e s).2 := by
  unfold vStep
  repeat' (first | with_reducible assumption | with_reducible exact Keeps.refl _ | with_reducible apply vPresent_keeps | with_reducible apply vMake_keeps | with_reducible apply qMod_keeps | with_reducible apply keeps_ite_snd | with_reducible apply keeps_ite | simp only [keeps_mk_iff] | intro _ | dsimp only | split)

theorem vRun_keeps {s0 x2 : State} (p : Nat) (x1 : Nat) (h : Keeps s0 x2) : Keeps s0 (vRun p x1 x2) := by
  induction x1 generalizing p x2 with
  | zero =>
    unfold vRun
    repeat' (first | with_reducible assumption | with_reducible exact Keeps.refl _ | with_reducible apply vStep_keeps | with_reducible apply keeps_ite_snd | with_reducible apply keeps_ite | with_reducible apply keeps_ite_st | intro _ | dsimp only | split)
  | succ n ih =>
    unfold vRun
    repeat' (first | with_reducible assumption | with_reducible exact Keeps.refl _ | apply ih | with_reducible apply vStep_keeps | with_reducible apply keeps_ite_snd | with_reducible apply keeps_ite | with_reducible apply keeps_ite_st | intro _ | dsimp only | split)

theorem vAdvance_keeps {s0 s : State} (p : Nat) (h : Keeps s0 s) : Keeps s0 (vAdvance p s) := by
  unfold vAdvance
  repeat' (first | with_reducible assumption | with_reducible exact Keeps.refl _ | with_reducible apply vRun_keeps | with_reducible apply keeps_ite | with_reducible apply wr_keeps | with_reducible apply present_keeps | intro _ | dsimp only | split)

theorem startVector_keeps {s0 s : State} (op : Nat) (c : Nat) (h : Keeps s0 s) : Keeps s0 (startVector op c s) := by
  unfold startVector
  repeat' (first | with_reducible assumption | with_reducible exact Keeps.refl _ | with_reducible apply vAdvance_keeps | with_reducible apply wr_keeps | with_reducible apply qMod_keeps | with_reducible apply keeps_ite | simp only [keeps_mk_iff] | with_reducible apply addSat_keeps | intro _ | dsimp only | split)

theorem execVecUn_keeps {s0 s : State} (c : Nat) (h : Keeps s0 s) : KeepsR s0 (execVecUn c s) := by
  unfold execVecUn
  repeat' (first | with_reducible assumption | with_reducible exact Keeps.refl _ | with_reducible apply startVector_keeps | with_reducible apply keepsR_next | with_reducible apply keeps_ite | with_reducible apply keepsR_ite | intro _ | dsimp only | split)

theorem execVecBin_keeps {s0 s : State} (c : Nat) (h : Keeps s0 s) : KeepsR s0 (execVecBin c s) := by
  unfold execVecBin
  repeat' (first | with_reducible assumption | with_reducible exact Keeps.refl _ | with_reducible apply startVector_keeps | with_reducible apply keepsR_next | with_reducible apply keeps_ite | with_reducible apply keepsR_ite | intro _ | dsimp only | split)

theorem execVecBins_keeps {s0 s : State} (c : Nat) (h : Keeps s0 s) : KeepsR s0 (execVecBins c s) := by
  unfold execVecBins
  repeat' (first | with_reducible assumption | with_reducible exact Keeps.refl _ | with_reducible apply startVector_keeps | with_reducible apply keepsR_next | with_reducible apply keeps_ite | with_reducible apply keepsR_ite | intro _ | dsimp only | split)

theorem execVecRed_keeps {s0 s : State} (c : Nat) (h : Keeps s0 s) : KeepsR s0 (execVecRed c s) := by
  unfold execVecRed
  repeat' (first | with_reducible assumption | with_reducible exact Keeps.refl _ | with_reducible apply startVector_keeps | with_reducible apply keepsR_next | with_reducible apply keeps_ite | with_reducible apply keepsR_ite | intro _ | dsimp only | split)

theorem execVecFill_keeps {s0 s : State} (c : Nat) (h : Keeps s0 s) : KeepsR s0 (execVecFill c s) := by
  unfold execVecFill
  repeat' (first | with_reducible assumption | with_reducible exact Keeps.refl _ | with_reducible apply startVector_keeps | with_reducible apply keepsR_next | with_reducible apply keeps_ite | with_reducible apply keepsR_ite | intro _ | dsimp only | split)

theorem execVecEpi_keeps {s0 s : State} (c : Nat) (h : Keeps s0 s) : KeepsR s0 (execVecEpi c s) := by
  unfold execVecEpi
  repeat' (first | with_reducible assumption | with_reducible exact Keeps.refl _ | with_reducible apply startVector_keeps | with_reducible apply keepsR_next | with_reducible apply keeps_ite | with_reducible apply keepsR_ite | intro _ | dsimp only | split)

theorem execVecAccld_keeps {s0 s : State} (c : Nat) (h : Keeps s0 s) : KeepsR s0 (execVecAccld c s) := by
  unfold execVecAccld
  repeat' (first | with_reducible assumption | with_reducible exact Keeps.refl _ | with_reducible apply startVector_keeps | with_reducible apply keepsR_next | with_reducible apply keeps_ite | with_reducible apply keepsR_ite | intro _ | dsimp only | split)

theorem vPutTile_keeps {s0 s : State} (p : Nat) (e : QEnt) (t : Nat) (n : List Nat) (h : Keeps s0 s) : Keeps s0 (vPutTile p e t n s) := by
  unfold vPutTile
  repeat' (first | with_reducible assumption | with_reducible exact Keeps.refl _ | with_reducible apply tileSet_keeps | with_reducible apply keeps_iter | with_reducible apply keeps_ite | intro _ | dsimp only | split)

theorem vPutAcc_keeps {s0 s : State} (p : Nat) (e : QEnt) (fp : Bool) (h : Keeps s0 s) : Keeps s0 (vPutAcc p e fp s) := by
  unfold vPutAcc
  repeat' (first | with_reducible assumption | with_reducible exact Keeps.refl _ | with_reducible apply setTag_keeps | with_reducible apply setSuspect_keeps | with_reducible apply accPut_keeps | with_reducible apply keeps_iter | with_reducible apply keeps_ite | intro _ | dsimp only | split)

theorem vCommit_keeps {s0 s : State} (p : Nat) (e : QEnt) (h : Keeps s0 s) : Keeps s0 (vCommit p e s) := by
  unfold vCommit
  repeat' (first | with_reducible assumption | with_reducible exact Keeps.refl _ | with_reducible apply vPutTile_keeps | with_reducible apply vPutAcc_keeps | with_reducible apply keeps_ite | intro _ | dsimp only | split)

theorem execVOpComplete_keeps {s0 s : State} (c : Nat) (h : Keeps s0 s) : KeepsR s0 (execVOpComplete c s) := by
  unfold execVOpComplete
  repeat' (first | with_reducible assumption | with_reducible exact Keeps.refl _ | with_reducible apply vCommit_keeps | with_reducible apply qFree_keeps | with_reducible apply vAdvance_keeps | with_reducible apply wr_keeps | with_reducible apply keepsR_next | with_reducible apply keeps_ite | with_reducible apply keepsR_ite | with_reducible apply keeps_ite_st | with_reducible apply addSat_keeps | with_reducible apply keeps_foldl | with_reducible apply keeps_foldl_snd | with_reducible apply keeps_foldl_fst | with_reducible apply keeps_ite_snd | intro _ | dsimp only | split)

theorem vScramble_keeps {s0 s : State} (p : Nat) (e : QEnt) (h : Keeps s0 s) : Keeps s0 (vScramble p e s) := by
  unfold vScramble
  repeat' (first | with_reducible assumption | with_reducible exact Keeps.refl _ | with_reducible apply freshBlock_keeps | with_reducible apply setSuspect_keeps | with_reducible apply accPut_keeps | with_reducible apply vCommit_keeps | with_reducible apply spOpWrite_keeps | with_reducible apply keeps_foldl | with_reducible apply keeps_foldl_snd | with_reducible apply keeps_foldl_fst | with_reducible apply keeps_iter | with_reducible apply keeps_ite_snd | with_reducible apply keeps_ite | simp only [keeps_mk_iff] | with_reducible apply spWriteBytes_keeps | intro _ | dsimp only | split)

theorem vAbandon_keeps {s0 s : State} (p : Nat) (e : QEnt) (h : Keeps s0 s) : Keeps s0 (vAbandon p e s) := by
  unfold vAbandon
  repeat' (first | with_reducible assumption | with_reducible exact Keeps.refl _ | with_reducible apply vAdvance_keeps | with_reducible apply asyncExc_keeps | with_reducible apply vScramble_keeps | with_reducible apply coreMod_keeps | with_reducible apply qMod_keeps | with_reducible apply keeps_ite | simp only [keeps_mk_iff] | intro _ | dsimp only | split)

theorem vServed_keeps {s0 s : State} (p : Nat) (n : Nat) (setup : Bool) (h : Keeps s0 s) : Keeps s0 (vServed p n setup s) := by
  unfold vServed
  repeat' (first | with_reducible assumption | with_reducible exact Keeps.refl _ | with_reducible apply vAdvance_keeps | with_reducible apply qMod_keeps | with_reducible apply keeps_ite | simp only [keeps_mk_iff] | intro _ | dsimp only | split)

end Sys2Proof.Machine
end

