-- ==== Sys2Proof/Laws/KeepsMesh.lean ====
section
/-! SUPPORT. What the operations of Machine/Mesh.lean keep (Laws/Keeps.lean). -/

namespace Sys2Proof.Machine

set_option linter.unusedTactic false
set_option linter.unreachableTactic false
set_option linter.unusedSimpArgs false

theorem xMark_keeps {s0 s : State} (p : Nat) (e : QEnt) (h : Keeps s0 s) : Keeps s0 (xMark p e s) := by
  unfold xMark
  repeat' (first | with_reducible assumption | with_reducible exact Keeps.refl _ | with_reducible apply qMod_keeps | with_reducible apply keeps_ite | simp only [keeps_mk_iff] | intro _ | dsimp only | split)

theorem xStart_keeps {s0 s : State} (op : Nat) (c : Nat) (ok : State → Nat → QEnt → Bool) (run : Nat → QEnt → State → State) (hrun : ∀ y0 y1 u, Keeps s0 u → Keeps s0 (run y0 y1 u)) (h : Keeps s0 s) : Keeps s0 (xStart op c ok run s) := by
  unfold xStart
  repeat' (first | with_reducible assumption | with_reducible exact Keeps.refl _ | apply hrun | with_reducible apply xMark_keeps | with_reducible apply keeps_ite | intro _ | dsimp only | split)

theorem xFault_keeps {s0 s : State} (p : Nat) (e : QEnt) (sub : Nat) (h : Keeps s0 s) : Keeps s0 (xFault p e sub s) := by
  unfold xFault
  repeat' (first | with_reducible assumption | with_reducible exact Keeps.refl _ | with_reducible apply asyncExc_keeps | with_reducible apply keeps_ite | intro _ | dsimp only | split)

theorem xPresent_keeps {s0 s : State} (p : Nat) (write : Bool) (wait : Nat) (h : Keeps s0 s) : Keeps s0 (xPresent p write wait s) := by
  unfold xPresent
  repeat' (first | with_reducible assumption | with_reducible exact Keeps.refl _ | with_reducible apply coreMod_keeps | with_reducible apply keeps_ite | simp only [keeps_mk_iff] | intro _ | dsimp only | split)

theorem xPush_keeps {s0 s : State} (p : Nat) (rs : List WReq) (h : Keeps s0 s) : Keeps s0 (xPush p rs s) := by
  unfold xPush
  repeat' (first | with_reducible assumption | with_reducible exact Keeps.refl _ | with_reducible apply xPresent_keeps | with_reducible apply coreMod_keeps | with_reducible apply keeps_ite | simp only [keeps_mk_iff] | intro _ | dsimp only | split)

theorem xAccess_keeps {s0 s : State} (p : Nat) (n : Nat) (write : Bool) (off : Nat) (len : Nat) (data : List Nat) (h : Keeps s0 s) : Keeps s0 (xAccess p n write off len data s) := by
  unfold xAccess
  repeat' (first | with_reducible assumption | with_reducible exact Keeps.refl _ | with_reducible apply xPush_keeps | with_reducible apply wr_keeps | with_reducible apply keeps_ite_snd | with_reducible apply keeps_ite | intro _ | dsimp only | split)

theorem putTileFlit_keeps {s0 s : State} (p : Nat) (t : Nat) (es : Nat) (k : Nat) (f : Flit) (h : Keeps s0 s) : Keeps s0 (putTileFlit p t es k f s) := by
  unfold putTileFlit
  repeat' (first | with_reducible assumption | with_reducible exact Keeps.refl _ | with_reducible apply tileSet_keeps | with_reducible apply keeps_foldl | with_reducible apply keeps_foldl_snd | with_reducible apply keeps_foldl_fst | with_reducible apply keeps_ite_snd | with_reducible apply keeps_ite | intro _ | dsimp only | split)

theorem scrambleTileFlit_keeps {s0 s : State} (p : Nat) (t : Nat) (es : Nat) (k : Nat) (h : Keeps s0 s) : Keeps s0 (scrambleTileFlit p t es k s) := by
  unfold scrambleTileFlit
  repeat' (first | with_reducible assumption | with_reducible exact Keeps.refl _ | with_reducible apply tileSet_keeps | with_reducible apply freshBlock_keeps | with_reducible apply keeps_foldl | with_reducible apply keeps_foldl_snd | with_reducible apply keeps_foldl_fst | with_reducible apply keeps_ite_snd | with_reducible apply keeps_ite | intro _ | dsimp only | split)

theorem fifoShow_keeps {s0 s : State} (p : Nat) (h : Keeps s0 s) : Keeps s0 (fifoShow p s) := by
  unfold fifoShow
  repeat' (first | with_reducible assumption | with_reducible exact Keeps.refl _ | with_reducible apply wr_keeps | with_reducible apply keeps_ite | intro _ | dsimp only | split)

theorem injPush_keeps {s0 s : State} (p : Nat) (fs : List Flit) (h : Keeps s0 s) : Keeps s0 (injPush p fs s) := by
  unfold injPush
  repeat' (first | with_reducible assumption | with_reducible exact Keeps.refl _ | with_reducible apply coreMod_keeps | with_reducible apply keeps_ite | simp only [keeps_mk_iff] | intro _ | dsimp only | split)

theorem addProg_keeps {s0 s : State} (p : Nat) (e : QEnt) (n : Nat) (h : Keeps s0 s) : Keeps s0 (addProg p e n s) := by
  unfold addProg
  repeat' (first | with_reducible assumption | with_reducible exact Keeps.refl _ | with_reducible apply qMod_keeps | with_reducible apply keeps_ite | simp only [keeps_mk_iff] | intro _ | dsimp only | split)

theorem injEnter_keeps {s0 s : State} (p : Nat) (e : QEnt) (h : Keeps s0 s) : Keeps s0 (injEnter p e s) := by
  unfold injEnter
  repeat' (first | with_reducible assumption | with_reducible exact Keeps.refl _ | with_reducible apply coreMod_keeps | with_reducible apply addProg_keeps | with_reducible apply injPush_keeps | with_reducible apply keeps_ite | simp only [keeps_mk_iff] | intro _ | dsimp only | split)

theorem putRead_keeps {s0 s : State} (p : Nat) (e : QEnt) (x : Tensor) (total : Nat) (h : Keeps s0 s) : Keeps s0 (putRead p e x total s) := by
  unfold putRead
  repeat' (first | with_reducible assumption | with_reducible exact Keeps.refl _ | with_reducible apply bump_keeps | with_reducible apply xPush_keeps | with_reducible apply qMod_keeps | with_reducible apply keeps_ite | simp only [keeps_mk_iff] | with_reducible apply present_keeps | intro _ | dsimp only | split)

theorem putCycle_keeps {s0 s : State} (p : Nat) (e : QEnt) (h : Keeps s0 s) : Keeps s0 (putCycle p e s) := by
  unfold putCycle
  repeat' (first | with_reducible assumption | with_reducible exact Keeps.refl _ | with_reducible apply addProg_keeps | with_reducible apply injPush_keeps | with_reducible apply putRead_keeps | with_reducible apply keeps_ite | intro _ | dsimp only | split)

theorem ejTake_keeps {s0 s : State} (p : Nat) (n : Nat) (h : Keeps s0 s) : Keeps s0 (ejTake p n s) := by
  unfold ejTake
  repeat' (first | with_reducible assumption | with_reducible exact Keeps.refl _ | with_reducible apply coreMod_keeps | with_reducible apply keeps_ite | simp only [keeps_mk_iff] | intro _ | dsimp only | split)

theorem getTile_keeps {s0 x6 : State} (p : Nat) (e : QEnt) (t : Nat) (es : Nat) (x4 : List Flit) (x5 : Nat) (h : Keeps s0 x6) : Keeps s0 (getTile p e t es x4 x5 x6) := by
  induction x4 generalizing p e t es x5 x6 with
  | nil =>
    unfold getTile
    repeat' (first | with_reducible assumption | with_reducible exact Keeps.refl _ | apply ih | with_reducible apply scrambleTileFlit_keeps | with_reducible apply xFault_keeps | with_reducible apply putTileFlit_keeps | with_reducible apply keeps_ite | intro _ | dsimp only | split)
  | cons hd tl ih =>
    unfold getTile
    repeat' (first | with_reducible assumption | with_reducible exact Keeps.refl _ | apply ih | with_reducible apply scrambleTileFlit_keeps | with_reducible apply xFault_keeps | with_reducible apply putTileFlit_keeps | with_reducible apply keeps_ite | intro _ | dsimp only | split)

theorem getCycle_keeps {s0 s : State} (p : Nat) (e : QEnt) (h : Keeps s0 s) : Keeps s0 (getCycle p e s) := by
  unfold getCycle
  repeat' (first | with_reducible assumption | with_reducible exact Keeps.refl _ | with_reducible apply addProg_keeps | with_reducible apply ejTake_keeps | with_reducible apply getTile_keeps | with_reducible apply xPush_keeps | with_reducible apply keeps_ite | with_reducible apply present_keeps | intro _ | dsimp only | split)

theorem meshCommit_keeps {s0 s : State} (p : Nat) (e : QEnt) (h : Keeps s0 s) : Keeps s0 (meshCommit p e s) := by
  unfold meshCommit
  repeat' (first | with_reducible assumption | with_reducible exact Keeps.refl _ | with_reducible apply qMod_keeps | with_reducible apply keeps_ite | simp only [keeps_mk_iff] | intro _ | dsimp only | split)

theorem meshEngine_keeps {s0 s : State} (p : Nat) (eng : Nat) (h : Keeps s0 s) : Keeps s0 (meshEngine p eng s) := by
  unfold meshEngine
  repeat' (first | with_reducible assumption | with_reducible exact Keeps.refl _ | with_reducible apply injEnter_keeps | with_reducible apply meshCommit_keeps | with_reducible apply putCycle_keeps | with_reducible apply getCycle_keeps | with_reducible apply keeps_ite | intro _ | dsimp only | split)

theorem meshCycle_keeps {s0 s : State} (p : Nat) (h : Keeps s0 s) : Keeps s0 (meshCycle p s) := by
  unfold meshCycle
  repeat' (first | with_reducible assumption | with_reducible exact Keeps.refl _ | with_reducible apply fifoShow_keeps | with_reducible apply meshEngine_keeps | with_reducible apply xPresent_keeps | with_reducible apply keeps_ite | intro _ | dsimp only | split)

theorem meshServed_keeps {s0 s : State} (p : Nat) (n : Nat) (wr_ : Bool) (h : Keeps s0 s) : Keeps s0 (meshServed p n wr_ s) := by
  unfold meshServed
  repeat' (first | with_reducible assumption | with_reducible exact Keeps.refl _ | with_reducible apply qMod_keeps | with_reducible apply coreMod_keeps | with_reducible apply keeps_ite_snd | with_reducible apply keeps_ite | simp only [keeps_mk_iff] | intro _ | dsimp only | split)

theorem xGiveUp_keeps {s0 s : State} (p : Nat) (n : Nat) (h : Keeps s0 s) : Keeps s0 (xGiveUp p n s) := by
  unfold xGiveUp
  repeat' (first | with_reducible assumption | with_reducible exact Keeps.refl _ | with_reducible apply coreMod_keeps | with_reducible apply keeps_ite | simp only [keeps_mk_iff] | intro _ | dsimp only | split)

theorem meshAbandon_keeps {s0 s : State} (p : Nat) (e : QEnt) (h : Keeps s0 s) : Keeps s0 (meshAbandon p e s) := by
  unfold meshAbandon
  repeat' (first | with_reducible assumption | with_reducible exact Keeps.refl _ | with_reducible apply xFault_keeps | with_reducible apply xGiveUp_keeps | with_reducible apply qMod_keeps | with_reducible apply keeps_ite | simp only [keeps_mk_iff] | with_reducible apply coreMod_keeps | intro _ | dsimp only | split)

theorem execMshPut_keeps {s0 s : State} (c : Nat) (h : Keeps s0 s) : KeepsR s0 (execMshPut c s) := by
  unfold execMshPut
  repeat' (first | with_reducible assumption | with_reducible exact Keeps.refl _ | with_reducible apply xStart_keeps | with_reducible apply fifoShow_keeps | with_reducible apply keepsR_next | with_reducible apply keeps_ite | with_reducible apply keepsR_ite | intro _ | dsimp only | split)

theorem execMshGet_keeps {s0 s : State} (c : Nat) (h : Keeps s0 s) : KeepsR s0 (execMshGet c s) := by
  unfold execMshGet
  repeat' (first | with_reducible assumption | with_reducible exact Keeps.refl _ | with_reducible apply xStart_keeps | with_reducible apply fifoShow_keeps | with_reducible apply keepsR_next | with_reducible apply keeps_ite | with_reducible apply keepsR_ite | intro _ | dsimp only | split)

theorem execMshDrop_keeps {s0 s : State} (c : Nat) (h : Keeps s0 s) : KeepsR s0 (execMshDrop c s) := by
  unfold execMshDrop
  repeat' (first | with_reducible assumption | with_reducible exact Keeps.refl _ | with_reducible apply xStart_keeps | with_reducible apply meshCommit_keeps | with_reducible apply fifoShow_keeps | with_reducible apply keepsR_next | with_reducible apply keeps_ite | with_reducible apply keepsR_ite | simp only [keeps_mk_iff] | intro _ | dsimp only | split)

theorem execMshCommit_keeps {s0 s : State} (c : Nat) (eng : Nat) (h : Keeps s0 s) : KeepsR s0 (execMshCommit c eng s) := by
  unfold execMshCommit
  repeat' (first | with_reducible assumption | with_reducible exact Keeps.refl _ | with_reducible apply qMod_keeps | with_reducible apply fifoShow_keeps | with_reducible apply keepsR_next | with_reducible apply keeps_ite | with_reducible apply keepsR_ite | simp only [keeps_mk_iff] | intro _ | dsimp only | split)

theorem meshFinish_keeps {s0 s : State} (p : Nat) (e : QEnt) (h : Keeps s0 s) : Keeps s0 (meshFinish p e s) := by
  unfold meshFinish
  repeat' (first | with_reducible assumption | with_reducible exact Keeps.refl _ | with_reducible apply qFree_keeps | with_reducible apply releaseCtx_keeps | with_reducible apply fifoShow_keeps | with_reducible apply keeps_ite | intro _ | dsimp only | split)

end Sys2Proof.Machine
end

