-- ==== Sys2Proof/Laws/KeepsDrover.lean ====
section
/-! SUPPORT. What the operations of Machine/Drover.lean keep (Laws/Keeps.lean). -/

namespace Sys2Proof.Machine

set_option linter.unusedTactic false
set_option linter.unreachableTactic false
set_option linter.unusedSimpArgs false

theorem execDrvArm_keeps {s0 s : State} (u : Nat) (k : Nat) (t : Nat) (h : Keeps s0 s) : KeepsR s0 (execDrvArm u k t s) := by
  unfold execDrvArm
  repeat' (first | with_reducible assumption | with_reducible exact Keeps.refl _ | with_reducible apply armCtx_keeps | with_reducible apply atCycle_keeps | with_reducible apply keepsR_next | with_reducible apply keeps_ite | with_reducible apply keepsR_ite | intro _ | dsimp only | split)

theorem execDrvHalt_keeps {s0 s : State} (u : Nat) (k : Nat) (h : Keeps s0 s) : KeepsR s0 (execDrvHalt u k s) := by
  unfold execDrvHalt
  repeat' (first | with_reducible assumption | with_reducible exact Keeps.refl _ | with_reducible apply haltByCommand_keeps | with_reducible apply keepsR_next | with_reducible apply keeps_ite | with_reducible apply keepsR_ite | intro _ | dsimp only | split)

theorem execDrvResume_keeps {s0 s : State} (u : Nat) (k : Nat) (h : Keeps s0 s) : KeepsR s0 (execDrvResume u k s) := by
  unfold execDrvResume
  repeat' (first | with_reducible assumption | with_reducible exact Keeps.refl _ | with_reducible apply resumeCtx_keeps | with_reducible apply keepsR_next | with_reducible apply keeps_ite | with_reducible apply keepsR_ite | intro _ | dsimp only | split)

theorem execDrvRearm_keeps {s0 s : State} (u : Nat) (k : Nat) (h : Keeps s0 s) : KeepsR s0 (execDrvRearm u k s) := by
  unfold execDrvRearm
  repeat' (first | with_reducible assumption | with_reducible exact Keeps.refl _ | with_reducible apply rearmRequest_keeps | with_reducible apply keepsR_next | with_reducible apply keeps_ite | with_reducible apply keepsR_ite | intro _ | dsimp only | split)

theorem execRearmTakeEffect_keeps {s0 s : State} (u : Nat) (k : Nat) (t : Nat) (h : Keeps s0 s) : KeepsR s0 (execRearmTakeEffect u k t s) := by
  unfold execRearmTakeEffect
  repeat' (first | with_reducible assumption | with_reducible exact Keeps.refl _ | with_reducible apply rearmEffect_keeps | with_reducible apply atCycle_keeps | with_reducible apply keepsR_next | with_reducible apply keeps_ite | with_reducible apply keepsR_ite | intro _ | dsimp only | split)

theorem pPresent_keeps {s0 s : State} (p : Nat) (write : Bool) (h : Keeps s0 s) : Keeps s0 (pPresent p write s) := by
  unfold pPresent
  repeat' (first | with_reducible assumption | with_reducible exact Keeps.refl _ | with_reducible apply wr_keeps | with_reducible apply coreMod_keeps | with_reducible apply keeps_ite | simp only [keeps_mk_iff] | intro _ | dsimp only | split)

theorem paccPush_keeps {s0 s : State} (p : Nat) (write : Bool) (off : Nat) (len : Nat) (data : List Nat) (bad : Nat → Bool) (ret : PRet) (h : Keeps s0 s) : Keeps s0 (paccPush p write off len data bad ret s) := by
  unfold paccPush
  repeat' (first | with_reducible assumption | with_reducible exact Keeps.refl _ | with_reducible apply wr_keeps | with_reducible apply pPresent_keeps | with_reducible apply coreMod_keeps | with_reducible apply keeps_ite_snd | with_reducible apply keeps_ite | simp only [keeps_mk_iff] | intro _ | dsimp only | split)

theorem formRequest_keeps {s0 s : State} (g : Nat) (h : Keeps s0 s) : Keeps s0 (formRequest g s) := by
  unfold formRequest
  repeat' (first | with_reducible assumption | with_reducible exact Keeps.refl _ | with_reducible apply cbump_keeps | with_reducible apply ctxMod_keeps | with_reducible apply setBuf_keeps | with_reducible apply ctxShow_keeps | with_reducible apply paccPush_keeps | with_reducible apply keeps_ite | with_reducible apply keeps_ite_st | simp only [keeps_mk_iff] | intro _ | dsimp only | split)

theorem bumpArb_keeps {s0 s : State} (u : Nat) (h : Keeps s0 s) : Keeps s0 (bumpArb u s) := by
  unfold bumpArb
  repeat' (first | with_reducible assumption | with_reducible exact Keeps.refl _ | with_reducible apply bump_keeps | with_reducible apply keeps_ite | intro _ | dsimp only | split)

theorem execDrvRequestForm_keeps {s0 s : State} (u : Nat) (t : Nat) (h : Keeps s0 s) : KeepsR s0 (execDrvRequestForm u t s) := by
  unfold execDrvRequestForm
  repeat' (first | with_reducible assumption | with_reducible exact Keeps.refl _ | with_reducible apply atCycle_keeps | with_reducible apply cbump_keeps | with_reducible apply formRequest_keeps | with_reducible apply bumpArb_keeps | with_reducible apply keeps_foldl | with_reducible apply keeps_foldl_snd | with_reducible apply keeps_foldl_fst | with_reducible apply keepsR_next | with_reducible apply keeps_ite | with_reducible apply keepsR_ite | simp only [keeps_mk_iff] | with_reducible apply keeps_ite_snd | intro _ | dsimp only | split)

theorem farWrite_keeps {s0 s : State} (g : Nat) (off : Nat) (deadline : Nat) (data : List Nat) (bad : Nat → Bool) (h : Keeps s0 s) : Keeps s0 (farWrite g off deadline data bad s) := by
  unfold farWrite
  repeat' (first | with_reducible assumption | with_reducible exact Keeps.refl _ | with_reducible apply cbump_keeps | with_reducible apply keeps_ite | with_reducible apply keeps_ite_st | simp only [keeps_mk_iff] | with_reducible apply farWindow_keeps | intro _ | dsimp only | split)

theorem ctxRefused_keeps {s0 s : State} (g : Nat) (off : Nat) (x : Xact) (h : Keeps s0 s) : Keeps s0 (ctxRefused g off x s) := by
  unfold ctxRefused
  repeat' (first | with_reducible assumption | with_reducible exact Keeps.refl _ | with_reducible apply haltCtx_keeps | with_reducible apply streamFault_keeps | with_reducible apply keeps_ite | intro _ | dsimp only | split)

theorem ctxDataError_keeps {s0 s : State} (g : Nat) (x : Xact) (h : Keeps s0 s) : Keeps s0 (ctxDataError g x s) := by
  unfold ctxDataError
  repeat' (first | with_reducible assumption | with_reducible exact Keeps.refl _ | with_reducible apply streamFault_keeps | with_reducible apply keeps_ite | intro _ | dsimp only | split)

theorem execDrvReadResponse_keeps {s0 s : State} (i : Nat) (h : Keeps s0 s) : KeepsR s0 (execDrvReadResponse i s) := by
  unfold execDrvReadResponse
  repeat' (first | with_reducible assumption | with_reducible exact Keeps.refl _ | with_reducible apply ctxProgress_keeps | with_reducible apply fabDrop_keeps | with_reducible apply ctxRefused_keeps | with_reducible apply ctxDataError_keeps | with_reducible apply ctxShow_keeps | with_reducible apply farWrite_keeps | with_reducible apply paccPush_keeps | with_reducible apply fabSet_keeps | with_reducible apply keepsR_next | with_reducible apply keeps_ite | with_reducible apply keepsR_ite | with_reducible apply keeps_ite_st | simp only [keeps_mk_iff] | intro _ | dsimp only | split)

theorem execDrvWriteAck_keeps {s0 s : State} (i : Nat) (h : Keeps s0 s) : KeepsR s0 (execDrvWriteAck i s) := by
  unfold execDrvWriteAck
  repeat' (first | with_reducible assumption | with_reducible exact Keeps.refl _ | with_reducible apply ctxRefused_keeps | with_reducible apply fabDrop_keeps | with_reducible apply ctxDataError_keeps | with_reducible apply ctxShow_keeps | with_reducible apply farWrite_keeps | with_reducible apply ctxProgress_keeps | with_reducible apply keepsR_next | with_reducible apply keeps_ite | with_reducible apply keepsR_ite | with_reducible apply keeps_ite_st | intro _ | dsimp only | split)

theorem streamFilled_keeps {s0 s : State} (g : Nat) (off : Nat) (h : Keeps s0 s) : Keeps s0 (streamFilled g off s) := by
  unfold streamFilled
  repeat' (first | with_reducible assumption | with_reducible exact Keeps.refl _ | with_reducible apply ctxProgress_keeps | with_reducible apply keeps_ite | simp only [keeps_mk_iff] | intro _ | dsimp only | split)

theorem streamRead_keeps {s0 s : State} (g : Nat) (off : Nat) (deadline : Nat) (len : Nat) (data : List Nat) (err : Bool) (h : Keeps s0 s) : Keeps s0 (streamRead g off deadline len data err s) := by
  unfold streamRead
  repeat' (first | with_reducible assumption | with_reducible exact Keeps.refl _ | with_reducible apply ctxMod_keeps | with_reducible apply ctxShow_keeps | with_reducible apply haltCtx_keeps | with_reducible apply streamFault_keeps | with_reducible apply keeps_ite | simp only [keeps_mk_iff] | intro _ | dsimp only | split)

theorem execStrmAcq_keeps {s0 s : State} (c : Nat) (h : Keeps s0 s) : KeepsR s0 (execStrmAcq c s) := by
  unfold execStrmAcq
  repeat' (first | with_reducible assumption | with_reducible exact Keeps.refl _ | with_reducible apply xStart_keeps | with_reducible apply keepsR_next | with_reducible apply keeps_ite | with_reducible apply keepsR_ite | intro _ | dsimp only | split)

theorem execStrmRel_keeps {s0 s : State} (c : Nat) (h : Keeps s0 s) : KeepsR s0 (execStrmRel c s) := by
  unfold execStrmRel
  repeat' (first | with_reducible assumption | with_reducible exact Keeps.refl _ | with_reducible apply ctxShow_keeps | with_reducible apply releaseCtx_keeps | with_reducible apply xStart_keeps | with_reducible apply keepsR_next | with_reducible apply keeps_ite | with_reducible apply keepsR_ite | intro _ | dsimp only | split)

theorem execStrmResume_keeps {s0 s : State} (c : Nat) (h : Keeps s0 s) : KeepsR s0 (execStrmResume c s) := by
  unfold execStrmResume
  repeat' (first | with_reducible assumption | with_reducible exact Keeps.refl _ | with_reducible apply resumeCtx_keeps | with_reducible apply xStart_keeps | with_reducible apply keepsR_next | with_reducible apply keeps_ite | with_reducible apply keepsR_ite | intro _ | dsimp only | split)

theorem execStrmRearm_keeps {s0 s : State} (c : Nat) (h : Keeps s0 s) : KeepsR s0 (execStrmRearm c s) := by
  unfold execStrmRearm
  repeat' (first | with_reducible assumption | with_reducible exact Keeps.refl _ | with_reducible apply rearmRequest_keeps | with_reducible apply xStart_keeps | with_reducible apply keepsR_next | with_reducible apply keeps_ite | with_reducible apply keepsR_ite | intro _ | dsimp only | split)

end Sys2Proof.Machine
end

