-- ==== Sys2Proof/Laws/KeepsScratch.lean ====
section
/-! SUPPORT. What the operations of Machine/Scratch.lean keep (Laws/Keeps.lean). -/

namespace Sys2Proof.Machine

set_option linter.unusedTactic false
set_option linter.unreachableTactic false
set_option linter.unusedSimpArgs false

theorem confCycle_keeps {s0 s : State} (p : Nat) (h : Keeps s0 s) : Keeps s0 (confCycle p s) := by
  unfold confCycle
  repeat' (first | with_reducible assumption | with_reducible exact Keeps.refl _ | with_reducible apply bump_keeps | with_reducible apply keeps_foldl | with_reducible apply keeps_foldl_snd | with_reducible apply keeps_foldl_fst | with_reducible apply keeps_ite | with_reducible apply wr_keeps | with_reducible apply keeps_ite_snd | intro _ | dsimp only | split)

theorem spbselPut_keeps {s0 s : State} (p : Nat) (data : Word) (h : Keeps s0 s) : Keeps s0 (spbselPut p data s) := by
  unfold spbselPut
  repeat' (first | with_reducible assumption | with_reducible exact Keeps.refl _ | with_reducible apply coreMod_keeps | with_reducible apply wr_keeps | with_reducible apply wrW_keeps | with_reducible apply keeps_ite | simp only [keeps_mk_iff] | intro _ | dsimp only | split)

theorem spRehash_keeps {s0 s : State} (p : Nat) (h : Keeps s0 s) : Keeps s0 (spRehash p s) := by
  unfold spRehash
  repeat' (first | with_reducible assumption | with_reducible exact Keeps.refl _ | with_reducible apply freshBlock_keeps | with_reducible apply coreMod_keeps | with_reducible apply keeps_ite_snd | with_reducible apply keeps_ite | simp only [keeps_mk_iff] | intro _ | dsimp only | split)

theorem spcfgTaken_keeps {s0 s : State} (p : Nat) (before : Nat) (h : Keeps s0 s) : Keeps s0 (spcfgTaken p before s) := by
  unfold spcfgTaken
  repeat' (first | with_reducible assumption | with_reducible exact Keeps.refl _ | with_reducible apply spRehash_keeps | with_reducible apply keeps_ite | intro _ | dsimp only | split)

theorem execSpbselWrite_keeps {s0 s : State} (c : Nat) (data : Word) (h : Keeps s0 s) : KeepsR s0 (execSpbselWrite c data s) := by
  unfold execSpbselWrite
  repeat' (first | with_reducible assumption | with_reducible exact Keeps.refl _ | with_reducible apply spbselPut_keeps | with_reducible apply keepsR_next | with_reducible apply keeps_ite | with_reducible apply keepsR_ite | intro _ | dsimp only | split)

theorem vwPut_keeps {s0 s : State} (p : Nat) (k : Nat) (v : Nat) (h : Keeps s0 s) : Keeps s0 (vwPut p k v s) := by
  unfold vwPut
  repeat' (first | with_reducible assumption | with_reducible exact Keeps.refl _ | with_reducible apply descSet_keeps | with_reducible apply accPut_keeps | with_reducible apply tileSet_keeps | with_reducible apply keeps_ite | intro _ | dsimp only | split)

end Sys2Proof.Machine
end

