-- ==== Sys2Proof/Laws/KeepsTally.lean ====
section
/-! SUPPORT. What the operations of Machine/Tally.lean keep (Laws/Keeps.lean). -/

namespace Sys2Proof.Machine

set_option linter.unusedTactic false
set_option linter.unreachableTactic false
set_option linter.unusedSimpArgs false

theorem tlySet_keeps {s0 s : State} (u : Nat) (i : Nat) (v : Nat) (h : Keeps s0 s) : Keeps s0 (tlySet u i v s) := by
  unfold tlySet
  repeat' (first | with_reducible assumption | with_reducible exact Keeps.refl _ | with_reducible apply wr_keeps | with_reducible apply keeps_ite | intro _ | dsimp only | split)

theorem watchWr_keeps {s0 s : State} (f : Fld) (g : Fld) (u : Nat) (k : Nat) (v : Nat) (h : Keeps s0 s) : Keeps s0 (watchWr f g u k v s) := by
  unfold watchWr
  repeat' (first | with_reducible assumption | with_reducible exact Keeps.refl _ | with_reducible apply wr_keeps | with_reducible apply keeps_ite | intro _ | dsimp only | split)

theorem bumpOps_keeps {s0 s : State} (u : Nat) (h : Keeps s0 s) : Keeps s0 (bumpOps u s) := by
  unfold bumpOps
  repeat' (first | with_reducible assumption | with_reducible exact Keeps.refl _ | with_reducible apply bump_keeps | with_reducible apply keeps_ite | intro _ | dsimp only | split)

theorem bumpFire_keeps {s0 s : State} (u : Nat) (h : Keeps s0 s) : Keeps s0 (bumpFire u s) := by
  unfold bumpFire
  repeat' (first | with_reducible assumption | with_reducible exact Keeps.refl _ | with_reducible apply bump_keeps | with_reducible apply keeps_ite | intro _ | dsimp only | split)

theorem bumpFull_keeps {s0 s : State} (u : Nat) (h : Keeps s0 s) : Keeps s0 (bumpFull u s) := by
  unfold bumpFull
  repeat' (first | with_reducible assumption | with_reducible exact Keeps.refl _ | with_reducible apply bump_keeps | with_reducible apply keeps_ite | intro _ | dsimp only | split)

theorem waitAnswer_keeps {s0 s : State} (w : TWait) (h : Keeps s0 s) : Keeps s0 (waitAnswer w s) := by
  unfold waitAnswer
  repeat' (first | with_reducible assumption | with_reducible exact Keeps.refl _ | with_reducible apply tlyPush_keeps | with_reducible apply keeps_ite | simp only [keeps_mk_iff] | intro _ | dsimp only | split)

theorem evalWaits_keeps {s0 s : State} (u : Nat) (i : Nat) (h : Keeps s0 s) : Keeps s0 (evalWaits u i s) := by
  unfold evalWaits
  repeat' (first | with_reducible assumption | with_reducible exact Keeps.refl _ | with_reducible apply waitAnswer_keeps | with_reducible apply keeps_foldl | with_reducible apply keeps_foldl_snd | with_reducible apply keeps_foldl_fst | with_reducible apply keeps_ite_snd | with_reducible apply keeps_ite | simp only [keeps_mk_iff] | intro _ | dsimp only | split)

theorem watchFire_keeps {s0 s : State} (u : Nat) (k : Nat) (i : Nat) (h : Keeps s0 s) : Keeps s0 (watchFire u k i s) := by
  unfold watchFire
  repeat' (first | with_reducible assumption | with_reducible exact Keeps.refl _ | with_reducible apply bumpFire_keeps | with_reducible apply watchWr_keeps | with_reducible apply keeps_ite | simp only [keeps_mk_iff] | intro _ | dsimp only | split)

theorem evalWatches_keeps {s0 s : State} (u : Nat) (i : Nat) (h : Keeps s0 s) : Keeps s0 (evalWatches u i s) := by
  unfold evalWatches
  repeat' (first | with_reducible assumption | with_reducible exact Keeps.refl _ | with_reducible apply watchFire_keeps | with_reducible apply keeps_foldl | with_reducible apply keeps_foldl_snd | with_reducible apply keeps_foldl_fst | with_reducible apply keeps_ite_snd | with_reducible apply keeps_ite | intro _ | dsimp only | split)

theorem crookTally_keeps {s0 s : State} (u : Nat) (i : Nat) (old : Nat) (h : Keeps s0 s) : Keeps s0 (crookTally u i old s) := by
  unfold crookTally
  repeat' (first | with_reducible assumption | with_reducible exact Keeps.refl _ | with_reducible apply crookFire_keeps | with_reducible apply keeps_ite | intro _ | dsimp only | split)

theorem tallyAdd_keeps {s0 s : State} (u : Nat) (i : Nat) (delta : Nat) (h : Keeps s0 s) : Keeps s0 (tallyAdd u i delta s) := by
  unfold tallyAdd
  repeat' (first | with_reducible assumption | with_reducible exact Keeps.refl _ | with_reducible apply evalWaits_keeps | with_reducible apply tlySet_keeps | with_reducible apply evalWatches_keeps | with_reducible apply bumpOps_keeps | with_reducible apply crookTally_keeps | with_reducible apply keeps_ite | intro _ | dsimp only | split)

theorem tallySet_keeps {s0 s : State} (u : Nat) (i : Nat) (v : Nat) (h : Keeps s0 s) : Keeps s0 (tallySet u i v s) := by
  unfold tallySet
  repeat' (first | with_reducible assumption | with_reducible exact Keeps.refl _ | with_reducible apply evalWaits_keeps | with_reducible apply tlySet_keeps | with_reducible apply evalWatches_keeps | with_reducible apply bumpOps_keeps | with_reducible apply keeps_ite | intro _ | dsimp only | split)

theorem hostDone_keeps {s0 s : State} (f : Nat) (k : Nat) (status : Nat) (res : Nat) (h : Keeps s0 s) : Keeps s0 (hostDone f k status res s) := by
  unfold hostDone
  repeat' (first | with_reducible assumption | with_reducible exact Keeps.refl _ | with_reducible apply keeps_ite | simp only [keeps_mk_iff] | intro _ | dsimp only | split)

theorem addDone_keeps {s0 s : State} (r : List Nat) (cnt : Nat) (h : Keeps s0 s) : Keeps s0 (addDone r cnt s) := by
  unfold addDone
  repeat' (first | with_reducible assumption | with_reducible exact Keeps.refl _ | with_reducible apply qMod_keeps | with_reducible apply ltkApplied_keeps | with_reducible apply hostDone_keeps | with_reducible apply keeps_ite | simp only [keeps_mk_iff] | intro _ | dsimp only | split)

theorem tlyRefused_keeps {s0 s : State} (op : Nat) (r : List Nat) (h : Keeps s0 s) : Keeps s0 (tlyRefused op r s) := by
  unfold tlyRefused
  repeat' (first | with_reducible assumption | with_reducible exact Keeps.refl _ | with_reducible apply qMod_keeps | with_reducible apply qFree_keeps | with_reducible apply streamFault_keeps | with_reducible apply ltkRefuse_keeps | with_reducible apply xFault_keeps | with_reducible apply hostDone_keeps | with_reducible apply keeps_ite | simp only [keeps_mk_iff] | intro _ | dsimp only | split)

theorem tlyDrop_keeps {s0 s : State} (i : Nat) (h : Keeps s0 s) : Keeps s0 (tlyDrop i s) := by
  unfold tlyDrop
  repeat' (first | with_reducible assumption | with_reducible exact Keeps.refl _ | with_reducible apply keeps_ite | simp only [keeps_mk_iff] | intro _ | dsimp only | split)

theorem tlyRefuse_keeps {s0 s : State} (k : TPkt) (h : Keeps s0 s) : Keeps s0 (tlyRefuse k s) := by
  unfold tlyRefuse
  repeat' (first | with_reducible assumption | with_reducible exact Keeps.refl _ | with_reducible apply gateRefuse_keeps | with_reducible apply tlyPush_keeps | with_reducible apply keeps_ite | simp only [keeps_mk_iff] | intro _ | dsimp only | split)

theorem execTallyAdd_keeps {s0 s : State} (i : Nat) (h : Keeps s0 s) : KeepsR s0 (execTallyAdd i s) := by
  unfold execTallyAdd
  repeat' (first | with_reducible assumption | with_reducible exact Keeps.refl _ | with_reducible apply tallySet_keeps | with_reducible apply tlyDrop_keeps | with_reducible apply tlyRefuse_keeps | with_reducible apply tallyAdd_keeps | with_reducible apply addDone_keeps | with_reducible apply keepsR_next | with_reducible apply keeps_ite | with_reducible apply keepsR_ite | intro _ | dsimp only | split)

theorem execTallyWaitRequest_keeps {s0 s : State} (i : Nat) (h : Keeps s0 s) : KeepsR s0 (execTallyWaitRequest i s) := by
  unfold execTallyWaitRequest
  repeat' (first | with_reducible assumption | with_reducible exact Keeps.refl _ | with_reducible apply tlyRefuse_keeps | with_reducible apply tlyDrop_keeps | with_reducible apply bumpOps_keeps | with_reducible apply evalWaits_keeps | with_reducible apply keepsR_next | with_reducible apply keeps_ite | with_reducible apply keepsR_ite | simp only [keeps_mk_iff] | intro _ | dsimp only | split)

theorem waitDone_keeps {s0 s : State} (p : Nat) (d : Nat) (h : Keeps s0 s) : Keeps s0 (waitDone p d s) := by
  unfold waitDone
  repeat' (first | with_reducible assumption | with_reducible exact Keeps.refl _ | with_reducible apply qFree_keeps | with_reducible apply spWaited_keeps | with_reducible apply keeps_ite | intro _ | dsimp only | split)

theorem execTallyWaitAnswer_keeps {s0 s : State} (i : Nat) (h : Keeps s0 s) : KeepsR s0 (execTallyWaitAnswer i s) := by
  unfold execTallyWaitAnswer
  repeat' (first | with_reducible assumption | with_reducible exact Keeps.refl _ | with_reducible apply waitDone_keeps | with_reducible apply tlyDrop_keeps | with_reducible apply hostDone_keeps | with_reducible apply keepsR_next | with_reducible apply keeps_ite | with_reducible apply keepsR_ite | with_reducible apply qFree_keeps | intro _ | dsimp only | split)

theorem execTallyRefusal_keeps {s0 s : State} (i : Nat) (h : Keeps s0 s) : KeepsR s0 (execTallyRefusal i s) := by
  unfold execTallyRefusal
  repeat' (first | with_reducible assumption | with_reducible exact Keeps.refl _ | with_reducible apply tlyRefused_keeps | with_reducible apply tlyDrop_keeps | with_reducible apply keepsR_next | with_reducible apply keeps_ite | with_reducible apply keepsR_ite | intro _ | dsimp only | split)

theorem tlyHold_keeps {s0 s : State} (op : Nat) (u : Nat) (i : Nat) (v : Nat) (h : Keeps s0 s) : Keeps s0 (tlyHold op u i v s) := by
  unfold tlyHold
  repeat' (first | with_reducible assumption | with_reducible exact Keeps.refl _ | with_reducible apply tlyPush_keeps | with_reducible apply keeps_ite | simp only [keeps_mk_iff] | intro _ | dsimp only | split)

theorem execTlyCntWrite_keeps {s0 s : State} (u : Nat) (i : Nat) (data : Word) (h : Keeps s0 s) : KeepsR s0 (execTlyCntWrite u i data s) := by
  unfold execTlyCntWrite
  repeat' (first | with_reducible assumption | with_reducible exact Keeps.refl _ | with_reducible apply tlyHold_keeps | with_reducible apply tallySet_keeps | with_reducible apply keepsR_next | with_reducible apply keeps_ite | with_reducible apply keepsR_ite | intro _ | dsimp only | split)

theorem execTlyAddWrite_keeps {s0 s : State} (u : Nat) (i : Nat) (data : Word) (h : Keeps s0 s) : KeepsR s0 (execTlyAddWrite u i data s) := by
  unfold execTlyAddWrite
  repeat' (first | with_reducible assumption | with_reducible exact Keeps.refl _ | with_reducible apply tlyHold_keeps | with_reducible apply tallyAdd_keeps | with_reducible apply keepsR_next | with_reducible apply keeps_ite | with_reducible apply keepsR_ite | intro _ | dsimp only | split)

theorem watchFree_keeps {s0 s : State} (u : Nat) (k : Nat) (h : Keeps s0 s) : Keeps s0 (watchFree u k s) := by
  unfold watchFree
  repeat' (first | with_reducible assumption | with_reducible exact Keeps.refl _ | with_reducible apply wrW_keeps | with_reducible apply keeps_ite | intro _ | dsimp only | split)

theorem execTlyWatchCancel_keeps {s0 s : State} (u : Nat) (k : Nat) (h : Keeps s0 s) : KeepsR s0 (execTlyWatchCancel u k s) := by
  unfold execTlyWatchCancel
  repeat' (first | with_reducible assumption | with_reducible exact Keeps.refl _ | with_reducible apply watchFree_keeps | with_reducible apply keepsR_next | with_reducible apply keeps_ite | with_reducible apply keepsR_ite | intro _ | dsimp only | split)

theorem xResult_keeps {s0 s : State} (p : Nat) (e : QEnt) (ra : Nat) (v : Nat) (h : Keeps s0 s) : Keeps s0 (xResult p e ra v s) := by
  unfold xResult
  repeat' (first | with_reducible assumption | with_reducible exact Keeps.refl _ | with_reducible apply xAccess_keeps | with_reducible apply keeps_ite | with_reducible apply spWriteBytes_keeps | with_reducible apply qMod_keeps | simp only [keeps_mk_iff] | intro _ | dsimp only | split)

theorem xSpoil_keeps {s0 s : State} (p : Nat) (e : QEnt) (ra : Nat) (h : Keeps s0 s) : Keeps s0 (xSpoil p e ra s) := by
  unfold xSpoil
  repeat' (first | with_reducible assumption | with_reducible exact Keeps.refl _ | with_reducible apply spScramble_keeps | with_reducible apply keeps_ite | intro _ | dsimp only | split)

theorem sigRemote_keeps {s0 s : State} (p : Nat) (e : QEnt) (h : Keeps s0 s) : Keeps s0 (sigRemote p e s) := by
  unfold sigRemote
  repeat' (first | with_reducible assumption | with_reducible exact Keeps.refl _ | with_reducible apply qMod_keeps | with_reducible apply ltkSend_keeps | with_reducible apply holdOut_keeps | with_reducible apply holdStuck_keeps | with_reducible apply xFault_keeps | with_reducible apply keeps_ite | simp only [keeps_mk_iff] | intro _ | dsimp only | split)

theorem sigRetry_keeps {s0 s : State} (p : Nat) (h : Keeps s0 s) : Keeps s0 (sigRetry p s) := by
  unfold sigRetry
  repeat' (first | with_reducible assumption | with_reducible exact Keeps.refl _ | with_reducible apply sigRemote_keeps | with_reducible apply keeps_ite | with_reducible apply keeps_ite_st | intro _ | dsimp only | split)

theorem tlySend_keeps {s0 s : State} (op : Nat) (p : Nat) (e : QEnt) (h : Keeps s0 s) : Keeps s0 (tlySend op p e s) := by
  unfold tlySend
  repeat' (first | with_reducible assumption | with_reducible exact Keeps.refl _ | with_reducible apply tlyPush_keeps | with_reducible apply keeps_ite | simp only [keeps_mk_iff] | intro _ | dsimp only | split)

theorem execTlySig_keeps {s0 s : State} (c : Nat) (h : Keeps s0 s) : KeepsR s0 (execTlySig c s) := by
  unfold execTlySig
  repeat' (first | with_reducible assumption | with_reducible exact Keeps.refl _ | with_reducible apply xStart_keeps | with_reducible apply tlySend_keeps | with_reducible apply sigRemote_keeps | with_reducible apply keepsR_next | with_reducible apply keeps_ite | with_reducible apply keepsR_ite | intro _ | dsimp only | split)

theorem execTlyWait_keeps {s0 s : State} (c : Nat) (h : Keeps s0 s) : KeepsR s0 (execTlyWait c s) := by
  unfold execTlyWait
  repeat' (first | with_reducible assumption | with_reducible exact Keeps.refl _ | with_reducible apply xStart_keeps | with_reducible apply tlySend_keeps | with_reducible apply keepsR_next | with_reducible apply keeps_ite | with_reducible apply keepsR_ite | intro _ | dsimp only | split)

theorem unitRefuses_keeps {s0 s : State} (p : Nat) (e : QEnt) (h : Keeps s0 s) : Keeps s0 (unitRefuses p e s) := by
  unfold unitRefuses
  repeat' (first | with_reducible assumption | with_reducible exact Keeps.refl _ | with_reducible apply xFault_keeps | with_reducible apply xSpoil_keeps | with_reducible apply qMod_keeps | with_reducible apply gateRefuse_keeps | with_reducible apply keeps_ite | simp only [keeps_mk_iff] | intro _ | dsimp only | split)

theorem atUnit_keeps {s0 s : State} (p : Nat) (e : QEnt) (run : Nat → Nat → State → State × Nat) (hrun : ∀ u y0 y1 v, Keeps u v → Keeps u (run y0 y1 v).1) (h : Keeps s0 s) : Keeps s0 (atUnit p e run s) := by
  unfold atUnit
  repeat' (first | with_reducible assumption | with_reducible exact Keeps.refl _ | apply hrun | with_reducible apply unitRefuses_keeps | with_reducible apply bumpOps_keeps | with_reducible apply xResult_keeps | with_reducible apply keeps_ite_snd | with_reducible apply keeps_ite | intro _ | dsimp only | split)

theorem watchAdd_keeps {s0 s : State} (e : QEnt) (u : Nat) (i : Nat) (h : Keeps s0 s) : Keeps s0 (watchAdd e u i s).1 := by
  unfold watchAdd
  repeat' (first | with_reducible assumption | with_reducible exact Keeps.refl _ | with_reducible apply bumpFull_keeps | with_reducible apply watchWr_keeps | with_reducible apply watchFire_keeps | with_reducible apply keeps_ite | intro _ | dsimp only | split)

theorem watchUndo_keeps {s0 s : State} (e : QEnt) (u : Nat) (i : Nat) (h : Keeps s0 s) : Keeps s0 (watchUndo e u i s).1 := by
  unfold watchUndo
  repeat' (first | with_reducible assumption | with_reducible exact Keeps.refl _ | with_reducible apply watchFree_keeps | with_reducible apply keeps_ite | intro _ | dsimp only | split)

theorem execTlyWatch_keeps {s0 s : State} (c : Nat) (h : Keeps s0 s) : KeepsR s0 (execTlyWatch c s) := by
  unfold execTlyWatch
  repeat' (first | with_reducible assumption | with_reducible exact Keeps.refl _ | with_reducible apply xStart_keeps | with_reducible apply atUnit_keeps | with_reducible apply watchAdd_keeps | with_reducible apply keepsR_next | with_reducible apply keeps_ite | with_reducible apply keepsR_ite | intro _ | dsimp only | split)

theorem execTlyRead_keeps {s0 s : State} (c : Nat) (h : Keeps s0 s) : KeepsR s0 (execTlyRead c s) := by
  unfold execTlyRead
  repeat' (first | with_reducible assumption | with_reducible exact Keeps.refl _ | with_reducible apply xStart_keeps | with_reducible apply atUnit_keeps | with_reducible apply keepsR_next | with_reducible apply keeps_ite | with_reducible apply keepsR_ite | intro _ | dsimp only | split)

theorem execTlyUnwatch_keeps {s0 s : State} (c : Nat) (h : Keeps s0 s) : KeepsR s0 (execTlyUnwatch c s) := by
  unfold execTlyUnwatch
  repeat' (first | with_reducible assumption | with_reducible exact Keeps.refl _ | with_reducible apply xStart_keeps | with_reducible apply atUnit_keeps | with_reducible apply watchUndo_keeps | with_reducible apply keepsR_next | with_reducible apply keeps_ite | with_reducible apply keepsR_ite | intro _ | dsimp only | split)

end Sys2Proof.Machine
end

