-- ==== Sys2Proof/Laws/KeepsWhistle.lean ====
section
/-! SUPPORT. What the operations of Machine/Whistle.lean keep (Laws/Keeps.lean). -/

namespace Sys2Proof.Machine

set_option linter.unusedTactic false
set_option linter.unreachableTactic false
set_option linter.unusedSimpArgs false

theorem cnSet_keeps {s0 s : State} (f : Fld) (p : Nat) (k : Nat) (v : Nat) (h : Keeps s0 s) : Keeps s0 (cnSet f p k v s) := by
  unfold cnSet
  repeat' (first | with_reducible assumption | with_reducible exact Keeps.refl _ | with_reducible apply wr_keeps | with_reducible apply keeps_ite | intro _ | dsimp only | split)

theorem cnClear_keeps {s0 s : State} (p : Nat) (k : Nat) (h : Keeps s0 s) : Keeps s0 (cnClear p k s) := by
  unfold cnClear
  repeat' (first | with_reducible assumption | with_reducible exact Keeps.refl _ | with_reducible apply wrW_keeps | with_reducible apply keeps_ite | simp only [keeps_mk_iff] | intro _ | dsimp only | split)

theorem sendsPut_keeps {s0 s : State} (p : Nat) (l : List WSend) (h : Keeps s0 s) : Keeps s0 (sendsPut p l s) := by
  unfold sendsPut
  repeat' (first | with_reducible assumption | with_reducible exact Keeps.refl _ | with_reducible apply keeps_ite | simp only [keeps_mk_iff] | intro _ | dsimp only | split)

theorem rqPut_keeps {s0 s : State} (p : Nat) (q : Nat) (l : List (List Nat)) (h : Keeps s0 s) : Keeps s0 (rqPut p q l s) := by
  unfold rqPut
  repeat' (first | with_reducible assumption | with_reducible exact Keeps.refl _ | with_reducible apply wr_keeps | with_reducible apply keeps_foldl | with_reducible apply keeps_foldl_snd | with_reducible apply keeps_foldl_fst | with_reducible apply keeps_ite_snd | with_reducible apply keeps_ite | simp only [keeps_mk_iff] | intro _ | dsimp only | split)

theorem spillPut_keeps {s0 s : State} (p : Nat) (key : Nat) (l : List WSpill) (h : Keeps s0 s) : Keeps s0 (spillPut p key l s) := by
  unfold spillPut
  repeat' (first | with_reducible assumption | with_reducible exact Keeps.refl _ | with_reducible apply wr_keeps | with_reducible apply keeps_ite | simp only [keeps_mk_iff] | intro _ | dsimp only | split)

theorem whsRecord_keeps {s0 s : State} (n : Option Nat) (die : Nat) (core : Nat) (reason : Nat) (m : WMsg) (h : Keeps s0 s) : Keeps s0 (whsRecord n die core reason m s) := by
  unfold whsRecord
  repeat' (first | with_reducible assumption | with_reducible exact Keeps.refl _ | with_reducible apply faultRecord_keeps | with_reducible apply keeps_ite | intro _ | dsimp only | split)

theorem whsPush_keeps {s0 s : State} (m : WMsg) (h : Keeps s0 s) : Keeps s0 (whsPush m s) := by
  unfold whsPush
  repeat' (first | with_reducible assumption | with_reducible exact Keeps.refl _ | with_reducible apply keeps_ite | simp only [keeps_mk_iff] | intro _ | dsimp only | split)

theorem whsReply_keeps {s0 s : State} (m : WMsg) (kind : Nat) (h : Keeps s0 s) : Keeps s0 (whsReply m kind s) := by
  unfold whsReply
  repeat' (first | with_reducible assumption | with_reducible exact Keeps.refl _ | with_reducible apply whsPush_keeps | with_reducible apply keeps_ite | simp only [keeps_mk_iff] | intro _ | dsimp only | split)

theorem whsDelivered_keeps {s0 s : State} (m : WMsg) (h : Keeps s0 s) : Keeps s0 (whsDelivered m s) := by
  unfold whsDelivered
  repeat' (first | with_reducible assumption | with_reducible exact Keeps.refl _ | with_reducible apply whsReply_keeps | with_reducible apply ltkApplied_keeps | with_reducible apply keeps_ite | intro _ | dsimp only | split)

theorem whsLand_keeps {s0 s : State} (p : Nat) (c : Nat) (m : WMsg) (l : Landing) (buf : List Nat) (ack : Bool) (h : Keeps s0 s) : Keeps s0 (whsLand p c m l buf ack s) := by
  unfold whsLand
  repeat' (first | with_reducible assumption | with_reducible exact Keeps.refl _ | with_reducible apply bufferBack_keeps | with_reducible apply bump_keeps | with_reducible apply whsDelivered_keeps | with_reducible apply paccPush_keeps | with_reducible apply rqPut_keeps | with_reducible apply keeps_ite | simp only [keeps_mk_iff] | with_reducible apply spWriteBytes_keeps | intro _ | dsimp only | split)

theorem whsSpill_keeps {s0 s : State} (p : Nat) (c : Nat) (n : Nat) (m : WMsg) (l : Landing) (h : Keeps s0 s) : Keeps s0 (whsSpill p c n m l s).2 := by
  unfold whsSpill
  repeat' (first | with_reducible assumption | with_reducible exact Keeps.refl _ | with_reducible apply byreGetBy_keeps | with_reducible apply bump_keeps | with_reducible apply spillPut_keeps | with_reducible apply wr_keeps | with_reducible apply keeps_ite_snd | with_reducible apply keeps_ite | with_reducible apply keeps_ite_st | simp only [keeps_mk_iff] | with_reducible apply byreGet_keeps | intro _ | dsimp only | split)

theorem whsNoMatch_keeps {s0 s : State} (p : Nat) (c : Nat) (n : Nat) (reason : Nat) (m : WMsg) (h : Keeps s0 s) : Keeps s0 (whsNoMatch p c n reason m s) := by
  unfold whsNoMatch
  repeat' (first | with_reducible assumption | with_reducible exact Keeps.refl _ | with_reducible apply wr_keeps | with_reducible apply bump_keeps | with_reducible apply whsRecord_keeps | with_reducible apply keeps_ite | intro _ | dsimp only | split)

theorem whsPlace_keeps {s0 s : State} (p : Nat) (c : Nat) (n : Nat) (m : WMsg) (h : Keeps s0 s) : Keeps s0 (whsPlace p c n m s).2 := by
  unfold whsPlace
  repeat' (first | with_reducible assumption | with_reducible exact Keeps.refl _ | with_reducible apply whsDelivered_keeps | with_reducible apply whsNoMatch_keeps | with_reducible apply whsLand_keeps | with_reducible apply whsSpill_keeps | with_reducible apply keeps_ite_snd | with_reducible apply keeps_ite | intro _ | dsimp only | split)

theorem whsGateRefuses_keeps {s0 s : State} (m : WMsg) (h : Keeps s0 s) : Keeps s0 (whsGateRefuses m s) := by
  unfold whsGateRefuses
  repeat' (first | with_reducible assumption | with_reducible exact Keeps.refl _ | with_reducible apply gateRefuse_keeps | with_reducible apply keeps_ite | intro _ | dsimp only | split)

theorem whsArrive_keeps {s0 s : State} (m : WMsg) (h : Keeps s0 s) : Keeps s0 (whsArrive m s).2 := by
  unfold whsArrive
  repeat' (first | with_reducible assumption | with_reducible exact Keeps.refl _ | with_reducible apply whsGateRefuses_keeps | with_reducible apply whsDelivered_keeps | with_reducible apply whsNoMatch_keeps | with_reducible apply bump_keeps | with_reducible apply wr_keeps | with_reducible apply whsPlace_keeps | with_reducible apply cnSet_keeps | with_reducible apply keeps_ite_snd | with_reducible apply keeps_ite | with_reducible apply gateRefuse_keeps | intro _ | dsimp only | split)

theorem whsDrop_keeps {s0 s : State} (i : Nat) (h : Keeps s0 s) : Keeps s0 (whsDrop i s) := by
  unfold whsDrop
  repeat' (first | with_reducible assumption | with_reducible exact Keeps.refl _ | with_reducible apply keeps_ite | simp only [keeps_mk_iff] | intro _ | dsimp only | split)

theorem arriveReply_keeps {s0 s : State} (m : WMsg) (code : Nat) (h : Keeps s0 s) : Keeps s0 (arriveReply m code s) := by
  unfold arriveReply
  repeat' (first | with_reducible assumption | with_reducible exact Keeps.refl _ | with_reducible apply whsReply_keeps | with_reducible apply keeps_ite | intro _ | dsimp only | split)

theorem execWhistleMessage_keeps {s0 s : State} (i : Nat) (h : Keeps s0 s) : KeepsR s0 (execWhistleMessage i s) := by
  unfold execWhistleMessage
  repeat' (first | with_reducible assumption | with_reducible exact Keeps.refl _ | with_reducible apply arriveReply_keeps | with_reducible apply whsArrive_keeps | with_reducible apply whsDrop_keeps | with_reducible apply keepsR_next | with_reducible apply keeps_ite | with_reducible apply keepsR_ite | intro _ | dsimp only | split)

theorem whsAcked_keeps {s0 s : State} (key : Nat) (sid : Nat) (h : Keeps s0 s) : Keeps s0 (whsAcked key sid s) := by
  unfold whsAcked
  repeat' (first | with_reducible assumption | with_reducible exact Keeps.refl _ | with_reducible apply watchFree_keeps | with_reducible apply sendsPut_keeps | with_reducible apply cnClear_keeps | with_reducible apply keeps_ite | intro _ | dsimp only | split)

theorem execWhistleAck_keeps {s0 s : State} (i : Nat) (h : Keeps s0 s) : KeepsR s0 (execWhistleAck i s) := by
  unfold execWhistleAck
  repeat' (first | with_reducible assumption | with_reducible exact Keeps.refl _ | with_reducible apply whsAcked_keeps | with_reducible apply whsDrop_keeps | with_reducible apply keepsR_next | with_reducible apply keeps_ite | with_reducible apply keepsR_ite | intro _ | dsimp only | split)

theorem whsBusy_keeps {s0 s : State} (key : Nat) (m : WMsg) (t : Nat) (h : Keeps s0 s) : Keeps s0 (whsBusy key m t s) := by
  unfold whsBusy
  repeat' (first | with_reducible assumption | with_reducible exact Keeps.refl _ | with_reducible apply sendsPut_keeps | with_reducible apply keeps_ite | simp only [keeps_mk_iff] | intro _ | dsimp only | split)

theorem execBusyRefusal_keeps {s0 s : State} (i : Nat) (t : Nat) (h : Keeps s0 s) : KeepsR s0 (execBusyRefusal i t s) := by
  unfold execBusyRefusal
  repeat' (first | with_reducible assumption | with_reducible exact Keeps.refl _ | with_reducible apply atTime_keeps | with_reducible apply whsBusy_keeps | with_reducible apply whsDrop_keeps | with_reducible apply keepsR_next | with_reducible apply keeps_ite | with_reducible apply keepsR_ite | intro _ | dsimp only | split)

theorem execWhistleResend_keeps {s0 s : State} (c : Nat) (sid : Nat) (t : Nat) (h : Keeps s0 s) : KeepsR s0 (execWhistleResend c sid t s) := by
  unfold execWhistleResend
  repeat' (first | with_reducible assumption | with_reducible exact Keeps.refl _ | with_reducible apply atTime_keeps | with_reducible apply sendsPut_keeps | with_reducible apply whsPush_keeps | with_reducible apply bump_keeps | with_reducible apply keepsR_next | with_reducible apply keeps_ite | with_reducible apply keepsR_ite | with_reducible apply keeps_ite_st | simp only [keeps_mk_iff] | intro _ | dsimp only | split)

theorem whsRefused_keeps {s0 s : State} (key : Nat) (m : WMsg) (h : Keeps s0 s) : Keeps s0 (whsRefused key m s) := by
  unfold whsRefused
  repeat' (first | with_reducible assumption | with_reducible exact Keeps.refl _ | with_reducible apply wr_keeps | with_reducible apply whsRecord_keeps | with_reducible apply sendsPut_keeps | with_reducible apply watchFree_keeps | with_reducible apply keeps_ite | with_reducible apply cnSet_keeps | intro _ | dsimp only | split)

theorem cnBind_keeps {s0 s : State} (p : Nat) (r : Nat) (m : WMsg) (h : Keeps s0 s) : Keeps s0 (cnBind p r m s) := by
  unfold cnBind
  repeat' (first | with_reducible assumption | with_reducible exact Keeps.refl _ | with_reducible apply cnSet_keeps | with_reducible apply keeps_ite | simp only [keeps_mk_iff] | intro _ | dsimp only | split)

theorem openReply_keeps {s0 s : State} (m : WMsg) (kind : Nat) (h : Keeps s0 s) : Keeps s0 (openReply m kind s) := by
  unfold openReply
  repeat' (first | with_reducible assumption | with_reducible exact Keeps.refl _ | with_reducible apply ltkSend_keeps | with_reducible apply whsPush_keeps | with_reducible apply keeps_ite | simp only [keeps_mk_iff] | intro _ | dsimp only | split)

theorem openRefuse_keeps {s0 s : State} (p : Nat) (m : WMsg) (h : Keeps s0 s) : Keeps s0 (openRefuse p m s) := by
  unfold openRefuse
  repeat' (first | with_reducible assumption | with_reducible exact Keeps.refl _ | with_reducible apply wr_keeps | with_reducible apply openReply_keeps | with_reducible apply whsRecord_keeps | with_reducible apply keeps_ite | intro _ | dsimp only | split)

theorem opensPut_keeps {s0 s : State} (p : Nat) (r : Nat) (l : List WMsg) (h : Keeps s0 s) : Keeps s0 (opensPut p r l s) := by
  unfold opensPut
  repeat' (first | with_reducible assumption | with_reducible exact Keeps.refl _ | with_reducible apply keeps_ite | simp only [keeps_mk_iff] | intro _ | dsimp only | split)

theorem openBind_keeps {s0 s : State} (m : WMsg) (h : Keeps s0 s) : Keeps s0 (openBind m s) := by
  unfold openBind
  repeat' (first | with_reducible assumption | with_reducible exact Keeps.refl _ | with_reducible apply openReply_keeps | with_reducible apply cnBind_keeps | with_reducible apply keeps_ite | simp only [keeps_mk_iff] | intro _ | dsimp only | split)

theorem openArrive_keeps {s0 s : State} (m : WMsg) (h : Keeps s0 s) : Keeps s0 (openArrive m s) := by
  unfold openArrive
  repeat' (first | with_reducible assumption | with_reducible exact Keeps.refl _ | with_reducible apply openBind_keeps | with_reducible apply openRefuse_keeps | with_reducible apply whsDrop_keeps | with_reducible apply opensPut_keeps | with_reducible apply keeps_ite_snd | with_reducible apply keeps_ite | simp only [keeps_mk_iff] | with_reducible apply openReply_keeps | with_reducible apply cnBind_keeps | intro _ | dsimp only | split)

theorem execOpenRequest_keeps {s0 s : State} (i : Nat) (h : Keeps s0 s) : KeepsR s0 (execOpenRequest i s) := by
  unfold execOpenRequest
  repeat' (first | with_reducible assumption | with_reducible exact Keeps.refl _ | with_reducible apply whsReply_keeps | with_reducible apply whsGateRefuses_keeps | with_reducible apply whsDrop_keeps | with_reducible apply openArrive_keeps | with_reducible apply keepsR_next | with_reducible apply keeps_ite | with_reducible apply keepsR_ite | with_reducible apply gateRefuse_keeps | intro _ | dsimp only | split)

theorem whsHold_keeps {s0 s : State} (p : Nat) (r : Nat) (m : WMsg) (h : Keeps s0 s) : Keeps s0 (whsHold p r m s) := by
  unfold whsHold
  repeat' (first | with_reducible assumption | with_reducible exact Keeps.refl _ | with_reducible apply whsAcked_keeps | with_reducible apply holdOut_keeps | with_reducible apply holdStuck_keeps | with_reducible apply keeps_ite | intro _ | dsimp only | split)

theorem holdRetry_keeps {s0 s : State} (p : Nat) (h : Keeps s0 s) : Keeps s0 (holdRetry p s) := by
  unfold holdRetry
  repeat' (first | with_reducible assumption | with_reducible exact Keeps.refl _ | with_reducible apply whsHold_keeps | with_reducible apply keeps_foldl | with_reducible apply keeps_foldl_snd | with_reducible apply keeps_foldl_fst | with_reducible apply keeps_ite | with_reducible apply keeps_ite_st | intro _ | dsimp only | split)

theorem whsGo_keeps {s0 s : State} (p : Nat) (m0 : WMsg) (route : Option Nat) (h : Keeps s0 s) : Keeps s0 (whsGo p m0 route s) := by
  unfold whsGo
  repeat' (first | with_reducible assumption | with_reducible exact Keeps.refl _ | with_reducible apply bump_keeps | with_reducible apply sendsPut_keeps | with_reducible apply whsPush_keeps | with_reducible apply whsHold_keeps | with_reducible apply whsRefused_keeps | with_reducible apply ltkSend_keeps | with_reducible apply keeps_ite | simp only [keeps_mk_iff] | with_reducible apply holdOut_keeps | with_reducible apply holdStuck_keeps | intro _ | dsimp only | split)

theorem closeWaiting_keeps {s0 s : State} (p : Nat) (l : Nat) (opened : Bool) (h : Keeps s0 s) : Keeps s0 (closeWaiting p l opened s) := by
  unfold closeWaiting
  repeat' (first | with_reducible assumption | with_reducible exact Keeps.refl _ | with_reducible apply sendsPut_keeps | with_reducible apply cnClear_keeps | with_reducible apply whsGo_keeps | with_reducible apply keeps_ite | with_reducible apply keeps_ite_st | with_reducible apply whsPush_keeps | simp only [keeps_mk_iff] | intro _ | dsimp only | split)

theorem openAnswered_keeps {s0 s : State} (p : Nat) (l : Nat) (bound : Bool) (h : Keeps s0 s) : Keeps s0 (openAnswered p l bound s) := by
  unfold openAnswered
  repeat' (first | with_reducible assumption | with_reducible exact Keeps.refl _ | with_reducible apply closeWaiting_keeps | with_reducible apply cnSet_keeps | with_reducible apply keeps_ite | intro _ | dsimp only | split)

theorem execWhistleBrandFault_keeps {s0 s : State} (i : Nat) (h : Keeps s0 s) : KeepsR s0 (execWhistleBrandFault i s) := by
  unfold execWhistleBrandFault
  repeat' (first | with_reducible assumption | with_reducible exact Keeps.refl _ | with_reducible apply whsRefused_keeps | with_reducible apply whsDrop_keeps | with_reducible apply openAnswered_keeps | with_reducible apply keepsR_next | with_reducible apply keeps_ite | with_reducible apply keepsR_ite | intro _ | dsimp only | split)

theorem execOpenReply_keeps {s0 s : State} (i : Nat) (h : Keeps s0 s) : KeepsR s0 (execOpenReply i s) := by
  unfold execOpenReply
  repeat' (first | with_reducible assumption | with_reducible exact Keeps.refl _ | with_reducible apply openAnswered_keeps | with_reducible apply whsDrop_keeps | with_reducible apply keepsR_next | with_reducible apply keeps_ite | with_reducible apply keepsR_ite | intro _ | dsimp only | split)

theorem closeTake_keeps {s0 s : State} (p : Nat) (r : Nat) (m : WMsg) (h : Keeps s0 s) : Keeps s0 (closeTake p r m s) := by
  unfold closeTake
  repeat' (first | with_reducible assumption | with_reducible exact Keeps.refl _ | with_reducible apply cnClear_keeps | with_reducible apply rqPut_keeps | with_reducible apply keeps_ite | simp only [keeps_mk_iff] | intro _ | dsimp only | split)

theorem closeArrive_keeps {s0 s : State} (m : WMsg) (h : Keeps s0 s) : Keeps s0 (closeArrive m s).2 := by
  unfold closeArrive
  repeat' (first | with_reducible assumption | with_reducible exact Keeps.refl _ | with_reducible apply bump_keeps | with_reducible apply closeTake_keeps | with_reducible apply keeps_ite_snd | with_reducible apply keeps_ite | with_reducible apply rqPut_keeps | with_reducible apply cnClear_keeps | simp only [keeps_mk_iff] | intro _ | dsimp only | split)

theorem closeRetry_keeps {s0 s : State} (p : Nat) (r : Nat) (h : Keeps s0 s) : Keeps s0 (closeRetry p r s) := by
  unfold closeRetry
  repeat' (first | with_reducible assumption | with_reducible exact Keeps.refl _ | with_reducible apply whsReply_keeps | with_reducible apply closeTake_keeps | with_reducible apply opensPut_keeps | with_reducible apply keeps_ite | intro _ | dsimp only | split)

theorem closesRetry_keeps {s0 s : State} (p : Nat) (h : Keeps s0 s) : Keeps s0 (closesRetry p s) := by
  unfold closesRetry
  repeat' (first | with_reducible assumption | with_reducible exact Keeps.refl _ | with_reducible apply closeRetry_keeps | with_reducible apply keeps_foldl | with_reducible apply keeps_foldl_snd | with_reducible apply keeps_foldl_fst | with_reducible apply keeps_ite | intro _ | dsimp only | split)

theorem execCloseMarker_keeps {s0 s : State} (i : Nat) (h : Keeps s0 s) : KeepsR s0 (execCloseMarker i s) := by
  unfold execCloseMarker
  repeat' (first | with_reducible assumption | with_reducible exact Keeps.refl _ | with_reducible apply whsReply_keeps | with_reducible apply whsGateRefuses_keeps | with_reducible apply whsDrop_keeps | with_reducible apply closeArrive_keeps | with_reducible apply opensPut_keeps | with_reducible apply keeps_ite_snd | with_reducible apply keepsR_next | with_reducible apply keeps_ite | with_reducible apply keepsR_ite | with_reducible apply gateRefuse_keeps | with_reducible apply arriveReply_keeps | intro _ | dsimp only | split)

theorem execSpillDrain_keeps {s0 s : State} (c : Nat) (key : Nat) (h : Keeps s0 s) : KeepsR s0 (execSpillDrain c key s) := by
  unfold execSpillDrain
  repeat' (first | with_reducible assumption | with_reducible exact Keeps.refl _ | with_reducible apply closeRetry_keeps | with_reducible apply whsLand_keeps | with_reducible apply spillPut_keeps | with_reducible apply keepsR_next | with_reducible apply keeps_ite | with_reducible apply keepsR_ite | with_reducible apply byrePut_keeps | intro _ | dsimp only | split)

theorem whsLandDone_keeps {s0 s : State} (id : Nat) (h : Keeps s0 s) : Keeps s0 (whsLandDone id s) := by
  unfold whsLandDone
  repeat' (first | with_reducible assumption | with_reducible exact Keeps.refl _ | with_reducible apply rqPut_keeps | with_reducible apply bufferBack_keeps | with_reducible apply bump_keeps | with_reducible apply closeRetry_keeps | with_reducible apply whsDelivered_keeps | with_reducible apply keeps_ite | simp only [keeps_mk_iff] | intro _ | dsimp only | split)

theorem whsIssue_keeps {s0 s : State} (p : Nat) (w : Nat) (h : Keeps s0 s) : Keeps s0 (whsIssue p w s) := by
  unfold whsIssue
  repeat' (first | with_reducible assumption | with_reducible exact Keeps.refl _ | with_reducible apply coreMod_keeps | with_reducible apply keeps_ite | simp only [keeps_mk_iff] | intro _ | dsimp only | split)

theorem whsDone_keeps {s0 s : State} (p : Nat) (e : QEnt) (h : Keeps s0 s) : Keeps s0 (whsDone p e s) := by
  unfold whsDone
  repeat' (first | with_reducible assumption | with_reducible exact Keeps.refl _ | with_reducible apply qMod_keeps | with_reducible apply keeps_ite | simp only [keeps_mk_iff] | intro _ | dsimp only | split)

theorem whsRun_keeps {s0 s : State} (p : Nat) (e : QEnt) (h : Keeps s0 s) : Keeps s0 (whsRun p e s) := by
  unfold whsRun
  repeat' (first | with_reducible assumption | with_reducible exact Keeps.refl _ | with_reducible apply whsGo_keeps | with_reducible apply whsDone_keeps | with_reducible apply cnSet_keeps | with_reducible apply keeps_ite | simp only [keeps_mk_iff] | intro _ | dsimp only | split)

theorem whsRead_keeps {s0 s : State} (p : Nat) (e : QEnt) (h : Keeps s0 s) : Keeps s0 (whsRead p e s) := by
  unfold whsRead
  repeat' (first | with_reducible assumption | with_reducible exact Keeps.refl _ | with_reducible apply whsRun_keeps | with_reducible apply xAccess_keeps | with_reducible apply keeps_ite | intro _ | dsimp only | split)

theorem execWhsSend_keeps {s0 s : State} (c : Nat) (h : Keeps s0 s) : KeepsR s0 (execWhsSend c s) := by
  unfold execWhsSend
  repeat' (first | with_reducible assumption | with_reducible exact Keeps.refl _ | with_reducible apply xStart_keeps | with_reducible apply whsRead_keeps | with_reducible apply keepsR_next | with_reducible apply keeps_ite | with_reducible apply keepsR_ite | with_reducible apply whsGo_keeps | simp only [keeps_mk_iff] | intro _ | dsimp only | split)

theorem execWhsCsend_keeps {s0 s : State} (c : Nat) (h : Keeps s0 s) : KeepsR s0 (execWhsCsend c s) := by
  unfold execWhsCsend
  repeat' (first | with_reducible assumption | with_reducible exact Keeps.refl _ | with_reducible apply xStart_keeps | with_reducible apply xFault_keeps | with_reducible apply whsDone_keeps | with_reducible apply whsRead_keeps | with_reducible apply keepsR_next | with_reducible apply keeps_ite | with_reducible apply keepsR_ite | with_reducible apply spReadBytes_keeps | with_reducible apply whsGo_keeps | with_reducible apply cnSet_keeps | simp only [keeps_mk_iff] | intro _ | dsimp only | split)

theorem xDone_keeps {s0 s : State} (p : Nat) (e : QEnt) (h : Keeps s0 s) : Keeps s0 (xDone p e s) := by
  unfold xDone
  repeat' (first | with_reducible assumption | with_reducible exact Keeps.refl _ | with_reducible apply whsRun_keeps | with_reducible apply whsDone_keeps | with_reducible apply keeps_ite | intro _ | dsimp only | split)

theorem xAbandon_keeps {s0 s : State} (p : Nat) (e : QEnt) (h : Keeps s0 s) : Keeps s0 (xAbandon p e s) := by
  unfold xAbandon
  repeat' (first | with_reducible assumption | with_reducible exact Keeps.refl _ | with_reducible apply xFault_keeps | with_reducible apply whsDone_keeps | with_reducible apply xGiveUp_keeps | with_reducible apply keeps_ite | intro _ | dsimp only | split)

theorem execWhsOpen_keeps {s0 s : State} (c : Nat) (h : Keeps s0 s) : KeepsR s0 (execWhsOpen c s) := by
  unfold execWhsOpen
  repeat' (first | with_reducible assumption | with_reducible exact Keeps.refl _ | with_reducible apply xStart_keeps | with_reducible apply cnSet_keeps | with_reducible apply openAnswered_keeps | with_reducible apply whsRefused_keeps | with_reducible apply ltkSend_keeps | with_reducible apply whsPush_keeps | with_reducible apply keepsR_next | with_reducible apply keeps_ite | with_reducible apply keepsR_ite | simp only [keeps_mk_iff] | intro _ | dsimp only | split)

theorem execWhsListen_keeps {s0 s : State} (c : Nat) (h : Keeps s0 s) : KeepsR s0 (execWhsListen c s) := by
  unfold execWhsListen
  repeat' (first | with_reducible assumption | with_reducible exact Keeps.refl _ | with_reducible apply xStart_keeps | with_reducible apply cnSet_keeps | with_reducible apply openReply_keeps | with_reducible apply cnBind_keeps | with_reducible apply opensPut_keeps | with_reducible apply keepsR_next | with_reducible apply keeps_ite | with_reducible apply keepsR_ite | simp only [keeps_mk_iff] | with_reducible apply openArrive_keeps | intro _ | dsimp only | split)

theorem execWhsClose_keeps {s0 s : State} (c : Nat) (h : Keeps s0 s) : KeepsR s0 (execWhsClose c s) := by
  unfold execWhsClose
  repeat' (first | with_reducible assumption | with_reducible exact Keeps.refl _ | with_reducible apply xStart_keeps | with_reducible apply openRefuse_keeps | with_reducible apply opensPut_keeps | with_reducible apply cnClear_keeps | with_reducible apply sendsPut_keeps | with_reducible apply whsGo_keeps | with_reducible apply keeps_foldl | with_reducible apply keeps_foldl_snd | with_reducible apply keeps_foldl_fst | with_reducible apply keepsR_next | with_reducible apply keeps_ite | with_reducible apply keepsR_ite | simp only [keeps_mk_iff] | with_reducible apply whsPush_keeps | with_reducible apply keeps_ite_snd | intro _ | dsimp only | split)

theorem execWhsRecv_keeps {s0 s : State} (c : Nat) (h : Keeps s0 s) : KeepsR s0 (execWhsRecv c s) := by
  unfold execWhsRecv
  repeat' (first | with_reducible assumption | with_reducible exact Keeps.refl _ | with_reducible apply xStart_keeps | with_reducible apply xAccess_keeps | with_reducible apply closesRetry_keeps | with_reducible apply rqPut_keeps | with_reducible apply keepsR_next | with_reducible apply keeps_ite | with_reducible apply keepsR_ite | with_reducible apply spWriteBytes_keeps | with_reducible apply whsDone_keeps | intro _ | dsimp only | split)

theorem rqPop_keeps {s0 s : State} (p : Nat) (data : Nat) (h : Keeps s0 s) : Keeps s0 (rqPop p data s) := by
  unfold rqPop
  repeat' (first | with_reducible assumption | with_reducible exact Keeps.refl _ | with_reducible apply closesRetry_keeps | with_reducible apply rqPut_keeps | with_reducible apply keeps_foldl | with_reducible apply keeps_foldl_snd | with_reducible apply keeps_foldl_fst | with_reducible apply keeps_ite | with_reducible apply keeps_ite_snd | intro _ | dsimp only | split)

theorem execWhsRqpop_keeps {s0 s : State} (c : Nat) (data : Word) (h : Keeps s0 s) : KeepsR s0 (execWhsRqpop c data s) := by
  unfold execWhsRqpop
  repeat' (first | with_reducible assumption | with_reducible exact Keeps.refl _ | with_reducible apply rqPop_keeps | with_reducible apply keepsR_next | with_reducible apply keeps_ite | with_reducible apply keepsR_ite | intro _ | dsimp only | split)

end Sys2Proof.Machine
end

