-- ==== Sys2Proof/Laws/KeepsByre.lean ====
section
/-! SUPPORT. What the operations of Machine/Byre.lean keep (Laws/Keeps.lean). -/

namespace Sys2Proof.Machine

set_option linter.unusedTactic false
set_option linter.unreachableTactic false
set_option linter.unusedSimpArgs false

theorem byrSend_keeps {s0 s : State} (put : Bool) (p : Nat) (e : QEnt) (h : Keeps s0 s) : Keeps s0 (byrSend put p e s) := by
  unfold byrSend
  repeat' (first | with_reducible assumption | with_reducible exact Keeps.refl _ | with_reducible apply keeps_ite | simp only [keeps_mk_iff] | intro _ | dsimp only | split)

theorem execByrGet_keeps {s0 s : State} (c : Nat) (h : Keeps s0 s) : KeepsR s0 (execByrGet c s) := by
  unfold execByrGet
  repeat' (first | with_reducible assumption | with_reducible exact Keeps.refl _ | with_reducible apply xStart_keeps | with_reducible apply byrSend_keeps | with_reducible apply keepsR_next | with_reducible apply keeps_ite | with_reducible apply keepsR_ite | intro _ | dsimp only | split)

theorem execByrPut_keeps {s0 s : State} (c : Nat) (h : Keeps s0 s) : KeepsR s0 (execByrPut c s) := by
  unfold execByrPut
  repeat' (first | with_reducible assumption | with_reducible exact Keeps.refl _ | with_reducible apply xStart_keeps | with_reducible apply byrSend_keeps | with_reducible apply keepsR_next | with_reducible apply keeps_ite | with_reducible apply keepsR_ite | intro _ | dsimp only | split)

theorem byrAnswer_keeps {s0 s : State} (r : ByrReq) (st : Nat) (va : Nat) (h : Keeps s0 s) : Keeps s0 (byrAnswer r st va s) := by
  unfold byrAnswer
  repeat' (first | with_reducible assumption | with_reducible exact Keeps.refl _ | with_reducible apply xResult_keeps | with_reducible apply keeps_ite | intro _ | dsimp only | split)

theorem byrRefuse_keeps {s0 s : State} (r : ByrReq) (h : Keeps s0 s) : Keeps s0 (byrRefuse r s) := by
  unfold byrRefuse
  repeat' (first | with_reducible assumption | with_reducible exact Keeps.refl _ | with_reducible apply poolRefuse_keeps | with_reducible apply xFault_keeps | with_reducible apply xSpoil_keeps | with_reducible apply whsDone_keeps | with_reducible apply keeps_ite | with_reducible apply gateRefuse_keeps | with_reducible apply qMod_keeps | simp only [keeps_mk_iff] | intro _ | dsimp only | split)

theorem execByreGet_keeps {s0 s : State} (i : Nat) (h : Keeps s0 s) : KeepsR s0 (execByreGet i s) := by
  unfold execByreGet
  repeat' (first | with_reducible assumption | with_reducible exact Keeps.refl _ | with_reducible apply byrRefuse_keeps | with_reducible apply byrAnswer_keeps | with_reducible apply bump_keeps | with_reducible apply byreGet_keeps | with_reducible apply keeps_ite_snd | with_reducible apply keepsR_next | with_reducible apply keeps_ite | with_reducible apply keepsR_ite | with_reducible apply keeps_ite_st | simp only [keeps_mk_iff] | intro _ | dsimp only | split)

theorem execByrePut_keeps {s0 s : State} (i : Nat) (h : Keeps s0 s) : KeepsR s0 (execByrePut i s) := by
  unfold execByrePut
  repeat' (first | with_reducible assumption | with_reducible exact Keeps.refl _ | with_reducible apply byrRefuse_keeps | with_reducible apply byrAnswer_keeps | with_reducible apply bump_keeps | with_reducible apply byrePut_keeps | with_reducible apply keeps_ite_snd | with_reducible apply keepsR_next | with_reducible apply keeps_ite | with_reducible apply keepsR_ite | with_reducible apply keeps_ite_st | simp only [keeps_mk_iff] | intro _ | dsimp only | split)

theorem hostResult_keeps {s0 s : State} (d : Nat) (put : Bool) (pa : Nat) (st : Nat) (h : Keeps s0 s) : Keeps s0 (hostResult d put pa st s) := by
  unfold hostResult
  repeat' (first | with_reducible assumption | with_reducible exact Keeps.refl _ | with_reducible apply wr_keeps | with_reducible apply keeps_ite | intro _ | dsimp only | split)

theorem byrHget_keeps {s0 s : State} (brand : Nat) (d : Nat) (data : Word) (h : Keeps s0 s) : Keeps s0 (byrHget brand d data s) := by
  unfold byrHget
  repeat' (first | with_reducible assumption | with_reducible exact Keeps.refl _ | with_reducible apply byreGet_keeps | with_reducible apply hostResult_keeps | with_reducible apply keeps_ite_snd | with_reducible apply keeps_ite | with_reducible apply keeps_ite_st | intro _ | dsimp only | split)

theorem execByrHput_keeps {s0 s : State} (d : Nat) (data : Word) (h : Keeps s0 s) : KeepsR s0 (execByrHput d data s) := by
  unfold execByrHput
  repeat' (first | with_reducible assumption | with_reducible exact Keeps.refl _ | with_reducible apply byrePut_keeps | with_reducible apply hostResult_keeps | with_reducible apply keepsR_next | with_reducible apply keeps_ite | with_reducible apply keepsR_ite | intro _ | dsimp only | split)

theorem cmdStat_keeps {s0 s : State} (d : Nat) (j : Nat) (err : Nat) (busy : Bool) (h : Keeps s0 s) : Keeps s0 (cmdStat d j err busy s) := by
  unfold cmdStat
  repeat' (first | with_reducible assumption | with_reducible exact Keeps.refl _ | with_reducible apply wr_keeps | with_reducible apply keeps_ite | intro _ | dsimp only | split)

theorem cmdPut_keeps {s0 s : State} (d : Nat) (op : Nat) (j : Nat) (h : Keeps s0 s) : Keeps s0 (cmdPut d op j s) := by
  unfold cmdPut
  repeat' (first | with_reducible assumption | with_reducible exact Keeps.refl _ | with_reducible apply keeps_ite | simp only [keeps_mk_iff] | intro _ | dsimp only | split)

theorem cmdOver_keeps {s0 s : State} (d : Nat) (h : Keeps s0 s) : Keeps s0 (cmdOver d s) := by
  unfold cmdOver
  repeat' (first | with_reducible assumption | with_reducible exact Keeps.refl _ | with_reducible apply wr_keeps | with_reducible apply keeps_ite | simp only [keeps_mk_iff] | intro _ | dsimp only | split)

theorem execByreCreate_keeps {s0 s : State} (d : Nat) (j : Nat) (h : Keeps s0 s) : KeepsR s0 (execByreCreate d j s) := by
  unfold execByreCreate
  repeat' (first | with_reducible assumption | with_reducible exact Keeps.refl _ | with_reducible apply cmdPut_keeps | with_reducible apply cmdStat_keeps | with_reducible apply keepsR_next | with_reducible apply keeps_ite | with_reducible apply keepsR_ite | intro _ | dsimp only | split)

theorem execByreCreateDone_keeps {s0 s : State} (d : Nat) (h : Keeps s0 s) : KeepsR s0 (execByreCreateDone d s) := by
  unfold execByreCreateDone
  repeat' (first | with_reducible assumption | with_reducible exact Keeps.refl _ | with_reducible apply wr_keeps | with_reducible apply memWrite_keeps | with_reducible apply rebuildList_keeps | with_reducible apply refreshOvercommit_keeps | with_reducible apply cmdOver_keeps | with_reducible apply keepsR_next | with_reducible apply keeps_ite | with_reducible apply keepsR_ite | intro _ | dsimp only | split)

theorem poolDestroy_keeps {s0 s : State} (d : Nat) (j : Nat) (h : Keeps s0 s) : Keeps s0 (poolDestroy d j s) := by
  unfold poolDestroy
  repeat' (first | with_reducible assumption | with_reducible exact Keeps.refl _ | with_reducible apply refreshOvercommit_keeps | with_reducible apply wrW_keeps | with_reducible apply poolMod_keeps | with_reducible apply keeps_ite | intro _ | dsimp only | split)

theorem execByreDestroy_keeps {s0 s : State} (d : Nat) (j : Nat) (h : Keeps s0 s) : KeepsR s0 (execByreDestroy d j s) := by
  unfold execByreDestroy
  repeat' (first | with_reducible assumption | with_reducible exact Keeps.refl _ | with_reducible apply poolDestroy_keeps | with_reducible apply cmdStat_keeps | with_reducible apply keepsR_next | with_reducible apply keeps_ite | with_reducible apply keepsR_ite | intro _ | dsimp only | split)

theorem execByreRebuild_keeps {s0 s : State} (d : Nat) (j : Nat) (h : Keeps s0 s) : KeepsR s0 (execByreRebuild d j s) := by
  unfold execByreRebuild
  repeat' (first | with_reducible assumption | with_reducible exact Keeps.refl _ | with_reducible apply wr_keeps | with_reducible apply cmdPut_keeps | with_reducible apply cmdStat_keeps | with_reducible apply keepsR_next | with_reducible apply keeps_ite | with_reducible apply keepsR_ite | intro _ | dsimp only | split)

theorem ledgerRead_keeps {s0 s : State} (d : Nat) (j : Nat) (h : Keeps s0 s) : Keeps s0 (ledgerRead d j s).2 := by
  unfold ledgerRead
  repeat' (first | with_reducible assumption | with_reducible exact Keeps.refl _ | with_reducible apply readLines_keeps | with_reducible apply keeps_ite | with_reducible apply keeps_ite_snd | intro _ | dsimp only | split)

theorem execByreRebuildDone_keeps {s0 s : State} (d : Nat) (j : Nat) (h : Keeps s0 s) : KeepsR s0 (execByreRebuildDone d j s) := by
  unfold execByreRebuildDone
  repeat' (first | with_reducible assumption | with_reducible exact Keeps.refl _ | with_reducible apply wr_keeps | with_reducible apply poolBreaks_keeps | with_reducible apply rebuildList_keeps | with_reducible apply cmdOver_keeps | with_reducible apply ledgerRead_keeps | with_reducible apply keepsR_next | with_reducible apply keeps_ite | with_reducible apply keepsR_ite | intro _ | dsimp only | split)

theorem execByreAudit_keeps {s0 s : State} (d : Nat) (j : Nat) (h : Keeps s0 s) : KeepsR s0 (execByreAudit d j s) := by
  unfold execByreAudit
  repeat' (first | with_reducible assumption | with_reducible exact Keeps.refl _ | with_reducible apply wr_keeps | with_reducible apply cmdPut_keeps | with_reducible apply cmdStat_keeps | with_reducible apply keeps_foldl | with_reducible apply keeps_foldl_snd | with_reducible apply keeps_foldl_fst | with_reducible apply keeps_ite_snd | with_reducible apply keepsR_next | with_reducible apply keeps_ite | with_reducible apply keepsR_ite | intro _ | dsimp only | split)

theorem execByreAuditDone_keeps {s0 s : State} (d : Nat) (h : Keeps s0 s) : KeepsR s0 (execByreAuditDone d s) := by
  unfold execByreAuditDone
  repeat' (first | with_reducible assumption | with_reducible exact Keeps.refl _ | with_reducible apply bump_keeps | with_reducible apply poolBreaks_keeps | with_reducible apply cmdOver_keeps | with_reducible apply ledgerRead_keeps | with_reducible apply keeps_foldl | with_reducible apply keeps_foldl_snd | with_reducible apply keeps_foldl_fst | with_reducible apply keeps_ite_snd | with_reducible apply keepsR_next | with_reducible apply keeps_ite | with_reducible apply keepsR_ite | intro _ | dsimp only | split)

theorem byrCommand_keeps {s0 s : State} (d : Nat) (op : Nat) (j : Nat) (h : Keeps s0 s) : KeepsR s0 (byrCommand d op j s) := by
  unfold byrCommand
  repeat' (first | with_reducible assumption | with_reducible exact Keeps.refl _ | with_reducible apply execByreAudit_keeps | with_reducible apply execByreCreate_keeps | with_reducible apply cmdStat_keeps | with_reducible apply execByreRebuild_keeps | with_reducible apply execByreDestroy_keeps | with_reducible apply keepsR_next | with_reducible apply keeps_ite | with_reducible apply keepsR_ite | intro _ | dsimp only | split)

theorem reclaimPool_keeps {s0 s : State} (d : Nat) (j : Nat) (b : Nat) (why : Reclaim) (h : Keeps s0 s) : Keeps s0 (reclaimPool d j b why s) := by
  unfold reclaimPool
  repeat' (first | with_reducible assumption | with_reducible exact Keeps.refl _ | with_reducible apply wr_keeps | with_reducible apply poolMod_keeps | with_reducible apply writeLedger_keeps | with_reducible apply keeps_foldl | with_reducible apply keeps_foldl_snd | with_reducible apply keeps_foldl_fst | with_reducible apply keeps_ite_snd | with_reducible apply keeps_ite | simp only [keeps_mk_iff] | intro _ | dsimp only | split)

theorem reclaimPaddock_keeps {s0 s : State} (n : Nat) (why : Reclaim) (h : Keeps s0 s) : Keeps s0 (reclaimPaddock n why s) := by
  unfold reclaimPaddock
  repeat' (first | with_reducible assumption | with_reducible exact Keeps.refl _ | with_reducible apply poolMod_keeps | with_reducible apply reclaimPool_keeps | with_reducible apply poolDestroy_keeps | with_reducible apply keeps_foldl | with_reducible apply keeps_foldl_snd | with_reducible apply keeps_foldl_fst | with_reducible apply keeps_ite_snd | with_reducible apply keeps_ite | simp only [keeps_mk_iff] | intro _ | dsimp only | split)

theorem execByreReclaimDone_keeps {s0 s : State} (d : Nat) (j : Nat) (h : Keeps s0 s) : KeepsR s0 (execByreReclaimDone d j s) := by
  unfold execByreReclaimDone
  repeat' (first | with_reducible assumption | with_reducible exact Keeps.refl _ | with_reducible apply wr_keeps | with_reducible apply setFree_keeps | with_reducible apply writeHeader_keeps | with_reducible apply poolMod_keeps | with_reducible apply writeLedger_keeps | with_reducible apply poolDestroy_keeps | with_reducible apply keeps_foldl | with_reducible apply keeps_foldl_snd | with_reducible apply keeps_foldl_fst | with_reducible apply keeps_ite_snd | with_reducible apply keepsR_next | with_reducible apply keeps_ite | with_reducible apply keepsR_ite | simp only [keeps_mk_iff] | intro _ | dsimp only | split)

end Sys2Proof.Machine
end

