-- ==== Sys2Proof/Laws/KeepsFrames.lean ====
section
/-! SUPPORT. What the operations of Machine/Frames.lean keep (Laws/Keeps.lean). -/

namespace Sys2Proof.Machine

set_option linter.unusedTactic false
set_option linter.unreachableTactic false
set_option linter.unusedSimpArgs false

theorem frameFix_keeps {s0 s : State} (p : Nat) (f : Nat) (h : Keeps s0 s) : Keeps s0 (frameFix p f s) := by
  unfold frameFix
  repeat' (first | with_reducible assumption | with_reducible exact Keeps.refl _ | with_reducible apply keeps_ite | simp only [keeps_mk_iff] | intro _ | dsimp only | split)

theorem imemPut_keeps {s0 s : State} (p : Nat) (a : Nat) (v : Nat) (h : Keeps s0 s) : Keeps s0 (imemPut p a v s) := by
  unfold imemPut
  repeat' (first | with_reducible assumption | with_reducible exact Keeps.refl _ | with_reducible apply keeps_ite | simp only [keeps_mk_iff] | intro _ | dsimp only | split)

theorem rslotPut_keeps {s0 s : State} (p : Nat) (k : Nat) (v : Nat) (h : Keeps s0 s) : Keeps s0 (rslotPut p k v s) := by
  unfold rslotPut
  repeat' (first | with_reducible assumption | with_reducible exact Keeps.refl _ | with_reducible apply keeps_ite | simp only [keeps_mk_iff] | intro _ | dsimp only | split)

theorem framePut_keeps {s0 s : State} (p : Nat) (f : Nat) (bs : List Nat) (h : Keeps s0 s) : Keeps s0 (framePut p f bs s) := by
  unfold framePut
  repeat' (first | with_reducible assumption | with_reducible exact Keeps.refl _ | with_reducible apply imemPut_keeps | with_reducible apply rslotPut_keeps | with_reducible apply frameFix_keeps | with_reducible apply keeps_iter | with_reducible apply keeps_ite | intro _ | dsimp only | split)

end Sys2Proof.Machine
end

