-- ==== Sys2Proof/Laws/KeepsMeshStep.lean ====
section
/-! SUPPORT. What the operations of Machine/MeshStep.lean keep (Laws/Keeps.lean). -/

namespace Sys2Proof.Machine

set_option linter.unusedTactic false
set_option linter.unreachableTactic false
set_option linter.unusedSimpArgs false

theorem htPut_keeps {s0 s : State} (p : Nat) (k : Nat) (v : Nat) (h : Keeps s0 s) : Keeps s0 (htPut p k v s) := by
  unfold htPut
  repeat' (first | with_reducible assumption | with_reducible exact Keeps.refl _ | with_reducible apply keeps_ite | simp only [keeps_mk_iff] | intro _ | dsimp only | split)

theorem decideHold_keeps {s0 s : State} (p : Nat) (j : Nat) (h : Keeps s0 s) : Keeps s0 (decideHold p j s) := by
  unfold decideHold
  repeat' (first | with_reducible assumption | with_reducible exact Keeps.refl _ | with_reducible apply wr_keeps | with_reducible apply wrW_keeps | with_reducible apply coreMod_keeps | with_reducible apply keeps_ite | simp only [keeps_mk_iff] | intro _ | dsimp only | split)

theorem countHold_keeps {s0 s : State} (p : Nat) (h : Keeps s0 s) : Keeps s0 (countHold p s) := by
  unfold countHold
  repeat' (first | with_reducible assumption | with_reducible exact Keeps.refl _ | with_reducible apply bump_keeps | with_reducible apply addSat_keeps | with_reducible apply keeps_ite | intro _ | dsimp only | split)

theorem pushHolds_keeps {s0 s : State} (n : Nat) (h : Keeps s0 s) : Keeps s0 (pushHolds n s) := by
  unfold pushHolds
  repeat' (first | with_reducible assumption | with_reducible exact Keeps.refl _ | with_reducible apply meshMod_keeps | with_reducible apply countHold_keeps | with_reducible apply keeps_foldl | with_reducible apply keeps_foldl_snd | with_reducible apply keeps_foldl_fst | with_reducible apply keeps_ite_snd | with_reducible apply keeps_ite | simp only [keeps_mk_iff] | intro _ | dsimp only | split)

theorem advanceLinks_keeps {s0 s : State} (c : Nat) (h : Keeps s0 s) : Keeps s0 (advanceLinks c s) := by
  unfold advanceLinks
  repeat' (first | with_reducible assumption | with_reducible exact Keeps.refl _ | with_reducible apply keeps_iter | with_reducible apply keeps_ite | simp only [keeps_mk_iff] | intro _ | dsimp only | split)

theorem driveLink_keeps {s0 s : State} (c : Nat) (o : Nat) (f : Flit) (h : Keeps s0 s) : Keeps s0 (driveLink c o f s) := by
  unfold driveLink
  repeat' (first | with_reducible assumption | with_reducible exact Keeps.refl _ | with_reducible apply keeps_ite | simp only [keeps_mk_iff] | intro _ | dsimp only | split)

theorem checkFlit_keeps {s0 s : State} (p : Nat) (k : Nat) (i : Nat) (f : Flit) (h : Keeps s0 s) : Keeps s0 (checkFlit p k i f s).2 := by
  unfold checkFlit
  repeat' (first | with_reducible assumption | with_reducible exact Keeps.refl _ | with_reducible apply wr_keeps | with_reducible apply bump_keeps | with_reducible apply addSat_keeps | with_reducible apply capture_keeps | with_reducible apply keeps_ite | with_reducible apply keeps_ite_snd | simp only [keeps_mk_iff] | intro _ | dsimp only | split)

theorem scheduleStop_keeps {s0 s : State} (n : Nat) (c : Nat) (k : Nat) (full : Bool) (h : Keeps s0 s) : Keeps s0 (scheduleStop n c k full s) := by
  unfold scheduleStop
  repeat' (first | with_reducible assumption | with_reducible exact Keeps.refl _ | with_reducible apply wr_keeps | with_reducible apply bump_keeps | with_reducible apply coreFault_keeps | with_reducible apply meshMod_keeps | with_reducible apply keeps_ite | simp only [keeps_mk_iff] | intro _ | dsimp only | split)

theorem fenceFault_keeps {s0 s : State} (n : Nat) (p : Nat) (h : Keeps s0 s) : Keeps s0 (fenceFault n p s) := by
  unfold fenceFault
  repeat' (first | with_reducible assumption | with_reducible exact Keeps.refl _ | with_reducible apply wr_keeps | with_reducible apply bump_keeps | with_reducible apply regatherStart_keeps | with_reducible apply keeps_ite | intro _ | dsimp only | split)

theorem ejectFlit_keeps {s0 s : State} (n : Nat) (c : Nat) (k : Nat) (f : Flit) (h : Keeps s0 s) : Keeps s0 (ejectFlit n c k f s) := by
  unfold ejectFlit
  repeat' (first | with_reducible assumption | with_reducible exact Keeps.refl _ | with_reducible apply coreMod_keeps | with_reducible apply scheduleStop_keeps | with_reducible apply keeps_ite | simp only [keeps_mk_iff] | intro _ | dsimp only | split)

theorem driveOut_keeps {s0 s : State} (n : Nat) (c : Nat) (k : Nat) (ent : Nat) (ins : List (Option Flit)) (o : Nat) (h : Keeps s0 s) : Keeps s0 (driveOut n c k ent ins o s) := by
  unfold driveOut
  repeat' (first | with_reducible assumption | with_reducible exact Keeps.refl _ | with_reducible apply ejectFlit_keeps | with_reducible apply driveLink_keeps | with_reducible apply fenceFault_keeps | with_reducible apply keeps_ite | intro _ | dsimp only | split)

theorem checkInputs_keeps {s0 x3 : State} (p : Nat) (k : Nat) (x2 : List (Nat × Option Flit)) (h : Keeps s0 x3) : Keeps s0 (checkInputs p k x2 x3).2 := by
  induction x2 generalizing p k x3 with
  | nil =>
    unfold checkInputs
    repeat' (first | with_reducible assumption | with_reducible exact Keeps.refl _ | apply ih | with_reducible apply checkFlit_keeps | with_reducible apply keeps_ite | with_reducible apply keeps_ite_snd | intro _ | dsimp only | split)
  | cons hd tl ih =>
    unfold checkInputs
    repeat' (first | with_reducible assumption | with_reducible exact Keeps.refl _ | apply ih | with_reducible apply checkFlit_keeps | with_reducible apply keeps_ite | with_reducible apply keeps_ite_snd | intro _ | dsimp only | split)

theorem slotCheck_keeps {s0 s : State} (n : Nat) (p : Nat) (k : Nat) (h : Keeps s0 s) : Keeps s0 (slotCheck n p k s) := by
  unfold slotCheck
  repeat' (first | with_reducible assumption | with_reducible exact Keeps.refl _ | with_reducible apply bump_keeps | with_reducible apply regatherStart_keeps | with_reducible apply keeps_ite | simp only [keeps_mk_iff] | intro _ | dsimp only | split)

theorem routeCore_keeps {s0 s : State} (n : Nat) (k : Nat) (s0' : State) (c : Nat) (h : Keeps s0 s) : Keeps s0 (routeCore n k s0' c s) := by
  unfold routeCore
  repeat' (first | with_reducible assumption | with_reducible exact Keeps.refl _ | with_reducible apply addSat_keeps | with_reducible apply coreMod_keeps | with_reducible apply fifoShow_keeps | with_reducible apply slotCheck_keeps | with_reducible apply checkInputs_keeps | with_reducible apply driveOut_keeps | with_reducible apply scheduleStop_keeps | with_reducible apply keeps_foldl | with_reducible apply keeps_foldl_snd | with_reducible apply keeps_foldl_fst | with_reducible apply keeps_ite_snd | with_reducible apply keeps_ite | simp only [keeps_mk_iff] | intro _ | dsimp only | split)

theorem clearMesh_keeps {s0 s : State} (n : Nat) (h : Keeps s0 s) : Keeps s0 (clearMesh n s) := by
  unfold clearMesh
  repeat' (first | with_reducible assumption | with_reducible exact Keeps.refl _ | with_reducible apply wr_keeps | with_reducible apply addSat_keeps | with_reducible apply coreMod_keeps | with_reducible apply fifoShow_keeps | with_reducible apply keeps_foldl | with_reducible apply keeps_foldl_snd | with_reducible apply keeps_foldl_fst | with_reducible apply keeps_ite_snd | with_reducible apply keeps_iter | with_reducible apply keeps_ite | simp only [keeps_mk_iff] | intro _ | dsimp only | split)

theorem periodRecord_keeps {s0 s : State} (n : Nat) (p : Nat) (h : Keeps s0 s) : Keeps s0 (periodRecord n p s) := by
  unfold periodRecord
  repeat' (first | with_reducible assumption | with_reducible exact Keeps.refl _ | with_reducible apply genRecord_keeps | with_reducible apply keeps_ite | intro _ | dsimp only | split)

theorem slotBegin_keeps {s0 s : State} (n : Nat) (h : Keeps s0 s) : Keeps s0 (slotBegin n s) := by
  unfold slotBegin
  repeat' (first | with_reducible assumption | with_reducible exact Keeps.refl _ | with_reducible apply meshMod_keeps | with_reducible apply decideHold_keeps | with_reducible apply periodRecord_keeps | with_reducible apply clearMesh_keeps | with_reducible apply keeps_foldl | with_reducible apply keeps_foldl_snd | with_reducible apply keeps_foldl_fst | with_reducible apply keeps_ite_snd | with_reducible apply keeps_ite | simp only [keeps_mk_iff] | intro _ | dsimp only | split)

theorem routeSlot_keeps {s0 s : State} (n : Nat) (h : Keeps s0 s) : Keeps s0 (routeSlot n s) := by
  unfold routeSlot
  repeat' (first | with_reducible assumption | with_reducible exact Keeps.refl _ | with_reducible apply meshMod_keeps | with_reducible apply advanceLinks_keeps | with_reducible apply routeCore_keeps | with_reducible apply pushHolds_keeps | with_reducible apply slotBegin_keeps | with_reducible apply keeps_foldl | with_reducible apply keeps_foldl_snd | with_reducible apply keeps_foldl_fst | with_reducible apply keeps_ite_snd | with_reducible apply keeps_ite | simp only [keeps_mk_iff] | intro _ | dsimp only | split)

theorem execRouteSlot_keeps {s0 s : State} (n : Nat) (h : Keeps s0 s) : KeepsR s0 (execRouteSlot n s) := by
  unfold execRouteSlot
  repeat' (first | with_reducible assumption | with_reducible exact Keeps.refl _ | with_reducible apply routeSlot_keeps | with_reducible apply keepsR_next | with_reducible apply keeps_ite | with_reducible apply keepsR_ite | intro _ | dsimp only | split)

theorem execHurdleHeld_keeps {s0 s : State} (n : Nat) (h : Keeps s0 s) : KeepsR s0 (execHurdleHeld n s) := by
  unfold execHurdleHeld
  repeat' (first | with_reducible assumption | with_reducible exact Keeps.refl _ | with_reducible apply bump_keeps | with_reducible apply meshMod_keeps | with_reducible apply pushHolds_keeps | with_reducible apply keeps_foldl | with_reducible apply keeps_foldl_snd | with_reducible apply keeps_foldl_fst | with_reducible apply keeps_ite_snd | with_reducible apply keepsR_next | with_reducible apply keeps_ite | with_reducible apply keepsR_ite | simp only [keeps_mk_iff] | intro _ | dsimp only | split)

theorem execHoldConditionMet_keeps {s0 s : State} (c : Nat) (h : Keeps s0 s) : KeepsR s0 (execHoldConditionMet c s) := by
  unfold execHoldConditionMet
  repeat' (first | with_reducible assumption | with_reducible exact Keeps.refl _ | with_reducible apply wr_keeps | with_reducible apply keepsR_next | with_reducible apply keeps_ite | with_reducible apply keepsR_ite | intro _ | dsimp only | split)

theorem longHold_keeps {s0 s : State} (n : Nat) (h : Keeps s0 s) : Keeps s0 (longHold n s) := by
  unfold longHold
  repeat' (first | with_reducible assumption | with_reducible exact Keeps.refl _ | with_reducible apply wr_keeps | with_reducible apply drawFree_keeps | with_reducible apply coreFault_keeps | with_reducible apply keeps_foldl | with_reducible apply keeps_foldl_snd | with_reducible apply keeps_foldl_fst | with_reducible apply keeps_ite_snd | with_reducible apply keeps_ite | intro _ | dsimp only | split)

theorem execLongHold_keeps {s0 s : State} (n : Nat) (h : Keeps s0 s) : KeepsR s0 (execLongHold n s) := by
  unfold execLongHold
  repeat' (first | with_reducible assumption | with_reducible exact Keeps.refl _ | with_reducible apply meshMod_keeps | with_reducible apply longHold_keeps | with_reducible apply keepsR_next | with_reducible apply keeps_ite | with_reducible apply keepsR_ite | simp only [keeps_mk_iff] | intro _ | dsimp only | split)

end Sys2Proof.Machine
end

