-- ==== Sys2Proof/Laws/KeepsScalar.lean ====
section
/-! SUPPORT. What the operations of Machine/Scalar.lean keep (Laws/Keeps.lean). -/

namespace Sys2Proof.Machine

set_option linter.unusedTactic false
set_option linter.unreachableTactic false
set_option linter.unusedSimpArgs false

theorem csrRead_keeps {s0 s : State} (p : Nat) (t : Nat) (csr : Nat) (h : Keeps s0 s) : Keeps s0 (csrRead s p t csr).2 := by
  unfold csrRead
  repeat' (first | with_reducible assumption | with_reducible exact Keeps.refl _ | with_reducible apply drawFree_keeps | with_reducible apply keeps_ite | with_reducible apply keeps_ite_snd | intro _ | dsimp only | split)

theorem sResult_keeps {s0 s : State} (p : Nat) (t : Nat) (k : Nat) (op : Nat) (v : Nat) (h : Keeps s0 s) : Keeps s0 (sResult p t k op v s) := by
  unfold sResult
  repeat' (first | with_reducible assumption | with_reducible exact Keeps.refl _ | with_reducible apply coreMod_keeps | with_reducible apply gSet_keeps | with_reducible apply keeps_ite | simp only [keeps_mk_iff] | intro _ | dsimp only | split)

theorem loopArm_keeps {s0 s : State} (p : Nat) (t : Nat) (k : Nat) (start : Nat) (end_ : Nat) (count : Nat) (h : Keeps s0 s) : Keeps s0 (loopArm p t k start end_ count s) := by
  unfold loopArm
  repeat' (first | with_reducible assumption | with_reducible exact Keeps.refl _ | with_reducible apply wr_keeps | with_reducible apply keeps_ite | intro _ | dsimp only | split)

theorem sEffect_keeps {s0 s : State} (p : Nat) (t : Nat) (a : Nat) (w : Nat) (bs : List Nat) (h : Keeps s0 s) : Keeps s0 (sEffect p t a w bs s).st := by
  unfold sEffect
  repeat' (first | with_reducible assumption | with_reducible exact Keeps.refl _ | with_reducible apply sResult_keeps | with_reducible apply coreMod_keeps | with_reducible apply pSet_keeps | with_reducible apply spWriteBytes_keeps | with_reducible apply descSet_keeps | with_reducible apply tileSet_keeps | with_reducible apply loopArm_keeps | with_reducible apply wr_keeps | with_reducible apply spFence_keeps | with_reducible apply csrRead_keeps | with_reducible apply keeps_iter | with_reducible apply keeps_ite_snd | with_reducible apply keeps_ite | with_reducible apply keeps_ite_st | simp only [keeps_mk_iff] | intro _ | dsimp only | split)

theorem loopRule_keeps {s0 x4 : State} (p : Nat) (t : Nat) (a : Nat) (x3 : Nat) (h : Keeps s0 x4) : Keeps s0 (loopRule p t a x3 x4).2 := by
  induction x3 generalizing p t a x4 with
  | zero =>
    unfold loopRule
    repeat' (first | with_reducible assumption | with_reducible exact Keeps.refl _ | apply ih | with_reducible apply wr_keeps | with_reducible apply keeps_ite | with_reducible apply keeps_ite_snd | intro _ | dsimp only | split)
  | succ k ih =>
    unfold loopRule
    repeat' (first | with_reducible assumption | with_reducible exact Keeps.refl _ | apply ih | with_reducible apply wr_keeps | with_reducible apply keeps_ite | with_reducible apply keeps_ite_snd | intro _ | dsimp only | split)

end Sys2Proof.Machine
end

