-- ==== Sys2Proof/Laws/KeepsIssue.lean ====
section
/-! SUPPORT. What the operations of Machine/Issue.lean keep (Laws/Keeps.lean). -/

namespace Sys2Proof.Machine

set_option linter.unusedTactic false
set_option linter.unreachableTactic false
set_option linter.unusedSimpArgs false

theorem traceX_keeps {s0 s : State} (p : Nat) (t : Nat) (a : Nat) (cnt : Nat) (w : Nat) (vals : List Nat) (h : Keeps s0 s) : Keeps s0 (traceX p t a cnt w vals s) := by
  unfold traceX
  repeat' (first | with_reducible assumption | with_reducible exact Keeps.refl _ | with_reducible apply genRecord_keeps | with_reducible apply keeps_ite | intro _ | dsimp only | split)

theorem traceRetire_keeps {s0 s : State} (p : Nat) (t : Nat) (a : Nat) (cnt : Nat) (goes : Option Nat) (wx : Nat) (vals : List Nat) (h : Keeps s0 s) : Keeps s0 (traceRetire p t a cnt goes wx vals s) := by
  unfold traceRetire
  repeat' (first | with_reducible assumption | with_reducible exact Keeps.refl _ | with_reducible apply setSrc_keeps | with_reducible apply genRecord_keeps | with_reducible apply traceX_keeps | with_reducible apply keeps_ite | intro _ | dsimp only | split)

theorem raiseExc_keeps {s0 s : State} (p : Nat) (t : Nat) (a : Nat) (slot : Nat) (code : Nat) (sub : Nat) (h : Keeps s0 s) : Keeps s0 (raiseExc p t a slot code sub s) := by
  unfold raiseExc
  repeat' (first | with_reducible assumption | with_reducible exact Keeps.refl _ | with_reducible apply preciseExc_keeps | with_reducible apply genRecord_keeps | with_reducible apply keeps_ite | intro _ | dsimp only | split)

theorem crookRetired_keeps {s0 s : State} (p : Nat) (t : Nat) (a : Nat) (cnt : Nat) (h : Keeps s0 s) : Keeps s0 (crookRetired p t a cnt s) := by
  unfold crookRetired
  repeat' (first | with_reducible assumption | with_reducible exact Keeps.refl _ | with_reducible apply genRecord_keeps | with_reducible apply crookFire_keeps | with_reducible apply keeps_ite | intro _ | dsimp only | split)

theorem dispatch_keeps {s0 s : State} (p : Nat) (u : QUnit) (t : Nat) (a : Nat) (bun : Nat) (w : Nat) (vals : List Nat) (h : Keeps s0 s) : Keeps s0 (dispatch p u t a bun w vals s) := by
  unfold dispatch
  repeat' (first | with_reducible assumption | with_reducible exact Keeps.refl _ | with_reducible apply coreMod_keeps | with_reducible apply keeps_ite | simp only [keeps_mk_iff] | intro _ | dsimp only | split)

theorem dispatchSlot_keeps {s0 s : State} (p : Nat) (u : QUnit) (t : Nat) (a : Nat) (bun : Nat) (w : Nat) (on0 : Bool) (vals : List Nat) (h : Keeps s0 s) : Keeps s0 (dispatchSlot p u t a bun w on0 vals s) := by
  unfold dispatchSlot
  repeat' (first | with_reducible assumption | with_reducible exact Keeps.refl _ | with_reducible apply whsIssue_keeps | with_reducible apply dispatch_keeps | with_reducible apply keeps_ite | intro _ | dsimp only | split)

theorem setPc_keeps {s0 s : State} (p : Nat) (t : Nat) (next : Nat) (h : Keeps s0 s) : Keeps s0 (setPc p t next s) := by
  unfold setPc
  repeat' (first | with_reducible assumption | with_reducible exact Keeps.refl _ | with_reducible apply wr_keeps | with_reducible apply coreMod_keeps | with_reducible apply keeps_ite | simp only [keeps_mk_iff] | intro _ | dsimp only | split)

theorem issueBundle_keeps {s0 s : State} (p t a b : Nat) (bs : List Nat) (h : Keeps s0 s) : Keeps s0 (issueBundle p t a b bs s) := by
  unfold issueBundle
  extract_lets regs onM onV onX vm vv vx bun so s1 s2 cnt s3 lp goes s4 s5 s6
  have h0 : Keeps s0 so.st := by
    apply keeps_ite_st
    · intro _; apply sEffect_keeps; exact h
    · intro _; exact h
  have h1 : Keeps s0 s1 := by
    apply coreMod_keeps; exact h0
  have h2 : Keeps s0 s2 := by
    apply dispatchSlot_keeps; apply dispatchSlot_keeps; apply dispatchSlot_keeps; exact h1
  have h3 : Keeps s0 s3 := by
    apply wr_keeps; exact h2
  have h4 : Keeps s0 lp.2 := by
    apply keeps_ite_snd
    · intro _; exact h3
    · intro _; apply loopRule_keeps; exact h3
  have h5 : Keeps s0 s4 := by
    apply setPc_keeps; exact h4
  have h6 : Keeps s0 s5 := by
    apply keeps_ite
    · intro _; apply coreMod_keeps; exact h5
    · intro _; exact h5
  have h7 : Keeps s0 s6 := by
    apply keeps_ite
    · intro _; apply haltTask_keeps; exact h6
    · intro _; exact h6
  apply crookRetired_keeps; apply traceRetire_keeps; exact h7

theorem sDeliver_keeps {s0 s : State} (p : Nat) (t : Nat) (off : Nat) (bs : List Nat) (h : Keeps s0 s) : Keeps s0 (sDeliver p t off bs s).2 := by
  unfold sDeliver
  repeat' (first | with_reducible assumption | with_reducible exact Keeps.refl _ | with_reducible apply freshBlock_keeps | with_reducible apply keeps_ite_snd | with_reducible apply keeps_ite | intro _ | dsimp only | split)

theorem issueTask_keeps {s0 s : State} (p : Nat) (t : Nat) (h : Keeps s0 s) : Keeps s0 (issueTask p t s) := by
  unfold issueTask
  repeat' (first | with_reducible assumption | with_reducible exact Keeps.refl _ | with_reducible apply raiseExc_keeps | with_reducible apply bump_keeps | with_reducible apply spReadBytes_keeps | with_reducible apply sDeliver_keeps | with_reducible apply issueBundle_keeps | with_reducible apply keeps_ite_snd | with_reducible apply keeps_ite | intro _ | dsimp only | split)

theorem bumpIf_keeps {s0 s : State} (b : Bool) (f : Fld) (i : Nat) (h : Keeps s0 s) : Keeps s0 (bumpIf b f i s) := by
  unfold bumpIf
  repeat' (first | with_reducible assumption | with_reducible exact Keeps.refl _ | with_reducible apply bump_keeps | with_reducible apply keeps_ite | intro _ | dsimp only | split)

theorem showTasks_keeps {s0 s : State} (p : Nat) (ks : List (Nat × Stall)) (h : Keeps s0 s) : Keeps s0 (showTasks p ks s) := by
  unfold showTasks
  repeat' (first | with_reducible assumption | with_reducible exact Keeps.refl _ | with_reducible apply wr_keeps | with_reducible apply keeps_foldl | with_reducible apply keeps_foldl_snd | with_reducible apply keeps_foldl_fst | with_reducible apply keeps_ite_snd | with_reducible apply keeps_ite | intro _ | dsimp only | split)

theorem cycleIssue_keeps {s0 s : State} (p : Nat) (ks : List (Nat × Stall)) (h : Keeps s0 s) : Keeps s0 (cycleIssue p ks s) := by
  unfold cycleIssue
  repeat' (first | with_reducible assumption | with_reducible exact Keeps.refl _ | with_reducible apply coreMod_keeps | with_reducible apply issueTask_keeps | with_reducible apply keeps_ite | simp only [keeps_mk_iff] | intro _ | dsimp only | split)

theorem coreCycle_keeps {s0 s : State} (p : Nat) (h : Keeps s0 s) : Keeps s0 (coreCycle p s) := by
  unfold coreCycle
  repeat' (first | with_reducible assumption | with_reducible exact Keeps.refl _ | with_reducible apply coreMod_keeps | with_reducible apply meshCycle_keeps | with_reducible apply confCycle_keeps | with_reducible apply bumpIf_keeps | with_reducible apply cycleIssue_keeps | with_reducible apply showTasks_keeps | with_reducible apply keeps_ite | simp only [keeps_mk_iff] | intro _ | dsimp only | split)

theorem execBundleIssue_keeps {s0 s : State} (c : Nat) (h : Keeps s0 s) : KeepsR s0 (execBundleIssue c s) := by
  unfold execBundleIssue
  repeat' (first | with_reducible assumption | with_reducible exact Keeps.refl _ | with_reducible apply coreCycle_keeps | with_reducible apply keepsR_next | with_reducible apply keeps_ite | with_reducible apply keepsR_ite | intro _ | dsimp only | split)

theorem startTask_keeps {s0 s : State} (p : Nat) (t : Nat) (h : Keeps s0 s) : Keeps s0 (startTask p t s) := by
  unfold startTask
  repeat' (first | with_reducible assumption | with_reducible exact Keeps.refl _ | with_reducible apply wr_keeps | with_reducible apply coreMod_keeps | with_reducible apply setPc_keeps | with_reducible apply keeps_iter | with_reducible apply keeps_ite | simp only [keeps_mk_iff] | intro _ | dsimp only | split)

theorem execTaskStart_keeps {s0 s : State} (c : Nat) (task : Nat) (h : Keeps s0 s) : KeepsR s0 (execTaskStart c task s) := by
  unfold execTaskStart
  repeat' (first | with_reducible assumption | with_reducible exact Keeps.refl _ | with_reducible apply startTask_keeps | with_reducible apply keepsR_next | with_reducible apply keeps_ite | with_reducible apply keepsR_ite | intro _ | dsimp only | split)

theorem resumeTask_keeps {s0 s : State} (p : Nat) (t : Nat) (h : Keeps s0 s) : Keeps s0 (resumeTask p t s) := by
  unfold resumeTask
  repeat' (first | with_reducible assumption | with_reducible exact Keeps.refl _ | with_reducible apply wr_keeps | with_reducible apply keeps_ite | intro _ | dsimp only | split)

theorem execTaskResume_keeps {s0 s : State} (c : Nat) (task : Nat) (h : Keeps s0 s) : KeepsR s0 (execTaskResume c task s) := by
  unfold execTaskResume
  repeat' (first | with_reducible assumption | with_reducible exact Keeps.refl _ | with_reducible apply resumeTask_keeps | with_reducible apply keepsR_next | with_reducible apply keeps_ite | with_reducible apply keepsR_ite | intro _ | dsimp only | split)

theorem stopTask_keeps {s0 s : State} (p : Nat) (t : Nat) (h : Keeps s0 s) : Keeps s0 (stopTask p t s) := by
  unfold stopTask
  repeat' (first | with_reducible assumption | with_reducible exact Keeps.refl _ | with_reducible apply haltTask_keeps | with_reducible apply keeps_ite | intro _ | dsimp only | split)

theorem execTaskStop_keeps {s0 s : State} (c : Nat) (task : Nat) (h : Keeps s0 s) : KeepsR s0 (execTaskStop c task s) := by
  unfold execTaskStop
  repeat' (first | with_reducible assumption | with_reducible exact Keeps.refl _ | with_reducible apply stopTask_keeps | with_reducible apply keepsR_next | with_reducible apply keeps_ite | with_reducible apply keepsR_ite | intro _ | dsimp only | split)

theorem execFtfMark_keeps {s0 s : State} (c : Nat) (h : Keeps s0 s) : KeepsR s0 (execFtfMark c s) := by
  unfold execFtfMark
  repeat' (first | with_reducible assumption | with_reducible exact Keeps.refl _ | with_reducible apply xStart_keeps | with_reducible apply keepsR_next | with_reducible apply keeps_ite | with_reducible apply keepsR_ite | intro _ | dsimp only | split)

theorem execXOpComplete_keeps {s0 s : State} (c : Nat) (eng : Nat) (h : Keeps s0 s) : KeepsR s0 (execXOpComplete c eng s) := by
  unfold execXOpComplete
  repeat' (first | with_reducible assumption | with_reducible exact Keeps.refl _ | with_reducible apply qFree_keeps | with_reducible apply meshFinish_keeps | with_reducible apply keepsR_next | with_reducible apply keeps_ite | with_reducible apply keepsR_ite | intro _ | dsimp only | split)

end Sys2Proof.Machine
end

