-- ==== Sys2Proof/Laws/KeepsSink.lean ====
section
/-! SUPPORT. What the operations of Machine/Sink.lean keep (Laws/Keeps.lean). -/

namespace Sys2Proof.Machine

set_option linter.unusedTactic false
set_option linter.unreachableTactic false
set_option linter.unusedSimpArgs false

theorem sinkRefuses_keeps {s0 s : State} (n : Nat) (h : Keeps s0 s) : Keeps s0 (sinkRefuses n s) := by
  unfold sinkRefuses
  repeat' (first | with_reducible assumption | with_reducible exact Keeps.refl _ | with_reducible apply sinkMod_keeps | with_reducible apply keeps_ite | simp only [keeps_mk_iff] | intro _ | dsimp only | split)

theorem sinkServes_keeps {s0 s : State} (n : Nat) (h : Keeps s0 s) : Keeps s0 (sinkServes n s) := by
  unfold sinkServes
  repeat' (first | with_reducible assumption | with_reducible exact Keeps.refl _ | with_reducible apply addSat_keeps | with_reducible apply sinkMod_keeps | with_reducible apply keeps_ite | simp only [keeps_mk_iff] | intro _ | dsimp only | split)

theorem sinkBuffer_keeps {s0 s : State} (n : Nat) (h : Keeps s0 s) : Keeps s0 (sinkBuffer n s).2 := by
  unfold sinkBuffer
  repeat' (first | with_reducible assumption | with_reducible exact Keeps.refl _ | with_reducible apply byreGetBy_keeps | with_reducible apply sinkMod_keeps | with_reducible apply keeps_ite_snd | with_reducible apply keeps_ite | with_reducible apply keeps_ite_st | simp only [keeps_mk_iff] | with_reducible apply byreGet_keeps | intro _ | dsimp only | split)

theorem lineGone_keeps {s0 s : State} (p : Nat) (h : Keeps s0 s) : Keeps s0 (lineGone p s) := by
  unfold lineGone
  repeat' (first | with_reducible assumption | with_reducible exact Keeps.refl _ | with_reducible apply coreMod_keeps | with_reducible apply trShow_keeps | with_reducible apply keeps_ite | simp only [keeps_mk_iff] | intro _ | dsimp only | split)

theorem sinkLine_keeps {s0 s : State} (n : Nat) (p : Nat) (ws : List Nat) (h : Keeps s0 s) : Keeps s0 (sinkLine n p ws s) := by
  unfold sinkLine
  repeat' (first | with_reducible assumption | with_reducible exact Keeps.refl _ | with_reducible apply sinkMod_keeps | with_reducible apply lineGone_keeps | with_reducible apply keeps_ite | simp only [keeps_mk_iff] | intro _ | dsimp only | split)

theorem execTraceLineDeliver_keeps {s0 s : State} (c : Nat) (h : Keeps s0 s) : KeepsR s0 (execTraceLineDeliver c s) := by
  unfold execTraceLineDeliver
  repeat' (first | with_reducible assumption | with_reducible exact Keeps.refl _ | with_reducible apply sinkLine_keeps | with_reducible apply sinkBuffer_keeps | with_reducible apply sinkServes_keeps | with_reducible apply sinkRefuses_keeps | with_reducible apply keepsR_next | with_reducible apply keeps_ite | with_reducible apply keepsR_ite | intro _ | dsimp only | split)

theorem execFlush_keeps {s0 s : State} (n : Nat) (h : Keeps s0 s) : KeepsR s0 (execFlush n s) := by
  unfold execFlush
  repeat' (first | with_reducible assumption | with_reducible exact Keeps.refl _ | with_reducible apply sinkPump_keeps | with_reducible apply sinkMod_keeps | with_reducible apply keepsR_next | with_reducible apply keeps_ite | with_reducible apply keepsR_ite | simp only [keeps_mk_iff] | intro _ | dsimp only | split)

theorem sinkSection_keeps {s0 s : State} (n : Nat) (h : Keeps s0 s) : Keeps s0 (sinkSection n s) := by
  unfold sinkSection
  repeat' (first | with_reducible assumption | with_reducible exact Keeps.refl _ | with_reducible apply sinkPump_keeps | with_reducible apply sinkMod_keeps | with_reducible apply keeps_ite | simp only [keeps_mk_iff] | intro _ | dsimp only | split)

theorem execSinkResume_keeps {s0 s : State} (n : Nat) (h : Keeps s0 s) : KeepsR s0 (execSinkResume n s) := by
  unfold execSinkResume
  repeat' (first | with_reducible assumption | with_reducible exact Keeps.refl _ | with_reducible apply wr_keeps | with_reducible apply keepsR_next | with_reducible apply keeps_ite | with_reducible apply keepsR_ite | simp only [keeps_mk_iff] | intro _ | dsimp only | split)

theorem execCrookStopDone_keeps {s0 s : State} (n : Nat) (h : Keeps s0 s) : KeepsR s0 (execCrookStopDone n s) := by
  unfold execCrookStopDone
  repeat' (first | with_reducible assumption | with_reducible exact Keeps.refl _ | with_reducible apply wr_keeps | with_reducible apply pdkMod_keeps | with_reducible apply raiseSource_keeps | with_reducible apply sinkMod_keeps | with_reducible apply keepsR_next | with_reducible apply keeps_ite | with_reducible apply keepsR_ite | simp only [keeps_mk_iff] | intro _ | dsimp only | split)

theorem execRelease_keeps {s0 s : State} (n : Nat) (h : Keeps s0 s) : KeepsR s0 (execRelease n s) := by
  unfold execRelease
  repeat' (first | with_reducible assumption | with_reducible exact Keeps.refl _ | with_reducible apply crookRelease_keeps | with_reducible apply keepsR_next | with_reducible apply keeps_ite | with_reducible apply keepsR_ite | intro _ | dsimp only | split)

theorem execDump_keeps {s0 s : State} (n : Nat) (sp : Bool) (h : Keeps s0 s) : KeepsR s0 (execDump n sp s) := by
  unfold execDump
  repeat' (first | with_reducible assumption | with_reducible exact Keeps.refl _ | with_reducible apply wr_keeps | with_reducible apply sinkMod_keeps | with_reducible apply keepsR_next | with_reducible apply keeps_ite | with_reducible apply keepsR_ite | simp only [keeps_mk_iff] | intro _ | dsimp only | split)

theorem dumpWrite_keeps {s0 x2 : State} (n : Nat) (x1 : List (Nat × List Nat)) (h : Keeps s0 x2) : Keeps s0 (dumpWrite n x1 x2).2 := by
  induction x1 generalizing n x2 with
  | nil =>
    unfold dumpWrite
    repeat' (first | with_reducible assumption | with_reducible exact Keeps.refl _ | apply ih | with_reducible apply emit_keeps | with_reducible apply memWrite_keeps | with_reducible apply translate_keeps | with_reducible apply keeps_ite | with_reducible apply keeps_ite_snd | intro _ | dsimp only | split)
  | cons hd tl ih =>
    unfold dumpWrite
    repeat' (first | with_reducible assumption | with_reducible exact Keeps.refl _ | apply ih | with_reducible apply emit_keeps | with_reducible apply memWrite_keeps | with_reducible apply translate_keeps | with_reducible apply keeps_ite | with_reducible apply keeps_ite_snd | intro _ | dsimp only | split)

theorem execDumpDone_keeps {s0 s : State} (n : Nat) (h : Keeps s0 s) : KeepsR s0 (execDumpDone n s) := by
  unfold execDumpDone
  repeat' (first | with_reducible assumption | with_reducible exact Keeps.refl _ | with_reducible apply wr_keeps | with_reducible apply bump_keeps | with_reducible apply faultRecord_keeps | with_reducible apply sinkMod_keeps | with_reducible apply dumpWrite_keeps | with_reducible apply keepsR_next | with_reducible apply keeps_ite | with_reducible apply keepsR_ite | simp only [keeps_mk_iff] | intro _ | dsimp only | split)

end Sys2Proof.Machine
end

