-- ==== Sys2Proof/Laws/KeepsAccess.lean ====
section
/-! SUPPORT. What the operations of Machine/Access.lean keep (Laws/Keeps.lean). -/

namespace Sys2Proof.Machine

set_option linter.unusedTactic false
set_option linter.unreachableTactic false
set_option linter.unusedSimpArgs false

theorem storeClass_keeps {s0 s : State} (b : Blk) (inst : Nat) (off : Nat) (r : RegD) (w : Word) (h : Keeps s0 s) : Keeps s0 (storeClass b inst off r w s) := by
  unfold storeClass
  repeat' (first | with_reducible assumption | with_reducible exact Keeps.refl _ | with_reducible apply wrW_keeps | with_reducible apply bellWaits_keeps | with_reducible apply keeps_ite | simp only [keeps_mk_iff] | intro _ | dsimp only | split)

theorem writeTakes_keeps {s0 s : State} (b : Blk) (inst : Nat) (off : Nat) (r : RegD) (data : Word) (h : Keeps s0 s) : Keeps s0 (writeTakes b inst off r data s) := by
  unfold writeTakes
  repeat' (first | with_reducible assumption | with_reducible exact Keeps.refl _ | with_reducible apply storeClass_keeps | with_reducible apply keeps_ite | intro _ | dsimp only | split)

theorem plainWrite_keeps {s0 s : State} (brand : Nat) (b : Blk) (inst : Nat) (off : Nat) (data : Word) (h : Keeps s0 s) : Keeps s0 (plainWrite brand b inst off data s).2 := by
  unfold plainWrite
  repeat' (first | with_reducible assumption | with_reducible exact Keeps.refl _ | with_reducible apply refuseWrite_keeps | with_reducible apply writeTakes_keeps | with_reducible apply keeps_ite | with_reducible apply keeps_ite_snd | intro _ | dsimp only | split)

theorem drvCtl_keeps {s0 s : State} (g : Nat) (data : Nat) (h : Keeps s0 s) : Keeps s0 (drvCtl g data s) := by
  unfold drvCtl
  repeat' (first | with_reducible assumption | with_reducible exact Keeps.refl _ | with_reducible apply resumeCtx_keeps | with_reducible apply armCtx_keeps | with_reducible apply haltByCommand_keeps | with_reducible apply rearmRequest_keeps | with_reducible apply keeps_ite | intro _ | dsimp only | split)

theorem drvBits_keeps {s0 s : State} (op : Nat → State → State) (lo : Nat) (data : Nat) (hop : ∀ y0 u, Keeps s0 u → Keeps s0 (op y0 u)) (h : Keeps s0 s) : Keeps s0 (drvBits op lo data s) := by
  unfold drvBits
  repeat' (first | with_reducible assumption | with_reducible exact Keeps.refl _ | apply hop | with_reducible apply keeps_iter | with_reducible apply keeps_ite | intro _ | dsimp only | split)

theorem tctlWrite_keeps {s0 s : State} (p : Nat) (t : Nat) (data : Nat) (h : Keeps s0 s) : Keeps s0 (tctlWrite p t data s) := by
  unfold tctlWrite
  repeat' (first | with_reducible assumption | with_reducible exact Keeps.refl _ | with_reducible apply stopTask_keeps | with_reducible apply startTask_keeps | with_reducible apply resumeTask_keeps | with_reducible apply keeps_ite | intro _ | dsimp only | split)

theorem unitWrite_keeps {s0 s : State} (brand : Nat) (b : Blk) (inst : Nat) (off : Nat) (data : Word) (h : Keeps s0 s) : Keeps s0 (unitWrite brand b inst off data s).2 := by
  unfold unitWrite
  repeat' (first | with_reducible assumption | with_reducible exact Keeps.refl _ | with_reducible apply tctlWrite_keeps | with_reducible apply plainWrite_keeps | with_reducible apply spcfgTaken_keeps | with_reducible apply drvCtl_keeps | with_reducible apply drvBits_keeps | with_reducible apply rearmRequest_keeps | with_reducible apply resumeCtx_keeps | with_reducible apply keeps_ite_snd | with_reducible apply keeps_ite | intro _ | dsimp only | split)

end Sys2Proof.Machine
end

