-- ==== Sys2Proof/Laws/KeepsPairs.lean ====
section
/-! SUPPORT. What the operations of Machine/Pairs.lean keep (Laws/Keeps.lean). -/

namespace Sys2Proof.Machine

set_option linter.unusedTactic false
set_option linter.unreachableTactic false
set_option linter.unusedSimpArgs false

theorem watchMod_keeps {s0 s : State} (n : Nat) (g : Watch → Watch) (h : Keeps s0 s) : Keeps s0 (watchMod n g s) := by
  unfold watchMod
  repeat' (first | with_reducible assumption | with_reducible exact Keeps.refl _ | with_reducible apply keeps_ite | simp only [keeps_mk_iff] | intro _ | dsimp only | split)

theorem pairForm_keeps {s0 s : State} (m : Nat) (h : Keeps s0 s) : Keeps s0 (pairForm m s) := by
  unfold pairForm
  repeat' (first | with_reducible assumption | with_reducible exact Keeps.refl _ | with_reducible apply wr_keeps | with_reducible apply drawFree_keeps | with_reducible apply pfEvent_keeps | with_reducible apply keeps_ite | intro _ | dsimp only | split)

end Sys2Proof.Machine
end

