-- ==== Sys2Proof/Laws/KeepsFold.lean ====
section
/-! SUPPORT. What the operations of Machine/Fold.lean keep (Laws/Keeps.lean). -/

namespace Sys2Proof.Machine

set_option linter.unusedTactic false
set_option linter.unreachableTactic false
set_option linter.unusedSimpArgs false

theorem writeHurdles_keeps {s0 s : State} (p : Nat) (h : Keeps s0 s) : Keeps s0 (writeHurdles p s) := by
  unfold writeHurdles
  repeat' (first | with_reducible assumption | with_reducible exact Keeps.refl _ | with_reducible apply wr_keeps | with_reducible apply htPut_keeps | with_reducible apply keeps_iter | with_reducible apply keeps_ite | intro _ | dsimp only | split)

theorem playFrame_keeps {s0 s : State} (p : Nat) (ty : Nat) (idx : Nat) (bs : List Nat) (h : Keeps s0 s) : Keeps s0 (playFrame p ty idx bs s) := by
  unfold playFrame
  repeat' (first | with_reducible assumption | with_reducible exact Keeps.refl _ | with_reducible apply framePut_keeps | with_reducible apply spPlain_keeps | with_reducible apply spPutRaw_keeps | with_reducible apply tileSet_keeps | with_reducible apply descSet_keeps | with_reducible apply gSet_keeps | with_reducible apply keeps_iter | with_reducible apply keeps_ite | intro _ | dsimp only | split)

theorem playOne_keeps {s0 s : State} (n : Nat) (x : FWr) (h : Keeps s0 s) : Keeps s0 (playOne n x s).2 := by
  unfold playOne
  repeat' (first | with_reducible assumption | with_reducible exact Keeps.refl _ | with_reducible apply unitWrite_keeps | with_reducible apply playFrame_keeps | with_reducible apply keeps_ite | with_reducible apply keeps_ite_snd | intro _ | dsimp only | split)

theorem playAll_keeps {s0 x2 : State} (n : Nat) (x1 : List FWr) (h : Keeps s0 x2) : Keeps s0 (playAll n x1 x2).2 := by
  induction x1 generalizing n x2 with
  | nil =>
    unfold playAll
    repeat' (first | with_reducible assumption | with_reducible exact Keeps.refl _ | apply ih | with_reducible apply playOne_keeps | with_reducible apply keeps_ite | with_reducible apply keeps_ite_snd | intro _ | dsimp only | split)
  | cons hd tl ih =>
    unfold playAll
    repeat' (first | with_reducible assumption | with_reducible exact Keeps.refl _ | apply ih | with_reducible apply playOne_keeps | with_reducible apply keeps_ite | with_reducible apply keeps_ite_snd | intro _ | dsimp only | split)

theorem clearTaskRegs_keeps {s0 s : State} (p : Nat) (h : Keeps s0 s) : Keeps s0 (clearTaskRegs p s) := by
  unfold clearTaskRegs
  repeat' (first | with_reducible assumption | with_reducible exact Keeps.refl _ | with_reducible apply wr_keeps | with_reducible apply gSet_keeps | with_reducible apply keeps_iter | with_reducible apply keeps_ite | intro _ | dsimp only | split)

theorem playSection_keeps {s0 s : State} (n : Nat) (ws : List FWr) (h : Keeps s0 s) : Keeps s0 (playSection n ws s).2 := by
  unfold playSection
  repeat' (first | with_reducible assumption | with_reducible exact Keeps.refl _ | with_reducible apply playAll_keeps | with_reducible apply clearTaskRegs_keeps | with_reducible apply writeHurdles_keeps | with_reducible apply keeps_foldl | with_reducible apply keeps_foldl_snd | with_reducible apply keeps_foldl_fst | with_reducible apply keeps_ite_snd | with_reducible apply keeps_ite | intro _ | dsimp only | split)

theorem foldErr_keeps {s0 s : State} (n : Nat) (e : Nat) (h : Keeps s0 s) : Keeps s0 (foldErr n e s) := by
  unfold foldErr
  repeat' (first | with_reducible assumption | with_reducible exact Keeps.refl _ | with_reducible apply wr_keeps | with_reducible apply keeps_ite | intro _ | dsimp only | split)

theorem foldRecord_keeps {s0 s : State} (n : Nat) (off : Nat) (h : Keeps s0 s) : Keeps s0 (foldRecord n off s) := by
  unfold foldRecord
  repeat' (first | with_reducible assumption | with_reducible exact Keeps.refl _ | with_reducible apply pfEvent_keeps | with_reducible apply keeps_ite | intro _ | dsimp only | split)

theorem sigNote_keeps {s0 s : State} (n : Nat) (slot : Nat) (v : Nat) (h : Keeps s0 s) : Keeps s0 (sigNote n slot v s) := by
  unfold sigNote
  repeat' (first | with_reducible assumption | with_reducible exact Keeps.refl _ | with_reducible apply wr_keeps | with_reducible apply flockEvent_keeps | with_reducible apply keeps_ite | intro _ | dsimp only | split)

theorem holdCmd_keeps {s0 s : State} (c : List Nat) (h : Keeps s0 s) : Keeps s0 (holdCmd c s) := by
  unfold holdCmd
  exact wr_keeps _ _ _ (keeps_mgmt ⟨fun _ => rfl, le_rfl⟩ h)

theorem foldSample_keeps {s0 s : State} (n : Nat) (job : Nat) (h : Keeps s0 s) : Keeps s0 (foldSample n job s) := by
  unfold foldSample
  repeat' (first | with_reducible assumption | with_reducible exact Keeps.refl _ | with_reducible apply foldMod_keeps | with_reducible apply keeps_ite | simp only [keeps_mk_iff] | intro _ | dsimp only | split)

theorem foldLoad_keeps {s0 s : State} (n : Nat) (h : Keeps s0 s) : Keeps s0 (foldLoad n s) := by
  unfold foldLoad
  repeat' (first | with_reducible assumption | with_reducible exact Keeps.refl _ | with_reducible apply scheduleNext_keeps | with_reducible apply foldShow_keeps | with_reducible apply foldSample_keeps | with_reducible apply foldErr_keeps | with_reducible apply keeps_ite | intro _ | dsimp only | split)

theorem foldSwap_keeps {s0 s : State} (n : Nat) (k : Nat) (h : Keeps s0 s) : Keeps s0 (foldSwap n k s) := by
  unfold foldSwap
  repeat' (first | with_reducible assumption | with_reducible exact Keeps.refl _ | with_reducible apply scheduleNext_keeps | with_reducible apply foldMod_keeps | with_reducible apply foldShow_keeps | with_reducible apply foldErr_keeps | with_reducible apply keeps_ite | simp only [keeps_mk_iff] | intro _ | dsimp only | split)

theorem foldVerify_keeps {s0 s : State} (n : Nat) (h : Keeps s0 s) : Keeps s0 (foldVerify n s) := by
  unfold foldVerify
  repeat' (first | with_reducible assumption | with_reducible exact Keeps.refl _ | with_reducible apply foldShow_keeps | with_reducible apply foldSample_keeps | with_reducible apply foldErr_keeps | with_reducible apply keeps_ite | intro _ | dsimp only | split)

theorem foldCommand_keeps {s0 s : State} (n : Nat) (op : Nat) (k : Nat) (h : Keeps s0 s) : Keeps s0 (foldCommand n op k s) := by
  unfold foldCommand
  repeat' (first | with_reducible assumption | with_reducible exact Keeps.refl _ | with_reducible apply foldSwap_keeps | with_reducible apply foldLoad_keeps | with_reducible apply foldVerify_keeps | with_reducible apply foldErr_keeps | with_reducible apply keeps_ite | intro _ | dsimp only | split)

theorem foldAsk_keeps {s0 s : State} (n : Nat) (op : Nat) (k : Nat) (h : Keeps s0 s) : Keeps s0 (foldAsk n op k s) := by
  unfold foldAsk
  repeat' (first | with_reducible assumption | with_reducible exact Keeps.refl _ | with_reducible apply holdCmd_keeps | with_reducible apply foldCommand_keeps | with_reducible apply keeps_ite | intro _ | dsimp only | split)

theorem execFldLoad_keeps {s0 s : State} (n : Nat) (h : Keeps s0 s) : KeepsR s0 (execFldLoad n s) := by
  unfold execFldLoad
  repeat' (first | with_reducible assumption | with_reducible exact Keeps.refl _ | with_reducible apply foldAsk_keeps | with_reducible apply keepsR_next | with_reducible apply keeps_ite | with_reducible apply keepsR_ite | intro _ | dsimp only | split)

theorem execHstFolddb_keeps {s0 s : State} (n : Nat) (h : Keeps s0 s) : KeepsR s0 (execHstFolddb n s) := by
  unfold execHstFolddb
  repeat' (first | with_reducible assumption | with_reducible exact Keeps.refl _ | with_reducible apply foldAsk_keeps | with_reducible apply keepsR_next | with_reducible apply keeps_ite | with_reducible apply keepsR_ite | intro _ | dsimp only | split)

theorem execFldSwap_keeps {s0 s : State} (n : Nat) (k : Nat) (h : Keeps s0 s) : KeepsR s0 (execFldSwap n k s) := by
  unfold execFldSwap
  repeat' (first | with_reducible assumption | with_reducible exact Keeps.refl _ | with_reducible apply foldAsk_keeps | with_reducible apply keepsR_next | with_reducible apply keeps_ite | with_reducible apply keepsR_ite | intro _ | dsimp only | split)

theorem execFldVerify_keeps {s0 s : State} (n : Nat) (h : Keeps s0 s) : KeepsR s0 (execFldVerify n s) := by
  unfold execFldVerify
  repeat' (first | with_reducible assumption | with_reducible exact Keeps.refl _ | with_reducible apply foldAsk_keeps | with_reducible apply keepsR_next | with_reducible apply keeps_ite | with_reducible apply keepsR_ite | intro _ | dsimp only | split)

theorem execFoldVerifyDone_keeps {s0 s : State} (n : Nat) (h : Keeps s0 s) : KeepsR s0 (execFoldVerifyDone n s) := by
  unfold execFoldVerifyDone
  repeat' (first | with_reducible assumption | with_reducible exact Keeps.refl _ | with_reducible apply sigNote_keeps | with_reducible apply wr_keeps | with_reducible apply foldShow_keeps | with_reducible apply foldErr_keeps | with_reducible apply foldMod_keeps | with_reducible apply keeps_ite_snd | with_reducible apply keepsR_next | with_reducible apply keeps_ite | with_reducible apply keepsR_ite | simp only [keeps_mk_iff] | intro _ | dsimp only | split)

theorem foldCopy_keeps {s0 s : State} (s0' : State) (q : FoldReq) (h : Keeps s0 s) : Keeps s0 (foldCopy s0' q s) := by
  unfold foldCopy
  repeat' (first | with_reducible assumption | with_reducible exact Keeps.refl _ | with_reducible apply memWrite_keeps | with_reducible apply keeps_ite | intro _ | dsimp only | split)

theorem foldBegin_keeps {s0 s : State} (n : Nat) (h : Keeps s0 s) : Keeps s0 (foldBegin n s) := by
  unfold foldBegin
  repeat' (first | with_reducible assumption | with_reducible exact Keeps.refl _ | with_reducible apply foldCopy_keeps | with_reducible apply wr_keeps | with_reducible apply sigNote_keeps | with_reducible apply foldShow_keeps | with_reducible apply foldErr_keeps | with_reducible apply foldMod_keeps | with_reducible apply keeps_ite_snd | with_reducible apply keeps_ite | simp only [keeps_mk_iff] | with_reducible apply memWrite_keeps | intro _ | dsimp only | split)

theorem goldWrite_keeps {s0 s : State} (n : Nat) (sec : Nat) (p : Nat) (h : Keeps s0 s) : Keeps s0 (goldWrite n sec p s) := by
  unfold goldWrite
  repeat' (first | with_reducible assumption | with_reducible exact Keeps.refl _ | with_reducible apply memWrite_keeps | with_reducible apply foldMod_keeps | with_reducible apply keeps_ite | simp only [keeps_mk_iff] | intro _ | dsimp only | split)

theorem goldHeader_keeps {s0 s : State} (n : Nat) (h : Keeps s0 s) : Keeps s0 (goldHeader n s) := by
  unfold goldHeader
  repeat' (first | with_reducible assumption | with_reducible exact Keeps.refl _ | with_reducible apply memWrite_keeps | with_reducible apply freshBlock_keeps | with_reducible apply keeps_ite | intro _ | dsimp only | split)

theorem foldRefused_keeps {s0 s : State} (n : Nat) (x : FWr) (h : Keeps s0 s) : Keeps s0 (foldRefused n x s) := by
  unfold foldRefused
  repeat' (first | with_reducible assumption | with_reducible exact Keeps.refl _ | with_reducible apply wr_keeps | with_reducible apply foldMod_keeps | with_reducible apply regatherStart_keeps | with_reducible apply foldShow_keeps | with_reducible apply foldRecord_keeps | with_reducible apply keeps_ite | simp only [keeps_mk_iff] | intro _ | dsimp only | split)

theorem strand_keeps {s0 s : State} (n : Nat) (h : Keeps s0 s) : Keeps s0 (strand n s) := by
  unfold strand
  repeat' (first | with_reducible assumption | with_reducible exact Keeps.refl _ | with_reducible apply wr_keeps | with_reducible apply pdkMod_keeps | with_reducible apply pdkNotice_keeps | with_reducible apply foldMod_keeps | with_reducible apply foldShow_keeps | with_reducible apply failoverNotice_keeps | with_reducible apply step_keeps | with_reducible apply keeps_ite | simp only [keeps_mk_iff] | intro _ | dsimp only | split)

theorem strandAs_keeps {s0 s : State} (n : Nat) (e : Nat) (h : Keeps s0 s) : Keeps s0 (strandAs n e s) := by
  unfold strandAs
  repeat' (first | with_reducible assumption | with_reducible exact Keeps.refl _ | with_reducible apply strand_keeps | with_reducible apply foldErr_keeps | with_reducible apply keeps_ite | intro _ | dsimp only | split)

theorem showPlacement_keeps {s0 s : State} (n : Nat) (p : Nat) (h : Keeps s0 s) : Keeps s0 (showPlacement n p s) := by
  unfold showPlacement
  repeat' (first | with_reducible assumption | with_reducible exact Keeps.refl _ | with_reducible apply wr_keeps | with_reducible apply keeps_ite | intro _ | dsimp only | split)

theorem execFoldLoadDone_keeps {s0 s : State} (n : Nat) (h : Keeps s0 s) : KeepsR s0 (execFoldLoadDone n s) := by
  unfold execFoldLoadDone
  repeat' (first | with_reducible assumption | with_reducible exact Keeps.refl _ | with_reducible apply strandAs_keeps | with_reducible apply playSection_keeps | with_reducible apply foldRefused_keeps | with_reducible apply goldWrite_keeps | with_reducible apply goldHeader_keeps | with_reducible apply wr_keeps | with_reducible apply showPlacement_keeps | with_reducible apply foldMod_keeps | with_reducible apply foldShow_keeps | with_reducible apply pairForm_keeps | with_reducible apply scheduleNext_keeps | with_reducible apply keeps_ite_snd | with_reducible apply keepsR_next | with_reducible apply keeps_ite | with_reducible apply keepsR_ite | simp only [keeps_mk_iff] | intro _ | dsimp only | split)

theorem execGoldenDone_keeps {s0 s : State} (n : Nat) (h : Keeps s0 s) : KeepsR s0 (execGoldenDone n s) := by
  unfold execGoldenDone
  repeat' (first | with_reducible assumption | with_reducible exact Keeps.refl _ | with_reducible apply foldShow_keeps | with_reducible apply wr_keeps | with_reducible apply goldWrite_keeps | with_reducible apply keeps_foldl | with_reducible apply keeps_foldl_snd | with_reducible apply keeps_foldl_fst | with_reducible apply keeps_ite_snd | with_reducible apply keepsR_next | with_reducible apply keeps_ite | with_reducible apply keepsR_ite | intro _ | dsimp only | split)

theorem clearPrograms_keeps {s0 s : State} (p : Nat) (h : Keeps s0 s) : Keeps s0 (clearPrograms p s) := by
  unfold clearPrograms
  repeat' (first | with_reducible assumption | with_reducible exact Keeps.refl _ | with_reducible apply keeps_ite | simp only [keeps_mk_iff] | intro _ | dsimp only | split)

theorem swapClear_keeps {s0 s : State} (p : Nat) (h : Keeps s0 s) : Keeps s0 (swapClear p s) := by
  unfold swapClear
  repeat' (first | with_reducible assumption | with_reducible exact Keeps.refl _ | with_reducible apply clearTaskRegs_keeps | with_reducible apply clearPrograms_keeps | with_reducible apply keeps_ite | with_reducible apply wr_keeps | with_reducible apply gSet_keeps | with_reducible apply keeps_iter | intro _ | dsimp only | split)

theorem swapBegin_keeps {s0 s : State} (n : Nat) (h : Keeps s0 s) : Keeps s0 (swapBegin n s) := by
  unfold swapBegin
  repeat' (first | with_reducible assumption | with_reducible exact Keeps.refl _ | with_reducible apply meshMod_keeps | with_reducible apply wr_keeps | with_reducible apply foldShow_keeps | with_reducible apply foldMod_keeps | with_reducible apply swapClear_keeps | with_reducible apply keeps_foldl | with_reducible apply keeps_foldl_snd | with_reducible apply keeps_foldl_fst | with_reducible apply keeps_ite | simp only [keeps_mk_iff] | with_reducible apply keeps_ite_snd | intro _ | dsimp only | split)

theorem swapTry_keeps {s0 s : State} (n : Nat) (h : Keeps s0 s) : Keeps s0 (swapTry n s) := by
  unfold swapTry
  repeat' (first | with_reducible assumption | with_reducible exact Keeps.refl _ | with_reducible apply scheduleNext_keeps | with_reducible apply foldMod_keeps | with_reducible apply swapBegin_keeps | with_reducible apply keeps_ite | simp only [keeps_mk_iff] | intro _ | dsimp only | split)

theorem execSwapDropped_keeps {s0 s : State} (n : Nat) (h : Keeps s0 s) : KeepsR s0 (execSwapDropped n s) := by
  unfold execSwapDropped
  repeat' (first | with_reducible assumption | with_reducible exact Keeps.refl _ | with_reducible apply wr_keeps | with_reducible apply unschedule_keeps | with_reducible apply foldMod_keeps | with_reducible apply foldShow_keeps | with_reducible apply foldRecord_keeps | with_reducible apply foldErr_keeps | with_reducible apply keepsR_next | with_reducible apply keeps_ite | with_reducible apply keepsR_ite | simp only [keeps_mk_iff] | intro _ | dsimp only | split)

theorem execSwapPlayDone_keeps {s0 s : State} (n : Nat) (h : Keeps s0 s) : KeepsR s0 (execSwapPlayDone n s) := by
  unfold execSwapPlayDone
  repeat' (first | with_reducible assumption | with_reducible exact Keeps.refl _ | with_reducible apply strandAs_keeps | with_reducible apply playSection_keeps | with_reducible apply foldRefused_keeps | with_reducible apply foldShow_keeps | with_reducible apply bump_keeps | with_reducible apply scheduleNext_keeps | with_reducible apply showPlacement_keeps | with_reducible apply foldMod_keeps | with_reducible apply keeps_ite_snd | with_reducible apply keepsR_next | with_reducible apply keeps_ite | with_reducible apply keepsR_ite | simp only [keeps_mk_iff] | intro _ | dsimp only | split)

theorem swapCounter_keeps {s0 s : State} (n : Nat) (h : Keeps s0 s) : Keeps s0 (swapCounter n s) := by
  unfold swapCounter
  repeat' (first | with_reducible assumption | with_reducible exact Keeps.refl _ | with_reducible apply foldMod_keeps | with_reducible apply foldSwap_keeps | with_reducible apply keeps_ite | simp only [keeps_mk_iff] | intro _ | dsimp only | split)

theorem reloadBegin_keeps {s0 s : State} (n : Nat) (h : Keeps s0 s) : Keeps s0 (reloadBegin n s) := by
  unfold reloadBegin
  repeat' (first | with_reducible assumption | with_reducible exact Keeps.refl _ | with_reducible apply wr_keeps | with_reducible apply foldMod_keeps | with_reducible apply foldShow_keeps | with_reducible apply keeps_ite | simp only [keeps_mk_iff] | intro _ | dsimp only | split)

theorem goldNeed_keeps {s0 s : State} (n : Nat) (sec : Nat) (p : Nat) (h : Keeps s0 s) : Keeps s0 (goldNeed n sec p s) := by
  unfold goldNeed
  repeat' (first | with_reducible assumption | with_reducible exact Keeps.refl _ | with_reducible apply goldWrite_keeps | with_reducible apply keeps_ite | intro _ | dsimp only | split)

theorem execFoldReloadDone_keeps {s0 s : State} (n : Nat) (h : Keeps s0 s) : KeepsR s0 (execFoldReloadDone n s) := by
  unfold execFoldReloadDone
  repeat' (first | with_reducible assumption | with_reducible exact Keeps.refl _ | with_reducible apply strand_keeps | with_reducible apply foldErr_keeps | with_reducible apply goldNeed_keeps | with_reducible apply playSection_keeps | with_reducible apply foldRecord_keeps | with_reducible apply foldShow_keeps | with_reducible apply scheduleNext_keeps | with_reducible apply showPlacement_keeps | with_reducible apply foldMod_keeps | with_reducible apply keeps_ite_snd | with_reducible apply keepsR_next | with_reducible apply keeps_ite | with_reducible apply keepsR_ite | simp only [keeps_mk_iff] | with_reducible apply wr_keeps | intro _ | dsimp only | split)

theorem foldDelete_keeps {s0 s : State} (n : Nat) (h : Keeps s0 s) : Keeps s0 (foldDelete n s) := by
  unfold foldDelete
  repeat' (first | with_reducible assumption | with_reducible exact Keeps.refl _ | with_reducible apply wr_keeps | with_reducible apply clearRegs_keeps | with_reducible apply foldAbandon_keeps | with_reducible apply keeps_ite | simp only [keeps_mk_iff] | intro _ | dsimp only | split)

end Sys2Proof.Machine
end

