-- ==== Sys2Proof/Laws/KeepsReset.lean ====
section
/-! SUPPORT. What the operations of Machine/Reset.lean keep (Laws/Keeps.lean). -/

namespace Sys2Proof.Machine

set_option linter.unusedTactic false
set_option linter.unreachableTactic false
set_option linter.unusedSimpArgs false

theorem dropInstance_keeps {s0 s : State} (b : Blk) (i : Nat) (h : Keeps s0 s) : Keeps s0 (dropInstance b i s) := by
  unfold dropInstance
  repeat' (first | with_reducible assumption | with_reducible exact Keeps.refl _ | with_reducible apply keeps_ite | simp only [keeps_mk_iff] | with_reducible apply keeps_mk_regs | with_reducible apply mapWf_set | with_reducible apply mapWf_filter | with_reducible apply mapWf_rebuild | with_reducible apply mapWf_clear | with_reducible apply regsWf_out | intro _ | dsimp only | split)

theorem dropCore_keeps {s0 s : State} (p : Nat) (h : Keeps s0 s) : Keeps s0 (dropCore p s) := by
  unfold dropCore
  repeat' (first | with_reducible assumption | with_reducible exact Keeps.refl _ | with_reducible apply keeps_ite | simp only [keeps_mk_iff] | intro _ | dsimp only | split)

theorem coreResetOp_keeps {s0 s : State} (p : Nat) (h : Keeps s0 s) : Keeps s0 (coreResetOp p s) := by
  unfold coreResetOp
  repeat' (first | with_reducible assumption | with_reducible exact Keeps.refl _ | with_reducible apply wr_keeps | with_reducible apply dropCore_keeps | with_reducible apply dropInstance_keeps | with_reducible apply keeps_foldl | with_reducible apply keeps_foldl_snd | with_reducible apply keeps_foldl_fst | with_reducible apply keeps_ite_snd | with_reducible apply keeps_iter | with_reducible apply keeps_ite | intro _ | dsimp only | split)

theorem setFences_keeps {s0 s : State} (c : Nat) (h : Keeps s0 s) : Keeps s0 (setFences c s) := by
  unfold setFences
  repeat' (first | with_reducible assumption | with_reducible exact Keeps.refl _ | with_reducible apply wr_keeps | with_reducible apply keeps_ite | intro _ | dsimp only | split)

theorem emptyLinks_keeps {s0 s : State} (c : Nat) (h : Keeps s0 s) : Keeps s0 (emptyLinks c s) := by
  unfold emptyLinks
  repeat' (first | with_reducible assumption | with_reducible exact Keeps.refl _ | with_reducible apply keeps_ite | simp only [keeps_mk_iff] | intro _ | dsimp only | split)

end Sys2Proof.Machine
end

