-- ==== Sys2Proof/Laws/KeepsAgeing.lean ====
section
/-! SUPPORT. What the operations of Machine/Ageing.lean keep (Laws/Keeps.lean). -/

namespace Sys2Proof.Machine

set_option linter.unusedTactic false
set_option linter.unreachableTactic false
set_option linter.unusedSimpArgs false

theorem walkerMod_keeps {s0 s : State} (d : Nat) (g : Walker → Walker) (h : Keeps s0 s) : Keeps s0 (walkerMod d g s) := by
  unfold walkerMod
  repeat' (first | with_reducible assumption | with_reducible exact Keeps.refl _ | with_reducible apply keeps_ite | simp only [keeps_mk_iff] | intro _ | dsimp only | split)

theorem mcoreMod_keeps {s0 s : State} (p : Nat) (g : MCore → MCore) (h : Keeps s0 s) : Keeps s0 (mcoreMod p g s) := by
  unfold mcoreMod
  repeat' (first | with_reducible assumption | with_reducible exact Keeps.refl _ | with_reducible apply keeps_ite | simp only [keeps_mk_iff] | intro _ | dsimp only | split)

theorem coreFails_keeps {s0 s : State} (p : Nat) (kind : Nat) (h : Keeps s0 s) : Keeps s0 (coreFails p kind s) := by
  unfold coreFails
  repeat' (first | with_reducible assumption | with_reducible exact Keeps.refl _ | with_reducible apply wr_keeps | with_reducible apply bump_keeps | with_reducible apply pfEvent_keeps | with_reducible apply flockEvent_keeps | with_reducible apply countLife_keeps | with_reducible apply keeps_ite | simp only [keeps_mk_iff] | intro _ | dsimp only | split)

theorem passEnd_keeps {s0 s : State} (d : Nat) (h : Keeps s0 s) : Keeps s0 (passEnd d s) := by
  unfold passEnd
  repeat' (first | with_reducible assumption | with_reducible exact Keeps.refl _ | with_reducible apply wr_keeps | with_reducible apply walkerMod_keeps | with_reducible apply keeps_ite | simp only [keeps_mk_iff] | intro _ | dsimp only | split)

theorem wlkCapture_keeps {s0 s : State} (kind : Nat) (pos : Nat) (p : Nat) (f : Nat) (h : Keeps s0 s) : Keeps s0 (wlkCapture kind pos p f s) := by
  unfold wlkCapture
  repeat' (first | with_reducible assumption | with_reducible exact Keeps.refl _ | with_reducible apply capture_keeps | with_reducible apply keeps_ite | intro _ | dsimp only | split)

theorem recurNote_keeps {s0 s : State} (d : Nat) (p : Nat) (f : Nat) (z : Nat) (h : Keeps s0 s) : Keeps s0 (recurNote d p f z s).2 := by
  unfold recurNote
  repeat' (first | with_reducible assumption | with_reducible exact Keeps.refl _ | with_reducible apply walkerMod_keeps | with_reducible apply keeps_ite | with_reducible apply keeps_ite_snd | simp only [keeps_mk_iff] | intro _ | dsimp only | split)

theorem walkFixed_keeps {s0 s : State} (d : Nat) (p : Nat) (f : Nat) (z : Nat) (h : Keeps s0 s) : Keeps s0 (walkFixed d p f z s) := by
  unfold walkFixed
  repeat' (first | with_reducible assumption | with_reducible exact Keeps.refl _ | with_reducible apply bump_keeps | with_reducible apply countLife_keeps | with_reducible apply wlkCapture_keeps | with_reducible apply recurNote_keeps | with_reducible apply coreFails_keeps | with_reducible apply keeps_ite | intro _ | dsimp only | split)

theorem walkFrame_keeps {s0 s : State} (d : Nat) (p : Nat) (f : Nat) (h : Keeps s0 s) : Keeps s0 (walkFrame d p f s) := by
  unfold walkFrame
  repeat' (first | with_reducible assumption | with_reducible exact Keeps.refl _ | with_reducible apply bump_keeps | with_reducible apply framePut_keeps | with_reducible apply frameFix_keeps | with_reducible apply wlkCapture_keeps | with_reducible apply walkFixed_keeps | with_reducible apply keeps_ite | simp only [keeps_mk_iff] | intro _ | dsimp only | split)

theorem execWalkerFrameRead_keeps {s0 s : State} (d : Nat) (h : Keeps s0 s) : KeepsR s0 (execWalkerFrameRead d s) := by
  unfold execWalkerFrameRead
  repeat' (first | with_reducible assumption | with_reducible exact Keeps.refl _ | with_reducible apply passEnd_keeps | with_reducible apply walkFrame_keeps | with_reducible apply walkerMod_keeps | with_reducible apply keepsR_next | with_reducible apply keeps_ite | with_reducible apply keepsR_ite | simp only [keeps_mk_iff] | intro _ | dsimp only | split)

theorem walkReload_keeps {s0 s : State} (d : Nat) (n : Nat) (p : Nat) (f : Nat) (ok : Bool) (bs : List Nat) (h : Keeps s0 s) : Keeps s0 (walkReload d n p f ok bs s) := by
  unfold walkReload
  repeat' (first | with_reducible assumption | with_reducible exact Keeps.refl _ | with_reducible apply bump_keeps | with_reducible apply flockEvent_keeps | with_reducible apply raiseSource_keeps | with_reducible apply countLife_keeps | with_reducible apply epochFailure_keeps | with_reducible apply faultRecord_keeps | with_reducible apply framePut_keeps | with_reducible apply wlkCapture_keeps | with_reducible apply coreFails_keeps | with_reducible apply keeps_ite | intro _ | dsimp only | split)

theorem execWalkerReload_keeps {s0 s : State} (d : Nat) (ok : Bool) (h : Keeps s0 s) : KeepsR s0 (execWalkerReload d ok s) := by
  unfold execWalkerReload
  repeat' (first | with_reducible assumption | with_reducible exact Keeps.refl _ | with_reducible apply pdkMod_keeps | with_reducible apply meshMod_keeps | with_reducible apply stopWork_keeps | with_reducible apply strandAs_keeps | with_reducible apply walkReload_keeps | with_reducible apply keepsR_next | with_reducible apply keeps_ite | with_reducible apply keepsR_ite | simp only [keeps_mk_iff] | intro _ | dsimp only | split)

theorem walkBusy_keeps {s0 s : State}  (h : Keeps s0 s) : Keeps s0 (walkBusy s) := by
  unfold walkBusy
  repeat' (first | with_reducible assumption | with_reducible exact Keeps.refl _ | with_reducible apply wr_keeps | with_reducible apply keeps_ite | intro _ | dsimp only | split)

theorem walkSlice_keeps {s0 s : State} (d : Nat) (h : Keeps s0 s) : Keeps s0 (walkSlice d s) := by
  unfold walkSlice
  repeat' (first | with_reducible assumption | with_reducible exact Keeps.refl _ | with_reducible apply walkerMod_keeps | with_reducible apply walkBusy_keeps | with_reducible apply keeps_ite | simp only [keeps_mk_iff] | intro _ | dsimp only | split)

theorem execWalkerSliceEnd_keeps {s0 s : State} (d : Nat) (h : Keeps s0 s) : KeepsR s0 (execWalkerSliceEnd d s) := by
  unfold execWalkerSliceEnd
  repeat' (first | with_reducible assumption | with_reducible exact Keeps.refl _ | with_reducible apply walkerMod_keeps | with_reducible apply walkBusy_keeps | with_reducible apply keepsR_next | with_reducible apply keeps_ite | with_reducible apply keepsR_ite | simp only [keeps_mk_iff] | intro _ | dsimp only | split)

theorem musterMark_keeps {s0 s : State} (p : Nat) (on0 : Bool) (h : Keeps s0 s) : Keeps s0 (musterMark p on0 s) := by
  unfold musterMark
  repeat' (first | with_reducible assumption | with_reducible exact Keeps.refl _ | with_reducible apply wr_keeps | with_reducible apply keeps_ite | intro _ | dsimp only | split)

theorem execMusterRound_keeps {s0 s : State} (d : Nat) (h : Keeps s0 s) : KeepsR s0 (execMusterRound d s) := by
  unfold execMusterRound
  repeat' (first | with_reducible assumption | with_reducible exact Keeps.refl _ | with_reducible apply musterMark_keeps | with_reducible apply mcoreMod_keeps | with_reducible apply keeps_foldl | with_reducible apply keeps_foldl_snd | with_reducible apply keeps_foldl_fst | with_reducible apply keepsR_next | with_reducible apply keeps_ite | with_reducible apply keepsR_ite | simp only [keeps_mk_iff] | with_reducible apply keeps_ite_snd | intro _ | dsimp only | split)

theorem mstCapture_keeps {s0 s : State} (result : Nat) (unit : Nat) (p : Nat) (h : Keeps s0 s) : Keeps s0 (mstCapture result unit p s) := by
  unfold mstCapture
  repeat' (first | with_reducible assumption | with_reducible exact Keeps.refl _ | with_reducible apply capture_keeps | with_reducible apply keeps_ite | intro _ | dsimp only | split)

theorem abandonTests_keeps {s0 s : State} (n : Nat) (h : Keeps s0 s) : Keeps s0 (abandonTests n s) := by
  unfold abandonTests
  repeat' (first | with_reducible assumption | with_reducible exact Keeps.refl _ | with_reducible apply musterMark_keeps | with_reducible apply mcoreMod_keeps | with_reducible apply mstCapture_keeps | with_reducible apply keeps_foldl | with_reducible apply keeps_foldl_snd | with_reducible apply keeps_foldl_fst | with_reducible apply keeps_ite_snd | with_reducible apply keeps_ite | simp only [keeps_mk_iff] | intro _ | dsimp only | split)

theorem testDone_keeps {s0 s : State} (p : Nat) (h : Keeps s0 s) : Keeps s0 (testDone p s) := by
  unfold testDone
  repeat' (first | with_reducible assumption | with_reducible exact Keeps.refl _ | with_reducible apply musterMark_keeps | with_reducible apply mcoreMod_keeps | with_reducible apply keeps_ite | simp only [keeps_mk_iff] | intro _ | dsimp only | split)

theorem testFails_keeps {s0 s : State} (p : Nat) (unit : Nat) (h : Keeps s0 s) : Keeps s0 (testFails p unit s) := by
  unfold testFails
  repeat' (first | with_reducible assumption | with_reducible exact Keeps.refl _ | with_reducible apply wr_keeps | with_reducible apply testDone_keeps | with_reducible apply mstCapture_keeps | with_reducible apply coreFails_keeps | with_reducible apply keeps_ite | intro _ | dsimp only | split)

theorem dieWindow_keeps {s0 s : State} (d : Nat) (h : Keeps s0 s) : Keeps s0 (dieWindow d s) := by
  unfold dieWindow
  repeat' (first | with_reducible assumption | with_reducible exact Keeps.refl _ | with_reducible apply schedule_keeps | with_reducible apply keeps_ite | intro _ | dsimp only | split)

theorem windowDeclare_keeps {s0 s : State} (n : Nat) (h : Keeps s0 s) : Keeps s0 (windowDeclare n s) := by
  unfold windowDeclare
  repeat' (first | with_reducible assumption | with_reducible exact Keeps.refl _ | with_reducible apply dieWindow_keeps | with_reducible apply schedule_keeps | with_reducible apply pdkMod_keeps | with_reducible apply keeps_foldl | with_reducible apply keeps_foldl_snd | with_reducible apply keeps_foldl_fst | with_reducible apply keeps_ite | simp only [keeps_mk_iff] | with_reducible apply keeps_ite_snd | intro _ | dsimp only | split)

theorem windowBegins_keeps {s0 s : State} (d : Nat) (h : Keeps s0 s) : Keeps s0 (windowBegins d s) := by
  unfold windowBegins
  repeat' (first | with_reducible assumption | with_reducible exact Keeps.refl _ | with_reducible apply pdkMod_keeps | with_reducible apply keeps_foldl | with_reducible apply keeps_foldl_snd | with_reducible apply keeps_foldl_fst | with_reducible apply keeps_ite | simp only [keeps_mk_iff] | intro _ | dsimp only | split)

theorem windowEnds_keeps {s0 s : State} (d : Nat) (h : Keeps s0 s) : Keeps s0 (windowEnds d s) := by
  unfold windowEnds
  repeat' (first | with_reducible assumption | with_reducible exact Keeps.refl _ | with_reducible apply pdkMod_keeps | with_reducible apply keeps_foldl | with_reducible apply keeps_foldl_snd | with_reducible apply keeps_foldl_fst | with_reducible apply keeps_ite | simp only [keeps_mk_iff] | intro _ | dsimp only | split)

theorem sliceStart_keeps {s0 s : State} (kind : Nat) (b : Nat) (h : Keeps s0 s) : Keeps s0 (sliceStart kind b s) := by
  unfold sliceStart
  repeat' (first | with_reducible assumption | with_reducible exact Keeps.refl _ | with_reducible apply keeps_ite | simp only [keeps_mk_iff] | intro _ | dsimp only | split)

theorem blockTick_keeps {s0 s : State} (b : Nat) (h : Keeps s0 s) : Keeps s0 (blockTick b s) := by
  unfold blockTick
  repeat' (first | with_reducible assumption | with_reducible exact Keeps.refl _ | with_reducible apply wr_keeps | with_reducible apply bump_keeps | with_reducible apply sliceStart_keeps | with_reducible apply keeps_ite | simp only [keeps_mk_iff] | intro _ | dsimp only | split)

theorem blockFails_keeps {s0 s : State} (b : Nat) (k : Nat) (h : Keeps s0 s) : Keeps s0 (blockFails b k s) := by
  unfold blockFails
  repeat' (first | with_reducible assumption | with_reducible exact Keeps.refl _ | with_reducible apply wr_keeps | with_reducible apply pfEvent_keeps | with_reducible apply flockEvent_keeps | with_reducible apply keeps_ite | intro _ | dsimp only | split)

theorem execMusterSliceEnd_keeps {s0 s : State} (b : Nat) (ok : Bool) (h : Keeps s0 s) : KeepsR s0 (execMusterSliceEnd b ok s) := by
  unfold execMusterSliceEnd
  repeat' (first | with_reducible assumption | with_reducible exact Keeps.refl _ | with_reducible apply wr_keeps | with_reducible apply blockFails_keeps | with_reducible apply sliceStart_keeps | with_reducible apply keepsR_next | with_reducible apply keeps_ite | with_reducible apply keepsR_ite | intro _ | dsimp only | split)

theorem execMusterSliceYield_keeps {s0 s : State} (b : Nat) (h : Keeps s0 s) : KeepsR s0 (execMusterSliceYield b s) := by
  unfold execMusterSliceYield
  repeat' (first | with_reducible assumption | with_reducible exact Keeps.refl _ | with_reducible apply bump_keeps | with_reducible apply sliceStart_keeps | with_reducible apply keepsR_next | with_reducible apply keeps_ite | with_reducible apply keepsR_ite | intro _ | dsimp only | split)

theorem execMusterStarved_keeps {s0 s : State} (b : Nat) (h : Keeps s0 s) : KeepsR s0 (execMusterStarved b s) := by
  unfold execMusterStarved
  repeat' (first | with_reducible assumption | with_reducible exact Keeps.refl _ | with_reducible apply wr_keeps | with_reducible apply scheduleNext_keeps | with_reducible apply pfEvent_keeps | with_reducible apply keepsR_next | with_reducible apply keeps_ite | with_reducible apply keepsR_ite | intro _ | dsimp only | split)

theorem forcedSlices_keeps {s0 s : State} (d : Nat) (h : Keeps s0 s) : Keeps s0 (forcedSlices d s) := by
  unfold forcedSlices
  repeat' (first | with_reducible assumption | with_reducible exact Keeps.refl _ | with_reducible apply sliceStart_keeps | with_reducible apply keeps_foldl | with_reducible apply keeps_foldl_snd | with_reducible apply keeps_foldl_fst | with_reducible apply keeps_ite_snd | with_reducible apply keeps_ite | intro _ | dsimp only | split)

theorem cullPlot_keeps {s0 s : State} (c : Nat) (h : Keeps s0 s) : Keeps s0 (cullPlot c s) := by
  unfold cullPlot
  repeat' (first | with_reducible assumption | with_reducible exact Keeps.refl _ | with_reducible apply wr_keeps | with_reducible apply keeps_ite | intro _ | dsimp only | split)

theorem cullRecord_keeps {s0 s : State} (c : Nat) (v : Nat) (p : Nat) (kind : Nat) (h : Keeps s0 s) : Keeps s0 (cullRecord c v p kind s) := by
  unfold cullRecord
  repeat' (first | with_reducible assumption | with_reducible exact Keeps.refl _ | with_reducible apply wr_keeps | with_reducible apply flockEvent_keeps | with_reducible apply countLife_keeps | with_reducible apply keeps_ite | intro _ | dsimp only | split)

theorem setShift_keeps {s0 s : State} (c : Nat) (f : Nat) (h : Keeps s0 s) : Keeps s0 (setShift c f s) := by
  unfold setShift
  repeat' (first | with_reducible assumption | with_reducible exact Keeps.refl _ | with_reducible apply wr_keeps | with_reducible apply keeps_ite | intro _ | dsimp only | split)

theorem moveRefs_keeps {s0 s : State} (r : Nat → Nat) (h : Keeps s0 s) : Keeps s0 (moveRefs r s) := by
  unfold moveRefs
  repeat' (first | with_reducible assumption | with_reducible exact Keeps.refl _ | with_reducible apply keeps_ite_snd | with_reducible apply keeps_ite | simp only [keeps_mk_iff] | intro _ | dsimp only | split)

theorem moveCores_keeps {s0 s : State} (base : Nat) (f : Nat) (mv : Nat → Bool) (h : Keeps s0 s) : Keeps s0 (moveCores base f mv s) := by
  unfold moveCores
  repeat' (first | with_reducible assumption | with_reducible exact Keeps.refl _ | with_reducible apply moveRefs_keeps | with_reducible apply keeps_ite | simp only [keeps_mk_iff] | with_reducible apply keeps_mk_regs | with_reducible apply mapWf_set | with_reducible apply mapWf_filter | with_reducible apply mapWf_rebuild | with_reducible apply mapWf_clear | with_reducible apply regsWf_out | intro _ | dsimp only | split)

theorem shiftColumn_keeps {s0 s : State} (c : Nat) (f : Nat) (rep : Nat) (h : Keeps s0 s) : Keeps s0 (shiftColumn c f rep s) := by
  unfold shiftColumn
  repeat' (first | with_reducible assumption | with_reducible exact Keeps.refl _ | with_reducible apply addSat_keeps | with_reducible apply setFences_keeps | with_reducible apply coreResetOp_keeps | with_reducible apply moveCores_keeps | with_reducible apply setShift_keeps | with_reducible apply keeps_foldl | with_reducible apply keeps_foldl_snd | with_reducible apply keeps_foldl_fst | with_reducible apply keeps_ite_snd | with_reducible apply keeps_ite | intro _ | dsimp only | split)

theorem repairPut_keeps {s0 s : State} (k : Nat) (r : Repair) (h : Keeps s0 s) : Keeps s0 (repairPut k r s) := by
  unfold repairPut
  repeat' (first | with_reducible assumption | with_reducible exact Keeps.refl _ | with_reducible apply keeps_ite | simp only [keeps_mk_iff] | intro _ | dsimp only | split)

theorem repairJudge_keeps {s0 s : State} (k : Nat) (r : Repair) (h : Keeps s0 s) : Keeps s0 (repairJudge k r s) := by
  unfold repairJudge
  repeat' (first | with_reducible assumption | with_reducible exact Keeps.refl _ | with_reducible apply wr_keeps | with_reducible apply setShift_keeps | with_reducible apply cullRecord_keeps | with_reducible apply repairPut_keeps | with_reducible apply cullPlot_keeps | with_reducible apply keeps_ite | simp only [keeps_mk_iff] | intro _ | dsimp only | split)

theorem repairShift_keeps {s0 s : State} (k : Nat) (r : Repair) (h : Keeps s0 s) : Keeps s0 (repairShift k r s) := by
  unfold repairShift
  repeat' (first | with_reducible assumption | with_reducible exact Keeps.refl _ | with_reducible apply wr_keeps | with_reducible apply repairPut_keeps | with_reducible apply foldMod_keeps | with_reducible apply keeps_ite | simp only [keeps_mk_iff] | intro _ | dsimp only | split)

theorem repairStep_keeps {s0 s : State}  (h : Keeps s0 s) : Keeps s0 (repairStep s) := by
  unfold repairStep
  repeat' (first | with_reducible assumption | with_reducible exact Keeps.refl _ | with_reducible apply repairShift_keeps | with_reducible apply repairJudge_keeps | with_reducible apply keeps_ite | intro _ | dsimp only | split)

theorem repairAdvance_keeps {s0 s : State}  (h : Keeps s0 s) : Keeps s0 (repairAdvance s) := by
  unfold repairAdvance
  repeat' (first | with_reducible assumption | with_reducible exact Keeps.refl _ | with_reducible apply repairStep_keeps | with_reducible apply keeps_iter | with_reducible apply keeps_ite | intro _ | dsimp only | split)

theorem repairP2_keeps {s0 s : State}  (h : Keeps s0 s) : Keeps s0 (repairP2 s) := by
  unfold repairP2
  repeat' (first | with_reducible assumption | with_reducible exact Keeps.refl _ | with_reducible apply regatherStart_keeps | with_reducible apply repairPut_keeps | with_reducible apply repairAdvance_keeps | with_reducible apply step_keeps | with_reducible apply keeps_foldl | with_reducible apply keeps_foldl_snd | with_reducible apply keeps_foldl_fst | with_reducible apply keeps_ite_snd | with_reducible apply keeps_ite | simp only [keeps_mk_iff] | intro _ | dsimp only | split)

theorem repairCleared_keeps {s0 s : State} (n : Nat) (h : Keeps s0 s) : Keeps s0 (repairCleared n s) := by
  unfold repairCleared
  repeat' (first | with_reducible assumption | with_reducible exact Keeps.refl _ | with_reducible apply repairAdvance_keeps | with_reducible apply keeps_ite | simp only [keeps_mk_iff] | intro _ | dsimp only | split)

theorem cullSaved_keeps {s0 s : State} (c : Nat) (h : Keeps s0 s) : Keeps s0 (cullSaved c s) := by
  unfold cullSaved
  repeat' (first | with_reducible assumption | with_reducible exact Keeps.refl _ | with_reducible apply repairAdvance_keeps | with_reducible apply keeps_ite | simp only [keeps_mk_iff] | intro _ | dsimp only | split)

theorem columnPauseEnd_keeps {s0 s : State} (h : Keeps s0 s) : Keeps s0 (columnPauseEnd s) := by
  unfold columnPauseEnd
  repeat' (first | with_reducible assumption | with_reducible exact Keeps.refl _ | with_reducible apply repairAdvance_keeps | with_reducible apply wr_keeps | with_reducible apply shiftColumn_keeps | with_reducible apply keeps_ite_snd | with_reducible apply keeps_ite | with_reducible apply keeps_ite_st | simp only [keeps_mk_iff] | intro _ | dsimp only | split)

end Sys2Proof.Machine
end

