-- ==== Sys2Proof/Laws/KeepsHostRing.lean ====
section
/-! SUPPORT. What the operations of Machine/HostRing.lean keep (Laws/Keeps.lean). -/

namespace Sys2Proof.Machine

set_option linter.unusedTactic false
set_option linter.unreachableTactic false
set_option linter.unusedSimpArgs false

theorem hringMod_keeps {s0 s : State} (f : Nat) (k : Nat) (g : HRing → HRing) (h : Keeps s0 s) : Keeps s0 (hringMod f k g s) := by
  unfold hringMod
  repeat' (first | with_reducible assumption | with_reducible exact Keeps.refl _ | with_reducible apply keeps_ite | simp only [keeps_mk_iff] | intro _ | dsimp only | split)

theorem hostWr_keeps {s0 s : State} (f : Nat) (addr : Nat) (bs : List Nat) (h : Keeps s0 s) : Keeps s0 (hostWr f addr bs s) := by
  unfold hostWr
  repeat' (first | with_reducible assumption | with_reducible exact Keeps.refl _ | with_reducible apply emit_keeps | with_reducible apply keeps_ite | intro _ | dsimp only | split)

theorem entGone_keeps {s0 s : State} (h' : HEnt) (h : Keeps s0 s) : Keeps s0 (entGone h' s) := by
  unfold entGone
  repeat' (first | with_reducible assumption | with_reducible exact Keeps.refl _ | with_reducible apply bufferBack_keeps | with_reducible apply keeps_ite | simp only [keeps_mk_iff] | intro _ | dsimp only | split)

theorem ringShow_keeps {s0 s : State} (f : Nat) (k : Nat) (h : Keeps s0 s) : Keeps s0 (ringShow f k s) := by
  unfold ringShow
  repeat' (first | with_reducible assumption | with_reducible exact Keeps.refl _ | with_reducible apply wr_keeps | with_reducible apply keeps_ite | intro _ | dsimp only | split)

theorem entMod_keeps {s0 s : State} (h' : HEnt) (g : HEnt → HEnt) (h : Keeps s0 s) : Keeps s0 (entMod h' g s) := by
  unfold entMod
  repeat' (first | with_reducible assumption | with_reducible exact Keeps.refl _ | with_reducible apply ringShow_keeps | with_reducible apply keeps_ite | simp only [keeps_mk_iff] | intro _ | dsimp only | split)

theorem ringConfigure_keeps {s0 s : State} (f : Nat) (kind : Nat) (k : Nat) (data : Nat) (h : Keeps s0 s) : Keeps s0 (ringConfigure f kind k data s) := by
  unfold ringConfigure
  repeat' (first | with_reducible assumption | with_reducible exact Keeps.refl _ | with_reducible apply fnMod_keeps | with_reducible apply wr_keeps | with_reducible apply wrW_keeps | with_reducible apply entGone_keeps | with_reducible apply hringMod_keeps | with_reducible apply keeps_foldl | with_reducible apply keeps_foldl_snd | with_reducible apply keeps_foldl_fst | with_reducible apply keeps_ite_snd | with_reducible apply keeps_ite | simp only [keeps_mk_iff] | intro _ | dsimp only | split)

theorem execRingConfigure_keeps {s0 s : State} (f : Nat) (kind : Nat) (k : Nat) (data : Word) (h : Keeps s0 s) : KeepsR s0 (execRingConfigure f kind k data s) := by
  unfold execRingConfigure
  repeat' (first | with_reducible assumption | with_reducible exact Keeps.refl _ | with_reducible apply ringConfigure_keeps | with_reducible apply keepsR_next | with_reducible apply keeps_ite | with_reducible apply keepsR_ite | intro _ | dsimp only | split)

theorem dbError_keeps {s0 s : State} (f : Nat) (h : Keeps s0 s) : Keeps s0 (dbError f s) := by
  unfold dbError
  repeat' (first | with_reducible assumption | with_reducible exact Keeps.refl _ | with_reducible apply wr_keeps | with_reducible apply keeps_ite | intro _ | dsimp only | split)

theorem sqDoorbell_keeps {s0 s : State} (f : Nat) (k : Nat) (t : Nat) (h : Keeps s0 s) : Keeps s0 (sqDoorbell f k t s) := by
  unfold sqDoorbell
  repeat' (first | with_reducible assumption | with_reducible exact Keeps.refl _ | with_reducible apply dbError_keeps | with_reducible apply hringMod_keeps | with_reducible apply keeps_ite | simp only [keeps_mk_iff] | intro _ | dsimp only | split)

theorem execSubmissionDoorbell_keeps {s0 s : State} (f : Nat) (k : Nat) (t : Nat) (h : Keeps s0 s) : KeepsR s0 (execSubmissionDoorbell f k t s) := by
  unfold execSubmissionDoorbell
  repeat' (first | with_reducible assumption | with_reducible exact Keeps.refl _ | with_reducible apply sqDoorbell_keeps | with_reducible apply keepsR_next | with_reducible apply keeps_ite | with_reducible apply keepsR_ite | intro _ | dsimp only | split)

theorem headDoorbell_keeps {s0 s : State} (f : Nat) (kind : Nat) (k : Nat) (h' : Nat) (h : Keeps s0 s) : Keeps s0 (headDoorbell f kind k h' s) := by
  unfold headDoorbell
  repeat' (first | with_reducible assumption | with_reducible exact Keeps.refl _ | with_reducible apply fnMod_keeps | with_reducible apply dbError_keeps | with_reducible apply hringMod_keeps | with_reducible apply keeps_ite | simp only [keeps_mk_iff] | intro _ | dsimp only | split)

theorem execHeadDoorbell_keeps {s0 s : State} (f : Nat) (kind : Nat) (k : Nat) (h' : Nat) (h : Keeps s0 s) : KeepsR s0 (execHeadDoorbell f kind k h' s) := by
  unfold execHeadDoorbell
  repeat' (first | with_reducible assumption | with_reducible exact Keeps.refl _ | with_reducible apply headDoorbell_keeps | with_reducible apply keepsR_next | with_reducible apply keeps_ite | with_reducible apply keepsR_ite | intro _ | dsimp only | split)

theorem fetchInto_keeps {s0 s : State} (f : Nat) (k : Nat) (buf : List Nat) (ws : List Nat) (h : Keeps s0 s) : Keeps s0 (fetchInto f k buf ws s) := by
  unfold fetchInto
  repeat' (first | with_reducible assumption | with_reducible exact Keeps.refl _ | with_reducible apply wr_keeps | with_reducible apply emit_keeps | with_reducible apply memWrite_keeps | with_reducible apply keeps_ite | simp only [keeps_mk_iff] | intro _ | dsimp only | split)

theorem fetchEntry_keeps {s0 s : State} (f : Nat) (k : Nat) (ws : List Nat) (h : Keeps s0 s) : Keeps s0 (fetchEntry f k ws s) := by
  unfold fetchEntry
  repeat' (first | with_reducible assumption | with_reducible exact Keeps.refl _ | with_reducible apply fetchInto_keeps | with_reducible apply byreGetBy_keeps | with_reducible apply wr_keeps | with_reducible apply keeps_ite_snd | with_reducible apply keeps_ite | with_reducible apply keeps_ite_st | simp only [keeps_mk_iff] | with_reducible apply byreGet_keeps | intro _ | dsimp only | split)

theorem execSubmissionFetch_keeps {s0 s : State} (f : Nat) (k : Nat) (ws : List Nat) (h : Keeps s0 s) : KeepsR s0 (execSubmissionFetch f k ws s) := by
  unfold execSubmissionFetch
  repeat' (first | with_reducible assumption | with_reducible exact Keeps.refl _ | with_reducible apply fetchEntry_keeps | with_reducible apply keepsR_next | with_reducible apply keeps_ite | with_reducible apply keepsR_ite | intro _ | dsimp only | split)

theorem execStageGetRetry_keeps {s0 s : State} (f : Nat) (k : Nat) (ws : List Nat) (h : Keeps s0 s) : KeepsR s0 (execStageGetRetry f k ws s) := by
  unfold execStageGetRetry
  repeat' (first | with_reducible assumption | with_reducible exact Keeps.refl _ | with_reducible apply wr_keeps | with_reducible apply fetchEntry_keeps | with_reducible apply bump_keeps | with_reducible apply keepsR_next | with_reducible apply keeps_ite | with_reducible apply keepsR_ite | intro _ | dsimp only | split)

theorem hostStart_keeps {s0 s : State} (op : Nat) (f : Nat) (k : Nat) (run : HEnt → State → State) (hrun : ∀ y0 u, Keeps s0 u → Keeps s0 (run y0 u)) (h : Keeps s0 s) : KeepsR s0 (hostStart op f k run s) := by
  unfold hostStart
  repeat' (first | with_reducible assumption | with_reducible exact Keeps.refl _ | apply hrun | with_reducible apply keepsR_next | with_reducible apply keeps_ite | with_reducible apply keepsR_ite | intro _ | dsimp only | split)

theorem entDone_keeps {s0 s : State} (h' : HEnt) (status : Nat) (res : Nat) (h : Keeps s0 s) : Keeps s0 (entDone h' status res s) := by
  unfold entDone
  repeat' (first | with_reducible assumption | with_reducible exact Keeps.refl _ | with_reducible apply entMod_keeps | with_reducible apply keeps_ite | simp only [keeps_mk_iff] | intro _ | dsimp only | split)

theorem execNop_keeps {s0 s : State} (f : Nat) (k : Nat) (h : Keeps s0 s) : KeepsR s0 (execNop f k s) := by
  unfold execNop
  repeat' (first | with_reducible assumption | with_reducible exact Keeps.refl _ | with_reducible apply hostStart_keeps | with_reducible apply entDone_keeps | with_reducible apply keepsR_next | with_reducible apply keeps_ite | with_reducible apply keepsR_ite | intro _ | dsimp only | split)

theorem execSqFence_keeps {s0 s : State} (f : Nat) (k : Nat) (h : Keeps s0 s) : KeepsR s0 (execSqFence f k s) := by
  unfold execSqFence
  repeat' (first | with_reducible assumption | with_reducible exact Keeps.refl _ | with_reducible apply hostStart_keeps | with_reducible apply entDone_keeps | with_reducible apply keepsR_next | with_reducible apply keeps_ite | with_reducible apply keepsR_ite | intro _ | dsimp only | split)

theorem hostTally_keeps {s0 s : State} (op : Nat) (h' : HEnt) (v : Nat) (cond : Nat) (h : Keeps s0 s) : Keeps s0 (hostTally op h' v cond s) := by
  unfold hostTally
  repeat' (first | with_reducible assumption | with_reducible exact Keeps.refl _ | with_reducible apply entMod_keeps | with_reducible apply tlyPush_keeps | with_reducible apply keeps_ite | simp only [keeps_mk_iff] | intro _ | dsimp only | split)

theorem execTadd_keeps {s0 s : State} (f : Nat) (k : Nat) (h : Keeps s0 s) : KeepsR s0 (execTadd f k s) := by
  unfold execTadd
  repeat' (first | with_reducible assumption | with_reducible exact Keeps.refl _ | with_reducible apply hostStart_keeps | with_reducible apply hostTally_keeps | with_reducible apply keepsR_next | with_reducible apply keeps_ite | with_reducible apply keepsR_ite | intro _ | dsimp only | split)

theorem execTwait_keeps {s0 s : State} (f : Nat) (k : Nat) (h : Keeps s0 s) : KeepsR s0 (execTwait f k s) := by
  unfold execTwait
  repeat' (first | with_reducible assumption | with_reducible exact Keeps.refl _ | with_reducible apply hostStart_keeps | with_reducible apply hostTally_keeps | with_reducible apply keepsR_next | with_reducible apply keeps_ite | with_reducible apply keepsR_ite | intro _ | dsimp only | split)

theorem execRearm_keeps {s0 s : State} (f : Nat) (k : Nat) (h : Keeps s0 s) : KeepsR s0 (execRearm f k s) := by
  unfold execRearm
  repeat' (first | with_reducible assumption | with_reducible exact Keeps.refl _ | with_reducible apply rearmRequest_keeps | with_reducible apply drvBits_keeps | with_reducible apply hostStart_keeps | with_reducible apply entDone_keeps | with_reducible apply keepsR_next | with_reducible apply keeps_ite | with_reducible apply keepsR_ite | intro _ | dsimp only | split)

theorem streamSet_keeps {s0 s : State} (g : Nat) (h' : HEnt) (h : Keeps s0 s) : Keeps s0 (streamSet g h' s) := by
  unfold streamSet
  repeat' (first | with_reducible assumption | with_reducible exact Keeps.refl _ | with_reducible apply cwr_keeps | with_reducible apply keeps_ite | intro _ | dsimp only | split)

theorem execStream_keeps {s0 s : State} (f : Nat) (k : Nat) (h : Keeps s0 s) : KeepsR s0 (execStream f k s) := by
  unfold execStream
  repeat' (first | with_reducible assumption | with_reducible exact Keeps.refl _ | with_reducible apply armCtx_keeps | with_reducible apply hostStart_keeps | with_reducible apply entMod_keeps | with_reducible apply streamSet_keeps | with_reducible apply entDone_keeps | with_reducible apply keepsR_next | with_reducible apply keeps_ite | with_reducible apply keepsR_ite | simp only [keeps_mk_iff] | intro _ | dsimp only | split)

theorem execFold_keeps {s0 s : State} (f : Nat) (k : Nat) (h : Keeps s0 s) : KeepsR s0 (execFold f k s) := by
  unfold execFold
  repeat' (first | with_reducible assumption | with_reducible exact Keeps.refl _ | with_reducible apply foldAsk_keeps | with_reducible apply hostStart_keeps | with_reducible apply entMod_keeps | with_reducible apply entDone_keeps | with_reducible apply keepsR_next | with_reducible apply keeps_ite | with_reducible apply keepsR_ite | simp only [keeps_mk_iff] | intro _ | dsimp only | split)

theorem postCompletion_keeps {s0 s : State} (f : Nat) (k : Nat) (tag : Nat) (status : Nat) (op : Nat) (res : Nat) (epoch : Nat) (eidx : Nat) (h : Keeps s0 s) : Keeps s0 (postCompletion f k tag status op res epoch eidx s) := by
  unfold postCompletion
  repeat' (first | with_reducible assumption | with_reducible exact Keeps.refl _ | with_reducible apply wr_keeps | with_reducible apply raiseSource_keeps | with_reducible apply sendMsix_keeps | with_reducible apply hostWr_keeps | with_reducible apply hringMod_keeps | with_reducible apply keeps_ite | simp only [keeps_mk_iff] | intro _ | dsimp only | split)

theorem cqWaits_keeps {s0 s : State} (f : Nat) (k : Nat) (t : Nat) (h : Keeps s0 s) : Keeps s0 (cqWaits f k t s) := by
  unfold cqWaits
  repeat' (first | with_reducible assumption | with_reducible exact Keeps.refl _ | with_reducible apply wr_keeps | with_reducible apply addSat_keeps | with_reducible apply hringMod_keeps | with_reducible apply keeps_ite | simp only [keeps_mk_iff] | intro _ | dsimp only | split)

theorem execCompletionPost_keeps {s0 s : State} (f : Nat) (k : Nat) (t : Nat) (h : Keeps s0 s) : KeepsR s0 (execCompletionPost f k t s) := by
  unfold execCompletionPost
  repeat' (first | with_reducible assumption | with_reducible exact Keeps.refl _ | with_reducible apply atTime_keeps | with_reducible apply holdOut_keeps | with_reducible apply holdStuck_keeps | with_reducible apply entGone_keeps | with_reducible apply entMod_keeps | with_reducible apply postCompletion_keeps | with_reducible apply cqWaits_keeps | with_reducible apply ringShow_keeps | with_reducible apply keepsR_next | with_reducible apply keeps_ite | with_reducible apply keepsR_ite | simp only [keeps_mk_iff] | intro _ | dsimp only | split)

theorem postFault_keeps {s0 s : State} (f : Nat) (r : List Nat) (h : Keeps s0 s) : Keeps s0 (postFault f r s) := by
  unfold postFault
  repeat' (first | with_reducible assumption | with_reducible exact Keeps.refl _ | with_reducible apply fnMod_keeps | with_reducible apply wr_keeps | with_reducible apply raiseSource_keeps | with_reducible apply sendMsix_keeps | with_reducible apply hostWr_keeps | with_reducible apply keeps_ite | simp only [keeps_mk_iff] | intro _ | dsimp only | split)

theorem execFaultRecordPost_keeps {s0 s : State} (f : Nat) (h : Keeps s0 s) : KeepsR s0 (execFaultRecordPost f s) := by
  unfold execFaultRecordPost
  repeat' (first | with_reducible assumption | with_reducible exact Keeps.refl _ | with_reducible apply setHeldCount_keeps | with_reducible apply stageHeld_keeps | with_reducible apply bufferBack_keeps | with_reducible apply postFault_keeps | with_reducible apply fnMod_keeps | with_reducible apply keepsR_next | with_reducible apply keeps_ite | with_reducible apply keepsR_ite | with_reducible apply keeps_ite_st | simp only [keeps_mk_iff] | intro _ | dsimp only | split)

theorem postEvent_keeps {s0 s : State} (r : List Nat) (h : Keeps s0 s) : Keeps s0 (postEvent r s) := by
  unfold postEvent
  repeat' (first | with_reducible assumption | with_reducible exact Keeps.refl _ | with_reducible apply fnMod_keeps | with_reducible apply wr_keeps | with_reducible apply sendMsix_keeps | with_reducible apply hostWr_keeps | with_reducible apply keeps_ite | simp only [keeps_mk_iff] | intro _ | dsimp only | split)

theorem execEventRecordPost_keeps {s0 s : State}  (h : Keeps s0 s) : KeepsR s0 (execEventRecordPost s) := by
  unfold execEventRecordPost
  repeat' (first | with_reducible assumption | with_reducible exact Keeps.refl _ | with_reducible apply setHeldCount_keeps | with_reducible apply postEvent_keeps | with_reducible apply keepsR_next | with_reducible apply keeps_ite | with_reducible apply keepsR_ite | simp only [keeps_mk_iff] | intro _ | dsimp only | split)

end Sys2Proof.Machine
end

