-- ==== Sys2Proof/Laws/KeepsLongtrack.lean ====
section
/-! SUPPORT. What the operations of Machine/Longtrack.lean keep (Laws/Keeps.lean). -/

namespace Sys2Proof.Machine

set_option linter.unusedTactic false
set_option linter.unreachableTactic false
set_option linter.unusedSimpArgs false

theorem lpathMod_keeps {s0 s : State} (j : Nat) (g : LPath → LPath) (h : Keeps s0 s) : Keeps s0 (lpathMod j g s) := by
  unfold lpathMod
  repeat' (first | with_reducible assumption | with_reducible exact Keeps.refl _ | with_reducible apply keeps_ite | simp only [keeps_mk_iff] | intro _ | dsimp only | split)

theorem lrouteMod_keeps {s0 s : State} (r : Nat) (g : LRoute → LRoute) (h : Keeps s0 s) : Keeps s0 (lrouteMod r g s) := by
  unfold lrouteMod
  repeat' (first | with_reducible assumption | with_reducible exact Keeps.refl _ | with_reducible apply keeps_ite | simp only [keeps_mk_iff] | intro _ | dsimp only | split)

theorem pktAcked_keeps {s0 s : State} (k : LPkt) (h : Keeps s0 s) : Keeps s0 (pktAcked k s) := by
  unfold pktAcked
  repeat' (first | with_reducible assumption | with_reducible exact Keeps.refl _ | with_reducible apply qMod_keeps | with_reducible apply whsAcked_keeps | with_reducible apply keeps_ite | simp only [keeps_mk_iff] | intro _ | dsimp only | split)

theorem farFail_keeps {s0 s : State} (g : Nat) (o : Nat) (status : Nat) (h : Keeps s0 s) : Keeps s0 (farFail g o status s) := by
  unfold farFail
  repeat' (first | with_reducible assumption | with_reducible exact Keeps.refl _ | with_reducible apply ctxShow_keeps | with_reducible apply streamFault_keeps | with_reducible apply haltCtx_keeps | with_reducible apply keeps_ite | with_reducible apply keeps_ite_st | simp only [keeps_mk_iff] | intro _ | dsimp only | split)

theorem pktRefused_keeps {s0 s : State} (k : LPkt) (status : Nat) (h : Keeps s0 s) : Keeps s0 (pktRefused k status s) := by
  unfold pktRefused
  repeat' (first | with_reducible assumption | with_reducible exact Keeps.refl _ | with_reducible apply xFault_keeps | with_reducible apply qMod_keeps | with_reducible apply farFail_keeps | with_reducible apply whsRefused_keeps | with_reducible apply openAnswered_keeps | with_reducible apply keeps_ite | simp only [keeps_mk_iff] | intro _ | dsimp only | split)

theorem pktDead_keeps {s0 s : State} (k : LPkt) (h : Keeps s0 s) : Keeps s0 (pktDead k s) := by
  unfold pktDead
  repeat' (first | with_reducible assumption | with_reducible exact Keeps.refl _ | with_reducible apply qMod_keeps | with_reducible apply xFault_keeps | with_reducible apply sendsPut_keeps | with_reducible apply whsRecord_keeps | with_reducible apply farFail_keeps | with_reducible apply keeps_ite | simp only [keeps_mk_iff] | intro _ | dsimp only | split)

theorem routeFails_keeps {s0 s : State} (r : Nat) (keep : Bool) (h : Keeps s0 s) : Keeps s0 (routeFails r keep s) := by
  unfold routeFails
  repeat' (first | with_reducible assumption | with_reducible exact Keeps.refl _ | with_reducible apply routeShow_keeps | with_reducible apply pktDead_keeps | with_reducible apply keeps_foldl | with_reducible apply keeps_foldl_snd | with_reducible apply keeps_foldl_fst | with_reducible apply keeps_ite | simp only [keeps_mk_iff] | with_reducible apply keeps_ite_snd | intro _ | dsimp only | split)

theorem routeWake_keeps {s0 s : State} (r : Nat) (h : Keeps s0 s) : Keeps s0 (routeWake r s) := by
  unfold routeWake
  repeat' (first | with_reducible assumption | with_reducible exact Keeps.refl _ | with_reducible apply routePump_keeps | with_reducible apply keeps_ite_snd | with_reducible apply keeps_ite | with_reducible apply keeps_ite_st | simp only [keeps_mk_iff] | intro _ | dsimp only | split)

theorem routeEvent_keeps {s0 s : State} (r : Nat) (dead : Nat) (h : Keeps s0 s) : Keeps s0 (routeEvent r dead s) := by
  unfold routeEvent
  repeat' (first | with_reducible assumption | with_reducible exact Keeps.refl _ | with_reducible apply wr_keeps | with_reducible apply pfEvent_keeps | with_reducible apply rtSet_keeps | with_reducible apply keeps_ite | intro _ | dsimp only | split)

theorem routeDies_keeps {s0 s : State} (r : Nat) (timed : Bool) (h : Keeps s0 s) : Keeps s0 (routeDies r timed s) := by
  unfold routeDies
  repeat' (first | with_reducible assumption | with_reducible exact Keeps.refl _ | with_reducible apply pdkMod_keeps | with_reducible apply routeFails_keeps | with_reducible apply routeEvent_keeps | with_reducible apply lrouteMod_keeps | with_reducible apply keeps_foldl | with_reducible apply keeps_foldl_snd | with_reducible apply keeps_foldl_fst | with_reducible apply keeps_ite_snd | with_reducible apply keeps_ite | simp only [keeps_mk_iff] | intro _ | dsimp only | split)

theorem resendOn_keeps {s0 s : State} (k : LPkt) (j : Nat) (h : Keeps s0 s) : Keeps s0 (resendOn k j s) := by
  unfold resendOn
  repeat' (first | with_reducible assumption | with_reducible exact Keeps.refl _ | with_reducible apply bump_keeps | with_reducible apply sendData_keeps | with_reducible apply keeps_ite | simp only [keeps_mk_iff] | intro _ | dsimp only | split)

theorem resendAll_keeps {s0 s : State} (r : Nat) (j : Nat) (h : Keeps s0 s) : Keeps s0 (resendAll r j s) := by
  unfold resendAll
  repeat' (first | with_reducible assumption | with_reducible exact Keeps.refl _ | with_reducible apply resendOn_keeps | with_reducible apply keeps_foldl | with_reducible apply keeps_foldl_snd | with_reducible apply keeps_foldl_fst | with_reducible apply keeps_ite_snd | with_reducible apply keeps_ite | intro _ | dsimp only | split)

theorem routeRefresh_keeps {s0 s : State} (r : Nat) (h : Keeps s0 s) : Keeps s0 (routeRefresh r s) := by
  unfold routeRefresh
  repeat' (first | with_reducible assumption | with_reducible exact Keeps.refl _ | with_reducible apply routeDies_keeps | with_reducible apply resendOn_keeps | with_reducible apply routeEvent_keeps | with_reducible apply routeWake_keeps | with_reducible apply resendAll_keeps | with_reducible apply keeps_foldl | with_reducible apply keeps_foldl_snd | with_reducible apply keeps_foldl_fst | with_reducible apply keeps_ite | simp only [keeps_mk_iff] | with_reducible apply routePump_keeps | with_reducible apply keeps_ite_snd | intro _ | dsimp only | split)

theorem pathDies_keeps {s0 s : State} (j : Nat) (h : Keeps s0 s) : Keeps s0 (pathDies j s) := by
  unfold pathDies
  repeat' (first | with_reducible assumption | with_reducible exact Keeps.refl _ | with_reducible apply wr_keeps | with_reducible apply ptSet_keeps | with_reducible apply routeRefresh_keeps | with_reducible apply lpathMod_keeps | with_reducible apply keeps_foldl | with_reducible apply keeps_foldl_snd | with_reducible apply keeps_foldl_fst | with_reducible apply keeps_ite_snd | with_reducible apply keeps_ite | simp only [keeps_mk_iff] | intro _ | dsimp only | split)

theorem pathLives_keeps {s0 s : State} (j : Nat) (h : Keeps s0 s) : Keeps s0 (pathLives j s) := by
  unfold pathLives
  repeat' (first | with_reducible assumption | with_reducible exact Keeps.refl _ | with_reducible apply wr_keeps | with_reducible apply ptSet_keeps | with_reducible apply routeRefresh_keeps | with_reducible apply keeps_foldl | with_reducible apply keeps_foldl_snd | with_reducible apply keeps_foldl_fst | with_reducible apply keeps_ite_snd | with_reducible apply keeps_ite | intro _ | dsimp only | split)

theorem pathWritten_keeps {s0 s : State} (j : Nat) (h : Keeps s0 s) : Keeps s0 (pathWritten j s) := by
  unfold pathWritten
  repeat' (first | with_reducible assumption | with_reducible exact Keeps.refl _ | with_reducible apply pathDies_keeps | with_reducible apply keeps_ite | intro _ | dsimp only | split)

theorem ptpUnlock_keeps {s0 s : State}  (h : Keeps s0 s) : Keeps s0 (ptpUnlock s) := by
  unfold ptpUnlock
  repeat' (first | with_reducible assumption | with_reducible exact Keeps.refl _ | with_reducible apply wr_keeps | with_reducible apply refreshPtp_keeps | with_reducible apply keeps_ite | simp only [keeps_mk_iff] | intro _ | dsimp only | split)

theorem portDown_keeps {s0 s : State} (q : Nat) (h : Keeps s0 s) : Keeps s0 (portDown q s) := by
  unfold portDown
  repeat' (first | with_reducible assumption | with_reducible exact Keeps.refl _ | with_reducible apply wr_keeps | with_reducible apply pathDies_keeps | with_reducible apply ptpUnlock_keeps | with_reducible apply keeps_iter | with_reducible apply keeps_ite | intro _ | dsimp only | split)

theorem execEthPortUp_keeps {s0 s : State} (q : Nat) (h : Keeps s0 s) : KeepsR s0 (execEthPortUp q s) := by
  unfold execEthPortUp
  repeat' (first | with_reducible assumption | with_reducible exact Keeps.refl _ | with_reducible apply wr_keeps | with_reducible apply keepsR_next | with_reducible apply keeps_ite | with_reducible apply keepsR_ite | intro _ | dsimp only | split)

theorem execEthPortDown_keeps {s0 s : State} (q : Nat) (h : Keeps s0 s) : KeepsR s0 (execEthPortDown q s) := by
  unfold execEthPortDown
  repeat' (first | with_reducible assumption | with_reducible exact Keeps.refl _ | with_reducible apply portDown_keeps | with_reducible apply keepsR_next | with_reducible apply keeps_ite | with_reducible apply keepsR_ite | intro _ | dsimp only | split)

theorem execKeepaliveSend_keeps {s0 s : State} (j : Nat) (t : Nat) (h : Keeps s0 s) : KeepsR s0 (execKeepaliveSend j t s) := by
  unfold execKeepaliveSend
  repeat' (first | with_reducible assumption | with_reducible exact Keeps.refl _ | with_reducible apply bump_keeps | with_reducible apply emit_keeps | with_reducible apply atTime_keeps | with_reducible apply lpathMod_keeps | with_reducible apply keepsR_next | with_reducible apply keeps_ite | with_reducible apply keepsR_ite | simp only [keeps_mk_iff] | intro _ | dsimp only | split)

theorem keepaliveOn_keeps {s0 s : State} (t : Nat) (j : Nat) (h : Keeps s0 s) : Keeps s0 (keepaliveOn t j s) := by
  unfold keepaliveOn
  repeat' (first | with_reducible assumption | with_reducible exact Keeps.refl _ | with_reducible apply pathLives_keeps | with_reducible apply lpathMod_keeps | with_reducible apply keeps_ite | simp only [keeps_mk_iff] | intro _ | dsimp only | split)

theorem execKeepalive_keeps {s0 s : State} (q : Nat) (t : Nat) (hi : Word) (lo : Word) (pkg : Word) (h : Keeps s0 s) : KeepsR s0 (execKeepalive q t hi lo pkg s) := by
  unfold execKeepalive
  repeat' (first | with_reducible assumption | with_reducible exact Keeps.refl _ | with_reducible apply bump_keeps | with_reducible apply atTime_keeps | with_reducible apply keepaliveOn_keeps | with_reducible apply keeps_foldl | with_reducible apply keeps_foldl_snd | with_reducible apply keeps_foldl_fst | with_reducible apply keeps_ite_snd | with_reducible apply keepsR_next | with_reducible apply keeps_ite | with_reducible apply keepsR_ite | intro _ | dsimp only | split)

theorem execPathDeadTimeout_keeps {s0 s : State} (j : Nat) (t : Nat) (h : Keeps s0 s) : KeepsR s0 (execPathDeadTimeout j t s) := by
  unfold execPathDeadTimeout
  repeat' (first | with_reducible assumption | with_reducible exact Keeps.refl _ | with_reducible apply atTime_keeps | with_reducible apply pathDies_keeps | with_reducible apply keepsR_next | with_reducible apply keeps_ite | with_reducible apply keepsR_ite | intro _ | dsimp only | split)

theorem ackRoute_keeps {s0 s : State} (r : Nat) (ack : Nat) (h : Keeps s0 s) : Keeps s0 (ackRoute r ack s) := by
  unfold ackRoute
  repeat' (first | with_reducible assumption | with_reducible exact Keeps.refl _ | with_reducible apply routePump_keeps | with_reducible apply routeShow_keeps | with_reducible apply pktAcked_keeps | with_reducible apply keeps_foldl | with_reducible apply keeps_foldl_snd | with_reducible apply keeps_foldl_fst | with_reducible apply keeps_ite_snd | with_reducible apply keeps_ite | simp only [keeps_mk_iff] | intro _ | dsimp only | split)

theorem ltkOutcome_keeps {s0 s : State} (r : Nat) (code : Nat) (h : Keeps s0 s) : Keeps s0 (ltkOutcome r code s) := by
  unfold ltkOutcome
  repeat' (first | with_reducible assumption | with_reducible exact Keeps.refl _ | with_reducible apply ltkRefuse_keeps | with_reducible apply ltkAnswer_keeps | with_reducible apply keeps_ite | with_reducible apply ltkApplied_keeps | intro _ | dsimp only | split)

theorem ltkControl_keeps {s0 s : State} (n : Nat) (r : Nat) (w0 : Nat) (h : Keeps s0 s) : Keeps s0 (ltkControl n r w0 s) := by
  unfold ltkControl
  repeat' (first | with_reducible assumption | with_reducible exact Keeps.refl _ | with_reducible apply ltkApplied_keeps | with_reducible apply openAnswered_keeps | with_reducible apply ltkRefuse_keeps | with_reducible apply whsGateRefuses_keeps | with_reducible apply openArrive_keeps | with_reducible apply closeArrive_keeps | with_reducible apply ltkOutcome_keeps | with_reducible apply keeps_ite_snd | with_reducible apply keeps_ite | simp only [keeps_mk_iff] | with_reducible apply gateRefuse_keeps | intro _ | dsimp only | split)

theorem ltkStream_keeps {s0 s : State} (n : Nat) (r : Nat) (w0 : Nat) (w1 : Nat) (data : List Nat) (h : Keeps s0 s) : Keeps s0 (ltkStream n r w0 w1 data s) := by
  unfold ltkStream
  repeat' (first | with_reducible assumption | with_reducible exact Keeps.refl _ | with_reducible apply wr_keeps | with_reducible apply ltkRefuse_keeps | with_reducible apply keeps_ite | simp only [keeps_mk_iff] | intro _ | dsimp only | split)

theorem ltkApply_keeps {s0 s : State} (n : Nat) (r : Nat) (op : Nat) (body : List Nat) (data : List Nat) (h : Keeps s0 s) : Keeps s0 (ltkApply n r op body data s) := by
  unfold ltkApply
  repeat' (first | with_reducible assumption | with_reducible exact Keeps.refl _ | with_reducible apply ltkRefuse_keeps | with_reducible apply whsArrive_keeps | with_reducible apply ltkOutcome_keeps | with_reducible apply ltkControl_keeps | with_reducible apply gateRefuse_keeps | with_reducible apply ltkAnswer_keeps | with_reducible apply ltkApplied_keeps | with_reducible apply tallyAdd_keeps | with_reducible apply ltkStream_keeps | with_reducible apply keeps_ite_snd | with_reducible apply keeps_ite | intro _ | dsimp only | split)

theorem execData_keeps {s0 s : State} (q : Nat) (hi : Word) (lo : Word) (pkg : Word) (r : Nat) (op : Nat) (sq : Nat) (ack : Nat) (body : List Nat) (data : List Nat) (h : Keeps s0 s) : KeepsR s0 (execData q hi lo pkg r op sq ack body data s) := by
  unfold execData
  repeat' (first | with_reducible assumption | with_reducible exact Keeps.refl _ | with_reducible apply bump_keeps | with_reducible apply ltkAnswer_keeps | with_reducible apply ackRoute_keeps | with_reducible apply ltkApply_keeps | with_reducible apply keepsR_next | with_reducible apply keeps_ite | with_reducible apply keepsR_ite | intro _ | dsimp only | split)

theorem routeAnswered_keeps {s0 s : State} (r : Nat) (t : Nat) (h : Keeps s0 s) : Keeps s0 (routeAnswered r t s) := by
  unfold routeAnswered
  repeat' (first | with_reducible assumption | with_reducible exact Keeps.refl _ | with_reducible apply lrouteMod_keeps | with_reducible apply keeps_ite | simp only [keeps_mk_iff] | intro _ | dsimp only | split)

theorem execAck_keeps {s0 s : State} (q : Nat) (t : Nat) (hi : Word) (lo : Word) (pkg : Word) (r : Nat) (ack : Nat) (_hold : Bool) (h : Keeps s0 s) : KeepsR s0 (execAck q t hi lo pkg r ack _hold s) := by
  unfold execAck
  repeat' (first | with_reducible assumption | with_reducible exact Keeps.refl _ | with_reducible apply atTime_keeps | with_reducible apply bump_keeps | with_reducible apply ackRoute_keeps | with_reducible apply routeAnswered_keeps | with_reducible apply keepsR_next | with_reducible apply keeps_ite | with_reducible apply keepsR_ite | with_reducible apply lrouteMod_keeps | simp only [keeps_mk_iff] | intro _ | dsimp only | split)

theorem execRefuse_keeps {s0 s : State} (q : Nat) (t : Nat) (hi : Word) (lo : Word) (pkg : Word) (r : Nat) (sq : Nat) (status : Nat) (ack : Nat) (h : Keeps s0 s) : KeepsR s0 (execRefuse q t hi lo pkg r sq status ack s) := by
  unfold execRefuse
  repeat' (first | with_reducible assumption | with_reducible exact Keeps.refl _ | with_reducible apply atTime_keeps | with_reducible apply bump_keeps | with_reducible apply routeAnswered_keeps | with_reducible apply ackRoute_keeps | with_reducible apply routeShow_keeps | with_reducible apply pktRefused_keeps | with_reducible apply keepsR_next | with_reducible apply keeps_ite | with_reducible apply keepsR_ite | simp only [keeps_mk_iff] | with_reducible apply lrouteMod_keeps | intro _ | dsimp only | split)

theorem execFrameDrop_keeps {s0 s : State} (q : Nat) (h : Keeps s0 s) : KeepsR s0 (execFrameDrop q s) := by
  unfold execFrameDrop
  repeat' (first | with_reducible assumption | with_reducible exact Keeps.refl _ | with_reducible apply bump_keeps | with_reducible apply keepsR_next | with_reducible apply keeps_ite | with_reducible apply keepsR_ite | intro _ | dsimp only | split)

theorem execRetransmit_keeps {s0 s : State} (i : Nat) (t : Nat) (h : Keeps s0 s) : KeepsR s0 (execRetransmit i t s) := by
  unfold execRetransmit
  repeat' (first | with_reducible assumption | with_reducible exact Keeps.refl _ | with_reducible apply atTime_keeps | with_reducible apply routePump_keeps | with_reducible apply resendOn_keeps | with_reducible apply keepsR_next | with_reducible apply keeps_ite | with_reducible apply keepsR_ite | intro _ | dsimp only | split)

theorem execRouteTimeout_keeps {s0 s : State} (r : Nat) (t : Nat) (h : Keeps s0 s) : KeepsR s0 (execRouteTimeout r t s) := by
  unfold execRouteTimeout
  repeat' (first | with_reducible assumption | with_reducible exact Keeps.refl _ | with_reducible apply atTime_keeps | with_reducible apply routeDies_keeps | with_reducible apply keepsR_next | with_reducible apply keeps_ite | with_reducible apply keepsR_ite | intro _ | dsimp only | split)

theorem routeWord0_keeps {s0 s : State} (r : Nat) (data : Nat) (h : Keeps s0 s) : Keeps s0 (routeWord0 r data s) := by
  unfold routeWord0
  repeat' (first | with_reducible assumption | with_reducible exact Keeps.refl _ | with_reducible apply routeFails_keeps | with_reducible apply rtSet_keeps | with_reducible apply lrouteMod_keeps | with_reducible apply routeRefresh_keeps | with_reducible apply routeWake_keeps | with_reducible apply keeps_ite | simp only [keeps_mk_iff] | intro _ | dsimp only | split)

theorem execRouteWord0Write_keeps {s0 s : State} (r : Nat) (data : Word) (h : Keeps s0 s) : KeepsR s0 (execRouteWord0Write r data s) := by
  unfold execRouteWord0Write
  repeat' (first | with_reducible assumption | with_reducible exact Keeps.refl _ | with_reducible apply routeWord0_keeps | with_reducible apply keepsR_next | with_reducible apply keeps_ite | with_reducible apply keepsR_ite | intro _ | dsimp only | split)

theorem routesDelete_keeps {s0 s : State} (n : Nat) (h : Keeps s0 s) : Keeps s0 (routesDelete n s) := by
  unfold routesDelete
  repeat' (first | with_reducible assumption | with_reducible exact Keeps.refl _ | with_reducible apply routeWord0_keeps | with_reducible apply keeps_foldl | with_reducible apply keeps_foldl_snd | with_reducible apply keeps_foldl_fst | with_reducible apply keeps_ite | simp only [keeps_mk_iff] | with_reducible apply keeps_ite_snd | intro _ | dsimp only | split)

theorem timersPause_keeps {s0 s : State} (q : Nat) (t : Nat) (old : Nat) (new : Nat) (h : Keeps s0 s) : Keeps s0 (timersPause q t old new s) := by
  unfold timersPause
  repeat' (first | with_reducible assumption | with_reducible exact Keeps.refl _ | with_reducible apply lrouteMod_keeps | with_reducible apply keeps_foldl | with_reducible apply keeps_foldl_snd | with_reducible apply keeps_foldl_fst | with_reducible apply keeps_ite | simp only [keeps_mk_iff] | intro _ | dsimp only | split)

theorem pfcPause_keeps {s0 s : State} (q : Nat) (t : Nat) (e : Nat) (len : Nat) (h : Keeps s0 s) : Keeps s0 (pfcPause q t e len s) := by
  unfold pfcPause
  repeat' (first | with_reducible assumption | with_reducible exact Keeps.refl _ | with_reducible apply timersPause_keeps | with_reducible apply keeps_ite | simp only [keeps_mk_iff] | intro _ | dsimp only | split)

theorem execPfcFrame_keeps {s0 s : State} (q : Nat) (t : Nat) (vec : Nat) (quanta : List Nat) (h : Keeps s0 s) : KeepsR s0 (execPfcFrame q t vec quanta s) := by
  unfold execPfcFrame
  repeat' (first | with_reducible assumption | with_reducible exact Keeps.refl _ | with_reducible apply atTime_keeps | with_reducible apply bump_keeps | with_reducible apply pfcPause_keeps | with_reducible apply routePump_keeps | with_reducible apply keeps_foldl | with_reducible apply keeps_foldl_snd | with_reducible apply keeps_foldl_fst | with_reducible apply keeps_iter | with_reducible apply keepsR_next | with_reducible apply keeps_ite | with_reducible apply keepsR_ite | with_reducible apply keeps_ite_snd | simp only [keeps_mk_iff] | intro _ | dsimp only | split)

theorem execPtpSync_keeps {s0 s : State} (t : Nat) (ofs : Word) (h : Keeps s0 s) : KeepsR s0 (execPtpSync t ofs s) := by
  unfold execPtpSync
  repeat' (first | with_reducible assumption | with_reducible exact Keeps.refl _ | with_reducible apply wr_keeps | with_reducible apply atTime_keeps | with_reducible apply refreshPtp_keeps | with_reducible apply ptpUnlock_keeps | with_reducible apply keepsR_next | with_reducible apply keeps_ite | with_reducible apply keepsR_ite | simp only [keeps_mk_iff] | intro _ | dsimp only | split)

theorem execPtpSyncLoss_keeps {s0 s : State}  (h : Keeps s0 s) : KeepsR s0 (execPtpSyncLoss s) := by
  unfold execPtpSyncLoss
  repeat' (first | with_reducible assumption | with_reducible exact Keeps.refl _ | with_reducible apply ptpUnlock_keeps | with_reducible apply keepsR_next | with_reducible apply keeps_ite | with_reducible apply keepsR_ite | intro _ | dsimp only | split)

end Sys2Proof.Machine
end

