-- ==== Sys2Proof/Laws/KeepsIntegrity.lean ====
section
/-! SUPPORT. What the operations of Machine/Integrity.lean keep (Laws/Keeps.lean). -/

namespace Sys2Proof.Machine

set_option linter.unusedTactic false
set_option linter.unreachableTactic false
set_option linter.unusedSimpArgs false

theorem takeShadows_keeps {s0 s : State} (n : Nat) (h : Keeps s0 s) : Keeps s0 (takeShadows n s) := by
  unfold takeShadows
  repeat' (first | with_reducible assumption | with_reducible exact Keeps.refl _ | with_reducible apply keeps_foldl | with_reducible apply keeps_foldl_snd | with_reducible apply keeps_foldl_fst | with_reducible apply keeps_ite_snd | with_reducible apply keeps_iter | with_reducible apply keeps_ite | simp only [keeps_mk_iff] | intro _ | dsimp only | split)

theorem epochStart_keeps {s0 s : State} (n : Nat) (h : Keeps s0 s) : Keeps s0 (epochStart n s) := by
  unfold epochStart
  repeat' (first | with_reducible assumption | with_reducible exact Keeps.refl _ | with_reducible apply wr_keeps | with_reducible apply bump_keeps | with_reducible apply pdkMod_keeps | with_reducible apply scheduleNext_keeps | with_reducible apply foldMod_keeps | with_reducible apply foldShow_keeps | with_reducible apply takeShadows_keeps | with_reducible apply keeps_ite | simp only [keeps_mk_iff] | intro _ | dsimp only | split)

theorem sectionStart_keeps {s0 s : State} (n : Nat) (h : Keeps s0 s) : Keeps s0 (sectionStart n s) := by
  unfold sectionStart
  repeat' (first | with_reducible assumption | with_reducible exact Keeps.refl _ | with_reducible apply wr_keeps | with_reducible apply meshMod_keeps | with_reducible apply traceStart_keeps | with_reducible apply startTask_keeps | with_reducible apply coreMod_keeps | with_reducible apply epochStart_keeps | with_reducible apply sinkSection_keeps | with_reducible apply pdkMod_keeps | with_reducible apply keeps_foldl | with_reducible apply keeps_foldl_snd | with_reducible apply keeps_foldl_fst | with_reducible apply keeps_iter | with_reducible apply keeps_ite | simp only [keeps_mk_iff] | with_reducible apply keeps_ite_snd | intro _ | dsimp only | split)

theorem execEpochClose_keeps {s0 s : State} (n : Nat) (h : Keeps s0 s) : KeepsR s0 (execEpochClose n s) := by
  unfold execEpochClose
  repeat' (first | with_reducible assumption | with_reducible exact Keeps.refl _ | with_reducible apply wr_keeps | with_reducible apply keepsR_next | with_reducible apply keeps_ite | with_reducible apply keepsR_ite | intro _ | dsimp only | split)

theorem copyBegin_keeps {s0 s : State} (n : Nat) (e : Nat) (h : Keeps s0 s) : Keeps s0 (copyBegin n e s) := by
  unfold copyBegin
  repeat' (first | with_reducible assumption | with_reducible exact Keeps.refl _ | with_reducible apply wr_keeps | with_reducible apply watchMod_keeps | with_reducible apply keeps_ite | simp only [keeps_mk_iff] | intro _ | dsimp only | split)

theorem copyRequest_keeps {s0 s : State} (n : Nat) (e : Nat) (h : Keeps s0 s) : Keeps s0 (copyRequest n e s) := by
  unfold copyRequest
  repeat' (first | with_reducible assumption | with_reducible exact Keeps.refl _ | with_reducible apply watchMod_keeps | with_reducible apply copyBegin_keeps | with_reducible apply keeps_ite | simp only [keeps_mk_iff] | intro _ | dsimp only | split)

theorem epochCommit_keeps {s0 s : State} (n : Nat) (h : Keeps s0 s) : Keeps s0 (epochCommit n s) := by
  unfold epochCommit
  repeat' (first | with_reducible assumption | with_reducible exact Keeps.refl _ | with_reducible apply wr_keeps | with_reducible apply bump_keeps | with_reducible apply entGone_keeps | with_reducible apply copyRequest_keeps | with_reducible apply keeps_foldl | with_reducible apply keeps_foldl_snd | with_reducible apply keeps_foldl_fst | with_reducible apply keeps_ite_snd | with_reducible apply keeps_ite | intro _ | dsimp only | split)

theorem execEpochDecide_keeps {s0 s : State} (n : Nat) (h : Keeps s0 s) : KeepsR s0 (execEpochDecide n s) := by
  unfold execEpochDecide
  repeat' (first | with_reducible assumption | with_reducible exact Keeps.refl _ | with_reducible apply epochCommit_keeps | with_reducible apply keepsR_next | with_reducible apply keeps_ite | with_reducible apply keepsR_ite | intro _ | dsimp only | split)

theorem execQuench_keeps {s0 s : State} (n : Nat) (h : Keeps s0 s) : KeepsR s0 (execQuench n s) := by
  unfold execQuench
  repeat' (first | with_reducible assumption | with_reducible exact Keeps.refl _ | with_reducible apply mcoreMod_keeps | with_reducible apply regatherStart_keeps | with_reducible apply wr_keeps | with_reducible apply meshMod_keeps | with_reducible apply stopWork_keeps | with_reducible apply ringsIdle_keeps | with_reducible apply keepsR_next | with_reducible apply keeps_ite | with_reducible apply keepsR_ite | with_reducible apply keeps_ite_st | simp only [keeps_mk_iff] | intro _ | dsimp only | split)

theorem emptyMesh_keeps {s0 s : State} (n : Nat) (h : Keeps s0 s) : Keeps s0 (emptyMesh n s) := by
  unfold emptyMesh
  repeat' (first | with_reducible assumption | with_reducible exact Keeps.refl _ | with_reducible apply wr_keeps | with_reducible apply coreMod_keeps | with_reducible apply meshMod_keeps | with_reducible apply fifoShow_keeps | with_reducible apply keeps_foldl | with_reducible apply keeps_foldl_snd | with_reducible apply keeps_foldl_fst | with_reducible apply keeps_ite_snd | with_reducible apply keeps_iter | with_reducible apply keeps_ite | simp only [keeps_mk_iff] | intro _ | dsimp only | split)

theorem dropLands_keeps {s0 s : State} (p : Nat) (h : Keeps s0 s) : Keeps s0 (dropLands p s) := by
  unfold dropLands
  repeat' (first | with_reducible assumption | with_reducible exact Keeps.refl _ | with_reducible apply coreMod_keeps | with_reducible apply keeps_ite | simp only [keeps_mk_iff] | intro _ | dsimp only | split)

theorem emptyWhistle_keeps {s0 s : State} (p : Nat) (h : Keeps s0 s) : Keeps s0 (emptyWhistle p s) := by
  unfold emptyWhistle
  repeat' (first | with_reducible assumption | with_reducible exact Keeps.refl _ | with_reducible apply dropLands_keeps | with_reducible apply rqPut_keeps | with_reducible apply sendsPut_keeps | with_reducible apply spillPut_keeps | with_reducible apply keeps_iter | with_reducible apply keeps_ite | simp only [keeps_mk_iff] | intro _ | dsimp only | split)

theorem dropWhistle_keeps {s0 s : State} (n : Nat) (h : Keeps s0 s) : Keeps s0 (dropWhistle n s) := by
  unfold dropWhistle
  repeat' (first | with_reducible assumption | with_reducible exact Keeps.refl _ | with_reducible apply keeps_ite | simp only [keeps_mk_iff] | intro _ | dsimp only | split)

theorem resetCtxs_keeps {s0 s : State} (n : Nat) (h : Keeps s0 s) : Keeps s0 (resetCtxs n s) := by
  unfold resetCtxs
  repeat' (first | with_reducible assumption | with_reducible exact Keeps.refl _ | with_reducible apply clearRegs_keeps | with_reducible apply keeps_foldl | with_reducible apply keeps_foldl_snd | with_reducible apply keeps_foldl_fst | with_reducible apply keeps_ite_snd | with_reducible apply keeps_ite | simp only [keeps_mk_iff] | intro _ | dsimp only | split)

theorem resetTally_keeps {s0 s : State} (n : Nat) (val : State → Nat → Nat → Nat) (h : Keeps s0 s) : Keeps s0 (resetTally n val s) := by
  unfold resetTally
  repeat' (first | with_reducible assumption | with_reducible exact Keeps.refl _ | with_reducible apply tlySet_keeps | with_reducible apply watchFree_keeps | with_reducible apply sendsPut_keeps | with_reducible apply keeps_foldl | with_reducible apply keeps_foldl_snd | with_reducible apply keeps_foldl_fst | with_reducible apply keeps_ite_snd | with_reducible apply keeps_ite | intro _ | dsimp only | split)

theorem quenchConns_keeps {s0 s : State} (p : Nat) (h : Keeps s0 s) : Keeps s0 (quenchConns p s) := by
  unfold quenchConns
  repeat' (first | with_reducible assumption | with_reducible exact Keeps.refl _ | with_reducible apply cnSet_keeps | with_reducible apply cnClear_keeps | with_reducible apply keeps_iter | with_reducible apply keeps_ite | intro _ | dsimp only | split)

theorem refetch_keeps {s0 s : State} (f : Nat) (h : Keeps s0 s) : Keeps s0 (refetch f s) := by
  unfold refetch
  repeat' (first | with_reducible assumption | with_reducible exact Keeps.refl _ | with_reducible apply wr_keeps | with_reducible apply keeps_foldl | with_reducible apply keeps_foldl_snd | with_reducible apply keeps_foldl_fst | with_reducible apply keeps_ite_snd | with_reducible apply keeps_ite | simp only [keeps_mk_iff] | intro _ | dsimp only | split)

theorem execQuenchDrainEnd_keeps {s0 s : State} (n : Nat) (h : Keeps s0 s) : KeepsR s0 (execQuenchDrainEnd n s) := by
  unfold execQuenchDrainEnd
  repeat' (first | with_reducible assumption | with_reducible exact Keeps.refl _ | with_reducible apply wr_keeps | with_reducible apply scheduleNext_keeps | with_reducible apply holdShow_keeps | with_reducible apply reclaimPaddock_keeps | with_reducible apply dropWhistle_keeps | with_reducible apply quenchConns_keeps | with_reducible apply refetch_keeps | with_reducible apply dropReads_keeps | with_reducible apply emptyWhistle_keeps | with_reducible apply resetTally_keeps | with_reducible apply emptyMesh_keeps | with_reducible apply resetCtxs_keeps | with_reducible apply keeps_foldl | with_reducible apply keeps_foldl_snd | with_reducible apply keeps_foldl_fst | with_reducible apply keeps_ite_snd | with_reducible apply keepsR_next | with_reducible apply keeps_ite | with_reducible apply keepsR_ite | simp only [keeps_mk_iff] | intro _ | dsimp only | split)

theorem replayBegin_keeps {s0 s : State} (n : Nat) (h : Keeps s0 s) : Keeps s0 (replayBegin n s) := by
  unfold replayBegin
  repeat' (first | with_reducible assumption | with_reducible exact Keeps.refl _ | with_reducible apply unschedule_keeps | with_reducible apply foldMod_keeps | with_reducible apply swapBegin_keeps | with_reducible apply keeps_ite | simp only [keeps_mk_iff] | intro _ | dsimp only | split)

theorem drainNext_keeps {s0 s : State} (n : Nat) (h : Keeps s0 s) : Keeps s0 (drainNext n s) := by
  unfold drainNext
  repeat' (first | with_reducible assumption | with_reducible exact Keeps.refl _ | with_reducible apply holdShow_keeps | with_reducible apply sigRetry_keeps | with_reducible apply holdRetry_keeps | with_reducible apply wr_keeps | with_reducible apply keeps_foldl | with_reducible apply keeps_foldl_snd | with_reducible apply keeps_foldl_fst | with_reducible apply keeps_ite | simp only [keeps_mk_iff] | intro _ | dsimp only | split)

theorem drainWrite_keeps {s0 s : State} (n : Nat) (h' : Hold) (h : Keeps s0 s) : Keeps s0 (drainWrite n h' s) := by
  unfold drainWrite
  repeat' (first | with_reducible assumption | with_reducible exact Keeps.refl _ | with_reducible apply wr_keeps | with_reducible apply keeps_ite | simp only [keeps_mk_iff] | intro _ | dsimp only | split)

theorem execDrainSend_keeps {s0 s : State} (n : Nat) (h : Keeps s0 s) : KeepsR s0 (execDrainSend n s) := by
  unfold execDrainSend
  repeat' (first | with_reducible assumption | with_reducible exact Keeps.refl _ | with_reducible apply wr_keeps | with_reducible apply ltkSend_keeps | with_reducible apply postCompletion_keeps | with_reducible apply drainWrite_keeps | with_reducible apply drainNext_keeps | with_reducible apply keepsR_next | with_reducible apply keeps_ite | with_reducible apply keepsR_ite | intro _ | dsimp only | split)

theorem copyOut_keeps {s0 s : State} (n : Nat) (a : Nat) (h : Keeps s0 s) : Keeps s0 (copyOut n a s).2 := by
  unfold copyOut
  repeat' (first | with_reducible assumption | with_reducible exact Keeps.refl _ | with_reducible apply memWrite_keeps | with_reducible apply spReadBytes_keeps | with_reducible apply keeps_foldl | with_reducible apply keeps_foldl_snd | with_reducible apply keeps_foldl_fst | with_reducible apply keeps_ite_snd | with_reducible apply keeps_ite | with_reducible apply keeps_ite_snd | intro _ | dsimp only | split)

theorem copyPages_keeps {s0 s : State} (n : Nat) (a : Nat) (h : Keeps s0 s) : Keeps s0 (copyPages n a s).2 := by
  unfold copyPages
  repeat' (first | with_reducible assumption | with_reducible exact Keeps.refl _ | with_reducible apply memRead_keeps | with_reducible apply memWrite_keeps | with_reducible apply translate_keeps | with_reducible apply keeps_foldl | with_reducible apply keeps_foldl_snd | with_reducible apply keeps_foldl_fst | with_reducible apply keeps_ite_snd | with_reducible apply keeps_ite | with_reducible apply keeps_ite_snd | intro _ | dsimp only | split)

theorem copyState_keeps {s0 s : State} (n : Nat) (a : Nat) (h : Keeps s0 s) : Keeps s0 (copyState n a s) := by
  unfold copyState
  repeat' (first | with_reducible assumption | with_reducible exact Keeps.refl _ | with_reducible apply memWrite_keeps | with_reducible apply copyPages_keeps | with_reducible apply copyOut_keeps | with_reducible apply keeps_ite | intro _ | dsimp only | split)

theorem execCopyPrepared_keeps {s0 s : State} (n : Nat) (h : Keeps s0 s) : KeepsR s0 (execCopyPrepared n s) := by
  unfold execCopyPrepared
  repeat' (first | with_reducible assumption | with_reducible exact Keeps.refl _ | with_reducible apply watchMod_keeps | with_reducible apply copyState_keeps | with_reducible apply keepsR_next | with_reducible apply keeps_ite | with_reducible apply keepsR_ite | simp only [keeps_mk_iff] | intro _ | dsimp only | split)

theorem execCopyCommit_keeps {s0 s : State} (n : Nat) (h : Keeps s0 s) : KeepsR s0 (execCopyCommit n s) := by
  unfold execCopyCommit
  repeat' (first | with_reducible assumption | with_reducible exact Keeps.refl _ | with_reducible apply wr_keeps | with_reducible apply bump_keeps | with_reducible apply watchMod_keeps | with_reducible apply copyBegin_keeps | with_reducible apply keepsR_next | with_reducible apply keeps_ite | with_reducible apply keepsR_ite | simp only [keeps_mk_iff] | intro _ | dsimp only | split)

theorem execFailover_keeps {s0 s : State} (n : Nat) (h : Keeps s0 s) : KeepsR s0 (execFailover n s) := by
  unfold execFailover
  repeat' (first | with_reducible assumption | with_reducible exact Keeps.refl _ | with_reducible apply wr_keeps | with_reducible apply pdkMod_keeps | with_reducible apply watchMod_keeps | with_reducible apply abandonTests_keeps | with_reducible apply keepsR_next | with_reducible apply keeps_ite | with_reducible apply keepsR_ite | simp only [keeps_mk_iff] | intro _ | dsimp only | split)

theorem restoreSp_keeps {s0 s : State} (n : Nat) (a : Nat) (h : Keeps s0 s) : Keeps s0 (restoreSp n a s).2 := by
  unfold restoreSp
  repeat' (first | with_reducible assumption | with_reducible exact Keeps.refl _ | with_reducible apply memRead_keeps | with_reducible apply spPoison_keeps | with_reducible apply spWriteBytes_keeps | with_reducible apply keeps_foldl | with_reducible apply keeps_foldl_snd | with_reducible apply keeps_foldl_fst | with_reducible apply keeps_ite_snd | with_reducible apply keeps_ite | with_reducible apply keeps_ite_snd | intro _ | dsimp only | split)

theorem restorePages_keeps {s0 s : State} (n : Nat) (a : Nat) (h : Keeps s0 s) : Keeps s0 (restorePages n a s).2 := by
  unfold restorePages
  repeat' (first | with_reducible assumption | with_reducible exact Keeps.refl _ | with_reducible apply memRead_keeps | with_reducible apply memWrite_keeps | with_reducible apply translate_keeps | with_reducible apply keeps_foldl | with_reducible apply keeps_foldl_snd | with_reducible apply keeps_foldl_fst | with_reducible apply keeps_ite_snd | with_reducible apply keeps_ite | with_reducible apply keeps_ite_snd | intro _ | dsimp only | split)

theorem restoreState_keeps {s0 s : State} (n : Nat) (h : Keeps s0 s) : Keeps s0 (restoreState n s) := by
  unfold restoreState
  repeat' (first | with_reducible assumption | with_reducible exact Keeps.refl _ | with_reducible apply tlySet_keeps | with_reducible apply restoreSp_keeps | with_reducible apply restorePages_keeps | with_reducible apply keeps_foldl | with_reducible apply keeps_foldl_snd | with_reducible apply keeps_foldl_fst | with_reducible apply keeps_ite_snd | with_reducible apply keeps_ite | intro _ | dsimp only | split)

theorem restoreSection_keeps {s0 s : State} (n : Nat) (h : Keeps s0 s) : Keeps s0 (restoreSection n s) := by
  unfold restoreSection
  repeat' (first | with_reducible assumption | with_reducible exact Keeps.refl _ | with_reducible apply goldNeed_keeps | with_reducible apply wr_keeps | with_reducible apply swapClear_keeps | with_reducible apply playSection_keeps | with_reducible apply keeps_foldl | with_reducible apply keeps_foldl_snd | with_reducible apply keeps_foldl_fst | with_reducible apply keeps_ite_snd | with_reducible apply keeps_ite | intro _ | dsimp only | split)

theorem execFailoverRestoreDone_keeps {s0 s : State} (n : Nat) (h : Keeps s0 s) : KeepsR s0 (execFailoverRestoreDone n s) := by
  unfold execFailoverRestoreDone
  repeat' (first | with_reducible assumption | with_reducible exact Keeps.refl _ | with_reducible apply restoreSection_keeps | with_reducible apply restoreState_keeps | with_reducible apply scheduleNext_keeps | with_reducible apply watchMod_keeps | with_reducible apply keepsR_next | with_reducible apply keeps_ite | with_reducible apply keepsR_ite | simp only [keeps_mk_iff] | intro _ | dsimp only | split)

theorem failoverStart_keeps {s0 s : State} (n : Nat) (h : Keeps s0 s) : Keeps s0 (failoverStart n s) := by
  unfold failoverStart
  repeat' (first | with_reducible assumption | with_reducible exact Keeps.refl _ | with_reducible apply wr_keeps | with_reducible apply watchMod_keeps | with_reducible apply keeps_ite | simp only [keeps_mk_iff] | intro _ | dsimp only | split)

theorem execFailOverNow_keeps {s0 s : State} (n : Nat) (h : Keeps s0 s) : KeepsR s0 (execFailOverNow n s) := by
  unfold execFailOverNow
  repeat' (first | with_reducible assumption | with_reducible exact Keeps.refl _ | with_reducible apply pdkMod_keeps | with_reducible apply keepsR_next | with_reducible apply keeps_ite | with_reducible apply keepsR_ite | simp only [keeps_mk_iff] | intro _ | dsimp only | split)

theorem standbyBack_keeps {s0 s : State} (n : Nat) (h : Keeps s0 s) : Keeps s0 (standbyBack n s) := by
  unfold standbyBack
  repeat' (first | with_reducible assumption | with_reducible exact Keeps.refl _ | with_reducible apply wr_keeps | with_reducible apply keeps_ite | intro _ | dsimp only | split)

theorem execRePair_keeps {s0 s : State} (n : Nat) (h : Keeps s0 s) : KeepsR s0 (execRePair n s) := by
  unfold execRePair
  repeat' (first | with_reducible assumption | with_reducible exact Keeps.refl _ | with_reducible apply wr_keeps | with_reducible apply watchMod_keeps | with_reducible apply keepsR_next | with_reducible apply keeps_ite | with_reducible apply keepsR_ite | simp only [keeps_mk_iff] | intro _ | dsimp only | split)

theorem execUnpair_keeps {s0 s : State} (n : Nat) (h : Keeps s0 s) : KeepsR s0 (execUnpair n s) := by
  unfold execUnpair
  repeat' (first | with_reducible assumption | with_reducible exact Keeps.refl _ | with_reducible apply wr_keeps | with_reducible apply keepsR_next | with_reducible apply keeps_ite | with_reducible apply keepsR_ite | simp only [keeps_mk_iff] | intro _ | dsimp only | split)

end Sys2Proof.Machine
end

