-- ==== Sys2Proof/Laws/KeepsFlockbook.lean ====
section
/-! SUPPORT. What the operations of Machine/Flockbook.lean keep (Laws/Keeps.lean). -/

namespace Sys2Proof.Machine

set_option linter.unusedTactic false
set_option linter.unreachableTactic false
set_option linter.unusedSimpArgs false

theorem slotPut_keeps {s0 s : State} (bank : Nat) (slot : Nat) (ws : List Nat) (h : Keeps s0 s) : Keeps s0 (slotPut bank slot ws s) := by
  unfold slotPut
  repeat' (first | with_reducible assumption | with_reducible exact Keeps.refl _ | with_reducible apply fbkMod_keeps | with_reducible apply keeps_ite | simp only [keeps_mk_iff] | intro _ | dsimp only | split)

theorem headNext_keeps {s0 s : State} (b : Nat) (h : Keeps s0 s) : Keeps s0 (headNext b s) := by
  unfold headNext
  repeat' (first | with_reducible assumption | with_reducible exact Keeps.refl _ | with_reducible apply wr_keeps | with_reducible apply keeps_ite | intro _ | dsimp only | split)

theorem fbkShow_keeps {s0 s : State}  (h : Keeps s0 s) : Keeps s0 (fbkShow s) := by
  unfold fbkShow
  repeat' (first | with_reducible assumption | with_reducible exact Keeps.refl _ | with_reducible apply wr_keeps | with_reducible apply keeps_ite | intro _ | dsimp only | split)

theorem sumStart_keeps {s0 s : State}  (h : Keeps s0 s) : Keeps s0 (sumStart s).2 := by
  unfold sumStart
  repeat' (first | with_reducible assumption | with_reducible exact Keeps.refl _ | with_reducible apply fbkMod_keeps | with_reducible apply keeps_ite | with_reducible apply keeps_ite_snd | simp only [keeps_mk_iff] | (simp only [List.length_map, List.length_drop, List.length_nil]; omega) | intro _ | dsimp only | split)

theorem nextWrite_keeps {s0 s : State}  (h : Keeps s0 s) : Keeps s0 (nextWrite s).2 := by
  unfold nextWrite
  repeat' (first | with_reducible assumption | with_reducible exact Keeps.refl _ | with_reducible apply sumStart_keeps | with_reducible apply keeps_ite | with_reducible apply keeps_ite_snd | simp only [keeps_mk_iff] | intro _ | dsimp only | split)

theorem writeStart_keeps {s0 s : State} (w : FbkWrite) (h : Keeps s0 s) : Keeps s0 (writeStart w s) := by
  unfold writeStart
  repeat' (first | with_reducible assumption | with_reducible exact Keeps.refl _ | with_reducible apply countLife_keeps | with_reducible apply fbkShow_keeps | with_reducible apply slotPut_keeps | with_reducible apply fbkMod_keeps | with_reducible apply keeps_ite | simp only [keeps_mk_iff] | intro _ | dsimp only | split)

theorem ringWrite_keeps {s0 s : State} (w : FbkWrite) (h : Keeps s0 s) : Keeps s0 (ringWrite w s) := by
  unfold ringWrite
  repeat' (first | with_reducible assumption | with_reducible exact Keeps.refl _ | with_reducible apply writeStart_keeps | with_reducible apply headNext_keeps | with_reducible apply keeps_ite | simp only [keeps_mk_iff] | intro _ | dsimp only | split)

theorem execRecordWrite_keeps {s0 s : State}  (h : Keeps s0 s) : KeepsR s0 (execRecordWrite s) := by
  unfold execRecordWrite
  repeat' (first | with_reducible assumption | with_reducible exact Keeps.refl _ | with_reducible apply wr_keeps | with_reducible apply writeStart_keeps | with_reducible apply nextWrite_keeps | with_reducible apply ringWrite_keeps | with_reducible apply keepsR_next | with_reducible apply keeps_ite | with_reducible apply keepsR_ite | intro _ | dsimp only | split)

theorem muteSend_keeps {s0 s : State} (r : FbkRec) (h : Keeps s0 s) : Keeps s0 (muteSend r s) := by
  unfold muteSend
  repeat' (first | with_reducible assumption | with_reducible exact Keeps.refl _ | with_reducible apply muteRing_keeps | with_reducible apply pldmPush_keeps | with_reducible apply keeps_ite | intro _ | dsimp only | split)

theorem muteSummary_keeps {s0 s : State}  (h : Keeps s0 s) : Keeps s0 (muteSummary s) := by
  unfold muteSummary
  repeat' (first | with_reducible assumption | with_reducible exact Keeps.refl _ | with_reducible apply bump_keeps | with_reducible apply muteSend_keeps | with_reducible apply fbkMod_keeps | with_reducible apply keeps_foldl | with_reducible apply keeps_foldl_snd | with_reducible apply keeps_foldl_fst | with_reducible apply keeps_ite_snd | with_reducible apply keeps_ite | simp only [keeps_mk_iff] | intro _ | dsimp only | split)

theorem failRecord_keeps {s0 s : State} (b : Nat) (h : Keeps s0 s) : Keeps s0 (failRecord b s).2 := by
  unfold failRecord
  repeat' (first | with_reducible assumption | with_reducible exact Keeps.refl _ | with_reducible apply wr_keeps | with_reducible apply keeps_ite | with_reducible apply keeps_ite_snd | intro _ | dsimp only | split)

theorem muteEnter_keeps {s0 s : State} (b : Nat) (h : Keeps s0 s) : Keeps s0 (muteEnter b s) := by
  unfold muteEnter
  repeat' (first | with_reducible assumption | with_reducible exact Keeps.refl _ | with_reducible apply wr_keeps | with_reducible apply fbkEvent_keeps | with_reducible apply muteSend_keeps | with_reducible apply fbkShow_keeps | with_reducible apply muteSummary_keeps | with_reducible apply failRecord_keeps | with_reducible apply fbkMod_keeps | with_reducible apply keeps_foldl | with_reducible apply keeps_foldl_snd | with_reducible apply keeps_foldl_fst | with_reducible apply keeps_ite_snd | with_reducible apply keeps_ite | simp only [keeps_mk_iff] | (simp only [List.length_map, List.length_drop, List.length_nil]; omega) | intro _ | dsimp only | split)

theorem dualEnd_keeps {s0 s : State} (r : FbkRec) (h : Keeps s0 s) : Keeps s0 (dualEnd r s) := by
  unfold dualEnd
  repeat' (first | with_reducible assumption | with_reducible exact Keeps.refl _ | with_reducible apply wr_keeps | with_reducible apply fbkEvent_keeps | with_reducible apply cullSaved_keeps | with_reducible apply fbkMod_keeps | with_reducible apply keeps_ite | simp only [keeps_mk_iff] | intro _ | dsimp only | split)

theorem writeRedirect_keeps {s0 s : State} (b : Nat) (h : Keeps s0 s) : Keeps s0 (writeRedirect b s) := by
  unfold writeRedirect
  repeat' (first | with_reducible assumption | with_reducible exact Keeps.refl _ | with_reducible apply dualEnd_keeps | with_reducible apply fbkMod_keeps | with_reducible apply keeps_ite | simp only [keeps_mk_iff] | intro _ | dsimp only | split)

theorem bankFails_keeps {s0 s : State} (b : Nat) (h : Keeps s0 s) : Keeps s0 (bankFails b s) := by
  unfold bankFails
  repeat' (first | with_reducible assumption | with_reducible exact Keeps.refl _ | with_reducible apply wr_keeps | with_reducible apply fbkEvent_keeps | with_reducible apply fbkShow_keeps | with_reducible apply failRecord_keeps | with_reducible apply writeRedirect_keeps | with_reducible apply muteEnter_keeps | with_reducible apply fbkMod_keeps | with_reducible apply keeps_ite | simp only [keeps_mk_iff] | intro _ | dsimp only | split)

theorem execBankControllerFault_keeps {s0 s : State} (b : Nat) (h : Keeps s0 s) : KeepsR s0 (execBankControllerFault b s) := by
  unfold execBankControllerFault
  repeat' (first | with_reducible assumption | with_reducible exact Keeps.refl _ | with_reducible apply bankFails_keeps | with_reducible apply keepsR_next | with_reducible apply keeps_ite | with_reducible apply keepsR_ite | intro _ | dsimp only | split)

theorem pldmRecord_keeps {s0 s : State} (w : FbkWrite) (h : Keeps s0 s) : Keeps s0 (pldmRecord w s) := by
  unfold pldmRecord
  repeat' (first | with_reducible assumption | with_reducible exact Keeps.refl _ | with_reducible apply pldmPush_keeps | with_reducible apply keeps_ite | intro _ | dsimp only | split)

theorem latchSlot_keeps {s0 s : State} (bank : Nat) (slot : Nat) (h : Keeps s0 s) : Keeps s0 (latchSlot bank slot s) := by
  unfold latchSlot
  repeat' (first | with_reducible assumption | with_reducible exact Keeps.refl _ | with_reducible apply wr_keeps | with_reducible apply fbkMod_keeps | with_reducible apply keeps_iter | with_reducible apply keeps_ite | simp only [keeps_mk_iff] | intro _ | dsimp only | split)

theorem latchDue_keeps {s0 s : State}  (h : Keeps s0 s) : Keeps s0 (latchDue s) := by
  unfold latchDue
  repeat' (first | with_reducible assumption | with_reducible exact Keeps.refl _ | with_reducible apply latchSlot_keeps | with_reducible apply keeps_ite | intro _ | dsimp only | split)

theorem writeDone_keeps {s0 s : State} (w : FbkWrite) (h : Keeps s0 s) : Keeps s0 (writeDone w s) := by
  unfold writeDone
  repeat' (first | with_reducible assumption | with_reducible exact Keeps.refl _ | with_reducible apply bump_keeps | with_reducible apply countLife_keeps | with_reducible apply fbkEvent_keeps | with_reducible apply slotPut_keeps | with_reducible apply dualEnd_keeps | with_reducible apply pldmRecord_keeps | with_reducible apply fbkMod_keeps | with_reducible apply keeps_ite | simp only [keeps_mk_iff] | (simp only [List.length_map, List.length_drop, List.length_nil]; omega) | intro _ | dsimp only | split)

theorem execRecordCommit_keeps {s0 s : State} (ok : Bool) (h : Keeps s0 s) : KeepsR s0 (execRecordCommit ok s) := by
  unfold execRecordCommit
  repeat' (first | with_reducible assumption | with_reducible exact Keeps.refl _ | with_reducible apply bump_keeps | with_reducible apply countLife_keeps | with_reducible apply fbkShow_keeps | with_reducible apply writeDone_keeps | with_reducible apply bankFails_keeps | with_reducible apply latchDue_keeps | with_reducible apply fbkMod_keeps | with_reducible apply keepsR_next | with_reducible apply keeps_ite | with_reducible apply keepsR_ite | simp only [keeps_mk_iff] | intro _ | dsimp only | split)

theorem windowOpen_keeps {s0 s : State}  (h : Keeps s0 s) : Keeps s0 (windowOpen s) := by
  unfold windowOpen
  repeat' (first | with_reducible assumption | with_reducible exact Keeps.refl _ | with_reducible apply fbkMod_keeps | with_reducible apply keeps_ite | simp only [keeps_mk_iff] | intro _ | dsimp only | split)

theorem execCommitWindowEnd_keeps {s0 s : State}  (h : Keeps s0 s) : KeepsR s0 (execCommitWindowEnd s) := by
  unfold execCommitWindowEnd
  repeat' (first | with_reducible assumption | with_reducible exact Keeps.refl _ | with_reducible apply fbkMod_keeps | with_reducible apply keepsR_next | with_reducible apply keeps_ite | with_reducible apply keepsR_ite | simp only [keeps_mk_iff] | intro _ | dsimp only | split)

theorem calHold_keeps {s0 s : State} (run : Bool) (h : Keeps s0 s) : Keeps s0 (calHold run s) := by
  unfold calHold
  repeat' (first | with_reducible assumption | with_reducible exact Keeps.refl _ | with_reducible apply fbkMod_keeps | with_reducible apply keeps_ite | simp only [keeps_mk_iff] | intro _ | dsimp only | split)

theorem timeRecord_keeps {s0 s : State} (prev : Nat) (reason : Nat) (h : Keeps s0 s) : Keeps s0 (timeRecord prev reason s) := by
  unfold timeRecord
  repeat' (first | with_reducible assumption | with_reducible exact Keeps.refl _ | with_reducible apply flockEvent_keeps | with_reducible apply keeps_ite | intro _ | dsimp only | split)

theorem calSet_keeps {s0 s : State} (sec : Nat) (h : Keeps s0 s) : Keeps s0 (calSet sec s) := by
  unfold calSet
  repeat' (first | with_reducible assumption | with_reducible exact Keeps.refl _ | with_reducible apply timeRecord_keeps | with_reducible apply fbkMod_keeps | with_reducible apply keeps_ite | simp only [keeps_mk_iff] | intro _ | dsimp only | split)

theorem execFbkCalset_keeps {s0 s : State} (data : Word) (h : Keeps s0 s) : KeepsR s0 (execFbkCalset data s) := by
  unfold execFbkCalset
  repeat' (first | with_reducible assumption | with_reducible exact Keeps.refl _ | with_reducible apply calSet_keeps | with_reducible apply keepsR_next | with_reducible apply keeps_ite | with_reducible apply keepsR_ite | intro _ | dsimp only | split)

theorem calRead_keeps {s0 s : State}  (h : Keeps s0 s) : Keeps s0 (calRead s) := by
  unfold calRead
  repeat' (first | with_reducible assumption | with_reducible exact Keeps.refl _ | with_reducible apply wr_keeps | with_reducible apply keeps_ite | intro _ | dsimp only | split)

theorem execFbkCalRead_keeps {s0 s : State}  (h : Keeps s0 s) : KeepsR s0 (execFbkCalRead s) := by
  unfold execFbkCalRead
  repeat' (first | with_reducible assumption | with_reducible exact Keeps.refl _ | with_reducible apply calRead_keeps | with_reducible apply keepsR_next | with_reducible apply keeps_ite | with_reducible apply keepsR_ite | intro _ | dsimp only | split)

theorem timeTick_keeps {s0 s : State}  (h : Keeps s0 s) : Keeps s0 (timeTick s) := by
  unfold timeTick
  repeat' (first | with_reducible assumption | with_reducible exact Keeps.refl _ | with_reducible apply timeRecord_keeps | with_reducible apply keeps_ite | intro _ | dsimp only | split)

theorem execFbkRselWrite_keeps {s0 s : State} (data : Word) (h : Keeps s0 s) : KeepsR s0 (execFbkRselWrite data s) := by
  unfold execFbkRselWrite
  repeat' (first | with_reducible assumption | with_reducible exact Keeps.refl _ | with_reducible apply wr_keeps | with_reducible apply latchSlot_keeps | with_reducible apply fbkMod_keeps | with_reducible apply keepsR_next | with_reducible apply keeps_ite | with_reducible apply keepsR_ite | simp only [keeps_mk_iff] | intro _ | dsimp only | split)

theorem execFbkFind_keeps {s0 s : State} (data : Word) (h : Keeps s0 s) : KeepsR s0 (execFbkFind data s) := by
  unfold execFbkFind
  repeat' (first | with_reducible assumption | with_reducible exact Keeps.refl _ | with_reducible apply wr_keeps | with_reducible apply latchSlot_keeps | with_reducible apply keepsR_next | with_reducible apply keeps_ite | with_reducible apply keepsR_ite | intro _ | dsimp only | split)

theorem lifeAdd_keeps {s0 s : State} (i : Nat) (n : Nat) (h : Keeps s0 s) : Keeps s0 (lifeAdd i n s) := by
  unfold lifeAdd
  repeat' (first | with_reducible assumption | with_reducible exact Keeps.refl _ | with_reducible apply wr_keeps | with_reducible apply keeps_ite | intro _ | dsimp only | split)

theorem counterUpdate_keeps {s0 s : State} (l : Nat) (h : Keeps s0 s) : Keeps s0 (counterUpdate l s) := by
  unfold counterUpdate
  repeat' (first | with_reducible assumption | with_reducible exact Keeps.refl _ | with_reducible apply wr_keeps | with_reducible apply lifeAdd_keeps | with_reducible apply fbkMod_keeps | with_reducible apply keeps_foldl | with_reducible apply keeps_foldl_snd | with_reducible apply keeps_foldl_fst | with_reducible apply keeps_ite_snd | with_reducible apply keeps_iter | with_reducible apply keeps_ite | simp only [keeps_mk_iff] | intro _ | dsimp only | split)

theorem snapStart_keeps {s0 s : State}  (h : Keeps s0 s) : Keeps s0 (snapStart s) := by
  unfold snapStart
  repeat' (first | with_reducible assumption | with_reducible exact Keeps.refl _ | with_reducible apply wr_keeps | with_reducible apply fbkMod_keeps | with_reducible apply keeps_ite | simp only [keeps_mk_iff] | intro _ | dsimp only | split)

theorem snapTick_keeps {s0 s : State}  (h : Keeps s0 s) : Keeps s0 (snapTick s) := by
  unfold snapTick
  repeat' (first | with_reducible assumption | with_reducible exact Keeps.refl _ | with_reducible apply snapStart_keeps | with_reducible apply fbkMod_keeps | with_reducible apply keeps_ite | simp only [keeps_mk_iff] | intro _ | dsimp only | split)

theorem scanCounters_keeps {s0 s : State} (vs : List (Nat × List Nat)) (h : Keeps s0 s) : Keeps s0 (scanCounters vs s) := by
  unfold scanCounters
  repeat' (first | with_reducible assumption | with_reducible exact Keeps.refl _ | with_reducible apply wr_keeps | with_reducible apply keeps_foldl | with_reducible apply keeps_foldl_snd | with_reducible apply keeps_foldl_fst | with_reducible apply keeps_ite_snd | with_reducible apply keeps_ite | intro _ | dsimp only | split)

theorem scanCull_keeps {s0 s : State} (vs : List (Nat × List Nat)) (h : Keeps s0 s) : Keeps s0 (scanCull vs s) := by
  unfold scanCull
  repeat' (first | with_reducible assumption | with_reducible exact Keeps.refl _ | with_reducible apply wr_keeps | with_reducible apply wrW_keeps | with_reducible apply cullPlot_keeps | with_reducible apply keeps_foldl | with_reducible apply keeps_foldl_snd | with_reducible apply keeps_foldl_fst | with_reducible apply keeps_ite_snd | with_reducible apply keeps_iter | with_reducible apply keeps_ite | intro _ | dsimp only | split)

theorem fbkScan_keeps {s0 s : State}  (h : Keeps s0 s) : Keeps s0 (fbkScan s) := by
  unfold fbkScan
  repeat' (first | with_reducible assumption | with_reducible exact Keeps.refl _ | with_reducible apply wr_keeps | with_reducible apply flockEvent_keeps | with_reducible apply scanCull_keeps | with_reducible apply lifeAdd_keeps | with_reducible apply timeRecord_keeps | with_reducible apply scanCounters_keeps | with_reducible apply fbkMod_keeps | with_reducible apply keeps_foldl | with_reducible apply keeps_foldl_snd | with_reducible apply keeps_foldl_fst | with_reducible apply keeps_ite_snd | with_reducible apply keeps_ite | simp only [keeps_mk_iff] | intro _ | dsimp only | split)

end Sys2Proof.Machine
end

