-- ==== Sys2Proof/Laws/KeepsRation.lean ====
section
/-! SUPPORT. What the operations of Machine/Ration.lean keep (Laws/Keeps.lean). -/

namespace Sys2Proof.Machine

set_option linter.unusedTactic false
set_option linter.unreachableTactic false
set_option linter.unusedSimpArgs false

theorem ratMod_keeps {s0 s : State} (g : Ration → Ration) (h : Keeps s0 s) : Keeps s0 (ratMod g s) := by
  unfold ratMod
  repeat' (first | with_reducible assumption | with_reducible exact Keeps.refl _ | with_reducible apply keeps_ite | simp only [keeps_mk_iff] | intro _ | dsimp only | split)

theorem rtnSet_keeps {s0 s : State} (k : Nat) (h : Keeps s0 s) : Keeps s0 (rtnSet k s) := by
  unfold rtnSet
  repeat' (first | with_reducible assumption | with_reducible exact Keeps.refl _ | with_reducible apply wr_keeps | with_reducible apply ratMod_keeps | with_reducible apply keeps_ite | simp only [keeps_mk_iff] | intro _ | dsimp only | split)

theorem rtnRecord_keeps {s0 s : State}  (h : Keeps s0 s) : Keeps s0 (rtnRecord s) := by
  unfold rtnRecord
  repeat' (first | with_reducible assumption | with_reducible exact Keeps.refl _ | with_reducible apply pfEvent_keeps | with_reducible apply keeps_ite | intro _ | dsimp only | split)

theorem rtnFlock_keeps {s0 s : State} (k : Nat) (h : Keeps s0 s) : Keeps s0 (rtnFlock k s) := by
  unfold rtnFlock
  repeat' (first | with_reducible assumption | with_reducible exact Keeps.refl _ | with_reducible apply flockEvent_keeps | with_reducible apply keeps_ite | intro _ | dsimp only | split)

theorem ageDie_keeps {s0 s : State} (us : Nat) (d : Nat) (mon : Bool) (h : Keeps s0 s) : Keeps s0 (ageDie us d mon s) := by
  unfold ageDie
  repeat' (first | with_reducible assumption | with_reducible exact Keeps.refl _ | with_reducible apply wr_keeps | with_reducible apply ratMod_keeps | with_reducible apply keeps_ite | simp only [keeps_mk_iff] | intro _ | dsimp only | split)

theorem closeBooks_keeps {s0 s : State}  (h : Keeps s0 s) : Keeps s0 (closeBooks s) := by
  unfold closeBooks
  repeat' (first | with_reducible assumption | with_reducible exact Keeps.refl _ | with_reducible apply wr_keeps | with_reducible apply ratMod_keeps | with_reducible apply keeps_foldl | with_reducible apply keeps_foldl_snd | with_reducible apply keeps_foldl_fst | with_reducible apply keeps_ite_snd | with_reducible apply keeps_iter | with_reducible apply keeps_ite | simp only [keeps_mk_iff] | intro _ | dsimp only | split)

theorem budgets_keeps {s0 s : State} (gEff : Nat) (l : Nat) (bsys : Nat) (h : Keeps s0 s) : Keeps s0 (budgets gEff l bsys s) := by
  unfold budgets
  repeat' (first | with_reducible assumption | with_reducible exact Keeps.refl _ | with_reducible apply wr_keeps | with_reducible apply rtnSet_keeps | with_reducible apply keeps_foldl | with_reducible apply keeps_foldl_snd | with_reducible apply keeps_foldl_fst | with_reducible apply keeps_ite_snd | with_reducible apply keeps_iter | with_reducible apply keeps_ite | intro _ | dsimp only | split)

theorem limitsUpdate_keeps {s0 s : State} (us : Nat) (mon : Nat) (h : Keeps s0 s) : Keeps s0 (limitsUpdate us mon s) := by
  unfold limitsUpdate
  repeat' (first | with_reducible assumption | with_reducible exact Keeps.refl _ | with_reducible apply wr_keeps | with_reducible apply rtnRecord_keeps | with_reducible apply ageDie_keeps | with_reducible apply rtnSet_keeps | with_reducible apply rtnFlock_keeps | with_reducible apply keeps_iter | with_reducible apply keeps_ite | intro _ | dsimp only | split)

theorem floorCheck_keeps {s0 s : State}  (h : Keeps s0 s) : Keeps s0 (floorCheck s) := by
  unfold floorCheck
  repeat' (first | with_reducible assumption | with_reducible exact Keeps.refl _ | with_reducible apply wr_keeps | with_reducible apply rtnRecord_keeps | with_reducible apply rtnSet_keeps | with_reducible apply rtnFlock_keeps | with_reducible apply keeps_ite | intro _ | dsimp only | split)

theorem heldDrawSet_keeps {s0 s : State} (units : Nat) (h : Keeps s0 s) : Keeps s0 (heldDrawSet units s) := by
  unfold heldDrawSet
  repeat' (first | with_reducible assumption | with_reducible exact Keeps.refl _ | with_reducible apply wr_keeps | with_reducible apply floorCheck_keeps | with_reducible apply keeps_ite | intro _ | dsimp only | split)

theorem clockStep_keeps {s0 s : State} (h : Keeps s0 s) : Keeps s0 (clockStep s) := by
  unfold clockStep
  repeat' (first | with_reducible assumption | with_reducible exact Keeps.refl _ | with_reducible apply wr_keeps | with_reducible apply ratMod_keeps | with_reducible apply keeps_iter | with_reducible apply keeps_ite | simp only [keeps_mk_iff] | intro _ | dsimp only | split)

theorem clearHolds_keeps {s0 s : State}  (h : Keeps s0 s) : Keeps s0 (clearHolds s) := by
  unfold clearHolds
  repeat' (first | with_reducible assumption | with_reducible exact Keeps.refl _ | with_reducible apply meshMod_keeps | with_reducible apply ratMod_keeps | with_reducible apply keeps_foldl | with_reducible apply keeps_foldl_snd | with_reducible apply keeps_foldl_fst | with_reducible apply keeps_ite_snd | with_reducible apply keeps_ite | simp only [keeps_mk_iff] | intro _ | dsimp only | split)

theorem accounting_keeps {s0 s : State} (l : Nat) (mon : Nat) (h : Keeps s0 s) : Keeps s0 (accounting l mon s) := by
  unfold accounting
  repeat' (first | with_reducible assumption | with_reducible exact Keeps.refl _ | with_reducible apply wr_keeps | with_reducible apply closeBooks_keeps | with_reducible apply ratMod_keeps | with_reducible apply limitsUpdate_keeps | with_reducible apply floorCheck_keeps | with_reducible apply clearHolds_keeps | with_reducible apply budgets_keeps | with_reducible apply schedule_keeps | with_reducible apply keeps_ite_snd | with_reducible apply keeps_ite | simp only [keeps_mk_iff] | intro _ | dsimp only | split)

theorem ratHold_keeps {s0 s : State} (n : Nat) (h : Keeps s0 s) : Keeps s0 (ratHold n s) := by
  unfold ratHold
  repeat' (first | with_reducible assumption | with_reducible exact Keeps.refl _ | with_reducible apply meshMod_keeps | with_reducible apply keeps_ite | simp only [keeps_mk_iff] | intro _ | dsimp only | split)

theorem takeSample_keeps {s0 s : State} (spent : Nat) (outside : Nat) (pads : List Nat) (dyn : List Nat) (leak : List Nat) (run : List Nat) (hold : List Nat) (tj : List Nat) (tjs : List Nat) (tjm : List Nat) (h : Keeps s0 s) : Keeps s0 (takeSample spent outside pads dyn leak run hold tj tjs tjm s) := by
  unfold takeSample
  repeat' (first | with_reducible assumption | with_reducible exact Keeps.refl _ | with_reducible apply ratMod_keeps | with_reducible apply keeps_ite | simp only [keeps_mk_iff] | intro _ | dsimp only | split)

theorem junction_keeps {s0 s : State}  (h : Keeps s0 s) : Keeps s0 (junction s) := by
  unfold junction
  repeat' (first | with_reducible assumption | with_reducible exact Keeps.refl _ | with_reducible apply wr_keeps | with_reducible apply rtnRecord_keeps | with_reducible apply ratMod_keeps | with_reducible apply rtnSet_keeps | with_reducible apply keeps_ite | simp only [keeps_mk_iff] | intro _ | dsimp only | split)

theorem execEnergySample_keeps {s0 s : State} (t : Nat) (spent : Nat) (outside : Nat) (pads : List Nat) (peak : List Nat) (held : List Nat) (dyn : List Nat) (leak : List Nat) (run : List Nat) (hold : List Nat) (tj : List Nat) (tjs : List Nat) (tjm : List Nat) (h : Keeps s0 s) : KeepsR s0 (execEnergySample t spent outside pads peak held dyn leak run hold tj tjs tjm s) := by
  unfold execEnergySample
  repeat' (first | with_reducible assumption | with_reducible exact Keeps.refl _ | with_reducible apply bump_keeps | with_reducible apply atTime_keeps | with_reducible apply meshMod_keeps | with_reducible apply ratMod_keeps | with_reducible apply rtnSet_keeps | with_reducible apply ratHold_keeps | with_reducible apply junction_keeps | with_reducible apply takeSample_keeps | with_reducible apply keeps_foldl | with_reducible apply keeps_foldl_snd | with_reducible apply keeps_foldl_fst | with_reducible apply keeps_ite_snd | with_reducible apply keepsR_next | with_reducible apply keeps_ite | with_reducible apply keepsR_ite | simp only [keeps_mk_iff] | intro _ | dsimp only | split)

theorem execGrantStale_keeps {s0 s : State}  (h : Keeps s0 s) : KeepsR s0 (execGrantStale s) := by
  unfold execGrantStale
  repeat' (first | with_reducible assumption | with_reducible exact Keeps.refl _ | with_reducible apply rtnSet_keeps | with_reducible apply keepsR_next | with_reducible apply keeps_ite | with_reducible apply keepsR_ite | intro _ | dsimp only | split)

theorem execInletStale_keeps {s0 s : State}  (h : Keeps s0 s) : KeepsR s0 (execInletStale s) := by
  unfold execInletStale
  repeat' (first | with_reducible assumption | with_reducible exact Keeps.refl _ | with_reducible apply wr_keeps | with_reducible apply rtnSet_keeps | with_reducible apply keepsR_next | with_reducible apply keeps_ite | with_reducible apply keepsR_ite | intro _ | dsimp only | split)

theorem bellWrite_keeps {s0 s : State} (f : Fld) (i : Nat) (v : Nat) (h : Keeps s0 s) : Keeps s0 (bellWrite f i v s) := by
  unfold bellWrite
  repeat' (first | with_reducible assumption | with_reducible exact Keeps.refl _ | with_reducible apply bellWaits_keeps | with_reducible apply wr_keeps | with_reducible apply keeps_ite | simp only [keeps_mk_iff] | intro _ | dsimp only | split)

theorem grantWrite_keeps {s0 s : State} (v : Nat) (h : Keeps s0 s) : Keeps s0 (grantWrite v s) := by
  unfold grantWrite
  repeat' (first | with_reducible assumption | with_reducible exact Keeps.refl _ | with_reducible apply ratMod_keeps | with_reducible apply bellWrite_keeps | with_reducible apply keeps_ite | simp only [keeps_mk_iff] | intro _ | dsimp only | split)

theorem inletWrite_keeps {s0 s : State} (v : Nat) (h : Keeps s0 s) : Keeps s0 (inletWrite v s) := by
  unfold inletWrite
  repeat' (first | with_reducible assumption | with_reducible exact Keeps.refl _ | with_reducible apply wr_keeps | with_reducible apply ratMod_keeps | with_reducible apply keeps_ite | simp only [keeps_mk_iff] | intro _ | dsimp only | split)

theorem execGrant_keeps {s0 s : State} (v : Nat) (pec : Bool) (h : Keeps s0 s) : KeepsR s0 (execGrant v pec s) := by
  unfold execGrant
  repeat' (first | with_reducible assumption | with_reducible exact Keeps.refl _ | with_reducible apply bump_keeps | with_reducible apply grantWrite_keeps | with_reducible apply keepsR_next | with_reducible apply keeps_ite | with_reducible apply keepsR_ite | intro _ | dsimp only | split)

theorem execInlet_keeps {s0 s : State} (v : Nat) (pec : Bool) (h : Keeps s0 s) : KeepsR s0 (execInlet v pec s) := by
  unfold execInlet
  repeat' (first | with_reducible assumption | with_reducible exact Keeps.refl _ | with_reducible apply bump_keeps | with_reducible apply inletWrite_keeps | with_reducible apply keepsR_next | with_reducible apply keeps_ite | with_reducible apply keepsR_ite | intro _ | dsimp only | split)

theorem execSpent_keeps {s0 s : State}  (h : Keeps s0 s) : KeepsR s0 (execSpent s) := by
  unfold execSpent
  repeat' (first | with_reducible assumption | with_reducible exact Keeps.refl _ | with_reducible apply emit_keeps | with_reducible apply keepsR_next | with_reducible apply keeps_ite | with_reducible apply keepsR_ite | intro _ | dsimp only | split)

theorem execBell_keeps {s0 s : State}  (h : Keeps s0 s) : KeepsR s0 (execBell s) := by
  unfold execBell
  repeat' (first | with_reducible assumption | with_reducible exact Keeps.refl _ | with_reducible apply emit_keeps | with_reducible apply keepsR_next | with_reducible apply keeps_ite | with_reducible apply keepsR_ite | intro _ | dsimp only | split)

theorem execLimits_keeps {s0 s : State}  (h : Keeps s0 s) : KeepsR s0 (execLimits s) := by
  unfold execLimits
  repeat' (first | with_reducible assumption | with_reducible exact Keeps.refl _ | with_reducible apply emit_keeps | with_reducible apply keepsR_next | with_reducible apply keeps_ite | with_reducible apply keepsR_ite | intro _ | dsimp only | split)

theorem railStatus_keeps {s0 s : State} (r : Nat) (w : Nat) (h : Keeps s0 s) : Keeps s0 (railStatus r w s) := by
  unfold railStatus
  repeat' (first | with_reducible assumption | with_reducible exact Keeps.refl _ | with_reducible apply wr_keeps | with_reducible apply rtnRecord_keeps | with_reducible apply rtnSet_keeps | with_reducible apply keeps_ite | intro _ | dsimp only | split)

theorem railPin_keeps {s0 s : State} (r : Nat) (v : Nat) (h : Keeps s0 s) : Keeps s0 (railPin r v s) := by
  unfold railPin
  repeat' (first | with_reducible assumption | with_reducible exact Keeps.refl _ | with_reducible apply wr_keeps | with_reducible apply ratMod_keeps | with_reducible apply keeps_ite | simp only [keeps_mk_iff] | intro _ | dsimp only | split)

theorem execTelemetryCompare_keeps {s0 s : State}  (h : Keeps s0 s) : KeepsR s0 (execTelemetryCompare s) := by
  unfold execTelemetryCompare
  repeat' (first | with_reducible assumption | with_reducible exact Keeps.refl _ | with_reducible apply wr_keeps | with_reducible apply rtnRecord_keeps | with_reducible apply ratMod_keeps | with_reducible apply rtnSet_keeps | with_reducible apply keepsR_next | with_reducible apply keeps_ite | with_reducible apply keepsR_ite | simp only [keeps_mk_iff] | intro _ | dsimp only | split)

end Sys2Proof.Machine
end

