-- ==== Sys2Proof/Laws/KeepsPaddocks.lean ====
section
/-! SUPPORT. What the operations of Machine/Paddocks.lean keep (Laws/Keeps.lean). -/

namespace Sys2Proof.Machine

set_option linter.unusedTactic false
set_option linter.unreachableTactic false
set_option linter.unusedSimpArgs false

theorem fnReset_keeps {s0 s : State} (f : Nat) (h : Keeps s0 s) : Keeps s0 (fnReset f s) := by
  unfold fnReset
  repeat' (first | with_reducible assumption | with_reducible exact Keeps.refl _ | with_reducible apply clearRegs_keeps | with_reducible apply entGone_keeps | with_reducible apply bufferBack_keeps | with_reducible apply keeps_foldl | with_reducible apply keeps_foldl_snd | with_reducible apply keeps_foldl_fst | with_reducible apply keeps_ite_snd | with_reducible apply keeps_ite | simp only [keeps_mk_iff] | intro _ | dsimp only | split)

theorem flrReset_keeps {s0 s : State} (n : Nat) (h : Keeps s0 s) : Keeps s0 (flrReset n s) := by
  unfold flrReset
  repeat' (first | with_reducible assumption | with_reducible exact Keeps.refl _ | with_reducible apply fnMod_keeps | with_reducible apply clearRegs_keeps | with_reducible apply fnReset_keeps | with_reducible apply keeps_ite | simp only [keeps_mk_iff] | intro _ | dsimp only | split)

theorem pfFlrDone_keeps {s0 s : State}  (h : Keeps s0 s) : Keeps s0 (pfFlrDone s) := by
  unfold pfFlrDone
  repeat' (first | with_reducible assumption | with_reducible exact Keeps.refl _ | with_reducible apply fnMod_keeps | with_reducible apply step_keeps | with_reducible apply keeps_ite | simp only [keeps_mk_iff] | intro _ | dsimp only | split)

theorem gatesFree_keeps {s0 s : State} (n : Nat) (h : Keeps s0 s) : Keeps s0 (gatesFree n s) := by
  unfold gatesFree
  repeat' (first | with_reducible assumption | with_reducible exact Keeps.refl _ | with_reducible apply wr_keeps | with_reducible apply keeps_iter | with_reducible apply keeps_ite | intro _ | dsimp only | split)

theorem pdkUnschedule_keeps {s0 s : State} (n : Nat) (h : Keeps s0 s) : Keeps s0 (pdkUnschedule n s) := by
  unfold pdkUnschedule
  repeat' (first | with_reducible assumption | with_reducible exact Keeps.refl _ | with_reducible apply unschedule_keeps | with_reducible apply keeps_foldl | with_reducible apply keeps_foldl_snd | with_reducible apply keeps_foldl_fst | with_reducible apply keeps_ite_snd | with_reducible apply keeps_ite | intro _ | dsimp only | split)

theorem dropRoot_keeps {s0 s : State} (n : Nat) (h : Keeps s0 s) : Keeps s0 (dropRoot n s) := by
  unfold dropRoot
  repeat' (first | with_reducible assumption | with_reducible exact Keeps.refl _ | with_reducible apply keeps_ite | simp only [keeps_mk_iff] | intro _ | dsimp only | split)

theorem pairEnds_keeps {s0 s : State} (n : Nat) (h : Keeps s0 s) : Keeps s0 (pairEnds n s) := by
  unfold pairEnds
  repeat' (first | with_reducible assumption | with_reducible exact Keeps.refl _ | with_reducible apply wr_keeps | with_reducible apply standbyFails_keeps | with_reducible apply failoverNotice_keeps | with_reducible apply keeps_ite | simp only [keeps_mk_iff] | intro _ | dsimp only | split)

theorem pdkFree_keeps {s0 s : State} (n : Nat) (h : Keeps s0 s) : Keeps s0 (pdkFree n s) := by
  unfold pdkFree
  repeat' (first | with_reducible assumption | with_reducible exact Keeps.refl _ | with_reducible apply wr_keeps | with_reducible apply clearRegs_keeps | with_reducible apply dropHeld_keeps | with_reducible apply dropHostWork_keeps | with_reducible apply reclaimPaddock_keeps | with_reducible apply foldDelete_keeps | with_reducible apply emptyLinks_keeps | with_reducible apply coreResetOp_keeps | with_reducible apply routesDelete_keeps | with_reducible apply dropWhistle_keeps | with_reducible apply dropReads_keeps | with_reducible apply resetTally_keeps | with_reducible apply resetCtxs_keeps | with_reducible apply pdkUnschedule_keeps | with_reducible apply dropRoot_keeps | with_reducible apply pairEnds_keeps | with_reducible apply gatesFree_keeps | with_reducible apply fnReset_keeps | with_reducible apply keeps_foldl | with_reducible apply keeps_foldl_snd | with_reducible apply keeps_foldl_fst | with_reducible apply keeps_ite_snd | with_reducible apply keeps_ite | simp only [keeps_mk_iff] | intro _ | dsimp only | split)

theorem pdkLost_keeps {s0 s : State} (n : Nat) (h : Keeps s0 s) : Keeps s0 (pdkLost n s) := by
  unfold pdkLost
  repeat' (first | with_reducible assumption | with_reducible exact Keeps.refl _ | with_reducible apply regatherStart_keeps | with_reducible apply pdkFree_keeps | with_reducible apply fnReset_keeps | with_reducible apply step_keeps | with_reducible apply keeps_ite | intro _ | dsimp only | split)

theorem cmdErr_keeps {s0 s : State} (n : Nat) (e : Nat) (h : Keeps s0 s) : Keeps s0 (cmdErr n e s) := by
  unfold cmdErr
  repeat' (first | with_reducible assumption | with_reducible exact Keeps.refl _ | with_reducible apply wr_keeps | with_reducible apply keeps_ite | intro _ | dsimp only | split)

theorem cmdTaken_keeps {s0 s : State} (n : Nat) (op : Nat) (h : Keeps s0 s) : Keeps s0 (cmdTaken n op s) := by
  unfold cmdTaken
  repeat' (first | with_reducible assumption | with_reducible exact Keeps.refl _ | with_reducible apply wr_keeps | with_reducible apply pdkMod_keeps | with_reducible apply cmdErr_keeps | with_reducible apply keeps_ite | simp only [keeps_mk_iff] | intro _ | dsimp only | split)

theorem pdkCreate_keeps {s0 s : State} (n : Nat) (h : Keeps s0 s) : Keeps s0 (pdkCreate n s) := by
  unfold pdkCreate
  repeat' (first | with_reducible assumption | with_reducible exact Keeps.refl _ | with_reducible apply cmdTaken_keeps | with_reducible apply cmdErr_keeps | with_reducible apply keeps_ite | intro _ | dsimp only | split)

theorem pdkDelete_keeps {s0 s : State} (n : Nat) (h : Keeps s0 s) : Keeps s0 (pdkDelete n s) := by
  unfold pdkDelete
  repeat' (first | with_reducible assumption | with_reducible exact Keeps.refl _ | with_reducible apply pdkLost_keeps | with_reducible apply cmdTaken_keeps | with_reducible apply cmdErr_keeps | with_reducible apply keeps_ite | intro _ | dsimp only | split)

theorem pdkRegather_keeps {s0 s : State} (n : Nat) (h : Keeps s0 s) : Keeps s0 (pdkRegather n s) := by
  unfold pdkRegather
  repeat' (first | with_reducible assumption | with_reducible exact Keeps.refl _ | with_reducible apply regatherStart_keeps | with_reducible apply cmdErr_keeps | with_reducible apply keeps_ite | intro _ | dsimp only | split)

theorem pdkRun_keeps {s0 s : State} (n : Nat) (op : Nat) (h : Keeps s0 s) : Keeps s0 (pdkRun n op s) := by
  unfold pdkRun
  repeat' (first | with_reducible assumption | with_reducible exact Keeps.refl _ | with_reducible apply pdkCreate_keeps | with_reducible apply cmdErr_keeps | with_reducible apply pdkDelete_keeps | with_reducible apply pdkRegather_keeps | with_reducible apply keeps_ite | intro _ | dsimp only | split)

theorem pdkCommand_keeps {s0 s : State} (n : Nat) (op : Nat) (h : Keeps s0 s) : Keeps s0 (pdkCommand n op s) := by
  unfold pdkCommand
  repeat' (first | with_reducible assumption | with_reducible exact Keeps.refl _ | with_reducible apply wr_keeps | with_reducible apply holdCmd_keeps | with_reducible apply cmdErr_keeps | with_reducible apply pdkRun_keeps | with_reducible apply keeps_ite | intro _ | dsimp only | split)

theorem execPdkCreate_keeps {s0 s : State} (n : Nat) (h : Keeps s0 s) : KeepsR s0 (execPdkCreate n s) := by
  unfold execPdkCreate
  repeat' (first | with_reducible assumption | with_reducible exact Keeps.refl _ | with_reducible apply pdkCommand_keeps | with_reducible apply keepsR_next | with_reducible apply keeps_ite | with_reducible apply keepsR_ite | intro _ | dsimp only | split)

theorem execPdkDelete_keeps {s0 s : State} (n : Nat) (h : Keeps s0 s) : KeepsR s0 (execPdkDelete n s) := by
  unfold execPdkDelete
  repeat' (first | with_reducible assumption | with_reducible exact Keeps.refl _ | with_reducible apply pdkCommand_keeps | with_reducible apply keepsR_next | with_reducible apply keeps_ite | with_reducible apply keepsR_ite | intro _ | dsimp only | split)

theorem execPdkRegather_keeps {s0 s : State} (n : Nat) (h : Keeps s0 s) : KeepsR s0 (execPdkRegather n s) := by
  unfold execPdkRegather
  repeat' (first | with_reducible assumption | with_reducible exact Keeps.refl _ | with_reducible apply pdkCommand_keeps | with_reducible apply keepsR_next | with_reducible apply keeps_ite | with_reducible apply keepsR_ite | intro _ | dsimp only | split)

theorem memmapLock_keeps {s0 s : State}  (h : Keeps s0 s) : Keeps s0 (memmapLock s) := by
  unfold memmapLock
  repeat' (first | with_reducible assumption | with_reducible exact Keeps.refl _ | with_reducible apply keeps_ite | simp only [keeps_mk_iff] | intro _ | dsimp only | split)

theorem createEnd_keeps {s0 s : State} (n : Nat) (h : Keeps s0 s) : Keeps s0 (createEnd n s) := by
  unfold createEnd
  repeat' (first | with_reducible assumption | with_reducible exact Keeps.refl _ | with_reducible apply wr_keeps | with_reducible apply emptyLinks_keeps | with_reducible apply setFences_keeps | with_reducible apply coreResetOp_keeps | with_reducible apply memmapLock_keeps | with_reducible apply keeps_foldl | with_reducible apply keeps_foldl_snd | with_reducible apply keeps_foldl_fst | with_reducible apply keeps_ite_snd | with_reducible apply keeps_ite | simp only [keeps_mk_iff] | intro _ | dsimp only | split)

theorem execPdkCommandDone_keeps {s0 s : State} (n : Nat) (h : Keeps s0 s) : KeepsR s0 (execPdkCommandDone n s) := by
  unfold execPdkCommandDone
  repeat' (first | with_reducible assumption | with_reducible exact Keeps.refl _ | with_reducible apply wr_keeps | with_reducible apply pdkMod_keeps | with_reducible apply pdkLost_keeps | with_reducible apply createEnd_keeps | with_reducible apply pdkFree_keeps | with_reducible apply cmdErr_keeps | with_reducible apply keepsR_next | with_reducible apply keeps_ite | with_reducible apply keepsR_ite | simp only [keeps_mk_iff] | intro _ | dsimp only | split)

theorem sriovSet_keeps {s0 s : State} (enable : Bool) (num : Nat) (h : Keeps s0 s) : Keeps s0 (sriovSet enable num s) := by
  unfold sriovSet
  repeat' (first | with_reducible assumption | with_reducible exact Keeps.refl _ | with_reducible apply pdkLost_keeps | with_reducible apply keeps_foldl | with_reducible apply keeps_foldl_snd | with_reducible apply keeps_foldl_fst | with_reducible apply keeps_ite_snd | with_reducible apply keeps_ite | simp only [keeps_mk_iff] | intro _ | dsimp only | split)

theorem execSriovVfEnableChange_keeps {s0 s : State} (enable : Bool) (num : Nat) (h : Keeps s0 s) : KeepsR s0 (execSriovVfEnableChange enable num s) := by
  unfold execSriovVfEnableChange
  repeat' (first | with_reducible assumption | with_reducible exact Keeps.refl _ | with_reducible apply sriovSet_keeps | with_reducible apply keepsR_next | with_reducible apply keeps_ite | with_reducible apply keepsR_ite | intro _ | dsimp only | split)

theorem ringsStop_keeps {s0 s : State} (f : Nat) (h : Keeps s0 s) : Keeps s0 (ringsStop f s) := by
  unfold ringsStop
  repeat' (first | with_reducible assumption | with_reducible exact Keeps.refl _ | with_reducible apply wr_keeps | with_reducible apply keeps_iter | with_reducible apply keeps_ite | intro _ | dsimp only | split)

theorem fenceRecord_keeps {s0 s : State} (n : Nat) (reads : Nat) (timedOut : Bool) (h : Keeps s0 s) : Keeps s0 (fenceRecord n reads timedOut s) := by
  unfold fenceRecord
  repeat' (first | with_reducible assumption | with_reducible exact Keeps.refl _ | with_reducible apply fnMod_keeps | with_reducible apply wr_keeps | with_reducible apply pdkMod_keeps | with_reducible apply wrW_keeps | with_reducible apply setPba_keeps | with_reducible apply pfEvent_keeps | with_reducible apply ringsStop_keeps | with_reducible apply keeps_iter | with_reducible apply keeps_ite | simp only [keeps_mk_iff] | intro _ | dsimp only | split)

theorem execRegatherDrainEnd_keeps {s0 s : State} (n : Nat) (t : Nat) (h : Keeps s0 s) : KeepsR s0 (execRegatherDrainEnd n t s) := by
  unfold execRegatherDrainEnd
  repeat' (first | with_reducible assumption | with_reducible exact Keeps.refl _ | with_reducible apply atTime_keeps | with_reducible apply pdkMod_keeps | with_reducible apply fenceRecord_keeps | with_reducible apply scheduleNext_keeps | with_reducible apply gatesDrained_keeps | with_reducible apply dropReads_keeps | with_reducible apply keepsR_next | with_reducible apply keeps_ite | with_reducible apply keepsR_ite | with_reducible apply keeps_ite_st | simp only [keeps_mk_iff] | with_reducible apply wr_keeps | intro _ | dsimp only | split)

theorem traceClear_keeps {s0 s : State} (p : Nat) (h : Keeps s0 s) : Keeps s0 (traceClear p s) := by
  unfold traceClear
  repeat' (first | with_reducible assumption | with_reducible exact Keeps.refl _ | with_reducible apply clearRegs_keeps | with_reducible apply clearReg_keeps | with_reducible apply bump_keeps | with_reducible apply trShow_keeps | with_reducible apply coreMod_keeps | with_reducible apply wr_keeps | with_reducible apply keeps_foldl | with_reducible apply keeps_foldl_snd | with_reducible apply keeps_foldl_fst | with_reducible apply keeps_ite | simp only [keeps_mk_iff] | with_reducible apply keeps_ite_snd | intro _ | dsimp only | split)

theorem coreClear_keeps {s0 s : State} (p : Nat) (h : Keeps s0 s) : Keeps s0 (coreClear p s) := by
  unfold coreClear
  repeat' (first | with_reducible assumption | with_reducible exact Keeps.refl _ | with_reducible apply clearPrograms_keeps | with_reducible apply setSuspect_keeps | with_reducible apply setTag_keeps | with_reducible apply wr_keeps | with_reducible apply clearRegs_keeps | with_reducible apply clearTaskRegs_keeps | with_reducible apply coreMod_keeps | with_reducible apply clearReg_keeps | with_reducible apply emptyWhistle_keeps | with_reducible apply cnClear_keeps | with_reducible apply traceClear_keeps | with_reducible apply keeps_iter | with_reducible apply keeps_ite | simp only [keeps_mk_iff] | intro _ | dsimp only | split)

theorem crookClear_keeps {s0 s : State} (n : Nat) (h : Keeps s0 s) : Keeps s0 (crookClear n s) := by
  unfold crookClear
  repeat' (first | with_reducible assumption | with_reducible exact Keeps.refl _ | with_reducible apply wr_keeps | with_reducible apply pdkMod_keeps | with_reducible apply sinkMod_keeps | with_reducible apply keeps_ite | simp only [keeps_mk_iff] | intro _ | dsimp only | split)

theorem fixedAgain_keeps {s0 s : State} (n : Nat) (h : Keeps s0 s) : Keeps s0 (fixedAgain n s) := by
  unfold fixedAgain
  repeat' (first | with_reducible assumption | with_reducible exact Keeps.refl _ | with_reducible apply keeps_ite | simp only [keeps_mk_iff] | intro _ | dsimp only | split)

theorem regatherClear_keeps {s0 s : State} (n : Nat) (h : Keeps s0 s) : Keeps s0 (regatherClear n s) := by
  unfold regatherClear
  repeat' (first | with_reducible assumption | with_reducible exact Keeps.refl _ | with_reducible apply meshMod_keeps | with_reducible apply reclaimPaddock_keeps | with_reducible apply dropWhistle_keeps | with_reducible apply resetTally_keeps | with_reducible apply emptyMesh_keeps | with_reducible apply resetCtxs_keeps | with_reducible apply dropRoot_keeps | with_reducible apply coreClear_keeps | with_reducible apply fixedAgain_keeps | with_reducible apply crookClear_keeps | with_reducible apply keeps_foldl | with_reducible apply keeps_foldl_snd | with_reducible apply keeps_foldl_fst | with_reducible apply keeps_ite_snd | with_reducible apply keeps_ite | simp only [keeps_mk_iff] | intro _ | dsimp only | split)

theorem execRegatherClearDone_keeps {s0 s : State} (n : Nat) (h : Keeps s0 s) : KeepsR s0 (execRegatherClearDone n s) := by
  unfold execRegatherClearDone
  repeat' (first | with_reducible assumption | with_reducible exact Keeps.refl _ | with_reducible apply pdkMod_keeps | with_reducible apply scheduleNext_keeps | with_reducible apply repairCleared_keeps | with_reducible apply pfFlrDone_keeps | with_reducible apply flrReset_keeps | with_reducible apply pdkFree_keeps | with_reducible apply regatherClear_keeps | with_reducible apply step_keeps | with_reducible apply keepsR_next | with_reducible apply keeps_ite | with_reducible apply keepsR_ite | simp only [keeps_mk_iff] | intro _ | dsimp only | split)

theorem vfFlr_keeps {s0 s : State} (n : Nat) (h : Keeps s0 s) : Keeps s0 (vfFlr n s) := by
  unfold vfFlr
  repeat' (first | with_reducible assumption | with_reducible exact Keeps.refl _ | with_reducible apply fnMod_keeps | with_reducible apply wr_keeps | with_reducible apply regatherStart_keeps | with_reducible apply flrReset_keeps | with_reducible apply step_keeps | with_reducible apply keeps_ite | simp only [keeps_mk_iff] | intro _ | dsimp only | split)

theorem loadEntry_keeps {s0 s : State} (n : Nat) (h : Keeps s0 s) : Keeps s0 (loadEntry n s) := by
  unfold loadEntry
  repeat' (first | with_reducible assumption | with_reducible exact Keeps.refl _ | with_reducible apply pdkMod_keeps | with_reducible apply foldBegin_keeps | with_reducible apply reloadBegin_keeps | with_reducible apply strandAs_keeps | with_reducible apply step_keeps | with_reducible apply keeps_ite | simp only [keeps_mk_iff] | intro _ | dsimp only | split)

theorem startEntry_keeps {s0 s : State} (n : Nat) (h : Keeps s0 s) : Keeps s0 (startEntry n s) := by
  unfold startEntry
  repeat' (first | with_reducible assumption | with_reducible exact Keeps.refl _ | with_reducible apply failoverStart_keeps | with_reducible apply sectionStart_keeps | with_reducible apply keeps_ite | intro _ | dsimp only | split)

theorem swapEntry_keeps {s0 s : State} (n : Nat) (h : Keeps s0 s) : Keeps s0 (swapEntry n s) := by
  unfold swapEntry
  repeat' (first | with_reducible assumption | with_reducible exact Keeps.refl _ | with_reducible apply replayBegin_keeps | with_reducible apply scheduleNext_keeps | with_reducible apply foldMod_keeps | with_reducible apply swapTry_keeps | with_reducible apply pdkMod_keeps | with_reducible apply windowDeclare_keeps | with_reducible apply keeps_ite | simp only [keeps_mk_iff] | intro _ | dsimp only | split)

theorem restartEntry_keeps {s0 s : State} (n : Nat) (h : Keeps s0 s) : Keeps s0 (restartEntry n s) := by
  unfold restartEntry
  repeat' (first | with_reducible assumption | with_reducible exact Keeps.refl _ | with_reducible apply wr_keeps | with_reducible apply pdkMod_keeps | with_reducible apply pdkNotice_keeps | with_reducible apply raiseSource_keeps | with_reducible apply sectionStart_keeps | with_reducible apply standbyBack_keeps | with_reducible apply step_keeps | with_reducible apply keeps_ite | simp only [keeps_mk_iff] | intro _ | dsimp only | split)

theorem releaseEntry_keeps {s0 s : State} (n : Nat) (h : Keeps s0 s) : Keeps s0 (releaseEntry n s) := by
  unfold releaseEntry
  repeat' (first | with_reducible assumption | with_reducible exact Keeps.refl _ | with_reducible apply pdkMod_keeps | with_reducible apply step_keeps | with_reducible apply keeps_ite | simp only [keeps_mk_iff] | intro _ | dsimp only | split)

theorem sharesUpdate_keeps {s0 s : State} (h : Keeps s0 s) : Keeps s0 (sharesUpdate s) := by
  unfold sharesUpdate
  repeat' (first | with_reducible assumption | with_reducible exact Keeps.refl _ | with_reducible apply wr_keeps | with_reducible apply keeps_foldl | with_reducible apply keeps_foldl_snd | with_reducible apply keeps_foldl_fst | with_reducible apply keeps_ite | with_reducible apply keeps_ite_snd | intro _ | dsimp only | split)

theorem shareChange_keeps {s0 s : State} (n : Nat) (h : Keeps s0 s) : Keeps s0 (shareChange n s) := by
  unfold shareChange
  repeat' (first | with_reducible assumption | with_reducible exact Keeps.refl _ | with_reducible apply schedule_keeps | with_reducible apply keeps_ite | intro _ | dsimp only | split)

theorem vecWrite_keeps {s0 s : State} (n : Nat) (k : Nat) (data : Nat) (h : Keeps s0 s) : Keeps s0 (vecWrite n k data s) := by
  unfold vecWrite
  repeat' (first | with_reducible assumption | with_reducible exact Keeps.refl _ | with_reducible apply wr_keeps | with_reducible apply pdkMod_keeps | with_reducible apply sendMsix_keeps | with_reducible apply keeps_ite | simp only [keeps_mk_iff] | intro _ | dsimp only | split)

theorem execPdkVecWrite_keeps {s0 s : State} (n : Nat) (k : Nat) (data : Word) (h : Keeps s0 s) : KeepsR s0 (execPdkVecWrite n k data s) := by
  unfold execPdkVecWrite
  repeat' (first | with_reducible assumption | with_reducible exact Keeps.refl _ | with_reducible apply vecWrite_keeps | with_reducible apply keepsR_next | with_reducible apply keeps_ite | with_reducible apply keepsR_ite | intro _ | dsimp only | split)

end Sys2Proof.Machine
end

