-- ==== Sys2Proof/Laws/KeepsHostFns.lean ====
section
/-! SUPPORT. What the operations of Machine/HostFns.lean keep (Laws/Keeps.lean). -/

namespace Sys2Proof.Machine

set_option linter.unusedTactic false
set_option linter.unreachableTactic false
set_option linter.unusedSimpArgs false

theorem msixFlush_keeps {s0 s : State} (f : Nat) (h : Keeps s0 s) : Keeps s0 (msixFlush f s) := by
  unfold msixFlush
  repeat' (first | with_reducible assumption | with_reducible exact Keeps.refl _ | with_reducible apply setPba_keeps | with_reducible apply sendMsix_keeps | with_reducible apply keeps_foldl | with_reducible apply keeps_foldl_snd | with_reducible apply keeps_foldl_fst | with_reducible apply keeps_ite_snd | with_reducible apply keeps_ite | intro _ | dsimp only | split)

theorem d3Enter_keeps {s0 s : State} (f : Nat) (h : Keeps s0 s) : Keeps s0 (d3Enter f s) := by
  unfold d3Enter
  repeat' (first | with_reducible assumption | with_reducible exact Keeps.refl _ | with_reducible apply fnMod_keeps | with_reducible apply keeps_ite | simp only [keeps_mk_iff] | intro _ | dsimp only | split)

theorem d0Return_keeps {s0 s : State} (f : Nat) (h : Keeps s0 s) : Keeps s0 (d0Return f s) := by
  unfold d0Return
  repeat' (first | with_reducible assumption | with_reducible exact Keeps.refl _ | with_reducible apply fnMod_keeps | with_reducible apply sendMsix_keeps | with_reducible apply keeps_foldl | with_reducible apply keeps_foldl_snd | with_reducible apply keeps_foldl_fst | with_reducible apply keeps_ite_snd | with_reducible apply keeps_ite | simp only [keeps_mk_iff] | intro _ | dsimp only | split)

theorem execD3hotEntry_keeps {s0 s : State} (f : Nat) (h : Keeps s0 s) : KeepsR s0 (execD3hotEntry f s) := by
  unfold execD3hotEntry
  repeat' (first | with_reducible assumption | with_reducible exact Keeps.refl _ | with_reducible apply d3Enter_keeps | with_reducible apply keepsR_next | with_reducible apply keeps_ite | with_reducible apply keepsR_ite | intro _ | dsimp only | split)

theorem execD0Return_keeps {s0 s : State} (f : Nat) (h : Keeps s0 s) : KeepsR s0 (execD0Return f s) := by
  unfold execD0Return
  repeat' (first | with_reducible assumption | with_reducible exact Keeps.refl _ | with_reducible apply d0Return_keeps | with_reducible apply keepsR_next | with_reducible apply keeps_ite | with_reducible apply keepsR_ite | intro _ | dsimp only | split)

theorem execVfFlr_keeps {s0 s : State} (n : Nat) (h : Keeps s0 s) : KeepsR s0 (execVfFlr n s) := by
  unfold execVfFlr
  repeat' (first | with_reducible assumption | with_reducible exact Keeps.refl _ | with_reducible apply vfFlr_keeps | with_reducible apply keepsR_next | with_reducible apply keeps_ite | with_reducible apply keepsR_ite | intro _ | dsimp only | split)

theorem pfReset_keeps {s0 s : State}  (h : Keeps s0 s) : Keeps s0 (pfReset s) := by
  unfold pfReset
  repeat' (first | with_reducible assumption | with_reducible exact Keeps.refl _ | with_reducible apply pagesShow_keeps | with_reducible apply sriovSet_keeps | with_reducible apply fnReset_keeps | with_reducible apply keeps_ite | simp only [keeps_mk_iff] | intro _ | dsimp only | split)

theorem execPfFlr_keeps {s0 s : State}  (h : Keeps s0 s) : KeepsR s0 (execPfFlr s) := by
  unfold execPfFlr
  repeat' (first | with_reducible assumption | with_reducible exact Keeps.refl _ | with_reducible apply fnMod_keeps | with_reducible apply pfFlrDone_keeps | with_reducible apply pfReset_keeps | with_reducible apply keepsR_next | with_reducible apply keeps_ite | with_reducible apply keepsR_ite | simp only [keeps_mk_iff] | intro _ | dsimp only | split)

theorem hostLost_keeps {s0 s : State}  (h : Keeps s0 s) : Keeps s0 (hostLost s) := by
  unfold hostLost
  repeat' (first | with_reducible assumption | with_reducible exact Keeps.refl _ | with_reducible apply wr_keeps | with_reducible apply bump_keeps | with_reducible apply xlateFault_keeps | with_reducible apply fabSet_keeps | with_reducible apply fabAnswer_keeps | with_reducible apply keeps_ite | simp only [keeps_mk_iff] | intro _ | dsimp only | split)

theorem pagesLost_keeps {s0 s : State} (h : Keeps s0 s) : Keeps s0 (pagesLost s) := by
  unfold pagesLost
  repeat' (first | with_reducible assumption | with_reducible exact Keeps.refl _ | with_reducible apply pageAnswer_keeps | with_reducible apply keeps_foldl | with_reducible apply keeps_foldl_snd | with_reducible apply keeps_foldl_fst | with_reducible apply keeps_ite_snd | with_reducible apply keeps_ite | intro _ | dsimp only | split)

theorem barDrop_keeps {s0 s : State}  (h : Keeps s0 s) : Keeps s0 (barDrop s) := by
  unfold barDrop
  repeat' (first | with_reducible assumption | with_reducible exact Keeps.refl _ | with_reducible apply keeps_ite | simp only [keeps_mk_iff] | intro _ | dsimp only | split)

theorem linkReset_keeps {s0 s : State}  (h : Keeps s0 s) : Keeps s0 (linkReset s) := by
  unfold linkReset
  repeat' (first | with_reducible assumption | with_reducible exact Keeps.refl _ | with_reducible apply fnMod_keeps | with_reducible apply pagesLost_keeps | with_reducible apply barDrop_keeps | with_reducible apply hostLost_keeps | with_reducible apply pfReset_keeps | with_reducible apply keeps_iter | with_reducible apply keeps_ite | simp only [keeps_mk_iff] | intro _ | dsimp only | split)

theorem linkLeaves_keeps {s0 s : State}  (h : Keeps s0 s) : Keeps s0 (linkLeaves s) := by
  unfold linkLeaves
  repeat' (first | with_reducible assumption | with_reducible exact Keeps.refl _ | with_reducible apply wr_keeps | with_reducible apply bump_keeps | with_reducible apply hostEvt_keeps | with_reducible apply linkReset_keeps | with_reducible apply keeps_ite | intro _ | dsimp only | split)

theorem execLinkDown_keeps {s0 s : State}  (h : Keeps s0 s) : KeepsR s0 (execLinkDown s) := by
  unfold execLinkDown
  repeat' (first | with_reducible assumption | with_reducible exact Keeps.refl _ | with_reducible apply linkLeaves_keeps | with_reducible apply keepsR_next | with_reducible apply keeps_ite | with_reducible apply keepsR_ite | intro _ | dsimp only | split)

theorem hostCapNext_keeps {s0 s : State} (c : Nat) (h : Keeps s0 s) : Keeps s0 (hostCapNext c s) := by
  unfold hostCapNext
  repeat' (first | with_reducible assumption | with_reducible exact Keeps.refl _ | with_reducible apply keeps_ite | simp only [keeps_mk_iff] | intro _ | dsimp only | split)

theorem execLinkUp_keeps {s0 s : State} (t : Nat) (speed : Nat) (width : Nat) (flit : Bool) (h : Keeps s0 s) : KeepsR s0 (execLinkUp t speed width flit s) := by
  unfold execLinkUp
  repeat' (first | with_reducible assumption | with_reducible exact Keeps.refl _ | with_reducible apply wr_keeps | with_reducible apply atTime_keeps | with_reducible apply hostEvt_keeps | with_reducible apply hostCapNext_keeps | with_reducible apply keepsR_next | with_reducible apply keeps_ite | with_reducible apply keepsR_ite | simp only [keeps_mk_iff] | intro _ | dsimp only | split)

theorem execL0pWidthChange_keeps {s0 s : State} (w : Nat) (h : Keeps s0 s) : KeepsR s0 (execL0pWidthChange w s) := by
  unfold execL0pWidthChange
  repeat' (first | with_reducible assumption | with_reducible exact Keeps.refl _ | with_reducible apply wr_keeps | with_reducible apply hostEvt_keeps | with_reducible apply hostCapNext_keeps | with_reducible apply keepsR_next | with_reducible apply keeps_ite | with_reducible apply keepsR_ite | intro _ | dsimp only | split)

theorem execPerstAssert_keeps {s0 s : State}  (h : Keeps s0 s) : KeepsR s0 (execPerstAssert s) := by
  unfold execPerstAssert
  repeat' (first | with_reducible assumption | with_reducible exact Keeps.refl _ | with_reducible apply linkLeaves_keeps | with_reducible apply linkReset_keeps | with_reducible apply keepsR_next | with_reducible apply keeps_ite | with_reducible apply keepsR_ite | simp only [keeps_mk_iff] | intro _ | dsimp only | split)

theorem execPerstDeassert_keeps {s0 s : State}  (h : Keeps s0 s) : KeepsR s0 (execPerstDeassert s) := by
  unfold execPerstDeassert
  repeat' (first | with_reducible assumption | with_reducible exact Keeps.refl _ | with_reducible apply keepsR_next | with_reducible apply keeps_ite | with_reducible apply keepsR_ite | simp only [keeps_mk_iff] | intro _ | dsimp only | split)

theorem cfgEffect_keeps {s0 s : State} (f : Nat) (o : Nat) (v : Nat) (h : Keeps s0 s) : Keeps s0 (cfgEffect f o v s) := by
  unfold cfgEffect
  repeat' (first | with_reducible assumption | with_reducible exact Keeps.refl _ | with_reducible apply fnMod_keeps | with_reducible apply wr_keeps | with_reducible apply sriovSet_keeps | with_reducible apply pfFlrDone_keeps | with_reducible apply vfFlr_keeps | with_reducible apply d3Enter_keeps | with_reducible apply msixFlush_keeps | with_reducible apply pfReset_keeps | with_reducible apply d0Return_keeps | with_reducible apply keeps_ite | simp only [keeps_mk_iff] | intro _ | dsimp only | split)

theorem cfgWrite_keeps {s0 s : State} (f : Nat) (o : Nat) (be : Nat) (data : Nat) (h : Keeps s0 s) : Keeps s0 (cfgWrite f o be data s) := by
  unfold cfgWrite
  repeat' (first | with_reducible assumption | with_reducible exact Keeps.refl _ | with_reducible apply cfgEffect_keeps | with_reducible apply keeps_ite | simp only [keeps_mk_iff] | intro _ | dsimp only | split)

theorem execConfigRequest_keeps {s0 s : State} (t : Nat) (f : Nat) (tag : Nat) (wrt : Bool) (o : Nat) (be : Nat) (data : Word) (h : Keeps s0 s) : KeepsR s0 (execConfigRequest t f tag wrt o be data s) := by
  unfold execConfigRequest
  repeat' (first | with_reducible assumption | with_reducible exact Keeps.refl _ | with_reducible apply emit_keeps | with_reducible apply atTime_keeps | with_reducible apply cfgWrite_keeps | with_reducible apply keepsR_next | with_reducible apply keeps_ite | with_reducible apply keepsR_ite | intro _ | dsimp only | split)

end Sys2Proof.Machine
end

