-- ==== Sys2Proof/Laws/KeepsStartup.lean ====
section
/-! SUPPORT. What the operations of Machine/Startup.lean keep (Laws/Keeps.lean). -/

namespace Sys2Proof.Machine

set_option linter.unusedTactic false
set_option linter.unreachableTactic false
set_option linter.unusedSimpArgs false

theorem pwrMod_keeps {s0 s : State} (g : Pwr → Pwr) (h : Keeps s0 s) : Keeps s0 (pwrMod g s) := by
  unfold pwrMod
  repeat' (first | with_reducible assumption | with_reducible exact Keeps.refl _ | with_reducible apply keeps_ite | simp only [keeps_mk_iff] | intro _ | dsimp only | split)

theorem mgmtMod_keeps {s0 s : State} {g : Mgmt → Mgmt} (hg : FusesKept s.mgmt (g s.mgmt)) (h : Keeps s0 s) : Keeps s0 (mgmtMod g s) :=
  keeps_mgmt hg h

theorem pwrEvent_keeps {s0 s : State} (w0 : Nat) (h : Keeps s0 s) : Keeps s0 (pwrEvent w0 s) := by
  unfold pwrEvent
  repeat' (first | with_reducible assumption | with_reducible exact Keeps.refl _ | with_reducible apply pfEvent_keeps | with_reducible apply flockEvent_keeps | with_reducible apply keeps_ite | intro _ | dsimp only | split)

theorem setPwr_keeps {s0 s : State} (st : Nat) (h : Keeps s0 s) : Keeps s0 (setPwr st s) := by
  unfold setPwr
  repeat' (first | with_reducible assumption | with_reducible exact Keeps.refl _ | with_reducible apply wr_keeps | with_reducible apply pwrEvent_keeps | with_reducible apply keeps_ite | intro _ | dsimp only | split)

theorem setStep_keeps {s0 s : State} (k : Nat) (h : Keeps s0 s) : Keeps s0 (setStep k s) := by
  unfold setStep
  repeat' (first | with_reducible assumption | with_reducible exact Keeps.refl _ | with_reducible apply wr_keeps | with_reducible apply keeps_ite | intro _ | dsimp only | split)

theorem railEnables_keeps {s0 s : State} (rails : Bool) (mem : Bool) (h : Keeps s0 s) : Keeps s0 (railEnables rails mem s) := by
  unfold railEnables
  repeat' (first | with_reducible assumption | with_reducible exact Keeps.refl _ | with_reducible apply wr_keeps | with_reducible apply keeps_ite | intro _ | dsimp only | split)

theorem aliveLow_keeps {s0 s : State}  (h : Keeps s0 s) : Keeps s0 (aliveLow s) := by
  unfold aliveLow
  repeat' (first | with_reducible assumption | with_reducible exact Keeps.refl _ | with_reducible apply wr_keeps | with_reducible apply keeps_ite | simp only [keeps_mk_iff] | intro _ | dsimp only | split)

theorem bellStop_keeps {s0 s : State}  (h : Keeps s0 s) : Keeps s0 (bellStop s) := by
  unfold bellStop
  repeat' (first | with_reducible assumption | with_reducible exact Keeps.refl _ | with_reducible apply wr_keeps | with_reducible apply aliveLow_keeps | with_reducible apply keeps_ite | simp only [keeps_mk_iff, keeps_mk_bell_iff] | intro _ | dsimp only | split)

theorem operation_keeps {s0 s : State} (on0 : Bool) (r : Nat) (h : Keeps s0 s) : Keeps s0 (operation on0 r s) := by
  unfold operation
  repeat' (first | with_reducible assumption | with_reducible exact Keeps.refl _ | with_reducible apply emit_keeps | with_reducible apply keeps_ite | intro _ | dsimp only | split)

theorem suppliesOff_keeps {s0 s : State}  (h : Keeps s0 s) : Keeps s0 (suppliesOff s) := by
  unfold suppliesOff
  repeat' (first | with_reducible assumption | with_reducible exact Keeps.refl _ | with_reducible apply wr_keeps | with_reducible apply railEnables_keeps | with_reducible apply operation_keeps | with_reducible apply keeps_foldl | with_reducible apply keeps_foldl_snd | with_reducible apply keeps_foldl_fst | with_reducible apply keeps_ite_snd | with_reducible apply keeps_ite | intro _ | dsimp only | split)

theorem startFails_keeps {s0 s : State}  (h : Keeps s0 s) : Keeps s0 (startFails s) := by
  unfold startFails
  repeat' (first | with_reducible assumption | with_reducible exact Keeps.refl _ | with_reducible apply pwrMod_keeps | with_reducible apply suppliesOff_keeps | with_reducible apply setPwr_keeps | with_reducible apply keeps_ite | simp only [keeps_mk_iff] | intro _ | dsimp only | split)

theorem railFails_keeps {s0 s : State} (r : Nat) (h : Keeps s0 s) : Keeps s0 (railFails r s) := by
  unfold railFails
  repeat' (first | with_reducible assumption | with_reducible exact Keeps.refl _ | with_reducible apply wr_keeps | with_reducible apply startFails_keeps | with_reducible apply keeps_ite | intro _ | dsimp only | split)

theorem allHalted_keeps {s0 s : State}  (h : Keeps s0 s) : Keeps s0 (allHalted s) := by
  unfold allHalted
  repeat' (first | with_reducible assumption | with_reducible exact Keeps.refl _ | with_reducible apply wr_keeps | with_reducible apply keeps_foldl | with_reducible apply keeps_foldl_snd | with_reducible apply keeps_foldl_fst | with_reducible apply keeps_ite_snd | with_reducible apply keeps_iter | with_reducible apply keeps_ite | intro _ | dsimp only | split)

theorem allCoresReset_keeps {s0 s : State}  (h : Keeps s0 s) : Keeps s0 (allCoresReset s) := by
  unfold allCoresReset
  repeat' (first | with_reducible assumption | with_reducible exact Keeps.refl _ | with_reducible apply allHalted_keeps | with_reducible apply keeps_ite | simp only [keeps_mk_iff] | with_reducible apply keeps_mk_regs | with_reducible apply mapWf_set | with_reducible apply mapWf_filter | with_reducible apply mapWf_rebuild | with_reducible apply mapWf_clear | with_reducible apply regsWf_out | intro _ | dsimp only | split)

theorem mainReset_keeps {s0 s : State} (h : Keeps s0 s) : Keeps s0 (mainReset s) := by
  unfold mainReset
  extract_lets keep s1
  have h1 : Keeps s0 s1 := by
    apply keeps_foldl
    · intro u n hu
      apply pdkUnschedule_keeps; exact hu
    · exact h
  clear_value s1
  apply allHalted_keeps
  exact ⟨h1.queue, h1.time, h1.draws, fun x => mapWf_filter _ (h1.regs x), fun _ => rfl, h1.cal, h1.staging, h1.fuses⟩

theorem coldReset_keeps {s0 s : State} (cause : Nat) (h : Keeps s0 s) : Keeps s0 (coldReset cause s) :=
  ⟨h.queue, h.time, h.draws, fun _ => rfl, fun _ => rfl, fun _ => Nat.zero_le _, fun _ => Nat.zero_le _, h.fuses.trans ⟨fun _ => rfl, le_rfl⟩⟩

theorem rtcLost_keeps {s0 s : State}  (h : Keeps s0 s) : Keeps s0 (rtcLost s) := by
  unfold rtcLost
  repeat' (first | with_reducible assumption | with_reducible exact Keeps.refl _ | with_reducible apply drawFree_keeps | with_reducible apply fbkMod_keeps | with_reducible apply keeps_ite | simp only [keeps_mk_iff] | intro _ | dsimp only | split)

theorem execVauxGood_keeps {s0 s : State} (t : Nat) (h : Keeps s0 s) : KeepsR s0 (execVauxGood t s) := by
  unfold execVauxGood
  repeat' (first | with_reducible assumption | with_reducible exact Keeps.refl _ | with_reducible apply atTime_keeps | with_reducible apply pwrMod_keeps | with_reducible apply fbkMod_keeps | with_reducible apply keepsR_next | with_reducible apply keeps_ite | with_reducible apply keepsR_ite | simp only [keeps_mk_iff] | intro _ | dsimp only | split)

theorem execVauxBrownout_keeps {s0 s : State} (t : Nat) (h : Keeps s0 s) : KeepsR s0 (execVauxBrownout t s) := by
  unfold execVauxBrownout
  repeat' (first | with_reducible assumption | with_reducible exact Keeps.refl _ | with_reducible apply atTime_keeps | with_reducible apply rtcLost_keeps | with_reducible apply coldReset_keeps | with_reducible apply pwrMod_keeps | with_reducible apply keepsR_next | with_reducible apply keeps_ite | with_reducible apply keepsR_ite | simp only [keeps_mk_iff] | intro _ | dsimp only | split)

theorem execKrstNAssert_keeps {s0 s : State} (t : Nat) (h : Keeps s0 s) : KeepsR s0 (execKrstNAssert t s) := by
  unfold execKrstNAssert
  repeat' (first | with_reducible assumption | with_reducible exact Keeps.refl _ | with_reducible apply atTime_keeps | with_reducible apply coldReset_keeps | with_reducible apply keepsR_next | with_reducible apply keeps_ite | with_reducible apply keepsR_ite | intro _ | dsimp only | split)

theorem execK0Overtemp_keeps {s0 s : State} (t : Nat) (h : Keeps s0 s) : KeepsR s0 (execK0Overtemp t s) := by
  unfold execK0Overtemp
  repeat' (first | with_reducible assumption | with_reducible exact Keeps.refl _ | with_reducible apply atTime_keeps | with_reducible apply pwrMod_keeps | with_reducible apply coldReset_keeps | with_reducible apply keepsR_next | with_reducible apply keeps_ite | with_reducible apply keepsR_ite | simp only [keeps_mk_iff] | intro _ | dsimp only | split)

theorem execK0OvertempRelease_keeps {s0 s : State}  (h : Keeps s0 s) : KeepsR s0 (execK0OvertempRelease s) := by
  unfold execK0OvertempRelease
  repeat' (first | with_reducible assumption | with_reducible exact Keeps.refl _ | with_reducible apply pwrMod_keeps | with_reducible apply keepsR_next | with_reducible apply keeps_ite | with_reducible apply keepsR_ite | simp only [keeps_mk_iff] | intro _ | dsimp only | split)

theorem secRecord_keeps {s0 s : State} (sub : Nat) (w1 : Nat) (w2 : Nat) (h : Keeps s0 s) : Keeps s0 (secRecord sub w1 w2 s) := by
  unfold secRecord
  repeat' (first | with_reducible assumption | with_reducible exact Keeps.refl _ | with_reducible apply flockEvent_keeps | with_reducible apply keeps_ite | intro _ | dsimp only | split)

theorem measSet_keeps {s0 s : State} (i : Nat) (ws : List Nat) (h : Keeps s0 s) : Keeps s0 (measSet i ws s) := by
  unfold measSet
  repeat' (first | with_reducible assumption | with_reducible exact Keeps.refl _ | with_reducible apply wr_keeps | with_reducible apply keeps_iter | with_reducible apply keeps_ite | intro _ | dsimp only | split)

theorem measFree_keeps {s0 s : State} (i : Nat) (h : Keeps s0 s) : Keeps s0 (measFree i s) := by
  unfold measFree
  repeat' (first | with_reducible assumption | with_reducible exact Keeps.refl _ | with_reducible apply drawFree_keeps | with_reducible apply measSet_keeps | with_reducible apply keeps_foldl | with_reducible apply keeps_foldl_snd | with_reducible apply keeps_foldl_fst | with_reducible apply keeps_ite_snd | with_reducible apply keeps_ite | intro _ | dsimp only | split)

theorem measRaw_keeps {s0 s : State}  (h : Keeps s0 s) : Keeps s0 (measRaw s) := by
  unfold measRaw
  repeat' (first | with_reducible assumption | with_reducible exact Keeps.refl _ | with_reducible apply measSet_keeps | with_reducible apply keeps_ite | intro _ | dsimp only | split)

theorem firmwareRuns_keeps {s0 s : State} (k : Nat) (h : Keeps s0 s) : Keeps s0 (firmwareRuns k s) := by
  unfold firmwareRuns
  repeat' (first | with_reducible assumption | with_reducible exact Keeps.refl _ | with_reducible apply wr_keeps | with_reducible apply keeps_ite | intro _ | dsimp only | split)

theorem boardLoad_keeps {s0 s : State}  (h : Keeps s0 s) : Keeps s0 (boardLoad s) := by
  unfold boardLoad
  repeat' (first | with_reducible assumption | with_reducible exact Keeps.refl _ | with_reducible apply wr_keeps | with_reducible apply mgmtMod_keeps | exact ⟨fun _ => rfl, le_rfl⟩ | with_reducible apply keeps_iter | with_reducible apply keeps_ite | simp only [keeps_mk_iff] | intro _ | dsimp only | split)

theorem strapsLoad_keeps {s0 s : State}  (h : Keeps s0 s) : Keeps s0 (strapsLoad s) := by
  unfold strapsLoad
  repeat' (first | with_reducible assumption | with_reducible exact Keeps.refl _ | with_reducible apply wr_keeps | with_reducible apply keeps_ite | intro _ | dsimp only | split)

theorem startS5_keeps {s0 s : State}  (h : Keeps s0 s) : Keeps s0 (startS5 s) := by
  unfold startS5
  repeat' (first | with_reducible assumption | with_reducible exact Keeps.refl _ | with_reducible apply wr_keeps | with_reducible apply setStep_keeps | with_reducible apply railEnables_keeps | with_reducible apply setPwr_keeps | with_reducible apply keeps_ite | intro _ | dsimp only | split)

theorem tryS5_keeps {s0 s : State}  (h : Keeps s0 s) : Keeps s0 (tryS5 s) := by
  unfold tryS5
  repeat' (first | with_reducible assumption | with_reducible exact Keeps.refl _ | with_reducible apply wr_keeps | with_reducible apply startS5_keeps | with_reducible apply keeps_ite | intro _ | dsimp only | split)

theorem bootRun_keeps {s0 s : State}  (h : Keeps s0 s) : Keeps s0 (bootRun s) := by
  unfold bootRun
  repeat' (first | with_reducible assumption | with_reducible exact Keeps.refl _ | with_reducible apply wr_keeps | with_reducible apply fbkScan_keeps | with_reducible apply tryS5_keeps | with_reducible apply secRecord_keeps | with_reducible apply measFree_keeps | with_reducible apply firmwareRuns_keeps | with_reducible apply measSet_keeps | with_reducible apply mgmtMod_keeps | exact ⟨fun _ => rfl, le_rfl⟩ | with_reducible apply setStep_keeps | with_reducible apply boardLoad_keeps | with_reducible apply setPwr_keeps | with_reducible apply measRaw_keeps | with_reducible apply keeps_ite | simp only [keeps_mk_iff] | intro _ | dsimp only | split)

theorem execColdResetRelease_keeps {s0 s : State} (t : Nat) (h : Keeps s0 s) : KeepsR s0 (execColdResetRelease t s) := by
  unfold execColdResetRelease
  repeat' (first | with_reducible assumption | with_reducible exact Keeps.refl _ | with_reducible apply atTime_keeps | with_reducible apply wr_keeps | with_reducible apply setStep_keeps | with_reducible apply strapsLoad_keeps | with_reducible apply bootRun_keeps | with_reducible apply pwrMod_keeps | with_reducible apply keepsR_next | with_reducible apply keeps_ite | with_reducible apply keepsR_ite | simp only [keeps_mk_iff] | intro _ | dsimp only | split)

theorem execAfterTripCooled_keeps {s0 s : State}  (h : Keeps s0 s) : KeepsR s0 (execAfterTripCooled s) := by
  unfold execAfterTripCooled
  repeat' (first | with_reducible assumption | with_reducible exact Keeps.refl _ | with_reducible apply tryS5_keeps | with_reducible apply pwrMod_keeps | with_reducible apply keepsR_next | with_reducible apply keeps_ite | with_reducible apply keepsR_ite | simp only [keeps_mk_iff] | intro _ | dsimp only | split)

theorem groupOn_keeps {s0 x2 : State} (x0 : Nat) (x1 : Nat) (h : Keeps s0 x2) : Keeps s0 (groupOn x0 x1 x2) := by
  induction x0 generalizing x1 x2 with
  | zero =>
    unfold groupOn
    repeat' (first | with_reducible assumption | with_reducible exact Keeps.refl _ | apply ih | with_reducible apply pwrMod_keeps | with_reducible apply operation_keeps | with_reducible apply keeps_foldl | with_reducible apply keeps_foldl_snd | with_reducible apply keeps_foldl_fst | with_reducible apply keeps_ite_snd | with_reducible apply keeps_ite | simp only [keeps_mk_iff] | intro _ | dsimp only | split)
  | succ k ih =>
    unfold groupOn
    repeat' (first | with_reducible assumption | with_reducible exact Keeps.refl _ | apply ih | with_reducible apply pwrMod_keeps | with_reducible apply operation_keeps | with_reducible apply keeps_foldl | with_reducible apply keeps_foldl_snd | with_reducible apply keeps_foldl_fst | with_reducible apply keeps_ite_snd | with_reducible apply keeps_ite | simp only [keeps_mk_iff] | intro _ | dsimp only | split)

theorem memPowerUp_keeps {s0 s : State} (h : Keeps s0 s) : Keeps s0 (memPowerUp s) :=
  ⟨h.queue, h.time, h.draws, h.regs, fun _ => rfl, h.cal, h.staging, h.fuses⟩

theorem mainUp_keeps {s0 s : State}  (h : Keeps s0 s) : Keeps s0 (mainUp s) := by
  unfold mainUp
  repeat' (first | with_reducible assumption | with_reducible exact Keeps.refl _ | with_reducible apply wr_keeps | with_reducible apply clockStep_keeps | with_reducible apply ratMod_keeps | with_reducible apply mainReset_keeps | with_reducible apply setStep_keeps | with_reducible apply memPowerUp_keeps | with_reducible apply keeps_iter | with_reducible apply keeps_ite | simp only [keeps_mk_iff] | intro _ | dsimp only | split)

theorem groupsGo_keeps {s0 s : State} (g : Nat) (h : Keeps s0 s) : Keeps s0 (groupsGo g s) := by
  unfold groupsGo
  repeat' (first | with_reducible assumption | with_reducible exact Keeps.refl _ | with_reducible apply groupOn_keeps | with_reducible apply mainUp_keeps | with_reducible apply keeps_ite | intro _ | dsimp only | split)

theorem execMemPgRise_keeps {s0 s : State} (t : Nat) (h : Keeps s0 s) : KeepsR s0 (execMemPgRise t s) := by
  unfold execMemPgRise
  repeat' (first | with_reducible assumption | with_reducible exact Keeps.refl _ | with_reducible apply wr_keeps | with_reducible apply atTime_keeps | with_reducible apply setStep_keeps | with_reducible apply groupsGo_keeps | with_reducible apply railEnables_keeps | with_reducible apply keepsR_next | with_reducible apply keeps_ite | with_reducible apply keepsR_ite | intro _ | dsimp only | split)

theorem railUp_keeps {s0 s : State} (r : Nat) (w : Nat) (h : Keeps s0 s) : Keeps s0 (railUp r w s) := by
  unfold railUp
  repeat' (first | with_reducible assumption | with_reducible exact Keeps.refl _ | with_reducible apply wr_keeps | with_reducible apply railStatus_keeps | with_reducible apply groupsGo_keeps | with_reducible apply railFails_keeps | with_reducible apply keeps_ite | intro _ | dsimp only | split)

theorem execRailPowerGood_keeps {s0 s : State} (t : Nat) (r : Nat) (w : Nat) (h : Keeps s0 s) : KeepsR s0 (execRailPowerGood t r w s) := by
  unfold execRailPowerGood
  repeat' (first | with_reducible assumption | with_reducible exact Keeps.refl _ | with_reducible apply atTime_keeps | with_reducible apply railUp_keeps | with_reducible apply keepsR_next | with_reducible apply keeps_ite | with_reducible apply keepsR_ite | intro _ | dsimp only | split)

theorem execPowerGoodTimeout_keeps {s0 s : State} (t : Nat) (h : Keeps s0 s) : KeepsR s0 (execPowerGoodTimeout t s) := by
  unfold execPowerGoodTimeout
  repeat' (first | with_reducible assumption | with_reducible exact Keeps.refl _ | with_reducible apply wr_keeps | with_reducible apply atTime_keeps | with_reducible apply railFails_keeps | with_reducible apply startFails_keeps | with_reducible apply keepsR_next | with_reducible apply keeps_ite | with_reducible apply keepsR_ite | intro _ | dsimp only | split)

theorem execStartupRetry_keeps {s0 s : State} (t : Nat) (h : Keeps s0 s) : KeepsR s0 (execStartupRetry t s) := by
  unfold execStartupRetry
  repeat' (first | with_reducible assumption | with_reducible exact Keeps.refl _ | with_reducible apply wr_keeps | with_reducible apply atTime_keeps | with_reducible apply tryS5_keeps | with_reducible apply setStep_keeps | with_reducible apply keepsR_next | with_reducible apply keeps_ite | with_reducible apply keepsR_ite | intro _ | dsimp only | split)

theorem memShape_keeps {s0 s : State} (h : Keeps s0 s) : Keeps s0 (memShape s) := by
  unfold memShape
  repeat' (first | with_reducible assumption | with_reducible exact Keeps.refl _ | with_reducible apply wr_keeps | with_reducible apply setCap_keeps | with_reducible apply keeps_foldl | with_reducible apply keeps_foldl_snd | with_reducible apply keeps_foldl_fst | with_reducible apply keeps_ite | with_reducible apply keeps_ite_snd | intro _ | dsimp only | split)

theorem execMemoryTrainingDone_keeps {s0 s : State} (gib : Nat) (rates : List Nat) (lpcamm : Bool) (fails : List Nat) (h : Keeps s0 s) : KeepsR s0 (execMemoryTrainingDone gib rates lpcamm fails s) := by
  unfold execMemoryTrainingDone
  repeat' (first | with_reducible assumption | with_reducible exact Keeps.refl _ | with_reducible apply setStep_keeps | with_reducible apply memShape_keeps | with_reducible apply wr_keeps | with_reducible apply keeps_foldl | with_reducible apply keeps_foldl_snd | with_reducible apply keeps_foldl_fst | with_reducible apply keepsR_next | with_reducible apply keeps_ite | with_reducible apply keepsR_ite | with_reducible apply keeps_ite_snd | intro _ | dsimp only | split)

theorem serve_keeps {s0 s : State} (t : Nat) (draw : Nat) (h : Keeps s0 s) : Keeps s0 (serve t draw s) := by
  unfold serve
  repeat' (first | with_reducible assumption | with_reducible exact Keeps.refl _ | with_reducible apply startBell_keeps | with_reducible apply heldDrawSet_keeps | with_reducible apply setStep_keeps | with_reducible apply setPwr_keeps | with_reducible apply keeps_ite | intro _ | dsimp only | split)

theorem execStartupMusterDone_keeps {s0 s : State} (t : Nat) (draw : Nat) (fails : List (Nat × Nat)) (blocks : List (Nat × Nat)) (h : Keeps s0 s) : KeepsR s0 (execStartupMusterDone t draw fails blocks s) := by
  unfold execStartupMusterDone
  repeat' (first | with_reducible assumption | with_reducible exact Keeps.refl _ | with_reducible apply atTime_keeps | with_reducible apply repairP2_keeps | with_reducible apply mcoreMod_keeps | with_reducible apply testFails_keeps | with_reducible apply blockFails_keeps | with_reducible apply serve_keeps | with_reducible apply setStep_keeps | with_reducible apply keeps_foldl | with_reducible apply keeps_foldl_snd | with_reducible apply keeps_foldl_fst | with_reducible apply keeps_ite_snd | with_reducible apply keepsR_next | with_reducible apply keeps_ite | with_reducible apply keepsR_ite | simp only [keeps_mk_iff] | intro _ | dsimp only | split)

theorem cmdResult_keeps {s0 s : State} (r : Nat) (h : Keeps s0 s) : Keeps s0 (cmdResult r s) := by
  unfold cmdResult
  repeat' (first | with_reducible assumption | with_reducible exact Keeps.refl _ | with_reducible apply wr_keeps | with_reducible apply keeps_ite | intro _ | dsimp only | split)

theorem standbyAsk_keeps {s0 s : State}  (h : Keeps s0 s) : Keeps s0 (standbyAsk s) := by
  unfold standbyAsk
  repeat' (first | with_reducible assumption | with_reducible exact Keeps.refl _ | with_reducible apply pwrMod_keeps | with_reducible apply cmdResult_keeps | with_reducible apply keeps_ite | simp only [keeps_mk_iff] | intro _ | dsimp only | split)

theorem execStandby_keeps {s0 s : State}  (h : Keeps s0 s) : KeepsR s0 (execStandby s) := by
  unfold execStandby
  repeat' (first | with_reducible assumption | with_reducible exact Keeps.refl _ | with_reducible apply standbyAsk_keeps | with_reducible apply keepsR_next | with_reducible apply keeps_ite | with_reducible apply keepsR_ite | intro _ | dsimp only | split)

theorem selfRefresh_keeps {s0 s : State} (on0 : Bool) (h : Keeps s0 s) : Keeps s0 (selfRefresh on0 s) := by
  unfold selfRefresh
  repeat' (first | with_reducible assumption | with_reducible exact Keeps.refl _ | with_reducible apply wr_keeps | with_reducible apply keeps_iter | with_reducible apply keeps_ite | intro _ | dsimp only | split)

theorem standbyStop_keeps {s0 s : State}  (h : Keeps s0 s) : Keeps s0 (standbyStop s) := by
  unfold standbyStop
  repeat' (first | with_reducible assumption | with_reducible exact Keeps.refl _ | with_reducible apply selfRefresh_keeps | with_reducible apply pwrMod_keeps | with_reducible apply bellStop_keeps | with_reducible apply setPwr_keeps | with_reducible apply keeps_ite | simp only [keeps_mk_iff] | intro _ | dsimp only | split)

theorem wakeRun_keeps {s0 s : State} (t : Nat) (draw : Nat) (h : Keeps s0 s) : Keeps s0 (wakeRun t draw s) := by
  unfold wakeRun
  repeat' (first | with_reducible assumption | with_reducible exact Keeps.refl _ | with_reducible apply wr_keeps | with_reducible apply clockStep_keeps | with_reducible apply ratMod_keeps | with_reducible apply serve_keeps | with_reducible apply selfRefresh_keeps | with_reducible apply allCoresReset_keeps | with_reducible apply keeps_ite | simp only [keeps_mk_iff] | intro _ | dsimp only | split)

theorem wakeAsk_keeps {s0 s : State} (t : Nat) (draw : Nat) (h : Keeps s0 s) : Keeps s0 (wakeAsk t draw s) := by
  unfold wakeAsk
  repeat' (first | with_reducible assumption | with_reducible exact Keeps.refl _ | with_reducible apply wr_keeps | with_reducible apply wakeRun_keeps | with_reducible apply cmdResult_keeps | with_reducible apply keeps_ite | intro _ | dsimp only | split)

theorem execWake_keeps {s0 s : State} (t : Nat) (draw : Nat) (h : Keeps s0 s) : KeepsR s0 (execWake t draw s) := by
  unfold execWake
  repeat' (first | with_reducible assumption | with_reducible exact Keeps.refl _ | with_reducible apply atTime_keeps | with_reducible apply wakeAsk_keeps | with_reducible apply keepsR_next | with_reducible apply keeps_ite | with_reducible apply keepsR_ite | intro _ | dsimp only | split)

theorem sdInfo_keeps {s0 s : State} (cause : Nat) (rail : Nat) (fast : Bool) (trip : Bool) (h : Keeps s0 s) : Keeps s0 (sdInfo cause rail fast trip s) := by
  unfold sdInfo
  repeat' (first | with_reducible assumption | with_reducible exact Keeps.refl _ | with_reducible apply wrW_keeps | with_reducible apply keeps_ite | intro _ | dsimp only | split)

theorem linkAbort_keeps {s0 s : State}  (h : Keeps s0 s) : Keeps s0 (linkAbort s) := by
  unfold linkAbort
  repeat' (first | with_reducible assumption | with_reducible exact Keeps.refl _ | with_reducible apply wr_keeps | with_reducible apply bump_keeps | with_reducible apply emit_keeps | with_reducible apply barDrop_keeps | with_reducible apply hostLost_keeps | with_reducible apply keeps_foldl | with_reducible apply keeps_foldl_snd | with_reducible apply keeps_foldl_fst | with_reducible apply keeps_ite_snd | with_reducible apply keeps_iter | with_reducible apply keeps_ite | intro _ | dsimp only | split)

theorem stopServing_keeps {s0 s : State}  (h : Keeps s0 s) : Keeps s0 (stopServing s) := by
  unfold stopServing
  repeat' (first | with_reducible assumption | with_reducible exact Keeps.refl _ | with_reducible apply pdkMod_keeps | with_reducible apply meshMod_keeps | with_reducible apply failoverNotice_keeps | with_reducible apply stopWork_keeps | with_reducible apply dropReads_keeps | with_reducible apply pdkUnschedule_keeps | with_reducible apply pwrMod_keeps | with_reducible apply aliveLow_keeps | with_reducible apply linkAbort_keeps | with_reducible apply keeps_foldl | with_reducible apply keeps_foldl_snd | with_reducible apply keeps_foldl_fst | with_reducible apply keeps_ite_snd | with_reducible apply keeps_ite | simp only [keeps_mk_iff] | intro _ | dsimp only | split)

theorem endRecord_keeps {s0 s : State} (w0 : Nat) (h : Keeps s0 s) : Keeps s0 (endRecord w0 s) := by
  unfold endRecord
  repeat' (first | with_reducible assumption | with_reducible exact Keeps.refl _ | with_reducible apply flockEvent_keeps | with_reducible apply snapStart_keeps | with_reducible apply keeps_ite | intro _ | dsimp only | split)

theorem shutDown_keeps {s0 s : State} (cause : Nat) (rail : Nat) (fast : Bool) (h : Keeps s0 s) : Keeps s0 (shutDown cause rail fast s) := by
  unfold shutDown
  repeat' (first | with_reducible assumption | with_reducible exact Keeps.refl _ | with_reducible apply wr_keeps | with_reducible apply endRecord_keeps | with_reducible apply selfRefresh_keeps | with_reducible apply pwrMod_keeps | with_reducible apply sdInfo_keeps | with_reducible apply stopServing_keeps | with_reducible apply setStep_keeps | with_reducible apply railEnables_keeps | with_reducible apply setPwr_keeps | with_reducible apply keeps_ite | simp only [keeps_mk_iff] | intro _ | dsimp only | split)

theorem shutDownAsk_keeps {s0 s : State}  (h : Keeps s0 s) : Keeps s0 (shutDownAsk s) := by
  unfold shutDownAsk
  repeat' (first | with_reducible assumption | with_reducible exact Keeps.refl _ | with_reducible apply shutDown_keeps | with_reducible apply cmdResult_keeps | with_reducible apply keeps_ite | intro _ | dsimp only | split)

theorem execShutDown_keeps {s0 s : State} (t : Nat) (cause : Nat) (rail : Nat) (fast : Bool) (h : Keeps s0 s) : KeepsR s0 (execShutDown t cause rail fast s) := by
  unfold execShutDown
  repeat' (first | with_reducible assumption | with_reducible exact Keeps.refl _ | with_reducible apply atTime_keeps | with_reducible apply shutDown_keeps | with_reducible apply shutDownAsk_keeps | with_reducible apply keepsR_next | with_reducible apply keeps_ite | with_reducible apply keepsR_ite | intro _ | dsimp only | split)

theorem execShutdownRecordsCommitted_keeps {s0 s : State}  (h : Keeps s0 s) : KeepsR s0 (execShutdownRecordsCommitted s) := by
  unfold execShutdownRecordsCommitted
  repeat' (first | with_reducible assumption | with_reducible exact Keeps.refl _ | with_reducible apply mainReset_keeps | with_reducible apply setStep_keeps | with_reducible apply bellStop_keeps | with_reducible apply operation_keeps | with_reducible apply keeps_foldl | with_reducible apply keeps_foldl_snd | with_reducible apply keeps_foldl_fst | with_reducible apply keeps_ite_snd | with_reducible apply keepsR_next | with_reducible apply keeps_ite | with_reducible apply keepsR_ite | intro _ | dsimp only | split)

theorem execShutdownSuppliesOff_keeps {s0 s : State}  (h : Keeps s0 s) : KeepsR s0 (execShutdownSuppliesOff s) := by
  unfold execShutdownSuppliesOff
  repeat' (first | with_reducible assumption | with_reducible exact Keeps.refl _ | with_reducible apply wr_keeps | with_reducible apply mainReset_keeps | with_reducible apply pwrMod_keeps | with_reducible apply setStep_keeps | with_reducible apply bellStop_keeps | with_reducible apply railEnables_keeps | with_reducible apply setPwr_keeps | with_reducible apply keepsR_next | with_reducible apply keeps_ite | with_reducible apply keepsR_ite | simp only [keeps_mk_iff] | intro _ | dsimp only | split)

theorem tripInfo_keeps {s0 s : State} (h : Keeps s0 s) : Keeps s0 (tripInfo s) := by
  unfold tripInfo
  repeat' (first | with_reducible assumption | with_reducible exact Keeps.refl _ | with_reducible apply wr_keeps | with_reducible apply sdInfo_keeps | with_reducible apply keeps_ite | intro _ | dsimp only | split)

theorem thermalTrip_keeps {s0 s : State} (h : Keeps s0 s) : Keeps s0 (thermalTrip s) := by
  unfold thermalTrip
  repeat' (first | with_reducible assumption | with_reducible exact Keeps.refl _ | with_reducible apply pwrMod_keeps | with_reducible apply countLife_keeps | with_reducible apply railEnables_keeps | with_reducible apply tripInfo_keeps | with_reducible apply wr_keeps | with_reducible apply endRecord_keeps | with_reducible apply stopServing_keeps | with_reducible apply setPwr_keeps | with_reducible apply keeps_ite | simp only [keeps_mk_iff] | with_reducible apply sdInfo_keeps | intro _ | dsimp only | split)

theorem execThermalTrip_keeps {s0 s : State} (t : Nat) (h : Keeps s0 s) : KeepsR s0 (execThermalTrip t s) := by
  unfold execThermalTrip
  repeat' (first | with_reducible assumption | with_reducible exact Keeps.refl _ | with_reducible apply atTime_keeps | with_reducible apply thermalTrip_keeps | with_reducible apply keepsR_next | with_reducible apply keeps_ite | with_reducible apply keepsR_ite | intro _ | dsimp only | split)

theorem execMemPgFall_keeps {s0 s : State} (t : Nat) (h : Keeps s0 s) : KeepsR s0 (execMemPgFall t s) := by
  unfold execMemPgFall
  repeat' (first | with_reducible assumption | with_reducible exact Keeps.refl _ | with_reducible apply wr_keeps | with_reducible apply atTime_keeps | with_reducible apply shutDown_keeps | with_reducible apply keepsR_next | with_reducible apply keeps_ite | with_reducible apply keepsR_ite | intro _ | dsimp only | split)

theorem calClocks_keeps {s0 s : State}  (h : Keeps s0 s) : Keeps s0 (calClocks s) := by
  unfold calClocks
  repeat' (first | with_reducible assumption | with_reducible exact Keeps.refl _ | with_reducible apply wr_keeps | with_reducible apply calHold_keeps | with_reducible apply keeps_ite | intro _ | dsimp only | split)

theorem execClockValid_keeps {s0 s : State} (t : Nat) (i : Nat) (draw : Nat) (h : Keeps s0 s) : KeepsR s0 (execClockValid t i draw s) := by
  unfold execClockValid
  repeat' (first | with_reducible assumption | with_reducible exact Keeps.refl _ | with_reducible apply wr_keeps | with_reducible apply atTime_keeps | with_reducible apply wakeRun_keeps | with_reducible apply calClocks_keeps | with_reducible apply startS5_keeps | with_reducible apply keepsR_next | with_reducible apply keeps_ite | with_reducible apply keepsR_ite | intro _ | dsimp only | split)

theorem execClockLoss_keeps {s0 s : State} (t : Nat) (i : Nat) (h : Keeps s0 s) : KeepsR s0 (execClockLoss t i s) := by
  unfold execClockLoss
  repeat' (first | with_reducible assumption | with_reducible exact Keeps.refl _ | with_reducible apply wr_keeps | with_reducible apply atTime_keeps | with_reducible apply portDown_keeps | with_reducible apply linkLeaves_keeps | with_reducible apply shutDown_keeps | with_reducible apply pwrEvent_keeps | with_reducible apply calClocks_keeps | with_reducible apply keeps_iter | with_reducible apply keepsR_next | with_reducible apply keeps_ite | with_reducible apply keepsR_ite | intro _ | dsimp only | split)

theorem railRead_keeps {s0 s : State} (r : Nat) (w : Nat) (h : Keeps s0 s) : Keeps s0 (railRead r w s) := by
  unfold railRead
  repeat' (first | with_reducible assumption | with_reducible exact Keeps.refl _ | with_reducible apply railStatus_keeps | with_reducible apply railUp_keeps | with_reducible apply shutDown_keeps | with_reducible apply railFails_keeps | with_reducible apply keeps_ite | intro _ | dsimp only | split)

theorem alertRead_keeps {s0 s : State} (st : List Nat) (h : Keeps s0 s) : Keeps s0 (alertRead st s) := by
  unfold alertRead
  repeat' (first | with_reducible assumption | with_reducible exact Keeps.refl _ | with_reducible apply railRead_keeps | with_reducible apply pwrMod_keeps | with_reducible apply keeps_foldl | with_reducible apply keeps_foldl_snd | with_reducible apply keeps_foldl_fst | with_reducible apply keeps_ite_snd | with_reducible apply keeps_ite | simp only [keeps_mk_iff] | intro _ | dsimp only | split)

theorem execSmbalert_keeps {s0 s : State} (st : List Nat) (h : Keeps s0 s) : KeepsR s0 (execSmbalert st s) := by
  unfold execSmbalert
  repeat' (first | with_reducible assumption | with_reducible exact Keeps.refl _ | with_reducible apply pwrMod_keeps | with_reducible apply alertRead_keeps | with_reducible apply keepsR_next | with_reducible apply keeps_ite | with_reducible apply keepsR_ite | simp only [keeps_mk_iff] | intro _ | dsimp only | split)

theorem railRetry_keeps {s0 s : State} (r : Nat) (h : Keeps s0 s) : Keeps s0 (railRetry r s) := by
  unfold railRetry
  repeat' (first | with_reducible assumption | with_reducible exact Keeps.refl _ | with_reducible apply wr_keeps | with_reducible apply rtnRecord_keeps | with_reducible apply ratMod_keeps | with_reducible apply rtnSet_keeps | with_reducible apply railFails_keeps | with_reducible apply keeps_ite | simp only [keeps_mk_iff] | intro _ | dsimp only | split)

theorem railPoll_keeps {s0 s : State} (r : Nat) (ok : Bool) (status : Nat) (pin : Nat) (h : Keeps s0 s) : Keeps s0 (railPoll r ok status pin s) := by
  unfold railPoll
  repeat' (first | with_reducible assumption | with_reducible exact Keeps.refl _ | with_reducible apply railPin_keeps | with_reducible apply railRead_keeps | with_reducible apply railRetry_keeps | with_reducible apply keeps_ite | simp only [keeps_mk_iff] | intro _ | dsimp only | split)

theorem execPmbusRetry_keeps {s0 s : State} (r : Nat) (ok : Bool) (status : Nat) (pin : Nat) (h : Keeps s0 s) : KeepsR s0 (execPmbusRetry r ok status pin s) := by
  unfold execPmbusRetry
  repeat' (first | with_reducible assumption | with_reducible exact Keeps.refl _ | with_reducible apply railPoll_keeps | with_reducible apply keepsR_next | with_reducible apply keeps_ite | with_reducible apply keepsR_ite | intro _ | dsimp only | split)

theorem execSmbusSclLowTimeout_keeps {s0 s : State} (x0 : Nat) (h : Keeps s0 s) : KeepsR s0 (execSmbusSclLowTimeout x0 s) := by
  unfold execSmbusSclLowTimeout
  repeat' (first | with_reducible assumption | with_reducible exact Keeps.refl _ | with_reducible apply keepsR_next | with_reducible apply keeps_ite | with_reducible apply keepsR_ite | intro _ | dsimp only | split)

end Sys2Proof.Machine
end

