-- ==== Sys2Proof/Laws/KeepsManagement.lean ====
section
/-! SUPPORT. What the operations of Machine/Management.lean keep (Laws/Keeps.lean). -/

namespace Sys2Proof.Machine

set_option linter.unusedTactic false
set_option linter.unreachableTactic false
set_option linter.unusedSimpArgs false

theorem mctpSay_keeps {s0 s : State} (b : Nat) (cmd : Nat) (cc : Nat) (data : List Nat) (h : Keeps s0 s) : Keeps s0 (mctpSay b cmd cc data s) := by
  unfold mctpSay
  repeat' (first | with_reducible assumption | with_reducible exact Keeps.refl _ | with_reducible apply emit_keeps | with_reducible apply keeps_ite | intro _ | dsimp only | split)

theorem execSetEndpointId_keeps {s0 s : State} (b : Nat) (op : Nat) (eid : Nat) (h : Keeps s0 s) : KeepsR s0 (execSetEndpointId b op eid s) := by
  unfold execSetEndpointId
  repeat' (first | with_reducible assumption | with_reducible exact Keeps.refl _ | with_reducible apply wr_keeps | with_reducible apply mctpSay_keeps | with_reducible apply keepsR_next | with_reducible apply keeps_ite | with_reducible apply keepsR_ite | intro _ | dsimp only | split)

theorem execGetEndpointId_keeps {s0 s : State} (b : Nat) (h : Keeps s0 s) : KeepsR s0 (execGetEndpointId b s) := by
  unfold execGetEndpointId
  repeat' (first | with_reducible assumption | with_reducible exact Keeps.refl _ | with_reducible apply mctpSay_keeps | with_reducible apply keepsR_next | with_reducible apply keeps_ite | with_reducible apply keepsR_ite | intro _ | dsimp only | split)

theorem execGetEndpointUuid_keeps {s0 s : State} (b : Nat) (h : Keeps s0 s) : KeepsR s0 (execGetEndpointUuid b s) := by
  unfold execGetEndpointUuid
  repeat' (first | with_reducible assumption | with_reducible exact Keeps.refl _ | with_reducible apply mctpSay_keeps | with_reducible apply keepsR_next | with_reducible apply keeps_ite | with_reducible apply keepsR_ite | intro _ | dsimp only | split)

theorem execGetMctpVersionSupport_keeps {s0 s : State} (b : Nat) (typ : Nat) (h : Keeps s0 s) : KeepsR s0 (execGetMctpVersionSupport b typ s) := by
  unfold execGetMctpVersionSupport
  repeat' (first | with_reducible assumption | with_reducible exact Keeps.refl _ | with_reducible apply mctpSay_keeps | with_reducible apply keepsR_next | with_reducible apply keeps_ite | with_reducible apply keepsR_ite | intro _ | dsimp only | split)

theorem execGetMessageTypeSupport_keeps {s0 s : State} (b : Nat) (h : Keeps s0 s) : KeepsR s0 (execGetMessageTypeSupport b s) := by
  unfold execGetMessageTypeSupport
  repeat' (first | with_reducible assumption | with_reducible exact Keeps.refl _ | with_reducible apply mctpSay_keeps | with_reducible apply keepsR_next | with_reducible apply keeps_ite | with_reducible apply keepsR_ite | intro _ | dsimp only | split)

theorem execMctpResponseDrop_keeps {s0 s : State} (b : Nat) (h : Keeps s0 s) : KeepsR s0 (execMctpResponseDrop b s) := by
  unfold execMctpResponseDrop
  repeat' (first | with_reducible assumption | with_reducible exact Keeps.refl _ | with_reducible apply bump_keeps | with_reducible apply keepsR_next | with_reducible apply keeps_ite | with_reducible apply keepsR_ite | simp only [keeps_mk_iff] | intro _ | dsimp only | split)

theorem pldmSay_keeps {s0 s : State} (b : Nat) (ty : Nat) (cmd : Nat) (cc : Nat) (data : List Nat) (h : Keeps s0 s) : Keeps s0 (pldmSay b ty cmd cc data s) := by
  unfold pldmSay
  repeat' (first | with_reducible assumption | with_reducible exact Keeps.refl _ | with_reducible apply emit_keeps | with_reducible apply keeps_ite | intro _ | dsimp only | split)

theorem pldmServe_keeps {s0 s : State} (b : Nat) (ty : Nat) (cmd : Nat) (k : State → State) (hk : ∀ u, Keeps s0 u → Keeps s0 (k u)) (h : Keeps s0 s) : KeepsR s0 (pldmServe b ty cmd k s) := by
  unfold pldmServe
  repeat' (first | with_reducible assumption | with_reducible exact Keeps.refl _ | apply hk | with_reducible apply pldmSay_keeps | with_reducible apply keepsR_next | with_reducible apply keeps_ite | with_reducible apply keepsR_ite | intro _ | dsimp only | split)

theorem pldmGive_keeps {s0 s : State} (b : Nat) (ty : Nat) (cmd : Nat) (data : List Nat) (h : Keeps s0 s) : KeepsR s0 (pldmGive b ty cmd data s) := by
  unfold pldmGive
  repeat' (first | with_reducible assumption | with_reducible exact Keeps.refl _ | with_reducible apply pldmServe_keeps | with_reducible apply pldmSay_keeps | with_reducible apply keepsR_next | with_reducible apply keeps_ite | with_reducible apply keepsR_ite | intro _ | dsimp only | split)

theorem execGettid_keeps {s0 s : State} (b : Nat) (h : Keeps s0 s) : KeepsR s0 (execGettid b s) := by
  unfold execGettid
  repeat' (first | with_reducible assumption | with_reducible exact Keeps.refl _ | with_reducible apply pldmGive_keeps | with_reducible apply keepsR_next | with_reducible apply keeps_ite | with_reducible apply keepsR_ite | intro _ | dsimp only | split)

theorem execSettid_keeps {s0 s : State} (b : Nat) (v : Nat) (h : Keeps s0 s) : KeepsR s0 (execSettid b v s) := by
  unfold execSettid
  repeat' (first | with_reducible assumption | with_reducible exact Keeps.refl _ | with_reducible apply mgmtMod_keeps | exact ⟨fun _ => rfl, le_rfl⟩ | with_reducible apply pldmServe_keeps | with_reducible apply pldmSay_keeps | with_reducible apply keepsR_next | with_reducible apply keeps_ite | with_reducible apply keepsR_ite | simp only [keeps_mk_iff] | intro _ | dsimp only | split)

theorem execGetpldmversion_keeps {s0 s : State} (b : Nat) (ty : Nat) (h : Keeps s0 s) : KeepsR s0 (execGetpldmversion b ty s) := by
  unfold execGetpldmversion
  repeat' (first | with_reducible assumption | with_reducible exact Keeps.refl _ | with_reducible apply pldmServe_keeps | with_reducible apply pldmSay_keeps | with_reducible apply keepsR_next | with_reducible apply keeps_ite | with_reducible apply keepsR_ite | intro _ | dsimp only | split)

theorem execGetpldmtypes_keeps {s0 s : State} (b : Nat) (h : Keeps s0 s) : KeepsR s0 (execGetpldmtypes b s) := by
  unfold execGetpldmtypes
  repeat' (first | with_reducible assumption | with_reducible exact Keeps.refl _ | with_reducible apply pldmGive_keeps | with_reducible apply keepsR_next | with_reducible apply keeps_ite | with_reducible apply keepsR_ite | intro _ | dsimp only | split)

theorem execGetpldmcommands_keeps {s0 s : State} (b : Nat) (ty : Nat) (h : Keeps s0 s) : KeepsR s0 (execGetpldmcommands b ty s) := by
  unfold execGetpldmcommands
  repeat' (first | with_reducible assumption | with_reducible exact Keeps.refl _ | with_reducible apply pldmServe_keeps | with_reducible apply pldmSay_keeps | with_reducible apply keeps_foldl | with_reducible apply keeps_foldl_snd | with_reducible apply keeps_foldl_fst | with_reducible apply keeps_ite_snd | with_reducible apply keepsR_next | with_reducible apply keeps_ite | with_reducible apply keepsR_ite | intro _ | dsimp only | split)

theorem crossings_keeps {s0 x4 : State} (i : Nat) (x1 : Nat) (x2 : Nat) (x3 : Nat) (h : Keeps s0 x4) : Keeps s0 (crossings i x1 x2 x3 x4) := by
  induction x1 generalizing i x2 x3 x4 with
  | zero =>
    unfold crossings
    repeat' (first | with_reducible assumption | with_reducible exact Keeps.refl _ | apply ih | with_reducible apply pldmPush_keeps | with_reducible apply keeps_ite | intro _ | dsimp only | split)
  | succ k ih =>
    unfold crossings
    repeat' (first | with_reducible assumption | with_reducible exact Keeps.refl _ | apply ih | with_reducible apply pldmPush_keeps | with_reducible apply keeps_ite | intro _ | dsimp only | split)

theorem sensorsRead_keeps {s0 s : State}  (h : Keeps s0 s) : Keeps s0 (sensorsRead s) := by
  unfold sensorsRead
  repeat' (first | with_reducible assumption | with_reducible exact Keeps.refl _ | with_reducible apply mgmtMod_keeps | exact ⟨fun _ => rfl, le_rfl⟩ | with_reducible apply crossings_keeps | with_reducible apply keeps_foldl | with_reducible apply keeps_foldl_snd | with_reducible apply keeps_foldl_fst | with_reducible apply keeps_ite_snd | with_reducible apply keeps_ite | simp only [keeps_mk_iff] | intro _ | dsimp only | split)

theorem execGetsensorreading_keeps {s0 s : State} (b : Nat) (i : Nat) (h : Keeps s0 s) : KeepsR s0 (execGetsensorreading b i s) := by
  unfold execGetsensorreading
  repeat' (first | with_reducible assumption | with_reducible exact Keeps.refl _ | with_reducible apply pldmServe_keeps | with_reducible apply pldmSay_keeps | with_reducible apply keepsR_next | with_reducible apply keeps_ite | with_reducible apply keepsR_ite | intro _ | dsimp only | split)

theorem execGetstatesensorreadings_keeps {s0 s : State} (b : Nat) (i : Nat) (h : Keeps s0 s) : KeepsR s0 (execGetstatesensorreadings b i s) := by
  unfold execGetstatesensorreadings
  repeat' (first | with_reducible assumption | with_reducible exact Keeps.refl _ | with_reducible apply pldmServe_keeps | with_reducible apply pldmSay_keeps | with_reducible apply keepsR_next | with_reducible apply keeps_ite | with_reducible apply keepsR_ite | intro _ | dsimp only | split)

theorem execSetstateeffecterstates_keeps {s0 s : State} (b : Nat) (e : Nat) (v : Nat) (h : Keeps s0 s) : KeepsR s0 (execSetstateeffecterstates b e v s) := by
  unfold execSetstateeffecterstates
  repeat' (first | with_reducible assumption | with_reducible exact Keeps.refl _ | with_reducible apply shutDown_keeps | with_reducible apply pldmServe_keeps | with_reducible apply pldmSay_keeps | with_reducible apply fbkMod_keeps | with_reducible apply keepsR_next | with_reducible apply keeps_ite | with_reducible apply keepsR_ite | simp only [keeps_mk_iff] | intro _ | dsimp only | split)

theorem execSeteventreceiver_keeps {s0 s : State} (b : Nat) (mode : Nat) (eid : Nat) (h : Keeps s0 s) : KeepsR s0 (execSeteventreceiver b mode eid s) := by
  unfold execSeteventreceiver
  repeat' (first | with_reducible assumption | with_reducible exact Keeps.refl _ | with_reducible apply mgmtMod_keeps | exact ⟨fun _ => rfl, le_rfl⟩ | with_reducible apply pldmServe_keeps | with_reducible apply pldmSay_keeps | with_reducible apply keepsR_next | with_reducible apply keeps_ite | with_reducible apply keepsR_ite | simp only [keeps_mk_iff] | intro _ | dsimp only | split)

theorem execGeteventreceiver_keeps {s0 s : State} (b : Nat) (h : Keeps s0 s) : KeepsR s0 (execGeteventreceiver b s) := by
  unfold execGeteventreceiver
  repeat' (first | with_reducible assumption | with_reducible exact Keeps.refl _ | with_reducible apply pldmGive_keeps | with_reducible apply keepsR_next | with_reducible apply keeps_ite | with_reducible apply keepsR_ite | intro _ | dsimp only | split)

theorem execGetpdrrepositoryinfo_keeps {s0 s : State} (b : Nat) (h : Keeps s0 s) : KeepsR s0 (execGetpdrrepositoryinfo b s) := by
  unfold execGetpdrrepositoryinfo
  repeat' (first | with_reducible assumption | with_reducible exact Keeps.refl _ | with_reducible apply pldmGive_keeps | with_reducible apply keepsR_next | with_reducible apply keeps_ite | with_reducible apply keepsR_ite | intro _ | dsimp only | split)

theorem execGetpdr_keeps {s0 s : State} (b : Nat) (h' : Nat) (h : Keeps s0 s) : KeepsR s0 (execGetpdr b h' s) := by
  unfold execGetpdr
  repeat' (first | with_reducible assumption | with_reducible exact Keeps.refl _ | with_reducible apply pldmServe_keeps | with_reducible apply pldmSay_keeps | with_reducible apply keepsR_next | with_reducible apply keeps_ite | with_reducible apply keepsR_ite | intro _ | dsimp only | split)

theorem eventSend_keeps {s0 s : State} (t : Nat) (k : Nat) (h : Keeps s0 s) : Keeps s0 (eventSend t k s) := by
  unfold eventSend
  repeat' (first | with_reducible assumption | with_reducible exact Keeps.refl _ | with_reducible apply emit_keeps | with_reducible apply keeps_ite | simp only [keeps_mk_iff, keeps_mk_pldm_iff] | intro _ | dsimp only | split)

theorem execPlatformeventmessage_keeps {s0 s : State} (t : Nat) (h : Keeps s0 s) : KeepsR s0 (execPlatformeventmessage t s) := by
  unfold execPlatformeventmessage
  repeat' (first | with_reducible assumption | with_reducible exact Keeps.refl _ | with_reducible apply atTime_keeps | with_reducible apply eventSend_keeps | with_reducible apply keepsR_next | with_reducible apply keeps_ite | with_reducible apply keepsR_ite | intro _ | dsimp only | split)

theorem execPlatformEventRetry_keeps {s0 s : State} (t : Nat) (h : Keeps s0 s) : KeepsR s0 (execPlatformEventRetry t s) := by
  unfold execPlatformEventRetry
  repeat' (first | with_reducible assumption | with_reducible exact Keeps.refl _ | with_reducible apply atTime_keeps | with_reducible apply eventSend_keeps | with_reducible apply keepsR_next | with_reducible apply keeps_ite | with_reducible apply keepsR_ite | intro _ | dsimp only | split)

theorem execPlatformeventmessageResponse_keeps {s0 s : State} (k : Nat) (h : Keeps s0 s) : KeepsR s0 (execPlatformeventmessageResponse k s) := by
  unfold execPlatformeventmessageResponse
  repeat' (first | with_reducible assumption | with_reducible exact Keeps.refl _ | with_reducible apply keepsR_next | with_reducible apply keeps_ite | with_reducible apply keepsR_ite | simp only [keeps_mk_iff, keeps_mk_pldm_iff] | intro _ | dsimp only | split)

theorem execGetdatetime_keeps {s0 s : State} (b : Nat) (h : Keeps s0 s) : KeepsR s0 (execGetdatetime b s) := by
  unfold execGetdatetime
  repeat' (first | with_reducible assumption | with_reducible exact Keeps.refl _ | with_reducible apply pldmServe_keeps | with_reducible apply pldmSay_keeps | with_reducible apply keepsR_next | with_reducible apply keeps_ite | with_reducible apply keepsR_ite | intro _ | dsimp only | split)

theorem execSetdatetime_keeps {s0 s : State} (b : Nat) (y : Nat) (m : Nat) (d : Nat) (h' : Nat) (mi : Nat) (sec : Nat) (h : Keeps s0 s) : KeepsR s0 (execSetdatetime b y m d h' mi sec s) := by
  unfold execSetdatetime
  repeat' (first | with_reducible assumption | with_reducible exact Keeps.refl _ | with_reducible apply calSet_keeps | with_reducible apply pldmServe_keeps | with_reducible apply pldmSay_keeps | with_reducible apply keepsR_next | with_reducible apply keeps_ite | with_reducible apply keepsR_ite | intro _ | dsimp only | split)

theorem slotMod_keeps {s0 s : State} (k : Nat) (g : FlashSlot → FlashSlot) (h : Keeps s0 s) : Keeps s0 (slotMod k g s) := by
  unfold slotMod
  repeat' (first | with_reducible assumption | with_reducible exact Keeps.refl _ | with_reducible apply mgmtMod_keeps | exact ⟨fun _ => rfl, le_rfl⟩ | with_reducible apply keeps_ite | simp only [keeps_mk_iff] | intro _ | dsimp only | split)

theorem fwIdle_keeps {s0 s : State}  (h : Keeps s0 s) : Keeps s0 (fwIdle s) := by
  unfold fwIdle
  repeat' (first | with_reducible assumption | with_reducible exact Keeps.refl _ | with_reducible apply wr_keeps | with_reducible apply keeps_ite | intro _ | dsimp only | split)

theorem updEnd_keeps {s0 s : State}  (h : Keeps s0 s) : Keeps s0 (updEnd s) := by
  unfold updEnd
  repeat' (first | with_reducible assumption | with_reducible exact Keeps.refl _ | with_reducible apply mgmtMod_keeps | exact ⟨fun _ => rfl, le_rfl⟩ | with_reducible apply fwIdle_keeps | with_reducible apply keeps_ite | simp only [keeps_mk_iff] | intro _ | dsimp only | split)

theorem updServe_keeps {s0 s : State} (b : Nat) (cmd : Nat) (states : List Nat) (k : State → State) (hk : ∀ u, Keeps s0 u → Keeps s0 (k u)) (h : Keeps s0 s) : KeepsR s0 (updServe b cmd states k s) := by
  unfold updServe
  repeat' (first | with_reducible assumption | with_reducible exact Keeps.refl _ | apply hk | with_reducible apply pldmServe_keeps | with_reducible apply pldmSay_keeps | with_reducible apply keepsR_next | with_reducible apply keeps_ite | with_reducible apply keepsR_ite | intro _ | dsimp only | split)

theorem execQuerydeviceidentifiers_keeps {s0 s : State} (b : Nat) (h : Keeps s0 s) : KeepsR s0 (execQuerydeviceidentifiers b s) := by
  unfold execQuerydeviceidentifiers
  repeat' (first | with_reducible assumption | with_reducible exact Keeps.refl _ | with_reducible apply pldmGive_keeps | with_reducible apply keepsR_next | with_reducible apply keeps_ite | with_reducible apply keepsR_ite | intro _ | dsimp only | split)

theorem execGetfirmwareparameters_keeps {s0 s : State} (b : Nat) (h : Keeps s0 s) : KeepsR s0 (execGetfirmwareparameters b s) := by
  unfold execGetfirmwareparameters
  repeat' (first | with_reducible assumption | with_reducible exact Keeps.refl _ | with_reducible apply pldmGive_keeps | with_reducible apply keepsR_next | with_reducible apply keeps_ite | with_reducible apply keepsR_ite | intro _ | dsimp only | split)

theorem execRequestupdate_keeps {s0 s : State} (b : Nat) (h : Keeps s0 s) : KeepsR s0 (execRequestupdate b s) := by
  unfold execRequestupdate
  repeat' (first | with_reducible assumption | with_reducible exact Keeps.refl _ | with_reducible apply wr_keeps | with_reducible apply mgmtMod_keeps | exact ⟨fun _ => rfl, le_rfl⟩ | with_reducible apply pldmServe_keeps | with_reducible apply pldmSay_keeps | with_reducible apply keepsR_next | with_reducible apply keeps_ite | with_reducible apply keepsR_ite | simp only [keeps_mk_iff] | intro _ | dsimp only | split)

theorem execPasscomponenttable_keeps {s0 s : State} (b : Nat) (id : Nat) (last : Bool) (h : Keeps s0 s) : KeepsR s0 (execPasscomponenttable b id last s) := by
  unfold execPasscomponenttable
  repeat' (first | with_reducible assumption | with_reducible exact Keeps.refl _ | with_reducible apply mgmtMod_keeps | exact ⟨fun _ => rfl, le_rfl⟩ | with_reducible apply updServe_keeps | with_reducible apply pldmSay_keeps | with_reducible apply keepsR_next | with_reducible apply keeps_ite | with_reducible apply keepsR_ite | simp only [keeps_mk_iff] | intro _ | dsimp only | split)

theorem askBlock_keeps {s0 s : State}  (h : Keeps s0 s) : Keeps s0 (askBlock s) := by
  unfold askBlock
  repeat' (first | with_reducible assumption | with_reducible exact Keeps.refl _ | with_reducible apply pldmSay_keeps | with_reducible apply keeps_ite | intro _ | dsimp only | split)

theorem execUpdatecomponent_keeps {s0 s : State} (b : Nat) (id : Nat) (ver : Nat) (svn : Nat) (size : Nat) (slot : Nat) (h : Keeps s0 s) : KeepsR s0 (execUpdatecomponent b id ver svn size slot s) := by
  unfold execUpdatecomponent
  repeat' (first | with_reducible assumption | with_reducible exact Keeps.refl _ | with_reducible apply mgmtMod_keeps | exact ⟨fun _ => rfl, le_rfl⟩ | with_reducible apply askBlock_keeps | with_reducible apply updServe_keeps | with_reducible apply pldmSay_keeps | with_reducible apply keepsR_next | with_reducible apply keeps_ite | with_reducible apply keepsR_ite | simp only [keeps_mk_iff] | intro _ | dsimp only | split)

theorem imageIn_keeps {s0 s : State} (pass : Bool) (h : Keeps s0 s) : Keeps s0 (imageIn pass s) := by
  unfold imageIn
  repeat' (first | with_reducible assumption | with_reducible exact Keeps.refl _ | with_reducible apply mgmtMod_keeps | exact ⟨fun _ => rfl, le_rfl⟩ | with_reducible apply slotMod_keeps | with_reducible apply pldmSay_keeps | with_reducible apply keeps_ite | simp only [keeps_mk_iff] | intro _ | dsimp only | split)

theorem execRequestfirmwaredata_keeps {s0 s : State} (b : Nat) (n : Nat) (pass : Bool) (h : Keeps s0 s) : KeepsR s0 (execRequestfirmwaredata b n pass s) := by
  unfold execRequestfirmwaredata
  repeat' (first | with_reducible assumption | with_reducible exact Keeps.refl _ | with_reducible apply mgmtMod_keeps | exact ⟨fun _ => rfl, le_rfl⟩ | with_reducible apply imageIn_keeps | with_reducible apply askBlock_keeps | with_reducible apply keepsR_next | with_reducible apply keeps_ite | with_reducible apply keepsR_ite | simp only [keeps_mk_iff] | intro _ | dsimp only | split)

theorem execApplycomplete_keeps {s0 s : State}  (h : Keeps s0 s) : KeepsR s0 (execApplycomplete s) := by
  unfold execApplycomplete
  repeat' (first | with_reducible assumption | with_reducible exact Keeps.refl _ | with_reducible apply wr_keeps | with_reducible apply secRecord_keeps | with_reducible apply mgmtMod_keeps | exact ⟨fun _ => rfl, le_rfl⟩ | with_reducible apply slotMod_keeps | with_reducible apply pldmSay_keeps | with_reducible apply keepsR_next | with_reducible apply keeps_ite | with_reducible apply keepsR_ite | simp only [keeps_mk_iff] | intro _ | dsimp only | split)

theorem execActivatefirmware_keeps {s0 s : State} (b : Nat) (self : Bool) (h : Keeps s0 s) : KeepsR s0 (execActivatefirmware b self s) := by
  unfold execActivatefirmware
  repeat' (first | with_reducible assumption | with_reducible exact Keeps.refl _ | with_reducible apply mgmtMod_keeps | exact ⟨fun _ => rfl, le_rfl⟩ | with_reducible apply bootRun_keeps | with_reducible apply updEnd_keeps | with_reducible apply updServe_keeps | with_reducible apply pldmSay_keeps | with_reducible apply keepsR_next | with_reducible apply keeps_ite | with_reducible apply keepsR_ite | simp only [keeps_mk_iff] | intro _ | dsimp only | split)

theorem execGetstatus_keeps {s0 s : State} (b : Nat) (h : Keeps s0 s) : KeepsR s0 (execGetstatus b s) := by
  unfold execGetstatus
  repeat' (first | with_reducible assumption | with_reducible exact Keeps.refl _ | with_reducible apply pldmGive_keeps | with_reducible apply keepsR_next | with_reducible apply keeps_ite | with_reducible apply keepsR_ite | intro _ | dsimp only | split)

theorem execCancelupdatecomponent_keeps {s0 s : State} (b : Nat) (h : Keeps s0 s) : KeepsR s0 (execCancelupdatecomponent b s) := by
  unfold execCancelupdatecomponent
  repeat' (first | with_reducible assumption | with_reducible exact Keeps.refl _ | with_reducible apply mgmtMod_keeps | exact ⟨fun _ => rfl, le_rfl⟩ | with_reducible apply updServe_keeps | with_reducible apply pldmSay_keeps | with_reducible apply keepsR_next | with_reducible apply keeps_ite | with_reducible apply keepsR_ite | simp only [keeps_mk_iff] | intro _ | dsimp only | split)

theorem execCancelupdate_keeps {s0 s : State} (b : Nat) (h : Keeps s0 s) : KeepsR s0 (execCancelupdate b s) := by
  unfold execCancelupdate
  repeat' (first | with_reducible assumption | with_reducible exact Keeps.refl _ | with_reducible apply updEnd_keeps | with_reducible apply updServe_keeps | with_reducible apply pldmSay_keeps | with_reducible apply keepsR_next | with_reducible apply keeps_ite | with_reducible apply keepsR_ite | intro _ | dsimp only | split)

theorem spdmSay_keeps {s0 s : State} (b : Nat) (code : Nat) (data : List Nat) (h : Keeps s0 s) : Keeps s0 (spdmSay b code data s) := by
  unfold spdmSay
  repeat' (first | with_reducible assumption | with_reducible exact Keeps.refl _ | with_reducible apply emit_keeps | with_reducible apply keeps_ite | intro _ | dsimp only | split)

theorem spdmError_keeps {s0 s : State} (b : Nat) (e : Nat) (h : Keeps s0 s) : Keeps s0 (spdmError b e s) := by
  unfold spdmError
  repeat' (first | with_reducible assumption | with_reducible exact Keeps.refl _ | with_reducible apply spdmSay_keeps | with_reducible apply keeps_ite | intro _ | dsimp only | split)

theorem spdmServe_keeps {s0 s : State} (b : Nat) (need : Nat) (k : State → State) (hk : ∀ u, Keeps s0 u → Keeps s0 (k u)) (h : Keeps s0 s) : KeepsR s0 (spdmServe b need k s) := by
  unfold spdmServe
  repeat' (first | with_reducible assumption | with_reducible exact Keeps.refl _ | apply hk | with_reducible apply spdmError_keeps | with_reducible apply keepsR_next | with_reducible apply keeps_ite | with_reducible apply keepsR_ite | intro _ | dsimp only | split)

theorem execGetVersion_keeps {s0 s : State} (b : Nat) (h : Keeps s0 s) : KeepsR s0 (execGetVersion b s) := by
  unfold execGetVersion
  repeat' (first | with_reducible assumption | with_reducible exact Keeps.refl _ | with_reducible apply mgmtMod_keeps | exact ⟨fun _ => rfl, le_rfl⟩ | with_reducible apply spdmServe_keeps | with_reducible apply spdmSay_keeps | with_reducible apply keepsR_next | with_reducible apply keeps_ite | with_reducible apply keepsR_ite | simp only [keeps_mk_iff] | intro _ | dsimp only | split)

theorem execGetCapabilities_keeps {s0 s : State} (b : Nat) (h : Keeps s0 s) : KeepsR s0 (execGetCapabilities b s) := by
  unfold execGetCapabilities
  repeat' (first | with_reducible assumption | with_reducible exact Keeps.refl _ | with_reducible apply mgmtMod_keeps | exact ⟨fun _ => rfl, le_rfl⟩ | with_reducible apply spdmServe_keeps | with_reducible apply spdmSay_keeps | with_reducible apply keepsR_next | with_reducible apply keeps_ite | with_reducible apply keepsR_ite | simp only [keeps_mk_iff] | intro _ | dsimp only | split)

theorem execNegotiateAlgorithms_keeps {s0 s : State} (b : Nat) (asym : Nat) (hash : Nat) (h : Keeps s0 s) : KeepsR s0 (execNegotiateAlgorithms b asym hash s) := by
  unfold execNegotiateAlgorithms
  repeat' (first | with_reducible assumption | with_reducible exact Keeps.refl _ | with_reducible apply mgmtMod_keeps | exact ⟨fun _ => rfl, le_rfl⟩ | with_reducible apply spdmError_keeps | with_reducible apply spdmServe_keeps | with_reducible apply spdmSay_keeps | with_reducible apply keepsR_next | with_reducible apply keeps_ite | with_reducible apply keepsR_ite | simp only [keeps_mk_iff] | intro _ | dsimp only | split)

theorem execGetDigests_keeps {s0 s : State} (b : Nat) (h : Keeps s0 s) : KeepsR s0 (execGetDigests b s) := by
  unfold execGetDigests
  repeat' (first | with_reducible assumption | with_reducible exact Keeps.refl _ | with_reducible apply spdmServe_keeps | with_reducible apply spdmSay_keeps | with_reducible apply keepsR_next | with_reducible apply keeps_ite | with_reducible apply keepsR_ite | intro _ | dsimp only | split)

theorem execGetCertificate_keeps {s0 s : State} (b : Nat) (slot : Nat) (off : Nat) (len : Nat) (h : Keeps s0 s) : KeepsR s0 (execGetCertificate b slot off len s) := by
  unfold execGetCertificate
  repeat' (first | with_reducible assumption | with_reducible exact Keeps.refl _ | with_reducible apply spdmError_keeps | with_reducible apply spdmServe_keeps | with_reducible apply spdmSay_keeps | with_reducible apply keepsR_next | with_reducible apply keeps_ite | with_reducible apply keepsR_ite | intro _ | dsimp only | split)

theorem spdmSign_keeps {s0 s : State}  (h : Keeps s0 s) : Keeps s0 (spdmSign s).2 := by
  unfold spdmSign
  repeat' (first | with_reducible assumption | with_reducible exact Keeps.refl _ | with_reducible apply drawFree_keeps | with_reducible apply keeps_foldl | with_reducible apply keeps_foldl_snd | with_reducible apply keeps_foldl_fst | with_reducible apply keeps_ite_snd | with_reducible apply keeps_ite | with_reducible apply keeps_ite_snd | intro _ | dsimp only | split)

theorem execChallenge_keeps {s0 s : State} (b : Nat) (slot : Nat) (h : Keeps s0 s) : KeepsR s0 (execChallenge b slot s) := by
  unfold execChallenge
  repeat' (first | with_reducible assumption | with_reducible exact Keeps.refl _ | with_reducible apply spdmError_keeps | with_reducible apply spdmServe_keeps | with_reducible apply spdmSay_keeps | with_reducible apply spdmSign_keeps | with_reducible apply keepsR_next | with_reducible apply keeps_ite | with_reducible apply keepsR_ite | intro _ | dsimp only | split)

theorem execGetMeasurements_keeps {s0 s : State} (b : Nat) (i : Nat) (sign : Bool) (h : Keeps s0 s) : KeepsR s0 (execGetMeasurements b i sign s) := by
  unfold execGetMeasurements
  repeat' (first | with_reducible assumption | with_reducible exact Keeps.refl _ | with_reducible apply spdmError_keeps | with_reducible apply spdmServe_keeps | with_reducible apply spdmSay_keeps | with_reducible apply spdmSign_keeps | with_reducible apply keepsR_next | with_reducible apply keeps_ite | with_reducible apply keepsR_ite | intro _ | dsimp only | split)

theorem execSpdmUnsupportedRequest_keeps {s0 s : State} (b : Nat) (h : Keeps s0 s) : KeepsR s0 (execSpdmUnsupportedRequest b s) := by
  unfold execSpdmUnsupportedRequest
  repeat' (first | with_reducible assumption | with_reducible exact Keeps.refl _ | with_reducible apply spdmError_keeps | with_reducible apply spdmServe_keeps | with_reducible apply keepsR_next | with_reducible apply keeps_ite | with_reducible apply keepsR_ite | intro _ | dsimp only | split)

theorem execDoeDiscovery_keeps {s0 s : State} (i : Nat) (h : Keeps s0 s) : KeepsR s0 (execDoeDiscovery i s) := by
  unfold execDoeDiscovery
  repeat' (first | with_reducible assumption | with_reducible exact Keeps.refl _ | with_reducible apply emit_keeps | with_reducible apply keepsR_next | with_reducible apply keeps_ite | with_reducible apply keepsR_ite | intro _ | dsimp only | split)

theorem mbOwner_keeps {s0 s : State}  (h : Keeps s0 s) : Keeps s0 (mbOwner s).2 := by
  unfold mbOwner
  repeat' (first | with_reducible assumption | with_reducible exact Keeps.refl _ | with_reducible apply wr_keeps | with_reducible apply secRecord_keeps | with_reducible apply mgmtMod_keeps | exact ⟨fun _ => rfl, le_rfl⟩ | with_reducible apply measRaw_keeps | with_reducible apply keeps_ite | with_reducible apply keeps_ite_snd | simp only [keeps_mk_iff] | intro _ | dsimp only | split)
  rename_i hn
  exact ⟨fun x => absurd (bne_iff_ne.mpr x) hn, le_rfl⟩

theorem keyPut_keeps {s0 s : State} (k : Nat) (x : KeySlot) (h : Keeps s0 s) : Keeps s0 (keyPut k x s) := by
  unfold keyPut
  repeat' (first | with_reducible assumption | with_reducible exact Keeps.refl _ | with_reducible apply measFree_keeps | with_reducible apply keeps_ite | simp only [keeps_mk_iff] | intro _ | dsimp only | split)

theorem mbInstall_keeps {s0 s : State}  (h : Keeps s0 s) : Keeps s0 (mbInstall s).2 := by
  unfold mbInstall
  repeat' (first | with_reducible assumption | with_reducible exact Keeps.refl _ | with_reducible apply secRecord_keeps | with_reducible apply keyPut_keeps | with_reducible apply keeps_ite | with_reducible apply keeps_ite_snd | intro _ | dsimp only | split)

theorem mbRevoke_keeps {s0 s : State}  (h : Keeps s0 s) : Keeps s0 (mbRevoke s).2 := by
  unfold mbRevoke
  repeat' (first | with_reducible assumption | with_reducible exact Keeps.refl _ | with_reducible apply secRecord_keeps | with_reducible apply keyPut_keeps | with_reducible apply keeps_ite | with_reducible apply keeps_ite_snd | simp only [keeps_mk_iff] | intro _ | dsimp only | split)

theorem mbAdvance_keeps {s0 s : State}  (h : Keeps s0 s) : Keeps s0 (mbAdvance s).2 := by
  unfold mbAdvance
  repeat' (first | with_reducible assumption | with_reducible exact Keeps.refl _ | with_reducible apply wr_keeps | with_reducible apply secRecord_keeps | with_reducible apply mgmtMod_keeps | exact ⟨fun _ => rfl, le_rfl⟩ | with_reducible apply measRaw_keeps | with_reducible apply keeps_ite | with_reducible apply keeps_ite_snd | simp only [keeps_mk_iff] | intro _ | dsimp only | split)
  rename_i _ hn
  exact ⟨fun _ => rfl, by show s.mgmt.fusedSvn ≤ mbWord s 0; omega⟩

theorem mbActivate_keeps {s0 s : State}  (h : Keeps s0 s) : Keeps s0 (mbActivate s).2 := by
  unfold mbActivate
  repeat' (first | with_reducible assumption | with_reducible exact Keeps.refl _ | with_reducible apply mgmtMod_keeps | exact ⟨fun _ => rfl, le_rfl⟩ | with_reducible apply keeps_ite | with_reducible apply keeps_ite_snd | simp only [keeps_mk_iff] | intro _ | dsimp only | split)

theorem mbBoard_keeps {s0 s : State}  (h : Keeps s0 s) : Keeps s0 (mbBoard s).2 := by
  unfold mbBoard
  repeat' (first | with_reducible assumption | with_reducible exact Keeps.refl _ | with_reducible apply wr_keeps | with_reducible apply keeps_iter | with_reducible apply keeps_ite | with_reducible apply keeps_ite_snd | intro _ | dsimp only | split)

theorem mailboxRun_keeps {s0 s : State} (op : Nat) (h : Keeps s0 s) : Keeps s0 (mailboxRun op s) := by
  unfold mailboxRun
  repeat' (first | with_reducible assumption | with_reducible exact Keeps.refl _ | with_reducible apply wr_keeps | with_reducible apply mbBoard_keeps | with_reducible apply mbOwner_keeps | with_reducible apply mbRevoke_keeps | with_reducible apply mbInstall_keeps | with_reducible apply mbAdvance_keeps | with_reducible apply mbActivate_keeps | with_reducible apply keeps_ite | intro _ | dsimp only | split)

theorem mailboxAsk_keeps {s0 s : State} (op : Nat) (h : Keeps s0 s) : Keeps s0 (mailboxAsk op s) := by
  unfold mailboxAsk
  repeat' (first | with_reducible assumption | with_reducible exact Keeps.refl _ | with_reducible apply wr_keeps | with_reducible apply holdCmd_keeps | with_reducible apply mailboxRun_keeps | with_reducible apply keeps_ite | intro _ | dsimp only | split)

theorem execSetOwner_keeps {s0 s : State}  (h : Keeps s0 s) : KeepsR s0 (execSetOwner s) := by
  unfold execSetOwner
  repeat' (first | with_reducible assumption | with_reducible exact Keeps.refl _ | with_reducible apply mailboxAsk_keeps | with_reducible apply keepsR_next | with_reducible apply keeps_ite | with_reducible apply keepsR_ite | intro _ | dsimp only | split)

theorem execInstallKey_keeps {s0 s : State}  (h : Keeps s0 s) : KeepsR s0 (execInstallKey s) := by
  unfold execInstallKey
  repeat' (first | with_reducible assumption | with_reducible exact Keeps.refl _ | with_reducible apply mailboxAsk_keeps | with_reducible apply keepsR_next | with_reducible apply keeps_ite | with_reducible apply keepsR_ite | intro _ | dsimp only | split)

theorem execRevokeKey_keeps {s0 s : State}  (h : Keeps s0 s) : KeepsR s0 (execRevokeKey s) := by
  unfold execRevokeKey
  repeat' (first | with_reducible assumption | with_reducible exact Keeps.refl _ | with_reducible apply mailboxAsk_keeps | with_reducible apply keepsR_next | with_reducible apply keeps_ite | with_reducible apply keepsR_ite | intro _ | dsimp only | split)

theorem execAdvanceSvn_keeps {s0 s : State}  (h : Keeps s0 s) : KeepsR s0 (execAdvanceSvn s) := by
  unfold execAdvanceSvn
  repeat' (first | with_reducible assumption | with_reducible exact Keeps.refl _ | with_reducible apply mailboxAsk_keeps | with_reducible apply keepsR_next | with_reducible apply keeps_ite | with_reducible apply keepsR_ite | intro _ | dsimp only | split)

theorem execActivate_keeps {s0 s : State}  (h : Keeps s0 s) : KeepsR s0 (execActivate s) := by
  unfold execActivate
  repeat' (first | with_reducible assumption | with_reducible exact Keeps.refl _ | with_reducible apply mailboxAsk_keeps | with_reducible apply keepsR_next | with_reducible apply keeps_ite | with_reducible apply keepsR_ite | intro _ | dsimp only | split)

theorem execReadBoard_keeps {s0 s : State}  (h : Keeps s0 s) : KeepsR s0 (execReadBoard s) := by
  unfold execReadBoard
  repeat' (first | with_reducible assumption | with_reducible exact Keeps.refl _ | with_reducible apply mailboxAsk_keeps | with_reducible apply keepsR_next | with_reducible apply keeps_ite | with_reducible apply keepsR_ite | intro _ | dsimp only | split)

theorem activationStart_keeps {s0 s : State}  (h : Keeps s0 s) : Keeps s0 (activationStart s) := by
  unfold activationStart
  repeat' (first | with_reducible assumption | with_reducible exact Keeps.refl _ | with_reducible apply wr_keeps | with_reducible apply mgmtMod_keeps | exact ⟨fun _ => rfl, le_rfl⟩ | with_reducible apply keeps_ite | simp only [keeps_mk_iff] | intro _ | dsimp only | split)

theorem heldRun_keeps {s0 s : State} (c : List Nat) (h : Keeps s0 s) : Keeps s0 (heldRun c s) := by
  unfold heldRun
  repeat' (first | with_reducible assumption | with_reducible exact Keeps.refl _ | with_reducible apply wr_keeps | with_reducible apply foldCommand_keeps | with_reducible apply pdkRun_keeps | with_reducible apply mailboxRun_keeps | with_reducible apply keeps_ite | intro _ | dsimp only | split)

theorem takeUp_keeps {s0 s : State} (st : List Nat) (h : Keeps s0 s) : Keeps s0 (takeUp st s) := by
  unfold takeUp
  repeat' (first | with_reducible assumption | with_reducible exact Keeps.refl _ | with_reducible apply wr_keeps | with_reducible apply repairAdvance_keeps | with_reducible apply mgmtMod_keeps | exact ⟨fun _ => rfl, le_rfl⟩ | with_reducible apply alertRead_keeps | with_reducible apply heldRun_keeps | with_reducible apply keeps_foldl | with_reducible apply keeps_foldl_snd | with_reducible apply keeps_foldl_fst | with_reducible apply keeps_ite_snd | with_reducible apply keeps_ite | simp only [keeps_mk_iff] | intro _ | dsimp only | split)

theorem execLiveActivationDone_keeps {s0 s : State} (t : Nat) (st : List Nat) (h : Keeps s0 s) : KeepsR s0 (execLiveActivationDone t st s) := by
  unfold execLiveActivationDone
  repeat' (first | with_reducible assumption | with_reducible exact Keeps.refl _ | with_reducible apply wr_keeps | with_reducible apply atTime_keeps | with_reducible apply secRecord_keeps | with_reducible apply measFree_keeps | with_reducible apply firmwareRuns_keeps | with_reducible apply mgmtMod_keeps | exact ⟨fun _ => rfl, le_rfl⟩ | with_reducible apply measRaw_keeps | with_reducible apply takeUp_keeps | with_reducible apply keepsR_next | with_reducible apply keeps_ite | with_reducible apply keepsR_ite | simp only [keeps_mk_iff] | intro _ | dsimp only | split)

theorem execActivationWatchdog_keeps {s0 s : State} (t : Nat) (h : Keeps s0 s) : KeepsR s0 (execActivationWatchdog t s) := by
  unfold execActivationWatchdog
  repeat' (first | with_reducible assumption | with_reducible exact Keeps.refl _ | with_reducible apply wr_keeps | with_reducible apply atTime_keeps | with_reducible apply secRecord_keeps | with_reducible apply measFree_keeps | with_reducible apply firmwareRuns_keeps | with_reducible apply mgmtMod_keeps | exact ⟨fun _ => rfl, le_rfl⟩ | with_reducible apply measRaw_keeps | with_reducible apply keepsR_next | with_reducible apply keeps_ite | with_reducible apply keepsR_ite | simp only [keeps_mk_iff] | intro _ | dsimp only | split)

end Sys2Proof.Machine
end

