-- ==== Sys2Proof/Laws/KeepsTickPhases.lean ====
section
/-! SUPPORT. What the operations of Machine/TickPhases.lean keep (Laws/Keeps.lean). -/

namespace Sys2Proof.Machine

set_option linter.unusedTactic false
set_option linter.unreachableTactic false
set_option linter.unusedSimpArgs false

theorem runPhase_keeps {s0 s : State} (p : Nat) (f : CalEv → State → State)
    (hf : ∀ (e : CalEv) (u : State), Keeps s0 u → Keeps s0 (f e u)) (h : Keeps s0 s) : Keeps s0 (runPhase p f s) := by
  unfold runPhase
  extract_lets due es s1
  have h1 : Keeps s0 s1 := by
    apply calRefill_keeps
    exact keeps_mk_bell (fun x => le_trans (List.length_filter_le _ _) x) h
  apply keeps_foldl
  · intro u e hu
    apply hf; exact hu
  · exact h1

theorem recurring_keeps {s0 s : State} (h : Keeps s0 s) : Keeps s0 (recurring s) := by
  unfold recurring
  repeat' (first | with_reducible assumption | with_reducible exact Keeps.refl _ | with_reducible apply schedule_keeps | with_reducible apply dieWindow_keeps | with_reducible apply keeps_foldl | with_reducible apply keeps_foldl_snd | with_reducible apply keeps_foldl_fst | with_reducible apply keeps_ite | with_reducible apply keeps_ite_snd | intro _ | dsimp only | split)

theorem phase0Entry_keeps {s0 s : State} (e : CalEv) (h : Keeps s0 s) : Keeps s0 (phase0Entry e s) := by
  unfold phase0Entry
  repeat' (first | with_reducible assumption | with_reducible exact Keeps.refl _ | with_reducible apply clockStep_keeps | with_reducible apply keeps_ite | intro _ | dsimp only | split)

theorem phase1Entry_keeps {s0 s : State} (e : CalEv) (h : Keeps s0 s) : Keeps s0 (phase1Entry e s) := by
  unfold phase1Entry
  repeat' (first | with_reducible assumption | with_reducible exact Keeps.refl _ | with_reducible apply loadEntry_keeps | with_reducible apply startEntry_keeps | with_reducible apply swapEntry_keeps | with_reducible apply restartEntry_keeps | with_reducible apply keeps_ite | intro _ | dsimp only | split)

theorem phase2Entry_keeps {s0 s : State} (e : CalEv) (h : Keeps s0 s) : Keeps s0 (phase2Entry e s) := by
  unfold phase2Entry
  repeat' (first | with_reducible assumption | with_reducible exact Keeps.refl _ | with_reducible apply releaseEntry_keeps | with_reducible apply windowBegins_keeps | with_reducible apply windowEnds_keeps | with_reducible apply walkSlice_keeps | with_reducible apply forcedSlices_keeps | with_reducible apply coalesceBoundary_keeps | with_reducible apply windowOpen_keeps | with_reducible apply keeps_ite | intro _ | dsimp only | split)

theorem tickOpens_keeps {s0 s : State} (t : Nat) (h : Keeps s0 s) : Keeps s0 (tickOpens t s) := by
  unfold tickOpens
  repeat' (first | with_reducible assumption | with_reducible exact Keeps.refl _ | with_reducible apply ratMod_keeps | with_reducible apply wr_keeps | with_reducible apply periodChanged_keeps | with_reducible apply keeps_ite | simp only [keeps_mk_iff] | simp only [keeps_mk_bell_iff] | simp only [keeps_mk_iff, keeps_mk_bell_iff] | intro _ | dsimp only | split)

theorem bellLockRise_keeps {s0 s : State}  (h : Keeps s0 s) : Keeps s0 (bellLockRise s) := by
  unfold bellLockRise
  repeat' (first | with_reducible assumption | with_reducible exact Keeps.refl _ | with_reducible apply wr_keeps | with_reducible apply keeps_ite | simp only [keeps_mk_iff] | intro _ | dsimp only | split)

theorem aliveUpdate_keeps {s0 s : State}  (h : Keeps s0 s) : Keeps s0 (aliveUpdate s) := by
  unfold aliveUpdate
  repeat' (first | with_reducible assumption | with_reducible exact Keeps.refl _ | with_reducible apply wr_keeps | with_reducible apply aliveLow_keeps | with_reducible apply keeps_ite | simp only [keeps_mk_iff] | intro _ | dsimp only | split)

theorem execTickMoment_keeps {s0 s : State} (mon : Nat) (h : Keeps s0 s) : KeepsR s0 (execTickMoment mon s) := by
  unfold execTickMoment
  repeat' (first | with_reducible assumption | with_reducible exact Keeps.refl _ | with_reducible apply tickOpens_keeps | with_reducible apply atTime_keeps | with_reducible apply sharesUpdate_keeps | with_reducible apply runPhase_keeps | with_reducible apply phase0Entry_keeps | with_reducible apply accounting_keeps | with_reducible apply recurring_keeps | with_reducible apply counterUpdate_keeps | with_reducible apply aliveUpdate_keeps | with_reducible apply bellLockRise_keeps | with_reducible apply keepsR_next | with_reducible apply keeps_ite | with_reducible apply keepsR_ite | intro _ | dsimp only | split)

theorem execTickPhase1_keeps {s0 s : State} (draw : Nat) (h : Keeps s0 s) : KeepsR s0 (execTickPhase1 draw s) := by
  unfold execTickPhase1
  repeat' (first | with_reducible assumption | with_reducible exact Keeps.refl _ | with_reducible apply heldDrawSet_keeps | with_reducible apply phase1Entry_keeps | with_reducible apply runPhase_keeps | with_reducible apply keepsR_next | with_reducible apply keeps_ite | with_reducible apply keepsR_ite | intro _ | dsimp only | split)

theorem timebaseRecords_keeps {s0 s : State}  (h : Keeps s0 s) : Keeps s0 (timebaseRecords s) := by
  unfold timebaseRecords
  repeat' (first | with_reducible assumption | with_reducible exact Keeps.refl _ | with_reducible apply flockEvent_keeps | with_reducible apply keeps_foldl | with_reducible apply keeps_foldl_snd | with_reducible apply keeps_foldl_fst | with_reducible apply keeps_ite_snd | with_reducible apply keeps_ite | simp only [keeps_mk_iff, keeps_mk_bell_iff] | intro _ | dsimp only | split)

theorem pollRail_keeps {s0 s : State} (ok : Bool) (status : Nat) (pin : Nat) (h : Keeps s0 s) : Keeps s0 (pollRail ok status pin s) := by
  unfold pollRail
  repeat' (first | with_reducible assumption | with_reducible exact Keeps.refl _ | with_reducible apply railPoll_keeps | with_reducible apply keeps_ite | intro _ | dsimp only | split)

theorem execTickPhase2_keeps {s0 s : State} (ok : Bool) (status : Nat) (pin : Nat) (h : Keeps s0 s) : KeepsR s0 (execTickPhase2 ok status pin s) := by
  unfold execTickPhase2
  repeat' (first | with_reducible assumption | with_reducible exact Keeps.refl _ | with_reducible apply swapCounter_keeps | with_reducible apply repairP2_keeps | with_reducible apply blockTick_keeps | with_reducible apply snapTick_keeps | with_reducible apply timeTick_keeps | with_reducible apply standbyStop_keeps | with_reducible apply activationStart_keeps | with_reducible apply sensorsRead_keeps | with_reducible apply runPhase_keeps | with_reducible apply timebaseRecords_keeps | with_reducible apply pollRail_keeps | with_reducible apply phase2Entry_keeps | with_reducible apply keeps_foldl | with_reducible apply keeps_foldl_snd | with_reducible apply keeps_foldl_fst | with_reducible apply keeps_ite_snd | with_reducible apply keepsR_next | with_reducible apply keeps_ite | with_reducible apply keepsR_ite | intro _ | dsimp only | split)

end Sys2Proof.Machine
end

