-- ==== Sys2Proof/Laws/KeepsRegAccess.lean ====
section
/-! SUPPORT. What the operations of Machine/RegAccess.lean keep (Laws/Keeps.lean). -/

namespace Sys2Proof.Machine

set_option linter.unusedTactic false
set_option linter.unreachableTactic false
set_option linter.unusedSimpArgs false

theorem or_keeps {s0 s : State} {r : Result} (hr : KeepsR s0 r) (h : Keeps s0 s) : Keeps s0 (r.or s) := by
  unfold Result.or
  split
  · exact hr _ rfl
  · exact h

theorem csrRefuse_keeps {s0 s : State} (brand : Nat) (die : Nat) (off : Nat) (step : Nat) (h : Keeps s0 s) : Keeps s0 (csrRefuse brand die off step s) := by
  unfold csrRefuse
  repeat' (first | with_reducible assumption | with_reducible exact Keeps.refl _ | with_reducible apply gateRefuse_keeps | with_reducible apply step_keeps | with_reducible apply keeps_ite | intro _ | dsimp only | split)

theorem rpAdvance_keeps {s0 s : State} (p : Nat) (h : Keeps s0 s) : Keeps s0 (rpAdvance p s) := by
  unfold rpAdvance
  repeat' (first | with_reducible assumption | with_reducible exact Keeps.refl _ | with_reducible apply wr_keeps | with_reducible apply keeps_ite | intro _ | dsimp only | split)

theorem readEffect_keeps {s0 s : State} (b : Blk) (inst : Nat) (base : Nat) (r : RegD) (lo : Nat) (hi : Nat) (h : Keeps s0 s) : Keeps s0 (readEffect b inst base r lo hi s) := by
  unfold readEffect
  repeat' (first | with_reducible assumption | with_reducible exact Keeps.refl _ | with_reducible apply wrW_keeps | with_reducible apply rpAdvance_keeps | with_reducible apply keeps_ite | intro _ | dsimp only | split)

theorem readLatch_keeps {s0 s : State} (b : Blk) (base : Nat) (h : Keeps s0 s) : Keeps s0 (readLatch b base s) := by
  unfold readLatch
  repeat' (first | with_reducible assumption | with_reducible exact Keeps.refl _ | with_reducible apply calRead_keeps | with_reducible apply keeps_ite | intro _ | dsimp only | split)

theorem readOne_keeps {s0 s : State} (b : Blk) (inst : Nat) (stop : Nat) (o : Nat) (h : Keeps s0 s) : Keeps s0 (readOne b inst stop o s).2.2 := by
  unfold readOne
  repeat' (first | with_reducible assumption | with_reducible exact Keeps.refl _ | with_reducible apply readEffect_keeps | with_reducible apply readLatch_keeps | with_reducible apply keeps_ite | with_reducible apply keeps_ite_snd | intro _ | dsimp only | split)

theorem readFrom_keeps {s0 x5 : State} (b : Blk) (inst : Nat) (stop : Nat) (x3 : Nat) (x4 : Nat) (h : Keeps s0 x5) : Keeps s0 (readFrom b inst stop x3 x4 x5).2 := by
  induction x3 generalizing b inst stop x4 x5 with
  | zero =>
    unfold readFrom
    repeat' (first | with_reducible assumption | with_reducible exact Keeps.refl _ | apply ih | with_reducible apply readOne_keeps | with_reducible apply keeps_ite | with_reducible apply keeps_ite_snd | intro _ | dsimp only | split)
  | succ k ih =>
    unfold readFrom
    repeat' (first | with_reducible assumption | with_reducible exact Keeps.refl _ | apply ih | with_reducible apply readOne_keeps | with_reducible apply keeps_ite | with_reducible apply keeps_ite_snd | intro _ | dsimp only | split)

theorem regRead_keeps {s0 s : State} (b : Blk) (inst : Nat) (off : Nat) (len : Nat) (h : Keeps s0 s) : Keeps s0 (regRead b inst off len s).2 := by
  unfold regRead
  repeat' (first | with_reducible assumption | with_reducible exact Keeps.refl _ | with_reducible apply readFrom_keeps | with_reducible apply keeps_ite | with_reducible apply keeps_ite_snd | intro _ | dsimp only | split)

theorem hcountShow_keeps {s0 s : State} (p : Nat) (h : Keeps s0 s) : Keeps s0 (hcountShow p s) := by
  unfold hcountShow
  repeat' (first | with_reducible assumption | with_reducible exact Keeps.refl _ | with_reducible apply wr_keeps | with_reducible apply keeps_ite | intro _ | dsimp only | split)

theorem mshTakes_keeps {s0 s : State} (brand : Nat) (p : Nat) (base : Nat) (data : Word) (h : Keeps s0 s) : Keeps s0 (mshTakes brand p base data s) := by
  unfold mshTakes
  repeat' (first | with_reducible assumption | with_reducible exact Keeps.refl _ | with_reducible apply rslotPut_keeps | with_reducible apply htPut_keeps | with_reducible apply unitWrite_keeps | with_reducible apply rpAdvance_keeps | with_reducible apply hcountShow_keeps | with_reducible apply keeps_ite | intro _ | dsimp only | split)

theorem leaTakes_keeps {s0 s : State} (brand : Nat) (p : Nat) (base : Nat) (data : Word) (h : Keeps s0 s) : Keeps s0 (leaTakes brand p base data s) := by
  unfold leaTakes
  repeat' (first | with_reducible assumption | with_reducible exact Keeps.refl _ | with_reducible apply spbselPut_keeps | with_reducible apply vwPut_keeps | with_reducible apply unitWrite_keeps | with_reducible apply keeps_ite | intro _ | dsimp only | split)

theorem farTakes_keeps {s0 s : State} (brand : Nat) (d : Nat) (base : Nat) (data : Word) (h : Keeps s0 s) : Keeps s0 (farTakes brand d base data s) := by
  unfold farTakes
  repeat' (first | with_reducible assumption | with_reducible exact Keeps.refl _ | with_reducible apply unitWrite_keeps | with_reducible apply keeps_ite | intro _ | dsimp only | split)

theorem pctlTakes_keeps {s0 s : State} (n : Nat) (data : Nat) (h : Keeps s0 s) : Keeps s0 (pctlTakes n data s) := by
  unfold pctlTakes
  repeat' (first | with_reducible assumption | with_reducible exact Keeps.refl _ | with_reducible apply execFlush_keeps | with_reducible apply execDump_keeps | with_reducible apply execSinkResume_keeps | with_reducible apply execRelease_keeps | with_reducible apply or_keeps | with_reducible apply keeps_ite | intro _ | dsimp only | split)

theorem ftfTakes_keeps {s0 s : State} (brand : Nat) (p : Nat) (base : Nat) (data : Word) (h : Keeps s0 s) : Keeps s0 (ftfTakes brand p base data s) := by
  unfold ftfTakes
  repeat' (first | with_reducible assumption | with_reducible exact Keeps.refl _ | with_reducible apply sinkPump_keeps | with_reducible apply plainWrite_keeps | with_reducible apply pctlTakes_keeps | with_reducible apply keeps_ite | intro _ | dsimp only | split)

theorem pdkTakes_keeps {s0 s : State} (brand : Nat) (n : Nat) (base : Nat) (data : Word) (h : Keeps s0 s) : Keeps s0 (pdkTakes brand n base data s) := by
  unfold pdkTakes
  repeat' (first | with_reducible assumption | with_reducible exact Keeps.refl _ | with_reducible apply pdkCommand_keeps | with_reducible apply vecWrite_keeps | with_reducible apply execFailOverNow_keeps | with_reducible apply or_keeps | with_reducible apply execRePair_keeps | with_reducible apply execUnpair_keeps | with_reducible apply shareChange_keeps | with_reducible apply plainWrite_keeps | with_reducible apply or_keeps | with_reducible apply keeps_ite_snd | with_reducible apply keeps_ite | intro _ | dsimp only | split)

theorem tlyTakes_keeps {s0 s : State} (brand : Nat) (b : Blk) (u : Nat) (base : Nat) (data : Word) (h : Keeps s0 s) : Keeps s0 (tlyTakes brand b u base data s) := by
  unfold tlyTakes
  repeat' (first | with_reducible assumption | with_reducible exact Keeps.refl _ | with_reducible apply execTlyCntWrite_keeps | with_reducible apply execTlyWatchCancel_keeps | with_reducible apply execTlyAddWrite_keeps | with_reducible apply plainWrite_keeps | with_reducible apply or_keeps | with_reducible apply keeps_ite | intro _ | dsimp only | split)

theorem pcmdTakes_keeps {s0 s : State} (d : Nat) (data : Nat) (h : Keeps s0 s) : Keeps s0 (pcmdTakes d data s) := by
  unfold pcmdTakes
  repeat' (first | with_reducible assumption | with_reducible exact Keeps.refl _ | with_reducible apply execByreAudit_keeps | with_reducible apply execByreCreate_keeps | with_reducible apply cmdStat_keeps | with_reducible apply execByreRebuild_keeps | with_reducible apply execByreDestroy_keeps | with_reducible apply or_keeps | with_reducible apply keeps_ite | intro _ | dsimp only | split)

theorem byrTakes_keeps {s0 s : State} (brand : Nat) (d : Nat) (base : Nat) (data : Word) (h : Keeps s0 s) : Keeps s0 (byrTakes brand d base data s) := by
  unfold byrTakes
  repeat' (first | with_reducible assumption | with_reducible exact Keeps.refl _ | with_reducible apply pcmdTakes_keeps | with_reducible apply byrHget_keeps | with_reducible apply execByrHput_keeps | with_reducible apply or_keeps | with_reducible apply plainWrite_keeps | with_reducible apply refreshOvercommit_keeps | with_reducible apply or_keeps | with_reducible apply keeps_ite_snd | with_reducible apply keeps_ite | with_reducible apply execByrHget_keeps | intro _ | dsimp only | split)

theorem fnTakes_keeps {s0 s : State} (brand : Nat) (f : Nat) (base : Nat) (data : Word) (h : Keeps s0 s) : Keeps s0 (fnTakes brand f base data s) := by
  unfold fnTakes
  repeat' (first | with_reducible assumption | with_reducible exact Keeps.refl _ | with_reducible apply plainWrite_keeps | with_reducible apply foldAsk_keeps | with_reducible apply execHeadDoorbell_keeps | with_reducible apply execSubmissionDoorbell_keeps | with_reducible apply execRingConfigure_keeps | with_reducible apply msixFlush_keeps | with_reducible apply or_keeps | with_reducible apply keeps_ite | intro _ | dsimp only | split)

theorem ltkTakes_keeps {s0 s : State} (brand : Nat) (q : Nat) (base : Nat) (data : Word) (h : Keeps s0 s) : Keeps s0 (ltkTakes brand q base data s) := by
  unfold ltkTakes
  repeat' (first | with_reducible assumption | with_reducible exact Keeps.refl _ | with_reducible apply plainWrite_keeps | with_reducible apply pathWritten_keeps | with_reducible apply portDown_keeps | with_reducible apply routeWord0_keeps | with_reducible apply keeps_ite_snd | with_reducible apply keeps_ite | intro _ | dsimp only | split)

theorem pwrCmd_keeps {s0 s : State} (op : Nat) (t : Nat) (draw : Nat) (h : Keeps s0 s) : Keeps s0 (pwrCmd op t draw s) := by
  unfold pwrCmd
  repeat' (first | with_reducible assumption | with_reducible exact Keeps.refl _ | with_reducible apply shutDownAsk_keeps | with_reducible apply wakeAsk_keeps | with_reducible apply cmdResult_keeps | with_reducible apply standbyAsk_keeps | with_reducible apply keeps_ite | intro _ | dsimp only | split)

theorem shpTakes_keeps {s0 s : State} (brand : Nat) (base : Nat) (data : Word) (t : Nat) (draw : Nat) (h : Keeps s0 s) : Keeps s0 (shpTakes brand base data t draw s) := by
  unfold shpTakes
  repeat' (first | with_reducible assumption | with_reducible exact Keeps.refl _ | with_reducible apply plainWrite_keeps | with_reducible apply mailboxAsk_keeps | with_reducible apply pwrCmd_keeps | with_reducible apply keeps_ite | intro _ | dsimp only | split)

theorem rtnTakes_keeps {s0 s : State} (brand : Nat) (base : Nat) (data : Word) (h : Keeps s0 s) : Keeps s0 (rtnTakes brand base data s) := by
  unfold rtnTakes
  repeat' (first | with_reducible assumption | with_reducible exact Keeps.refl _ | with_reducible apply plainWrite_keeps | with_reducible apply grantWrite_keeps | with_reducible apply inletWrite_keeps | with_reducible apply keeps_ite | intro _ | dsimp only | split)

theorem fbkTakes_keeps {s0 s : State} (brand : Nat) (base : Nat) (data : Word) (h : Keeps s0 s) : Keeps s0 (fbkTakes brand base data s) := by
  unfold fbkTakes
  repeat' (first | with_reducible assumption | with_reducible exact Keeps.refl _ | with_reducible apply plainWrite_keeps | with_reducible apply calSet_keeps | with_reducible apply execFbkFind_keeps | with_reducible apply execFbkRselWrite_keeps | with_reducible apply or_keeps | with_reducible apply keeps_ite | intro _ | dsimp only | split)

theorem pstTakes_keeps {s0 s : State} (brand : Nat) (b : Blk) (die : Nat) (base : Nat) (data : Word) (h : Keeps s0 s) : Keeps s0 (pstTakes brand b die base data s) := by
  unfold pstTakes
  repeat' (first | with_reducible assumption | with_reducible exact Keeps.refl _ | with_reducible apply plainWrite_keeps | with_reducible apply memMove_keeps | with_reducible apply memShape_keeps | with_reducible apply invStart_keeps | with_reducible apply keeps_ite_snd | with_reducible apply keeps_ite | intro _ | dsimp only | split)

theorem belTakes_keeps {s0 s : State} (brand : Nat) (base : Nat) (data : Word) (t : Nat) (h : Keeps s0 s) : Keeps s0 (belTakes brand base data t s) := by
  unfold belTakes
  repeat' (first | with_reducible assumption | with_reducible exact Keeps.refl _ | with_reducible apply startBell_keeps | with_reducible apply plainWrite_keeps | with_reducible apply ptpPortSet_keeps | with_reducible apply keeps_ite_snd | with_reducible apply keeps_ite | intro _ | dsimp only | split)

theorem regTakes_keeps {s0 s : State} (brand : Nat) (b : Blk) (inst : Nat) (base : Nat) (data : Word) (t : Nat) (draw : Nat) (h : Keeps s0 s) : Keeps s0 (regTakes brand b inst base data t draw s) := by
  unfold regTakes
  repeat' (first | with_reducible assumption | with_reducible exact Keeps.refl _ | with_reducible apply plainWrite_keeps | with_reducible apply leaTakes_keeps | with_reducible apply mshTakes_keeps | with_reducible apply unitWrite_keeps | with_reducible apply farTakes_keeps | with_reducible apply rqPop_keeps | with_reducible apply ftfTakes_keeps | with_reducible apply pdkTakes_keeps | with_reducible apply tlyTakes_keeps | with_reducible apply byrTakes_keeps | with_reducible apply foldAsk_keeps | with_reducible apply fnTakes_keeps | with_reducible apply ltkTakes_keeps | with_reducible apply shpTakes_keeps | with_reducible apply rtnTakes_keeps | with_reducible apply fbkTakes_keeps | with_reducible apply belTakes_keeps | with_reducible apply pstTakes_keeps | with_reducible apply memMove_keeps | with_reducible apply memShape_keeps | with_reducible apply keeps_ite_snd | with_reducible apply keeps_ite | with_reducible apply startBell_keeps | intro _ | dsimp only | split)

theorem refusedSide_keeps {s0 s : State} (b : Blk) (inst : Nat) (parts : List (RegD × Nat)) (h : Keeps s0 s) : Keeps s0 (refusedSide b inst parts s) := by
  unfold refusedSide
  repeat' (first | with_reducible assumption | with_reducible exact Keeps.refl _ | with_reducible apply rpAdvance_keeps | with_reducible apply keeps_ite | intro _ | dsimp only | split)

theorem regWrite_keeps {s0 s : State} (brand : Nat) (b : Blk) (inst : Nat) (off : Nat) (size : Nat) (data : Word) (t : Nat) (draw : Nat) (h : Keeps s0 s) : Keeps s0 (regWrite brand b inst off size data t draw s) := by
  unfold regWrite
  repeat' (first | with_reducible assumption | with_reducible exact Keeps.refl _ | with_reducible apply refusedSide_keeps | with_reducible apply refuseWrite_keeps | with_reducible apply regTakes_keeps | with_reducible apply bump_keeps | with_reducible apply keeps_foldl | with_reducible apply keeps_foldl_snd | with_reducible apply keeps_foldl_fst | with_reducible apply keeps_ite_snd | with_reducible apply keeps_ite | intro _ | dsimp only | split)

theorem csrAccess_keeps {s0 s : State} (brand : Nat) (die : Nat) (off : Nat) (len : Nat) (write : Bool) (data : Word) (t : Nat) (draw : Nat) (h : Keeps s0 s) : Keeps s0 (csrAccess brand die off len write data t draw s).2 := by
  unfold csrAccess
  repeat' (first | with_reducible assumption | with_reducible exact Keeps.refl _ | with_reducible apply csrRefuse_keeps | with_reducible apply regRead_keeps | with_reducible apply regWrite_keeps | with_reducible apply step_keeps | with_reducible apply keeps_ite | with_reducible apply keeps_ite_snd | intro _ | dsimp only | split)

end Sys2Proof.Machine
end

