-- ==== Sys2Proof/Laws/KeepsColumnGate.lean ====
section
/-! SUPPORT. What the operations of Machine/ColumnGate.lean keep (Laws/Keeps.lean). -/

namespace Sys2Proof.Machine

set_option linter.unusedTactic false
set_option linter.unreachableTactic false
set_option linter.unusedSimpArgs false

theorem barUr_keeps {s0 s : State} (f : Nat) (tag : Nat) (write : Bool) (h : Keeps s0 s) : Keeps s0 (barUr f tag write s) := by
  unfold barUr
  repeat' (first | with_reducible assumption | with_reducible exact Keeps.refl _ | with_reducible apply emit_keeps | with_reducible apply aerUncorr_keeps | with_reducible apply aerAdvisory_keeps | with_reducible apply keeps_ite | intro _ | dsimp only | split)

theorem accHold_keeps {s0 s : State} (a : AccW) (h : Keeps s0 s) : Keeps s0 (accHold a s) := by
  unfold accHold
  repeat' (first | with_reducible assumption | with_reducible exact Keeps.refl _ | with_reducible apply keeps_ite | simp only [keeps_mk_iff] | intro _ | dsimp only | split)

theorem csrAnswer_keeps {s0 s : State} (a : AccW) (r : CsrOut) (h : Keeps s0 s) : Keeps s0 (csrAnswer a r s) := by
  unfold csrAnswer
  repeat' (first | with_reducible assumption | with_reducible exact Keeps.refl _ | with_reducible apply accHold_keeps | with_reducible apply emit_keeps | with_reducible apply keeps_ite | intro _ | dsimp only | split)

theorem barAnswer_keeps {s0 s : State} (a : AccW) (r : CsrOut) (h : Keeps s0 s) : Keeps s0 (barAnswer a r s) := by
  unfold barAnswer
  repeat' (first | with_reducible assumption | with_reducible exact Keeps.refl _ | with_reducible apply accHold_keeps | with_reducible apply barUr_keeps | with_reducible apply bump_keeps | with_reducible apply emit_keeps | with_reducible apply keeps_ite | intro _ | dsimp only | split)

theorem windowGo_keeps {s0 s : State} (a : AccW) (h : Keeps s0 s) : Keeps s0 (windowGo a s) := by
  unfold windowGo
  repeat' (first | with_reducible assumption | with_reducible exact Keeps.refl _ | with_reducible apply emit_keeps | with_reducible apply gateRefuse_keeps | with_reducible apply accHold_keeps | with_reducible apply paccPush_keeps | with_reducible apply keeps_ite | intro _ | dsimp only | split)

theorem accGo_keeps {s0 s : State} (a : AccW) (h : Keeps s0 s) : Keeps s0 (accGo a s) := by
  unfold accGo
  repeat' (first | with_reducible assumption | with_reducible exact Keeps.refl _ | with_reducible apply windowGo_keeps | with_reducible apply accHold_keeps | with_reducible apply csrAccess_keeps | with_reducible apply barAnswer_keeps | with_reducible apply csrAnswer_keeps | with_reducible apply keeps_ite_snd | with_reducible apply keeps_ite | intro _ | dsimp only | split)

theorem accFlush_keeps {s0 s : State} (h : Keeps s0 s) : Keeps s0 (accFlush s) := by
  unfold accFlush
  repeat' (first | with_reducible assumption | with_reducible exact Keeps.refl _ | with_reducible apply accGo_keeps | with_reducible apply keeps_foldl | with_reducible apply keeps_foldl_snd | with_reducible apply keeps_foldl_fst | with_reducible apply keeps_ite | simp only [keeps_mk_iff] | intro _ | dsimp only | split)

theorem accNew_keeps {s0 s : State} (a : AccW) (h : Keeps s0 s) : Keeps s0 (accNew a s) := by
  unfold accNew
  repeat' (first | with_reducible assumption | with_reducible exact Keeps.refl _ | with_reducible apply accGo_keeps | with_reducible apply accFlush_keeps | with_reducible apply keeps_ite | simp only [keeps_mk_iff] | intro _ | dsimp only | split)

theorem execRegisterWrite_keeps {s0 s : State} (brand : Nat) (die : Nat) (off : Nat) (size : Nat) (data : Word) (t : Nat) (draw : Nat) (h : Keeps s0 s) : KeepsR s0 (execRegisterWrite brand die off size data t draw s) := by
  unfold execRegisterWrite
  repeat' (first | with_reducible assumption | with_reducible exact Keeps.refl _ | with_reducible apply accNew_keeps | with_reducible apply wr_keeps | with_reducible apply atTime_keeps | with_reducible apply keepsR_next | with_reducible apply keeps_ite | with_reducible apply keepsR_ite | with_reducible apply csrAccess_keeps | intro _ | dsimp only | split)

theorem execRcRead_keeps {s0 s : State} (brand : Nat) (die : Nat) (off : Nat) (len : Nat) (t : Nat) (h : Keeps s0 s) : KeepsR s0 (execRcRead brand die off len t s) := by
  unfold execRcRead
  repeat' (first | with_reducible assumption | with_reducible exact Keeps.refl _ | with_reducible apply accNew_keeps | with_reducible apply wr_keeps | with_reducible apply atTime_keeps | with_reducible apply keepsR_next | with_reducible apply keeps_ite | with_reducible apply keepsR_ite | with_reducible apply emit_keeps | with_reducible apply csrAccess_keeps | intro _ | dsimp only | split)

theorem execMshRpdataAccess_keeps {s0 s : State} (brand : Nat) (c : Nat) (write : Bool) (data : Word) (h : Keeps s0 s) : KeepsR s0 (execMshRpdataAccess brand c write data s) := by
  unfold execMshRpdataAccess
  repeat' (first | with_reducible assumption | with_reducible exact Keeps.refl _ | with_reducible apply accNew_keeps | with_reducible apply keepsR_next | with_reducible apply keeps_ite | with_reducible apply keepsR_ite | with_reducible apply emit_keeps | with_reducible apply csrAccess_keeps | intro _ | dsimp only | split)

theorem execVwdataWrite_keeps {s0 s : State} (brand : Nat) (c : Nat) (k : Nat) (data : Word) (h : Keeps s0 s) : KeepsR s0 (execVwdataWrite brand c k data s) := by
  unfold execVwdataWrite
  repeat' (first | with_reducible assumption | with_reducible exact Keeps.refl _ | with_reducible apply accNew_keeps | with_reducible apply keepsR_next | with_reducible apply keeps_ite | with_reducible apply keepsR_ite | with_reducible apply refuseWrite_keeps | with_reducible apply vwPut_keeps | intro _ | dsimp only | split)

theorem execByrHget_keeps {s0 s : State} (brand : Nat) (d : Nat) (data : Word) (h : Keeps s0 s) : KeepsR s0 (execByrHget brand d data s) := by
  unfold execByrHget
  repeat' (first | with_reducible assumption | with_reducible exact Keeps.refl _ | with_reducible apply accNew_keeps | with_reducible apply wr_keeps | with_reducible apply keepsR_next | with_reducible apply keeps_ite | with_reducible apply keepsR_ite | with_reducible apply byreGet_keeps | with_reducible apply hostResult_keeps | intro _ | dsimp only | split)

theorem execSpWindowAccess_keeps {s0 s : State} (brand : Nat) (c : Nat) (write : Bool) (off : Nat) (len : Nat) (data : List Nat) (h : Keeps s0 s) : KeepsR s0 (execSpWindowAccess brand c write off len data s) := by
  unfold execSpWindowAccess
  repeat' (first | with_reducible assumption | with_reducible exact Keeps.refl _ | with_reducible apply accNew_keeps | with_reducible apply wr_keeps | with_reducible apply keepsR_next | with_reducible apply keeps_ite | with_reducible apply keepsR_ite | with_reducible apply gateRefuse_keeps | with_reducible apply paccPush_keeps | intro _ | dsimp only | split)

theorem execBar0Access_keeps {s0 s : State} (t : Nat) (f : Nat) (tag : Nat) (write : Bool) (off : Nat) (len : Nat) (data : Word) (draw : Nat) (h : Keeps s0 s) : KeepsR s0 (execBar0Access t f tag write off len data draw s) := by
  unfold execBar0Access
  repeat' (first | with_reducible assumption | with_reducible exact Keeps.refl _ | with_reducible apply atTime_keeps | with_reducible apply barUr_keeps | with_reducible apply emit_keeps | with_reducible apply accNew_keeps | with_reducible apply wr_keeps | with_reducible apply keepsR_next | with_reducible apply keeps_ite | with_reducible apply keepsR_ite | intro _ | dsimp only | split)

theorem bar2Parts_keeps {s0 x6 : State} (tag : Nat) (write : Bool) (x2 : Nat) (x3 : Nat) (x4 : List Nat) (x5 : Nat) (h : Keeps s0 x6) : Keeps s0 (bar2Parts tag write x2 x3 x4 x5 x6) := by
  induction x2 generalizing tag write x3 x4 x5 x6 with
  | zero =>
    unfold bar2Parts
    repeat' (first | with_reducible assumption | with_reducible exact Keeps.refl _ | apply ih | with_reducible apply keeps_ite | simp only [keeps_mk_iff] | intro _ | dsimp only | split)
  | succ k ih =>
    unfold bar2Parts
    repeat' (first | with_reducible assumption | with_reducible exact Keeps.refl _ | apply ih | with_reducible apply keeps_ite | simp only [keeps_mk_iff] | intro _ | dsimp only | split)

theorem execBar2Access_keeps {s0 s : State} (tag : Nat) (write : Bool) (off : Nat) (len : Nat) (data : List Nat) (h : Keeps s0 s) : KeepsR s0 (execBar2Access tag write off len data s) := by
  unfold execBar2Access
  repeat' (first | with_reducible assumption | with_reducible exact Keeps.refl _ | with_reducible apply barUr_keeps | with_reducible apply bump_keeps | with_reducible apply gateRefuse_keeps | with_reducible apply bar2Parts_keeps | with_reducible apply keepsR_next | with_reducible apply keeps_ite | with_reducible apply keepsR_ite | intro _ | dsimp only | split)

theorem execMemoryWrite_keeps {s0 s : State} (i : Nat) (h : Keeps s0 s) : KeepsR s0 (execMemoryWrite i s) := by
  unfold execMemoryWrite
  repeat' (first | with_reducible assumption | with_reducible exact Keeps.refl _ | with_reducible apply accFlush_keeps | with_reducible apply memoryWrite_keeps | with_reducible apply keepsR_next | with_reducible apply keeps_ite | with_reducible apply keepsR_ite | with_reducible apply wr_keeps | with_reducible apply memWrite_keeps | with_reducible apply fabAnswer_keeps | with_reducible apply txnEnd_keeps | intro _ | dsimp only | split)

theorem execColumnPauseEnd_keeps {s0 s : State} (h : Keeps s0 s) : KeepsR s0 (execColumnPauseEnd s) := by
  unfold execColumnPauseEnd
  repeat' (first | with_reducible assumption | with_reducible exact Keeps.refl _ | with_reducible apply accFlush_keeps | with_reducible apply columnPauseEnd_keeps | with_reducible apply keepsR_next | with_reducible apply keeps_ite | with_reducible apply keepsR_ite | with_reducible apply wr_keeps | with_reducible apply shiftColumn_keeps | with_reducible apply repairAdvance_keeps | simp only [keeps_mk_iff] | intro _ | dsimp only | split)

theorem execMusterCoreTestEnd_keeps {s0 s : State} (p : Nat) (ok : Bool) (unit : Nat) (h : Keeps s0 s) : KeepsR s0 (execMusterCoreTestEnd p ok unit s) := by
  unfold execMusterCoreTestEnd
  repeat' (first | with_reducible assumption | with_reducible exact Keeps.refl _ | with_reducible apply accFlush_keeps | with_reducible apply testDone_keeps | with_reducible apply testFails_keeps | with_reducible apply keepsR_next | with_reducible apply keeps_ite | with_reducible apply keepsR_ite | intro _ | dsimp only | split)

end Sys2Proof.Machine
end

