-- ==== Sys2Proof/Laws/KeepsPins.lean ====
section
/-! SUPPORT. What the operations of Machine/Pins.lean keep (Laws/Keeps.lean). -/

namespace Sys2Proof.Machine

set_option linter.unusedTactic false
set_option linter.unreachableTactic false
set_option linter.unusedSimpArgs false

theorem tapBypass_keeps {s0 s : State} (ir : Nat) (h : Keeps s0 s) : Keeps s0 (tapBypass ir s) := by
  unfold tapBypass
  repeat' (first | with_reducible assumption | with_reducible exact Keeps.refl _ | with_reducible apply emit_keeps | with_reducible apply keeps_ite | simp only [keeps_mk_iff] | intro _ | dsimp only | split)

theorem tapShift_keeps {s0 s : State} (ir : Nat) (on0 : Nat) (main : Nat) (inOn : Nat) (inMain : Nat) (h : Keeps s0 s) : Keeps s0 (tapShift ir on0 main inOn inMain s) := by
  unfold tapShift
  repeat' (first | with_reducible assumption | with_reducible exact Keeps.refl _ | with_reducible apply emit_keeps | with_reducible apply keeps_ite | simp only [keeps_mk_iff] | intro _ | dsimp only | split)

theorem tapTest_keeps {s0 s : State} (k : State → State) (hk : ∀ u  v, Keeps u v → Keeps u (k v)) (h : Keeps s0 s) : Keeps s0 (tapTest k s) := by
  unfold tapTest
  repeat' (first | with_reducible assumption | with_reducible exact Keeps.refl _ | apply hk | with_reducible apply wr_keeps | with_reducible apply tapBypass_keeps | with_reducible apply keeps_ite | intro _ | dsimp only | split)

theorem execBypass_keeps {s0 s : State} (h : Keeps s0 s) : KeepsR s0 (execBypass s) := by
  unfold execBypass
  repeat' (first | with_reducible assumption | with_reducible exact Keeps.refl _ | with_reducible apply tapBypass_keeps | with_reducible apply keepsR_next | with_reducible apply keeps_ite | with_reducible apply keepsR_ite | intro _ | dsimp only | split)

theorem execIdcode_keeps {s0 s : State} (h : Keeps s0 s) : KeepsR s0 (execIdcode s) := by
  unfold execIdcode
  repeat' (first | with_reducible assumption | with_reducible exact Keeps.refl _ | with_reducible apply emit_keeps | with_reducible apply keepsR_next | with_reducible apply keeps_ite | with_reducible apply keepsR_ite | simp only [keeps_mk_iff] | intro _ | dsimp only | split)

theorem execSamplePreload_keeps {s0 s : State} (on : Nat) (main : Nat) (inOn : Nat) (inMain : Nat) (h : Keeps s0 s) : KeepsR s0 (execSamplePreload on main inOn inMain s) := by
  unfold execSamplePreload
  repeat' (first | with_reducible assumption | with_reducible exact Keeps.refl _ | with_reducible apply tapShift_keeps | with_reducible apply keepsR_next | with_reducible apply keeps_ite | with_reducible apply keepsR_ite | intro _ | dsimp only | split)

theorem execExtest_keeps {s0 s : State} (on0 : Nat) (main : Nat) (inOn : Nat) (inMain : Nat) (h : Keeps s0 s) : KeepsR s0 (execExtest on0 main inOn inMain s) := by
  unfold execExtest
  repeat' (first | with_reducible assumption | with_reducible exact Keeps.refl _ | with_reducible apply tapShift_keeps | with_reducible apply tapTest_keeps | with_reducible apply keepsR_next | with_reducible apply keeps_ite | with_reducible apply keepsR_ite | intro _ | dsimp only | split)

theorem execClamp_keeps {s0 s : State}  (h : Keeps s0 s) : KeepsR s0 (execClamp s) := by
  unfold execClamp
  repeat' (first | with_reducible assumption | with_reducible exact Keeps.refl _ | with_reducible apply tapBypass_keeps | with_reducible apply tapTest_keeps | with_reducible apply keepsR_next | with_reducible apply keeps_ite | with_reducible apply keepsR_ite | intro _ | dsimp only | split)

theorem execHighz_keeps {s0 s : State}  (h : Keeps s0 s) : KeepsR s0 (execHighz s) := by
  unfold execHighz
  repeat' (first | with_reducible assumption | with_reducible exact Keeps.refl _ | with_reducible apply tapBypass_keeps | with_reducible apply tapTest_keeps | with_reducible apply keepsR_next | with_reducible apply keeps_ite | with_reducible apply keepsR_ite | intro _ | dsimp only | split)

theorem execExtestPulse_keeps {s0 s : State} (on0 : Nat) (main : Nat) (inOn : Nat) (inMain : Nat) (h : Keeps s0 s) : KeepsR s0 (execExtestPulse on0 main inOn inMain s) := by
  unfold execExtestPulse
  repeat' (first | with_reducible assumption | with_reducible exact Keeps.refl _ | with_reducible apply tapShift_keeps | with_reducible apply tapTest_keeps | with_reducible apply keepsR_next | with_reducible apply keeps_ite | with_reducible apply keepsR_ite | intro _ | dsimp only | split)

theorem execExtestTrain_keeps {s0 s : State} (on0 : Nat) (main : Nat) (inOn : Nat) (inMain : Nat) (h : Keeps s0 s) : KeepsR s0 (execExtestTrain on0 main inOn inMain s) := by
  unfold execExtestTrain
  repeat' (first | with_reducible assumption | with_reducible exact Keeps.refl _ | with_reducible apply tapShift_keeps | with_reducible apply tapTest_keeps | with_reducible apply keepsR_next | with_reducible apply keeps_ite | with_reducible apply keepsR_ite | intro _ | dsimp only | split)

end Sys2Proof.Machine
end

