-- ==== Sys2Proof/Laws/KeepsPorts.lean ====
section
/-! SUPPORT. What the operations of Machine/Ports.lean keep (Laws/Keeps.lean). -/

namespace Sys2Proof.Machine

set_option linter.unusedTactic false
set_option linter.unreachableTactic false
set_option linter.unusedSimpArgs false

theorem pDone_keeps {s0 s : State} (p : Nat) (a : PAcc) (h : Keeps s0 s) : Keeps s0 (pDone p a s) := by
  unfold pDone
  repeat' (first | with_reducible assumption | with_reducible exact Keeps.refl _ | with_reducible apply coreMod_keeps | with_reducible apply streamFilled_keeps | with_reducible apply streamRead_keeps | with_reducible apply whsLandDone_keeps | with_reducible apply emit_keeps | with_reducible apply keeps_ite | with_reducible apply keeps_ite_st | simp only [keeps_mk_iff] | with_reducible apply wr_keeps | intro _ | dsimp only | split)

theorem pServed_keeps {s0 s : State} (p : Nat) (n : Nat) (write : Bool) (h : Keeps s0 s) : Keeps s0 (pServed p n write s) := by
  unfold pServed
  repeat' (first | with_reducible assumption | with_reducible exact Keeps.refl _ | with_reducible apply coreMod_keeps | with_reducible apply pPresent_keeps | with_reducible apply pDone_keeps | with_reducible apply keeps_ite | simp only [keeps_mk_iff] | intro _ | dsimp only | split)

theorem pGot_keeps {s0 s : State} (p : Nat) (n : Nat) (w : WWord) (d : Nat) (bad : Bool) (h : Keeps s0 s) : Keeps s0 (pGot p n w d bad s) := by
  unfold pGot
  repeat' (first | with_reducible assumption | with_reducible exact Keeps.refl _ | with_reducible apply coreMod_keeps | with_reducible apply keeps_ite | simp only [keeps_mk_iff] | intro _ | dsimp only | split)

theorem portError_keeps {s0 s : State} (p : Nat) (r : WReq) (h : Keeps s0 s) : Keeps s0 (portError p r s) := by
  unfold portError
  repeat' (first | with_reducible assumption | with_reducible exact Keeps.refl _ | with_reducible apply mAbandon_keeps | with_reducible apply meshAbandon_keeps | with_reducible apply xAbandon_keeps | with_reducible apply vAbandon_keeps | with_reducible apply keeps_ite | intro _ | dsimp only | split)

theorem xServed_keeps {s0 s : State} (p : Nat) (n : Nat) (write : Bool) (h : Keeps s0 s) : Keeps s0 (xServed p n write s) := by
  unfold xServed
  repeat' (first | with_reducible assumption | with_reducible exact Keeps.refl _ | with_reducible apply meshServed_keeps | with_reducible apply xDone_keeps | with_reducible apply xPresent_keeps | with_reducible apply keeps_ite | intro _ | dsimp only | split)

theorem portServed_keeps {s0 s : State} (p : Nat) (r : WReq) (h : Keeps s0 s) : Keeps s0 (portServed p r s) := by
  unfold portServed
  repeat' (first | with_reducible assumption | with_reducible exact Keeps.refl _ | with_reducible apply mServed_keeps | with_reducible apply xServed_keeps | with_reducible apply pServed_keeps | with_reducible apply vServed_keeps | with_reducible apply keeps_ite | with_reducible apply wr_keeps | with_reducible apply meshServed_keeps | intro _ | dsimp only | split)

theorem takeWord_keeps {s0 s : State} (p : Nat) (r : WReq) (w : WWord) (h : Keeps s0 s) : Keeps s0 (takeWord p r w s) := by
  unfold takeWord
  repeat' (first | with_reducible assumption | with_reducible exact Keeps.refl _ | with_reducible apply coreMod_keeps | with_reducible apply portServed_keeps | with_reducible apply keeps_ite | simp only [keeps_mk_iff] | intro _ | dsimp only | split)

theorem keepOld_keeps {s0 s : State} (p : Nat) (w : Nat) (h : Keeps s0 s) : Keeps s0 (keepOld p w s) := by
  unfold keepOld
  repeat' (first | with_reducible assumption | with_reducible exact Keeps.refl _ | with_reducible apply coreMod_keeps | with_reducible apply keeps_ite | simp only [keeps_mk_iff] | intro _ | dsimp only | split)

theorem markWrite_keeps {s0 s : State} (p : Nat) (r : WReq) (w : Nat) (h : Keeps s0 s) : Keeps s0 (markWrite p r w s) := by
  unfold markWrite
  repeat' (first | with_reducible assumption | with_reducible exact Keeps.refl _ | with_reducible apply spWrote_keeps | with_reducible apply keeps_ite | intro _ | dsimp only | split)

theorem portWrite_keeps {s0 s : State} (p : Nat) (r : WReq) (w : WWord) (h : Keeps s0 s) : Keeps s0 (portWrite p r w s) := by
  unfold portWrite
  repeat' (first | with_reducible assumption | with_reducible exact Keeps.refl _ | with_reducible apply markWrite_keeps | with_reducible apply spWriteWord_keeps | with_reducible apply keepOld_keeps | with_reducible apply spPutRaw_keeps | with_reducible apply keeps_ite | intro _ | dsimp only | split)

theorem portRead_keeps {s0 s : State} (p : Nat) (r : WReq) (w : WWord) (h : Keeps s0 s) : Keeps s0 (portRead p r w s).2.2 := by
  unfold portRead
  repeat' (first | with_reducible assumption | with_reducible exact Keeps.refl _ | with_reducible apply spReadWord_keeps | with_reducible apply spPutRaw_keeps | with_reducible apply coreMod_keeps | with_reducible apply keeps_ite_snd | with_reducible apply keeps_ite | simp only [keeps_mk_iff] | intro _ | dsimp only | split)

theorem wordGot_keeps {s0 s : State} (p : Nat) (r : WReq) (w : Nat) (d : Nat) (h : Keeps s0 s) : Keeps s0 (wordGot p r w d s) := by
  unfold wordGot
  repeat' (first | with_reducible assumption | with_reducible exact Keeps.refl _ | with_reducible apply spDeliver_keeps | with_reducible apply qGot_keeps | with_reducible apply keeps_ite_snd | with_reducible apply keeps_ite | intro _ | dsimp only | split)

theorem serveWord_keeps {s0 s : State} (p : Nat) (r : WReq) (w : WWord) (h : Keeps s0 s) : Keeps s0 (serveWord p r w s) := by
  unfold serveWord
  repeat' (first | with_reducible assumption | with_reducible exact Keeps.refl _ | with_reducible apply takeWord_keeps | with_reducible apply portWrite_keeps | with_reducible apply portRead_keeps | with_reducible apply pGot_keeps | with_reducible apply portError_keeps | with_reducible apply wordGot_keeps | with_reducible apply keeps_ite_snd | with_reducible apply keeps_ite | with_reducible apply wr_keeps | with_reducible apply spReadWord_keeps | intro _ | dsimp only | split)

theorem countPort_keeps {s0 s : State} (p : Nat) (write : Bool) (bank : Nat) (region : Nat) (due : Nat) (h : Keeps s0 s) : Keeps s0 (countPort p write bank region due s) := by
  unfold countPort
  repeat' (first | with_reducible assumption | with_reducible exact Keeps.refl _ | with_reducible apply bump_keeps | with_reducible apply keeps_ite | intro _ | dsimp only | split)

theorem execSpWordServe_keeps {s0 s : State} (c : Nat) (write : Bool) (bank : Nat) (region : Nat) (h : Keeps s0 s) : KeepsR s0 (execSpWordServe c write bank region s) := by
  unfold execSpWordServe
  repeat' (first | with_reducible assumption | with_reducible exact Keeps.refl _ | with_reducible apply countPort_keeps | with_reducible apply serveWord_keeps | with_reducible apply keepsR_next | with_reducible apply keeps_ite | with_reducible apply keepsR_ite | intro _ | dsimp only | split)

theorem execSpEccWriteback_keeps {s0 s : State} (c : Nat) (w : Nat) (h : Keeps s0 s) : KeepsR s0 (execSpEccWriteback c w s) := by
  unfold execSpEccWriteback
  repeat' (first | with_reducible assumption | with_reducible exact Keeps.refl _ | with_reducible apply coreMod_keeps | with_reducible apply spPutRaw_keeps | with_reducible apply keepsR_next | with_reducible apply keeps_ite | with_reducible apply keepsR_ite | simp only [keeps_mk_iff] | intro _ | dsimp only | split)

end Sys2Proof.Machine
end

