-- ==== Sys2Proof/Laws/RegMap.lean ====
section
/-! SUPPORT. Fields of the register map itself: a state's reads and writes say nothing of its other fields, so reads after writes are
settled on the map, whatever else of the state changed in between. -/

namespace Sys2Proof.Machine

/-- A field in a register map. -/
def rdM (m : SMap Word) (f : Fld) (i : Nat) : Nat := fieldGet (mapGet (regDefault (regKey f.blk i f.off)) m (regKey f.blk i f.off)) f.hi f.lo

/-- A register map after a write of a field. -/
def wrM (f : Fld) (i v : Nat) (m : SMap Word) : SMap Word :=
  mapSet (regDefault (regKey f.blk i f.off)) m (regKey f.blk i f.off)
    (fieldPut (mapGet (regDefault (regKey f.blk i f.off)) m (regKey f.blk i f.off)) f.hi f.lo v)

theorem rd_eq (s : State) (f : Fld) (i : Nat) : rd s f i = rdM s.regs f i := rfl
theorem rdB_eq (s : State) (f : Fld) (i : Nat) : rdB s f i = (rdM s.regs f i == 1) := rfl
theorem wr_regs_eq (f : Fld) (i v : Nat) (s : State) : (wr f i v s).regs = wrM f i v s.regs := rfl
theorem bump_regs_eq (f : Fld) (i : Nat) (s : State) :
    (bump f i s).regs = wrM f i (Nat.min (rdM s.regs f i + 1) (fldMax f)) s.regs := rfl
theorem addSat_regs_eq (f : Fld) (i n : Nat) (s : State) :
    (addSat f i n s).regs = wrM f i (Nat.min (rdM s.regs f i + n) (fldMax f)) s.regs := rfl

/-- The canonical form of a register map. -/
abbrev WfM (m : SMap Word) : Prop := mapWf regDefault m = true

theorem wfM_wrM {m : SMap Word} (f : Fld) (i v : Nat) (h : WfM m) : WfM (wrM f i v m) := mapWf_set (d := regDefault) _ _ h

/-- A field has a place in a word. -/
def Fld.fits (f : Fld) : Bool := f.lo ≤ f.hi && f.hi < 64

/-- Two fields of one instance that share no bit. -/
def Fld.apart (f g : Fld) : Bool := f.fits && f.blk == g.blk && (f.off != g.off || decide (f.hi < g.lo) || decide (g.hi < f.lo))

/-- Two fields of blocks of different kinds. -/
def Fld.foreign (f g : Fld) : Bool := f.blk != g.blk && decide (f.off < 0x800000) && decide (g.off < 0x800000)

theorem rdM_wrM_same {m : SMap Word} {f : Fld} (i v : Nat) (h : f.fits = true) : rdM (wrM f i v m) f i = v % 2 ^ (f.hi + 1 - f.lo) := by
  simp only [Fld.fits, Bool.and_eq_true, decide_eq_true_eq] at h
  unfold rdM wrM
  rw [mapGet_set_same, fieldGet_put_same _ _ _ _ h.1 h.2]

theorem rdM_wrM_apart {m : SMap Word} {f g : Fld} (i v : Nat) (hm : WfM m) (h : f.apart g = true) : rdM (wrM f i v m) g i = rdM m g i := by
  simp only [Fld.apart, Fld.fits, Bool.and_eq_true, Bool.or_eq_true, decide_eq_true_eq, beq_iff_eq, bne_iff_ne, or_assoc] at h
  obtain ⟨⟨⟨h1, h2⟩, hb⟩, ho⟩ := h
  unfold rdM wrM
  by_cases hoff : f.off = g.off
  · rw [← hb, ← hoff, mapGet_set_same]
    rcases ho with ho | ho | ho
    · exact absurd hoff ho
    · exact fieldGet_put_above _ _ _ _ _ _ h1 h2 ho
    · exact fieldGet_put_below _ _ _ _ _ _ h1 h2 ho
  · rw [mapGet_set_ne (d := regDefault) _ _ _ hm]
    unfold regKey
    rw [hb]
    omega

theorem blkCode_inj {b c : Blk} (h : blkCode b = blkCode c) : b = c := by revert h; cases b <;> cases c <;> decide

theorem rdM_wrM_foreign {m : SMap Word} {f g : Fld} {i j : Nat} (v : Nat) (hm : WfM m) (h : f.foreign g = true) (hi : i < 65536)
    (hj : j < 65536) : rdM (wrM f i v m) g j = rdM m g j := by
  simp only [Fld.foreign, Bool.and_eq_true, decide_eq_true_eq, bne_iff_ne] at h
  obtain ⟨⟨hb, h1⟩, h2⟩ := h
  have hc : blkCode f.blk ≠ blkCode g.blk := fun e => hb (blkCode_inj e)
  unfold rdM wrM
  rw [mapGet_set_ne (d := regDefault) _ _ _ hm]
  unfold regKey
  omega

/-- Instances of one kind of block do not share a register. -/
theorem rdM_wrM_instance {m : SMap Word} {f g : Fld} {i j : Nat} (v : Nat) (hm : WfM m) (hb : f.blk = g.blk) (h1 : f.off < 0x800000)
    (h2 : g.off < 0x800000) (h : i ≠ j) : rdM (wrM f i v m) g j = rdM m g j := by
  unfold rdM wrM
  rw [mapGet_set_ne (d := regDefault) _ _ _ hm]
  unfold regKey
  rw [hb]
  omega

end Sys2Proof.Machine
end

