-- ==== Sys2Proof/Laws/Starts.lean ====
section
/-! SUPPORT. How the shared starts go: an X operation at the head of its queue, a submission entry at the head of its ring, a
bundle that a ready task issues; the payload of a Whistle send; a request that the management firmware takes up; the registers
an access touches. -/

namespace Sys2Proof.Machine

/-- An X operation that may start does so. -/
theorem xStart_run {op c : Nat} {ok : State → Nat → QEnt → Bool} {run : Nat → QEnt → State → State} {s : State} {e : QEnt}
    (h : xHead s (pcore s c) = some e) (ho : e.op = op) (hm : xMayStart s (pcore s c) e = true) (hk : ok s (pcore s c) e = true) :
    xStart op c ok run s = run (pcore s c) e (xMark (pcore s c) e s) := by
  simp only [xStart, h]
  exact if_pos ⟨ho, hm, hk⟩

/-- A start never touches anything where it may not happen: another opcode at the head. -/
theorem xStart_other {op c : Nat} {ok : State → Nat → QEnt → Bool} {run : Nat → QEnt → State → State} {s : State} {e : QEnt}
    (h : xHead s (pcore s c) = some e) (ho : e.op ≠ op) : xStart op c ok run s = s := by
  simp only [xStart, h]
  exact if_neg (fun x => ho x.1)

/-- The entry at the head of its ring that may execute does so. -/
theorem hostStart_run {op f k : Nat} {run : HEnt → State → State} {s : State} {h : HEnt} (hr : ringHead s f k = some h)
    (h0 : h.st = 0) (ho : entOp h = op) (hm : malformed s h = false) (hf : fnUnderReset s f = false) :
    hostStart op f k run s = .next (run h s) := by
  simp only [hostStart, hr]
  exact congrArg Host.Outcome.next (if_pos ⟨h0, ho, by simp [hm], by simp [hf]⟩)

/-- A send without a payload sets out at once. -/
theorem whsRead_empty {p : Nat} {e : QEnt} {s : State} (h : whLen e.slot = 0) (ho : e.op ≠ 0x21) : whsRead p e s = whsRun p e s := by
  unfold whsRead
  rw [if_neg ho, h]
  rfl

/-- A send with a payload reads it first, as class X. -/
theorem whsRead_access {p : Nat} {e : QEnt} {s : State} (h : whLen e.slot ≠ 0) (ho : e.op ≠ 0x21) :
    whsRead p e s = xAccess p e.disp false (whsFirst s p e) (whLen e.slot) [] s := by
  unfold whsRead
  rw [if_neg ho]
  exact if_neg h

/-- The state of core p in a cycle before its tasks are examined. -/
def cycleStart (p : Nat) (s : State) : State :=
  meshCycle p (confCycle p (coreMod p (fun c => { c with cyc := c.cyc + 1 }) s))

/-- A task that is ready issues its bundle. -/
theorem coreCycle_issue {p : Nat} {s v : State} {ks : List (Nat × Stall)} {k : Nat × Stall} (hv : v = cycleStart p s)
    (hk : ks = ((taskOrder v p).filter (fun t => taskState v p t != 0)).map (fun t => (t, taskStall v p t)))
    (h : ks.find? (fun y => y.2.ready) = some k) :
    coreCycle p s = issueTask p k.1 (coreMod p (fun c => { c with last := k.1 }) (showTasks p ks
      (bumpIf (ks.any (fun k => k.2.m)) LEA_MSAT_count p (bumpIf (ks.any (fun k => k.2.v)) LEA_VSAT_count p
        (bumpIf (ks.any (fun k => k.2.x)) LEA_XSAT_count p (bumpIf (xHeadStalls v p) LEA_XHEAD_count p
          (bumpIf (sendWaits v p) WHS_SSAT_count p
          (bumpIf (mWaits v p) LEA_MWAIT_count p (bumpIf (vWaits v p) LEA_VDEP_count p v))))))))) := by
  have e : coreCycle p s = cycleIssue p ks (showTasks p ks
      (bumpIf (ks.any (fun k => k.2.m)) LEA_MSAT_count p (bumpIf (ks.any (fun k => k.2.v)) LEA_VSAT_count p
        (bumpIf (ks.any (fun k => k.2.x)) LEA_XSAT_count p (bumpIf (xHeadStalls v p) LEA_XHEAD_count p
          (bumpIf (sendWaits v p) WHS_SSAT_count p
          (bumpIf (mWaits v p) LEA_MWAIT_count p (bumpIf (vWaits v p) LEA_VDEP_count p v)))))))) := by
    unfold coreCycle
    rw [show meshCycle p (confCycle p (coreMod p (fun c => { c with cyc := c.cyc + 1 }) s)) = v from hv.symm]
    show cycleIssue _ _ _ = _
    rw [← hk]
  rw [e]
  unfold cycleIssue
  rw [h]

/-- A PLDM request that something listens to is taken up. -/
theorem pldmServe_run {b ty cmd : Nat} {k : State → State} {s : State} (hb : b < 3) (ha : answers s b = true)
    (hr : pwrState s ≠ 6 ∨ ty = 0 ∨ ty = 5) (hv : activating s = false) : pldmServe b ty cmd k s = .next (k s) := by
  refine congrArg Host.Outcome.next ((if_neg ?_).trans (if_neg (ne_true_of_eq_false hv)))
  rintro (h | h | ⟨h1, h2, h3⟩)
  · omega
  · rw [ha] at h; cases h
  · omega

/-- A request of the update in progress, from its agent and in its turn, is taken up. -/
theorem updServe_run {b cmd : Nat} {st : List Nat} {k : State → State} {s : State} (hb : b < 3) (ha : answers s b = true)
    (hv : activating s = false) (hu : s.mgmt.upd ≠ 0) (hg : s.mgmt.agent = b + 1) (hs : s.mgmt.upd ∈ st) :
    updServe b cmd st k s = .next (k s) := by
  refine (pldmServe_run hb ha (.inr (.inr rfl)) hv).trans (congrArg Host.Outcome.next ?_)
  exact (if_neg hu).trans ((if_neg (fun h => h hg)).trans (if_neg (by simp [hs])))

/-- An SPDM request whose negotiation has come far enough is taken up. -/
theorem spdmServe_run {b need : Nat} {k : State → State} {s : State} (hb : b < 4) (ha : answers s 1 = true)
    (hl : b ≠ 3 ∨ rd s HST_LINK_state 0 ≠ 4) (hv : activating s = false) (hn : need ≤ s.mgmt.spdm) :
    spdmServe b need k s = .next (k s) := by
  refine congrArg Host.Outcome.next ((if_neg ?_).trans ((if_neg (ne_true_of_eq_false hv)).trans (if_neg (Nat.not_lt.mpr hn))))
  rintro (h | h | ⟨h1, h2⟩)
  · omega
  · rw [ha] at h; cases h
  · omega

/-- A byte that names no register reads 0 and changes nothing. -/
theorem readOne_none {b : Blk} {inst stop o : Nat} {s : State} (e : regAt b o = none) : readOne b inst stop o s = ([0], o + 1, s) := by
  unfold readOne
  rw [e]

/-- The registers an access touches, step by step. -/
theorem touchedFrom_zero (b : Blk) (stop o : Nat) : touchedFrom b stop 0 o = [] := by
  delta touchedFrom
  rfl

theorem touchedFrom_succ (b : Blk) (stop m o : Nat) : touchedFrom b stop (m + 1) o = if stop ≤ o then [] else match regAt b o with
    | none => touchedFrom b stop m (o + 1)
    | some (r, base) => (r, base) :: touchedFrom b stop m (base + r.width / 8) := by
  delta touchedFrom
  rfl

end Sys2Proof.Machine
end

