-- ==== Sys2Proof/Laws/State.lean ====
section
/-! SUPPORT. The named updates of the state: one lemma for each field an update leaves alone, and for the registers. -/

namespace Sys2Proof.Machine

section
variable (s : State)

/-! ### wrW -/

/-- A register write changes the register map alone. -/
theorem wrW_ex (b : Blk) (inst off : Nat) (w : Word) : ∃ m, wrW b inst off w s = { s with regs := m } :=
  ⟨mapSet (regDefault (regKey b inst off)) s.regs (regKey b inst off) w, by delta wrW; exact Eq.refl _⟩

theorem wr_ex (f : Fld) (i v : Nat) : ∃ m, wr f i v s = { s with regs := m } := by
  unfold wr
  exact wrW_ex s _ _ _ _

@[simp] theorem wrW_now (b : Blk) (inst : Nat) (off : Nat) (w : Word) : (wrW b inst off w s).now = s.now := by
  obtain ⟨m, h⟩ := wrW_ex s b inst off w
  rw [h]
@[simp] theorem wrW_freeCtr (b : Blk) (inst : Nat) (off : Nat) (w : Word) : (wrW b inst off w s).freeCtr = s.freeCtr := by
  obtain ⟨m, h⟩ := wrW_ex s b inst off w
  rw [h]
@[simp] theorem wrW_bellPend (b : Blk) (inst : Nat) (off : Nat) (w : Word) : (wrW b inst off w s).bellPend = s.bellPend := by
  obtain ⟨m, h⟩ := wrW_ex s b inst off w
  rw [h]
@[simp] theorem wrW_rearmPend (b : Blk) (inst : Nat) (off : Nat) (w : Word) : (wrW b inst off w s).rearmPend = s.rearmPend := by
  obtain ⟨m, h⟩ := wrW_ex s b inst off w
  rw [h]
@[simp] theorem wrW_fixedDone (b : Blk) (inst : Nat) (off : Nat) (w : Word) : (wrW b inst off w s).fixedDone = s.fixedDone := by
  obtain ⟨m, h⟩ := wrW_ex s b inst off w
  rw [h]
@[simp] theorem wrW_outbox (b : Blk) (inst : Nat) (off : Nat) (w : Word) : (wrW b inst off w s).outbox = s.outbox := by
  obtain ⟨m, h⟩ := wrW_ex s b inst off w
  rw [h]
@[simp] theorem wrW_bellLock (b : Blk) (inst : Nat) (off : Nat) (w : Word) : (wrW b inst off w s).bellLock = s.bellLock := by
  obtain ⟨m, h⟩ := wrW_ex s b inst off w
  rw [h]
@[simp] theorem wrW_aliveOut (b : Blk) (inst : Nat) (off : Nat) (w : Word) : (wrW b inst off w s).aliveOut = s.aliveOut := by
  obtain ⟨m, h⟩ := wrW_ex s b inst off w
  rw [h]
@[simp] theorem wrW_bell (b : Blk) (inst : Nat) (off : Nat) (w : Word) : (wrW b inst off w s).bell = s.bell := by
  obtain ⟨m, h⟩ := wrW_ex s b inst off w
  rw [h]
@[simp] theorem wrW_pdks (b : Blk) (inst : Nat) (off : Nat) (w : Word) : (wrW b inst off w s).pdks = s.pdks := by
  obtain ⟨m, h⟩ := wrW_ex s b inst off w
  rw [h]
@[simp] theorem wrW_vfEnable (b : Blk) (inst : Nat) (off : Nat) (w : Word) : (wrW b inst off w s).vfEnable = s.vfEnable := by
  obtain ⟨m, h⟩ := wrW_ex s b inst off w
  rw [h]
@[simp] theorem wrW_numVfs (b : Blk) (inst : Nat) (off : Nat) (w : Word) : (wrW b inst off w s).numVfs = s.numVfs := by
  obtain ⟨m, h⟩ := wrW_ex s b inst off w
  rw [h]
@[simp] theorem wrW_fns (b : Blk) (inst : Nat) (off : Nat) (w : Word) : (wrW b inst off w s).fns = s.fns := by
  obtain ⟨m, h⟩ := wrW_ex s b inst off w
  rw [h]
@[simp] theorem wrW_pfEvents (b : Blk) (inst : Nat) (off : Nat) (w : Word) : (wrW b inst off w s).pfEvents = s.pfEvents := by
  obtain ⟨m, h⟩ := wrW_ex s b inst off w
  rw [h]
@[simp] theorem wrW_pfLost (b : Blk) (inst : Nat) (off : Nat) (w : Word) : (wrW b inst off w s).pfLost = s.pfLost := by
  obtain ⟨m, h⟩ := wrW_ex s b inst off w
  rw [h]
@[simp] theorem wrW_fbk (b : Blk) (inst : Nat) (off : Nat) (w : Word) : (wrW b inst off w s).fbk = s.fbk := by
  obtain ⟨m, h⟩ := wrW_ex s b inst off w
  rw [h]
@[simp] theorem wrW_cores (b : Blk) (inst : Nat) (off : Nat) (w : Word) : (wrW b inst off w s).cores = s.cores := by
  obtain ⟨m, h⟩ := wrW_ex s b inst off w
  rw [h]
@[simp] theorem wrW_meshes (b : Blk) (inst : Nat) (off : Nat) (w : Word) : (wrW b inst off w s).meshes = s.meshes := by
  obtain ⟨m, h⟩ := wrW_ex s b inst off w
  rw [h]
@[simp] theorem wrW_links (b : Blk) (inst : Nat) (off : Nat) (w : Word) : (wrW b inst off w s).links = s.links := by
  obtain ⟨m, h⟩ := wrW_ex s b inst off w
  rw [h]
@[simp] theorem wrW_sp (b : Blk) (inst : Nat) (off : Nat) (w : Word) : (wrW b inst off w s).sp = s.sp := by
  obtain ⟨m, h⟩ := wrW_ex s b inst off w
  rw [h]
@[simp] theorem wrW_spEpoch (b : Blk) (inst : Nat) (off : Nat) (w : Word) : (wrW b inst off w s).spEpoch = s.spEpoch := by
  obtain ⟨m, h⟩ := wrW_ex s b inst off w
  rw [h]
@[simp] theorem wrW_imem (b : Blk) (inst : Nat) (off : Nat) (w : Word) : (wrW b inst off w s).imem = s.imem := by
  obtain ⟨m, h⟩ := wrW_ex s b inst off w
  rw [h]
@[simp] theorem wrW_rslot (b : Blk) (inst : Nat) (off : Nat) (w : Word) : (wrW b inst off w s).rslot = s.rslot := by
  obtain ⟨m, h⟩ := wrW_ex s b inst off w
  rw [h]
@[simp] theorem wrW_tile (b : Blk) (inst : Nat) (off : Nat) (w : Word) : (wrW b inst off w s).tile = s.tile := by
  obtain ⟨m, h⟩ := wrW_ex s b inst off w
  rw [h]
@[simp] theorem wrW_acc (b : Blk) (inst : Nat) (off : Nat) (w : Word) : (wrW b inst off w s).acc = s.acc := by
  obtain ⟨m, h⟩ := wrW_ex s b inst off w
  rw [h]
@[simp] theorem wrW_shadow (b : Blk) (inst : Nat) (off : Nat) (w : Word) : (wrW b inst off w s).shadow = s.shadow := by
  obtain ⟨m, h⟩ := wrW_ex s b inst off w
  rw [h]
@[simp] theorem wrW_desc (b : Blk) (inst : Nat) (off : Nat) (w : Word) : (wrW b inst off w s).desc = s.desc := by
  obtain ⟨m, h⟩ := wrW_ex s b inst off w
  rw [h]
@[simp] theorem wrW_frameChk (b : Blk) (inst : Nat) (off : Nat) (w : Word) : (wrW b inst off w s).frameChk = s.frameChk := by
  obtain ⟨m, h⟩ := wrW_ex s b inst off w
  rw [h]
@[simp] theorem wrW_ht (b : Blk) (inst : Nat) (off : Nat) (w : Word) : (wrW b inst off w s).ht = s.ht := by
  obtain ⟨m, h⟩ := wrW_ex s b inst off w
  rw [h]
@[simp] theorem wrW_wlkDue (b : Blk) (inst : Nat) (off : Nat) (w : Word) : (wrW b inst off w s).wlkDue = s.wlkDue := by
  obtain ⟨m, h⟩ := wrW_ex s b inst off w
  rw [h]
@[simp] theorem wrW_walkers (b : Blk) (inst : Nat) (off : Nat) (w : Word) : (wrW b inst off w s).walkers = s.walkers := by
  obtain ⟨m, h⟩ := wrW_ex s b inst off w
  rw [h]
@[simp] theorem wrW_wlkDone (b : Blk) (inst : Nat) (off : Nat) (w : Word) : (wrW b inst off w s).wlkDone = s.wlkDone := by
  obtain ⟨m, h⟩ := wrW_ex s b inst off w
  rw [h]
@[simp] theorem wrW_mcores (b : Blk) (inst : Nat) (off : Nat) (w : Word) : (wrW b inst off w s).mcores = s.mcores := by
  obtain ⟨m, h⟩ := wrW_ex s b inst off w
  rw [h]
@[simp] theorem wrW_mslice (b : Blk) (inst : Nat) (off : Nat) (w : Word) : (wrW b inst off w s).mslice = s.mslice := by
  obtain ⟨m, h⟩ := wrW_ex s b inst off w
  rw [h]
@[simp] theorem wrW_mblast (b : Blk) (inst : Nat) (off : Nat) (w : Word) : (wrW b inst off w s).mblast = s.mblast := by
  obtain ⟨m, h⟩ := wrW_ex s b inst off w
  rw [h]
@[simp] theorem wrW_repairs (b : Blk) (inst : Nat) (off : Nat) (w : Word) : (wrW b inst off w s).repairs = s.repairs := by
  obtain ⟨m, h⟩ := wrW_ex s b inst off w
  rw [h]
@[simp] theorem wrW_ctxs (b : Blk) (inst : Nat) (off : Nat) (w : Word) : (wrW b inst off w s).ctxs = s.ctxs := by
  obtain ⟨m, h⟩ := wrW_ex s b inst off w
  rw [h]
@[simp] theorem wrW_leaCyc (b : Blk) (inst : Nat) (off : Nat) (w : Word) : (wrW b inst off w s).leaCyc = s.leaCyc := by
  obtain ⟨m, h⟩ := wrW_ex s b inst off w
  rw [h]
@[simp] theorem wrW_fab (b : Blk) (inst : Nat) (off : Nat) (w : Word) : (wrW b inst off w s).fab = s.fab := by
  obtain ⟨m, h⟩ := wrW_ex s b inst off w
  rw [h]
@[simp] theorem wrW_tlyQ (b : Blk) (inst : Nat) (off : Nat) (w : Word) : (wrW b inst off w s).tlyQ = s.tlyQ := by
  obtain ⟨m, h⟩ := wrW_ex s b inst off w
  rw [h]
@[simp] theorem wrW_tlyWaits (b : Blk) (inst : Nat) (off : Nat) (w : Word) : (wrW b inst off w s).tlyWaits = s.tlyWaits := by
  obtain ⟨m, h⟩ := wrW_ex s b inst off w
  rw [h]
@[simp] theorem wrW_whsQ (b : Blk) (inst : Nat) (off : Nat) (w : Word) : (wrW b inst off w s).whsQ = s.whsQ := by
  obtain ⟨m, h⟩ := wrW_ex s b inst off w
  rw [h]
@[simp] theorem wrW_sends (b : Blk) (inst : Nat) (off : Nat) (w : Word) : (wrW b inst off w s).sends = s.sends := by
  obtain ⟨m, h⟩ := wrW_ex s b inst off w
  rw [h]
@[simp] theorem wrW_rqs (b : Blk) (inst : Nat) (off : Nat) (w : Word) : (wrW b inst off w s).rqs = s.rqs := by
  obtain ⟨m, h⟩ := wrW_ex s b inst off w
  rw [h]
@[simp] theorem wrW_spills (b : Blk) (inst : Nat) (off : Nat) (w : Word) : (wrW b inst off w s).spills = s.spills := by
  obtain ⟨m, h⟩ := wrW_ex s b inst off w
  rw [h]
@[simp] theorem wrW_opens (b : Blk) (inst : Nat) (off : Nat) (w : Word) : (wrW b inst off w s).opens = s.opens := by
  obtain ⟨m, h⟩ := wrW_ex s b inst off w
  rw [h]
@[simp] theorem wrW_landings (b : Blk) (inst : Nat) (off : Nat) (w : Word) : (wrW b inst off w s).landings = s.landings := by
  obtain ⟨m, h⟩ := wrW_ex s b inst off w
  rw [h]
@[simp] theorem wrW_connLt (b : Blk) (inst : Nat) (off : Nat) (w : Word) : (wrW b inst off w s).connLt = s.connLt := by
  obtain ⟨m, h⟩ := wrW_ex s b inst off w
  rw [h]
@[simp] theorem wrW_sidNext (b : Blk) (inst : Nat) (off : Nat) (w : Word) : (wrW b inst off w s).sidNext = s.sidNext := by
  obtain ⟨m, h⟩ := wrW_ex s b inst off w
  rw [h]
@[simp] theorem wrW_ltkQ (b : Blk) (inst : Nat) (off : Nat) (w : Word) : (wrW b inst off w s).ltkQ = s.ltkQ := by
  obtain ⟨m, h⟩ := wrW_ex s b inst off w
  rw [h]
@[simp] theorem wrW_ltkPaths (b : Blk) (inst : Nat) (off : Nat) (w : Word) : (wrW b inst off w s).ltkPaths = s.ltkPaths := by
  obtain ⟨m, h⟩ := wrW_ex s b inst off w
  rw [h]
@[simp] theorem wrW_ltkRoutes (b : Blk) (inst : Nat) (off : Nat) (w : Word) : (wrW b inst off w s).ltkRoutes = s.ltkRoutes := by
  obtain ⟨m, h⟩ := wrW_ex s b inst off w
  rw [h]
@[simp] theorem wrW_ltkPause (b : Blk) (inst : Nat) (off : Nat) (w : Word) : (wrW b inst off w s).ltkPause = s.ltkPause := by
  obtain ⟨m, h⟩ := wrW_ex s b inst off w
  rw [h]
@[simp] theorem wrW_ptpGood (b : Blk) (inst : Nat) (off : Nat) (w : Word) : (wrW b inst off w s).ptpGood = s.ptpGood := by
  obtain ⟨m, h⟩ := wrW_ex s b inst off w
  rw [h]
@[simp] theorem wrW_held (b : Blk) (inst : Nat) (off : Nat) (w : Word) : (wrW b inst off w s).held = s.held := by
  obtain ⟨m, h⟩ := wrW_ex s b inst off w
  rw [h]
@[simp] theorem wrW_hostEnts (b : Blk) (inst : Nat) (off : Nat) (w : Word) : (wrW b inst off w s).hostEnts = s.hostEnts := by
  obtain ⟨m, h⟩ := wrW_ex s b inst off w
  rw [h]
@[simp] theorem wrW_hrings (b : Blk) (inst : Nat) (off : Nat) (w : Word) : (wrW b inst off w s).hrings = s.hrings := by
  obtain ⟨m, h⟩ := wrW_ex s b inst off w
  rw [h]
@[simp] theorem wrW_hostNext (b : Blk) (inst : Nat) (off : Nat) (w : Word) : (wrW b inst off w s).hostNext = s.hostNext := by
  obtain ⟨m, h⟩ := wrW_ex s b inst off w
  rw [h]
@[simp] theorem wrW_aer (b : Blk) (inst : Nat) (off : Nat) (w : Word) : (wrW b inst off w s).aer = s.aer := by
  obtain ⟨m, h⟩ := wrW_ex s b inst off w
  rw [h]
@[simp] theorem wrW_tcache (b : Blk) (inst : Nat) (off : Nat) (w : Word) : (wrW b inst off w s).tcache = s.tcache := by
  obtain ⟨m, h⟩ := wrW_ex s b inst off w
  rw [h]
@[simp] theorem wrW_fabCyc (b : Blk) (inst : Nat) (off : Nat) (w : Word) : (wrW b inst off w s).fabCyc = s.fabCyc := by
  obtain ⟨m, h⟩ := wrW_ex s b inst off w
  rw [h]
@[simp] theorem wrW_used (b : Blk) (inst : Nat) (off : Nat) (w : Word) : (wrW b inst off w s).used = s.used := by
  obtain ⟨m, h⟩ := wrW_ex s b inst off w
  rw [h]
@[simp] theorem wrW_slotAt (b : Blk) (inst : Nat) (off : Nat) (w : Word) : (wrW b inst off w s).slotAt = s.slotAt := by
  obtain ⟨m, h⟩ := wrW_ex s b inst off w
  rw [h]
@[simp] theorem wrW_capNext (b : Blk) (inst : Nat) (off : Nat) (w : Word) : (wrW b inst off w s).capNext = s.capNext := by
  obtain ⟨m, h⟩ := wrW_ex s b inst off w
  rw [h]
@[simp] theorem wrW_ats (b : Blk) (inst : Nat) (off : Nat) (w : Word) : (wrW b inst off w s).ats = s.ats := by
  obtain ⟨m, h⟩ := wrW_ex s b inst off w
  rw [h]
@[simp] theorem wrW_pageReqs (b : Blk) (inst : Nat) (off : Nat) (w : Word) : (wrW b inst off w s).pageReqs = s.pageReqs := by
  obtain ⟨m, h⟩ := wrW_ex s b inst off w
  rw [h]
@[simp] theorem wrW_prgNext (b : Blk) (inst : Nat) (off : Nat) (w : Word) : (wrW b inst off w s).prgNext = s.prgNext := by
  obtain ⟨m, h⟩ := wrW_ex s b inst off w
  rw [h]
@[simp] theorem wrW_atsInv (b : Blk) (inst : Nat) (off : Nat) (w : Word) : (wrW b inst off w s).atsInv = s.atsInv := by
  obtain ⟨m, h⟩ := wrW_ex s b inst off w
  rw [h]
@[simp] theorem wrW_atsEn (b : Blk) (inst : Nat) (off : Nat) (w : Word) : (wrW b inst off w s).atsEn = s.atsEn := by
  obtain ⟨m, h⟩ := wrW_ex s b inst off w
  rw [h]
@[simp] theorem wrW_priEn (b : Blk) (inst : Nat) (off : Nat) (w : Word) : (wrW b inst off w s).priEn = s.priEn := by
  obtain ⟨m, h⟩ := wrW_ex s b inst off w
  rw [h]
@[simp] theorem wrW_priAlloc (b : Blk) (inst : Nat) (off : Nat) (w : Word) : (wrW b inst off w s).priAlloc = s.priAlloc := by
  obtain ⟨m, h⟩ := wrW_ex s b inst off w
  rw [h]
@[simp] theorem wrW_winShare (b : Blk) (inst : Nat) (off : Nat) (w : Word) : (wrW b inst off w s).winShare = s.winShare := by
  obtain ⟨m, h⟩ := wrW_ex s b inst off w
  rw [h]
@[simp] theorem wrW_sinks (b : Blk) (inst : Nat) (off : Nat) (w : Word) : (wrW b inst off w s).sinks = s.sinks := by
  obtain ⟨m, h⟩ := wrW_ex s b inst off w
  rw [h]
@[simp] theorem wrW_scrubAt (b : Blk) (inst : Nat) (off : Nat) (w : Word) : (wrW b inst off w s).scrubAt = s.scrubAt := by
  obtain ⟨m, h⟩ := wrW_ex s b inst off w
  rw [h]
@[simp] theorem wrW_mem (b : Blk) (inst : Nat) (off : Nat) (w : Word) : (wrW b inst off w s).mem = s.mem := by
  obtain ⟨m, h⟩ := wrW_ex s b inst off w
  rw [h]
@[simp] theorem wrW_memEpoch (b : Blk) (inst : Nat) (off : Nat) (w : Word) : (wrW b inst off w s).memEpoch = s.memEpoch := by
  obtain ⟨m, h⟩ := wrW_ex s b inst off w
  rw [h]
@[simp] theorem wrW_lines (b : Blk) (inst : Nat) (off : Nat) (w : Word) : (wrW b inst off w s).lines = s.lines := by
  obtain ⟨m, h⟩ := wrW_ex s b inst off w
  rw [h]
@[simp] theorem wrW_pools (b : Blk) (inst : Nat) (off : Nat) (w : Word) : (wrW b inst off w s).pools = s.pools := by
  obtain ⟨m, h⟩ := wrW_ex s b inst off w
  rw [h]
@[simp] theorem wrW_byrQ (b : Blk) (inst : Nat) (off : Nat) (w : Word) : (wrW b inst off w s).byrQ = s.byrQ := by
  obtain ⟨m, h⟩ := wrW_ex s b inst off w
  rw [h]
@[simp] theorem wrW_byrCmd (b : Blk) (inst : Nat) (off : Nat) (w : Word) : (wrW b inst off w s).byrCmd = s.byrCmd := by
  obtain ⟨m, h⟩ := wrW_ex s b inst off w
  rw [h]
@[simp] theorem wrW_tlyShadow (b : Blk) (inst : Nat) (off : Nat) (w : Word) : (wrW b inst off w s).tlyShadow = s.tlyShadow := by
  obtain ⟨m, h⟩ := wrW_ex s b inst off w
  rw [h]
@[simp] theorem wrW_connShadow (b : Blk) (inst : Nat) (off : Nat) (w : Word) : (wrW b inst off w s).connShadow = s.connShadow := by
  obtain ⟨m, h⟩ := wrW_ex s b inst off w
  rw [h]
@[simp] theorem wrW_watches (b : Blk) (inst : Nat) (off : Nat) (w : Word) : (wrW b inst off w s).watches = s.watches := by
  obtain ⟨m, h⟩ := wrW_ex s b inst off w
  rw [h]
@[simp] theorem wrW_folds (b : Blk) (inst : Nat) (off : Nat) (w : Word) : (wrW b inst off w s).folds = s.folds := by
  obtain ⟨m, h⟩ := wrW_ex s b inst off w
  rw [h]
@[simp] theorem wrW_keys (b : Blk) (inst : Nat) (off : Nat) (w : Word) : (wrW b inst off w s).keys = s.keys := by
  obtain ⟨m, h⟩ := wrW_ex s b inst off w
  rw [h]
@[simp] theorem wrW_ration (b : Blk) (inst : Nat) (off : Nat) (w : Word) : (wrW b inst off w s).ration = s.ration := by
  obtain ⟨m, h⟩ := wrW_ex s b inst off w
  rw [h]
@[simp] theorem wrW_pmTry (b : Blk) (inst : Nat) (off : Nat) (w : Word) : (wrW b inst off w s).pmTry = s.pmTry := by
  obtain ⟨m, h⟩ := wrW_ex s b inst off w
  rw [h]
@[simp] theorem wrW_pldmQ (b : Blk) (inst : Nat) (off : Nat) (w : Word) : (wrW b inst off w s).pldmQ = s.pldmQ := by
  obtain ⟨m, h⟩ := wrW_ex s b inst off w
  rw [h]
@[simp] theorem wrW_mgmt (b : Blk) (inst : Nat) (off : Nat) (w : Word) : (wrW b inst off w s).mgmt = s.mgmt := by
  obtain ⟨m, h⟩ := wrW_ex s b inst off w
  rw [h]
@[simp] theorem wrW_pwr (b : Blk) (inst : Nat) (off : Nat) (w : Word) : (wrW b inst off w s).pwr = s.pwr := by
  obtain ⟨m, h⟩ := wrW_ex s b inst off w
  rw [h]
@[simp] theorem wrW_cfg (b : Blk) (inst : Nat) (off : Nat) (w : Word) : (wrW b inst off w s).cfg = s.cfg := by
  obtain ⟨m, h⟩ := wrW_ex s b inst off w
  rw [h]
@[simp] theorem wrW_tap (b : Blk) (inst : Nat) (off : Nat) (w : Word) : (wrW b inst off w s).tap = s.tap := by
  obtain ⟨m, h⟩ := wrW_ex s b inst off w
  rw [h]
@[simp] theorem wrW_mwins (b : Blk) (inst : Nat) (off : Nat) (w : Word) : (wrW b inst off w s).mwins = s.mwins := by
  obtain ⟨m, h⟩ := wrW_ex s b inst off w
  rw [h]
@[simp] theorem wrW_openAt (b : Blk) (inst : Nat) (off : Nat) (w : Word) : (wrW b inst off w s).openAt = s.openAt := by
  obtain ⟨m, h⟩ := wrW_ex s b inst off w
  rw [h]
@[simp] theorem wrW_whsLands (b : Blk) (inst : Nat) (off : Nat) (w : Word) : (wrW b inst off w s).whsLands = s.whsLands := by
  obtain ⟨m, h⟩ := wrW_ex s b inst off w
  rw [h]
@[simp] theorem wrW_accWaits (b : Blk) (inst : Nat) (off : Nat) (w : Word) : (wrW b inst off w s).accWaits = s.accWaits := by
  obtain ⟨m, h⟩ := wrW_ex s b inst off w
  rw [h]
@[simp] theorem wrW_formAt (b : Blk) (inst : Nat) (off : Nat) (w : Word) : (wrW b inst off w s).formAt = s.formAt := by
  obtain ⟨m, h⟩ := wrW_ex s b inst off w
  rw [h]
@[simp] theorem wrW_admSeq (b : Blk) (inst : Nat) (off : Nat) (w : Word) : (wrW b inst off w s).admSeq = s.admSeq := by
  obtain ⟨m, h⟩ := wrW_ex s b inst off w
  rw [h]
@[simp] theorem wrW_spMark (b : Blk) (inst : Nat) (off : Nat) (w : Word) : (wrW b inst off w s).spMark = s.spMark := by
  obtain ⟨m, h⟩ := wrW_ex s b inst off w
  rw [h]
@[simp] theorem wrW_bellLate (b : Blk) (inst : Nat) (off : Nat) (w : Word) : (wrW b inst off w s).bellLate = s.bellLate := by
  obtain ⟨m, h⟩ := wrW_ex s b inst off w
  rw [h]
@[simp] theorem wrW_pending (b : Blk) (inst : Nat) (off : Nat) (w : Word) : (wrW b inst off w s).pending = s.pending := by
  obtain ⟨m, h⟩ := wrW_ex s b inst off w
  rw [h]

/-! ### wr -/

@[simp] theorem wr_now (f : Fld) (i : Nat) (v : Nat) : (wr f i v s).now = s.now := by
  obtain ⟨m, h⟩ := wr_ex s f i v
  rw [h]
@[simp] theorem wr_freeCtr (f : Fld) (i : Nat) (v : Nat) : (wr f i v s).freeCtr = s.freeCtr := by
  obtain ⟨m, h⟩ := wr_ex s f i v
  rw [h]
@[simp] theorem wr_bellPend (f : Fld) (i : Nat) (v : Nat) : (wr f i v s).bellPend = s.bellPend := by
  obtain ⟨m, h⟩ := wr_ex s f i v
  rw [h]
@[simp] theorem wr_rearmPend (f : Fld) (i : Nat) (v : Nat) : (wr f i v s).rearmPend = s.rearmPend := by
  obtain ⟨m, h⟩ := wr_ex s f i v
  rw [h]
@[simp] theorem wr_fixedDone (f : Fld) (i : Nat) (v : Nat) : (wr f i v s).fixedDone = s.fixedDone := by
  obtain ⟨m, h⟩ := wr_ex s f i v
  rw [h]
@[simp] theorem wr_outbox (f : Fld) (i : Nat) (v : Nat) : (wr f i v s).outbox = s.outbox := by
  obtain ⟨m, h⟩ := wr_ex s f i v
  rw [h]
@[simp] theorem wr_bellLock (f : Fld) (i : Nat) (v : Nat) : (wr f i v s).bellLock = s.bellLock := by
  obtain ⟨m, h⟩ := wr_ex s f i v
  rw [h]
@[simp] theorem wr_aliveOut (f : Fld) (i : Nat) (v : Nat) : (wr f i v s).aliveOut = s.aliveOut := by
  obtain ⟨m, h⟩ := wr_ex s f i v
  rw [h]
@[simp] theorem wr_bell (f : Fld) (i : Nat) (v : Nat) : (wr f i v s).bell = s.bell := by
  obtain ⟨m, h⟩ := wr_ex s f i v
  rw [h]
@[simp] theorem wr_pdks (f : Fld) (i : Nat) (v : Nat) : (wr f i v s).pdks = s.pdks := by
  obtain ⟨m, h⟩ := wr_ex s f i v
  rw [h]
@[simp] theorem wr_vfEnable (f : Fld) (i : Nat) (v : Nat) : (wr f i v s).vfEnable = s.vfEnable := by
  obtain ⟨m, h⟩ := wr_ex s f i v
  rw [h]
@[simp] theorem wr_numVfs (f : Fld) (i : Nat) (v : Nat) : (wr f i v s).numVfs = s.numVfs := by
  obtain ⟨m, h⟩ := wr_ex s f i v
  rw [h]
@[simp] theorem wr_fns (f : Fld) (i : Nat) (v : Nat) : (wr f i v s).fns = s.fns := by
  obtain ⟨m, h⟩ := wr_ex s f i v
  rw [h]
@[simp] theorem wr_pfEvents (f : Fld) (i : Nat) (v : Nat) : (wr f i v s).pfEvents = s.pfEvents := by
  obtain ⟨m, h⟩ := wr_ex s f i v
  rw [h]
@[simp] theorem wr_pfLost (f : Fld) (i : Nat) (v : Nat) : (wr f i v s).pfLost = s.pfLost := by
  obtain ⟨m, h⟩ := wr_ex s f i v
  rw [h]
@[simp] theorem wr_fbk (f : Fld) (i : Nat) (v : Nat) : (wr f i v s).fbk = s.fbk := by
  obtain ⟨m, h⟩ := wr_ex s f i v
  rw [h]
@[simp] theorem wr_cores (f : Fld) (i : Nat) (v : Nat) : (wr f i v s).cores = s.cores := by
  obtain ⟨m, h⟩ := wr_ex s f i v
  rw [h]
@[simp] theorem wr_meshes (f : Fld) (i : Nat) (v : Nat) : (wr f i v s).meshes = s.meshes := by
  obtain ⟨m, h⟩ := wr_ex s f i v
  rw [h]
@[simp] theorem wr_links (f : Fld) (i : Nat) (v : Nat) : (wr f i v s).links = s.links := by
  obtain ⟨m, h⟩ := wr_ex s f i v
  rw [h]
@[simp] theorem wr_sp (f : Fld) (i : Nat) (v : Nat) : (wr f i v s).sp = s.sp := by
  obtain ⟨m, h⟩ := wr_ex s f i v
  rw [h]
@[simp] theorem wr_spEpoch (f : Fld) (i : Nat) (v : Nat) : (wr f i v s).spEpoch = s.spEpoch := by
  obtain ⟨m, h⟩ := wr_ex s f i v
  rw [h]
@[simp] theorem wr_imem (f : Fld) (i : Nat) (v : Nat) : (wr f i v s).imem = s.imem := by
  obtain ⟨m, h⟩ := wr_ex s f i v
  rw [h]
@[simp] theorem wr_rslot (f : Fld) (i : Nat) (v : Nat) : (wr f i v s).rslot = s.rslot := by
  obtain ⟨m, h⟩ := wr_ex s f i v
  rw [h]
@[simp] theorem wr_tile (f : Fld) (i : Nat) (v : Nat) : (wr f i v s).tile = s.tile := by
  obtain ⟨m, h⟩ := wr_ex s f i v
  rw [h]
@[simp] theorem wr_acc (f : Fld) (i : Nat) (v : Nat) : (wr f i v s).acc = s.acc := by
  obtain ⟨m, h⟩ := wr_ex s f i v
  rw [h]
@[simp] theorem wr_shadow (f : Fld) (i : Nat) (v : Nat) : (wr f i v s).shadow = s.shadow := by
  obtain ⟨m, h⟩ := wr_ex s f i v
  rw [h]
@[simp] theorem wr_desc (f : Fld) (i : Nat) (v : Nat) : (wr f i v s).desc = s.desc := by
  obtain ⟨m, h⟩ := wr_ex s f i v
  rw [h]
@[simp] theorem wr_frameChk (f : Fld) (i : Nat) (v : Nat) : (wr f i v s).frameChk = s.frameChk := by
  obtain ⟨m, h⟩ := wr_ex s f i v
  rw [h]
@[simp] theorem wr_ht (f : Fld) (i : Nat) (v : Nat) : (wr f i v s).ht = s.ht := by
  obtain ⟨m, h⟩ := wr_ex s f i v
  rw [h]
@[simp] theorem wr_wlkDue (f : Fld) (i : Nat) (v : Nat) : (wr f i v s).wlkDue = s.wlkDue := by
  obtain ⟨m, h⟩ := wr_ex s f i v
  rw [h]
@[simp] theorem wr_walkers (f : Fld) (i : Nat) (v : Nat) : (wr f i v s).walkers = s.walkers := by
  obtain ⟨m, h⟩ := wr_ex s f i v
  rw [h]
@[simp] theorem wr_wlkDone (f : Fld) (i : Nat) (v : Nat) : (wr f i v s).wlkDone = s.wlkDone := by
  obtain ⟨m, h⟩ := wr_ex s f i v
  rw [h]
@[simp] theorem wr_mcores (f : Fld) (i : Nat) (v : Nat) : (wr f i v s).mcores = s.mcores := by
  obtain ⟨m, h⟩ := wr_ex s f i v
  rw [h]
@[simp] theorem wr_mslice (f : Fld) (i : Nat) (v : Nat) : (wr f i v s).mslice = s.mslice := by
  obtain ⟨m, h⟩ := wr_ex s f i v
  rw [h]
@[simp] theorem wr_mblast (f : Fld) (i : Nat) (v : Nat) : (wr f i v s).mblast = s.mblast := by
  obtain ⟨m, h⟩ := wr_ex s f i v
  rw [h]
@[simp] theorem wr_repairs (f : Fld) (i : Nat) (v : Nat) : (wr f i v s).repairs = s.repairs := by
  obtain ⟨m, h⟩ := wr_ex s f i v
  rw [h]
@[simp] theorem wr_ctxs (f : Fld) (i : Nat) (v : Nat) : (wr f i v s).ctxs = s.ctxs := by
  obtain ⟨m, h⟩ := wr_ex s f i v
  rw [h]
@[simp] theorem wr_leaCyc (f : Fld) (i : Nat) (v : Nat) : (wr f i v s).leaCyc = s.leaCyc := by
  obtain ⟨m, h⟩ := wr_ex s f i v
  rw [h]
@[simp] theorem wr_fab (f : Fld) (i : Nat) (v : Nat) : (wr f i v s).fab = s.fab := by
  obtain ⟨m, h⟩ := wr_ex s f i v
  rw [h]
@[simp] theorem wr_tlyQ (f : Fld) (i : Nat) (v : Nat) : (wr f i v s).tlyQ = s.tlyQ := by
  obtain ⟨m, h⟩ := wr_ex s f i v
  rw [h]
@[simp] theorem wr_tlyWaits (f : Fld) (i : Nat) (v : Nat) : (wr f i v s).tlyWaits = s.tlyWaits := by
  obtain ⟨m, h⟩ := wr_ex s f i v
  rw [h]
@[simp] theorem wr_whsQ (f : Fld) (i : Nat) (v : Nat) : (wr f i v s).whsQ = s.whsQ := by
  obtain ⟨m, h⟩ := wr_ex s f i v
  rw [h]
@[simp] theorem wr_sends (f : Fld) (i : Nat) (v : Nat) : (wr f i v s).sends = s.sends := by
  obtain ⟨m, h⟩ := wr_ex s f i v
  rw [h]
@[simp] theorem wr_rqs (f : Fld) (i : Nat) (v : Nat) : (wr f i v s).rqs = s.rqs := by
  obtain ⟨m, h⟩ := wr_ex s f i v
  rw [h]
@[simp] theorem wr_spills (f : Fld) (i : Nat) (v : Nat) : (wr f i v s).spills = s.spills := by
  obtain ⟨m, h⟩ := wr_ex s f i v
  rw [h]
@[simp] theorem wr_opens (f : Fld) (i : Nat) (v : Nat) : (wr f i v s).opens = s.opens := by
  obtain ⟨m, h⟩ := wr_ex s f i v
  rw [h]
@[simp] theorem wr_landings (f : Fld) (i : Nat) (v : Nat) : (wr f i v s).landings = s.landings := by
  obtain ⟨m, h⟩ := wr_ex s f i v
  rw [h]
@[simp] theorem wr_connLt (f : Fld) (i : Nat) (v : Nat) : (wr f i v s).connLt = s.connLt := by
  obtain ⟨m, h⟩ := wr_ex s f i v
  rw [h]
@[simp] theorem wr_sidNext (f : Fld) (i : Nat) (v : Nat) : (wr f i v s).sidNext = s.sidNext := by
  obtain ⟨m, h⟩ := wr_ex s f i v
  rw [h]
@[simp] theorem wr_ltkQ (f : Fld) (i : Nat) (v : Nat) : (wr f i v s).ltkQ = s.ltkQ := by
  obtain ⟨m, h⟩ := wr_ex s f i v
  rw [h]
@[simp] theorem wr_ltkPaths (f : Fld) (i : Nat) (v : Nat) : (wr f i v s).ltkPaths = s.ltkPaths := by
  obtain ⟨m, h⟩ := wr_ex s f i v
  rw [h]
@[simp] theorem wr_ltkRoutes (f : Fld) (i : Nat) (v : Nat) : (wr f i v s).ltkRoutes = s.ltkRoutes := by
  obtain ⟨m, h⟩ := wr_ex s f i v
  rw [h]
@[simp] theorem wr_ltkPause (f : Fld) (i : Nat) (v : Nat) : (wr f i v s).ltkPause = s.ltkPause := by
  obtain ⟨m, h⟩ := wr_ex s f i v
  rw [h]
@[simp] theorem wr_ptpGood (f : Fld) (i : Nat) (v : Nat) : (wr f i v s).ptpGood = s.ptpGood := by
  obtain ⟨m, h⟩ := wr_ex s f i v
  rw [h]
@[simp] theorem wr_held (f : Fld) (i : Nat) (v : Nat) : (wr f i v s).held = s.held := by
  obtain ⟨m, h⟩ := wr_ex s f i v
  rw [h]
@[simp] theorem wr_hostEnts (f : Fld) (i : Nat) (v : Nat) : (wr f i v s).hostEnts = s.hostEnts := by
  obtain ⟨m, h⟩ := wr_ex s f i v
  rw [h]
@[simp] theorem wr_hrings (f : Fld) (i : Nat) (v : Nat) : (wr f i v s).hrings = s.hrings := by
  obtain ⟨m, h⟩ := wr_ex s f i v
  rw [h]
@[simp] theorem wr_hostNext (f : Fld) (i : Nat) (v : Nat) : (wr f i v s).hostNext = s.hostNext := by
  obtain ⟨m, h⟩ := wr_ex s f i v
  rw [h]
@[simp] theorem wr_aer (f : Fld) (i : Nat) (v : Nat) : (wr f i v s).aer = s.aer := by
  obtain ⟨m, h⟩ := wr_ex s f i v
  rw [h]
@[simp] theorem wr_tcache (f : Fld) (i : Nat) (v : Nat) : (wr f i v s).tcache = s.tcache := by
  obtain ⟨m, h⟩ := wr_ex s f i v
  rw [h]
@[simp] theorem wr_fabCyc (f : Fld) (i : Nat) (v : Nat) : (wr f i v s).fabCyc = s.fabCyc := by
  obtain ⟨m, h⟩ := wr_ex s f i v
  rw [h]
@[simp] theorem wr_used (f : Fld) (i : Nat) (v : Nat) : (wr f i v s).used = s.used := by
  obtain ⟨m, h⟩ := wr_ex s f i v
  rw [h]
@[simp] theorem wr_slotAt (f : Fld) (i : Nat) (v : Nat) : (wr f i v s).slotAt = s.slotAt := by
  obtain ⟨m, h⟩ := wr_ex s f i v
  rw [h]
@[simp] theorem wr_capNext (f : Fld) (i : Nat) (v : Nat) : (wr f i v s).capNext = s.capNext := by
  obtain ⟨m, h⟩ := wr_ex s f i v
  rw [h]
@[simp] theorem wr_ats (f : Fld) (i : Nat) (v : Nat) : (wr f i v s).ats = s.ats := by
  obtain ⟨m, h⟩ := wr_ex s f i v
  rw [h]
@[simp] theorem wr_pageReqs (f : Fld) (i : Nat) (v : Nat) : (wr f i v s).pageReqs = s.pageReqs := by
  obtain ⟨m, h⟩ := wr_ex s f i v
  rw [h]
@[simp] theorem wr_prgNext (f : Fld) (i : Nat) (v : Nat) : (wr f i v s).prgNext = s.prgNext := by
  obtain ⟨m, h⟩ := wr_ex s f i v
  rw [h]
@[simp] theorem wr_atsInv (f : Fld) (i : Nat) (v : Nat) : (wr f i v s).atsInv = s.atsInv := by
  obtain ⟨m, h⟩ := wr_ex s f i v
  rw [h]
@[simp] theorem wr_atsEn (f : Fld) (i : Nat) (v : Nat) : (wr f i v s).atsEn = s.atsEn := by
  obtain ⟨m, h⟩ := wr_ex s f i v
  rw [h]
@[simp] theorem wr_priEn (f : Fld) (i : Nat) (v : Nat) : (wr f i v s).priEn = s.priEn := by
  obtain ⟨m, h⟩ := wr_ex s f i v
  rw [h]
@[simp] theorem wr_priAlloc (f : Fld) (i : Nat) (v : Nat) : (wr f i v s).priAlloc = s.priAlloc := by
  obtain ⟨m, h⟩ := wr_ex s f i v
  rw [h]
@[simp] theorem wr_winShare (f : Fld) (i : Nat) (v : Nat) : (wr f i v s).winShare = s.winShare := by
  obtain ⟨m, h⟩ := wr_ex s f i v
  rw [h]
@[simp] theorem wr_sinks (f : Fld) (i : Nat) (v : Nat) : (wr f i v s).sinks = s.sinks := by
  obtain ⟨m, h⟩ := wr_ex s f i v
  rw [h]
@[simp] theorem wr_scrubAt (f : Fld) (i : Nat) (v : Nat) : (wr f i v s).scrubAt = s.scrubAt := by
  obtain ⟨m, h⟩ := wr_ex s f i v
  rw [h]
@[simp] theorem wr_mem (f : Fld) (i : Nat) (v : Nat) : (wr f i v s).mem = s.mem := by
  obtain ⟨m, h⟩ := wr_ex s f i v
  rw [h]
@[simp] theorem wr_memEpoch (f : Fld) (i : Nat) (v : Nat) : (wr f i v s).memEpoch = s.memEpoch := by
  obtain ⟨m, h⟩ := wr_ex s f i v
  rw [h]
@[simp] theorem wr_lines (f : Fld) (i : Nat) (v : Nat) : (wr f i v s).lines = s.lines := by
  obtain ⟨m, h⟩ := wr_ex s f i v
  rw [h]
@[simp] theorem wr_pools (f : Fld) (i : Nat) (v : Nat) : (wr f i v s).pools = s.pools := by
  obtain ⟨m, h⟩ := wr_ex s f i v
  rw [h]
@[simp] theorem wr_byrQ (f : Fld) (i : Nat) (v : Nat) : (wr f i v s).byrQ = s.byrQ := by
  obtain ⟨m, h⟩ := wr_ex s f i v
  rw [h]
@[simp] theorem wr_byrCmd (f : Fld) (i : Nat) (v : Nat) : (wr f i v s).byrCmd = s.byrCmd := by
  obtain ⟨m, h⟩ := wr_ex s f i v
  rw [h]
@[simp] theorem wr_tlyShadow (f : Fld) (i : Nat) (v : Nat) : (wr f i v s).tlyShadow = s.tlyShadow := by
  obtain ⟨m, h⟩ := wr_ex s f i v
  rw [h]
@[simp] theorem wr_connShadow (f : Fld) (i : Nat) (v : Nat) : (wr f i v s).connShadow = s.connShadow := by
  obtain ⟨m, h⟩ := wr_ex s f i v
  rw [h]
@[simp] theorem wr_watches (f : Fld) (i : Nat) (v : Nat) : (wr f i v s).watches = s.watches := by
  obtain ⟨m, h⟩ := wr_ex s f i v
  rw [h]
@[simp] theorem wr_folds (f : Fld) (i : Nat) (v : Nat) : (wr f i v s).folds = s.folds := by
  obtain ⟨m, h⟩ := wr_ex s f i v
  rw [h]
@[simp] theorem wr_keys (f : Fld) (i : Nat) (v : Nat) : (wr f i v s).keys = s.keys := by
  obtain ⟨m, h⟩ := wr_ex s f i v
  rw [h]
@[simp] theorem wr_ration (f : Fld) (i : Nat) (v : Nat) : (wr f i v s).ration = s.ration := by
  obtain ⟨m, h⟩ := wr_ex s f i v
  rw [h]
@[simp] theorem wr_pmTry (f : Fld) (i : Nat) (v : Nat) : (wr f i v s).pmTry = s.pmTry := by
  obtain ⟨m, h⟩ := wr_ex s f i v
  rw [h]
@[simp] theorem wr_pldmQ (f : Fld) (i : Nat) (v : Nat) : (wr f i v s).pldmQ = s.pldmQ := by
  obtain ⟨m, h⟩ := wr_ex s f i v
  rw [h]
@[simp] theorem wr_mgmt (f : Fld) (i : Nat) (v : Nat) : (wr f i v s).mgmt = s.mgmt := by
  obtain ⟨m, h⟩ := wr_ex s f i v
  rw [h]
@[simp] theorem wr_pwr (f : Fld) (i : Nat) (v : Nat) : (wr f i v s).pwr = s.pwr := by
  obtain ⟨m, h⟩ := wr_ex s f i v
  rw [h]
@[simp] theorem wr_cfg (f : Fld) (i : Nat) (v : Nat) : (wr f i v s).cfg = s.cfg := by
  obtain ⟨m, h⟩ := wr_ex s f i v
  rw [h]
@[simp] theorem wr_tap (f : Fld) (i : Nat) (v : Nat) : (wr f i v s).tap = s.tap := by
  obtain ⟨m, h⟩ := wr_ex s f i v
  rw [h]
@[simp] theorem wr_mwins (f : Fld) (i : Nat) (v : Nat) : (wr f i v s).mwins = s.mwins := by
  obtain ⟨m, h⟩ := wr_ex s f i v
  rw [h]
@[simp] theorem wr_openAt (f : Fld) (i : Nat) (v : Nat) : (wr f i v s).openAt = s.openAt := by
  obtain ⟨m, h⟩ := wr_ex s f i v
  rw [h]
@[simp] theorem wr_whsLands (f : Fld) (i : Nat) (v : Nat) : (wr f i v s).whsLands = s.whsLands := by
  obtain ⟨m, h⟩ := wr_ex s f i v
  rw [h]
@[simp] theorem wr_accWaits (f : Fld) (i : Nat) (v : Nat) : (wr f i v s).accWaits = s.accWaits := by
  obtain ⟨m, h⟩ := wr_ex s f i v
  rw [h]
@[simp] theorem wr_formAt (f : Fld) (i : Nat) (v : Nat) : (wr f i v s).formAt = s.formAt := by
  obtain ⟨m, h⟩ := wr_ex s f i v
  rw [h]
@[simp] theorem wr_admSeq (f : Fld) (i : Nat) (v : Nat) : (wr f i v s).admSeq = s.admSeq := by
  obtain ⟨m, h⟩ := wr_ex s f i v
  rw [h]
@[simp] theorem wr_spMark (f : Fld) (i : Nat) (v : Nat) : (wr f i v s).spMark = s.spMark := by
  obtain ⟨m, h⟩ := wr_ex s f i v
  rw [h]
@[simp] theorem wr_bellLate (f : Fld) (i : Nat) (v : Nat) : (wr f i v s).bellLate = s.bellLate := by
  obtain ⟨m, h⟩ := wr_ex s f i v
  rw [h]
@[simp] theorem wr_pending (f : Fld) (i : Nat) (v : Nat) : (wr f i v s).pending = s.pending := by
  obtain ⟨m, h⟩ := wr_ex s f i v
  rw [h]

/-! ### clearRegs -/

@[simp] theorem clearRegs_now (b : Blk) (inst : Nat) (lo : Nat) (hi : Nat) : (clearRegs b inst lo hi s).now = s.now := rfl
@[simp] theorem clearRegs_freeCtr (b : Blk) (inst : Nat) (lo : Nat) (hi : Nat) : (clearRegs b inst lo hi s).freeCtr = s.freeCtr := rfl
@[simp] theorem clearRegs_bellPend (b : Blk) (inst : Nat) (lo : Nat) (hi : Nat) : (clearRegs b inst lo hi s).bellPend = s.bellPend := rfl
@[simp] theorem clearRegs_rearmPend (b : Blk) (inst : Nat) (lo : Nat) (hi : Nat) : (clearRegs b inst lo hi s).rearmPend = s.rearmPend := rfl
@[simp] theorem clearRegs_fixedDone (b : Blk) (inst : Nat) (lo : Nat) (hi : Nat) : (clearRegs b inst lo hi s).fixedDone = s.fixedDone := rfl
@[simp] theorem clearRegs_outbox (b : Blk) (inst : Nat) (lo : Nat) (hi : Nat) : (clearRegs b inst lo hi s).outbox = s.outbox := rfl
@[simp] theorem clearRegs_bellLock (b : Blk) (inst : Nat) (lo : Nat) (hi : Nat) : (clearRegs b inst lo hi s).bellLock = s.bellLock := rfl
@[simp] theorem clearRegs_aliveOut (b : Blk) (inst : Nat) (lo : Nat) (hi : Nat) : (clearRegs b inst lo hi s).aliveOut = s.aliveOut := rfl
@[simp] theorem clearRegs_bell (b : Blk) (inst : Nat) (lo : Nat) (hi : Nat) : (clearRegs b inst lo hi s).bell = s.bell := rfl
@[simp] theorem clearRegs_pdks (b : Blk) (inst : Nat) (lo : Nat) (hi : Nat) : (clearRegs b inst lo hi s).pdks = s.pdks := rfl
@[simp] theorem clearRegs_vfEnable (b : Blk) (inst : Nat) (lo : Nat) (hi : Nat) : (clearRegs b inst lo hi s).vfEnable = s.vfEnable := rfl
@[simp] theorem clearRegs_numVfs (b : Blk) (inst : Nat) (lo : Nat) (hi : Nat) : (clearRegs b inst lo hi s).numVfs = s.numVfs := rfl
@[simp] theorem clearRegs_fns (b : Blk) (inst : Nat) (lo : Nat) (hi : Nat) : (clearRegs b inst lo hi s).fns = s.fns := rfl
@[simp] theorem clearRegs_pfEvents (b : Blk) (inst : Nat) (lo : Nat) (hi : Nat) : (clearRegs b inst lo hi s).pfEvents = s.pfEvents := rfl
@[simp] theorem clearRegs_pfLost (b : Blk) (inst : Nat) (lo : Nat) (hi : Nat) : (clearRegs b inst lo hi s).pfLost = s.pfLost := rfl
@[simp] theorem clearRegs_fbk (b : Blk) (inst : Nat) (lo : Nat) (hi : Nat) : (clearRegs b inst lo hi s).fbk = s.fbk := rfl
@[simp] theorem clearRegs_cores (b : Blk) (inst : Nat) (lo : Nat) (hi : Nat) : (clearRegs b inst lo hi s).cores = s.cores := rfl
@[simp] theorem clearRegs_meshes (b : Blk) (inst : Nat) (lo : Nat) (hi : Nat) : (clearRegs b inst lo hi s).meshes = s.meshes := rfl
@[simp] theorem clearRegs_links (b : Blk) (inst : Nat) (lo : Nat) (hi : Nat) : (clearRegs b inst lo hi s).links = s.links := rfl
@[simp] theorem clearRegs_sp (b : Blk) (inst : Nat) (lo : Nat) (hi : Nat) : (clearRegs b inst lo hi s).sp = s.sp := rfl
@[simp] theorem clearRegs_spEpoch (b : Blk) (inst : Nat) (lo : Nat) (hi : Nat) : (clearRegs b inst lo hi s).spEpoch = s.spEpoch := rfl
@[simp] theorem clearRegs_imem (b : Blk) (inst : Nat) (lo : Nat) (hi : Nat) : (clearRegs b inst lo hi s).imem = s.imem := rfl
@[simp] theorem clearRegs_rslot (b : Blk) (inst : Nat) (lo : Nat) (hi : Nat) : (clearRegs b inst lo hi s).rslot = s.rslot := rfl
@[simp] theorem clearRegs_tile (b : Blk) (inst : Nat) (lo : Nat) (hi : Nat) : (clearRegs b inst lo hi s).tile = s.tile := rfl
@[simp] theorem clearRegs_acc (b : Blk) (inst : Nat) (lo : Nat) (hi : Nat) : (clearRegs b inst lo hi s).acc = s.acc := rfl
@[simp] theorem clearRegs_shadow (b : Blk) (inst : Nat) (lo : Nat) (hi : Nat) : (clearRegs b inst lo hi s).shadow = s.shadow := rfl
@[simp] theorem clearRegs_desc (b : Blk) (inst : Nat) (lo : Nat) (hi : Nat) : (clearRegs b inst lo hi s).desc = s.desc := rfl
@[simp] theorem clearRegs_frameChk (b : Blk) (inst : Nat) (lo : Nat) (hi : Nat) : (clearRegs b inst lo hi s).frameChk = s.frameChk := rfl
@[simp] theorem clearRegs_ht (b : Blk) (inst : Nat) (lo : Nat) (hi : Nat) : (clearRegs b inst lo hi s).ht = s.ht := rfl
@[simp] theorem clearRegs_wlkDue (b : Blk) (inst : Nat) (lo : Nat) (hi : Nat) : (clearRegs b inst lo hi s).wlkDue = s.wlkDue := rfl
@[simp] theorem clearRegs_walkers (b : Blk) (inst : Nat) (lo : Nat) (hi : Nat) : (clearRegs b inst lo hi s).walkers = s.walkers := rfl
@[simp] theorem clearRegs_wlkDone (b : Blk) (inst : Nat) (lo : Nat) (hi : Nat) : (clearRegs b inst lo hi s).wlkDone = s.wlkDone := rfl
@[simp] theorem clearRegs_mcores (b : Blk) (inst : Nat) (lo : Nat) (hi : Nat) : (clearRegs b inst lo hi s).mcores = s.mcores := rfl
@[simp] theorem clearRegs_mslice (b : Blk) (inst : Nat) (lo : Nat) (hi : Nat) : (clearRegs b inst lo hi s).mslice = s.mslice := rfl
@[simp] theorem clearRegs_mblast (b : Blk) (inst : Nat) (lo : Nat) (hi : Nat) : (clearRegs b inst lo hi s).mblast = s.mblast := rfl
@[simp] theorem clearRegs_repairs (b : Blk) (inst : Nat) (lo : Nat) (hi : Nat) : (clearRegs b inst lo hi s).repairs = s.repairs := rfl
@[simp] theorem clearRegs_ctxs (b : Blk) (inst : Nat) (lo : Nat) (hi : Nat) : (clearRegs b inst lo hi s).ctxs = s.ctxs := rfl
@[simp] theorem clearRegs_leaCyc (b : Blk) (inst : Nat) (lo : Nat) (hi : Nat) : (clearRegs b inst lo hi s).leaCyc = s.leaCyc := rfl
@[simp] theorem clearRegs_fab (b : Blk) (inst : Nat) (lo : Nat) (hi : Nat) : (clearRegs b inst lo hi s).fab = s.fab := rfl
@[simp] theorem clearRegs_tlyQ (b : Blk) (inst : Nat) (lo : Nat) (hi : Nat) : (clearRegs b inst lo hi s).tlyQ = s.tlyQ := rfl
@[simp] theorem clearRegs_tlyWaits (b : Blk) (inst : Nat) (lo : Nat) (hi : Nat) : (clearRegs b inst lo hi s).tlyWaits = s.tlyWaits := rfl
@[simp] theorem clearRegs_whsQ (b : Blk) (inst : Nat) (lo : Nat) (hi : Nat) : (clearRegs b inst lo hi s).whsQ = s.whsQ := rfl
@[simp] theorem clearRegs_sends (b : Blk) (inst : Nat) (lo : Nat) (hi : Nat) : (clearRegs b inst lo hi s).sends = s.sends := rfl
@[simp] theorem clearRegs_rqs (b : Blk) (inst : Nat) (lo : Nat) (hi : Nat) : (clearRegs b inst lo hi s).rqs = s.rqs := rfl
@[simp] theorem clearRegs_spills (b : Blk) (inst : Nat) (lo : Nat) (hi : Nat) : (clearRegs b inst lo hi s).spills = s.spills := rfl
@[simp] theorem clearRegs_opens (b : Blk) (inst : Nat) (lo : Nat) (hi : Nat) : (clearRegs b inst lo hi s).opens = s.opens := rfl
@[simp] theorem clearRegs_landings (b : Blk) (inst : Nat) (lo : Nat) (hi : Nat) : (clearRegs b inst lo hi s).landings = s.landings := rfl
@[simp] theorem clearRegs_connLt (b : Blk) (inst : Nat) (lo : Nat) (hi : Nat) : (clearRegs b inst lo hi s).connLt = s.connLt := rfl
@[simp] theorem clearRegs_sidNext (b : Blk) (inst : Nat) (lo : Nat) (hi : Nat) : (clearRegs b inst lo hi s).sidNext = s.sidNext := rfl
@[simp] theorem clearRegs_ltkQ (b : Blk) (inst : Nat) (lo : Nat) (hi : Nat) : (clearRegs b inst lo hi s).ltkQ = s.ltkQ := rfl
@[simp] theorem clearRegs_ltkPaths (b : Blk) (inst : Nat) (lo : Nat) (hi : Nat) : (clearRegs b inst lo hi s).ltkPaths = s.ltkPaths := rfl
@[simp] theorem clearRegs_ltkRoutes (b : Blk) (inst : Nat) (lo : Nat) (hi : Nat) : (clearRegs b inst lo hi s).ltkRoutes = s.ltkRoutes := rfl
@[simp] theorem clearRegs_ltkPause (b : Blk) (inst : Nat) (lo : Nat) (hi : Nat) : (clearRegs b inst lo hi s).ltkPause = s.ltkPause := rfl
@[simp] theorem clearRegs_ptpGood (b : Blk) (inst : Nat) (lo : Nat) (hi : Nat) : (clearRegs b inst lo hi s).ptpGood = s.ptpGood := rfl
@[simp] theorem clearRegs_held (b : Blk) (inst : Nat) (lo : Nat) (hi : Nat) : (clearRegs b inst lo hi s).held = s.held := rfl
@[simp] theorem clearRegs_hostEnts (b : Blk) (inst : Nat) (lo : Nat) (hi : Nat) : (clearRegs b inst lo hi s).hostEnts = s.hostEnts := rfl
@[simp] theorem clearRegs_hrings (b : Blk) (inst : Nat) (lo : Nat) (hi : Nat) : (clearRegs b inst lo hi s).hrings = s.hrings := rfl
@[simp] theorem clearRegs_hostNext (b : Blk) (inst : Nat) (lo : Nat) (hi : Nat) : (clearRegs b inst lo hi s).hostNext = s.hostNext := rfl
@[simp] theorem clearRegs_aer (b : Blk) (inst : Nat) (lo : Nat) (hi : Nat) : (clearRegs b inst lo hi s).aer = s.aer := rfl
@[simp] theorem clearRegs_tcache (b : Blk) (inst : Nat) (lo : Nat) (hi : Nat) : (clearRegs b inst lo hi s).tcache = s.tcache := rfl
@[simp] theorem clearRegs_fabCyc (b : Blk) (inst : Nat) (lo : Nat) (hi : Nat) : (clearRegs b inst lo hi s).fabCyc = s.fabCyc := rfl
@[simp] theorem clearRegs_used (b : Blk) (inst : Nat) (lo : Nat) (hi : Nat) : (clearRegs b inst lo hi s).used = s.used := rfl
@[simp] theorem clearRegs_slotAt (b : Blk) (inst : Nat) (lo : Nat) (hi : Nat) : (clearRegs b inst lo hi s).slotAt = s.slotAt := rfl
@[simp] theorem clearRegs_capNext (b : Blk) (inst : Nat) (lo : Nat) (hi : Nat) : (clearRegs b inst lo hi s).capNext = s.capNext := rfl
@[simp] theorem clearRegs_ats (b : Blk) (inst : Nat) (lo : Nat) (hi : Nat) : (clearRegs b inst lo hi s).ats = s.ats := rfl
@[simp] theorem clearRegs_pageReqs (b : Blk) (inst : Nat) (lo : Nat) (hi : Nat) : (clearRegs b inst lo hi s).pageReqs = s.pageReqs := rfl
@[simp] theorem clearRegs_prgNext (b : Blk) (inst : Nat) (lo : Nat) (hi : Nat) : (clearRegs b inst lo hi s).prgNext = s.prgNext := rfl
@[simp] theorem clearRegs_atsInv (b : Blk) (inst : Nat) (lo : Nat) (hi : Nat) : (clearRegs b inst lo hi s).atsInv = s.atsInv := rfl
@[simp] theorem clearRegs_atsEn (b : Blk) (inst : Nat) (lo : Nat) (hi : Nat) : (clearRegs b inst lo hi s).atsEn = s.atsEn := rfl
@[simp] theorem clearRegs_priEn (b : Blk) (inst : Nat) (lo : Nat) (hi : Nat) : (clearRegs b inst lo hi s).priEn = s.priEn := rfl
@[simp] theorem clearRegs_priAlloc (b : Blk) (inst : Nat) (lo : Nat) (hi : Nat) : (clearRegs b inst lo hi s).priAlloc = s.priAlloc := rfl
@[simp] theorem clearRegs_winShare (b : Blk) (inst : Nat) (lo : Nat) (hi : Nat) : (clearRegs b inst lo hi s).winShare = s.winShare := rfl
@[simp] theorem clearRegs_sinks (b : Blk) (inst : Nat) (lo : Nat) (hi : Nat) : (clearRegs b inst lo hi s).sinks = s.sinks := rfl
@[simp] theorem clearRegs_scrubAt (b : Blk) (inst : Nat) (lo : Nat) (hi : Nat) : (clearRegs b inst lo hi s).scrubAt = s.scrubAt := rfl
@[simp] theorem clearRegs_mem (b : Blk) (inst : Nat) (lo : Nat) (hi : Nat) : (clearRegs b inst lo hi s).mem = s.mem := rfl
@[simp] theorem clearRegs_memEpoch (b : Blk) (inst : Nat) (lo : Nat) (hi : Nat) : (clearRegs b inst lo hi s).memEpoch = s.memEpoch := rfl
@[simp] theorem clearRegs_lines (b : Blk) (inst : Nat) (lo : Nat) (hi : Nat) : (clearRegs b inst lo hi s).lines = s.lines := rfl
@[simp] theorem clearRegs_pools (b : Blk) (inst : Nat) (lo : Nat) (hi : Nat) : (clearRegs b inst lo hi s).pools = s.pools := rfl
@[simp] theorem clearRegs_byrQ (b : Blk) (inst : Nat) (lo : Nat) (hi : Nat) : (clearRegs b inst lo hi s).byrQ = s.byrQ := rfl
@[simp] theorem clearRegs_byrCmd (b : Blk) (inst : Nat) (lo : Nat) (hi : Nat) : (clearRegs b inst lo hi s).byrCmd = s.byrCmd := rfl
@[simp] theorem clearRegs_tlyShadow (b : Blk) (inst : Nat) (lo : Nat) (hi : Nat) : (clearRegs b inst lo hi s).tlyShadow = s.tlyShadow := rfl
@[simp] theorem clearRegs_connShadow (b : Blk) (inst : Nat) (lo : Nat) (hi : Nat) : (clearRegs b inst lo hi s).connShadow = s.connShadow := rfl
@[simp] theorem clearRegs_watches (b : Blk) (inst : Nat) (lo : Nat) (hi : Nat) : (clearRegs b inst lo hi s).watches = s.watches := rfl
@[simp] theorem clearRegs_folds (b : Blk) (inst : Nat) (lo : Nat) (hi : Nat) : (clearRegs b inst lo hi s).folds = s.folds := rfl
@[simp] theorem clearRegs_keys (b : Blk) (inst : Nat) (lo : Nat) (hi : Nat) : (clearRegs b inst lo hi s).keys = s.keys := rfl
@[simp] theorem clearRegs_ration (b : Blk) (inst : Nat) (lo : Nat) (hi : Nat) : (clearRegs b inst lo hi s).ration = s.ration := rfl
@[simp] theorem clearRegs_pmTry (b : Blk) (inst : Nat) (lo : Nat) (hi : Nat) : (clearRegs b inst lo hi s).pmTry = s.pmTry := rfl
@[simp] theorem clearRegs_pldmQ (b : Blk) (inst : Nat) (lo : Nat) (hi : Nat) : (clearRegs b inst lo hi s).pldmQ = s.pldmQ := rfl
@[simp] theorem clearRegs_mgmt (b : Blk) (inst : Nat) (lo : Nat) (hi : Nat) : (clearRegs b inst lo hi s).mgmt = s.mgmt := rfl
@[simp] theorem clearRegs_pwr (b : Blk) (inst : Nat) (lo : Nat) (hi : Nat) : (clearRegs b inst lo hi s).pwr = s.pwr := rfl
@[simp] theorem clearRegs_cfg (b : Blk) (inst : Nat) (lo : Nat) (hi : Nat) : (clearRegs b inst lo hi s).cfg = s.cfg := rfl
@[simp] theorem clearRegs_tap (b : Blk) (inst : Nat) (lo : Nat) (hi : Nat) : (clearRegs b inst lo hi s).tap = s.tap := rfl
@[simp] theorem clearRegs_mwins (b : Blk) (inst : Nat) (lo : Nat) (hi : Nat) : (clearRegs b inst lo hi s).mwins = s.mwins := rfl
@[simp] theorem clearRegs_openAt (b : Blk) (inst : Nat) (lo : Nat) (hi : Nat) : (clearRegs b inst lo hi s).openAt = s.openAt := rfl
@[simp] theorem clearRegs_whsLands (b : Blk) (inst : Nat) (lo : Nat) (hi : Nat) : (clearRegs b inst lo hi s).whsLands = s.whsLands := rfl
@[simp] theorem clearRegs_accWaits (b : Blk) (inst : Nat) (lo : Nat) (hi : Nat) : (clearRegs b inst lo hi s).accWaits = s.accWaits := rfl
@[simp] theorem clearRegs_formAt (b : Blk) (inst : Nat) (lo : Nat) (hi : Nat) : (clearRegs b inst lo hi s).formAt = s.formAt := rfl
@[simp] theorem clearRegs_admSeq (b : Blk) (inst : Nat) (lo : Nat) (hi : Nat) : (clearRegs b inst lo hi s).admSeq = s.admSeq := rfl
@[simp] theorem clearRegs_spMark (b : Blk) (inst : Nat) (lo : Nat) (hi : Nat) : (clearRegs b inst lo hi s).spMark = s.spMark := rfl
@[simp] theorem clearRegs_bellLate (b : Blk) (inst : Nat) (lo : Nat) (hi : Nat) : (clearRegs b inst lo hi s).bellLate = s.bellLate := rfl
@[simp] theorem clearRegs_pending (b : Blk) (inst : Nat) (lo : Nat) (hi : Nat) : (clearRegs b inst lo hi s).pending = s.pending := rfl

/-! ### atTime -/

@[simp] theorem atTime_freeCtr (t : Nat) : (atTime t s).freeCtr = s.freeCtr := rfl
@[simp] theorem atTime_regs (t : Nat) : (atTime t s).regs = s.regs := rfl
@[simp] theorem atTime_bellPend (t : Nat) : (atTime t s).bellPend = s.bellPend := rfl
@[simp] theorem atTime_rearmPend (t : Nat) : (atTime t s).rearmPend = s.rearmPend := rfl
@[simp] theorem atTime_fixedDone (t : Nat) : (atTime t s).fixedDone = s.fixedDone := rfl
@[simp] theorem atTime_outbox (t : Nat) : (atTime t s).outbox = s.outbox := rfl
@[simp] theorem atTime_bellLock (t : Nat) : (atTime t s).bellLock = s.bellLock := rfl
@[simp] theorem atTime_aliveOut (t : Nat) : (atTime t s).aliveOut = s.aliveOut := rfl
@[simp] theorem atTime_bell (t : Nat) : (atTime t s).bell = s.bell := rfl
@[simp] theorem atTime_pdks (t : Nat) : (atTime t s).pdks = s.pdks := rfl
@[simp] theorem atTime_vfEnable (t : Nat) : (atTime t s).vfEnable = s.vfEnable := rfl
@[simp] theorem atTime_numVfs (t : Nat) : (atTime t s).numVfs = s.numVfs := rfl
@[simp] theorem atTime_fns (t : Nat) : (atTime t s).fns = s.fns := rfl
@[simp] theorem atTime_pfEvents (t : Nat) : (atTime t s).pfEvents = s.pfEvents := rfl
@[simp] theorem atTime_pfLost (t : Nat) : (atTime t s).pfLost = s.pfLost := rfl
@[simp] theorem atTime_fbk (t : Nat) : (atTime t s).fbk = s.fbk := rfl
@[simp] theorem atTime_cores (t : Nat) : (atTime t s).cores = s.cores := rfl
@[simp] theorem atTime_meshes (t : Nat) : (atTime t s).meshes = s.meshes := rfl
@[simp] theorem atTime_links (t : Nat) : (atTime t s).links = s.links := rfl
@[simp] theorem atTime_sp (t : Nat) : (atTime t s).sp = s.sp := rfl
@[simp] theorem atTime_spEpoch (t : Nat) : (atTime t s).spEpoch = s.spEpoch := rfl
@[simp] theorem atTime_imem (t : Nat) : (atTime t s).imem = s.imem := rfl
@[simp] theorem atTime_rslot (t : Nat) : (atTime t s).rslot = s.rslot := rfl
@[simp] theorem atTime_tile (t : Nat) : (atTime t s).tile = s.tile := rfl
@[simp] theorem atTime_acc (t : Nat) : (atTime t s).acc = s.acc := rfl
@[simp] theorem atTime_shadow (t : Nat) : (atTime t s).shadow = s.shadow := rfl
@[simp] theorem atTime_desc (t : Nat) : (atTime t s).desc = s.desc := rfl
@[simp] theorem atTime_frameChk (t : Nat) : (atTime t s).frameChk = s.frameChk := rfl
@[simp] theorem atTime_ht (t : Nat) : (atTime t s).ht = s.ht := rfl
@[simp] theorem atTime_wlkDue (t : Nat) : (atTime t s).wlkDue = s.wlkDue := rfl
@[simp] theorem atTime_walkers (t : Nat) : (atTime t s).walkers = s.walkers := rfl
@[simp] theorem atTime_wlkDone (t : Nat) : (atTime t s).wlkDone = s.wlkDone := rfl
@[simp] theorem atTime_mcores (t : Nat) : (atTime t s).mcores = s.mcores := rfl
@[simp] theorem atTime_mslice (t : Nat) : (atTime t s).mslice = s.mslice := rfl
@[simp] theorem atTime_mblast (t : Nat) : (atTime t s).mblast = s.mblast := rfl
@[simp] theorem atTime_repairs (t : Nat) : (atTime t s).repairs = s.repairs := rfl
@[simp] theorem atTime_ctxs (t : Nat) : (atTime t s).ctxs = s.ctxs := rfl
@[simp] theorem atTime_leaCyc (t : Nat) : (atTime t s).leaCyc = s.leaCyc := rfl
@[simp] theorem atTime_fab (t : Nat) : (atTime t s).fab = s.fab := rfl
@[simp] theorem atTime_tlyQ (t : Nat) : (atTime t s).tlyQ = s.tlyQ := rfl
@[simp] theorem atTime_tlyWaits (t : Nat) : (atTime t s).tlyWaits = s.tlyWaits := rfl
@[simp] theorem atTime_whsQ (t : Nat) : (atTime t s).whsQ = s.whsQ := rfl
@[simp] theorem atTime_sends (t : Nat) : (atTime t s).sends = s.sends := rfl
@[simp] theorem atTime_rqs (t : Nat) : (atTime t s).rqs = s.rqs := rfl
@[simp] theorem atTime_spills (t : Nat) : (atTime t s).spills = s.spills := rfl
@[simp] theorem atTime_opens (t : Nat) : (atTime t s).opens = s.opens := rfl
@[simp] theorem atTime_landings (t : Nat) : (atTime t s).landings = s.landings := rfl
@[simp] theorem atTime_connLt (t : Nat) : (atTime t s).connLt = s.connLt := rfl
@[simp] theorem atTime_sidNext (t : Nat) : (atTime t s).sidNext = s.sidNext := rfl
@[simp] theorem atTime_ltkQ (t : Nat) : (atTime t s).ltkQ = s.ltkQ := rfl
@[simp] theorem atTime_ltkPaths (t : Nat) : (atTime t s).ltkPaths = s.ltkPaths := rfl
@[simp] theorem atTime_ltkRoutes (t : Nat) : (atTime t s).ltkRoutes = s.ltkRoutes := rfl
@[simp] theorem atTime_ltkPause (t : Nat) : (atTime t s).ltkPause = s.ltkPause := rfl
@[simp] theorem atTime_ptpGood (t : Nat) : (atTime t s).ptpGood = s.ptpGood := rfl
@[simp] theorem atTime_held (t : Nat) : (atTime t s).held = s.held := rfl
@[simp] theorem atTime_hostEnts (t : Nat) : (atTime t s).hostEnts = s.hostEnts := rfl
@[simp] theorem atTime_hrings (t : Nat) : (atTime t s).hrings = s.hrings := rfl
@[simp] theorem atTime_hostNext (t : Nat) : (atTime t s).hostNext = s.hostNext := rfl
@[simp] theorem atTime_aer (t : Nat) : (atTime t s).aer = s.aer := rfl
@[simp] theorem atTime_tcache (t : Nat) : (atTime t s).tcache = s.tcache := rfl
@[simp] theorem atTime_fabCyc (t : Nat) : (atTime t s).fabCyc = s.fabCyc := rfl
@[simp] theorem atTime_used (t : Nat) : (atTime t s).used = s.used := rfl
@[simp] theorem atTime_slotAt (t : Nat) : (atTime t s).slotAt = s.slotAt := rfl
@[simp] theorem atTime_capNext (t : Nat) : (atTime t s).capNext = s.capNext := rfl
@[simp] theorem atTime_ats (t : Nat) : (atTime t s).ats = s.ats := rfl
@[simp] theorem atTime_pageReqs (t : Nat) : (atTime t s).pageReqs = s.pageReqs := rfl
@[simp] theorem atTime_prgNext (t : Nat) : (atTime t s).prgNext = s.prgNext := rfl
@[simp] theorem atTime_atsInv (t : Nat) : (atTime t s).atsInv = s.atsInv := rfl
@[simp] theorem atTime_atsEn (t : Nat) : (atTime t s).atsEn = s.atsEn := rfl
@[simp] theorem atTime_priEn (t : Nat) : (atTime t s).priEn = s.priEn := rfl
@[simp] theorem atTime_priAlloc (t : Nat) : (atTime t s).priAlloc = s.priAlloc := rfl
@[simp] theorem atTime_winShare (t : Nat) : (atTime t s).winShare = s.winShare := rfl
@[simp] theorem atTime_sinks (t : Nat) : (atTime t s).sinks = s.sinks := rfl
@[simp] theorem atTime_scrubAt (t : Nat) : (atTime t s).scrubAt = s.scrubAt := rfl
@[simp] theorem atTime_mem (t : Nat) : (atTime t s).mem = s.mem := rfl
@[simp] theorem atTime_memEpoch (t : Nat) : (atTime t s).memEpoch = s.memEpoch := rfl
@[simp] theorem atTime_lines (t : Nat) : (atTime t s).lines = s.lines := rfl
@[simp] theorem atTime_pools (t : Nat) : (atTime t s).pools = s.pools := rfl
@[simp] theorem atTime_byrQ (t : Nat) : (atTime t s).byrQ = s.byrQ := rfl
@[simp] theorem atTime_byrCmd (t : Nat) : (atTime t s).byrCmd = s.byrCmd := rfl
@[simp] theorem atTime_tlyShadow (t : Nat) : (atTime t s).tlyShadow = s.tlyShadow := rfl
@[simp] theorem atTime_connShadow (t : Nat) : (atTime t s).connShadow = s.connShadow := rfl
@[simp] theorem atTime_watches (t : Nat) : (atTime t s).watches = s.watches := rfl
@[simp] theorem atTime_folds (t : Nat) : (atTime t s).folds = s.folds := rfl
@[simp] theorem atTime_keys (t : Nat) : (atTime t s).keys = s.keys := rfl
@[simp] theorem atTime_ration (t : Nat) : (atTime t s).ration = s.ration := rfl
@[simp] theorem atTime_pmTry (t : Nat) : (atTime t s).pmTry = s.pmTry := rfl
@[simp] theorem atTime_pldmQ (t : Nat) : (atTime t s).pldmQ = s.pldmQ := rfl
@[simp] theorem atTime_mgmt (t : Nat) : (atTime t s).mgmt = s.mgmt := rfl
@[simp] theorem atTime_pwr (t : Nat) : (atTime t s).pwr = s.pwr := rfl
@[simp] theorem atTime_cfg (t : Nat) : (atTime t s).cfg = s.cfg := rfl
@[simp] theorem atTime_tap (t : Nat) : (atTime t s).tap = s.tap := rfl
@[simp] theorem atTime_mwins (t : Nat) : (atTime t s).mwins = s.mwins := rfl
@[simp] theorem atTime_openAt (t : Nat) : (atTime t s).openAt = s.openAt := rfl
@[simp] theorem atTime_whsLands (t : Nat) : (atTime t s).whsLands = s.whsLands := rfl
@[simp] theorem atTime_accWaits (t : Nat) : (atTime t s).accWaits = s.accWaits := rfl
@[simp] theorem atTime_formAt (t : Nat) : (atTime t s).formAt = s.formAt := rfl
@[simp] theorem atTime_admSeq (t : Nat) : (atTime t s).admSeq = s.admSeq := rfl
@[simp] theorem atTime_spMark (t : Nat) : (atTime t s).spMark = s.spMark := rfl
@[simp] theorem atTime_bellLate (t : Nat) : (atTime t s).bellLate = s.bellLate := rfl
@[simp] theorem atTime_pending (t : Nat) : (atTime t s).pending = s.pending := rfl
@[simp] theorem rdW_atTime (t : Nat) (rb : Blk) (ri ro : Nat) : rdW (atTime t s) rb ri ro = rdW s rb ri ro := rfl
@[simp] theorem rd_atTime (t : Nat) (rf : Fld) (ri : Nat) : rd (atTime t s) rf ri = rd s rf ri := rfl
@[simp] theorem rdB_atTime (t : Nat) (rf : Fld) (ri : Nat) : rdB (atTime t s) rf ri = rdB s rf ri := rfl

/-! ### emit -/

@[simp] theorem emit_now (k : OutKind) (args : List Nat) : (emit k args s).now = s.now := rfl
@[simp] theorem emit_freeCtr (k : OutKind) (args : List Nat) : (emit k args s).freeCtr = s.freeCtr := rfl
@[simp] theorem emit_regs (k : OutKind) (args : List Nat) : (emit k args s).regs = s.regs := rfl
@[simp] theorem emit_bellPend (k : OutKind) (args : List Nat) : (emit k args s).bellPend = s.bellPend := rfl
@[simp] theorem emit_rearmPend (k : OutKind) (args : List Nat) : (emit k args s).rearmPend = s.rearmPend := rfl
@[simp] theorem emit_fixedDone (k : OutKind) (args : List Nat) : (emit k args s).fixedDone = s.fixedDone := rfl
@[simp] theorem emit_bellLock (k : OutKind) (args : List Nat) : (emit k args s).bellLock = s.bellLock := rfl
@[simp] theorem emit_aliveOut (k : OutKind) (args : List Nat) : (emit k args s).aliveOut = s.aliveOut := rfl
@[simp] theorem emit_bell (k : OutKind) (args : List Nat) : (emit k args s).bell = s.bell := rfl
@[simp] theorem emit_pdks (k : OutKind) (args : List Nat) : (emit k args s).pdks = s.pdks := rfl
@[simp] theorem emit_vfEnable (k : OutKind) (args : List Nat) : (emit k args s).vfEnable = s.vfEnable := rfl
@[simp] theorem emit_numVfs (k : OutKind) (args : List Nat) : (emit k args s).numVfs = s.numVfs := rfl
@[simp] theorem emit_fns (k : OutKind) (args : List Nat) : (emit k args s).fns = s.fns := rfl
@[simp] theorem emit_pfEvents (k : OutKind) (args : List Nat) : (emit k args s).pfEvents = s.pfEvents := rfl
@[simp] theorem emit_pfLost (k : OutKind) (args : List Nat) : (emit k args s).pfLost = s.pfLost := rfl
@[simp] theorem emit_fbk (k : OutKind) (args : List Nat) : (emit k args s).fbk = s.fbk := rfl
@[simp] theorem emit_cores (k : OutKind) (args : List Nat) : (emit k args s).cores = s.cores := rfl
@[simp] theorem emit_meshes (k : OutKind) (args : List Nat) : (emit k args s).meshes = s.meshes := rfl
@[simp] theorem emit_links (k : OutKind) (args : List Nat) : (emit k args s).links = s.links := rfl
@[simp] theorem emit_sp (k : OutKind) (args : List Nat) : (emit k args s).sp = s.sp := rfl
@[simp] theorem emit_spEpoch (k : OutKind) (args : List Nat) : (emit k args s).spEpoch = s.spEpoch := rfl
@[simp] theorem emit_imem (k : OutKind) (args : List Nat) : (emit k args s).imem = s.imem := rfl
@[simp] theorem emit_rslot (k : OutKind) (args : List Nat) : (emit k args s).rslot = s.rslot := rfl
@[simp] theorem emit_tile (k : OutKind) (args : List Nat) : (emit k args s).tile = s.tile := rfl
@[simp] theorem emit_acc (k : OutKind) (args : List Nat) : (emit k args s).acc = s.acc := rfl
@[simp] theorem emit_shadow (k : OutKind) (args : List Nat) : (emit k args s).shadow = s.shadow := rfl
@[simp] theorem emit_desc (k : OutKind) (args : List Nat) : (emit k args s).desc = s.desc := rfl
@[simp] theorem emit_frameChk (k : OutKind) (args : List Nat) : (emit k args s).frameChk = s.frameChk := rfl
@[simp] theorem emit_ht (k : OutKind) (args : List Nat) : (emit k args s).ht = s.ht := rfl
@[simp] theorem emit_wlkDue (k : OutKind) (args : List Nat) : (emit k args s).wlkDue = s.wlkDue := rfl
@[simp] theorem emit_walkers (k : OutKind) (args : List Nat) : (emit k args s).walkers = s.walkers := rfl
@[simp] theorem emit_wlkDone (k : OutKind) (args : List Nat) : (emit k args s).wlkDone = s.wlkDone := rfl
@[simp] theorem emit_mcores (k : OutKind) (args : List Nat) : (emit k args s).mcores = s.mcores := rfl
@[simp] theorem emit_mslice (k : OutKind) (args : List Nat) : (emit k args s).mslice = s.mslice := rfl
@[simp] theorem emit_mblast (k : OutKind) (args : List Nat) : (emit k args s).mblast = s.mblast := rfl
@[simp] theorem emit_repairs (k : OutKind) (args : List Nat) : (emit k args s).repairs = s.repairs := rfl
@[simp] theorem emit_ctxs (k : OutKind) (args : List Nat) : (emit k args s).ctxs = s.ctxs := rfl
@[simp] theorem emit_leaCyc (k : OutKind) (args : List Nat) : (emit k args s).leaCyc = s.leaCyc := rfl
@[simp] theorem emit_fab (k : OutKind) (args : List Nat) : (emit k args s).fab = s.fab := rfl
@[simp] theorem emit_tlyQ (k : OutKind) (args : List Nat) : (emit k args s).tlyQ = s.tlyQ := rfl
@[simp] theorem emit_tlyWaits (k : OutKind) (args : List Nat) : (emit k args s).tlyWaits = s.tlyWaits := rfl
@[simp] theorem emit_whsQ (k : OutKind) (args : List Nat) : (emit k args s).whsQ = s.whsQ := rfl
@[simp] theorem emit_sends (k : OutKind) (args : List Nat) : (emit k args s).sends = s.sends := rfl
@[simp] theorem emit_rqs (k : OutKind) (args : List Nat) : (emit k args s).rqs = s.rqs := rfl
@[simp] theorem emit_spills (k : OutKind) (args : List Nat) : (emit k args s).spills = s.spills := rfl
@[simp] theorem emit_opens (k : OutKind) (args : List Nat) : (emit k args s).opens = s.opens := rfl
@[simp] theorem emit_landings (k : OutKind) (args : List Nat) : (emit k args s).landings = s.landings := rfl
@[simp] theorem emit_connLt (k : OutKind) (args : List Nat) : (emit k args s).connLt = s.connLt := rfl
@[simp] theorem emit_sidNext (k : OutKind) (args : List Nat) : (emit k args s).sidNext = s.sidNext := rfl
@[simp] theorem emit_ltkQ (k : OutKind) (args : List Nat) : (emit k args s).ltkQ = s.ltkQ := rfl
@[simp] theorem emit_ltkPaths (k : OutKind) (args : List Nat) : (emit k args s).ltkPaths = s.ltkPaths := rfl
@[simp] theorem emit_ltkRoutes (k : OutKind) (args : List Nat) : (emit k args s).ltkRoutes = s.ltkRoutes := rfl
@[simp] theorem emit_ltkPause (k : OutKind) (args : List Nat) : (emit k args s).ltkPause = s.ltkPause := rfl
@[simp] theorem emit_ptpGood (k : OutKind) (args : List Nat) : (emit k args s).ptpGood = s.ptpGood := rfl
@[simp] theorem emit_held (k : OutKind) (args : List Nat) : (emit k args s).held = s.held := rfl
@[simp] theorem emit_hostEnts (k : OutKind) (args : List Nat) : (emit k args s).hostEnts = s.hostEnts := rfl
@[simp] theorem emit_hrings (k : OutKind) (args : List Nat) : (emit k args s).hrings = s.hrings := rfl
@[simp] theorem emit_hostNext (k : OutKind) (args : List Nat) : (emit k args s).hostNext = s.hostNext := rfl
@[simp] theorem emit_aer (k : OutKind) (args : List Nat) : (emit k args s).aer = s.aer := rfl
@[simp] theorem emit_tcache (k : OutKind) (args : List Nat) : (emit k args s).tcache = s.tcache := rfl
@[simp] theorem emit_fabCyc (k : OutKind) (args : List Nat) : (emit k args s).fabCyc = s.fabCyc := rfl
@[simp] theorem emit_used (k : OutKind) (args : List Nat) : (emit k args s).used = s.used := rfl
@[simp] theorem emit_slotAt (k : OutKind) (args : List Nat) : (emit k args s).slotAt = s.slotAt := rfl
@[simp] theorem emit_capNext (k : OutKind) (args : List Nat) : (emit k args s).capNext = s.capNext := rfl
@[simp] theorem emit_ats (k : OutKind) (args : List Nat) : (emit k args s).ats = s.ats := rfl
@[simp] theorem emit_pageReqs (k : OutKind) (args : List Nat) : (emit k args s).pageReqs = s.pageReqs := rfl
@[simp] theorem emit_prgNext (k : OutKind) (args : List Nat) : (emit k args s).prgNext = s.prgNext := rfl
@[simp] theorem emit_atsInv (k : OutKind) (args : List Nat) : (emit k args s).atsInv = s.atsInv := rfl
@[simp] theorem emit_atsEn (k : OutKind) (args : List Nat) : (emit k args s).atsEn = s.atsEn := rfl
@[simp] theorem emit_priEn (k : OutKind) (args : List Nat) : (emit k args s).priEn = s.priEn := rfl
@[simp] theorem emit_priAlloc (k : OutKind) (args : List Nat) : (emit k args s).priAlloc = s.priAlloc := rfl
@[simp] theorem emit_winShare (k : OutKind) (args : List Nat) : (emit k args s).winShare = s.winShare := rfl
@[simp] theorem emit_sinks (k : OutKind) (args : List Nat) : (emit k args s).sinks = s.sinks := rfl
@[simp] theorem emit_scrubAt (k : OutKind) (args : List Nat) : (emit k args s).scrubAt = s.scrubAt := rfl
@[simp] theorem emit_mem (k : OutKind) (args : List Nat) : (emit k args s).mem = s.mem := rfl
@[simp] theorem emit_memEpoch (k : OutKind) (args : List Nat) : (emit k args s).memEpoch = s.memEpoch := rfl
@[simp] theorem emit_lines (k : OutKind) (args : List Nat) : (emit k args s).lines = s.lines := rfl
@[simp] theorem emit_pools (k : OutKind) (args : List Nat) : (emit k args s).pools = s.pools := rfl
@[simp] theorem emit_byrQ (k : OutKind) (args : List Nat) : (emit k args s).byrQ = s.byrQ := rfl
@[simp] theorem emit_byrCmd (k : OutKind) (args : List Nat) : (emit k args s).byrCmd = s.byrCmd := rfl
@[simp] theorem emit_tlyShadow (k : OutKind) (args : List Nat) : (emit k args s).tlyShadow = s.tlyShadow := rfl
@[simp] theorem emit_connShadow (k : OutKind) (args : List Nat) : (emit k args s).connShadow = s.connShadow := rfl
@[simp] theorem emit_watches (k : OutKind) (args : List Nat) : (emit k args s).watches = s.watches := rfl
@[simp] theorem emit_folds (k : OutKind) (args : List Nat) : (emit k args s).folds = s.folds := rfl
@[simp] theorem emit_keys (k : OutKind) (args : List Nat) : (emit k args s).keys = s.keys := rfl
@[simp] theorem emit_ration (k : OutKind) (args : List Nat) : (emit k args s).ration = s.ration := rfl
@[simp] theorem emit_pmTry (k : OutKind) (args : List Nat) : (emit k args s).pmTry = s.pmTry := rfl
@[simp] theorem emit_pldmQ (k : OutKind) (args : List Nat) : (emit k args s).pldmQ = s.pldmQ := rfl
@[simp] theorem emit_mgmt (k : OutKind) (args : List Nat) : (emit k args s).mgmt = s.mgmt := rfl
@[simp] theorem emit_pwr (k : OutKind) (args : List Nat) : (emit k args s).pwr = s.pwr := rfl
@[simp] theorem emit_cfg (k : OutKind) (args : List Nat) : (emit k args s).cfg = s.cfg := rfl
@[simp] theorem emit_tap (k : OutKind) (args : List Nat) : (emit k args s).tap = s.tap := rfl
@[simp] theorem emit_mwins (k : OutKind) (args : List Nat) : (emit k args s).mwins = s.mwins := rfl
@[simp] theorem emit_openAt (k : OutKind) (args : List Nat) : (emit k args s).openAt = s.openAt := rfl
@[simp] theorem emit_whsLands (k : OutKind) (args : List Nat) : (emit k args s).whsLands = s.whsLands := rfl
@[simp] theorem emit_accWaits (k : OutKind) (args : List Nat) : (emit k args s).accWaits = s.accWaits := rfl
@[simp] theorem emit_formAt (k : OutKind) (args : List Nat) : (emit k args s).formAt = s.formAt := rfl
@[simp] theorem emit_admSeq (k : OutKind) (args : List Nat) : (emit k args s).admSeq = s.admSeq := rfl
@[simp] theorem emit_spMark (k : OutKind) (args : List Nat) : (emit k args s).spMark = s.spMark := rfl
@[simp] theorem emit_bellLate (k : OutKind) (args : List Nat) : (emit k args s).bellLate = s.bellLate := rfl
@[simp] theorem emit_pending (k : OutKind) (args : List Nat) : (emit k args s).pending = s.pending := rfl
@[simp] theorem rdW_emit (k : OutKind) (args : List Nat) (rb : Blk) (ri ro : Nat) : rdW (emit k args s) rb ri ro = rdW s rb ri ro := rfl
@[simp] theorem rd_emit (k : OutKind) (args : List Nat) (rf : Fld) (ri : Nat) : rd (emit k args s) rf ri = rd s rf ri := rfl
@[simp] theorem rdB_emit (k : OutKind) (args : List Nat) (rf : Fld) (ri : Nat) : rdB (emit k args s) rf ri = rdB s rf ri := rfl

/-! ### pdkMod -/

@[simp] theorem pdkMod_now (n : Nat) (g : Pdk → Pdk) : (pdkMod n g s).now = s.now := rfl
@[simp] theorem pdkMod_freeCtr (n : Nat) (g : Pdk → Pdk) : (pdkMod n g s).freeCtr = s.freeCtr := rfl
@[simp] theorem pdkMod_regs (n : Nat) (g : Pdk → Pdk) : (pdkMod n g s).regs = s.regs := rfl
@[simp] theorem pdkMod_bellPend (n : Nat) (g : Pdk → Pdk) : (pdkMod n g s).bellPend = s.bellPend := rfl
@[simp] theorem pdkMod_rearmPend (n : Nat) (g : Pdk → Pdk) : (pdkMod n g s).rearmPend = s.rearmPend := rfl
@[simp] theorem pdkMod_fixedDone (n : Nat) (g : Pdk → Pdk) : (pdkMod n g s).fixedDone = s.fixedDone := rfl
@[simp] theorem pdkMod_outbox (n : Nat) (g : Pdk → Pdk) : (pdkMod n g s).outbox = s.outbox := rfl
@[simp] theorem pdkMod_bellLock (n : Nat) (g : Pdk → Pdk) : (pdkMod n g s).bellLock = s.bellLock := rfl
@[simp] theorem pdkMod_aliveOut (n : Nat) (g : Pdk → Pdk) : (pdkMod n g s).aliveOut = s.aliveOut := rfl
@[simp] theorem pdkMod_bell (n : Nat) (g : Pdk → Pdk) : (pdkMod n g s).bell = s.bell := rfl
@[simp] theorem pdkMod_vfEnable (n : Nat) (g : Pdk → Pdk) : (pdkMod n g s).vfEnable = s.vfEnable := rfl
@[simp] theorem pdkMod_numVfs (n : Nat) (g : Pdk → Pdk) : (pdkMod n g s).numVfs = s.numVfs := rfl
@[simp] theorem pdkMod_fns (n : Nat) (g : Pdk → Pdk) : (pdkMod n g s).fns = s.fns := rfl
@[simp] theorem pdkMod_pfEvents (n : Nat) (g : Pdk → Pdk) : (pdkMod n g s).pfEvents = s.pfEvents := rfl
@[simp] theorem pdkMod_pfLost (n : Nat) (g : Pdk → Pdk) : (pdkMod n g s).pfLost = s.pfLost := rfl
@[simp] theorem pdkMod_fbk (n : Nat) (g : Pdk → Pdk) : (pdkMod n g s).fbk = s.fbk := rfl
@[simp] theorem pdkMod_cores (n : Nat) (g : Pdk → Pdk) : (pdkMod n g s).cores = s.cores := rfl
@[simp] theorem pdkMod_meshes (n : Nat) (g : Pdk → Pdk) : (pdkMod n g s).meshes = s.meshes := rfl
@[simp] theorem pdkMod_links (n : Nat) (g : Pdk → Pdk) : (pdkMod n g s).links = s.links := rfl
@[simp] theorem pdkMod_sp (n : Nat) (g : Pdk → Pdk) : (pdkMod n g s).sp = s.sp := rfl
@[simp] theorem pdkMod_spEpoch (n : Nat) (g : Pdk → Pdk) : (pdkMod n g s).spEpoch = s.spEpoch := rfl
@[simp] theorem pdkMod_imem (n : Nat) (g : Pdk → Pdk) : (pdkMod n g s).imem = s.imem := rfl
@[simp] theorem pdkMod_rslot (n : Nat) (g : Pdk → Pdk) : (pdkMod n g s).rslot = s.rslot := rfl
@[simp] theorem pdkMod_tile (n : Nat) (g : Pdk → Pdk) : (pdkMod n g s).tile = s.tile := rfl
@[simp] theorem pdkMod_acc (n : Nat) (g : Pdk → Pdk) : (pdkMod n g s).acc = s.acc := rfl
@[simp] theorem pdkMod_shadow (n : Nat) (g : Pdk → Pdk) : (pdkMod n g s).shadow = s.shadow := rfl
@[simp] theorem pdkMod_desc (n : Nat) (g : Pdk → Pdk) : (pdkMod n g s).desc = s.desc := rfl
@[simp] theorem pdkMod_frameChk (n : Nat) (g : Pdk → Pdk) : (pdkMod n g s).frameChk = s.frameChk := rfl
@[simp] theorem pdkMod_ht (n : Nat) (g : Pdk → Pdk) : (pdkMod n g s).ht = s.ht := rfl
@[simp] theorem pdkMod_wlkDue (n : Nat) (g : Pdk → Pdk) : (pdkMod n g s).wlkDue = s.wlkDue := rfl
@[simp] theorem pdkMod_walkers (n : Nat) (g : Pdk → Pdk) : (pdkMod n g s).walkers = s.walkers := rfl
@[simp] theorem pdkMod_wlkDone (n : Nat) (g : Pdk → Pdk) : (pdkMod n g s).wlkDone = s.wlkDone := rfl
@[simp] theorem pdkMod_mcores (n : Nat) (g : Pdk → Pdk) : (pdkMod n g s).mcores = s.mcores := rfl
@[simp] theorem pdkMod_mslice (n : Nat) (g : Pdk → Pdk) : (pdkMod n g s).mslice = s.mslice := rfl
@[simp] theorem pdkMod_mblast (n : Nat) (g : Pdk → Pdk) : (pdkMod n g s).mblast = s.mblast := rfl
@[simp] theorem pdkMod_repairs (n : Nat) (g : Pdk → Pdk) : (pdkMod n g s).repairs = s.repairs := rfl
@[simp] theorem pdkMod_ctxs (n : Nat) (g : Pdk → Pdk) : (pdkMod n g s).ctxs = s.ctxs := rfl
@[simp] theorem pdkMod_leaCyc (n : Nat) (g : Pdk → Pdk) : (pdkMod n g s).leaCyc = s.leaCyc := rfl
@[simp] theorem pdkMod_fab (n : Nat) (g : Pdk → Pdk) : (pdkMod n g s).fab = s.fab := rfl
@[simp] theorem pdkMod_tlyQ (n : Nat) (g : Pdk → Pdk) : (pdkMod n g s).tlyQ = s.tlyQ := rfl
@[simp] theorem pdkMod_tlyWaits (n : Nat) (g : Pdk → Pdk) : (pdkMod n g s).tlyWaits = s.tlyWaits := rfl
@[simp] theorem pdkMod_whsQ (n : Nat) (g : Pdk → Pdk) : (pdkMod n g s).whsQ = s.whsQ := rfl
@[simp] theorem pdkMod_sends (n : Nat) (g : Pdk → Pdk) : (pdkMod n g s).sends = s.sends := rfl
@[simp] theorem pdkMod_rqs (n : Nat) (g : Pdk → Pdk) : (pdkMod n g s).rqs = s.rqs := rfl
@[simp] theorem pdkMod_spills (n : Nat) (g : Pdk → Pdk) : (pdkMod n g s).spills = s.spills := rfl
@[simp] theorem pdkMod_opens (n : Nat) (g : Pdk → Pdk) : (pdkMod n g s).opens = s.opens := rfl
@[simp] theorem pdkMod_landings (n : Nat) (g : Pdk → Pdk) : (pdkMod n g s).landings = s.landings := rfl
@[simp] theorem pdkMod_connLt (n : Nat) (g : Pdk → Pdk) : (pdkMod n g s).connLt = s.connLt := rfl
@[simp] theorem pdkMod_sidNext (n : Nat) (g : Pdk → Pdk) : (pdkMod n g s).sidNext = s.sidNext := rfl
@[simp] theorem pdkMod_ltkQ (n : Nat) (g : Pdk → Pdk) : (pdkMod n g s).ltkQ = s.ltkQ := rfl
@[simp] theorem pdkMod_ltkPaths (n : Nat) (g : Pdk → Pdk) : (pdkMod n g s).ltkPaths = s.ltkPaths := rfl
@[simp] theorem pdkMod_ltkRoutes (n : Nat) (g : Pdk → Pdk) : (pdkMod n g s).ltkRoutes = s.ltkRoutes := rfl
@[simp] theorem pdkMod_ltkPause (n : Nat) (g : Pdk → Pdk) : (pdkMod n g s).ltkPause = s.ltkPause := rfl
@[simp] theorem pdkMod_ptpGood (n : Nat) (g : Pdk → Pdk) : (pdkMod n g s).ptpGood = s.ptpGood := rfl
@[simp] theorem pdkMod_held (n : Nat) (g : Pdk → Pdk) : (pdkMod n g s).held = s.held := rfl
@[simp] theorem pdkMod_hostEnts (n : Nat) (g : Pdk → Pdk) : (pdkMod n g s).hostEnts = s.hostEnts := rfl
@[simp] theorem pdkMod_hrings (n : Nat) (g : Pdk → Pdk) : (pdkMod n g s).hrings = s.hrings := rfl
@[simp] theorem pdkMod_hostNext (n : Nat) (g : Pdk → Pdk) : (pdkMod n g s).hostNext = s.hostNext := rfl
@[simp] theorem pdkMod_aer (n : Nat) (g : Pdk → Pdk) : (pdkMod n g s).aer = s.aer := rfl
@[simp] theorem pdkMod_tcache (n : Nat) (g : Pdk → Pdk) : (pdkMod n g s).tcache = s.tcache := rfl
@[simp] theorem pdkMod_fabCyc (n : Nat) (g : Pdk → Pdk) : (pdkMod n g s).fabCyc = s.fabCyc := rfl
@[simp] theorem pdkMod_used (n : Nat) (g : Pdk → Pdk) : (pdkMod n g s).used = s.used := rfl
@[simp] theorem pdkMod_slotAt (n : Nat) (g : Pdk → Pdk) : (pdkMod n g s).slotAt = s.slotAt := rfl
@[simp] theorem pdkMod_capNext (n : Nat) (g : Pdk → Pdk) : (pdkMod n g s).capNext = s.capNext := rfl
@[simp] theorem pdkMod_ats (n : Nat) (g : Pdk → Pdk) : (pdkMod n g s).ats = s.ats := rfl
@[simp] theorem pdkMod_pageReqs (n : Nat) (g : Pdk → Pdk) : (pdkMod n g s).pageReqs = s.pageReqs := rfl
@[simp] theorem pdkMod_prgNext (n : Nat) (g : Pdk → Pdk) : (pdkMod n g s).prgNext = s.prgNext := rfl
@[simp] theorem pdkMod_atsInv (n : Nat) (g : Pdk → Pdk) : (pdkMod n g s).atsInv = s.atsInv := rfl
@[simp] theorem pdkMod_atsEn (n : Nat) (g : Pdk → Pdk) : (pdkMod n g s).atsEn = s.atsEn := rfl
@[simp] theorem pdkMod_priEn (n : Nat) (g : Pdk → Pdk) : (pdkMod n g s).priEn = s.priEn := rfl
@[simp] theorem pdkMod_priAlloc (n : Nat) (g : Pdk → Pdk) : (pdkMod n g s).priAlloc = s.priAlloc := rfl
@[simp] theorem pdkMod_winShare (n : Nat) (g : Pdk → Pdk) : (pdkMod n g s).winShare = s.winShare := rfl
@[simp] theorem pdkMod_sinks (n : Nat) (g : Pdk → Pdk) : (pdkMod n g s).sinks = s.sinks := rfl
@[simp] theorem pdkMod_scrubAt (n : Nat) (g : Pdk → Pdk) : (pdkMod n g s).scrubAt = s.scrubAt := rfl
@[simp] theorem pdkMod_mem (n : Nat) (g : Pdk → Pdk) : (pdkMod n g s).mem = s.mem := rfl
@[simp] theorem pdkMod_memEpoch (n : Nat) (g : Pdk → Pdk) : (pdkMod n g s).memEpoch = s.memEpoch := rfl
@[simp] theorem pdkMod_lines (n : Nat) (g : Pdk → Pdk) : (pdkMod n g s).lines = s.lines := rfl
@[simp] theorem pdkMod_pools (n : Nat) (g : Pdk → Pdk) : (pdkMod n g s).pools = s.pools := rfl
@[simp] theorem pdkMod_byrQ (n : Nat) (g : Pdk → Pdk) : (pdkMod n g s).byrQ = s.byrQ := rfl
@[simp] theorem pdkMod_byrCmd (n : Nat) (g : Pdk → Pdk) : (pdkMod n g s).byrCmd = s.byrCmd := rfl
@[simp] theorem pdkMod_tlyShadow (n : Nat) (g : Pdk → Pdk) : (pdkMod n g s).tlyShadow = s.tlyShadow := rfl
@[simp] theorem pdkMod_connShadow (n : Nat) (g : Pdk → Pdk) : (pdkMod n g s).connShadow = s.connShadow := rfl
@[simp] theorem pdkMod_watches (n : Nat) (g : Pdk → Pdk) : (pdkMod n g s).watches = s.watches := rfl
@[simp] theorem pdkMod_folds (n : Nat) (g : Pdk → Pdk) : (pdkMod n g s).folds = s.folds := rfl
@[simp] theorem pdkMod_keys (n : Nat) (g : Pdk → Pdk) : (pdkMod n g s).keys = s.keys := rfl
@[simp] theorem pdkMod_ration (n : Nat) (g : Pdk → Pdk) : (pdkMod n g s).ration = s.ration := rfl
@[simp] theorem pdkMod_pmTry (n : Nat) (g : Pdk → Pdk) : (pdkMod n g s).pmTry = s.pmTry := rfl
@[simp] theorem pdkMod_pldmQ (n : Nat) (g : Pdk → Pdk) : (pdkMod n g s).pldmQ = s.pldmQ := rfl
@[simp] theorem pdkMod_mgmt (n : Nat) (g : Pdk → Pdk) : (pdkMod n g s).mgmt = s.mgmt := rfl
@[simp] theorem pdkMod_pwr (n : Nat) (g : Pdk → Pdk) : (pdkMod n g s).pwr = s.pwr := rfl
@[simp] theorem pdkMod_cfg (n : Nat) (g : Pdk → Pdk) : (pdkMod n g s).cfg = s.cfg := rfl
@[simp] theorem pdkMod_tap (n : Nat) (g : Pdk → Pdk) : (pdkMod n g s).tap = s.tap := rfl
@[simp] theorem pdkMod_mwins (n : Nat) (g : Pdk → Pdk) : (pdkMod n g s).mwins = s.mwins := rfl
@[simp] theorem pdkMod_openAt (n : Nat) (g : Pdk → Pdk) : (pdkMod n g s).openAt = s.openAt := rfl
@[simp] theorem pdkMod_whsLands (n : Nat) (g : Pdk → Pdk) : (pdkMod n g s).whsLands = s.whsLands := rfl
@[simp] theorem pdkMod_accWaits (n : Nat) (g : Pdk → Pdk) : (pdkMod n g s).accWaits = s.accWaits := rfl
@[simp] theorem pdkMod_formAt (n : Nat) (g : Pdk → Pdk) : (pdkMod n g s).formAt = s.formAt := rfl
@[simp] theorem pdkMod_admSeq (n : Nat) (g : Pdk → Pdk) : (pdkMod n g s).admSeq = s.admSeq := rfl
@[simp] theorem pdkMod_spMark (n : Nat) (g : Pdk → Pdk) : (pdkMod n g s).spMark = s.spMark := rfl
@[simp] theorem pdkMod_bellLate (n : Nat) (g : Pdk → Pdk) : (pdkMod n g s).bellLate = s.bellLate := rfl
@[simp] theorem pdkMod_pending (n : Nat) (g : Pdk → Pdk) : (pdkMod n g s).pending = s.pending := rfl
@[simp] theorem rdW_pdkMod (n : Nat) (g : Pdk → Pdk) (rb : Blk) (ri ro : Nat) : rdW (pdkMod n g s) rb ri ro = rdW s rb ri ro := rfl
@[simp] theorem rd_pdkMod (n : Nat) (g : Pdk → Pdk) (rf : Fld) (ri : Nat) : rd (pdkMod n g s) rf ri = rd s rf ri := rfl
@[simp] theorem rdB_pdkMod (n : Nat) (g : Pdk → Pdk) (rf : Fld) (ri : Nat) : rdB (pdkMod n g s) rf ri = rdB s rf ri := rfl

/-! ### fnMod -/

@[simp] theorem fnMod_now (f : Nat) (g : HostFn → HostFn) : (fnMod f g s).now = s.now := rfl
@[simp] theorem fnMod_freeCtr (f : Nat) (g : HostFn → HostFn) : (fnMod f g s).freeCtr = s.freeCtr := rfl
@[simp] theorem fnMod_regs (f : Nat) (g : HostFn → HostFn) : (fnMod f g s).regs = s.regs := rfl
@[simp] theorem fnMod_bellPend (f : Nat) (g : HostFn → HostFn) : (fnMod f g s).bellPend = s.bellPend := rfl
@[simp] theorem fnMod_rearmPend (f : Nat) (g : HostFn → HostFn) : (fnMod f g s).rearmPend = s.rearmPend := rfl
@[simp] theorem fnMod_fixedDone (f : Nat) (g : HostFn → HostFn) : (fnMod f g s).fixedDone = s.fixedDone := rfl
@[simp] theorem fnMod_outbox (f : Nat) (g : HostFn → HostFn) : (fnMod f g s).outbox = s.outbox := rfl
@[simp] theorem fnMod_bellLock (f : Nat) (g : HostFn → HostFn) : (fnMod f g s).bellLock = s.bellLock := rfl
@[simp] theorem fnMod_aliveOut (f : Nat) (g : HostFn → HostFn) : (fnMod f g s).aliveOut = s.aliveOut := rfl
@[simp] theorem fnMod_bell (f : Nat) (g : HostFn → HostFn) : (fnMod f g s).bell = s.bell := rfl
@[simp] theorem fnMod_pdks (f : Nat) (g : HostFn → HostFn) : (fnMod f g s).pdks = s.pdks := rfl
@[simp] theorem fnMod_vfEnable (f : Nat) (g : HostFn → HostFn) : (fnMod f g s).vfEnable = s.vfEnable := rfl
@[simp] theorem fnMod_numVfs (f : Nat) (g : HostFn → HostFn) : (fnMod f g s).numVfs = s.numVfs := rfl
@[simp] theorem fnMod_pfEvents (f : Nat) (g : HostFn → HostFn) : (fnMod f g s).pfEvents = s.pfEvents := rfl
@[simp] theorem fnMod_pfLost (f : Nat) (g : HostFn → HostFn) : (fnMod f g s).pfLost = s.pfLost := rfl
@[simp] theorem fnMod_fbk (f : Nat) (g : HostFn → HostFn) : (fnMod f g s).fbk = s.fbk := rfl
@[simp] theorem fnMod_cores (f : Nat) (g : HostFn → HostFn) : (fnMod f g s).cores = s.cores := rfl
@[simp] theorem fnMod_meshes (f : Nat) (g : HostFn → HostFn) : (fnMod f g s).meshes = s.meshes := rfl
@[simp] theorem fnMod_links (f : Nat) (g : HostFn → HostFn) : (fnMod f g s).links = s.links := rfl
@[simp] theorem fnMod_sp (f : Nat) (g : HostFn → HostFn) : (fnMod f g s).sp = s.sp := rfl
@[simp] theorem fnMod_spEpoch (f : Nat) (g : HostFn → HostFn) : (fnMod f g s).spEpoch = s.spEpoch := rfl
@[simp] theorem fnMod_imem (f : Nat) (g : HostFn → HostFn) : (fnMod f g s).imem = s.imem := rfl
@[simp] theorem fnMod_rslot (f : Nat) (g : HostFn → HostFn) : (fnMod f g s).rslot = s.rslot := rfl
@[simp] theorem fnMod_tile (f : Nat) (g : HostFn → HostFn) : (fnMod f g s).tile = s.tile := rfl
@[simp] theorem fnMod_acc (f : Nat) (g : HostFn → HostFn) : (fnMod f g s).acc = s.acc := rfl
@[simp] theorem fnMod_shadow (f : Nat) (g : HostFn → HostFn) : (fnMod f g s).shadow = s.shadow := rfl
@[simp] theorem fnMod_desc (f : Nat) (g : HostFn → HostFn) : (fnMod f g s).desc = s.desc := rfl
@[simp] theorem fnMod_frameChk (f : Nat) (g : HostFn → HostFn) : (fnMod f g s).frameChk = s.frameChk := rfl
@[simp] theorem fnMod_ht (f : Nat) (g : HostFn → HostFn) : (fnMod f g s).ht = s.ht := rfl
@[simp] theorem fnMod_wlkDue (f : Nat) (g : HostFn → HostFn) : (fnMod f g s).wlkDue = s.wlkDue := rfl
@[simp] theorem fnMod_walkers (f : Nat) (g : HostFn → HostFn) : (fnMod f g s).walkers = s.walkers := rfl
@[simp] theorem fnMod_wlkDone (f : Nat) (g : HostFn → HostFn) : (fnMod f g s).wlkDone = s.wlkDone := rfl
@[simp] theorem fnMod_mcores (f : Nat) (g : HostFn → HostFn) : (fnMod f g s).mcores = s.mcores := rfl
@[simp] theorem fnMod_mslice (f : Nat) (g : HostFn → HostFn) : (fnMod f g s).mslice = s.mslice := rfl
@[simp] theorem fnMod_mblast (f : Nat) (g : HostFn → HostFn) : (fnMod f g s).mblast = s.mblast := rfl
@[simp] theorem fnMod_repairs (f : Nat) (g : HostFn → HostFn) : (fnMod f g s).repairs = s.repairs := rfl
@[simp] theorem fnMod_ctxs (f : Nat) (g : HostFn → HostFn) : (fnMod f g s).ctxs = s.ctxs := rfl
@[simp] theorem fnMod_leaCyc (f : Nat) (g : HostFn → HostFn) : (fnMod f g s).leaCyc = s.leaCyc := rfl
@[simp] theorem fnMod_fab (f : Nat) (g : HostFn → HostFn) : (fnMod f g s).fab = s.fab := rfl
@[simp] theorem fnMod_tlyQ (f : Nat) (g : HostFn → HostFn) : (fnMod f g s).tlyQ = s.tlyQ := rfl
@[simp] theorem fnMod_tlyWaits (f : Nat) (g : HostFn → HostFn) : (fnMod f g s).tlyWaits = s.tlyWaits := rfl
@[simp] theorem fnMod_whsQ (f : Nat) (g : HostFn → HostFn) : (fnMod f g s).whsQ = s.whsQ := rfl
@[simp] theorem fnMod_sends (f : Nat) (g : HostFn → HostFn) : (fnMod f g s).sends = s.sends := rfl
@[simp] theorem fnMod_rqs (f : Nat) (g : HostFn → HostFn) : (fnMod f g s).rqs = s.rqs := rfl
@[simp] theorem fnMod_spills (f : Nat) (g : HostFn → HostFn) : (fnMod f g s).spills = s.spills := rfl
@[simp] theorem fnMod_opens (f : Nat) (g : HostFn → HostFn) : (fnMod f g s).opens = s.opens := rfl
@[simp] theorem fnMod_landings (f : Nat) (g : HostFn → HostFn) : (fnMod f g s).landings = s.landings := rfl
@[simp] theorem fnMod_connLt (f : Nat) (g : HostFn → HostFn) : (fnMod f g s).connLt = s.connLt := rfl
@[simp] theorem fnMod_sidNext (f : Nat) (g : HostFn → HostFn) : (fnMod f g s).sidNext = s.sidNext := rfl
@[simp] theorem fnMod_ltkQ (f : Nat) (g : HostFn → HostFn) : (fnMod f g s).ltkQ = s.ltkQ := rfl
@[simp] theorem fnMod_ltkPaths (f : Nat) (g : HostFn → HostFn) : (fnMod f g s).ltkPaths = s.ltkPaths := rfl
@[simp] theorem fnMod_ltkRoutes (f : Nat) (g : HostFn → HostFn) : (fnMod f g s).ltkRoutes = s.ltkRoutes := rfl
@[simp] theorem fnMod_ltkPause (f : Nat) (g : HostFn → HostFn) : (fnMod f g s).ltkPause = s.ltkPause := rfl
@[simp] theorem fnMod_ptpGood (f : Nat) (g : HostFn → HostFn) : (fnMod f g s).ptpGood = s.ptpGood := rfl
@[simp] theorem fnMod_held (f : Nat) (g : HostFn → HostFn) : (fnMod f g s).held = s.held := rfl
@[simp] theorem fnMod_hostEnts (f : Nat) (g : HostFn → HostFn) : (fnMod f g s).hostEnts = s.hostEnts := rfl
@[simp] theorem fnMod_hrings (f : Nat) (g : HostFn → HostFn) : (fnMod f g s).hrings = s.hrings := rfl
@[simp] theorem fnMod_hostNext (f : Nat) (g : HostFn → HostFn) : (fnMod f g s).hostNext = s.hostNext := rfl
@[simp] theorem fnMod_aer (f : Nat) (g : HostFn → HostFn) : (fnMod f g s).aer = s.aer := rfl
@[simp] theorem fnMod_tcache (f : Nat) (g : HostFn → HostFn) : (fnMod f g s).tcache = s.tcache := rfl
@[simp] theorem fnMod_fabCyc (f : Nat) (g : HostFn → HostFn) : (fnMod f g s).fabCyc = s.fabCyc := rfl
@[simp] theorem fnMod_used (f : Nat) (g : HostFn → HostFn) : (fnMod f g s).used = s.used := rfl
@[simp] theorem fnMod_slotAt (f : Nat) (g : HostFn → HostFn) : (fnMod f g s).slotAt = s.slotAt := rfl
@[simp] theorem fnMod_capNext (f : Nat) (g : HostFn → HostFn) : (fnMod f g s).capNext = s.capNext := rfl
@[simp] theorem fnMod_ats (f : Nat) (g : HostFn → HostFn) : (fnMod f g s).ats = s.ats := rfl
@[simp] theorem fnMod_pageReqs (f : Nat) (g : HostFn → HostFn) : (fnMod f g s).pageReqs = s.pageReqs := rfl
@[simp] theorem fnMod_prgNext (f : Nat) (g : HostFn → HostFn) : (fnMod f g s).prgNext = s.prgNext := rfl
@[simp] theorem fnMod_atsInv (f : Nat) (g : HostFn → HostFn) : (fnMod f g s).atsInv = s.atsInv := rfl
@[simp] theorem fnMod_atsEn (f : Nat) (g : HostFn → HostFn) : (fnMod f g s).atsEn = s.atsEn := rfl
@[simp] theorem fnMod_priEn (f : Nat) (g : HostFn → HostFn) : (fnMod f g s).priEn = s.priEn := rfl
@[simp] theorem fnMod_priAlloc (f : Nat) (g : HostFn → HostFn) : (fnMod f g s).priAlloc = s.priAlloc := rfl
@[simp] theorem fnMod_winShare (f : Nat) (g : HostFn → HostFn) : (fnMod f g s).winShare = s.winShare := rfl
@[simp] theorem fnMod_sinks (f : Nat) (g : HostFn → HostFn) : (fnMod f g s).sinks = s.sinks := rfl
@[simp] theorem fnMod_scrubAt (f : Nat) (g : HostFn → HostFn) : (fnMod f g s).scrubAt = s.scrubAt := rfl
@[simp] theorem fnMod_mem (f : Nat) (g : HostFn → HostFn) : (fnMod f g s).mem = s.mem := rfl
@[simp] theorem fnMod_memEpoch (f : Nat) (g : HostFn → HostFn) : (fnMod f g s).memEpoch = s.memEpoch := rfl
@[simp] theorem fnMod_lines (f : Nat) (g : HostFn → HostFn) : (fnMod f g s).lines = s.lines := rfl
@[simp] theorem fnMod_pools (f : Nat) (g : HostFn → HostFn) : (fnMod f g s).pools = s.pools := rfl
@[simp] theorem fnMod_byrQ (f : Nat) (g : HostFn → HostFn) : (fnMod f g s).byrQ = s.byrQ := rfl
@[simp] theorem fnMod_byrCmd (f : Nat) (g : HostFn → HostFn) : (fnMod f g s).byrCmd = s.byrCmd := rfl
@[simp] theorem fnMod_tlyShadow (f : Nat) (g : HostFn → HostFn) : (fnMod f g s).tlyShadow = s.tlyShadow := rfl
@[simp] theorem fnMod_connShadow (f : Nat) (g : HostFn → HostFn) : (fnMod f g s).connShadow = s.connShadow := rfl
@[simp] theorem fnMod_watches (f : Nat) (g : HostFn → HostFn) : (fnMod f g s).watches = s.watches := rfl
@[simp] theorem fnMod_folds (f : Nat) (g : HostFn → HostFn) : (fnMod f g s).folds = s.folds := rfl
@[simp] theorem fnMod_keys (f : Nat) (g : HostFn → HostFn) : (fnMod f g s).keys = s.keys := rfl
@[simp] theorem fnMod_ration (f : Nat) (g : HostFn → HostFn) : (fnMod f g s).ration = s.ration := rfl
@[simp] theorem fnMod_pmTry (f : Nat) (g : HostFn → HostFn) : (fnMod f g s).pmTry = s.pmTry := rfl
@[simp] theorem fnMod_pldmQ (f : Nat) (g : HostFn → HostFn) : (fnMod f g s).pldmQ = s.pldmQ := rfl
@[simp] theorem fnMod_mgmt (f : Nat) (g : HostFn → HostFn) : (fnMod f g s).mgmt = s.mgmt := rfl
@[simp] theorem fnMod_pwr (f : Nat) (g : HostFn → HostFn) : (fnMod f g s).pwr = s.pwr := rfl
@[simp] theorem fnMod_cfg (f : Nat) (g : HostFn → HostFn) : (fnMod f g s).cfg = s.cfg := rfl
@[simp] theorem fnMod_tap (f : Nat) (g : HostFn → HostFn) : (fnMod f g s).tap = s.tap := rfl
@[simp] theorem fnMod_mwins (f : Nat) (g : HostFn → HostFn) : (fnMod f g s).mwins = s.mwins := rfl
@[simp] theorem fnMod_openAt (f : Nat) (g : HostFn → HostFn) : (fnMod f g s).openAt = s.openAt := rfl
@[simp] theorem fnMod_whsLands (f : Nat) (g : HostFn → HostFn) : (fnMod f g s).whsLands = s.whsLands := rfl
@[simp] theorem fnMod_accWaits (f : Nat) (g : HostFn → HostFn) : (fnMod f g s).accWaits = s.accWaits := rfl
@[simp] theorem fnMod_formAt (f : Nat) (g : HostFn → HostFn) : (fnMod f g s).formAt = s.formAt := rfl
@[simp] theorem fnMod_admSeq (f : Nat) (g : HostFn → HostFn) : (fnMod f g s).admSeq = s.admSeq := rfl
@[simp] theorem fnMod_spMark (f : Nat) (g : HostFn → HostFn) : (fnMod f g s).spMark = s.spMark := rfl
@[simp] theorem fnMod_bellLate (f : Nat) (g : HostFn → HostFn) : (fnMod f g s).bellLate = s.bellLate := rfl
@[simp] theorem fnMod_pending (f : Nat) (g : HostFn → HostFn) : (fnMod f g s).pending = s.pending := rfl
@[simp] theorem rdW_fnMod (f : Nat) (g : HostFn → HostFn) (rb : Blk) (ri ro : Nat) : rdW (fnMod f g s) rb ri ro = rdW s rb ri ro := rfl
@[simp] theorem rd_fnMod (f : Nat) (g : HostFn → HostFn) (rf : Fld) (ri : Nat) : rd (fnMod f g s) rf ri = rd s rf ri := rfl
@[simp] theorem rdB_fnMod (f : Nat) (g : HostFn → HostFn) (rf : Fld) (ri : Nat) : rdB (fnMod f g s) rf ri = rdB s rf ri := rfl

/-! ### coreMod -/

@[simp] theorem coreMod_now (p : Nat) (g : Core → Core) : (coreMod p g s).now = s.now := rfl
@[simp] theorem coreMod_freeCtr (p : Nat) (g : Core → Core) : (coreMod p g s).freeCtr = s.freeCtr := rfl
@[simp] theorem coreMod_regs (p : Nat) (g : Core → Core) : (coreMod p g s).regs = s.regs := rfl
@[simp] theorem coreMod_bellPend (p : Nat) (g : Core → Core) : (coreMod p g s).bellPend = s.bellPend := rfl
@[simp] theorem coreMod_rearmPend (p : Nat) (g : Core → Core) : (coreMod p g s).rearmPend = s.rearmPend := rfl
@[simp] theorem coreMod_fixedDone (p : Nat) (g : Core → Core) : (coreMod p g s).fixedDone = s.fixedDone := rfl
@[simp] theorem coreMod_outbox (p : Nat) (g : Core → Core) : (coreMod p g s).outbox = s.outbox := rfl
@[simp] theorem coreMod_bellLock (p : Nat) (g : Core → Core) : (coreMod p g s).bellLock = s.bellLock := rfl
@[simp] theorem coreMod_aliveOut (p : Nat) (g : Core → Core) : (coreMod p g s).aliveOut = s.aliveOut := rfl
@[simp] theorem coreMod_bell (p : Nat) (g : Core → Core) : (coreMod p g s).bell = s.bell := rfl
@[simp] theorem coreMod_pdks (p : Nat) (g : Core → Core) : (coreMod p g s).pdks = s.pdks := rfl
@[simp] theorem coreMod_vfEnable (p : Nat) (g : Core → Core) : (coreMod p g s).vfEnable = s.vfEnable := rfl
@[simp] theorem coreMod_numVfs (p : Nat) (g : Core → Core) : (coreMod p g s).numVfs = s.numVfs := rfl
@[simp] theorem coreMod_fns (p : Nat) (g : Core → Core) : (coreMod p g s).fns = s.fns := rfl
@[simp] theorem coreMod_pfEvents (p : Nat) (g : Core → Core) : (coreMod p g s).pfEvents = s.pfEvents := rfl
@[simp] theorem coreMod_pfLost (p : Nat) (g : Core → Core) : (coreMod p g s).pfLost = s.pfLost := rfl
@[simp] theorem coreMod_fbk (p : Nat) (g : Core → Core) : (coreMod p g s).fbk = s.fbk := rfl
@[simp] theorem coreMod_meshes (p : Nat) (g : Core → Core) : (coreMod p g s).meshes = s.meshes := rfl
@[simp] theorem coreMod_links (p : Nat) (g : Core → Core) : (coreMod p g s).links = s.links := rfl
@[simp] theorem coreMod_sp (p : Nat) (g : Core → Core) : (coreMod p g s).sp = s.sp := rfl
@[simp] theorem coreMod_spEpoch (p : Nat) (g : Core → Core) : (coreMod p g s).spEpoch = s.spEpoch := rfl
@[simp] theorem coreMod_imem (p : Nat) (g : Core → Core) : (coreMod p g s).imem = s.imem := rfl
@[simp] theorem coreMod_rslot (p : Nat) (g : Core → Core) : (coreMod p g s).rslot = s.rslot := rfl
@[simp] theorem coreMod_tile (p : Nat) (g : Core → Core) : (coreMod p g s).tile = s.tile := rfl
@[simp] theorem coreMod_acc (p : Nat) (g : Core → Core) : (coreMod p g s).acc = s.acc := rfl
@[simp] theorem coreMod_shadow (p : Nat) (g : Core → Core) : (coreMod p g s).shadow = s.shadow := rfl
@[simp] theorem coreMod_desc (p : Nat) (g : Core → Core) : (coreMod p g s).desc = s.desc := rfl
@[simp] theorem coreMod_frameChk (p : Nat) (g : Core → Core) : (coreMod p g s).frameChk = s.frameChk := rfl
@[simp] theorem coreMod_ht (p : Nat) (g : Core → Core) : (coreMod p g s).ht = s.ht := rfl
@[simp] theorem coreMod_wlkDue (p : Nat) (g : Core → Core) : (coreMod p g s).wlkDue = s.wlkDue := rfl
@[simp] theorem coreMod_walkers (p : Nat) (g : Core → Core) : (coreMod p g s).walkers = s.walkers := rfl
@[simp] theorem coreMod_wlkDone (p : Nat) (g : Core → Core) : (coreMod p g s).wlkDone = s.wlkDone := rfl
@[simp] theorem coreMod_mcores (p : Nat) (g : Core → Core) : (coreMod p g s).mcores = s.mcores := rfl
@[simp] theorem coreMod_mslice (p : Nat) (g : Core → Core) : (coreMod p g s).mslice = s.mslice := rfl
@[simp] theorem coreMod_mblast (p : Nat) (g : Core → Core) : (coreMod p g s).mblast = s.mblast := rfl
@[simp] theorem coreMod_repairs (p : Nat) (g : Core → Core) : (coreMod p g s).repairs = s.repairs := rfl
@[simp] theorem coreMod_ctxs (p : Nat) (g : Core → Core) : (coreMod p g s).ctxs = s.ctxs := rfl
@[simp] theorem coreMod_leaCyc (p : Nat) (g : Core → Core) : (coreMod p g s).leaCyc = s.leaCyc := rfl
@[simp] theorem coreMod_fab (p : Nat) (g : Core → Core) : (coreMod p g s).fab = s.fab := rfl
@[simp] theorem coreMod_tlyQ (p : Nat) (g : Core → Core) : (coreMod p g s).tlyQ = s.tlyQ := rfl
@[simp] theorem coreMod_tlyWaits (p : Nat) (g : Core → Core) : (coreMod p g s).tlyWaits = s.tlyWaits := rfl
@[simp] theorem coreMod_whsQ (p : Nat) (g : Core → Core) : (coreMod p g s).whsQ = s.whsQ := rfl
@[simp] theorem coreMod_sends (p : Nat) (g : Core → Core) : (coreMod p g s).sends = s.sends := rfl
@[simp] theorem coreMod_rqs (p : Nat) (g : Core → Core) : (coreMod p g s).rqs = s.rqs := rfl
@[simp] theorem coreMod_spills (p : Nat) (g : Core → Core) : (coreMod p g s).spills = s.spills := rfl
@[simp] theorem coreMod_opens (p : Nat) (g : Core → Core) : (coreMod p g s).opens = s.opens := rfl
@[simp] theorem coreMod_landings (p : Nat) (g : Core → Core) : (coreMod p g s).landings = s.landings := rfl
@[simp] theorem coreMod_connLt (p : Nat) (g : Core → Core) : (coreMod p g s).connLt = s.connLt := rfl
@[simp] theorem coreMod_sidNext (p : Nat) (g : Core → Core) : (coreMod p g s).sidNext = s.sidNext := rfl
@[simp] theorem coreMod_ltkQ (p : Nat) (g : Core → Core) : (coreMod p g s).ltkQ = s.ltkQ := rfl
@[simp] theorem coreMod_ltkPaths (p : Nat) (g : Core → Core) : (coreMod p g s).ltkPaths = s.ltkPaths := rfl
@[simp] theorem coreMod_ltkRoutes (p : Nat) (g : Core → Core) : (coreMod p g s).ltkRoutes = s.ltkRoutes := rfl
@[simp] theorem coreMod_ltkPause (p : Nat) (g : Core → Core) : (coreMod p g s).ltkPause = s.ltkPause := rfl
@[simp] theorem coreMod_ptpGood (p : Nat) (g : Core → Core) : (coreMod p g s).ptpGood = s.ptpGood := rfl
@[simp] theorem coreMod_held (p : Nat) (g : Core → Core) : (coreMod p g s).held = s.held := rfl
@[simp] theorem coreMod_hostEnts (p : Nat) (g : Core → Core) : (coreMod p g s).hostEnts = s.hostEnts := rfl
@[simp] theorem coreMod_hrings (p : Nat) (g : Core → Core) : (coreMod p g s).hrings = s.hrings := rfl
@[simp] theorem coreMod_hostNext (p : Nat) (g : Core → Core) : (coreMod p g s).hostNext = s.hostNext := rfl
@[simp] theorem coreMod_aer (p : Nat) (g : Core → Core) : (coreMod p g s).aer = s.aer := rfl
@[simp] theorem coreMod_tcache (p : Nat) (g : Core → Core) : (coreMod p g s).tcache = s.tcache := rfl
@[simp] theorem coreMod_fabCyc (p : Nat) (g : Core → Core) : (coreMod p g s).fabCyc = s.fabCyc := rfl
@[simp] theorem coreMod_used (p : Nat) (g : Core → Core) : (coreMod p g s).used = s.used := rfl
@[simp] theorem coreMod_slotAt (p : Nat) (g : Core → Core) : (coreMod p g s).slotAt = s.slotAt := rfl
@[simp] theorem coreMod_capNext (p : Nat) (g : Core → Core) : (coreMod p g s).capNext = s.capNext := rfl
@[simp] theorem coreMod_ats (p : Nat) (g : Core → Core) : (coreMod p g s).ats = s.ats := rfl
@[simp] theorem coreMod_pageReqs (p : Nat) (g : Core → Core) : (coreMod p g s).pageReqs = s.pageReqs := rfl
@[simp] theorem coreMod_prgNext (p : Nat) (g : Core → Core) : (coreMod p g s).prgNext = s.prgNext := rfl
@[simp] theorem coreMod_atsInv (p : Nat) (g : Core → Core) : (coreMod p g s).atsInv = s.atsInv := rfl
@[simp] theorem coreMod_atsEn (p : Nat) (g : Core → Core) : (coreMod p g s).atsEn = s.atsEn := rfl
@[simp] theorem coreMod_priEn (p : Nat) (g : Core → Core) : (coreMod p g s).priEn = s.priEn := rfl
@[simp] theorem coreMod_priAlloc (p : Nat) (g : Core → Core) : (coreMod p g s).priAlloc = s.priAlloc := rfl
@[simp] theorem coreMod_winShare (p : Nat) (g : Core → Core) : (coreMod p g s).winShare = s.winShare := rfl
@[simp] theorem coreMod_sinks (p : Nat) (g : Core → Core) : (coreMod p g s).sinks = s.sinks := rfl
@[simp] theorem coreMod_scrubAt (p : Nat) (g : Core → Core) : (coreMod p g s).scrubAt = s.scrubAt := rfl
@[simp] theorem coreMod_mem (p : Nat) (g : Core → Core) : (coreMod p g s).mem = s.mem := rfl
@[simp] theorem coreMod_memEpoch (p : Nat) (g : Core → Core) : (coreMod p g s).memEpoch = s.memEpoch := rfl
@[simp] theorem coreMod_lines (p : Nat) (g : Core → Core) : (coreMod p g s).lines = s.lines := rfl
@[simp] theorem coreMod_pools (p : Nat) (g : Core → Core) : (coreMod p g s).pools = s.pools := rfl
@[simp] theorem coreMod_byrQ (p : Nat) (g : Core → Core) : (coreMod p g s).byrQ = s.byrQ := rfl
@[simp] theorem coreMod_byrCmd (p : Nat) (g : Core → Core) : (coreMod p g s).byrCmd = s.byrCmd := rfl
@[simp] theorem coreMod_tlyShadow (p : Nat) (g : Core → Core) : (coreMod p g s).tlyShadow = s.tlyShadow := rfl
@[simp] theorem coreMod_connShadow (p : Nat) (g : Core → Core) : (coreMod p g s).connShadow = s.connShadow := rfl
@[simp] theorem coreMod_watches (p : Nat) (g : Core → Core) : (coreMod p g s).watches = s.watches := rfl
@[simp] theorem coreMod_folds (p : Nat) (g : Core → Core) : (coreMod p g s).folds = s.folds := rfl
@[simp] theorem coreMod_keys (p : Nat) (g : Core → Core) : (coreMod p g s).keys = s.keys := rfl
@[simp] theorem coreMod_ration (p : Nat) (g : Core → Core) : (coreMod p g s).ration = s.ration := rfl
@[simp] theorem coreMod_pmTry (p : Nat) (g : Core → Core) : (coreMod p g s).pmTry = s.pmTry := rfl
@[simp] theorem coreMod_pldmQ (p : Nat) (g : Core → Core) : (coreMod p g s).pldmQ = s.pldmQ := rfl
@[simp] theorem coreMod_mgmt (p : Nat) (g : Core → Core) : (coreMod p g s).mgmt = s.mgmt := rfl
@[simp] theorem coreMod_pwr (p : Nat) (g : Core → Core) : (coreMod p g s).pwr = s.pwr := rfl
@[simp] theorem coreMod_cfg (p : Nat) (g : Core → Core) : (coreMod p g s).cfg = s.cfg := rfl
@[simp] theorem coreMod_tap (p : Nat) (g : Core → Core) : (coreMod p g s).tap = s.tap := rfl
@[simp] theorem coreMod_mwins (p : Nat) (g : Core → Core) : (coreMod p g s).mwins = s.mwins := rfl
@[simp] theorem coreMod_openAt (p : Nat) (g : Core → Core) : (coreMod p g s).openAt = s.openAt := rfl
@[simp] theorem coreMod_whsLands (p : Nat) (g : Core → Core) : (coreMod p g s).whsLands = s.whsLands := rfl
@[simp] theorem coreMod_accWaits (p : Nat) (g : Core → Core) : (coreMod p g s).accWaits = s.accWaits := rfl
@[simp] theorem coreMod_formAt (p : Nat) (g : Core → Core) : (coreMod p g s).formAt = s.formAt := rfl
@[simp] theorem coreMod_admSeq (p : Nat) (g : Core → Core) : (coreMod p g s).admSeq = s.admSeq := rfl
@[simp] theorem coreMod_spMark (p : Nat) (g : Core → Core) : (coreMod p g s).spMark = s.spMark := rfl
@[simp] theorem coreMod_bellLate (p : Nat) (g : Core → Core) : (coreMod p g s).bellLate = s.bellLate := rfl
@[simp] theorem coreMod_pending (p : Nat) (g : Core → Core) : (coreMod p g s).pending = s.pending := rfl
@[simp] theorem rdW_coreMod (p : Nat) (g : Core → Core) (rb : Blk) (ri ro : Nat) : rdW (coreMod p g s) rb ri ro = rdW s rb ri ro := rfl
@[simp] theorem rd_coreMod (p : Nat) (g : Core → Core) (rf : Fld) (ri : Nat) : rd (coreMod p g s) rf ri = rd s rf ri := rfl
@[simp] theorem rdB_coreMod (p : Nat) (g : Core → Core) (rf : Fld) (ri : Nat) : rdB (coreMod p g s) rf ri = rdB s rf ri := rfl

/-! ### meshMod -/

@[simp] theorem meshMod_now (n : Nat) (g : MeshP → MeshP) : (meshMod n g s).now = s.now := rfl
@[simp] theorem meshMod_freeCtr (n : Nat) (g : MeshP → MeshP) : (meshMod n g s).freeCtr = s.freeCtr := rfl
@[simp] theorem meshMod_regs (n : Nat) (g : MeshP → MeshP) : (meshMod n g s).regs = s.regs := rfl
@[simp] theorem meshMod_bellPend (n : Nat) (g : MeshP → MeshP) : (meshMod n g s).bellPend = s.bellPend := rfl
@[simp] theorem meshMod_rearmPend (n : Nat) (g : MeshP → MeshP) : (meshMod n g s).rearmPend = s.rearmPend := rfl
@[simp] theorem meshMod_fixedDone (n : Nat) (g : MeshP → MeshP) : (meshMod n g s).fixedDone = s.fixedDone := rfl
@[simp] theorem meshMod_outbox (n : Nat) (g : MeshP → MeshP) : (meshMod n g s).outbox = s.outbox := rfl
@[simp] theorem meshMod_bellLock (n : Nat) (g : MeshP → MeshP) : (meshMod n g s).bellLock = s.bellLock := rfl
@[simp] theorem meshMod_aliveOut (n : Nat) (g : MeshP → MeshP) : (meshMod n g s).aliveOut = s.aliveOut := rfl
@[simp] theorem meshMod_bell (n : Nat) (g : MeshP → MeshP) : (meshMod n g s).bell = s.bell := rfl
@[simp] theorem meshMod_pdks (n : Nat) (g : MeshP → MeshP) : (meshMod n g s).pdks = s.pdks := rfl
@[simp] theorem meshMod_vfEnable (n : Nat) (g : MeshP → MeshP) : (meshMod n g s).vfEnable = s.vfEnable := rfl
@[simp] theorem meshMod_numVfs (n : Nat) (g : MeshP → MeshP) : (meshMod n g s).numVfs = s.numVfs := rfl
@[simp] theorem meshMod_fns (n : Nat) (g : MeshP → MeshP) : (meshMod n g s).fns = s.fns := rfl
@[simp] theorem meshMod_pfEvents (n : Nat) (g : MeshP → MeshP) : (meshMod n g s).pfEvents = s.pfEvents := rfl
@[simp] theorem meshMod_pfLost (n : Nat) (g : MeshP → MeshP) : (meshMod n g s).pfLost = s.pfLost := rfl
@[simp] theorem meshMod_fbk (n : Nat) (g : MeshP → MeshP) : (meshMod n g s).fbk = s.fbk := rfl
@[simp] theorem meshMod_cores (n : Nat) (g : MeshP → MeshP) : (meshMod n g s).cores = s.cores := rfl
@[simp] theorem meshMod_links (n : Nat) (g : MeshP → MeshP) : (meshMod n g s).links = s.links := rfl
@[simp] theorem meshMod_sp (n : Nat) (g : MeshP → MeshP) : (meshMod n g s).sp = s.sp := rfl
@[simp] theorem meshMod_spEpoch (n : Nat) (g : MeshP → MeshP) : (meshMod n g s).spEpoch = s.spEpoch := rfl
@[simp] theorem meshMod_imem (n : Nat) (g : MeshP → MeshP) : (meshMod n g s).imem = s.imem := rfl
@[simp] theorem meshMod_rslot (n : Nat) (g : MeshP → MeshP) : (meshMod n g s).rslot = s.rslot := rfl
@[simp] theorem meshMod_tile (n : Nat) (g : MeshP → MeshP) : (meshMod n g s).tile = s.tile := rfl
@[simp] theorem meshMod_acc (n : Nat) (g : MeshP → MeshP) : (meshMod n g s).acc = s.acc := rfl
@[simp] theorem meshMod_shadow (n : Nat) (g : MeshP → MeshP) : (meshMod n g s).shadow = s.shadow := rfl
@[simp] theorem meshMod_desc (n : Nat) (g : MeshP → MeshP) : (meshMod n g s).desc = s.desc := rfl
@[simp] theorem meshMod_frameChk (n : Nat) (g : MeshP → MeshP) : (meshMod n g s).frameChk = s.frameChk := rfl
@[simp] theorem meshMod_ht (n : Nat) (g : MeshP → MeshP) : (meshMod n g s).ht = s.ht := rfl
@[simp] theorem meshMod_wlkDue (n : Nat) (g : MeshP → MeshP) : (meshMod n g s).wlkDue = s.wlkDue := rfl
@[simp] theorem meshMod_walkers (n : Nat) (g : MeshP → MeshP) : (meshMod n g s).walkers = s.walkers := rfl
@[simp] theorem meshMod_wlkDone (n : Nat) (g : MeshP → MeshP) : (meshMod n g s).wlkDone = s.wlkDone := rfl
@[simp] theorem meshMod_mcores (n : Nat) (g : MeshP → MeshP) : (meshMod n g s).mcores = s.mcores := rfl
@[simp] theorem meshMod_mslice (n : Nat) (g : MeshP → MeshP) : (meshMod n g s).mslice = s.mslice := rfl
@[simp] theorem meshMod_mblast (n : Nat) (g : MeshP → MeshP) : (meshMod n g s).mblast = s.mblast := rfl
@[simp] theorem meshMod_repairs (n : Nat) (g : MeshP → MeshP) : (meshMod n g s).repairs = s.repairs := rfl
@[simp] theorem meshMod_ctxs (n : Nat) (g : MeshP → MeshP) : (meshMod n g s).ctxs = s.ctxs := rfl
@[simp] theorem meshMod_leaCyc (n : Nat) (g : MeshP → MeshP) : (meshMod n g s).leaCyc = s.leaCyc := rfl
@[simp] theorem meshMod_fab (n : Nat) (g : MeshP → MeshP) : (meshMod n g s).fab = s.fab := rfl
@[simp] theorem meshMod_tlyQ (n : Nat) (g : MeshP → MeshP) : (meshMod n g s).tlyQ = s.tlyQ := rfl
@[simp] theorem meshMod_tlyWaits (n : Nat) (g : MeshP → MeshP) : (meshMod n g s).tlyWaits = s.tlyWaits := rfl
@[simp] theorem meshMod_whsQ (n : Nat) (g : MeshP → MeshP) : (meshMod n g s).whsQ = s.whsQ := rfl
@[simp] theorem meshMod_sends (n : Nat) (g : MeshP → MeshP) : (meshMod n g s).sends = s.sends := rfl
@[simp] theorem meshMod_rqs (n : Nat) (g : MeshP → MeshP) : (meshMod n g s).rqs = s.rqs := rfl
@[simp] theorem meshMod_spills (n : Nat) (g : MeshP → MeshP) : (meshMod n g s).spills = s.spills := rfl
@[simp] theorem meshMod_opens (n : Nat) (g : MeshP → MeshP) : (meshMod n g s).opens = s.opens := rfl
@[simp] theorem meshMod_landings (n : Nat) (g : MeshP → MeshP) : (meshMod n g s).landings = s.landings := rfl
@[simp] theorem meshMod_connLt (n : Nat) (g : MeshP → MeshP) : (meshMod n g s).connLt = s.connLt := rfl
@[simp] theorem meshMod_sidNext (n : Nat) (g : MeshP → MeshP) : (meshMod n g s).sidNext = s.sidNext := rfl
@[simp] theorem meshMod_ltkQ (n : Nat) (g : MeshP → MeshP) : (meshMod n g s).ltkQ = s.ltkQ := rfl
@[simp] theorem meshMod_ltkPaths (n : Nat) (g : MeshP → MeshP) : (meshMod n g s).ltkPaths = s.ltkPaths := rfl
@[simp] theorem meshMod_ltkRoutes (n : Nat) (g : MeshP → MeshP) : (meshMod n g s).ltkRoutes = s.ltkRoutes := rfl
@[simp] theorem meshMod_ltkPause (n : Nat) (g : MeshP → MeshP) : (meshMod n g s).ltkPause = s.ltkPause := rfl
@[simp] theorem meshMod_ptpGood (n : Nat) (g : MeshP → MeshP) : (meshMod n g s).ptpGood = s.ptpGood := rfl
@[simp] theorem meshMod_held (n : Nat) (g : MeshP → MeshP) : (meshMod n g s).held = s.held := rfl
@[simp] theorem meshMod_hostEnts (n : Nat) (g : MeshP → MeshP) : (meshMod n g s).hostEnts = s.hostEnts := rfl
@[simp] theorem meshMod_hrings (n : Nat) (g : MeshP → MeshP) : (meshMod n g s).hrings = s.hrings := rfl
@[simp] theorem meshMod_hostNext (n : Nat) (g : MeshP → MeshP) : (meshMod n g s).hostNext = s.hostNext := rfl
@[simp] theorem meshMod_aer (n : Nat) (g : MeshP → MeshP) : (meshMod n g s).aer = s.aer := rfl
@[simp] theorem meshMod_tcache (n : Nat) (g : MeshP → MeshP) : (meshMod n g s).tcache = s.tcache := rfl
@[simp] theorem meshMod_fabCyc (n : Nat) (g : MeshP → MeshP) : (meshMod n g s).fabCyc = s.fabCyc := rfl
@[simp] theorem meshMod_used (n : Nat) (g : MeshP → MeshP) : (meshMod n g s).used = s.used := rfl
@[simp] theorem meshMod_slotAt (n : Nat) (g : MeshP → MeshP) : (meshMod n g s).slotAt = s.slotAt := rfl
@[simp] theorem meshMod_capNext (n : Nat) (g : MeshP → MeshP) : (meshMod n g s).capNext = s.capNext := rfl
@[simp] theorem meshMod_ats (n : Nat) (g : MeshP → MeshP) : (meshMod n g s).ats = s.ats := rfl
@[simp] theorem meshMod_pageReqs (n : Nat) (g : MeshP → MeshP) : (meshMod n g s).pageReqs = s.pageReqs := rfl
@[simp] theorem meshMod_prgNext (n : Nat) (g : MeshP → MeshP) : (meshMod n g s).prgNext = s.prgNext := rfl
@[simp] theorem meshMod_atsInv (n : Nat) (g : MeshP → MeshP) : (meshMod n g s).atsInv = s.atsInv := rfl
@[simp] theorem meshMod_atsEn (n : Nat) (g : MeshP → MeshP) : (meshMod n g s).atsEn = s.atsEn := rfl
@[simp] theorem meshMod_priEn (n : Nat) (g : MeshP → MeshP) : (meshMod n g s).priEn = s.priEn := rfl
@[simp] theorem meshMod_priAlloc (n : Nat) (g : MeshP → MeshP) : (meshMod n g s).priAlloc = s.priAlloc := rfl
@[simp] theorem meshMod_winShare (n : Nat) (g : MeshP → MeshP) : (meshMod n g s).winShare = s.winShare := rfl
@[simp] theorem meshMod_sinks (n : Nat) (g : MeshP → MeshP) : (meshMod n g s).sinks = s.sinks := rfl
@[simp] theorem meshMod_scrubAt (n : Nat) (g : MeshP → MeshP) : (meshMod n g s).scrubAt = s.scrubAt := rfl
@[simp] theorem meshMod_mem (n : Nat) (g : MeshP → MeshP) : (meshMod n g s).mem = s.mem := rfl
@[simp] theorem meshMod_memEpoch (n : Nat) (g : MeshP → MeshP) : (meshMod n g s).memEpoch = s.memEpoch := rfl
@[simp] theorem meshMod_lines (n : Nat) (g : MeshP → MeshP) : (meshMod n g s).lines = s.lines := rfl
@[simp] theorem meshMod_pools (n : Nat) (g : MeshP → MeshP) : (meshMod n g s).pools = s.pools := rfl
@[simp] theorem meshMod_byrQ (n : Nat) (g : MeshP → MeshP) : (meshMod n g s).byrQ = s.byrQ := rfl
@[simp] theorem meshMod_byrCmd (n : Nat) (g : MeshP → MeshP) : (meshMod n g s).byrCmd = s.byrCmd := rfl
@[simp] theorem meshMod_tlyShadow (n : Nat) (g : MeshP → MeshP) : (meshMod n g s).tlyShadow = s.tlyShadow := rfl
@[simp] theorem meshMod_connShadow (n : Nat) (g : MeshP → MeshP) : (meshMod n g s).connShadow = s.connShadow := rfl
@[simp] theorem meshMod_watches (n : Nat) (g : MeshP → MeshP) : (meshMod n g s).watches = s.watches := rfl
@[simp] theorem meshMod_folds (n : Nat) (g : MeshP → MeshP) : (meshMod n g s).folds = s.folds := rfl
@[simp] theorem meshMod_keys (n : Nat) (g : MeshP → MeshP) : (meshMod n g s).keys = s.keys := rfl
@[simp] theorem meshMod_ration (n : Nat) (g : MeshP → MeshP) : (meshMod n g s).ration = s.ration := rfl
@[simp] theorem meshMod_pmTry (n : Nat) (g : MeshP → MeshP) : (meshMod n g s).pmTry = s.pmTry := rfl
@[simp] theorem meshMod_pldmQ (n : Nat) (g : MeshP → MeshP) : (meshMod n g s).pldmQ = s.pldmQ := rfl
@[simp] theorem meshMod_mgmt (n : Nat) (g : MeshP → MeshP) : (meshMod n g s).mgmt = s.mgmt := rfl
@[simp] theorem meshMod_pwr (n : Nat) (g : MeshP → MeshP) : (meshMod n g s).pwr = s.pwr := rfl
@[simp] theorem meshMod_cfg (n : Nat) (g : MeshP → MeshP) : (meshMod n g s).cfg = s.cfg := rfl
@[simp] theorem meshMod_tap (n : Nat) (g : MeshP → MeshP) : (meshMod n g s).tap = s.tap := rfl
@[simp] theorem meshMod_mwins (n : Nat) (g : MeshP → MeshP) : (meshMod n g s).mwins = s.mwins := rfl
@[simp] theorem meshMod_openAt (n : Nat) (g : MeshP → MeshP) : (meshMod n g s).openAt = s.openAt := rfl
@[simp] theorem meshMod_whsLands (n : Nat) (g : MeshP → MeshP) : (meshMod n g s).whsLands = s.whsLands := rfl
@[simp] theorem meshMod_accWaits (n : Nat) (g : MeshP → MeshP) : (meshMod n g s).accWaits = s.accWaits := rfl
@[simp] theorem meshMod_formAt (n : Nat) (g : MeshP → MeshP) : (meshMod n g s).formAt = s.formAt := rfl
@[simp] theorem meshMod_admSeq (n : Nat) (g : MeshP → MeshP) : (meshMod n g s).admSeq = s.admSeq := rfl
@[simp] theorem meshMod_spMark (n : Nat) (g : MeshP → MeshP) : (meshMod n g s).spMark = s.spMark := rfl
@[simp] theorem meshMod_bellLate (n : Nat) (g : MeshP → MeshP) : (meshMod n g s).bellLate = s.bellLate := rfl
@[simp] theorem meshMod_pending (n : Nat) (g : MeshP → MeshP) : (meshMod n g s).pending = s.pending := rfl
@[simp] theorem rdW_meshMod (n : Nat) (g : MeshP → MeshP) (rb : Blk) (ri ro : Nat) : rdW (meshMod n g s) rb ri ro = rdW s rb ri ro := rfl
@[simp] theorem rd_meshMod (n : Nat) (g : MeshP → MeshP) (rf : Fld) (ri : Nat) : rd (meshMod n g s) rf ri = rd s rf ri := rfl
@[simp] theorem rdB_meshMod (n : Nat) (g : MeshP → MeshP) (rf : Fld) (ri : Nat) : rdB (meshMod n g s) rf ri = rdB s rf ri := rfl

/-! ### ctxMod -/

@[simp] theorem ctxMod_now (g : Nat) (h : Ctx → Ctx) : (ctxMod g h s).now = s.now := rfl
@[simp] theorem ctxMod_freeCtr (g : Nat) (h : Ctx → Ctx) : (ctxMod g h s).freeCtr = s.freeCtr := rfl
@[simp] theorem ctxMod_regs (g : Nat) (h : Ctx → Ctx) : (ctxMod g h s).regs = s.regs := rfl
@[simp] theorem ctxMod_bellPend (g : Nat) (h : Ctx → Ctx) : (ctxMod g h s).bellPend = s.bellPend := rfl
@[simp] theorem ctxMod_rearmPend (g : Nat) (h : Ctx → Ctx) : (ctxMod g h s).rearmPend = s.rearmPend := rfl
@[simp] theorem ctxMod_fixedDone (g : Nat) (h : Ctx → Ctx) : (ctxMod g h s).fixedDone = s.fixedDone := rfl
@[simp] theorem ctxMod_outbox (g : Nat) (h : Ctx → Ctx) : (ctxMod g h s).outbox = s.outbox := rfl
@[simp] theorem ctxMod_bellLock (g : Nat) (h : Ctx → Ctx) : (ctxMod g h s).bellLock = s.bellLock := rfl
@[simp] theorem ctxMod_aliveOut (g : Nat) (h : Ctx → Ctx) : (ctxMod g h s).aliveOut = s.aliveOut := rfl
@[simp] theorem ctxMod_bell (g : Nat) (h : Ctx → Ctx) : (ctxMod g h s).bell = s.bell := rfl
@[simp] theorem ctxMod_pdks (g : Nat) (h : Ctx → Ctx) : (ctxMod g h s).pdks = s.pdks := rfl
@[simp] theorem ctxMod_vfEnable (g : Nat) (h : Ctx → Ctx) : (ctxMod g h s).vfEnable = s.vfEnable := rfl
@[simp] theorem ctxMod_numVfs (g : Nat) (h : Ctx → Ctx) : (ctxMod g h s).numVfs = s.numVfs := rfl
@[simp] theorem ctxMod_fns (g : Nat) (h : Ctx → Ctx) : (ctxMod g h s).fns = s.fns := rfl
@[simp] theorem ctxMod_pfEvents (g : Nat) (h : Ctx → Ctx) : (ctxMod g h s).pfEvents = s.pfEvents := rfl
@[simp] theorem ctxMod_pfLost (g : Nat) (h : Ctx → Ctx) : (ctxMod g h s).pfLost = s.pfLost := rfl
@[simp] theorem ctxMod_fbk (g : Nat) (h : Ctx → Ctx) : (ctxMod g h s).fbk = s.fbk := rfl
@[simp] theorem ctxMod_cores (g : Nat) (h : Ctx → Ctx) : (ctxMod g h s).cores = s.cores := rfl
@[simp] theorem ctxMod_meshes (g : Nat) (h : Ctx → Ctx) : (ctxMod g h s).meshes = s.meshes := rfl
@[simp] theorem ctxMod_links (g : Nat) (h : Ctx → Ctx) : (ctxMod g h s).links = s.links := rfl
@[simp] theorem ctxMod_sp (g : Nat) (h : Ctx → Ctx) : (ctxMod g h s).sp = s.sp := rfl
@[simp] theorem ctxMod_spEpoch (g : Nat) (h : Ctx → Ctx) : (ctxMod g h s).spEpoch = s.spEpoch := rfl
@[simp] theorem ctxMod_imem (g : Nat) (h : Ctx → Ctx) : (ctxMod g h s).imem = s.imem := rfl
@[simp] theorem ctxMod_rslot (g : Nat) (h : Ctx → Ctx) : (ctxMod g h s).rslot = s.rslot := rfl
@[simp] theorem ctxMod_tile (g : Nat) (h : Ctx → Ctx) : (ctxMod g h s).tile = s.tile := rfl
@[simp] theorem ctxMod_acc (g : Nat) (h : Ctx → Ctx) : (ctxMod g h s).acc = s.acc := rfl
@[simp] theorem ctxMod_shadow (g : Nat) (h : Ctx → Ctx) : (ctxMod g h s).shadow = s.shadow := rfl
@[simp] theorem ctxMod_desc (g : Nat) (h : Ctx → Ctx) : (ctxMod g h s).desc = s.desc := rfl
@[simp] theorem ctxMod_frameChk (g : Nat) (h : Ctx → Ctx) : (ctxMod g h s).frameChk = s.frameChk := rfl
@[simp] theorem ctxMod_ht (g : Nat) (h : Ctx → Ctx) : (ctxMod g h s).ht = s.ht := rfl
@[simp] theorem ctxMod_wlkDue (g : Nat) (h : Ctx → Ctx) : (ctxMod g h s).wlkDue = s.wlkDue := rfl
@[simp] theorem ctxMod_walkers (g : Nat) (h : Ctx → Ctx) : (ctxMod g h s).walkers = s.walkers := rfl
@[simp] theorem ctxMod_wlkDone (g : Nat) (h : Ctx → Ctx) : (ctxMod g h s).wlkDone = s.wlkDone := rfl
@[simp] theorem ctxMod_mcores (g : Nat) (h : Ctx → Ctx) : (ctxMod g h s).mcores = s.mcores := rfl
@[simp] theorem ctxMod_mslice (g : Nat) (h : Ctx → Ctx) : (ctxMod g h s).mslice = s.mslice := rfl
@[simp] theorem ctxMod_mblast (g : Nat) (h : Ctx → Ctx) : (ctxMod g h s).mblast = s.mblast := rfl
@[simp] theorem ctxMod_repairs (g : Nat) (h : Ctx → Ctx) : (ctxMod g h s).repairs = s.repairs := rfl
@[simp] theorem ctxMod_leaCyc (g : Nat) (h : Ctx → Ctx) : (ctxMod g h s).leaCyc = s.leaCyc := rfl
@[simp] theorem ctxMod_fab (g : Nat) (h : Ctx → Ctx) : (ctxMod g h s).fab = s.fab := rfl
@[simp] theorem ctxMod_tlyQ (g : Nat) (h : Ctx → Ctx) : (ctxMod g h s).tlyQ = s.tlyQ := rfl
@[simp] theorem ctxMod_tlyWaits (g : Nat) (h : Ctx → Ctx) : (ctxMod g h s).tlyWaits = s.tlyWaits := rfl
@[simp] theorem ctxMod_whsQ (g : Nat) (h : Ctx → Ctx) : (ctxMod g h s).whsQ = s.whsQ := rfl
@[simp] theorem ctxMod_sends (g : Nat) (h : Ctx → Ctx) : (ctxMod g h s).sends = s.sends := rfl
@[simp] theorem ctxMod_rqs (g : Nat) (h : Ctx → Ctx) : (ctxMod g h s).rqs = s.rqs := rfl
@[simp] theorem ctxMod_spills (g : Nat) (h : Ctx → Ctx) : (ctxMod g h s).spills = s.spills := rfl
@[simp] theorem ctxMod_opens (g : Nat) (h : Ctx → Ctx) : (ctxMod g h s).opens = s.opens := rfl
@[simp] theorem ctxMod_landings (g : Nat) (h : Ctx → Ctx) : (ctxMod g h s).landings = s.landings := rfl
@[simp] theorem ctxMod_connLt (g : Nat) (h : Ctx → Ctx) : (ctxMod g h s).connLt = s.connLt := rfl
@[simp] theorem ctxMod_sidNext (g : Nat) (h : Ctx → Ctx) : (ctxMod g h s).sidNext = s.sidNext := rfl
@[simp] theorem ctxMod_ltkQ (g : Nat) (h : Ctx → Ctx) : (ctxMod g h s).ltkQ = s.ltkQ := rfl
@[simp] theorem ctxMod_ltkPaths (g : Nat) (h : Ctx → Ctx) : (ctxMod g h s).ltkPaths = s.ltkPaths := rfl
@[simp] theorem ctxMod_ltkRoutes (g : Nat) (h : Ctx → Ctx) : (ctxMod g h s).ltkRoutes = s.ltkRoutes := rfl
@[simp] theorem ctxMod_ltkPause (g : Nat) (h : Ctx → Ctx) : (ctxMod g h s).ltkPause = s.ltkPause := rfl
@[simp] theorem ctxMod_ptpGood (g : Nat) (h : Ctx → Ctx) : (ctxMod g h s).ptpGood = s.ptpGood := rfl
@[simp] theorem ctxMod_held (g : Nat) (h : Ctx → Ctx) : (ctxMod g h s).held = s.held := rfl
@[simp] theorem ctxMod_hostEnts (g : Nat) (h : Ctx → Ctx) : (ctxMod g h s).hostEnts = s.hostEnts := rfl
@[simp] theorem ctxMod_hrings (g : Nat) (h : Ctx → Ctx) : (ctxMod g h s).hrings = s.hrings := rfl
@[simp] theorem ctxMod_hostNext (g : Nat) (h : Ctx → Ctx) : (ctxMod g h s).hostNext = s.hostNext := rfl
@[simp] theorem ctxMod_aer (g : Nat) (h : Ctx → Ctx) : (ctxMod g h s).aer = s.aer := rfl
@[simp] theorem ctxMod_tcache (g : Nat) (h : Ctx → Ctx) : (ctxMod g h s).tcache = s.tcache := rfl
@[simp] theorem ctxMod_fabCyc (g : Nat) (h : Ctx → Ctx) : (ctxMod g h s).fabCyc = s.fabCyc := rfl
@[simp] theorem ctxMod_used (g : Nat) (h : Ctx → Ctx) : (ctxMod g h s).used = s.used := rfl
@[simp] theorem ctxMod_slotAt (g : Nat) (h : Ctx → Ctx) : (ctxMod g h s).slotAt = s.slotAt := rfl
@[simp] theorem ctxMod_capNext (g : Nat) (h : Ctx → Ctx) : (ctxMod g h s).capNext = s.capNext := rfl
@[simp] theorem ctxMod_ats (g : Nat) (h : Ctx → Ctx) : (ctxMod g h s).ats = s.ats := rfl
@[simp] theorem ctxMod_pageReqs (g : Nat) (h : Ctx → Ctx) : (ctxMod g h s).pageReqs = s.pageReqs := rfl
@[simp] theorem ctxMod_prgNext (g : Nat) (h : Ctx → Ctx) : (ctxMod g h s).prgNext = s.prgNext := rfl
@[simp] theorem ctxMod_atsInv (g : Nat) (h : Ctx → Ctx) : (ctxMod g h s).atsInv = s.atsInv := rfl
@[simp] theorem ctxMod_atsEn (g : Nat) (h : Ctx → Ctx) : (ctxMod g h s).atsEn = s.atsEn := rfl
@[simp] theorem ctxMod_priEn (g : Nat) (h : Ctx → Ctx) : (ctxMod g h s).priEn = s.priEn := rfl
@[simp] theorem ctxMod_priAlloc (g : Nat) (h : Ctx → Ctx) : (ctxMod g h s).priAlloc = s.priAlloc := rfl
@[simp] theorem ctxMod_winShare (g : Nat) (h : Ctx → Ctx) : (ctxMod g h s).winShare = s.winShare := rfl
@[simp] theorem ctxMod_sinks (g : Nat) (h : Ctx → Ctx) : (ctxMod g h s).sinks = s.sinks := rfl
@[simp] theorem ctxMod_scrubAt (g : Nat) (h : Ctx → Ctx) : (ctxMod g h s).scrubAt = s.scrubAt := rfl
@[simp] theorem ctxMod_mem (g : Nat) (h : Ctx → Ctx) : (ctxMod g h s).mem = s.mem := rfl
@[simp] theorem ctxMod_memEpoch (g : Nat) (h : Ctx → Ctx) : (ctxMod g h s).memEpoch = s.memEpoch := rfl
@[simp] theorem ctxMod_lines (g : Nat) (h : Ctx → Ctx) : (ctxMod g h s).lines = s.lines := rfl
@[simp] theorem ctxMod_pools (g : Nat) (h : Ctx → Ctx) : (ctxMod g h s).pools = s.pools := rfl
@[simp] theorem ctxMod_byrQ (g : Nat) (h : Ctx → Ctx) : (ctxMod g h s).byrQ = s.byrQ := rfl
@[simp] theorem ctxMod_byrCmd (g : Nat) (h : Ctx → Ctx) : (ctxMod g h s).byrCmd = s.byrCmd := rfl
@[simp] theorem ctxMod_tlyShadow (g : Nat) (h : Ctx → Ctx) : (ctxMod g h s).tlyShadow = s.tlyShadow := rfl
@[simp] theorem ctxMod_connShadow (g : Nat) (h : Ctx → Ctx) : (ctxMod g h s).connShadow = s.connShadow := rfl
@[simp] theorem ctxMod_watches (g : Nat) (h : Ctx → Ctx) : (ctxMod g h s).watches = s.watches := rfl
@[simp] theorem ctxMod_folds (g : Nat) (h : Ctx → Ctx) : (ctxMod g h s).folds = s.folds := rfl
@[simp] theorem ctxMod_keys (g : Nat) (h : Ctx → Ctx) : (ctxMod g h s).keys = s.keys := rfl
@[simp] theorem ctxMod_ration (g : Nat) (h : Ctx → Ctx) : (ctxMod g h s).ration = s.ration := rfl
@[simp] theorem ctxMod_pmTry (g : Nat) (h : Ctx → Ctx) : (ctxMod g h s).pmTry = s.pmTry := rfl
@[simp] theorem ctxMod_pldmQ (g : Nat) (h : Ctx → Ctx) : (ctxMod g h s).pldmQ = s.pldmQ := rfl
@[simp] theorem ctxMod_mgmt (g : Nat) (h : Ctx → Ctx) : (ctxMod g h s).mgmt = s.mgmt := rfl
@[simp] theorem ctxMod_pwr (g : Nat) (h : Ctx → Ctx) : (ctxMod g h s).pwr = s.pwr := rfl
@[simp] theorem ctxMod_cfg (g : Nat) (h : Ctx → Ctx) : (ctxMod g h s).cfg = s.cfg := rfl
@[simp] theorem ctxMod_tap (g : Nat) (h : Ctx → Ctx) : (ctxMod g h s).tap = s.tap := rfl
@[simp] theorem ctxMod_mwins (g : Nat) (h : Ctx → Ctx) : (ctxMod g h s).mwins = s.mwins := rfl
@[simp] theorem ctxMod_openAt (g : Nat) (h : Ctx → Ctx) : (ctxMod g h s).openAt = s.openAt := rfl
@[simp] theorem ctxMod_whsLands (g : Nat) (h : Ctx → Ctx) : (ctxMod g h s).whsLands = s.whsLands := rfl
@[simp] theorem ctxMod_accWaits (g : Nat) (h : Ctx → Ctx) : (ctxMod g h s).accWaits = s.accWaits := rfl
@[simp] theorem ctxMod_formAt (g : Nat) (h : Ctx → Ctx) : (ctxMod g h s).formAt = s.formAt := rfl
@[simp] theorem ctxMod_admSeq (g : Nat) (h : Ctx → Ctx) : (ctxMod g h s).admSeq = s.admSeq := rfl
@[simp] theorem ctxMod_spMark (g : Nat) (h : Ctx → Ctx) : (ctxMod g h s).spMark = s.spMark := rfl
@[simp] theorem ctxMod_bellLate (g : Nat) (h : Ctx → Ctx) : (ctxMod g h s).bellLate = s.bellLate := rfl
@[simp] theorem ctxMod_pending (g : Nat) (h : Ctx → Ctx) : (ctxMod g h s).pending = s.pending := rfl
@[simp] theorem rdW_ctxMod (g : Nat) (h : Ctx → Ctx) (rb : Blk) (ri ro : Nat) : rdW (ctxMod g h s) rb ri ro = rdW s rb ri ro := rfl
@[simp] theorem rd_ctxMod (g : Nat) (h : Ctx → Ctx) (rf : Fld) (ri : Nat) : rd (ctxMod g h s) rf ri = rd s rf ri := rfl
@[simp] theorem rdB_ctxMod (g : Nat) (h : Ctx → Ctx) (rf : Fld) (ri : Nat) : rdB (ctxMod g h s) rf ri = rdB s rf ri := rfl

/-! ### fbkMod -/

@[simp] theorem fbkMod_now (g : Fbk → Fbk) : (fbkMod g s).now = s.now := rfl
@[simp] theorem fbkMod_freeCtr (g : Fbk → Fbk) : (fbkMod g s).freeCtr = s.freeCtr := rfl
@[simp] theorem fbkMod_regs (g : Fbk → Fbk) : (fbkMod g s).regs = s.regs := rfl
@[simp] theorem fbkMod_bellPend (g : Fbk → Fbk) : (fbkMod g s).bellPend = s.bellPend := rfl
@[simp] theorem fbkMod_rearmPend (g : Fbk → Fbk) : (fbkMod g s).rearmPend = s.rearmPend := rfl
@[simp] theorem fbkMod_fixedDone (g : Fbk → Fbk) : (fbkMod g s).fixedDone = s.fixedDone := rfl
@[simp] theorem fbkMod_outbox (g : Fbk → Fbk) : (fbkMod g s).outbox = s.outbox := rfl
@[simp] theorem fbkMod_bellLock (g : Fbk → Fbk) : (fbkMod g s).bellLock = s.bellLock := rfl
@[simp] theorem fbkMod_aliveOut (g : Fbk → Fbk) : (fbkMod g s).aliveOut = s.aliveOut := rfl
@[simp] theorem fbkMod_bell (g : Fbk → Fbk) : (fbkMod g s).bell = s.bell := rfl
@[simp] theorem fbkMod_pdks (g : Fbk → Fbk) : (fbkMod g s).pdks = s.pdks := rfl
@[simp] theorem fbkMod_vfEnable (g : Fbk → Fbk) : (fbkMod g s).vfEnable = s.vfEnable := rfl
@[simp] theorem fbkMod_numVfs (g : Fbk → Fbk) : (fbkMod g s).numVfs = s.numVfs := rfl
@[simp] theorem fbkMod_fns (g : Fbk → Fbk) : (fbkMod g s).fns = s.fns := rfl
@[simp] theorem fbkMod_pfEvents (g : Fbk → Fbk) : (fbkMod g s).pfEvents = s.pfEvents := rfl
@[simp] theorem fbkMod_pfLost (g : Fbk → Fbk) : (fbkMod g s).pfLost = s.pfLost := rfl
@[simp] theorem fbkMod_cores (g : Fbk → Fbk) : (fbkMod g s).cores = s.cores := rfl
@[simp] theorem fbkMod_meshes (g : Fbk → Fbk) : (fbkMod g s).meshes = s.meshes := rfl
@[simp] theorem fbkMod_links (g : Fbk → Fbk) : (fbkMod g s).links = s.links := rfl
@[simp] theorem fbkMod_sp (g : Fbk → Fbk) : (fbkMod g s).sp = s.sp := rfl
@[simp] theorem fbkMod_spEpoch (g : Fbk → Fbk) : (fbkMod g s).spEpoch = s.spEpoch := rfl
@[simp] theorem fbkMod_imem (g : Fbk → Fbk) : (fbkMod g s).imem = s.imem := rfl
@[simp] theorem fbkMod_rslot (g : Fbk → Fbk) : (fbkMod g s).rslot = s.rslot := rfl
@[simp] theorem fbkMod_tile (g : Fbk → Fbk) : (fbkMod g s).tile = s.tile := rfl
@[simp] theorem fbkMod_acc (g : Fbk → Fbk) : (fbkMod g s).acc = s.acc := rfl
@[simp] theorem fbkMod_shadow (g : Fbk → Fbk) : (fbkMod g s).shadow = s.shadow := rfl
@[simp] theorem fbkMod_desc (g : Fbk → Fbk) : (fbkMod g s).desc = s.desc := rfl
@[simp] theorem fbkMod_frameChk (g : Fbk → Fbk) : (fbkMod g s).frameChk = s.frameChk := rfl
@[simp] theorem fbkMod_ht (g : Fbk → Fbk) : (fbkMod g s).ht = s.ht := rfl
@[simp] theorem fbkMod_wlkDue (g : Fbk → Fbk) : (fbkMod g s).wlkDue = s.wlkDue := rfl
@[simp] theorem fbkMod_walkers (g : Fbk → Fbk) : (fbkMod g s).walkers = s.walkers := rfl
@[simp] theorem fbkMod_wlkDone (g : Fbk → Fbk) : (fbkMod g s).wlkDone = s.wlkDone := rfl
@[simp] theorem fbkMod_mcores (g : Fbk → Fbk) : (fbkMod g s).mcores = s.mcores := rfl
@[simp] theorem fbkMod_mslice (g : Fbk → Fbk) : (fbkMod g s).mslice = s.mslice := rfl
@[simp] theorem fbkMod_mblast (g : Fbk → Fbk) : (fbkMod g s).mblast = s.mblast := rfl
@[simp] theorem fbkMod_repairs (g : Fbk → Fbk) : (fbkMod g s).repairs = s.repairs := rfl
@[simp] theorem fbkMod_ctxs (g : Fbk → Fbk) : (fbkMod g s).ctxs = s.ctxs := rfl
@[simp] theorem fbkMod_leaCyc (g : Fbk → Fbk) : (fbkMod g s).leaCyc = s.leaCyc := rfl
@[simp] theorem fbkMod_fab (g : Fbk → Fbk) : (fbkMod g s).fab = s.fab := rfl
@[simp] theorem fbkMod_tlyQ (g : Fbk → Fbk) : (fbkMod g s).tlyQ = s.tlyQ := rfl
@[simp] theorem fbkMod_tlyWaits (g : Fbk → Fbk) : (fbkMod g s).tlyWaits = s.tlyWaits := rfl
@[simp] theorem fbkMod_whsQ (g : Fbk → Fbk) : (fbkMod g s).whsQ = s.whsQ := rfl
@[simp] theorem fbkMod_sends (g : Fbk → Fbk) : (fbkMod g s).sends = s.sends := rfl
@[simp] theorem fbkMod_rqs (g : Fbk → Fbk) : (fbkMod g s).rqs = s.rqs := rfl
@[simp] theorem fbkMod_spills (g : Fbk → Fbk) : (fbkMod g s).spills = s.spills := rfl
@[simp] theorem fbkMod_opens (g : Fbk → Fbk) : (fbkMod g s).opens = s.opens := rfl
@[simp] theorem fbkMod_landings (g : Fbk → Fbk) : (fbkMod g s).landings = s.landings := rfl
@[simp] theorem fbkMod_connLt (g : Fbk → Fbk) : (fbkMod g s).connLt = s.connLt := rfl
@[simp] theorem fbkMod_sidNext (g : Fbk → Fbk) : (fbkMod g s).sidNext = s.sidNext := rfl
@[simp] theorem fbkMod_ltkQ (g : Fbk → Fbk) : (fbkMod g s).ltkQ = s.ltkQ := rfl
@[simp] theorem fbkMod_ltkPaths (g : Fbk → Fbk) : (fbkMod g s).ltkPaths = s.ltkPaths := rfl
@[simp] theorem fbkMod_ltkRoutes (g : Fbk → Fbk) : (fbkMod g s).ltkRoutes = s.ltkRoutes := rfl
@[simp] theorem fbkMod_ltkPause (g : Fbk → Fbk) : (fbkMod g s).ltkPause = s.ltkPause := rfl
@[simp] theorem fbkMod_ptpGood (g : Fbk → Fbk) : (fbkMod g s).ptpGood = s.ptpGood := rfl
@[simp] theorem fbkMod_held (g : Fbk → Fbk) : (fbkMod g s).held = s.held := rfl
@[simp] theorem fbkMod_hostEnts (g : Fbk → Fbk) : (fbkMod g s).hostEnts = s.hostEnts := rfl
@[simp] theorem fbkMod_hrings (g : Fbk → Fbk) : (fbkMod g s).hrings = s.hrings := rfl
@[simp] theorem fbkMod_hostNext (g : Fbk → Fbk) : (fbkMod g s).hostNext = s.hostNext := rfl
@[simp] theorem fbkMod_aer (g : Fbk → Fbk) : (fbkMod g s).aer = s.aer := rfl
@[simp] theorem fbkMod_tcache (g : Fbk → Fbk) : (fbkMod g s).tcache = s.tcache := rfl
@[simp] theorem fbkMod_fabCyc (g : Fbk → Fbk) : (fbkMod g s).fabCyc = s.fabCyc := rfl
@[simp] theorem fbkMod_used (g : Fbk → Fbk) : (fbkMod g s).used = s.used := rfl
@[simp] theorem fbkMod_slotAt (g : Fbk → Fbk) : (fbkMod g s).slotAt = s.slotAt := rfl
@[simp] theorem fbkMod_capNext (g : Fbk → Fbk) : (fbkMod g s).capNext = s.capNext := rfl
@[simp] theorem fbkMod_ats (g : Fbk → Fbk) : (fbkMod g s).ats = s.ats := rfl
@[simp] theorem fbkMod_pageReqs (g : Fbk → Fbk) : (fbkMod g s).pageReqs = s.pageReqs := rfl
@[simp] theorem fbkMod_prgNext (g : Fbk → Fbk) : (fbkMod g s).prgNext = s.prgNext := rfl
@[simp] theorem fbkMod_atsInv (g : Fbk → Fbk) : (fbkMod g s).atsInv = s.atsInv := rfl
@[simp] theorem fbkMod_atsEn (g : Fbk → Fbk) : (fbkMod g s).atsEn = s.atsEn := rfl
@[simp] theorem fbkMod_priEn (g : Fbk → Fbk) : (fbkMod g s).priEn = s.priEn := rfl
@[simp] theorem fbkMod_priAlloc (g : Fbk → Fbk) : (fbkMod g s).priAlloc = s.priAlloc := rfl
@[simp] theorem fbkMod_winShare (g : Fbk → Fbk) : (fbkMod g s).winShare = s.winShare := rfl
@[simp] theorem fbkMod_sinks (g : Fbk → Fbk) : (fbkMod g s).sinks = s.sinks := rfl
@[simp] theorem fbkMod_scrubAt (g : Fbk → Fbk) : (fbkMod g s).scrubAt = s.scrubAt := rfl
@[simp] theorem fbkMod_mem (g : Fbk → Fbk) : (fbkMod g s).mem = s.mem := rfl
@[simp] theorem fbkMod_memEpoch (g : Fbk → Fbk) : (fbkMod g s).memEpoch = s.memEpoch := rfl
@[simp] theorem fbkMod_lines (g : Fbk → Fbk) : (fbkMod g s).lines = s.lines := rfl
@[simp] theorem fbkMod_pools (g : Fbk → Fbk) : (fbkMod g s).pools = s.pools := rfl
@[simp] theorem fbkMod_byrQ (g : Fbk → Fbk) : (fbkMod g s).byrQ = s.byrQ := rfl
@[simp] theorem fbkMod_byrCmd (g : Fbk → Fbk) : (fbkMod g s).byrCmd = s.byrCmd := rfl
@[simp] theorem fbkMod_tlyShadow (g : Fbk → Fbk) : (fbkMod g s).tlyShadow = s.tlyShadow := rfl
@[simp] theorem fbkMod_connShadow (g : Fbk → Fbk) : (fbkMod g s).connShadow = s.connShadow := rfl
@[simp] theorem fbkMod_watches (g : Fbk → Fbk) : (fbkMod g s).watches = s.watches := rfl
@[simp] theorem fbkMod_folds (g : Fbk → Fbk) : (fbkMod g s).folds = s.folds := rfl
@[simp] theorem fbkMod_keys (g : Fbk → Fbk) : (fbkMod g s).keys = s.keys := rfl
@[simp] theorem fbkMod_ration (g : Fbk → Fbk) : (fbkMod g s).ration = s.ration := rfl
@[simp] theorem fbkMod_pmTry (g : Fbk → Fbk) : (fbkMod g s).pmTry = s.pmTry := rfl
@[simp] theorem fbkMod_pldmQ (g : Fbk → Fbk) : (fbkMod g s).pldmQ = s.pldmQ := rfl
@[simp] theorem fbkMod_mgmt (g : Fbk → Fbk) : (fbkMod g s).mgmt = s.mgmt := rfl
@[simp] theorem fbkMod_pwr (g : Fbk → Fbk) : (fbkMod g s).pwr = s.pwr := rfl
@[simp] theorem fbkMod_cfg (g : Fbk → Fbk) : (fbkMod g s).cfg = s.cfg := rfl
@[simp] theorem fbkMod_tap (g : Fbk → Fbk) : (fbkMod g s).tap = s.tap := rfl
@[simp] theorem fbkMod_mwins (g : Fbk → Fbk) : (fbkMod g s).mwins = s.mwins := rfl
@[simp] theorem fbkMod_openAt (g : Fbk → Fbk) : (fbkMod g s).openAt = s.openAt := rfl
@[simp] theorem fbkMod_whsLands (g : Fbk → Fbk) : (fbkMod g s).whsLands = s.whsLands := rfl
@[simp] theorem fbkMod_accWaits (g : Fbk → Fbk) : (fbkMod g s).accWaits = s.accWaits := rfl
@[simp] theorem fbkMod_formAt (g : Fbk → Fbk) : (fbkMod g s).formAt = s.formAt := rfl
@[simp] theorem fbkMod_admSeq (g : Fbk → Fbk) : (fbkMod g s).admSeq = s.admSeq := rfl
@[simp] theorem fbkMod_spMark (g : Fbk → Fbk) : (fbkMod g s).spMark = s.spMark := rfl
@[simp] theorem fbkMod_bellLate (g : Fbk → Fbk) : (fbkMod g s).bellLate = s.bellLate := rfl
@[simp] theorem fbkMod_pending (g : Fbk → Fbk) : (fbkMod g s).pending = s.pending := rfl
@[simp] theorem rdW_fbkMod (g : Fbk → Fbk) (rb : Blk) (ri ro : Nat) : rdW (fbkMod g s) rb ri ro = rdW s rb ri ro := rfl
@[simp] theorem rd_fbkMod (g : Fbk → Fbk) (rf : Fld) (ri : Nat) : rd (fbkMod g s) rf ri = rd s rf ri := rfl
@[simp] theorem rdB_fbkMod (g : Fbk → Fbk) (rf : Fld) (ri : Nat) : rdB (fbkMod g s) rf ri = rdB s rf ri := rfl

/-! ### ratMod -/

@[simp] theorem ratMod_now (g : Ration → Ration) : (ratMod g s).now = s.now := rfl
@[simp] theorem ratMod_freeCtr (g : Ration → Ration) : (ratMod g s).freeCtr = s.freeCtr := rfl
@[simp] theorem ratMod_regs (g : Ration → Ration) : (ratMod g s).regs = s.regs := rfl
@[simp] theorem ratMod_bellPend (g : Ration → Ration) : (ratMod g s).bellPend = s.bellPend := rfl
@[simp] theorem ratMod_rearmPend (g : Ration → Ration) : (ratMod g s).rearmPend = s.rearmPend := rfl
@[simp] theorem ratMod_fixedDone (g : Ration → Ration) : (ratMod g s).fixedDone = s.fixedDone := rfl
@[simp] theorem ratMod_outbox (g : Ration → Ration) : (ratMod g s).outbox = s.outbox := rfl
@[simp] theorem ratMod_bellLock (g : Ration → Ration) : (ratMod g s).bellLock = s.bellLock := rfl
@[simp] theorem ratMod_aliveOut (g : Ration → Ration) : (ratMod g s).aliveOut = s.aliveOut := rfl
@[simp] theorem ratMod_bell (g : Ration → Ration) : (ratMod g s).bell = s.bell := rfl
@[simp] theorem ratMod_pdks (g : Ration → Ration) : (ratMod g s).pdks = s.pdks := rfl
@[simp] theorem ratMod_vfEnable (g : Ration → Ration) : (ratMod g s).vfEnable = s.vfEnable := rfl
@[simp] theorem ratMod_numVfs (g : Ration → Ration) : (ratMod g s).numVfs = s.numVfs := rfl
@[simp] theorem ratMod_fns (g : Ration → Ration) : (ratMod g s).fns = s.fns := rfl
@[simp] theorem ratMod_pfEvents (g : Ration → Ration) : (ratMod g s).pfEvents = s.pfEvents := rfl
@[simp] theorem ratMod_pfLost (g : Ration → Ration) : (ratMod g s).pfLost = s.pfLost := rfl
@[simp] theorem ratMod_fbk (g : Ration → Ration) : (ratMod g s).fbk = s.fbk := rfl
@[simp] theorem ratMod_cores (g : Ration → Ration) : (ratMod g s).cores = s.cores := rfl
@[simp] theorem ratMod_meshes (g : Ration → Ration) : (ratMod g s).meshes = s.meshes := rfl
@[simp] theorem ratMod_links (g : Ration → Ration) : (ratMod g s).links = s.links := rfl
@[simp] theorem ratMod_sp (g : Ration → Ration) : (ratMod g s).sp = s.sp := rfl
@[simp] theorem ratMod_spEpoch (g : Ration → Ration) : (ratMod g s).spEpoch = s.spEpoch := rfl
@[simp] theorem ratMod_imem (g : Ration → Ration) : (ratMod g s).imem = s.imem := rfl
@[simp] theorem ratMod_rslot (g : Ration → Ration) : (ratMod g s).rslot = s.rslot := rfl
@[simp] theorem ratMod_tile (g : Ration → Ration) : (ratMod g s).tile = s.tile := rfl
@[simp] theorem ratMod_acc (g : Ration → Ration) : (ratMod g s).acc = s.acc := rfl
@[simp] theorem ratMod_shadow (g : Ration → Ration) : (ratMod g s).shadow = s.shadow := rfl
@[simp] theorem ratMod_desc (g : Ration → Ration) : (ratMod g s).desc = s.desc := rfl
@[simp] theorem ratMod_frameChk (g : Ration → Ration) : (ratMod g s).frameChk = s.frameChk := rfl
@[simp] theorem ratMod_ht (g : Ration → Ration) : (ratMod g s).ht = s.ht := rfl
@[simp] theorem ratMod_wlkDue (g : Ration → Ration) : (ratMod g s).wlkDue = s.wlkDue := rfl
@[simp] theorem ratMod_walkers (g : Ration → Ration) : (ratMod g s).walkers = s.walkers := rfl
@[simp] theorem ratMod_wlkDone (g : Ration → Ration) : (ratMod g s).wlkDone = s.wlkDone := rfl
@[simp] theorem ratMod_mcores (g : Ration → Ration) : (ratMod g s).mcores = s.mcores := rfl
@[simp] theorem ratMod_mslice (g : Ration → Ration) : (ratMod g s).mslice = s.mslice := rfl
@[simp] theorem ratMod_mblast (g : Ration → Ration) : (ratMod g s).mblast = s.mblast := rfl
@[simp] theorem ratMod_repairs (g : Ration → Ration) : (ratMod g s).repairs = s.repairs := rfl
@[simp] theorem ratMod_ctxs (g : Ration → Ration) : (ratMod g s).ctxs = s.ctxs := rfl
@[simp] theorem ratMod_leaCyc (g : Ration → Ration) : (ratMod g s).leaCyc = s.leaCyc := rfl
@[simp] theorem ratMod_fab (g : Ration → Ration) : (ratMod g s).fab = s.fab := rfl
@[simp] theorem ratMod_tlyQ (g : Ration → Ration) : (ratMod g s).tlyQ = s.tlyQ := rfl
@[simp] theorem ratMod_tlyWaits (g : Ration → Ration) : (ratMod g s).tlyWaits = s.tlyWaits := rfl
@[simp] theorem ratMod_whsQ (g : Ration → Ration) : (ratMod g s).whsQ = s.whsQ := rfl
@[simp] theorem ratMod_sends (g : Ration → Ration) : (ratMod g s).sends = s.sends := rfl
@[simp] theorem ratMod_rqs (g : Ration → Ration) : (ratMod g s).rqs = s.rqs := rfl
@[simp] theorem ratMod_spills (g : Ration → Ration) : (ratMod g s).spills = s.spills := rfl
@[simp] theorem ratMod_opens (g : Ration → Ration) : (ratMod g s).opens = s.opens := rfl
@[simp] theorem ratMod_landings (g : Ration → Ration) : (ratMod g s).landings = s.landings := rfl
@[simp] theorem ratMod_connLt (g : Ration → Ration) : (ratMod g s).connLt = s.connLt := rfl
@[simp] theorem ratMod_sidNext (g : Ration → Ration) : (ratMod g s).sidNext = s.sidNext := rfl
@[simp] theorem ratMod_ltkQ (g : Ration → Ration) : (ratMod g s).ltkQ = s.ltkQ := rfl
@[simp] theorem ratMod_ltkPaths (g : Ration → Ration) : (ratMod g s).ltkPaths = s.ltkPaths := rfl
@[simp] theorem ratMod_ltkRoutes (g : Ration → Ration) : (ratMod g s).ltkRoutes = s.ltkRoutes := rfl
@[simp] theorem ratMod_ltkPause (g : Ration → Ration) : (ratMod g s).ltkPause = s.ltkPause := rfl
@[simp] theorem ratMod_ptpGood (g : Ration → Ration) : (ratMod g s).ptpGood = s.ptpGood := rfl
@[simp] theorem ratMod_held (g : Ration → Ration) : (ratMod g s).held = s.held := rfl
@[simp] theorem ratMod_hostEnts (g : Ration → Ration) : (ratMod g s).hostEnts = s.hostEnts := rfl
@[simp] theorem ratMod_hrings (g : Ration → Ration) : (ratMod g s).hrings = s.hrings := rfl
@[simp] theorem ratMod_hostNext (g : Ration → Ration) : (ratMod g s).hostNext = s.hostNext := rfl
@[simp] theorem ratMod_aer (g : Ration → Ration) : (ratMod g s).aer = s.aer := rfl
@[simp] theorem ratMod_tcache (g : Ration → Ration) : (ratMod g s).tcache = s.tcache := rfl
@[simp] theorem ratMod_fabCyc (g : Ration → Ration) : (ratMod g s).fabCyc = s.fabCyc := rfl
@[simp] theorem ratMod_used (g : Ration → Ration) : (ratMod g s).used = s.used := rfl
@[simp] theorem ratMod_slotAt (g : Ration → Ration) : (ratMod g s).slotAt = s.slotAt := rfl
@[simp] theorem ratMod_capNext (g : Ration → Ration) : (ratMod g s).capNext = s.capNext := rfl
@[simp] theorem ratMod_ats (g : Ration → Ration) : (ratMod g s).ats = s.ats := rfl
@[simp] theorem ratMod_pageReqs (g : Ration → Ration) : (ratMod g s).pageReqs = s.pageReqs := rfl
@[simp] theorem ratMod_prgNext (g : Ration → Ration) : (ratMod g s).prgNext = s.prgNext := rfl
@[simp] theorem ratMod_atsInv (g : Ration → Ration) : (ratMod g s).atsInv = s.atsInv := rfl
@[simp] theorem ratMod_atsEn (g : Ration → Ration) : (ratMod g s).atsEn = s.atsEn := rfl
@[simp] theorem ratMod_priEn (g : Ration → Ration) : (ratMod g s).priEn = s.priEn := rfl
@[simp] theorem ratMod_priAlloc (g : Ration → Ration) : (ratMod g s).priAlloc = s.priAlloc := rfl
@[simp] theorem ratMod_winShare (g : Ration → Ration) : (ratMod g s).winShare = s.winShare := rfl
@[simp] theorem ratMod_sinks (g : Ration → Ration) : (ratMod g s).sinks = s.sinks := rfl
@[simp] theorem ratMod_scrubAt (g : Ration → Ration) : (ratMod g s).scrubAt = s.scrubAt := rfl
@[simp] theorem ratMod_mem (g : Ration → Ration) : (ratMod g s).mem = s.mem := rfl
@[simp] theorem ratMod_memEpoch (g : Ration → Ration) : (ratMod g s).memEpoch = s.memEpoch := rfl
@[simp] theorem ratMod_lines (g : Ration → Ration) : (ratMod g s).lines = s.lines := rfl
@[simp] theorem ratMod_pools (g : Ration → Ration) : (ratMod g s).pools = s.pools := rfl
@[simp] theorem ratMod_byrQ (g : Ration → Ration) : (ratMod g s).byrQ = s.byrQ := rfl
@[simp] theorem ratMod_byrCmd (g : Ration → Ration) : (ratMod g s).byrCmd = s.byrCmd := rfl
@[simp] theorem ratMod_tlyShadow (g : Ration → Ration) : (ratMod g s).tlyShadow = s.tlyShadow := rfl
@[simp] theorem ratMod_connShadow (g : Ration → Ration) : (ratMod g s).connShadow = s.connShadow := rfl
@[simp] theorem ratMod_watches (g : Ration → Ration) : (ratMod g s).watches = s.watches := rfl
@[simp] theorem ratMod_folds (g : Ration → Ration) : (ratMod g s).folds = s.folds := rfl
@[simp] theorem ratMod_keys (g : Ration → Ration) : (ratMod g s).keys = s.keys := rfl
@[simp] theorem ratMod_pmTry (g : Ration → Ration) : (ratMod g s).pmTry = s.pmTry := rfl
@[simp] theorem ratMod_pldmQ (g : Ration → Ration) : (ratMod g s).pldmQ = s.pldmQ := rfl
@[simp] theorem ratMod_mgmt (g : Ration → Ration) : (ratMod g s).mgmt = s.mgmt := rfl
@[simp] theorem ratMod_pwr (g : Ration → Ration) : (ratMod g s).pwr = s.pwr := rfl
@[simp] theorem ratMod_cfg (g : Ration → Ration) : (ratMod g s).cfg = s.cfg := rfl
@[simp] theorem ratMod_tap (g : Ration → Ration) : (ratMod g s).tap = s.tap := rfl
@[simp] theorem ratMod_mwins (g : Ration → Ration) : (ratMod g s).mwins = s.mwins := rfl
@[simp] theorem ratMod_openAt (g : Ration → Ration) : (ratMod g s).openAt = s.openAt := rfl
@[simp] theorem ratMod_whsLands (g : Ration → Ration) : (ratMod g s).whsLands = s.whsLands := rfl
@[simp] theorem ratMod_accWaits (g : Ration → Ration) : (ratMod g s).accWaits = s.accWaits := rfl
@[simp] theorem ratMod_formAt (g : Ration → Ration) : (ratMod g s).formAt = s.formAt := rfl
@[simp] theorem ratMod_admSeq (g : Ration → Ration) : (ratMod g s).admSeq = s.admSeq := rfl
@[simp] theorem ratMod_spMark (g : Ration → Ration) : (ratMod g s).spMark = s.spMark := rfl
@[simp] theorem ratMod_bellLate (g : Ration → Ration) : (ratMod g s).bellLate = s.bellLate := rfl
@[simp] theorem ratMod_pending (g : Ration → Ration) : (ratMod g s).pending = s.pending := rfl
@[simp] theorem rdW_ratMod (g : Ration → Ration) (rb : Blk) (ri ro : Nat) : rdW (ratMod g s) rb ri ro = rdW s rb ri ro := rfl
@[simp] theorem rd_ratMod (g : Ration → Ration) (rf : Fld) (ri : Nat) : rd (ratMod g s) rf ri = rd s rf ri := rfl
@[simp] theorem rdB_ratMod (g : Ration → Ration) (rf : Fld) (ri : Nat) : rdB (ratMod g s) rf ri = rdB s rf ri := rfl

/-! ### pwrMod -/

@[simp] theorem pwrMod_now (g : Pwr → Pwr) : (pwrMod g s).now = s.now := rfl
@[simp] theorem pwrMod_freeCtr (g : Pwr → Pwr) : (pwrMod g s).freeCtr = s.freeCtr := rfl
@[simp] theorem pwrMod_regs (g : Pwr → Pwr) : (pwrMod g s).regs = s.regs := rfl
@[simp] theorem pwrMod_bellPend (g : Pwr → Pwr) : (pwrMod g s).bellPend = s.bellPend := rfl
@[simp] theorem pwrMod_rearmPend (g : Pwr → Pwr) : (pwrMod g s).rearmPend = s.rearmPend := rfl
@[simp] theorem pwrMod_fixedDone (g : Pwr → Pwr) : (pwrMod g s).fixedDone = s.fixedDone := rfl
@[simp] theorem pwrMod_outbox (g : Pwr → Pwr) : (pwrMod g s).outbox = s.outbox := rfl
@[simp] theorem pwrMod_bellLock (g : Pwr → Pwr) : (pwrMod g s).bellLock = s.bellLock := rfl
@[simp] theorem pwrMod_aliveOut (g : Pwr → Pwr) : (pwrMod g s).aliveOut = s.aliveOut := rfl
@[simp] theorem pwrMod_bell (g : Pwr → Pwr) : (pwrMod g s).bell = s.bell := rfl
@[simp] theorem pwrMod_pdks (g : Pwr → Pwr) : (pwrMod g s).pdks = s.pdks := rfl
@[simp] theorem pwrMod_vfEnable (g : Pwr → Pwr) : (pwrMod g s).vfEnable = s.vfEnable := rfl
@[simp] theorem pwrMod_numVfs (g : Pwr → Pwr) : (pwrMod g s).numVfs = s.numVfs := rfl
@[simp] theorem pwrMod_fns (g : Pwr → Pwr) : (pwrMod g s).fns = s.fns := rfl
@[simp] theorem pwrMod_pfEvents (g : Pwr → Pwr) : (pwrMod g s).pfEvents = s.pfEvents := rfl
@[simp] theorem pwrMod_pfLost (g : Pwr → Pwr) : (pwrMod g s).pfLost = s.pfLost := rfl
@[simp] theorem pwrMod_fbk (g : Pwr → Pwr) : (pwrMod g s).fbk = s.fbk := rfl
@[simp] theorem pwrMod_cores (g : Pwr → Pwr) : (pwrMod g s).cores = s.cores := rfl
@[simp] theorem pwrMod_meshes (g : Pwr → Pwr) : (pwrMod g s).meshes = s.meshes := rfl
@[simp] theorem pwrMod_links (g : Pwr → Pwr) : (pwrMod g s).links = s.links := rfl
@[simp] theorem pwrMod_sp (g : Pwr → Pwr) : (pwrMod g s).sp = s.sp := rfl
@[simp] theorem pwrMod_spEpoch (g : Pwr → Pwr) : (pwrMod g s).spEpoch = s.spEpoch := rfl
@[simp] theorem pwrMod_imem (g : Pwr → Pwr) : (pwrMod g s).imem = s.imem := rfl
@[simp] theorem pwrMod_rslot (g : Pwr → Pwr) : (pwrMod g s).rslot = s.rslot := rfl
@[simp] theorem pwrMod_tile (g : Pwr → Pwr) : (pwrMod g s).tile = s.tile := rfl
@[simp] theorem pwrMod_acc (g : Pwr → Pwr) : (pwrMod g s).acc = s.acc := rfl
@[simp] theorem pwrMod_shadow (g : Pwr → Pwr) : (pwrMod g s).shadow = s.shadow := rfl
@[simp] theorem pwrMod_desc (g : Pwr → Pwr) : (pwrMod g s).desc = s.desc := rfl
@[simp] theorem pwrMod_frameChk (g : Pwr → Pwr) : (pwrMod g s).frameChk = s.frameChk := rfl
@[simp] theorem pwrMod_ht (g : Pwr → Pwr) : (pwrMod g s).ht = s.ht := rfl
@[simp] theorem pwrMod_wlkDue (g : Pwr → Pwr) : (pwrMod g s).wlkDue = s.wlkDue := rfl
@[simp] theorem pwrMod_walkers (g : Pwr → Pwr) : (pwrMod g s).walkers = s.walkers := rfl
@[simp] theorem pwrMod_wlkDone (g : Pwr → Pwr) : (pwrMod g s).wlkDone = s.wlkDone := rfl
@[simp] theorem pwrMod_mcores (g : Pwr → Pwr) : (pwrMod g s).mcores = s.mcores := rfl
@[simp] theorem pwrMod_mslice (g : Pwr → Pwr) : (pwrMod g s).mslice = s.mslice := rfl
@[simp] theorem pwrMod_mblast (g : Pwr → Pwr) : (pwrMod g s).mblast = s.mblast := rfl
@[simp] theorem pwrMod_repairs (g : Pwr → Pwr) : (pwrMod g s).repairs = s.repairs := rfl
@[simp] theorem pwrMod_ctxs (g : Pwr → Pwr) : (pwrMod g s).ctxs = s.ctxs := rfl
@[simp] theorem pwrMod_leaCyc (g : Pwr → Pwr) : (pwrMod g s).leaCyc = s.leaCyc := rfl
@[simp] theorem pwrMod_fab (g : Pwr → Pwr) : (pwrMod g s).fab = s.fab := rfl
@[simp] theorem pwrMod_tlyQ (g : Pwr → Pwr) : (pwrMod g s).tlyQ = s.tlyQ := rfl
@[simp] theorem pwrMod_tlyWaits (g : Pwr → Pwr) : (pwrMod g s).tlyWaits = s.tlyWaits := rfl
@[simp] theorem pwrMod_whsQ (g : Pwr → Pwr) : (pwrMod g s).whsQ = s.whsQ := rfl
@[simp] theorem pwrMod_sends (g : Pwr → Pwr) : (pwrMod g s).sends = s.sends := rfl
@[simp] theorem pwrMod_rqs (g : Pwr → Pwr) : (pwrMod g s).rqs = s.rqs := rfl
@[simp] theorem pwrMod_spills (g : Pwr → Pwr) : (pwrMod g s).spills = s.spills := rfl
@[simp] theorem pwrMod_opens (g : Pwr → Pwr) : (pwrMod g s).opens = s.opens := rfl
@[simp] theorem pwrMod_landings (g : Pwr → Pwr) : (pwrMod g s).landings = s.landings := rfl
@[simp] theorem pwrMod_connLt (g : Pwr → Pwr) : (pwrMod g s).connLt = s.connLt := rfl
@[simp] theorem pwrMod_sidNext (g : Pwr → Pwr) : (pwrMod g s).sidNext = s.sidNext := rfl
@[simp] theorem pwrMod_ltkQ (g : Pwr → Pwr) : (pwrMod g s).ltkQ = s.ltkQ := rfl
@[simp] theorem pwrMod_ltkPaths (g : Pwr → Pwr) : (pwrMod g s).ltkPaths = s.ltkPaths := rfl
@[simp] theorem pwrMod_ltkRoutes (g : Pwr → Pwr) : (pwrMod g s).ltkRoutes = s.ltkRoutes := rfl
@[simp] theorem pwrMod_ltkPause (g : Pwr → Pwr) : (pwrMod g s).ltkPause = s.ltkPause := rfl
@[simp] theorem pwrMod_ptpGood (g : Pwr → Pwr) : (pwrMod g s).ptpGood = s.ptpGood := rfl
@[simp] theorem pwrMod_held (g : Pwr → Pwr) : (pwrMod g s).held = s.held := rfl
@[simp] theorem pwrMod_hostEnts (g : Pwr → Pwr) : (pwrMod g s).hostEnts = s.hostEnts := rfl
@[simp] theorem pwrMod_hrings (g : Pwr → Pwr) : (pwrMod g s).hrings = s.hrings := rfl
@[simp] theorem pwrMod_hostNext (g : Pwr → Pwr) : (pwrMod g s).hostNext = s.hostNext := rfl
@[simp] theorem pwrMod_aer (g : Pwr → Pwr) : (pwrMod g s).aer = s.aer := rfl
@[simp] theorem pwrMod_tcache (g : Pwr → Pwr) : (pwrMod g s).tcache = s.tcache := rfl
@[simp] theorem pwrMod_fabCyc (g : Pwr → Pwr) : (pwrMod g s).fabCyc = s.fabCyc := rfl
@[simp] theorem pwrMod_used (g : Pwr → Pwr) : (pwrMod g s).used = s.used := rfl
@[simp] theorem pwrMod_slotAt (g : Pwr → Pwr) : (pwrMod g s).slotAt = s.slotAt := rfl
@[simp] theorem pwrMod_capNext (g : Pwr → Pwr) : (pwrMod g s).capNext = s.capNext := rfl
@[simp] theorem pwrMod_ats (g : Pwr → Pwr) : (pwrMod g s).ats = s.ats := rfl
@[simp] theorem pwrMod_pageReqs (g : Pwr → Pwr) : (pwrMod g s).pageReqs = s.pageReqs := rfl
@[simp] theorem pwrMod_prgNext (g : Pwr → Pwr) : (pwrMod g s).prgNext = s.prgNext := rfl
@[simp] theorem pwrMod_atsInv (g : Pwr → Pwr) : (pwrMod g s).atsInv = s.atsInv := rfl
@[simp] theorem pwrMod_atsEn (g : Pwr → Pwr) : (pwrMod g s).atsEn = s.atsEn := rfl
@[simp] theorem pwrMod_priEn (g : Pwr → Pwr) : (pwrMod g s).priEn = s.priEn := rfl
@[simp] theorem pwrMod_priAlloc (g : Pwr → Pwr) : (pwrMod g s).priAlloc = s.priAlloc := rfl
@[simp] theorem pwrMod_winShare (g : Pwr → Pwr) : (pwrMod g s).winShare = s.winShare := rfl
@[simp] theorem pwrMod_sinks (g : Pwr → Pwr) : (pwrMod g s).sinks = s.sinks := rfl
@[simp] theorem pwrMod_scrubAt (g : Pwr → Pwr) : (pwrMod g s).scrubAt = s.scrubAt := rfl
@[simp] theorem pwrMod_mem (g : Pwr → Pwr) : (pwrMod g s).mem = s.mem := rfl
@[simp] theorem pwrMod_memEpoch (g : Pwr → Pwr) : (pwrMod g s).memEpoch = s.memEpoch := rfl
@[simp] theorem pwrMod_lines (g : Pwr → Pwr) : (pwrMod g s).lines = s.lines := rfl
@[simp] theorem pwrMod_pools (g : Pwr → Pwr) : (pwrMod g s).pools = s.pools := rfl
@[simp] theorem pwrMod_byrQ (g : Pwr → Pwr) : (pwrMod g s).byrQ = s.byrQ := rfl
@[simp] theorem pwrMod_byrCmd (g : Pwr → Pwr) : (pwrMod g s).byrCmd = s.byrCmd := rfl
@[simp] theorem pwrMod_tlyShadow (g : Pwr → Pwr) : (pwrMod g s).tlyShadow = s.tlyShadow := rfl
@[simp] theorem pwrMod_connShadow (g : Pwr → Pwr) : (pwrMod g s).connShadow = s.connShadow := rfl
@[simp] theorem pwrMod_watches (g : Pwr → Pwr) : (pwrMod g s).watches = s.watches := rfl
@[simp] theorem pwrMod_folds (g : Pwr → Pwr) : (pwrMod g s).folds = s.folds := rfl
@[simp] theorem pwrMod_keys (g : Pwr → Pwr) : (pwrMod g s).keys = s.keys := rfl
@[simp] theorem pwrMod_ration (g : Pwr → Pwr) : (pwrMod g s).ration = s.ration := rfl
@[simp] theorem pwrMod_pmTry (g : Pwr → Pwr) : (pwrMod g s).pmTry = s.pmTry := rfl
@[simp] theorem pwrMod_pldmQ (g : Pwr → Pwr) : (pwrMod g s).pldmQ = s.pldmQ := rfl
@[simp] theorem pwrMod_mgmt (g : Pwr → Pwr) : (pwrMod g s).mgmt = s.mgmt := rfl
@[simp] theorem pwrMod_cfg (g : Pwr → Pwr) : (pwrMod g s).cfg = s.cfg := rfl
@[simp] theorem pwrMod_tap (g : Pwr → Pwr) : (pwrMod g s).tap = s.tap := rfl
@[simp] theorem pwrMod_mwins (g : Pwr → Pwr) : (pwrMod g s).mwins = s.mwins := rfl
@[simp] theorem pwrMod_openAt (g : Pwr → Pwr) : (pwrMod g s).openAt = s.openAt := rfl
@[simp] theorem pwrMod_whsLands (g : Pwr → Pwr) : (pwrMod g s).whsLands = s.whsLands := rfl
@[simp] theorem pwrMod_accWaits (g : Pwr → Pwr) : (pwrMod g s).accWaits = s.accWaits := rfl
@[simp] theorem pwrMod_formAt (g : Pwr → Pwr) : (pwrMod g s).formAt = s.formAt := rfl
@[simp] theorem pwrMod_admSeq (g : Pwr → Pwr) : (pwrMod g s).admSeq = s.admSeq := rfl
@[simp] theorem pwrMod_spMark (g : Pwr → Pwr) : (pwrMod g s).spMark = s.spMark := rfl
@[simp] theorem pwrMod_bellLate (g : Pwr → Pwr) : (pwrMod g s).bellLate = s.bellLate := rfl
@[simp] theorem pwrMod_pending (g : Pwr → Pwr) : (pwrMod g s).pending = s.pending := rfl
@[simp] theorem rdW_pwrMod (g : Pwr → Pwr) (rb : Blk) (ri ro : Nat) : rdW (pwrMod g s) rb ri ro = rdW s rb ri ro := rfl
@[simp] theorem rd_pwrMod (g : Pwr → Pwr) (rf : Fld) (ri : Nat) : rd (pwrMod g s) rf ri = rd s rf ri := rfl
@[simp] theorem rdB_pwrMod (g : Pwr → Pwr) (rf : Fld) (ri : Nat) : rdB (pwrMod g s) rf ri = rdB s rf ri := rfl

/-! ### mgmtMod -/

@[simp] theorem mgmtMod_now (g : Mgmt → Mgmt) : (mgmtMod g s).now = s.now := rfl
@[simp] theorem mgmtMod_freeCtr (g : Mgmt → Mgmt) : (mgmtMod g s).freeCtr = s.freeCtr := rfl
@[simp] theorem mgmtMod_regs (g : Mgmt → Mgmt) : (mgmtMod g s).regs = s.regs := rfl
@[simp] theorem mgmtMod_bellPend (g : Mgmt → Mgmt) : (mgmtMod g s).bellPend = s.bellPend := rfl
@[simp] theorem mgmtMod_rearmPend (g : Mgmt → Mgmt) : (mgmtMod g s).rearmPend = s.rearmPend := rfl
@[simp] theorem mgmtMod_fixedDone (g : Mgmt → Mgmt) : (mgmtMod g s).fixedDone = s.fixedDone := rfl
@[simp] theorem mgmtMod_outbox (g : Mgmt → Mgmt) : (mgmtMod g s).outbox = s.outbox := rfl
@[simp] theorem mgmtMod_bellLock (g : Mgmt → Mgmt) : (mgmtMod g s).bellLock = s.bellLock := rfl
@[simp] theorem mgmtMod_aliveOut (g : Mgmt → Mgmt) : (mgmtMod g s).aliveOut = s.aliveOut := rfl
@[simp] theorem mgmtMod_bell (g : Mgmt → Mgmt) : (mgmtMod g s).bell = s.bell := rfl
@[simp] theorem mgmtMod_pdks (g : Mgmt → Mgmt) : (mgmtMod g s).pdks = s.pdks := rfl
@[simp] theorem mgmtMod_vfEnable (g : Mgmt → Mgmt) : (mgmtMod g s).vfEnable = s.vfEnable := rfl
@[simp] theorem mgmtMod_numVfs (g : Mgmt → Mgmt) : (mgmtMod g s).numVfs = s.numVfs := rfl
@[simp] theorem mgmtMod_fns (g : Mgmt → Mgmt) : (mgmtMod g s).fns = s.fns := rfl
@[simp] theorem mgmtMod_pfEvents (g : Mgmt → Mgmt) : (mgmtMod g s).pfEvents = s.pfEvents := rfl
@[simp] theorem mgmtMod_pfLost (g : Mgmt → Mgmt) : (mgmtMod g s).pfLost = s.pfLost := rfl
@[simp] theorem mgmtMod_fbk (g : Mgmt → Mgmt) : (mgmtMod g s).fbk = s.fbk := rfl
@[simp] theorem mgmtMod_cores (g : Mgmt → Mgmt) : (mgmtMod g s).cores = s.cores := rfl
@[simp] theorem mgmtMod_meshes (g : Mgmt → Mgmt) : (mgmtMod g s).meshes = s.meshes := rfl
@[simp] theorem mgmtMod_links (g : Mgmt → Mgmt) : (mgmtMod g s).links = s.links := rfl
@[simp] theorem mgmtMod_sp (g : Mgmt → Mgmt) : (mgmtMod g s).sp = s.sp := rfl
@[simp] theorem mgmtMod_spEpoch (g : Mgmt → Mgmt) : (mgmtMod g s).spEpoch = s.spEpoch := rfl
@[simp] theorem mgmtMod_imem (g : Mgmt → Mgmt) : (mgmtMod g s).imem = s.imem := rfl
@[simp] theorem mgmtMod_rslot (g : Mgmt → Mgmt) : (mgmtMod g s).rslot = s.rslot := rfl
@[simp] theorem mgmtMod_tile (g : Mgmt → Mgmt) : (mgmtMod g s).tile = s.tile := rfl
@[simp] theorem mgmtMod_acc (g : Mgmt → Mgmt) : (mgmtMod g s).acc = s.acc := rfl
@[simp] theorem mgmtMod_shadow (g : Mgmt → Mgmt) : (mgmtMod g s).shadow = s.shadow := rfl
@[simp] theorem mgmtMod_desc (g : Mgmt → Mgmt) : (mgmtMod g s).desc = s.desc := rfl
@[simp] theorem mgmtMod_frameChk (g : Mgmt → Mgmt) : (mgmtMod g s).frameChk = s.frameChk := rfl
@[simp] theorem mgmtMod_ht (g : Mgmt → Mgmt) : (mgmtMod g s).ht = s.ht := rfl
@[simp] theorem mgmtMod_wlkDue (g : Mgmt → Mgmt) : (mgmtMod g s).wlkDue = s.wlkDue := rfl
@[simp] theorem mgmtMod_walkers (g : Mgmt → Mgmt) : (mgmtMod g s).walkers = s.walkers := rfl
@[simp] theorem mgmtMod_wlkDone (g : Mgmt → Mgmt) : (mgmtMod g s).wlkDone = s.wlkDone := rfl
@[simp] theorem mgmtMod_mcores (g : Mgmt → Mgmt) : (mgmtMod g s).mcores = s.mcores := rfl
@[simp] theorem mgmtMod_mslice (g : Mgmt → Mgmt) : (mgmtMod g s).mslice = s.mslice := rfl
@[simp] theorem mgmtMod_mblast (g : Mgmt → Mgmt) : (mgmtMod g s).mblast = s.mblast := rfl
@[simp] theorem mgmtMod_repairs (g : Mgmt → Mgmt) : (mgmtMod g s).repairs = s.repairs := rfl
@[simp] theorem mgmtMod_ctxs (g : Mgmt → Mgmt) : (mgmtMod g s).ctxs = s.ctxs := rfl
@[simp] theorem mgmtMod_leaCyc (g : Mgmt → Mgmt) : (mgmtMod g s).leaCyc = s.leaCyc := rfl
@[simp] theorem mgmtMod_fab (g : Mgmt → Mgmt) : (mgmtMod g s).fab = s.fab := rfl
@[simp] theorem mgmtMod_tlyQ (g : Mgmt → Mgmt) : (mgmtMod g s).tlyQ = s.tlyQ := rfl
@[simp] theorem mgmtMod_tlyWaits (g : Mgmt → Mgmt) : (mgmtMod g s).tlyWaits = s.tlyWaits := rfl
@[simp] theorem mgmtMod_whsQ (g : Mgmt → Mgmt) : (mgmtMod g s).whsQ = s.whsQ := rfl
@[simp] theorem mgmtMod_sends (g : Mgmt → Mgmt) : (mgmtMod g s).sends = s.sends := rfl
@[simp] theorem mgmtMod_rqs (g : Mgmt → Mgmt) : (mgmtMod g s).rqs = s.rqs := rfl
@[simp] theorem mgmtMod_spills (g : Mgmt → Mgmt) : (mgmtMod g s).spills = s.spills := rfl
@[simp] theorem mgmtMod_opens (g : Mgmt → Mgmt) : (mgmtMod g s).opens = s.opens := rfl
@[simp] theorem mgmtMod_landings (g : Mgmt → Mgmt) : (mgmtMod g s).landings = s.landings := rfl
@[simp] theorem mgmtMod_connLt (g : Mgmt → Mgmt) : (mgmtMod g s).connLt = s.connLt := rfl
@[simp] theorem mgmtMod_sidNext (g : Mgmt → Mgmt) : (mgmtMod g s).sidNext = s.sidNext := rfl
@[simp] theorem mgmtMod_ltkQ (g : Mgmt → Mgmt) : (mgmtMod g s).ltkQ = s.ltkQ := rfl
@[simp] theorem mgmtMod_ltkPaths (g : Mgmt → Mgmt) : (mgmtMod g s).ltkPaths = s.ltkPaths := rfl
@[simp] theorem mgmtMod_ltkRoutes (g : Mgmt → Mgmt) : (mgmtMod g s).ltkRoutes = s.ltkRoutes := rfl
@[simp] theorem mgmtMod_ltkPause (g : Mgmt → Mgmt) : (mgmtMod g s).ltkPause = s.ltkPause := rfl
@[simp] theorem mgmtMod_ptpGood (g : Mgmt → Mgmt) : (mgmtMod g s).ptpGood = s.ptpGood := rfl
@[simp] theorem mgmtMod_held (g : Mgmt → Mgmt) : (mgmtMod g s).held = s.held := rfl
@[simp] theorem mgmtMod_hostEnts (g : Mgmt → Mgmt) : (mgmtMod g s).hostEnts = s.hostEnts := rfl
@[simp] theorem mgmtMod_hrings (g : Mgmt → Mgmt) : (mgmtMod g s).hrings = s.hrings := rfl
@[simp] theorem mgmtMod_hostNext (g : Mgmt → Mgmt) : (mgmtMod g s).hostNext = s.hostNext := rfl
@[simp] theorem mgmtMod_aer (g : Mgmt → Mgmt) : (mgmtMod g s).aer = s.aer := rfl
@[simp] theorem mgmtMod_tcache (g : Mgmt → Mgmt) : (mgmtMod g s).tcache = s.tcache := rfl
@[simp] theorem mgmtMod_fabCyc (g : Mgmt → Mgmt) : (mgmtMod g s).fabCyc = s.fabCyc := rfl
@[simp] theorem mgmtMod_used (g : Mgmt → Mgmt) : (mgmtMod g s).used = s.used := rfl
@[simp] theorem mgmtMod_slotAt (g : Mgmt → Mgmt) : (mgmtMod g s).slotAt = s.slotAt := rfl
@[simp] theorem mgmtMod_capNext (g : Mgmt → Mgmt) : (mgmtMod g s).capNext = s.capNext := rfl
@[simp] theorem mgmtMod_ats (g : Mgmt → Mgmt) : (mgmtMod g s).ats = s.ats := rfl
@[simp] theorem mgmtMod_pageReqs (g : Mgmt → Mgmt) : (mgmtMod g s).pageReqs = s.pageReqs := rfl
@[simp] theorem mgmtMod_prgNext (g : Mgmt → Mgmt) : (mgmtMod g s).prgNext = s.prgNext := rfl
@[simp] theorem mgmtMod_atsInv (g : Mgmt → Mgmt) : (mgmtMod g s).atsInv = s.atsInv := rfl
@[simp] theorem mgmtMod_atsEn (g : Mgmt → Mgmt) : (mgmtMod g s).atsEn = s.atsEn := rfl
@[simp] theorem mgmtMod_priEn (g : Mgmt → Mgmt) : (mgmtMod g s).priEn = s.priEn := rfl
@[simp] theorem mgmtMod_priAlloc (g : Mgmt → Mgmt) : (mgmtMod g s).priAlloc = s.priAlloc := rfl
@[simp] theorem mgmtMod_winShare (g : Mgmt → Mgmt) : (mgmtMod g s).winShare = s.winShare := rfl
@[simp] theorem mgmtMod_sinks (g : Mgmt → Mgmt) : (mgmtMod g s).sinks = s.sinks := rfl
@[simp] theorem mgmtMod_scrubAt (g : Mgmt → Mgmt) : (mgmtMod g s).scrubAt = s.scrubAt := rfl
@[simp] theorem mgmtMod_mem (g : Mgmt → Mgmt) : (mgmtMod g s).mem = s.mem := rfl
@[simp] theorem mgmtMod_memEpoch (g : Mgmt → Mgmt) : (mgmtMod g s).memEpoch = s.memEpoch := rfl
@[simp] theorem mgmtMod_lines (g : Mgmt → Mgmt) : (mgmtMod g s).lines = s.lines := rfl
@[simp] theorem mgmtMod_pools (g : Mgmt → Mgmt) : (mgmtMod g s).pools = s.pools := rfl
@[simp] theorem mgmtMod_byrQ (g : Mgmt → Mgmt) : (mgmtMod g s).byrQ = s.byrQ := rfl
@[simp] theorem mgmtMod_byrCmd (g : Mgmt → Mgmt) : (mgmtMod g s).byrCmd = s.byrCmd := rfl
@[simp] theorem mgmtMod_tlyShadow (g : Mgmt → Mgmt) : (mgmtMod g s).tlyShadow = s.tlyShadow := rfl
@[simp] theorem mgmtMod_connShadow (g : Mgmt → Mgmt) : (mgmtMod g s).connShadow = s.connShadow := rfl
@[simp] theorem mgmtMod_watches (g : Mgmt → Mgmt) : (mgmtMod g s).watches = s.watches := rfl
@[simp] theorem mgmtMod_folds (g : Mgmt → Mgmt) : (mgmtMod g s).folds = s.folds := rfl
@[simp] theorem mgmtMod_keys (g : Mgmt → Mgmt) : (mgmtMod g s).keys = s.keys := rfl
@[simp] theorem mgmtMod_ration (g : Mgmt → Mgmt) : (mgmtMod g s).ration = s.ration := rfl
@[simp] theorem mgmtMod_pmTry (g : Mgmt → Mgmt) : (mgmtMod g s).pmTry = s.pmTry := rfl
@[simp] theorem mgmtMod_pldmQ (g : Mgmt → Mgmt) : (mgmtMod g s).pldmQ = s.pldmQ := rfl
@[simp] theorem mgmtMod_pwr (g : Mgmt → Mgmt) : (mgmtMod g s).pwr = s.pwr := rfl
@[simp] theorem mgmtMod_cfg (g : Mgmt → Mgmt) : (mgmtMod g s).cfg = s.cfg := rfl
@[simp] theorem mgmtMod_tap (g : Mgmt → Mgmt) : (mgmtMod g s).tap = s.tap := rfl
@[simp] theorem mgmtMod_mwins (g : Mgmt → Mgmt) : (mgmtMod g s).mwins = s.mwins := rfl
@[simp] theorem mgmtMod_openAt (g : Mgmt → Mgmt) : (mgmtMod g s).openAt = s.openAt := rfl
@[simp] theorem mgmtMod_whsLands (g : Mgmt → Mgmt) : (mgmtMod g s).whsLands = s.whsLands := rfl
@[simp] theorem mgmtMod_accWaits (g : Mgmt → Mgmt) : (mgmtMod g s).accWaits = s.accWaits := rfl
@[simp] theorem mgmtMod_formAt (g : Mgmt → Mgmt) : (mgmtMod g s).formAt = s.formAt := rfl
@[simp] theorem mgmtMod_admSeq (g : Mgmt → Mgmt) : (mgmtMod g s).admSeq = s.admSeq := rfl
@[simp] theorem mgmtMod_spMark (g : Mgmt → Mgmt) : (mgmtMod g s).spMark = s.spMark := rfl
@[simp] theorem mgmtMod_bellLate (g : Mgmt → Mgmt) : (mgmtMod g s).bellLate = s.bellLate := rfl
@[simp] theorem mgmtMod_pending (g : Mgmt → Mgmt) : (mgmtMod g s).pending = s.pending := rfl
@[simp] theorem rdW_mgmtMod (g : Mgmt → Mgmt) (rb : Blk) (ri ro : Nat) : rdW (mgmtMod g s) rb ri ro = rdW s rb ri ro := rfl
@[simp] theorem rd_mgmtMod (g : Mgmt → Mgmt) (rf : Fld) (ri : Nat) : rd (mgmtMod g s) rf ri = rd s rf ri := rfl
@[simp] theorem rdB_mgmtMod (g : Mgmt → Mgmt) (rf : Fld) (ri : Nat) : rdB (mgmtMod g s) rf ri = rdB s rf ri := rfl

/-! ### foldMod -/

@[simp] theorem foldMod_now (n : Nat) (g : FoldJ → FoldJ) : (foldMod n g s).now = s.now := rfl
@[simp] theorem foldMod_freeCtr (n : Nat) (g : FoldJ → FoldJ) : (foldMod n g s).freeCtr = s.freeCtr := rfl
@[simp] theorem foldMod_regs (n : Nat) (g : FoldJ → FoldJ) : (foldMod n g s).regs = s.regs := rfl
@[simp] theorem foldMod_bellPend (n : Nat) (g : FoldJ → FoldJ) : (foldMod n g s).bellPend = s.bellPend := rfl
@[simp] theorem foldMod_rearmPend (n : Nat) (g : FoldJ → FoldJ) : (foldMod n g s).rearmPend = s.rearmPend := rfl
@[simp] theorem foldMod_fixedDone (n : Nat) (g : FoldJ → FoldJ) : (foldMod n g s).fixedDone = s.fixedDone := rfl
@[simp] theorem foldMod_outbox (n : Nat) (g : FoldJ → FoldJ) : (foldMod n g s).outbox = s.outbox := rfl
@[simp] theorem foldMod_bellLock (n : Nat) (g : FoldJ → FoldJ) : (foldMod n g s).bellLock = s.bellLock := rfl
@[simp] theorem foldMod_aliveOut (n : Nat) (g : FoldJ → FoldJ) : (foldMod n g s).aliveOut = s.aliveOut := rfl
@[simp] theorem foldMod_bell (n : Nat) (g : FoldJ → FoldJ) : (foldMod n g s).bell = s.bell := rfl
@[simp] theorem foldMod_pdks (n : Nat) (g : FoldJ → FoldJ) : (foldMod n g s).pdks = s.pdks := rfl
@[simp] theorem foldMod_vfEnable (n : Nat) (g : FoldJ → FoldJ) : (foldMod n g s).vfEnable = s.vfEnable := rfl
@[simp] theorem foldMod_numVfs (n : Nat) (g : FoldJ → FoldJ) : (foldMod n g s).numVfs = s.numVfs := rfl
@[simp] theorem foldMod_fns (n : Nat) (g : FoldJ → FoldJ) : (foldMod n g s).fns = s.fns := rfl
@[simp] theorem foldMod_pfEvents (n : Nat) (g : FoldJ → FoldJ) : (foldMod n g s).pfEvents = s.pfEvents := rfl
@[simp] theorem foldMod_pfLost (n : Nat) (g : FoldJ → FoldJ) : (foldMod n g s).pfLost = s.pfLost := rfl
@[simp] theorem foldMod_fbk (n : Nat) (g : FoldJ → FoldJ) : (foldMod n g s).fbk = s.fbk := rfl
@[simp] theorem foldMod_cores (n : Nat) (g : FoldJ → FoldJ) : (foldMod n g s).cores = s.cores := rfl
@[simp] theorem foldMod_meshes (n : Nat) (g : FoldJ → FoldJ) : (foldMod n g s).meshes = s.meshes := rfl
@[simp] theorem foldMod_links (n : Nat) (g : FoldJ → FoldJ) : (foldMod n g s).links = s.links := rfl
@[simp] theorem foldMod_sp (n : Nat) (g : FoldJ → FoldJ) : (foldMod n g s).sp = s.sp := rfl
@[simp] theorem foldMod_spEpoch (n : Nat) (g : FoldJ → FoldJ) : (foldMod n g s).spEpoch = s.spEpoch := rfl
@[simp] theorem foldMod_imem (n : Nat) (g : FoldJ → FoldJ) : (foldMod n g s).imem = s.imem := rfl
@[simp] theorem foldMod_rslot (n : Nat) (g : FoldJ → FoldJ) : (foldMod n g s).rslot = s.rslot := rfl
@[simp] theorem foldMod_tile (n : Nat) (g : FoldJ → FoldJ) : (foldMod n g s).tile = s.tile := rfl
@[simp] theorem foldMod_acc (n : Nat) (g : FoldJ → FoldJ) : (foldMod n g s).acc = s.acc := rfl
@[simp] theorem foldMod_shadow (n : Nat) (g : FoldJ → FoldJ) : (foldMod n g s).shadow = s.shadow := rfl
@[simp] theorem foldMod_desc (n : Nat) (g : FoldJ → FoldJ) : (foldMod n g s).desc = s.desc := rfl
@[simp] theorem foldMod_frameChk (n : Nat) (g : FoldJ → FoldJ) : (foldMod n g s).frameChk = s.frameChk := rfl
@[simp] theorem foldMod_ht (n : Nat) (g : FoldJ → FoldJ) : (foldMod n g s).ht = s.ht := rfl
@[simp] theorem foldMod_wlkDue (n : Nat) (g : FoldJ → FoldJ) : (foldMod n g s).wlkDue = s.wlkDue := rfl
@[simp] theorem foldMod_walkers (n : Nat) (g : FoldJ → FoldJ) : (foldMod n g s).walkers = s.walkers := rfl
@[simp] theorem foldMod_wlkDone (n : Nat) (g : FoldJ → FoldJ) : (foldMod n g s).wlkDone = s.wlkDone := rfl
@[simp] theorem foldMod_mcores (n : Nat) (g : FoldJ → FoldJ) : (foldMod n g s).mcores = s.mcores := rfl
@[simp] theorem foldMod_mslice (n : Nat) (g : FoldJ → FoldJ) : (foldMod n g s).mslice = s.mslice := rfl
@[simp] theorem foldMod_mblast (n : Nat) (g : FoldJ → FoldJ) : (foldMod n g s).mblast = s.mblast := rfl
@[simp] theorem foldMod_repairs (n : Nat) (g : FoldJ → FoldJ) : (foldMod n g s).repairs = s.repairs := rfl
@[simp] theorem foldMod_ctxs (n : Nat) (g : FoldJ → FoldJ) : (foldMod n g s).ctxs = s.ctxs := rfl
@[simp] theorem foldMod_leaCyc (n : Nat) (g : FoldJ → FoldJ) : (foldMod n g s).leaCyc = s.leaCyc := rfl
@[simp] theorem foldMod_fab (n : Nat) (g : FoldJ → FoldJ) : (foldMod n g s).fab = s.fab := rfl
@[simp] theorem foldMod_tlyQ (n : Nat) (g : FoldJ → FoldJ) : (foldMod n g s).tlyQ = s.tlyQ := rfl
@[simp] theorem foldMod_tlyWaits (n : Nat) (g : FoldJ → FoldJ) : (foldMod n g s).tlyWaits = s.tlyWaits := rfl
@[simp] theorem foldMod_whsQ (n : Nat) (g : FoldJ → FoldJ) : (foldMod n g s).whsQ = s.whsQ := rfl
@[simp] theorem foldMod_sends (n : Nat) (g : FoldJ → FoldJ) : (foldMod n g s).sends = s.sends := rfl
@[simp] theorem foldMod_rqs (n : Nat) (g : FoldJ → FoldJ) : (foldMod n g s).rqs = s.rqs := rfl
@[simp] theorem foldMod_spills (n : Nat) (g : FoldJ → FoldJ) : (foldMod n g s).spills = s.spills := rfl
@[simp] theorem foldMod_opens (n : Nat) (g : FoldJ → FoldJ) : (foldMod n g s).opens = s.opens := rfl
@[simp] theorem foldMod_landings (n : Nat) (g : FoldJ → FoldJ) : (foldMod n g s).landings = s.landings := rfl
@[simp] theorem foldMod_connLt (n : Nat) (g : FoldJ → FoldJ) : (foldMod n g s).connLt = s.connLt := rfl
@[simp] theorem foldMod_sidNext (n : Nat) (g : FoldJ → FoldJ) : (foldMod n g s).sidNext = s.sidNext := rfl
@[simp] theorem foldMod_ltkQ (n : Nat) (g : FoldJ → FoldJ) : (foldMod n g s).ltkQ = s.ltkQ := rfl
@[simp] theorem foldMod_ltkPaths (n : Nat) (g : FoldJ → FoldJ) : (foldMod n g s).ltkPaths = s.ltkPaths := rfl
@[simp] theorem foldMod_ltkRoutes (n : Nat) (g : FoldJ → FoldJ) : (foldMod n g s).ltkRoutes = s.ltkRoutes := rfl
@[simp] theorem foldMod_ltkPause (n : Nat) (g : FoldJ → FoldJ) : (foldMod n g s).ltkPause = s.ltkPause := rfl
@[simp] theorem foldMod_ptpGood (n : Nat) (g : FoldJ → FoldJ) : (foldMod n g s).ptpGood = s.ptpGood := rfl
@[simp] theorem foldMod_held (n : Nat) (g : FoldJ → FoldJ) : (foldMod n g s).held = s.held := rfl
@[simp] theorem foldMod_hostEnts (n : Nat) (g : FoldJ → FoldJ) : (foldMod n g s).hostEnts = s.hostEnts := rfl
@[simp] theorem foldMod_hrings (n : Nat) (g : FoldJ → FoldJ) : (foldMod n g s).hrings = s.hrings := rfl
@[simp] theorem foldMod_hostNext (n : Nat) (g : FoldJ → FoldJ) : (foldMod n g s).hostNext = s.hostNext := rfl
@[simp] theorem foldMod_aer (n : Nat) (g : FoldJ → FoldJ) : (foldMod n g s).aer = s.aer := rfl
@[simp] theorem foldMod_tcache (n : Nat) (g : FoldJ → FoldJ) : (foldMod n g s).tcache = s.tcache := rfl
@[simp] theorem foldMod_fabCyc (n : Nat) (g : FoldJ → FoldJ) : (foldMod n g s).fabCyc = s.fabCyc := rfl
@[simp] theorem foldMod_used (n : Nat) (g : FoldJ → FoldJ) : (foldMod n g s).used = s.used := rfl
@[simp] theorem foldMod_slotAt (n : Nat) (g : FoldJ → FoldJ) : (foldMod n g s).slotAt = s.slotAt := rfl
@[simp] theorem foldMod_capNext (n : Nat) (g : FoldJ → FoldJ) : (foldMod n g s).capNext = s.capNext := rfl
@[simp] theorem foldMod_ats (n : Nat) (g : FoldJ → FoldJ) : (foldMod n g s).ats = s.ats := rfl
@[simp] theorem foldMod_pageReqs (n : Nat) (g : FoldJ → FoldJ) : (foldMod n g s).pageReqs = s.pageReqs := rfl
@[simp] theorem foldMod_prgNext (n : Nat) (g : FoldJ → FoldJ) : (foldMod n g s).prgNext = s.prgNext := rfl
@[simp] theorem foldMod_atsInv (n : Nat) (g : FoldJ → FoldJ) : (foldMod n g s).atsInv = s.atsInv := rfl
@[simp] theorem foldMod_atsEn (n : Nat) (g : FoldJ → FoldJ) : (foldMod n g s).atsEn = s.atsEn := rfl
@[simp] theorem foldMod_priEn (n : Nat) (g : FoldJ → FoldJ) : (foldMod n g s).priEn = s.priEn := rfl
@[simp] theorem foldMod_priAlloc (n : Nat) (g : FoldJ → FoldJ) : (foldMod n g s).priAlloc = s.priAlloc := rfl
@[simp] theorem foldMod_winShare (n : Nat) (g : FoldJ → FoldJ) : (foldMod n g s).winShare = s.winShare := rfl
@[simp] theorem foldMod_sinks (n : Nat) (g : FoldJ → FoldJ) : (foldMod n g s).sinks = s.sinks := rfl
@[simp] theorem foldMod_scrubAt (n : Nat) (g : FoldJ → FoldJ) : (foldMod n g s).scrubAt = s.scrubAt := rfl
@[simp] theorem foldMod_mem (n : Nat) (g : FoldJ → FoldJ) : (foldMod n g s).mem = s.mem := rfl
@[simp] theorem foldMod_memEpoch (n : Nat) (g : FoldJ → FoldJ) : (foldMod n g s).memEpoch = s.memEpoch := rfl
@[simp] theorem foldMod_lines (n : Nat) (g : FoldJ → FoldJ) : (foldMod n g s).lines = s.lines := rfl
@[simp] theorem foldMod_pools (n : Nat) (g : FoldJ → FoldJ) : (foldMod n g s).pools = s.pools := rfl
@[simp] theorem foldMod_byrQ (n : Nat) (g : FoldJ → FoldJ) : (foldMod n g s).byrQ = s.byrQ := rfl
@[simp] theorem foldMod_byrCmd (n : Nat) (g : FoldJ → FoldJ) : (foldMod n g s).byrCmd = s.byrCmd := rfl
@[simp] theorem foldMod_tlyShadow (n : Nat) (g : FoldJ → FoldJ) : (foldMod n g s).tlyShadow = s.tlyShadow := rfl
@[simp] theorem foldMod_connShadow (n : Nat) (g : FoldJ → FoldJ) : (foldMod n g s).connShadow = s.connShadow := rfl
@[simp] theorem foldMod_watches (n : Nat) (g : FoldJ → FoldJ) : (foldMod n g s).watches = s.watches := rfl
@[simp] theorem foldMod_keys (n : Nat) (g : FoldJ → FoldJ) : (foldMod n g s).keys = s.keys := rfl
@[simp] theorem foldMod_ration (n : Nat) (g : FoldJ → FoldJ) : (foldMod n g s).ration = s.ration := rfl
@[simp] theorem foldMod_pmTry (n : Nat) (g : FoldJ → FoldJ) : (foldMod n g s).pmTry = s.pmTry := rfl
@[simp] theorem foldMod_pldmQ (n : Nat) (g : FoldJ → FoldJ) : (foldMod n g s).pldmQ = s.pldmQ := rfl
@[simp] theorem foldMod_mgmt (n : Nat) (g : FoldJ → FoldJ) : (foldMod n g s).mgmt = s.mgmt := rfl
@[simp] theorem foldMod_pwr (n : Nat) (g : FoldJ → FoldJ) : (foldMod n g s).pwr = s.pwr := rfl
@[simp] theorem foldMod_cfg (n : Nat) (g : FoldJ → FoldJ) : (foldMod n g s).cfg = s.cfg := rfl
@[simp] theorem foldMod_tap (n : Nat) (g : FoldJ → FoldJ) : (foldMod n g s).tap = s.tap := rfl
@[simp] theorem foldMod_mwins (n : Nat) (g : FoldJ → FoldJ) : (foldMod n g s).mwins = s.mwins := rfl
@[simp] theorem foldMod_openAt (n : Nat) (g : FoldJ → FoldJ) : (foldMod n g s).openAt = s.openAt := rfl
@[simp] theorem foldMod_whsLands (n : Nat) (g : FoldJ → FoldJ) : (foldMod n g s).whsLands = s.whsLands := rfl
@[simp] theorem foldMod_accWaits (n : Nat) (g : FoldJ → FoldJ) : (foldMod n g s).accWaits = s.accWaits := rfl
@[simp] theorem foldMod_formAt (n : Nat) (g : FoldJ → FoldJ) : (foldMod n g s).formAt = s.formAt := rfl
@[simp] theorem foldMod_admSeq (n : Nat) (g : FoldJ → FoldJ) : (foldMod n g s).admSeq = s.admSeq := rfl
@[simp] theorem foldMod_spMark (n : Nat) (g : FoldJ → FoldJ) : (foldMod n g s).spMark = s.spMark := rfl
@[simp] theorem foldMod_bellLate (n : Nat) (g : FoldJ → FoldJ) : (foldMod n g s).bellLate = s.bellLate := rfl
@[simp] theorem foldMod_pending (n : Nat) (g : FoldJ → FoldJ) : (foldMod n g s).pending = s.pending := rfl
@[simp] theorem rdW_foldMod (n : Nat) (g : FoldJ → FoldJ) (rb : Blk) (ri ro : Nat) : rdW (foldMod n g s) rb ri ro = rdW s rb ri ro := rfl
@[simp] theorem rd_foldMod (n : Nat) (g : FoldJ → FoldJ) (rf : Fld) (ri : Nat) : rd (foldMod n g s) rf ri = rd s rf ri := rfl
@[simp] theorem rdB_foldMod (n : Nat) (g : FoldJ → FoldJ) (rf : Fld) (ri : Nat) : rdB (foldMod n g s) rf ri = rdB s rf ri := rfl

/-! ### watchMod -/

@[simp] theorem watchMod_now (n : Nat) (g : Watch → Watch) : (watchMod n g s).now = s.now := rfl
@[simp] theorem watchMod_freeCtr (n : Nat) (g : Watch → Watch) : (watchMod n g s).freeCtr = s.freeCtr := rfl
@[simp] theorem watchMod_regs (n : Nat) (g : Watch → Watch) : (watchMod n g s).regs = s.regs := rfl
@[simp] theorem watchMod_bellPend (n : Nat) (g : Watch → Watch) : (watchMod n g s).bellPend = s.bellPend := rfl
@[simp] theorem watchMod_rearmPend (n : Nat) (g : Watch → Watch) : (watchMod n g s).rearmPend = s.rearmPend := rfl
@[simp] theorem watchMod_fixedDone (n : Nat) (g : Watch → Watch) : (watchMod n g s).fixedDone = s.fixedDone := rfl
@[simp] theorem watchMod_outbox (n : Nat) (g : Watch → Watch) : (watchMod n g s).outbox = s.outbox := rfl
@[simp] theorem watchMod_bellLock (n : Nat) (g : Watch → Watch) : (watchMod n g s).bellLock = s.bellLock := rfl
@[simp] theorem watchMod_aliveOut (n : Nat) (g : Watch → Watch) : (watchMod n g s).aliveOut = s.aliveOut := rfl
@[simp] theorem watchMod_bell (n : Nat) (g : Watch → Watch) : (watchMod n g s).bell = s.bell := rfl
@[simp] theorem watchMod_pdks (n : Nat) (g : Watch → Watch) : (watchMod n g s).pdks = s.pdks := rfl
@[simp] theorem watchMod_vfEnable (n : Nat) (g : Watch → Watch) : (watchMod n g s).vfEnable = s.vfEnable := rfl
@[simp] theorem watchMod_numVfs (n : Nat) (g : Watch → Watch) : (watchMod n g s).numVfs = s.numVfs := rfl
@[simp] theorem watchMod_fns (n : Nat) (g : Watch → Watch) : (watchMod n g s).fns = s.fns := rfl
@[simp] theorem watchMod_pfEvents (n : Nat) (g : Watch → Watch) : (watchMod n g s).pfEvents = s.pfEvents := rfl
@[simp] theorem watchMod_pfLost (n : Nat) (g : Watch → Watch) : (watchMod n g s).pfLost = s.pfLost := rfl
@[simp] theorem watchMod_fbk (n : Nat) (g : Watch → Watch) : (watchMod n g s).fbk = s.fbk := rfl
@[simp] theorem watchMod_cores (n : Nat) (g : Watch → Watch) : (watchMod n g s).cores = s.cores := rfl
@[simp] theorem watchMod_meshes (n : Nat) (g : Watch → Watch) : (watchMod n g s).meshes = s.meshes := rfl
@[simp] theorem watchMod_links (n : Nat) (g : Watch → Watch) : (watchMod n g s).links = s.links := rfl
@[simp] theorem watchMod_sp (n : Nat) (g : Watch → Watch) : (watchMod n g s).sp = s.sp := rfl
@[simp] theorem watchMod_spEpoch (n : Nat) (g : Watch → Watch) : (watchMod n g s).spEpoch = s.spEpoch := rfl
@[simp] theorem watchMod_imem (n : Nat) (g : Watch → Watch) : (watchMod n g s).imem = s.imem := rfl
@[simp] theorem watchMod_rslot (n : Nat) (g : Watch → Watch) : (watchMod n g s).rslot = s.rslot := rfl
@[simp] theorem watchMod_tile (n : Nat) (g : Watch → Watch) : (watchMod n g s).tile = s.tile := rfl
@[simp] theorem watchMod_acc (n : Nat) (g : Watch → Watch) : (watchMod n g s).acc = s.acc := rfl
@[simp] theorem watchMod_shadow (n : Nat) (g : Watch → Watch) : (watchMod n g s).shadow = s.shadow := rfl
@[simp] theorem watchMod_desc (n : Nat) (g : Watch → Watch) : (watchMod n g s).desc = s.desc := rfl
@[simp] theorem watchMod_frameChk (n : Nat) (g : Watch → Watch) : (watchMod n g s).frameChk = s.frameChk := rfl
@[simp] theorem watchMod_ht (n : Nat) (g : Watch → Watch) : (watchMod n g s).ht = s.ht := rfl
@[simp] theorem watchMod_wlkDue (n : Nat) (g : Watch → Watch) : (watchMod n g s).wlkDue = s.wlkDue := rfl
@[simp] theorem watchMod_walkers (n : Nat) (g : Watch → Watch) : (watchMod n g s).walkers = s.walkers := rfl
@[simp] theorem watchMod_wlkDone (n : Nat) (g : Watch → Watch) : (watchMod n g s).wlkDone = s.wlkDone := rfl
@[simp] theorem watchMod_mcores (n : Nat) (g : Watch → Watch) : (watchMod n g s).mcores = s.mcores := rfl
@[simp] theorem watchMod_mslice (n : Nat) (g : Watch → Watch) : (watchMod n g s).mslice = s.mslice := rfl
@[simp] theorem watchMod_mblast (n : Nat) (g : Watch → Watch) : (watchMod n g s).mblast = s.mblast := rfl
@[simp] theorem watchMod_repairs (n : Nat) (g : Watch → Watch) : (watchMod n g s).repairs = s.repairs := rfl
@[simp] theorem watchMod_ctxs (n : Nat) (g : Watch → Watch) : (watchMod n g s).ctxs = s.ctxs := rfl
@[simp] theorem watchMod_leaCyc (n : Nat) (g : Watch → Watch) : (watchMod n g s).leaCyc = s.leaCyc := rfl
@[simp] theorem watchMod_fab (n : Nat) (g : Watch → Watch) : (watchMod n g s).fab = s.fab := rfl
@[simp] theorem watchMod_tlyQ (n : Nat) (g : Watch → Watch) : (watchMod n g s).tlyQ = s.tlyQ := rfl
@[simp] theorem watchMod_tlyWaits (n : Nat) (g : Watch → Watch) : (watchMod n g s).tlyWaits = s.tlyWaits := rfl
@[simp] theorem watchMod_whsQ (n : Nat) (g : Watch → Watch) : (watchMod n g s).whsQ = s.whsQ := rfl
@[simp] theorem watchMod_sends (n : Nat) (g : Watch → Watch) : (watchMod n g s).sends = s.sends := rfl
@[simp] theorem watchMod_rqs (n : Nat) (g : Watch → Watch) : (watchMod n g s).rqs = s.rqs := rfl
@[simp] theorem watchMod_spills (n : Nat) (g : Watch → Watch) : (watchMod n g s).spills = s.spills := rfl
@[simp] theorem watchMod_opens (n : Nat) (g : Watch → Watch) : (watchMod n g s).opens = s.opens := rfl
@[simp] theorem watchMod_landings (n : Nat) (g : Watch → Watch) : (watchMod n g s).landings = s.landings := rfl
@[simp] theorem watchMod_connLt (n : Nat) (g : Watch → Watch) : (watchMod n g s).connLt = s.connLt := rfl
@[simp] theorem watchMod_sidNext (n : Nat) (g : Watch → Watch) : (watchMod n g s).sidNext = s.sidNext := rfl
@[simp] theorem watchMod_ltkQ (n : Nat) (g : Watch → Watch) : (watchMod n g s).ltkQ = s.ltkQ := rfl
@[simp] theorem watchMod_ltkPaths (n : Nat) (g : Watch → Watch) : (watchMod n g s).ltkPaths = s.ltkPaths := rfl
@[simp] theorem watchMod_ltkRoutes (n : Nat) (g : Watch → Watch) : (watchMod n g s).ltkRoutes = s.ltkRoutes := rfl
@[simp] theorem watchMod_ltkPause (n : Nat) (g : Watch → Watch) : (watchMod n g s).ltkPause = s.ltkPause := rfl
@[simp] theorem watchMod_ptpGood (n : Nat) (g : Watch → Watch) : (watchMod n g s).ptpGood = s.ptpGood := rfl
@[simp] theorem watchMod_held (n : Nat) (g : Watch → Watch) : (watchMod n g s).held = s.held := rfl
@[simp] theorem watchMod_hostEnts (n : Nat) (g : Watch → Watch) : (watchMod n g s).hostEnts = s.hostEnts := rfl
@[simp] theorem watchMod_hrings (n : Nat) (g : Watch → Watch) : (watchMod n g s).hrings = s.hrings := rfl
@[simp] theorem watchMod_hostNext (n : Nat) (g : Watch → Watch) : (watchMod n g s).hostNext = s.hostNext := rfl
@[simp] theorem watchMod_aer (n : Nat) (g : Watch → Watch) : (watchMod n g s).aer = s.aer := rfl
@[simp] theorem watchMod_tcache (n : Nat) (g : Watch → Watch) : (watchMod n g s).tcache = s.tcache := rfl
@[simp] theorem watchMod_fabCyc (n : Nat) (g : Watch → Watch) : (watchMod n g s).fabCyc = s.fabCyc := rfl
@[simp] theorem watchMod_used (n : Nat) (g : Watch → Watch) : (watchMod n g s).used = s.used := rfl
@[simp] theorem watchMod_slotAt (n : Nat) (g : Watch → Watch) : (watchMod n g s).slotAt = s.slotAt := rfl
@[simp] theorem watchMod_capNext (n : Nat) (g : Watch → Watch) : (watchMod n g s).capNext = s.capNext := rfl
@[simp] theorem watchMod_ats (n : Nat) (g : Watch → Watch) : (watchMod n g s).ats = s.ats := rfl
@[simp] theorem watchMod_pageReqs (n : Nat) (g : Watch → Watch) : (watchMod n g s).pageReqs = s.pageReqs := rfl
@[simp] theorem watchMod_prgNext (n : Nat) (g : Watch → Watch) : (watchMod n g s).prgNext = s.prgNext := rfl
@[simp] theorem watchMod_atsInv (n : Nat) (g : Watch → Watch) : (watchMod n g s).atsInv = s.atsInv := rfl
@[simp] theorem watchMod_atsEn (n : Nat) (g : Watch → Watch) : (watchMod n g s).atsEn = s.atsEn := rfl
@[simp] theorem watchMod_priEn (n : Nat) (g : Watch → Watch) : (watchMod n g s).priEn = s.priEn := rfl
@[simp] theorem watchMod_priAlloc (n : Nat) (g : Watch → Watch) : (watchMod n g s).priAlloc = s.priAlloc := rfl
@[simp] theorem watchMod_winShare (n : Nat) (g : Watch → Watch) : (watchMod n g s).winShare = s.winShare := rfl
@[simp] theorem watchMod_sinks (n : Nat) (g : Watch → Watch) : (watchMod n g s).sinks = s.sinks := rfl
@[simp] theorem watchMod_scrubAt (n : Nat) (g : Watch → Watch) : (watchMod n g s).scrubAt = s.scrubAt := rfl
@[simp] theorem watchMod_mem (n : Nat) (g : Watch → Watch) : (watchMod n g s).mem = s.mem := rfl
@[simp] theorem watchMod_memEpoch (n : Nat) (g : Watch → Watch) : (watchMod n g s).memEpoch = s.memEpoch := rfl
@[simp] theorem watchMod_lines (n : Nat) (g : Watch → Watch) : (watchMod n g s).lines = s.lines := rfl
@[simp] theorem watchMod_pools (n : Nat) (g : Watch → Watch) : (watchMod n g s).pools = s.pools := rfl
@[simp] theorem watchMod_byrQ (n : Nat) (g : Watch → Watch) : (watchMod n g s).byrQ = s.byrQ := rfl
@[simp] theorem watchMod_byrCmd (n : Nat) (g : Watch → Watch) : (watchMod n g s).byrCmd = s.byrCmd := rfl
@[simp] theorem watchMod_tlyShadow (n : Nat) (g : Watch → Watch) : (watchMod n g s).tlyShadow = s.tlyShadow := rfl
@[simp] theorem watchMod_connShadow (n : Nat) (g : Watch → Watch) : (watchMod n g s).connShadow = s.connShadow := rfl
@[simp] theorem watchMod_folds (n : Nat) (g : Watch → Watch) : (watchMod n g s).folds = s.folds := rfl
@[simp] theorem watchMod_keys (n : Nat) (g : Watch → Watch) : (watchMod n g s).keys = s.keys := rfl
@[simp] theorem watchMod_ration (n : Nat) (g : Watch → Watch) : (watchMod n g s).ration = s.ration := rfl
@[simp] theorem watchMod_pmTry (n : Nat) (g : Watch → Watch) : (watchMod n g s).pmTry = s.pmTry := rfl
@[simp] theorem watchMod_pldmQ (n : Nat) (g : Watch → Watch) : (watchMod n g s).pldmQ = s.pldmQ := rfl
@[simp] theorem watchMod_mgmt (n : Nat) (g : Watch → Watch) : (watchMod n g s).mgmt = s.mgmt := rfl
@[simp] theorem watchMod_pwr (n : Nat) (g : Watch → Watch) : (watchMod n g s).pwr = s.pwr := rfl
@[simp] theorem watchMod_cfg (n : Nat) (g : Watch → Watch) : (watchMod n g s).cfg = s.cfg := rfl
@[simp] theorem watchMod_tap (n : Nat) (g : Watch → Watch) : (watchMod n g s).tap = s.tap := rfl
@[simp] theorem watchMod_mwins (n : Nat) (g : Watch → Watch) : (watchMod n g s).mwins = s.mwins := rfl
@[simp] theorem watchMod_openAt (n : Nat) (g : Watch → Watch) : (watchMod n g s).openAt = s.openAt := rfl
@[simp] theorem watchMod_whsLands (n : Nat) (g : Watch → Watch) : (watchMod n g s).whsLands = s.whsLands := rfl
@[simp] theorem watchMod_accWaits (n : Nat) (g : Watch → Watch) : (watchMod n g s).accWaits = s.accWaits := rfl
@[simp] theorem watchMod_formAt (n : Nat) (g : Watch → Watch) : (watchMod n g s).formAt = s.formAt := rfl
@[simp] theorem watchMod_admSeq (n : Nat) (g : Watch → Watch) : (watchMod n g s).admSeq = s.admSeq := rfl
@[simp] theorem watchMod_spMark (n : Nat) (g : Watch → Watch) : (watchMod n g s).spMark = s.spMark := rfl
@[simp] theorem watchMod_bellLate (n : Nat) (g : Watch → Watch) : (watchMod n g s).bellLate = s.bellLate := rfl
@[simp] theorem watchMod_pending (n : Nat) (g : Watch → Watch) : (watchMod n g s).pending = s.pending := rfl
@[simp] theorem rdW_watchMod (n : Nat) (g : Watch → Watch) (rb : Blk) (ri ro : Nat) : rdW (watchMod n g s) rb ri ro = rdW s rb ri ro := rfl
@[simp] theorem rd_watchMod (n : Nat) (g : Watch → Watch) (rf : Fld) (ri : Nat) : rd (watchMod n g s) rf ri = rd s rf ri := rfl
@[simp] theorem rdB_watchMod (n : Nat) (g : Watch → Watch) (rf : Fld) (ri : Nat) : rdB (watchMod n g s) rf ri = rdB s rf ri := rfl

/-! ### sinkMod -/

@[simp] theorem sinkMod_now (n : Nat) (g : Sink → Sink) : (sinkMod n g s).now = s.now := rfl
@[simp] theorem sinkMod_freeCtr (n : Nat) (g : Sink → Sink) : (sinkMod n g s).freeCtr = s.freeCtr := rfl
@[simp] theorem sinkMod_regs (n : Nat) (g : Sink → Sink) : (sinkMod n g s).regs = s.regs := rfl
@[simp] theorem sinkMod_bellPend (n : Nat) (g : Sink → Sink) : (sinkMod n g s).bellPend = s.bellPend := rfl
@[simp] theorem sinkMod_rearmPend (n : Nat) (g : Sink → Sink) : (sinkMod n g s).rearmPend = s.rearmPend := rfl
@[simp] theorem sinkMod_fixedDone (n : Nat) (g : Sink → Sink) : (sinkMod n g s).fixedDone = s.fixedDone := rfl
@[simp] theorem sinkMod_outbox (n : Nat) (g : Sink → Sink) : (sinkMod n g s).outbox = s.outbox := rfl
@[simp] theorem sinkMod_bellLock (n : Nat) (g : Sink → Sink) : (sinkMod n g s).bellLock = s.bellLock := rfl
@[simp] theorem sinkMod_aliveOut (n : Nat) (g : Sink → Sink) : (sinkMod n g s).aliveOut = s.aliveOut := rfl
@[simp] theorem sinkMod_bell (n : Nat) (g : Sink → Sink) : (sinkMod n g s).bell = s.bell := rfl
@[simp] theorem sinkMod_pdks (n : Nat) (g : Sink → Sink) : (sinkMod n g s).pdks = s.pdks := rfl
@[simp] theorem sinkMod_vfEnable (n : Nat) (g : Sink → Sink) : (sinkMod n g s).vfEnable = s.vfEnable := rfl
@[simp] theorem sinkMod_numVfs (n : Nat) (g : Sink → Sink) : (sinkMod n g s).numVfs = s.numVfs := rfl
@[simp] theorem sinkMod_fns (n : Nat) (g : Sink → Sink) : (sinkMod n g s).fns = s.fns := rfl
@[simp] theorem sinkMod_pfEvents (n : Nat) (g : Sink → Sink) : (sinkMod n g s).pfEvents = s.pfEvents := rfl
@[simp] theorem sinkMod_pfLost (n : Nat) (g : Sink → Sink) : (sinkMod n g s).pfLost = s.pfLost := rfl
@[simp] theorem sinkMod_fbk (n : Nat) (g : Sink → Sink) : (sinkMod n g s).fbk = s.fbk := rfl
@[simp] theorem sinkMod_cores (n : Nat) (g : Sink → Sink) : (sinkMod n g s).cores = s.cores := rfl
@[simp] theorem sinkMod_meshes (n : Nat) (g : Sink → Sink) : (sinkMod n g s).meshes = s.meshes := rfl
@[simp] theorem sinkMod_links (n : Nat) (g : Sink → Sink) : (sinkMod n g s).links = s.links := rfl
@[simp] theorem sinkMod_sp (n : Nat) (g : Sink → Sink) : (sinkMod n g s).sp = s.sp := rfl
@[simp] theorem sinkMod_spEpoch (n : Nat) (g : Sink → Sink) : (sinkMod n g s).spEpoch = s.spEpoch := rfl
@[simp] theorem sinkMod_imem (n : Nat) (g : Sink → Sink) : (sinkMod n g s).imem = s.imem := rfl
@[simp] theorem sinkMod_rslot (n : Nat) (g : Sink → Sink) : (sinkMod n g s).rslot = s.rslot := rfl
@[simp] theorem sinkMod_tile (n : Nat) (g : Sink → Sink) : (sinkMod n g s).tile = s.tile := rfl
@[simp] theorem sinkMod_acc (n : Nat) (g : Sink → Sink) : (sinkMod n g s).acc = s.acc := rfl
@[simp] theorem sinkMod_shadow (n : Nat) (g : Sink → Sink) : (sinkMod n g s).shadow = s.shadow := rfl
@[simp] theorem sinkMod_desc (n : Nat) (g : Sink → Sink) : (sinkMod n g s).desc = s.desc := rfl
@[simp] theorem sinkMod_frameChk (n : Nat) (g : Sink → Sink) : (sinkMod n g s).frameChk = s.frameChk := rfl
@[simp] theorem sinkMod_ht (n : Nat) (g : Sink → Sink) : (sinkMod n g s).ht = s.ht := rfl
@[simp] theorem sinkMod_wlkDue (n : Nat) (g : Sink → Sink) : (sinkMod n g s).wlkDue = s.wlkDue := rfl
@[simp] theorem sinkMod_walkers (n : Nat) (g : Sink → Sink) : (sinkMod n g s).walkers = s.walkers := rfl
@[simp] theorem sinkMod_wlkDone (n : Nat) (g : Sink → Sink) : (sinkMod n g s).wlkDone = s.wlkDone := rfl
@[simp] theorem sinkMod_mcores (n : Nat) (g : Sink → Sink) : (sinkMod n g s).mcores = s.mcores := rfl
@[simp] theorem sinkMod_mslice (n : Nat) (g : Sink → Sink) : (sinkMod n g s).mslice = s.mslice := rfl
@[simp] theorem sinkMod_mblast (n : Nat) (g : Sink → Sink) : (sinkMod n g s).mblast = s.mblast := rfl
@[simp] theorem sinkMod_repairs (n : Nat) (g : Sink → Sink) : (sinkMod n g s).repairs = s.repairs := rfl
@[simp] theorem sinkMod_ctxs (n : Nat) (g : Sink → Sink) : (sinkMod n g s).ctxs = s.ctxs := rfl
@[simp] theorem sinkMod_leaCyc (n : Nat) (g : Sink → Sink) : (sinkMod n g s).leaCyc = s.leaCyc := rfl
@[simp] theorem sinkMod_fab (n : Nat) (g : Sink → Sink) : (sinkMod n g s).fab = s.fab := rfl
@[simp] theorem sinkMod_tlyQ (n : Nat) (g : Sink → Sink) : (sinkMod n g s).tlyQ = s.tlyQ := rfl
@[simp] theorem sinkMod_tlyWaits (n : Nat) (g : Sink → Sink) : (sinkMod n g s).tlyWaits = s.tlyWaits := rfl
@[simp] theorem sinkMod_whsQ (n : Nat) (g : Sink → Sink) : (sinkMod n g s).whsQ = s.whsQ := rfl
@[simp] theorem sinkMod_sends (n : Nat) (g : Sink → Sink) : (sinkMod n g s).sends = s.sends := rfl
@[simp] theorem sinkMod_rqs (n : Nat) (g : Sink → Sink) : (sinkMod n g s).rqs = s.rqs := rfl
@[simp] theorem sinkMod_spills (n : Nat) (g : Sink → Sink) : (sinkMod n g s).spills = s.spills := rfl
@[simp] theorem sinkMod_opens (n : Nat) (g : Sink → Sink) : (sinkMod n g s).opens = s.opens := rfl
@[simp] theorem sinkMod_landings (n : Nat) (g : Sink → Sink) : (sinkMod n g s).landings = s.landings := rfl
@[simp] theorem sinkMod_connLt (n : Nat) (g : Sink → Sink) : (sinkMod n g s).connLt = s.connLt := rfl
@[simp] theorem sinkMod_sidNext (n : Nat) (g : Sink → Sink) : (sinkMod n g s).sidNext = s.sidNext := rfl
@[simp] theorem sinkMod_ltkQ (n : Nat) (g : Sink → Sink) : (sinkMod n g s).ltkQ = s.ltkQ := rfl
@[simp] theorem sinkMod_ltkPaths (n : Nat) (g : Sink → Sink) : (sinkMod n g s).ltkPaths = s.ltkPaths := rfl
@[simp] theorem sinkMod_ltkRoutes (n : Nat) (g : Sink → Sink) : (sinkMod n g s).ltkRoutes = s.ltkRoutes := rfl
@[simp] theorem sinkMod_ltkPause (n : Nat) (g : Sink → Sink) : (sinkMod n g s).ltkPause = s.ltkPause := rfl
@[simp] theorem sinkMod_ptpGood (n : Nat) (g : Sink → Sink) : (sinkMod n g s).ptpGood = s.ptpGood := rfl
@[simp] theorem sinkMod_held (n : Nat) (g : Sink → Sink) : (sinkMod n g s).held = s.held := rfl
@[simp] theorem sinkMod_hostEnts (n : Nat) (g : Sink → Sink) : (sinkMod n g s).hostEnts = s.hostEnts := rfl
@[simp] theorem sinkMod_hrings (n : Nat) (g : Sink → Sink) : (sinkMod n g s).hrings = s.hrings := rfl
@[simp] theorem sinkMod_hostNext (n : Nat) (g : Sink → Sink) : (sinkMod n g s).hostNext = s.hostNext := rfl
@[simp] theorem sinkMod_aer (n : Nat) (g : Sink → Sink) : (sinkMod n g s).aer = s.aer := rfl
@[simp] theorem sinkMod_tcache (n : Nat) (g : Sink → Sink) : (sinkMod n g s).tcache = s.tcache := rfl
@[simp] theorem sinkMod_fabCyc (n : Nat) (g : Sink → Sink) : (sinkMod n g s).fabCyc = s.fabCyc := rfl
@[simp] theorem sinkMod_used (n : Nat) (g : Sink → Sink) : (sinkMod n g s).used = s.used := rfl
@[simp] theorem sinkMod_slotAt (n : Nat) (g : Sink → Sink) : (sinkMod n g s).slotAt = s.slotAt := rfl
@[simp] theorem sinkMod_capNext (n : Nat) (g : Sink → Sink) : (sinkMod n g s).capNext = s.capNext := rfl
@[simp] theorem sinkMod_ats (n : Nat) (g : Sink → Sink) : (sinkMod n g s).ats = s.ats := rfl
@[simp] theorem sinkMod_pageReqs (n : Nat) (g : Sink → Sink) : (sinkMod n g s).pageReqs = s.pageReqs := rfl
@[simp] theorem sinkMod_prgNext (n : Nat) (g : Sink → Sink) : (sinkMod n g s).prgNext = s.prgNext := rfl
@[simp] theorem sinkMod_atsInv (n : Nat) (g : Sink → Sink) : (sinkMod n g s).atsInv = s.atsInv := rfl
@[simp] theorem sinkMod_atsEn (n : Nat) (g : Sink → Sink) : (sinkMod n g s).atsEn = s.atsEn := rfl
@[simp] theorem sinkMod_priEn (n : Nat) (g : Sink → Sink) : (sinkMod n g s).priEn = s.priEn := rfl
@[simp] theorem sinkMod_priAlloc (n : Nat) (g : Sink → Sink) : (sinkMod n g s).priAlloc = s.priAlloc := rfl
@[simp] theorem sinkMod_winShare (n : Nat) (g : Sink → Sink) : (sinkMod n g s).winShare = s.winShare := rfl
@[simp] theorem sinkMod_scrubAt (n : Nat) (g : Sink → Sink) : (sinkMod n g s).scrubAt = s.scrubAt := rfl
@[simp] theorem sinkMod_mem (n : Nat) (g : Sink → Sink) : (sinkMod n g s).mem = s.mem := rfl
@[simp] theorem sinkMod_memEpoch (n : Nat) (g : Sink → Sink) : (sinkMod n g s).memEpoch = s.memEpoch := rfl
@[simp] theorem sinkMod_lines (n : Nat) (g : Sink → Sink) : (sinkMod n g s).lines = s.lines := rfl
@[simp] theorem sinkMod_pools (n : Nat) (g : Sink → Sink) : (sinkMod n g s).pools = s.pools := rfl
@[simp] theorem sinkMod_byrQ (n : Nat) (g : Sink → Sink) : (sinkMod n g s).byrQ = s.byrQ := rfl
@[simp] theorem sinkMod_byrCmd (n : Nat) (g : Sink → Sink) : (sinkMod n g s).byrCmd = s.byrCmd := rfl
@[simp] theorem sinkMod_tlyShadow (n : Nat) (g : Sink → Sink) : (sinkMod n g s).tlyShadow = s.tlyShadow := rfl
@[simp] theorem sinkMod_connShadow (n : Nat) (g : Sink → Sink) : (sinkMod n g s).connShadow = s.connShadow := rfl
@[simp] theorem sinkMod_watches (n : Nat) (g : Sink → Sink) : (sinkMod n g s).watches = s.watches := rfl
@[simp] theorem sinkMod_folds (n : Nat) (g : Sink → Sink) : (sinkMod n g s).folds = s.folds := rfl
@[simp] theorem sinkMod_keys (n : Nat) (g : Sink → Sink) : (sinkMod n g s).keys = s.keys := rfl
@[simp] theorem sinkMod_ration (n : Nat) (g : Sink → Sink) : (sinkMod n g s).ration = s.ration := rfl
@[simp] theorem sinkMod_pmTry (n : Nat) (g : Sink → Sink) : (sinkMod n g s).pmTry = s.pmTry := rfl
@[simp] theorem sinkMod_pldmQ (n : Nat) (g : Sink → Sink) : (sinkMod n g s).pldmQ = s.pldmQ := rfl
@[simp] theorem sinkMod_mgmt (n : Nat) (g : Sink → Sink) : (sinkMod n g s).mgmt = s.mgmt := rfl
@[simp] theorem sinkMod_pwr (n : Nat) (g : Sink → Sink) : (sinkMod n g s).pwr = s.pwr := rfl
@[simp] theorem sinkMod_cfg (n : Nat) (g : Sink → Sink) : (sinkMod n g s).cfg = s.cfg := rfl
@[simp] theorem sinkMod_tap (n : Nat) (g : Sink → Sink) : (sinkMod n g s).tap = s.tap := rfl
@[simp] theorem sinkMod_mwins (n : Nat) (g : Sink → Sink) : (sinkMod n g s).mwins = s.mwins := rfl
@[simp] theorem sinkMod_openAt (n : Nat) (g : Sink → Sink) : (sinkMod n g s).openAt = s.openAt := rfl
@[simp] theorem sinkMod_whsLands (n : Nat) (g : Sink → Sink) : (sinkMod n g s).whsLands = s.whsLands := rfl
@[simp] theorem sinkMod_accWaits (n : Nat) (g : Sink → Sink) : (sinkMod n g s).accWaits = s.accWaits := rfl
@[simp] theorem sinkMod_formAt (n : Nat) (g : Sink → Sink) : (sinkMod n g s).formAt = s.formAt := rfl
@[simp] theorem sinkMod_admSeq (n : Nat) (g : Sink → Sink) : (sinkMod n g s).admSeq = s.admSeq := rfl
@[simp] theorem sinkMod_spMark (n : Nat) (g : Sink → Sink) : (sinkMod n g s).spMark = s.spMark := rfl
@[simp] theorem sinkMod_bellLate (n : Nat) (g : Sink → Sink) : (sinkMod n g s).bellLate = s.bellLate := rfl
@[simp] theorem sinkMod_pending (n : Nat) (g : Sink → Sink) : (sinkMod n g s).pending = s.pending := rfl
@[simp] theorem rdW_sinkMod (n : Nat) (g : Sink → Sink) (rb : Blk) (ri ro : Nat) : rdW (sinkMod n g s) rb ri ro = rdW s rb ri ro := rfl
@[simp] theorem rd_sinkMod (n : Nat) (g : Sink → Sink) (rf : Fld) (ri : Nat) : rd (sinkMod n g s) rf ri = rd s rf ri := rfl
@[simp] theorem rdB_sinkMod (n : Nat) (g : Sink → Sink) (rf : Fld) (ri : Nat) : rdB (sinkMod n g s) rf ri = rdB s rf ri := rfl

/-! ### poolMod -/

@[simp] theorem poolMod_now (d : Nat) (j : Nat) (g : PoolS → PoolS) : (poolMod d j g s).now = s.now := rfl
@[simp] theorem poolMod_freeCtr (d : Nat) (j : Nat) (g : PoolS → PoolS) : (poolMod d j g s).freeCtr = s.freeCtr := rfl
@[simp] theorem poolMod_regs (d : Nat) (j : Nat) (g : PoolS → PoolS) : (poolMod d j g s).regs = s.regs := rfl
@[simp] theorem poolMod_bellPend (d : Nat) (j : Nat) (g : PoolS → PoolS) : (poolMod d j g s).bellPend = s.bellPend := rfl
@[simp] theorem poolMod_rearmPend (d : Nat) (j : Nat) (g : PoolS → PoolS) : (poolMod d j g s).rearmPend = s.rearmPend := rfl
@[simp] theorem poolMod_fixedDone (d : Nat) (j : Nat) (g : PoolS → PoolS) : (poolMod d j g s).fixedDone = s.fixedDone := rfl
@[simp] theorem poolMod_outbox (d : Nat) (j : Nat) (g : PoolS → PoolS) : (poolMod d j g s).outbox = s.outbox := rfl
@[simp] theorem poolMod_bellLock (d : Nat) (j : Nat) (g : PoolS → PoolS) : (poolMod d j g s).bellLock = s.bellLock := rfl
@[simp] theorem poolMod_aliveOut (d : Nat) (j : Nat) (g : PoolS → PoolS) : (poolMod d j g s).aliveOut = s.aliveOut := rfl
@[simp] theorem poolMod_bell (d : Nat) (j : Nat) (g : PoolS → PoolS) : (poolMod d j g s).bell = s.bell := rfl
@[simp] theorem poolMod_pdks (d : Nat) (j : Nat) (g : PoolS → PoolS) : (poolMod d j g s).pdks = s.pdks := rfl
@[simp] theorem poolMod_vfEnable (d : Nat) (j : Nat) (g : PoolS → PoolS) : (poolMod d j g s).vfEnable = s.vfEnable := rfl
@[simp] theorem poolMod_numVfs (d : Nat) (j : Nat) (g : PoolS → PoolS) : (poolMod d j g s).numVfs = s.numVfs := rfl
@[simp] theorem poolMod_fns (d : Nat) (j : Nat) (g : PoolS → PoolS) : (poolMod d j g s).fns = s.fns := rfl
@[simp] theorem poolMod_pfEvents (d : Nat) (j : Nat) (g : PoolS → PoolS) : (poolMod d j g s).pfEvents = s.pfEvents := rfl
@[simp] theorem poolMod_pfLost (d : Nat) (j : Nat) (g : PoolS → PoolS) : (poolMod d j g s).pfLost = s.pfLost := rfl
@[simp] theorem poolMod_fbk (d : Nat) (j : Nat) (g : PoolS → PoolS) : (poolMod d j g s).fbk = s.fbk := rfl
@[simp] theorem poolMod_cores (d : Nat) (j : Nat) (g : PoolS → PoolS) : (poolMod d j g s).cores = s.cores := rfl
@[simp] theorem poolMod_meshes (d : Nat) (j : Nat) (g : PoolS → PoolS) : (poolMod d j g s).meshes = s.meshes := rfl
@[simp] theorem poolMod_links (d : Nat) (j : Nat) (g : PoolS → PoolS) : (poolMod d j g s).links = s.links := rfl
@[simp] theorem poolMod_sp (d : Nat) (j : Nat) (g : PoolS → PoolS) : (poolMod d j g s).sp = s.sp := rfl
@[simp] theorem poolMod_spEpoch (d : Nat) (j : Nat) (g : PoolS → PoolS) : (poolMod d j g s).spEpoch = s.spEpoch := rfl
@[simp] theorem poolMod_imem (d : Nat) (j : Nat) (g : PoolS → PoolS) : (poolMod d j g s).imem = s.imem := rfl
@[simp] theorem poolMod_rslot (d : Nat) (j : Nat) (g : PoolS → PoolS) : (poolMod d j g s).rslot = s.rslot := rfl
@[simp] theorem poolMod_tile (d : Nat) (j : Nat) (g : PoolS → PoolS) : (poolMod d j g s).tile = s.tile := rfl
@[simp] theorem poolMod_acc (d : Nat) (j : Nat) (g : PoolS → PoolS) : (poolMod d j g s).acc = s.acc := rfl
@[simp] theorem poolMod_shadow (d : Nat) (j : Nat) (g : PoolS → PoolS) : (poolMod d j g s).shadow = s.shadow := rfl
@[simp] theorem poolMod_desc (d : Nat) (j : Nat) (g : PoolS → PoolS) : (poolMod d j g s).desc = s.desc := rfl
@[simp] theorem poolMod_frameChk (d : Nat) (j : Nat) (g : PoolS → PoolS) : (poolMod d j g s).frameChk = s.frameChk := rfl
@[simp] theorem poolMod_ht (d : Nat) (j : Nat) (g : PoolS → PoolS) : (poolMod d j g s).ht = s.ht := rfl
@[simp] theorem poolMod_wlkDue (d : Nat) (j : Nat) (g : PoolS → PoolS) : (poolMod d j g s).wlkDue = s.wlkDue := rfl
@[simp] theorem poolMod_walkers (d : Nat) (j : Nat) (g : PoolS → PoolS) : (poolMod d j g s).walkers = s.walkers := rfl
@[simp] theorem poolMod_wlkDone (d : Nat) (j : Nat) (g : PoolS → PoolS) : (poolMod d j g s).wlkDone = s.wlkDone := rfl
@[simp] theorem poolMod_mcores (d : Nat) (j : Nat) (g : PoolS → PoolS) : (poolMod d j g s).mcores = s.mcores := rfl
@[simp] theorem poolMod_mslice (d : Nat) (j : Nat) (g : PoolS → PoolS) : (poolMod d j g s).mslice = s.mslice := rfl
@[simp] theorem poolMod_mblast (d : Nat) (j : Nat) (g : PoolS → PoolS) : (poolMod d j g s).mblast = s.mblast := rfl
@[simp] theorem poolMod_repairs (d : Nat) (j : Nat) (g : PoolS → PoolS) : (poolMod d j g s).repairs = s.repairs := rfl
@[simp] theorem poolMod_ctxs (d : Nat) (j : Nat) (g : PoolS → PoolS) : (poolMod d j g s).ctxs = s.ctxs := rfl
@[simp] theorem poolMod_leaCyc (d : Nat) (j : Nat) (g : PoolS → PoolS) : (poolMod d j g s).leaCyc = s.leaCyc := rfl
@[simp] theorem poolMod_fab (d : Nat) (j : Nat) (g : PoolS → PoolS) : (poolMod d j g s).fab = s.fab := rfl
@[simp] theorem poolMod_tlyQ (d : Nat) (j : Nat) (g : PoolS → PoolS) : (poolMod d j g s).tlyQ = s.tlyQ := rfl
@[simp] theorem poolMod_tlyWaits (d : Nat) (j : Nat) (g : PoolS → PoolS) : (poolMod d j g s).tlyWaits = s.tlyWaits := rfl
@[simp] theorem poolMod_whsQ (d : Nat) (j : Nat) (g : PoolS → PoolS) : (poolMod d j g s).whsQ = s.whsQ := rfl
@[simp] theorem poolMod_sends (d : Nat) (j : Nat) (g : PoolS → PoolS) : (poolMod d j g s).sends = s.sends := rfl
@[simp] theorem poolMod_rqs (d : Nat) (j : Nat) (g : PoolS → PoolS) : (poolMod d j g s).rqs = s.rqs := rfl
@[simp] theorem poolMod_spills (d : Nat) (j : Nat) (g : PoolS → PoolS) : (poolMod d j g s).spills = s.spills := rfl
@[simp] theorem poolMod_opens (d : Nat) (j : Nat) (g : PoolS → PoolS) : (poolMod d j g s).opens = s.opens := rfl
@[simp] theorem poolMod_landings (d : Nat) (j : Nat) (g : PoolS → PoolS) : (poolMod d j g s).landings = s.landings := rfl
@[simp] theorem poolMod_connLt (d : Nat) (j : Nat) (g : PoolS → PoolS) : (poolMod d j g s).connLt = s.connLt := rfl
@[simp] theorem poolMod_sidNext (d : Nat) (j : Nat) (g : PoolS → PoolS) : (poolMod d j g s).sidNext = s.sidNext := rfl
@[simp] theorem poolMod_ltkQ (d : Nat) (j : Nat) (g : PoolS → PoolS) : (poolMod d j g s).ltkQ = s.ltkQ := rfl
@[simp] theorem poolMod_ltkPaths (d : Nat) (j : Nat) (g : PoolS → PoolS) : (poolMod d j g s).ltkPaths = s.ltkPaths := rfl
@[simp] theorem poolMod_ltkRoutes (d : Nat) (j : Nat) (g : PoolS → PoolS) : (poolMod d j g s).ltkRoutes = s.ltkRoutes := rfl
@[simp] theorem poolMod_ltkPause (d : Nat) (j : Nat) (g : PoolS → PoolS) : (poolMod d j g s).ltkPause = s.ltkPause := rfl
@[simp] theorem poolMod_ptpGood (d : Nat) (j : Nat) (g : PoolS → PoolS) : (poolMod d j g s).ptpGood = s.ptpGood := rfl
@[simp] theorem poolMod_held (d : Nat) (j : Nat) (g : PoolS → PoolS) : (poolMod d j g s).held = s.held := rfl
@[simp] theorem poolMod_hostEnts (d : Nat) (j : Nat) (g : PoolS → PoolS) : (poolMod d j g s).hostEnts = s.hostEnts := rfl
@[simp] theorem poolMod_hrings (d : Nat) (j : Nat) (g : PoolS → PoolS) : (poolMod d j g s).hrings = s.hrings := rfl
@[simp] theorem poolMod_hostNext (d : Nat) (j : Nat) (g : PoolS → PoolS) : (poolMod d j g s).hostNext = s.hostNext := rfl
@[simp] theorem poolMod_aer (d : Nat) (j : Nat) (g : PoolS → PoolS) : (poolMod d j g s).aer = s.aer := rfl
@[simp] theorem poolMod_tcache (d : Nat) (j : Nat) (g : PoolS → PoolS) : (poolMod d j g s).tcache = s.tcache := rfl
@[simp] theorem poolMod_fabCyc (d : Nat) (j : Nat) (g : PoolS → PoolS) : (poolMod d j g s).fabCyc = s.fabCyc := rfl
@[simp] theorem poolMod_used (d : Nat) (j : Nat) (g : PoolS → PoolS) : (poolMod d j g s).used = s.used := rfl
@[simp] theorem poolMod_slotAt (d : Nat) (j : Nat) (g : PoolS → PoolS) : (poolMod d j g s).slotAt = s.slotAt := rfl
@[simp] theorem poolMod_capNext (d : Nat) (j : Nat) (g : PoolS → PoolS) : (poolMod d j g s).capNext = s.capNext := rfl
@[simp] theorem poolMod_ats (d : Nat) (j : Nat) (g : PoolS → PoolS) : (poolMod d j g s).ats = s.ats := rfl
@[simp] theorem poolMod_pageReqs (d : Nat) (j : Nat) (g : PoolS → PoolS) : (poolMod d j g s).pageReqs = s.pageReqs := rfl
@[simp] theorem poolMod_prgNext (d : Nat) (j : Nat) (g : PoolS → PoolS) : (poolMod d j g s).prgNext = s.prgNext := rfl
@[simp] theorem poolMod_atsInv (d : Nat) (j : Nat) (g : PoolS → PoolS) : (poolMod d j g s).atsInv = s.atsInv := rfl
@[simp] theorem poolMod_atsEn (d : Nat) (j : Nat) (g : PoolS → PoolS) : (poolMod d j g s).atsEn = s.atsEn := rfl
@[simp] theorem poolMod_priEn (d : Nat) (j : Nat) (g : PoolS → PoolS) : (poolMod d j g s).priEn = s.priEn := rfl
@[simp] theorem poolMod_priAlloc (d : Nat) (j : Nat) (g : PoolS → PoolS) : (poolMod d j g s).priAlloc = s.priAlloc := rfl
@[simp] theorem poolMod_winShare (d : Nat) (j : Nat) (g : PoolS → PoolS) : (poolMod d j g s).winShare = s.winShare := rfl
@[simp] theorem poolMod_sinks (d : Nat) (j : Nat) (g : PoolS → PoolS) : (poolMod d j g s).sinks = s.sinks := rfl
@[simp] theorem poolMod_scrubAt (d : Nat) (j : Nat) (g : PoolS → PoolS) : (poolMod d j g s).scrubAt = s.scrubAt := rfl
@[simp] theorem poolMod_mem (d : Nat) (j : Nat) (g : PoolS → PoolS) : (poolMod d j g s).mem = s.mem := rfl
@[simp] theorem poolMod_memEpoch (d : Nat) (j : Nat) (g : PoolS → PoolS) : (poolMod d j g s).memEpoch = s.memEpoch := rfl
@[simp] theorem poolMod_lines (d : Nat) (j : Nat) (g : PoolS → PoolS) : (poolMod d j g s).lines = s.lines := rfl
@[simp] theorem poolMod_byrQ (d : Nat) (j : Nat) (g : PoolS → PoolS) : (poolMod d j g s).byrQ = s.byrQ := rfl
@[simp] theorem poolMod_byrCmd (d : Nat) (j : Nat) (g : PoolS → PoolS) : (poolMod d j g s).byrCmd = s.byrCmd := rfl
@[simp] theorem poolMod_tlyShadow (d : Nat) (j : Nat) (g : PoolS → PoolS) : (poolMod d j g s).tlyShadow = s.tlyShadow := rfl
@[simp] theorem poolMod_connShadow (d : Nat) (j : Nat) (g : PoolS → PoolS) : (poolMod d j g s).connShadow = s.connShadow := rfl
@[simp] theorem poolMod_watches (d : Nat) (j : Nat) (g : PoolS → PoolS) : (poolMod d j g s).watches = s.watches := rfl
@[simp] theorem poolMod_folds (d : Nat) (j : Nat) (g : PoolS → PoolS) : (poolMod d j g s).folds = s.folds := rfl
@[simp] theorem poolMod_keys (d : Nat) (j : Nat) (g : PoolS → PoolS) : (poolMod d j g s).keys = s.keys := rfl
@[simp] theorem poolMod_ration (d : Nat) (j : Nat) (g : PoolS → PoolS) : (poolMod d j g s).ration = s.ration := rfl
@[simp] theorem poolMod_pmTry (d : Nat) (j : Nat) (g : PoolS → PoolS) : (poolMod d j g s).pmTry = s.pmTry := rfl
@[simp] theorem poolMod_pldmQ (d : Nat) (j : Nat) (g : PoolS → PoolS) : (poolMod d j g s).pldmQ = s.pldmQ := rfl
@[simp] theorem poolMod_mgmt (d : Nat) (j : Nat) (g : PoolS → PoolS) : (poolMod d j g s).mgmt = s.mgmt := rfl
@[simp] theorem poolMod_pwr (d : Nat) (j : Nat) (g : PoolS → PoolS) : (poolMod d j g s).pwr = s.pwr := rfl
@[simp] theorem poolMod_cfg (d : Nat) (j : Nat) (g : PoolS → PoolS) : (poolMod d j g s).cfg = s.cfg := rfl
@[simp] theorem poolMod_tap (d : Nat) (j : Nat) (g : PoolS → PoolS) : (poolMod d j g s).tap = s.tap := rfl
@[simp] theorem poolMod_mwins (d : Nat) (j : Nat) (g : PoolS → PoolS) : (poolMod d j g s).mwins = s.mwins := rfl
@[simp] theorem poolMod_openAt (d : Nat) (j : Nat) (g : PoolS → PoolS) : (poolMod d j g s).openAt = s.openAt := rfl
@[simp] theorem poolMod_whsLands (d : Nat) (j : Nat) (g : PoolS → PoolS) : (poolMod d j g s).whsLands = s.whsLands := rfl
@[simp] theorem poolMod_accWaits (d : Nat) (j : Nat) (g : PoolS → PoolS) : (poolMod d j g s).accWaits = s.accWaits := rfl
@[simp] theorem poolMod_formAt (d : Nat) (j : Nat) (g : PoolS → PoolS) : (poolMod d j g s).formAt = s.formAt := rfl
@[simp] theorem poolMod_admSeq (d : Nat) (j : Nat) (g : PoolS → PoolS) : (poolMod d j g s).admSeq = s.admSeq := rfl
@[simp] theorem poolMod_spMark (d : Nat) (j : Nat) (g : PoolS → PoolS) : (poolMod d j g s).spMark = s.spMark := rfl
@[simp] theorem poolMod_bellLate (d : Nat) (j : Nat) (g : PoolS → PoolS) : (poolMod d j g s).bellLate = s.bellLate := rfl
@[simp] theorem poolMod_pending (d : Nat) (j : Nat) (g : PoolS → PoolS) : (poolMod d j g s).pending = s.pending := rfl
@[simp] theorem rdW_poolMod (d : Nat) (j : Nat) (g : PoolS → PoolS) (rb : Blk) (ri ro : Nat) : rdW (poolMod d j g s) rb ri ro = rdW s rb ri ro := rfl
@[simp] theorem rd_poolMod (d : Nat) (j : Nat) (g : PoolS → PoolS) (rf : Fld) (ri : Nat) : rd (poolMod d j g s) rf ri = rd s rf ri := rfl
@[simp] theorem rdB_poolMod (d : Nat) (j : Nat) (g : PoolS → PoolS) (rf : Fld) (ri : Nat) : rdB (poolMod d j g s) rf ri = rdB s rf ri := rfl

/-! ### walkerMod -/

@[simp] theorem walkerMod_now (d : Nat) (g : Walker → Walker) : (walkerMod d g s).now = s.now := rfl
@[simp] theorem walkerMod_freeCtr (d : Nat) (g : Walker → Walker) : (walkerMod d g s).freeCtr = s.freeCtr := rfl
@[simp] theorem walkerMod_regs (d : Nat) (g : Walker → Walker) : (walkerMod d g s).regs = s.regs := rfl
@[simp] theorem walkerMod_bellPend (d : Nat) (g : Walker → Walker) : (walkerMod d g s).bellPend = s.bellPend := rfl
@[simp] theorem walkerMod_rearmPend (d : Nat) (g : Walker → Walker) : (walkerMod d g s).rearmPend = s.rearmPend := rfl
@[simp] theorem walkerMod_fixedDone (d : Nat) (g : Walker → Walker) : (walkerMod d g s).fixedDone = s.fixedDone := rfl
@[simp] theorem walkerMod_outbox (d : Nat) (g : Walker → Walker) : (walkerMod d g s).outbox = s.outbox := rfl
@[simp] theorem walkerMod_bellLock (d : Nat) (g : Walker → Walker) : (walkerMod d g s).bellLock = s.bellLock := rfl
@[simp] theorem walkerMod_aliveOut (d : Nat) (g : Walker → Walker) : (walkerMod d g s).aliveOut = s.aliveOut := rfl
@[simp] theorem walkerMod_bell (d : Nat) (g : Walker → Walker) : (walkerMod d g s).bell = s.bell := rfl
@[simp] theorem walkerMod_pdks (d : Nat) (g : Walker → Walker) : (walkerMod d g s).pdks = s.pdks := rfl
@[simp] theorem walkerMod_vfEnable (d : Nat) (g : Walker → Walker) : (walkerMod d g s).vfEnable = s.vfEnable := rfl
@[simp] theorem walkerMod_numVfs (d : Nat) (g : Walker → Walker) : (walkerMod d g s).numVfs = s.numVfs := rfl
@[simp] theorem walkerMod_fns (d : Nat) (g : Walker → Walker) : (walkerMod d g s).fns = s.fns := rfl
@[simp] theorem walkerMod_pfEvents (d : Nat) (g : Walker → Walker) : (walkerMod d g s).pfEvents = s.pfEvents := rfl
@[simp] theorem walkerMod_pfLost (d : Nat) (g : Walker → Walker) : (walkerMod d g s).pfLost = s.pfLost := rfl
@[simp] theorem walkerMod_fbk (d : Nat) (g : Walker → Walker) : (walkerMod d g s).fbk = s.fbk := rfl
@[simp] theorem walkerMod_cores (d : Nat) (g : Walker → Walker) : (walkerMod d g s).cores = s.cores := rfl
@[simp] theorem walkerMod_meshes (d : Nat) (g : Walker → Walker) : (walkerMod d g s).meshes = s.meshes := rfl
@[simp] theorem walkerMod_links (d : Nat) (g : Walker → Walker) : (walkerMod d g s).links = s.links := rfl
@[simp] theorem walkerMod_sp (d : Nat) (g : Walker → Walker) : (walkerMod d g s).sp = s.sp := rfl
@[simp] theorem walkerMod_spEpoch (d : Nat) (g : Walker → Walker) : (walkerMod d g s).spEpoch = s.spEpoch := rfl
@[simp] theorem walkerMod_imem (d : Nat) (g : Walker → Walker) : (walkerMod d g s).imem = s.imem := rfl
@[simp] theorem walkerMod_rslot (d : Nat) (g : Walker → Walker) : (walkerMod d g s).rslot = s.rslot := rfl
@[simp] theorem walkerMod_tile (d : Nat) (g : Walker → Walker) : (walkerMod d g s).tile = s.tile := rfl
@[simp] theorem walkerMod_acc (d : Nat) (g : Walker → Walker) : (walkerMod d g s).acc = s.acc := rfl
@[simp] theorem walkerMod_shadow (d : Nat) (g : Walker → Walker) : (walkerMod d g s).shadow = s.shadow := rfl
@[simp] theorem walkerMod_desc (d : Nat) (g : Walker → Walker) : (walkerMod d g s).desc = s.desc := rfl
@[simp] theorem walkerMod_frameChk (d : Nat) (g : Walker → Walker) : (walkerMod d g s).frameChk = s.frameChk := rfl
@[simp] theorem walkerMod_ht (d : Nat) (g : Walker → Walker) : (walkerMod d g s).ht = s.ht := rfl
@[simp] theorem walkerMod_wlkDue (d : Nat) (g : Walker → Walker) : (walkerMod d g s).wlkDue = s.wlkDue := rfl
@[simp] theorem walkerMod_wlkDone (d : Nat) (g : Walker → Walker) : (walkerMod d g s).wlkDone = s.wlkDone := rfl
@[simp] theorem walkerMod_mcores (d : Nat) (g : Walker → Walker) : (walkerMod d g s).mcores = s.mcores := rfl
@[simp] theorem walkerMod_mslice (d : Nat) (g : Walker → Walker) : (walkerMod d g s).mslice = s.mslice := rfl
@[simp] theorem walkerMod_mblast (d : Nat) (g : Walker → Walker) : (walkerMod d g s).mblast = s.mblast := rfl
@[simp] theorem walkerMod_repairs (d : Nat) (g : Walker → Walker) : (walkerMod d g s).repairs = s.repairs := rfl
@[simp] theorem walkerMod_ctxs (d : Nat) (g : Walker → Walker) : (walkerMod d g s).ctxs = s.ctxs := rfl
@[simp] theorem walkerMod_leaCyc (d : Nat) (g : Walker → Walker) : (walkerMod d g s).leaCyc = s.leaCyc := rfl
@[simp] theorem walkerMod_fab (d : Nat) (g : Walker → Walker) : (walkerMod d g s).fab = s.fab := rfl
@[simp] theorem walkerMod_tlyQ (d : Nat) (g : Walker → Walker) : (walkerMod d g s).tlyQ = s.tlyQ := rfl
@[simp] theorem walkerMod_tlyWaits (d : Nat) (g : Walker → Walker) : (walkerMod d g s).tlyWaits = s.tlyWaits := rfl
@[simp] theorem walkerMod_whsQ (d : Nat) (g : Walker → Walker) : (walkerMod d g s).whsQ = s.whsQ := rfl
@[simp] theorem walkerMod_sends (d : Nat) (g : Walker → Walker) : (walkerMod d g s).sends = s.sends := rfl
@[simp] theorem walkerMod_rqs (d : Nat) (g : Walker → Walker) : (walkerMod d g s).rqs = s.rqs := rfl
@[simp] theorem walkerMod_spills (d : Nat) (g : Walker → Walker) : (walkerMod d g s).spills = s.spills := rfl
@[simp] theorem walkerMod_opens (d : Nat) (g : Walker → Walker) : (walkerMod d g s).opens = s.opens := rfl
@[simp] theorem walkerMod_landings (d : Nat) (g : Walker → Walker) : (walkerMod d g s).landings = s.landings := rfl
@[simp] theorem walkerMod_connLt (d : Nat) (g : Walker → Walker) : (walkerMod d g s).connLt = s.connLt := rfl
@[simp] theorem walkerMod_sidNext (d : Nat) (g : Walker → Walker) : (walkerMod d g s).sidNext = s.sidNext := rfl
@[simp] theorem walkerMod_ltkQ (d : Nat) (g : Walker → Walker) : (walkerMod d g s).ltkQ = s.ltkQ := rfl
@[simp] theorem walkerMod_ltkPaths (d : Nat) (g : Walker → Walker) : (walkerMod d g s).ltkPaths = s.ltkPaths := rfl
@[simp] theorem walkerMod_ltkRoutes (d : Nat) (g : Walker → Walker) : (walkerMod d g s).ltkRoutes = s.ltkRoutes := rfl
@[simp] theorem walkerMod_ltkPause (d : Nat) (g : Walker → Walker) : (walkerMod d g s).ltkPause = s.ltkPause := rfl
@[simp] theorem walkerMod_ptpGood (d : Nat) (g : Walker → Walker) : (walkerMod d g s).ptpGood = s.ptpGood := rfl
@[simp] theorem walkerMod_held (d : Nat) (g : Walker → Walker) : (walkerMod d g s).held = s.held := rfl
@[simp] theorem walkerMod_hostEnts (d : Nat) (g : Walker → Walker) : (walkerMod d g s).hostEnts = s.hostEnts := rfl
@[simp] theorem walkerMod_hrings (d : Nat) (g : Walker → Walker) : (walkerMod d g s).hrings = s.hrings := rfl
@[simp] theorem walkerMod_hostNext (d : Nat) (g : Walker → Walker) : (walkerMod d g s).hostNext = s.hostNext := rfl
@[simp] theorem walkerMod_aer (d : Nat) (g : Walker → Walker) : (walkerMod d g s).aer = s.aer := rfl
@[simp] theorem walkerMod_tcache (d : Nat) (g : Walker → Walker) : (walkerMod d g s).tcache = s.tcache := rfl
@[simp] theorem walkerMod_fabCyc (d : Nat) (g : Walker → Walker) : (walkerMod d g s).fabCyc = s.fabCyc := rfl
@[simp] theorem walkerMod_used (d : Nat) (g : Walker → Walker) : (walkerMod d g s).used = s.used := rfl
@[simp] theorem walkerMod_slotAt (d : Nat) (g : Walker → Walker) : (walkerMod d g s).slotAt = s.slotAt := rfl
@[simp] theorem walkerMod_capNext (d : Nat) (g : Walker → Walker) : (walkerMod d g s).capNext = s.capNext := rfl
@[simp] theorem walkerMod_ats (d : Nat) (g : Walker → Walker) : (walkerMod d g s).ats = s.ats := rfl
@[simp] theorem walkerMod_pageReqs (d : Nat) (g : Walker → Walker) : (walkerMod d g s).pageReqs = s.pageReqs := rfl
@[simp] theorem walkerMod_prgNext (d : Nat) (g : Walker → Walker) : (walkerMod d g s).prgNext = s.prgNext := rfl
@[simp] theorem walkerMod_atsInv (d : Nat) (g : Walker → Walker) : (walkerMod d g s).atsInv = s.atsInv := rfl
@[simp] theorem walkerMod_atsEn (d : Nat) (g : Walker → Walker) : (walkerMod d g s).atsEn = s.atsEn := rfl
@[simp] theorem walkerMod_priEn (d : Nat) (g : Walker → Walker) : (walkerMod d g s).priEn = s.priEn := rfl
@[simp] theorem walkerMod_priAlloc (d : Nat) (g : Walker → Walker) : (walkerMod d g s).priAlloc = s.priAlloc := rfl
@[simp] theorem walkerMod_winShare (d : Nat) (g : Walker → Walker) : (walkerMod d g s).winShare = s.winShare := rfl
@[simp] theorem walkerMod_sinks (d : Nat) (g : Walker → Walker) : (walkerMod d g s).sinks = s.sinks := rfl
@[simp] theorem walkerMod_scrubAt (d : Nat) (g : Walker → Walker) : (walkerMod d g s).scrubAt = s.scrubAt := rfl
@[simp] theorem walkerMod_mem (d : Nat) (g : Walker → Walker) : (walkerMod d g s).mem = s.mem := rfl
@[simp] theorem walkerMod_memEpoch (d : Nat) (g : Walker → Walker) : (walkerMod d g s).memEpoch = s.memEpoch := rfl
@[simp] theorem walkerMod_lines (d : Nat) (g : Walker → Walker) : (walkerMod d g s).lines = s.lines := rfl
@[simp] theorem walkerMod_pools (d : Nat) (g : Walker → Walker) : (walkerMod d g s).pools = s.pools := rfl
@[simp] theorem walkerMod_byrQ (d : Nat) (g : Walker → Walker) : (walkerMod d g s).byrQ = s.byrQ := rfl
@[simp] theorem walkerMod_byrCmd (d : Nat) (g : Walker → Walker) : (walkerMod d g s).byrCmd = s.byrCmd := rfl
@[simp] theorem walkerMod_tlyShadow (d : Nat) (g : Walker → Walker) : (walkerMod d g s).tlyShadow = s.tlyShadow := rfl
@[simp] theorem walkerMod_connShadow (d : Nat) (g : Walker → Walker) : (walkerMod d g s).connShadow = s.connShadow := rfl
@[simp] theorem walkerMod_watches (d : Nat) (g : Walker → Walker) : (walkerMod d g s).watches = s.watches := rfl
@[simp] theorem walkerMod_folds (d : Nat) (g : Walker → Walker) : (walkerMod d g s).folds = s.folds := rfl
@[simp] theorem walkerMod_keys (d : Nat) (g : Walker → Walker) : (walkerMod d g s).keys = s.keys := rfl
@[simp] theorem walkerMod_ration (d : Nat) (g : Walker → Walker) : (walkerMod d g s).ration = s.ration := rfl
@[simp] theorem walkerMod_pmTry (d : Nat) (g : Walker → Walker) : (walkerMod d g s).pmTry = s.pmTry := rfl
@[simp] theorem walkerMod_pldmQ (d : Nat) (g : Walker → Walker) : (walkerMod d g s).pldmQ = s.pldmQ := rfl
@[simp] theorem walkerMod_mgmt (d : Nat) (g : Walker → Walker) : (walkerMod d g s).mgmt = s.mgmt := rfl
@[simp] theorem walkerMod_pwr (d : Nat) (g : Walker → Walker) : (walkerMod d g s).pwr = s.pwr := rfl
@[simp] theorem walkerMod_cfg (d : Nat) (g : Walker → Walker) : (walkerMod d g s).cfg = s.cfg := rfl
@[simp] theorem walkerMod_tap (d : Nat) (g : Walker → Walker) : (walkerMod d g s).tap = s.tap := rfl
@[simp] theorem walkerMod_mwins (d : Nat) (g : Walker → Walker) : (walkerMod d g s).mwins = s.mwins := rfl
@[simp] theorem walkerMod_openAt (d : Nat) (g : Walker → Walker) : (walkerMod d g s).openAt = s.openAt := rfl
@[simp] theorem walkerMod_whsLands (d : Nat) (g : Walker → Walker) : (walkerMod d g s).whsLands = s.whsLands := rfl
@[simp] theorem walkerMod_accWaits (d : Nat) (g : Walker → Walker) : (walkerMod d g s).accWaits = s.accWaits := rfl
@[simp] theorem walkerMod_formAt (d : Nat) (g : Walker → Walker) : (walkerMod d g s).formAt = s.formAt := rfl
@[simp] theorem walkerMod_admSeq (d : Nat) (g : Walker → Walker) : (walkerMod d g s).admSeq = s.admSeq := rfl
@[simp] theorem walkerMod_spMark (d : Nat) (g : Walker → Walker) : (walkerMod d g s).spMark = s.spMark := rfl
@[simp] theorem walkerMod_bellLate (d : Nat) (g : Walker → Walker) : (walkerMod d g s).bellLate = s.bellLate := rfl
@[simp] theorem walkerMod_pending (d : Nat) (g : Walker → Walker) : (walkerMod d g s).pending = s.pending := rfl
@[simp] theorem rdW_walkerMod (d : Nat) (g : Walker → Walker) (rb : Blk) (ri ro : Nat) : rdW (walkerMod d g s) rb ri ro = rdW s rb ri ro := rfl
@[simp] theorem rd_walkerMod (d : Nat) (g : Walker → Walker) (rf : Fld) (ri : Nat) : rd (walkerMod d g s) rf ri = rd s rf ri := rfl
@[simp] theorem rdB_walkerMod (d : Nat) (g : Walker → Walker) (rf : Fld) (ri : Nat) : rdB (walkerMod d g s) rf ri = rdB s rf ri := rfl

/-! ### mcoreMod -/

@[simp] theorem mcoreMod_now (p : Nat) (g : MCore → MCore) : (mcoreMod p g s).now = s.now := rfl
@[simp] theorem mcoreMod_freeCtr (p : Nat) (g : MCore → MCore) : (mcoreMod p g s).freeCtr = s.freeCtr := rfl
@[simp] theorem mcoreMod_regs (p : Nat) (g : MCore → MCore) : (mcoreMod p g s).regs = s.regs := rfl
@[simp] theorem mcoreMod_bellPend (p : Nat) (g : MCore → MCore) : (mcoreMod p g s).bellPend = s.bellPend := rfl
@[simp] theorem mcoreMod_rearmPend (p : Nat) (g : MCore → MCore) : (mcoreMod p g s).rearmPend = s.rearmPend := rfl
@[simp] theorem mcoreMod_fixedDone (p : Nat) (g : MCore → MCore) : (mcoreMod p g s).fixedDone = s.fixedDone := rfl
@[simp] theorem mcoreMod_outbox (p : Nat) (g : MCore → MCore) : (mcoreMod p g s).outbox = s.outbox := rfl
@[simp] theorem mcoreMod_bellLock (p : Nat) (g : MCore → MCore) : (mcoreMod p g s).bellLock = s.bellLock := rfl
@[simp] theorem mcoreMod_aliveOut (p : Nat) (g : MCore → MCore) : (mcoreMod p g s).aliveOut = s.aliveOut := rfl
@[simp] theorem mcoreMod_bell (p : Nat) (g : MCore → MCore) : (mcoreMod p g s).bell = s.bell := rfl
@[simp] theorem mcoreMod_pdks (p : Nat) (g : MCore → MCore) : (mcoreMod p g s).pdks = s.pdks := rfl
@[simp] theorem mcoreMod_vfEnable (p : Nat) (g : MCore → MCore) : (mcoreMod p g s).vfEnable = s.vfEnable := rfl
@[simp] theorem mcoreMod_numVfs (p : Nat) (g : MCore → MCore) : (mcoreMod p g s).numVfs = s.numVfs := rfl
@[simp] theorem mcoreMod_fns (p : Nat) (g : MCore → MCore) : (mcoreMod p g s).fns = s.fns := rfl
@[simp] theorem mcoreMod_pfEvents (p : Nat) (g : MCore → MCore) : (mcoreMod p g s).pfEvents = s.pfEvents := rfl
@[simp] theorem mcoreMod_pfLost (p : Nat) (g : MCore → MCore) : (mcoreMod p g s).pfLost = s.pfLost := rfl
@[simp] theorem mcoreMod_fbk (p : Nat) (g : MCore → MCore) : (mcoreMod p g s).fbk = s.fbk := rfl
@[simp] theorem mcoreMod_cores (p : Nat) (g : MCore → MCore) : (mcoreMod p g s).cores = s.cores := rfl
@[simp] theorem mcoreMod_meshes (p : Nat) (g : MCore → MCore) : (mcoreMod p g s).meshes = s.meshes := rfl
@[simp] theorem mcoreMod_links (p : Nat) (g : MCore → MCore) : (mcoreMod p g s).links = s.links := rfl
@[simp] theorem mcoreMod_sp (p : Nat) (g : MCore → MCore) : (mcoreMod p g s).sp = s.sp := rfl
@[simp] theorem mcoreMod_spEpoch (p : Nat) (g : MCore → MCore) : (mcoreMod p g s).spEpoch = s.spEpoch := rfl
@[simp] theorem mcoreMod_imem (p : Nat) (g : MCore → MCore) : (mcoreMod p g s).imem = s.imem := rfl
@[simp] theorem mcoreMod_rslot (p : Nat) (g : MCore → MCore) : (mcoreMod p g s).rslot = s.rslot := rfl
@[simp] theorem mcoreMod_tile (p : Nat) (g : MCore → MCore) : (mcoreMod p g s).tile = s.tile := rfl
@[simp] theorem mcoreMod_acc (p : Nat) (g : MCore → MCore) : (mcoreMod p g s).acc = s.acc := rfl
@[simp] theorem mcoreMod_shadow (p : Nat) (g : MCore → MCore) : (mcoreMod p g s).shadow = s.shadow := rfl
@[simp] theorem mcoreMod_desc (p : Nat) (g : MCore → MCore) : (mcoreMod p g s).desc = s.desc := rfl
@[simp] theorem mcoreMod_frameChk (p : Nat) (g : MCore → MCore) : (mcoreMod p g s).frameChk = s.frameChk := rfl
@[simp] theorem mcoreMod_ht (p : Nat) (g : MCore → MCore) : (mcoreMod p g s).ht = s.ht := rfl
@[simp] theorem mcoreMod_wlkDue (p : Nat) (g : MCore → MCore) : (mcoreMod p g s).wlkDue = s.wlkDue := rfl
@[simp] theorem mcoreMod_walkers (p : Nat) (g : MCore → MCore) : (mcoreMod p g s).walkers = s.walkers := rfl
@[simp] theorem mcoreMod_wlkDone (p : Nat) (g : MCore → MCore) : (mcoreMod p g s).wlkDone = s.wlkDone := rfl
@[simp] theorem mcoreMod_mslice (p : Nat) (g : MCore → MCore) : (mcoreMod p g s).mslice = s.mslice := rfl
@[simp] theorem mcoreMod_mblast (p : Nat) (g : MCore → MCore) : (mcoreMod p g s).mblast = s.mblast := rfl
@[simp] theorem mcoreMod_repairs (p : Nat) (g : MCore → MCore) : (mcoreMod p g s).repairs = s.repairs := rfl
@[simp] theorem mcoreMod_ctxs (p : Nat) (g : MCore → MCore) : (mcoreMod p g s).ctxs = s.ctxs := rfl
@[simp] theorem mcoreMod_leaCyc (p : Nat) (g : MCore → MCore) : (mcoreMod p g s).leaCyc = s.leaCyc := rfl
@[simp] theorem mcoreMod_fab (p : Nat) (g : MCore → MCore) : (mcoreMod p g s).fab = s.fab := rfl
@[simp] theorem mcoreMod_tlyQ (p : Nat) (g : MCore → MCore) : (mcoreMod p g s).tlyQ = s.tlyQ := rfl
@[simp] theorem mcoreMod_tlyWaits (p : Nat) (g : MCore → MCore) : (mcoreMod p g s).tlyWaits = s.tlyWaits := rfl
@[simp] theorem mcoreMod_whsQ (p : Nat) (g : MCore → MCore) : (mcoreMod p g s).whsQ = s.whsQ := rfl
@[simp] theorem mcoreMod_sends (p : Nat) (g : MCore → MCore) : (mcoreMod p g s).sends = s.sends := rfl
@[simp] theorem mcoreMod_rqs (p : Nat) (g : MCore → MCore) : (mcoreMod p g s).rqs = s.rqs := rfl
@[simp] theorem mcoreMod_spills (p : Nat) (g : MCore → MCore) : (mcoreMod p g s).spills = s.spills := rfl
@[simp] theorem mcoreMod_opens (p : Nat) (g : MCore → MCore) : (mcoreMod p g s).opens = s.opens := rfl
@[simp] theorem mcoreMod_landings (p : Nat) (g : MCore → MCore) : (mcoreMod p g s).landings = s.landings := rfl
@[simp] theorem mcoreMod_connLt (p : Nat) (g : MCore → MCore) : (mcoreMod p g s).connLt = s.connLt := rfl
@[simp] theorem mcoreMod_sidNext (p : Nat) (g : MCore → MCore) : (mcoreMod p g s).sidNext = s.sidNext := rfl
@[simp] theorem mcoreMod_ltkQ (p : Nat) (g : MCore → MCore) : (mcoreMod p g s).ltkQ = s.ltkQ := rfl
@[simp] theorem mcoreMod_ltkPaths (p : Nat) (g : MCore → MCore) : (mcoreMod p g s).ltkPaths = s.ltkPaths := rfl
@[simp] theorem mcoreMod_ltkRoutes (p : Nat) (g : MCore → MCore) : (mcoreMod p g s).ltkRoutes = s.ltkRoutes := rfl
@[simp] theorem mcoreMod_ltkPause (p : Nat) (g : MCore → MCore) : (mcoreMod p g s).ltkPause = s.ltkPause := rfl
@[simp] theorem mcoreMod_ptpGood (p : Nat) (g : MCore → MCore) : (mcoreMod p g s).ptpGood = s.ptpGood := rfl
@[simp] theorem mcoreMod_held (p : Nat) (g : MCore → MCore) : (mcoreMod p g s).held = s.held := rfl
@[simp] theorem mcoreMod_hostEnts (p : Nat) (g : MCore → MCore) : (mcoreMod p g s).hostEnts = s.hostEnts := rfl
@[simp] theorem mcoreMod_hrings (p : Nat) (g : MCore → MCore) : (mcoreMod p g s).hrings = s.hrings := rfl
@[simp] theorem mcoreMod_hostNext (p : Nat) (g : MCore → MCore) : (mcoreMod p g s).hostNext = s.hostNext := rfl
@[simp] theorem mcoreMod_aer (p : Nat) (g : MCore → MCore) : (mcoreMod p g s).aer = s.aer := rfl
@[simp] theorem mcoreMod_tcache (p : Nat) (g : MCore → MCore) : (mcoreMod p g s).tcache = s.tcache := rfl
@[simp] theorem mcoreMod_fabCyc (p : Nat) (g : MCore → MCore) : (mcoreMod p g s).fabCyc = s.fabCyc := rfl
@[simp] theorem mcoreMod_used (p : Nat) (g : MCore → MCore) : (mcoreMod p g s).used = s.used := rfl
@[simp] theorem mcoreMod_slotAt (p : Nat) (g : MCore → MCore) : (mcoreMod p g s).slotAt = s.slotAt := rfl
@[simp] theorem mcoreMod_capNext (p : Nat) (g : MCore → MCore) : (mcoreMod p g s).capNext = s.capNext := rfl
@[simp] theorem mcoreMod_ats (p : Nat) (g : MCore → MCore) : (mcoreMod p g s).ats = s.ats := rfl
@[simp] theorem mcoreMod_pageReqs (p : Nat) (g : MCore → MCore) : (mcoreMod p g s).pageReqs = s.pageReqs := rfl
@[simp] theorem mcoreMod_prgNext (p : Nat) (g : MCore → MCore) : (mcoreMod p g s).prgNext = s.prgNext := rfl
@[simp] theorem mcoreMod_atsInv (p : Nat) (g : MCore → MCore) : (mcoreMod p g s).atsInv = s.atsInv := rfl
@[simp] theorem mcoreMod_atsEn (p : Nat) (g : MCore → MCore) : (mcoreMod p g s).atsEn = s.atsEn := rfl
@[simp] theorem mcoreMod_priEn (p : Nat) (g : MCore → MCore) : (mcoreMod p g s).priEn = s.priEn := rfl
@[simp] theorem mcoreMod_priAlloc (p : Nat) (g : MCore → MCore) : (mcoreMod p g s).priAlloc = s.priAlloc := rfl
@[simp] theorem mcoreMod_winShare (p : Nat) (g : MCore → MCore) : (mcoreMod p g s).winShare = s.winShare := rfl
@[simp] theorem mcoreMod_sinks (p : Nat) (g : MCore → MCore) : (mcoreMod p g s).sinks = s.sinks := rfl
@[simp] theorem mcoreMod_scrubAt (p : Nat) (g : MCore → MCore) : (mcoreMod p g s).scrubAt = s.scrubAt := rfl
@[simp] theorem mcoreMod_mem (p : Nat) (g : MCore → MCore) : (mcoreMod p g s).mem = s.mem := rfl
@[simp] theorem mcoreMod_memEpoch (p : Nat) (g : MCore → MCore) : (mcoreMod p g s).memEpoch = s.memEpoch := rfl
@[simp] theorem mcoreMod_lines (p : Nat) (g : MCore → MCore) : (mcoreMod p g s).lines = s.lines := rfl
@[simp] theorem mcoreMod_pools (p : Nat) (g : MCore → MCore) : (mcoreMod p g s).pools = s.pools := rfl
@[simp] theorem mcoreMod_byrQ (p : Nat) (g : MCore → MCore) : (mcoreMod p g s).byrQ = s.byrQ := rfl
@[simp] theorem mcoreMod_byrCmd (p : Nat) (g : MCore → MCore) : (mcoreMod p g s).byrCmd = s.byrCmd := rfl
@[simp] theorem mcoreMod_tlyShadow (p : Nat) (g : MCore → MCore) : (mcoreMod p g s).tlyShadow = s.tlyShadow := rfl
@[simp] theorem mcoreMod_connShadow (p : Nat) (g : MCore → MCore) : (mcoreMod p g s).connShadow = s.connShadow := rfl
@[simp] theorem mcoreMod_watches (p : Nat) (g : MCore → MCore) : (mcoreMod p g s).watches = s.watches := rfl
@[simp] theorem mcoreMod_folds (p : Nat) (g : MCore → MCore) : (mcoreMod p g s).folds = s.folds := rfl
@[simp] theorem mcoreMod_keys (p : Nat) (g : MCore → MCore) : (mcoreMod p g s).keys = s.keys := rfl
@[simp] theorem mcoreMod_ration (p : Nat) (g : MCore → MCore) : (mcoreMod p g s).ration = s.ration := rfl
@[simp] theorem mcoreMod_pmTry (p : Nat) (g : MCore → MCore) : (mcoreMod p g s).pmTry = s.pmTry := rfl
@[simp] theorem mcoreMod_pldmQ (p : Nat) (g : MCore → MCore) : (mcoreMod p g s).pldmQ = s.pldmQ := rfl
@[simp] theorem mcoreMod_mgmt (p : Nat) (g : MCore → MCore) : (mcoreMod p g s).mgmt = s.mgmt := rfl
@[simp] theorem mcoreMod_pwr (p : Nat) (g : MCore → MCore) : (mcoreMod p g s).pwr = s.pwr := rfl
@[simp] theorem mcoreMod_cfg (p : Nat) (g : MCore → MCore) : (mcoreMod p g s).cfg = s.cfg := rfl
@[simp] theorem mcoreMod_tap (p : Nat) (g : MCore → MCore) : (mcoreMod p g s).tap = s.tap := rfl
@[simp] theorem mcoreMod_mwins (p : Nat) (g : MCore → MCore) : (mcoreMod p g s).mwins = s.mwins := rfl
@[simp] theorem mcoreMod_openAt (p : Nat) (g : MCore → MCore) : (mcoreMod p g s).openAt = s.openAt := rfl
@[simp] theorem mcoreMod_whsLands (p : Nat) (g : MCore → MCore) : (mcoreMod p g s).whsLands = s.whsLands := rfl
@[simp] theorem mcoreMod_accWaits (p : Nat) (g : MCore → MCore) : (mcoreMod p g s).accWaits = s.accWaits := rfl
@[simp] theorem mcoreMod_formAt (p : Nat) (g : MCore → MCore) : (mcoreMod p g s).formAt = s.formAt := rfl
@[simp] theorem mcoreMod_admSeq (p : Nat) (g : MCore → MCore) : (mcoreMod p g s).admSeq = s.admSeq := rfl
@[simp] theorem mcoreMod_spMark (p : Nat) (g : MCore → MCore) : (mcoreMod p g s).spMark = s.spMark := rfl
@[simp] theorem mcoreMod_bellLate (p : Nat) (g : MCore → MCore) : (mcoreMod p g s).bellLate = s.bellLate := rfl
@[simp] theorem mcoreMod_pending (p : Nat) (g : MCore → MCore) : (mcoreMod p g s).pending = s.pending := rfl
@[simp] theorem rdW_mcoreMod (p : Nat) (g : MCore → MCore) (rb : Blk) (ri ro : Nat) : rdW (mcoreMod p g s) rb ri ro = rdW s rb ri ro := rfl
@[simp] theorem rd_mcoreMod (p : Nat) (g : MCore → MCore) (rf : Fld) (ri : Nat) : rd (mcoreMod p g s) rf ri = rd s rf ri := rfl
@[simp] theorem rdB_mcoreMod (p : Nat) (g : MCore → MCore) (rf : Fld) (ri : Nat) : rdB (mcoreMod p g s) rf ri = rdB s rf ri := rfl

/-! ### lpathMod -/

@[simp] theorem lpathMod_now (j : Nat) (g : LPath → LPath) : (lpathMod j g s).now = s.now := rfl
@[simp] theorem lpathMod_freeCtr (j : Nat) (g : LPath → LPath) : (lpathMod j g s).freeCtr = s.freeCtr := rfl
@[simp] theorem lpathMod_regs (j : Nat) (g : LPath → LPath) : (lpathMod j g s).regs = s.regs := rfl
@[simp] theorem lpathMod_bellPend (j : Nat) (g : LPath → LPath) : (lpathMod j g s).bellPend = s.bellPend := rfl
@[simp] theorem lpathMod_rearmPend (j : Nat) (g : LPath → LPath) : (lpathMod j g s).rearmPend = s.rearmPend := rfl
@[simp] theorem lpathMod_fixedDone (j : Nat) (g : LPath → LPath) : (lpathMod j g s).fixedDone = s.fixedDone := rfl
@[simp] theorem lpathMod_outbox (j : Nat) (g : LPath → LPath) : (lpathMod j g s).outbox = s.outbox := rfl
@[simp] theorem lpathMod_bellLock (j : Nat) (g : LPath → LPath) : (lpathMod j g s).bellLock = s.bellLock := rfl
@[simp] theorem lpathMod_aliveOut (j : Nat) (g : LPath → LPath) : (lpathMod j g s).aliveOut = s.aliveOut := rfl
@[simp] theorem lpathMod_bell (j : Nat) (g : LPath → LPath) : (lpathMod j g s).bell = s.bell := rfl
@[simp] theorem lpathMod_pdks (j : Nat) (g : LPath → LPath) : (lpathMod j g s).pdks = s.pdks := rfl
@[simp] theorem lpathMod_vfEnable (j : Nat) (g : LPath → LPath) : (lpathMod j g s).vfEnable = s.vfEnable := rfl
@[simp] theorem lpathMod_numVfs (j : Nat) (g : LPath → LPath) : (lpathMod j g s).numVfs = s.numVfs := rfl
@[simp] theorem lpathMod_fns (j : Nat) (g : LPath → LPath) : (lpathMod j g s).fns = s.fns := rfl
@[simp] theorem lpathMod_pfEvents (j : Nat) (g : LPath → LPath) : (lpathMod j g s).pfEvents = s.pfEvents := rfl
@[simp] theorem lpathMod_pfLost (j : Nat) (g : LPath → LPath) : (lpathMod j g s).pfLost = s.pfLost := rfl
@[simp] theorem lpathMod_fbk (j : Nat) (g : LPath → LPath) : (lpathMod j g s).fbk = s.fbk := rfl
@[simp] theorem lpathMod_cores (j : Nat) (g : LPath → LPath) : (lpathMod j g s).cores = s.cores := rfl
@[simp] theorem lpathMod_meshes (j : Nat) (g : LPath → LPath) : (lpathMod j g s).meshes = s.meshes := rfl
@[simp] theorem lpathMod_links (j : Nat) (g : LPath → LPath) : (lpathMod j g s).links = s.links := rfl
@[simp] theorem lpathMod_sp (j : Nat) (g : LPath → LPath) : (lpathMod j g s).sp = s.sp := rfl
@[simp] theorem lpathMod_spEpoch (j : Nat) (g : LPath → LPath) : (lpathMod j g s).spEpoch = s.spEpoch := rfl
@[simp] theorem lpathMod_imem (j : Nat) (g : LPath → LPath) : (lpathMod j g s).imem = s.imem := rfl
@[simp] theorem lpathMod_rslot (j : Nat) (g : LPath → LPath) : (lpathMod j g s).rslot = s.rslot := rfl
@[simp] theorem lpathMod_tile (j : Nat) (g : LPath → LPath) : (lpathMod j g s).tile = s.tile := rfl
@[simp] theorem lpathMod_acc (j : Nat) (g : LPath → LPath) : (lpathMod j g s).acc = s.acc := rfl
@[simp] theorem lpathMod_shadow (j : Nat) (g : LPath → LPath) : (lpathMod j g s).shadow = s.shadow := rfl
@[simp] theorem lpathMod_desc (j : Nat) (g : LPath → LPath) : (lpathMod j g s).desc = s.desc := rfl
@[simp] theorem lpathMod_frameChk (j : Nat) (g : LPath → LPath) : (lpathMod j g s).frameChk = s.frameChk := rfl
@[simp] theorem lpathMod_ht (j : Nat) (g : LPath → LPath) : (lpathMod j g s).ht = s.ht := rfl
@[simp] theorem lpathMod_wlkDue (j : Nat) (g : LPath → LPath) : (lpathMod j g s).wlkDue = s.wlkDue := rfl
@[simp] theorem lpathMod_walkers (j : Nat) (g : LPath → LPath) : (lpathMod j g s).walkers = s.walkers := rfl
@[simp] theorem lpathMod_wlkDone (j : Nat) (g : LPath → LPath) : (lpathMod j g s).wlkDone = s.wlkDone := rfl
@[simp] theorem lpathMod_mcores (j : Nat) (g : LPath → LPath) : (lpathMod j g s).mcores = s.mcores := rfl
@[simp] theorem lpathMod_mslice (j : Nat) (g : LPath → LPath) : (lpathMod j g s).mslice = s.mslice := rfl
@[simp] theorem lpathMod_mblast (j : Nat) (g : LPath → LPath) : (lpathMod j g s).mblast = s.mblast := rfl
@[simp] theorem lpathMod_repairs (j : Nat) (g : LPath → LPath) : (lpathMod j g s).repairs = s.repairs := rfl
@[simp] theorem lpathMod_ctxs (j : Nat) (g : LPath → LPath) : (lpathMod j g s).ctxs = s.ctxs := rfl
@[simp] theorem lpathMod_leaCyc (j : Nat) (g : LPath → LPath) : (lpathMod j g s).leaCyc = s.leaCyc := rfl
@[simp] theorem lpathMod_fab (j : Nat) (g : LPath → LPath) : (lpathMod j g s).fab = s.fab := rfl
@[simp] theorem lpathMod_tlyQ (j : Nat) (g : LPath → LPath) : (lpathMod j g s).tlyQ = s.tlyQ := rfl
@[simp] theorem lpathMod_tlyWaits (j : Nat) (g : LPath → LPath) : (lpathMod j g s).tlyWaits = s.tlyWaits := rfl
@[simp] theorem lpathMod_whsQ (j : Nat) (g : LPath → LPath) : (lpathMod j g s).whsQ = s.whsQ := rfl
@[simp] theorem lpathMod_sends (j : Nat) (g : LPath → LPath) : (lpathMod j g s).sends = s.sends := rfl
@[simp] theorem lpathMod_rqs (j : Nat) (g : LPath → LPath) : (lpathMod j g s).rqs = s.rqs := rfl
@[simp] theorem lpathMod_spills (j : Nat) (g : LPath → LPath) : (lpathMod j g s).spills = s.spills := rfl
@[simp] theorem lpathMod_opens (j : Nat) (g : LPath → LPath) : (lpathMod j g s).opens = s.opens := rfl
@[simp] theorem lpathMod_landings (j : Nat) (g : LPath → LPath) : (lpathMod j g s).landings = s.landings := rfl
@[simp] theorem lpathMod_connLt (j : Nat) (g : LPath → LPath) : (lpathMod j g s).connLt = s.connLt := rfl
@[simp] theorem lpathMod_sidNext (j : Nat) (g : LPath → LPath) : (lpathMod j g s).sidNext = s.sidNext := rfl
@[simp] theorem lpathMod_ltkQ (j : Nat) (g : LPath → LPath) : (lpathMod j g s).ltkQ = s.ltkQ := rfl
@[simp] theorem lpathMod_ltkRoutes (j : Nat) (g : LPath → LPath) : (lpathMod j g s).ltkRoutes = s.ltkRoutes := rfl
@[simp] theorem lpathMod_ltkPause (j : Nat) (g : LPath → LPath) : (lpathMod j g s).ltkPause = s.ltkPause := rfl
@[simp] theorem lpathMod_ptpGood (j : Nat) (g : LPath → LPath) : (lpathMod j g s).ptpGood = s.ptpGood := rfl
@[simp] theorem lpathMod_held (j : Nat) (g : LPath → LPath) : (lpathMod j g s).held = s.held := rfl
@[simp] theorem lpathMod_hostEnts (j : Nat) (g : LPath → LPath) : (lpathMod j g s).hostEnts = s.hostEnts := rfl
@[simp] theorem lpathMod_hrings (j : Nat) (g : LPath → LPath) : (lpathMod j g s).hrings = s.hrings := rfl
@[simp] theorem lpathMod_hostNext (j : Nat) (g : LPath → LPath) : (lpathMod j g s).hostNext = s.hostNext := rfl
@[simp] theorem lpathMod_aer (j : Nat) (g : LPath → LPath) : (lpathMod j g s).aer = s.aer := rfl
@[simp] theorem lpathMod_tcache (j : Nat) (g : LPath → LPath) : (lpathMod j g s).tcache = s.tcache := rfl
@[simp] theorem lpathMod_fabCyc (j : Nat) (g : LPath → LPath) : (lpathMod j g s).fabCyc = s.fabCyc := rfl
@[simp] theorem lpathMod_used (j : Nat) (g : LPath → LPath) : (lpathMod j g s).used = s.used := rfl
@[simp] theorem lpathMod_slotAt (j : Nat) (g : LPath → LPath) : (lpathMod j g s).slotAt = s.slotAt := rfl
@[simp] theorem lpathMod_capNext (j : Nat) (g : LPath → LPath) : (lpathMod j g s).capNext = s.capNext := rfl
@[simp] theorem lpathMod_ats (j : Nat) (g : LPath → LPath) : (lpathMod j g s).ats = s.ats := rfl
@[simp] theorem lpathMod_pageReqs (j : Nat) (g : LPath → LPath) : (lpathMod j g s).pageReqs = s.pageReqs := rfl
@[simp] theorem lpathMod_prgNext (j : Nat) (g : LPath → LPath) : (lpathMod j g s).prgNext = s.prgNext := rfl
@[simp] theorem lpathMod_atsInv (j : Nat) (g : LPath → LPath) : (lpathMod j g s).atsInv = s.atsInv := rfl
@[simp] theorem lpathMod_atsEn (j : Nat) (g : LPath → LPath) : (lpathMod j g s).atsEn = s.atsEn := rfl
@[simp] theorem lpathMod_priEn (j : Nat) (g : LPath → LPath) : (lpathMod j g s).priEn = s.priEn := rfl
@[simp] theorem lpathMod_priAlloc (j : Nat) (g : LPath → LPath) : (lpathMod j g s).priAlloc = s.priAlloc := rfl
@[simp] theorem lpathMod_winShare (j : Nat) (g : LPath → LPath) : (lpathMod j g s).winShare = s.winShare := rfl
@[simp] theorem lpathMod_sinks (j : Nat) (g : LPath → LPath) : (lpathMod j g s).sinks = s.sinks := rfl
@[simp] theorem lpathMod_scrubAt (j : Nat) (g : LPath → LPath) : (lpathMod j g s).scrubAt = s.scrubAt := rfl
@[simp] theorem lpathMod_mem (j : Nat) (g : LPath → LPath) : (lpathMod j g s).mem = s.mem := rfl
@[simp] theorem lpathMod_memEpoch (j : Nat) (g : LPath → LPath) : (lpathMod j g s).memEpoch = s.memEpoch := rfl
@[simp] theorem lpathMod_lines (j : Nat) (g : LPath → LPath) : (lpathMod j g s).lines = s.lines := rfl
@[simp] theorem lpathMod_pools (j : Nat) (g : LPath → LPath) : (lpathMod j g s).pools = s.pools := rfl
@[simp] theorem lpathMod_byrQ (j : Nat) (g : LPath → LPath) : (lpathMod j g s).byrQ = s.byrQ := rfl
@[simp] theorem lpathMod_byrCmd (j : Nat) (g : LPath → LPath) : (lpathMod j g s).byrCmd = s.byrCmd := rfl
@[simp] theorem lpathMod_tlyShadow (j : Nat) (g : LPath → LPath) : (lpathMod j g s).tlyShadow = s.tlyShadow := rfl
@[simp] theorem lpathMod_connShadow (j : Nat) (g : LPath → LPath) : (lpathMod j g s).connShadow = s.connShadow := rfl
@[simp] theorem lpathMod_watches (j : Nat) (g : LPath → LPath) : (lpathMod j g s).watches = s.watches := rfl
@[simp] theorem lpathMod_folds (j : Nat) (g : LPath → LPath) : (lpathMod j g s).folds = s.folds := rfl
@[simp] theorem lpathMod_keys (j : Nat) (g : LPath → LPath) : (lpathMod j g s).keys = s.keys := rfl
@[simp] theorem lpathMod_ration (j : Nat) (g : LPath → LPath) : (lpathMod j g s).ration = s.ration := rfl
@[simp] theorem lpathMod_pmTry (j : Nat) (g : LPath → LPath) : (lpathMod j g s).pmTry = s.pmTry := rfl
@[simp] theorem lpathMod_pldmQ (j : Nat) (g : LPath → LPath) : (lpathMod j g s).pldmQ = s.pldmQ := rfl
@[simp] theorem lpathMod_mgmt (j : Nat) (g : LPath → LPath) : (lpathMod j g s).mgmt = s.mgmt := rfl
@[simp] theorem lpathMod_pwr (j : Nat) (g : LPath → LPath) : (lpathMod j g s).pwr = s.pwr := rfl
@[simp] theorem lpathMod_cfg (j : Nat) (g : LPath → LPath) : (lpathMod j g s).cfg = s.cfg := rfl
@[simp] theorem lpathMod_tap (j : Nat) (g : LPath → LPath) : (lpathMod j g s).tap = s.tap := rfl
@[simp] theorem lpathMod_mwins (j : Nat) (g : LPath → LPath) : (lpathMod j g s).mwins = s.mwins := rfl
@[simp] theorem lpathMod_openAt (j : Nat) (g : LPath → LPath) : (lpathMod j g s).openAt = s.openAt := rfl
@[simp] theorem lpathMod_whsLands (j : Nat) (g : LPath → LPath) : (lpathMod j g s).whsLands = s.whsLands := rfl
@[simp] theorem lpathMod_accWaits (j : Nat) (g : LPath → LPath) : (lpathMod j g s).accWaits = s.accWaits := rfl
@[simp] theorem lpathMod_formAt (j : Nat) (g : LPath → LPath) : (lpathMod j g s).formAt = s.formAt := rfl
@[simp] theorem lpathMod_admSeq (j : Nat) (g : LPath → LPath) : (lpathMod j g s).admSeq = s.admSeq := rfl
@[simp] theorem lpathMod_spMark (j : Nat) (g : LPath → LPath) : (lpathMod j g s).spMark = s.spMark := rfl
@[simp] theorem lpathMod_bellLate (j : Nat) (g : LPath → LPath) : (lpathMod j g s).bellLate = s.bellLate := rfl
@[simp] theorem lpathMod_pending (j : Nat) (g : LPath → LPath) : (lpathMod j g s).pending = s.pending := rfl
@[simp] theorem rdW_lpathMod (j : Nat) (g : LPath → LPath) (rb : Blk) (ri ro : Nat) : rdW (lpathMod j g s) rb ri ro = rdW s rb ri ro := rfl
@[simp] theorem rd_lpathMod (j : Nat) (g : LPath → LPath) (rf : Fld) (ri : Nat) : rd (lpathMod j g s) rf ri = rd s rf ri := rfl
@[simp] theorem rdB_lpathMod (j : Nat) (g : LPath → LPath) (rf : Fld) (ri : Nat) : rdB (lpathMod j g s) rf ri = rdB s rf ri := rfl

/-! ### lrouteMod -/

@[simp] theorem lrouteMod_now (r : Nat) (g : LRoute → LRoute) : (lrouteMod r g s).now = s.now := rfl
@[simp] theorem lrouteMod_freeCtr (r : Nat) (g : LRoute → LRoute) : (lrouteMod r g s).freeCtr = s.freeCtr := rfl
@[simp] theorem lrouteMod_regs (r : Nat) (g : LRoute → LRoute) : (lrouteMod r g s).regs = s.regs := rfl
@[simp] theorem lrouteMod_bellPend (r : Nat) (g : LRoute → LRoute) : (lrouteMod r g s).bellPend = s.bellPend := rfl
@[simp] theorem lrouteMod_rearmPend (r : Nat) (g : LRoute → LRoute) : (lrouteMod r g s).rearmPend = s.rearmPend := rfl
@[simp] theorem lrouteMod_fixedDone (r : Nat) (g : LRoute → LRoute) : (lrouteMod r g s).fixedDone = s.fixedDone := rfl
@[simp] theorem lrouteMod_outbox (r : Nat) (g : LRoute → LRoute) : (lrouteMod r g s).outbox = s.outbox := rfl
@[simp] theorem lrouteMod_bellLock (r : Nat) (g : LRoute → LRoute) : (lrouteMod r g s).bellLock = s.bellLock := rfl
@[simp] theorem lrouteMod_aliveOut (r : Nat) (g : LRoute → LRoute) : (lrouteMod r g s).aliveOut = s.aliveOut := rfl
@[simp] theorem lrouteMod_bell (r : Nat) (g : LRoute → LRoute) : (lrouteMod r g s).bell = s.bell := rfl
@[simp] theorem lrouteMod_pdks (r : Nat) (g : LRoute → LRoute) : (lrouteMod r g s).pdks = s.pdks := rfl
@[simp] theorem lrouteMod_vfEnable (r : Nat) (g : LRoute → LRoute) : (lrouteMod r g s).vfEnable = s.vfEnable := rfl
@[simp] theorem lrouteMod_numVfs (r : Nat) (g : LRoute → LRoute) : (lrouteMod r g s).numVfs = s.numVfs := rfl
@[simp] theorem lrouteMod_fns (r : Nat) (g : LRoute → LRoute) : (lrouteMod r g s).fns = s.fns := rfl
@[simp] theorem lrouteMod_pfEvents (r : Nat) (g : LRoute → LRoute) : (lrouteMod r g s).pfEvents = s.pfEvents := rfl
@[simp] theorem lrouteMod_pfLost (r : Nat) (g : LRoute → LRoute) : (lrouteMod r g s).pfLost = s.pfLost := rfl
@[simp] theorem lrouteMod_fbk (r : Nat) (g : LRoute → LRoute) : (lrouteMod r g s).fbk = s.fbk := rfl
@[simp] theorem lrouteMod_cores (r : Nat) (g : LRoute → LRoute) : (lrouteMod r g s).cores = s.cores := rfl
@[simp] theorem lrouteMod_meshes (r : Nat) (g : LRoute → LRoute) : (lrouteMod r g s).meshes = s.meshes := rfl
@[simp] theorem lrouteMod_links (r : Nat) (g : LRoute → LRoute) : (lrouteMod r g s).links = s.links := rfl
@[simp] theorem lrouteMod_sp (r : Nat) (g : LRoute → LRoute) : (lrouteMod r g s).sp = s.sp := rfl
@[simp] theorem lrouteMod_spEpoch (r : Nat) (g : LRoute → LRoute) : (lrouteMod r g s).spEpoch = s.spEpoch := rfl
@[simp] theorem lrouteMod_imem (r : Nat) (g : LRoute → LRoute) : (lrouteMod r g s).imem = s.imem := rfl
@[simp] theorem lrouteMod_rslot (r : Nat) (g : LRoute → LRoute) : (lrouteMod r g s).rslot = s.rslot := rfl
@[simp] theorem lrouteMod_tile (r : Nat) (g : LRoute → LRoute) : (lrouteMod r g s).tile = s.tile := rfl
@[simp] theorem lrouteMod_acc (r : Nat) (g : LRoute → LRoute) : (lrouteMod r g s).acc = s.acc := rfl
@[simp] theorem lrouteMod_shadow (r : Nat) (g : LRoute → LRoute) : (lrouteMod r g s).shadow = s.shadow := rfl
@[simp] theorem lrouteMod_desc (r : Nat) (g : LRoute → LRoute) : (lrouteMod r g s).desc = s.desc := rfl
@[simp] theorem lrouteMod_frameChk (r : Nat) (g : LRoute → LRoute) : (lrouteMod r g s).frameChk = s.frameChk := rfl
@[simp] theorem lrouteMod_ht (r : Nat) (g : LRoute → LRoute) : (lrouteMod r g s).ht = s.ht := rfl
@[simp] theorem lrouteMod_wlkDue (r : Nat) (g : LRoute → LRoute) : (lrouteMod r g s).wlkDue = s.wlkDue := rfl
@[simp] theorem lrouteMod_walkers (r : Nat) (g : LRoute → LRoute) : (lrouteMod r g s).walkers = s.walkers := rfl
@[simp] theorem lrouteMod_wlkDone (r : Nat) (g : LRoute → LRoute) : (lrouteMod r g s).wlkDone = s.wlkDone := rfl
@[simp] theorem lrouteMod_mcores (r : Nat) (g : LRoute → LRoute) : (lrouteMod r g s).mcores = s.mcores := rfl
@[simp] theorem lrouteMod_mslice (r : Nat) (g : LRoute → LRoute) : (lrouteMod r g s).mslice = s.mslice := rfl
@[simp] theorem lrouteMod_mblast (r : Nat) (g : LRoute → LRoute) : (lrouteMod r g s).mblast = s.mblast := rfl
@[simp] theorem lrouteMod_repairs (r : Nat) (g : LRoute → LRoute) : (lrouteMod r g s).repairs = s.repairs := rfl
@[simp] theorem lrouteMod_ctxs (r : Nat) (g : LRoute → LRoute) : (lrouteMod r g s).ctxs = s.ctxs := rfl
@[simp] theorem lrouteMod_leaCyc (r : Nat) (g : LRoute → LRoute) : (lrouteMod r g s).leaCyc = s.leaCyc := rfl
@[simp] theorem lrouteMod_fab (r : Nat) (g : LRoute → LRoute) : (lrouteMod r g s).fab = s.fab := rfl
@[simp] theorem lrouteMod_tlyQ (r : Nat) (g : LRoute → LRoute) : (lrouteMod r g s).tlyQ = s.tlyQ := rfl
@[simp] theorem lrouteMod_tlyWaits (r : Nat) (g : LRoute → LRoute) : (lrouteMod r g s).tlyWaits = s.tlyWaits := rfl
@[simp] theorem lrouteMod_whsQ (r : Nat) (g : LRoute → LRoute) : (lrouteMod r g s).whsQ = s.whsQ := rfl
@[simp] theorem lrouteMod_sends (r : Nat) (g : LRoute → LRoute) : (lrouteMod r g s).sends = s.sends := rfl
@[simp] theorem lrouteMod_rqs (r : Nat) (g : LRoute → LRoute) : (lrouteMod r g s).rqs = s.rqs := rfl
@[simp] theorem lrouteMod_spills (r : Nat) (g : LRoute → LRoute) : (lrouteMod r g s).spills = s.spills := rfl
@[simp] theorem lrouteMod_opens (r : Nat) (g : LRoute → LRoute) : (lrouteMod r g s).opens = s.opens := rfl
@[simp] theorem lrouteMod_landings (r : Nat) (g : LRoute → LRoute) : (lrouteMod r g s).landings = s.landings := rfl
@[simp] theorem lrouteMod_connLt (r : Nat) (g : LRoute → LRoute) : (lrouteMod r g s).connLt = s.connLt := rfl
@[simp] theorem lrouteMod_sidNext (r : Nat) (g : LRoute → LRoute) : (lrouteMod r g s).sidNext = s.sidNext := rfl
@[simp] theorem lrouteMod_ltkQ (r : Nat) (g : LRoute → LRoute) : (lrouteMod r g s).ltkQ = s.ltkQ := rfl
@[simp] theorem lrouteMod_ltkPaths (r : Nat) (g : LRoute → LRoute) : (lrouteMod r g s).ltkPaths = s.ltkPaths := rfl
@[simp] theorem lrouteMod_ltkPause (r : Nat) (g : LRoute → LRoute) : (lrouteMod r g s).ltkPause = s.ltkPause := rfl
@[simp] theorem lrouteMod_ptpGood (r : Nat) (g : LRoute → LRoute) : (lrouteMod r g s).ptpGood = s.ptpGood := rfl
@[simp] theorem lrouteMod_held (r : Nat) (g : LRoute → LRoute) : (lrouteMod r g s).held = s.held := rfl
@[simp] theorem lrouteMod_hostEnts (r : Nat) (g : LRoute → LRoute) : (lrouteMod r g s).hostEnts = s.hostEnts := rfl
@[simp] theorem lrouteMod_hrings (r : Nat) (g : LRoute → LRoute) : (lrouteMod r g s).hrings = s.hrings := rfl
@[simp] theorem lrouteMod_hostNext (r : Nat) (g : LRoute → LRoute) : (lrouteMod r g s).hostNext = s.hostNext := rfl
@[simp] theorem lrouteMod_aer (r : Nat) (g : LRoute → LRoute) : (lrouteMod r g s).aer = s.aer := rfl
@[simp] theorem lrouteMod_tcache (r : Nat) (g : LRoute → LRoute) : (lrouteMod r g s).tcache = s.tcache := rfl
@[simp] theorem lrouteMod_fabCyc (r : Nat) (g : LRoute → LRoute) : (lrouteMod r g s).fabCyc = s.fabCyc := rfl
@[simp] theorem lrouteMod_used (r : Nat) (g : LRoute → LRoute) : (lrouteMod r g s).used = s.used := rfl
@[simp] theorem lrouteMod_slotAt (r : Nat) (g : LRoute → LRoute) : (lrouteMod r g s).slotAt = s.slotAt := rfl
@[simp] theorem lrouteMod_capNext (r : Nat) (g : LRoute → LRoute) : (lrouteMod r g s).capNext = s.capNext := rfl
@[simp] theorem lrouteMod_ats (r : Nat) (g : LRoute → LRoute) : (lrouteMod r g s).ats = s.ats := rfl
@[simp] theorem lrouteMod_pageReqs (r : Nat) (g : LRoute → LRoute) : (lrouteMod r g s).pageReqs = s.pageReqs := rfl
@[simp] theorem lrouteMod_prgNext (r : Nat) (g : LRoute → LRoute) : (lrouteMod r g s).prgNext = s.prgNext := rfl
@[simp] theorem lrouteMod_atsInv (r : Nat) (g : LRoute → LRoute) : (lrouteMod r g s).atsInv = s.atsInv := rfl
@[simp] theorem lrouteMod_atsEn (r : Nat) (g : LRoute → LRoute) : (lrouteMod r g s).atsEn = s.atsEn := rfl
@[simp] theorem lrouteMod_priEn (r : Nat) (g : LRoute → LRoute) : (lrouteMod r g s).priEn = s.priEn := rfl
@[simp] theorem lrouteMod_priAlloc (r : Nat) (g : LRoute → LRoute) : (lrouteMod r g s).priAlloc = s.priAlloc := rfl
@[simp] theorem lrouteMod_winShare (r : Nat) (g : LRoute → LRoute) : (lrouteMod r g s).winShare = s.winShare := rfl
@[simp] theorem lrouteMod_sinks (r : Nat) (g : LRoute → LRoute) : (lrouteMod r g s).sinks = s.sinks := rfl
@[simp] theorem lrouteMod_scrubAt (r : Nat) (g : LRoute → LRoute) : (lrouteMod r g s).scrubAt = s.scrubAt := rfl
@[simp] theorem lrouteMod_mem (r : Nat) (g : LRoute → LRoute) : (lrouteMod r g s).mem = s.mem := rfl
@[simp] theorem lrouteMod_memEpoch (r : Nat) (g : LRoute → LRoute) : (lrouteMod r g s).memEpoch = s.memEpoch := rfl
@[simp] theorem lrouteMod_lines (r : Nat) (g : LRoute → LRoute) : (lrouteMod r g s).lines = s.lines := rfl
@[simp] theorem lrouteMod_pools (r : Nat) (g : LRoute → LRoute) : (lrouteMod r g s).pools = s.pools := rfl
@[simp] theorem lrouteMod_byrQ (r : Nat) (g : LRoute → LRoute) : (lrouteMod r g s).byrQ = s.byrQ := rfl
@[simp] theorem lrouteMod_byrCmd (r : Nat) (g : LRoute → LRoute) : (lrouteMod r g s).byrCmd = s.byrCmd := rfl
@[simp] theorem lrouteMod_tlyShadow (r : Nat) (g : LRoute → LRoute) : (lrouteMod r g s).tlyShadow = s.tlyShadow := rfl
@[simp] theorem lrouteMod_connShadow (r : Nat) (g : LRoute → LRoute) : (lrouteMod r g s).connShadow = s.connShadow := rfl
@[simp] theorem lrouteMod_watches (r : Nat) (g : LRoute → LRoute) : (lrouteMod r g s).watches = s.watches := rfl
@[simp] theorem lrouteMod_folds (r : Nat) (g : LRoute → LRoute) : (lrouteMod r g s).folds = s.folds := rfl
@[simp] theorem lrouteMod_keys (r : Nat) (g : LRoute → LRoute) : (lrouteMod r g s).keys = s.keys := rfl
@[simp] theorem lrouteMod_ration (r : Nat) (g : LRoute → LRoute) : (lrouteMod r g s).ration = s.ration := rfl
@[simp] theorem lrouteMod_pmTry (r : Nat) (g : LRoute → LRoute) : (lrouteMod r g s).pmTry = s.pmTry := rfl
@[simp] theorem lrouteMod_pldmQ (r : Nat) (g : LRoute → LRoute) : (lrouteMod r g s).pldmQ = s.pldmQ := rfl
@[simp] theorem lrouteMod_mgmt (r : Nat) (g : LRoute → LRoute) : (lrouteMod r g s).mgmt = s.mgmt := rfl
@[simp] theorem lrouteMod_pwr (r : Nat) (g : LRoute → LRoute) : (lrouteMod r g s).pwr = s.pwr := rfl
@[simp] theorem lrouteMod_cfg (r : Nat) (g : LRoute → LRoute) : (lrouteMod r g s).cfg = s.cfg := rfl
@[simp] theorem lrouteMod_tap (r : Nat) (g : LRoute → LRoute) : (lrouteMod r g s).tap = s.tap := rfl
@[simp] theorem lrouteMod_mwins (r : Nat) (g : LRoute → LRoute) : (lrouteMod r g s).mwins = s.mwins := rfl
@[simp] theorem lrouteMod_openAt (r : Nat) (g : LRoute → LRoute) : (lrouteMod r g s).openAt = s.openAt := rfl
@[simp] theorem lrouteMod_whsLands (r : Nat) (g : LRoute → LRoute) : (lrouteMod r g s).whsLands = s.whsLands := rfl
@[simp] theorem lrouteMod_accWaits (r : Nat) (g : LRoute → LRoute) : (lrouteMod r g s).accWaits = s.accWaits := rfl
@[simp] theorem lrouteMod_formAt (r : Nat) (g : LRoute → LRoute) : (lrouteMod r g s).formAt = s.formAt := rfl
@[simp] theorem lrouteMod_admSeq (r : Nat) (g : LRoute → LRoute) : (lrouteMod r g s).admSeq = s.admSeq := rfl
@[simp] theorem lrouteMod_spMark (r : Nat) (g : LRoute → LRoute) : (lrouteMod r g s).spMark = s.spMark := rfl
@[simp] theorem lrouteMod_bellLate (r : Nat) (g : LRoute → LRoute) : (lrouteMod r g s).bellLate = s.bellLate := rfl
@[simp] theorem lrouteMod_pending (r : Nat) (g : LRoute → LRoute) : (lrouteMod r g s).pending = s.pending := rfl
@[simp] theorem rdW_lrouteMod (r : Nat) (g : LRoute → LRoute) (rb : Blk) (ri ro : Nat) : rdW (lrouteMod r g s) rb ri ro = rdW s rb ri ro := rfl
@[simp] theorem rd_lrouteMod (r : Nat) (g : LRoute → LRoute) (rf : Fld) (ri : Nat) : rd (lrouteMod r g s) rf ri = rd s rf ri := rfl
@[simp] theorem rdB_lrouteMod (r : Nat) (g : LRoute → LRoute) (rf : Fld) (ri : Nat) : rdB (lrouteMod r g s) rf ri = rdB s rf ri := rfl

/-! ### hringMod -/

@[simp] theorem hringMod_now (f : Nat) (k : Nat) (g : HRing → HRing) : (hringMod f k g s).now = s.now := rfl
@[simp] theorem hringMod_freeCtr (f : Nat) (k : Nat) (g : HRing → HRing) : (hringMod f k g s).freeCtr = s.freeCtr := rfl
@[simp] theorem hringMod_regs (f : Nat) (k : Nat) (g : HRing → HRing) : (hringMod f k g s).regs = s.regs := rfl
@[simp] theorem hringMod_bellPend (f : Nat) (k : Nat) (g : HRing → HRing) : (hringMod f k g s).bellPend = s.bellPend := rfl
@[simp] theorem hringMod_rearmPend (f : Nat) (k : Nat) (g : HRing → HRing) : (hringMod f k g s).rearmPend = s.rearmPend := rfl
@[simp] theorem hringMod_fixedDone (f : Nat) (k : Nat) (g : HRing → HRing) : (hringMod f k g s).fixedDone = s.fixedDone := rfl
@[simp] theorem hringMod_outbox (f : Nat) (k : Nat) (g : HRing → HRing) : (hringMod f k g s).outbox = s.outbox := rfl
@[simp] theorem hringMod_bellLock (f : Nat) (k : Nat) (g : HRing → HRing) : (hringMod f k g s).bellLock = s.bellLock := rfl
@[simp] theorem hringMod_aliveOut (f : Nat) (k : Nat) (g : HRing → HRing) : (hringMod f k g s).aliveOut = s.aliveOut := rfl
@[simp] theorem hringMod_bell (f : Nat) (k : Nat) (g : HRing → HRing) : (hringMod f k g s).bell = s.bell := rfl
@[simp] theorem hringMod_pdks (f : Nat) (k : Nat) (g : HRing → HRing) : (hringMod f k g s).pdks = s.pdks := rfl
@[simp] theorem hringMod_vfEnable (f : Nat) (k : Nat) (g : HRing → HRing) : (hringMod f k g s).vfEnable = s.vfEnable := rfl
@[simp] theorem hringMod_numVfs (f : Nat) (k : Nat) (g : HRing → HRing) : (hringMod f k g s).numVfs = s.numVfs := rfl
@[simp] theorem hringMod_fns (f : Nat) (k : Nat) (g : HRing → HRing) : (hringMod f k g s).fns = s.fns := rfl
@[simp] theorem hringMod_pfEvents (f : Nat) (k : Nat) (g : HRing → HRing) : (hringMod f k g s).pfEvents = s.pfEvents := rfl
@[simp] theorem hringMod_pfLost (f : Nat) (k : Nat) (g : HRing → HRing) : (hringMod f k g s).pfLost = s.pfLost := rfl
@[simp] theorem hringMod_fbk (f : Nat) (k : Nat) (g : HRing → HRing) : (hringMod f k g s).fbk = s.fbk := rfl
@[simp] theorem hringMod_cores (f : Nat) (k : Nat) (g : HRing → HRing) : (hringMod f k g s).cores = s.cores := rfl
@[simp] theorem hringMod_meshes (f : Nat) (k : Nat) (g : HRing → HRing) : (hringMod f k g s).meshes = s.meshes := rfl
@[simp] theorem hringMod_links (f : Nat) (k : Nat) (g : HRing → HRing) : (hringMod f k g s).links = s.links := rfl
@[simp] theorem hringMod_sp (f : Nat) (k : Nat) (g : HRing → HRing) : (hringMod f k g s).sp = s.sp := rfl
@[simp] theorem hringMod_spEpoch (f : Nat) (k : Nat) (g : HRing → HRing) : (hringMod f k g s).spEpoch = s.spEpoch := rfl
@[simp] theorem hringMod_imem (f : Nat) (k : Nat) (g : HRing → HRing) : (hringMod f k g s).imem = s.imem := rfl
@[simp] theorem hringMod_rslot (f : Nat) (k : Nat) (g : HRing → HRing) : (hringMod f k g s).rslot = s.rslot := rfl
@[simp] theorem hringMod_tile (f : Nat) (k : Nat) (g : HRing → HRing) : (hringMod f k g s).tile = s.tile := rfl
@[simp] theorem hringMod_acc (f : Nat) (k : Nat) (g : HRing → HRing) : (hringMod f k g s).acc = s.acc := rfl
@[simp] theorem hringMod_shadow (f : Nat) (k : Nat) (g : HRing → HRing) : (hringMod f k g s).shadow = s.shadow := rfl
@[simp] theorem hringMod_desc (f : Nat) (k : Nat) (g : HRing → HRing) : (hringMod f k g s).desc = s.desc := rfl
@[simp] theorem hringMod_frameChk (f : Nat) (k : Nat) (g : HRing → HRing) : (hringMod f k g s).frameChk = s.frameChk := rfl
@[simp] theorem hringMod_ht (f : Nat) (k : Nat) (g : HRing → HRing) : (hringMod f k g s).ht = s.ht := rfl
@[simp] theorem hringMod_wlkDue (f : Nat) (k : Nat) (g : HRing → HRing) : (hringMod f k g s).wlkDue = s.wlkDue := rfl
@[simp] theorem hringMod_walkers (f : Nat) (k : Nat) (g : HRing → HRing) : (hringMod f k g s).walkers = s.walkers := rfl
@[simp] theorem hringMod_wlkDone (f : Nat) (k : Nat) (g : HRing → HRing) : (hringMod f k g s).wlkDone = s.wlkDone := rfl
@[simp] theorem hringMod_mcores (f : Nat) (k : Nat) (g : HRing → HRing) : (hringMod f k g s).mcores = s.mcores := rfl
@[simp] theorem hringMod_mslice (f : Nat) (k : Nat) (g : HRing → HRing) : (hringMod f k g s).mslice = s.mslice := rfl
@[simp] theorem hringMod_mblast (f : Nat) (k : Nat) (g : HRing → HRing) : (hringMod f k g s).mblast = s.mblast := rfl
@[simp] theorem hringMod_repairs (f : Nat) (k : Nat) (g : HRing → HRing) : (hringMod f k g s).repairs = s.repairs := rfl
@[simp] theorem hringMod_ctxs (f : Nat) (k : Nat) (g : HRing → HRing) : (hringMod f k g s).ctxs = s.ctxs := rfl
@[simp] theorem hringMod_leaCyc (f : Nat) (k : Nat) (g : HRing → HRing) : (hringMod f k g s).leaCyc = s.leaCyc := rfl
@[simp] theorem hringMod_fab (f : Nat) (k : Nat) (g : HRing → HRing) : (hringMod f k g s).fab = s.fab := rfl
@[simp] theorem hringMod_tlyQ (f : Nat) (k : Nat) (g : HRing → HRing) : (hringMod f k g s).tlyQ = s.tlyQ := rfl
@[simp] theorem hringMod_tlyWaits (f : Nat) (k : Nat) (g : HRing → HRing) : (hringMod f k g s).tlyWaits = s.tlyWaits := rfl
@[simp] theorem hringMod_whsQ (f : Nat) (k : Nat) (g : HRing → HRing) : (hringMod f k g s).whsQ = s.whsQ := rfl
@[simp] theorem hringMod_sends (f : Nat) (k : Nat) (g : HRing → HRing) : (hringMod f k g s).sends = s.sends := rfl
@[simp] theorem hringMod_rqs (f : Nat) (k : Nat) (g : HRing → HRing) : (hringMod f k g s).rqs = s.rqs := rfl
@[simp] theorem hringMod_spills (f : Nat) (k : Nat) (g : HRing → HRing) : (hringMod f k g s).spills = s.spills := rfl
@[simp] theorem hringMod_opens (f : Nat) (k : Nat) (g : HRing → HRing) : (hringMod f k g s).opens = s.opens := rfl
@[simp] theorem hringMod_landings (f : Nat) (k : Nat) (g : HRing → HRing) : (hringMod f k g s).landings = s.landings := rfl
@[simp] theorem hringMod_connLt (f : Nat) (k : Nat) (g : HRing → HRing) : (hringMod f k g s).connLt = s.connLt := rfl
@[simp] theorem hringMod_sidNext (f : Nat) (k : Nat) (g : HRing → HRing) : (hringMod f k g s).sidNext = s.sidNext := rfl
@[simp] theorem hringMod_ltkQ (f : Nat) (k : Nat) (g : HRing → HRing) : (hringMod f k g s).ltkQ = s.ltkQ := rfl
@[simp] theorem hringMod_ltkPaths (f : Nat) (k : Nat) (g : HRing → HRing) : (hringMod f k g s).ltkPaths = s.ltkPaths := rfl
@[simp] theorem hringMod_ltkRoutes (f : Nat) (k : Nat) (g : HRing → HRing) : (hringMod f k g s).ltkRoutes = s.ltkRoutes := rfl
@[simp] theorem hringMod_ltkPause (f : Nat) (k : Nat) (g : HRing → HRing) : (hringMod f k g s).ltkPause = s.ltkPause := rfl
@[simp] theorem hringMod_ptpGood (f : Nat) (k : Nat) (g : HRing → HRing) : (hringMod f k g s).ptpGood = s.ptpGood := rfl
@[simp] theorem hringMod_held (f : Nat) (k : Nat) (g : HRing → HRing) : (hringMod f k g s).held = s.held := rfl
@[simp] theorem hringMod_hostEnts (f : Nat) (k : Nat) (g : HRing → HRing) : (hringMod f k g s).hostEnts = s.hostEnts := rfl
@[simp] theorem hringMod_hostNext (f : Nat) (k : Nat) (g : HRing → HRing) : (hringMod f k g s).hostNext = s.hostNext := rfl
@[simp] theorem hringMod_aer (f : Nat) (k : Nat) (g : HRing → HRing) : (hringMod f k g s).aer = s.aer := rfl
@[simp] theorem hringMod_tcache (f : Nat) (k : Nat) (g : HRing → HRing) : (hringMod f k g s).tcache = s.tcache := rfl
@[simp] theorem hringMod_fabCyc (f : Nat) (k : Nat) (g : HRing → HRing) : (hringMod f k g s).fabCyc = s.fabCyc := rfl
@[simp] theorem hringMod_used (f : Nat) (k : Nat) (g : HRing → HRing) : (hringMod f k g s).used = s.used := rfl
@[simp] theorem hringMod_slotAt (f : Nat) (k : Nat) (g : HRing → HRing) : (hringMod f k g s).slotAt = s.slotAt := rfl
@[simp] theorem hringMod_capNext (f : Nat) (k : Nat) (g : HRing → HRing) : (hringMod f k g s).capNext = s.capNext := rfl
@[simp] theorem hringMod_ats (f : Nat) (k : Nat) (g : HRing → HRing) : (hringMod f k g s).ats = s.ats := rfl
@[simp] theorem hringMod_pageReqs (f : Nat) (k : Nat) (g : HRing → HRing) : (hringMod f k g s).pageReqs = s.pageReqs := rfl
@[simp] theorem hringMod_prgNext (f : Nat) (k : Nat) (g : HRing → HRing) : (hringMod f k g s).prgNext = s.prgNext := rfl
@[simp] theorem hringMod_atsInv (f : Nat) (k : Nat) (g : HRing → HRing) : (hringMod f k g s).atsInv = s.atsInv := rfl
@[simp] theorem hringMod_atsEn (f : Nat) (k : Nat) (g : HRing → HRing) : (hringMod f k g s).atsEn = s.atsEn := rfl
@[simp] theorem hringMod_priEn (f : Nat) (k : Nat) (g : HRing → HRing) : (hringMod f k g s).priEn = s.priEn := rfl
@[simp] theorem hringMod_priAlloc (f : Nat) (k : Nat) (g : HRing → HRing) : (hringMod f k g s).priAlloc = s.priAlloc := rfl
@[simp] theorem hringMod_winShare (f : Nat) (k : Nat) (g : HRing → HRing) : (hringMod f k g s).winShare = s.winShare := rfl
@[simp] theorem hringMod_sinks (f : Nat) (k : Nat) (g : HRing → HRing) : (hringMod f k g s).sinks = s.sinks := rfl
@[simp] theorem hringMod_scrubAt (f : Nat) (k : Nat) (g : HRing → HRing) : (hringMod f k g s).scrubAt = s.scrubAt := rfl
@[simp] theorem hringMod_mem (f : Nat) (k : Nat) (g : HRing → HRing) : (hringMod f k g s).mem = s.mem := rfl
@[simp] theorem hringMod_memEpoch (f : Nat) (k : Nat) (g : HRing → HRing) : (hringMod f k g s).memEpoch = s.memEpoch := rfl
@[simp] theorem hringMod_lines (f : Nat) (k : Nat) (g : HRing → HRing) : (hringMod f k g s).lines = s.lines := rfl
@[simp] theorem hringMod_pools (f : Nat) (k : Nat) (g : HRing → HRing) : (hringMod f k g s).pools = s.pools := rfl
@[simp] theorem hringMod_byrQ (f : Nat) (k : Nat) (g : HRing → HRing) : (hringMod f k g s).byrQ = s.byrQ := rfl
@[simp] theorem hringMod_byrCmd (f : Nat) (k : Nat) (g : HRing → HRing) : (hringMod f k g s).byrCmd = s.byrCmd := rfl
@[simp] theorem hringMod_tlyShadow (f : Nat) (k : Nat) (g : HRing → HRing) : (hringMod f k g s).tlyShadow = s.tlyShadow := rfl
@[simp] theorem hringMod_connShadow (f : Nat) (k : Nat) (g : HRing → HRing) : (hringMod f k g s).connShadow = s.connShadow := rfl
@[simp] theorem hringMod_watches (f : Nat) (k : Nat) (g : HRing → HRing) : (hringMod f k g s).watches = s.watches := rfl
@[simp] theorem hringMod_folds (f : Nat) (k : Nat) (g : HRing → HRing) : (hringMod f k g s).folds = s.folds := rfl
@[simp] theorem hringMod_keys (f : Nat) (k : Nat) (g : HRing → HRing) : (hringMod f k g s).keys = s.keys := rfl
@[simp] theorem hringMod_ration (f : Nat) (k : Nat) (g : HRing → HRing) : (hringMod f k g s).ration = s.ration := rfl
@[simp] theorem hringMod_pmTry (f : Nat) (k : Nat) (g : HRing → HRing) : (hringMod f k g s).pmTry = s.pmTry := rfl
@[simp] theorem hringMod_pldmQ (f : Nat) (k : Nat) (g : HRing → HRing) : (hringMod f k g s).pldmQ = s.pldmQ := rfl
@[simp] theorem hringMod_mgmt (f : Nat) (k : Nat) (g : HRing → HRing) : (hringMod f k g s).mgmt = s.mgmt := rfl
@[simp] theorem hringMod_pwr (f : Nat) (k : Nat) (g : HRing → HRing) : (hringMod f k g s).pwr = s.pwr := rfl
@[simp] theorem hringMod_cfg (f : Nat) (k : Nat) (g : HRing → HRing) : (hringMod f k g s).cfg = s.cfg := rfl
@[simp] theorem hringMod_tap (f : Nat) (k : Nat) (g : HRing → HRing) : (hringMod f k g s).tap = s.tap := rfl
@[simp] theorem hringMod_mwins (f : Nat) (k : Nat) (g : HRing → HRing) : (hringMod f k g s).mwins = s.mwins := rfl
@[simp] theorem hringMod_openAt (f : Nat) (k : Nat) (g : HRing → HRing) : (hringMod f k g s).openAt = s.openAt := rfl
@[simp] theorem hringMod_whsLands (f : Nat) (k : Nat) (g : HRing → HRing) : (hringMod f k g s).whsLands = s.whsLands := rfl
@[simp] theorem hringMod_accWaits (f : Nat) (k : Nat) (g : HRing → HRing) : (hringMod f k g s).accWaits = s.accWaits := rfl
@[simp] theorem hringMod_formAt (f : Nat) (k : Nat) (g : HRing → HRing) : (hringMod f k g s).formAt = s.formAt := rfl
@[simp] theorem hringMod_admSeq (f : Nat) (k : Nat) (g : HRing → HRing) : (hringMod f k g s).admSeq = s.admSeq := rfl
@[simp] theorem hringMod_spMark (f : Nat) (k : Nat) (g : HRing → HRing) : (hringMod f k g s).spMark = s.spMark := rfl
@[simp] theorem hringMod_bellLate (f : Nat) (k : Nat) (g : HRing → HRing) : (hringMod f k g s).bellLate = s.bellLate := rfl
@[simp] theorem hringMod_pending (f : Nat) (k : Nat) (g : HRing → HRing) : (hringMod f k g s).pending = s.pending := rfl
@[simp] theorem rdW_hringMod (f : Nat) (k : Nat) (g : HRing → HRing) (rb : Blk) (ri ro : Nat) : rdW (hringMod f k g s) rb ri ro = rdW s rb ri ro := rfl
@[simp] theorem rd_hringMod (f : Nat) (k : Nat) (g : HRing → HRing) (rf : Fld) (ri : Nat) : rd (hringMod f k g s) rf ri = rd s rf ri := rfl
@[simp] theorem rdB_hringMod (f : Nat) (k : Nat) (g : HRing → HRing) (rf : Fld) (ri : Nat) : rdB (hringMod f k g s) rf ri = rdB s rf ri := rfl

/-! ### fabSet -/

@[simp] theorem fabSet_now (i : Nat) (x : Xact) : (fabSet i x s).now = s.now := rfl
@[simp] theorem fabSet_freeCtr (i : Nat) (x : Xact) : (fabSet i x s).freeCtr = s.freeCtr := rfl
@[simp] theorem fabSet_regs (i : Nat) (x : Xact) : (fabSet i x s).regs = s.regs := rfl
@[simp] theorem fabSet_bellPend (i : Nat) (x : Xact) : (fabSet i x s).bellPend = s.bellPend := rfl
@[simp] theorem fabSet_rearmPend (i : Nat) (x : Xact) : (fabSet i x s).rearmPend = s.rearmPend := rfl
@[simp] theorem fabSet_fixedDone (i : Nat) (x : Xact) : (fabSet i x s).fixedDone = s.fixedDone := rfl
@[simp] theorem fabSet_outbox (i : Nat) (x : Xact) : (fabSet i x s).outbox = s.outbox := rfl
@[simp] theorem fabSet_bellLock (i : Nat) (x : Xact) : (fabSet i x s).bellLock = s.bellLock := rfl
@[simp] theorem fabSet_aliveOut (i : Nat) (x : Xact) : (fabSet i x s).aliveOut = s.aliveOut := rfl
@[simp] theorem fabSet_bell (i : Nat) (x : Xact) : (fabSet i x s).bell = s.bell := rfl
@[simp] theorem fabSet_pdks (i : Nat) (x : Xact) : (fabSet i x s).pdks = s.pdks := rfl
@[simp] theorem fabSet_vfEnable (i : Nat) (x : Xact) : (fabSet i x s).vfEnable = s.vfEnable := rfl
@[simp] theorem fabSet_numVfs (i : Nat) (x : Xact) : (fabSet i x s).numVfs = s.numVfs := rfl
@[simp] theorem fabSet_fns (i : Nat) (x : Xact) : (fabSet i x s).fns = s.fns := rfl
@[simp] theorem fabSet_pfEvents (i : Nat) (x : Xact) : (fabSet i x s).pfEvents = s.pfEvents := rfl
@[simp] theorem fabSet_pfLost (i : Nat) (x : Xact) : (fabSet i x s).pfLost = s.pfLost := rfl
@[simp] theorem fabSet_fbk (i : Nat) (x : Xact) : (fabSet i x s).fbk = s.fbk := rfl
@[simp] theorem fabSet_cores (i : Nat) (x : Xact) : (fabSet i x s).cores = s.cores := rfl
@[simp] theorem fabSet_meshes (i : Nat) (x : Xact) : (fabSet i x s).meshes = s.meshes := rfl
@[simp] theorem fabSet_links (i : Nat) (x : Xact) : (fabSet i x s).links = s.links := rfl
@[simp] theorem fabSet_sp (i : Nat) (x : Xact) : (fabSet i x s).sp = s.sp := rfl
@[simp] theorem fabSet_spEpoch (i : Nat) (x : Xact) : (fabSet i x s).spEpoch = s.spEpoch := rfl
@[simp] theorem fabSet_imem (i : Nat) (x : Xact) : (fabSet i x s).imem = s.imem := rfl
@[simp] theorem fabSet_rslot (i : Nat) (x : Xact) : (fabSet i x s).rslot = s.rslot := rfl
@[simp] theorem fabSet_tile (i : Nat) (x : Xact) : (fabSet i x s).tile = s.tile := rfl
@[simp] theorem fabSet_acc (i : Nat) (x : Xact) : (fabSet i x s).acc = s.acc := rfl
@[simp] theorem fabSet_shadow (i : Nat) (x : Xact) : (fabSet i x s).shadow = s.shadow := rfl
@[simp] theorem fabSet_desc (i : Nat) (x : Xact) : (fabSet i x s).desc = s.desc := rfl
@[simp] theorem fabSet_frameChk (i : Nat) (x : Xact) : (fabSet i x s).frameChk = s.frameChk := rfl
@[simp] theorem fabSet_ht (i : Nat) (x : Xact) : (fabSet i x s).ht = s.ht := rfl
@[simp] theorem fabSet_wlkDue (i : Nat) (x : Xact) : (fabSet i x s).wlkDue = s.wlkDue := rfl
@[simp] theorem fabSet_walkers (i : Nat) (x : Xact) : (fabSet i x s).walkers = s.walkers := rfl
@[simp] theorem fabSet_wlkDone (i : Nat) (x : Xact) : (fabSet i x s).wlkDone = s.wlkDone := rfl
@[simp] theorem fabSet_mcores (i : Nat) (x : Xact) : (fabSet i x s).mcores = s.mcores := rfl
@[simp] theorem fabSet_mslice (i : Nat) (x : Xact) : (fabSet i x s).mslice = s.mslice := rfl
@[simp] theorem fabSet_mblast (i : Nat) (x : Xact) : (fabSet i x s).mblast = s.mblast := rfl
@[simp] theorem fabSet_repairs (i : Nat) (x : Xact) : (fabSet i x s).repairs = s.repairs := rfl
@[simp] theorem fabSet_ctxs (i : Nat) (x : Xact) : (fabSet i x s).ctxs = s.ctxs := rfl
@[simp] theorem fabSet_leaCyc (i : Nat) (x : Xact) : (fabSet i x s).leaCyc = s.leaCyc := rfl
@[simp] theorem fabSet_tlyQ (i : Nat) (x : Xact) : (fabSet i x s).tlyQ = s.tlyQ := rfl
@[simp] theorem fabSet_tlyWaits (i : Nat) (x : Xact) : (fabSet i x s).tlyWaits = s.tlyWaits := rfl
@[simp] theorem fabSet_whsQ (i : Nat) (x : Xact) : (fabSet i x s).whsQ = s.whsQ := rfl
@[simp] theorem fabSet_sends (i : Nat) (x : Xact) : (fabSet i x s).sends = s.sends := rfl
@[simp] theorem fabSet_rqs (i : Nat) (x : Xact) : (fabSet i x s).rqs = s.rqs := rfl
@[simp] theorem fabSet_spills (i : Nat) (x : Xact) : (fabSet i x s).spills = s.spills := rfl
@[simp] theorem fabSet_opens (i : Nat) (x : Xact) : (fabSet i x s).opens = s.opens := rfl
@[simp] theorem fabSet_landings (i : Nat) (x : Xact) : (fabSet i x s).landings = s.landings := rfl
@[simp] theorem fabSet_connLt (i : Nat) (x : Xact) : (fabSet i x s).connLt = s.connLt := rfl
@[simp] theorem fabSet_sidNext (i : Nat) (x : Xact) : (fabSet i x s).sidNext = s.sidNext := rfl
@[simp] theorem fabSet_ltkQ (i : Nat) (x : Xact) : (fabSet i x s).ltkQ = s.ltkQ := rfl
@[simp] theorem fabSet_ltkPaths (i : Nat) (x : Xact) : (fabSet i x s).ltkPaths = s.ltkPaths := rfl
@[simp] theorem fabSet_ltkRoutes (i : Nat) (x : Xact) : (fabSet i x s).ltkRoutes = s.ltkRoutes := rfl
@[simp] theorem fabSet_ltkPause (i : Nat) (x : Xact) : (fabSet i x s).ltkPause = s.ltkPause := rfl
@[simp] theorem fabSet_ptpGood (i : Nat) (x : Xact) : (fabSet i x s).ptpGood = s.ptpGood := rfl
@[simp] theorem fabSet_held (i : Nat) (x : Xact) : (fabSet i x s).held = s.held := rfl
@[simp] theorem fabSet_hostEnts (i : Nat) (x : Xact) : (fabSet i x s).hostEnts = s.hostEnts := rfl
@[simp] theorem fabSet_hrings (i : Nat) (x : Xact) : (fabSet i x s).hrings = s.hrings := rfl
@[simp] theorem fabSet_hostNext (i : Nat) (x : Xact) : (fabSet i x s).hostNext = s.hostNext := rfl
@[simp] theorem fabSet_aer (i : Nat) (x : Xact) : (fabSet i x s).aer = s.aer := rfl
@[simp] theorem fabSet_tcache (i : Nat) (x : Xact) : (fabSet i x s).tcache = s.tcache := rfl
@[simp] theorem fabSet_fabCyc (i : Nat) (x : Xact) : (fabSet i x s).fabCyc = s.fabCyc := rfl
@[simp] theorem fabSet_used (i : Nat) (x : Xact) : (fabSet i x s).used = s.used := rfl
@[simp] theorem fabSet_slotAt (i : Nat) (x : Xact) : (fabSet i x s).slotAt = s.slotAt := rfl
@[simp] theorem fabSet_capNext (i : Nat) (x : Xact) : (fabSet i x s).capNext = s.capNext := rfl
@[simp] theorem fabSet_ats (i : Nat) (x : Xact) : (fabSet i x s).ats = s.ats := rfl
@[simp] theorem fabSet_pageReqs (i : Nat) (x : Xact) : (fabSet i x s).pageReqs = s.pageReqs := rfl
@[simp] theorem fabSet_prgNext (i : Nat) (x : Xact) : (fabSet i x s).prgNext = s.prgNext := rfl
@[simp] theorem fabSet_atsInv (i : Nat) (x : Xact) : (fabSet i x s).atsInv = s.atsInv := rfl
@[simp] theorem fabSet_atsEn (i : Nat) (x : Xact) : (fabSet i x s).atsEn = s.atsEn := rfl
@[simp] theorem fabSet_priEn (i : Nat) (x : Xact) : (fabSet i x s).priEn = s.priEn := rfl
@[simp] theorem fabSet_priAlloc (i : Nat) (x : Xact) : (fabSet i x s).priAlloc = s.priAlloc := rfl
@[simp] theorem fabSet_winShare (i : Nat) (x : Xact) : (fabSet i x s).winShare = s.winShare := rfl
@[simp] theorem fabSet_sinks (i : Nat) (x : Xact) : (fabSet i x s).sinks = s.sinks := rfl
@[simp] theorem fabSet_scrubAt (i : Nat) (x : Xact) : (fabSet i x s).scrubAt = s.scrubAt := rfl
@[simp] theorem fabSet_mem (i : Nat) (x : Xact) : (fabSet i x s).mem = s.mem := rfl
@[simp] theorem fabSet_memEpoch (i : Nat) (x : Xact) : (fabSet i x s).memEpoch = s.memEpoch := rfl
@[simp] theorem fabSet_lines (i : Nat) (x : Xact) : (fabSet i x s).lines = s.lines := rfl
@[simp] theorem fabSet_pools (i : Nat) (x : Xact) : (fabSet i x s).pools = s.pools := rfl
@[simp] theorem fabSet_byrQ (i : Nat) (x : Xact) : (fabSet i x s).byrQ = s.byrQ := rfl
@[simp] theorem fabSet_byrCmd (i : Nat) (x : Xact) : (fabSet i x s).byrCmd = s.byrCmd := rfl
@[simp] theorem fabSet_tlyShadow (i : Nat) (x : Xact) : (fabSet i x s).tlyShadow = s.tlyShadow := rfl
@[simp] theorem fabSet_connShadow (i : Nat) (x : Xact) : (fabSet i x s).connShadow = s.connShadow := rfl
@[simp] theorem fabSet_watches (i : Nat) (x : Xact) : (fabSet i x s).watches = s.watches := rfl
@[simp] theorem fabSet_folds (i : Nat) (x : Xact) : (fabSet i x s).folds = s.folds := rfl
@[simp] theorem fabSet_keys (i : Nat) (x : Xact) : (fabSet i x s).keys = s.keys := rfl
@[simp] theorem fabSet_ration (i : Nat) (x : Xact) : (fabSet i x s).ration = s.ration := rfl
@[simp] theorem fabSet_pmTry (i : Nat) (x : Xact) : (fabSet i x s).pmTry = s.pmTry := rfl
@[simp] theorem fabSet_pldmQ (i : Nat) (x : Xact) : (fabSet i x s).pldmQ = s.pldmQ := rfl
@[simp] theorem fabSet_mgmt (i : Nat) (x : Xact) : (fabSet i x s).mgmt = s.mgmt := rfl
@[simp] theorem fabSet_pwr (i : Nat) (x : Xact) : (fabSet i x s).pwr = s.pwr := rfl
@[simp] theorem fabSet_cfg (i : Nat) (x : Xact) : (fabSet i x s).cfg = s.cfg := rfl
@[simp] theorem fabSet_tap (i : Nat) (x : Xact) : (fabSet i x s).tap = s.tap := rfl
@[simp] theorem fabSet_mwins (i : Nat) (x : Xact) : (fabSet i x s).mwins = s.mwins := rfl
@[simp] theorem fabSet_openAt (i : Nat) (x : Xact) : (fabSet i x s).openAt = s.openAt := rfl
@[simp] theorem fabSet_whsLands (i : Nat) (x : Xact) : (fabSet i x s).whsLands = s.whsLands := rfl
@[simp] theorem fabSet_accWaits (i : Nat) (x : Xact) : (fabSet i x s).accWaits = s.accWaits := rfl
@[simp] theorem fabSet_formAt (i : Nat) (x : Xact) : (fabSet i x s).formAt = s.formAt := rfl
@[simp] theorem fabSet_admSeq (i : Nat) (x : Xact) : (fabSet i x s).admSeq = s.admSeq := rfl
@[simp] theorem fabSet_spMark (i : Nat) (x : Xact) : (fabSet i x s).spMark = s.spMark := rfl
@[simp] theorem fabSet_bellLate (i : Nat) (x : Xact) : (fabSet i x s).bellLate = s.bellLate := rfl
@[simp] theorem fabSet_pending (i : Nat) (x : Xact) : (fabSet i x s).pending = s.pending := rfl
@[simp] theorem rdW_fabSet (i : Nat) (x : Xact) (rb : Blk) (ri ro : Nat) : rdW (fabSet i x s) rb ri ro = rdW s rb ri ro := rfl
@[simp] theorem rd_fabSet (i : Nat) (x : Xact) (rf : Fld) (ri : Nat) : rd (fabSet i x s) rf ri = rd s rf ri := rfl
@[simp] theorem rdB_fabSet (i : Nat) (x : Xact) (rf : Fld) (ri : Nat) : rdB (fabSet i x s) rf ri = rdB s rf ri := rfl

/-! ### tlyDrop -/

@[simp] theorem tlyDrop_now (i : Nat) : (tlyDrop i s).now = s.now := rfl
@[simp] theorem tlyDrop_freeCtr (i : Nat) : (tlyDrop i s).freeCtr = s.freeCtr := rfl
@[simp] theorem tlyDrop_regs (i : Nat) : (tlyDrop i s).regs = s.regs := rfl
@[simp] theorem tlyDrop_bellPend (i : Nat) : (tlyDrop i s).bellPend = s.bellPend := rfl
@[simp] theorem tlyDrop_rearmPend (i : Nat) : (tlyDrop i s).rearmPend = s.rearmPend := rfl
@[simp] theorem tlyDrop_fixedDone (i : Nat) : (tlyDrop i s).fixedDone = s.fixedDone := rfl
@[simp] theorem tlyDrop_outbox (i : Nat) : (tlyDrop i s).outbox = s.outbox := rfl
@[simp] theorem tlyDrop_bellLock (i : Nat) : (tlyDrop i s).bellLock = s.bellLock := rfl
@[simp] theorem tlyDrop_aliveOut (i : Nat) : (tlyDrop i s).aliveOut = s.aliveOut := rfl
@[simp] theorem tlyDrop_bell (i : Nat) : (tlyDrop i s).bell = s.bell := rfl
@[simp] theorem tlyDrop_pdks (i : Nat) : (tlyDrop i s).pdks = s.pdks := rfl
@[simp] theorem tlyDrop_vfEnable (i : Nat) : (tlyDrop i s).vfEnable = s.vfEnable := rfl
@[simp] theorem tlyDrop_numVfs (i : Nat) : (tlyDrop i s).numVfs = s.numVfs := rfl
@[simp] theorem tlyDrop_fns (i : Nat) : (tlyDrop i s).fns = s.fns := rfl
@[simp] theorem tlyDrop_pfEvents (i : Nat) : (tlyDrop i s).pfEvents = s.pfEvents := rfl
@[simp] theorem tlyDrop_pfLost (i : Nat) : (tlyDrop i s).pfLost = s.pfLost := rfl
@[simp] theorem tlyDrop_fbk (i : Nat) : (tlyDrop i s).fbk = s.fbk := rfl
@[simp] theorem tlyDrop_cores (i : Nat) : (tlyDrop i s).cores = s.cores := rfl
@[simp] theorem tlyDrop_meshes (i : Nat) : (tlyDrop i s).meshes = s.meshes := rfl
@[simp] theorem tlyDrop_links (i : Nat) : (tlyDrop i s).links = s.links := rfl
@[simp] theorem tlyDrop_sp (i : Nat) : (tlyDrop i s).sp = s.sp := rfl
@[simp] theorem tlyDrop_spEpoch (i : Nat) : (tlyDrop i s).spEpoch = s.spEpoch := rfl
@[simp] theorem tlyDrop_imem (i : Nat) : (tlyDrop i s).imem = s.imem := rfl
@[simp] theorem tlyDrop_rslot (i : Nat) : (tlyDrop i s).rslot = s.rslot := rfl
@[simp] theorem tlyDrop_tile (i : Nat) : (tlyDrop i s).tile = s.tile := rfl
@[simp] theorem tlyDrop_acc (i : Nat) : (tlyDrop i s).acc = s.acc := rfl
@[simp] theorem tlyDrop_shadow (i : Nat) : (tlyDrop i s).shadow = s.shadow := rfl
@[simp] theorem tlyDrop_desc (i : Nat) : (tlyDrop i s).desc = s.desc := rfl
@[simp] theorem tlyDrop_frameChk (i : Nat) : (tlyDrop i s).frameChk = s.frameChk := rfl
@[simp] theorem tlyDrop_ht (i : Nat) : (tlyDrop i s).ht = s.ht := rfl
@[simp] theorem tlyDrop_wlkDue (i : Nat) : (tlyDrop i s).wlkDue = s.wlkDue := rfl
@[simp] theorem tlyDrop_walkers (i : Nat) : (tlyDrop i s).walkers = s.walkers := rfl
@[simp] theorem tlyDrop_wlkDone (i : Nat) : (tlyDrop i s).wlkDone = s.wlkDone := rfl
@[simp] theorem tlyDrop_mcores (i : Nat) : (tlyDrop i s).mcores = s.mcores := rfl
@[simp] theorem tlyDrop_mslice (i : Nat) : (tlyDrop i s).mslice = s.mslice := rfl
@[simp] theorem tlyDrop_mblast (i : Nat) : (tlyDrop i s).mblast = s.mblast := rfl
@[simp] theorem tlyDrop_repairs (i : Nat) : (tlyDrop i s).repairs = s.repairs := rfl
@[simp] theorem tlyDrop_ctxs (i : Nat) : (tlyDrop i s).ctxs = s.ctxs := rfl
@[simp] theorem tlyDrop_leaCyc (i : Nat) : (tlyDrop i s).leaCyc = s.leaCyc := rfl
@[simp] theorem tlyDrop_fab (i : Nat) : (tlyDrop i s).fab = s.fab := rfl
@[simp] theorem tlyDrop_tlyWaits (i : Nat) : (tlyDrop i s).tlyWaits = s.tlyWaits := rfl
@[simp] theorem tlyDrop_whsQ (i : Nat) : (tlyDrop i s).whsQ = s.whsQ := rfl
@[simp] theorem tlyDrop_sends (i : Nat) : (tlyDrop i s).sends = s.sends := rfl
@[simp] theorem tlyDrop_rqs (i : Nat) : (tlyDrop i s).rqs = s.rqs := rfl
@[simp] theorem tlyDrop_spills (i : Nat) : (tlyDrop i s).spills = s.spills := rfl
@[simp] theorem tlyDrop_opens (i : Nat) : (tlyDrop i s).opens = s.opens := rfl
@[simp] theorem tlyDrop_landings (i : Nat) : (tlyDrop i s).landings = s.landings := rfl
@[simp] theorem tlyDrop_connLt (i : Nat) : (tlyDrop i s).connLt = s.connLt := rfl
@[simp] theorem tlyDrop_sidNext (i : Nat) : (tlyDrop i s).sidNext = s.sidNext := rfl
@[simp] theorem tlyDrop_ltkQ (i : Nat) : (tlyDrop i s).ltkQ = s.ltkQ := rfl
@[simp] theorem tlyDrop_ltkPaths (i : Nat) : (tlyDrop i s).ltkPaths = s.ltkPaths := rfl
@[simp] theorem tlyDrop_ltkRoutes (i : Nat) : (tlyDrop i s).ltkRoutes = s.ltkRoutes := rfl
@[simp] theorem tlyDrop_ltkPause (i : Nat) : (tlyDrop i s).ltkPause = s.ltkPause := rfl
@[simp] theorem tlyDrop_ptpGood (i : Nat) : (tlyDrop i s).ptpGood = s.ptpGood := rfl
@[simp] theorem tlyDrop_held (i : Nat) : (tlyDrop i s).held = s.held := rfl
@[simp] theorem tlyDrop_hostEnts (i : Nat) : (tlyDrop i s).hostEnts = s.hostEnts := rfl
@[simp] theorem tlyDrop_hrings (i : Nat) : (tlyDrop i s).hrings = s.hrings := rfl
@[simp] theorem tlyDrop_hostNext (i : Nat) : (tlyDrop i s).hostNext = s.hostNext := rfl
@[simp] theorem tlyDrop_aer (i : Nat) : (tlyDrop i s).aer = s.aer := rfl
@[simp] theorem tlyDrop_tcache (i : Nat) : (tlyDrop i s).tcache = s.tcache := rfl
@[simp] theorem tlyDrop_fabCyc (i : Nat) : (tlyDrop i s).fabCyc = s.fabCyc := rfl
@[simp] theorem tlyDrop_used (i : Nat) : (tlyDrop i s).used = s.used := rfl
@[simp] theorem tlyDrop_slotAt (i : Nat) : (tlyDrop i s).slotAt = s.slotAt := rfl
@[simp] theorem tlyDrop_capNext (i : Nat) : (tlyDrop i s).capNext = s.capNext := rfl
@[simp] theorem tlyDrop_ats (i : Nat) : (tlyDrop i s).ats = s.ats := rfl
@[simp] theorem tlyDrop_pageReqs (i : Nat) : (tlyDrop i s).pageReqs = s.pageReqs := rfl
@[simp] theorem tlyDrop_prgNext (i : Nat) : (tlyDrop i s).prgNext = s.prgNext := rfl
@[simp] theorem tlyDrop_atsInv (i : Nat) : (tlyDrop i s).atsInv = s.atsInv := rfl
@[simp] theorem tlyDrop_atsEn (i : Nat) : (tlyDrop i s).atsEn = s.atsEn := rfl
@[simp] theorem tlyDrop_priEn (i : Nat) : (tlyDrop i s).priEn = s.priEn := rfl
@[simp] theorem tlyDrop_priAlloc (i : Nat) : (tlyDrop i s).priAlloc = s.priAlloc := rfl
@[simp] theorem tlyDrop_winShare (i : Nat) : (tlyDrop i s).winShare = s.winShare := rfl
@[simp] theorem tlyDrop_sinks (i : Nat) : (tlyDrop i s).sinks = s.sinks := rfl
@[simp] theorem tlyDrop_scrubAt (i : Nat) : (tlyDrop i s).scrubAt = s.scrubAt := rfl
@[simp] theorem tlyDrop_mem (i : Nat) : (tlyDrop i s).mem = s.mem := rfl
@[simp] theorem tlyDrop_memEpoch (i : Nat) : (tlyDrop i s).memEpoch = s.memEpoch := rfl
@[simp] theorem tlyDrop_lines (i : Nat) : (tlyDrop i s).lines = s.lines := rfl
@[simp] theorem tlyDrop_pools (i : Nat) : (tlyDrop i s).pools = s.pools := rfl
@[simp] theorem tlyDrop_byrQ (i : Nat) : (tlyDrop i s).byrQ = s.byrQ := rfl
@[simp] theorem tlyDrop_byrCmd (i : Nat) : (tlyDrop i s).byrCmd = s.byrCmd := rfl
@[simp] theorem tlyDrop_tlyShadow (i : Nat) : (tlyDrop i s).tlyShadow = s.tlyShadow := rfl
@[simp] theorem tlyDrop_connShadow (i : Nat) : (tlyDrop i s).connShadow = s.connShadow := rfl
@[simp] theorem tlyDrop_watches (i : Nat) : (tlyDrop i s).watches = s.watches := rfl
@[simp] theorem tlyDrop_folds (i : Nat) : (tlyDrop i s).folds = s.folds := rfl
@[simp] theorem tlyDrop_keys (i : Nat) : (tlyDrop i s).keys = s.keys := rfl
@[simp] theorem tlyDrop_ration (i : Nat) : (tlyDrop i s).ration = s.ration := rfl
@[simp] theorem tlyDrop_pmTry (i : Nat) : (tlyDrop i s).pmTry = s.pmTry := rfl
@[simp] theorem tlyDrop_pldmQ (i : Nat) : (tlyDrop i s).pldmQ = s.pldmQ := rfl
@[simp] theorem tlyDrop_mgmt (i : Nat) : (tlyDrop i s).mgmt = s.mgmt := rfl
@[simp] theorem tlyDrop_pwr (i : Nat) : (tlyDrop i s).pwr = s.pwr := rfl
@[simp] theorem tlyDrop_cfg (i : Nat) : (tlyDrop i s).cfg = s.cfg := rfl
@[simp] theorem tlyDrop_tap (i : Nat) : (tlyDrop i s).tap = s.tap := rfl
@[simp] theorem tlyDrop_mwins (i : Nat) : (tlyDrop i s).mwins = s.mwins := rfl
@[simp] theorem tlyDrop_openAt (i : Nat) : (tlyDrop i s).openAt = s.openAt := rfl
@[simp] theorem tlyDrop_whsLands (i : Nat) : (tlyDrop i s).whsLands = s.whsLands := rfl
@[simp] theorem tlyDrop_accWaits (i : Nat) : (tlyDrop i s).accWaits = s.accWaits := rfl
@[simp] theorem tlyDrop_formAt (i : Nat) : (tlyDrop i s).formAt = s.formAt := rfl
@[simp] theorem tlyDrop_admSeq (i : Nat) : (tlyDrop i s).admSeq = s.admSeq := rfl
@[simp] theorem tlyDrop_spMark (i : Nat) : (tlyDrop i s).spMark = s.spMark := rfl
@[simp] theorem tlyDrop_bellLate (i : Nat) : (tlyDrop i s).bellLate = s.bellLate := rfl
@[simp] theorem tlyDrop_pending (i : Nat) : (tlyDrop i s).pending = s.pending := rfl
@[simp] theorem rdW_tlyDrop (i : Nat) (rb : Blk) (ri ro : Nat) : rdW (tlyDrop i s) rb ri ro = rdW s rb ri ro := rfl
@[simp] theorem rd_tlyDrop (i : Nat) (rf : Fld) (ri : Nat) : rd (tlyDrop i s) rf ri = rd s rf ri := rfl
@[simp] theorem rdB_tlyDrop (i : Nat) (rf : Fld) (ri : Nat) : rdB (tlyDrop i s) rf ri = rdB s rf ri := rfl

/-! ### whsDrop -/

@[simp] theorem whsDrop_now (i : Nat) : (whsDrop i s).now = s.now := rfl
@[simp] theorem whsDrop_freeCtr (i : Nat) : (whsDrop i s).freeCtr = s.freeCtr := rfl
@[simp] theorem whsDrop_regs (i : Nat) : (whsDrop i s).regs = s.regs := rfl
@[simp] theorem whsDrop_bellPend (i : Nat) : (whsDrop i s).bellPend = s.bellPend := rfl
@[simp] theorem whsDrop_rearmPend (i : Nat) : (whsDrop i s).rearmPend = s.rearmPend := rfl
@[simp] theorem whsDrop_fixedDone (i : Nat) : (whsDrop i s).fixedDone = s.fixedDone := rfl
@[simp] theorem whsDrop_outbox (i : Nat) : (whsDrop i s).outbox = s.outbox := rfl
@[simp] theorem whsDrop_bellLock (i : Nat) : (whsDrop i s).bellLock = s.bellLock := rfl
@[simp] theorem whsDrop_aliveOut (i : Nat) : (whsDrop i s).aliveOut = s.aliveOut := rfl
@[simp] theorem whsDrop_bell (i : Nat) : (whsDrop i s).bell = s.bell := rfl
@[simp] theorem whsDrop_pdks (i : Nat) : (whsDrop i s).pdks = s.pdks := rfl
@[simp] theorem whsDrop_vfEnable (i : Nat) : (whsDrop i s).vfEnable = s.vfEnable := rfl
@[simp] theorem whsDrop_numVfs (i : Nat) : (whsDrop i s).numVfs = s.numVfs := rfl
@[simp] theorem whsDrop_fns (i : Nat) : (whsDrop i s).fns = s.fns := rfl
@[simp] theorem whsDrop_pfEvents (i : Nat) : (whsDrop i s).pfEvents = s.pfEvents := rfl
@[simp] theorem whsDrop_pfLost (i : Nat) : (whsDrop i s).pfLost = s.pfLost := rfl
@[simp] theorem whsDrop_fbk (i : Nat) : (whsDrop i s).fbk = s.fbk := rfl
@[simp] theorem whsDrop_cores (i : Nat) : (whsDrop i s).cores = s.cores := rfl
@[simp] theorem whsDrop_meshes (i : Nat) : (whsDrop i s).meshes = s.meshes := rfl
@[simp] theorem whsDrop_links (i : Nat) : (whsDrop i s).links = s.links := rfl
@[simp] theorem whsDrop_sp (i : Nat) : (whsDrop i s).sp = s.sp := rfl
@[simp] theorem whsDrop_spEpoch (i : Nat) : (whsDrop i s).spEpoch = s.spEpoch := rfl
@[simp] theorem whsDrop_imem (i : Nat) : (whsDrop i s).imem = s.imem := rfl
@[simp] theorem whsDrop_rslot (i : Nat) : (whsDrop i s).rslot = s.rslot := rfl
@[simp] theorem whsDrop_tile (i : Nat) : (whsDrop i s).tile = s.tile := rfl
@[simp] theorem whsDrop_acc (i : Nat) : (whsDrop i s).acc = s.acc := rfl
@[simp] theorem whsDrop_shadow (i : Nat) : (whsDrop i s).shadow = s.shadow := rfl
@[simp] theorem whsDrop_desc (i : Nat) : (whsDrop i s).desc = s.desc := rfl
@[simp] theorem whsDrop_frameChk (i : Nat) : (whsDrop i s).frameChk = s.frameChk := rfl
@[simp] theorem whsDrop_ht (i : Nat) : (whsDrop i s).ht = s.ht := rfl
@[simp] theorem whsDrop_wlkDue (i : Nat) : (whsDrop i s).wlkDue = s.wlkDue := rfl
@[simp] theorem whsDrop_walkers (i : Nat) : (whsDrop i s).walkers = s.walkers := rfl
@[simp] theorem whsDrop_wlkDone (i : Nat) : (whsDrop i s).wlkDone = s.wlkDone := rfl
@[simp] theorem whsDrop_mcores (i : Nat) : (whsDrop i s).mcores = s.mcores := rfl
@[simp] theorem whsDrop_mslice (i : Nat) : (whsDrop i s).mslice = s.mslice := rfl
@[simp] theorem whsDrop_mblast (i : Nat) : (whsDrop i s).mblast = s.mblast := rfl
@[simp] theorem whsDrop_repairs (i : Nat) : (whsDrop i s).repairs = s.repairs := rfl
@[simp] theorem whsDrop_ctxs (i : Nat) : (whsDrop i s).ctxs = s.ctxs := rfl
@[simp] theorem whsDrop_leaCyc (i : Nat) : (whsDrop i s).leaCyc = s.leaCyc := rfl
@[simp] theorem whsDrop_fab (i : Nat) : (whsDrop i s).fab = s.fab := rfl
@[simp] theorem whsDrop_tlyQ (i : Nat) : (whsDrop i s).tlyQ = s.tlyQ := rfl
@[simp] theorem whsDrop_tlyWaits (i : Nat) : (whsDrop i s).tlyWaits = s.tlyWaits := rfl
@[simp] theorem whsDrop_sends (i : Nat) : (whsDrop i s).sends = s.sends := rfl
@[simp] theorem whsDrop_rqs (i : Nat) : (whsDrop i s).rqs = s.rqs := rfl
@[simp] theorem whsDrop_spills (i : Nat) : (whsDrop i s).spills = s.spills := rfl
@[simp] theorem whsDrop_opens (i : Nat) : (whsDrop i s).opens = s.opens := rfl
@[simp] theorem whsDrop_landings (i : Nat) : (whsDrop i s).landings = s.landings := rfl
@[simp] theorem whsDrop_connLt (i : Nat) : (whsDrop i s).connLt = s.connLt := rfl
@[simp] theorem whsDrop_sidNext (i : Nat) : (whsDrop i s).sidNext = s.sidNext := rfl
@[simp] theorem whsDrop_ltkQ (i : Nat) : (whsDrop i s).ltkQ = s.ltkQ := rfl
@[simp] theorem whsDrop_ltkPaths (i : Nat) : (whsDrop i s).ltkPaths = s.ltkPaths := rfl
@[simp] theorem whsDrop_ltkRoutes (i : Nat) : (whsDrop i s).ltkRoutes = s.ltkRoutes := rfl
@[simp] theorem whsDrop_ltkPause (i : Nat) : (whsDrop i s).ltkPause = s.ltkPause := rfl
@[simp] theorem whsDrop_ptpGood (i : Nat) : (whsDrop i s).ptpGood = s.ptpGood := rfl
@[simp] theorem whsDrop_held (i : Nat) : (whsDrop i s).held = s.held := rfl
@[simp] theorem whsDrop_hostEnts (i : Nat) : (whsDrop i s).hostEnts = s.hostEnts := rfl
@[simp] theorem whsDrop_hrings (i : Nat) : (whsDrop i s).hrings = s.hrings := rfl
@[simp] theorem whsDrop_hostNext (i : Nat) : (whsDrop i s).hostNext = s.hostNext := rfl
@[simp] theorem whsDrop_aer (i : Nat) : (whsDrop i s).aer = s.aer := rfl
@[simp] theorem whsDrop_tcache (i : Nat) : (whsDrop i s).tcache = s.tcache := rfl
@[simp] theorem whsDrop_fabCyc (i : Nat) : (whsDrop i s).fabCyc = s.fabCyc := rfl
@[simp] theorem whsDrop_used (i : Nat) : (whsDrop i s).used = s.used := rfl
@[simp] theorem whsDrop_slotAt (i : Nat) : (whsDrop i s).slotAt = s.slotAt := rfl
@[simp] theorem whsDrop_capNext (i : Nat) : (whsDrop i s).capNext = s.capNext := rfl
@[simp] theorem whsDrop_ats (i : Nat) : (whsDrop i s).ats = s.ats := rfl
@[simp] theorem whsDrop_pageReqs (i : Nat) : (whsDrop i s).pageReqs = s.pageReqs := rfl
@[simp] theorem whsDrop_prgNext (i : Nat) : (whsDrop i s).prgNext = s.prgNext := rfl
@[simp] theorem whsDrop_atsInv (i : Nat) : (whsDrop i s).atsInv = s.atsInv := rfl
@[simp] theorem whsDrop_atsEn (i : Nat) : (whsDrop i s).atsEn = s.atsEn := rfl
@[simp] theorem whsDrop_priEn (i : Nat) : (whsDrop i s).priEn = s.priEn := rfl
@[simp] theorem whsDrop_priAlloc (i : Nat) : (whsDrop i s).priAlloc = s.priAlloc := rfl
@[simp] theorem whsDrop_winShare (i : Nat) : (whsDrop i s).winShare = s.winShare := rfl
@[simp] theorem whsDrop_sinks (i : Nat) : (whsDrop i s).sinks = s.sinks := rfl
@[simp] theorem whsDrop_scrubAt (i : Nat) : (whsDrop i s).scrubAt = s.scrubAt := rfl
@[simp] theorem whsDrop_mem (i : Nat) : (whsDrop i s).mem = s.mem := rfl
@[simp] theorem whsDrop_memEpoch (i : Nat) : (whsDrop i s).memEpoch = s.memEpoch := rfl
@[simp] theorem whsDrop_lines (i : Nat) : (whsDrop i s).lines = s.lines := rfl
@[simp] theorem whsDrop_pools (i : Nat) : (whsDrop i s).pools = s.pools := rfl
@[simp] theorem whsDrop_byrQ (i : Nat) : (whsDrop i s).byrQ = s.byrQ := rfl
@[simp] theorem whsDrop_byrCmd (i : Nat) : (whsDrop i s).byrCmd = s.byrCmd := rfl
@[simp] theorem whsDrop_tlyShadow (i : Nat) : (whsDrop i s).tlyShadow = s.tlyShadow := rfl
@[simp] theorem whsDrop_connShadow (i : Nat) : (whsDrop i s).connShadow = s.connShadow := rfl
@[simp] theorem whsDrop_watches (i : Nat) : (whsDrop i s).watches = s.watches := rfl
@[simp] theorem whsDrop_folds (i : Nat) : (whsDrop i s).folds = s.folds := rfl
@[simp] theorem whsDrop_keys (i : Nat) : (whsDrop i s).keys = s.keys := rfl
@[simp] theorem whsDrop_ration (i : Nat) : (whsDrop i s).ration = s.ration := rfl
@[simp] theorem whsDrop_pmTry (i : Nat) : (whsDrop i s).pmTry = s.pmTry := rfl
@[simp] theorem whsDrop_pldmQ (i : Nat) : (whsDrop i s).pldmQ = s.pldmQ := rfl
@[simp] theorem whsDrop_mgmt (i : Nat) : (whsDrop i s).mgmt = s.mgmt := rfl
@[simp] theorem whsDrop_pwr (i : Nat) : (whsDrop i s).pwr = s.pwr := rfl
@[simp] theorem whsDrop_cfg (i : Nat) : (whsDrop i s).cfg = s.cfg := rfl
@[simp] theorem whsDrop_tap (i : Nat) : (whsDrop i s).tap = s.tap := rfl
@[simp] theorem whsDrop_mwins (i : Nat) : (whsDrop i s).mwins = s.mwins := rfl
@[simp] theorem whsDrop_openAt (i : Nat) : (whsDrop i s).openAt = s.openAt := rfl
@[simp] theorem whsDrop_whsLands (i : Nat) : (whsDrop i s).whsLands = s.whsLands := rfl
@[simp] theorem whsDrop_accWaits (i : Nat) : (whsDrop i s).accWaits = s.accWaits := rfl
@[simp] theorem whsDrop_formAt (i : Nat) : (whsDrop i s).formAt = s.formAt := rfl
@[simp] theorem whsDrop_admSeq (i : Nat) : (whsDrop i s).admSeq = s.admSeq := rfl
@[simp] theorem whsDrop_spMark (i : Nat) : (whsDrop i s).spMark = s.spMark := rfl
@[simp] theorem whsDrop_bellLate (i : Nat) : (whsDrop i s).bellLate = s.bellLate := rfl
@[simp] theorem whsDrop_pending (i : Nat) : (whsDrop i s).pending = s.pending := rfl
@[simp] theorem rdW_whsDrop (i : Nat) (rb : Blk) (ri ro : Nat) : rdW (whsDrop i s) rb ri ro = rdW s rb ri ro := rfl
@[simp] theorem rd_whsDrop (i : Nat) (rf : Fld) (ri : Nat) : rd (whsDrop i s) rf ri = rd s rf ri := rfl
@[simp] theorem rdB_whsDrop (i : Nat) (rf : Fld) (ri : Nat) : rdB (whsDrop i s) rf ri = rdB s rf ri := rfl

/-! ### whsPush -/

@[simp] theorem whsPush_now (m : WMsg) : (whsPush m s).now = s.now := rfl
@[simp] theorem whsPush_freeCtr (m : WMsg) : (whsPush m s).freeCtr = s.freeCtr := rfl
@[simp] theorem whsPush_regs (m : WMsg) : (whsPush m s).regs = s.regs := rfl
@[simp] theorem whsPush_bellPend (m : WMsg) : (whsPush m s).bellPend = s.bellPend := rfl
@[simp] theorem whsPush_rearmPend (m : WMsg) : (whsPush m s).rearmPend = s.rearmPend := rfl
@[simp] theorem whsPush_fixedDone (m : WMsg) : (whsPush m s).fixedDone = s.fixedDone := rfl
@[simp] theorem whsPush_outbox (m : WMsg) : (whsPush m s).outbox = s.outbox := rfl
@[simp] theorem whsPush_bellLock (m : WMsg) : (whsPush m s).bellLock = s.bellLock := rfl
@[simp] theorem whsPush_aliveOut (m : WMsg) : (whsPush m s).aliveOut = s.aliveOut := rfl
@[simp] theorem whsPush_bell (m : WMsg) : (whsPush m s).bell = s.bell := rfl
@[simp] theorem whsPush_pdks (m : WMsg) : (whsPush m s).pdks = s.pdks := rfl
@[simp] theorem whsPush_vfEnable (m : WMsg) : (whsPush m s).vfEnable = s.vfEnable := rfl
@[simp] theorem whsPush_numVfs (m : WMsg) : (whsPush m s).numVfs = s.numVfs := rfl
@[simp] theorem whsPush_fns (m : WMsg) : (whsPush m s).fns = s.fns := rfl
@[simp] theorem whsPush_pfEvents (m : WMsg) : (whsPush m s).pfEvents = s.pfEvents := rfl
@[simp] theorem whsPush_pfLost (m : WMsg) : (whsPush m s).pfLost = s.pfLost := rfl
@[simp] theorem whsPush_fbk (m : WMsg) : (whsPush m s).fbk = s.fbk := rfl
@[simp] theorem whsPush_cores (m : WMsg) : (whsPush m s).cores = s.cores := rfl
@[simp] theorem whsPush_meshes (m : WMsg) : (whsPush m s).meshes = s.meshes := rfl
@[simp] theorem whsPush_links (m : WMsg) : (whsPush m s).links = s.links := rfl
@[simp] theorem whsPush_sp (m : WMsg) : (whsPush m s).sp = s.sp := rfl
@[simp] theorem whsPush_spEpoch (m : WMsg) : (whsPush m s).spEpoch = s.spEpoch := rfl
@[simp] theorem whsPush_imem (m : WMsg) : (whsPush m s).imem = s.imem := rfl
@[simp] theorem whsPush_rslot (m : WMsg) : (whsPush m s).rslot = s.rslot := rfl
@[simp] theorem whsPush_tile (m : WMsg) : (whsPush m s).tile = s.tile := rfl
@[simp] theorem whsPush_acc (m : WMsg) : (whsPush m s).acc = s.acc := rfl
@[simp] theorem whsPush_shadow (m : WMsg) : (whsPush m s).shadow = s.shadow := rfl
@[simp] theorem whsPush_desc (m : WMsg) : (whsPush m s).desc = s.desc := rfl
@[simp] theorem whsPush_frameChk (m : WMsg) : (whsPush m s).frameChk = s.frameChk := rfl
@[simp] theorem whsPush_ht (m : WMsg) : (whsPush m s).ht = s.ht := rfl
@[simp] theorem whsPush_wlkDue (m : WMsg) : (whsPush m s).wlkDue = s.wlkDue := rfl
@[simp] theorem whsPush_walkers (m : WMsg) : (whsPush m s).walkers = s.walkers := rfl
@[simp] theorem whsPush_wlkDone (m : WMsg) : (whsPush m s).wlkDone = s.wlkDone := rfl
@[simp] theorem whsPush_mcores (m : WMsg) : (whsPush m s).mcores = s.mcores := rfl
@[simp] theorem whsPush_mslice (m : WMsg) : (whsPush m s).mslice = s.mslice := rfl
@[simp] theorem whsPush_mblast (m : WMsg) : (whsPush m s).mblast = s.mblast := rfl
@[simp] theorem whsPush_repairs (m : WMsg) : (whsPush m s).repairs = s.repairs := rfl
@[simp] theorem whsPush_ctxs (m : WMsg) : (whsPush m s).ctxs = s.ctxs := rfl
@[simp] theorem whsPush_leaCyc (m : WMsg) : (whsPush m s).leaCyc = s.leaCyc := rfl
@[simp] theorem whsPush_fab (m : WMsg) : (whsPush m s).fab = s.fab := rfl
@[simp] theorem whsPush_tlyQ (m : WMsg) : (whsPush m s).tlyQ = s.tlyQ := rfl
@[simp] theorem whsPush_tlyWaits (m : WMsg) : (whsPush m s).tlyWaits = s.tlyWaits := rfl
@[simp] theorem whsPush_sends (m : WMsg) : (whsPush m s).sends = s.sends := rfl
@[simp] theorem whsPush_rqs (m : WMsg) : (whsPush m s).rqs = s.rqs := rfl
@[simp] theorem whsPush_spills (m : WMsg) : (whsPush m s).spills = s.spills := rfl
@[simp] theorem whsPush_opens (m : WMsg) : (whsPush m s).opens = s.opens := rfl
@[simp] theorem whsPush_landings (m : WMsg) : (whsPush m s).landings = s.landings := rfl
@[simp] theorem whsPush_connLt (m : WMsg) : (whsPush m s).connLt = s.connLt := rfl
@[simp] theorem whsPush_sidNext (m : WMsg) : (whsPush m s).sidNext = s.sidNext := rfl
@[simp] theorem whsPush_ltkQ (m : WMsg) : (whsPush m s).ltkQ = s.ltkQ := rfl
@[simp] theorem whsPush_ltkPaths (m : WMsg) : (whsPush m s).ltkPaths = s.ltkPaths := rfl
@[simp] theorem whsPush_ltkRoutes (m : WMsg) : (whsPush m s).ltkRoutes = s.ltkRoutes := rfl
@[simp] theorem whsPush_ltkPause (m : WMsg) : (whsPush m s).ltkPause = s.ltkPause := rfl
@[simp] theorem whsPush_ptpGood (m : WMsg) : (whsPush m s).ptpGood = s.ptpGood := rfl
@[simp] theorem whsPush_held (m : WMsg) : (whsPush m s).held = s.held := rfl
@[simp] theorem whsPush_hostEnts (m : WMsg) : (whsPush m s).hostEnts = s.hostEnts := rfl
@[simp] theorem whsPush_hrings (m : WMsg) : (whsPush m s).hrings = s.hrings := rfl
@[simp] theorem whsPush_hostNext (m : WMsg) : (whsPush m s).hostNext = s.hostNext := rfl
@[simp] theorem whsPush_aer (m : WMsg) : (whsPush m s).aer = s.aer := rfl
@[simp] theorem whsPush_tcache (m : WMsg) : (whsPush m s).tcache = s.tcache := rfl
@[simp] theorem whsPush_fabCyc (m : WMsg) : (whsPush m s).fabCyc = s.fabCyc := rfl
@[simp] theorem whsPush_used (m : WMsg) : (whsPush m s).used = s.used := rfl
@[simp] theorem whsPush_slotAt (m : WMsg) : (whsPush m s).slotAt = s.slotAt := rfl
@[simp] theorem whsPush_capNext (m : WMsg) : (whsPush m s).capNext = s.capNext := rfl
@[simp] theorem whsPush_ats (m : WMsg) : (whsPush m s).ats = s.ats := rfl
@[simp] theorem whsPush_pageReqs (m : WMsg) : (whsPush m s).pageReqs = s.pageReqs := rfl
@[simp] theorem whsPush_prgNext (m : WMsg) : (whsPush m s).prgNext = s.prgNext := rfl
@[simp] theorem whsPush_atsInv (m : WMsg) : (whsPush m s).atsInv = s.atsInv := rfl
@[simp] theorem whsPush_atsEn (m : WMsg) : (whsPush m s).atsEn = s.atsEn := rfl
@[simp] theorem whsPush_priEn (m : WMsg) : (whsPush m s).priEn = s.priEn := rfl
@[simp] theorem whsPush_priAlloc (m : WMsg) : (whsPush m s).priAlloc = s.priAlloc := rfl
@[simp] theorem whsPush_winShare (m : WMsg) : (whsPush m s).winShare = s.winShare := rfl
@[simp] theorem whsPush_sinks (m : WMsg) : (whsPush m s).sinks = s.sinks := rfl
@[simp] theorem whsPush_scrubAt (m : WMsg) : (whsPush m s).scrubAt = s.scrubAt := rfl
@[simp] theorem whsPush_mem (m : WMsg) : (whsPush m s).mem = s.mem := rfl
@[simp] theorem whsPush_memEpoch (m : WMsg) : (whsPush m s).memEpoch = s.memEpoch := rfl
@[simp] theorem whsPush_lines (m : WMsg) : (whsPush m s).lines = s.lines := rfl
@[simp] theorem whsPush_pools (m : WMsg) : (whsPush m s).pools = s.pools := rfl
@[simp] theorem whsPush_byrQ (m : WMsg) : (whsPush m s).byrQ = s.byrQ := rfl
@[simp] theorem whsPush_byrCmd (m : WMsg) : (whsPush m s).byrCmd = s.byrCmd := rfl
@[simp] theorem whsPush_tlyShadow (m : WMsg) : (whsPush m s).tlyShadow = s.tlyShadow := rfl
@[simp] theorem whsPush_connShadow (m : WMsg) : (whsPush m s).connShadow = s.connShadow := rfl
@[simp] theorem whsPush_watches (m : WMsg) : (whsPush m s).watches = s.watches := rfl
@[simp] theorem whsPush_folds (m : WMsg) : (whsPush m s).folds = s.folds := rfl
@[simp] theorem whsPush_keys (m : WMsg) : (whsPush m s).keys = s.keys := rfl
@[simp] theorem whsPush_ration (m : WMsg) : (whsPush m s).ration = s.ration := rfl
@[simp] theorem whsPush_pmTry (m : WMsg) : (whsPush m s).pmTry = s.pmTry := rfl
@[simp] theorem whsPush_pldmQ (m : WMsg) : (whsPush m s).pldmQ = s.pldmQ := rfl
@[simp] theorem whsPush_mgmt (m : WMsg) : (whsPush m s).mgmt = s.mgmt := rfl
@[simp] theorem whsPush_pwr (m : WMsg) : (whsPush m s).pwr = s.pwr := rfl
@[simp] theorem whsPush_cfg (m : WMsg) : (whsPush m s).cfg = s.cfg := rfl
@[simp] theorem whsPush_tap (m : WMsg) : (whsPush m s).tap = s.tap := rfl
@[simp] theorem whsPush_mwins (m : WMsg) : (whsPush m s).mwins = s.mwins := rfl
@[simp] theorem whsPush_openAt (m : WMsg) : (whsPush m s).openAt = s.openAt := rfl
@[simp] theorem whsPush_whsLands (m : WMsg) : (whsPush m s).whsLands = s.whsLands := rfl
@[simp] theorem whsPush_accWaits (m : WMsg) : (whsPush m s).accWaits = s.accWaits := rfl
@[simp] theorem whsPush_formAt (m : WMsg) : (whsPush m s).formAt = s.formAt := rfl
@[simp] theorem whsPush_admSeq (m : WMsg) : (whsPush m s).admSeq = s.admSeq := rfl
@[simp] theorem whsPush_spMark (m : WMsg) : (whsPush m s).spMark = s.spMark := rfl
@[simp] theorem whsPush_bellLate (m : WMsg) : (whsPush m s).bellLate = s.bellLate := rfl
@[simp] theorem whsPush_pending (m : WMsg) : (whsPush m s).pending = s.pending := rfl
@[simp] theorem rdW_whsPush (m : WMsg) (rb : Blk) (ri ro : Nat) : rdW (whsPush m s) rb ri ro = rdW s rb ri ro := rfl
@[simp] theorem rd_whsPush (m : WMsg) (rf : Fld) (ri : Nat) : rd (whsPush m s) rf ri = rd s rf ri := rfl
@[simp] theorem rdB_whsPush (m : WMsg) (rf : Fld) (ri : Nat) : rdB (whsPush m s) rf ri = rdB s rf ri := rfl

/-! ### memPut -/

@[simp] theorem memPut_now (a : Nat) (b : Nat) : (memPut a b s).now = s.now := rfl
@[simp] theorem memPut_freeCtr (a : Nat) (b : Nat) : (memPut a b s).freeCtr = s.freeCtr := rfl
@[simp] theorem memPut_regs (a : Nat) (b : Nat) : (memPut a b s).regs = s.regs := rfl
@[simp] theorem memPut_bellPend (a : Nat) (b : Nat) : (memPut a b s).bellPend = s.bellPend := rfl
@[simp] theorem memPut_rearmPend (a : Nat) (b : Nat) : (memPut a b s).rearmPend = s.rearmPend := rfl
@[simp] theorem memPut_fixedDone (a : Nat) (b : Nat) : (memPut a b s).fixedDone = s.fixedDone := rfl
@[simp] theorem memPut_outbox (a : Nat) (b : Nat) : (memPut a b s).outbox = s.outbox := rfl
@[simp] theorem memPut_bellLock (a : Nat) (b : Nat) : (memPut a b s).bellLock = s.bellLock := rfl
@[simp] theorem memPut_aliveOut (a : Nat) (b : Nat) : (memPut a b s).aliveOut = s.aliveOut := rfl
@[simp] theorem memPut_bell (a : Nat) (b : Nat) : (memPut a b s).bell = s.bell := rfl
@[simp] theorem memPut_pdks (a : Nat) (b : Nat) : (memPut a b s).pdks = s.pdks := rfl
@[simp] theorem memPut_vfEnable (a : Nat) (b : Nat) : (memPut a b s).vfEnable = s.vfEnable := rfl
@[simp] theorem memPut_numVfs (a : Nat) (b : Nat) : (memPut a b s).numVfs = s.numVfs := rfl
@[simp] theorem memPut_fns (a : Nat) (b : Nat) : (memPut a b s).fns = s.fns := rfl
@[simp] theorem memPut_pfEvents (a : Nat) (b : Nat) : (memPut a b s).pfEvents = s.pfEvents := rfl
@[simp] theorem memPut_pfLost (a : Nat) (b : Nat) : (memPut a b s).pfLost = s.pfLost := rfl
@[simp] theorem memPut_fbk (a : Nat) (b : Nat) : (memPut a b s).fbk = s.fbk := rfl
@[simp] theorem memPut_cores (a : Nat) (b : Nat) : (memPut a b s).cores = s.cores := rfl
@[simp] theorem memPut_meshes (a : Nat) (b : Nat) : (memPut a b s).meshes = s.meshes := rfl
@[simp] theorem memPut_links (a : Nat) (b : Nat) : (memPut a b s).links = s.links := rfl
@[simp] theorem memPut_sp (a : Nat) (b : Nat) : (memPut a b s).sp = s.sp := rfl
@[simp] theorem memPut_spEpoch (a : Nat) (b : Nat) : (memPut a b s).spEpoch = s.spEpoch := rfl
@[simp] theorem memPut_imem (a : Nat) (b : Nat) : (memPut a b s).imem = s.imem := rfl
@[simp] theorem memPut_rslot (a : Nat) (b : Nat) : (memPut a b s).rslot = s.rslot := rfl
@[simp] theorem memPut_tile (a : Nat) (b : Nat) : (memPut a b s).tile = s.tile := rfl
@[simp] theorem memPut_acc (a : Nat) (b : Nat) : (memPut a b s).acc = s.acc := rfl
@[simp] theorem memPut_shadow (a : Nat) (b : Nat) : (memPut a b s).shadow = s.shadow := rfl
@[simp] theorem memPut_desc (a : Nat) (b : Nat) : (memPut a b s).desc = s.desc := rfl
@[simp] theorem memPut_frameChk (a : Nat) (b : Nat) : (memPut a b s).frameChk = s.frameChk := rfl
@[simp] theorem memPut_ht (a : Nat) (b : Nat) : (memPut a b s).ht = s.ht := rfl
@[simp] theorem memPut_wlkDue (a : Nat) (b : Nat) : (memPut a b s).wlkDue = s.wlkDue := rfl
@[simp] theorem memPut_walkers (a : Nat) (b : Nat) : (memPut a b s).walkers = s.walkers := rfl
@[simp] theorem memPut_wlkDone (a : Nat) (b : Nat) : (memPut a b s).wlkDone = s.wlkDone := rfl
@[simp] theorem memPut_mcores (a : Nat) (b : Nat) : (memPut a b s).mcores = s.mcores := rfl
@[simp] theorem memPut_mslice (a : Nat) (b : Nat) : (memPut a b s).mslice = s.mslice := rfl
@[simp] theorem memPut_mblast (a : Nat) (b : Nat) : (memPut a b s).mblast = s.mblast := rfl
@[simp] theorem memPut_repairs (a : Nat) (b : Nat) : (memPut a b s).repairs = s.repairs := rfl
@[simp] theorem memPut_ctxs (a : Nat) (b : Nat) : (memPut a b s).ctxs = s.ctxs := rfl
@[simp] theorem memPut_leaCyc (a : Nat) (b : Nat) : (memPut a b s).leaCyc = s.leaCyc := rfl
@[simp] theorem memPut_fab (a : Nat) (b : Nat) : (memPut a b s).fab = s.fab := rfl
@[simp] theorem memPut_tlyQ (a : Nat) (b : Nat) : (memPut a b s).tlyQ = s.tlyQ := rfl
@[simp] theorem memPut_tlyWaits (a : Nat) (b : Nat) : (memPut a b s).tlyWaits = s.tlyWaits := rfl
@[simp] theorem memPut_whsQ (a : Nat) (b : Nat) : (memPut a b s).whsQ = s.whsQ := rfl
@[simp] theorem memPut_sends (a : Nat) (b : Nat) : (memPut a b s).sends = s.sends := rfl
@[simp] theorem memPut_rqs (a : Nat) (b : Nat) : (memPut a b s).rqs = s.rqs := rfl
@[simp] theorem memPut_spills (a : Nat) (b : Nat) : (memPut a b s).spills = s.spills := rfl
@[simp] theorem memPut_opens (a : Nat) (b : Nat) : (memPut a b s).opens = s.opens := rfl
@[simp] theorem memPut_landings (a : Nat) (b : Nat) : (memPut a b s).landings = s.landings := rfl
@[simp] theorem memPut_connLt (a : Nat) (b : Nat) : (memPut a b s).connLt = s.connLt := rfl
@[simp] theorem memPut_sidNext (a : Nat) (b : Nat) : (memPut a b s).sidNext = s.sidNext := rfl
@[simp] theorem memPut_ltkQ (a : Nat) (b : Nat) : (memPut a b s).ltkQ = s.ltkQ := rfl
@[simp] theorem memPut_ltkPaths (a : Nat) (b : Nat) : (memPut a b s).ltkPaths = s.ltkPaths := rfl
@[simp] theorem memPut_ltkRoutes (a : Nat) (b : Nat) : (memPut a b s).ltkRoutes = s.ltkRoutes := rfl
@[simp] theorem memPut_ltkPause (a : Nat) (b : Nat) : (memPut a b s).ltkPause = s.ltkPause := rfl
@[simp] theorem memPut_ptpGood (a : Nat) (b : Nat) : (memPut a b s).ptpGood = s.ptpGood := rfl
@[simp] theorem memPut_held (a : Nat) (b : Nat) : (memPut a b s).held = s.held := rfl
@[simp] theorem memPut_hostEnts (a : Nat) (b : Nat) : (memPut a b s).hostEnts = s.hostEnts := rfl
@[simp] theorem memPut_hrings (a : Nat) (b : Nat) : (memPut a b s).hrings = s.hrings := rfl
@[simp] theorem memPut_hostNext (a : Nat) (b : Nat) : (memPut a b s).hostNext = s.hostNext := rfl
@[simp] theorem memPut_aer (a : Nat) (b : Nat) : (memPut a b s).aer = s.aer := rfl
@[simp] theorem memPut_tcache (a : Nat) (b : Nat) : (memPut a b s).tcache = s.tcache := rfl
@[simp] theorem memPut_fabCyc (a : Nat) (b : Nat) : (memPut a b s).fabCyc = s.fabCyc := rfl
@[simp] theorem memPut_used (a : Nat) (b : Nat) : (memPut a b s).used = s.used := rfl
@[simp] theorem memPut_slotAt (a : Nat) (b : Nat) : (memPut a b s).slotAt = s.slotAt := rfl
@[simp] theorem memPut_capNext (a : Nat) (b : Nat) : (memPut a b s).capNext = s.capNext := rfl
@[simp] theorem memPut_ats (a : Nat) (b : Nat) : (memPut a b s).ats = s.ats := rfl
@[simp] theorem memPut_pageReqs (a : Nat) (b : Nat) : (memPut a b s).pageReqs = s.pageReqs := rfl
@[simp] theorem memPut_prgNext (a : Nat) (b : Nat) : (memPut a b s).prgNext = s.prgNext := rfl
@[simp] theorem memPut_atsInv (a : Nat) (b : Nat) : (memPut a b s).atsInv = s.atsInv := rfl
@[simp] theorem memPut_atsEn (a : Nat) (b : Nat) : (memPut a b s).atsEn = s.atsEn := rfl
@[simp] theorem memPut_priEn (a : Nat) (b : Nat) : (memPut a b s).priEn = s.priEn := rfl
@[simp] theorem memPut_priAlloc (a : Nat) (b : Nat) : (memPut a b s).priAlloc = s.priAlloc := rfl
@[simp] theorem memPut_winShare (a : Nat) (b : Nat) : (memPut a b s).winShare = s.winShare := rfl
@[simp] theorem memPut_sinks (a : Nat) (b : Nat) : (memPut a b s).sinks = s.sinks := rfl
@[simp] theorem memPut_scrubAt (a : Nat) (b : Nat) : (memPut a b s).scrubAt = s.scrubAt := rfl
@[simp] theorem memPut_memEpoch (a : Nat) (b : Nat) : (memPut a b s).memEpoch = s.memEpoch := rfl
@[simp] theorem memPut_lines (a : Nat) (b : Nat) : (memPut a b s).lines = s.lines := rfl
@[simp] theorem memPut_pools (a : Nat) (b : Nat) : (memPut a b s).pools = s.pools := rfl
@[simp] theorem memPut_byrQ (a : Nat) (b : Nat) : (memPut a b s).byrQ = s.byrQ := rfl
@[simp] theorem memPut_byrCmd (a : Nat) (b : Nat) : (memPut a b s).byrCmd = s.byrCmd := rfl
@[simp] theorem memPut_tlyShadow (a : Nat) (b : Nat) : (memPut a b s).tlyShadow = s.tlyShadow := rfl
@[simp] theorem memPut_connShadow (a : Nat) (b : Nat) : (memPut a b s).connShadow = s.connShadow := rfl
@[simp] theorem memPut_watches (a : Nat) (b : Nat) : (memPut a b s).watches = s.watches := rfl
@[simp] theorem memPut_folds (a : Nat) (b : Nat) : (memPut a b s).folds = s.folds := rfl
@[simp] theorem memPut_keys (a : Nat) (b : Nat) : (memPut a b s).keys = s.keys := rfl
@[simp] theorem memPut_ration (a : Nat) (b : Nat) : (memPut a b s).ration = s.ration := rfl
@[simp] theorem memPut_pmTry (a : Nat) (b : Nat) : (memPut a b s).pmTry = s.pmTry := rfl
@[simp] theorem memPut_pldmQ (a : Nat) (b : Nat) : (memPut a b s).pldmQ = s.pldmQ := rfl
@[simp] theorem memPut_mgmt (a : Nat) (b : Nat) : (memPut a b s).mgmt = s.mgmt := rfl
@[simp] theorem memPut_pwr (a : Nat) (b : Nat) : (memPut a b s).pwr = s.pwr := rfl
@[simp] theorem memPut_cfg (a : Nat) (b : Nat) : (memPut a b s).cfg = s.cfg := rfl
@[simp] theorem memPut_tap (a : Nat) (b : Nat) : (memPut a b s).tap = s.tap := rfl
@[simp] theorem memPut_mwins (a : Nat) (b : Nat) : (memPut a b s).mwins = s.mwins := rfl
@[simp] theorem memPut_openAt (a : Nat) (b : Nat) : (memPut a b s).openAt = s.openAt := rfl
@[simp] theorem memPut_whsLands (a : Nat) (b : Nat) : (memPut a b s).whsLands = s.whsLands := rfl
@[simp] theorem memPut_accWaits (a : Nat) (b : Nat) : (memPut a b s).accWaits = s.accWaits := rfl
@[simp] theorem memPut_formAt (a : Nat) (b : Nat) : (memPut a b s).formAt = s.formAt := rfl
@[simp] theorem memPut_admSeq (a : Nat) (b : Nat) : (memPut a b s).admSeq = s.admSeq := rfl
@[simp] theorem memPut_spMark (a : Nat) (b : Nat) : (memPut a b s).spMark = s.spMark := rfl
@[simp] theorem memPut_bellLate (a : Nat) (b : Nat) : (memPut a b s).bellLate = s.bellLate := rfl
@[simp] theorem memPut_pending (a : Nat) (b : Nat) : (memPut a b s).pending = s.pending := rfl
@[simp] theorem rdW_memPut (a : Nat) (b : Nat) (rb : Blk) (ri ro : Nat) : rdW (memPut a b s) rb ri ro = rdW s rb ri ro := rfl
@[simp] theorem rd_memPut (a : Nat) (b : Nat) (rf : Fld) (ri : Nat) : rd (memPut a b s) rf ri = rd s rf ri := rfl
@[simp] theorem rdB_memPut (a : Nat) (b : Nat) (rf : Fld) (ri : Nat) : rdB (memPut a b s) rf ri = rdB s rf ri := rfl

/-! ### setLine -/

@[simp] theorem setLine_now (l : Nat) (k : Nat) : (setLine l k s).now = s.now := rfl
@[simp] theorem setLine_freeCtr (l : Nat) (k : Nat) : (setLine l k s).freeCtr = s.freeCtr := rfl
@[simp] theorem setLine_regs (l : Nat) (k : Nat) : (setLine l k s).regs = s.regs := rfl
@[simp] theorem setLine_bellPend (l : Nat) (k : Nat) : (setLine l k s).bellPend = s.bellPend := rfl
@[simp] theorem setLine_rearmPend (l : Nat) (k : Nat) : (setLine l k s).rearmPend = s.rearmPend := rfl
@[simp] theorem setLine_fixedDone (l : Nat) (k : Nat) : (setLine l k s).fixedDone = s.fixedDone := rfl
@[simp] theorem setLine_outbox (l : Nat) (k : Nat) : (setLine l k s).outbox = s.outbox := rfl
@[simp] theorem setLine_bellLock (l : Nat) (k : Nat) : (setLine l k s).bellLock = s.bellLock := rfl
@[simp] theorem setLine_aliveOut (l : Nat) (k : Nat) : (setLine l k s).aliveOut = s.aliveOut := rfl
@[simp] theorem setLine_bell (l : Nat) (k : Nat) : (setLine l k s).bell = s.bell := rfl
@[simp] theorem setLine_pdks (l : Nat) (k : Nat) : (setLine l k s).pdks = s.pdks := rfl
@[simp] theorem setLine_vfEnable (l : Nat) (k : Nat) : (setLine l k s).vfEnable = s.vfEnable := rfl
@[simp] theorem setLine_numVfs (l : Nat) (k : Nat) : (setLine l k s).numVfs = s.numVfs := rfl
@[simp] theorem setLine_fns (l : Nat) (k : Nat) : (setLine l k s).fns = s.fns := rfl
@[simp] theorem setLine_pfEvents (l : Nat) (k : Nat) : (setLine l k s).pfEvents = s.pfEvents := rfl
@[simp] theorem setLine_pfLost (l : Nat) (k : Nat) : (setLine l k s).pfLost = s.pfLost := rfl
@[simp] theorem setLine_fbk (l : Nat) (k : Nat) : (setLine l k s).fbk = s.fbk := rfl
@[simp] theorem setLine_cores (l : Nat) (k : Nat) : (setLine l k s).cores = s.cores := rfl
@[simp] theorem setLine_meshes (l : Nat) (k : Nat) : (setLine l k s).meshes = s.meshes := rfl
@[simp] theorem setLine_links (l : Nat) (k : Nat) : (setLine l k s).links = s.links := rfl
@[simp] theorem setLine_sp (l : Nat) (k : Nat) : (setLine l k s).sp = s.sp := rfl
@[simp] theorem setLine_spEpoch (l : Nat) (k : Nat) : (setLine l k s).spEpoch = s.spEpoch := rfl
@[simp] theorem setLine_imem (l : Nat) (k : Nat) : (setLine l k s).imem = s.imem := rfl
@[simp] theorem setLine_rslot (l : Nat) (k : Nat) : (setLine l k s).rslot = s.rslot := rfl
@[simp] theorem setLine_tile (l : Nat) (k : Nat) : (setLine l k s).tile = s.tile := rfl
@[simp] theorem setLine_acc (l : Nat) (k : Nat) : (setLine l k s).acc = s.acc := rfl
@[simp] theorem setLine_shadow (l : Nat) (k : Nat) : (setLine l k s).shadow = s.shadow := rfl
@[simp] theorem setLine_desc (l : Nat) (k : Nat) : (setLine l k s).desc = s.desc := rfl
@[simp] theorem setLine_frameChk (l : Nat) (k : Nat) : (setLine l k s).frameChk = s.frameChk := rfl
@[simp] theorem setLine_ht (l : Nat) (k : Nat) : (setLine l k s).ht = s.ht := rfl
@[simp] theorem setLine_wlkDue (l : Nat) (k : Nat) : (setLine l k s).wlkDue = s.wlkDue := rfl
@[simp] theorem setLine_walkers (l : Nat) (k : Nat) : (setLine l k s).walkers = s.walkers := rfl
@[simp] theorem setLine_wlkDone (l : Nat) (k : Nat) : (setLine l k s).wlkDone = s.wlkDone := rfl
@[simp] theorem setLine_mcores (l : Nat) (k : Nat) : (setLine l k s).mcores = s.mcores := rfl
@[simp] theorem setLine_mslice (l : Nat) (k : Nat) : (setLine l k s).mslice = s.mslice := rfl
@[simp] theorem setLine_mblast (l : Nat) (k : Nat) : (setLine l k s).mblast = s.mblast := rfl
@[simp] theorem setLine_repairs (l : Nat) (k : Nat) : (setLine l k s).repairs = s.repairs := rfl
@[simp] theorem setLine_ctxs (l : Nat) (k : Nat) : (setLine l k s).ctxs = s.ctxs := rfl
@[simp] theorem setLine_leaCyc (l : Nat) (k : Nat) : (setLine l k s).leaCyc = s.leaCyc := rfl
@[simp] theorem setLine_fab (l : Nat) (k : Nat) : (setLine l k s).fab = s.fab := rfl
@[simp] theorem setLine_tlyQ (l : Nat) (k : Nat) : (setLine l k s).tlyQ = s.tlyQ := rfl
@[simp] theorem setLine_tlyWaits (l : Nat) (k : Nat) : (setLine l k s).tlyWaits = s.tlyWaits := rfl
@[simp] theorem setLine_whsQ (l : Nat) (k : Nat) : (setLine l k s).whsQ = s.whsQ := rfl
@[simp] theorem setLine_sends (l : Nat) (k : Nat) : (setLine l k s).sends = s.sends := rfl
@[simp] theorem setLine_rqs (l : Nat) (k : Nat) : (setLine l k s).rqs = s.rqs := rfl
@[simp] theorem setLine_spills (l : Nat) (k : Nat) : (setLine l k s).spills = s.spills := rfl
@[simp] theorem setLine_opens (l : Nat) (k : Nat) : (setLine l k s).opens = s.opens := rfl
@[simp] theorem setLine_landings (l : Nat) (k : Nat) : (setLine l k s).landings = s.landings := rfl
@[simp] theorem setLine_connLt (l : Nat) (k : Nat) : (setLine l k s).connLt = s.connLt := rfl
@[simp] theorem setLine_sidNext (l : Nat) (k : Nat) : (setLine l k s).sidNext = s.sidNext := rfl
@[simp] theorem setLine_ltkQ (l : Nat) (k : Nat) : (setLine l k s).ltkQ = s.ltkQ := rfl
@[simp] theorem setLine_ltkPaths (l : Nat) (k : Nat) : (setLine l k s).ltkPaths = s.ltkPaths := rfl
@[simp] theorem setLine_ltkRoutes (l : Nat) (k : Nat) : (setLine l k s).ltkRoutes = s.ltkRoutes := rfl
@[simp] theorem setLine_ltkPause (l : Nat) (k : Nat) : (setLine l k s).ltkPause = s.ltkPause := rfl
@[simp] theorem setLine_ptpGood (l : Nat) (k : Nat) : (setLine l k s).ptpGood = s.ptpGood := rfl
@[simp] theorem setLine_held (l : Nat) (k : Nat) : (setLine l k s).held = s.held := rfl
@[simp] theorem setLine_hostEnts (l : Nat) (k : Nat) : (setLine l k s).hostEnts = s.hostEnts := rfl
@[simp] theorem setLine_hrings (l : Nat) (k : Nat) : (setLine l k s).hrings = s.hrings := rfl
@[simp] theorem setLine_hostNext (l : Nat) (k : Nat) : (setLine l k s).hostNext = s.hostNext := rfl
@[simp] theorem setLine_aer (l : Nat) (k : Nat) : (setLine l k s).aer = s.aer := rfl
@[simp] theorem setLine_tcache (l : Nat) (k : Nat) : (setLine l k s).tcache = s.tcache := rfl
@[simp] theorem setLine_fabCyc (l : Nat) (k : Nat) : (setLine l k s).fabCyc = s.fabCyc := rfl
@[simp] theorem setLine_used (l : Nat) (k : Nat) : (setLine l k s).used = s.used := rfl
@[simp] theorem setLine_slotAt (l : Nat) (k : Nat) : (setLine l k s).slotAt = s.slotAt := rfl
@[simp] theorem setLine_capNext (l : Nat) (k : Nat) : (setLine l k s).capNext = s.capNext := rfl
@[simp] theorem setLine_ats (l : Nat) (k : Nat) : (setLine l k s).ats = s.ats := rfl
@[simp] theorem setLine_pageReqs (l : Nat) (k : Nat) : (setLine l k s).pageReqs = s.pageReqs := rfl
@[simp] theorem setLine_prgNext (l : Nat) (k : Nat) : (setLine l k s).prgNext = s.prgNext := rfl
@[simp] theorem setLine_atsInv (l : Nat) (k : Nat) : (setLine l k s).atsInv = s.atsInv := rfl
@[simp] theorem setLine_atsEn (l : Nat) (k : Nat) : (setLine l k s).atsEn = s.atsEn := rfl
@[simp] theorem setLine_priEn (l : Nat) (k : Nat) : (setLine l k s).priEn = s.priEn := rfl
@[simp] theorem setLine_priAlloc (l : Nat) (k : Nat) : (setLine l k s).priAlloc = s.priAlloc := rfl
@[simp] theorem setLine_winShare (l : Nat) (k : Nat) : (setLine l k s).winShare = s.winShare := rfl
@[simp] theorem setLine_sinks (l : Nat) (k : Nat) : (setLine l k s).sinks = s.sinks := rfl
@[simp] theorem setLine_scrubAt (l : Nat) (k : Nat) : (setLine l k s).scrubAt = s.scrubAt := rfl
@[simp] theorem setLine_mem (l : Nat) (k : Nat) : (setLine l k s).mem = s.mem := rfl
@[simp] theorem setLine_memEpoch (l : Nat) (k : Nat) : (setLine l k s).memEpoch = s.memEpoch := rfl
@[simp] theorem setLine_pools (l : Nat) (k : Nat) : (setLine l k s).pools = s.pools := rfl
@[simp] theorem setLine_byrQ (l : Nat) (k : Nat) : (setLine l k s).byrQ = s.byrQ := rfl
@[simp] theorem setLine_byrCmd (l : Nat) (k : Nat) : (setLine l k s).byrCmd = s.byrCmd := rfl
@[simp] theorem setLine_tlyShadow (l : Nat) (k : Nat) : (setLine l k s).tlyShadow = s.tlyShadow := rfl
@[simp] theorem setLine_connShadow (l : Nat) (k : Nat) : (setLine l k s).connShadow = s.connShadow := rfl
@[simp] theorem setLine_watches (l : Nat) (k : Nat) : (setLine l k s).watches = s.watches := rfl
@[simp] theorem setLine_folds (l : Nat) (k : Nat) : (setLine l k s).folds = s.folds := rfl
@[simp] theorem setLine_keys (l : Nat) (k : Nat) : (setLine l k s).keys = s.keys := rfl
@[simp] theorem setLine_ration (l : Nat) (k : Nat) : (setLine l k s).ration = s.ration := rfl
@[simp] theorem setLine_pmTry (l : Nat) (k : Nat) : (setLine l k s).pmTry = s.pmTry := rfl
@[simp] theorem setLine_pldmQ (l : Nat) (k : Nat) : (setLine l k s).pldmQ = s.pldmQ := rfl
@[simp] theorem setLine_mgmt (l : Nat) (k : Nat) : (setLine l k s).mgmt = s.mgmt := rfl
@[simp] theorem setLine_pwr (l : Nat) (k : Nat) : (setLine l k s).pwr = s.pwr := rfl
@[simp] theorem setLine_cfg (l : Nat) (k : Nat) : (setLine l k s).cfg = s.cfg := rfl
@[simp] theorem setLine_tap (l : Nat) (k : Nat) : (setLine l k s).tap = s.tap := rfl
@[simp] theorem setLine_mwins (l : Nat) (k : Nat) : (setLine l k s).mwins = s.mwins := rfl
@[simp] theorem setLine_openAt (l : Nat) (k : Nat) : (setLine l k s).openAt = s.openAt := rfl
@[simp] theorem setLine_whsLands (l : Nat) (k : Nat) : (setLine l k s).whsLands = s.whsLands := rfl
@[simp] theorem setLine_accWaits (l : Nat) (k : Nat) : (setLine l k s).accWaits = s.accWaits := rfl
@[simp] theorem setLine_formAt (l : Nat) (k : Nat) : (setLine l k s).formAt = s.formAt := rfl
@[simp] theorem setLine_admSeq (l : Nat) (k : Nat) : (setLine l k s).admSeq = s.admSeq := rfl
@[simp] theorem setLine_spMark (l : Nat) (k : Nat) : (setLine l k s).spMark = s.spMark := rfl
@[simp] theorem setLine_bellLate (l : Nat) (k : Nat) : (setLine l k s).bellLate = s.bellLate := rfl
@[simp] theorem setLine_pending (l : Nat) (k : Nat) : (setLine l k s).pending = s.pending := rfl
@[simp] theorem rdW_setLine (l : Nat) (k : Nat) (rb : Blk) (ri ro : Nat) : rdW (setLine l k s) rb ri ro = rdW s rb ri ro := rfl
@[simp] theorem rd_setLine (l : Nat) (k : Nat) (rf : Fld) (ri : Nat) : rd (setLine l k s) rf ri = rd s rf ri := rfl
@[simp] theorem rdB_setLine (l : Nat) (k : Nat) (rf : Fld) (ri : Nat) : rdB (setLine l k s) rf ri = rdB s rf ri := rfl

/-! ### htPut -/

@[simp] theorem htPut_now (p : Nat) (k : Nat) (v : Nat) : (htPut p k v s).now = s.now := rfl
@[simp] theorem htPut_freeCtr (p : Nat) (k : Nat) (v : Nat) : (htPut p k v s).freeCtr = s.freeCtr := rfl
@[simp] theorem htPut_regs (p : Nat) (k : Nat) (v : Nat) : (htPut p k v s).regs = s.regs := rfl
@[simp] theorem htPut_bellPend (p : Nat) (k : Nat) (v : Nat) : (htPut p k v s).bellPend = s.bellPend := rfl
@[simp] theorem htPut_rearmPend (p : Nat) (k : Nat) (v : Nat) : (htPut p k v s).rearmPend = s.rearmPend := rfl
@[simp] theorem htPut_fixedDone (p : Nat) (k : Nat) (v : Nat) : (htPut p k v s).fixedDone = s.fixedDone := rfl
@[simp] theorem htPut_outbox (p : Nat) (k : Nat) (v : Nat) : (htPut p k v s).outbox = s.outbox := rfl
@[simp] theorem htPut_bellLock (p : Nat) (k : Nat) (v : Nat) : (htPut p k v s).bellLock = s.bellLock := rfl
@[simp] theorem htPut_aliveOut (p : Nat) (k : Nat) (v : Nat) : (htPut p k v s).aliveOut = s.aliveOut := rfl
@[simp] theorem htPut_bell (p : Nat) (k : Nat) (v : Nat) : (htPut p k v s).bell = s.bell := rfl
@[simp] theorem htPut_pdks (p : Nat) (k : Nat) (v : Nat) : (htPut p k v s).pdks = s.pdks := rfl
@[simp] theorem htPut_vfEnable (p : Nat) (k : Nat) (v : Nat) : (htPut p k v s).vfEnable = s.vfEnable := rfl
@[simp] theorem htPut_numVfs (p : Nat) (k : Nat) (v : Nat) : (htPut p k v s).numVfs = s.numVfs := rfl
@[simp] theorem htPut_fns (p : Nat) (k : Nat) (v : Nat) : (htPut p k v s).fns = s.fns := rfl
@[simp] theorem htPut_pfEvents (p : Nat) (k : Nat) (v : Nat) : (htPut p k v s).pfEvents = s.pfEvents := rfl
@[simp] theorem htPut_pfLost (p : Nat) (k : Nat) (v : Nat) : (htPut p k v s).pfLost = s.pfLost := rfl
@[simp] theorem htPut_fbk (p : Nat) (k : Nat) (v : Nat) : (htPut p k v s).fbk = s.fbk := rfl
@[simp] theorem htPut_cores (p : Nat) (k : Nat) (v : Nat) : (htPut p k v s).cores = s.cores := rfl
@[simp] theorem htPut_meshes (p : Nat) (k : Nat) (v : Nat) : (htPut p k v s).meshes = s.meshes := rfl
@[simp] theorem htPut_links (p : Nat) (k : Nat) (v : Nat) : (htPut p k v s).links = s.links := rfl
@[simp] theorem htPut_sp (p : Nat) (k : Nat) (v : Nat) : (htPut p k v s).sp = s.sp := rfl
@[simp] theorem htPut_spEpoch (p : Nat) (k : Nat) (v : Nat) : (htPut p k v s).spEpoch = s.spEpoch := rfl
@[simp] theorem htPut_imem (p : Nat) (k : Nat) (v : Nat) : (htPut p k v s).imem = s.imem := rfl
@[simp] theorem htPut_rslot (p : Nat) (k : Nat) (v : Nat) : (htPut p k v s).rslot = s.rslot := rfl
@[simp] theorem htPut_tile (p : Nat) (k : Nat) (v : Nat) : (htPut p k v s).tile = s.tile := rfl
@[simp] theorem htPut_acc (p : Nat) (k : Nat) (v : Nat) : (htPut p k v s).acc = s.acc := rfl
@[simp] theorem htPut_shadow (p : Nat) (k : Nat) (v : Nat) : (htPut p k v s).shadow = s.shadow := rfl
@[simp] theorem htPut_desc (p : Nat) (k : Nat) (v : Nat) : (htPut p k v s).desc = s.desc := rfl
@[simp] theorem htPut_frameChk (p : Nat) (k : Nat) (v : Nat) : (htPut p k v s).frameChk = s.frameChk := rfl
@[simp] theorem htPut_wlkDue (p : Nat) (k : Nat) (v : Nat) : (htPut p k v s).wlkDue = s.wlkDue := rfl
@[simp] theorem htPut_walkers (p : Nat) (k : Nat) (v : Nat) : (htPut p k v s).walkers = s.walkers := rfl
@[simp] theorem htPut_wlkDone (p : Nat) (k : Nat) (v : Nat) : (htPut p k v s).wlkDone = s.wlkDone := rfl
@[simp] theorem htPut_mcores (p : Nat) (k : Nat) (v : Nat) : (htPut p k v s).mcores = s.mcores := rfl
@[simp] theorem htPut_mslice (p : Nat) (k : Nat) (v : Nat) : (htPut p k v s).mslice = s.mslice := rfl
@[simp] theorem htPut_mblast (p : Nat) (k : Nat) (v : Nat) : (htPut p k v s).mblast = s.mblast := rfl
@[simp] theorem htPut_repairs (p : Nat) (k : Nat) (v : Nat) : (htPut p k v s).repairs = s.repairs := rfl
@[simp] theorem htPut_ctxs (p : Nat) (k : Nat) (v : Nat) : (htPut p k v s).ctxs = s.ctxs := rfl
@[simp] theorem htPut_leaCyc (p : Nat) (k : Nat) (v : Nat) : (htPut p k v s).leaCyc = s.leaCyc := rfl
@[simp] theorem htPut_fab (p : Nat) (k : Nat) (v : Nat) : (htPut p k v s).fab = s.fab := rfl
@[simp] theorem htPut_tlyQ (p : Nat) (k : Nat) (v : Nat) : (htPut p k v s).tlyQ = s.tlyQ := rfl
@[simp] theorem htPut_tlyWaits (p : Nat) (k : Nat) (v : Nat) : (htPut p k v s).tlyWaits = s.tlyWaits := rfl
@[simp] theorem htPut_whsQ (p : Nat) (k : Nat) (v : Nat) : (htPut p k v s).whsQ = s.whsQ := rfl
@[simp] theorem htPut_sends (p : Nat) (k : Nat) (v : Nat) : (htPut p k v s).sends = s.sends := rfl
@[simp] theorem htPut_rqs (p : Nat) (k : Nat) (v : Nat) : (htPut p k v s).rqs = s.rqs := rfl
@[simp] theorem htPut_spills (p : Nat) (k : Nat) (v : Nat) : (htPut p k v s).spills = s.spills := rfl
@[simp] theorem htPut_opens (p : Nat) (k : Nat) (v : Nat) : (htPut p k v s).opens = s.opens := rfl
@[simp] theorem htPut_landings (p : Nat) (k : Nat) (v : Nat) : (htPut p k v s).landings = s.landings := rfl
@[simp] theorem htPut_connLt (p : Nat) (k : Nat) (v : Nat) : (htPut p k v s).connLt = s.connLt := rfl
@[simp] theorem htPut_sidNext (p : Nat) (k : Nat) (v : Nat) : (htPut p k v s).sidNext = s.sidNext := rfl
@[simp] theorem htPut_ltkQ (p : Nat) (k : Nat) (v : Nat) : (htPut p k v s).ltkQ = s.ltkQ := rfl
@[simp] theorem htPut_ltkPaths (p : Nat) (k : Nat) (v : Nat) : (htPut p k v s).ltkPaths = s.ltkPaths := rfl
@[simp] theorem htPut_ltkRoutes (p : Nat) (k : Nat) (v : Nat) : (htPut p k v s).ltkRoutes = s.ltkRoutes := rfl
@[simp] theorem htPut_ltkPause (p : Nat) (k : Nat) (v : Nat) : (htPut p k v s).ltkPause = s.ltkPause := rfl
@[simp] theorem htPut_ptpGood (p : Nat) (k : Nat) (v : Nat) : (htPut p k v s).ptpGood = s.ptpGood := rfl
@[simp] theorem htPut_held (p : Nat) (k : Nat) (v : Nat) : (htPut p k v s).held = s.held := rfl
@[simp] theorem htPut_hostEnts (p : Nat) (k : Nat) (v : Nat) : (htPut p k v s).hostEnts = s.hostEnts := rfl
@[simp] theorem htPut_hrings (p : Nat) (k : Nat) (v : Nat) : (htPut p k v s).hrings = s.hrings := rfl
@[simp] theorem htPut_hostNext (p : Nat) (k : Nat) (v : Nat) : (htPut p k v s).hostNext = s.hostNext := rfl
@[simp] theorem htPut_aer (p : Nat) (k : Nat) (v : Nat) : (htPut p k v s).aer = s.aer := rfl
@[simp] theorem htPut_tcache (p : Nat) (k : Nat) (v : Nat) : (htPut p k v s).tcache = s.tcache := rfl
@[simp] theorem htPut_fabCyc (p : Nat) (k : Nat) (v : Nat) : (htPut p k v s).fabCyc = s.fabCyc := rfl
@[simp] theorem htPut_used (p : Nat) (k : Nat) (v : Nat) : (htPut p k v s).used = s.used := rfl
@[simp] theorem htPut_slotAt (p : Nat) (k : Nat) (v : Nat) : (htPut p k v s).slotAt = s.slotAt := rfl
@[simp] theorem htPut_capNext (p : Nat) (k : Nat) (v : Nat) : (htPut p k v s).capNext = s.capNext := rfl
@[simp] theorem htPut_ats (p : Nat) (k : Nat) (v : Nat) : (htPut p k v s).ats = s.ats := rfl
@[simp] theorem htPut_pageReqs (p : Nat) (k : Nat) (v : Nat) : (htPut p k v s).pageReqs = s.pageReqs := rfl
@[simp] theorem htPut_prgNext (p : Nat) (k : Nat) (v : Nat) : (htPut p k v s).prgNext = s.prgNext := rfl
@[simp] theorem htPut_atsInv (p : Nat) (k : Nat) (v : Nat) : (htPut p k v s).atsInv = s.atsInv := rfl
@[simp] theorem htPut_atsEn (p : Nat) (k : Nat) (v : Nat) : (htPut p k v s).atsEn = s.atsEn := rfl
@[simp] theorem htPut_priEn (p : Nat) (k : Nat) (v : Nat) : (htPut p k v s).priEn = s.priEn := rfl
@[simp] theorem htPut_priAlloc (p : Nat) (k : Nat) (v : Nat) : (htPut p k v s).priAlloc = s.priAlloc := rfl
@[simp] theorem htPut_winShare (p : Nat) (k : Nat) (v : Nat) : (htPut p k v s).winShare = s.winShare := rfl
@[simp] theorem htPut_sinks (p : Nat) (k : Nat) (v : Nat) : (htPut p k v s).sinks = s.sinks := rfl
@[simp] theorem htPut_scrubAt (p : Nat) (k : Nat) (v : Nat) : (htPut p k v s).scrubAt = s.scrubAt := rfl
@[simp] theorem htPut_mem (p : Nat) (k : Nat) (v : Nat) : (htPut p k v s).mem = s.mem := rfl
@[simp] theorem htPut_memEpoch (p : Nat) (k : Nat) (v : Nat) : (htPut p k v s).memEpoch = s.memEpoch := rfl
@[simp] theorem htPut_lines (p : Nat) (k : Nat) (v : Nat) : (htPut p k v s).lines = s.lines := rfl
@[simp] theorem htPut_pools (p : Nat) (k : Nat) (v : Nat) : (htPut p k v s).pools = s.pools := rfl
@[simp] theorem htPut_byrQ (p : Nat) (k : Nat) (v : Nat) : (htPut p k v s).byrQ = s.byrQ := rfl
@[simp] theorem htPut_byrCmd (p : Nat) (k : Nat) (v : Nat) : (htPut p k v s).byrCmd = s.byrCmd := rfl
@[simp] theorem htPut_tlyShadow (p : Nat) (k : Nat) (v : Nat) : (htPut p k v s).tlyShadow = s.tlyShadow := rfl
@[simp] theorem htPut_connShadow (p : Nat) (k : Nat) (v : Nat) : (htPut p k v s).connShadow = s.connShadow := rfl
@[simp] theorem htPut_watches (p : Nat) (k : Nat) (v : Nat) : (htPut p k v s).watches = s.watches := rfl
@[simp] theorem htPut_folds (p : Nat) (k : Nat) (v : Nat) : (htPut p k v s).folds = s.folds := rfl
@[simp] theorem htPut_keys (p : Nat) (k : Nat) (v : Nat) : (htPut p k v s).keys = s.keys := rfl
@[simp] theorem htPut_ration (p : Nat) (k : Nat) (v : Nat) : (htPut p k v s).ration = s.ration := rfl
@[simp] theorem htPut_pmTry (p : Nat) (k : Nat) (v : Nat) : (htPut p k v s).pmTry = s.pmTry := rfl
@[simp] theorem htPut_pldmQ (p : Nat) (k : Nat) (v : Nat) : (htPut p k v s).pldmQ = s.pldmQ := rfl
@[simp] theorem htPut_mgmt (p : Nat) (k : Nat) (v : Nat) : (htPut p k v s).mgmt = s.mgmt := rfl
@[simp] theorem htPut_pwr (p : Nat) (k : Nat) (v : Nat) : (htPut p k v s).pwr = s.pwr := rfl
@[simp] theorem htPut_cfg (p : Nat) (k : Nat) (v : Nat) : (htPut p k v s).cfg = s.cfg := rfl
@[simp] theorem htPut_tap (p : Nat) (k : Nat) (v : Nat) : (htPut p k v s).tap = s.tap := rfl
@[simp] theorem htPut_mwins (p : Nat) (k : Nat) (v : Nat) : (htPut p k v s).mwins = s.mwins := rfl
@[simp] theorem htPut_openAt (p : Nat) (k : Nat) (v : Nat) : (htPut p k v s).openAt = s.openAt := rfl
@[simp] theorem htPut_whsLands (p : Nat) (k : Nat) (v : Nat) : (htPut p k v s).whsLands = s.whsLands := rfl
@[simp] theorem htPut_accWaits (p : Nat) (k : Nat) (v : Nat) : (htPut p k v s).accWaits = s.accWaits := rfl
@[simp] theorem htPut_formAt (p : Nat) (k : Nat) (v : Nat) : (htPut p k v s).formAt = s.formAt := rfl
@[simp] theorem htPut_admSeq (p : Nat) (k : Nat) (v : Nat) : (htPut p k v s).admSeq = s.admSeq := rfl
@[simp] theorem htPut_spMark (p : Nat) (k : Nat) (v : Nat) : (htPut p k v s).spMark = s.spMark := rfl
@[simp] theorem htPut_bellLate (p : Nat) (k : Nat) (v : Nat) : (htPut p k v s).bellLate = s.bellLate := rfl
@[simp] theorem htPut_pending (p : Nat) (k : Nat) (v : Nat) : (htPut p k v s).pending = s.pending := rfl
@[simp] theorem rdW_htPut (p : Nat) (k : Nat) (v : Nat) (rb : Blk) (ri ro : Nat) : rdW (htPut p k v s) rb ri ro = rdW s rb ri ro := rfl
@[simp] theorem rd_htPut (p : Nat) (k : Nat) (v : Nat) (rf : Fld) (ri : Nat) : rd (htPut p k v s) rf ri = rd s rf ri := rfl
@[simp] theorem rdB_htPut (p : Nat) (k : Nat) (v : Nat) (rf : Fld) (ri : Nat) : rdB (htPut p k v s) rf ri = rdB s rf ri := rfl

/-! ### spPutRaw -/

@[simp] theorem spPutRaw_now (p : Nat) (w : Nat) (v : Nat) : (spPutRaw p w v s).now = s.now := rfl
@[simp] theorem spPutRaw_freeCtr (p : Nat) (w : Nat) (v : Nat) : (spPutRaw p w v s).freeCtr = s.freeCtr := rfl
@[simp] theorem spPutRaw_regs (p : Nat) (w : Nat) (v : Nat) : (spPutRaw p w v s).regs = s.regs := rfl
@[simp] theorem spPutRaw_bellPend (p : Nat) (w : Nat) (v : Nat) : (spPutRaw p w v s).bellPend = s.bellPend := rfl
@[simp] theorem spPutRaw_rearmPend (p : Nat) (w : Nat) (v : Nat) : (spPutRaw p w v s).rearmPend = s.rearmPend := rfl
@[simp] theorem spPutRaw_fixedDone (p : Nat) (w : Nat) (v : Nat) : (spPutRaw p w v s).fixedDone = s.fixedDone := rfl
@[simp] theorem spPutRaw_outbox (p : Nat) (w : Nat) (v : Nat) : (spPutRaw p w v s).outbox = s.outbox := rfl
@[simp] theorem spPutRaw_bellLock (p : Nat) (w : Nat) (v : Nat) : (spPutRaw p w v s).bellLock = s.bellLock := rfl
@[simp] theorem spPutRaw_aliveOut (p : Nat) (w : Nat) (v : Nat) : (spPutRaw p w v s).aliveOut = s.aliveOut := rfl
@[simp] theorem spPutRaw_bell (p : Nat) (w : Nat) (v : Nat) : (spPutRaw p w v s).bell = s.bell := rfl
@[simp] theorem spPutRaw_pdks (p : Nat) (w : Nat) (v : Nat) : (spPutRaw p w v s).pdks = s.pdks := rfl
@[simp] theorem spPutRaw_vfEnable (p : Nat) (w : Nat) (v : Nat) : (spPutRaw p w v s).vfEnable = s.vfEnable := rfl
@[simp] theorem spPutRaw_numVfs (p : Nat) (w : Nat) (v : Nat) : (spPutRaw p w v s).numVfs = s.numVfs := rfl
@[simp] theorem spPutRaw_fns (p : Nat) (w : Nat) (v : Nat) : (spPutRaw p w v s).fns = s.fns := rfl
@[simp] theorem spPutRaw_pfEvents (p : Nat) (w : Nat) (v : Nat) : (spPutRaw p w v s).pfEvents = s.pfEvents := rfl
@[simp] theorem spPutRaw_pfLost (p : Nat) (w : Nat) (v : Nat) : (spPutRaw p w v s).pfLost = s.pfLost := rfl
@[simp] theorem spPutRaw_fbk (p : Nat) (w : Nat) (v : Nat) : (spPutRaw p w v s).fbk = s.fbk := rfl
@[simp] theorem spPutRaw_cores (p : Nat) (w : Nat) (v : Nat) : (spPutRaw p w v s).cores = s.cores := rfl
@[simp] theorem spPutRaw_meshes (p : Nat) (w : Nat) (v : Nat) : (spPutRaw p w v s).meshes = s.meshes := rfl
@[simp] theorem spPutRaw_links (p : Nat) (w : Nat) (v : Nat) : (spPutRaw p w v s).links = s.links := rfl
@[simp] theorem spPutRaw_spEpoch (p : Nat) (w : Nat) (v : Nat) : (spPutRaw p w v s).spEpoch = s.spEpoch := rfl
@[simp] theorem spPutRaw_imem (p : Nat) (w : Nat) (v : Nat) : (spPutRaw p w v s).imem = s.imem := rfl
@[simp] theorem spPutRaw_rslot (p : Nat) (w : Nat) (v : Nat) : (spPutRaw p w v s).rslot = s.rslot := rfl
@[simp] theorem spPutRaw_tile (p : Nat) (w : Nat) (v : Nat) : (spPutRaw p w v s).tile = s.tile := rfl
@[simp] theorem spPutRaw_acc (p : Nat) (w : Nat) (v : Nat) : (spPutRaw p w v s).acc = s.acc := rfl
@[simp] theorem spPutRaw_shadow (p : Nat) (w : Nat) (v : Nat) : (spPutRaw p w v s).shadow = s.shadow := rfl
@[simp] theorem spPutRaw_desc (p : Nat) (w : Nat) (v : Nat) : (spPutRaw p w v s).desc = s.desc := rfl
@[simp] theorem spPutRaw_frameChk (p : Nat) (w : Nat) (v : Nat) : (spPutRaw p w v s).frameChk = s.frameChk := rfl
@[simp] theorem spPutRaw_ht (p : Nat) (w : Nat) (v : Nat) : (spPutRaw p w v s).ht = s.ht := rfl
@[simp] theorem spPutRaw_wlkDue (p : Nat) (w : Nat) (v : Nat) : (spPutRaw p w v s).wlkDue = s.wlkDue := rfl
@[simp] theorem spPutRaw_walkers (p : Nat) (w : Nat) (v : Nat) : (spPutRaw p w v s).walkers = s.walkers := rfl
@[simp] theorem spPutRaw_wlkDone (p : Nat) (w : Nat) (v : Nat) : (spPutRaw p w v s).wlkDone = s.wlkDone := rfl
@[simp] theorem spPutRaw_mcores (p : Nat) (w : Nat) (v : Nat) : (spPutRaw p w v s).mcores = s.mcores := rfl
@[simp] theorem spPutRaw_mslice (p : Nat) (w : Nat) (v : Nat) : (spPutRaw p w v s).mslice = s.mslice := rfl
@[simp] theorem spPutRaw_mblast (p : Nat) (w : Nat) (v : Nat) : (spPutRaw p w v s).mblast = s.mblast := rfl
@[simp] theorem spPutRaw_repairs (p : Nat) (w : Nat) (v : Nat) : (spPutRaw p w v s).repairs = s.repairs := rfl
@[simp] theorem spPutRaw_ctxs (p : Nat) (w : Nat) (v : Nat) : (spPutRaw p w v s).ctxs = s.ctxs := rfl
@[simp] theorem spPutRaw_leaCyc (p : Nat) (w : Nat) (v : Nat) : (spPutRaw p w v s).leaCyc = s.leaCyc := rfl
@[simp] theorem spPutRaw_fab (p : Nat) (w : Nat) (v : Nat) : (spPutRaw p w v s).fab = s.fab := rfl
@[simp] theorem spPutRaw_tlyQ (p : Nat) (w : Nat) (v : Nat) : (spPutRaw p w v s).tlyQ = s.tlyQ := rfl
@[simp] theorem spPutRaw_tlyWaits (p : Nat) (w : Nat) (v : Nat) : (spPutRaw p w v s).tlyWaits = s.tlyWaits := rfl
@[simp] theorem spPutRaw_whsQ (p : Nat) (w : Nat) (v : Nat) : (spPutRaw p w v s).whsQ = s.whsQ := rfl
@[simp] theorem spPutRaw_sends (p : Nat) (w : Nat) (v : Nat) : (spPutRaw p w v s).sends = s.sends := rfl
@[simp] theorem spPutRaw_rqs (p : Nat) (w : Nat) (v : Nat) : (spPutRaw p w v s).rqs = s.rqs := rfl
@[simp] theorem spPutRaw_spills (p : Nat) (w : Nat) (v : Nat) : (spPutRaw p w v s).spills = s.spills := rfl
@[simp] theorem spPutRaw_opens (p : Nat) (w : Nat) (v : Nat) : (spPutRaw p w v s).opens = s.opens := rfl
@[simp] theorem spPutRaw_landings (p : Nat) (w : Nat) (v : Nat) : (spPutRaw p w v s).landings = s.landings := rfl
@[simp] theorem spPutRaw_connLt (p : Nat) (w : Nat) (v : Nat) : (spPutRaw p w v s).connLt = s.connLt := rfl
@[simp] theorem spPutRaw_sidNext (p : Nat) (w : Nat) (v : Nat) : (spPutRaw p w v s).sidNext = s.sidNext := rfl
@[simp] theorem spPutRaw_ltkQ (p : Nat) (w : Nat) (v : Nat) : (spPutRaw p w v s).ltkQ = s.ltkQ := rfl
@[simp] theorem spPutRaw_ltkPaths (p : Nat) (w : Nat) (v : Nat) : (spPutRaw p w v s).ltkPaths = s.ltkPaths := rfl
@[simp] theorem spPutRaw_ltkRoutes (p : Nat) (w : Nat) (v : Nat) : (spPutRaw p w v s).ltkRoutes = s.ltkRoutes := rfl
@[simp] theorem spPutRaw_ltkPause (p : Nat) (w : Nat) (v : Nat) : (spPutRaw p w v s).ltkPause = s.ltkPause := rfl
@[simp] theorem spPutRaw_ptpGood (p : Nat) (w : Nat) (v : Nat) : (spPutRaw p w v s).ptpGood = s.ptpGood := rfl
@[simp] theorem spPutRaw_held (p : Nat) (w : Nat) (v : Nat) : (spPutRaw p w v s).held = s.held := rfl
@[simp] theorem spPutRaw_hostEnts (p : Nat) (w : Nat) (v : Nat) : (spPutRaw p w v s).hostEnts = s.hostEnts := rfl
@[simp] theorem spPutRaw_hrings (p : Nat) (w : Nat) (v : Nat) : (spPutRaw p w v s).hrings = s.hrings := rfl
@[simp] theorem spPutRaw_hostNext (p : Nat) (w : Nat) (v : Nat) : (spPutRaw p w v s).hostNext = s.hostNext := rfl
@[simp] theorem spPutRaw_aer (p : Nat) (w : Nat) (v : Nat) : (spPutRaw p w v s).aer = s.aer := rfl
@[simp] theorem spPutRaw_tcache (p : Nat) (w : Nat) (v : Nat) : (spPutRaw p w v s).tcache = s.tcache := rfl
@[simp] theorem spPutRaw_fabCyc (p : Nat) (w : Nat) (v : Nat) : (spPutRaw p w v s).fabCyc = s.fabCyc := rfl
@[simp] theorem spPutRaw_used (p : Nat) (w : Nat) (v : Nat) : (spPutRaw p w v s).used = s.used := rfl
@[simp] theorem spPutRaw_slotAt (p : Nat) (w : Nat) (v : Nat) : (spPutRaw p w v s).slotAt = s.slotAt := rfl
@[simp] theorem spPutRaw_capNext (p : Nat) (w : Nat) (v : Nat) : (spPutRaw p w v s).capNext = s.capNext := rfl
@[simp] theorem spPutRaw_ats (p : Nat) (w : Nat) (v : Nat) : (spPutRaw p w v s).ats = s.ats := rfl
@[simp] theorem spPutRaw_pageReqs (p : Nat) (w : Nat) (v : Nat) : (spPutRaw p w v s).pageReqs = s.pageReqs := rfl
@[simp] theorem spPutRaw_prgNext (p : Nat) (w : Nat) (v : Nat) : (spPutRaw p w v s).prgNext = s.prgNext := rfl
@[simp] theorem spPutRaw_atsInv (p : Nat) (w : Nat) (v : Nat) : (spPutRaw p w v s).atsInv = s.atsInv := rfl
@[simp] theorem spPutRaw_atsEn (p : Nat) (w : Nat) (v : Nat) : (spPutRaw p w v s).atsEn = s.atsEn := rfl
@[simp] theorem spPutRaw_priEn (p : Nat) (w : Nat) (v : Nat) : (spPutRaw p w v s).priEn = s.priEn := rfl
@[simp] theorem spPutRaw_priAlloc (p : Nat) (w : Nat) (v : Nat) : (spPutRaw p w v s).priAlloc = s.priAlloc := rfl
@[simp] theorem spPutRaw_winShare (p : Nat) (w : Nat) (v : Nat) : (spPutRaw p w v s).winShare = s.winShare := rfl
@[simp] theorem spPutRaw_sinks (p : Nat) (w : Nat) (v : Nat) : (spPutRaw p w v s).sinks = s.sinks := rfl
@[simp] theorem spPutRaw_scrubAt (p : Nat) (w : Nat) (v : Nat) : (spPutRaw p w v s).scrubAt = s.scrubAt := rfl
@[simp] theorem spPutRaw_mem (p : Nat) (w : Nat) (v : Nat) : (spPutRaw p w v s).mem = s.mem := rfl
@[simp] theorem spPutRaw_memEpoch (p : Nat) (w : Nat) (v : Nat) : (spPutRaw p w v s).memEpoch = s.memEpoch := rfl
@[simp] theorem spPutRaw_lines (p : Nat) (w : Nat) (v : Nat) : (spPutRaw p w v s).lines = s.lines := rfl
@[simp] theorem spPutRaw_pools (p : Nat) (w : Nat) (v : Nat) : (spPutRaw p w v s).pools = s.pools := rfl
@[simp] theorem spPutRaw_byrQ (p : Nat) (w : Nat) (v : Nat) : (spPutRaw p w v s).byrQ = s.byrQ := rfl
@[simp] theorem spPutRaw_byrCmd (p : Nat) (w : Nat) (v : Nat) : (spPutRaw p w v s).byrCmd = s.byrCmd := rfl
@[simp] theorem spPutRaw_tlyShadow (p : Nat) (w : Nat) (v : Nat) : (spPutRaw p w v s).tlyShadow = s.tlyShadow := rfl
@[simp] theorem spPutRaw_connShadow (p : Nat) (w : Nat) (v : Nat) : (spPutRaw p w v s).connShadow = s.connShadow := rfl
@[simp] theorem spPutRaw_watches (p : Nat) (w : Nat) (v : Nat) : (spPutRaw p w v s).watches = s.watches := rfl
@[simp] theorem spPutRaw_folds (p : Nat) (w : Nat) (v : Nat) : (spPutRaw p w v s).folds = s.folds := rfl
@[simp] theorem spPutRaw_keys (p : Nat) (w : Nat) (v : Nat) : (spPutRaw p w v s).keys = s.keys := rfl
@[simp] theorem spPutRaw_ration (p : Nat) (w : Nat) (v : Nat) : (spPutRaw p w v s).ration = s.ration := rfl
@[simp] theorem spPutRaw_pmTry (p : Nat) (w : Nat) (v : Nat) : (spPutRaw p w v s).pmTry = s.pmTry := rfl
@[simp] theorem spPutRaw_pldmQ (p : Nat) (w : Nat) (v : Nat) : (spPutRaw p w v s).pldmQ = s.pldmQ := rfl
@[simp] theorem spPutRaw_mgmt (p : Nat) (w : Nat) (v : Nat) : (spPutRaw p w v s).mgmt = s.mgmt := rfl
@[simp] theorem spPutRaw_pwr (p : Nat) (w : Nat) (v : Nat) : (spPutRaw p w v s).pwr = s.pwr := rfl
@[simp] theorem spPutRaw_cfg (p : Nat) (w : Nat) (v : Nat) : (spPutRaw p w v s).cfg = s.cfg := rfl
@[simp] theorem spPutRaw_tap (p : Nat) (w : Nat) (v : Nat) : (spPutRaw p w v s).tap = s.tap := rfl
@[simp] theorem spPutRaw_mwins (p : Nat) (w : Nat) (v : Nat) : (spPutRaw p w v s).mwins = s.mwins := rfl
@[simp] theorem spPutRaw_openAt (p : Nat) (w : Nat) (v : Nat) : (spPutRaw p w v s).openAt = s.openAt := rfl
@[simp] theorem spPutRaw_whsLands (p : Nat) (w : Nat) (v : Nat) : (spPutRaw p w v s).whsLands = s.whsLands := rfl
@[simp] theorem spPutRaw_accWaits (p : Nat) (w : Nat) (v : Nat) : (spPutRaw p w v s).accWaits = s.accWaits := rfl
@[simp] theorem spPutRaw_formAt (p : Nat) (w : Nat) (v : Nat) : (spPutRaw p w v s).formAt = s.formAt := rfl
@[simp] theorem spPutRaw_admSeq (p : Nat) (w : Nat) (v : Nat) : (spPutRaw p w v s).admSeq = s.admSeq := rfl
@[simp] theorem spPutRaw_spMark (p : Nat) (w : Nat) (v : Nat) : (spPutRaw p w v s).spMark = s.spMark := rfl
@[simp] theorem spPutRaw_bellLate (p : Nat) (w : Nat) (v : Nat) : (spPutRaw p w v s).bellLate = s.bellLate := rfl
@[simp] theorem spPutRaw_pending (p : Nat) (w : Nat) (v : Nat) : (spPutRaw p w v s).pending = s.pending := rfl
@[simp] theorem rdW_spPutRaw (p : Nat) (w : Nat) (v : Nat) (rb : Blk) (ri ro : Nat) : rdW (spPutRaw p w v s) rb ri ro = rdW s rb ri ro := rfl
@[simp] theorem rd_spPutRaw (p : Nat) (w : Nat) (v : Nat) (rf : Fld) (ri : Nat) : rd (spPutRaw p w v s) rf ri = rd s rf ri := rfl
@[simp] theorem rdB_spPutRaw (p : Nat) (w : Nat) (v : Nat) (rf : Fld) (ri : Nat) : rdB (spPutRaw p w v s) rf ri = rdB s rf ri := rfl

/-! ### atCycle -/

@[simp] theorem atCycle_now (t : Nat) : (atCycle t s).now = s.now := rfl
@[simp] theorem atCycle_freeCtr (t : Nat) : (atCycle t s).freeCtr = s.freeCtr := rfl
@[simp] theorem atCycle_regs (t : Nat) : (atCycle t s).regs = s.regs := rfl
@[simp] theorem atCycle_bellPend (t : Nat) : (atCycle t s).bellPend = s.bellPend := rfl
@[simp] theorem atCycle_rearmPend (t : Nat) : (atCycle t s).rearmPend = s.rearmPend := rfl
@[simp] theorem atCycle_fixedDone (t : Nat) : (atCycle t s).fixedDone = s.fixedDone := rfl
@[simp] theorem atCycle_outbox (t : Nat) : (atCycle t s).outbox = s.outbox := rfl
@[simp] theorem atCycle_bellLock (t : Nat) : (atCycle t s).bellLock = s.bellLock := rfl
@[simp] theorem atCycle_aliveOut (t : Nat) : (atCycle t s).aliveOut = s.aliveOut := rfl
@[simp] theorem atCycle_bell (t : Nat) : (atCycle t s).bell = s.bell := rfl
@[simp] theorem atCycle_pdks (t : Nat) : (atCycle t s).pdks = s.pdks := rfl
@[simp] theorem atCycle_vfEnable (t : Nat) : (atCycle t s).vfEnable = s.vfEnable := rfl
@[simp] theorem atCycle_numVfs (t : Nat) : (atCycle t s).numVfs = s.numVfs := rfl
@[simp] theorem atCycle_fns (t : Nat) : (atCycle t s).fns = s.fns := rfl
@[simp] theorem atCycle_pfEvents (t : Nat) : (atCycle t s).pfEvents = s.pfEvents := rfl
@[simp] theorem atCycle_pfLost (t : Nat) : (atCycle t s).pfLost = s.pfLost := rfl
@[simp] theorem atCycle_fbk (t : Nat) : (atCycle t s).fbk = s.fbk := rfl
@[simp] theorem atCycle_cores (t : Nat) : (atCycle t s).cores = s.cores := rfl
@[simp] theorem atCycle_meshes (t : Nat) : (atCycle t s).meshes = s.meshes := rfl
@[simp] theorem atCycle_links (t : Nat) : (atCycle t s).links = s.links := rfl
@[simp] theorem atCycle_sp (t : Nat) : (atCycle t s).sp = s.sp := rfl
@[simp] theorem atCycle_spEpoch (t : Nat) : (atCycle t s).spEpoch = s.spEpoch := rfl
@[simp] theorem atCycle_imem (t : Nat) : (atCycle t s).imem = s.imem := rfl
@[simp] theorem atCycle_rslot (t : Nat) : (atCycle t s).rslot = s.rslot := rfl
@[simp] theorem atCycle_tile (t : Nat) : (atCycle t s).tile = s.tile := rfl
@[simp] theorem atCycle_acc (t : Nat) : (atCycle t s).acc = s.acc := rfl
@[simp] theorem atCycle_shadow (t : Nat) : (atCycle t s).shadow = s.shadow := rfl
@[simp] theorem atCycle_desc (t : Nat) : (atCycle t s).desc = s.desc := rfl
@[simp] theorem atCycle_frameChk (t : Nat) : (atCycle t s).frameChk = s.frameChk := rfl
@[simp] theorem atCycle_ht (t : Nat) : (atCycle t s).ht = s.ht := rfl
@[simp] theorem atCycle_wlkDue (t : Nat) : (atCycle t s).wlkDue = s.wlkDue := rfl
@[simp] theorem atCycle_walkers (t : Nat) : (atCycle t s).walkers = s.walkers := rfl
@[simp] theorem atCycle_wlkDone (t : Nat) : (atCycle t s).wlkDone = s.wlkDone := rfl
@[simp] theorem atCycle_mcores (t : Nat) : (atCycle t s).mcores = s.mcores := rfl
@[simp] theorem atCycle_mslice (t : Nat) : (atCycle t s).mslice = s.mslice := rfl
@[simp] theorem atCycle_mblast (t : Nat) : (atCycle t s).mblast = s.mblast := rfl
@[simp] theorem atCycle_repairs (t : Nat) : (atCycle t s).repairs = s.repairs := rfl
@[simp] theorem atCycle_ctxs (t : Nat) : (atCycle t s).ctxs = s.ctxs := rfl
@[simp] theorem atCycle_fab (t : Nat) : (atCycle t s).fab = s.fab := rfl
@[simp] theorem atCycle_tlyQ (t : Nat) : (atCycle t s).tlyQ = s.tlyQ := rfl
@[simp] theorem atCycle_tlyWaits (t : Nat) : (atCycle t s).tlyWaits = s.tlyWaits := rfl
@[simp] theorem atCycle_whsQ (t : Nat) : (atCycle t s).whsQ = s.whsQ := rfl
@[simp] theorem atCycle_sends (t : Nat) : (atCycle t s).sends = s.sends := rfl
@[simp] theorem atCycle_rqs (t : Nat) : (atCycle t s).rqs = s.rqs := rfl
@[simp] theorem atCycle_spills (t : Nat) : (atCycle t s).spills = s.spills := rfl
@[simp] theorem atCycle_opens (t : Nat) : (atCycle t s).opens = s.opens := rfl
@[simp] theorem atCycle_landings (t : Nat) : (atCycle t s).landings = s.landings := rfl
@[simp] theorem atCycle_connLt (t : Nat) : (atCycle t s).connLt = s.connLt := rfl
@[simp] theorem atCycle_sidNext (t : Nat) : (atCycle t s).sidNext = s.sidNext := rfl
@[simp] theorem atCycle_ltkQ (t : Nat) : (atCycle t s).ltkQ = s.ltkQ := rfl
@[simp] theorem atCycle_ltkPaths (t : Nat) : (atCycle t s).ltkPaths = s.ltkPaths := rfl
@[simp] theorem atCycle_ltkRoutes (t : Nat) : (atCycle t s).ltkRoutes = s.ltkRoutes := rfl
@[simp] theorem atCycle_ltkPause (t : Nat) : (atCycle t s).ltkPause = s.ltkPause := rfl
@[simp] theorem atCycle_ptpGood (t : Nat) : (atCycle t s).ptpGood = s.ptpGood := rfl
@[simp] theorem atCycle_held (t : Nat) : (atCycle t s).held = s.held := rfl
@[simp] theorem atCycle_hostEnts (t : Nat) : (atCycle t s).hostEnts = s.hostEnts := rfl
@[simp] theorem atCycle_hrings (t : Nat) : (atCycle t s).hrings = s.hrings := rfl
@[simp] theorem atCycle_hostNext (t : Nat) : (atCycle t s).hostNext = s.hostNext := rfl
@[simp] theorem atCycle_aer (t : Nat) : (atCycle t s).aer = s.aer := rfl
@[simp] theorem atCycle_tcache (t : Nat) : (atCycle t s).tcache = s.tcache := rfl
@[simp] theorem atCycle_fabCyc (t : Nat) : (atCycle t s).fabCyc = s.fabCyc := rfl
@[simp] theorem atCycle_used (t : Nat) : (atCycle t s).used = s.used := rfl
@[simp] theorem atCycle_slotAt (t : Nat) : (atCycle t s).slotAt = s.slotAt := rfl
@[simp] theorem atCycle_capNext (t : Nat) : (atCycle t s).capNext = s.capNext := rfl
@[simp] theorem atCycle_ats (t : Nat) : (atCycle t s).ats = s.ats := rfl
@[simp] theorem atCycle_pageReqs (t : Nat) : (atCycle t s).pageReqs = s.pageReqs := rfl
@[simp] theorem atCycle_prgNext (t : Nat) : (atCycle t s).prgNext = s.prgNext := rfl
@[simp] theorem atCycle_atsInv (t : Nat) : (atCycle t s).atsInv = s.atsInv := rfl
@[simp] theorem atCycle_atsEn (t : Nat) : (atCycle t s).atsEn = s.atsEn := rfl
@[simp] theorem atCycle_priEn (t : Nat) : (atCycle t s).priEn = s.priEn := rfl
@[simp] theorem atCycle_priAlloc (t : Nat) : (atCycle t s).priAlloc = s.priAlloc := rfl
@[simp] theorem atCycle_winShare (t : Nat) : (atCycle t s).winShare = s.winShare := rfl
@[simp] theorem atCycle_sinks (t : Nat) : (atCycle t s).sinks = s.sinks := rfl
@[simp] theorem atCycle_scrubAt (t : Nat) : (atCycle t s).scrubAt = s.scrubAt := rfl
@[simp] theorem atCycle_mem (t : Nat) : (atCycle t s).mem = s.mem := rfl
@[simp] theorem atCycle_memEpoch (t : Nat) : (atCycle t s).memEpoch = s.memEpoch := rfl
@[simp] theorem atCycle_lines (t : Nat) : (atCycle t s).lines = s.lines := rfl
@[simp] theorem atCycle_pools (t : Nat) : (atCycle t s).pools = s.pools := rfl
@[simp] theorem atCycle_byrQ (t : Nat) : (atCycle t s).byrQ = s.byrQ := rfl
@[simp] theorem atCycle_byrCmd (t : Nat) : (atCycle t s).byrCmd = s.byrCmd := rfl
@[simp] theorem atCycle_tlyShadow (t : Nat) : (atCycle t s).tlyShadow = s.tlyShadow := rfl
@[simp] theorem atCycle_connShadow (t : Nat) : (atCycle t s).connShadow = s.connShadow := rfl
@[simp] theorem atCycle_watches (t : Nat) : (atCycle t s).watches = s.watches := rfl
@[simp] theorem atCycle_folds (t : Nat) : (atCycle t s).folds = s.folds := rfl
@[simp] theorem atCycle_keys (t : Nat) : (atCycle t s).keys = s.keys := rfl
@[simp] theorem atCycle_ration (t : Nat) : (atCycle t s).ration = s.ration := rfl
@[simp] theorem atCycle_pmTry (t : Nat) : (atCycle t s).pmTry = s.pmTry := rfl
@[simp] theorem atCycle_pldmQ (t : Nat) : (atCycle t s).pldmQ = s.pldmQ := rfl
@[simp] theorem atCycle_mgmt (t : Nat) : (atCycle t s).mgmt = s.mgmt := rfl
@[simp] theorem atCycle_pwr (t : Nat) : (atCycle t s).pwr = s.pwr := rfl
@[simp] theorem atCycle_cfg (t : Nat) : (atCycle t s).cfg = s.cfg := rfl
@[simp] theorem atCycle_tap (t : Nat) : (atCycle t s).tap = s.tap := rfl
@[simp] theorem atCycle_mwins (t : Nat) : (atCycle t s).mwins = s.mwins := rfl
@[simp] theorem atCycle_openAt (t : Nat) : (atCycle t s).openAt = s.openAt := rfl
@[simp] theorem atCycle_whsLands (t : Nat) : (atCycle t s).whsLands = s.whsLands := rfl
@[simp] theorem atCycle_accWaits (t : Nat) : (atCycle t s).accWaits = s.accWaits := rfl
@[simp] theorem atCycle_formAt (t : Nat) : (atCycle t s).formAt = s.formAt := rfl
@[simp] theorem atCycle_admSeq (t : Nat) : (atCycle t s).admSeq = s.admSeq := rfl
@[simp] theorem atCycle_spMark (t : Nat) : (atCycle t s).spMark = s.spMark := rfl
@[simp] theorem atCycle_bellLate (t : Nat) : (atCycle t s).bellLate = s.bellLate := rfl
@[simp] theorem atCycle_pending (t : Nat) : (atCycle t s).pending = s.pending := rfl
@[simp] theorem rdW_atCycle (t : Nat) (rb : Blk) (ri ro : Nat) : rdW (atCycle t s) rb ri ro = rdW s rb ri ro := rfl
@[simp] theorem rd_atCycle (t : Nat) (rf : Fld) (ri : Nat) : rd (atCycle t s) rf ri = rd s rf ri := rfl
@[simp] theorem rdB_atCycle (t : Nat) (rf : Fld) (ri : Nat) : rdB (atCycle t s) rf ri = rdB s rf ri := rfl

end

end Sys2Proof.Machine
end

