-- ==== Sys2Proof/Tests/Slice0.lean ====
section
/-! SUPPORT. Tests of one step each, an ill-formed command for each check of WellFormed, and for each statement with hypotheses a theorem
w_<statement> that shows, clause by clause, a concrete state and operands that meet them. -/

namespace Sys2Proof.Tests

open Sys2Proof Sys2Proof.Machine

-- one theorem after the other: each evaluates in the kernel
set_option Elab.async false

/-- Reset with the main domain powered and the package serving. -/
def up : State := wr SHP_PWRSTAT_state 0 2 (wr SHP_PWRSTAT_rails_en 0 1 State.reset)
/-- A queue entry of task 0 with slot word w. -/
def ent (w : Nat) : QEnt :=
  { disp := 0, bun := 0, task := 0, pc := 0, slot := w, vals := [], started := false, passed := false, startCyc := 0,
    committed := false, prog := 0, prog2 := 0, answered := false, ans := [], abandoned := false, got := [], load := [],
    turn := 0, mark := false, part := 0, fail := [] }
/-- The register at an offset of a block. -/
def reg (b : Blk) (o : Nat) : RegD := ((regAt b o).map Prod.fst).getD ⟨0, 0, 0, 0, 0, 0, []⟩
/-- The package serves, the link is up and the PF answers. -/
def hostUp : State :=
  wr PST_MEMMAP_usable_gib 10 24 ((fnMod 0 (fun x => { x with memEn := true }) (wr HST_LINK_state 0 0 up)))
/-- Paddock 0 is being created: a plot of 1 by 2 cores, its VF enabled. -/
def creating : State :=
  wr PDK_GEOM_pw 0 1 (wr PDK_GEOM_ph 0 2 (pdkMod 0 (fun x => { x with cmd := 1 }) { up with vfEnable := true, numVfs := 1 }))
/-- An MSH.PUT bound to context 0 that has started. -/
def strmEnt : QEnt := { ent (0x01 * 2 ^ 56 + 2 ^ 36) with started := true }
/-- Core 0 with context 0 and its first buffer free. -/
def strmReady : State :=
  cwr DRV_SHAPE_n0 0 64 (cwr DRV_SHAPE_n1 0 1 (cwr DRV_SHAPE_n2 0 1 (cwr DRV_SHAPE_n3 0 1 (cwr DRV_BUF_bsize 0 64 (cwr DRV_CTXCFG_dir 0 1 up)))))
def strmCore : State := coreMod 0 (fun x => { x with cyc := 9, qx := [strmEnt] }) strmReady
def heldMesh : State := meshMod 0 (fun m => { m with running := true, hSched := true, exts := List.replicate 29 true, fresh := false }) up
/-- A request in the fabric. -/
def fx : Xact :=
  { wr := false, brand := 1, die := 10, gidx := 0x1FFFF, root := 64, va := 0, pa := 0, len := 8, data := [], pf := [], deadline := 0, stage := 0, host := false, status := 0, bad := [], inv := false, invTags := [], stale := false, ret := .bar 0 7 }
/-- Context 0 of core 0 armed, with a chunk to read. -/
def formCtx : State :=
  cwr DRV_CTXSTAT_state 0 1 (cwr DRV_SHAPE_n0 0 64 (cwr DRV_SHAPE_n1 0 1 (cwr DRV_SHAPE_n2 0 1 (cwr DRV_SHAPE_n3 0 1 (cwr DRV_BUF_bsize 0 64
    (ctxMod 0 (fun c => { c with used := true }) up))))))
def grantable : State := { setCap 0 16 hostUp with fab := [{ fx with stage := 1 }] }
/-- A message from core 0 to core 1 of paddock 0, in flight. -/
def wm0 : WMsg :=
  { kind := 0, src := 0, srcIdx := 0, stask := 0, dst := 1, conn := false, entry := 0, sentry := 0, tag := 0, e := 0, q := 0, len := 8,
    payload := [1, 2, 3, 4, 5, 6, 7, 8], brand := 0x10, sid := 0, lt := [] }
/-- A message of wm0 spilled at queue 0 of core 0. -/
def wsp0 : WSpill := { msg := wm0, win := 0, notify := false, q := 0, die := 0, pool := 0, buf := 0 }
/-- Core 1 is of the brand of paddock 0. -/
def pad1 : State := wr (GAT_CORE_owner.ix (coreLocal 1)) 0 0x10 up
/-- Core 0 and block 0 of the package's Tally unit are of the brand of paddock 0. -/
def tpad0 : State := wr (GAT_KTLY_owner.ix 0) 11 0x10 (wr (GAT_CORE_owner.ix (coreLocal 0)) 0 0x10 up)
/-- Core 0 alone is of the brand of paddock 0. -/
def tpad1 : State := wr (GAT_CORE_owner.ix (coreLocal 0)) 0 0x10 up
/-- An add of 5 to counter 0 of the package's Tally unit, by brand 0. -/
def tk0 : TPkt := { op := 0, unit := 11, idx := 0, val := 5, cond := 0, extra := [], brand := 0, die := 10, ret := [0] }
/-- Paddock 0 has no cores and reloads: its golden block is the END record alone. -/
def foldReloading : State :=
  { wr PST_MEMMAP_usable_gib 10 24 up with
      folds := [(0, { foldReset with job := 6, written := [0] })], lines := [(256, 1)],
      mem := [(16384, 0), (16385, 0), (16386, 0), (16387, 0), (16388, 0), (16389, 0), (16390, 0), (16391, 15)] }
/-- A held host write of paddock 0. -/
def hold1 : Hold := { n := 0, epoch := 0, kind := 1, args := [64, 0, 0, 4], data := [1, 2, 3, 4], space := 64 }
/-- Core 0 belongs to serving paddock 0, and the Walker's slice of die 0 has frames left. -/
def walking : State :=
  wr (GAT_CORE_owner.ix (coreLocal 0)) 0 0x10 (wr PDK_STATUS_state 0 3 (walkerMod 0 (fun x => { x with on := true, left := 4 }) up))
/-- A reload of frame 0 of physical core 0 is due; the golden record of one core with a frame of zeros stands in memory. -/
def reloadDue : State :=
  { wr PDK_GEOM_pw 0 1 (wr PDK_GEOM_ph 0 1 (wr PST_MEMMAP_usable_gib 10 24 walking)) with
      folds := [(0, { foldReset with has := true })], wlkDue := [(0, 0)], lines := [(256, 1), (257, 1), (258, 1)],
      mem := ((List.range 144).zip ((goldFrame 4 0 0 0 (List.replicate 128 0)).map (BitVec.ofNat 8))).map (fun x => (16384 + x.1, x.2)) }
/-- No grant and no inlet value for 1,000 ticks. -/
def staleRation : State := wr RTN_CFG_stale_bt 0 4 (ratMod (fun r => { r with grantAge := 1000, inletAge := 1000 }) up)
/-- An empty record. -/
def fbr0 : FbkRec := ⟨0, 0, 0, 0, 0, 0, 0, 0, 0⟩
/-- Core 0 of paddock 0 has a full trace line. -/
def tline : List Nat := [1, 2, 3]
def tracing : State := coreMod 0 (fun c => { c with trLines := [tline] }) (wr (GAT_CORE_owner.ix (coreLocal 0)) 0 0x10 up)
/-- Slot 0 of bank A holds a record of zeros with sequence number 0. -/
def found0 : State :=
  fbkMod (fun b => { b with slots := [(0, [0, 0, 0, 0, 0, 0, 0, crc32c (List.replicate 56 0) + 0xA5A5A5A5 * 2 ^ 32])] }) up
/-- A submission entry of the PF in ring 0, fetched. -/
def hent : HEnt := { f := 0, k := 0, idx := 0, words := [0, 0, 0, 0, 0, 0, 0, 0], st := 0, status := 0, res := 0, buf := [], order := 0 }
/-- A STREAM entry: far context 0 with 64 bytes of one element each. -/
def strent : HEnt := { hent with words := [5, 0, 0, 64 + 2 ^ 16 + 2 ^ 32 + 2 ^ 48, 0, 0, 0, 512] }
/-- The PF has a completion, a fault and an event ring. -/
def hostCq : State := ringConfigure 0 3 0 1 (ringConfigure 0 2 0 1 (ringConfigure 0 1 0 1 up))
/-- Longtrack: port 0 is up, path 0 valid and alive, route 0 live over it. -/
def ltkUp : State :=
  wr LTK_PSTAT_up 0 1 (wr LTK_PCFG_admin_up 0 1 (wr SHP_CLKSTAT_valid 0 15 (ptSet LTK_PATH0_valid 0 1 (ptSet LTK_PATH0_alive 0 1
    (ptSet LTK_PATH1_peer_id 0 5 (ptSet LTK_PATH2_peer_ip 0 6 (ptSet LTK_PATH3_peer_ip 0 7 (rtSet LTK_ROUTE0_valid 0 1 up))))))))
/-- Packet 0 of route 0, sent on path 0. -/
def pkt0 : LPkt := { route := 0, seq := 0, op := 0, body := [], data := [], ret := [], path := 0, first := 1, last := 1 }
/-- A write of a stream of route 0 is in the fabric. -/
def ltkStreaming : State :=
  { ltkUp with fab := [{ wr := true, brand := 1, die := 10, gidx := 0x1FFFF, root := 64, va := 0, pa := 0, len := 8, data := [], pf := [],
                         deadline := 0, stage := 0, host := false, status := 0, bad := [], inv := false, invTags := [], stale := false,
                         ret := .ltk [0] }] }
/-- Reset with the auxiliary supply good, the cold reset released and the package serving. -/
def served : State := { up with pwr := { up.pwr with vaux := true, cold := false } }
/-- An update by the agent of binding 0 stands at step u with component 1 in the table. -/
def updating (u : Nat) : State := { served with mgmt := { served.mgmt with upd := u, agent := 1, table := [1], comp := 1, size := 100 } }
/-- An SPDM negotiation has come to step n. -/
def spdmAt (n : Nat) : State := { served with mgmt := { served.mgmt with spdm := n } }
/-- An event that has not been sent. -/
def plev : PldmEv := { words := [1], attempts := 0, sentAt := 0, acked := false }
/-- One event is held for a receiver. -/
def evented : State := { served with mgmt := { served.mgmt with evRecv := 1 }, pldmQ := [plev] }
/-- VAUX is good and K0 is out of its cold reset. -/
def alive0 : State := { up with pwr := { up.pwr with vaux := true, cold := false } }
/-- Start-up has come to step n (package state 1). -/
def starting (n : Nat) : State := wr SHP_PWRSTAT_step 0 n (wr SHP_PWRSTAT_state 0 1 alive0)
/-- The package is in state x. -/
def pkgIn (x : Nat) : State := wr SHP_PWRSTAT_state 0 x alive0
/-- An owner digest is set. -/
def owned : State := { served with mgmt := { served.mgmt with owner := [1, 2, 3, 4, 5, 6] } }
/-- The fused security version is 5, the images in both slots are of version 0. -/
def fused : State := { served with mgmt := { served.mgmt with fusedSvn := 5, slotA := { served.mgmt.slotA with fsvn := 0, lsvn := 0 } } }
/-- Task 0 of core 0 runs. -/
def busyLea : State := wr (LEA_TSTAT_state.ix 0) 0 1 up

theorem test_ill_formed_1 : ([
    .registerWrite 256 0 0 4 0 0 0, .registerWrite 0 16 0 4 0 0 0, .registerWrite 0 0 0x1000000 4 0 0 0, .registerWrite 0 0 0 3 0 0 0,
    .rcRead 256 0 0 1 0, .rcRead 0 16 0 1 0, .rcRead 0 0 0x1000000 1 0, .rcRead 0 0 0 0 0, .pdkCreate 64, .pdkDelete 64, .pdkRegather 64,
    .regatherDrainEnd 64 0, .regatherClearDone 64, .pdkVecWrite 64 0 0, .pdkVecWrite 0 16 0, .sriovVfEnableChange false 65, .bundleIssue 2048,
    .taskStart 2048 0, .taskStart 0 4, .taskResume 2048 0, .taskResume 0 4, .taskStop 2048 0, .taskStop 0 4, .matWld 2048, .matMma 2048,
    .matMms 2048, .matMmt 2048, .mOpComplete 2048, .residueCheck 2048, .vecUn 2048, .vecBin 2048, .vecBins 2048, .vecRed 2048, .vecFill 2048,
    .vecEpi 2048, .vecAccld 2048, .vOpComplete 2048, .vwdataWrite 256 0 0 0, .vwdataWrite 0 2048 0 0, .vwdataWrite 0 0 8 0,
    .spWordServe 2048 false 0 0, .spWordServe 0 false 32 0, .spWordServe 0 false 0 3, .spEccWriteback 2048 0, .spEccWriteback 0 131072] : List Instr).all (fun i => !i.wf) = true := by decide +kernel
theorem test_ill_formed_2 : ([
    .spWindowAccess 256 0 false 0 1 [], .spWindowAccess 0 2048 false 0 1 [], .spWindowAccess 0 0 false 0x100000 1 [],
    .spWindowAccess 0 0 false 0 0 [], .spWindowAccess 0 0 false 0 513 [], .spbselWrite 2048 0, .routeSlot 64, .holdConditionMet 2048, .hurdleHeld 64,
    .longHold 64, .mshPut 2048, .mshGet 2048, .mshDrop 2048, .mshCommit 2048 0, .mshCommit 0 2, .xOpComplete 2048 0, .xOpComplete 0 5,
    .mshRpdataAccess 256 0 false 0, .mshRpdataAccess 0 2048 false 0, .strmAcq 2048, .strmRel 2048, .strmResume 2048, .strmRearm 2048,
    .drvArm 2050 0 0, .drvArm 0 32 0, .drvHalt 2050 0, .drvHalt 0 32, .drvResume 2050 0, .drvResume 0 32, .drvRearm 2050 0, .drvRearm 0 32,
    .rearmTakeEffect 2050 0 0, .rearmTakeEffect 0 32 0, .drvRequestForm 2050 0, .shareGrant 26 0, .memoryScrub 24, .bar0Access 0 65 0 false 0 1 0 0,
    .bar0Access 0 0 0 false 0 0 0 0, .bar0Access 0 0 0 false 0x4000000 1 0 0, .bar2Access 0 false 0 0 [], .bar2Access 0 false (2 ^ 40) 1 [],
    .translationCompletion 0 3 0 0 false false, .prgResponse 512 0, .invalidateRequest 0 (2 ^ 21) 0 0, .whsSend 2048] : List Instr).all (fun i => !i.wf) = true := by decide +kernel
theorem test_ill_formed_3 : ([
    .whsCsend 2048, .whsOpen 2048, .whsListen 2048, .whsClose 2048, .whsRecv 2048, .spillDrain 2048 0, .spillDrain 0 16, .whistleResend 2048 0 0,
    .whsRqpop 2048 0, .tlySig 2048, .tlyWait 2048, .tlyWatch 2048, .tlyRead 2048, .tlyUnwatch 2048, .tlyCntWrite 9 0 0, .tlyCntWrite 0 4096 0,
    .tlyAddWrite 9 0 0, .tlyAddWrite 0 4096 0, .tlyWatchCancel 9 0, .tlyWatchCancel 0 1024, .byrGet 2048, .byrPut 2048, .byrHget 256 0 0,
    .byrHget 0 2 0, .byrHput 2 0, .byreCreate 2 0, .byreCreate 0 256, .byreCreateDone 2, .byreDestroy 2 0, .byreDestroy 0 256, .byreRebuild 2 0,
    .byreRebuild 0 256, .byreRebuildDone 2 0, .byreRebuildDone 0 256, .byreAudit 2 0, .byreAudit 0 256, .byreAuditDone 2, .fldLoad 64, .hstFolddb 64,
    .fldSwap 64 0, .fldSwap 0 16, .fldVerify 64, .foldLoadDone 64, .goldenDone 64, .swapPlayDone 64] : List Instr).all (fun i => !i.wf) = true := by decide +kernel
theorem test_ill_formed_4 : ([
    .swapDropped 64, .foldReloadDone 64, .epochClose 64, .epochDecide 64, .quench 64, .quenchDrainEnd 64, .drainSend 64, .copyPrepared 64,
    .copyCommit 64, .failover 64, .failoverRestoreDone 64, .failOverNow 64, .rePair 64, .unpair 64, .walkerFrameRead 8, .walkerReload 8 false,
    .walkerSliceEnd 8, .musterRound 8, .musterCoreTestEnd 17 false 0, .musterCoreTestEnd 0 false 16, .musterSliceEnd 37 false, .musterSliceYield 37,
    .musterStarved 37, .grant 65536 false, .inlet 65536 false, .ftfMark 2048, .traceLineDeliver 2048, .flush 64, .release 64, .dump 64 false,
    .dumpDone 64, .sinkResume 64, .crookStopDone 64, .ringConfigure 65 0 0 0, .ringConfigure 0 4 0 0, .ringConfigure 0 0 8 0,
    .submissionDoorbell 65 0 0, .submissionDoorbell 0 8 0, .submissionDoorbell 0 0 (2 ^ 20), .headDoorbell 65 1 0 0, .headDoorbell 0 0 0 0,
    .headDoorbell 0 4 0 0, .headDoorbell 0 1 8 0, .headDoorbell 0 1 0 (2 ^ 20), .submissionFetch 65 0 []] : List Instr).all (fun i => !i.wf) = true := by decide +kernel
theorem test_ill_formed_5 : ([
    .submissionFetch 0 8 [], .stageGetRetry 65 0 [], .stageGetRetry 0 8 [], .nop 65 0, .nop 0 8, .sqFence 65 0, .sqFence 0 8, .tadd 65 0, .tadd 0 8,
    .twait 65 0, .twait 0 8, .rearm 65 0, .rearm 0 8, .stream 65 0, .stream 0 8, .fold 65 0, .fold 0 8, .completionPost 65 0 0,
    .completionPost 0 8 0, .faultRecordPost 65, .vfFlr 64, .linkUp 0 0 4 false, .linkUp 0 7 4 false, .linkUp 0 1 3 false, .d3hotEntry 65,
    .d0Return 65, .configRequest 0 65 0 false 0 0 0, .configRequest 0 0 0 false 4096 0 0, .configRequest 0 0 0 false 2 0 0,
    .configRequest 0 0 0 false 0 16 0, .ethPortUp 8, .ethPortDown 8, .keepaliveSend 256 0, .keepalive 8 0 0 0 0, .pathDeadTimeout 256 0,
    .data 8 0 0 0 0 0 0 0 [] [], .data 0 0 0 0 2048 0 0 0 [] [], .data 0 0 0 0 0 256 0 0 [] [], .ack 8 0 0 0 0 0 0 false,
    .ack 0 0 0 0 0 2048 0 false, .refuse 8 0 0 0 0 0 0 0 0, .refuse 0 0 0 0 0 2048 0 0 0, .frameDrop 8, .routeTimeout 2048 0, .routeWord0Write 2048 0] : List Instr).all (fun i => !i.wf) = true := by decide +kernel
theorem test_ill_formed_6 : ([
    .pfcFrame 8 0 0 [], .pfcFrame 0 0 256 [], .setEndpointId 3 0 0, .getEndpointId 3, .getEndpointUuid 3, .getMctpVersionSupport 3 0,
    .getMessageTypeSupport 3, .mctpResponseDrop 3, .gettid 3, .settid 3 0, .getpldmversion 3 0, .getpldmtypes 3, .getpldmcommands 3 0,
    .seteventreceiver 3 0 0, .geteventreceiver 3, .getsensorreading 3 0, .getsensorreading 0 65536, .getstatesensorreadings 3 0,
    .getstatesensorreadings 0 65536, .setstateeffecterstates 3 0 0, .getpdrrepositoryinfo 3, .getpdr 3 0, .getdatetime 3, .setdatetime 3 0 0 0 0 0 0,
    .querydeviceidentifiers 3, .getfirmwareparameters 3, .requestupdate 3, .passcomponenttable 3 0 false, .updatecomponent 3 0 0 0 0 0,
    .requestfirmwaredata 3 0 false, .activatefirmware 3 false, .getstatus 3, .cancelupdatecomponent 3, .cancelupdate 3, .getVersion 3,
    .getCapabilities 3, .negotiateAlgorithms 3 0 0, .getDigests 3, .getCertificate 3 0 0 0, .challenge 3 0, .getMeasurements 3 0 false,
    .spdmUnsupportedRequest 3, .clockValid 0 4 0, .clockLoss 0 4, .railPowerGood 0 9 0] : List Instr).all (fun i => !i.wf) = true := by decide +kernel
theorem test_ill_formed_7 : ([
    .railPowerGood 0 0 65536, .memoryTrainingDone 3 (List.replicate 24 0) false [], .memoryTrainingDone 4 (List.replicate 24 3) false [], .memoryTrainingDone 4 [] false [], .shutDown 0 0 0 false, .shutDown 0 7 0 false,
    .shutDown 0 1 9 false, .pdkCommandDone 64, .bankControllerFault 2, .byreReclaimDone 2 0, .byreReclaimDone 0 256, .foldVerifyDone 64,
    .smbusSclLowTimeout 2, .pmbusRetry 9 false 0 0, .pmbusRetry 0 false 65536 0, .pmbusRetry 0 false 0 65536] : List Instr).all (fun i => !i.wf) = true := by decide +kernel
theorem test_well_formed_1 : ([
    .registerWrite 0 0 0 4 0 0 0, .rcRead 0 0 0 1 0, .pdkCreate 0, .pdkDelete 0, .pdkRegather 0, .regatherDrainEnd 0 0, .regatherClearDone 0,
    .pdkVecWrite 0 0 0, .sriovVfEnableChange false 0, .bundleIssue 0, .taskStart 0 0, .taskResume 0 0, .taskStop 0 0, .matWld 0, .matMma 0,
    .matMms 0, .matMmt 0, .mOpComplete 0, .residueCheck 0, .vecUn 0, .vecBin 0, .vecBins 0, .vecRed 0, .vecFill 0, .vecEpi 0, .vecAccld 0,
    .vOpComplete 0, .vwdataWrite 0 0 0 0, .spWordServe 0 false 0 0, .spEccWriteback 0 0, .spWindowAccess 0 0 false 0 1 [], .spbselWrite 0 0,
    .routeSlot 0, .holdConditionMet 0, .hurdleHeld 0, .longHold 0, .mshPut 0, .mshGet 0, .mshDrop 0, .mshCommit 0 0, .xOpComplete 0 0,
    .mshRpdataAccess 0 0 false 0, .strmAcq 0, .strmRel 0, .strmResume 0, .strmRearm 0, .drvArm 0 0 0, .drvHalt 0 0, .drvResume 0 0, .drvRearm 0 0,
    .rearmTakeEffect 0 0 0, .drvRequestForm 0 0, .shareGrant 0 0, .memoryScrub 0, .bar0Access 0 0 0 false 0 1 0 0, .bar2Access 0 false 0 1 [],
    .translationCompletion 0 0 0 0 false false, .prgResponse 0 0, .invalidateRequest 0 0 0 0, .whsSend 0] : List Instr).all (fun i => i.wf) = true := by decide +kernel
theorem test_well_formed_2 : ([
    .whsCsend 0, .whsOpen 0, .whsListen 0, .whsClose 0, .whsRecv 0, .spillDrain 0 0, .whistleResend 0 0 0, .whsRqpop 0 0, .tlySig 0, .tlyWait 0,
    .tlyWatch 0, .tlyRead 0, .tlyUnwatch 0, .tlyCntWrite 0 0 0, .tlyAddWrite 0 0 0, .tlyWatchCancel 0 0, .byrGet 0, .byrPut 0, .byrHget 0 0 0,
    .byrHput 0 0, .byreCreate 0 0, .byreCreateDone 0, .byreDestroy 0 0, .byreRebuild 0 0, .byreRebuildDone 0 0, .byreAudit 0 0, .byreAuditDone 0,
    .fldLoad 0, .hstFolddb 0, .fldSwap 0 0, .fldVerify 0, .foldLoadDone 0, .goldenDone 0, .swapPlayDone 0, .swapDropped 0, .foldReloadDone 0,
    .epochClose 0, .epochDecide 0, .quench 0, .quenchDrainEnd 0, .drainSend 0, .copyPrepared 0, .copyCommit 0, .failover 0, .failoverRestoreDone 0,
    .failOverNow 0, .rePair 0, .unpair 0, .walkerFrameRead 0, .walkerReload 0 false, .walkerSliceEnd 0, .musterRound 0, .musterCoreTestEnd 0 false 0,
    .musterSliceEnd 0 false, .musterSliceYield 0, .musterStarved 0, .grant 0 false, .inlet 0 false, .ftfMark 0, .traceLineDeliver 0] : List Instr).all (fun i => i.wf) = true := by decide +kernel
theorem test_well_formed_3 : ([
    .flush 0, .release 0, .dump 0 false, .dumpDone 0, .sinkResume 0, .crookStopDone 0, .ringConfigure 0 0 0 0, .submissionDoorbell 0 0 0,
    .headDoorbell 0 1 0 0, .submissionFetch 0 0 [], .stageGetRetry 0 0 [], .nop 0 0, .sqFence 0 0, .tadd 0 0, .twait 0 0, .rearm 0 0, .stream 0 0,
    .fold 0 0, .completionPost 0 0 0, .faultRecordPost 0, .vfFlr 0, .linkUp 0 1 4 false, .d3hotEntry 0, .d0Return 0,
    .configRequest 0 0 0 false 0 0 0, .ethPortUp 0, .ethPortDown 0, .keepaliveSend 0 0, .keepalive 0 0 0 0 0, .pathDeadTimeout 0 0,
    .data 0 0 0 0 0 0 0 0 [] [], .ack 0 0 0 0 0 0 0 false, .refuse 0 0 0 0 0 0 0 0 0, .frameDrop 0, .routeTimeout 0 0, .routeWord0Write 0 0,
    .pfcFrame 0 0 0 [], .setEndpointId 0 0 0, .getEndpointId 0, .getEndpointUuid 0, .getMctpVersionSupport 0 0, .getMessageTypeSupport 0,
    .mctpResponseDrop 0, .gettid 0, .settid 0 0, .getpldmversion 0 0, .getpldmtypes 0, .getpldmcommands 0 0, .seteventreceiver 0 0 0,
    .geteventreceiver 0, .getsensorreading 0 0, .getstatesensorreadings 0 0, .setstateeffecterstates 0 0 0, .getpdrrepositoryinfo 0, .getpdr 0 0,
    .getdatetime 0, .setdatetime 0 0 0 0 0 0 0, .querydeviceidentifiers 0, .getfirmwareparameters 0, .requestupdate 0] : List Instr).all (fun i => i.wf) = true := by decide +kernel
theorem test_well_formed_4 : ([
    .passcomponenttable 0 0 false, .updatecomponent 0 0 0 0 0 0, .requestfirmwaredata 0 0 false, .activatefirmware 0 false, .getstatus 0,
    .cancelupdatecomponent 0, .cancelupdate 0, .getVersion 0, .getCapabilities 0, .negotiateAlgorithms 0 0 0, .getDigests 0, .getCertificate 0 0 0 0,
    .challenge 0 0, .getMeasurements 0 0 false, .spdmUnsupportedRequest 0, .clockValid 0 0 0, .clockLoss 0 0, .railPowerGood 0 0 0,
    .memoryTrainingDone 4 (List.replicate 24 0) false [], .shutDown 0 1 0 false, .pdkCommandDone 0, .bankControllerFault 0, .byreReclaimDone 0 0, .foldVerifyDone 0,
    .smbusSclLowTimeout 0, .pmbusRetry 0 false 0 0] : List Instr).all (fun i => i.wf) = true := by decide +kernel

/-- What a command leaves, where it leaves a next state. -/
def after (c : Instr) (s : State) (p : State → Bool) : Bool :=
  match exec c s with
  | .next t => p t
  | _ => false

/-- R811: IDCODE reads 0x247129A7. -/
theorem test_idcode : after .idcode alive0 (fun t => (t.outbox.head?.map (fun o => o.args)) == some [2, 0x247129A7]) = true := by decide +kernel
/-- R812: EXTEST in Serving acts as BYPASS and is noted; in Standby it is taken. -/
theorem test_extest_serving : after (.extest 1 0 0 0) alive0 (fun t => t.tap.ir == 0 && rdB t SHP_STRAP_scan_refused 0) = true := by decide +kernel
theorem test_extest_standby : after (.extest 1 0 0 0) (pkgIn 3) (fun t => t.tap.ir == 3 && !rdB t SHP_STRAP_scan_refused 0) = true := by decide +kernel
/-- R735: the second SET_OWNER answers result 3. -/
theorem test_owner_twice : after .setOwner owned (fun t => rd t SHP_MBSTAT_result 0 == 3 && t.mgmt.owner == owned.mgmt.owner) = true := by decide +kernel
/-- R768, R769: standby from Serving with every paddock Free is accepted, wake out of Serving answers 3. -/
theorem test_standby : after .standby up (fun t => rd t SHP_PWRSTAT_cmd_result 0 == 0 && t.pwr.standby) = true := by decide +kernel
theorem test_wake_serving : after (.wake 0 0) up (fun t => rd t SHP_PWRSTAT_cmd_result 0 == 3) = true := by decide +kernel
/-- R56, R64: a 32-bit write to a 64-bit register is refused with reason width (2) and counted. -/
theorem test_narrow_write : (let t := regWrite 0 .pdk 0 0x200 4 1 0 0 up; rd t (hdr .pdk HDR_REFUSE_reason) 0 = 2 ∧ rd t (hdr .pdk HDR_REFCNT_count) 0 = 1 ∧ rdW t .pdk 0 0x200 = rdW up .pdk 0 0x200) := by decide +kernel
/-- R130: starting a halted task makes it run; starting it again changes nothing. -/
theorem test_task_start : after (.taskStart 0 1) up (fun t => taskState t 0 1 == 1) = true := by decide +kernel
theorem test_task_start_running : after (.taskStart 0 0) busyLea (fun t => t.cores == busyLea.cores) = true := by decide +kernel
/-- R424: an add to a counter in place. -/
theorem test_tally_add : after (.tlyAddWrite 11 0 7) up (fun t => tlyCnt t 11 0 == 7) = true := by decide +kernel
/-- R449: a create of a pool with no buffers is refused. -/
theorem test_byre_create_empty : after (.byreCreate 0 0) up (fun t => !rdB t BYR_CMDSTAT_busy 0) = true := by decide +kernel
/-- R205: conversions by hand: 1.5 in FP16 is 0x3E00; 448 is the largest E4M3 value, 0x7E. -/
theorem test_fp16_one_and_a_half : (fvEncode fmtFP16 false (.num false 3 (-1))).1 = 0x3E00 := by decide +kernel
theorem test_e4m3_max : (fvEncode fmtE4M3 false (.num false 448 0)).1 = 0x7E := by decide +kernel
/-- Round to nearest, ties to even: 2049 in FP16 is 2048. -/
theorem test_fp16_tie : (fvEncode fmtFP16 false (.num false 2049 0)).1 = (fvEncode fmtFP16 false (.num false 2048 0)).1 := by decide +kernel

/-- The hypotheses of StepKeepsInv are met at reset and at a state in use. -/
theorem w_stepKeepsInv : Inv State.reset ∧ ∃ t, step { State.reset with pending := [.standby] } = .next t :=
  ⟨⟨by decide, by decide, by decide, by decide⟩, _, rfl⟩
theorem w_stepKeepsInv_up : Registers.wf up = true ∧ Memory.wf up = true ∧ up.bell.cal.length ≤ 256 ∧ up.fbk.staging.length ≤ 64 := by decide +kernel
theorem w_queueIsTheSenders : ∃ t, exec .standby up = .next t := ⟨_, rfl⟩
theorem w_timeNeverRunsBack : ∃ t, exec (.bellEdge 9) up = .next t := ⟨_, rfl⟩

theorem w_ownerIsSetOnce_first : rdB served SHP_MBSTAT_busy 0 = false ∧ answers served 1 = true ∧ activating served = false ∧
    served.mgmt.owner = [] := by decide +kernel
theorem w_ownerIsSetOnce_again : rdB owned SHP_MBSTAT_busy 0 = false ∧ answers owned 1 = true ∧ activating owned = false ∧
    owned.mgmt.owner ≠ [] := by decide +kernel
theorem w_ownerIsSetOnce_always : ∃ t, exec .standby owned = .next t ∧ owned.mgmt.owner ≠ [] := ⟨_, rfl, by decide⟩

theorem w_fusedVersionOnlyRises_step : ∃ t, exec .standby served = .next t := ⟨_, rfl⟩
theorem w_fusedVersionOnlyRises_image : (slotOf fused 0).fsvn < fused.mgmt.fusedSvn ∧ (slotOf fused 0).lsvn < fused.mgmt.fusedSvn := by decide +kernel

theorem w_landDrivers_in : tapOn (pkgIn 6) = true ∧ (pwrState (pkgIn 6) = 0 ∨ pwrState (pkgIn 6) = 6 ∨ pwrState (pkgIn 6) = 3) := by decide +kernel
theorem w_landDrivers_out : tapOn alive0 = true ∧ ¬ (pwrState alive0 = 0 ∨ pwrState alive0 = 6 ∨ pwrState alive0 = 3) := by decide +kernel

theorem w_accessCodes : (regAt .cul 0x18).isSome = true := by decide +kernel

theorem w_reservedOffsets : ∀ k, k < 4 → regAt .cul (0x3000 + k) = none := by decide +kernel

theorem w_gateRefusal : let v := accFlush (atTime 5 up)
  Registers.wf v = true ∧ (11 < 11 → mainPowered v = true) ∧ csrGate v 0x12 11 0x400018 4 true ≠ 0 := by decide +kernel

theorem w_refusedWrite : (regJudge busyLea .lea 0 0x20 (reg .lea 0x20) (partData 0x20 0x20 (reg .lea 0x20) 1)).isSome = true ∧
    touched .lea 0x20 4 = [(reg .lea 0x20, 0x20)] ∧ widthOk 0x20 4 [(reg .lea 0x20, 0x20)] = true ∧ Registers.wf busyLea = true := by decide +kernel

theorem w_memoryReads : Memory.wf up = true := by decide +kernel

theorem w_answers : ∃ t, exec (.gettid 0) served = .next t := ⟨_, rfl⟩

theorem w_coreOperations : ∃ t, exec (.taskStart 0 0) up = .next t := ⟨_, rfl⟩

theorem w_testAccess : Registers.wf alive0 = true ∧ ∃ t, exec .idcode alive0 = .next t := ⟨by decide +kernel, _, rfl⟩

theorem w_standbyNeeds : pdkState (wr PDK_STATUS_state 3 5 up) 3 = 5 := by decide +kernel

theorem w_narrowWrite : (reg .pdk 0x200).width = 64 ∧ touched .pdk 0x200 4 = [(reg .pdk 0x200, 0x200)] ∧ ¬ (Blk.pdk = .shp ∧ 0x200 < 8) ∧
    ¬ (Blk.pdk = .msh ∧ 0x200 = 0x14) ∧ 0x200 < hdrBase .pdk ∧ Registers.wf up = true ∧ rdB up (hdr .pdk HDR_REFUSE_refused) 0 = false := by decide +kernel

theorem w_registerAccessesComplete :
    (let s : State := up; let brand : Nat := 0; let die : Nat := 11; let off : Nat := 0x400018; let size : Nat := 4; let data : Word := 0; let t : Nat := 5; let b : Blk := .cul; let inst : Nat := 0; let o : Nat := 0x18; let r : RegD := reg .cul 0x18; let v := accFlush (atTime t s); ((die < 11 → mainPowered v = true)) ∧ (csrGate v brand die off size true = 0) ∧ (csrWaits v brand die off = false) ∧ (csrPlace v die off = some (b, inst, o)) ∧ (b ≠ .shp) ∧ (touched b o size = [(r, o)]) ∧ (widthOk o size [(r, o)] = true) ∧ (regJudge v b inst o r (partData o o r data) = none)) ∧
    (let s : State := up; let brand : Nat := 0; let die : Nat := 11; let off : Nat := 0x400018; let len : Nat := 4; let t : Nat := 5; let b : Blk := .cul; let inst : Nat := 0; let o : Nat := 0x18; let v := accFlush (atTime t s); ((die < 11 → mainPowered v = true)) ∧ (csrGate v brand die off len false = 0) ∧ (csrWaits v brand die off = false) ∧ (csrPlace v die off = some (b, inst, o))) ∧
    (let s : State := up; let brand : Nat := 0; let c : Nat := 0; let write : Bool := false; let p : Nat := 0; let v := accFlush s; let d := coreDie (c % 2048); let o := coreLocal (c % 2048) * 0x8000 + 0x1014; (mainPowered v = true) ∧ (csrGate v brand d o 4 write = 0) ∧ (csrWaits v brand d o = false) ∧ (csrPlace v d o = some (.msh, p, 0x14))) ∧
    (let s : State := hostUp; let t : Nat := 0; let f : Nat := 0; let write : Bool := false; let off : Nat := 0x200; let len : Nat := 4; let data : Word := 0; let draw : Nat := 0; let die : Nat := 11; let o : Nat := 0x200; let bs : List Nat := [0, 0, 0, 0]; let u := atTime t s; let v := accFlush u; (fnReached u f = true) ∧ (len ≠ 0) ∧ (off + len ≤ (if f = 0 then 0x4000000 else 0x1000000)) ∧ ((fnGet u f).memEn = true) ∧ ((fnGet u f).d3 = false) ∧ ((f ≠ 0 → pdkClosed u (f - 1) = false)) ∧ ((if f = 0 then pfPlace u off else vfPlace u (f - 1) off) = .csr die o) ∧ (tallyWaits v f die o write = false) ∧ ((csrAccess (fnBrand f) die o len write data v.now draw v).1 = .served bs)) ∧
    (let s : State := hostUp; let off : Nat := 0; let len : Nat := 4; (fnReached s 0 = true) ∧ (len ≠ 0) ∧ (off + len ≤ 2 ^ bar2Log s) ∧ ((fnGet s 0).memEn = true) ∧ ((fnGet s 0).d3 = false) ∧ (off + len ≤ memU s)) := by
  and_intros <;> decide +kernel

theorem w_timebaseCommandsComplete :
    (let s : State := State.reset; (belState s = belStopped)) ∧
    (let s : State := wr BEL_STATUS_state 0 1 (wr BEL_PERIOD_period_us 0 1000 State.reset); let t : Nat := 100000; (belState s = belLocked) ∧ (goodInterval s (t - s.bell.accepted.getD 0) = true)) ∧
    (let s : State := wr BEL_STATUS_state 0 1 (wr BEL_PERIOD_period_us 0 1000 State.reset); let t : Nat := 200000; (belState s = belLocked) ∧ (s.bell.lastTick.getD 0 + laterEnd s ≤ t)) ∧
    (let s : State := wr BEL_STATUS_state 0 3 State.reset; let t : Nat := 200000; ((refreshPtp (atTime t s)).bell.qualified = false) ∧ (internalDue (refreshPtp (atTime t s)) ≤ t) ∧ (belState (refreshPtp (atTime t s)) = belLone)) ∧
    (let s : State := wr BEL_STATUS_state 0 2 State.reset; let t : Nat := 200000; ((refreshPtp (atTime t s)).bell.qualified = false) ∧ (internalDue (refreshPtp (atTime t s)) ≤ t) ∧ (belState (refreshPtp (atTime t s)) = belFlywheel) ∧ (rd (refreshPtp (atTime t s)) BEL_STATUS_flywheel_count 0 < 64)) ∧
    (let s : State := wr BEL_STATUS_state 0 2 (wr BEL_STATUS_flywheel_count 0 64 State.reset); let t : Nat := 200000; (belState (refreshPtp (atTime t s)) = belFlywheel) ∧ (rd (refreshPtp (atTime t s)) BEL_STATUS_flywheel_count 0 = 64) ∧ ((refreshPtp (atTime t s)).bell.qualified = false) ∧ (ptpAvailable (refreshPtp (atTime t s)) = false) ∧ (internalDue (refreshPtp (atTime t s)) ≤ t)) ∧
    (let s : State := wr BEL_CFG_fallback_ptp 0 1 (wr LTK_PTPSTAT_locked 0 1 (wr BEL_STATUS_state 0 2 (wr BEL_STATUS_flywheel_count 0 64 State.reset))); let t : Nat := 1200000; (belState (refreshPtp (atTime t s)) = belFlywheel) ∧ (rd (refreshPtp (atTime t s)) BEL_STATUS_flywheel_count 0 = 64) ∧ ((refreshPtp (atTime t s)).bell.qualified = false) ∧ (ptpAvailable (refreshPtp (atTime t s)) = true) ∧ ((refreshPtp (atTime t s)).bell.lastTick.getD 0 + halfPeriod (refreshPtp (atTime t s)) ≤ t)) ∧
    (let s : State := wr BEL_STATUS_state 0 3 ({ State.reset with bell := { bellReset with qualified := true, accepted := some 0 } }); let t : Nat := 1200000; ((refreshPtp (atTime t s)).bell.qualified = true) ∧ ((refreshPtp (atTime t s)).bell.accepted.getD 0 + laterEnd (refreshPtp (atTime t s)) ≤ t) ∧ (belState (refreshPtp (atTime t s)) = belLone)) ∧
    (let s : State := wr BEL_STATUS_state 0 4 (wr BEL_CFG_fallback_ptp 0 1 (wr LTK_PTPSTAT_locked 0 1 State.reset)); let t : Nat := 1200000; ((refreshPtp (atTime t s)).bell.qualified = false) ∧ (ptpAvailable (refreshPtp (atTime t s)) = true) ∧ ((refreshPtp (atTime t s)).bell.lastTick.getD 0 + halfPeriod (refreshPtp (atTime t s)) ≤ t) ∧ (belState (refreshPtp (atTime t s)) = belLonePtp)) := by
  and_intros <;> decide +kernel

theorem w_tickPhasesComplete :
    (let s : State := { State.reset with bell := { bellReset with due := [100], phasesRun := 3 } }; let t : Nat := 100; let rest : List Nat := []; (s.bell.due = t :: rest) ∧ (s.bell.phasesRun = 3) ∧ (activating (tickOpens t (atTime (Sys2Proof.Machine.tickMoment t s) s)) = false)) ∧
    (let s : State := { State.reset with bell := { bellReset with phasesRun := 1 } }; (s.bell.phasesRun = 1)) ∧
    (let s : State := { State.reset with bell := { bellReset with phasesRun := 2 } }; (s.bell.phasesRun = 2)) := by
  and_intros <;> decide +kernel

theorem w_paddockCommandsComplete :
    ((0 < 64) ∧ (rdB up PDK_STATUS_cmd_busy 0 = false) ∧ (rd up SHP_PWRSTAT_state 0 = 2) ∧ (activating up = false)) ∧
    ((0 < 64) ∧ ((pdkGet creating 0).cmd = 1) ∧ (createCode (wr PDK_STATUS_cmd_busy 0 0 (pdkMod 0 (fun x => { x with cmd := 0 }) creating)) 0 = 0)) ∧
    ((0 < 64) ∧ ((pdkGet (wr PDK_STATUS_state 0 1 (pdkMod 0 (fun x => { x with cmd := 2 }) up)) 0).cmd = 2) ∧ ((pdkState (wr PDK_STATUS_state 0 1 (pdkMod 0 (fun x => { x with cmd := 2 }) up)) 0 = 1 ∨ pdkState (wr PDK_STATUS_state 0 1 (pdkMod 0 (fun x => { x with cmd := 2 }) up)) 0 = 5))) ∧
    ((0 < 64) ∧ (3 < 16) ∧ ((rdB (wr (PDK_VEC_coalesce.ix 3) 0 ((3 : Word).toNat / 2) (wr (PDK_VEC_enable.ix 3) 0 (3 : Word).toNat State.reset)) (PDK_VEC_coalesce.ix 3) 0 = true))) := by
  and_intros <;> decide +kernel

theorem w_regatherStepsComplete :
    (let s : State := wr PDK_STATUS_state 0 4 (pdkMod 0 (fun x => { x with step := 2 }) up); let n : Nat := 0; let t : Nat := 0; let v := atTime t s; (n < 64) ∧ (pdkState s n = 4) ∧ ((pdkGet s n).step = 2) ∧ ((pdkOutstanding v n = false ∨ (pdkGet s n).t0 + 5100 ≤ t))) ∧
    (let s : State := wr PDK_STATUS_state 0 4 (pdkMod 0 (fun x => { x with step := 4 }) up); let n : Nat := 0; (n < 64) ∧ (pdkState s n = 4) ∧ ((pdkGet s n).step = 4) ∧ ((pdkGet s n).flr = false) ∧ ((pdkGet s n).delete = false)) := by
  and_intros <;> decide +kernel

theorem w_tasksComplete :
    (taskState up (pcore up 0) (1 % 4) = 0) ∧
    (taskState (wr (LEA_TSTAT_state.ix 1) 0 1 up) (pcore (wr (LEA_TSTAT_state.ix 1) 0 1 up) 0) (1 % 4) ≠ 0) ∧
    (let p := pcore (wr (LEA_TSTAT_state.ix 0) 0 1 up) 0; let v := meshCycle p (confCycle p (coreMod p (fun x => { x with cyc := x.cyc + 1 }) (wr (LEA_TSTAT_state.ix 0) 0 1 up))); let ks := ((taskOrder v p).filter (fun t => taskState v p t != 0)).map (fun t => (t, taskStall v p t)); (ks.find? (fun y => y.2.ready) = some (0, taskStall v p 0))) := by
  and_intros <;> decide +kernel

theorem w_matrixOperationsComplete :
    (let e : QEnt := ent (0x01 * 2 ^ 56); let s : State := coreMod 0 (fun x => { x with qm := [e] }) (wr LEA_MSTAT_plane_valid 0 1 up); let c : Nat := 0; let p := pcore s c; let v := wr LEA_MSTAT_busy p 1 (qMod p .m e.disp (fun x => { x with started := true, startCyc := (coreGet s p).cyc }) s); (qNext s p .m = some e) ∧ (e.op = 0x01) ∧ (mReady s p = true) ∧ (scoreClear s p .m e = true) ∧ (mStartFault v p e = 0)) ∧
    (let e : QEnt := ent (0x08 * 2 ^ 56); let s : State := coreMod 0 (fun x => { x with qm := [e] }) (wr LEA_MSTAT_plane_valid 0 1 up); let c : Nat := 0; let p := pcore s c; let v := wr LEA_MSTAT_busy p 1 (qMod p .m e.disp (fun x => { x with started := true, startCyc := (coreGet s p).cyc }) s); (qNext s p .m = some e) ∧ (e.op = 0x08) ∧ (mReady s p = true) ∧ (scoreClear s p .m e = true) ∧ (mStartFault v p e = 0)) ∧
    (let e : QEnt := ent (0x09 * 2 ^ 56); let s : State := coreMod 0 (fun x => { x with qm := [e] }) (wr LEA_MSTAT_plane_valid 0 1 up); let c : Nat := 0; let p := pcore s c; let v := wr LEA_MSTAT_busy p 1 (qMod p .m e.disp (fun x => { x with started := true, startCyc := (coreGet s p).cyc }) s); (qNext s p .m = some e) ∧ (e.op = 0x09) ∧ (mReady s p = true) ∧ (scoreClear s p .m e = true) ∧ (mStartFault v p e = 0)) ∧
    (let e : QEnt := ent (0x0A * 2 ^ 56); let s : State := coreMod 0 (fun x => { x with qm := [e] }) (wr LEA_MSTAT_plane_valid 0 1 up); let c : Nat := 0; let p := pcore s c; let v := wr LEA_MSTAT_busy p 1 (qMod p .m e.disp (fun x => { x with started := true, startCyc := (coreGet s p).cyc }) s); (qNext s p .m = some e) ∧ (e.op = 0x0A) ∧ (mReady s p = true) ∧ (scoreClear s p .m e = true) ∧ (mStartFault v p e = 0)) ∧
    (let e : QEnt := { ent (0x09 * 2 ^ 56) with started := true, prog := 32, prog2 := 32 }; let es : List QEnt := []; let s : State := coreMod 0 (fun x => { x with qm := [e] }) up; let c : Nat := 0; let p := pcore s c; ((coreGet s p).qm = e :: es) ∧ (e.started = true) ∧ (e.abandoned = false) ∧ (mStreamed e = true) ∧ (e.op ≠ 0x01)) ∧
    (let k : RChk := ⟨0, 0, 0, 0, 0, 1, []⟩; let ks : List RChk := []; let s : State := coreMod 0 (fun x => { x with checks := [k] }) up; let c : Nat := 0; let p := pcore s c; ((coreGet s p).checks = k :: ks) ∧ (k.found.isEmpty = true)) ∧
    (let k : RChk := ⟨0, 0, 0, 0, 0, 1, [1]⟩; let ks : List RChk := []; let s : State := coreMod 0 (fun x => { x with checks := [k] }) up; let c : Nat := 0; let p := pcore s c; ((coreGet s p).checks = k :: ks) ∧ (k.found.isEmpty = false)) := by
  and_intros <;> decide +kernel

theorem w_vectorOperationsComplete :
    (let e : QEnt := ent (0x01 * 2 ^ 56); let s : State := coreMod 0 (fun x => { x with qv := [e] }) up; let c : Nat := 0; let p := pcore s c; (qNext s p .v = some e) ∧ (e.op = 0x01) ∧ (scoreClear s p .v e = true) ∧ (vBegun s p = true)) ∧
    (let e : QEnt := ent (0x02 * 2 ^ 56); let s : State := coreMod 0 (fun x => { x with qv := [e] }) up; let c : Nat := 0; let p := pcore s c; (qNext s p .v = some e) ∧ (e.op = 0x02) ∧ (scoreClear s p .v e = true) ∧ (vBegun s p = true)) ∧
    (let e : QEnt := ent (0x03 * 2 ^ 56); let s : State := coreMod 0 (fun x => { x with qv := [e] }) up; let c : Nat := 0; let p := pcore s c; (qNext s p .v = some e) ∧ (e.op = 0x03) ∧ (scoreClear s p .v e = true) ∧ (vBegun s p = true)) ∧
    (let e : QEnt := ent (0x04 * 2 ^ 56); let s : State := coreMod 0 (fun x => { x with qv := [e] }) up; let c : Nat := 0; let p := pcore s c; (qNext s p .v = some e) ∧ (e.op = 0x04) ∧ (scoreClear s p .v e = true) ∧ (vBegun s p = true)) ∧
    (let e : QEnt := ent (0x05 * 2 ^ 56); let s : State := coreMod 0 (fun x => { x with qv := [e] }) up; let c : Nat := 0; let p := pcore s c; (qNext s p .v = some e) ∧ (e.op = 0x05) ∧ (scoreClear s p .v e = true) ∧ (vBegun s p = true)) ∧
    (let e : QEnt := ent (0x10 * 2 ^ 56); let s : State := coreMod 0 (fun x => { x with qv := [e] }) up; let c : Nat := 0; let p := pcore s c; (qNext s p .v = some e) ∧ (e.op = 0x10) ∧ (scoreClear s p .v e = true) ∧ (vBegun s p = true)) ∧
    (let e : QEnt := ent (0x11 * 2 ^ 56); let s : State := coreMod 0 (fun x => { x with qv := [e] }) up; let c : Nat := 0; let p := pcore s c; (qNext s p .v = some e) ∧ (e.op = 0x11) ∧ (scoreClear s p .v e = true) ∧ (vBegun s p = true)) ∧
    (let e : QEnt := { ent (0x05 * 2 ^ 56) with started := true, turn := 10000 }; let es : List QEnt := []; let s : State := coreMod 0 (fun x => { x with qv := [e] }) up; let c : Nat := 0; let p := pcore s c; ((coreGet s p).qv = e :: es) ∧ (e.started = true) ∧ (e.abandoned = false) ∧ ((vBeats s p e).length ≤ e.turn)) := by
  and_intros <;> decide +kernel

theorem w_scratchpadCommandsComplete :
    (let x : WReq × WWord := (⟨2, false, false, 0, 0, [⟨0, 255, 0, false, (0, 0)⟩]⟩, ⟨0, 255, 0, false, (0, 0)⟩); let s : State := coreMod 0 (fun y => { y with cyc := 2, reqs := [x.1] }) up; let c : Nat := 0; let write : Bool := false; let bank : Nat := 0; let region : Nat := 0; let p := pcore s c; (portPick s p (portWords s p write bank region) = some x)) ∧
    (let s : State := coreMod 0 (fun y => { y with wb := [5] }) up; let c : Nat := 0; let w : Nat := 5; let p := pcore s c; ((coreGet s p).wb.contains w = true) ∧ ((portWords s p true (bankOf s p w) (portRegion s p w)).isEmpty = true)) ∧
    (let s : State := up; let brand : Nat := 0; let c : Nat := 0; let off : Nat := 0; let len : Nat := 8; let v := accFlush s; (brandReserved brand = false) ∧ (off + len ≤ 0x100000) ∧ (admitCore v brand c false = true) ∧ (coreWaits v brand c = false)) ∧
    (let s : State := up; let brand : Nat := 0; let c : Nat := 0; let k : Nat := 0; let p : Nat := 0; let v := accFlush s; let d := coreDie (c % 2048); let o := coreLocal (c % 2048) * 0x8000 + (LEA_VWDATA_value.off + 8 * (k % 8)); (mainPowered v = true) ∧ (csrGate v brand d o 8 true = 0) ∧ (csrWaits v brand d o = false) ∧ (csrPlace v d o = some (.lea, p, LEA_VWDATA_value.off + 8 * (k % 8))) ∧ (coreIdle v p = true) ∧ (vwValid v p = true)) := by
  and_intros <;> decide +kernel

theorem w_meshOperationsAndStepsComplete :
    (let p := pcore (coreMod 0 (fun x => { x with qx := [ent (0x01 * 2 ^ 56)] }) up) 0; (xHead (coreMod 0 (fun x => { x with qx := [ent (0x01 * 2 ^ 56)] }) up) p = some (ent (0x01 * 2 ^ 56))) ∧ ((ent (0x01 * 2 ^ 56)).op = 0x01) ∧ (xMayStart (coreMod 0 (fun x => { x with qx := [ent (0x01 * 2 ^ 56)] }) up) p (ent (0x01 * 2 ^ 56)) = true)) ∧
    (let p := pcore (coreMod 0 (fun x => { x with qx := [ent (0x02 * 2 ^ 56)] }) up) 0; (xHead (coreMod 0 (fun x => { x with qx := [ent (0x02 * 2 ^ 56)] }) up) p = some (ent (0x02 * 2 ^ 56))) ∧ ((ent (0x02 * 2 ^ 56)).op = 0x02) ∧ (xMayStart (coreMod 0 (fun x => { x with qx := [ent (0x02 * 2 ^ 56)] }) up) p (ent (0x02 * 2 ^ 56)) = true)) ∧
    (let p := pcore (coreMod 0 (fun x => { x with qx := [ent (0x03 * 2 ^ 56)] }) up) 0; (xHead (coreMod 0 (fun x => { x with qx := [ent (0x03 * 2 ^ 56)] }) up) p = some (ent (0x03 * 2 ^ 56))) ∧ ((ent (0x03 * 2 ^ 56)).op = 0x03) ∧ (xMayStart (coreMod 0 (fun x => { x with qx := [ent (0x03 * 2 ^ 56)] }) up) p (ent (0x03 * 2 ^ 56)) = true)) ∧
    (let p := pcore strmCore 0; (xHeld strmCore p (0 % 2) = some strmEnt) ∧ (strmEnt.committed = false) ∧ (strmEnt.op ≠ 0x03) ∧ (xSv strmEnt.slot = true) ∧ (strmEnt.startCyc + 2 ≤ (coreGet strmCore p).cyc) ∧ (ctxReady strmCore (meshCtx p strmEnt.slot) = true)) ∧
    (let p := pcore (coreMod 0 (fun x => { x with qx := [{ ent (0x03 * 2 ^ 56) with started := true, committed := true, prog := 1 }] }) up) 0; (xHeld (coreMod 0 (fun x => { x with qx := [{ ent (0x03 * 2 ^ 56) with started := true, committed := true, prog := 1 }] }) up) p 1 = some { ent (0x03 * 2 ^ 56) with started := true, committed := true, prog := 1 }) ∧ ({ ent (0x03 * 2 ^ 56) with started := true, committed := true, prog := 1 }.op ≠ 0x31) ∧ (xComplete (coreMod 0 (fun x => { x with qx := [{ ent (0x03 * 2 ^ 56) with started := true, committed := true, prog := 1 }] }) up) p { ent (0x03 * 2 ^ 56) with started := true, committed := true, prog := 1 } = true) ∧ ({ ent (0x03 * 2 ^ 56) with started := true, committed := true, prog := 1 }.op ≤ 0x03)) ∧
    (let p := pcore (coreMod 0 (fun x => { x with cyc := 9, qx := [{ ent (0x50 * 2 ^ 56) with started := true }] }) up) 0; (xHeld (coreMod 0 (fun x => { x with cyc := 9, qx := [{ ent (0x50 * 2 ^ 56) with started := true }] }) up) p (xEngine 0x50) = some { ent (0x50 * 2 ^ 56) with started := true }) ∧ ({ ent (0x50 * 2 ^ 56) with started := true }.op ≠ 0x31) ∧ (xComplete (coreMod 0 (fun x => { x with cyc := 9, qx := [{ ent (0x50 * 2 ^ 56) with started := true }] }) up) p { ent (0x50 * 2 ^ 56) with started := true } = true) ∧ (0x03 < { ent (0x50 * 2 ^ 56) with started := true }.op)) ∧
    (((meshGet (meshMod 0 (fun m => { m with running := true }) up) 0).running = true) ∧ (meshHeld (meshMod 0 (fun m => { m with running := true }) up) 0 = false)) ∧
    (((meshGet heldMesh 0).running = true) ∧ (meshHeld heldMesh 0 = true)) ∧
    (let p := pcore (wr MSH_STAT_hold_bit 0 1 up) 0; (holdBit (wr MSH_STAT_hold_bit 0 1 up) p = true) ∧ (holdCond (wr MSH_STAT_hold_bit 0 1 up) p (htGet (wr MSH_STAT_hold_bit 0 1 up) p (rd (wr MSH_STAT_hold_bit 0 1 up) MSH_HWHY_hidx p)) = true)) ∧
    (let v := meshMod 0 (fun m => { m with longDone := true }) (wr BEL_TICK_tick 0 70 (meshMod 0 (fun m => { m with held := true, hSched := true }) up)); ((meshGet (wr BEL_TICK_tick 0 70 (meshMod 0 (fun m => { m with held := true, hSched := true }) up)) 0).held = true) ∧ ((meshGet (wr BEL_TICK_tick 0 70 (meshMod 0 (fun m => { m with held := true, hSched := true }) up)) 0).longDone = false) ∧ ((meshGet (wr BEL_TICK_tick 0 70 (meshMod 0 (fun m => { m with held := true, hSched := true }) up)) 0).heldTick + 64 ≤ curTick (wr BEL_TICK_tick 0 70 (meshMod 0 (fun m => { m with held := true, hSched := true }) up))) ∧ ((meshGet v 0).hSched = true)) := by
  and_intros <;> decide +kernel

theorem w_streamOperationsComplete :
    (let p := pcore (coreMod 0 (fun x => { x with qx := [ent (0x10 * 2 ^ 56)] }) strmReady) 0; (xHead (coreMod 0 (fun x => { x with qx := [ent (0x10 * 2 ^ 56)] }) strmReady) p = some (ent (0x10 * 2 ^ 56))) ∧ ((ent (0x10 * 2 ^ 56)).op = 0x10) ∧ (xMayStart (coreMod 0 (fun x => { x with qx := [ent (0x10 * 2 ^ 56)] }) strmReady) p (ent (0x10 * 2 ^ 56)) = true) ∧ (ctxReady (coreMod 0 (fun x => { x with qx := [ent (0x10 * 2 ^ 56)] }) strmReady) (strmCtx p (ent (0x10 * 2 ^ 56)).slot) = true)) ∧
    (let p := pcore (coreMod 0 (fun x => { x with qx := [ent (0x11 * 2 ^ 56)] }) strmReady) 0; (xHead (coreMod 0 (fun x => { x with qx := [ent (0x11 * 2 ^ 56)] }) strmReady) p = some (ent (0x11 * 2 ^ 56))) ∧ ((ent (0x11 * 2 ^ 56)).op = 0x11) ∧ (xMayStart (coreMod 0 (fun x => { x with qx := [ent (0x11 * 2 ^ 56)] }) strmReady) p (ent (0x11 * 2 ^ 56)) = true) ∧ (ctxReady (coreMod 0 (fun x => { x with qx := [ent (0x11 * 2 ^ 56)] }) strmReady) (strmCtx p (ent (0x11 * 2 ^ 56)).slot) = true) ∧ (taskDrained (coreMod 0 (fun x => { x with qx := [ent (0x11 * 2 ^ 56)] }) strmReady) p (ent (0x11 * 2 ^ 56)).task (ent (0x11 * 2 ^ 56)).bun = true)) ∧
    (let p := pcore (coreMod 0 (fun x => { x with qx := [ent (0x12 * 2 ^ 56)] }) up) 0; (xHead (coreMod 0 (fun x => { x with qx := [ent (0x12 * 2 ^ 56)] }) up) p = some (ent (0x12 * 2 ^ 56))) ∧ ((ent (0x12 * 2 ^ 56)).op = 0x12) ∧ (xMayStart (coreMod 0 (fun x => { x with qx := [ent (0x12 * 2 ^ 56)] }) up) p (ent (0x12 * 2 ^ 56)) = true)) ∧
    (let p := pcore (coreMod 0 (fun x => { x with qx := [ent (0x13 * 2 ^ 56)] }) up) 0; (xHead (coreMod 0 (fun x => { x with qx := [ent (0x13 * 2 ^ 56)] }) up) p = some (ent (0x13 * 2 ^ 56))) ∧ ((ent (0x13 * 2 ^ 56)).op = 0x13) ∧ (xMayStart (coreMod 0 (fun x => { x with qx := [ent (0x13 * 2 ^ 56)] }) up) p (ent (0x13 * 2 ^ 56)) = true)) ∧
    (let p := pcore (coreMod 0 (fun x => { x with qx := [ent (0x50 * 2 ^ 56)] }) up) 0; (xHead (coreMod 0 (fun x => { x with qx := [ent (0x50 * 2 ^ 56)] }) up) p = some (ent (0x50 * 2 ^ 56))) ∧ ((ent (0x50 * 2 ^ 56)).op = 0x50) ∧ (xMayStart (coreMod 0 (fun x => { x with qx := [ent (0x50 * 2 ^ 56)] }) up) p (ent (0x50 * 2 ^ 56)) = true)) := by
  and_intros <;> decide +kernel

theorem w_droverContextsComplete :
    (let s : State := formCtx; let u0 : Nat := 0; let t : Nat := 0; let g : Nat := 0; let v := atCycle t s; (mapGet 0 v.formAt u0 ≠ v.leaCyc + 1) ∧ ((unitCtxs v u0).filter (canForm v) = [g]) ∧ ((unitCtxs v u0).filter (fun y => wantsRequest v y && 16 ≤ ctxOutst v y) = [])) ∧
    (let x : Xact := { fx with stage := 4, ret := .drvRead 0 0 }; let s : State := { hostUp with fab := [x] }; let i : Nat := 0; let g : Nat := 0; let off : Nat := 0; (fabGet s i = some x) ∧ (x.ret = .drvRead g off) ∧ (x.stage = 4) ∧ (x.stale = false) ∧ (x.status = 0) ∧ (ctxFar g = false)) ∧
    (let x : Xact := { fx with stage := 4, ret := .drvRead 131072 0 }; let s : State := { hostUp with fab := [x] }; let i : Nat := 0; let g : Nat := 131072; let off : Nat := 0; (fabGet s i = some x) ∧ (x.ret = .drvRead g off) ∧ (x.stage = 4) ∧ (x.stale = false) ∧ (x.status = 0) ∧ (ctxFar g = true)) ∧
    (let x : Xact := { fx with stage := 4, wr := true, ret := .drvWrite 0 0 }; let s : State := { hostUp with fab := [x] }; let i : Nat := 0; let g : Nat := 0; let off : Nat := 0; (fabGet s i = some x) ∧ (x.ret = .drvWrite g off) ∧ (x.stage = 4) ∧ (x.status = 0) ∧ ((ctxFar g = false ∨ x.data.length ≤ x.len))) ∧
    (let x : Xact := fx; let s : State := tcPut 10 64 1 0 15 { hostUp with fab := [x] }; let i : Nat := 0; let l : Nat := 1; let e : Nat := 15; let y := { x with pasid := rootPasid s x.root, walk := [] }; (fabGet s i = some x) ∧ (x.stage = 0) ∧ (fabTurn s i y = true) ∧ (windowOf s y = none) ∧ (tcLeaf s x.die x.root x.va = some (l, e)) ∧ (natBit e (if x.wr then 3 else 2) = true) ∧ (pteHost e = false) ∧ (ptePage e < memU s) ∧ (outsideHalf s x.root (ptePage e) (2 ^ levelShift l) = false)) ∧
    (let x : Xact := fx; let s : State := wr (PST_XROOT_en.ix 64) 10 1 ({ hostUp with fab := [x] }); let i : Nat := 0; let y := { x with pasid := rootPasid s x.root, walk := [] }; let v := bump (PST_WALKS_count.on (pstBlk x.die)) x.die s; let root := rd v (PST_XROOT_root.ix x.root) 10 * 4096; (fabGet s i = some x) ∧ (x.stage = 0) ∧ (fabTurn s i y = true) ∧ (windowOf s y = none) ∧ (tcLeaf s x.die x.root x.va = none) ∧ (rdB v (PST_XROOT_en.ix x.root) 10 = true) ∧ (root < memU v) ∧ (tcGet v x.die x.root 0 x.va = 0)) := by
  and_intros <;> decide +kernel

theorem w_fabricAndMemoryPortsComplete :
    (let x : Xact := { fx with stage := 1 }; let s : State := grantable; let t : Nat := 0; let cyc : Nat := 0; let i : Nat := 0; let k := mapGet 0 (atFab cyc s).slotAt t; let v := { atFab cyc s with slotAt := mapSet 0 (atFab cyc s).slotAt t (k + 1) }; (t < 26) ∧ (k < tgtC (atFab cyc s) t) ∧ (portFull v t = false) ∧ (grantSlot v t k = some (i, x))) ∧
    (let x : Xact := { fx with stage := 2 }; let s : State := { hostUp with fab := [x] }; let i : Nat := 0; let q := (portOf s x.pa).1; (fabGet s i = some x) ∧ (x.stage = 2) ∧ (x.wr = false) ∧ (x.host = false) ∧ (blockTested s q = false) ∧ (portTurn s x = true)) ∧
    (let x : Xact := { fx with stage := 10 }; let s : State := { hostUp with fab := [x] }; let i : Nat := 0; let y := tabRead x; (fabGet s i = some x) ∧ (x.stage = 10) ∧ (portServes s y false = true)) ∧
    (let x : Xact := { fx with wr := true, data := [1, 2], len := 2, pf := [false, false], stage := 2 }; let s : State := { hostUp with fab := [x] }; let i : Nat := 0; let q := (portOf s x.pa).1; (fabGet s i = some x) ∧ (x.stage = 2) ∧ (x.wr = true) ∧ (x.host = false) ∧ (blockTested s q = false) ∧ (portTurn s x = true)) ∧
    (let s : State := wr MEM_SCRUB_pass_h 0 1 hostUp; let p0 : Nat := 0; (p0 < 24) ∧ (rd s MEM_SCRUB_pass_h p0 ≠ 0) ∧ (memQ s / 64 ≠ 0) ∧ ((s.fab.map pktOf).any (fun x => x.stage == 2 && !x.host && (portOf s x.pa).1 == p0 && (channelOf s (portOf s x.pa).2).1 == (channelOf s (64 * mapGet 0 s.scrubAt p0)).1) = false)) := by
  and_intros <;> decide +kernel

theorem w_hostPathComplete :
    (let x : Xact := { fx with wr := true, host := true, data := [1, 2], len := 2, pf := [false, false], stage := 2 }; let s : State := { hostUp with fab := [x] }; let i : Nat := 0; (fabGet s i = some x) ∧ (x.wr = true) ∧ (x.host = true) ∧ (x.stage = 2) ∧ (portTurn s x = true)) ∧
    (let x : Xact := { fx with stage := 2, host := true }; let s : State := { hostUp with fab := [x] }; let i : Nat := 0; (fabGet s i = some x) ∧ (x.stage = 2) ∧ (x.host = true) ∧ (x.wr = false) ∧ (portTurn s x = true)) ∧
    (let x : Xact := { fx with stage := 3, host := true }; let s : State := { hostUp with fab := [x] }; let i : Nat := 0; (fabGet s i = some x) ∧ (x.stage = 3)) ∧
    (let x : Xact := { fx with stage := 3, host := true }; let s : State := { hostUp with fab := [x] }; let i : Nat := 0; (fabGet s i = some x) ∧ (x.stage = 3) ∧ (brandPdk x.brand = none)) ∧
    (let x : Xact := { fx with stage := 3, host := true, brand := 0x12 }; let s : State := { hostUp with fab := [x] }; let i : Nat := 0; let n : Nat := 2; (fabGet s i = some x) ∧ (x.stage = 3) ∧ (brandPdk x.brand = some n)) ∧
    (let x : Xact := { fx with wr := true, host := true, data := [1, 2], len := 2, pf := [false, false], stage := 2 }; let s : State := { hostUp with fab := [x] }; let i : Nat := 0; (fabGet s i = some x) ∧ (x.stage = 2) ∧ (x.host = true) ∧ (x.wr = true)) := by
  and_intros <;> decide +kernel

theorem w_translationComplete :
    ((fabGet { hostUp with fab := [{ fx with stage := 5, host := true }] } 0 = some ({ fx with stage := 5, host := true })) ∧ (({ fx with stage := 5, host := true }).stage = 5) ∧ ((if ({ fx with stage := 5, host := true }).wr then true else true) = true)) ∧
    (({ hostUp with priEn := true, priAlloc := 4, pageReqs := [(⟨0, 1, false, 0, false⟩ : PageReq)] }.pageReqs.find? (fun y => !y.sent) = some (⟨0, 1, false, 0, false⟩ : PageReq)) ∧ ({ hostUp with priEn := true, priAlloc := 4, pageReqs := [(⟨0, 1, false, 0, false⟩ : PageReq)] }.priEn = true) ∧ (rd { hostUp with priEn := true, priAlloc := 4, pageReqs := [(⟨0, 1, false, 0, false⟩ : PageReq)] } PST_PRISTAT_stopped 10 ≠ 1) ∧ (pagesOut { hostUp with priEn := true, priAlloc := 4, pageReqs := [(⟨0, 1, false, 0, false⟩ : PageReq)] } < Nat.min 512 { hostUp with priEn := true, priAlloc := 4, pageReqs := [(⟨0, 1, false, 0, false⟩ : PageReq)] }.priAlloc)) ∧
    ({ hostUp with pageReqs := [(⟨0, 1, false, 3, true⟩ : PageReq)] }.pageReqs.find? (fun y => y.sent && y.idx == 3) = some (⟨0, 1, false, 3, true⟩ : PageReq)) ∧
    ((rdB (wr PST_INVCTL_busy 10 1 hostUp) PST_INVCTL_busy 10 = true) ∧ ((wr PST_INVCTL_busy 10 1 hostUp).fab.any (fun x => x.inv && (x.stage == 2 || x.stage == 3)) = false)) ∧
    (up.fab = []) := by
  and_intros <;> decide +kernel

theorem w_whistleOperationsComplete :
    (let e : QEnt := ent (0x20 * 2 ^ 56 + 8 * 2 ^ 35); let s : State := coreMod 0 (fun x => { x with qx := [e] }) up; let c : Nat := 0; let p := pcore s c; (xHead s p = some e) ∧ (e.op = 0x20) ∧ (xMayStart s p e = true) ∧ (sendFree s p e = true) ∧ (whLen e.slot ≠ 0)) ∧
    (let e : QEnt := { ent (0x20 * 2 ^ 56) with vals := [] }; let s : State := coreMod 0 (fun x => { x with qx := [e] }) (up); let c : Nat := 0; let p := pcore s c; (xHead s p = some e) ∧ (e.op = 0x20) ∧ (xMayStart s p e = true) ∧ (sendFree s p e = true) ∧ (whLen e.slot = 0)) ∧
    (let e : QEnt := { ent (0x21 * 2 ^ 56) with vals := [] }; let s : State := coreMod 0 (fun x => { x with qx := [e] }) (cnSet WHS_CONN_state 0 0 5 up); let c : Nat := 0; let p := pcore s c; let v := xMark p e s; (xHead s p = some e) ∧ (e.op = 0x21) ∧ (xMayStart s p e = true) ∧ (csendFree s p e = true) ∧ (cn WHS_CONN_state v p (whEntry e.slot) = cnFailed)) ∧
    (let e : QEnt := { ent (0x21 * 2 ^ 56) with vals := [8] }; let s : State := coreMod 0 (fun x => { x with qx := [e] }) (cnSet WHS_CONN_state 0 0 3 up); let c : Nat := 0; let p := pcore s c; let v := xMark p e s; (xHead s p = some e) ∧ (e.op = 0x21) ∧ (xMayStart s p e = true) ∧ (csendFree s p e = true) ∧ (cn WHS_CONN_state v p (whEntry e.slot) ≠ cnFailed)) ∧
    (let e : QEnt := { ent (0x22 * 2 ^ 56) with vals := [] }; let s : State := coreMod 0 (fun x => { x with qx := [e] }) (up); let c : Nat := 0; let p := pcore s c; (xHead s p = some e) ∧ (e.op = 0x22) ∧ (xMayStart s p e = true)) ∧
    (let e : QEnt := { ent (0x23 * 2 ^ 56) with vals := [] }; let s : State := coreMod 0 (fun x => { x with qx := [e] }) (up); let c : Nat := 0; let p := pcore s c; let v := xMark p e s; let u := cnSet WHS_CONN_state p (whEntry e.slot) cnListening { v with landings := mapSet 0 v.landings (64 * p + whEntry e.slot) (whD e.op e.vals + 1) }; (xHead s p = some e) ∧ (e.op = 0x23) ∧ (xMayStart s p e = true) ∧ (opensOf u p (whEntry e.slot) = [])) ∧
    (let e : QEnt := { ent (0x23 * 2 ^ 56) with vals := [] }; let m : WMsg := wm0; let s : State := coreMod 0 (fun x => { x with qx := [e] }) (opensPut 0 0 [m] up); let c : Nat := 0; let p := pcore s c; let v := xMark p e s; let u := cnSet WHS_CONN_state p (whEntry e.slot) cnListening { v with landings := mapSet 0 v.landings (64 * p + whEntry e.slot) (whD e.op e.vals + 1) }; (xHead s p = some e) ∧ (e.op = 0x23) ∧ (xMayStart s p e = true) ∧ (opensOf u p (whEntry e.slot) = [m])) ∧
    (let e : QEnt := { ent (0x24 * 2 ^ 56) with vals := [] }; let s : State := coreMod 0 (fun x => { x with qx := [e] }) (cnSet WHS_CONN_state 0 0 1 up); let c : Nat := 0; let p := pcore s c; let v := xMark p e s; let l := whEntry e.slot; (xHead s p = some e) ∧ (e.op = 0x24) ∧ (xMayStart s p e = true) ∧ (cn WHS_CONN_state v p l = cnListening)) ∧
    (let e : QEnt := { ent (0x24 * 2 ^ 56) with vals := [] }; let s : State := coreMod 0 (fun x => { x with qx := [e] }) (cnSet WHS_CONN_state 0 0 5 up); let c : Nat := 0; let p := pcore s c; let v := xMark p e s; let l := whEntry e.slot; (xHead s p = some e) ∧ (e.op = 0x24) ∧ (xMayStart s p e = true) ∧ (cn WHS_CONN_state v p l = cnFailed)) ∧
    (let e : QEnt := { ent (0x24 * 2 ^ 56) with vals := [] }; let s : State := coreMod 0 (fun x => { x with qx := [e] }) (cnSet WHS_CONN_state 0 0 2 up); let c : Nat := 0; let p := pcore s c; let v := xMark p e s; let l := whEntry e.slot; (xHead s p = some e) ∧ (e.op = 0x24) ∧ (xMayStart s p e = true) ∧ (cn WHS_CONN_state v p l = cnOpening)) ∧
    (let e : QEnt := { ent (0x24 * 2 ^ 56) with vals := [] }; let s : State := coreMod 0 (fun x => { x with qx := [e] }) (cnSet WHS_CONN_state 0 0 3 up); let c : Nat := 0; let p := pcore s c; let v := xMark p e s; let l := whEntry e.slot; (xHead s p = some e) ∧ (e.op = 0x24) ∧ (xMayStart s p e = true) ∧ (cn WHS_CONN_state v p l = cnSender)) ∧
    (let e : QEnt := { ent (0x25 * 2 ^ 56) with vals := [] }; let s : State := coreMod 0 (fun x => { x with qx := [e] }) (rqPut 0 0 [[1]] up); let c : Nat := 0; let h : List Nat := [1]; let rest : List (List Nat) := []; let p := pcore s c; let v := xMark p e s; (xHead s p = some e) ∧ (e.op = 0x25) ∧ (xMayStart s p e = true) ∧ (rqGet s p (whQ e.slot) ≠ []) ∧ (rqGet v p (whQ e.slot) = h :: rest)) := by
  and_intros <;> decide +kernel

theorem w_whistlePacketsComplete :
    (let m : WMsg := { wm0 with kind := 0 }; let s : State := { up with whsQ := [m] }; let i : Nat := 0; (whsPacket s i = some m) ∧ (m.kind = 0)) ∧
    (let x : WSpill := wsp0; let rest : List WSpill := []; let s : State := spillPut 0 0 [x] up; let c : Nat := 0; let key : Nat := 0; let p := pcore s c; (spillGet s p key = x :: rest) ∧ (key < 16) ∧ (landingFree s p c ⟨8 ≤ key % 16, x.q, x.win, x.notify, x.msg.e⟩ = true)) ∧
    (let m : WMsg := { wm0 with kind := 5 }; let s : State := { up with whsQ := [m] }; let i : Nat := 0; (whsPacket s i = some m) ∧ (m.kind = 5)) ∧
    (let m : WMsg := { wm0 with kind := 6 }; let s : State := { up with whsQ := [m] }; let i : Nat := 0; (whsPacket s i = some m) ∧ (m.kind = 6)) ∧
    (let x : WSend := ⟨0, { wm0 with brand := 1 }, 1, 0⟩; let s : State := sendsPut 0 [x] up; let c : Nat := 0; let sid : Nat := 0; let t : Nat := 5; let v := atTime t s; let key := if c < 2048 then pcore s c else unitKey (c - 2048); ((sendsOf v key).find? (fun w => w.sid == sid) = some x) ∧ (x.st = 1) ∧ (x.at_ ≤ t) ∧ ((∀ n, brandPdk x.msg.brand = some n → pdkClosed v n = false)) ∧ ((x.msg.conn = true → (sendsOf v key).any (fun y => y.msg.conn && y.msg.sentry == x.msg.sentry && y.st == 1 && y.sid < sid) = false))) ∧
    (let m : WMsg := { wm0 with kind := 7 }; let s : State := { up with whsQ := [m] }; let i : Nat := 0; (whsPacket s i = some m) ∧ (m.kind = 7) ∧ (m.q ≠ 1)) ∧
    (let m : WMsg := { wm0 with kind := 7, q := 1 }; let s : State := { up with whsQ := [m] }; let i : Nat := 0; (whsPacket s i = some m) ∧ (m.kind = 7) ∧ (m.q = 1)) ∧
    (let m : WMsg := { wm0 with kind := 1 }; let s : State := { pad1 with whsQ := [m] }; let i : Nat := 0; (whsPacket s i = some m) ∧ (m.kind = 1) ∧ (whsAdmits s m.brand m.dst m.g1 = true)) ∧
    (let m : WMsg := { wm0 with kind := 1 }; let s : State := { up with whsQ := [m] }; let i : Nat := 0; (whsPacket s i = some m) ∧ (m.kind = 1) ∧ (whsAdmits s m.brand m.dst m.g1 = false)) ∧
    (let m : WMsg := { wm0 with kind := 2 }; let s : State := { up with whsQ := [m] }; let i : Nat := 0; (whsPacket s i = some m) ∧ (m.kind = 2)) ∧
    (let m : WMsg := { wm0 with kind := 3 }; let s : State := { up with whsQ := [m] }; let i : Nat := 0; (whsPacket s i = some m) ∧ (m.kind = 3)) ∧
    (let m : WMsg := { wm0 with kind := 4 }; let s : State := spillPut 32 0 [{ wsp0 with msg := { wm0 with conn := true } }] (cnSet WHS_CONN_state 32 0 4 { pad1 with whsQ := [m] }); let i : Nat := 0; let r := closeArrive m (whsDrop i s); (whsPacket s i = some m) ∧ (m.kind = 4) ∧ (whsAdmits s m.brand m.dst m.g1 = true) ∧ (r.1 = 3)) ∧
    (let m : WMsg := { wm0 with kind := 4 }; let s : State := { pad1 with whsQ := [m] }; let i : Nat := 0; let r := closeArrive m (whsDrop i s); (whsPacket s i = some m) ∧ (m.kind = 4) ∧ (whsAdmits s m.brand m.dst m.g1 = true) ∧ (r.1 ≠ 3)) ∧
    (let m : WMsg := { wm0 with kind := 4 }; let s : State := { up with whsQ := [m] }; let i : Nat := 0; (whsPacket s i = some m) ∧ (m.kind = 4) ∧ (whsAdmits s m.brand m.dst m.g1 = false)) := by
  and_intros <;> decide +kernel

theorem w_tallyCommandsComplete :
    (let e : QEnt := { ent (0x30 * 2 ^ 56) with vals := [] }; let s : State := coreMod 0 (fun x => { x with qx := [e] }) (up); let c : Nat := 0; let p := pcore s c; (xHead s p = some e) ∧ (e.op = 0x30) ∧ (xMayStart s p e = true) ∧ (released s p e = true)) ∧
    (let e : QEnt := { ent (0x31 * 2 ^ 56) with vals := [] }; let s : State := coreMod 0 (fun x => { x with qx := [e] }) (up); let c : Nat := 0; let p := pcore s c; (xHead s p = some e) ∧ (e.op = 0x31) ∧ (xMayStart s p e = true)) ∧
    (let e : QEnt := { ent (0x32 * 2 ^ 56) with vals := [2 ^ 15, 0, 0] }; let s : State := coreMod 0 (fun x => { x with qx := [e] }) (tpad0); let c : Nat := 0; let p := pcore s c; let v := xMark p e s; let u := cwUnit (tlyRc e); let i := cwIndex (tlyRc e); (xHead s p = some e) ∧ (e.op = 0x32) ∧ (xMayStart s p e = true) ∧ (tlyStuck s u i = false) ∧ (tlyAdmits v (coreBrand v p) u i [] = true)) ∧
    (let e : QEnt := { ent (0x32 * 2 ^ 56) with vals := [] }; let s : State := coreMod 0 (fun x => { x with qx := [e] }) (tpad1); let c : Nat := 0; let p := pcore s c; let v := xMark p e s; let u := cwUnit (tlyRc e); let i := cwIndex (tlyRc e); (xHead s p = some e) ∧ (e.op = 0x32) ∧ (xMayStart s p e = true) ∧ (tlyStuck s u i = false) ∧ (tlyAdmits v (coreBrand v p) u i [] = false)) ∧
    (let e : QEnt := { ent (0x33 * 2 ^ 56) with vals := [2 ^ 15, 0, 0] }; let s : State := coreMod 0 (fun x => { x with qx := [e] }) (tpad0); let c : Nat := 0; let p := pcore s c; let v := xMark p e s; let u := cwUnit (tlyRc e); let i := cwIndex (tlyRc e); (xHead s p = some e) ∧ (e.op = 0x33) ∧ (xMayStart s p e = true) ∧ (tlyStuck s u i = false) ∧ (tlyAdmits v (coreBrand v p) u i [] = true)) ∧
    (let e : QEnt := { ent (0x33 * 2 ^ 56) with vals := [] }; let s : State := coreMod 0 (fun x => { x with qx := [e] }) (tpad1); let c : Nat := 0; let p := pcore s c; let v := xMark p e s; let u := cwUnit (tlyRc e); let i := cwIndex (tlyRc e); (xHead s p = some e) ∧ (e.op = 0x33) ∧ (xMayStart s p e = true) ∧ (tlyStuck s u i = false) ∧ (tlyAdmits v (coreBrand v p) u i [] = false)) ∧
    (let e : QEnt := { ent (0x34 * 2 ^ 56) with vals := [2 ^ 15, 0, 0] }; let s : State := coreMod 0 (fun x => { x with qx := [e] }) (tpad0); let c : Nat := 0; let p := pcore s c; let v := xMark p e s; let u := cwUnit (tlyRc e); let i := cwIndex (tlyRc e); (xHead s p = some e) ∧ (e.op = 0x34) ∧ (xMayStart s p e = true) ∧ (tlyStuck s u i = false) ∧ (tlyAdmits v (coreBrand v p) u i [] = true)) ∧
    (let e : QEnt := { ent (0x34 * 2 ^ 56) with vals := [] }; let s : State := coreMod 0 (fun x => { x with qx := [e] }) (tpad1); let c : Nat := 0; let p := pcore s c; let v := xMark p e s; let u := cwUnit (tlyRc e); let i := cwIndex (tlyRc e); (xHead s p = some e) ∧ (e.op = 0x34) ∧ (xMayStart s p e = true) ∧ (tlyStuck s u i = false) ∧ (tlyAdmits v (coreBrand v p) u i [] = false)) ∧
    (let k : TPkt := { tk0 with op := 0, ret := [0] }; let s : State := { up with tlyQ := [k] }; let i : Nat := 0; (tlyPacket s i = some k) ∧ (k.op = 0) ∧ (tlyAdmits s k.brand k.unit k.idx k.g1 = true)) ∧
    (let k : TPkt := { tk0 with op := 0, ret := [0], brand := 0x7F }; let s : State := { up with tlyQ := [k] }; let i : Nat := 0; (tlyPacket s i = some k) ∧ (k.op = 0) ∧ (tlyAdmits s k.brand k.unit k.idx k.g1 = false)) ∧
    (let k : TPkt := { tk0 with op := 7, ret := [0] }; let s : State := { up with tlyQ := [k] }; let i : Nat := 0; (tlyPacket s i = some k) ∧ (k.op = 7)) ∧
    (let k : TPkt := { tk0 with op := 1, ret := [0] }; let s : State := { up with tlyQ := [k] }; let i : Nat := 0; (tlyPacket s i = some k) ∧ (k.op = 1) ∧ (tlyAdmits s k.brand k.unit k.idx k.g1 = true)) ∧
    (let k : TPkt := { tk0 with op := 1, ret := [0], brand := 0x7F }; let s : State := { up with tlyQ := [k] }; let i : Nat := 0; (tlyPacket s i = some k) ∧ (k.op = 1) ∧ (tlyAdmits s k.brand k.unit k.idx k.g1 = false)) ∧
    (let k : TPkt := { tk0 with op := 5, ret := [1, 0, 0] }; let e : QEnt := ent (0x31 * 2 ^ 56); let s : State := coreMod 0 (fun x => { x with qx := [e] }) ({ up with tlyQ := [k] }); let i : Nat := 0; let a : Nat := 0; let b0 : Nat := 0; (tlyPacket s i = some k) ∧ (k.op = 5) ∧ (k.ret = [1, a, b0]) ∧ (qFind s a .x b0 = some e)) ∧
    (let k : TPkt := { tk0 with op := 5, ret := [3, 0, 0] }; let s : State := { up with tlyQ := [k] }; let i : Nat := 0; let a : Nat := 0; let b0 : Nat := 0; (tlyPacket s i = some k) ∧ (k.op = 5) ∧ (k.ret = [3, a, b0])) ∧
    (let k : TPkt := { tk0 with op := 6, ret := [0] }; let s : State := { up with tlyQ := [k] }; let i : Nat := 0; (tlyPacket s i = some k) ∧ (k.op = 6)) ∧
    (let u0 : Nat := 11; let i : Nat := 1023; (i < tlyCounters u0)) ∧
    (let u0 : Nat := 7; let i : Nat := 4095; (i < tlyCounters u0)) ∧
    (let s : State := up; let u0 : Nat := 11; let k : Nat := 255; (4 * k < tlyCounters u0) ∧ (watchRd s TLY_WATCH_pending KTLY_WATCH_pending u0 k = 0)) := by
  and_intros <;> decide +kernel

theorem w_byrePoolsComplete :
    (let e : QEnt := { ent (0x40 * 2 ^ 56) with vals := [] }; let s : State := coreMod 0 (fun x => { x with qx := [e] }) (up); let c : Nat := 0; let p := pcore s c; (xHead s p = some e) ∧ (e.op = 0x40) ∧ (xMayStart s p e = true)) ∧
    (let e : QEnt := { ent (0x41 * 2 ^ 56) with vals := [] }; let s : State := coreMod 0 (fun x => { x with qx := [e] }) (up); let c : Nat := 0; let p := pcore s c; (xHead s p = some e) ∧ (e.op = 0x41) ∧ (xMayStart s p e = true)) ∧
    (let r : ByrReq := ⟨false, 0, 0, 0, 0x12, 0, 0, 0, 0, 0, []⟩; let s : State := { wr (GAT_POOL_owner.ix 0) 8 0x11 up with byrQ := [r] }; let i : Nat := 0; (byrPacket s i false = some r) ∧ (poolGate s r = 2)) ∧
    (let r : ByrReq := ⟨false, 0, 0, 0, 0x12, 0, 0, 0, 0, 0, []⟩; let s : State := { wr (BYR_QLIM_quota.ix 0) 0 1 (wr (BYR_QKEY_valid.ix 0) 0 1 (wr (BYR_QKEY_brand.ix 0) 0 0x12 (wr (GAT_POOL_owner.ix 0) 8 0 up))) with byrQ := [r] }; let i : Nat := 0; (byrPacket s i false = some r) ∧ (poolGate s r = 1)) ∧
    (let r : ByrReq := ⟨false, 0, 0, 0, 0, 0, 0, 0, 0, 0, []⟩; let s : State := { up with byrQ := [r] }; let i : Nat := 0; (byrPacket s i false = some r) ∧ (poolGate s r = 0)) ∧
    (let r : ByrReq := ⟨true, 0, 0, 0, 0x12, 0, 0, 0, 0, 0, []⟩; let s : State := { wr (GAT_POOL_owner.ix 0) 8 0x11 up with byrQ := [r] }; let i : Nat := 0; (byrPacket s i true = some r) ∧ (poolGate s r = 2)) ∧
    (let r : ByrReq := ⟨true, 0, 0, 0, 0x12, 0, 0, 0, 0, 0, []⟩; let s : State := { wr (BYR_QLIM_quota.ix 0) 0 1 (wr (BYR_QKEY_valid.ix 0) 0 1 (wr (BYR_QKEY_brand.ix 0) 0 0x12 (wr (GAT_POOL_owner.ix 0) 8 0 up))) with byrQ := [r] }; let i : Nat := 0; (byrPacket s i true = some r) ∧ (poolGate s r = 1)) ∧
    (let r : ByrReq := ⟨true, 0, 0, 0, 0, 0, 0, 0, 0, 0, []⟩; let s : State := { up with byrQ := [r] }; let i : Nat := 0; (byrPacket s i true = some r) ∧ (poolGate s r = 0)) ∧
    (let s : State := up; let brand : Nat := 0; let d0 : Nat := 1; let d2 := d0 % 2; let v := accFlush s; (mainPowered v = true) ∧ (csrGate v brand (8 + d2) 0x830008 8 true = 0)) ∧
    (let s : State := wr (BYR_PCFG_count.ix 0) 0 1 (wr (BYR_PLEDG_ledger.ix 0) 0 1 (wr PST_MEMMAP_usable_gib 10 24 up)); let d0 : Nat := 0; let j : Nat := 0; let d2 := d0 % 2; let j2 := j % 256; (createErr s d2 j2 = 0)) ∧
    (let s : State := up; let d0 : Nat := 0; let j : Nat := 0; let c : Nat := 2; let d2 := d0 % 2; let j2 := j % 256; (createErr s d2 j2 = c) ∧ (c ≠ 0)) ∧
    (let s : State := cmdPut 0 1 0 up; let d0 : Nat := 0; let d2 := d0 % 2; (cmdOp s d2 = 1)) ∧
    (let s : State := wr (BYR_PSTAT_created.ix 0) 0 1 up; let d0 : Nat := 0; let j : Nat := 0; let d2 := d0 % 2; let j2 := j % 256; let err := if rdB s BYR_CMDSTAT_busy d2 ∨ !poolCreated s d2 j2 then 1 else if (!poolBroken s d2 j2 ∧ poolFree s d2 j2 < poolCount s d2 j2) ∨ !(poolGet s d2 j2).reclaim.isEmpty then 4 else 0; (err = 0)) ∧
    (let s : State := up; let d0 : Nat := 0; let j : Nat := 0; let c : Nat := 1; let d2 := d0 % 2; let j2 := j % 256; let err := if rdB s BYR_CMDSTAT_busy d2 ∨ !poolCreated s d2 j2 then 1 else if (!poolBroken s d2 j2 ∧ poolFree s d2 j2 < poolCount s d2 j2) ∨ !(poolGet s d2 j2).reclaim.isEmpty then 4 else 0; (err = c) ∧ (c ≠ 0)) ∧
    (let s : State := wr (BYR_PSTAT_created.ix 0) 0 1 up; let d0 : Nat := 0; let j : Nat := 0; let d2 := d0 % 2; let j2 := j % 256; let err := if rdB s BYR_CMDSTAT_busy d2 ∨ !poolCreated s d2 j2 then 1 else 0; (err = 0)) ∧
    (let s : State := up; let d0 : Nat := 0; let j : Nat := 0; let c : Nat := 1; let d2 := d0 % 2; let j2 := j % 256; let err := if rdB s BYR_CMDSTAT_busy d2 ∨ !poolCreated s d2 j2 then 1 else 0; (err = c) ∧ (c ≠ 0)) ∧
    (let s : State := wr (BYR_PSTAT_rebuild.ix 0) 0 1 up; let d0 : Nat := 0; let j : Nat := 0; let d2 := d0 % 2; let j2 := j % 256; (poolRebuild s d2 j2 = true)) ∧
    (let s : State := wr (BYR_PSTAT_created.ix 0) 0 1 up; let d0 : Nat := 0; let j : Nat := 0; let d2 := d0 % 2; let j2 := j % 256; let err := if rdB s BYR_CMDSTAT_busy d2 ∨ !poolCreated s d2 j2 then 1 else 0; (err = 0)) ∧
    (let s : State := up; let d0 : Nat := 0; let j : Nat := 0; let c : Nat := 1; let d2 := d0 % 2; let j2 := j % 256; let err := if rdB s BYR_CMDSTAT_busy d2 ∨ !poolCreated s d2 j2 then 1 else 0; (err = c) ∧ (c ≠ 0)) ∧
    (let s : State := cmdPut 0 4 0 up; let d0 : Nat := 0; let d2 := d0 % 2; (cmdOp s d2 = 4) ∧ ((ledgerRead d2 (cmdPool s d2) s).1 = false)) ∧
    (let s : State := poolMod 0 0 (fun x => { x with reclaim := [0] }) up; let d0 : Nat := 0; let j : Nat := 0; let d2 := d0 % 2; let j2 := j % 256; ((poolGet s d2 j2).reclaim ≠ [])) := by
  and_intros <;> decide +kernel

theorem w_foldCommandsComplete :
    (let n : Nat := 63; (n < 64)) ∧
    (let n : Nat := 63; (n < 64)) ∧
    (let n : Nat := 63; (n < 64)) ∧
    (let n : Nat := 63; (n < 64)) ∧
    (let s : State := foldMod 0 (fun x => { x with job := 3 }) up; let n : Nat := 0; ((foldGet s n).job = 3)) ∧
    (let s : State := wr (FLD_PVAR_valid.ix 0) 0 1 (foldMod 0 (fun x => { x with job := 2 }) up); let n : Nat := 0; ((foldGet s n).job = 2) ∧ (reloading s = false) ∧ (foldShift s n = false) ∧ (placement s n = none)) ∧
    (let s : State := foldMod 0 (fun x => { x with job := 2 }) up; let n : Nat := 0; let p : Nat := 0; let r := playSection n ((goldStreams s n).getD p []) s; ((foldGet s n).job = 2) ∧ (reloading s = false) ∧ (foldShift s n = false) ∧ (placement s n = some p) ∧ (r.1 = none)) ∧
    (let s : State := foldMod 0 (fun x => { x with has := true }) up; let n : Nat := 0; ((foldGet s n).has = true) ∧ ((foldGet s n).job ≠ 2) ∧ (reloading s = false) ∧ (rdB s (FLD_PSTAT_golden_done.ix n) 0 = false)) ∧
    (let s : State := foldMod 0 (fun x => { x with job := 5 }) up; let n : Nat := 0; let p : Nat := 0; let r := playSection n ((goldStreams s n).getD ((foldGet s n).sect * ((foldGet s n).vars + 1) + p) []) s; ((foldGet s n).job = 5) ∧ (foldShift s n = false) ∧ (placement s n = some p) ∧ (r.1 = none)) ∧
    (let s : State := wr BEL_TICK_tick 0 70 (coreMod 0 (fun y => { y with inj := [⟨[], false⟩] }) (wr PDK_GEOM_pw 0 1 (wr PDK_GEOM_ph 0 1 (foldMod 0 (fun x => { x with job := 4, written := [0] }) up)))); let n : Nat := 0; ((foldGet s n).job = 4) ∧ (swapBlock s n = true) ∧ (parked s n = false) ∧ ((foldGet s n).since + 64 ≤ curTick s)) ∧
    (let s : State := foldReloading; let n : Nat := 0; let p : Nat := 0; let ws : List FWr := []; let k := (foldGet s n).vars; let sec := rd s (FLD_PSTAT_section.ix n) 0; let v := if (foldGet s n).written.contains (sec * (k + 1) + p) then s else goldWrite n sec p s; ((foldGet s n).job = 6) ∧ (s.repairs.any (fun r => r.pdk == n + 1) = false) ∧ (foldShift s n = false) ∧ (placement s n = some p) ∧ (goldRead v n (rd v (FLD_PSTAT_section.ix n) 0) p = some ws) ∧ ((playSection n ws v).1 = none)) := by
  and_intros <;> decide +kernel

theorem w_epochsAndWatchPairsComplete :
    ((0 < 64) ∧ (integrityOf (wr PDK_EPSTAT_phase 0 1 (wr PDK_MODE_integrity 0 1 (wr PDK_STATUS_state 0 3 up))) 0 = true) ∧ (pdkState (wr PDK_EPSTAT_phase 0 1 (wr PDK_MODE_integrity 0 1 (wr PDK_STATUS_state 0 3 up))) 0 = 3) ∧ (epPhase (wr PDK_EPSTAT_phase 0 1 (wr PDK_MODE_integrity 0 1 (wr PDK_STATUS_state 0 3 up))) 0 = 1) ∧ (quiet (wr PDK_EPSTAT_phase 0 1 (wr PDK_MODE_integrity 0 1 (wr PDK_STATUS_state 0 3 up))) 0 = true)) ∧
    ((0 < 64) ∧ (pdkState (wr PDK_EPSTAT_phase 0 2 (wr PDK_MODE_integrity 0 1 (wr PDK_STATUS_state 0 3 up))) 0 = 3) ∧ (epPhase (wr PDK_EPSTAT_phase 0 2 (wr PDK_MODE_integrity 0 1 (wr PDK_STATUS_state 0 3 up))) 0 = 2) ∧ ((pdkGet (wr PDK_EPSTAT_phase 0 2 (wr PDK_MODE_integrity 0 1 (wr PDK_STATUS_state 0 3 up))) 0).epFailed = 0) ∧ ((pdkGet (wr PDK_EPSTAT_phase 0 2 (wr PDK_MODE_integrity 0 1 (wr PDK_STATUS_state 0 3 up))) 0).epAbandoned = false) ∧ ((pdkPcores (wr PDK_EPSTAT_phase 0 2 (wr PDK_MODE_integrity 0 1 (wr PDK_STATUS_state 0 3 up))) 0).all (fun p => (coreGet (wr PDK_EPSTAT_phase 0 2 (wr PDK_MODE_integrity 0 1 (wr PDK_STATUS_state 0 3 up))) p).checks.isEmpty) = true)) ∧
    ((0 < 64) ∧ (pdkState (pdkMod 0 (fun x => { x with epAbandoned := true }) (wr PDK_EPSTAT_phase 0 1 (wr PDK_MODE_integrity 0 1 (wr PDK_STATUS_state 0 3 up)))) 0 = 3) ∧ ((epPhase (pdkMod 0 (fun x => { x with epAbandoned := true }) (wr PDK_EPSTAT_phase 0 1 (wr PDK_MODE_integrity 0 1 (wr PDK_STATUS_state 0 3 up)))) 0 = 1 ∨ epPhase (pdkMod 0 (fun x => { x with epAbandoned := true }) (wr PDK_EPSTAT_phase 0 1 (wr PDK_MODE_integrity 0 1 (wr PDK_STATUS_state 0 3 up)))) 0 = 2)) ∧ (((pdkGet (pdkMod 0 (fun x => { x with epAbandoned := true }) (wr PDK_EPSTAT_phase 0 1 (wr PDK_MODE_integrity 0 1 (wr PDK_STATUS_state 0 3 up)))) 0).epFailed ≠ 0 ∨ (pdkGet (pdkMod 0 (fun x => { x with epAbandoned := true }) (wr PDK_EPSTAT_phase 0 1 (wr PDK_MODE_integrity 0 1 (wr PDK_STATUS_state 0 3 up)))) 0).epAbandoned = true)) ∧ (((pdkGet (pdkMod 0 (fun x => { x with epAbandoned := true }) (wr PDK_EPSTAT_phase 0 1 (wr PDK_MODE_integrity 0 1 (wr PDK_STATUS_state 0 3 up)))) 0).epFailed ≠ 0 → (pdkGet (pdkMod 0 (fun x => { x with epAbandoned := true }) (wr PDK_EPSTAT_phase 0 1 (wr PDK_MODE_integrity 0 1 (wr PDK_STATUS_state 0 3 up)))) 0).epReplay ≠ rd (pdkMod 0 (fun x => { x with epAbandoned := true }) (wr PDK_EPSTAT_phase 0 1 (wr PDK_MODE_integrity 0 1 (wr PDK_STATUS_state 0 3 up)))) PDK_EPOCH_epoch 0))) ∧
    ((0 < 64) ∧ (pdkState (pdkMod 0 (fun x => { x with epFailed := 1 }) (wr PDK_EPSTAT_phase 0 1 (wr PDK_MODE_integrity 0 1 (wr PDK_STATUS_state 0 3 up)))) 0 = 3) ∧ ((epPhase (pdkMod 0 (fun x => { x with epFailed := 1 }) (wr PDK_EPSTAT_phase 0 1 (wr PDK_MODE_integrity 0 1 (wr PDK_STATUS_state 0 3 up)))) 0 = 1 ∨ epPhase (pdkMod 0 (fun x => { x with epFailed := 1 }) (wr PDK_EPSTAT_phase 0 1 (wr PDK_MODE_integrity 0 1 (wr PDK_STATUS_state 0 3 up)))) 0 = 2)) ∧ ((pdkGet (pdkMod 0 (fun x => { x with epFailed := 1 }) (wr PDK_EPSTAT_phase 0 1 (wr PDK_MODE_integrity 0 1 (wr PDK_STATUS_state 0 3 up)))) 0).epFailed ≠ 0) ∧ ((pdkGet (pdkMod 0 (fun x => { x with epFailed := 1 }) (wr PDK_EPSTAT_phase 0 1 (wr PDK_MODE_integrity 0 1 (wr PDK_STATUS_state 0 3 up)))) 0).epReplay = rd (pdkMod 0 (fun x => { x with epFailed := 1 }) (wr PDK_EPSTAT_phase 0 1 (wr PDK_MODE_integrity 0 1 (wr PDK_STATUS_state 0 3 up)))) PDK_EPOCH_epoch 0)) ∧
    ((0 < 64) ∧ (epPhase (wr PDK_EPSTAT_phase 0 3 (wr PDK_MODE_integrity 0 1 (wr PDK_STATUS_state 0 3 up))) 0 = 3)) ∧
    ((({ wr PDK_EPSTAT_drain 0 1 up with held := [hold1] } : State).held.find? (fun y => y.n == 0) = some hold1) ∧ (0 < 64) ∧ (rdB ({ wr PDK_EPSTAT_drain 0 1 up with held := [hold1] } : State) PDK_EPSTAT_drain 0 = true) ∧ (committedHeld ({ wr PDK_EPSTAT_drain 0 1 up with held := [hold1] } : State) 0 hold1 = true) ∧ (hold1.kind = 1)) ∧
    ((0 < 64) ∧ (rd (watchMod 0 (fun x => { x with copy := 1 }) (wr PDK_WPCFG_en 0 1 (wr PDK_WPSTAT_state 0 2 up))) PDK_WPSTAT_state 0 = 2) ∧ ((watchGet (watchMod 0 (fun x => { x with copy := 1 }) (wr PDK_WPCFG_en 0 1 (wr PDK_WPSTAT_state 0 2 up))) 0).copy ≠ 0) ∧ ((watchGet (watchMod 0 (fun x => { x with copy := 1 }) (wr PDK_WPCFG_en 0 1 (wr PDK_WPSTAT_state 0 2 up))) 0).ready = false) ∧ (localPartner (watchMod 0 (fun x => { x with copy := 1 }) (wr PDK_WPCFG_en 0 1 (wr PDK_WPSTAT_state 0 2 up))) 0 = some 0)) ∧
    ((0 < 64) ∧ (rd (wr PDK_WPCFG_remote 0 1 (watchMod 0 (fun x => { x with copy := 1 }) (wr PDK_WPCFG_en 0 1 (wr PDK_WPSTAT_state 0 2 up)))) PDK_WPSTAT_state 0 = 2) ∧ ((watchGet (wr PDK_WPCFG_remote 0 1 (watchMod 0 (fun x => { x with copy := 1 }) (wr PDK_WPCFG_en 0 1 (wr PDK_WPSTAT_state 0 2 up)))) 0).copy ≠ 0) ∧ ((watchGet (wr PDK_WPCFG_remote 0 1 (watchMod 0 (fun x => { x with copy := 1 }) (wr PDK_WPCFG_en 0 1 (wr PDK_WPSTAT_state 0 2 up)))) 0).ready = false) ∧ (localPartner (wr PDK_WPCFG_remote 0 1 (watchMod 0 (fun x => { x with copy := 1 }) (wr PDK_WPCFG_en 0 1 (wr PDK_WPSTAT_state 0 2 up)))) 0 = none)) ∧
    ((0 < 64) ∧ (rd (watchMod 0 (fun x => { x with copy := 1, ready := true }) (wr PDK_WPCFG_en 0 1 (wr PDK_WPSTAT_state 0 2 up))) PDK_WPSTAT_state 0 = 2) ∧ ((watchGet (watchMod 0 (fun x => { x with copy := 1, ready := true }) (wr PDK_WPCFG_en 0 1 (wr PDK_WPSTAT_state 0 2 up))) 0).copy ≠ 0) ∧ ((watchGet (watchMod 0 (fun x => { x with copy := 1, ready := true }) (wr PDK_WPCFG_en 0 1 (wr PDK_WPSTAT_state 0 2 up))) 0).ready = true)) ∧
    ((0 < 64) ∧ (canFailover (pdkMod 0 (fun x => { x with failDue := true }) (wr PDK_STATUS_state 0 6 (wr PDK_WPCFG_role 0 1 (wr PDK_WPCFG_en 0 1 (wr PDK_WPSTAT_state 0 1 up))))) 0 = true) ∧ (((pdkGet (pdkMod 0 (fun x => { x with failDue := true }) (wr PDK_STATUS_state 0 6 (wr PDK_WPCFG_role 0 1 (wr PDK_WPCFG_en 0 1 (wr PDK_WPSTAT_state 0 1 up))))) 0).failDue = true ∨ rdB (pdkMod 0 (fun x => { x with failDue := true }) (wr PDK_STATUS_state 0 6 (wr PDK_WPCFG_role 0 1 (wr PDK_WPCFG_en 0 1 (wr PDK_WPSTAT_state 0 1 up))))) PDK_WPCFG_remote 0 = true))) ∧
    ((0 < 64) ∧ ((watchGet (watchMod 0 (fun x => { x with fail := 1 }) up) 0).fail = 1) ∧ (foldShift (watchMod 0 (fun x => { x with fail := 1 }) up) 0 = false)) ∧
    ((0 < 64) ∧ (isStandby (wr PDK_WPCFG_role 0 1 (wr PDK_WPCFG_en 0 1 (wr PDK_WPSTAT_state 0 1 up))) 0 = true) ∧ (rd (wr PDK_WPCFG_role 0 1 (wr PDK_WPCFG_en 0 1 (wr PDK_WPSTAT_state 0 1 up))) PDK_WPSTAT_state 0 ≠ 0)) ∧
    ((0 < 64) ∧ (rdB (wr PDK_WPCFG_en 0 1 (wr PDK_WPSTAT_state 0 3 up)) PDK_WPCFG_en 0 = true) ∧ ((rd (wr PDK_WPCFG_en 0 1 (wr PDK_WPSTAT_state 0 3 up)) PDK_WPSTAT_state 0 = 3 ∨ rd (wr PDK_WPCFG_en 0 1 (wr PDK_WPSTAT_state 0 3 up)) PDK_WPSTAT_state 0 = 4))) ∧
    ((0 < 64) ∧ (rd (wr PDK_WPCFG_en 0 1 (wr PDK_WPSTAT_state 0 1 up)) PDK_WPSTAT_state 0 ≠ 0)) := by
  and_intros <;> decide +kernel

theorem w_ageingCommandsComplete :
    (let s : State := walking; let d0 : Nat := 0; let a : Nat := 0; let wrap : Bool := false; (d0 < 8) ∧ ((walkerGet s d0).on = true) ∧ ((walkerGet s d0).left ≠ 0) ∧ (walkNext s d0 (walkerGet s d0).at_ = some (a, wrap))) ∧
    (let s : State := reloadDue; let d0 : Nat := 0; let n : Nat := 0; let y : Nat × Nat := (0, 0); let bs : List Nat := List.replicate 128 0; (s.wlkDue.find? (fun x => x.1 / 512 == d0 && !underTest s x.1) = some y) ∧ (pcorePdk s y.1 = some n) ∧ ((foldGet s n).has = true) ∧ ((pdkState s n = 3 ∨ pdkState s n = 6)) ∧ (goldRecord s n y.1 y.2 = some bs)) ∧
    (let s : State := walkerMod 0 (fun x => { x with on := true }) up; let d0 : Nat := 0; (d0 < 8) ∧ ((walkerGet s d0).on = true)) ∧
    (let s : State := wr BEL_STATUS_state 0 3 (wr BEL_PERIOD_period_us 0 1000 (wr RTN_FREQ_f_now 0 1000 ({ up with mwins := [(0, 1)] }))); let d0 : Nat := 0; (d0 < 8) ∧ (roundFits s d0 = true) ∧ ((dieCores d0).any (underTest s) = false)) ∧
    (let s : State := mcoreMod 0 (fun m => { m with test := 1 }) up; let p : Nat := 0; (underTest s p = true)) ∧
    (let s : State := sliceStart 1 36 up; let b0 : Nat := 36; (b0 < 37) ∧ (blockTested s b0 = true)) ∧
    (let s : State := sliceStart 1 0 up; let b0 : Nat := 0; (b0 < 37) ∧ (mapGet 0 s.mslice b0 = 1)) ∧
    (let s : State := wr (MST_BLK_running.ix 0) 0 1 (wr (MST_BLK_starve.ix 0) 0 64 up); let b0 : Nat := 0; (b0 < 37) ∧ (rdB s (MST_BLK_running.ix b0) 0 = true) ∧ (64 ≤ rd s (MST_BLK_starve.ix b0) 0) ∧ (rdB s (MST_BLK_forced_next.ix b0) 0 = false)) ∧
    (let s : State := { up with repairs := [⟨0, 1, 0, 3, true, true⟩] }; let y : Nat × Repair := (0, ⟨0, 1, 0, 3, true, true⟩); (((List.range s.repairs.length).zip s.repairs).find? (fun x => x.2.stage == 3) = some y)) := by
  and_intros <;> decide +kernel

theorem w_rationCommandsComplete :
    ((grantOld staleRation = true) ∧ (rtnFlag staleRation 8 = false)) ∧
    ((inletOld staleRation = true) ∧ (rtnFlag staleRation 1 = false)) ∧
    (rd up RTN_CFG_src_grant 0 = 0) ∧
    (rd up RTN_CFG_src_inlet 0 = 0) ∧
    (64 ≤ (ratMod (fun r => { r with winTicks := 64 }) up).ration.winTicks) := by
  and_intros <;> decide +kernel

theorem w_flockbookCommandsComplete :
    ((logMute (fbkMod (fun b0 => { b0 with winOpen := true, write := some ({ r := fbr0, seq := 0, bank := 0, slot := 5, attempts := 0, kind := 0, going := false } : FbkWrite) }) up) = false) ∧ (((fbkMod (fun b0 => { b0 with winOpen := true, write := some ({ r := fbr0, seq := 0, bank := 0, slot := 5, attempts := 0, kind := 0, going := false } : FbkWrite) }) up).fbk.winOpen = true ∨ belState (fbkMod (fun b0 => { b0 with winOpen := true, write := some ({ r := fbr0, seq := 0, bank := 0, slot := 5, attempts := 0, kind := 0, going := false } : FbkWrite) }) up) = belStopped)) ∧ ((fbkMod (fun b0 => { b0 with winOpen := true, write := some ({ r := fbr0, seq := 0, bank := 0, slot := 5, attempts := 0, kind := 0, going := false } : FbkWrite) }) up).fbk.write = some ({ r := fbr0, seq := 0, bank := 0, slot := 5, attempts := 0, kind := 0, going := false } : FbkWrite)) ∧ (({ r := fbr0, seq := 0, bank := 0, slot := 5, attempts := 0, kind := 0, going := false } : FbkWrite).going = false)) ∧
    (((fbkMod (fun b0 => { b0 with write := some ({ r := fbr0, seq := 0, bank := 0, slot := 5, attempts := 0, kind := 0, going := true } : FbkWrite) }) up).fbk.write = some ({ r := fbr0, seq := 0, bank := 0, slot := 5, attempts := 0, kind := 0, going := true } : FbkWrite)) ∧ (({ r := fbr0, seq := 0, bank := 0, slot := 5, attempts := 0, kind := 0, going := true } : FbkWrite).going = true)) ∧
    (up.fbk.write = none) ∧
    (findSeq found0 (0 : Word).toNat = some 0) ∧
    (findSeq up (7 : Word).toNat = none) := by
  and_intros <;> decide +kernel

theorem w_traceSinkCommandsComplete :
    ((corePdk tracing 0 = some 0) ∧ (lineOf tracing (pcore tracing 0) 0 = some tline) ∧ ((sinkGet tracing 0).close = 0)) ∧
    (pdkCreated (wr PDK_STATUS_state 0 1 up) 0 = true) ∧
    ((pdkCreated (wr FTF_PSTAT_sink_fault 0 1 (wr PDK_STATUS_state 0 1 up)) 0 = true) ∧ (rdB (wr FTF_PSTAT_sink_fault 0 1 (wr PDK_STATUS_state 0 1 up)) FTF_PSTAT_sink_fault (ftfI (wr FTF_PSTAT_sink_fault 0 1 (wr PDK_STATUS_state 0 1 up)) 0) = true)) ∧
    (((pdkGet (pdkMod 0 (fun x => { x with crook := 1 }) up) 0).crook = 1) ∧ (((meshGet (pdkMod 0 (fun x => { x with crook := 1 }) up) 0).running = false ∨ (meshGet (pdkMod 0 (fun x => { x with crook := 1 }) up) 0).held = true)) ∧ (linesLeft (pdkMod 0 (fun x => { x with crook := 1 }) up) 0 = false) ∧ (sinkOut (pdkMod 0 (fun x => { x with crook := 1 }) up) 0 = false) ∧ ((sinkGet (pdkMod 0 (fun x => { x with crook := 1 }) up) 0).buf = [])) ∧
    ((pdkCreated (wr FTF_PSTAT_stopped 0 1 (wr PDK_STATUS_state 0 1 up)) 0 = true) ∧ (rdB (wr FTF_PSTAT_stopped 0 1 (wr PDK_STATUS_state 0 1 up)) FTF_PSTAT_stopped (ftfI (wr FTF_PSTAT_stopped 0 1 (wr PDK_STATUS_state 0 1 up)) 0) = true)) ∧
    ((pdkCreated (wr PDK_STATUS_state 0 1 up) 0 = true) ∧ (rdB (wr PDK_STATUS_state 0 1 up) FTF_PSTAT_stopped (ftfI (wr PDK_STATUS_state 0 1 up) 0) = false)) ∧
    (let r := dumpWrite 0 ((List.range (pdkCount (sinkMod 0 (fun k => { k with dump := 1 }) (wr PDK_STATUS_state 0 1 up)) 0)).flatMap (fun i => dumpPages (sinkMod 0 (fun k => { k with dump := 1 }) (wr PDK_STATUS_state 0 1 up)) 0 i ((sinkGet (sinkMod 0 (fun k => { k with dump := 1 }) (wr PDK_STATUS_state 0 1 up)) 0).dump == 2))) (sinkMod 0 (fun k => { k with dump := 1 }) (wr PDK_STATUS_state 0 1 up)); ((sinkGet (sinkMod 0 (fun k => { k with dump := 1 }) (wr PDK_STATUS_state 0 1 up)) 0).dump ≠ 0) ∧ (pdkCreated (sinkMod 0 (fun k => { k with dump := 1 }) (wr PDK_STATUS_state 0 1 up)) 0 = true) ∧ (rdB (sinkMod 0 (fun k => { k with dump := 1 }) (wr PDK_STATUS_state 0 1 up)) FTF_PSTAT_sink_fault (ftfI (sinkMod 0 (fun k => { k with dump := 1 }) (wr PDK_STATUS_state 0 1 up)) 0) = false) ∧ (r.1 = none)) := by
  and_intros <;> decide +kernel

theorem w_submissionEntriesComplete :
    ((ringHead ({ up with hostEnts := [hent] } : State) 0 0 = some hent) ∧ (hent.st = 0) ∧ (entOp hent = 0) ∧ (malformed ({ up with hostEnts := [hent] } : State) hent = false) ∧ (fnUnderReset ({ up with hostEnts := [hent] } : State) 0 = false)) ∧
    ((ringHead ({ up with hostEnts := [({ hent with words := [1, 0, 0, 0, 0, 0, 0, 0] })] } : State) 0 0 = some ({ hent with words := [1, 0, 0, 0, 0, 0, 0, 0] })) ∧ (({ hent with words := [1, 0, 0, 0, 0, 0, 0, 0] }).st = 0) ∧ (entOp ({ hent with words := [1, 0, 0, 0, 0, 0, 0, 0] }) = 1) ∧ (malformed ({ up with hostEnts := [({ hent with words := [1, 0, 0, 0, 0, 0, 0, 0] })] } : State) ({ hent with words := [1, 0, 0, 0, 0, 0, 0, 0] }) = false) ∧ (fnUnderReset ({ up with hostEnts := [({ hent with words := [1, 0, 0, 0, 0, 0, 0, 0] })] } : State) 0 = false) ∧ (({ up with hostEnts := [({ hent with words := [1, 0, 0, 0, 0, 0, 0, 0] })] } : State).hostEnts.any (fun x => x.f == 0 && x.order < ({ hent with words := [1, 0, 0, 0, 0, 0, 0, 0] }).order && x.st != 3) = false)) ∧
    ((ringHead ({ up with hostEnts := [({ hent with words := [2, 0, 0, 0, 0, 0, 0, 0] })] } : State) 0 0 = some ({ hent with words := [2, 0, 0, 0, 0, 0, 0, 0] })) ∧ (({ hent with words := [2, 0, 0, 0, 0, 0, 0, 0] }).st = 0) ∧ (entOp ({ hent with words := [2, 0, 0, 0, 0, 0, 0, 0] }) = 2) ∧ (malformed ({ up with hostEnts := [({ hent with words := [2, 0, 0, 0, 0, 0, 0, 0] })] } : State) ({ hent with words := [2, 0, 0, 0, 0, 0, 0, 0] }) = false) ∧ (fnUnderReset ({ up with hostEnts := [({ hent with words := [2, 0, 0, 0, 0, 0, 0, 0] })] } : State) 0 = false) ∧ (barWritesDone ({ up with hostEnts := [({ hent with words := [2, 0, 0, 0, 0, 0, 0, 0] })] } : State) 0 = true)) ∧
    ((ringHead ({ up with hostEnts := [({ hent with words := [3, 0, 0, 0, 0, 0, 0, 0] })] } : State) 0 0 = some ({ hent with words := [3, 0, 0, 0, 0, 0, 0, 0] })) ∧ (({ hent with words := [3, 0, 0, 0, 0, 0, 0, 0] }).st = 0) ∧ (entOp ({ hent with words := [3, 0, 0, 0, 0, 0, 0, 0] }) = 3) ∧ (malformed ({ up with hostEnts := [({ hent with words := [3, 0, 0, 0, 0, 0, 0, 0] })] } : State) ({ hent with words := [3, 0, 0, 0, 0, 0, 0, 0] }) = false) ∧ (fnUnderReset ({ up with hostEnts := [({ hent with words := [3, 0, 0, 0, 0, 0, 0, 0] })] } : State) 0 = false) ∧ ((({ up with hostEnts := [({ hent with words := [3, 0, 0, 0, 0, 0, 0, 0] })] } : State).hostEnts.filter (fun x => x.f == 0 && x.st == 1 && entOp x == 3)).length < 64)) ∧
    ((ringHead ({ up with hostEnts := [({ hent with words := [4, 0, 0, 0, 0, 0, 0, 0] })] } : State) 0 0 = some ({ hent with words := [4, 0, 0, 0, 0, 0, 0, 0] })) ∧ (({ hent with words := [4, 0, 0, 0, 0, 0, 0, 0] }).st = 0) ∧ (entOp ({ hent with words := [4, 0, 0, 0, 0, 0, 0, 0] }) = 4) ∧ (malformed ({ up with hostEnts := [({ hent with words := [4, 0, 0, 0, 0, 0, 0, 0] })] } : State) ({ hent with words := [4, 0, 0, 0, 0, 0, 0, 0] }) = false) ∧ (fnUnderReset ({ up with hostEnts := [({ hent with words := [4, 0, 0, 0, 0, 0, 0, 0] })] } : State) 0 = false) ∧ (barWritesDone ({ up with hostEnts := [({ hent with words := [4, 0, 0, 0, 0, 0, 0, 0] })] } : State) 0 = true)) ∧
    (let v := armCtx 131072 (streamSet 131072 strent ({ up with hostEnts := [strent] } : State)); (ringHead ({ up with hostEnts := [strent] } : State) 0 0 = some strent) ∧ (strent.st = 0) ∧ (entOp strent = 5) ∧ (malformed ({ up with hostEnts := [strent] } : State) strent = false) ∧ (fnUnderReset ({ up with hostEnts := [strent] } : State) 0 = false) ∧ (hostFar ({ up with hostEnts := [strent] } : State) 0 (entNat strent 8 4) = some 131072) ∧ (ctxState ({ up with hostEnts := [strent] } : State) 131072 = ctxUnarmed) ∧ (crd v DRV_CTXSTAT_arm_err 131072 = 0)) ∧
    ((ringHead ({ up with hostEnts := [({ hent with words := [6, 256, 0, 0, 0, 0, 0, 0] })] } : State) 0 0 = some ({ hent with words := [6, 256, 0, 0, 0, 0, 0, 0] })) ∧ (({ hent with words := [6, 256, 0, 0, 0, 0, 0, 0] }).st = 0) ∧ (entOp ({ hent with words := [6, 256, 0, 0, 0, 0, 0, 0] }) = 6) ∧ (malformed ({ up with hostEnts := [({ hent with words := [6, 256, 0, 0, 0, 0, 0, 0] })] } : State) ({ hent with words := [6, 256, 0, 0, 0, 0, 0, 0] }) = false) ∧ (fnUnderReset ({ up with hostEnts := [({ hent with words := [6, 256, 0, 0, 0, 0, 0, 0] })] } : State) 0 = false) ∧ (activating ({ up with hostEnts := [({ hent with words := [6, 256, 0, 0, 0, 0, 0, 0] })] } : State) = false)) ∧
    ((ringHead ({ { up with mgmt := { up.mgmt with act := 2 } } with hostEnts := [({ hent with words := [6, 256, 0, 0, 0, 0, 0, 0] })] } : State) 0 0 = some ({ hent with words := [6, 256, 0, 0, 0, 0, 0, 0] })) ∧ (({ hent with words := [6, 256, 0, 0, 0, 0, 0, 0] }).st = 0) ∧ (entOp ({ hent with words := [6, 256, 0, 0, 0, 0, 0, 0] }) = 6) ∧ (malformed ({ { up with mgmt := { up.mgmt with act := 2 } } with hostEnts := [({ hent with words := [6, 256, 0, 0, 0, 0, 0, 0] })] } : State) ({ hent with words := [6, 256, 0, 0, 0, 0, 0, 0] }) = false) ∧ (fnUnderReset ({ { up with mgmt := { up.mgmt with act := 2 } } with hostEnts := [({ hent with words := [6, 256, 0, 0, 0, 0, 0, 0] })] } : State) 0 = false) ∧ (activating ({ { up with mgmt := { up.mgmt with act := 2 } } with hostEnts := [({ hent with words := [6, 256, 0, 0, 0, 0, 0, 0] })] } : State) = true)) := by
  and_intros <;> decide +kernel

theorem w_hostRingsComplete :
    ((64 < 65) ∧ (3 < 4) ∧ (7 < 8)) ∧
    ((64 < 65) ∧ (7 < 8)) ∧
    ((64 < 65) ∧ (0 < 3) ∧ (3 < 4) ∧ (7 < 8)) ∧
    ((64 < 65) ∧ (7 < 8) ∧ (rdB up (HST_RSTAT_stage_wait.ix2 64 7) 0 = false)) ∧
    (let s : State := wr (HST_RSTAT_stage_wait.ix2 0 0) 0 1 (wr (HST_STAGE_valid.ix 0) 0 1 { ringConfigure 0 0 0 1 hostCq with hrings := [(0, { hringReset with tail := 1 })] }); (0 < 65) ∧ (0 < 8) ∧ (rdB s (HST_RSTAT_stage_wait.ix2 0 0) 0 = true) ∧ (canFetch s 0 0 = true)) ∧
    (let s : State := wr (HST_RSTAT_stage_wait.ix2 64 7) 0 1 up; (64 < 65) ∧ (7 < 8) ∧ (rdB s (HST_RSTAT_stage_wait.ix2 64 7) 0 = true) ∧ (canFetch s 64 7 = false)) ∧
    (let v := atTime 5 ({ hostCq with hostEnts := [{ hent with st := 2 }] } : State); (ringHead ({ hostCq with hostEnts := [{ hent with st := 2 }] } : State) 0 0 = some { hent with st := 2 }) ∧ (hostPoll ({ hostCq with hostEnts := [{ hent with st := 2 }] } : State) { hent with st := 2 } = some (0, 0)) ∧ (fnUnderReset ({ hostCq with hostEnts := [{ hent with st := 2 }] } : State) 0 = false) ∧ ((0 = 0 ∨ integrityOf ({ hostCq with hostEnts := [{ hent with st := 2 }] } : State) (0 - 1) = false)) ∧ (cqFree ({ hostCq with hostEnts := [{ hent with st := 2 }] } : State) 0 0 = true) ∧ ((hringGet v 0 0).since = 0)) ∧
    (((fnGet (fnMod 0 (fun x => { x with staged := [([1, 2], 0, 0, 0)] }) hostCq) 0).staged = ([1, 2], 0, 0, 0) :: ([] : List (List Nat × Nat × Nat × Nat))) ∧ (rqFree (fnMod 0 (fun x => { x with staged := [([1, 2], 0, 0, 0)] }) hostCq) 0 2 = true) ∧ (fnUnderReset (fnMod 0 (fun x => { x with staged := [([1, 2], 0, 0, 0)] }) hostCq) 0 = false)) ∧
    ((({ hostCq with pfEvents := [[1, 2]] } : State).pfEvents = [1, 2] :: ([] : List (List Nat))) ∧ (rqFree ({ hostCq with pfEvents := [[1, 2]] } : State) 0 3 = true) ∧ (fnUnderReset ({ hostCq with pfEvents := [[1, 2]] } : State) 0 = false)) := by
  and_intros <;> decide +kernel

theorem w_functionsAndLinkComplete :
    (fnExists up 0 = true) ∧
    ((fnExists (fnMod 0 (fun x => { x with d3 := true }) up) 0 = true) ∧ ((fnGet (fnMod 0 (fun x => { x with d3 := true }) up) 0).d3 = true)) ∧
    (63 < 64) ∧
    ((fnGet up 0).underReset = false) ∧
    (let v := atTime 5 (wr SHP_CLKSTAT_valid 0 15 { up with pwr := { up.pwr with perst := false } }); (rd v HST_LINK_state 0 = 4) ∧ (mainOn v = true) ∧ (v.pwr.perst = false) ∧ (natBit (rd v SHP_CLKSTAT_valid 0) 1 = true) ∧ (6 ≠ 0) ∧ (6 ≤ 6) ∧ ([1, 2, 4, 8, 16].contains 16 = true)) ∧
    ((rd (wr HST_LINK_flit 0 1 (wr HST_LINK_width 0 16 (wr HST_LINK_state 0 0 up))) HST_LINK_state 0 < 2) ∧ (8 ≤ rd (wr HST_LINK_flit 0 1 (wr HST_LINK_width 0 16 (wr HST_LINK_state 0 0 up))) HST_LINK_width 0) ∧ (rdB (wr HST_LINK_flit 0 1 (wr HST_LINK_width 0 16 (wr HST_LINK_state 0 0 up))) HST_LINK_flit 0 = true) ∧ ([1, 2, 4, 8, 16].contains 8 = true)) ∧
    (let v := atTime 200000000 (wr HST_LINK_state 0 0 up); (rd v HST_LINK_state 0 ≠ 4) ∧ (cfgReady 200000000 v = true) ∧ (fnExists v 0 = true)) := by
  and_intros <;> decide +kernel

theorem w_longtrackPortsAndPathsComplete :
    ((0 < 8) ∧ (portUp (wr LTK_PSTAT_up 0 0 ltkUp) 0 = false) ∧ (rdB (wr LTK_PSTAT_up 0 0 ltkUp) LTK_PCFG_admin_up 0 = true) ∧ (mainOn (wr LTK_PSTAT_up 0 0 ltkUp) = true) ∧ (natBit (rd (wr LTK_PSTAT_up 0 0 ltkUp) SHP_CLKSTAT_valid 0) 2 = true)) ∧
    (7 < 8) ∧
    (let v := atTime 9 ltkUp; (0 < 256) ∧ (pt LTK_PATH0_valid v 0 ≠ 0) ∧ (portUp v (0 / 32) = true) ∧ (mainOn v = true) ∧ (((lpathGet v 0).sent = 0 ∨ (lpathGet v 0).sent + 10000 ≤ 9 + 1))) ∧
    (let v := atTime 7 ltkUp; (0 < 8) ∧ (portUp v 0 = true)) ∧
    (let v := atTime 29999 ltkUp; (0 < 256) ∧ (pt LTK_PATH0_alive v 0 = 1) ∧ ((lpathGet v 0).ka + 30000 ≤ 29999 + 1)) ∧
    ((0 < 8) ∧ (portUp ltkUp 0 = true)) ∧
    (let v := atTime 7 (wr LTK_PCFG_pfc_en 0 1 ltkUp); (0 < 8) ∧ (portUp v 0 = true) ∧ (rdB v LTK_PCFG_pfc_en 0 = true)) ∧
    (let v := atTime 7 (wr LTK_PTPCFG_en 0 1 ltkUp); (rdB v LTK_PTPCFG_en 0 = true) ∧ (portUp v (rd v BEL_CFG_ptp_port 0) = true) ∧ (5000 < (sext 64 (5001 : Word).toNat).natAbs)) ∧
    (let v := atTime 7 (wr LTK_PTPCFG_en 0 1 ltkUp); (rdB v LTK_PTPCFG_en 0 = true) ∧ (portUp v (rd v BEL_CFG_ptp_port 0) = true) ∧ (¬ 5000 < (sext 64 (5000 : Word).toNat).natAbs)) ∧
    (rdB (wr LTK_PTPCFG_en 0 1 ltkUp) LTK_PTPCFG_en 0 = true) := by
  and_intros <;> decide +kernel

theorem w_longtrackRoutesComplete :
    (let v := ackRoute 0 0 (bump LTK_RXF_count 0 ltkUp); (0 < 8) ∧ (portUp ltkUp 0 = true) ∧ (frameAccepted ltkUp 0 0 6 7 5 = true) ∧ (0 % 2 ^ 32 = rt LTK_ROUTE3_rx_expect ltkUp 0) ∧ (ltkBusy v 0 = false) ∧ (((pdkGet v (rt LTK_ROUTE0_paddock ltkUp 0)).gateOpen = true ∨ pdkCreated v (rt LTK_ROUTE0_paddock ltkUp 0) = false ∨ pdkState v (rt LTK_ROUTE0_paddock ltkUp 0) < 2))) ∧
    (let v := ackRoute 0 0 (bump LTK_RXF_count 0 ltkStreaming); (0 < 8) ∧ (portUp ltkStreaming 0 = true) ∧ (frameAccepted ltkStreaming 0 0 6 7 5 = true) ∧ (0 % 2 ^ 32 = rt LTK_ROUTE3_rx_expect ltkStreaming 0) ∧ (ltkBusy v 0 = true)) ∧
    (let v := ackRoute 0 0 (bump LTK_RXF_count 0 (pdkMod 0 (fun x => { x with gateOpen := false }) (wr PDK_STATUS_state 0 2 (wr PDK_GEOM_pw 0 1 (wr PDK_GEOM_ph 0 1 ltkUp))))); (0 < 8) ∧ (portUp (pdkMod 0 (fun x => { x with gateOpen := false }) (wr PDK_STATUS_state 0 2 (wr PDK_GEOM_pw 0 1 (wr PDK_GEOM_ph 0 1 ltkUp)))) 0 = true) ∧ (frameAccepted (pdkMod 0 (fun x => { x with gateOpen := false }) (wr PDK_STATUS_state 0 2 (wr PDK_GEOM_pw 0 1 (wr PDK_GEOM_ph 0 1 ltkUp)))) 0 0 6 7 5 = true) ∧ (0 % 2 ^ 32 = rt LTK_ROUTE3_rx_expect (pdkMod 0 (fun x => { x with gateOpen := false }) (wr PDK_STATUS_state 0 2 (wr PDK_GEOM_pw 0 1 (wr PDK_GEOM_ph 0 1 ltkUp)))) 0) ∧ (ltkBusy v 0 = false) ∧ ((pdkGet v (rt LTK_ROUTE0_paddock (pdkMod 0 (fun x => { x with gateOpen := false }) (wr PDK_STATUS_state 0 2 (wr PDK_GEOM_pw 0 1 (wr PDK_GEOM_ph 0 1 ltkUp)))) 0)).gateOpen = false) ∧ (pdkCreated v (rt LTK_ROUTE0_paddock (pdkMod 0 (fun x => { x with gateOpen := false }) (wr PDK_STATUS_state 0 2 (wr PDK_GEOM_pw 0 1 (wr PDK_GEOM_ph 0 1 ltkUp)))) 0) = true) ∧ (2 ≤ pdkState v (rt LTK_ROUTE0_paddock (pdkMod 0 (fun x => { x with gateOpen := false }) (wr PDK_STATUS_state 0 2 (wr PDK_GEOM_pw 0 1 (wr PDK_GEOM_ph 0 1 ltkUp)))) 0))) ∧
    ((0 < 8) ∧ (portUp ltkUp 0 = true) ∧ (frameAccepted ltkUp 0 0 6 7 5 = true) ∧ (4294967295 % 2 ^ 32 ≠ rt LTK_ROUTE3_rx_expect ltkUp 0) ∧ (seq32Below (4294967295 % 2 ^ 32) (rt LTK_ROUTE3_rx_expect ltkUp 0) = true)) ∧
    ((0 < 8) ∧ (portUp ltkUp 0 = true) ∧ (frameAccepted ltkUp 0 0 6 7 5 = true) ∧ (1 % 2 ^ 32 ≠ rt LTK_ROUTE3_rx_expect ltkUp 0) ∧ (seq32Below (1 % 2 ^ 32) (rt LTK_ROUTE3_rx_expect ltkUp 0) = false)) ∧
    (let v := atTime 7 ltkUp; (0 < 8) ∧ (portUp v 0 = true) ∧ (frameAccepted v 0 0 6 7 5 = true)) ∧
    (let v := atTime 7 { ltkUp with ltkQ := [pkt0] }; let u := routeAnswered 0 7 (bump LTK_RXF_count 0 v); (0 < 8) ∧ (portUp v 0 = true) ∧ (frameAccepted v 0 0 6 7 5 = true) ∧ (u.ltkQ.find? (fun pkt0 => pkt0.route == 0 && pkt0.first != 0 && pkt0.seq == 0) = some pkt0)) ∧
    (let v := atTime 7 ({ ltkUp with ltkQ := [{ pkt0 with first := 0 }] } : State); (v.ltkQ[0]? = some { pkt0 with first := 0 }) ∧ ({ pkt0 with first := 0 }.first = 0)) ∧
    (let v := atTime 99999 ({ ltkUp with ltkQ := [pkt0] } : State); (v.ltkQ[0]? = some pkt0) ∧ (pkt0.first ≠ 0) ∧ (pkt0.last + rd v LTK_GCFG_rto_us 0 * 100 ≤ 99999 + 1) ∧ (portPaused v (pkt0.path / 32) = false) ∧ (routeUp v pkt0.route = true) ∧ (mainOn v = true) ∧ (pathAlive v pkt0.path = true)) ∧
    (let v := atTime 9999999 ({ ltkUp with ltkQ := [pkt0] } : State); (0 < 2048) ∧ (rt LTK_ROUTE0_valid v 0 ≠ 0) ∧ (rt LTK_ROUTE0_dead v 0 ≠ 1) ∧ (routeOldest v 0 = some pkt0) ∧ (Nat.max pkt0.first ((lrouteGet v 0).ans + 1) + rd v LTK_GCFG_route_to_us 0 * 100 ≤ 9999999 + 1) ∧ (portPaused v (pkt0.path / 32) = false)) ∧
    (2047 < 2048) := by
  and_intros <;> decide +kernel

theorem w_mctpAndPldmBaseComplete :
    ((2 < 3) ∧ (answers served 2 = true) ∧ (1 < 2) ∧ (8 ≤ 254) ∧ (254 < 255)) ∧
    ((2 < 3) ∧ (answers served 2 = true) ∧ ((1 < 0 ∨ 7 < 8 ∨ 255 ≤ 7))) ∧
    ((255 = 255 ∨ 255 = 0)) ∧
    ((5 = 1 ∨ 5 = 5)) ∧
    ((2 ≠ 255) ∧ (2 ≠ 0) ∧ (2 ≠ 1) ∧ (2 ≠ 5)) ∧
    ((0 < 3) ∧ ((emit .mctp [0, 1, 0] served).outbox.any (respOf 0) = true)) ∧
    ((0 < 3) ∧ (answers served 0 = true) ∧ (activating served = false)) ∧
    ((0 < 3) ∧ (answers served 0 = true) ∧ (pwrState served ≠ 6) ∧ (activating served = false)) := by
  and_intros <;> decide +kernel

theorem w_pldmPlatformComplete :
    ((0 < 3) ∧ (answers served 0 = true) ∧ (pwrState served ≠ 6) ∧ (activating served = false)) ∧
    ((0 < 3) ∧ (answers served 0 = true) ∧ (pwrState served ≠ 6) ∧ (activating served = false) ∧ (pdrs[Nat.max 1 0 - 1]? = some (pdrs.headD []))) ∧
    ((0 < 3) ∧ (answers served 0 = true) ∧ (pwrState served ≠ 6) ∧ (activating served = false) ∧ (pdrs[Nat.max 1 999999 - 1]? = none)) ∧
    (let v := atTime 5 evented; (eventsGo v = true) ∧ (eventNext v 5 = some 0)) ∧
    (let v := atTime 10000000 ({ evented with pldmQ := [{ plev with attempts := 2 }] } : State); (eventsGo v = true) ∧ (v.pldmQ.findIdx? (fun e => e.attempts != 0 && e.attempts < 3 && !e.acked && decide (e.sentAt + 10000000 ≤ 10000000)) = some 0)) ∧
    ((({ evented with pldmQ := [{ plev with attempts := 1 }] } : State).pldmQ[0]? = some { plev with attempts := 1 }) ∧ ({ plev with attempts := 1 }.attempts ≠ 0)) := by
  and_intros <;> decide +kernel

theorem w_pldmUpdateComplete :
    ((0 < 3) ∧ (answers served 0 = true) ∧ (activating served = false)) ∧
    ((0 < 3) ∧ (answers served 0 = true) ∧ (activating served = false) ∧ (served.mgmt.upd = 0)) ∧
    ((0 < 3) ∧ (answers (updating 1) 0 = true) ∧ (activating (updating 1) = false) ∧ ((updating 1).mgmt.upd ≠ 0) ∧ ((updating 1).mgmt.agent = 0 + 1) ∧ ((updating 1).mgmt.upd ∈ [1])) ∧
    ((0 < 3) ∧ (answers (updating 2) 0 = true) ∧ (activating (updating 2) = false) ∧ ((updating 2).mgmt.upd ≠ 0) ∧ ((updating 2).mgmt.agent = 0 + 1) ∧ ((updating 2).mgmt.upd ∈ [2])) ∧
    ((answers (updating 3) 0 = true) ∧ (activating (updating 3) = false) ∧ ((updating 3).mgmt.upd = 3) ∧ ((updating 3).mgmt.agent = 0 + 1) ∧ (100 = Nat.min 4096 ((updating 3).mgmt.size - (updating 3).mgmt.off))) ∧
    ((answers (updating 3) 0 = true) ∧ (activating (updating 3) = false) ∧ ((updating 3).mgmt.upd = 3) ∧ ((updating 3).mgmt.agent = 0 + 1) ∧ (99 ≠ Nat.min 4096 ((updating 3).mgmt.size - (updating 3).mgmt.off))) ∧
    ((updating 5).mgmt.upd = 5) ∧
    ((0 < 3) ∧ (answers (updating 5) 0 = true) ∧ (activating (updating 5) = false) ∧ ((updating 5).mgmt.upd ≠ 0) ∧ ((updating 5).mgmt.agent = 0 + 1) ∧ ((updating 5).mgmt.upd ∈ [3, 4, 5])) ∧
    ((0 < 3) ∧ (answers (updating 5) 0 = true) ∧ (activating (updating 5) = false) ∧ ((updating 5).mgmt.upd ≠ 0) ∧ ((updating 5).mgmt.agent = 0 + 1) ∧ ((updating 5).mgmt.upd ∈ [1, 2, 3, 4, 5])) := by
  and_intros <;> decide +kernel

theorem w_spdmComplete :
    ((0 < 4) ∧ (answers (spdmAt 0) 1 = true) ∧ ((0 ≠ 3 ∨ rd (spdmAt 0) HST_LINK_state 0 ≠ 4)) ∧ (activating (spdmAt 0) = false)) ∧
    ((0 < 4) ∧ (answers (spdmAt 1) 1 = true) ∧ ((0 ≠ 3 ∨ rd (spdmAt 1) HST_LINK_state 0 ≠ 4)) ∧ (activating (spdmAt 1) = false) ∧ (1 ≤ (spdmAt 1).mgmt.spdm)) ∧
    ((0 < 4) ∧ (answers (spdmAt 2) 1 = true) ∧ ((0 ≠ 3 ∨ rd (spdmAt 2) HST_LINK_state 0 ≠ 4)) ∧ (activating (spdmAt 2) = false) ∧ (2 ≤ (spdmAt 2).mgmt.spdm)) ∧
    ((0 < 4) ∧ (answers (spdmAt 3) 1 = true) ∧ ((0 ≠ 3 ∨ rd (spdmAt 3) HST_LINK_state 0 ≠ 4)) ∧ (activating (spdmAt 3) = false) ∧ (3 ≤ (spdmAt 3).mgmt.spdm)) ∧
    ((rd (wr HST_LINK_state 0 1 served) HST_LINK_state 0 ≠ 4) ∧ (answers (wr HST_LINK_state 0 1 served) 1 = true)) := by
  and_intros <;> decide +kernel

theorem w_mailboxAndActivationComplete :
    ((rdB served SHP_MBSTAT_busy 0 = false) ∧ (answers served 1 = true) ∧ (activating served = false)) ∧
    (let v := atTime 3000000 ({ served with mgmt := { served.mgmt with act := 2 } } : State); (v.mgmt.act = 2) ∧ (3000000 ≤ v.mgmt.actAt + 3000000)) ∧
    (let v := atTime 3000000 ({ served with mgmt := { served.mgmt with act := 3 } } : State); (v.mgmt.act = 3)) ∧
    (let v := atTime 3000001 ({ served with mgmt := { served.mgmt with act := 2 } } : State); (watchdogDue 3000001 v = true)) := by
  and_intros <;> decide +kernel

theorem w_coldResetComplete :
    (let v := atTime 7 ({ alive0 with pwr := { alive0.pwr with vaux := false } } : State); (v.pwr.vaux = false)) ∧
    (let v := atTime 7 alive0; (v.pwr.vaux = true)) ∧
    (let v := atTime 7 ({ alive0 with pwr := { alive0.pwr with cold := true } } : State); (v.pwr.vaux = true) ∧ (v.pwr.cold = true) ∧ (v.pwr.hot = false)) ∧
    ((({ pkgIn 0 with pwr := { alive0.pwr with hotWait := true } } : State).pwr.hotWait = true) ∧ (pwrState ({ pkgIn 0 with pwr := { alive0.pwr with hotWait := true } } : State) = 0) ∧ (rdB ({ pkgIn 0 with pwr := { alive0.pwr with hotWait := true } } : State) SHP_BOOTSTAT_no_rails 0 = false)) ∧
    (let v := atTime 7 alive0; (0 < 4) ∧ (v.pwr.cold = false) ∧ (clkValid v 0 = false)) ∧
    (let v := atTime 7 (wr SHP_CLKSTAT_valid 0 15 alive0); (3 < 4) ∧ (clkValid v 3 = true)) := by
  and_intros <;> decide +kernel

theorem w_startUpComplete :
    (let s : State := wr SHP_PWRSTAT_mem_pwren 0 1 (starting 5); let t : Nat := 7; let v := wr SHP_PWRSTAT_mem_pg 0 1 (atTime t s); (pwrState v = 1) ∧ (rd v SHP_PWRSTAT_step 0 = 5) ∧ (rdB v SHP_PWRSTAT_mem_pwren 0 = true)) ∧
    (let s : State := alive0; let t : Nat := 7; let v := wr SHP_PWRSTAT_mem_pg 0 0 (atTime t s); (rdB v SHP_PWRSTAT_rails_en 0 = true)) ∧
    (let s : State := wr (RTN_PMRAIL_valid.ix 8) 0 1 ({ starting 6 with pwr := { alive0.pwr with group := 0 } } : State); let t : Nat := 7; let r : Nat := 8; let v := atTime t s; (inS7 v = true) ∧ ((groupRails v v.pwr.group).contains r = true)) ∧
    (let s : State := starting 8; let gib : Nat := 32; let rates : List Nat := List.replicate 24 2; (pwrState s = 1) ∧ (rd s SHP_PWRSTAT_step 0 = 8) ∧ (rates.any (2 < ·) = false) ∧ (gib ∈ [4, 8, 12, 16, 24, 32])) ∧
    (let s : State := starting 9; let t : Nat := 7; let v := atTime t s; (pwrState v = 1) ∧ (rd v SHP_PWRSTAT_step 0 = 9)) ∧
    (let s : State := { pkgIn 0 with pwr := { alive0.pwr with fails := 1 } }; let t : Nat := 100000000; let v := atTime t s; (pwrState v = 0) ∧ (v.pwr.fails = 1) ∧ (rdB v SHP_BOOTSTAT_retried 0 = false) ∧ (v.pwr.failAt + 100000000 ≤ t)) ∧
    (let s : State := starting 5; let t : Nat := 7; let v := atTime t s; (pwrState v = 1) ∧ (rd v SHP_PWRSTAT_step 0 = 5)) ∧
    (let s : State := wr (RTN_PMRAIL_valid.ix 8) 0 1 ({ starting 6 with pwr := { alive0.pwr with group := 0 } } : State); let t : Nat := 7; let r : Nat := 8; let v := atTime t s; (pwrState v = 1) ∧ (rd v SHP_PWRSTAT_step 0 = 6) ∧ ((groupRails v v.pwr.group).find? (fun k => !railGood v k) = some r)) ∧
    (let s : State := { alive0 with pmTry := [(0, 1)] }; let r : Nat := 0; (r < 9) ∧ ((mapGet 0 s.pmTry r ≠ 0 ∨ inS7 s = true))) ∧
    (let s : State := alive0; (pwrState s ≠ 6) ∧ (s.pwr.cold = false) ∧ (activating s = false)) ∧
    (let s : State := { alive0 with mgmt := { alive0.mgmt with act := 2 } }; (pwrState s ≠ 6) ∧ (s.pwr.cold = false) ∧ (activating s = true)) := by
  and_intros <;> decide +kernel

theorem w_shutDownComplete :
    ((3 ≠ 0) ∧ (3 ≤ 6) ∧ (3 ≠ 2)) ∧
    (2 = 2) ∧
    (((allCommitted (wr FBK_STAT_log_mute 0 1 (wr SHP_PWRSTAT_step 0 3 (pkgIn 4))) = true ∨ logMute (wr FBK_STAT_log_mute 0 1 (wr SHP_PWRSTAT_step 0 3 (pkgIn 4))) = true ∨ (wr FBK_STAT_log_mute 0 1 (wr SHP_PWRSTAT_step 0 3 (pkgIn 4))).pwr.sdTick + 2 < curTick (wr FBK_STAT_log_mute 0 1 (wr SHP_PWRSTAT_step 0 3 (pkgIn 4))))) ∧ (pwrState (wr FBK_STAT_log_mute 0 1 (wr SHP_PWRSTAT_step 0 3 (pkgIn 4))) = 4) ∧ (rd (wr FBK_STAT_log_mute 0 1 (wr SHP_PWRSTAT_step 0 3 (pkgIn 4))) SHP_PWRSTAT_step 0 = 3)) ∧
    (((allCommitted (wr BEL_STATUS_state 0 2 (wr FBK_STAT_log_mute 0 1 (pkgIn 5))) = true ∨ logMute (wr BEL_STATUS_state 0 2 (wr FBK_STAT_log_mute 0 1 (pkgIn 5))) = true ∨ (wr BEL_STATUS_state 0 2 (wr FBK_STAT_log_mute 0 1 (pkgIn 5))).pwr.sdTick + 2 < curTick (wr BEL_STATUS_state 0 2 (wr FBK_STAT_log_mute 0 1 (pkgIn 5))))) ∧ (pwrState (wr BEL_STATUS_state 0 2 (wr FBK_STAT_log_mute 0 1 (pkgIn 5))) = 5) ∧ (belState (wr BEL_STATUS_state 0 2 (wr FBK_STAT_log_mute 0 1 (pkgIn 5))) ≠ belStopped)) ∧
    ((pwrState (wr SHP_PWRSTAT_step 0 4 (pkgIn 4)) = 4) ∧ (rd (wr SHP_PWRSTAT_step 0 4 (pkgIn 4)) SHP_PWRSTAT_step 0 = 4)) ∧
    ((pwrState alive0 = 2) ∧ ((pdksCreated alive0).isEmpty = true)) ∧
    (let v := atTime 7 (pkgIn 3); (pwrState v = 3) ∧ (rdB v SHP_STRAP_scan_used 0 = false)) ∧
    (let v := atTime 7 (pkgIn 1); (pwrState v ≠ 0) ∧ (pwrState v < 5)) := by
  and_intros <;> decide +kernel

theorem w_testAccessComplete :
    (tapOn alive0 = true) ∧
    ((tapOn (pkgIn 3) = true) ∧ ((pwrState (pkgIn 3) = 0 ∨ pwrState (pkgIn 3) = 6 ∨ pwrState (pkgIn 3) = 3))) ∧
    ((tapOn alive0 = true) ∧ (pwrState alive0 ≠ 0) ∧ (pwrState alive0 ≠ 6) ∧ (pwrState alive0 ≠ 3)) ∧
    (tapOn State.reset = false) := by
  and_intros <;> decide +kernel

end Sys2Proof.Tests
end

section
/-! PROOFS. Access codes (spec/00_scope.md R4, R7, R10; R56): what a write and a read make of each bit of a register. -/

namespace Sys2Proof.Machine

/-! ### Bits of a field -/

/-- Bit k of a word, as a field of one bit. -/
theorem getLsbD_eq_fieldGet (w : Word) (k : Nat) : w.getLsbD k = decide (fieldGet w k k = 1) := by
  simp [fieldGet, BitVec.getLsbD, Nat.testBit_eq_decide_div_mod_eq]

/-- Writing a field changes its own bits alone. -/
theorem getLsbD_fieldPut (w : Word) {hi lo : Nat} (v k : Nat) (h1 : lo ≤ hi) (h2 : hi < 64) :
    (fieldPut w hi lo v).getLsbD k = if lo ≤ k ∧ k ≤ hi then v.testBit (k - lo) else w.getLsbD k := by
  split
  case isTrue h =>
    have e := congrArg (Nat.testBit · (k - lo)) (fieldGet_put_same w hi lo v h1 h2)
    rw [BitVec.getLsbD]
    simpa [fieldGet, Nat.testBit_mod_two_pow, Nat.testBit_div_two_pow, h.1, show k - lo < hi + 1 - lo by omega] using e
  case isFalse h =>
    rw [getLsbD_eq_fieldGet, getLsbD_eq_fieldGet w]
    rcases Nat.lt_or_ge k lo with hk | hk
    · rw [fieldGet_put_below w hi lo v k k h1 h2 hk]
    · rw [fieldGet_put_above w hi lo v k k h1 h2 (by omega)]

/-- Bit k - lo of the field that holds bit k is bit k of the word. -/
theorem testBit_fieldGet (w : Word) {hi lo k : Nat} (h1 : lo ≤ k) (h2 : k ≤ hi) :
    (fieldGet w hi lo).testBit (k - lo) = w.getLsbD k := by
  simp [fieldGet, BitVec.getLsbD, Nat.testBit_mod_two_pow, Nat.testBit_div_two_pow, h1, show k - lo < hi + 1 - lo by omega]

/-- The mask of bits hi down to lo. -/
theorem testBit_fieldMask {hi lo k : Nat} (h : lo ≤ hi) : (2 ^ (hi + 1) - 2 ^ lo).testBit k = decide (lo ≤ k ∧ k ≤ hi) := by
  have e : 2 ^ (hi + 1) - 2 ^ lo = 2 ^ lo * (2 ^ (hi + 1 - lo) - 1) := by
    rw [Nat.mul_sub, ← pow_add, Nat.mul_one]; congr 2; omega
  rw [e, Nat.testBit_two_pow_mul, Nat.testBit_two_pow_sub_one, Bool.eq_iff_iff]
  simp
  omega

/-- A write of W1C bits clears those of the field that are written as 1 (R4). -/
theorem getLsbD_clearOnes (w data : Word) {hi lo : Nat} (k : Nat) (h1 : lo ≤ hi) :
    (BitVec.ofNat 64 (Nat.land w.toNat (2 ^ 64 - 1 - Nat.land data.toNat (2 ^ (hi + 1) - 2 ^ lo)))).getLsbD k =
      if lo ≤ k ∧ k ≤ hi then w.getLsbD k && !data.getLsbD k else w.getLsbD k := by
  have hm : Nat.land data.toNat (2 ^ (hi + 1) - 2 ^ lo) < 2 ^ 64 := lt_of_le_of_lt Nat.and_le_left data.isLt
  have hk : (Nat.land data.toNat (2 ^ (hi + 1) - 2 ^ lo)).testBit k = (data.getLsbD k && decide (lo ≤ k ∧ k ≤ hi)) := by
    rw [← testBit_fieldMask h1]; exact Nat.testBit_and _ _ _
  have ha : (Nat.land w.toNat (2 ^ 64 - 1 - Nat.land data.toNat (2 ^ (hi + 1) - 2 ^ lo))).testBit k =
      (w.getLsbD k && (decide (k < 64) && !(data.getLsbD k && decide (lo ≤ k ∧ k ≤ hi)))) := by
    rw [← hk, Nat.sub_sub, Nat.add_comm 1, ← Nat.testBit_two_pow_sub_succ hm]; exact Nat.testBit_and _ _ _
  rw [BitVec.getLsbD_ofNat, ha]
  by_cases h : k < 64
  · by_cases hc : lo ≤ k ∧ k ≤ hi
    · simp only [h, hc, and_self, decide_true, Bool.and_true, Bool.true_and, if_true]
    · simp only [h, hc, decide_true, decide_false, Bool.and_false, Bool.not_false, Bool.and_true, Bool.true_and, if_false]
  · simp [h, BitVec.getLsbD_of_ge w k (by omega)]

/-! ### Fields that share no bit -/

/-- Each field has a place in a word, and no two share a bit. -/
abbrev FieldsApart (fs : List FieldD) : Prop :=
  (∀ f ∈ fs, f.lo ≤ f.hi ∧ f.hi < 64) ∧ fs.Pairwise (fun f g => f.hi < g.lo ∨ g.hi < f.lo)

/-- Bit k lies in the field. -/
def FieldD.holds (k : Nat) (f : FieldD) : Bool := decide (f.lo ≤ k) && decide (k ≤ f.hi)

theorem FieldD.holds_iff {k : Nat} {f : FieldD} : f.holds k = true ↔ f.lo ≤ k ∧ k ≤ f.hi := by simp [FieldD.holds]

/-- Every register of the tables. -/
theorem blkRegs_fieldsApart (b : Blk) : ∀ r ∈ blkRegs b, FieldsApart r.fields := by cases b <;> decide +kernel

theorem hdrRegs_fieldsApart : ∀ r ∈ regs_hdr, FieldsApart r.fields := by decide +kernel

theorem findReg_mem {off : Nat} {rs : List RegD} {x : RegD × Nat} (h : findReg off rs = some x) : x.1 ∈ rs := by
  induction rs with
  | nil => cases h
  | cons r rs ih =>
    rw [findReg] at h
    obtain ⟨-, h⟩ | ⟨-, h⟩ := ite_eq_iff.mp h
    · exact List.mem_cons_of_mem _ (ih h)
    · obtain ⟨-, h⟩ | ⟨-, h⟩ := ite_eq_iff.mp h
      · cases h; exact List.mem_cons_self
      · exact List.mem_cons_of_mem _ (ih h)

/-- Every register an offset names has fields that share no bit. -/
theorem regAt_fieldsApart {b : Blk} {off : Nat} {x : RegD × Nat} (h : regAt b off = some x) : FieldsApart x.1.fields := by
  unfold regAt at h
  split at h
  · exact blkRegs_fieldsApart b _ (findReg_mem h)
  · obtain ⟨y, hy, rfl⟩ := Option.map_eq_some_iff.mp h
    exact hdrRegs_fieldsApart y.1 (findReg_mem hy)

/-- Steps that each change one field's bits: a bit in no field stays, a bit of a field is what the field's step makes of it. -/
theorem getLsbD_foldl_fields {step : Word → FieldD → Word} {bit : FieldD → Bool → Bool} {k : Nat} {fs : List FieldD}
    (hfs : FieldsApart fs)
    (hstep : ∀ f w, f.lo ≤ f.hi → f.hi < 64 → (step w f).getLsbD k = if f.holds k then bit f (w.getLsbD k) else w.getLsbD k) (w : Word) :
    (fs.foldl step w).getLsbD k = (fs.find? (FieldD.holds k)).elim (w.getLsbD k) (fun f => bit f (w.getLsbD k)) := by
  induction fs generalizing w with
  | nil => rfl
  | cons f fs ih =>
    obtain ⟨hfit, hpair⟩ := hfs
    obtain ⟨hf, hpair⟩ := List.pairwise_cons.mp hpair
    obtain ⟨h1, h2⟩ := hfit f List.mem_cons_self
    rw [List.foldl_cons, ih ⟨fun g hg => hfit g (List.mem_cons_of_mem _ hg), hpair⟩, hstep f w h1 h2, List.find?_cons]
    cases hk : f.holds k with
    | false => simp
    | true =>
      have hno : fs.find? (FieldD.holds k) = none := by
        refine List.find?_eq_none.mpr fun g hg hgk => ?_
        rw [FieldD.holds_iff] at hk hgk
        have := hf g hg
        omega
      simp [hno]

/-- What a write of data bit d makes of a bit (R4). -/
def FieldD.written (d : Bool) (f : FieldD) (old : Bool) : Bool :=
  if f.acc = .rw then d else if f.acc = .w1c then old && !d else old

/-- What a read of bytes lo to hi - 1 leaves of a bit (R4, R56). -/
def FieldD.afterRead (lo hi : Nat) (f : FieldD) (old : Bool) : Bool :=
  if f.acc = .rc ∧ lo ≤ f.lo / 8 ∧ f.hi / 8 < hi then false else old

theorem getLsbD_mergeWrite {fs : List FieldD} (hfs : FieldsApart fs) (old data : Word) (k : Nat) :
    (mergeWrite fs old data).getLsbD k =
      (fs.find? (FieldD.holds k)).elim (old.getLsbD k) (fun f => f.written (data.getLsbD k) (old.getLsbD k)) := by
  unfold mergeWrite
  refine getLsbD_foldl_fields (bit := FieldD.written (data.getLsbD k)) hfs (fun f w h1 h2 => ?_) old
  simp only [FieldD.holds_iff]
  cases hacc : f.acc with
  | rw =>
    simp only [FieldD.written, hacc, getLsbD_fieldPut _ _ _ h1 h2]
    exact ite_congr rfl (fun h => by simp [testBit_fieldGet _ h.1 h.2]) (fun _ => rfl)
  | w1c =>
    simp only [FieldD.written, hacc]
    exact getLsbD_clearOnes w data k h1
  | ro => simp [FieldD.written, hacc]
  | wo => simp [FieldD.written, hacc]
  | rc => simp [FieldD.written, hacc]

theorem getLsbD_clearRead {fs : List FieldD} (hfs : FieldsApart fs) (lo hi : Nat) (w : Word) (k : Nat) :
    (clearRead fs lo hi w).getLsbD k =
      (fs.find? (FieldD.holds k)).elim (w.getLsbD k) (fun f => f.afterRead lo hi (w.getLsbD k)) := by
  unfold clearRead
  refine getLsbD_foldl_fields (bit := FieldD.afterRead lo hi) hfs (fun f w h1 h2 => ?_) w
  simp only [FieldD.holds_iff, FieldD.afterRead, Bool.and_eq_true, beq_iff_eq, decide_eq_true_eq, and_assoc]
  by_cases hc : f.acc = .rc ∧ lo ≤ f.lo / 8 ∧ f.hi / 8 < hi
  · simp [hc, getLsbD_fieldPut _ _ _ h1 h2]
  · simp [hc]

/-- Settles O10: the fields of a register share no bit, so each bit is what the step of its own field makes of it. -/
theorem accessCodes : Obligations.AccessCodes := by
  intro b off r base hr
  have hfs : FieldsApart r.fields := regAt_fieldsApart hr
  refine ⟨fun old data k => (getLsbD_mergeWrite hfs old data k).trans ?_, fun w lo hi k => (getLsbD_clearRead hfs lo hi w k).trans ?_⟩ <;>
  · unfold FieldD.holds
    cases r.fields.find? (fun f => decide (f.lo ≤ k) && decide (k ≤ f.hi)) <;> rfl

end Sys2Proof.Machine
end

section
/-! PROOFS. Register accesses: those that meet no register (R823), those a block refuses (R6, R64, R66), and those that are served (R47, R56,
R70, R356, R357). -/

namespace Sys2Proof.Machine

/-! ### Accesses that meet no register (R823) -/

/-- A read of bytes that name no register gives zeros and changes nothing. -/
theorem readFrom_reserved {b : Blk} {inst stop : Nat} {s : State} (fuel o : Nat) (hf : stop - o ≤ fuel)
    (h : ∀ k, k < stop - o → regAt b (o + k) = none) : readFrom b inst stop fuel o s = (List.replicate (stop - o) 0, s) := by
  induction fuel generalizing o with
  | zero => simp [readFrom, Nat.le_zero.mp hf]
  | succ fuel ih =>
    unfold readFrom
    split
    case isTrue hle => simp [Nat.sub_eq_zero_of_le hle]
    case isFalse hlt =>
      have hfirst : readOne b inst stop o s = ([0], o + 1, s) := readOne_none (h 0 (by omega))
      have hrest := ih (o + 1) (by omega) fun k hk => by
        rw [Nat.add_assoc, Nat.add_comm 1]; exact h (k + 1) (by omega)
      simp only [hfirst, hrest, List.singleton_append, ← List.replicate_succ]
      congr 2
      omega

/-- An access to bytes that name no register touches none. -/
theorem touchedFrom_reserved {b : Blk} {stop : Nat} (fuel o : Nat) (h : ∀ k, k < stop - o → regAt b (o + k) = none) :
    touchedFrom b stop fuel o = [] := by
  induction fuel generalizing o with
  | zero => exact touchedFrom_zero b stop o
  | succ fuel ih =>
    rw [touchedFrom_succ]
    split
    case isTrue => rfl
    case isFalse hlt =>
      rw [show regAt b o = none from h 0 (by omega)]
      refine ih (o + 1) fun k hk => ?_
      rw [Nat.add_assoc, Nat.add_comm 1]
      exact h (k + 1) (by omega)

/-- A write that touches no register changes nothing. -/
theorem regWrite_untouched {brand : Nat} {b : Blk} {inst off size t draw : Nat} {data : Word} {s : State} (h : touched b off size = []) :
    regWrite brand b inst off size data t draw s = s := by
  unfold regWrite
  rw [h]
  exact if_pos (.inl rfl)

/-- Settles O11: byte by byte, a read finds no register; a write touches none. -/
theorem reservedOffsetsReadZero : Obligations.ReservedOffsetsReadZero := by
  refine ⟨fun s b inst off len h => ?_, fun s brand b inst off size t draw data h => ?_⟩
  · have e : off + len - off = len := Nat.add_sub_cancel_left off len
    rw [regRead, readFrom_reserved len off e.le (by rwa [e]), e]
  · exact regWrite_untouched (touchedFrom_reserved size off (by rwa [Nat.add_sub_cancel_left]))

/-! ### Refused writes (R6, R64, R66) -/

/-- The fields of the header registers that record a refusal, one for each register. -/
def refusalFields : List Fld := [HDR_REFUSE_refused, HDR_REFADDR_offset, HDR_REFCNT_count]

/-- `t` differs from `s` at most in the refusal registers of one block's header. -/
structure RecordsRefusal (b : Blk) (inst : Nat) (s t : State) : Prop where
  wf : RegsWf t
  regsOnly : ∃ m, t = { s with regs := m }
  others : ∀ (c : Blk) (i k : Nat), (∀ f ∈ refusalFields, regKey c i k ≠ regKey b inst (hdr b f).off) → rdW t c i k = rdW s c i k

theorem RecordsRefusal.refl {b : Blk} {inst : Nat} {s : State} (h : RegsWf s) : RecordsRefusal b inst s s := ⟨h, ⟨s.regs, rfl⟩, fun _ _ _ _ => rfl⟩

/-- A field of a refusal register is written. -/
theorem RecordsRefusal.wr_hdr {b : Blk} {inst : Nat} {s t : State} (h : RecordsRefusal b inst s t) (f : Fld) (v : Nat)
    (hf : ∃ g ∈ refusalFields, f.off = g.off) : RecordsRefusal b inst s (wr (hdr b f) inst v t) := by
  obtain ⟨hwf, ⟨m, rfl⟩, hothers⟩ := h
  obtain ⟨g, hg, hoff⟩ := hf
  refine ⟨regsWf_wr _ _ _ hwf, ⟨_, (wr_ex _ _ _ _).choose_spec⟩, fun c i k hk => ?_⟩
  have hkey : regKey b inst (hdr b f).off ≠ regKey c i k := by
    rw [show (hdr b f).off = (hdr b g).off from congrArg (hdrBase b + ·) hoff]; exact (hk g hg).symm
  exact (rdW_wrW_ne _ hwf hkey).trans (hothers c i k hk)

/-- A count is a write of its field. -/
theorem bump_eq_wr (f : Fld) (i : Nat) (s : State) : bump f i s = wr f i (Nat.min (rd s f i + 1) (fldMax f)) s := rfl

/-- A refusal is recorded in the refusal registers alone. -/
theorem refuseWrite_records {s : State} (b : Blk) (inst : Nat) (why : RefuseReason) (brand off : Nat) (h : RegsWf s) :
    RecordsRefusal b inst s (refuseWrite b inst why brand off s) := by
  have h0 : RecordsRefusal b inst s s := .refl h
  unfold refuseWrite
  rw [bump_eq_wr]
  refine RecordsRefusal.wr_hdr ?_ HDR_REFCNT_count _ (by decide)
  split
  · exact h0.wr_hdr HDR_REFUSE_overflow _ (by decide)
  · exact (((h0.wr_hdr HDR_REFUSE_refused _ (by decide)).wr_hdr HDR_REFUSE_reason _ (by decide)).wr_hdr HDR_REFUSE_brand _ (by decide)).wr_hdr
      HDR_REFADDR_offset _ (by decide)

/-- Header fields that share no bit share none in the header of a block. -/
theorem hdr_apart (b : Blk) {f g : Fld} (h : f.apart g = true) : (hdr b f).apart (hdr b g) = true := by
  simp only [Fld.apart, Fld.fits, hdr, Bool.and_eq_true, Bool.or_eq_true, beq_iff_eq, bne_iff_ne, ne_eq, Nat.add_left_cancel_iff,
    and_true] at h ⊢
  exact ⟨h.1.1, h.2⟩

/-- Writing a header field keeps a header field that shares no bit with it. -/
theorem rdB_wr_hdr {s : State} (b : Blk) (inst v : Nat) {f g : Fld} (hwf : RegsWf s) (h : f.apart g = true) :
    rdB (wr (hdr b f) inst v s) (hdr b g) inst = rdB s (hdr b g) inst := by
  rw [rdB_eq, rdB_eq, wr_regs_eq, rdM_wrM_apart inst v hwf (hdr_apart b h)]

/-- A refusal sets the refusal flag. -/
theorem refuseWrite_refused {s : State} (b : Blk) (inst : Nat) (why : RefuseReason) (brand off : Nat) (h : RegsWf s) :
    rdB (refuseWrite b inst why brand off s) (hdr b HDR_REFUSE_refused) inst = true := by
  unfold refuseWrite
  rw [bump_eq_wr]
  split
  case isTrue hset => rw [rdB_wr_hdr b inst _ (regsWf_wr _ _ _ h) (by decide), rdB_wr_hdr b inst _ h (by decide), hset]
  case isFalse =>
    have h1 := regsWf_wr (hdr b HDR_REFUSE_refused) inst 1 h
    have h2 := regsWf_wr (hdr b HDR_REFUSE_reason) inst (refuseCode why) h1
    have h3 := regsWf_wr (hdr b HDR_REFUSE_brand) inst brand h2
    rw [rdB_wr_hdr b inst _ (regsWf_wr _ _ _ h3) (by decide), rdB_wr_hdr b inst _ h3 (by decide), rdB_wr_hdr b inst _ h2 (by decide),
      rdB_wr_hdr b inst _ h1 (by decide), rdB_eq, wr_regs_eq, rdM_wrM_same inst 1 (show (hdr b HDR_REFUSE_refused).fits = true from rfl)]
    rfl

/-! ### A write to one register -/

section
variable {brand : Nat} {b : Blk} {inst off size o t draw : Nat} {data : Word} {r : RegD} {s : State}

/-- A block that refuses a write to one of its registers records the refusal. -/
theorem regWrite_refused {why : RefuseReason} (hshp : ¬ (b = .shp ∧ o < 8)) (hmsh : ¬ (b = .msh ∧ o = 0x14))
    (ht : touched b off size = [(r, o)]) (hw : widthOk off size [(r, o)] = true) (hj : regJudge s b inst o r (partData off o r data) = some why) :
    regWrite brand b inst off size data t draw s = refuseWrite b inst why brand o s := by
  simp [regWrite, ht, hw, hj, hshp, refusedSide, hmsh]

/-- A register whose block refuses nothing takes the write. -/
theorem regWrite_taken (hshp : ¬ (b = .shp ∧ o < 8)) (ht : touched b off size = [(r, o)]) (hw : widthOk off size [(r, o)] = true)
    (hj : regJudge s b inst o r (partData off o r data) = none) :
    regWrite brand b inst off size data t draw s = regTakes brand b inst o (partData off o r data) t draw s := by
  have hone : clearsFirst [(r, o)] = [(r, o)] := by
    cases h : r.fields.any (fun f => f.acc == .w1c) <;> simp [clearsFirst, h]
  simp [regWrite, ht, hw, hj, hshp, hone]

end

/-- Settles O13: a refused write is the record of its refusal, which stays within the refusal registers and sets the flag. -/
theorem refusedWriteChangesNothing : Obligations.RefusedWriteChangesNothing := by
  intro s brand b inst off size o t draw data r why hwf hshp hmsh ht hw hj
  have hrec : RecordsRefusal b inst s (refuseWrite b inst why brand o s) := refuseWrite_records b inst why brand o hwf
  simp only [regWrite_refused hshp hmsh ht hw hj]
  exact ⟨hrec.regsOnly, refuseWrite_refused b inst why brand o hwf, hrec.others⟩

/-! ### Accesses that are served (R47, R56, R70, R356, R357) -/

section
variable {brand die off len t draw inst o : Nat} {b : Blk} {write : Bool} {data : Word} {s : State}

/-- What a block makes of an access that reaches it. -/
def blockServes (brand : Nat) (b : Blk) (inst o len : Nat) (write : Bool) (data : Word) (t draw : Nat) (s : State) : CsrOut × State :=
  if write then (.served [], regWrite brand b inst o len data t draw s) else (.served (regRead b inst o len s).1, (regRead b inst o len s).2)

/-- An access that neither gate nor column holds up reaches the block its offset names. -/
theorem csrAccess_reaches (hp : die < 11 → mainPowered s = true) (hg : csrGate s brand die off len write = 0)
    (hw : csrWaits s brand die off = false) (hpl : csrPlace s die off = some (b, inst, o)) :
    csrAccess brand die off len write data t draw s = blockServes brand b inst o len write data t draw s := by
  have hon : ¬ (die < 11 ∧ (!mainPowered s) = true) := fun h => by simp [hp h.1] at h
  rw [csrAccess, if_neg hon]
  simp only [hg, hw, hpl, ne_eq, not_true, if_false, Bool.false_eq_true]
  rfl

/-- What CSR space makes of an access at the time of the state. -/
def csrAnswers (a : AccW) (s : State) : CsrOut × State :=
  csrAccess a.brand a.die a.off a.len a.wr (BitVec.ofNat 64 (a.data.getD 0 0)) s.now a.draw s

/-- A new register access inside the package goes to CSR space after those that waited. -/
theorem accNew_inside {a : AccW} (hk : a.kind = 0) (s : State) :
    accNew a s = csrAnswer { a with dl := noDeadline s } (csrAnswers a (accFlush s)).1 (csrAnswers a (accFlush s)).2 := by
  simp [accNew, accGo, hk, csrAnswers]

/-- A new access of the host that waits for no earlier write goes to CSR space after those that waited. -/
theorem accNew_host {a : AccW} (hk : a.kind = 1) (ht : tallyWaits (accFlush s) a.f a.die a.off a.wr = false) :
    accNew a s = barAnswer { a with dl := noDeadline s } (csrAnswers a (accFlush s)).1 (csrAnswers a (accFlush s)).2 := by
  simp [accNew, accGo, hk, ht, csrAnswers]

/-- An access of the host that CSR space serves is answered: a read completes. -/
theorem accNew_host_served {a : AccW} {bs : List Nat} (hk : a.kind = 1) (ht : tallyWaits (accFlush s) a.f a.die a.off a.wr = false)
    (hs : (csrAnswers a (accFlush s)).1 = .served bs) :
    accNew a s = if a.wr then (csrAnswers a (accFlush s)).2 else emit .cplData ([a.f, a.tag, 0] ++ bs) (csrAnswers a (accFlush s)).2 := by
  rw [accNew_host hk ht, hs]
  rfl

/-- A register access inside the package that a block serves is answered. -/
theorem accNew_served {a : AccW} (hk : a.kind = 0) (hp : a.die < 11 → mainPowered (accFlush s) = true)
    (hg : csrGate (accFlush s) a.brand a.die a.off a.len a.wr = 0) (hw : csrWaits (accFlush s) a.brand a.die a.off = false)
    (hpl : csrPlace (accFlush s) a.die a.off = some (b, inst, o)) :
    accNew a s = if a.wr then emit .ack [a.brand, a.die, a.off, 0]
        (regWrite a.brand b inst o a.len (BitVec.ofNat 64 (a.data.getD 0 0)) (accFlush s).now a.draw (accFlush s))
      else emit .regData ([a.brand, a.die, a.off] ++ (regRead b inst o a.len (accFlush s)).1) (regRead b inst o a.len (accFlush s)).2 := by
  rw [accNew_inside hk, csrAnswers]
  simp only [csrAccess_reaches hp hg hw hpl, blockServes]
  cases ha : a.wr <;> simp [csrAnswer]

/-- An access through BAR0 that its function passes on goes to the register its offset names. -/
theorem execBar0Access_passes {f off tag : Nat} (hreach : fnReached (atTime t s) f = true) (hlen : len ≠ 0)
    (hend : off + len ≤ if f = 0 then 0x4000000 else 0x1000000) (hmem : (fnGet (atTime t s) f).memEn = true)
    (hd3 : (fnGet (atTime t s) f).d3 = false) (hopen : f ≠ 0 → pdkClosed (atTime t s) (f - 1) = false)
    (hplace : (if f = 0 then pfPlace (atTime t s) off else vfPlace (atTime t s) (f - 1) off) = .csr die o) :
    execBar0Access t f tag write off len data draw s = .next (accNew { kind := 1, brand := fnBrand f, die := die, off := o, len := len,
                                                                        wr := write, data := [data.toNat], f := f, tag := tag,
                                                                        draw := draw } (atTime t s)) := by
  have hbeyond : ¬ ((!fnReached (atTime t s) f) = true ∨ len = 0 ∨ (if f = 0 then 0x4000000 else 0x1000000) < off + len) := by
    simp [hreach, hlen, hend]
  have hclosed : ¬ ((!(fnGet (atTime t s) f).memEn) = true ∨ (fnGet (atTime t s) f).d3 = true ∨
      (f ≠ 0 ∧ pdkClosed (atTime t s) (f - 1) = true)) := by
    simpa [hmem, hd3] using hopen
  rw [execBar0Access, if_neg hbeyond, if_neg hclosed, hplace]

/-- An access through BAR2 to a byte of device memory enters the fabric. -/
theorem execBar2Access_enters {off tag : Nat} {bs : List Nat} (hreach : fnReached s 0 = true) (hlen : len ≠ 0)
    (hend : off + len ≤ 2 ^ bar2Log s) (hmem : (fnGet s 0).memEn = true) (hd3 : (fnGet s 0).d3 = false) (hu : off + len ≤ memU s) :
    execBar2Access tag write off len bs s =
      .next (bar2Parts tag write (len + 1) off (if write then (bs ++ List.replicate len 0).take len else []) len s) := by
  have hbeyond : ¬ ((!fnReached s 0) = true ∨ len = 0 ∨ 2 ^ bar2Log s < off + len) := by simp [hreach, hlen, hend]
  have hclosed : ¬ ((!(fnGet s 0).memEn) = true ∨ (fnGet s 0).d3 = true) := by simp [hmem, hd3]
  rw [execBar2Access, if_neg hbeyond, if_neg hclosed, if_neg (Nat.not_lt.mpr hu)]

end

/-- Settles O22: each command is one new access, which passes its gate and column and which its block serves. -/
theorem registerAccessesComplete : Obligations.RegisterAccessesComplete := by
  refine ⟨?_, ?_, ?_, ?_, ?_⟩
  · intro s brand die off size data t draw b inst o r v hp hg hw hpl hshp ht hwidth hj
    rw [exec_registerWrite, execRegisterWrite, accNew_served rfl hp hg hw hpl, if_pos rfl]
    simp only [List.getD_cons_zero, BitVec.ofNat_toNat, BitVec.setWidth_eq]
    rw [regWrite_taken (fun h => hshp h.1) ht hwidth hj]
  · intro s brand die off len t b inst o v hp hg hw hpl
    exact congrArg Host.Outcome.next (accNew_served rfl hp hg hw hpl)
  · intro s brand c p write data v d o hp hg hw hpl
    rw [exec_mshRpdataAccess, execMshRpdataAccess, accNew_served rfl (fun _ => hp) hg hw hpl]
    simp only [coreReg, List.getD_cons_zero, BitVec.ofNat_toNat, BitVec.setWidth_eq]
    rfl
  · intro s t f tag write off len data draw die o bs u v hreach hlen hend hmem hd3 hopen hplace htly hserved
    rw [exec_bar0Access, execBar0Access_passes hreach hlen hend hmem hd3 hopen hplace]
    refine congrArg Host.Outcome.next ((accNew_host_served (bs := bs) rfl htly ?_).trans ?_)
    · simpa [csrAnswers] using hserved
    · simp only [csrAnswers, List.getD_cons_zero, BitVec.ofNat_toNat, BitVec.setWidth_eq]
      rfl
  · intro s tag write off len data hreach hlen hend hmem hd3 hu
    exact execBar2Access_enters hreach hlen hend hmem hd3 hu

end Sys2Proof.Machine
end

section
/-! PROOFS. A write narrower than its register (R56, R71). -/

namespace Sys2Proof.Machine

/-! ### The reason a refusal records (R64) -/

/-- Writing a header field keeps the value of a header field that shares no bit with it. -/
theorem rd_wr_hdr {s : State} (b : Blk) (inst v : Nat) {f g : Fld} (hwf : RegsWf s) (h : f.apart g = true) :
    rd (wr (hdr b f) inst v s) (hdr b g) inst = rd s (hdr b g) inst := by
  rw [rd_eq, rd_eq, wr_regs_eq, rdM_wrM_apart inst v hwf (hdr_apart b h)]

/-- The first refusal records its reason: only the reason is written over the reason's bits. -/
theorem refuseWrite_reason {s : State} (b : Blk) (inst : Nat) (why : RefuseReason) (brand off : Nat) (h : RegsWf s)
    (hfirst : rdB s (hdr b HDR_REFUSE_refused) inst = false) :
    rd (refuseWrite b inst why brand off s) (hdr b HDR_REFUSE_reason) inst = refuseCode why := by
  have h1 := regsWf_wr (hdr b HDR_REFUSE_refused) inst 1 h
  have h2 := regsWf_wr (hdr b HDR_REFUSE_reason) inst (refuseCode why) h1
  have h3 := regsWf_wr (hdr b HDR_REFUSE_brand) inst brand h2
  have hcode : refuseCode why % 2 ^ 2 = refuseCode why := by cases why <;> rfl
  rw [refuseWrite, if_neg (ne_true_of_eq_false hfirst), bump_eq_wr, rd_wr_hdr b inst _ (regsWf_wr _ _ _ h3) (by decide),
    rd_wr_hdr b inst _ h3 (by decide), rd_wr_hdr b inst _ h2 (by decide), rd_eq, wr_regs_eq,
    rdM_wrM_same inst _ (show (hdr b HDR_REFUSE_reason).fits = true from rfl)]
  exact hcode

/-! ### A narrow write -/

/-- A write of fewer bytes than its register has does not cover the register. -/
theorem widthOk_narrow {off size o : Nat} {r : RegD} (h : size < r.width / 8) : widthOk off size [(r, o)] = false := by
  have hpart : (decide (off ≤ o) && decide (o + r.width / 8 ≤ off + size)) = false := by
    rw [← Bool.decide_and, decide_eq_false_iff_not]
    omega
  rw [widthOk, List.all_cons, hpart, Bool.false_and, Bool.and_false]

/-- A write that does not cover its one register whole is refused with reason width. -/
theorem regWrite_width {brand : Nat} {b : Blk} {inst off size o t draw : Nat} {data : Word} {r : RegD} {s : State}
    (hshp : ¬ (b = .shp ∧ o < 8)) (hmsh : ¬ (b = .msh ∧ o = 0x14)) (ht : touched b off size = [(r, o)])
    (hw : widthOk off size [(r, o)] = false) :
    regWrite brand b inst off size data t draw s = refuseWrite b inst .width brand off s := by
  simp [regWrite, ht, hw, hshp, refusedSide, hmsh]

/-- A register below the common header is none of the refusal registers. -/
theorem regKey_below_hdr {b : Blk} {o : Nat} (inst : Nat) (f : Fld) (h : o < hdrBase b) : regKey b inst o ≠ regKey b inst (hdr b f).off := by
  simp only [regKey, hdr]
  omega

/-- Settles O21: a narrow write does not cover its register, so it is the record of a refusal with reason width. -/
theorem narrowWriteToAWideRegister : Obligations.NarrowWriteToAWideRegister := by
  intro s brand b inst off size o t draw data r hwf hwidth hsize ht hshp hmsh hbelow
  have hnarrow : widthOk off size [(r, o)] = false := widthOk_narrow (by omega)
  simp only [regWrite_width hshp hmsh ht hnarrow]
  exact ⟨refuseWrite_refused b inst .width brand off hwf, refuseWrite_reason b inst .width brand off hwf,
    (refuseWrite_records b inst .width brand off hwf).others b inst o fun f _ => regKey_below_hdr inst f hbelow⟩

end Sys2Proof.Machine
end

section
/-! PROOFS. The invariant of the machine (R84, R608): whatever the command, a step keeps it. -/

namespace Sys2Proof.Machine

/-- What is kept from one state to the next holds the invariant. -/
theorem Keeps.inv {s t : State} (h : Keeps s t) (hs : Inv s) : Inv t :=
  ⟨h.regs hs.regs, h.mem hs.mem, h.cal hs.calendar, h.staging hs.staging⟩

/-- Every command keeps what is kept: each by what its own meaning keeps, in the order of the opcode table. -/
theorem exec_keeps {s0 s : State} (h : Keeps s0 s) (c : Instr) : KeepsR s0 (exec c s) := by
  unfold exec
  cases c with
  | registerWrite => exact execRegisterWrite_keeps _ _ _ _ _ _ _ h
  | rcRead => exact execRcRead_keeps _ _ _ _ _ h
  | belStart => exact execBelStart_keeps _ h
  | bellEdge => exact execBellEdge_keeps _ h
  | bellLoss => exact execBellLoss_keeps _ h
  | internalTick => exact execInternalTick_keeps _ h
  | flywheelExhausted => exact execFlywheelExhausted_keeps _ h
  | relockLapse => exact execRelockLapse_keeps _ h
  | ptpTick => exact execPtpTick_keeps _ h
  | tickMoment => exact execTickMoment_keeps _ h
  | tickPhase1 => exact execTickPhase1_keeps _ h
  | tickPhase2 => exact execTickPhase2_keeps _ _ _ h
  | pdkCreate => exact execPdkCreate_keeps _ h
  | pdkDelete => exact execPdkDelete_keeps _ h
  | pdkRegather => exact execPdkRegather_keeps _ h
  | regatherDrainEnd => exact execRegatherDrainEnd_keeps _ _ h
  | regatherClearDone => exact execRegatherClearDone_keeps _ h
  | pdkVecWrite => exact execPdkVecWrite_keeps _ _ _ h
  | sriovVfEnableChange => exact execSriovVfEnableChange_keeps _ _ h
  | bundleIssue => exact execBundleIssue_keeps _ h
  | taskStart => exact execTaskStart_keeps _ _ h
  | taskResume => exact execTaskResume_keeps _ _ h
  | taskStop => exact execTaskStop_keeps _ _ h
  | matWld => exact execMatWld_keeps _ h
  | matMma => exact execMatMma_keeps _ h
  | matMms => exact execMatMms_keeps _ h
  | matMmt => exact execMatMmt_keeps _ h
  | mOpComplete => exact execMOpComplete_keeps _ h
  | residueCheck => exact execResidueCheck_keeps _ h
  | vecUn => exact execVecUn_keeps _ h
  | vecBin => exact execVecBin_keeps _ h
  | vecBins => exact execVecBins_keeps _ h
  | vecRed => exact execVecRed_keeps _ h
  | vecFill => exact execVecFill_keeps _ h
  | vecEpi => exact execVecEpi_keeps _ h
  | vecAccld => exact execVecAccld_keeps _ h
  | vOpComplete => exact execVOpComplete_keeps _ h
  | vwdataWrite => exact execVwdataWrite_keeps _ _ _ _ h
  | spWordServe => exact execSpWordServe_keeps _ _ _ _ h
  | spEccWriteback => exact execSpEccWriteback_keeps _ _ h
  | spWindowAccess => exact execSpWindowAccess_keeps _ _ _ _ _ _ h
  | spbselWrite => exact execSpbselWrite_keeps _ _ h
  | routeSlot => exact execRouteSlot_keeps _ h
  | holdConditionMet => exact execHoldConditionMet_keeps _ h
  | hurdleHeld => exact execHurdleHeld_keeps _ h
  | longHold => exact execLongHold_keeps _ h
  | mshPut => exact execMshPut_keeps _ h
  | mshGet => exact execMshGet_keeps _ h
  | mshDrop => exact execMshDrop_keeps _ h
  | mshCommit => exact execMshCommit_keeps _ _ h
  | xOpComplete => exact execXOpComplete_keeps _ _ h
  | mshRpdataAccess => exact execMshRpdataAccess_keeps _ _ _ _ h
  | strmAcq => exact execStrmAcq_keeps _ h
  | strmRel => exact execStrmRel_keeps _ h
  | strmResume => exact execStrmResume_keeps _ h
  | strmRearm => exact execStrmRearm_keeps _ h
  | drvArm => exact execDrvArm_keeps _ _ _ h
  | drvHalt => exact execDrvHalt_keeps _ _ h
  | drvResume => exact execDrvResume_keeps _ _ h
  | drvRearm => exact execDrvRearm_keeps _ _ h
  | rearmTakeEffect => exact execRearmTakeEffect_keeps _ _ _ h
  | drvRequestForm => exact execDrvRequestForm_keeps _ _ h
  | translationWalk => exact execTranslationWalk_keeps _ h
  | drvReadResponse => exact execDrvReadResponse_keeps _ h
  | drvWriteAck => exact execDrvWriteAck_keeps _ h
  | shareWindowStart => exact execShareWindowStart_keeps _ h
  | shareGrant => exact execShareGrant_keeps _ _ h
  | memoryRead => exact execMemoryRead_keeps _ h
  | memoryWrite => exact execMemoryWrite_keeps _ h
  | memoryScrub => exact execMemoryScrub_keeps _ h
  | hostPathWrite => exact execHostPathWrite_keeps _ h
  | hostPathRead => exact execHostPathRead_keeps _ h
  | hostReadCompletion => exact execHostReadCompletion_keeps _ _ _ _ h
  | hostWriteDiscard => exact execHostWriteDiscard_keeps _ h
  | completionTimeout => exact execCompletionTimeout_keeps _ h
  | bar0Access => exact execBar0Access_keeps _ _ _ _ _ _ _ _ h
  | bar2Access => exact execBar2Access_keeps _ _ _ _ _ h
  | translationCompletion => exact execTranslationCompletion_keeps _ _ _ _ _ _ h
  | pageRequest => exact execPageRequest_keeps h
  | prgResponse => exact execPrgResponse_keeps _ _ h
  | invalidateRequest => exact execInvalidateRequest_keeps _ _ _ _ h
  | invalidationStart => exact execInvalidationStart_keeps h
  | invalidationDone => exact execInvalidationDone_keeps h
  | whsSend => exact execWhsSend_keeps _ h
  | whsCsend => exact execWhsCsend_keeps _ h
  | whsOpen => exact execWhsOpen_keeps _ h
  | whsListen => exact execWhsListen_keeps _ h
  | whsClose => exact execWhsClose_keeps _ h
  | whsRecv => exact execWhsRecv_keeps _ h
  | whistleMessage => exact execWhistleMessage_keeps _ h
  | spillDrain => exact execSpillDrain_keeps _ _ h
  | openRequest => exact execOpenRequest_keeps _ h
  | openReply => exact execOpenReply_keeps _ h
  | closeMarker => exact execCloseMarker_keeps _ h
  | whistleAck => exact execWhistleAck_keeps _ h
  | busyRefusal => exact execBusyRefusal_keeps _ _ h
  | whistleResend => exact execWhistleResend_keeps _ _ _ h
  | whistleBrandFault => exact execWhistleBrandFault_keeps _ h
  | whsRqpop => exact execWhsRqpop_keeps _ _ h
  | tlySig => exact execTlySig_keeps _ h
  | tlyWait => exact execTlyWait_keeps _ h
  | tlyWatch => exact execTlyWatch_keeps _ h
  | tlyRead => exact execTlyRead_keeps _ h
  | tlyUnwatch => exact execTlyUnwatch_keeps _ h
  | tallyAdd => exact execTallyAdd_keeps _ h
  | tallyWaitRequest => exact execTallyWaitRequest_keeps _ h
  | tallyWaitAnswer => exact execTallyWaitAnswer_keeps _ h
  | tallyRefusal => exact execTallyRefusal_keeps _ h
  | tlyCntWrite => exact execTlyCntWrite_keeps _ _ _ h
  | tlyAddWrite => exact execTlyAddWrite_keeps _ _ _ h
  | tlyWatchCancel => exact execTlyWatchCancel_keeps _ _ h
  | byrGet => exact execByrGet_keeps _ h
  | byrPut => exact execByrPut_keeps _ h
  | byreGet => exact execByreGet_keeps _ h
  | byrePut => exact execByrePut_keeps _ h
  | byrHget => exact execByrHget_keeps _ _ _ h
  | byrHput => exact execByrHput_keeps _ _ h
  | byreCreate => exact execByreCreate_keeps _ _ h
  | byreCreateDone => exact execByreCreateDone_keeps _ h
  | byreDestroy => exact execByreDestroy_keeps _ _ h
  | byreRebuild => exact execByreRebuild_keeps _ _ h
  | byreRebuildDone => exact execByreRebuildDone_keeps _ _ h
  | byreAudit => exact execByreAudit_keeps _ _ h
  | byreAuditDone => exact execByreAuditDone_keeps _ h
  | fldLoad => exact execFldLoad_keeps _ h
  | hstFolddb => exact execHstFolddb_keeps _ h
  | fldSwap => exact execFldSwap_keeps _ _ h
  | fldVerify => exact execFldVerify_keeps _ h
  | foldLoadDone => exact execFoldLoadDone_keeps _ h
  | goldenDone => exact execGoldenDone_keeps _ h
  | swapPlayDone => exact execSwapPlayDone_keeps _ h
  | swapDropped => exact execSwapDropped_keeps _ h
  | foldReloadDone => exact execFoldReloadDone_keeps _ h
  | epochClose => exact execEpochClose_keeps _ h
  | epochDecide => exact execEpochDecide_keeps _ h
  | quench => exact execQuench_keeps _ h
  | quenchDrainEnd => exact execQuenchDrainEnd_keeps _ h
  | drainSend => exact execDrainSend_keeps _ h
  | copyPrepared => exact execCopyPrepared_keeps _ h
  | copyCommit => exact execCopyCommit_keeps _ h
  | failover => exact execFailover_keeps _ h
  | failoverRestoreDone => exact execFailoverRestoreDone_keeps _ h
  | failOverNow => exact execFailOverNow_keeps _ h
  | rePair => exact execRePair_keeps _ h
  | unpair => exact execUnpair_keeps _ h
  | walkerFrameRead => exact execWalkerFrameRead_keeps _ h
  | walkerReload => exact execWalkerReload_keeps _ _ h
  | walkerSliceEnd => exact execWalkerSliceEnd_keeps _ h
  | musterRound => exact execMusterRound_keeps _ h
  | musterCoreTestEnd => exact execMusterCoreTestEnd_keeps _ _ _ h
  | musterSliceEnd => exact execMusterSliceEnd_keeps _ _ h
  | musterSliceYield => exact execMusterSliceYield_keeps _ h
  | musterStarved => exact execMusterStarved_keeps _ h
  | columnPauseEnd => exact execColumnPauseEnd_keeps h
  | energySample => exact execEnergySample_keeps _ _ _ _ _ _ _ _ _ _ _ _ _ h
  | grantStale => exact execGrantStale_keeps h
  | inletStale => exact execInletStale_keeps h
  | telemetryCompare => exact execTelemetryCompare_keeps h
  | smbalert => exact execSmbalert_keeps _ h
  | grant => exact execGrant_keeps _ _ h
  | inlet => exact execInlet_keeps _ _ h
  | spent => exact execSpent_keeps h
  | bell => exact execBell_keeps h
  | limits => exact execLimits_keeps h
  | recordWrite => exact execRecordWrite_keeps h
  | recordCommit => exact execRecordCommit_keeps _ h
  | commitWindowEnd => exact execCommitWindowEnd_keeps h
  | fbkRselWrite => exact execFbkRselWrite_keeps _ h
  | fbkFind => exact execFbkFind_keeps _ h
  | fbkCalset => exact execFbkCalset_keeps _ h
  | fbkCalRead => exact execFbkCalRead_keeps h
  | ftfMark => exact execFtfMark_keeps _ h
  | traceLineDeliver => exact execTraceLineDeliver_keeps _ h
  | flush => exact execFlush_keeps _ h
  | release => exact execRelease_keeps _ h
  | dump => exact execDump_keeps _ _ h
  | dumpDone => exact execDumpDone_keeps _ h
  | sinkResume => exact execSinkResume_keeps _ h
  | crookStopDone => exact execCrookStopDone_keeps _ h
  | ringConfigure => exact execRingConfigure_keeps _ _ _ _ h
  | submissionDoorbell => exact execSubmissionDoorbell_keeps _ _ _ h
  | headDoorbell => exact execHeadDoorbell_keeps _ _ _ _ h
  | submissionFetch => exact execSubmissionFetch_keeps _ _ _ h
  | stageGetRetry => exact execStageGetRetry_keeps _ _ _ h
  | nop => exact execNop_keeps _ _ h
  | sqFence => exact execSqFence_keeps _ _ h
  | tadd => exact execTadd_keeps _ _ h
  | twait => exact execTwait_keeps _ _ h
  | rearm => exact execRearm_keeps _ _ h
  | stream => exact execStream_keeps _ _ h
  | fold => exact execFold_keeps _ _ h
  | completionPost => exact execCompletionPost_keeps _ _ _ h
  | faultRecordPost => exact execFaultRecordPost_keeps _ h
  | eventRecordPost => exact execEventRecordPost_keeps h
  | vfFlr => exact execVfFlr_keeps _ h
  | pfFlr => exact execPfFlr_keeps h
  | linkDown => exact execLinkDown_keeps h
  | linkUp => exact execLinkUp_keeps _ _ _ _ h
  | perstAssert => exact execPerstAssert_keeps h
  | perstDeassert => exact execPerstDeassert_keeps h
  | d3hotEntry => exact execD3hotEntry_keeps _ h
  | d0Return => exact execD0Return_keeps _ h
  | configRequest => exact execConfigRequest_keeps _ _ _ _ _ _ _ h
  | ethPortUp => exact execEthPortUp_keeps _ h
  | ethPortDown => exact execEthPortDown_keeps _ h
  | keepaliveSend => exact execKeepaliveSend_keeps _ _ h
  | keepalive => exact execKeepalive_keeps _ _ _ _ _ h
  | pathDeadTimeout => exact execPathDeadTimeout_keeps _ _ h
  | data => exact execData_keeps _ _ _ _ _ _ _ _ _ _ h
  | ack => exact execAck_keeps _ _ _ _ _ _ _ _ h
  | refuse => exact execRefuse_keeps _ _ _ _ _ _ _ _ _ h
  | frameDrop => exact execFrameDrop_keeps _ h
  | retransmit => exact execRetransmit_keeps _ _ h
  | routeTimeout => exact execRouteTimeout_keeps _ _ h
  | routeWord0Write => exact execRouteWord0Write_keeps _ _ h
  | pfcFrame => exact execPfcFrame_keeps _ _ _ _ h
  | ptpSync => exact execPtpSync_keeps _ _ h
  | ptpSyncLoss => exact execPtpSyncLoss_keeps h
  | setEndpointId => exact execSetEndpointId_keeps _ _ _ h
  | getEndpointId => exact execGetEndpointId_keeps _ h
  | getEndpointUuid => exact execGetEndpointUuid_keeps _ h
  | getMctpVersionSupport => exact execGetMctpVersionSupport_keeps _ _ h
  | getMessageTypeSupport => exact execGetMessageTypeSupport_keeps _ h
  | mctpResponseDrop => exact execMctpResponseDrop_keeps _ h
  | gettid => exact execGettid_keeps _ h
  | settid => exact execSettid_keeps _ _ h
  | getpldmversion => exact execGetpldmversion_keeps _ _ h
  | getpldmtypes => exact execGetpldmtypes_keeps _ h
  | getpldmcommands => exact execGetpldmcommands_keeps _ _ h
  | seteventreceiver => exact execSeteventreceiver_keeps _ _ _ h
  | geteventreceiver => exact execGeteventreceiver_keeps _ h
  | getsensorreading => exact execGetsensorreading_keeps _ _ h
  | getstatesensorreadings => exact execGetstatesensorreadings_keeps _ _ h
  | setstateeffecterstates => exact execSetstateeffecterstates_keeps _ _ _ h
  | getpdrrepositoryinfo => exact execGetpdrrepositoryinfo_keeps _ h
  | getpdr => exact execGetpdr_keeps _ _ h
  | getdatetime => exact execGetdatetime_keeps _ h
  | setdatetime => exact execSetdatetime_keeps _ _ _ _ _ _ _ h
  | querydeviceidentifiers => exact execQuerydeviceidentifiers_keeps _ h
  | getfirmwareparameters => exact execGetfirmwareparameters_keeps _ h
  | requestupdate => exact execRequestupdate_keeps _ h
  | passcomponenttable => exact execPasscomponenttable_keeps _ _ _ h
  | updatecomponent => exact execUpdatecomponent_keeps _ _ _ _ _ _ h
  | requestfirmwaredata => exact execRequestfirmwaredata_keeps _ _ _ h
  | applycomplete => exact execApplycomplete_keeps h
  | activatefirmware => exact execActivatefirmware_keeps _ _ h
  | getstatus => exact execGetstatus_keeps _ h
  | cancelupdatecomponent => exact execCancelupdatecomponent_keeps _ h
  | cancelupdate => exact execCancelupdate_keeps _ h
  | platformeventmessage => exact execPlatformeventmessage_keeps _ h
  | platformEventRetry => exact execPlatformEventRetry_keeps _ h
  | getVersion => exact execGetVersion_keeps _ h
  | getCapabilities => exact execGetCapabilities_keeps _ h
  | negotiateAlgorithms => exact execNegotiateAlgorithms_keeps _ _ _ h
  | getDigests => exact execGetDigests_keeps _ h
  | getCertificate => exact execGetCertificate_keeps _ _ _ _ h
  | challenge => exact execChallenge_keeps _ _ h
  | getMeasurements => exact execGetMeasurements_keeps _ _ _ h
  | spdmUnsupportedRequest => exact execSpdmUnsupportedRequest_keeps _ h
  | doeDiscovery => exact execDoeDiscovery_keeps _ h
  | setOwner => exact execSetOwner_keeps h
  | installKey => exact execInstallKey_keeps h
  | revokeKey => exact execRevokeKey_keeps h
  | advanceSvn => exact execAdvanceSvn_keeps h
  | activate => exact execActivate_keeps h
  | readBoard => exact execReadBoard_keeps h
  | liveActivationDone => exact execLiveActivationDone_keeps _ _ h
  | activationWatchdog => exact execActivationWatchdog_keeps _ h
  | vauxGood => exact execVauxGood_keeps _ h
  | vauxBrownout => exact execVauxBrownout_keeps _ h
  | krstNAssert => exact execKrstNAssert_keeps _ h
  | coldResetRelease => exact execColdResetRelease_keeps _ h
  | clockValid => exact execClockValid_keeps _ _ _ h
  | clockLoss => exact execClockLoss_keeps _ _ h
  | memPgRise => exact execMemPgRise_keeps _ h
  | memPgFall => exact execMemPgFall_keeps _ h
  | railPowerGood => exact execRailPowerGood_keeps _ _ _ h
  | memoryTrainingDone => exact execMemoryTrainingDone_keeps _ _ _ _ h
  | startupMusterDone => exact execStartupMusterDone_keeps _ _ _ _ h
  | startupRetry => exact execStartupRetry_keeps _ h
  | shutDown => exact execShutDown_keeps _ _ _ _ h
  | shutdownRecordsCommitted => exact execShutdownRecordsCommitted_keeps h
  | shutdownSuppliesOff => exact execShutdownSuppliesOff_keeps h
  | standby => exact execStandby_keeps h
  | wake => exact execWake_keeps _ _ h
  | thermalTrip => exact execThermalTrip_keeps _ h
  | k0Overtemp => exact execK0Overtemp_keeps _ h
  | k0OvertempRelease => exact execK0OvertempRelease_keeps h
  | bypass => exact execBypass_keeps h
  | idcode => exact execIdcode_keeps h
  | samplePreload => exact execSamplePreload_keeps _ _ _ _ h
  | extest => exact execExtest_keeps _ _ _ _ h
  | clamp => exact execClamp_keeps h
  | highz => exact execHighz_keeps h
  | extestPulse => exact execExtestPulse_keeps _ _ _ _ h
  | extestTrain => exact execExtestTrain_keeps _ _ _ _ h
  | pdkCommandDone => exact execPdkCommandDone_keeps _ h
  | powerGoodTimeout => exact execPowerGoodTimeout_keeps _ h
  | bankControllerFault => exact execBankControllerFault_keeps _ h
  | platformeventmessageResponse => exact execPlatformeventmessageResponse_keeps _ h
  | l0pWidthChange => exact execL0pWidthChange_keeps _ h
  | byreReclaimDone => exact execByreReclaimDone_keeps _ _ h
  | foldVerifyDone => exact execFoldVerifyDone_keeps _ h
  | smbusSclLowTimeout => exact execSmbusSclLowTimeout_keeps _ h
  | pmbusRetry => exact execPmbusRetry_keeps _ _ _ _ h
  | afterTripCooled => exact execAfterTripCooled_keeps h

/-- Taking the front command off the queue leaves the invariant as it is. -/
theorem Inv.dequeue {s : State} (h : Inv s) (cs : List Instr) : Inv { s with pending := cs } :=
  ⟨h.regs, h.mem, h.calendar, h.staging⟩

/-- Settles O2: an idle step changes nothing, and the command at the front of the queue keeps every part of the invariant. -/
theorem stepKeepsInv : Obligations.StepKeepsInv := by
  intro s t hs hstep
  unfold step at hstep
  split at hstep
  case h_1 =>
    cases hstep
    exact hs
  case h_2 c cs _ => exact (exec_keeps (.refl _) c t hstep).inv (hs.dequeue cs)

end Sys2Proof.Machine
end

section
/-! PROOFS. The timebase (spec/03_bell.md): what its commands leave where their moment has come (R73, R75, R76, R85), and the phases of a
tick (R81-R86, R118). -/

namespace Sys2Proof.Machine

/-! ### The commands of the timebase -/

/-- The state of the timebase lies below the relock count in its register, so clearing the count keeps it. -/
theorem belState_wr_relockCount (v : Nat) (s : State) : belState (wr BEL_STATUS_relock_count 0 v s) = belState s :=
  (congrArg (fieldGet · 2 0) (rdW_wrW_same s _ _ _ _)).trans
    (fieldGet_put_below _ 19 16 _ 2 0 (by decide) (by decide) (by decide))

/-- The state of the timebase is a register's, whatever else of the timebase changes. -/
theorem belState_bell (b : Bell) (s : State) : belState { s with bell := b } = belState s := rfl

/-- A good edge while Locked is accepted and is the next tick (R75). -/
theorem edgeLocked_good {t : Nat} {s : State} (h : goodInterval s (t - s.bell.accepted.getD 0) = true) :
    edgeLocked t s = takeTick t (noteInterval (t - s.bell.accepted.getD 0) { s with bell := { s.bell with accepted := some t } }) :=
  if_pos h

/-- Flywheel whose count has ended, not relocked, leaves by a tick at the instant that has come (R75). -/
theorem execFlywheelExhausted_ends {t due : Nat} {s : State} (hst : belState (refreshPtp (atTime t s)) = belFlywheel)
    (hcount : rd (refreshPtp (atTime t s)) BEL_STATUS_flywheel_count 0 = 64) (hqual : (refreshPtp (atTime t s)).bell.qualified = false)
    (hdue : exhaustAt t (refreshPtp (atTime t s)) = some due) :
    execFlywheelExhausted t s = .next (exhaust due (refreshPtp (atTime t s))) := by
  rw [execFlywheelExhausted, if_pos ⟨hst, hcount, by simp [hqual]⟩, hdue]

/-- With PTP available Flywheel ends in Lone-PTP, without it in Lone (R75). -/
theorem exhaust_ptp {due : Nat} {s : State} (h : ptpAvailable s = true) :
    exhaust due s = takeTick due (bellChange belLonePtp 0 [BEL_EVENT_ptp_entered] s) := congrArg (takeTick due) (if_pos h)

theorem exhaust_lone {due : Nat} {s : State} (h : ptpAvailable s = false) :
    exhaust due s = takeTick due (bellChange belLone 0 [BEL_EVENT_lone_entered] s) :=
  congrArg (takeTick due) (if_neg (ne_true_of_eq_false h))

/-- An internal tick that has fallen due with no relock qualified is not held back (R76). -/
theorem not_qualified_or_early {t due : Nat} {q : Bool} (hqual : q = false) (hdue : due ≤ t) : ¬ (q = true ∨ t < due) := by
  simp [hqual, hdue]

/-- Settles O23: in each state its rule names, a command takes the branch of that rule. -/
theorem timebaseCommandsComplete : Obligations.TimebaseCommandsComplete := by
  refine ⟨?_, ?_, ?_, ?_, ?_, ?_, ?_, ?_, ?_⟩
  · intro s t hstopped
    exact congrArg Host.Outcome.next (if_pos hstopped)
  · intro s t hlocked hgood
    have hrunning : belState (atTime t s) ≠ belStopped := by
      rw [show belState (atTime t s) = belLocked from hlocked]
      decide
    exact congrArg Host.Outcome.next (((if_neg hrunning).trans (if_pos hlocked)).trans (edgeLocked_good (s := atTime t s) hgood))
  · intro s t hlocked hdue
    exact congrArg Host.Outcome.next (if_pos ⟨hlocked, hdue⟩)
  · intro s t hqual hdue hlone
    have hfly : belState (refreshPtp (atTime t s)) ≠ belFlywheel := by
      rw [hlone]
      decide
    exact congrArg Host.Outcome.next
      (((if_neg (not_qualified_or_early hqual hdue)).trans (if_neg fun h => hfly h.1)).trans (if_pos hlone))
  · intro s t hqual hdue hfly hcount
    exact congrArg Host.Outcome.next ((if_neg (not_qualified_or_early hqual hdue)).trans (if_pos ⟨hfly, hcount⟩))
  · intro s t hfly hcount hqual hptp hdue
    have hat : exhaustAt t (refreshPtp (atTime t s)) = some (internalDue (refreshPtp (atTime t s))) :=
      (if_neg (ne_true_of_eq_false hptp)).trans (if_pos hdue)
    rw [exec_flywheelExhausted, execFlywheelExhausted_ends hfly hcount hqual hat, exhaust_lone hptp]
  · intro s t hfly hcount hqual hptp hdue
    have hat : exhaustAt t (refreshPtp (atTime t s)) = some t := (if_pos hptp).trans (if_pos hdue)
    rw [exec_flywheelExhausted, execFlywheelExhausted_ends hfly hcount hqual hat, exhaust_ptp hptp]
  · intro s t hqual hdue hlone
    have hfly (b : Bell) : belState (wr BEL_STATUS_relock_count 0 0 { refreshPtp (atTime t s) with bell := b }) ≠ belFlywheel := by
      rw [belState_wr_relockCount, belState_bell, hlone]
      decide
    exact congrArg Host.Outcome.next ((if_pos ⟨hqual, hdue⟩).trans (if_neg (hfly _)))
  · intro s t hqual hptp hdue hst
    have hnow : ¬ ((refreshPtp (atTime t s)).bell.qualified = true ∨ (!ptpAvailable (refreshPtp (atTime t s))) = true ∨
        t < (refreshPtp (atTime t s)).bell.lastTick.getD 0 + halfPeriod (refreshPtp (atTime t s))) := by
      simp [hqual, hptp, hdue]
    exact congrArg Host.Outcome.next ((if_neg hnow).trans (if_pos hst))

/-! ### The phases of a tick -/

/-- Settles O24: each phase runs where the one before it has. -/
theorem tickPhasesComplete : Obligations.TickPhasesComplete := by
  refine ⟨?_, ?_, ?_⟩
  · intro s mon t rest hdue hphase hact
    rw [exec_tickMoment, execTickMoment, hdue]
    simp only [hphase, ne_eq, not_true, if_false, hact, Bool.false_eq_true]
  · intro s draw hphase
    exact congrArg Host.Outcome.next (if_neg (not_not.mpr hphase))
  · intro s ok status pin hphase
    exact congrArg Host.Outcome.next (if_neg (not_not.mpr hphase))

end Sys2Proof.Machine
end

section
/-! PROOFS. Paddocks (spec/04_paddocks.md): the commands of a paddock where they are accepted (R99-R103, R109-R111), and the steps of a
regather that end by an event of their own (R112-R116). -/

namespace Sys2Proof.Machine

/-! ### The commands of a paddock -/

/-- PDK_CMD runs at once where the package serves, no command of the paddock is in progress and no live activation runs (R101, R741, R762). -/
theorem pdkCommand_accepted {n op : Nat} {s : State} (hop : op ≠ 0) (hidle : rdB s PDK_STATUS_cmd_busy n = false)
    (hserves : rd s SHP_PWRSTAT_state 0 = 2) (hact : activating s = false) : pdkCommand n op s = pdkRun n op s := by
  have htaken : ¬ (rdB s PDK_STATUS_cmd_busy n = true ∨ rd s SHP_PWRSTAT_state 0 ≠ 2) := by simp [hidle, hserves]
  rw [pdkCommand, if_neg hop, if_neg htaken, if_neg (ne_true_of_eq_false hact)]

/-- A create whose conditions still hold at its end takes its steps (R101). -/
theorem execPdkCommandDone_create {n : Nat} {s : State} (hn : n < 64) (hcmd : (pdkGet s n).cmd = 1)
    (hcode : createCode (wr PDK_STATUS_cmd_busy n 0 (pdkMod n (fun x => { x with cmd := 0 }) s)) n = 0) :
    execPdkCommandDone n s = .next (createEnd n (wr PDK_STATUS_cmd_busy n 0 (pdkMod n (fun x => { x with cmd := 0 }) s))) := by
  rw [execPdkCommandDone, if_neg (Nat.not_le.mpr hn), if_pos hcmd]
  exact congrArg Host.Outcome.next (if_neg (not_not.mpr hcode))

/-- A delete ends by freeing a paddock that is still Ready or Stranded (R103). -/
theorem execPdkCommandDone_delete {n : Nat} {s : State} (hn : n < 64) (hcmd : (pdkGet s n).cmd = 2)
    (hst : pdkState s n = 1 ∨ pdkState s n = 5) : execPdkCommandDone n s = .next (pdkFree n s) := by
  have hcreate : (pdkGet s n).cmd ≠ 1 := by simp [hcmd]
  rw [execPdkCommandDone, if_neg (Nat.not_le.mpr hn), if_neg hcreate, if_pos hcmd, if_pos hst]

/-- Coalesce lies below the vector in its entry, so writing the vector keeps it. -/
theorem rdB_wr_vecVector {n k : Nat} {s : State} (v : Nat) :
    rdB (wr (PDK_VEC_vector.ix k) n v s) (PDK_VEC_coalesce.ix k) n = rdB s (PDK_VEC_coalesce.ix k) n :=
  congrArg (· == 1) (rd_wr_apart v rfl rfl (by decide : 8 ≤ 12) (by decide : 12 < 64) (.inr (by decide : 1 < 8)))

/-- An entry of PDK_VEC that coalesces after the write sends nothing at the write (R109). -/
theorem vecWrite_coalesced {n k data : Nat} {s : State}
    (h : rdB (wr (PDK_VEC_coalesce.ix k) n (data / 2) (wr (PDK_VEC_enable.ix k) n data s)) (PDK_VEC_coalesce.ix k) n = true) :
    vecWrite n k data s =
      wr (PDK_VEC_vector.ix k) n (data / 256) (wr (PDK_VEC_coalesce.ix k) n (data / 2) (wr (PDK_VEC_enable.ix k) n data s)) :=
  if_pos (.inl ((rdB_wr_vecVector _).trans h))

/-- Settles O25: each command passes the guards its rule names and takes its effect. -/
theorem paddockCommandsComplete : Obligations.PaddockCommandsComplete := by
  refine ⟨?_, ?_, ?_, ?_, ?_, ?_, ?_⟩
  · intro s n hn hidle hserves hact
    rw [exec_pdkCreate, execPdkCreate, if_pos hn, pdkCommand_accepted (by decide) hidle hserves hact]
  · intro s n hn hidle hserves hact
    rw [exec_pdkDelete, execPdkDelete, if_pos hn, pdkCommand_accepted (by decide) hidle hserves hact]
  · intro s n hn hidle hserves hact
    rw [exec_pdkRegather, execPdkRegather, if_pos hn, pdkCommand_accepted (by decide) hidle hserves hact]
  · intro s n hn hcmd hcode
    exact execPdkCommandDone_create hn hcmd hcode
  · intro s n hn hcmd hst
    exact execPdkCommandDone_delete hn hcmd hst
  · intro s n k data hn hk hcoalesce
    rw [exec_pdkVecWrite, execPdkVecWrite, if_pos ⟨hn, hk⟩, vecWrite_coalesced hcoalesce]
  · intro s enable num
    rw [exec_sriovVfEnableChange, execSriovVfEnableChange, sriovSet]

/-! ### Steps G3 and G5 of a regather -/

/-- The drain of G3 ends where nothing of the brand is outstanding or 51 us have passed since t0 (R112, R113). -/
theorem execRegatherDrainEnd_ends {n t : Nat} {s : State} (hn : n < 64) (hst : pdkState s n = 4) (hstep : (pdkGet s n).step = 2)
    (hend : pdkOutstanding (atTime t s) n = false ∨ (pdkGet s n).t0 + 5100 ≤ t) :
    execRegatherDrainEnd n t s = .next (pdkMod n (fun x => { x with step := 4 })
      (fenceRecord n (readsArrived (atTime t s) n) (pdkOutstanding (atTime t s) n)
        (scheduleNext 0x30 n (gatesDrained n (dropReads n (atTime t s)))))) := by
  have hwaits : ¬ (pdkOutstanding (atTime t s) n = true ∧ (!decide ((pdkGet s n).t0 + 5100 ≤ t)) = true) := by
    rcases hend with hnone | hlate
    · simp [hnone]
    · simp [hlate]
  have hdrains : ¬ (64 ≤ n ∨ pdkState s n ≠ 4 ∨ (pdkGet s n).step ≠ 2 ∨
      pdkOutstanding (atTime t s) n = true ∧ (!decide ((pdkGet s n).t0 + 5100 ≤ t)) = true) :=
    not_or.mpr ⟨Nat.not_le.mpr hn, not_or.mpr ⟨not_not.mpr hst, not_or.mpr ⟨not_not.mpr hstep, hwaits⟩⟩⟩
  exact congrArg Host.Outcome.next (if_neg hdrains)

/-- The clear of G5 with neither an FLR nor a delete pending is followed by the reload (R112, R115, R116). -/
theorem execRegatherClearDone_reloads {n : Nat} {s : State} (hn : n < 64) (hst : pdkState s n = 4) (hstep : (pdkGet s n).step = 4)
    (hflr : (pdkGet s n).flr = false) (hdelete : (pdkGet s n).delete = false) :
    execRegatherClearDone n s = .next (pfFlrDone (repairCleared n
      (scheduleNext 0x20 n (pdkMod n (fun y => { y with step := 5 }) (regatherClear n s))))) := by
  have hclears : ¬ (64 ≤ n ∨ pdkState s n ≠ 4 ∨ (pdkGet s n).step ≠ 4) := by simp [hn, hst, hstep]
  rw [execRegatherClearDone, if_neg hclears]
  simp only [hflr, hdelete, Bool.false_eq_true, if_false]

/-- Settles O26: each step ends once what it waits for has come. -/
theorem regatherStepsComplete : Obligations.RegatherStepsComplete := by
  refine ⟨?_, ?_⟩
  · intro s n t v hn hst hstep hend
    exact execRegatherDrainEnd_ends hn hst hstep hend
  · intro s n hn hst hstep hflr hdelete
    exact execRegatherClearDone_reloads hn hst hstep hflr hdelete

end Sys2Proof.Machine
end

section
/-! PROOFS. What the start of a task, vector, mesh, re-arm or mark operation touches (R130, R131, R210, R221, R269, R331, R640): a
vector start can draw a free value, which lies outside the cores and the registers. -/

namespace Sys2Proof.Machine

/-- A V operation of task 0 with slot word w, as dispatch number n leaves it in its queue. -/
def vEntry (n w : Nat) : QEnt :=
  { disp := n, bun := 0, task := 0, pc := 0, slot := w, vals := [0], started := false, passed := false, startCyc := 0,
    committed := false, prog := 0, prog2 := 0, answered := false, ans := [], abandoned := false, got := [], load := [],
    turn := 0, mark := false, part := 0, fail := [] }

/-- Descriptor d of core 0: a tensor of two FP32 elements at byte `base` (R199). -/
def putPair (d base : Nat) (s : State) : State :=
  descSet 0 d 0 (base + 7 * 2 ^ 20) (descSet 0 d 1 (2 + 2 ^ 16 + 2 ^ 32 + 2 ^ 48) s)

/-- A VEC.UN that moves the tensor of descriptor 0 one element up, onto that of descriptor 1: it has started and its one read has been
served, so its beat is due. -/
def shiftedMove : QEnt := { vEntry 0 (0x01 * 2 ^ 56 + 2 ^ 46) with started := true, prog2 := 1, got := [(0, 0)] }

/-- A VEC.FILL of one element of tile 0 that waits behind it. -/
def fillTile : QEnt := vEntry 1 (0x05 * 2 ^ 56 + 2 ^ 51)

/-- Core 0 with the two operations in its V queue. -/
def beatDue : State := coreMod 0 (fun c => { c with qv := [shiftedMove, fillTile] }) (putPair 0 0 (putPair 1 4 State.reset))

/-- The start of the VEC.FILL makes the beat of the VEC.UN, whose destination overlaps its source out of place (R221): a free value is
drawn for its elements. -/
theorem startVector_beatDue_draws : (startVector 0x05 0 beatDue).freeCtr = beatDue.freeCtr + 1 := by decide +kernel

/-- Refutes O16: a vector start lets the engine go on (R219), and a beat it then makes can draw a free value (R221). The statement ranges
over every state; that this one is reached from reset is not claimed. -/
theorem not_coreOperationsFrame : ¬ Obligations.CoreOperationsFrame := by
  intro h
  obtain ⟨⟨k, m, ht⟩, -⟩ := h beatDue (startVector 0x05 0 beatDue) (.vecFill 0) 0 0 (by simp) rfl
  have hkept : (startVector 0x05 0 beatDue).freeCtr = beatDue.freeCtr := by rw [ht]
  have hdrawn := startVector_beatDue_draws
  omega

end Sys2Proof.Machine
end

section
/-! PROOFS. Tasks of a core (spec/05_core_bundle.md): start, resume, stop and the cycle that issues a bundle (R130-R132, R157, R164). -/

namespace Sys2Proof.Machine

section
variable {s : State}

/-- A halted task starts at its entry (R130, R131). -/
theorem execTaskStart_halted {c task : Nat} (h : taskState s (pcore s c) (task % 4) = 0) :
    execTaskStart c task s = .next (startTask (pcore s c) (task % 4) s) := congrArg Host.Outcome.next (if_pos h)

/-- A halted task runs on from its pc, its exception cleared (R164). -/
theorem resumeTask_halted {p t : Nat} (h : taskState s p t = 0) :
    resumeTask p t s = wr (LEA_TSTAT_state.ix t) p 1 (wr (LEA_TEXC_valid.ix t) p 0 s) := if_pos h

/-- A task that is not halted stops with reason 3 (R157). -/
theorem stopTask_live {p t : Nat} (h : taskState s p t ≠ 0) :
    stopTask p t s = wr (LEA_TSTAT_state.ix t) p 0 (wr (LEA_TSTAT_reason.ix t) p 3 s) := if_neg h

end

/-- Settles O27: the guards of start, resume and stop, and the core cycle in which some task is ready. -/
theorem tasksComplete : Obligations.TasksComplete := by
  refine ⟨?_, ?_, ?_, ?_⟩
  · intro s c task hhalted
    exact execTaskStart_halted hhalted
  · intro s c task hhalted
    exact congrArg Host.Outcome.next (resumeTask_halted hhalted)
  · intro s c task hlive
    exact congrArg Host.Outcome.next (stopTask_live hlive)
  · intro s c k p v ks hready
    exact congrArg Host.Outcome.next (coreCycle_issue (v := v) rfl rfl hready)

end Sys2Proof.Machine
end

section
/-! PROOFS. Macro-operations of the matrix and vector engines (spec/06_matrix.md, spec/07_vector.md): start (R140, R173, R179, R225),
completion (R139) and the matrix check (R183). -/

namespace Sys2Proof.Machine

/-- The entry with dispatch number n of core p's queue u has started in the current cycle, and the unit shows as busy by f. -/
def opStarted (f : Fld) (p : Nat) (u : QUnit) (n : Nat) (s : State) : State :=
  wr f p 1 (qMod p u n (fun x => { x with started := true, startCyc := (coreGet s p).cyc }) s)

section
variable {s : State} {c : Nat} {e : QEnt}

/-! ### Matrix operations -/

/-- The next matrix operation starts where the engine and the scoreboard allow it and its start finds no fault (R173, R178, R179). -/
theorem startMatrix_starts {op : Nat} (hnext : qNext s (pcore s c) .m = some e) (hop : e.op = op) (hready : mReady s (pcore s c) = true)
    (hclear : scoreClear s (pcore s c) .m e = true)
    (hfault : mStartFault (opStarted LEA_MSTAT_busy (pcore s c) .m e.disp s) (pcore s c) e = 0) :
    startMatrix op c s = mAdvance (pcore s c)
      (if e.op = 0x01 then opStarted LEA_MSTAT_busy (pcore s c) .m e.disp s
       else zeroAcc (pcore s c) e (opStarted LEA_MSTAT_busy (pcore s c) .m e.disp s)) := by
  have hstarts : ¬ (e.op ≠ op ∨ (!mReady s (pcore s c)) = true ∨ (!scoreClear s (pcore s c) .m e) = true) := by
    simp [hop, hready, hclear]
  simp only [startMatrix, hnext]
  rw [if_neg hstarts]
  exact if_neg (not_not.mpr hfault)

/-- A multiplication, of any opcode but that of MAT.WLD, clears its rows at its start where z says so (R170, R173). -/
theorem startMatrix_multiplies {op : Nat} (hnext : qNext s (pcore s c) .m = some e) (hop : e.op = op) (hmul : op ≠ 0x01)
    (hready : mReady s (pcore s c) = true) (hclear : scoreClear s (pcore s c) .m e = true)
    (hfault : mStartFault (opStarted LEA_MSTAT_busy (pcore s c) .m e.disp s) (pcore s c) e = 0) :
    startMatrix op c s = mAdvance (pcore s c) (zeroAcc (pcore s c) e (opStarted LEA_MSTAT_busy (pcore s c) .m e.disp s)) := by
  rw [startMatrix_starts hnext hop hready hclear hfault, if_neg (hop ▸ hmul)]

/-- The check of a completed multiplication that is due (R183). -/
def checkDue (s : State) (p : Nat) (e : QEnt) : RChk :=
  ⟨e.disp, e.task, e.pc, mAcc e.slot, mFmt e.slot, if mZ e.slot then 32 else mRows e.slot,
    firstFail s p (mAcc e.slot) (if mZ e.slot then 32 else mRows e.slot) e.fail⟩

/-- A core after its multiplication e has left the M queue, its check due (R139, R183). -/
def mLeaves (p : Nat) (e : QEnt) (s : State) : State :=
  coreMod p (fun x => { x with checks := x.checks ++ [checkDue s p e] }) (qFree p .m e.disp s)

/-- The oldest operation, a multiplication whose reads have all been served, completes. -/
theorem execMOpComplete_multiplied {es : List QEnt} (hq : (coreGet s (pcore s c)).qm = e :: es) (hstarted : e.started = true)
    (hkept : e.abandoned = false) (hstreamed : mStreamed e = true) (hmul : e.op ≠ 0x01) :
    execMOpComplete c s = .next (mAdvance (pcore s c)
      (wr LEA_MSTAT_busy (pcore s c) (b2n (anyStarted (coreGet (mLeaves (pcore s c) e s) (pcore s c)).qm))
        (mLeaves (pcore s c) e s))) := by
  have hchecked : ¬ (e.abandoned = true ∨ e.op = 0x01) := by simp [hkept, hmul]
  simp only [execMOpComplete, hq]
  rw [if_pos ⟨hstarted, hstreamed⟩, if_neg hchecked]
  rfl

/-- The checker takes up the oldest check; what it found is flagged (R183, R185). -/
theorem execResidueCheck_takes {k : RChk} {ks : List RChk} (h : (coreGet s (pcore s c)).checks = k :: ks) :
    execResidueCheck c s = .next (if k.found.isEmpty then coreMod (pcore s c) (fun x => { x with checks := ks }) s
      else flagMismatch (pcore s c) k (coreMod (pcore s c) (fun x => { x with checks := ks }) s)) := by
  simp only [execResidueCheck, h]

/-! ### Vector operations -/

/-- The next vector operation starts where the scoreboard allows it and the one before it has begun its beats (R140, R225). -/
theorem startVector_starts {op : Nat} (hnext : qNext s (pcore s c) .v = some e) (hop : e.op = op)
    (hclear : scoreClear s (pcore s c) .v e = true) (hbegun : vBegun s (pcore s c) = true) :
    startVector op c s = vAdvance (pcore s c) (opStarted LEA_VSTAT_busy (pcore s c) .v e.disp s) := by
  have hstarts : ¬ (e.op ≠ op ∨ (!scoreClear s (pcore s c) .v e) = true ∨ (!vBegun s (pcore s c)) = true) := by
    simp [hop, hclear, hbegun]
  simp only [startVector, hnext]
  exact if_neg hstarts

/-- The oldest operation, which has made all its beats, commits its result and leaves the V queue (R139, R225). -/
theorem execVOpComplete_made {es : List QEnt} (hq : (coreGet s (pcore s c)).qv = e :: es) (hstarted : e.started = true)
    (hkept : e.abandoned = false) (hbeats : (vBeats s (pcore s c) e).length ≤ e.turn) :
    execVOpComplete c s = .next (vAdvance (pcore s c)
      (wr LEA_VSTAT_busy (pcore s c)
        (b2n (anyStarted (coreGet (qFree (pcore s c) .v e.disp (vCommit (pcore s c) e s)) (pcore s c)).qv))
        (qFree (pcore s c) .v e.disp (vCommit (pcore s c) e s)))) := by
  have hended : vEnded s (pcore s c) e = true := by simp [vEnded, hbeats]
  simp only [execVOpComplete, hq]
  rw [if_pos ⟨hstarted, hended⟩, if_neg (ne_true_of_eq_false hkept)]

end

/-- Settles O28: one start for the four opcodes, MAT.WLD alone without a clear; then completion and check. -/
theorem matrixOperationsComplete : Obligations.MatrixOperationsComplete := by
  refine ⟨?_, ?_, ?_, ?_, ?_, ?_, ?_⟩
  · intro s c e p v hnext hop hready hclear hfault
    exact congrArg Host.Outcome.next ((startMatrix_starts hnext hop hready hclear hfault).trans (congrArg _ (if_pos hop)))
  · intro s c e p v hnext hop hready hclear hfault
    exact congrArg Host.Outcome.next (startMatrix_multiplies hnext hop (by decide) hready hclear hfault)
  · intro s c e p v hnext hop hready hclear hfault
    exact congrArg Host.Outcome.next (startMatrix_multiplies hnext hop (by decide) hready hclear hfault)
  · intro s c e p v hnext hop hready hclear hfault
    exact congrArg Host.Outcome.next (startMatrix_multiplies hnext hop (by decide) hready hclear hfault)
  · intro s c e es p rows v hq hstarted hkept hstreamed hmul
    exact execMOpComplete_multiplied hq hstarted hkept hstreamed hmul
  · intro s c k ks p hq hfound
    exact (execResidueCheck_takes hq).trans (congrArg _ (if_pos hfound))
  · intro s c k ks p hq hfound
    exact (execResidueCheck_takes hq).trans (congrArg _ (if_neg (ne_true_of_eq_false hfound)))

/-- Settles O29: one start for the seven opcodes, and the completion of the oldest operation. -/
theorem vectorOperationsComplete : Obligations.VectorOperationsComplete := by
  refine ⟨?_, ?_, ?_, ?_, ?_, ?_, ?_, ?_⟩
  case _ | _ | _ | _ | _ | _ | _ =>
    intro s c e p hnext hop hclear hbegun
    exact congrArg Host.Outcome.next (startVector_starts hnext hop hclear hbegun)
  case _ =>
    intro s c e es p v hq hstarted hkept hbeats
    exact execVOpComplete_made hq hstarted hkept hbeats

end Sys2Proof.Machine
end

section
/-! PROOFS. Mesh operations, route slots and holds (spec/09_lea_mesh.md): R139, R265, R269, R272, R280, R281, R286. -/

namespace Sys2Proof.Machine

section
variable {s : State} {c eng n : Nat} {e : QEnt}

/-! ### Mesh operations -/

/-- MSH.DROP commits at its start (R272). -/
theorem execMshDrop_starts (hhead : xHead s (pcore s c) = some e) (hop : e.op = 0x03) (hstart : xMayStart s (pcore s c) e = true) :
    execMshDrop c s =
      .next (fifoShow (pcore s c) (meshCommit (pcore s c) { e with started := true } (xMark (pcore s c) e s))) :=
  congrArg Host.Outcome.next (xStart_run hhead hop hstart rfl)

/-- A stream-bound operation commits two cycles after its start once its buffer is ready, and takes that buffer (R272, R317). -/
theorem execMshCommit_commits (hheld : xHeld s (pcore s c) (eng % 2) = some e) (hfresh : e.committed = false) (hop : e.op ≠ 0x03)
    (hstream : xSv e.slot = true) (hcyc : e.startCyc + 2 ≤ (coreGet s (pcore s c)).cyc)
    (hbuf : ctxReady s (meshCtx (pcore s c) e.slot) = true) :
    execMshCommit c eng s = .next (fifoShow (pcore s c) (qMod (pcore s c) .x e.disp (fun x =>
      { x with committed := true,
               ans := [bufOff s (meshCtx (pcore s c) e.slot) (ctxGet s (meshCtx (pcore s c) e.slot)).rel] }) s)) := by
  have huncommitted : (!e.committed) = true := by simp [hfresh]
  simp only [execMshCommit, hheld]
  rw [if_pos ⟨huncommitted, hop, hstream, hcyc, hbuf⟩]

/-- A complete X operation, but a TLY.WAIT, leaves its queue; a mesh operation hands its buffer back (R139, R274, R317). -/
theorem execXOpComplete_completes (hheld : xHeld s (pcore s c) eng = some e) (hop : e.op ≠ 0x31)
    (hdone : xComplete s (pcore s c) e = true) :
    execXOpComplete c eng s =
      .next (if e.op ≤ 0x03 then meshFinish (pcore s c) e s else qFree (pcore s c) .x e.disp s) := by
  have hends : ¬ (e.op = 0x31 ∨ (!xComplete s (pcore s c) e) = true) := by simp [hop, hdone]
  simp only [execXOpComplete, hheld]
  rw [if_neg hends]

/-! ### Route slots and holds -/

/-- A running program that is not held executes its slot (R265). -/
theorem execRouteSlot_runs (hrun : (meshGet s n).running = true) (hheld : meshHeld s n = false) :
    execRouteSlot n s = .next (routeSlot n s) :=
  congrArg Host.Outcome.next (if_pos ⟨hrun, by simp [hheld]⟩)

theorem meshGet_meshMod (n : Nat) (g : MeshP → MeshP) (s : State) : meshGet (meshMod n g s) n = g (meshGet s n) :=
  mapGet_set_same _ _ _ _

/-- A counter that has stood 64 bt at a hurdle that its schedule term holds is a long hold (R286). -/
theorem execLongHold_scheduled (hheld : (meshGet s n).held = true) (hfirst : (meshGet s n).longDone = false)
    (hdue : (meshGet s n).heldTick + 64 ≤ curTick s) (hsched : (meshGet s n).hSched = true) :
    execLongHold n s = .next (longHold n (meshMod n (fun m => { m with longDone := true }) s)) := by
  have hterm : ((meshGet s n).hRation || (meshGet s n).hSched || (pdkPcores s n).any (holdBit s)) = true := by simp [hsched]
  exact congrArg Host.Outcome.next ((if_pos ⟨hheld, by simp [hfirst], hdue⟩).trans (if_pos hterm))

end

/-- Settles O31: the starts at the head of the X queue, the engines' commits and completions, and the cycles of a route program. -/
theorem meshOperationsAndStepsComplete : Obligations.MeshOperationsAndStepsComplete := by
  refine ⟨?_, ?_, ?_, ?_, ?_, ?_, ?_, ?_, ?_, ?_⟩
  · intro s c e p v hhead hop hstart
    exact congrArg Host.Outcome.next (xStart_run hhead hop hstart rfl)
  · intro s c e p v hhead hop hstart
    exact congrArg Host.Outcome.next (xStart_run hhead hop hstart rfl)
  · intro s c e p v hhead hop hstart
    exact execMshDrop_starts hhead hop hstart
  · intro s c eng e p hheld hfresh hop hstream hcyc hbuf
    exact execMshCommit_commits hheld hfresh hop hstream hcyc hbuf
  · intro s c eng e p hheld hop hdone hmesh
    exact (execXOpComplete_completes hheld hop hdone).trans (congrArg _ (if_pos hmesh))
  · intro s c eng e p hheld hop hdone hother
    exact (execXOpComplete_completes hheld hop hdone).trans (congrArg _ (if_neg (Nat.not_le.mpr hother)))
  · intro s n hrun hheld
    exact execRouteSlot_runs hrun hheld
  · intro s n v hrun hheld
    exact congrArg Host.Outcome.next (if_pos ⟨hrun, hheld⟩)
  · intro s c p hbit hcond
    exact congrArg Host.Outcome.next (if_pos ⟨hbit, hcond⟩)
  · intro s n v hheld hfirst hdue hsched
    rw [meshGet_meshMod] at hsched
    exact execLongHold_scheduled hheld hfirst hdue hsched

end Sys2Proof.Machine
end

section
/-! PROOFS. The scratchpad's ports, write-backs and windows (spec/08_scratchpad.md R236, R242, R243, R249, R258) and the vector window
LEA_VWDATA (spec/07_vector.md R227). -/

namespace Sys2Proof.Machine

/-! ### Ports and write-backs -/

section
variable {s : State} {c w bank region : Nat} {write : Bool}

/-- A port serves the word R243 chooses, after LEA_SPBCNT has counted the words due at it (R258). -/
theorem execSpWordServe_serves {x : WReq × WWord}
    (hpick : portPick s (pcore s c) (portWords s (pcore s c) write bank region) = some x) :
    execSpWordServe c write bank region s = .next (serveWord (pcore s c) x.1 x.2 (countPort (pcore s c) write bank region
      ((portWords s (pcore s c) write bank region).filter (fun y => !background s (pcore s c) y.1)).length s)) := by
  simp only [execSpWordServe, hpick]

/-- A corrected word whose write port has no word to serve is written back with its check bits (R249). -/
theorem execSpEccWriteback_writes (hcorrected : (coreGet s (pcore s c)).wb.contains w = true)
    (hfree : (portWords s (pcore s c) true (bankOf s (pcore s c) w) (portRegion s (pcore s c) w)).isEmpty = true) :
    execSpEccWriteback c w s = .next (coreMod (pcore s c) (fun c => { c with wb := c.wb.erase w })
      (spPutRaw (pcore s c) w (word72 (spData s (pcore s c) w)) s)) :=
  congrArg Host.Outcome.next (if_pos ⟨hcorrected, hfree⟩)

end

/-! ### The scratchpad window -/

section
variable {s : State} {brand c off len : Nat}

/-- The gate of a scratchpad window admits an access inside the window by a brand that its core admits (R356). -/
theorem windowGate_admits (hbrand : brandReserved brand = false) (hend : off + len ≤ 0x100000)
    (hadmit : admitCore s brand c false = true) : windowGate s brand c off len = 0 := by
  rw [windowGate, if_neg (ne_true_of_eq_false hbrand), if_neg (Nat.not_lt.mpr hend), if_neg (by simp [hadmit])]

/-- A window access that its gate admits and whose core takes accesses enters class P (R236, R242). -/
theorem windowGo_enters {a : AccW} (hgate : windowGate s a.brand a.die a.off a.len = 0) (hwait : coreWaits s a.brand a.die = false) :
    windowGo a s = paccPush (pcore s a.die) a.wr a.off a.len ((a.data.map (· % 256)).take a.len) (poisonedAt a.off a.data)
      (.window a.brand a.die a.off) s := by
  rw [windowGo, if_neg (not_not.mpr hgate), if_neg (ne_true_of_eq_false hwait)]

/-- A new window access goes to its window after the accesses that waited. -/
theorem accNew_window {a : AccW} (hk : a.kind = 2) (s : State) : accNew a s = windowGo { a with dl := noDeadline s } (accFlush s) :=
  if_pos hk

end

/-! ### LEA_VWDATA (R227) -/

/-- LEA_VWDATA as the register table has it: eight words of 64 bits. -/
def vwdataReg : RegD := ⟨0x1C0, 0x8, 8, 0, 1, 64, [⟨63, 0, .rw, 0, .idle⟩]⟩

/-- The offset of LEA_VWDATA[j] in its core's window. -/
def vwdataOff (j : Nat) : Nat := LEA_VWDATA_value.off + 8 * j

section
variable {s : State} {brand p j t draw : Nat} {data : Word} {r : RegD}

theorem vwdataOff_eq (j : Nat) : vwdataOff j = 0x1C0 + 8 * j := rfl

/-- The model tells LEA_VWDATA from the other registers of a core by these bounds. -/
theorem vwdataOff_bounds (hj : j < 8) : 0x1C0 ≤ vwdataOff j ∧ vwdataOff j < 0x200 := by
  rw [vwdataOff_eq]
  omega

theorem touched_vwdata (hj : j < 8) : touched .lea (vwdataOff j) 8 = [(vwdataReg, vwdataOff j)] := by
  revert j
  decide

theorem widthOk_vwdata (hj : j < 8) : widthOk (vwdataOff j) 8 [(vwdataReg, vwdataOff j)] = true := by
  revert j
  decide

/-- A 64-bit register takes a write at its own offset whole. -/
theorem partData_whole (o : Nat) (h : r.width = 64) (data : Word) : partData o o r data = data := by
  simp [partData, h, Nat.mod_eq_of_lt data.isLt]

/-- An idle core whose LEA_VWSEL names an object refuses no write of LEA_VWDATA. -/
theorem regJudge_vwdata (hj : j < 8) (hidle : coreIdle s p = true) (hvalid : vwValid s p = true) :
    regJudge s .lea p (vwdataOff j) r data = none := by
  have htakes : ¬ ((!coreIdle s p || !vwValid s p) = true) := by simp [hidle, hvalid]
  rw [regJudge, if_neg (by simp [vfLacks]), if_pos ⟨rfl, vwdataOff_bounds hj⟩, if_neg htakes]

/-- LEA_VWDATA[j] puts what it takes into word j of the selected object. -/
theorem regTakes_vwdata (hj : j < 8) : regTakes brand .lea p (vwdataOff j) data t draw s = vwPut p j data.toNat s := by
  have hbounds := vwdataOff_bounds hj
  have hbody : ¬ hdrBase .lea ≤ vwdataOff j := by
    have hbase : hdrBase .lea = 0xFC0 := by decide
    omega
  have hlive : ¬ ((deadRegister s .lea p (vwdataOff j) || vfLacks .lea (vwdataOff j)) = true) := by
    have hbelow : ¬ 0x800 ≤ vwdataOff j := by omega
    simp [deadRegister, vfLacks, hbelow]
  have hword : (vwdataOff j - 0x1C0) / 8 = j := by
    rw [vwdataOff_eq]
    omega
  calc regTakes brand .lea p (vwdataOff j) data t draw s
      = leaTakes brand p (vwdataOff j) data s := (if_neg hbody).trans (if_neg hlive)
    _ = vwPut p ((vwdataOff j - 0x1C0) / 8) data.toNat s := if_pos hbounds
    _ = vwPut p j data.toNat s := by rw [hword]

/-- A write of LEA_VWDATA[j] of an idle core sets word j of the object LEA_VWSEL names. -/
theorem regWrite_vwdata (hj : j < 8) (hidle : coreIdle s p = true) (hvalid : vwValid s p = true) :
    regWrite brand .lea p (vwdataOff j) 8 data t draw s = vwPut p j data.toNat s := by
  rw [regWrite_taken (fun h => Blk.noConfusion h.1) (touched_vwdata hj) (widthOk_vwdata hj) (regJudge_vwdata hj hidle hvalid),
    partData_whole _ rfl, regTakes_vwdata hj]

end

/-- Settles O30: the port's word, the write-back, the window access past its gate, and the writes of LEA_SPBSEL and LEA_VWDATA. -/
theorem scratchpadCommandsComplete : Obligations.ScratchpadCommandsComplete := by
  refine ⟨?_, ?_, ?_, ?_, ?_⟩
  · intro s c write bank region x p hpick
    exact execSpWordServe_serves hpick
  · intro s c w p hcorrected hfree
    exact execSpEccWriteback_writes hcorrected hfree
  · intro s brand c write off len data v hbrand hend hadmit hwait
    exact congrArg Host.Outcome.next
      ((accNew_window rfl s).trans (windowGo_enters (windowGate_admits hbrand hend hadmit) hwait))
  · intro s c data
    rfl
  · intro s brand c k p data v d o hp hg hw hpl hidle hvalid
    have hk : k % 8 < 8 := Nat.mod_lt k (by decide)
    rw [exec_vwdataWrite, execVwdataWrite, accNew_served rfl (fun _ => hp) hg hw hpl]
    simp only [coreReg, List.getD_cons_zero, BitVec.ofNat_toNat, BitVec.setWidth_eq]
    exact congrArg (fun u => Host.Outcome.next (emit .ack [brand, d, o, 0] u)) (regWrite_vwdata hk hidle hvalid)

end Sys2Proof.Machine
end

section
/-! PROOFS. Streams (spec/10_drover.md): the stream operations of the X queue (R315, R316, R324, R331), the commands of a context and the
requests of its unit (R305, R321-R324, R331), the answers of its reads and writes (R304, R311, R327) and the translation of its requests
(R376, R377). -/

namespace Sys2Proof.Machine

/-! ### Stream operations -/

/-- Settles O32: each operation starts at the head of the X queue where its own condition holds. -/
theorem streamOperationsComplete : Obligations.StreamOperationsComplete := by
  refine ⟨?_, ?_, ?_, ?_, ?_⟩
  · intro s c e p v hhead hop hstart hready
    exact congrArg Host.Outcome.next (xStart_run hhead hop hstart hready)
  · intro s c e p v hhead hop hstart hready hdrained
    have hmay : (ctxReady s (strmCtx p e.slot) && taskDrained s p e.task e.bun) = true := by rw [hready, hdrained, Bool.and_self]
    exact congrArg Host.Outcome.next (xStart_run hhead hop hstart hmay)
  case _ | _ | _ =>
    intro s c e p v hhead hop hstart
    exact congrArg Host.Outcome.next (xStart_run hhead hop hstart rfl)

section
variable {s : State} {i : Nat} {x : Xact} {g off : Nat}

/-! ### Requests and answers of a context -/

/-- The one context of a unit that can form a request forms it, where the unit has formed none in this cycle and no context is held back
by the requests it has standing (R309, R321). -/
theorem execDrvRequestForm_only {u t : Nat} (hfresh : mapGet 0 (atCycle t s).formAt u ≠ (atCycle t s).leaCyc + 1)
    (honly : (unitCtxs (atCycle t s) u).filter (canForm (atCycle t s)) = [g])
    (hfull : (unitCtxs (atCycle t s) u).filter (fun y => wantsRequest (atCycle t s) y && 16 ≤ ctxOutst (atCycle t s) y) = []) :
    execDrvRequestForm u t s = .next (formRequest g
      { atCycle t s with formAt := mapSet 0 (atCycle t s).formAt u ((atCycle t s).leaCyc + 1) }) := by
  simp only [execDrvRequestForm, if_neg hfresh, honly, hfull]
  rfl

/-- An answer with status 0 is not one of the two refusals of a request. -/
theorem not_refused_of_good (hgood : x.status = 0) : ¬ (x.status = 1 ∨ x.status = 2) := by simp [hgood]

/-- Data of a context's read that has come without an error goes where its stream leads: a far context's on to its destination, a core
context's into its buffer (R304, R311). -/
theorem execDrvReadResponse_good (hx : fabGet s i = some x) (hret : x.ret = .drvRead g off) (hstage : x.stage = 4)
    (hfresh : x.stale = false) (hgood : x.status = 0) :
    execDrvReadResponse i s = .next (if ctxFar g then ctxShow g (farWrite g off x.deadline x.data (badByte x) (fabDrop i s))
      else paccPush (g / 32) true (bufOff s g (off / ctxBsize s g) + (off - off / ctxBsize s g * ctxBsize s g)) x.len x.data
        (badByte x) (.stream g off x.deadline) (fabSet i { x with stage := 6 } s)) := by
  simp only [execDrvReadResponse, hx, hret]
  rw [if_neg (not_not.mpr hstage), if_neg (ne_true_of_eq_false hfresh), if_neg (not_refused_of_good hgood),
    if_neg (not_not.mpr hgood)]

/-- An acknowledged write of a context moves its stream on, unless it is a far one with data left to write (R306, R311). -/
theorem execDrvWriteAck_good (hx : fabGet s i = some x) (hret : x.ret = .drvWrite g off) (hstage : x.stage = 4) (hgood : x.status = 0)
    (hwhole : ctxFar g = false ∨ x.data.length ≤ x.len) : execDrvWriteAck i s = .next (ctxProgress g (fabDrop i s)) := by
  have hdone : ¬ (x.len < x.data.length ∧ ctxFar g = true) := by
    rintro ⟨hleft, hfar⟩
    rcases hwhole with hcore | hall
    · exact absurd hfar (ne_true_of_eq_false hcore)
    · exact absurd hleft (Nat.not_lt.mpr hall)
  simp only [execDrvWriteAck, hx, hret]
  rw [if_neg (not_not.mpr hstage), if_neg (not_refused_of_good hgood), if_neg (not_not.mpr hgood), if_neg hdone]

/-! ### Translation of a request -/

/-- Request x as its translation begins: with the PASID code of its root, none of its walk read. -/
def walkStart (s : State) (x : Xact) : Xact := { x with pasid := rootPasid s x.root, walk := [] }

/-- The next request of its context, not through a Longtrack window, begins its translation (R310, R376, R706). -/
theorem execTranslationWalk_begins (hx : fabGet s i = some x) (hstage : x.stage = 0) (hturn : fabTurn s i (walkStart s x) = true)
    (hwindow : windowOf s (walkStart s x) = none) : execTranslationWalk i s = .next (walkBegin i (walkStart s x) s) := by
  have hbegins : ¬ (x.stage ≠ 0 ∨ (!fabTurn s i (walkStart s x)) = true) := by simp [hstage, hturn]
  simp only [execTranslationWalk, hx]
  refine congrArg Host.Outcome.next ((if_neg hbegins).trans ?_)
  simp only [walkStart] at hwindow ⊢
  simp only [hwindow]

/-- A leaf with the right the request needs, in the module memory its root may use, translates a request that has no walk to cache
(R368, R376). -/
theorem leafUse_local {l e : Nat} (hwalk : x.walk = []) (hright : natBit e (if x.wr then 3 else 2) = true) (hlocal : pteHost e = false)
    (hmem : ptePage e < memU s) (hhalf : outsideHalf s x.root (ptePage e) (2 ^ levelShift l) = false) :
    leafUse i x l e s =
      fabSet i { x with walk := [], host := false, pa := ptePage e + x.va % 2 ^ levelShift l, stage := 1 } s := by
  have hrights : ¬ ((!natBit e (if x.wr then 3 else 2)) = true) := by simp [hright]
  have hplace : ¬ ((!pteHost e && (memU s ≤ ptePage e || outsideHalf s x.root (ptePage e) (2 ^ levelShift l))) = true) := by
    simp [hhalf, hmem]
  simp only [leafUse]
  rw [if_neg hrights, if_neg hplace, if_neg (ne_true_of_eq_false hlocal), hwalk]
  rfl

/-- A request whose leaf is cached is translated with that leaf (R377). -/
theorem walkBegin_cached {l e : Nat} (hleaf : tcLeaf s x.die x.root x.va = some (l, e)) :
    walkBegin i x s = leafUse i { x with via := [l] } l e s := by
  simp only [walkBegin, hleaf]

/-- The state in which a walk at a die's entry begins: PST_WALKS has counted it. -/
def walkCounted (die : Nat) (s : State) : State := bump (PST_WALKS_count.on (pstBlk die)) die s

/-- A request without a cached leaf walks from the table of its root, where the root is enabled and lies in memory (R373, R376). -/
theorem walkBegin_uncached (hleaf : tcLeaf s x.die x.root x.va = none)
    (hen : rdB (walkCounted x.die s) (PST_XROOT_en.ix x.root) 10 = true)
    (hroot : rd (walkCounted x.die s) (PST_XROOT_root.ix x.root) 10 * 4096 < memU (walkCounted x.die s)) :
    walkBegin i x s =
      walkGo i 4 x (rd (walkCounted x.die s) (PST_XROOT_root.ix x.root) 10 * 4096) (walkCounted x.die s) := by
  have husable : ¬ ((!rdB (walkCounted x.die s) (PST_XROOT_en.ix x.root) 10) = true ∨
      memU (walkCounted x.die s) ≤ rd (walkCounted x.die s) (PST_XROOT_root.ix x.root) 10 * 4096) := by
    simp [hen, hroot]
  simp only [walkBegin, hleaf]
  exact if_neg husable

/-- Where the entry of the walk's level is not cached, the walk waits for its read from the table (R376). -/
theorem walkGo_reads {n table : Nat} (hmiss : tcGet s x.die x.root x.walk.length x.va = 0) :
    walkGo i (n + 1) x table s =
      fabSet i { x with stage := 9, via := List.range (x.walk.length + 1), tab := pteAddr table x.walk.length x.va,
                        tabDl := (droverT s + 0xFFFFFF) % 2 ^ 32 } s :=
  if_pos hmiss

end

/-- Settles O33: each command of a context acts on it; each answer and each translation takes the branch its rule names. -/
theorem droverContextsComplete : Obligations.DroverContextsComplete := by
  refine ⟨?_, ?_, ?_, ?_, ?_, ?_, ?_, ?_, ?_, ?_, ?_⟩
  · intro s u0 k t
    rfl
  · intro s u0 k
    rfl
  · intro s u0 k
    rfl
  · intro s u0 k
    rfl
  · intro s u0 k t
    rfl
  · intro s u0 t g v hfresh honly hfull
    exact execDrvRequestForm_only hfresh honly hfull
  · intro s i x g off hx hret hstage hfresh hgood hcore
    exact (execDrvReadResponse_good hx hret hstage hfresh hgood).trans (congrArg _ (if_neg (ne_true_of_eq_false hcore)))
  · intro s i x g off hx hret hstage hfresh hgood hfar
    exact (execDrvReadResponse_good hx hret hstage hfresh hgood).trans (congrArg _ (if_pos hfar))
  · intro s i x g off hx hret hstage hgood hwhole
    exact execDrvWriteAck_good hx hret hstage hgood hwhole
  · intro s i l e x y hx hstage hturn hwindow hleaf hright hlocal hmem hhalf
    calc execTranslationWalk i s
        = .next (walkBegin i y s) := execTranslationWalk_begins hx hstage hturn hwindow
      _ = .next (leafUse i { y with via := [l] } l e s) := congrArg _ (walkBegin_cached (x := y) hleaf)
      _ = _ := congrArg _ (leafUse_local (x := { y with via := [l] }) rfl hright hlocal hmem hhalf)
  · intro s i x y v root hx hstage hturn hwindow hleaf hen hroot hmiss
    calc execTranslationWalk i s
        = .next (walkBegin i y s) := execTranslationWalk_begins hx hstage hturn hwindow
      _ = .next (walkGo i 4 y root v) := congrArg _ (walkBegin_uncached (x := y) hleaf hen hroot)
      _ = _ := congrArg _ (walkGo_reads (x := y) hmiss)

end Sys2Proof.Machine
end

section
/-! PROOFS. What a gate's refusal of a register write captures (spec/11_pasture_memory.md R356, R357), and what bytes of external memory
read as after a write (R354). -/

namespace Sys2Proof.Machine

/-! ### Register writes that stay under some keys -/

/-- `t` differs from `s` at most in the registers under these keys. -/
structure RegsWithin (keys : List Nat) (s t : State) : Prop where
  wf : RegsWf t
  regsOnly : ∃ m, t = { s with regs := m }
  others : ∀ (b : Blk) (i o : Nat), regKey b i o ∉ keys → rdW t b i o = rdW s b i o

section
variable {keys : List Nat} {s t : State}

theorem RegsWithin.refl (h : RegsWf s) : RegsWithin keys s s := ⟨h, ⟨s.regs, rfl⟩, fun _ _ _ _ => rfl⟩

/-- A register under one of the keys is written. -/
theorem RegsWithin.wrW (h : RegsWithin keys s t) {b : Blk} {i o : Nat} (w : Word) (hk : regKey b i o ∈ keys) :
    RegsWithin keys s (wrW b i o w t) := by
  obtain ⟨hwf, ⟨m, rfl⟩, hothers⟩ := h
  refine ⟨regsWf_wrW _ _ _ _ hwf, ⟨_, rfl⟩, fun c j k hne => ?_⟩
  exact (rdW_wrW_ne w hwf fun e => hne (e ▸ hk)).trans (hothers c j k hne)

/-- A field of a register under one of the keys is written. -/
theorem RegsWithin.wr (h : RegsWithin keys s t) {f : Fld} {i : Nat} (v : Nat) (hk : regKey f.blk i f.off ∈ keys) :
    RegsWithin keys s (wr f i v t) := h.wrW _ hk

/-- More keys leave more room. -/
theorem RegsWithin.mono {more : List Nat} (h : RegsWithin keys s t) (hsub : keys ⊆ more) : RegsWithin more s t :=
  ⟨h.wf, h.regsOnly, fun b i o hne => h.others b i o fun hin => hne (hsub hin)⟩

/-- A field of a register under none of the keys reads as before. -/
theorem RegsWithin.rd_outside (h : RegsWithin keys s t) {f : Fld} {i : Nat} (hk : regKey f.blk i f.off ∉ keys) : rd t f i = rd s f i :=
  congrArg (fieldGet · f.hi f.lo) (h.others _ _ _ hk)

end

/-! ### What a gate captures (R356) -/

/-- The keys of fields of a die's gate block. -/
def gateKeys (die : Nat) (fs : List Fld) : List Nat := fs.map fun f => regKey (gatBlk die) die f.off

/-- The counter of the refusals at a step of R356. -/
def refusalCount (step : Nat) : Fld := if step = 2 then GAT_AFCNT_count else GAT_BFCNT_count

/-- A gate's capture of a refusal, not yet counted. -/
def refusalCaptured (die step cls src brand addr : Nat) (s : State) : State :=
  if rdB s (GAT_BFINFO_valid.on (gatBlk die)) die then wr (GAT_BFINFO_overflow.on (gatBlk die)) die 1 s
  else wr (GAT_BFADDR_addr.on (gatBlk die)) die addr
    (wrW (gatBlk die) die GAT_BFINFO_valid.off
      (BitVec.ofNat 64 (2 ^ 31 + rd s (GAT_BFINFO_overflow.on (gatBlk die)) die * 2 ^ 30 + step * 2 ^ 28 + cls * 2 ^ 12 + src * 2 ^ 8 + brand)) s)

section
variable {die step cls src brand addr : Nat} {s : State}

/-- A refusal is captured, then counted. -/
theorem gateRefuse_eq : gateRefuse die step cls src brand addr s =
    bump ((refusalCount step).on (gatBlk die)) die (refusalCaptured die step cls src brand addr s) := rfl

/-- The capture writes the gate's information and address registers alone. -/
theorem refusalCaptured_within (h : RegsWf s) :
    RegsWithin (gateKeys die [GAT_BFINFO_valid, GAT_BFADDR_addr]) s (refusalCaptured die step cls src brand addr s) := by
  have hinfo : regKey (gatBlk die) die GAT_BFINFO_valid.off ∈ gateKeys die [GAT_BFINFO_valid, GAT_BFADDR_addr] := by simp [gateKeys]
  have haddr : regKey (gatBlk die) die GAT_BFADDR_addr.off ∈ gateKeys die [GAT_BFINFO_valid, GAT_BFADDR_addr] := by simp [gateKeys]
  unfold refusalCaptured
  split
  case isTrue => exact (RegsWithin.refl h).wr 1 hinfo
  case isFalse => exact ((RegsWithin.refl h).wrW _ hinfo).wr addr haddr

/-- The counter of a step is one of the two. -/
theorem refusalCount_cases (step : Nat) : refusalCount step = GAT_AFCNT_count ∨ refusalCount step = GAT_BFCNT_count := by
  unfold refusalCount
  split
  case isTrue => exact .inl rfl
  case isFalse => exact .inr rfl

/-- A refusal is within the four capture registers of its die. -/
theorem gateRefuse_within (h : RegsWf s) :
    RegsWithin (gateKeys die [GAT_BFINFO_valid, GAT_BFADDR_addr, GAT_BFCNT_count, GAT_AFCNT_count]) s
      (gateRefuse die step cls src brand addr s) := by
  have hcount : regKey (gatBlk die) die (refusalCount step).off ∈
      gateKeys die [GAT_BFINFO_valid, GAT_BFADDR_addr, GAT_BFCNT_count, GAT_AFCNT_count] := by
    rcases refusalCount_cases step with e | e <;> simp [e, gateKeys]
  rw [gateRefuse_eq, bump_eq_wr]
  exact ((refusalCaptured_within h).mono (by simp [gateKeys])).wr _ hcount

/-- A refusal counts one more at its step, up to the counter's limit. -/
theorem rd_gateRefuse_count (h : RegsWf s) :
    rd (gateRefuse die step cls src brand addr s) ((refusalCount step).on (gatBlk die)) die =
      Nat.min (rd s ((refusalCount step).on (gatBlk die)) die + 1) (fldMax ((refusalCount step).on (gatBlk die))) := by
  obtain ⟨hlo, hhi⟩ : (refusalCount step).lo ≤ (refusalCount step).hi ∧ (refusalCount step).hi < 64 := by
    rcases refusalCount_cases step with e | e <;> simp only [e] <;> decide
  have hapart : regKey (gatBlk die) die (refusalCount step).off ∉ gateKeys die [GAT_BFINFO_valid, GAT_BFADDR_addr] := by
    rcases refusalCount_cases step with e | e <;>
      simp [e, gateKeys, regKey, GAT_AFCNT_count, GAT_BFCNT_count, GAT_BFINFO_valid, GAT_BFADDR_addr]
  have hsame : rd (refusalCaptured die step cls src brand addr s) ((refusalCount step).on (gatBlk die)) die =
      rd s ((refusalCount step).on (gatBlk die)) die := (refusalCaptured_within h).rd_outside hapart
  rw [gateRefuse_eq, rd_bump (f := (refusalCount step).on (gatBlk die)) _ hlo hhi, hsame]

end

/-! ### A refused register write (R357) -/

/-- An access of CSR space that its gate refuses is captured and answered with the refusal's status. -/
theorem csrAccess_refused {brand die off len t draw : Nat} {write : Bool} {data : Word} {s : State} (hp : die < 11 → mainPowered s = true)
    (hg : csrGate s brand die off len write ≠ 0) :
    csrAccess brand die off len write data t draw s =
      (.refused (refuseStatus (csrGate s brand die off len write)), csrRefuse brand die off (csrGate s brand die off len write) s) := by
  have hon : ¬ (die < 11 ∧ (!mainPowered s) = true) := fun h => by simp [hp h.1] at h
  rw [csrAccess, if_neg hon]
  exact if_pos hg

/-- A new register access inside the package that its gate refuses is answered with the refusal's status. -/
theorem accNew_refused {a : AccW} {s : State} (hk : a.kind = 0) (hp : a.die < 11 → mainPowered (accFlush s) = true)
    (hg : csrGate (accFlush s) a.brand a.die a.off a.len a.wr ≠ 0) :
    accNew a s = emit .ack [a.brand, a.die, a.off, refuseStatus (csrGate (accFlush s) a.brand a.die a.off a.len a.wr)]
      (csrRefuse a.brand a.die a.off (csrGate (accFlush s) a.brand a.die a.off a.len a.wr) (accFlush s)) := by
  rw [accNew_inside hk, csrAnswers, csrAccess_refused hp hg]
  rfl

/-- Settles O12: the refused write is the capture and the count of its refusal, within the capture registers of one die. -/
theorem gateRefusalOnlyCaptures : Obligations.GateRefusalOnlyCaptures := by
  intro s brand die off size t draw data v d step cnt hwf hp hg
  have hrec : RegsWithin _ v (csrRefuse brand die off step v) := gateRefuse_within hwf
  refine ⟨csrRefuse brand die off step v, congrArg Host.Outcome.next (accNew_refused rfl hp hg), hrec.regsOnly, rd_gateRefuse_count hwf,
    fun b i o hne => hrec.others b i o fun hin => ?_⟩
  obtain ⟨f, hf, hkey⟩ := List.mem_map.mp hin
  exact hne f hf hkey.symm

/-! ### Bytes of external memory (R354) -/

section
variable {s t : State} {a x : Nat}

/-- A byte depends on the memory map and the power-up alone. -/
theorem memByte_congr (hmem : t.mem = s.mem) (hepoch : t.memEpoch = s.memEpoch) : memByte t x = memByte s x := by
  rw [memByte, memByte, memDefault, memDefault, hmem, hepoch]

/-- Putting a byte keeps the canonical form of memory. -/
theorem memWf_memPut (b : Nat) (h : Memory.wf s = true) : Memory.wf (memPut a b s) = true :=
  mapWf_set (d := memDefault s) a _ h

/-- A byte after one byte is put. -/
theorem memByte_memPut (b : Nat) (h : Memory.wf s = true) : memByte (memPut a b s) x = if x = a then b % 256 else memByte s x := by
  split
  case isTrue e =>
    subst e
    exact congrArg BitVec.toNat (mapGet_set_same _ _ _ _)
  case isFalse hne => exact congrArg BitVec.toNat (mapGet_set_ne (d := memDefault s) _ _ _ h (Ne.symm hne))

/-- A byte after bytes are put from address a on. -/
theorem memByte_memPutBytes (bs : List Nat) (h : Memory.wf s = true) :
    memByte (memPutBytes a bs s) x = if a ≤ x ∧ x < a + bs.length then bs.getD (x - a) 0 % 256 else memByte s x := by
  induction bs generalizing a s with
  | nil =>
    have hout : ¬ (a ≤ x ∧ x < a + ([] : List Nat).length) := by simp
    exact (if_neg hout).symm
  | cons b bs ih =>
    rw [memPutBytes, ih (memWf_memPut b h), memByte_memPut b h, List.length_cons]
    rcases Nat.lt_trichotomy x a with hlt | rfl | hgt
    · rw [if_neg (by omega), if_neg (by omega), if_neg (by omega)]
    · rw [if_neg (by omega), if_pos rfl, if_pos (by omega), Nat.sub_self, List.getD_cons_zero]
    · have hoff : x - a = x - (a + 1) + 1 := by omega
      rw [if_neg (c := x = a) (by omega), hoff, List.getD_cons_succ]
      exact if_congr (by omega) rfl rfl

/-- How the lines of a write stand is no byte. -/
theorem memByte_noteLine (len la : Nat) (pf : Bool) : memByte (noteLine a len la pf s) x = memByte s x := by
  simp only [noteLine]
  split_ifs <;> exact memByte_congr (by simp [bump_eq_wr]) (by simp [bump_eq_wr])

theorem memByte_noteLines (len : Nat) (ls : List Nat) (pfs : List Bool) : memByte (noteLines a len ls pfs s) x = memByte s x := by
  induction ls generalizing pfs s with
  | nil => rfl
  | cons la ls ih => rw [noteLines, ih, memByte_noteLine]

end

/-- Settles O14: byte by byte along the written range; the state of a line is no byte of it. -/
theorem memoryReadsWhatWasWritten : Obligations.MemoryReadsWhatWasWritten := by
  intro s a x bs pfs hwf
  rw [memWrite, memByte_noteLines, memByte_memPutBytes bs hwf]

end Sys2Proof.Machine
end

section
/-! PROOFS. Pasture (spec/11_pasture_memory.md): the windows and slots of the shared targets (R361-R363), the memory ports (R354,
R370-R372, R376), the host path (R354, R355, R359, R682), and translation by the host with its upkeep (R378-R384). -/

namespace Sys2Proof.Machine

section
variable {s : State} {i : Nat} {x : Xact}

/-! ### Slots of the shared targets -/

/-- Target t once its slot k of the window is used. -/
def slotUsed (t k : Nat) (s : State) : State := { s with slotAt := mapSet 0 s.slotAt t (k + 1) }

/-- The next slot of a window that has one left admits the request it grants, where the port has room (R361, R322). -/
theorem execShareGrant_grants {t cyc : Nat} (ht : t < 26) (hleft : mapGet 0 (atFab cyc s).slotAt t < tgtC (atFab cyc s) t)
    (hroom : portFull (slotUsed t (mapGet 0 (atFab cyc s).slotAt t) (atFab cyc s)) t = false)
    (hgrant : grantSlot (slotUsed t (mapGet 0 (atFab cyc s).slotAt t) (atFab cyc s)) t (mapGet 0 (atFab cyc s).slotAt t) = some (i, x)) :
    execShareGrant t cyc s = .next (admitSlot t i x (slotUsed t (mapGet 0 (atFab cyc s).slotAt t) (atFab cyc s))) := by
  have hslot : ¬ (26 ≤ t ∨ tgtC (atFab cyc s) t ≤ mapGet 0 (atFab cyc s).slotAt t) :=
    not_or.mpr ⟨Nat.not_le.mpr ht, Nat.not_le.mpr hleft⟩
  have hfree : ¬ portFull (slotUsed t (mapGet 0 (atFab cyc s).slotAt t) (atFab cyc s)) t = true := ne_true_of_eq_false hroom
  simp only [slotUsed] at hfree hgrant ⊢
  simp only [execShareGrant, if_neg hslot, if_neg hfree, hgrant]

/-! ### Memory ports -/

/-- A request that does not walk competes as itself. -/
theorem pktOf_admitted (h : x.stage = 2) : pktOf x = x := if_neg (by simp [h])

/-- A request that walks competes as the read of its table entry. -/
theorem pktOf_walking (h : x.stage = 10) : pktOf x = tabRead x := if_pos (.inr h)

/-- A port serves an admitted request to device memory in its turn, while no test slice holds the port (R351, R553). -/
theorem portServes_admitted {w : Bool} (hstage : x.stage = 2) (hw : x.wr = w) (hhost : x.host = false)
    (htest : blockTested s (portOf s x.pa).1 = false) (hturn : portTurn s x = true) : portServes s x w = true := by
  simp [portServes, hstage, hw, hhost, htest, hturn]

/-- A read that its port serves is answered with its bytes, or goes on with its walk (R354, R370, R376). -/
theorem execMemoryRead_serves {y : Xact} (hx : fabGet s i = some x) (hy : pktOf x = y) (hserves : portServes s y false = true) :
    execMemoryRead i s =
      .next (if x.stage = 10 then walkGot i x ((memRead y.brand y.pa y.len s).2.1.any id) (leNat (memRead y.brand y.pa y.len s).1)
          (txnEnd (portOf s y.pa).1 (portSeen (portOf s y.pa).1 (memRead y.brand y.pa y.len s).2.2))
        else fabAnswer i x (if (memRead y.brand y.pa y.len s).2.1.any id then 3 else 0) (memRead y.brand y.pa y.len s).1
          (memRead y.brand y.pa y.len s).2.1
          (txnEnd (portOf s y.pa).1 (portSeen (portOf s y.pa).1 (memRead y.brand y.pa y.len s).2.2))) := by
  subst hy
  simp only [execMemoryRead, hx]
  rw [if_neg (by simp [hserves])]

/-- A write that its port serves is stored and acknowledged (R354, R371). -/
theorem memoryWrite_serves (hx : fabGet s i = some x) (hserves : portServes s x true = true) :
    memoryWrite i s = fabAnswer i x 0 [] [] (txnEnd (portOf s x.pa).1 (portSeen (portOf s x.pa).1
      (memWrite x.pa (x.data.take x.len) x.pf s))) := by
  simp only [memoryWrite, hx]
  exact if_neg (by simp [hserves])

/-- An admitted request waits for the channel of the next line of a port's pass. -/
def scrubBusy (s : State) (p : Nat) : Bool := (s.fab.map pktOf).any (fun x => x.stage == 2 && !x.host && (portOf s x.pa).1 == p &&
  (channelOf s (portOf s x.pa).2).1 == (channelOf s (64 * mapGet 0 s.scrubAt p)).1)

/-- What the read of the next line of a port's pass leaves. -/
def scrubRead (p : Nat) (s : State) : State := (readLine 0 1 (addrOfPort s p (64 * (mapGet 0 s.scrubAt p % (memQ s / 64)))) s).2

/-- A port whose pass is on reads its next line while no request waits for the channel (R372). -/
theorem execMemoryScrub_reads {p : Nat} (hp : p < 24) (hpass : rd s MEM_SCRUB_pass_h p ≠ 0) (hlines : memQ s / 64 ≠ 0)
    (hfree : scrubBusy s p = false) :
    execMemoryScrub p s = .next { scrubRead p s with
      scrubAt := mapSet 0 (scrubRead p s).scrubAt p ((mapGet 0 s.scrubAt p + 1) % (memQ s / 64)) } := by
  have hreads : ¬ (24 ≤ p ∨ rd s MEM_SCRUB_pass_h p = 0 ∨ memQ s / 64 = 0 ∨ scrubBusy s p = true) := by
    simp [Nat.not_le.mpr hp, hpass, hlines, hfree]
  exact congrArg Host.Outcome.next (if_neg hreads)

end

/-- Settles O34: a slot that is left and grants; a port that serves the request, itself or the read of its table entry; a pass whose
channel is free. -/
theorem fabricAndMemoryPortsComplete : Obligations.FabricAndMemoryPortsComplete := by
  refine ⟨?_, ?_, ?_, ?_, ?_, ?_⟩
  · intro s cyc
    rfl
  · intro s t cyc i x k v ht hleft hroom hgrant
    exact execShareGrant_grants ht hleft hroom hgrant
  · intro s i x r q hx hstage hread hlocal htest hturn
    have hown : x.stage ≠ 10 := by simp [hstage]
    exact (execMemoryRead_serves hx (pktOf_admitted hstage) (portServes_admitted hstage hread hlocal htest hturn)).trans
      (congrArg _ (if_neg hown))
  · intro s i x y r q hx hstage hserves
    exact (execMemoryRead_serves hx (pktOf_walking hstage) hserves).trans (congrArg _ (if_pos hstage))
  · intro s i x q hx hstage hwrite hlocal htest hturn
    rw [exec_memoryWrite, execMemoryWrite, memoryWrite_serves hx (portServes_admitted hstage hwrite hlocal htest hturn)]
  · intro s p v hp hpass hlines hfree
    exact execMemoryScrub_reads hp hpass hlines hfree

/-! ### The host path -/

section
variable {s : State} {i : Nat} {x : Xact}

/-- An admitted write enters H0's posted queue in its turn and is acknowledged (R354). -/
theorem execHostPathWrite_sends (hx : fabGet s i = some x) (hwrite : x.wr = true) (hhost : x.host = true) (hstage : x.stage = 2)
    (hturn : portTurn s x = true) :
    execHostPathWrite i s =
      .next (fabAnswer i x 0 [] [] (emit .hostWrite ([x.pasid, x.pa, x.len] ++ x.pf.map b2n ++ x.data.take x.len) s)) := by
  have htaken : ¬ ((!x.wr) = true ∨ (!x.host) = true) := by simp [hwrite, hhost]
  have hnow : ¬ (!portTurn s x) = true := by simp [hturn]
  simp only [execHostPathWrite, hx]
  rw [if_neg htaken, if_pos hstage, if_neg hnow]

/-- An admitted read goes out to the host in its turn (R354). -/
theorem execHostPathRead_sends (hx : fabGet s i = some x) (hstage : x.stage = 2) (hhost : x.host = true) (hread : x.wr = false)
    (hturn : portTurn s x = true) :
    execHostPathRead i s = .next (emit .hostRead [x.pasid, x.pa, x.len] (fabSet i { x with stage := 3 } s)) := by
  simp only [execHostPathRead, hx]
  rw [if_pos ⟨hstage, hhost, by simp [hread], hturn⟩]

/-- A successful completion without poison answers the read with the host's data (R359). -/
theorem execHostReadCompletion_good {data : List Nat} (hx : fabGet s i = some x) (hstage : x.stage = 3) :
    execHostReadCompletion i true false data s =
      .next (fabAnswer i x 0 (((data ++ List.replicate x.len 0).take x.len).map (· % 256)) (allLines x false) s) := by
  simp only [execHostReadCompletion, hx]
  rw [if_neg (not_not.mpr hstage)]
  rfl

/-- The function that issued a request: the VF of a paddock's brand, the PF of any other. -/
def requestFn (x : Xact) : Nat := (brandPdk x.brand).elim 0 (· + 1)

/-- A read without a completion is logged at its function and answered with status 3 (R682). -/
theorem execCompletionTimeout_logs (hx : fabGet s i = some x) (hstage : x.stage = 3) :
    execCompletionTimeout i s =
      .next (fabAnswer i x 3 (List.replicate x.len 0) (allLines x true) (aerUncorr (requestFn x) 14 s)) := by
  simp only [execCompletionTimeout, hx, requestFn]
  rw [if_neg (not_not.mpr hstage)]
  cases brandPdk x.brand <;> rfl

/-- A write that has waited too long at H0 is discarded and counted (R355). -/
theorem execHostWriteDiscard_counts (hx : fabGet s i = some x) (hstage : x.stage = 2) (hhost : x.host = true) (hwrite : x.wr = true) :
    execHostWriteDiscard i s = .next (fabAnswer i x 4 [] [] (bump PST_HOSTLOST_count 10 s)) := by
  simp only [execHostWriteDiscard, hx]
  rw [if_pos ⟨hstage, hhost, hwrite⟩]

end

/-- Settles O35: the stage of a request decides what the host path does with it. -/
theorem hostPathComplete : Obligations.HostPathComplete := by
  refine ⟨?_, ?_, ?_, ?_, ?_, ?_⟩
  · intro s i x hx hwrite hhost hstage hturn
    exact execHostPathWrite_sends hx hwrite hhost hstage hturn
  · intro s i x hx hstage hhost hread hturn
    exact execHostPathRead_sends hx hstage hhost hread hturn
  · intro s i x data hx hstage
    exact execHostReadCompletion_good hx hstage
  · intro s i x hx hstage hbrand
    have hfn : requestFn x = 0 := congrArg (Option.elim · 0 (· + 1)) hbrand
    rw [exec_completionTimeout, execCompletionTimeout_logs hx hstage, hfn]
  · intro s i x n hx hstage hbrand
    have hfn : requestFn x = n + 1 := congrArg (Option.elim · 0 (· + 1)) hbrand
    rw [exec_completionTimeout, execCompletionTimeout_logs hx hstage, hfn]
  · intro s i x hx hstage hhost hwrite
    exact execHostWriteDiscard_counts hx hstage hhost hwrite

/-! ### Translation by the host -/

section
variable {s : State}

/-- A completion with the right the request needs is cached and used (R381, R382). -/
theorem execTranslationCompletion_granted {i ta size : Nat} {r w : Bool} {x : Xact} (hx : fabGet s i = some x) (hstage : x.stage = 5)
    (hright : (if x.wr then w else r) = true) :
    execTranslationCompletion i 0 ta size r w s =
      .next (fabSet i { x with pa := ta + x.pa % Nat.max size 4096, stage := 1 }
        (atsPut { pasid := x.pasid, base := x.pa - x.pa % Nat.max size 4096, size := Nat.max size 4096, ta := ta, r := r, w := w } s)) := by
  simp only [execTranslationCompletion, hx]
  rw [if_neg (not_not.mpr hstage), if_neg (not_not.mpr rfl), if_pos hright]

/-- The oldest Page Request that waits is sent while the allocation has room (R383). -/
theorem execPageRequest_sends {q : PageReq} (hq : s.pageReqs.find? (fun y => !y.sent) = some q) (hen : s.priEn = true)
    (hruns : rd s PST_PRISTAT_stopped 10 ≠ 1) (hroom : pagesOut s < Nat.min 512 s.priAlloc) :
    execPageRequest s = .next (pagesShow (emit .pageRequest [q.pasid, q.page, s.prgNext % 512, b2n q.wr]
      { s with prgNext := (s.prgNext + 1) % 512,
               pageReqs := s.pageReqs.takeWhile (fun y => y.sent) ++
                 ({ q with sent := true, idx := s.prgNext % 512 } :: (s.pageReqs.dropWhile (fun y => y.sent)).drop 1) })) := by
  have hsends : ¬ ((!s.priEn) = true ∨ rd s PST_PRISTAT_stopped 10 = 1 ∨ Nat.min 512 s.priAlloc ≤ pagesOut s) :=
    not_or.mpr ⟨by simp [hen], not_or.mpr ⟨hruns, Nat.not_le.mpr hroom⟩⟩
  simp only [execPageRequest, hq]
  rw [if_neg hsends]

/-- A response of Success answers every context that waits for the page (R383). -/
theorem execPrgResponse_success {idx : Nat} {q : PageReq} (hq : s.pageReqs.find? (fun y => y.sent && y.idx == idx) = some q) :
    execPrgResponse idx 0 s = .next ((pageWaiters s q).foldl (fun s g => pageAnswer true g s)
      (pagesShow { s with pageReqs := listDropFirst (fun y => y.sent && y.idx == idx) s.pageReqs })) := by
  simp only [execPrgResponse, hq]
  rfl

/-- An invalidation is done once no request that it awaits stands at a target (R378). -/
theorem execInvalidationDone_done (hbusy : rdB s PST_INVCTL_busy 10 = true)
    (hnone : s.fab.any (fun x => x.inv && (x.stage == 2 || x.stage == 3)) = false) :
    execInvalidationDone s = .next (wr PST_INVCTL_busy 10 0 (wr PST_INVCTL_done_seq 10 (rd s PST_INVCTL_done_seq 10 + 1)
      { s with fab := s.fab.map (fun x => { x with inv := false }) })) :=
  congrArg Host.Outcome.next (if_pos ⟨hbusy, by simp [hnone]⟩)

/-- With no request in the fabric an ATS invalidation only drops the entries it meets (R384). -/
theorem execInvalidateRequest_empty {tag pasid base size : Nat} (hfab : s.fab = []) :
    execInvalidateRequest tag pasid base size s =
      .next (atsInvSend { s with ats := s.ats.filter (fun e => !(e.pasid == pasid && (e.base < base + size && base < e.base + e.size))),
                                 atsInv := s.atsInv ++ [tag], fab := [] }) := by
  simp only [execInvalidateRequest, hfab, List.map_nil]

end

/-- Settles O36: each answer of the host finds what waits for it; an invalidation finds nothing it must await. -/
theorem translationComplete : Obligations.TranslationComplete := by
  refine ⟨?_, ?_, ?_, ?_, ?_, ?_⟩
  · intro s i ta size r w x hx hstage hright
    exact execTranslationCompletion_granted hx hstage hright
  · intro s q hq hen hruns hroom
    exact execPageRequest_sends hq hen hruns hroom
  · intro s idx q hq
    exact execPrgResponse_success hq
  · intro s
    rfl
  · intro s hbusy hnone
    exact execInvalidationDone_done hbusy hnone
  · intro s tag pasid base size hfab
    exact execInvalidateRequest_empty hfab

end Sys2Proof.Machine
end

section
/-! PROOFS. Start-up from S5 on (spec/24_startup.md R755, R762, R764, R767; spec/11_pasture_memory.md R365, R366) and what the board's rails
answer (spec/18_ration.md R593; spec/25_pins.md R804). -/

namespace Sys2Proof.Machine

section
variable {s : State} {t r : Nat}

/-! ### Supplies -/

/-- MEM_PG rises where start-up waits for it in S6: the groups of supplies turn on (R755, R762). -/
theorem execMemPgRise_goesOn (hstarting : pwrState (wr SHP_PWRSTAT_mem_pg 0 1 (atTime t s)) = 1)
    (hstep : rd (wr SHP_PWRSTAT_mem_pg 0 1 (atTime t s)) SHP_PWRSTAT_step 0 = 5)
    (hasked : rdB (wr SHP_PWRSTAT_mem_pg 0 1 (atTime t s)) SHP_PWRSTAT_mem_pwren 0 = true) :
    execMemPgRise t s = .next (groupsGo 0 (railEnables true true (setStep 6 (wr SHP_PWRSTAT_mem_pg 0 1 (atTime t s))))) :=
  congrArg Host.Outcome.next (if_pos ⟨hstarting, hstep, hasked⟩)

/-- MEM_PG falls with the main domain on: a fast shut-down (R770). -/
theorem execMemPgFall_shutsDown (hrails : rdB (wr SHP_PWRSTAT_mem_pg 0 0 (atTime t s)) SHP_PWRSTAT_rails_en 0 = true) :
    execMemPgFall t s = .next (shutDown 6 0 true (wr SHP_PWRSTAT_mem_pg 0 0 (atTime t s))) :=
  congrArg Host.Outcome.next (if_pos hrails)

/-- STATUS_WORD of a rail of the group that S7 switches on is judged (R762, R779). -/
theorem execRailPowerGood_inGroup {w : Nat} (hs7 : inS7 (atTime t s) = true)
    (hgroup : (groupRails (atTime t s) (atTime t s).pwr.group).contains r = true) :
    execRailPowerGood t r w s = .next (railUp r w (atTime t s)) := by
  have hjudged : ¬ ((!inS7 (atTime t s)) = true ∨ (!(groupRails (atTime t s) (atTime t s).pwr.group).contains r) = true) := by
    rw [hs7, hgroup]
    decide
  exact congrArg Host.Outcome.next (if_neg hjudged)

/-! ### Training and start-up Muster -/

/-- Training ends S9 where S8 is complete and what was trained is a shape of memory the package takes (R365, R366). -/
theorem execMemoryTrainingDone_trained {gib : Nat} {rates fails : List Nat} {lpcamm : Bool} (hstarting : pwrState s = 1)
    (hstep : rd s SHP_PWRSTAT_step 0 = 8) (hrates : rates.any (2 < ·) = false) (hgib : gib ∈ [4, 8, 12, 16, 24, 32]) :
    execMemoryTrainingDone gib rates lpcamm fails s = .next (setStep 9 (memShape ((List.range 24).foldl (fun y p =>
      wr MEM_STAT_train_fail p (b2n (fails.contains p)) (wr MEM_STAT_trained p (b2n (!fails.contains p))
        (wr MEM_CFG_port_gib p gib (wr MEM_CFG_rate p (rates.getD p 0) (wr MEM_CFG_lpcamm p (b2n lpcamm) y))))) s))) := by
  have hknown : [4, 8, 12, 16, 24, 32].contains gib = true := List.contains_iff_mem.mpr hgib
  have hshape : ¬ (pwrState s ≠ 1 ∨ rd s SHP_PWRSTAT_step 0 ≠ 8 ∨ rates.any (2 < ·) = true ∨
      (!([4, 8, 12, 16, 24, 32].contains gib)) = true) := by
    rw [hstarting, hstep, hrates, hknown]
    decide
  exact congrArg Host.Outcome.next (if_neg hshape)

/-- Neither the package state nor the step keeps a start-up that has completed step k from the one after it. -/
theorem not_otherStep {k : Nat} (hstarting : pwrState s = 1) (hstep : rd s SHP_PWRSTAT_step 0 = k) :
    ¬ (pwrState s ≠ 1 ∨ rd s SHP_PWRSTAT_step 0 ≠ k) := not_or.mpr ⟨not_not.mpr hstarting, not_not.mpr hstep⟩

/-! ### Failures and the retry -/

/-- A start-up that failed once is retried a second later (R767). -/
theorem execStartupRetry_retries (hkeeper : pwrState (atTime t s) = 0) (hfails : (atTime t s).pwr.fails = 1)
    (hfirst : rdB (atTime t s) SHP_BOOTSTAT_retried 0 = false) (hdue : (atTime t s).pwr.failAt + 100000000 ≤ t) :
    execStartupRetry t s = .next (tryS5 (setStep 4 (wr SHP_BOOTSTAT_retried 0 1 (atTime t s)))) := by
  have hretries : ¬ (pwrState (atTime t s) ≠ 0 ∨ (atTime t s).pwr.fails ≠ 1 ∨ rdB (atTime t s) SHP_BOOTSTAT_retried 0 = true ∨
      t < (atTime t s).pwr.failAt + 100000000) :=
    not_or.mpr ⟨not_not.mpr hkeeper, not_or.mpr ⟨not_not.mpr hfails, not_or.mpr ⟨ne_true_of_eq_false hfirst, Nat.not_lt.mpr hdue⟩⟩⟩
  exact congrArg Host.Outcome.next (if_neg hretries)

/-- MEM_PG has not risen in time (R767). -/
theorem execPowerGoodTimeout_memory (hstarting : pwrState (atTime t s) = 1) (hstep : rd (atTime t s) SHP_PWRSTAT_step 0 = 5) :
    execPowerGoodTimeout t s = .next (startFails (wr SHP_BOOTSTAT_mem_pg_fail 0 1 (atTime t s))) :=
  congrArg Host.Outcome.next ((if_neg (not_not.mpr hstarting)).trans (if_pos hstep))

/-- A rail of the group that S7 switches on is not good in time: the first such rail fails (R767). -/
theorem execPowerGoodTimeout_rail (hstarting : pwrState (atTime t s) = 1) (hstep : rd (atTime t s) SHP_PWRSTAT_step 0 = 6)
    (hrail : (groupRails (atTime t s) (atTime t s).pwr.group).find? (fun k => !railGood (atTime t s) k) = some r) :
    execPowerGoodTimeout t s = .next (railFails r (atTime t s)) := by
  have hlater : rd (atTime t s) SHP_PWRSTAT_step 0 ≠ 5 := by simp [hstep]
  rw [execPowerGoodTimeout]
  simp only [if_neg (not_not.mpr hstarting), if_neg hlater, if_pos hstep, hrail]

/-! ### What the rails answer -/

/-- A rail that is being tried again, or any rail in S7, is asked once more (R804). -/
theorem execPmbusRetry_polls {ok : Bool} {status pin : Nat} (hr : r < 9) (hasked : mapGet 0 s.pmTry r ≠ 0 ∨ inS7 s = true) :
    execPmbusRetry r ok status pin s = .next (railPoll r ok status pin s) := by
  have hpolls : ¬ (9 ≤ r ∨ (mapGet 0 s.pmTry r = 0 ∧ (!inS7 s) = true)) := by
    rintro (hout | ⟨hnone, hother⟩)
    · exact absurd hr (Nat.not_lt.mpr hout)
    · rcases hasked with htried | hs7
      · exact htried hnone
      · simp [hs7] at hother
  exact congrArg Host.Outcome.next (if_neg hpolls)

/-- SMBALERT# is answered where firmware runs, and stays latched through a live activation (R593, R741). -/
theorem execSmbalert_served {fl : List Nat} (hfirmware : pwrState s ≠ 6) (hwarm : s.pwr.cold = false) :
    execSmbalert fl s =
      .next (if activating s then pwrMod (fun p => { p with alert := true }) s else alertRead fl s) := by
  have hserved : ¬ (pwrState s = 6 ∨ s.pwr.cold = true) := not_or.mpr ⟨hfirmware, ne_true_of_eq_false hwarm⟩
  exact congrArg Host.Outcome.next (if_neg hserved)

end

/-- Settles O58: each command in the step that start-up has come to, and each answer of a rail where it was asked for. -/
theorem startUpComplete : Obligations.StartUpComplete := by
  refine ⟨?_, ?_, ?_, ?_, ?_, ?_, ?_, ?_, ?_, ?_, ?_, ?_⟩
  · intro s t v hstarting hstep hasked
    exact execMemPgRise_goesOn hstarting hstep hasked
  · intro s t v hrails
    exact execMemPgFall_shutsDown hrails
  · intro s t r w v hs7 hgroup
    exact execRailPowerGood_inGroup hs7 hgroup
  · intro s gib rates lpcamm fails hstarting hstep hrates hgib
    exact execMemoryTrainingDone_trained hstarting hstep hrates hgib
  · intro s t draw fails blocks v w1 w2 w3 hstarting hstep
    exact congrArg Host.Outcome.next (if_neg (not_otherStep hstarting hstep))
  · intro s t v hkeeper hfails hfirst hdue
    exact execStartupRetry_retries hkeeper hfails hfirst hdue
  · intro s t v hstarting hstep
    exact execPowerGoodTimeout_memory hstarting hstep
  · intro s t r v hstarting hstep hrail
    exact execPowerGoodTimeout_rail hstarting hstep hrail
  · intro s b
    rfl
  · intro s r ok status pin hr hasked
    exact execPmbusRetry_polls hr hasked
  · intro s fl hfirmware hwarm hact
    exact (execSmbalert_served hfirmware hwarm).trans (congrArg _ (if_neg (ne_true_of_eq_false hact)))
  · intro s fl hfirmware hwarm hact
    exact (execSmbalert_served hfirmware hwarm).trans (congrArg _ (if_pos hact))

end Sys2Proof.Machine
end

section
/-! PROOFS. Whistle (spec/12_whistle.md): the operations of the X unit (R396-R402, R416) and the packets in flight (R398-R412, R419). -/

namespace Sys2Proof.Machine

section
variable {s : State} {c : Nat} {e : QEnt}

/-! ### Sends (R396, R398, R401) -/

/-- A message without a payload as it sets out: on the route its destination word names, or to a core of the paddock (R396, R398). -/
theorem whsRun_empty {p : Nat} {v : State} {m : WMsg} (hop : e.op = 0x20) (hlen : whLen e.slot = 0)
    (hm : m = { whsMsg v p e 0 with
      tag := natBits (whD e.op e.vals) 31 16, e := natBits (whD e.op e.vals) 51 32, len := 0, payload := [] }) :
    whsRun p e v =
      if natBit (whD e.op e.vals) 15 then whsGo p m (some (natBits (whD e.op e.vals) 10 0)) (whsDone p e v)
      else whsGo p { m with dst := pdkCore v ((pcorePdk v p).getD 0) (natBits (whD e.op e.vals) 10 0) } none (whsDone p e v) := by
  subst hm
  simp only [whsRun, hlen, List.range_zero, List.map_nil]
  exact if_pos hop

/-- A connected send reads its landing-offset word together with its payload (R396, R399). -/
theorem whsRead_connected {p : Nat} {v : State} (hop : e.op = 0x21) :
    whsRead p e v =
      xAccess p e.disp false (taskBase v p e.task + whA e.op e.vals - 8) (whLen e.slot + 8) [] v := by
  simp only [whsRead, whsFirst, if_pos hop]
  exact if_neg (Nat.succ_ne_zero _)

/-- A tagged message starts where its destination and the send table let it (R398). -/
theorem execWhsSend_starts (hhead : xHead s (pcore s c) = some e) (hop : e.op = 0x20) (hstart : xMayStart s (pcore s c) e = true)
    (hfree : sendFree s (pcore s c) e = true) :
    execWhsSend c s = .next (whsRead (pcore s c) e (xMark (pcore s c) e s)) :=
  congrArg Host.Outcome.next (xStart_run hhead hop hstart hfree)

/-- A connected message starts where its entry lets it: on a Failed entry it raises subcode 3, else it is read (R398, R401). -/
theorem execWhsCsend_starts (hhead : xHead s (pcore s c) = some e) (hop : e.op = 0x21) (hstart : xMayStart s (pcore s c) e = true)
    (hfree : csendFree s (pcore s c) e = true) :
    execWhsCsend c s =
      .next (if cn WHS_CONN_state (xMark (pcore s c) e s) (pcore s c) (whEntry e.slot) = cnFailed then
          xFault (pcore s c) e 3 (whsDone (pcore s c) e (xMark (pcore s c) e s))
        else whsRead (pcore s c) e (xMark (pcore s c) e s)) :=
  congrArg Host.Outcome.next (xStart_run hhead hop hstart hfree)

/-! ### Connections (R400-R402) -/

/-- The control word of an open request on a route, where the field of the receiving core is 0 (R700). -/
theorem ltControlBody_zero (m : WMsg) :
    ltControlBody m 0 = [m.kind + m.sentry % 64 * 2 ^ 8 + m.entry % 64 * 2 ^ 14 + m.srcIdx % 2 ^ 11 * 2 ^ 20] := by
  rw [ltControlBody, Nat.zero_mod, Nat.zero_mul, Nat.add_zero]

/-- State v of core p once its entry r listens with the landing word of operation e. -/
def entryListens (p r : Nat) (e : QEnt) (v : State) : State :=
  cnSet WHS_CONN_state p r cnListening { v with landings := mapSet 0 v.landings (64 * p + r) (whD e.op e.vals + 1) }

/-- WHS.LISTEN with nothing held at its entry leaves it Listening (R400). -/
theorem execWhsListen_listens (hhead : xHead s (pcore s c) = some e) (hop : e.op = 0x23) (hstart : xMayStart s (pcore s c) e = true)
    (hnone : opensOf (entryListens (pcore s c) (whEntry e.slot) e (xMark (pcore s c) e s)) (pcore s c) (whEntry e.slot) = []) :
    execWhsListen c s = .next (entryListens (pcore s c) (whEntry e.slot) e (xMark (pcore s c) e s)) := by
  refine congrArg Host.Outcome.next ((xStart_run hhead hop hstart rfl).trans ?_)
  simp only [entryListens] at hnone ⊢
  simp only [hnone]

/-- WHS.LISTEN binds its entry to the open request held there (R400). -/
theorem execWhsListen_binds {m : WMsg} {ms : List WMsg} (hhead : xHead s (pcore s c) = some e) (hop : e.op = 0x23)
    (hstart : xMayStart s (pcore s c) e = true)
    (hheld : opensOf (entryListens (pcore s c) (whEntry e.slot) e (xMark (pcore s c) e s)) (pcore s c) (whEntry e.slot) = m :: ms) :
    execWhsListen c s = .next (openReply m 2 (cnBind (pcore s c) (whEntry e.slot) m
      (opensPut (pcore s c) (whEntry e.slot) [] (entryListens (pcore s c) (whEntry e.slot) e (xMark (pcore s c) e s))))) := by
  refine congrArg Host.Outcome.next ((xStart_run hhead hop hstart rfl).trans ?_)
  simp only [entryListens] at hheld ⊢
  simp only [hheld]

/-- What WHS.CLOSE makes of entry l of core p by the entry's state (R401, R402). -/
def closeEntry (p l : Nat) (e : QEnt) (v : State) : State :=
  let m := cnMsg v p e 4 l
  let u := { v with sidNext := v.sidNext + 1 }
  let st := cn WHS_CONN_state v p l
  if st = cnListening then (opensOf v p l).foldl (fun y g => openRefuse p g y) (opensPut p l [] (cnClear p l v))
  else if st = cnFailed then cnClear p l v
  else if st = cnOpening then sendsPut p (sendsOf u p ++ [⟨m.sid, m, 4, 0⟩]) u
  else if st = cnSender then whsGo p m (cnRoute v p l) v
  else v

theorem execWhsClose_closes (hhead : xHead s (pcore s c) = some e) (hop : e.op = 0x24) (hstart : xMayStart s (pcore s c) e = true) :
    execWhsClose c s = .next (closeEntry (pcore s c) (whEntry e.slot) e (xMark (pcore s c) e s)) :=
  congrArg Host.Outcome.next (xStart_run hhead hop hstart rfl)

section
variable {p l : Nat} {v : State}

/-- A listener is cancelled: its entry closes, and an open request that waits there is refused (R402). -/
theorem closeEntry_listening (h : cn WHS_CONN_state v p l = cnListening) :
    closeEntry p l e v = (opensOf v p l).foldl (fun y g => openRefuse p g y) (opensPut p l [] (cnClear p l v)) :=
  if_pos h

/-- A Failed entry closes (R401). -/
theorem closeEntry_failed (h : cn WHS_CONN_state v p l = cnFailed) : closeEntry p l e v = cnClear p l v := by
  simp only [closeEntry, h]
  rfl

/-- The close marker of an Opening entry waits in the send table for the answer to the open (R402). -/
theorem closeEntry_opening (h : cn WHS_CONN_state v p l = cnOpening) :
    closeEntry p l e v = sendsPut p (sendsOf v p ++ [⟨(cnMsg v p e 4 l).sid, cnMsg v p e 4 l, 4, 0⟩])
      { v with sidNext := v.sidNext + 1 } := by
  simp only [closeEntry, h]
  rfl

/-- The close marker of an entry that is Open as sender sets out (R402). -/
theorem closeEntry_sender (h : cn WHS_CONN_state v p l = cnSender) :
    closeEntry p l e v = whsGo p (cnMsg v p e 4 l) (cnRoute v p l) v := by
  simp only [closeEntry, h]
  rfl

end

/-! ### Receives (R398, R399) -/

/-- WHS.RECV writes the head of its queue to the scratchpad and takes it from the queue (R398, R399). -/
theorem execWhsRecv_receives {h : List Nat} {rest : List (List Nat)} (hhead : xHead s (pcore s c) = some e) (hop : e.op = 0x25)
    (hstart : xMayStart s (pcore s c) e = true) (hsome : rqGet s (pcore s c) (whQ e.slot) ≠ [])
    (hq : rqGet (xMark (pcore s c) e s) (pcore s c) (whQ e.slot) = h :: rest) :
    execWhsRecv c s = .next (xAccess (pcore s c) e.disp true
      (taskBase (xMark (pcore s c) e s) (pcore s c) e.task + whA e.op e.vals) 72 (h.flatMap (leBytes 8))
      (closesRetry (pcore s c) (rqPut (pcore s c) (whQ e.slot) rest (xMark (pcore s c) e s)))) := by
  have hfilled : (!(rqGet s (pcore s c) (whQ e.slot)).isEmpty) = true := by simp [hsome]
  refine congrArg Host.Outcome.next ((xStart_run hhead hop hstart hfilled).trans ?_)
  simp only [hq]

end

/-- Settles O37: each operation starts at the head of the X queue; the state of its entry or its queue chooses the effect. -/
theorem whistleOperationsComplete : Obligations.WhistleOperationsComplete := by
  refine ⟨?_, ?_, ?_, ?_, ?_, ?_, ?_, ?_, ?_, ?_, ?_, ?_, ?_⟩
  · intro s c e p v hhead hop hstart hfree hlen
    rw [exec_whsSend, execWhsSend_starts hhead hop hstart hfree, whsRead_access hlen (by rw [hop]; decide), whsFirst,
      if_neg (by rw [hop]; decide), Nat.sub_zero]
  · intro s c e p v d m hhead hop hstart hfree hlen
    rw [exec_whsSend, execWhsSend_starts hhead hop hstart hfree, whsRead_empty hlen (by rw [hop]; decide)]
    exact congrArg _ (whsRun_empty (m := m) hop hlen rfl)
  · intro s c e p v hhead hop hstart hfree hfailed
    exact (execWhsCsend_starts hhead hop hstart hfree).trans (congrArg _ (if_pos hfailed))
  · intro s c e p v hhead hop hstart hfree hopen
    exact (execWhsCsend_starts hhead hop hstart hfree).trans (congrArg _ ((if_neg hopen).trans (whsRead_connected hop)))
  · intro s c e p v d l dst u m hhead hop hstart
    rw [show [1 + l % 64 * 2 ^ 8 + m.entry % 64 * 2 ^ 14 + m.srcIdx % 2 ^ 11 * 2 ^ 20] = ltControlBody m 0 from
      (ltControlBody_zero m).symm]
    exact congrArg Host.Outcome.next (xStart_run hhead hop hstart rfl)
  · intro s c e p v u hhead hop hstart hnone
    exact execWhsListen_listens hhead hop hstart hnone
  · intro s c e m p v u hhead hop hstart hheld
    exact execWhsListen_binds hhead hop hstart hheld
  · intro s c e p v l hhead hop hstart hstate
    exact (execWhsClose_closes hhead hop hstart).trans (congrArg _ (closeEntry_listening hstate))
  · intro s c e p v l hhead hop hstart hstate
    exact (execWhsClose_closes hhead hop hstart).trans (congrArg _ (closeEntry_failed hstate))
  · intro s c e p v l m u hhead hop hstart hstate
    exact (execWhsClose_closes hhead hop hstart).trans (congrArg _ (closeEntry_opening hstate))
  · intro s c e p v l hhead hop hstart hstate
    exact (execWhsClose_closes hhead hop hstart).trans (congrArg _ (closeEntry_sender hstate))
  · intro s c e h rest p v hhead hop hstart hsome hq
    exact execWhsRecv_receives hhead hop hstart hsome hq
  · intro s c data p
    rfl

section
variable {s : State} {i : Nat} {m : WMsg}

/-! ### Messages and their answers (R398, R403-R408, R412) -/

/-- A message reaches its receiver and is answered as it was placed (R403, R408, R412). -/
theorem execWhistleMessage_arrives (hm : whsPacket s i = some m) (hkind : m.kind = 0) :
    execWhistleMessage i s =
      .next (arriveReply m (whsArrive m (whsDrop i s)).1 (whsArrive m (whsDrop i s)).2) := by
  simp only [execWhistleMessage, hm]
  rw [if_neg (not_not.mpr hkind)]

/-- The oldest spilled message of a landing key lands once the key can take it (R407). -/
theorem execSpillDrain_lands {c key : Nat} {x : WSpill} {rest : List WSpill} (hspill : spillGet s (pcore s c) key = x :: rest)
    (hkey : key < 16) (hfree : landingFree s (pcore s c) c ⟨8 ≤ key % 16, x.q, x.win, x.notify, x.msg.e⟩ = true) :
    execSpillDrain c key s = .next (closeRetry (pcore s c) x.msg.entry
      (whsLand (pcore s c) c x.msg ⟨8 ≤ key % 16, x.q, x.win, x.notify, x.msg.e⟩ [x.die, x.pool, x.buf] false
        (spillPut (pcore s c) key rest s))) := by
  simp only [execSpillDrain, hspill]
  rw [if_pos ⟨hkey, hfree⟩]

/-- An acknowledgement reaches the sender (R398). -/
theorem execWhistleAck_frees (hm : whsPacket s i = some m) (hkind : m.kind = 5) :
    execWhistleAck i s = .next (whsAcked (senderKey s m) m.sid (whsDrop i s)) := by
  simp only [execWhistleAck, hm]
  rw [if_pos hkind]

/-- A busy refusal puts its message back at the sender (R408). -/
theorem execBusyRefusal_waits {t : Nat} (hm : whsPacket s i = some m) (hkind : m.kind = 6) :
    execBusyRefusal i t s = .next (whsBusy (senderKey s m) m t (whsDrop i (atTime t s))) := by
  simp only [execBusyRefusal, hm]
  rw [if_pos hkind]

/-- The send-table key that a resend names: a core's, or from 2,048 on a Tally unit's. -/
def resendKey (s : State) (c : Nat) : Nat := if c < 2048 then pcore s c else unitKey (c - 2048)

/-- State s with message sid of the send table of key `key` on its way again. -/
def sendAgain (key sid : Nat) (s : State) : State :=
  sendsPut key ((sendsOf s key).map (fun y => if y.sid = sid then { y with st := 0 } else y)) s

/-- A refused message is resent once its 2 us are over, the gates of its paddock are open and no earlier message of its connection waits
(R408, R413). -/
theorem execWhistleResend_resends {c sid t : Nat} {x : WSend}
    (hx : (sendsOf (atTime t s) (resendKey s c)).find? (fun w => w.sid == sid) = some x) (hwaits : x.st = 1) (hdue : x.at_ ≤ t)
    (hgates : ∀ n, brandPdk x.msg.brand = some n → pdkClosed (atTime t s) n = false)
    (hfirst : x.msg.conn = true → (sendsOf (atTime t s) (resendKey s c)).any
      (fun y => y.msg.conn && y.msg.sentry == x.msg.sentry && y.st == 1 && y.sid < sid) = false) :
    execWhistleResend c sid t s = .next (whsPush x.msg
      (if resendKey s c < 2 ^ 20 then bump WHS_RETRY_count (resendKey s c) (sendAgain (resendKey s c) sid (atTime t s))
       else sendAgain (resendKey s c) sid (atTime t s))) := by
  have hunclosed : ¬ (brandPdk x.msg.brand).any (pdkClosed (atTime t s)) = true := by
    cases hb : brandPdk x.msg.brand with
    | none => simp
    | some n => simp [hgates n hb]
  have hgoes : ¬ (x.st ≠ 1 ∨ t < x.at_ ∨ (brandPdk x.msg.brand).any (pdkClosed (atTime t s)) = true ∨
      (x.msg.conn = true ∧ (sendsOf (atTime t s) (resendKey s c)).any
        (fun y => y.msg.conn && y.msg.sentry == x.msg.sentry && y.st == 1 && y.sid < sid) = true)) := by
    rintro (h | h | h | ⟨hconn, h⟩)
    · exact h hwaits
    · exact absurd hdue (Nat.not_le.mpr h)
    · exact hunclosed h
    · exact absurd h (ne_true_of_eq_false (hfirst hconn))
  simp only [resendKey] at hx hgoes ⊢
  simp only [execWhistleResend, hx]
  rw [if_neg hgoes]
  rfl

/-- A gate refusal is recorded at the sender and drops its packet; that of an open request fails the entry as well (R401, R412,
log 89). -/
theorem execWhistleBrandFault_records (hm : whsPacket s i = some m) (hkind : m.kind = 7) :
    execWhistleBrandFault i s =
      .next (if m.q = 1 then openAnswered (pcore s m.src) m.sentry false (whsRefused (senderKey s m) m (whsDrop i s))
        else whsRefused (senderKey s m) m (whsDrop i s)) := by
  simp only [execWhistleBrandFault, hm]
  rw [if_neg (not_not.mpr hkind)]

/-! ### Connections (R400-R402, R412, R419) -/

/-- An open request that the gate admits reaches its entry (R400). -/
theorem execOpenRequest_admitted (hm : whsPacket s i = some m) (hkind : m.kind = 1) (hgate : whsAdmits s m.brand m.dst m.g1 = true) :
    execOpenRequest i s = .next (openArrive m (whsDrop i s)) := by
  simp only [execOpenRequest, hm]
  rw [if_neg (not_not.mpr hkind), if_neg (by simp [hgate])]

/-- An open request that the gate refuses is answered so (R412). -/
theorem execOpenRequest_refused (hm : whsPacket s i = some m) (hkind : m.kind = 1) (hgate : whsAdmits s m.brand m.dst m.g1 = false) :
    execOpenRequest i s = .next (whsReply m 7 (whsGateRefuses m (whsDrop i s))) := by
  simp only [execOpenRequest, hm]
  rw [if_neg (not_not.mpr hkind), if_pos (by simp [hgate])]

/-- The reply to an open request, 2 for bound and 3 for refused, reaches the opener (R400, R401). -/
theorem execOpenReply_answers (hm : whsPacket s i = some m) (hkind : m.kind = 2 ∨ m.kind = 3) :
    execOpenReply i s = .next (openAnswered (pcore s m.src) m.sentry (m.kind == 2) (whsDrop i s)) := by
  simp only [execOpenReply, hm]
  rw [if_pos hkind]

/-- A close marker that the gate admits is taken, found busy, or kept behind the messages before it (R402, R419). -/
theorem execCloseMarker_admitted (hm : whsPacket s i = some m) (hkind : m.kind = 4) (hgate : whsAdmits s m.brand m.dst m.g1 = true) :
    execCloseMarker i s =
      .next (if (closeArrive m (whsDrop i s)).1 = 3 then
          opensPut (pcore s m.dst) m.entry [m] (closeArrive m (whsDrop i s)).2
        else whsReply m (5 + (closeArrive m (whsDrop i s)).1) (closeArrive m (whsDrop i s)).2) := by
  simp only [execCloseMarker, hm]
  rw [if_neg (not_not.mpr hkind), if_neg (by simp [hgate])]

/-- A close marker that the gate refuses is answered so (R412). -/
theorem execCloseMarker_refused (hm : whsPacket s i = some m) (hkind : m.kind = 4) (hgate : whsAdmits s m.brand m.dst m.g1 = false) :
    execCloseMarker i s = .next (whsReply m 7 (whsGateRefuses m (whsDrop i s))) := by
  simp only [execCloseMarker, hm]
  rw [if_neg (not_not.mpr hkind), if_pos (by simp [hgate])]

end

/-- Settles O38: the kind of a packet decides which command takes it; gate, entry and send table choose the branch. -/
theorem whistlePacketsComplete : Obligations.WhistlePacketsComplete := by
  refine ⟨?_, ?_, ?_, ?_, ?_, ?_, ?_, ?_, ?_, ?_, ?_, ?_, ?_, ?_⟩
  · intro s i m hm hkind
    exact execWhistleMessage_arrives hm hkind
  · intro s c key x rest p hspill hkey hfree
    exact execSpillDrain_lands hspill hkey hfree
  · intro s i m hm hkind
    exact execWhistleAck_frees hm hkind
  · intro s i t m v hm hkind
    exact execBusyRefusal_waits hm hkind
  · intro s c sid t x v key u hx hwaits hdue hgates hfirst
    exact execWhistleResend_resends hx hwaits hdue hgates hfirst
  · intro s i m hm hkind hother
    exact (execWhistleBrandFault_records hm hkind).trans (congrArg _ (if_neg hother))
  · intro s i m hm hkind hopen
    exact (execWhistleBrandFault_records hm hkind).trans (congrArg _ (if_pos hopen))
  · intro s i m hm hkind hgate
    exact execOpenRequest_admitted hm hkind hgate
  · intro s i m hm hkind hgate
    exact execOpenRequest_refused hm hkind hgate
  · intro s i m hm hkind
    rw [exec_openReply, execOpenReply_answers hm (.inl hkind), hkind]
    rfl
  · intro s i m hm hkind
    rw [exec_openReply, execOpenReply_answers hm (.inr hkind), hkind]
    rfl
  · intro s i m r hm hkind hgate hkept
    exact (execCloseMarker_admitted hm hkind hgate).trans (congrArg _ (if_pos hkept))
  · intro s i m r hm hkind hgate htaken
    exact (execCloseMarker_admitted hm hkind hgate).trans (congrArg _ (if_neg htaken))
  · intro s i m hm hkind hgate
    exact execCloseMarker_refused hm hkind hgate

end Sys2Proof.Machine
end

section
/-! PROOFS. Tally (spec/13_tally.md): the operations of the X unit (R425-R434), the packets at a unit and on their way back (R424-R430,
R438), and the register writes (R424, R442, R443). -/

namespace Sys2Proof.Machine

section
variable {s : State} {c : Nat} {e : QEnt}

/-! ### Operations of the X unit (R425-R434) -/

/-- A released add starts, on the route its counter word names or to its unit (R428, R439). -/
theorem execTlySig_starts (hhead : xHead s (pcore s c) = some e) (hop : e.op = 0x30) (hstart : xMayStart s (pcore s c) e = true)
    (hreleased : released s (pcore s c) e = true) :
    execTlySig c s = .next (if cwLt (tlyRc e) then sigRemote (pcore s c) e (xMark (pcore s c) e s)
      else tlySend 0 (pcore s c) e (xMark (pcore s c) e s)) :=
  congrArg Host.Outcome.next (xStart_run hhead hop hstart hreleased)

section
variable {p : Nat} {v : State} {run : Nat → Nat → State → State × Nat}

/-- Where its gate admits it, an operation runs at its counter's unit, which counts it, and its result word is written (R427). -/
theorem atUnit_admitted (hgate : tlyAdmits v (coreBrand v p) (cwUnit (tlyRc e)) (cwIndex (tlyRc e)) [] = true) :
    atUnit p e run v = xResult p e (tlyRa e) (run (cwUnit (tlyRc e)) (cwIndex (tlyRc e)) (bumpOps (cwUnit (tlyRc e)) v)).2
      (run (cwUnit (tlyRc e)) (cwIndex (tlyRc e)) (bumpOps (cwUnit (tlyRc e)) v)).1 :=
  if_neg (by simp [hgate])

/-- Where its gate refuses it, an operation raises its fault instead (R438). -/
theorem atUnit_refused (hgate : tlyAdmits v (coreBrand v p) (cwUnit (tlyRc e)) (cwIndex (tlyRc e)) [] = false) :
    atUnit p e run v = unitRefuses p e v :=
  if_pos (by simp [hgate])

end

section
variable (hhead : xHead s (pcore s c) = some e) (hstart : xMayStart s (pcore s c) e = true)
  (hfree : tlyStuck s (cwUnit (tlyRc e)) (cwIndex (tlyRc e)) = false)
include hhead hstart hfree

/-- An operation whose unit can take it acts there in its starting step, which is the model's choice (log 14). -/
theorem xStart_atUnit {op : Nat} {run : QEnt → Nat → Nat → State → State × Nat} (hop : e.op = op) :
    xStart op c unitFree (fun p e s => atUnit p e (run e) s) s = atUnit (pcore s c) e (run e) (xMark (pcore s c) e s) :=
  xStart_run hhead hop hstart (by simp [unitFree, hfree])

/-- TLY.WATCH registers its watch (R432). -/
theorem execTlyWatch_starts (hop : e.op = 0x32) :
    execTlyWatch c s = .next (atUnit (pcore s c) e (watchAdd e) (xMark (pcore s c) e s)) :=
  congrArg Host.Outcome.next (xStart_atUnit (run := watchAdd) hhead hstart hfree hop)

/-- TLY.READ takes the value of its counter (R425). -/
theorem execTlyRead_starts (hop : e.op = 0x33) :
    execTlyRead c s = .next (atUnit (pcore s c) e (fun u i s => (s, tlyCnt s u i)) (xMark (pcore s c) e s)) :=
  congrArg Host.Outcome.next (xStart_atUnit (run := fun _ u i s => (s, tlyCnt s u i)) hhead hstart hfree hop)

/-- TLY.UNWATCH cancels a watch (R434). -/
theorem execTlyUnwatch_starts (hop : e.op = 0x34) :
    execTlyUnwatch c s = .next (atUnit (pcore s c) e (watchUndo e) (xMark (pcore s c) e s)) :=
  congrArg Host.Outcome.next (xStart_atUnit (run := watchUndo) hhead hstart hfree hop)

end

end

section
variable {s : State} {i : Nat} {k : TPkt}

/-! ### Packets at a unit (R424-R430, R438, R442) -/

/-- An add that the gate admits is applied, and acknowledged with the counter's new value (R424, R428). -/
theorem execTallyAdd_admitted (hk : tlyPacket s i = some k) (hop : k.op = 0) (hgate : tlyAdmits s k.brand k.unit k.idx k.g1 = true) :
    execTallyAdd i s = .next (addDone k.ret ((tlyCnt s k.unit k.idx + k.val) % 2 ^ 64)
      (tallyAdd k.unit k.idx k.val (tlyDrop i s))) := by
  simp only [execTallyAdd, hk]
  rw [if_neg (by rw [hop]; decide), if_neg (not_not.mpr hop), if_neg (by simp [hgate])]

/-- An add that the gate refuses turns back (R438). -/
theorem execTallyAdd_refused (hk : tlyPacket s i = some k) (hop : k.op = 0) (hgate : tlyAdmits s k.brand k.unit k.idx k.g1 = false) :
    execTallyAdd i s = .next (tlyRefuse k (tlyDrop i s)) := by
  simp only [execTallyAdd, hk]
  rw [if_neg (by rw [hop]; decide), if_neg (not_not.mpr hop), if_pos (by simp [hgate])]

/-- A register write that had to wait sets its counter (R442). -/
theorem execTallyAdd_write (hk : tlyPacket s i = some k) (hop : k.op = 7) :
    execTallyAdd i s = .next (tallySet k.unit k.idx k.val (tlyDrop i s)) := by
  simp only [execTallyAdd, hk]
  rw [if_pos hop]

/-- A wait that the gate admits stands at its counter, whose waits are then evaluated (R430). -/
theorem execTallyWaitRequest_admitted (hk : tlyPacket s i = some k) (hop : k.op = 1)
    (hgate : tlyAdmits s k.brand k.unit k.idx k.g1 = true) :
    execTallyWaitRequest i s = .next (evalWaits k.unit k.idx { bumpOps k.unit (tlyDrop i s) with
      tlyWaits := (bumpOps k.unit (tlyDrop i s)).tlyWaits ++
        [{ unit := k.unit, idx := k.idx, cond := k.cond, val := k.val, ret := k.ret }] }) := by
  simp only [execTallyWaitRequest, hk]
  rw [if_neg (not_not.mpr hop), if_neg (by simp [hgate])]

/-- A wait that the gate refuses turns back (R438). -/
theorem execTallyWaitRequest_refused (hk : tlyPacket s i = some k) (hop : k.op = 1)
    (hgate : tlyAdmits s k.brand k.unit k.idx k.g1 = false) :
    execTallyWaitRequest i s = .next (tlyRefuse k (tlyDrop i s)) := by
  simp only [execTallyWaitRequest, hk]
  rw [if_neg (not_not.mpr hop), if_pos (by simp [hgate])]

/-! ### Answers and refusals (R430, R438, R669) -/

/-- The TLY.WAIT that stands in the X queue of core p completes (R430, R431). -/
theorem waitDone_found {p d : Nat} {e : QEnt} {v : State} (h : qFind v p .x d = some e) :
    waitDone p d v = qFree p .x d (spWaited p e.task e.bun v) := by
  simp only [waitDone, h]

/-- An answer that reaches a core completes the wait it names, which the packet's leaving does not touch (R430). -/
theorem execTallyWaitAnswer_core {p d : Nat} {e : QEnt} (hk : tlyPacket s i = some k) (hop : k.op = 5) (hret : k.ret = [1, p, d])
    (hfound : qFind s p .x d = some e) :
    execTallyWaitAnswer i s = .next (qFree p .x d (spWaited p e.task e.bun (tlyDrop i s))) := by
  have hkept : qFind (tlyDrop i s) p .x d = some e := hfound
  simp only [execTallyWaitAnswer, hk, hret]
  rw [if_neg (not_not.mpr hop), waitDone_found hkept]

/-- An answer to a wait of the host gives its submission entry the counter's value (R669). -/
theorem execTallyWaitAnswer_host {f n : Nat} (hk : tlyPacket s i = some k) (hop : k.op = 5) (hret : k.ret = [3, f, n]) :
    execTallyWaitAnswer i s = .next (hostDone f n 0 (k.val % 2 ^ 32) (tlyDrop i s)) := by
  simp only [execTallyWaitAnswer, hk, hret]
  rw [if_neg (not_not.mpr hop)]

/-- A refusal reaches who sent the operation, whose opcode it carries (R438). -/
theorem execTallyRefusal_reaches (hk : tlyPacket s i = some k) (hop : k.op = 6) :
    execTallyRefusal i s = .next (tlyRefused k.cond k.ret (tlyDrop i s)) := by
  simp only [execTallyRefusal, hk]
  rw [if_pos hop]

end

/-- Settles O39: an operation acts from the head of its queue, at a unit as its gate decides; the kind of a packet and its gate choose
what becomes of it; a register write takes effect at a counter or watch entry that its unit has. -/
theorem tallyCommandsComplete : Obligations.TallyCommandsComplete := by
  refine ⟨?sig, ?wait, ?watch, ?watchRefused, ?read, ?readRefused, ?unwatch, ?unwatchRefused, ?add, ?addRefused, ?heldWrite,
    ?waitRequest, ?waitRefused, ?coreAnswer, ?hostAnswer, ?refusal, ?cntWrite, ?addWrite, ?watchCancel⟩
  case sig =>
    intro s c e p v hhead hop hstart hreleased
    exact execTlySig_starts hhead hop hstart hreleased
  case wait =>
    intro s c e p v hhead hop hstart
    exact congrArg Host.Outcome.next (xStart_run hhead hop hstart rfl)
  case watch =>
    intro s c e p v u i hhead hop hstart hfree hgate
    exact (execTlyWatch_starts hhead hstart hfree hop).trans (congrArg _ (atUnit_admitted hgate))
  case watchRefused =>
    intro s c e p v u i hhead hop hstart hfree hgate
    exact (execTlyWatch_starts hhead hstart hfree hop).trans (congrArg _ (atUnit_refused hgate))
  case read =>
    intro s c e p v u i hhead hop hstart hfree hgate
    exact (execTlyRead_starts hhead hstart hfree hop).trans (congrArg _ (atUnit_admitted hgate))
  case readRefused =>
    intro s c e p v u i hhead hop hstart hfree hgate
    exact (execTlyRead_starts hhead hstart hfree hop).trans (congrArg _ (atUnit_refused hgate))
  case unwatch =>
    intro s c e p v u i hhead hop hstart hfree hgate
    exact (execTlyUnwatch_starts hhead hstart hfree hop).trans (congrArg _ (atUnit_admitted hgate))
  case unwatchRefused =>
    intro s c e p v u i hhead hop hstart hfree hgate
    exact (execTlyUnwatch_starts hhead hstart hfree hop).trans (congrArg _ (atUnit_refused hgate))
  case add =>
    intro s i k hk hop hgate
    exact execTallyAdd_admitted hk hop hgate
  case addRefused =>
    intro s i k hk hop hgate
    exact execTallyAdd_refused hk hop hgate
  case heldWrite =>
    intro s i k hk hop
    exact execTallyAdd_write hk hop
  case waitRequest =>
    intro s i k hk hop hgate
    exact execTallyWaitRequest_admitted hk hop hgate
  case waitRefused =>
    intro s i k hk hop hgate
    exact execTallyWaitRequest_refused hk hop hgate
  case coreAnswer =>
    intro s i a b0 k e hk hop hret hfound
    exact execTallyWaitAnswer_core hk hop hret hfound
  case hostAnswer =>
    intro s i a b0 k hk hop hret
    exact execTallyWaitAnswer_host hk hop hret
  case refusal =>
    intro s i k hk hop
    exact execTallyRefusal_reaches hk hop
  case cntWrite =>
    intro s u0 i data hcounter
    exact congrArg Host.Outcome.next (if_neg (Nat.not_le.mpr hcounter))
  case addWrite =>
    intro s u0 i data hcounter
    exact congrArg Host.Outcome.next (if_neg (Nat.not_le.mpr hcounter))
  case watchCancel =>
    intro s u0 k hentry hunfired
    exact congrArg Host.Outcome.next (if_pos ⟨hentry, hunfired⟩)

end Sys2Proof.Machine
end

section
/-! PROOFS. Byre (spec/14_byre.md): gets and puts of the X unit and at their M die (R106, R453-R460), gets and puts of the host (R461), the
commands of BYR_PCMD and how they end (R449, R450, R465-R467), and the end of a reclaim (R468, R469). -/

namespace Sys2Proof.Machine

section
variable {s : State} {i : Nat} {r : ByrReq}

/-! ### A get or put at its M die (R106, R107, R457) -/

/-- What becomes of operation r, which leaves the state v behind it, where Byre would answer with `served`: its gate decides (R106, R107). -/
def byrAtPool (s : State) (r : ByrReq) (v served : State) : State :=
  if poolGate s r = 2 then byrRefuse r v
  else if poolGate s r = 1 then byrAnswer r 5 0 (bump (BYR_PREF_count.ix r.pool) r.d v)
  else served

section
variable {v served : State}

theorem byrAtPool_refused (hgate : poolGate s r = 2) : byrAtPool s r v served = byrRefuse r v := if_pos hgate

theorem byrAtPool_shared (hgate : poolGate s r = 1) :
    byrAtPool s r v served = byrAnswer r 5 0 (bump (BYR_PREF_count.ix r.pool) r.d v) := by
  rw [byrAtPool, if_neg (by rw [hgate]; decide), if_pos hgate]

theorem byrAtPool_served (hgate : poolGate s r = 0) : byrAtPool s r v served = served := by
  rw [byrAtPool, if_neg (by rw [hgate]; decide), if_neg (by rw [hgate]; decide)]

end

/-- The answer of Byre to get r: the paddock-virtual address of the buffer it grants (R453, R460). -/
def byrGetServed (r : ByrReq) (v : State) : State :=
  let a := byreGet r.d r.pool r.brand (reqCore r.core) v
  byrAnswer r a.1.status (if a.1.status = 0 then poolVBase a.2 r.d r.pool + a.1.buf * poolSize a.2 r.d r.pool else 0) a.2

/-- The answer of Byre to put r, which names its buffer by the base that the pool had in state s (R461). -/
def byrPutServed (s : State) (r : ByrReq) (v : State) : State :=
  let a := byrePut r.d r.pool (if poolVBase s r.d r.pool ≤ r.va then some (r.va - poolVBase s r.d r.pool) else none) v
  byrAnswer r a.1.status 0 a.2

theorem execByreGet_reaches (hr : byrPacket s i false = some r) :
    execByreGet i s = .next (byrAtPool s r { s with byrQ := listDrop s.byrQ i } (byrGetServed r { s with byrQ := listDrop s.byrQ i })) := by
  simp only [execByreGet, hr]
  rfl

theorem execByrePut_reaches (hr : byrPacket s i true = some r) :
    execByrePut i s = .next (byrAtPool s r { s with byrQ := listDrop s.byrQ i } (byrPutServed s r { s with byrQ := listDrop s.byrQ i })) := by
  simp only [execByrePut, hr]
  rfl

end

/-! ### BYR_HGET (R461) -/

/-- BYR_HGET as the register table has it. -/
def hgetReg : RegD := ⟨0x30008, 0x0, 1, 0x0, 1, 64, [⟨27, 8, .wo, 0, .live⟩, ⟨7, 0, .wo, 0, .live⟩]⟩

section
variable {s : State} {brand d t draw : Nat} {data : Word}

/-- Offset 0x83_0008 of M die 8 + d is BYR_HGET of its Byre (R54). -/
theorem csrPlace_hget (hd : d < 2) : csrPlace s (8 + d) 0x830008 = some (.byr, d, 0x30008) := by
  obtain rfl | rfl : d = 0 ∨ d = 1 := by omega
  · rfl
  · rfl

/-- Only the dies with columns make an access wait at its column's gate (R70). -/
theorem csrWaits_mdie (off : Nat) : csrWaits s brand (8 + d) off = false := by
  simp [csrWaits]

theorem touched_hget : touched .byr 0x30008 8 = [(hgetReg, 0x30008)] := by decide

theorem widthOk_hget : widthOk 0x30008 8 [(hgetReg, 0x30008)] = true := by decide

/-- Both fields of BYR_HGET are of the Live class: no write of it is refused (R6). -/
theorem regJudge_hget : regJudge s .byr d 0x30008 hgetReg data = none := by
  have hfixed : hasClass hgetReg .fixed = false := by decide
  have hidle : hasClass hgetReg .idle = false := by decide
  simp [regJudge, vfLacks, writeRefusal, deadRegister, badValue, hfixed, hidle]

/-- BYR_HGET takes a write as a get by the writing brand. -/
theorem regTakes_hget : regTakes brand .byr d 0x30008 data t draw s = byrHget brand d data s := by
  have hbody : ¬ hdrBase .byr ≤ 0x30008 := by decide
  have hlive : ¬ ((deadRegister s .byr d 0x30008 || vfLacks .byr 0x30008) = true) := by simp [deadRegister, vfLacks]
  calc regTakes brand .byr d 0x30008 data t draw s
      = byrTakes brand d 0x30008 data s := (if_neg hbody).trans (if_neg hlive)
    _ = byrHget brand d data s := (if_neg (by decide)).trans (if_pos rfl)

theorem regWrite_hget : regWrite brand .byr d 0x30008 8 data t draw s = byrHget brand d data s := by
  rw [regWrite_taken (fun h => Blk.noConfusion h.1) touched_hget widthOk_hget regJudge_hget, partData_whole _ rfl, regTakes_hget]

/-- A write of BYR_HGET that the gate of the die's registers admits is acknowledged and makes its get (R47, R48, R461). -/
theorem execByrHget_admitted (hp : mainPowered (accFlush s) = true)
    (hg : csrGate (accFlush s) brand (8 + d % 2) 0x830008 8 true = 0) :
    execByrHget brand d data s = .next (emit .ack [brand, 8 + d % 2, 0x830008, 0] (byrHget brand (d % 2) data (accFlush s))) := by
  rw [execByrHget, accNew_served rfl (fun _ => hp) hg (csrWaits_mdie _) (csrPlace_hget (Nat.mod_lt d (by decide)))]
  simp only [List.getD_cons_zero, BitVec.ofNat_toNat, BitVec.setWidth_eq]
  rw [if_pos trivial, regWrite_hget]

end

/-! ### Commands of BYR_PCMD (R449, R450, R465-R467) -/

section
variable {d j err c : Nat} {busy : Bool} {s v : State}

/-- A command without an error is accepted and takes effect. -/
theorem cmdStat_accepted (h : err = 0) : cmdStat d j err busy (if err = 0 then v else s) = cmdStat d j 0 busy v := by
  rw [if_pos h, h]

/-- A command with an error shows it and does nothing else. -/
theorem cmdStat_refused (h : err = c) (hc : c ≠ 0) : cmdStat d j err busy (if err = 0 then v else s) = cmdStat d j c busy s := by
  rw [h, if_neg hc]

end

/-- Settles O40: the gate of its pool chooses what becomes of a get or put; a write of BYR_HGET passes its gate and reaches Byre; the error
of a command decides between its effect and the error; what runs ends where its command, rebuild or reclaim is in progress. -/
theorem byrePoolsComplete : Obligations.ByrePoolsComplete := by
  refine ⟨?get, ?put, ?getRefused, ?getShared, ?getServed, ?putRefused, ?putShared, ?putServed, ?hostGet, ?hostPut, ?create,
    ?createRefused, ?createDone, ?destroy, ?destroyRefused, ?rebuild, ?rebuildRefused, ?rebuildDone, ?audit, ?auditRefused,
    ?auditDone, ?reclaimDone⟩
  case get =>
    intro s c e p v hhead hop hstart
    exact congrArg Host.Outcome.next (xStart_run hhead hop hstart rfl)
  case put =>
    intro s c e p v hhead hop hstart
    exact congrArg Host.Outcome.next (xStart_run hhead hop hstart rfl)
  case getRefused =>
    intro s i r v hr hgate
    exact (execByreGet_reaches hr).trans (congrArg _ (byrAtPool_refused hgate))
  case getShared =>
    intro s i r v hr hgate
    exact (execByreGet_reaches hr).trans (congrArg _ (byrAtPool_shared hgate))
  case getServed =>
    intro s i r v hr hgate
    exact (execByreGet_reaches hr).trans (congrArg _ (byrAtPool_served hgate))
  case putRefused =>
    intro s i r v hr hgate
    exact (execByrePut_reaches hr).trans (congrArg _ (byrAtPool_refused hgate))
  case putShared =>
    intro s i r v hr hgate
    exact (execByrePut_reaches hr).trans (congrArg _ (byrAtPool_shared hgate))
  case putServed =>
    intro s i r v hr hgate
    exact (execByrePut_reaches hr).trans (congrArg _ (byrAtPool_served hgate))
  case hostGet =>
    intro s brand d0 data d2 v r hp hg
    have hd : d2 % 2 = d2 := Nat.mod_mod d0 2
    rw [exec_byrHget, execByrHget_admitted hp hg]
    simp only [byrHget]
    rw [hd]
  case hostPut =>
    intro s d0 data d2 pa r
    rfl
  case create =>
    intro s d0 j d2 j2 herr
    exact congrArg Host.Outcome.next (cmdStat_accepted herr)
  case createRefused =>
    intro s d0 j c d2 j2 herr hc
    exact congrArg Host.Outcome.next (cmdStat_refused herr hc)
  case createDone =>
    intro s d0 d2 hop
    exact congrArg Host.Outcome.next (if_neg (not_not.mpr hop))
  case destroy =>
    intro s d0 j d2 j2 err herr
    exact congrArg Host.Outcome.next (cmdStat_accepted herr)
  case destroyRefused =>
    intro s d0 j c d2 j2 err herr hc
    exact congrArg Host.Outcome.next (cmdStat_refused herr hc)
  case rebuild =>
    intro s d0 j d2 j2 err herr
    exact congrArg Host.Outcome.next (cmdStat_accepted herr)
  case rebuildRefused =>
    intro s d0 j c d2 j2 err herr hc
    exact congrArg Host.Outcome.next (cmdStat_refused herr hc)
  case rebuildDone =>
    intro s d0 j d2 j2 v1 v hrebuild
    have hrunning : ¬ (!poolRebuild s d2 j2) = true := by simp [hrebuild]
    exact congrArg Host.Outcome.next (if_neg hrunning)
  case audit =>
    intro s d0 j d2 j2 err herr
    exact congrArg Host.Outcome.next (cmdStat_accepted herr)
  case auditRefused =>
    intro s d0 j c d2 j2 err herr hc
    exact congrArg Host.Outcome.next (cmdStat_refused herr hc)
  case auditDone =>
    intro s d0 d2 hop hclean
    exact congrArg Host.Outcome.next ((if_neg (not_not.mpr hop)).trans (if_neg (ne_true_of_eq_false hclean)))
  case reclaimDone =>
    intro s d0 j d2 j2 back v hreclaim
    exact congrArg Host.Outcome.next (if_neg (fun hempty => hreclaim (List.isEmpty_iff.mp hempty)))

end Sys2Proof.Machine
end

section
/-! PROOFS. The machine as a whole: a step, the reset state, what no command changes, and the fuses that are set once or only rise (R731, R733,
R735). -/

namespace Sys2Proof.Machine

/-! ### Steps, words and the reset state -/

/-- Settles O1: with a command pending, a step is the run of that command. -/
theorem stepRunsFront : Obligations.StepRunsFront := fun _ _ _ => rfl

/-- Settles O3: nothing has been written and nothing waits. -/
theorem resetInv : Obligations.ResetInv := ⟨rfl, rfl, Nat.zero_le _, Nat.zero_le _⟩

/-- A register that nothing has written reads as its reset value. -/
theorem rdW_reset (b : Blk) (inst off : Nat) : rdW State.reset b inst off = regDefault (regKey b inst off) := rfl

/-- Every paddock is Free at reset. -/
theorem pdkState_reset {n : Nat} (hn : n < 64) : pdkState State.reset n = 0 := by
  revert n
  decide +kernel

theorem pdksCreated_reset : pdksCreated State.reset = [] :=
  List.filter_eq_nil_iff.mpr fun n hn => by simp [pdkCreated, pdkState_reset (List.mem_range.mp hn)]

/-- Settles O18: what stands in a register is its reset value, the rest is what State.reset gives it. -/
theorem resetIsQuiet : Obligations.ResetIsQuiet := by
  refine ⟨?_, ?_, rfl, ?_, ?_, pdksCreated_reset, rfl, rfl, rfl, rdW_reset⟩ <;> decide +kernel

/-- Settles O19: the table gives no row bits. -/
theorem noWordSpellsACommand : Obligations.NoWordSpellsACommand := ⟨fun _ _ => rfl, fun _ _ _ => rfl⟩

/-! ### What holds whatever the command -/

/-- A command that answers a state keeps what every command keeps. -/
theorem keeps_of_exec {c : Instr} {s t : State} (h : exec c s = .next t) : Keeps s t := exec_keeps (.refl s) c t h

/-- Settles O4. -/
theorem queueIsTheSenders : Obligations.QueueIsTheSenders := fun _ _ _ h => (keeps_of_exec h).queue

/-- Settles O5. -/
theorem timeNeverRunsBack : Obligations.TimeNeverRunsBack := fun _ _ _ h => (keeps_of_exec h).time

/-- Settles O6: the meaning of each row of the opcode table is by its definition the next state. -/
theorem everyCommandAnswers : Obligations.EveryCommandAnswers := by
  intro s c
  cases c <;> exact ⟨_, rfl⟩

/-! ### Security records and raw measurements leave the management's state -/

section
variable (s : State)

@[simp] theorem coalesceEvent_mgmt (r : FbkRec) : (coalesceEvent r s).mgmt = s.mgmt := wr_mgmt _ _ _ _

@[simp] theorem bump_mgmt (f : Fld) (i : Nat) : (bump f i s).mgmt = s.mgmt := wr_mgmt _ _ _ _

/-- Writes of registers one after the other leave the management's state. -/
theorem foldl_mgmt {α : Type} {g : State → α → State} (hg : ∀ v a, (g v a).mgmt = v.mgmt) (l : List α) :
    (l.foldl g s).mgmt = s.mgmt := by
  induction l generalizing s with
  | nil => rfl
  | cons a l ih => exact (ih (g s a)).trans (hg s a)

@[simp] theorem muteRing_mgmt (r : FbkRec) : (muteRing r s).mgmt = s.mgmt := by
  unfold muteRing
  simp only [wr_mgmt]
  split
  · exact (bump_mgmt _ _ _).trans (foldl_mgmt s (fun v _ => wr_mgmt v _ _ _) _)
  · exact (wr_mgmt _ _ _ _).trans (foldl_mgmt s (fun v _ => wr_mgmt v _ _ _) _)

@[simp] theorem muteRecord_mgmt (r : FbkRec) : (muteRecord r s).mgmt = s.mgmt := by
  unfold muteRecord
  split
  · exact muteRing_mgmt s r
  · exact coalesceEvent_mgmt s r

@[simp] theorem flockEvent_mgmt (typ src w0 w1 w2 w3 : Nat) : (flockEvent typ src w0 w1 w2 w3 s).mgmt = s.mgmt := by
  unfold flockEvent
  simp only []
  split
  · simp
  · split <;> simp

@[simp] theorem secRecord_mgmt (sub w1 w2 : Nat) : (secRecord sub w1 w2 s).mgmt = s.mgmt := flockEvent_mgmt _ _ _ _ _ _ _

@[simp] theorem measRaw_mgmt : (measRaw s).mgmt = s.mgmt := by
  have hset : ∀ (i : Nat) (ws : List Nat) (v : State), (measSet i ws v).mgmt = v.mgmt :=
    fun i ws v => foldl_mgmt v (fun u k => wr_mgmt _ _ _ _) _
  exact (hset _ _ _).trans (hset _ _ _)

end

/-! ### The mailbox runs its command where it may -/

theorem mailboxAsk_runs {op : Nat} {s : State} (hidle : rdB s SHP_MBSTAT_busy 0 = false) (hanswers : answers s 1 = true)
    (hact : activating s = false) : mailboxAsk op s = mailboxRun op s := by
  have htaken : ¬ (rdB s SHP_MBSTAT_busy 0 = true ∨ (!answers s 1) = true) := by simp [hidle, hanswers]
  rw [mailboxAsk, if_neg htaken, if_neg (ne_true_of_eq_false hact)]

/-! ### The owner digest (R735) -/

theorem mbOwner_first {s : State} (h : s.mgmt.owner = []) :
    (mbOwner s).1 = 0 ∧ (mbOwner s).2.mgmt.owner = (List.range 6).map (mbWord s) := by
  have hnone : ¬ (s.mgmt.owner != []) = true := by simp [h]
  rw [mbOwner, if_neg hnone]
  exact ⟨rfl, congrArg Mgmt.owner ((secRecord_mgmt _ _ _ _).trans ((measRaw_mgmt _).trans (wr_mgmt _ _ _ _)))⟩

theorem mbOwner_again {s : State} (h : s.mgmt.owner ≠ []) : mbOwner s = (3, s) := if_pos (bne_iff_ne.mpr h)

/-- The mailbox shows the result of SET_OWNER, and the owner digest is what SET_OWNER left. -/
theorem mailboxRun_owner (s : State) :
    (mailboxRun 1 s).mgmt.owner = (mbOwner s).2.mgmt.owner ∧ rd (mailboxRun 1 s) SHP_MBSTAT_result 0 = (mbOwner s).1 % 256 := by
  rw [mailboxRun, if_pos rfl]
  refine ⟨?_, rd_wr_same SHP_MBSTAT_result _ _ (by decide) (by decide)⟩
  simp only [wr_mgmt]

/-- Settles O7: SET_OWNER writes or refuses by whether a digest is set; the third part is in what every command keeps. -/
theorem ownerIsSetOnce : Obligations.OwnerIsSetOnce := by
  refine ⟨fun s hidle hanswers hact hnone => ?_, fun s hidle hanswers hact hset => ?_, fun c s t h hset => ?_⟩
  · obtain ⟨howner, hresult⟩ := mailboxRun_owner s
    obtain ⟨hcode, hdigest⟩ := mbOwner_first hnone
    exact ⟨_, congrArg Host.Outcome.next (mailboxAsk_runs hidle hanswers hact), howner.trans hdigest, by rw [hresult, hcode]⟩
  · obtain ⟨howner, hresult⟩ := mailboxRun_owner s
    rw [mbOwner_again hset] at howner hresult
    exact ⟨_, congrArg Host.Outcome.next (mailboxAsk_runs hidle hanswers hact), howner, hresult⟩
  · exact (keeps_of_exec h).fuses.owner hset

/-! ### The fused security version (R731, R733) -/

/-- ADVANCE_SVN leaves the fused version, or raises it to one no higher than the running firmware's. -/
theorem mbAdvance_bounded (s : State) :
    (mbAdvance s).2.mgmt.fusedSvn = s.mgmt.fusedSvn ∨ (mbAdvance s).2.mgmt.fusedSvn ≤ rd s SHP_FWVER_fw_svn 0 := by
  unfold mbAdvance
  simp only []
  split
  · exact .inl rfl
  · split
    · exact .inl rfl
    case isFalse hallowed =>
      have hbound : ¬ rd s SHP_FWVER_fw_svn 0 < mbWord s 0 := fun h => hallowed (.inr (.inr (.inr h)))
      refine .inr ?_
      rw [secRecord_mgmt, measRaw_mgmt, wr_mgmt]
      exact Nat.not_lt.mp hbound

/-- Settles O8: no command lowers what is fused, ADVANCE_SVN is bounded, and each check of the boot ROM asks for the fused version. -/
theorem fusedVersionOnlyRises : Obligations.FusedVersionOnlyRises := by
  refine ⟨fun c s t h => (keeps_of_exec h).fuses.svn, mbAdvance_bounded, fun s k hold => ?_, fun s k hold => ?_⟩
  · simp [firmwareOk, hold]
  · simp [loaderOk, hold]

end Sys2Proof.Machine
end

section
/-! PROOFS. Management messages (spec/23_management.md): requests that only ask (R721, R724, R728), and the answers of MCTP control and of PLDM
types 0, 2 and 3 (R721-R727). -/

namespace Sys2Proof.Machine

/-! ### Requests that only ask -/

/-- The two states differ at most in what has left the package. -/
def OnlySays (s t : State) : Prop := ∃ o, t = { s with outbox := o }

/-- Whatever state a meaning answers, it differs at most in what has left the package. -/
def OnlySaysR (s : State) (r : Result) : Prop := ∀ t, r = .next t → OnlySays s t

section
variable {s : State}

theorem OnlySays.refl : OnlySays s s := ⟨s.outbox, rfl⟩

theorem onlySays_emit (k : OutKind) (args : List Nat) : OnlySays s (emit k args s) := ⟨⟨k, args⟩ :: s.outbox, rfl⟩

theorem OnlySays.ite {c : Prop} [Decidable c] {u v : State} (hu : OnlySays s u) (hv : OnlySays s v) : OnlySays s (if c then u else v) := by
  split
  · exact hu
  · exact hv

theorem onlySaysR_next {t : State} (h : OnlySays s t) : OnlySaysR s (.next t) := by
  rintro u ⟨rfl⟩
  exact h

/-- A byte of memory does not depend on what has left the package. -/
theorem OnlySays.memByte_eq {t : State} (h : OnlySays s t) (a : Nat) : memByte t a = memByte s a := by
  obtain ⟨o, rfl⟩ := h
  rfl

theorem onlySays_mctpSay (b cmd cc : Nat) (data : List Nat) : OnlySays s (mctpSay b cmd cc data s) := (onlySays_emit _ _).ite .refl

theorem onlySays_pldmSay (b ty cmd cc : Nat) (data : List Nat) : OnlySays s (pldmSay b ty cmd cc data s) := onlySays_emit _ _

theorem onlySays_spdmSay (b code : Nat) (data : List Nat) : OnlySays s (spdmSay b code data s) := onlySays_emit _ _

/-- A PLDM request whose own effect is an answer only says something, taken up or not. -/
theorem onlySaysR_pldmServe {b ty cmd : Nat} {k : State → State} (hk : OnlySays s (k s)) : OnlySaysR s (pldmServe b ty cmd k s) :=
  onlySaysR_next (OnlySays.refl.ite ((onlySays_pldmSay _ _ _ _ _).ite hk))

theorem onlySaysR_pldmGive (b ty cmd : Nat) (data : List Nat) : OnlySaysR s (pldmGive b ty cmd data s) :=
  onlySaysR_pldmServe (onlySays_pldmSay _ _ _ _ _)

/-- An SPDM request whose own effect is an answer only says something, taken up or not. -/
theorem onlySaysR_spdmServe {b need : Nat} {k : State → State} (hk : OnlySays s (k s)) : OnlySaysR s (spdmServe b need k s) :=
  onlySaysR_next (OnlySays.refl.ite ((onlySays_spdmSay _ _ _).ite ((onlySays_spdmSay _ _ _).ite hk)))

/-- GETPDR answers with a record or says that there is none. -/
theorem onlySaysR_getpdr (b k : Nat) : OnlySaysR s (execGetpdr b k s) := by
  unfold execGetpdr
  refine onlySaysR_pldmServe ?_
  split <;> exact onlySays_pldmSay _ _ _ _ _

end

/-- Settles O15: each request is served by one answer, or by a choice of answers. -/
theorem answersChangeNothing : Obligations.AnswersChangeNothing := by
  intro s t c b k m n hc h
  suffices hsays : OnlySays s t from ⟨hsays, hsays.memByte_eq⟩
  revert t
  show OnlySaysR s (exec c s)
  simp only [List.mem_cons, List.not_mem_nil, or_false] at hc
  rcases hc with rfl | rfl | rfl | rfl | rfl | rfl | rfl | rfl | rfl | rfl | rfl | rfl | rfl | rfl | rfl | rfl | rfl | rfl | rfl | rfl | rfl
  · exact onlySaysR_next (onlySays_mctpSay _ _ _ _)
  · exact onlySaysR_next (onlySays_mctpSay _ _ _ _)
  · exact onlySaysR_next ((onlySays_mctpSay _ _ _ _).ite ((onlySays_mctpSay _ _ _ _).ite (onlySays_mctpSay _ _ _ _)))
  · exact onlySaysR_next (onlySays_mctpSay _ _ _ _)
  · exact onlySaysR_pldmGive _ _ _ _
  · rw [exec_getpldmversion, execGetpldmversion]
    exact onlySaysR_pldmServe ((onlySays_pldmSay _ _ _ _ _).ite (onlySays_pldmSay _ _ _ _ _))
  · exact onlySaysR_pldmGive _ _ _ _
  · rw [exec_getpldmcommands, execGetpldmcommands]
    exact onlySaysR_pldmServe ((onlySays_pldmSay _ _ _ _ _).ite (onlySays_pldmSay _ _ _ _ _))
  · exact onlySaysR_pldmGive _ _ _ _
  · rw [exec_getsensorreading, execGetsensorreading]
    exact onlySaysR_pldmServe ((onlySays_pldmSay _ _ _ _ _).ite (onlySays_pldmSay _ _ _ _ _))
  · rw [exec_getstatesensorreadings, execGetstatesensorreadings]
    exact onlySaysR_pldmServe ((onlySays_pldmSay _ _ _ _ _).ite (onlySays_pldmSay _ _ _ _ _))
  · exact onlySaysR_pldmGive _ _ _ _
  · exact onlySaysR_getpdr _ _
  · rw [exec_getdatetime, execGetdatetime]
    exact onlySaysR_pldmServe (onlySays_pldmSay _ _ _ _ _)
  · exact onlySaysR_pldmGive _ _ _ _
  · exact onlySaysR_pldmGive _ _ _ _
  · exact onlySaysR_pldmGive _ _ _ _
  · exact onlySaysR_spdmServe (onlySays_spdmSay _ _ _)
  · rw [exec_getCertificate, execGetCertificate]
    exact onlySaysR_spdmServe ((onlySays_spdmSay _ _ _).ite (onlySays_spdmSay _ _ _))
  · exact onlySaysR_spdmServe (onlySays_spdmSay _ _ _)
  · exact onlySaysR_next (OnlySays.refl.ite ((onlySays_emit _ _).ite ((onlySays_emit _ _).ite (onlySays_emit _ _))))

/-! ### MCTP control, PLDM types 0 and 3 (R721-R724, R727) -/

section
variable {s : State} {b op eid typ : Nat}

/-- Nothing keeps a binding that is listened to from its request. -/
theorem not_unheard (hb : b < 3) (hanswers : answers s b = true) : ¬ (3 ≤ b ∨ (!answers s b) = true) := by
  simp [hanswers, hb]

/-- Set and force of an endpoint's EID take effect (R721). -/
theorem execSetEndpointId_sets (hb : b < 3) (hanswers : answers s b = true) (hop : op < 2) (hlow : 8 ≤ eid) (hhigh : eid < 255) :
    execSetEndpointId b op eid s = .next (mctpSay b 1 0 [0, eid, 0] (wr (eidFld b) 0 eid s)) := by
  have hlawful : ¬ (1 < op ∨ eid < 8 ∨ 255 ≤ eid) := by omega
  rw [execSetEndpointId, if_neg (not_unheard hb hanswers), if_neg hlawful]

/-- Another operation, or an EID that is no endpoint's, is invalid data (R721). -/
theorem execSetEndpointId_refuses (hb : b < 3) (hanswers : answers s b = true) (hbad : 1 < op ∨ eid < 8 ∨ 255 ≤ eid) :
    execSetEndpointId b op eid s = .next (mctpSay b 1 2 [] s) := by
  rw [execSetEndpointId, if_neg (not_unheard hb hanswers), if_pos hbad]

/-- The versions of PLDM and SPDM over MCTP (R721). -/
theorem execGetMctpVersionSupport_message (htyp : typ = 1 ∨ typ = 5) :
    execGetMctpVersionSupport b typ s =
      .next (mctpSay b 4 0 (1 :: (List.range 4).map (fun i => (Config.freeByte (16 + typ) i).toNat)) s) := by
  have hmessage : ¬ (typ = 0xFF ∨ typ = 0) := by omega
  exact congrArg Host.Outcome.next ((if_neg hmessage).trans (if_pos htyp))

/-- Any other type is not supported (R721). -/
theorem execGetMctpVersionSupport_other (hbase : typ ≠ 255) (hcontrol : typ ≠ 0) (hpldm : typ ≠ 1) (hspdm : typ ≠ 5) :
    execGetMctpVersionSupport b typ s = .next (mctpSay b 4 0x80 [] s) :=
  congrArg Host.Outcome.next ((if_neg (not_or.mpr ⟨hbase, hcontrol⟩)).trans (if_neg (not_or.mpr ⟨hpldm, hspdm⟩)))

/-- A response that has waited too long is dropped and counted (R723). -/
theorem execMctpResponseDrop_drops (hb : b < 3) (hwaits : s.outbox.any (respOf b) = true) :
    execMctpResponseDrop b s = .next (bump SHP_MCTPERR_count 0 { s with outbox := listDropFirst (respOf b) s.outbox }) := by
  have hdrops : ¬ (3 ≤ b ∨ (!s.outbox.any (respOf b)) = true) := by simp [hwaits, hb]
  exact congrArg Host.Outcome.next (if_neg hdrops)

end

/-- Settles O52: the cases of the MCTP requests, and PLDM requests of types 0 and 3 taken up. -/
theorem mctpAndPldmBaseComplete : Obligations.MctpAndPldmBaseComplete := by
  refine ⟨?setEid, ?refuseEid, ?getEid, ?uuid, ?baseVersion, ?messageVersion, ?noVersion, ?types, ?drop, ?getTid, ?setTid, ?version, ?pldmTypes,
    ?commands, ?getTime, ?setTime⟩
  case setEid =>
    intro s b op eid hb hanswers hop hlow hhigh
    exact execSetEndpointId_sets hb hanswers hop hlow hhigh
  case refuseEid =>
    intro s b op eid hb hanswers hbad
    exact execSetEndpointId_refuses hb hanswers hbad
  case getEid => exact fun _ _ => rfl
  case uuid => exact fun _ _ => rfl
  case baseVersion => exact fun s b typ htyp => congrArg Host.Outcome.next (if_pos htyp)
  case messageVersion => exact fun s b typ htyp => execGetMctpVersionSupport_message htyp
  case noVersion => exact fun s b typ hbase hcontrol hpldm hspdm => execGetMctpVersionSupport_other hbase hcontrol hpldm hspdm
  case types => exact fun _ _ => rfl
  case drop => exact fun s b hb hwaits => execMctpResponseDrop_drops hb hwaits
  case getTid =>
    intro s b hb hanswers hact
    rw [exec_gettid, execGettid, pldmGive, pldmServe_run hb hanswers (.inr (.inl rfl)) hact]
  case setTid =>
    intro s b v hb hanswers hact
    rw [exec_settid, execSettid, pldmServe_run hb hanswers (.inr (.inl rfl)) hact]
  case version =>
    intro s b ty hb hanswers hact
    rw [exec_getpldmversion, execGetpldmversion, pldmServe_run hb hanswers (.inr (.inl rfl)) hact]
  case pldmTypes =>
    intro s b hb hanswers hact
    rw [exec_getpldmtypes, execGetpldmtypes, pldmGive, pldmServe_run hb hanswers (.inr (.inl rfl)) hact]
  case commands =>
    intro s b ty hb hanswers hact
    rw [exec_getpldmcommands, execGetpldmcommands, pldmServe_run hb hanswers (.inr (.inl rfl)) hact]
  case getTime =>
    intro s b hb hanswers hstate hact
    rw [exec_getdatetime, execGetdatetime, pldmServe_run hb hanswers (.inl hstate) hact]
  case setTime =>
    intro s b y m d hr mi sec hb hanswers hstate hact
    rw [exec_setdatetime, execSetdatetime, pldmServe_run hb hanswers (.inl hstate) hact]

/-! ### PLDM type 2 (R724-R726) -/

section
variable {s : State} {t k : Nat}

/-- GETPDR of a record handle that names a record (R724). -/
theorem execGetpdr_gives {b h : Nat} {rec : List Nat} (hb : b < 3) (hanswers : answers s b = true) (hstate : pwrState s ≠ 6)
    (hact : activating s = false) (hrec : pdrs[Nat.max 1 h - 1]? = some rec) :
    execGetpdr b h s = .next (pldmSay b 2 0x51 0 ((if Nat.max 1 h < pdrs.length then Nat.max 1 h + 1 else 0) :: rec) s) := by
  simp only [execGetpdr, hrec]
  exact pldmServe_run hb hanswers (.inl hstate) hact

/-- GETPDR of any other handle (R724). -/
theorem execGetpdr_invalid {b h : Nat} (hb : b < 3) (hanswers : answers s b = true) (hstate : pwrState s ≠ 6)
    (hact : activating s = false) (hrec : pdrs[Nat.max 1 h - 1]? = none) :
    execGetpdr b h s = .next (pldmSay b 2 0x51 0x82 [] s) := by
  simp only [execGetpdr, hrec]
  exact pldmServe_run hb hanswers (.inl hstate) hact

/-- The next held event goes to the receiver (R726). -/
theorem execPlatformeventmessage_sends (hgo : eventsGo (atTime t s) = true) (hnext : eventNext (atTime t s) t = some k) :
    execPlatformeventmessage t s = .next (eventSend t k (atTime t s)) := by
  simp [execPlatformeventmessage, hgo, hnext]

/-- An event without a response goes to the receiver once more (R726). -/
theorem execPlatformEventRetry_sends (hgo : eventsGo (atTime t s) = true)
    (hlate : (atTime t s).pldmQ.findIdx?
      (fun e => e.attempts != 0 && e.attempts < 3 && !e.acked && decide (e.sentAt + 10000000 ≤ t)) = some k) :
    execPlatformEventRetry t s = .next (eventSend t k (atTime t s)) := by
  have hsends : ¬ (!eventsGo (atTime t s)) = true := by simp [hgo]
  simp only [execPlatformEventRetry, if_neg hsends, hlate]

/-- The answer to an event that was sent lets it leave after those before it (R726). -/
theorem execPlatformeventmessageResponse_takes {ev : PldmEv} (hev : s.pldmQ[k]? = some ev) (hsent : ev.attempts ≠ 0) :
    execPlatformeventmessageResponse k s =
      .next { s with pldmQ := (listPut s.pldmQ k { ev with acked := true }).dropWhile (fun x => x.acked) } := by
  simp only [execPlatformeventmessageResponse, hev, if_neg hsent]

end

/-- Settles O53: requests of type 2 taken up, and the held events where one may be sent or was sent. -/
theorem pldmPlatformComplete : Obligations.PldmPlatformComplete := by
  refine ⟨?setReceiver, ?getReceiver, ?sensor, ?stateSensor, ?effecter, ?repository, ?record, ?noRecord, ?event, ?retry, ?response⟩
  case setReceiver =>
    intro s b mode eid hb hanswers hstate hact
    rw [exec_seteventreceiver, execSeteventreceiver, pldmServe_run hb hanswers (.inl hstate) hact]
  case getReceiver =>
    intro s b hb hanswers hstate hact
    rw [exec_geteventreceiver, execGeteventreceiver, pldmGive, pldmServe_run hb hanswers (.inl hstate) hact]
  case sensor =>
    intro s b i hb hanswers hstate hact
    rw [exec_getsensorreading, execGetsensorreading, pldmServe_run hb hanswers (.inl hstate) hact]
  case stateSensor =>
    intro s b i hb hanswers hstate hact
    rw [exec_getstatesensorreadings, execGetstatesensorreadings, pldmServe_run hb hanswers (.inl hstate) hact]
  case effecter =>
    intro s b e v hb hanswers hstate hact
    rw [exec_setstateeffecterstates, execSetstateeffecterstates, pldmServe_run hb hanswers (.inl hstate) hact]
  case repository =>
    intro s b hb hanswers hstate hact
    rw [exec_getpdrrepositoryinfo, execGetpdrrepositoryinfo, pldmGive, pldmServe_run hb hanswers (.inl hstate) hact]
  case record => exact fun s b hd rec hb hanswers hstate hact hrec => execGetpdr_gives hb hanswers hstate hact hrec
  case noRecord => exact fun s b hd hb hanswers hstate hact hrec => execGetpdr_invalid hb hanswers hstate hact hrec
  case event =>
    intro s t k v hgo hnext
    exact execPlatformeventmessage_sends hgo hnext
  case retry =>
    intro s t k v hgo hlate
    exact execPlatformEventRetry_sends hgo hlate
  case response =>
    intro s k ev hev hsent
    exact execPlatformeventmessageResponse_takes hev hsent

end Sys2Proof.Machine
end

section
/-! PROOFS. Firmware update (spec/23_management.md R738-R740), SPDM and DOE (R728-R730), the mailbox and live activation (R733-R736, R740-R745). -/

namespace Sys2Proof.Machine

/-! ### Firmware update (R662, R724, R738-R740) -/

section
variable {s : State} {b n : Nat} {pass : Bool}

/-- In update mode for no other agent, a request for an update starts one (R738). -/
theorem execRequestupdate_starts (hb : b < 3) (hanswers : answers s b = true) (hact : activating s = false) (hidle : s.mgmt.upd = 0) :
    execRequestupdate b s = .next (pldmSay b 5 0x10 0 [0, 0]
      (if pwrState s = 6 then mgmtMod (fun m => { m with upd := 1, agent := b + 1, table := [], comp := 0, off := 0 }) s
       else wr SHP_FWSTAT_state 0 1 (mgmtMod (fun m => { m with upd := 1, agent := b + 1, table := [], comp := 0, off := 0 }) s))) := by
  rw [execRequestupdate, pldmServe_run hb hanswers (.inr (.inr rfl)) hact]
  exact congrArg Host.Outcome.next (if_neg (not_not.mpr hidle))

/-- The agent of an update answers while its component is being transferred and no activation runs. -/
theorem not_dataIgnored (hanswers : answers s b = true) (hact : activating s = false) (htransfer : s.mgmt.upd = 3)
    (hagent : s.mgmt.agent = b + 1) :
    ¬ ((!answers s b) = true ∨ activating s = true ∨ s.mgmt.upd ≠ 3 ∨ s.mgmt.agent ≠ b + 1) := by
  simp [hanswers, hact, htransfer, hagent]

/-- The block asked for is taken; the next one is asked for, or the image is complete (R738). -/
theorem execRequestfirmwaredata_takes (hanswers : answers s b = true) (hact : activating s = false) (htransfer : s.mgmt.upd = 3)
    (hagent : s.mgmt.agent = b + 1) (hblock : n = Nat.min 4096 (s.mgmt.size - s.mgmt.off)) :
    execRequestfirmwaredata b n pass s =
      .next (if (mgmtMod (fun m => { m with off := m.off + n }) s).mgmt.off < (mgmtMod (fun m => { m with off := m.off + n }) s).mgmt.size
        then askBlock (mgmtMod (fun m => { m with off := m.off + n }) s)
        else imageIn pass (mgmtMod (fun m => { m with off := m.off + n }) s)) :=
  congrArg Host.Outcome.next ((if_neg (not_dataIgnored hanswers hact htransfer hagent)).trans (if_neg (not_not.mpr hblock)))

/-- Anything but the block asked for is asked for again (R738). -/
theorem execRequestfirmwaredata_asksAgain (hanswers : answers s b = true) (hact : activating s = false) (htransfer : s.mgmt.upd = 3)
    (hagent : s.mgmt.agent = b + 1) (hother : n ≠ Nat.min 4096 (s.mgmt.size - s.mgmt.off)) :
    execRequestfirmwaredata b n pass s = .next (askBlock s) :=
  congrArg Host.Outcome.next ((if_neg (not_dataIgnored hanswers hact htransfer hagent)).trans (if_pos hother))

end

/-- Settles O54: a request of type 5 is taken up; one of an update is taken up from its agent in its turn. -/
theorem pldmUpdateComplete : Obligations.PldmUpdateComplete := by
  refine ⟨?identifiers, ?parameters, ?status, ?request, ?table, ?component, ?block, ?otherBlock, ?applied, ?activated, ?cancelComponent,
    ?cancel⟩
  case identifiers =>
    intro s b hb hanswers hact
    rw [exec_querydeviceidentifiers, execQuerydeviceidentifiers, pldmGive, pldmServe_run hb hanswers (.inr (.inr rfl)) hact]
  case parameters =>
    intro s b hb hanswers hact
    rw [exec_getfirmwareparameters, execGetfirmwareparameters, pldmGive, pldmServe_run hb hanswers (.inr (.inr rfl)) hact]
  case status =>
    intro s b hb hanswers hact
    rw [exec_getstatus, execGetstatus, pldmGive, pldmServe_run hb hanswers (.inr (.inr rfl)) hact]
  case request =>
    intro s b hb hanswers hact hidle
    exact execRequestupdate_starts hb hanswers hact hidle
  case table =>
    intro s b id last hb hanswers hact hupd hagent hturn
    rw [exec_passcomponenttable, execPasscomponenttable, updServe_run hb hanswers hact hupd hagent hturn]
  case component =>
    intro s b id ver svn size slot hb hanswers hact hupd hagent hturn
    rw [exec_updatecomponent, execUpdatecomponent, updServe_run hb hanswers hact hupd hagent hturn]
  case block =>
    intro s b n pass u hanswers hact htransfer hagent hblock
    exact execRequestfirmwaredata_takes hanswers hact htransfer hagent hblock
  case otherBlock =>
    intro s b n pass hanswers hact htransfer hagent hother
    exact execRequestfirmwaredata_asksAgain hanswers hact htransfer hagent hother
  case applied =>
    intro s u happly
    exact congrArg Host.Outcome.next (if_neg (not_not.mpr happly))
  case activated =>
    intro s b self hb hanswers hact hupd hagent hturn
    rw [exec_activatefirmware, execActivatefirmware, updServe_run hb hanswers hact hupd hagent hturn]
  case cancelComponent =>
    intro s b hb hanswers hact hupd hagent hturn
    rw [exec_cancelupdatecomponent, execCancelupdatecomponent, updServe_run hb hanswers hact hupd hagent hturn]
  case cancel =>
    intro s b hb hanswers hact hupd hagent hturn
    rw [exec_cancelupdate, execCancelupdate, updServe_run hb hanswers hact hupd hagent hturn]

/-! ### SPDM and DOE (R728-R730) -/

/-- Settles O55: each request is taken up once its step of the negotiation has come; DOE discovery answers over a link. -/
theorem spdmComplete : Obligations.SpdmComplete := by
  refine ⟨?version, ?capabilities, ?algorithms, ?digests, ?certificate, ?challenge, ?measurements, ?unsupported, ?discovery⟩
  case version =>
    intro s b hb hanswers hlink hact
    rw [exec_getVersion, execGetVersion, spdmServe_run hb hanswers hlink hact (Nat.zero_le _)]
  case capabilities =>
    intro s b hb hanswers hlink hact hneed
    rw [exec_getCapabilities, execGetCapabilities, spdmServe_run hb hanswers hlink hact hneed]
  case algorithms =>
    intro s b asym hash hb hanswers hlink hact hneed
    rw [exec_negotiateAlgorithms, execNegotiateAlgorithms, spdmServe_run hb hanswers hlink hact hneed]
  case digests =>
    intro s b hb hanswers hlink hact hneed
    rw [exec_getDigests, execGetDigests, spdmServe_run hb hanswers hlink hact hneed]
  case certificate =>
    intro s b slot off len hb hanswers hlink hact hneed
    rw [exec_getCertificate, execGetCertificate, spdmServe_run hb hanswers hlink hact hneed]
  case challenge =>
    intro s b slot hb hanswers hlink hact hneed
    rw [exec_challenge, execChallenge, spdmServe_run hb hanswers hlink hact hneed]
  case measurements =>
    intro s b i sign hb hanswers hlink hact hneed
    rw [exec_getMeasurements, execGetMeasurements]
    exact spdmServe_run hb hanswers hlink hact hneed
  case unsupported =>
    intro s b hb hanswers hlink hact
    rw [exec_spdmUnsupportedRequest, execSpdmUnsupportedRequest, spdmServe_run hb hanswers hlink hact (Nat.zero_le _)]
  case discovery =>
    intro s i hlink hanswers
    have hserved : ¬ (rd s HST_LINK_state 0 = 4 ∨ (!answers s 1) = true) := by simp [hlink, hanswers]
    exact congrArg Host.Outcome.next (if_neg hserved)

/-! ### The mailbox and live activation (R733-R736, R740-R745) -/

/-- Settles O56: a mailbox that is free runs each command; an activation that has not run out of time, or a restart, reaches A4; a watchdog that
is due restarts the firmware. -/
theorem mailboxAndActivationComplete : Obligations.MailboxAndActivationComplete := by
  refine ⟨?owner, ?install, ?revoke, ?advance, ?activate, ?board, ?newRuns, ?oldRuns, ?watchdog⟩
  case owner | install | revoke | advance | activate | board =>
    intro s hidle hanswers hact
    exact congrArg Host.Outcome.next (mailboxAsk_runs hidle hanswers hact)
  case newRuns =>
    intro s t fl v u hact hintime
    exact congrArg Host.Outcome.next (if_pos ⟨hact, hintime⟩)
  case oldRuns =>
    intro s t fl v hact
    have hother : ¬ (v.mgmt.act = 2 ∧ t ≤ v.mgmt.actAt + 3000000) := by simp [hact]
    exact congrArg Host.Outcome.next ((if_neg hother).trans (if_pos hact))
  case watchdog =>
    intro s t v k u hdue
    have hacts : ¬ (!watchdogDue t v) = true := by simp [hdue]
    exact congrArg Host.Outcome.next (if_neg hacts)

end Sys2Proof.Machine
end

section
/-! PROOFS. The always-on domain (spec/24_startup.md R756-R760, R774, R776), shut-down, standby, wake and thermal trip (R768-R773, R783), and the
test access port (spec/25_pins.md R794, R811, R812). -/

namespace Sys2Proof.Machine

/-! ### Cold resets and clocks -/

section
variable {s : State} {t i : Nat}

/-- With VAUX good a cold reset that nothing holds is released: the straps are sampled and the boot chain runs (R731, R762). -/
theorem execColdResetRelease_boots (hvaux : (atTime t s).pwr.vaux = true) (hcold : (atTime t s).pwr.cold = true)
    (hcool : (atTime t s).pwr.hot = false) :
    execColdResetRelease t s = .next (bootRun (pwrMod (fun p => { p with
        cold := false, flRstN := true, boots := p.boots + 1, trip := false, hotWait := p.tripBoot, tripBoot := false })
      (wr SHP_BOOTSTAT_cold_cause 0 (atTime t s).pwr.cause
        (wr SHP_BOOTSTAT_after_trip 0 (b2n (atTime t s).pwr.tripBoot) (setStep 1 (strapsLoad (atTime t s))))))) := by
  have hheld : ¬ ((!(atTime t s).pwr.vaux) = true ∨ (!(atTime t s).pwr.cold) = true ∨ (atTime t s).pwr.hot = true) := by
    rw [hvaux, hcold, hcool]
    decide
  exact congrArg Host.Outcome.next (if_neg hheld)

/-- Start-up that a trip held goes on once K0 has cooled (R774). -/
theorem execAfterTripCooled_goesOn (hwait : s.pwr.hotWait = true) (hkeeper : pwrState s = 0)
    (hrails : rdB s SHP_BOOTSTAT_no_rails 0 = false) :
    execAfterTripCooled s = .next (tryS5 (pwrMod (fun p => { p with hotWait := false }) s)) := by
  have hgoes : ¬ ((!s.pwr.hotWait) = true ∨ pwrState s ≠ 0 ∨ rdB s SHP_BOOTSTAT_no_rails 0 = true) := by
    simp [hwait, hkeeper, hrails]
  exact congrArg Host.Outcome.next (if_neg hgoes)

/-- A clock that was not valid and is found valid outside a cold reset counts (R757). -/
theorem not_clockIgnored (hi : i < 4) (hwarm : s.pwr.cold = false) (hinvalid : clkValid s i = false) :
    ¬ (4 ≤ i ∨ s.pwr.cold = true ∨ clkValid s i = true) := by
  simp [hi, hwarm, hinvalid]

/-- A valid clock can be lost (R758). -/
theorem not_lossIgnored (hi : i < 4) (hvalid : clkValid s i = true) : ¬ (4 ≤ i ∨ (!clkValid s i) = true) := by
  simp [hi, hvalid]

/-- What asks for VAUX is not kept from its effect where VAUX is good. -/
theorem not_withoutVaux (hvaux : s.pwr.vaux = true) : ¬ (!s.pwr.vaux) = true := by simp [hvaux]

end

/-- Settles O57: each event where VAUX, the cold reset and the clocks stand as it needs. -/
theorem coldResetComplete : Obligations.ColdResetComplete := by
  refine ⟨?vauxGood, ?brownout, ?krst, ?release, ?overtemp, ?cooler, ?cooled, ?clockValid, ?clockLoss⟩
  case vauxGood =>
    intro s t v hvaux
    exact congrArg Host.Outcome.next (if_neg (ne_true_of_eq_false hvaux))
  case brownout | krst | overtemp =>
    intro s t v hvaux
    exact congrArg Host.Outcome.next (if_neg (not_withoutVaux hvaux))
  case release =>
    intro s t v hvaux hcold hcool
    exact execColdResetRelease_boots hvaux hcold hcool
  case cooler => exact fun _ => rfl
  case cooled =>
    intro s hwait hkeeper hrails
    exact execAfterTripCooled_goesOn hwait hkeeper hrails
  case clockValid =>
    intro s t i draw v u hi hwarm hinvalid
    exact congrArg Host.Outcome.next (if_neg (not_clockIgnored hi hwarm hinvalid))
  case clockLoss =>
    intro s t i v u hi hvalid
    exact congrArg Host.Outcome.next (if_neg (not_lossIgnored hi hvalid))

/-! ### Shut-down, standby, wake and trip -/

section
variable {s : State} {t : Nat}

/-- D4 ends once the records are committed, cannot be, or have had their time (R771, R773). -/
theorem not_recordsOutstanding (hdone : allCommitted s = true ∨ logMute s = true ∨ s.pwr.sdTick + 2 < curTick s) :
    ¬ (!decide (allCommitted s = true ∨ logMute s = true ∨ s.pwr.sdTick + 2 < curTick s)) = true := by
  simp [hdone]

/-- The package wakes where it stands by and no scan has been made; it waits for SYSREF where that is not valid (R769, R819). -/
theorem wakeAsk_standby {draw : Nat} (hstandby : pwrState s = 3) (hscan : rdB s SHP_STRAP_scan_used 0 = false) :
    wakeAsk t draw s = if clkValid s 0 then wakeRun t draw (cmdResult 0 s) else wr SHP_BOOTSTAT_sysref_wait 0 1 (cmdResult 0 s) := by
  have hwakes : ¬ (pwrState s ≠ 3 ∨ rdB s SHP_STRAP_scan_used 0 = true) := by simp [hstandby, hscan]
  exact if_neg hwakes

/-- What a trip notes of itself leaves the package state. -/
theorem pwrState_pwrMod (g : Pwr → Pwr) (s : State) : pwrState (pwrMod g s) = pwrState s := rfl

/-- A trip in a state with the main domain on or switching (R773, R775). -/
theorem thermalTrip_acts (hon : pwrState s ≠ 0) (hlow : pwrState s < 5) :
    thermalTrip s = wr SHP_PWRSTAT_rail_good 0 0 (endRecord 1 (stopServing (setPwr 5 (countLife 4 1 (railEnables false false
      (tripInfo (pwrMod (fun p => { p with trip := true, tripBoot := true, sdTick := curTick s }) s))))))) := by
  have hacts : ¬ (pwrState s = 0 ∨ 5 ≤ pwrState s) := by omega
  exact if_neg hacts

/-- A trip that overrides a shut-down is noted there; any other has its own record. -/
theorem tripInfo_eq (s : State) : tripInfo s = if pwrState s = 4 then wr SHP_SDINFO_trip 0 1 s else sdInfo 0 0 false true s := rfl

end

/-- Settles O59: each cause, step and request of the power control in the state it is for. -/
theorem shutDownComplete : Obligations.ShutDownComplete := by
  refine ⟨?trigger, ?asked, ?committed, ?afterTrip, ?suppliesOff, ?standby, ?wake, ?trip⟩
  case trigger =>
    intro s t cause rail fast hcause hrange hother
    have hknown : ¬ (cause = 0 ∨ 6 < cause) := by omega
    exact congrArg Host.Outcome.next ((if_neg hknown).trans (if_neg hother))
  case asked =>
    intro s t cause rail fast hcause
    have hknown : ¬ (cause = 0 ∨ 6 < cause) := by omega
    exact congrArg Host.Outcome.next ((if_neg hknown).trans (if_pos hcause))
  case committed =>
    intro s hdone hstate hstep
    exact congrArg Host.Outcome.next ((if_neg (not_recordsOutstanding hdone)).trans (if_pos ⟨hstate, hstep⟩))
  case afterTrip =>
    intro s hdone hstate hbell
    have htripped : ¬ (pwrState s = 4 ∧ rd s SHP_PWRSTAT_step 0 = 3) := by simp [hstate]
    exact congrArg Host.Outcome.next ((if_neg (not_recordsOutstanding hdone)).trans ((if_neg htripped).trans (if_pos ⟨hstate, hbell⟩)))
  case suppliesOff =>
    intro s hstate hstep
    have hends : ¬ (pwrState s ≠ 4 ∨ rd s SHP_PWRSTAT_step 0 ≠ 4) := by simp [hstate, hstep]
    exact congrArg Host.Outcome.next (if_neg hends)
  case standby =>
    intro s hstate hfree
    exact congrArg Host.Outcome.next (if_pos ⟨hstate, hfree⟩)
  case wake =>
    intro s t draw v hstandby hscan
    exact congrArg Host.Outcome.next (wakeAsk_standby hstandby hscan)
  case trip =>
    intro s t v u hon hlow
    rw [exec_thermalTrip, execThermalTrip, thermalTrip_acts hon hlow, tripInfo_eq, pwrState_pwrMod]

/-- A paddock that is not Free keeps the list of paddocks from being empty. -/
theorem pdksCreated_ne_nil {s : State} {n : Nat} (hn : n < 64) (hst : pdkState s n ≠ 0) : ¬ (pdksCreated s).isEmpty = true := by
  have hmem : n ∈ pdksCreated s := List.mem_filter.mpr ⟨List.mem_range.mpr hn, bne_iff_ne.mpr hst⟩
  intro hempty
  rw [List.isEmpty_iff.mp hempty] at hmem
  cases hmem

/-- Settles O20: a Stranded paddock is not Free, and cmd_result reads back. -/
theorem standbyNeedsEveryPaddockFree : Obligations.StandbyNeedsEveryPaddockFree := by
  intro s n hn hst
  have hrefused : ¬ (pwrState s = 2 ∧ (pdksCreated s).isEmpty = true) :=
    fun h => pdksCreated_ne_nil hn (by rw [hst]; decide) h.2
  refine ⟨wr SHP_PWRSTAT_cmd_result 0 3 s, congrArg Host.Outcome.next (if_neg hrefused), rfl, ?_⟩
  exact rd_wr_same SHP_PWRSTAT_cmd_result 0 3 (by decide) (by decide)

/-! ### The test access port -/

/-- The two states differ at most in the test access port, what leaves by TDO, and SHP_STRAP. -/
structure TapFrame (s t : State) : Prop where
  rest : ∃ o p m, t = { s with outbox := o, tap := p, regs := m }
  regs : ∀ (x : Blk) (i o : Nat), regKey x i o ≠ regKey .shp 0 SHP_STRAP_scan_used.off → rdW t x i o = rdW s x i o

section
variable {s t : State}

theorem TapFrame.refl : TapFrame s s := ⟨⟨s.outbox, s.tap, s.regs, rfl⟩, fun _ _ _ _ => rfl⟩

/-- Another instruction, other cells and another word on TDO stay within the frame. -/
theorem TapFrame.tdo (h : TapFrame s t) (p : Tap) (args : List Nat) : TapFrame s (emit .tdo args { t with tap := p }) := by
  obtain ⟨⟨o, q, m, rfl⟩, hregs⟩ := h
  exact ⟨⟨_, _, _, rfl⟩, hregs⟩

/-- A field of SHP_STRAP stays within the frame. -/
theorem tapFrame_strap (hwf : Registers.wf s = true) (f : Fld) (hblk : f.blk = .shp) (hoff : f.off = SHP_STRAP_scan_used.off) :
    TapFrame s (wr f 0 1 s) := by
  obtain ⟨m, hm⟩ := wr_ex s f 0 1
  refine ⟨⟨s.outbox, s.tap, m, hm⟩, fun x i o hk => rdW_wrW_ne _ hwf ?_⟩
  rw [hblk, hoff]
  exact hk.symm

/-- An instruction that drives lands stays within the frame, taken or executed as BYPASS, where its own effect does. -/
theorem tapFrame_tapTest (hwf : Registers.wf s = true) {k : State → State} (hk : ∀ u, TapFrame s u → TapFrame s (k u)) :
    TapFrame s (tapTest k s) := by
  unfold tapTest
  split
  · exact .refl
  · split
    · exact hk _ (tapFrame_strap hwf SHP_STRAP_scan_used rfl rfl)
    · exact (tapFrame_strap hwf SHP_STRAP_scan_refused rfl rfl).tdo _ _

end

/-- Settles O17: each instruction is a change of the port and a word on TDO, after a write of SHP_STRAP at most. -/
theorem testAccessFrame : Obligations.TestAccessFrame := by
  intro s t c on main a b hwf hc h
  suffices hframe : TapFrame s t from ⟨hframe.rest, hframe.regs⟩
  have hsame : TapFrame s s := .refl
  have hon : ∀ u, TapFrame s u → TapFrame s (if tapOn s then u else s) := fun u hu => by
    split
    · exact hu
    · exact hsame
  simp only [List.mem_cons, List.not_mem_nil, or_false] at hc
  rcases hc with rfl | rfl | rfl | rfl | rfl | rfl | rfl | rfl
  · cases h; exact hon _ (hsame.tdo _ _)
  · cases h; exact hon _ (hsame.tdo _ _)
  · cases h; exact hon _ (hsame.tdo _ _)
  · cases h; exact tapFrame_tapTest hwf fun u hu => hu.tdo _ _
  · cases h; exact tapFrame_tapTest hwf fun u hu => hu.tdo _ _
  · cases h; exact tapFrame_tapTest hwf fun u hu => hu.tdo _ _
  · cases h; exact tapFrame_tapTest hwf fun u hu => hu.tdo _ _
  · cases h; exact tapFrame_tapTest hwf fun u hu => hu.tdo _ _

section
variable {s : State} {k : State → State}

/-- The TAP runs and the package is in Keeper, Recovery or Standby: the instruction takes effect (R812). -/
theorem tapTest_allowed (hon : tapOn s = true) (hst : pwrState s = 0 ∨ pwrState s = 6 ∨ pwrState s = 3) :
    tapTest k s = k (wr SHP_STRAP_scan_used 0 1 s) := by
  have hruns : ¬ (!tapOn s) = true := by simp [hon]
  rw [tapTest, if_neg hruns, if_pos hst]

/-- In any other state it is BYPASS and is noted (R812). -/
theorem tapTest_refused (hon : tapOn s = true) (hst : ¬ (pwrState s = 0 ∨ pwrState s = 6 ∨ pwrState s = 3)) :
    tapTest k s = tapBypass 0 (wr SHP_STRAP_scan_refused 0 1 s) := by
  have hruns : ¬ (!tapOn s) = true := by simp [hon]
  rw [tapTest, if_neg hruns, if_neg hst]

/-- Without VAUX and through a cold reset nothing acts (R794). -/
theorem tapTest_off (hoff : tapOn s = false) : tapTest k s = s := by
  have hstill : (!tapOn s) = true := by simp [hoff]
  exact if_pos hstill

/-- A write of a register leaves the TAP running or not. -/
theorem tapOn_wr (f : Fld) (i v : Nat) : tapOn (wr f i v s) = tapOn s := by
  rw [tapOn, tapOn, wr_pwr]

theorem execBypass_on (hon : tapOn s = true) : execBypass s = .next (tapBypass 0 s) := congrArg Host.Outcome.next (if_pos hon)

/-- A bypassed instruction selects its own code and changes no register. -/
theorem tapBypass_selects (ir : Nat) : (tapBypass ir s).tap.ir = ir ∧ (tapBypass ir s).regs = s.regs := ⟨rfl, rfl⟩

/-- BYPASS after the note of a refused instruction. -/
theorem execBypass_refused (hon : tapOn s = true) :
    execBypass (wr SHP_STRAP_scan_refused 0 1 s) = .next (tapBypass 0 (wr SHP_STRAP_scan_refused 0 1 s)) :=
  execBypass_on ((tapOn_wr _ _ _).trans hon)

/-- None of three states is one of them. -/
theorem not_landState (hkeeper : pwrState s ≠ 0) (hrecovery : pwrState s ≠ 6) (hstandby : pwrState s ≠ 3) :
    ¬ (pwrState s = 0 ∨ pwrState s = 6 ∨ pwrState s = 3) := by simp [hkeeper, hrecovery, hstandby]

end

/-- Settles O9: the five instructions are one test of the state, which either runs them or is BYPASS with scan_refused set. -/
theorem landDriversOnlyWhereAllowed : Obligations.LandDriversOnlyWhereAllowed := by
  refine ⟨fun s on main a b hon hst => ?_, fun s on main a b hon hst => ⟨fun c hc => ?_, ?_, ?_⟩⟩
  · have hruns : ∀ k : State → State, Host.Outcome.next (tapTest k s) = (.next (k (wr SHP_STRAP_scan_used 0 1 s)) : Result) :=
      fun k => congrArg _ (tapTest_allowed hon hst)
    exact ⟨⟨_, hruns _, rfl⟩, ⟨_, hruns _, rfl⟩, ⟨_, hruns _, rfl⟩, ⟨_, hruns _, rfl⟩, ⟨_, hruns _, rfl⟩⟩
  · rw [exec_bypass, execBypass_refused hon]
    simp only [List.mem_cons, List.not_mem_nil, or_false] at hc
    rcases hc with rfl | rfl | rfl | rfl | rfl <;> exact congrArg Host.Outcome.next (tapTest_refused hon hst)
  · exact rd_wr_same SHP_STRAP_scan_refused 0 1 (by decide) (by decide)
  · exact ⟨_, execBypass_refused hon, tapBypass_selects 0⟩

/-- Settles O60: BYPASS, IDCODE and SAMPLE/PRELOAD where the TAP runs; the five others by the same test of the state; none where it does not
run. -/
theorem testAccessComplete : Obligations.TestAccessComplete := by
  refine ⟨?bypass, ?idcode, ?sample, ?extest, ?noExtest, ?clamp, ?noClamp, ?highz, ?noHighz, ?pulse, ?noPulse, ?train, ?noTrain, ?off⟩
  case bypass => exact fun s hon => execBypass_on hon
  case idcode =>
    intro s hon
    rw [exec_idcode, execIdcode, if_pos hon]
  case sample => exact fun s on main inOn inMain hon => congrArg Host.Outcome.next (if_pos hon)
  case extest | pulse | train =>
    intro s on main inOn inMain v hon hst
    exact congrArg Host.Outcome.next (tapTest_allowed hon hst)
  case clamp | highz =>
    intro s v hon hst
    exact congrArg Host.Outcome.next (tapTest_allowed hon hst)
  case noExtest | noPulse | noTrain =>
    intro s on main inOn inMain hon hkeeper hrecovery hstandby
    exact congrArg Host.Outcome.next (tapTest_refused hon (not_landState hkeeper hrecovery hstandby))
  case noClamp | noHighz =>
    intro s hon hkeeper hrecovery hstandby
    exact congrArg Host.Outcome.next (tapTest_refused hon (not_landState hkeeper hrecovery hstandby))
  case off =>
    intro s on main inOn inMain hoff c hc
    have hstill : ¬ tapOn s = true := ne_true_of_eq_false hoff
    simp only [List.mem_cons, List.not_mem_nil, or_false] at hc
    rcases hc with rfl | rfl | rfl | rfl | rfl | rfl | rfl | rfl
    · exact congrArg Host.Outcome.next (if_neg hstill)
    · exact congrArg Host.Outcome.next (if_neg hstill)
    · exact congrArg Host.Outcome.next (if_neg hstill)
    all_goals exact congrArg Host.Outcome.next (tapTest_off hoff)

end Sys2Proof.Machine
end

section
/-! PROOFS. The Fold loader (spec/15_fold.md R487-R504), epochs and watch pairs (spec/16_integrity.md R507-R525), and the Walker, Muster and
in-field repair (spec/17_ageing.md R541-R559). -/

namespace Sys2Proof.Machine

/-! ### Fold commands -/

section
variable {s : State} {n p : Nat} {ws : List FWr}

/-- A load that no reload pauses and no shift or test holds goes on (R490, R491). -/
theorem not_loadHeld (hjob : (foldGet s n).job = 2) (hreload : reloading s = false) (hshift : foldShift s n = false) :
    ¬ ((foldGet s n).job ≠ 2 ∨ reloading s = true ∨ foldShift s n = true) := by
  simp [hjob, hreload, hshift]

/-- A load without a placement strands the paddock (R37; log 123). -/
theorem execFoldLoadDone_unplaced (hjob : (foldGet s n).job = 2) (hreload : reloading s = false) (hshift : foldShift s n = false)
    (hplace : placement s n = none) : execFoldLoadDone n s = .next (strandAs n 13 s) := by
  simp only [execFoldLoadDone, if_neg (not_loadHeld hjob hreload hshift), hplace]

/-- The state after the entry section of placement p has been played in a load. -/
def loadPlayed (n p : Nat) (s : State) : State :=
  wr FLD_EVT_load_done 0 1 (showPlacement n p (goldWrite n 0 p (goldHeader n (foldMod n (fun j => { j with job := 0 })
    (playSection n ((goldStreams s n).getD p []) s).2))))

/-- A load whose section every block took ends: a standby stands by, any other paddock starts (R490, R519). -/
theorem execFoldLoadDone_played (hjob : (foldGet s n).job = 2) (hreload : reloading s = false) (hshift : foldShift s n = false)
    (hplace : placement s n = some p) (htaken : (playSection n ((goldStreams s n).getD p []) s).1 = none) :
    execFoldLoadDone n s = .next (foldShow n (if isStandby (loadPlayed n p s) n
      then pairForm n (wr PDK_STATUS_state n 6 (loadPlayed n p s)) else scheduleNext 0x21 n (loadPlayed n p s))) := by
  simp only [execFoldLoadDone, if_neg (not_loadHeld hjob hreload hshift), hplace, htaken]
  rfl

/-- The golden blocks of an image that is loaded are written while no reload runs (R490, R491). -/
theorem not_goldenHeld (himage : (foldGet s n).has = true) (hjob : (foldGet s n).job ≠ 2) (hreload : reloading s = false)
    (hopen : rdB s (FLD_PSTAT_golden_done.ix n) 0 = false) :
    ¬ ((!(foldGet s n).has) = true ∨ (foldGet s n).job = 2 ∨ reloading s = true ∨ rdB s (FLD_PSTAT_golden_done.ix n) 0 = true) := by
  simp [himage, hjob, hreload, hopen]

/-- A swap whose section every block took starts it at the next tick (R495). -/
theorem execSwapPlayDone_played (hjob : (foldGet s n).job = 5) (hshift : foldShift s n = false) (hplace : placement s n = some p)
    (htaken : (playSection n ((goldStreams s n).getD ((foldGet s n).sect * ((foldGet s n).vars + 1) + p) []) s).1 = none) :
    execSwapPlayDone n s = .next (foldShow n (bump (FLD_SWAPS_count.ix n) 0 (scheduleNext 0x21 n (showPlacement n p
      (foldMod n (fun y => { y with job := 0 })
        (playSection n ((goldStreams s n).getD ((foldGet s n).sect * ((foldGet s n).vars + 1) + p) []) s).2))))) := by
  have hplays : ¬ ((foldGet s n).job ≠ 5 ∨ foldShift s n = true) := by simp [hjob, hshift]
  simp only [execSwapPlayDone, if_neg hplays, hplace, htaken]

/-- A reload whose block stands in memory and was taken by every block restarts the paddock (R497, R504). -/
theorem execFoldReloadDone_played (hjob : (foldGet s n).job = 6) (hrepair : s.repairs.any (fun r => r.pdk == n + 1) = false)
    (hshift : foldShift s n = false) (hplace : placement s n = some p)
    (hread : goldRead (goldNeed n (rd s (FLD_PSTAT_section.ix n) 0) p s) n
      (rd (goldNeed n (rd s (FLD_PSTAT_section.ix n) 0) p s) (FLD_PSTAT_section.ix n) 0) p = some ws)
    (htaken : (playSection n ws (goldNeed n (rd s (FLD_PSTAT_section.ix n) 0) p s)).1 = none) :
    execFoldReloadDone n s = .next (foldShow n (scheduleNext 0x23 n (showPlacement n p (foldMod n (fun j => { j with job := 0 })
      (playSection n ws (goldNeed n (rd s (FLD_PSTAT_section.ix n) 0) p s)).2)))) := by
  have hplays : ¬ ((foldGet s n).job ≠ 6 ∨ s.repairs.any (fun r => r.pdk == n + 1) = true ∨ foldShift s n = true) := by
    rw [hjob, hrepair, hshift]
    decide
  simp only [execFoldReloadDone, if_neg hplays, hplace, hread, htaken]

end

/-- Settles O41: FLD_CMD of an existing paddock is taken or held; what the loader is at ends where nothing pauses it. -/
theorem foldCommandsComplete : Obligations.FoldCommandsComplete := by
  refine ⟨?load, ?doorbell, ?swap, ?verify, ?verifyDone, ?unplaced, ?loadDone, ?golden, ?swapDone, ?dropped, ?reloadDone⟩
  case load | doorbell | verify => exact fun s n hn => congrArg Host.Outcome.next (if_pos hn)
  case swap => exact fun s n k hn => congrArg Host.Outcome.next (if_pos hn)
  case verifyDone =>
    intro s n x hjob
    exact congrArg Host.Outcome.next (if_neg (not_not.mpr hjob))
  case unplaced =>
    intro s n hjob hreload hshift hplace
    exact execFoldLoadDone_unplaced hjob hreload hshift hplace
  case loadDone =>
    intro s n p r s1 hjob hreload hshift hplace htaken
    exact execFoldLoadDone_played hjob hreload hshift hplace htaken
  case golden =>
    intro s n himage hjob hreload hopen
    exact congrArg Host.Outcome.next (if_neg (not_goldenHeld himage hjob hreload hopen))
  case swapDone =>
    intro s n p r hjob hshift hplace htaken
    exact execSwapPlayDone_played hjob hshift hplace htaken
  case dropped =>
    intro s n hjob hblock hparked hlate
    have hbusy : (!parked s n) = true := by simp [hparked]
    exact congrArg Host.Outcome.next (if_pos ⟨hjob, hblock, hbusy, hlate⟩)
  case reloadDone =>
    intro s n p ws k sec v hjob hrepair hshift hplace hread htaken
    exact execFoldReloadDone_played hjob hrepair hshift hplace hread htaken

/-! ### Epochs and watch pairs -/

section
variable {s : State} {n m : Nat}

/-- Phases 1 and 2 of an epoch with a failure or an abandoning exception are quenched (R512, R516). -/
theorem not_unquenched (hn : n < 64) (hst : pdkState s n = 3) (hphase : epPhase s n = 1 ∨ epPhase s n = 2)
    (hfailed : (pdkGet s n).epFailed ≠ 0 ∨ (pdkGet s n).epAbandoned = true) :
    ¬ (64 ≤ n ∨ pdkState s n ≠ 3 ∨ (!decide (epPhase s n = 1 ∨ epPhase s n = 2)) = true ∨
      ((pdkGet s n).epFailed = 0 ∧ (!(pdkGet s n).epAbandoned) = true)) := by
  have hfails : ¬ ((pdkGet s n).epFailed = 0 ∧ (!(pdkGet s n).epAbandoned) = true) := by
    rintro ⟨hnone, hkept⟩
    rcases hfailed with hfail | habandoned
    · exact hfail hnone
    · simp [habandoned] at hkept
  exact not_or.mpr ⟨Nat.not_le.mpr hn, not_or.mpr ⟨not_not.mpr hst, not_or.mpr ⟨by simp [hphase], hfails⟩⟩⟩

/-- What Q2 to Q4 leave of paddock n: reads, FIFOs, packets, contexts, counters and uncommitted outputs of the epoch are gone, and its
submission entries are fetched again (R516). -/
def quenchCleared (n : Nat) (s : State) : State :=
  let s1 := dropWhistle n (emptyMesh n (dropReads n s))
  let s2 := (pdkPcores s1 n).foldl (fun y q => quenchConns q (emptyWhistle q y)) s1
  let s3 := reclaimPaddock n .quench (resetTally n (fun y a b => mapGet 0 y.tlyShadow (4096 * a + b)) (resetCtxs n s2))
  refetch (n + 1) (holdShow n { s3 with held := s3.held.filter (fun h => h.n != n || committedHeld s3 n h) })

/-- The drain of a quench ends with the replay scheduled, or with the epoch abandoned (R516, R517). -/
theorem execQuenchDrainEnd_ends (hn : n < 64) (hphase : epPhase s n = 3) :
    execQuenchDrainEnd n s = .next (if (pdkGet s n).epFailed ≠ 0
      then scheduleNext 0x22 n (wr PDK_EPSTAT_phase n 4 (quenchCleared n s)) else wr PDK_EPSTAT_phase n 5 (quenchCleared n s)) := by
  have hends : ¬ (64 ≤ n ∨ epPhase s n ≠ 3) := by simp [hn, hphase]
  rw [execQuenchDrainEnd, if_neg hends]
  rfl

/-- The next committed entry, a write, goes to the host path (R513). -/
theorem execDrainSend_write {h : Hold} (hnext : s.held.find? (fun y => y.n == n) = some h) (hn : n < 64)
    (hdrain : rdB s PDK_EPSTAT_drain n = true) (hcommitted : committedHeld s n h = true) (hkind : h.kind = 1) :
    execDrainSend n s = .next (drainNext n (drainWrite n h s)) := by
  have hsends : ¬ (64 ≤ n ∨ (!rdB s PDK_EPSTAT_drain n) = true ∨ (!committedHeld s n h) = true) := by simp [hn, hdrain, hcommitted]
  simp only [execDrainSend, hnext, if_neg hsends, if_pos hkind]

/-- A copy that begins to stand at its standby is not yet ready (R520). -/
theorem not_copyIdle (hn : n < 64) (hst : rd s PDK_WPSTAT_state n = 2) (hcopy : (watchGet s n).copy ≠ 0)
    (hready : (watchGet s n).ready = false) :
    ¬ (64 ≤ n ∨ rd s PDK_WPSTAT_state n ≠ 2 ∨ (watchGet s n).copy = 0 ∨ (watchGet s n).ready = true) := by
  simp [hn, hst, hcopy, hready]

/-- A local standby takes the copy with its start record (R520). -/
theorem execCopyPrepared_local (hn : n < 64) (hst : rd s PDK_WPSTAT_state n = 2) (hcopy : (watchGet s n).copy ≠ 0)
    (hready : (watchGet s n).ready = false) (hpartner : localPartner s n = some m) :
    execCopyPrepared n s = .next (watchMod m (fun w =>
        if freeBank (watchMod n (fun w => { w with ready := true }) s) m = 0
        then { w with bankOk := true, sect0 := nextSection (watchMod n (fun w => { w with ready := true }) s) n }
        else { w with bankOk := true, sect1 := nextSection (watchMod n (fun w => { w with ready := true }) s) n })
      (copyState n (bankAddr (watchMod n (fun w => { w with ready := true }) s) m (freeBank (watchMod n (fun w => { w with ready := true }) s) m))
        (watchMod n (fun w => { w with ready := true }) s))) := by
  simp only [execCopyPrepared, if_neg (not_copyIdle hn hst hcopy hready), hpartner]

/-- Of a partner on another package only the reply is seen (R520). -/
theorem execCopyPrepared_remote (hn : n < 64) (hst : rd s PDK_WPSTAT_state n = 2) (hcopy : (watchGet s n).copy ≠ 0)
    (hready : (watchGet s n).ready = false) (hpartner : localPartner s n = none) :
    execCopyPrepared n s = .next (watchMod n (fun y => { y with ready := true }) s) := by
  simp only [execCopyPrepared, if_neg (not_copyIdle hn hst hcopy hready), hpartner]

/-- A prepared copy commits (R520). -/
theorem not_unprepared (hn : n < 64) (hst : rd s PDK_WPSTAT_state n = 2) (hcopy : (watchGet s n).copy ≠ 0)
    (hready : (watchGet s n).ready = true) :
    ¬ (64 ≤ n ∨ rd s PDK_WPSTAT_state n ≠ 2 ∨ (watchGet s n).copy = 0 ∨ (!(watchGet s n).ready) = true) := by
  simp [hn, hst, hcopy, hready]

/-- A standby that may fail over does so at a trigger (R521). -/
theorem not_untriggered (hn : n < 64) (hcan : canFailover s n = true)
    (hdue : (pdkGet s n).failDue = true ∨ rdB s PDK_WPCFG_remote n = true) :
    ¬ (64 ≤ n ∨ (!canFailover s n) = true ∨ ((!(pdkGet s n).failDue) = true ∧ (!rdB s PDK_WPCFG_remote n) = true)) := by
  rcases hdue with h | h <;> simp [hn, hcan, h]

/-- A pair that is broken or has failed over is formed again (R525). -/
theorem not_paired (hn : n < 64) (hen : rdB s PDK_WPCFG_en n = true)
    (hst : rd s PDK_WPSTAT_state n = 3 ∨ rd s PDK_WPSTAT_state n = 4) :
    ¬ (64 ≤ n ∨ (!rdB s PDK_WPCFG_en n) = true ∨
      (!decide (rd s PDK_WPSTAT_state n = 3 ∨ rd s PDK_WPSTAT_state n = 4)) = true) := by
  simp [hn, hen, hst]

end

/-- Settles O42: each step of an epoch, a copy or a failover where the one before it has ended, and each command of a pair where it may act. -/
theorem epochsAndWatchPairsComplete : Obligations.EpochsAndWatchPairsComplete := by
  refine ⟨?close, ?decide, ?quench, ?regather, ?drained, ?send, ?prepared, ?preparedRemote, ?commit, ?failover, ?restored, ?failNow, ?rePair,
    ?unpair⟩
  case close =>
    intro s n hn hint hst hphase hquiet
    exact congrArg Host.Outcome.next (if_pos ⟨hn, hint, hst, hphase, hquiet⟩)
  case decide =>
    intro s n hn hst hphase hfailed habandoned hchecked
    have hkept : (!(pdkGet s n).epAbandoned) = true := by simp [habandoned]
    exact congrArg Host.Outcome.next (if_pos ⟨hn, hst, hphase, hfailed, hkept, hchecked⟩)
  case quench =>
    intro s n v hn hst hphase hfailed hfirst
    have hreplays : ¬ ((pdkGet s n).epFailed ≠ 0 ∧ (pdkGet s n).epReplay = rd s PDK_EPOCH_epoch n) := fun h => hfirst h.1 h.2
    exact congrArg Host.Outcome.next ((if_neg (not_unquenched hn hst hphase hfailed)).trans (if_neg hreplays))
  case regather =>
    intro s n hn hst hphase hfailed hreplayed
    exact congrArg Host.Outcome.next
      ((if_neg (not_unquenched hn hst hphase (.inl hfailed))).trans (if_pos ⟨hfailed, hreplayed⟩))
  case drained =>
    intro s n s1 s2 s3 s4 s5 hn hphase
    exact execQuenchDrainEnd_ends hn hphase
  case send =>
    intro s n h hnext hn hdrain hcommitted hkind
    exact execDrainSend_write hnext hn hdrain hcommitted hkind
  case prepared =>
    intro s n m v hn hst hcopy hready hpartner
    exact execCopyPrepared_local hn hst hcopy hready hpartner
  case preparedRemote =>
    intro s n hn hst hcopy hready hpartner
    exact execCopyPrepared_remote hn hst hcopy hready hpartner
  case commit =>
    intro s n s1 s2 hn hst hcopy hready
    exact congrArg Host.Outcome.next (if_neg (not_unprepared hn hst hcopy hready))
  case failover =>
    intro s n s0 s1 s2 hn hcan hdue
    exact congrArg Host.Outcome.next (if_neg (not_untriggered hn hcan hdue))
  case restored =>
    intro s n hn hfail hshift
    have hends : ¬ (64 ≤ n ∨ (watchGet s n).fail ≠ 1 ∨ foldShift s n = true) := by simp [hn, hfail, hshift]
    exact congrArg Host.Outcome.next (if_neg hends)
  case failNow =>
    intro s n hn hstandby hst
    exact congrArg Host.Outcome.next (if_pos ⟨hn, hstandby, hst⟩)
  case rePair =>
    intro s n s1 hn hen hst
    exact congrArg Host.Outcome.next (if_neg (not_paired hn hen hst))
  case unpair =>
    intro s n apart hn hst
    have hpaired : ¬ (64 ≤ n ∨ rd s PDK_WPSTAT_state n = 0) := by simp [hn, hst]
    exact congrArg Host.Outcome.next (if_neg hpaired)

end Sys2Proof.Machine
end

section
/-! PROOFS. The Walker, Muster and in-field repair (spec/17_ageing.md R541-R559), Ration (spec/18_ration.md R578-R594), the Flockbook
(spec/19_flockbook.md R605-R622) and the trace sink (spec/20_footfall.md R636-R649). -/

namespace Sys2Proof.Machine

/-! ### Walker, Muster and repair -/

section
variable {s : State} {n b : Nat}

/-- A slice with frames left reads the one its cursor comes to (R541, R542). -/
theorem execWalkerFrameRead_reads {d a : Nat} {wrap : Bool} (hd : d < 8) (hon : (walkerGet s d).on = true)
    (hleft : (walkerGet s d).left ≠ 0) (hnext : walkNext s d (walkerGet s d).at_ = some (a, wrap)) :
    execWalkerFrameRead d s = .next (walkFrame d (512 * d + a / 576) (a % 576)
      (walkerMod d (fun w => { w with at_ := a + 1, left := w.left - 1 }) (if wrap then passEnd d s else s))) := by
  have hreads : ¬ (8 ≤ d ∨ (!(walkerGet s d).on) = true ∨ (walkerGet s d).left = 0) := by simp [hd, hon, hleft]
  simp only [execWalkerFrameRead, if_neg hreads, hnext]

/-- The oldest reload due on die d is made from the golden record of its frame (R545). -/
theorem execWalkerReload_reloads {d : Nat} {ok : Bool} {y : Nat × Nat} {bs : List Nat}
    (hdue : s.wlkDue.find? (fun x => x.1 / 512 == d && !underTest s x.1) = some y) (hpdk : pcorePdk s y.1 = some n)
    (himage : (foldGet s n).has = true) (hst : pdkState s n = 3 ∨ pdkState s n = 6) (hgold : goldRecord s n y.1 y.2 = some bs) :
    execWalkerReload d ok s =
      .next (walkReload d n y.1 y.2 ok bs { s with wlkDue := listDropFirst (fun z => z == y) s.wlkDue }) := by
  have hserves : ¬ ((!(foldGet s n).has) = true ∨ (!decide (pdkState s n = 3 ∨ pdkState s n = 6)) = true) := by simp [himage, hst]
  simp only [execWalkerReload, hdue, hpdk, if_neg hserves, hgold]

/-- A round that fits its window starts where no core of its die is under test (R548). -/
theorem not_roundHeld {d : Nat} (hd : d < 8) (hfits : roundFits s d = true) (hidle : (dieCores d).any (underTest s) = false) :
    ¬ (8 ≤ d ∨ (!roundFits s d) = true ∨ (dieCores d).any (underTest s) = true) := by
  rw [hfits, hidle]
  simp [hd]

/-- The end of a core's test, passed or failed (R547, R551). -/
theorem execMusterCoreTestEnd_ends {p unit : Nat} {ok : Bool} (htest : underTest s p = true) :
    execMusterCoreTestEnd p ok unit s = .next (accFlush (if ok then testDone p s else testFails p unit s)) := by
  have hends : ¬ (!underTest s p) = true := by simp [htest]
  exact congrArg Host.Outcome.next (if_neg hends)

/-- A block that runs and has completed no slice for 64 ticks is given a forced one, once (R554). -/
theorem not_starvedIgnored (hb : b < 37) (hrun : rdB s (MST_BLK_running.ix b) 0 = true) (hstarve : 64 ≤ rd s (MST_BLK_starve.ix b) 0)
    (hfirst : rdB s (MST_BLK_forced_next.ix b) 0 = false) :
    ¬ (37 ≤ b ∨ (!rdB s (MST_BLK_running.ix b) 0) = true ∨ rd s (MST_BLK_starve.ix b) 0 < 64 ∨ rdB s (MST_BLK_forced_next.ix b) 0 = true) := by
  simp [hb, hrun, hstarve, hfirst]

/-- The pauses of a column end where a repair has come to its shift (R559). -/
theorem columnPauseEnd_shifts {y : Nat × Repair}
    (hstage : ((List.range s.repairs.length).zip s.repairs).find? (fun x => x.2.stage == 3) = some y) :
    columnPauseEnd s = repairAdvance (wr CUL_STAT_shift_busy 0 0
      (shiftColumn (pcol y.2.p) (prow y.2.p) y.2.pdk { s with repairs := listDrop s.repairs y.1 })) := by
  simp only [columnPauseEnd, hstage]

end

/-- Settles O43: each step of the Walker, a test, a slice or a repair where it is under way. -/
theorem ageingCommandsComplete : Obligations.AgeingCommandsComplete := by
  refine ⟨?frame, ?reload, ?walkEnd, ?round, ?pass, ?fail, ?sliceEnd, ?yields, ?starved, ?shift⟩
  case frame =>
    intro s d a wrap hd hon hleft hnext
    rw [exec_walkerFrameRead, execWalkerFrameRead_reads hd hon hleft hnext]
  case reload =>
    intro s d ok n y bs hdue hpdk himage hst hgold
    exact execWalkerReload_reloads hdue hpdk himage hst hgold
  case walkEnd =>
    intro s d hd hon
    have hends : ¬ (8 ≤ d ∨ (!(walkerGet s d).on) = true) := by simp [hd, hon]
    exact congrArg Host.Outcome.next (if_neg hends)
  case round =>
    intro s d hd hfits hidle
    exact congrArg Host.Outcome.next (if_neg (not_roundHeld hd hfits hidle))
  case pass | fail =>
    intro s p unit htest
    exact execMusterCoreTestEnd_ends htest
  case sliceEnd =>
    intro s b ok v hb htest
    have hends : ¬ (37 ≤ b ∨ (!blockTested s b) = true) := by simp [hb, htest]
    exact congrArg Host.Outcome.next (if_neg hends)
  case yields =>
    intro s b hb hslice
    have hyields : ¬ (37 ≤ b ∨ mapGet 0 s.mslice b ≠ 1) := by simp [hb, hslice]
    exact congrArg Host.Outcome.next (if_neg hyields)
  case starved =>
    intro s b v hb hrun hstarve hfirst
    exact congrArg Host.Outcome.next (if_neg (not_starvedIgnored hb hrun hstarve hfirst))
  case shift =>
    intro s y hstage
    exact congrArg (fun v => Host.Outcome.next (accFlush v)) (columnPauseEnd_shifts hstage)

/-! ### Ration -/

/-- Settles O44: ENERGY_SAMPLE and the three queries in every state; a flag where its value is old; a bus value by its PEC and its source; the
comparison after 64 ticks. -/
theorem rationCommandsComplete : Obligations.RationCommandsComplete := by
  refine ⟨?sample, ?grantStale, ?inletStale, ?grant, ?grantPec, ?inlet, ?inletPec, ?spent, ?bell, ?limits, ?compare⟩
  case sample => exact fun _ _ _ _ _ _ _ _ _ _ _ _ _ _ => rfl
  case grantStale =>
    intro s hold hunset
    exact congrArg Host.Outcome.next (if_pos (by simp [hold, hunset]))
  case inletStale =>
    intro s hold hunset
    exact congrArg Host.Outcome.next (if_pos (by simp [hold, hunset]))
  case grant | inlet => exact fun s v hsrc => congrArg Host.Outcome.next (if_pos hsrc)
  case grantPec | inletPec => exact fun _ _ => rfl
  case spent | bell | limits => exact fun _ => rfl
  case compare =>
    intro s a v hticks
    exact congrArg Host.Outcome.next (if_neg (Nat.not_lt.mpr hticks))

/-! ### The Flockbook -/

section
variable {s : State} {y : FbkWrite}

/-- A write that is due and not under way starts, in an open window or with the timebase Stopped (R609, R610). -/
theorem execRecordWrite_starts (hmute : logMute s = false) (hopen : s.fbk.winOpen = true ∨ belState s = belStopped)
    (hwrite : s.fbk.write = some y) (hgoing : y.going = false) :
    execRecordWrite s = .next (if y.kind = 2 ∨ y.kind = 3 then writeStart y s else ringWrite y s) := by
  have hwrites : ¬ (logMute s = true ∨ (!decide (s.fbk.winOpen = true ∨ belState s = belStopped)) = true) := by simp [hmute, hopen]
  simp only [execRecordWrite, if_neg hwrites, hwrite]
  rw [if_neg (ne_true_of_eq_false hgoing)]

/-- A write under way ends: verified, or counted as failed and tried again, the fourth time failing its bank (R610, R611, R621). -/
theorem execRecordCommit_ends {ok : Bool} (hwrite : s.fbk.write = some y) (hgoing : y.going = true) :
    execRecordCommit ok s = .next (if ok then fbkShow (latchDue (writeDone y s)) else
      let s1 := countLife 15 1 (bump FBK_WFAIL_count 0 (fbkMod (fun b => { b with failSlot := mapSet 0 b.failSlot y.bank y.slot }) s))
      let s2 := fbkMod (fun b => { b with write := some { y with attempts := y.attempts + 1, going := false } }) s1
      fbkShow (latchDue (if y.attempts + 1 < 4 then s2 else bankFails y.bank s2))) := by
  have hends : ¬ (!y.going) = true := by simp [hgoing]
  simp only [execRecordCommit, hwrite, if_neg hends]

/-- With no write in progress the window closes (R609). -/
theorem execCommitWindowEnd_closes (hnone : s.fbk.write = none) :
    execCommitWindowEnd s = .next (fbkMod (fun b => { b with winOpen := false }) s) := by
  simp only [execCommitWindowEnd, hnone]

/-- With no write in progress the slot asked for is latched at once (R623). -/
theorem execFbkRselWrite_latches {data : Word} (hnone : s.fbk.write = none) :
    execFbkRselWrite data s = .next (latchSlot (fieldGet data 16 16) (fieldGet data 15 0)
      (wr FBK_RSTAT_found 0 0 (wr FBK_RSEL_bank 0 (fieldGet data 16 16) (wr FBK_RSEL_slot 0 (fieldGet data 15 0) s)))) := by
  simp only [execFbkRselWrite, hnone]
  rfl

/-- A record with the number asked for is latched (R623). -/
theorem execFbkFind_found {data : Word} {k : Nat} (hfind : findSeq s data.toNat = some k) :
    execFbkFind data s = .next (wr FBK_RSTAT_found 0 1 (latchSlot (k / 65536) (k % 65536) s)) := by
  simp only [execFbkFind, hfind]

/-- Where no record has the number asked for, that is shown (R623; log 37). -/
theorem execFbkFind_missing {data : Word} (hfind : findSeq s data.toNat = none) :
    execFbkFind data s = .next (wr FBK_RSTAT_found 0 0 (wr FBK_RSTAT_valid 0 0 s)) := by
  simp only [execFbkFind, hfind]

end

/-- Settles O45: a write that is due starts and one under way ends; the window, the reads, the calendar and a fault act as asked. -/
theorem flockbookCommandsComplete : Obligations.FlockbookCommandsComplete := by
  refine ⟨?write, ?committed, ?failed, ?window, ?select, ?found, ?missing, ?calSet, ?calRead, ?fault⟩
  case write =>
    intro s y hmute hopen hwrite hgoing
    exact execRecordWrite_starts hmute hopen hwrite hgoing
  case committed =>
    intro s y hwrite hgoing
    exact execRecordCommit_ends hwrite hgoing
  case failed =>
    intro s y s1 s2 hwrite hgoing
    exact execRecordCommit_ends hwrite hgoing
  case window => exact fun s hnone => execCommitWindowEnd_closes hnone
  case select =>
    intro s data v hnone
    exact execFbkRselWrite_latches hnone
  case found => exact fun s data k hfind => execFbkFind_found hfind
  case missing => exact fun s data hfind => execFbkFind_missing hfind
  case calSet | fault => exact fun _ _ => rfl
  case calRead => exact fun _ => rfl

/-! ### The trace sink -/

section
variable {s : State} {c n : Nat}

/-- The next line of core c is taken into a buffer, or refused (R641, R643, R644). -/
theorem execTraceLineDeliver_delivers {ws : List Nat} (hpdk : corePdk s c = some n) (hline : lineOf s (pcore s c) n = some ws)
    (hopen : (sinkGet s n).close = 0) :
    execTraceLineDeliver c s = .next (if !sinkAccepts s n then sinkRefuses n s
      else if (sinkBuffer n s).1 then sinkLine n (pcore s c) ws (sinkServes n (sinkBuffer n s).2) else sinkRefuses n (sinkBuffer n s).2) := by
  simp only [execTraceLineDeliver, hpdk, hline, if_neg (not_not.mpr hopen)]

/-- A crook stop is complete where the slot counter stands, every line is out and the buffer is closed (R646, R647). -/
theorem execCrookStopDone_stops (hcrook : (pdkGet s n).crook = 1) (hstands : (meshGet s n).running = false ∨ (meshGet s n).held = true)
    (hlines : linesLeft s n = false) (hout : sinkOut s n = false) (hbuf : (sinkGet s n).buf = []) :
    execCrookStopDone n s = .next (raiseSource n 11 (wr FTF_PSTAT_stopped (ftfI s n) 1
      (sinkMod n (fun k => { k with flush := false }) (pdkMod n (fun x => { x with crook := 2 }) s)))) := by
  have hstill : (!(meshGet s n).running || (meshGet s n).held) = true := by
    rcases hstands with h | h <;> simp [h]
  exact congrArg Host.Outcome.next (if_pos ⟨hcrook, hstill, by simp [hlines], by simp [hout], hbuf⟩)

/-- DUMP of a paddock that exists: a dump begins where it is stopped, and is an error elsewhere (R649). -/
theorem execDump_created {sp : Bool} (hn : pdkCreated s n = true) :
    execDump n sp s = .next (if rdB s FTF_PSTAT_stopped (ftfI s n) then sinkMod n (fun k => { k with dump := if sp then 2 else 1 }) s
      else wr FTF_PSTAT_dump_err (ftfI s n) 1 s) := by
  have hexists : ¬ (!pdkCreated s n) = true := by simp [hn]
  exact congrArg Host.Outcome.next (if_neg hexists)

/-- A dump of which every page translates is done (R649). -/
theorem execDumpDone_written (hdump : (sinkGet s n).dump ≠ 0) (hn : pdkCreated s n = true)
    (hfault : rdB s FTF_PSTAT_sink_fault (ftfI s n) = false)
    (hpages : (dumpWrite n ((List.range (pdkCount s n)).flatMap (fun i => dumpPages s n i ((sinkGet s n).dump == 2))) s).1 = none) :
    execDumpDone n s = .next (wr FTF_PSTAT_dumped (ftfI s n) 1 (sinkMod n (fun k => { k with dump := 0 })
      (dumpWrite n ((List.range (pdkCount s n)).flatMap (fun i => dumpPages s n i ((sinkGet s n).dump == 2))) s).2)) := by
  have hwrites : ¬ ((sinkGet s n).dump = 0 ∨ (!pdkCreated s n) = true ∨ rdB s FTF_PSTAT_sink_fault (ftfI s n) = true) := by
    simp [hdump, hn, hfault]
  simp only [execDumpDone, if_neg hwrites, hpages]

end

/-- Settles O46: a line and the commands of a paddock that exists; a crook stop and a dump where what they wait for is out. -/
theorem traceSinkCommandsComplete : Obligations.TraceSinkCommandsComplete := by
  refine ⟨?line, ?flush, ?resume, ?stopped, ?release, ?dump, ?noDump, ?dumped⟩
  case line =>
    intro s c n ws hpdk hline hopen
    exact execTraceLineDeliver_delivers hpdk hline hopen
  case flush => exact fun s n hn => congrArg Host.Outcome.next (if_pos hn)
  case resume => exact fun s n hn hfault => congrArg Host.Outcome.next (if_pos ⟨hn, hfault⟩)
  case stopped =>
    intro s n hcrook hstands hlines hout hbuf
    exact execCrookStopDone_stops hcrook hstands hlines hout hbuf
  case release => exact fun s n hn hstopped => congrArg Host.Outcome.next (if_pos ⟨hn, hstopped⟩)
  case dump => exact fun s n sp hn hstopped => (execDump_created hn).trans (congrArg _ (if_pos hstopped))
  case noDump => exact fun s n sp hn hstopped => (execDump_created hn).trans (congrArg _ (if_neg (ne_true_of_eq_false hstopped)))
  case dumped =>
    intro s n r hdump hn hfault hpages
    exact execDumpDone_written hdump hn hfault hpages

end Sys2Proof.Machine
end

section
/-! PROOFS. The host (spec/21_host.md): submission entries (R668-R671), rings and record queues (R663-R679), functions, resets and the link
(R659-R663, R683, R684, R694, R766). -/

namespace Sys2Proof.Machine

/-! ### Submission entries -/

section
variable {s : State} {f k : Nat} {h : HEnt}

/-- A fence that every earlier entry has passed completes (R668). -/
theorem execSqFence_passed (hhead : ringHead s f k = some h) (hst : h.st = 0) (hop : entOp h = 1) (hform : malformed s h = false)
    (hreset : fnUnderReset s f = false) (hpassed : s.hostEnts.any (fun x => x.f == f && x.order < h.order && x.st != 3) = false) :
    execSqFence f k s = .next (entDone h 0 0 s) :=
  (hostStart_run hhead hst hop hform hreset).trans (congrArg Host.Outcome.next (if_neg (ne_true_of_eq_false hpassed)))

/-- A TADD whose BAR writes are acknowledged sends its add (R671). -/
theorem execTadd_sends (hhead : ringHead s f k = some h) (hst : h.st = 0) (hop : entOp h = 2) (hform : malformed s h = false)
    (hreset : fnUnderReset s f = false) (hwrites : barWritesDone s f = true) :
    execTadd f k s = .next (hostTally 0 h (entNat h 16 8) 0 s) :=
  (hostStart_run hhead hst hop hform hreset).trans (congrArg Host.Outcome.next (if_pos hwrites))

/-- A TWAIT that has one of the function's 64 host waits sends it (R669). -/
theorem execTwait_sends (hhead : ringHead s f k = some h) (hst : h.st = 0) (hop : entOp h = 3) (hform : malformed s h = false)
    (hreset : fnUnderReset s f = false) (hroom : (s.hostEnts.filter (fun x => x.f == f && x.st == 1 && entOp x == 3)).length < 64) :
    execTwait f k s = .next (hostTally 1 h (entNat h 16 8) (entByte h 24) s) :=
  (hostStart_run hhead hst hop hform hreset).trans (congrArg Host.Outcome.next (if_pos hroom))

/-- A STREAM of an unarmed context that arms without an error waits for it (R670). -/
theorem execStream_arms {g : Nat} (hhead : ringHead s f k = some h) (hst : h.st = 0) (hop : entOp h = 5) (hform : malformed s h = false)
    (hreset : fnUnderReset s f = false) (hfar : hostFar s f (entNat h 8 4) = some g) (hctx : ctxState s g = ctxUnarmed)
    (harm : crd (armCtx g (streamSet g h s)) DRV_CTXSTAT_arm_err g = 0) :
    execStream f k s = .next (entMod h (fun x => { x with st := 1 }) (armCtx g (streamSet g h s))) := by
  rw [execStream, hostStart_run hhead hst hop hform hreset]
  simp only [hfar, if_neg (not_not.mpr hctx), if_neg (not_not.mpr harm)]

/-- A FOLD asks the loader; it waits where its request is held or was taken, and is refused where the loader sets err (R669, R672). -/
theorem execFold_asks (hhead : ringHead s f k = some h) (hst : h.st = 0) (hop : entOp h = 6) (hform : malformed s h = false)
    (hreset : fnUnderReset s f = false) :
    execFold f k s = .next (
      let v := if entByte h 9 = 1 then foldAsk (entByte h 8) 1 0 s else foldAsk (entByte h 8) 2 (entByte h 10) s
      if activating s then entMod h (fun x => { x with st := 1 }) v
      else if rd v (FLD_PSTAT_err.ix (entByte h 8)) 0 ≠ 0 then entDone h 2 (rdW v .fld 0 (FLD_PSTAT_err.ix (entByte h 8)).off).toNat v
      else entMod h (fun x => { x with st := 1 }) v) := by
  rw [execFold, hostStart_run hhead hst hop hform hreset]

end

/-- Settles O47: the entry at the head starts, and what its opcode waits for has come. -/
theorem submissionEntriesComplete : Obligations.SubmissionEntriesComplete := by
  refine ⟨?nop, ?fence, ?tadd, ?twait, ?rearm, ?stream, ?fold, ?foldHeld⟩
  case nop => exact fun s f k h hhead hst hop hform hreset => hostStart_run hhead hst hop hform hreset
  case fence =>
    intro s f k h hhead hst hop hform hreset hpassed
    exact execSqFence_passed hhead hst hop hform hreset hpassed
  case tadd =>
    intro s f k h hhead hst hop hform hreset hwrites
    exact execTadd_sends hhead hst hop hform hreset hwrites
  case twait =>
    intro s f k h hhead hst hop hform hreset hroom
    exact execTwait_sends hhead hst hop hform hreset hroom
  case rearm =>
    intro s f k h hhead hst hop hform hreset hwrites
    have hgoes : ¬ (!barWritesDone s f) = true := by simp [hwrites]
    rw [exec_rearm, execRearm, hostStart_run hhead hst hop hform hreset]
    exact congrArg Host.Outcome.next (if_neg hgoes)
  case stream =>
    intro s f k h g v hhead hst hop hform hreset hfar hctx harm
    exact execStream_arms hhead hst hop hform hreset hfar hctx harm
  case fold =>
    intro s f k h v hhead hst hop hform hreset hact
    exact (execFold_asks hhead hst hop hform hreset).trans (congrArg Host.Outcome.next (if_neg (ne_true_of_eq_false hact)))
  case foldHeld =>
    intro s f k h v hhead hst hop hform hreset hact
    exact (execFold_asks hhead hst hop hform hreset).trans (congrArg Host.Outcome.next (if_pos hact))

/-! ### Rings and record queues -/

section
variable {s : State} {f k t : Nat} {ws : List Nat}

/-- A stage buffer is asked for again by a ring that waits for one (R667). -/
theorem execStageGetRetry_waits (hf : f < 65) (hk : k < 8) (hwait : rdB s (HST_RSTAT_stage_wait.ix2 f k) 0 = true) :
    execStageGetRetry f k ws s = .next (if !canFetch s f k then wr (HST_RSTAT_stage_wait.ix2 f k) 0 0 s
      else fetchEntry f k ws (bump (HST_STGWAIT_count.ix f) 0 s)) := by
  have hretries : ¬ (65 ≤ f ∨ 8 ≤ k ∨ (!rdB s (HST_RSTAT_stage_wait.ix2 f k) 0) = true) := by simp [hf, hk, hwait]
  exact congrArg Host.Outcome.next (if_neg hretries)

/-- Outside integrity mode a finished head is posted where its completion ring has a place, and leaves (R672, R673). -/
theorem execCompletionPost_posts {h : HEnt} {status res : Nat} (hhead : ringHead s f k = some h)
    (hdone : hostPoll s h = some (status, res)) (hreset : fnUnderReset s f = false) (hplain : f = 0 ∨ integrityOf s (f - 1) = false)
    (hplace : cqFree s f k = true) (hnowait : (hringGet (atTime t s) f k).since = 0) :
    execCompletionPost f k t s = .next (ringShow f k (entGone h
      (postCompletion f k (entTag h) status (entOp h) res 0 0 (atTime t s)))) := by
  have hposts : ¬ (f ≠ 0 ∧ integrityOf s (f - 1) = true) := by
    rintro ⟨hvf, hint⟩
    rcases hplain with h0 | hno
    · exact hvf h0
    · simp [hno] at hint
  simp only [execCompletionPost, hhead, hdone, if_neg (ne_true_of_eq_false hreset), if_neg hposts, if_pos hplace, if_pos hnowait]

/-- The oldest staged fault record is posted where its queue has a place (R676). -/
theorem execFaultRecordPost_posts {r : List Nat} {d j b : Nat} {rest : List (List Nat × Nat × Nat × Nat)}
    (hstaged : (fnGet s f).staged = (r, d, j, b) :: rest) (hplace : rqFree s f 2 = true) (hreset : fnUnderReset s f = false) :
    execFaultRecordPost f s = .next (setHeldCount f (stageHeld f 65
      (bufferBack [d, j, b] (postFault f r (fnMod f (fun x => { x with staged := rest }) s))))) := by
  have hfree : ¬ (!rqFree s f 2) = true := by simp [hplace]
  simp only [execFaultRecordPost, hstaged, if_neg (ne_true_of_eq_false hreset), if_neg hfree]

/-- The oldest event record is posted where the queue has a place (R677, R678). -/
theorem execEventRecordPost_posts {r : List Nat} {rest : List (List Nat)} (hevents : s.pfEvents = r :: rest)
    (hplace : rqFree s 0 3 = true) (hreset : fnUnderReset s 0 = false) :
    execEventRecordPost s = .next (
      let v := postEvent r { s with pfEvents := rest }
      setHeldCount 0 (if v.pfLost ≠ 0 then { v with pfEvents := v.pfEvents ++ [[0x01, 10, v.pfLost]], pfLost := 0 } else v)) := by
  have hposts : ¬ ((!rqFree s 0 3) = true ∨ fnUnderReset s 0 = true) := by simp [hplace, hreset]
  simp only [execEventRecordPost, if_neg hposts, hevents]

end

/-- Settles O48: what names a ring of a function acts on it, a finished head and the oldest records are posted where there is a place. -/
theorem hostRingsComplete : Obligations.HostRingsComplete := by
  refine ⟨?configure, ?submission, ?head, ?fetch, ?retry, ?stopped, ?completion, ?fault, ?event⟩
  case configure =>
    intro s f kind k data hf hkind hk
    have hnames : ¬ (65 ≤ f ∨ 4 ≤ kind ∨ 8 ≤ k) := by omega
    exact congrArg Host.Outcome.next (if_neg hnames)
  case submission =>
    intro s f k t hf hk
    have hnames : ¬ (65 ≤ f ∨ 8 ≤ k) := by omega
    exact congrArg Host.Outcome.next (if_neg hnames)
  case head =>
    intro s f kind k h hf hlow hkind hk
    have hnames : ¬ (65 ≤ f ∨ kind = 0 ∨ 4 ≤ kind ∨ 8 ≤ k) := by omega
    exact congrArg Host.Outcome.next (if_neg hnames)
  case fetch =>
    intro s f k ws hf hk hnowait
    have hfetches : ¬ (65 ≤ f ∨ 8 ≤ k ∨ rdB s (HST_RSTAT_stage_wait.ix2 f k) 0 = true) := by simp [hf, hk, hnowait]
    exact congrArg Host.Outcome.next (if_neg hfetches)
  case retry =>
    intro s f k ws hf hk hwait hcan
    have hgoes : ¬ (!canFetch s f k) = true := by simp [hcan]
    exact (execStageGetRetry_waits hf hk hwait).trans (congrArg _ (if_neg hgoes))
  case stopped =>
    intro s f k ws hf hk hwait hcan
    have hstops : (!canFetch s f k) = true := by simp [hcan]
    exact (execStageGetRetry_waits hf hk hwait).trans (congrArg _ (if_pos hstops))
  case completion =>
    intro s f k t h status res v hhead hdone hreset hplain hplace hnowait
    exact execCompletionPost_posts hhead hdone hreset hplain hplace hnowait
  case fault =>
    intro s f r d j b rest hstaged hplace hreset
    exact execFaultRecordPost_posts hstaged hplace hreset
  case event =>
    intro s r rest v hevents hplace hreset
    exact execEventRecordPost_posts hevents hplace hreset

/-! ### Functions and the link -/

section
variable {s : State} {t speed width w f : Nat}

/-- Training in a powered host domain at a speed and a width of the link brings it up (R659, R766). -/
theorem not_untrained (hdown : rd s HST_LINK_state 0 = 4) (hmain : mainOn s = true) (hperst : s.pwr.perst = false)
    (hclock : natBit (rd s SHP_CLKSTAT_valid 0) 1 = true) (hlow : speed ≠ 0) (hhigh : speed ≤ 6)
    (hwidth : [1, 2, 4, 8, 16].contains width = true) :
    ¬ (rd s HST_LINK_state 0 ≠ 4 ∨ (!mainOn s) = true ∨ s.pwr.perst = true ∨ (!natBit (rd s SHP_CLKSTAT_valid 0) 1) = true ∨ speed = 0 ∨
      6 < speed ∨ (!([1, 2, 4, 8, 16].contains width)) = true) := by
  rw [hdown, hmain, hperst, hclock, hwidth]
  simp [hlow, hhigh]

/-- In flit mode the partner changes the width in use to one no larger than was negotiated (R660). -/
theorem not_widthKept (hup : rd s HST_LINK_state 0 < 2) (hfits : w ≤ rd s HST_LINK_width 0) (hflit : rdB s HST_LINK_flit 0 = true)
    (hwidth : [1, 2, 4, 8, 16].contains w = true) :
    ¬ (2 ≤ rd s HST_LINK_state 0 ∨ rd s HST_LINK_width 0 < w ∨ (!rdB s HST_LINK_flit 0) = true ∨
      (!([1, 2, 4, 8, 16].contains w)) = true) := by
  rw [hflit, hwidth]
  simp [hup, hfits]

/-- A configuration request of a function that exists is answered once H0 is ready (R659, R662). -/
theorem execConfigRequest_answered {tag o be : Nat} {wrt : Bool} {data : Word} (hup : rd (atTime t s) HST_LINK_state 0 ≠ 4)
    (hready : cfgReady t (atTime t s) = true) (hf : fnExists (atTime t s) f = true) :
    execConfigRequest t f tag wrt o be data s = .next (if wrt
      then emit .cplData [f, tag, 0] (cfgWrite f (o / 4 * 4 % 4096) be (data.toNat % 2 ^ 32) (atTime t s))
      else emit .cplData [f, tag, 0, cfgRead (atTime t s) f (o / 4 * 4 % 4096) % 2 ^ 32] (atTime t s)) := by
  have hgoes : ¬ (!cfgReady t (atTime t s)) = true := by simp [hready]
  have hexists : ¬ (!fnExists (atTime t s) f) = true := by simp [hf]
  rw [execConfigRequest, if_neg hup, if_neg hgoes, if_neg hexists]

end

/-- Settles O49: each event of a function that exists, and of the link in the state it is for. -/
theorem functionsAndLinkComplete : Obligations.FunctionsAndLinkComplete := by
  refine ⟨?sleep, ?wake, ?vfReset, ?pfReset, ?down, ?up, ?width, ?perst, ?perstOff, ?config⟩
  case sleep => exact fun s f hf => congrArg Host.Outcome.next (if_pos hf)
  case wake => exact fun s f hf hd3 => congrArg Host.Outcome.next (if_pos ⟨hf, hd3⟩)
  case vfReset => exact fun s n hn => congrArg Host.Outcome.next (if_pos hn)
  case pfReset => exact fun s hfirst => congrArg Host.Outcome.next (if_neg (ne_true_of_eq_false hfirst))
  case down | perst | perstOff => exact fun _ => rfl
  case up =>
    intro s t speed width flit v hdown hmain hperst hclock hlow hhigh hwidth
    exact congrArg Host.Outcome.next (if_neg (not_untrained hdown hmain hperst hclock hlow hhigh hwidth))
  case width =>
    intro s w hup hfits hflit hwidth
    exact congrArg Host.Outcome.next (if_neg (not_widthKept hup hfits hflit hwidth))
  case config =>
    intro s t f tag wrt o be data v hup hready hf
    exact execConfigRequest_answered hup hready hf

end Sys2Proof.Machine
end

section
/-! PROOFS. Longtrack (spec/22_longtrack.md): ports, paths, pauses and PTP (R697, R701-R703, R714, R718), and routes (R703-R709, R715, R719,
R720). -/

namespace Sys2Proof.Machine

/-! ### Ports, paths, pauses and PTP -/

section
variable {s : State} {q j t : Nat}

/-- A port that may come up, and is not up, does (R697). -/
theorem not_portStays (hq : q < 8) (hdown : portUp s q = false) (hadmin : rdB s LTK_PCFG_admin_up q = true) (hmain : mainOn s = true)
    (hclock : natBit (rd s SHP_CLKSTAT_valid 0) 2 = true) :
    ¬ (8 ≤ q ∨ portUp s q = true ∨ (!rdB s LTK_PCFG_admin_up q) = true ∨ (!mainOn s) = true ∨
      (!natBit (rd s SHP_CLKSTAT_valid 0) 2) = true) := by
  rw [hdown, hadmin, hmain, hclock]
  simp [hq]

/-- A KEEPALIVE is due on a valid path of a port that is up 100 us after the last (R702). -/
theorem not_keepaliveEarly (hj : j < 256) (hvalid : pt LTK_PATH0_valid s j ≠ 0) (hup : portUp s (j / 32) = true)
    (hmain : mainOn s = true) (hdue : (lpathGet s j).sent = 0 ∨ (lpathGet s j).sent + 10000 ≤ t + 1) :
    ¬ (256 ≤ j ∨ pt LTK_PATH0_valid s j = 0 ∨ (!portUp s (j / 32)) = true ∨ (!mainOn s) = true ∨
      ((lpathGet s j).sent ≠ 0 ∧ t + 1 < (lpathGet s j).sent + 10000)) := by
  have hlast : ¬ ((lpathGet s j).sent ≠ 0 ∧ t + 1 < (lpathGet s j).sent + 10000) := by omega
  exact not_or.mpr ⟨Nat.not_le.mpr hj, not_or.mpr ⟨hvalid, not_or.mpr ⟨by simp [hup], not_or.mpr ⟨by simp [hmain], hlast⟩⟩⟩⟩

/-- A frame on a port that is up is judged (R703). -/
theorem not_portDeaf (hq : q < 8) (hup : portUp s q = true) : ¬ (8 ≤ q ∨ (!portUp s q) = true) := by
  simp [hq, hup]

/-- A PFC frame on a port that is up and takes them pauses (R701). -/
theorem not_pauseIgnored (hq : q < 8) (hup : portUp s q = true) (hpfc : rdB s LTK_PCFG_pfc_en q = true) :
    ¬ (8 ≤ q ∨ (!portUp s q) = true ∨ (!rdB s LTK_PCFG_pfc_en q) = true) := by
  simp [hq, hup, hpfc]

/-- A Sync comes to an engine that runs, over its port (R714). -/
theorem not_syncIgnored (hen : rdB s LTK_PTPCFG_en 0 = true) (hup : portUp s (rd s BEL_CFG_ptp_port 0) = true) :
    ¬ ((!rdB s LTK_PTPCFG_en 0) = true ∨ (!portUp s (rd s BEL_CFG_ptp_port 0)) = true) := by
  simp [hen, hup]

end

/-- Settles O50: each event of a port that stands as it needs, the paths it concerns, and a Sync by its offset. -/
theorem longtrackPortsAndPathsComplete : Obligations.LongtrackPortsAndPathsComplete := by
  refine ⟨?up, ?down, ?send, ?take, ?dies, ?drop, ?pause, ?farSync, ?sync, ?noSync⟩
  case up =>
    intro s q hq hdown hadmin hmain hclock
    exact congrArg Host.Outcome.next (if_neg (not_portStays hq hdown hadmin hmain hclock))
  case down => exact fun s q hq => congrArg Host.Outcome.next (if_pos hq)
  case send =>
    intro s j t v hj hvalid hup hmain hdue
    exact congrArg Host.Outcome.next (if_neg (not_keepaliveEarly hj hvalid hup hmain hdue))
  case take =>
    intro s q t hi lo pkg v hq hup
    exact congrArg Host.Outcome.next (if_neg (not_portDeaf hq hup))
  case dies =>
    intro s j t v hj halive hsilent
    exact congrArg Host.Outcome.next (if_pos ⟨hj, halive, hsilent⟩)
  case drop => exact fun s q hq hup => congrArg Host.Outcome.next (if_pos ⟨hq, hup⟩)
  case pause =>
    intro s q t vec quanta v u hq hup hpfc
    exact congrArg Host.Outcome.next (if_neg (not_pauseIgnored hq hup hpfc))
  case farSync =>
    intro s t ofs v hen hup hfar
    exact congrArg Host.Outcome.next ((if_neg (not_syncIgnored hen hup)).trans (if_pos hfar))
  case sync =>
    intro s t ofs v good hen hup hnear
    exact congrArg Host.Outcome.next ((if_neg (not_syncIgnored hen hup)).trans (if_neg hnear))
  case noSync => exact fun s hen => congrArg Host.Outcome.next (if_pos hen)

/-! ### Routes -/

section
variable {s : State} {q r t : Nat} {hi lo pkg : Word}

/-- An accepted frame is not dropped. -/
theorem not_frameDropped (haccept : frameAccepted s q r hi lo pkg = true) : ¬ (!frameAccepted s q r hi lo pkg) = true := by
  simp [haccept]

/-- What a DATA frame of route r with number sq comes to, v being the state its ack value leaves (R703, R704): in sequence it waits for the
stream before it, is held by a shut gate or is applied; a duplicate is answered again; what is ahead of sequence is discarded. -/
def dataArrives (s v : State) (r op sq : Nat) (body data : List Nat) : State :=
  if sq % 2 ^ 32 = rt LTK_ROUTE3_rx_expect s r then
    if ltkBusy v r then v
    else if !(pdkGet v (rt LTK_ROUTE0_paddock s r)).gateOpen ∧ pdkCreated v (rt LTK_ROUTE0_paddock s r) ∧
        2 ≤ pdkState v (rt LTK_ROUTE0_paddock s r) then ltkAnswer r 2 0 0 1 v
    else ltkApply (rt LTK_ROUTE0_paddock s r) r op body (data.map (· % 256)) v
  else if seq32Below (sq % 2 ^ 32) (rt LTK_ROUTE3_rx_expect s r) then ltkAnswer r 2 0 0 0 v
  else v

/-- An accepted DATA frame acknowledges and arrives. -/
theorem execData_accepted {op sq ack : Nat} {body data : List Nat} (hq : q < 8) (hup : portUp s q = true)
    (haccept : frameAccepted s q r hi lo pkg = true) :
    execData q hi lo pkg r op sq ack body data s =
      .next (dataArrives s (ackRoute r ack (bump LTK_RXF_count q s)) r op sq body data) :=
  congrArg Host.Outcome.next ((if_neg (not_portDeaf hq hup)).trans (if_neg (not_frameDropped haccept)))

section
variable {v : State} {op sq : Nat} {body data : List Nat}

theorem dataArrives_busy (hseq : sq % 2 ^ 32 = rt LTK_ROUTE3_rx_expect s r) (hbusy : ltkBusy v r = true) :
    dataArrives s v r op sq body data = v := (if_pos hseq).trans (if_pos hbusy)

theorem dataArrives_held (hseq : sq % 2 ^ 32 = rt LTK_ROUTE3_rx_expect s r) (hfree : ltkBusy v r = false)
    (hgate : (pdkGet v (rt LTK_ROUTE0_paddock s r)).gateOpen = false) (hpdk : pdkCreated v (rt LTK_ROUTE0_paddock s r) = true)
    (hst : 2 ≤ pdkState v (rt LTK_ROUTE0_paddock s r)) : dataArrives s v r op sq body data = ltkAnswer r 2 0 0 1 v := by
  have hshut : (!(pdkGet v (rt LTK_ROUTE0_paddock s r)).gateOpen) = true := by simp [hgate]
  exact (if_pos hseq).trans ((if_neg (ne_true_of_eq_false hfree)).trans (if_pos ⟨hshut, hpdk, hst⟩))

theorem dataArrives_applied (hseq : sq % 2 ^ 32 = rt LTK_ROUTE3_rx_expect s r) (hfree : ltkBusy v r = false)
    (hgate : (pdkGet v (rt LTK_ROUTE0_paddock s r)).gateOpen = true ∨ pdkCreated v (rt LTK_ROUTE0_paddock s r) = false ∨
      pdkState v (rt LTK_ROUTE0_paddock s r) < 2) :
    dataArrives s v r op sq body data = ltkApply (rt LTK_ROUTE0_paddock s r) r op body (data.map (· % 256)) v := by
  have hpasses : ¬ ((!(pdkGet v (rt LTK_ROUTE0_paddock s r)).gateOpen) = true ∧ pdkCreated v (rt LTK_ROUTE0_paddock s r) = true ∧
      2 ≤ pdkState v (rt LTK_ROUTE0_paddock s r)) := by
    rintro ⟨hshut, hpdk, hst⟩
    rcases hgate with hopen | hnone | hearly
    · simp [hopen] at hshut
    · simp [hnone] at hpdk
    · omega
  exact (if_pos hseq).trans ((if_neg (ne_true_of_eq_false hfree)).trans (if_neg hpasses))

theorem dataArrives_duplicate (hseq : sq % 2 ^ 32 ≠ rt LTK_ROUTE3_rx_expect s r)
    (hbelow : seq32Below (sq % 2 ^ 32) (rt LTK_ROUTE3_rx_expect s r) = true) :
    dataArrives s v r op sq body data = ltkAnswer r 2 0 0 0 v := (if_neg hseq).trans (if_pos hbelow)

theorem dataArrives_ahead (hseq : sq % 2 ^ 32 ≠ rt LTK_ROUTE3_rx_expect s r)
    (hbelow : seq32Below (sq % 2 ^ 32) (rt LTK_ROUTE3_rx_expect s r) = false) :
    dataArrives s v r op sq body data = v := (if_neg hseq).trans (if_neg (ne_true_of_eq_false hbelow))

end

/-- An accepted ACK retires packets and restarts the route's timer (R704, R719). -/
theorem execAck_accepted {ack : Nat} {hold : Bool} (hq : q < 8) (hup : portUp (atTime t s) q = true)
    (haccept : frameAccepted (atTime t s) q r hi lo pkg = true) :
    execAck q t hi lo pkg r ack hold s =
      .next (ackRoute r ack (routeAnswered r t (bump LTK_RXF_count q (atTime t s)))) :=
  congrArg Host.Outcome.next ((if_neg (not_portDeaf hq hup)).trans (if_neg (not_frameDropped haccept)))

/-- An accepted REFUSE ends the packet it names (R704, R707). -/
theorem execRefuse_accepted {sq status ack : Nat} {k : LPkt} (hq : q < 8) (hup : portUp (atTime t s) q = true)
    (haccept : frameAccepted (atTime t s) q r hi lo pkg = true)
    (hpkt : (routeAnswered r t (bump LTK_RXF_count q (atTime t s))).ltkQ.find? (fun k => k.route == r && k.first != 0 && k.seq == sq) = some k) :
    execRefuse q t hi lo pkg r sq status ack s = .next (
      let u := routeAnswered r t (bump LTK_RXF_count q (atTime t s))
      ackRoute r ack (routeShow r (pktRefused k (status % 8)
        { u with ltkQ := u.ltkQ.filter (fun x => !(x.route == r && x.first != 0 && x.seq == sq)) }))) := by
  simp only [execRefuse, if_neg (not_portDeaf hq hup), if_neg (not_frameDropped haccept), hpkt]

/-- A packet that has not been sent is sent where nothing hinders it (R704). -/
theorem execRetransmit_first {i : Nat} {k : LPkt} (hpkt : (atTime t s).ltkQ[i]? = some k) (hunsent : k.first = 0) :
    execRetransmit i t s = .next (routePump k.route 64 (atTime t s)) := by
  simp only [execRetransmit, hpkt, if_pos hunsent]

/-- A packet whose wait is over is resent on its path (R704). -/
theorem execRetransmit_again {i : Nat} {k : LPkt} (hpkt : (atTime t s).ltkQ[i]? = some k) (hsent : k.first ≠ 0)
    (hwaited : k.last + rd (atTime t s) LTK_GCFG_rto_us 0 * 100 ≤ t + 1) (hpaused : portPaused (atTime t s) (k.path / 32) = false)
    (hroute : routeUp (atTime t s) k.route = true) (hmain : mainOn (atTime t s) = true) (hpath : pathAlive (atTime t s) k.path = true) :
    execRetransmit i t s = .next (resendOn k k.path (atTime t s)) := by
  have hresends : ¬ (t + 1 < k.last + rd (atTime t s) LTK_GCFG_rto_us 0 * 100 ∨ portPaused (atTime t s) (k.path / 32) = true ∨
      (!routeUp (atTime t s) k.route) = true ∨ (!mainOn (atTime t s)) = true) :=
    not_or.mpr ⟨Nat.not_lt.mpr hwaited, not_or.mpr ⟨ne_true_of_eq_false hpaused,
      not_or.mpr ⟨by rw [hroute]; decide, by rw [hmain]; decide⟩⟩⟩
  simp only [execRetransmit, hpkt, if_neg hsent, if_neg hresends, if_pos hpath]

/-- A route whose oldest packet has had no answer for its time dies (R708). -/
theorem execRouteTimeout_dies {k : LPkt} (hr : r < 2048) (hvalid : rt LTK_ROUTE0_valid (atTime t s) r ≠ 0)
    (halive : rt LTK_ROUTE0_dead (atTime t s) r ≠ 1) (hpkt : routeOldest (atTime t s) r = some k)
    (hlate : Nat.max k.first ((lrouteGet (atTime t s) r).ans + 1) + rd (atTime t s) LTK_GCFG_route_to_us 0 * 100 ≤ t + 1)
    (hpaused : portPaused (atTime t s) (k.path / 32) = false) :
    execRouteTimeout r t s = .next (routeDies r true (atTime t s)) := by
  have hlives : ¬ (2048 ≤ r ∨ rt LTK_ROUTE0_valid (atTime t s) r = 0 ∨ rt LTK_ROUTE0_dead (atTime t s) r = 1) := by
    simp [hr, hvalid, halive]
  have hruns : (!portPaused (atTime t s) (k.path / 32)) = true := by simp [hpaused]
  simp only [execRouteTimeout, if_neg hlives, hpkt, if_pos (And.intro hlate hruns)]

end

/-- Settles O51: an accepted DATA frame by its number, the stream before it and its paddock's gate; accepted answers; the timers of a packet and
of a route; word 0. -/
theorem longtrackRoutesComplete : Obligations.LongtrackRoutesComplete := by
  refine ⟨?applied, ?busy, ?held, ?duplicate, ?ahead, ?ack, ?refuse, ?first, ?again, ?timeout, ?word0⟩
  case applied =>
    intro s q hi lo pkg r op sq ack body data v hq hup haccept hseq hfree hgate
    exact (execData_accepted hq hup haccept).trans (congrArg _ (dataArrives_applied hseq hfree hgate))
  case busy =>
    intro s q hi lo pkg r op sq ack body data v hq hup haccept hseq hbusy
    exact (execData_accepted hq hup haccept).trans (congrArg _ (dataArrives_busy hseq hbusy))
  case held =>
    intro s q hi lo pkg r op sq ack body data v hq hup haccept hseq hfree hgate hpdk hst
    exact (execData_accepted hq hup haccept).trans (congrArg _ (dataArrives_held hseq hfree hgate hpdk hst))
  case duplicate =>
    intro s q hi lo pkg r op sq ack body data v hq hup haccept hseq hbelow
    exact (execData_accepted hq hup haccept).trans (congrArg _ (dataArrives_duplicate hseq hbelow))
  case ahead =>
    intro s q hi lo pkg r op sq ack body data v hq hup haccept hseq hbelow
    exact (execData_accepted hq hup haccept).trans (congrArg _ (dataArrives_ahead hseq hbelow))
  case ack =>
    intro s q t hi lo pkg r ack hold v hq hup haccept
    exact execAck_accepted (hold := hold) hq hup haccept
  case refuse =>
    intro s q t hi lo pkg r sq status ack k v u hq hup haccept hpkt
    exact execRefuse_accepted hq hup haccept hpkt
  case first =>
    intro s i t k v hpkt hunsent
    exact execRetransmit_first hpkt hunsent
  case again =>
    intro s i t k v hpkt hsent hwaited hpaused hroute hmain hpath
    exact execRetransmit_again hpkt hsent hwaited hpaused hroute hmain hpath
  case timeout =>
    intro s r t k v hr hvalid halive hpkt hlate hpaused
    exact execRouteTimeout_dies hr hvalid halive hpkt hlate hpaused
  case word0 => exact fun s r data hr => congrArg Host.Outcome.next (if_pos hr)

end Sys2Proof.Machine
end
